-- ==== Sys2Proof/Word.lean ====
section
/-! DEFINITION. Word.lean: the word and byte types of the device (R7, R43). -/

namespace Sys2Proof

/-- A general register's 64 bits (R43). -/
abbrev Word := BitVec 64

/-- One byte of memory or of a frame (R7). -/
abbrev Byte := BitVec 8

end Sys2Proof
end

