-- ==== Sys2Proof/Syntax.lean ====
section
/-! DEFINITION. Syntax.lean: the commands of the device, one constructor for each row of the table of
operations and events, with the operands that the row's encoding or event carries. -/

namespace Sys2Proof

/-- Who executes an instruction of the Uarra set (Table 2.1): one engine thread, the Triad's three
voted cores in step (R362), one Triad core in split operation (R378), or one Tally core. -/
inductive Agent where
  | thread (t : Fin 512)
  | triad
  | triadCore (i : Fin 3)
  | tally (c : Fin 4)
  deriving DecidableEq, Repr

/-- Who reads or writes a register of the internal map outside an instruction: the Triad's cores together, one of its cores in split
operation (R378), a Tally core, or the host through BAR0 (Table 1.5). -/
inductive Reader where
  | triad
  | triadCore (i : Fin 3)
  | tally (c : Fin 4)
  | host
  deriving DecidableEq, Repr

/-- The register fields and guard of a word of format A (Table 2.2). -/
structure FmtA where
  d : BitVec 6
  a : BitVec 6
  b : BitVec 6
  g : BitVec 3
  deriving DecidableEq, Repr

/-- The fields of a word of format I or M (Table 2.2): imm is imm10 or the byte offset. -/
structure FmtI where
  d : BitVec 6
  a : BitVec 6
  imm : BitVec 10
  g : BitVec 3
  deriving DecidableEq, Repr

/-- The fields of a word of format L (Table 2.2). -/
structure FmtL where
  d : BitVec 6
  imm : BitVec 16
  g : BitVec 3
  deriving DecidableEq, Repr

/-- The fields of a word of format B (Table 2.2): sense, predicate, displacement in words. -/
structure FmtB where
  t : Bool
  p : BitVec 3
  disp : BitVec 21
  deriving DecidableEq, Repr

/-- The fields of an X instruction (Table 2.2): word 1's registers and guard, and word 2. -/
structure FmtX where
  d : BitVec 6
  a : BitVec 6
  b : BitVec 6
  g : BitVec 3
  desc : BitVec 32
  deriving DecidableEq, Repr

/-- What the PHY and the PCS of a port report with a received frame (R322, R340): a received error symbol or a misaligned end, and the FEC
blocks corrected and not correctable; and, of a frame received in fragments, how long before its last bit the first bit behind its start
frame delimiter came, in ps (R304). -/
structure RxLine where
  errored : Bool
  corrected : BitVec 16
  uncorrected : BitVec 16
  elapsed : Option (BitVec 40) := none
  deriving DecidableEq, Repr

/-- What MACsec in Face found on a received frame (R330): no protection; verified by an association with a packet
number; or a failed verification. -/
inductive SecMark where
  | clear
  | verified (sa : Fin 512) (pn : BitVec 64)
  | failed
  deriving DecidableEq, Repr

/-- The two copies of the voter (R371): bit k of a copy is set where a physical fault makes it answer pattern k of the self-test with an
outcome other than that of Table 12.2. -/
structure Voter where
  a : BitVec 8
  b : BitVec 8
  deriving DecidableEq, Repr

/-- A voter without a fault. -/
def Voter.sound : Voter := { a := 0#8, b := 0#8 }

/-- Format of a CAN frame. -/
inductive CanFmt where
  | classical
  | fd
  | xl
  deriving DecidableEq, Repr

/-- A CAN frame: identifier (priority identifier for XL), flags and payload; SDT, VCID and AF are XL's. -/
structure CanMsg where
  fmt : CanFmt
  ide : Bool
  id : Nat
  rtr : Bool
  brs : Bool
  esi : Bool
  sec : Bool
  rrs : Bool
  sdt : Nat
  vcid : Nat
  af : Nat
  payload : List Byte
  deriving DecidableEq, Repr

/-- A change of the state delta (Table 13.6). -/
inductive DeltaRec where
  | entrySet (table width key data : Nat)
  | entryRemove (table width key : Nat)
  | connSet (key word : Nat)
  | connRemove (key : Nat)
  | gen (func value : Nat)
  | freeze (partner : Nat)
  | thaw (partner : Nat)
  deriving DecidableEq, Repr

/-- The seal of a delta (Table 13.7). -/
structure Seal where
  tick : Nat
  renew : Bool
  lag : Bool
  records : Nat
  bytes : Nat
  check : Nat
  deriving DecidableEq, Repr

/-- A chunk of a delta or of a bulk transfer, with the seal when it is the last of a delta. -/
structure Chunk where
  index : Nat
  last : Bool
  recs : List DeltaRec
  sealed : Option Seal
  deriving DecidableEq, Repr


/-- A BEAT on receipt (Table 13.2): the sender's SIDE, tick count, lease length, YIELD_ON_LOSS, TAKE_ON_EXPIRY, ROLE and
COMMIT_DIGEST, and the boundary skew in ns that the exchange measures. -/
structure Beat where
  side : Bool
  tick : BitVec 64
  leaseLen : Fin 32
  yieldOnLoss : Bool
  takeOnExpiry : Bool
  role : Fin 5
  digest : BitVec 32
  skew : BitVec 16
  deriving DecidableEq, Repr

/-- The commands of the device, one constructor per row of the table of operations and events.  An operand with a default
says what an event reports beside its plain course; the default is the plain course. -/
inductive Instr where
  /-- ADD (R51). Register add: w[d] := w[a] + w[b] modulo 2^64. -/
  | add (who : Agent) (f : FmtA)
  /-- SUB (R51). Register subtract: w[d] := w[a] - w[b] modulo 2^64. -/
  | sub (who : Agent) (f : FmtA)
  /-- MUL (R51). Low 64 bits of the product of w[a] and w[b]. -/
  | mul (who : Agent) (f : FmtA)
  /-- MULHU (R51). High 64 bits of the unsigned 128-bit product of w[a] and w[b]. -/
  | mulhu (who : Agent) (f : FmtA)
  /-- MIN (R51). Signed minimum of w[a] and w[b]. -/
  | min (who : Agent) (f : FmtA)
  /-- MAX (R51). Signed maximum of w[a] and w[b]. -/
  | max (who : Agent) (f : FmtA)
  /-- MINU (R51). Unsigned minimum of w[a] and w[b]. -/
  | minu (who : Agent) (f : FmtA)
  /-- MAXU (R51). Unsigned maximum of w[a] and w[b]. -/
  | maxu (who : Agent) (f : FmtA)
  /-- AND (R51). Bitwise AND of w[a] and w[b]. -/
  | and (who : Agent) (f : FmtA)
  /-- OR (R51). Bitwise OR of w[a] and w[b]. -/
  | or (who : Agent) (f : FmtA)
  /-- XOR (R51). Bitwise XOR of w[a] and w[b]. -/
  | xor (who : Agent) (f : FmtA)
  /-- ANDN (R51). w[a] AND the complement of w[b]. -/
  | andn (who : Agent) (f : FmtA)
  /-- ORN (R51). w[a] OR the complement of w[b]. -/
  | orn (who : Agent) (f : FmtA)
  /-- XNOR (R51). Complement of w[a] XOR w[b]. -/
  | xnor (who : Agent) (f : FmtA)
  /-- SLL (R51). Shift w[a] left by w[b][5:0]. -/
  | sll (who : Agent) (f : FmtA)
  /-- SRL (R51). Logical right shift of w[a] by w[b][5:0]. -/
  | srl (who : Agent) (f : FmtA)
  /-- SRA (R51). Arithmetic right shift of w[a] by w[b][5:0]. -/
  | sra (who : Agent) (f : FmtA)
  /-- ROL (R51). Rotate w[a] left by w[b][5:0]. -/
  | rol (who : Agent) (f : FmtA)
  /-- ROR (R51). Rotate w[a] right by w[b][5:0]. -/
  | ror (who : Agent) (f : FmtA)
  /-- CLZ (R51). Leading zero count of w[a], 64 for zero. -/
  | clz (who : Agent) (f : FmtA)
  /-- CTZ (R51). Trailing zero count of w[a], 64 for zero. -/
  | ctz (who : Agent) (f : FmtA)
  /-- POPC (R51). Count of one bits in w[a]. -/
  | popc (who : Agent) (f : FmtA)
  /-- BSWAP (R51). Reverse the eight bytes of w[a]. -/
  | bswap (who : Agent) (f : FmtA)
  /-- BSWAP32 (R51). Reverse the bytes of w[a][31:0], zero-extended. -/
  | bswap32 (who : Agent) (f : FmtA)
  /-- BSWAP16 (R51). Reverse the bytes of w[a][15:0], zero-extended. -/
  | bswap16 (who : Agent) (f : FmtA)
  /-- CMPEQ (R47). Compare equal, writing a predicate and its complement. -/
  | cmpeq (who : Agent) (f : FmtA)
  /-- CMPNE (R47). Compare not equal into a predicate pair. -/
  | cmpne (who : Agent) (f : FmtA)
  /-- CMPLT (R47). Signed less-than compare into a predicate pair. -/
  | cmplt (who : Agent) (f : FmtA)
  /-- CMPLTU (R47). Unsigned less-than compare into a predicate pair. -/
  | cmpltu (who : Agent) (f : FmtA)
  /-- CMPLE (R47). Signed less-or-equal compare into a predicate pair. -/
  | cmple (who : Agent) (f : FmtA)
  /-- CMPLEU (R47). Unsigned less-or-equal compare into a predicate pair. -/
  | cmpleu (who : Agent) (f : FmtA)
  /-- TSTZ (R47). Test (w[a] & w[b]) = 0 into a predicate pair. -/
  | tstz (who : Agent) (f : FmtA)
  /-- TSTNZ (R47). Test (w[a] & w[b]) <> 0 into a predicate pair. -/
  | tstnz (who : Agent) (f : FmtA)
  /-- SEL (R51). Select w[a] or w[b] by the predicate fn names. -/
  | sel (who : Agent) (n : BitVec 3) (f : FmtA)
  /-- PAND (R51). Predicate AND. -/
  | pand (who : Agent) (f : FmtA)
  /-- POR (R51). Predicate OR. -/
  | por (who : Agent) (f : FmtA)
  /-- PXOR (R51). Predicate XOR. -/
  | pxor (who : Agent) (f : FmtA)
  /-- PANDN (R51). Predicate AND NOT. -/
  | pandn (who : Agent) (f : FmtA)
  /-- PTOW (R51). Copy predicates p7 to p0 into a register. -/
  | ptow (who : Agent) (f : FmtA)
  /-- WTOP (R51). Copy register bits 1 to 7 into predicates p1 to p7. -/
  | wtop (who : Agent) (f : FmtA)
  /-- DIVU (R52). Unsigned division over 36 cycles on Uarra-S. -/
  | divu (who : Agent) (f : FmtA)
  /-- REMU (R52). Unsigned remainder over 36 cycles on Uarra-S. -/
  | remu (who : Agent) (f : FmtA)
  /-- DIVS (R52). Signed division rounding toward zero on Uarra-S. -/
  | divs (who : Agent) (f : FmtA)
  /-- REMS (R52). Signed remainder with the dividend's sign on Uarra-S. -/
  | rems (who : Agent) (f : FmtA)
  /-- ADDI (R53). Add a sign-extended 10-bit immediate. -/
  | addi (who : Agent) (f : FmtI)
  /-- ANDI (R53). AND with a zero-extended immediate. -/
  | andi (who : Agent) (f : FmtI)
  /-- ORI (R53). OR with a zero-extended immediate. -/
  | ori (who : Agent) (f : FmtI)
  /-- XORI (R53). XOR with a zero-extended immediate. -/
  | xori (who : Agent) (f : FmtI)
  /-- SLLI (R53). Shift left by an immediate. -/
  | slli (who : Agent) (f : FmtI)
  /-- SRLI (R53). Logical right shift by an immediate. -/
  | srli (who : Agent) (f : FmtI)
  /-- SRAI (R53). Arithmetic right shift by an immediate. -/
  | srai (who : Agent) (f : FmtI)
  /-- MOV (R53). Copy w[a] to w[d]. -/
  | mov (who : Agent) (f : FmtI)
  /-- EXTU (R54). Extract an unsigned bit field of 1 to 16 bits. -/
  | extu (who : Agent) (f : FmtI)
  /-- EXTS (R54). Extract a signed bit field of 1 to 16 bits. -/
  | exts (who : Agent) (f : FmtI)
  /-- INS (R54). Insert the low bits of w[a] into a bit field of w[d]. -/
  | ins (who : Agent) (f : FmtI)
  /-- CMPEQI (R53). Compare equal with an immediate into a predicate pair. -/
  | cmpeqi (who : Agent) (f : FmtI)
  /-- CMPLTI (R53). Signed less-than with an immediate into a predicate pair. -/
  | cmplti (who : Agent) (f : FmtI)
  /-- CMPLTUI (R53). Unsigned less-than with an immediate into a predicate pair. -/
  | cmpltui (who : Agent) (f : FmtI)
  /-- TSTI (R53). Test bits against an immediate into a predicate pair. -/
  | tsti (who : Agent) (f : FmtI)
  /-- LI (R55). Load a sign-extended 16-bit constant. -/
  | li (who : Agent) (f : FmtL)
  /-- LIZ (R55). Load a zero-extended 16-bit constant. -/
  | liz (who : Agent) (f : FmtL)
  /-- MK16 (R55). Replace bits 31 to 16 of w[d]. -/
  | mk16 (who : Agent) (f : FmtL)
  /-- MK32 (R55). Replace bits 47 to 32 of w[d]. -/
  | mk32 (who : Agent) (f : FmtL)
  /-- MK48 (R55). Replace bits 63 to 48 of w[d]. -/
  | mk48 (who : Agent) (f : FmtL)
  /-- LD8U (R56). Load one byte zero-extended. -/
  | ld8u (who : Agent) (f : FmtI)
  /-- LD16U (R56). Load two bytes zero-extended. -/
  | ld16u (who : Agent) (f : FmtI)
  /-- LD32U (R56). Load four bytes zero-extended. -/
  | ld32u (who : Agent) (f : FmtI)
  /-- LD64 (R56). Load eight bytes. -/
  | ld64 (who : Agent) (f : FmtI)
  /-- LD8S (R56). Load one byte sign-extended. -/
  | ld8s (who : Agent) (f : FmtI)
  /-- LD16S (R56). Load two bytes sign-extended. -/
  | ld16s (who : Agent) (f : FmtI)
  /-- LD32S (R56). Load four bytes sign-extended. -/
  | ld32s (who : Agent) (f : FmtI)
  /-- ST8 (R56). Store one byte. -/
  | st8 (who : Agent) (f : FmtI)
  /-- ST16 (R56). Store two bytes. -/
  | st16 (who : Agent) (f : FmtI)
  /-- ST32 (R56). Store four bytes. -/
  | st32 (who : Agent) (f : FmtI)
  /-- ST64 (R56). Store eight bytes. -/
  | st64 (who : Agent) (f : FmtI)
  /-- LDK (R57). Load eight bytes from the stamped bank's constant segment. -/
  | ldk (who : Agent) (f : FmtI)
  /-- AMOADD (R59). Indivisible fetch-and-add on an internal address. -/
  | amoadd (who : Agent) (fn : BitVec 4) (f : FmtA)
  /-- BR (R62). Conditional forward or relative branch on a predicate. -/
  | br (who : Agent) (f : FmtB)
  /-- CALL (R63). Conditional call pushing or writing the return address. -/
  | call (who : Agent) (f : FmtB)
  /-- RET (R63). Guarded return to the popped or linked address. -/
  | ret (who : Agent) (fn : BitVec 4) (f : FmtA)
  /-- LOOP (R64). Set up a counted loop on the loop stack. -/
  | loop (who : Agent) (f : FmtI)
  /-- LOOPR (R64). Set up a register-counted loop capped at 2^d. -/
  | loopr (who : Agent) (f : FmtI)
  /-- JR (R62). Jump to the address in w[a] on Uarra-S. -/
  | jr (who : Agent) (f : FmtA)
  /-- CALLR (R62). Call the address in w[a], linking in w63. -/
  | callr (who : Agent) (f : FmtA)
  /-- CSRR (R73). Read a CSR into w[d]. -/
  | csrr (who : Agent) (f : FmtI)
  /-- CSRW (R73). Write w[a] into a CSR. -/
  | csrw (who : Agent) (f : FmtI)
  /-- CSRS (R73). Set CSR bits and return the old value. -/
  | csrs (who : Agent) (f : FmtI)
  /-- CSRC (R73). Clear CSR bits and return the old value. -/
  | csrc (who : Agent) (f : FmtI)
  /-- TRAP (R66). Raise a service trap to Supervisor or Vault level. -/
  | trap (who : Agent) (f : FmtI)
  /-- TRET (R76). Return from the current trap level. -/
  | tret (who : Agent) (f : FmtI)
  /-- WFI (R65). Stop issuing until an interrupt is pending. -/
  | wfi (who : Agent) (f : FmtI)
  /-- FENCE (R60). Wait until every posted internal-map access is acknowledged. -/
  | fence (who : Agent) (f : FmtI)
  /-- WFI_RESUME (R66). A core waiting in WFI resumes when an interrupt becomes pending. -/
  | wfiResume (who : Agent)
  /-- INTERRUPT_TAKE (R77). Between instructions the core takes a pending enabled interrupt. -/
  | interruptTake (who : Agent)
  /-- FRD (R94). Read frame bytes from the window or the stored frame. -/
  | frd (who : Agent) (n : BitVec 3) (f : FmtX)
  /-- FWR (R94). Write frame bytes in the window or the stored frame. -/
  | fwr (who : Agent) (n : BitVec 3) (f : FmtX)
  /-- FWR_BUFFER (R229). Write bytes into an allocated buffer chain. -/
  | fwrBuffer (who : Agent) (n : BitVec 3) (f : FmtX)
  /-- XTR (R92). Extract a bit field of the header window. -/
  | xtr (who : Agent) (f : FmtX)
  /-- CSUM (R92). Ones' complement sum over window bytes. -/
  | csum (who : Agent) (f : FmtX)
  /-- TSTAMP_SHORT (R95). Read the short time of a time base. -/
  | tstampShort (who : Agent) (n : BitVec 2) (f : FmtX)
  /-- TSTAMP_SECONDS (R95). Read the seconds of a time base. -/
  | tstampSeconds (who : Agent) (n : BitVec 2) (f : FmtX)
  /-- TSTAMP_MARK (R95). Mark the frame for an egress time stamp with a cookie. -/
  | tstampMark (who : Agent) (n : BitVec 2) (f : FmtX)
  /-- LKP_EXACT (R172). Exact-match lookup of a key, setting the hit bit. -/
  | lkpExact (who : Agent) (f : FmtX)
  /-- LKP_LPM (R187). Longest-prefix match lookup in a routing domain. -/
  | lkpLpm (who : Agent) (f : FmtX)
  /-- LRN (R176). Learn a key, replacing, inserting, relocating or evicting. -/
  | lrn (who : Agent) (f : FmtX)
  /-- DEL (R178). Remove a learned key from a table. -/
  | del (who : Agent) (f : FmtX)
  /-- CON_LOOKUP (R214). Look up a connection without changing it. -/
  | conLookup (who : Agent) (f : FmtX)
  /-- CON_OPEN (R214). Open a connection or update an existing one. -/
  | conOpen (who : Agent) (f : FmtX)
  /-- CON_UPDATE (R214). Advance a connection's state with event bits. -/
  | conUpdate (who : Agent) (f : FmtX)
  /-- CON_CLOSE (R214). Remove a connection. -/
  | conClose (who : Agent) (f : FmtX)
  /-- ALLOC (R233). Allocate a chain of 1 to 64 cells from a pool. -/
  | alloc (who : Agent) (f : FmtX)
  /-- SHARE (R236). Add holds to a chain and name its last owner. -/
  | share (who : Agent) (f : FmtX)
  /-- RELEASE (R236). Drop one hold on a chain. -/
  | release (who : Agent) (f : FmtX)
  /-- FREE (R236). Free a chain as its named last owner. -/
  | free (who : Agent) (f : FmtX)
  /-- METER (R274). Colour a frame with an ingress policer and stream gate. -/
  | meter (who : Agent) (f : FmtX)
  /-- VERDICT_CONFIRM (R103). Confirm or withdraw a standing speculative enqueue. -/
  | verdictConfirm (who : Agent) (f : FmtX)
  /-- VERDICT_WITHDRAW (R103). Withdraw a standing speculation. -/
  | verdictWithdraw (who : Agent) (f : FmtX)
  /-- ENQ (R104). Terminal enqueue of the frame on a queue. -/
  | enq (who : Agent) (f : FmtX)
  /-- ENQ_BUF (R106). Enqueue a thread-built buffer chain without ending the pass. -/
  | enqBuf (who : Agent) (f : FmtX)
  /-- MCAST (R242). Hand the frame to the replication unit for a group. -/
  | mcast (who : Agent) (f : FmtX)
  /-- DROP (R104). Discard the frame and count its reason. -/
  | drop (who : Agent) (f : FmtX)
  /-- PUNT (R104). Deliver the frame to a host queue pair or the Triad punt ring. -/
  | punt (who : Agent) (f : FmtX)
  /-- RECIRC (R122). Send the frame for another pass with carry words. -/
  | recirc (who : Agent) (f : FmtX)
  /-- DONE (R104). End a pass whose speculation was confirmed. -/
  | done (who : Agent) (f : FmtX)
  /-- STAGE (R108). Stage an object into the open commit group, loader checks included. -/
  | stage (who : Agent) (f : FmtX)
  /-- COMMIT (R14). Close the open group and run prepare on every target. -/
  | commit (who : Agent) (f : FmtX)
  /-- ABORT_COMMIT (R18). Cancel a committed group before its boundary. -/
  | abortCommit (who : Agent) (f : FmtX)
  /-- ABORT_GROUP (R109). Discard the open commit group. -/
  | abortGroup (who : Agent) (f : FmtX)
  /-- THAW_MASTER (R417). Unfreeze a master, or send RESTART for 0x200. -/
  | thawMaster (who : Agent) (f : FmtX)
  /-- THAW_PARTNER (R348). Unfreeze a partner. -/
  | thawPartner (who : Agent) (f : FmtX)
  /-- GATELIST (R276). Stage a gate list for a port node. -/
  | gatelist (who : Agent) (f : FmtX)
  /-- SHAPER (R271). Stage shaper settings for a node. -/
  | shaper (who : Agent) (f : FmtX)
  /-- EPOCH (R110). Stage a rule set and return its epoch number. -/
  | epoch (who : Agent) (f : FmtX)
  /-- BANK (R125). Stage a program bank switch. -/
  | bank (who : Agent) (f : FmtX)
  /-- LEASE_TAKE (R388). Stage a lease order to take the lease. -/
  | leaseTake (who : Agent) (f : FmtX)
  /-- LEASE_JOIN (R388). Stage a lease order to join as Follow. -/
  | leaseJoin (who : Agent) (f : FmtX)
  /-- LEASE_FORCE (R388). Stage a lease order to force Lead with the peer lost. -/
  | leaseForce (who : Agent) (f : FmtX)
  /-- LEASE_RELEASE (R388). Stage a lease release order. -/
  | leaseRelease (who : Agent) (f : FmtX)
  /-- KLOAD_ROOT (R467). Load the ROOT slot into WKR. -/
  | kloadRoot (who : Agent) (f : FmtX)
  /-- KLOAD_FALLBACK (R467). Load a fallback slot in the clear. -/
  | kloadFallback (who : Agent) (f : FmtX)
  /-- KLOAD_OTP_WRITE (R461). Write an OTP key slot in two phases. -/
  | kloadOtpWrite (who : Agent) (f : FmtX) (vbatA : Bool) (vbatB : Bool) (good : Bool) (cut : Option Bool := none)
  /-- KLOAD_LIFECYCLE (R462). Move the lifecycle forward. -/
  | kloadLifecycle (who : Agent) (f : FmtX) (vbat : Bool)
  /-- KLOAD_CLEAR (R465). Invalidate a key handle and stale its descendants. -/
  | kloadClear (who : Agent) (f : FmtX)
  /-- KDERIVE (R468). Derive a child key with SP 800-108 HMAC-SHA-512. -/
  | kderive (who : Agent) (f : FmtX)
  /-- KWRAP_WRAP (R469). Wrap a key or memory with AES key wrap. -/
  | kwrapWrap (who : Agent) (f : FmtX)
  /-- KWRAP_UNWRAP (R469). Unwrap a key into the derived store or the IDK. -/
  | kwrapUnwrap (who : Agent) (f : FmtX)
  /-- KSIGN (R470). Accept an RSA-PSS signing request. -/
  | ksign (who : Agent) (f : FmtX)
  /-- KVERIFY (R470). Accept an RSA-PSS verification request. -/
  | kverify (who : Agent) (f : FmtX)
  /-- KSIGN_COMPLETE (R470). Signing completes; STATUS written; VAULT_DONE raised. -/
  | ksignComplete
  /-- KVERIFY_COMPLETE (R470). Verification completes; STATUS written; VAULT_DONE raised. -/
  | kverifyComplete
  /-- BENCH_TICK_BOUNDARY (R34). At each boundary the device runs steps 1 to 7 in order. -/
  | benchTickBoundary
  /-- LEASE_EXPIRY (R390). The Follow's lease expires L ticks after the last renewal. -/
  | leaseExpiry
  /-- LEAD_YIELD (R390). The Lead yields when acknowledgements are missing too long. -/
  | leadYield
  /-- TAKE_TIMEOUT (R389). A TAKE with no GRANT by the next boundary fails. -/
  | takeTimeout
  /-- FRAME_RECEIVE (R126). A frame arrives and Screen runs its stages up to numbering. -/
  | frameReceive (node : Fin 56) (bytes : List Byte) (line : RxLine) (sec : SecMark) (plca : Byte)
  /-- HALT_FRAME_RECEIVE (R287). A recognised halt frame drives STOP_OUT and fans out. -/
  | haltFrameReceive (node : Fin 56) (bytes : List Byte) (sec : SecMark := .clear) (plca : Byte := 0xFF#8)
  /-- SEQUENCE_ASSIGN (R153). A frame takes its sequence number and is probed. -/
  | sequenceAssign (src : Fin 64)
  /-- DISPATCH (R155). The dispatcher stamps the bank and starts a pass on a free thread. -/
  | dispatch (group : Fin 8)
  /-- RECIRC_REENTRY (R122). A recirculated pass re-enters Screen and its reserved thread. -/
  | recircReentry (t : Fin 512)
  /-- WAIT_DROP (R156). A frame undispatched after P/2 is dropped. -/
  | waitDrop (src : Fin 64)
  /-- PACKET_TICK_OVERRUN (R39). A packet unfinished one tick after ingress is dropped. -/
  | packetTickOverrun (t : Fin 512)
  /-- TRIAD_TICK_OVERRUN (R40). An unfinished Triad tick program raises TICK_OVERRUN and coasting. -/
  | triadTickOverrun
  /-- REORDER_GAP (R160). A frame ready for one tick is released, skipping gaps. -/
  | reorderGap (src : Fin 64)
  /-- HAUL_DECISION (R266). A port requests and the walk engine picks its next frame. -/
  | haulDecision (node : Fin 64)
  /-- FRAME_TX_END (R237). A frame's last byte leaves and its hold is released. -/
  | frameTxEnd (node : Fin 64)
  /-- SPEC_TAIL_POINT (R204). An unconfirmed speculative tail point withdraws and stomps. -/
  | specTailPoint (node : Fin 64)
  /-- STOMP_ECC (R207). An uncorrectable cell read stomps a transmission. -/
  | stompEcc (node : Fin 64)
  /-- HEAD_STORE_MATCH (R226). The bank matcher pairs pending cells with banks in a cell time. -/
  | headStoreMatch
  /-- SPILL_CELL (R230). A spill mover copies a cell to its home. -/
  | spillCell (mover : Fin 4)
  /-- HOPPER_REFILL_BURST (R232). A refill burst moves 64 handles into a pool cache. -/
  | hopperRefillBurst (pool : Fin 32)
  /-- HOPPER_DRAIN_BURST (R232). A drain burst moves 64 handles to the ring. -/
  | hopperDrainBurst (pool : Fin 32)
  /-- SPOIL_RETRY (R243). A spoil entry is enqueued when its queue becomes ready. -/
  | spoilRetry (node : Fin 64)
  /-- SPOIL_EXPIRE (R243). A spoil entry expires at its deadline tick. -/
  | spoilExpire (node : Fin 64)
  /-- HOLD_WATCH_CHANGE (R241). A watched link change moves a hold queue between states. -/
  | holdWatchChange (pin : Fin 32) (level : Bool)
  /-- HOLD_EXPIRED (R241). Holding frames older than HOLD_LIFE_S are dropped. -/
  | holdExpired (queue : Fin 524288)
  /-- PAUSE_FLUSH (R246). A class paused over 16 ticks is flushed. -/
  | pauseFlush (node : Fin 64) (cls : Fin 8)
  /-- PFC_RECEIVE (R245). A PFC frame pauses or resumes a class. -/
  | pfcReceive (lane : Fin 8) (cls : Fin 8) (quanta : BitVec 16)
  /-- PFC_PAUSE_EXPIRE (R245). A PFC pause time runs out. -/
  | pfcPauseExpire (lane : Fin 8) (cls : Fin 8)
  /-- PFC_REPEAT (R247). PFC is repeated while the pool stays above XON. -/
  | pfcRepeat (lane : Fin 8) (cls : Fin 8)
  /-- FABRIC_CELL_SEND (R251). A lane sends a DATA cell on a credited virtual channel. -/
  | fabricCellSend (lane : Fin 8)
  /-- CREDIT_CELL_SEND (R252). A receiver sends credit for each channel at least every 64 cells. -/
  | creditCellSend (lane : Fin 8)
  /-- FABRIC_CELL_RECEIVE (R253). A fabric cell is checked, reassembled and credited. -/
  | fabricCellReceive (lane : Fin 8) (cell : List Byte)
  /-- AGE_SWEEP_PASS (R188). A table's sweep pass begins and inverts its parity. -/
  | ageSweepPass (table : Fin 256)
  /-- AGE_SWEEP_VISIT (R188). The sweeper visits a bucket and ages its entries. -/
  | ageSweepVisit (table : Fin 256) (ovf : Bool) (index : Fin 4194304)
  /-- RELOCATION_DRAIN (R180). After two drains a relocated entry's old copy is cleared. -/
  | relocationDrain (dram : Bool)
  /-- NORMALISE (R184). Slots tagged by an applied or aborted commit are normalised. -/
  | normalise (tag : Fin 16)
  /-- CONN_SWEEP_VISIT (R215). The connection sweeper ages and expires a connection. -/
  | connSweepVisit (conn : Fin 4194304)
  /-- CONN_CLEAR_FREE (R217). Places of cleared connections are freed. -/
  | connClearFree
  /-- EPOCH_SCRUB (R199). Verdict entries of a retired epoch are cleared. -/
  | epochScrub
  /-- GATE_CHANGE (R277). A gate list entry takes effect at its instant. -/
  | gateChange (node : Fin 56)
  /-- GATE_LIST_TAKEOVER (R278). A pending gate list takes over at S. -/
  | gateListTakeover (node : Fin 56)
  /-- STREAM_GATE_CHANGE (R275). A stream gate entry takes effect. -/
  | streamGateChange (gate : Fin 256)
  /-- SLEW_COMPLETE (R301). A slew adds its remainder and ends. -/
  | slewComplete (tb : Fin 4)
  /-- PPS_IN_EDGE (R312). A PPS input edge is captured against a base. -/
  | ppsInEdge (pin : Fin 2) (level : Bool)
  /-- PPS_OUT_EDGE (R313). A PPS output rises at its scheduled instant. -/
  | ppsOutEdge (pin : Fin 4)
  /-- PPS_OUT_FALL (R313). A PPS output falls WIDTH_NS after rising. -/
  | ppsOutFall (pin : Fin 4)
  /-- PHY_LINK_OK (R321). A PHY reports link OK and the up hold starts. -/
  | phyLinkOk (node : Fin 56) (speed : Fin 9) (leader : Bool) (eee : Bool) (fec : Fin 5)
  /-- PORT_NODE_UP (R321). The port node comes up after UP_HOLD_MS of stable link. -/
  | portNodeUp (node : Fin 56)
  /-- PHY_LINK_LOSS (R321). Loss of link takes the port node down. -/
  | phyLinkLoss (node : Fin 56) (cut : List Byte := [])
  /-- PREEMPT_VERIFY_DONE (R281). Preemption verification succeeds and preemption becomes active. -/
  | preemptVerifyDone (node : Fin 32)
  /-- PLCA_BEACON_LOST (R325). PLCA becomes inactive after four cycles without beacon. -/
  | plcaBeaconLost (seg : Fin 16)
  /-- PLCA_BEACON_RX (R325). A beacon makes PLCA active again. -/
  | plcaBeaconRx (seg : Fin 16) (collisions : BitVec 16 := 0#16)
  /-- TEMP_SAMPLE (R333). Quadrant sensors are sampled and recalibrations requested. -/
  | tempSample (t0 : Byte) (t1 : Byte) (t2 : Byte) (t3 : Byte)
  /-- RECAL_START (R333). An idle calibration engine starts a waiting recalibration. -/
  | recalStart
  /-- RECAL_DONE (R333). A recalibration completes and updates CAL_TEMP. -/
  | recalDone (node : Fin 56)
  /-- CABLE_TEST_START (R336). A calibration engine starts a waiting cable test. -/
  | cableTestStart
  /-- CABLE_RESULT (R336). A cable test completes and posts its result. -/
  | cableResult (node : Fin 48) (result : Fin 6) (dist : BitVec 16)
  /-- SQI_MEASURE (R335). A front end measures its SNR margin every millisecond. -/
  | sqiMeasure (node : Fin 56) (margin : BitVec 16)
  /-- TC10_PARTNER_ACK (R337). The partner acknowledges sleep and the port sleeps. -/
  | tc10PartnerAck (node : Fin 32)
  /-- TC10_SLEEP_TIMEOUT (R337). No acknowledgement within 16 ms returns the port to ACTIVE. -/
  | tc10SleepTimeout (node : Fin 32)
  /-- TC10_PARTNER_REFUSE (R337). The partner refuses sleep. -/
  | tc10PartnerRefuse (node : Fin 32)
  /-- TC10_PARTNER_SLEEP_REQ (R337). A partner sleep request is accepted or refused. -/
  | tc10PartnerSleepReq (node : Fin 32)
  /-- TC10_WAKE_PULSE_RX (R338). A wake-up pulse wakes a sleeping port. -/
  | tc10WakePulseRx (node : Fin 32)
  /-- TC10_WAKE_REQUEST_RX (R338). A wake-up request is received and may be forwarded. -/
  | tc10WakeRequestRx (node : Fin 32)
  /-- TXD_TIMEOUT (R328). A dominant timeout releases the bus and posts BUS_FAULT. -/
  | txdTimeout (ch : Fin 24) (on : Bool := true)
  /-- THERMAL_SHUTDOWN (R328). Transceiver overtemperature releases the bus. -/
  | thermalShutdown (ch : Fin 24) (on : Bool := true)
  /-- BUS_SHORT (R328). A detected bus short releases the bus. -/
  | busShort (ch : Fin 24) (ground : Bool := false) (on : Bool := true)
  /-- BUS_WAKE_PATTERN (R328). A CAN or LIN wake in Standby sets WAKE_SEEN. -/
  | busWakePattern (ch : Fin 24)
  /-- CAN_FRAME_RECEIVE (R351). A CAN frame is Spall-forwarded or built into a Relay frame. -/
  | canFrameReceive (ch : Fin 16) (msg : CanMsg) (back : BitVec 32)
  /-- LIN_RESPONSE_RECEIVE (R351). A subscribed LIN response is forwarded or built into a frame. -/
  | linResponseReceive (ch : Fin 8) (id : Fin 64) (bytes : List Byte) (good : Bool) (back : BitVec 32)
  /-- RELAY_EGRESS (R352). A node 57 frame is parsed into CAN and LIN messages. -/
  | relayEgress
  /-- CAN_TX_EXPIRE (R353). A buffered CAN frame is discarded after TX_LIFE_MS. -/
  | canTxExpire (ch : Fin 16)
  /-- CAN_TX_COMPLETE (R353). A buffered CAN frame wins arbitration and is sent. -/
  | canTxComplete (ch : Fin 16)
  /-- CAN_ERROR_PASSIVE (R350). A controller enters error passive. -/
  | canErrorPassive (ch : Fin 16) (tec : Byte) (rxc : Byte)
  /-- CAN_BUS_OFF (R350). A controller goes bus-off and may start recovery. -/
  | canBusOff (ch : Fin 16)
  /-- CAN_BUS_OFF_RECOVERED (R350). Bus-off recovery completes. -/
  | canBusOffRecovered (ch : Fin 16)
  /-- LIN_SCHEDULE_SLOT (R354). A commander's slot starts and sends a header. -/
  | linScheduleSlot (ch : Fin 8)
  /-- LIN_HEADER_RECEIVE (R354). A responder answers a header from its buffer. -/
  | linHeaderReceive (ch : Fin 8) (id : Fin 64)
  /-- SPALL_LOAD (R356). The Spall set is read, verified and applied in Waking. -/
  | spallLoad (img : List Byte) (good : Bool)
  /-- VOTE_WINDOW_EXPIRE (R365). A missing copy after 16 cycles counts as differing. -/
  | voteWindowExpire (core : Fin 3) (voter : Voter := .sound)
  /-- HASH_COMPARE (R368). Core state hashes are compared at the hash point. -/
  | hashCompare (voter : Voter := .sound)
  /-- CORE_RELOAD (R369). An excluded core is reloaded from a voting core. -/
  | coreReload (core : Fin 3)
  /-- REJOIN_FAIL (R370). A core not rejoined by the 64th boundary stays excluded. -/
  | rejoinFail (core : Fin 3)
  /-- DELAY_ECC_SCRUB (R363). Stagger delay registers are scrubbed once per tick. -/
  | delayEccScrub (single : BitVec 32) (double : Bool)
  /-- COAST_LIMIT_REACHED (R374). The coast limit boundary enters the safe output state. -/
  | coastLimitReached
  /-- WDT_ESC (R436). 10 ms after the safe output state a Warm reset escalates. -/
  | wdtEsc
  /-- CTRL_WDT (R421). No tick program for RESTART_TICKS restarts the control domain. -/
  | ctrlWdt
  /-- PAIR_LANE_UP (R384). A pair lane achieves block lock and valid frames. -/
  | pairLaneUp (lane : Fin 2)
  /-- PAIR_LANE_DOWN (R384). A pair lane goes down after 16 µs without a valid frame. -/
  | pairLaneDown (lane : Fin 2)
  /-- BEAT_RECEIVE (R385). A BEAT updates skew, SYNC and the digest comparison. -/
  | beatReceive (b : Beat)
  /-- DELTA_CHUNK_SEND (R397). The Lead sends the next DELTA or BULK chunk. -/
  | deltaChunkSend
  /-- DELTA_RECEIVE (R398). The Follow receives a delta chunk and prepares a whole delta. -/
  | deltaReceive (lane : Fin 2) (tick : BitVec 32) (chunk : Chunk) (good : Bool)
  /-- ACK_RECEIVE (R390). The Lead records the tick of a renewal acknowledgement. -/
  | ackReceive (tick : BitVec 32)
  /-- REQ_RECEIVE (R389). A lease request is granted or refused. -/
  | reqReceive (tick : BitVec 32)
  /-- GRANT_RECEIVE (R389). A GRANT makes the requester Lead at the next boundary. -/
  | grantReceive (tick : BitVec 32)
  /-- RELEASE_RECEIVE (R387). A RELEASE makes the Follow Lead at the next boundary. -/
  | releaseReceive (tick : BitVec 32)
  /-- BULK_RECEIVE (R400). A Rejoining device receives bulk records. -/
  | bulkReceive (lane : Fin 2) (tick : BitVec 32) (chunk : Chunk) (good : Bool)
  /-- NAK_RECEIVE (R397). The Lead resends a NAKed chunk when time allows. -/
  | nakReceive (lane : Fin 2) (index : BitVec 16)
  /-- RESTART_FRAME_RECEIVE (R420). A RESTART frame restarts a coasting control domain. -/
  | restartFrameReceive
  /-- RECOVERY_FUNCTION_RESET (R395). A recovery function idle for RESET_TICKS resets its history. -/
  | recoveryFunctionReset (func : Fin 1024)
  /-- HOST_CREDIT_STALL (R408). Credits withheld 10 µs take node 56 down. -/
  | hostCreditStall (posted : Bool := true) (nonPosted : Bool := true)
  /-- HOST_CREDIT_RECOVER (R408). Credits returned 10 µs bring node 56 up. -/
  | hostCreditRecover
  /-- PCIE_LINK_UP (R484). The PCIe link trains and comes up. -/
  | pcieLinkUp (width : Fin 3) (gen : Fin 4)
  /-- TX_FRAME_ENTRY (R489). A host TX FRAME entry enters Screen as node 56. -/
  | txFrameEntry (q : Fin 64) (bytes : List Byte)
  /-- WB_COPY_ENTRY (R489). A host TX entry copies counter store bytes to host memory. -/
  | wbCopyEntry (q : Fin 64) (overtaken : Bool := false)
  /-- QUEUE_PAIR_ENABLE (R487). Setting EN zeroes a pair's indices and starts it. -/
  | queuePairEnable (q : Fin 64) (group : Fin 32) (rxSize : Fin 32) (txSize : Fin 32)
  /-- QUEUE_PAIR_DISABLE (R487). Clearing EN completes entries in progress and stops the pair. -/
  | queuePairDisable (q : Fin 64)
  /-- RX_TAIL_WRITE (R487). The host posts RX entries. -/
  | rxTailWrite (q : Fin 64) (tail : BitVec 16) (entries : List Byte)
  /-- TX_TAIL_WRITE (R487). The host posts TX entries. -/
  | txTailWrite (q : Fin 64) (tail : BitVec 16) (entries : List Byte)
  /-- TP_HEAD_WRITE (R490). Control software returns Triad punt ring slots. -/
  | tpHeadWrite (value : BitVec 13)
  /-- EVQ_ACK_WRITE (R496). A reader acknowledges a snapshot's events. -/
  | evqAckWrite (who : Reader) (value : BitVec 32)
  /-- MAILBOX_SEND (R498). Send a staged message into a mailbox ring. -/
  | mailboxSend (who : Reader) (ring : Fin 16) (len : Byte)
  /-- MAILBOX_POP (R498). Consume the head message of a mailbox ring. -/
  | mailboxPop (who : Reader) (ring : Fin 16)
  /-- TICK_COUNT_LO_READ (R28). Reading TICK_COUNT_LO latches the high word for the reader. -/
  | tickCountLoRead (who : Reader)
  /-- TBN_NS_READ (R296). Reading TBn_NS latches the base's other fields for the reader. -/
  | tbnNsRead (who : Reader) (tb : Fin 4)
  /-- TRNG_READ (R475). Reading TRNG returns a fresh random word. -/
  | trngRead (who : Reader)
  /-- RESET_REQ (R442). Reset an idle block through BLK_CTRL. -/
  | resetReq (block : Fin 12)
  /-- POWER_OFF (R442). Power down an idle Conveyor, Relay or Pair unit. -/
  | powerOff (block : Fin 12)
  /-- POWER_ON (R442). Power a block up in its reset state. -/
  | powerOn (block : Fin 12)
  /-- RST_CAUSE_CLEAR (R456). W1C write clears RST_CAUSE bits. -/
  | rstCauseClear (core : Fin 4) (value : BitVec 32)
  /-- WAKE_SRC_CLEAR (R450). W1C write clears WAKE_SRC bits and FIRST when SRC empties. -/
  | wakeSrcClear (core : Fin 4) (value : BitVec 32)
  /-- XSPI_OWNER_WRITE (R501). A master takes or releases the xSPI controller. -/
  | xspiOwnerWrite (who : Reader) (owner : BitVec 10)
  /-- REGISTER_WRITE (R8). A write to a register with no behaviour of its own. -/
  | registerWrite (who : Reader) (addr : BitVec 40) (wide : Bool) (value : BitVec 64)
  /-- HOST_RESTART_CMD (R499). Submit a signed RESTART command. -/
  | hostRestartCmd (block : List Byte)
  /-- HOST_COLD_CMD (R499). Submit a signed HOST_COLD command. -/
  | hostColdCmd (block : List Byte)
  /-- HOST_WARM_CMD (R499). Submit a signed HOST_WARM command. -/
  | hostWarmCmd (block : List Byte)
  /-- MGMT_HOST_CMD (R499). Submit a signed management reset command. -/
  | mgmtHostCmd (block : List Byte)
  /-- HOST_CMD_COMPLETE (R499). Verification of a host command completes and its source asserts. -/
  | hostCmdComplete
  /-- BOOT_GO (R500). The host starts boot from a host-written image. -/
  | bootGo
  /-- DBG_GO (R505). Start verification of a debug token from BAR0. -/
  | dbgGo (len : BitVec 13)
  /-- DBG_DETACH (R505). Detach the debug session. -/
  | dbgDetach
  /-- DBG_VERIFY_COMPLETE (R504). Token verification completes and the session attaches or fails. -/
  | dbgVerifyComplete
  /-- EXTEST (R503). TAP boundary-scan test, effective only under EXT reset. -/
  | extest
  /-- SAMPLE_PRELOAD (R503). TAP samples or preloads the boundary scan register. -/
  | samplePreload (scan : List Bool)
  /-- IDCODE (R503). TAP returns 0xB964_056B. -/
  | idcode
  /-- CLAMP (R503). TAP clamp, effective only under EXT reset. -/
  | clamp
  /-- BYPASS (R505). TAP selects the one-bit bypass register. -/
  | bypass (code : Byte := 0xFF#8)
  /-- DBG_TOKEN (R505). TAP writes token words into the token buffer. -/
  | dbgToken (words : List (BitVec 32))
  /-- DBG_CTRL_START (R505). TAP Update-DR with bit 31 starts token verification. -/
  | dbgCtrlStart (len : BitVec 13) (detach : Bool := false)
  /-- DBG_CTRL_DETACH (R505). TAP Update-DR with bit 30 detaches the session. -/
  | dbgCtrlDetach (detach : Bool := true)
  /-- VBAT_ON_RISE (R424). VBAT rising above VBAT_ON releases UV or Backup reset. -/
  | vbatOnRise
  /-- VBAT_UV_FALL (R424). VBAT below VBAT_UV asserts a Cold reset. -/
  | vbatUvFall
  /-- VBAT_OV_RISE (R424). VBAT above VBAT_OV asserts a Cold reset. -/
  | vbatOvRise
  /-- VBAT_OV_RELEASE (R424). VBAT 1.0 V below VBAT_OV releases OV. -/
  | vbatOvRelease
  /-- VBAT_POR_FALL (R424). VBAT below VBAT_POR loses the backup domain. -/
  | vbatPorFall
  /-- PGOOD_RISE (R427). A PGOOD rising lets the next rail step begin. -/
  | pgoodRise (step : Fin 6) (vio33 : Bool := true)
  /-- PG_FAIL (R428). A late or falling PGOOD is a Cold reset source. -/
  | pgFail (step : Fin 6)
  /-- RAIL_STEP_DOWN (R427). A PEN drives low after the previous PGOOD falls or 0.5 ms. -/
  | railStepDown
  /-- EXT (R441). RESET_N held low by another driver asserts a Cold reset. -/
  | ext
  /-- THERM (R436). A quadrant above 140 °C asserts a Cold reset. -/
  | therm
  /-- CLK (R436). REFCLK absent 10 µs asserts a Cold reset. -/
  | clk
  /-- RESET_RELEASE (R438). The last source releases and the release sequence begins. -/
  | resetRelease
  /-- OPTION_LOADING (R439). Straps, lifecycle, fuses and start accounting are read. -/
  | optionLoading (bootsel : BitVec 2) (split : Bool) (pairEn : Bool)
  /-- DRAM_INIT_DONE (R438). DRAM is ready and the cores are released at the Boot ROM. -/
  | dramInitDone
  /-- BOOT_HEADER_VERIFIED (R479). The Vault completes the hardware boot image check. -/
  | bootHeaderVerified (header : List Byte) (sections : List (List Byte))
  /-- BOOT_WDT (R432). No BOOT_DONE within BOOT_LIMIT_S asserts a Cold reset. -/
  | bootWdt
  /-- WAKE_PIN_EDGE (R450). A filtered WAKE ball edge latches a wake event. -/
  | wakePinEdge (pin : Fin 4) (rising : Bool)
  /-- WAKE_TIMER (R450). The TIMER_S wake expires. -/
  | wakeTimer
  /-- GATEHOUSE_BUS_WAKE (R450). A Gatehouse CAN or LIN receiver latches a wake in Dormant. -/
  | gatehouseBusWake (lin : Bool) (ch : Fin 4)
  /-- SLEEP_COMMIT (R447). All masked nodes asleep commits the sleep and starts entry. -/
  | sleepCommit
  /-- RETAINED_ENTRY_DONE (R452). Ticks stop, cores gated and DRAM in self-refresh. -/
  | retainedEntryDone
  /-- DORMANT_WAKE_START (R449). A late wake restarts from Dormant 100 µs after INH low. -/
  | dormantWakeStart
  /-- RESUME_COMPLETE (R454). Resume from Retained completes and the mode returns. -/
  | resumeComplete
  /-- REMASK_PASS (R464). Every REMASK_MS the Vault re-masks all keys. -/
  | remaskPass
  /-- TRNG_HEALTH_FAIL (R475). A failed health test sets TRNG_FAIL. -/
  | trngHealthFail
  /-- TRNG_HEALTH_RECOVER (R475). 1,024 passing samples clear TRNG_FAIL. -/
  | trngHealthRecover
  /-- FUNCTION_LEVEL_RESET (R483). A PCIe function-level reset from the host acts as a plane reset of the management domain. -/
  | functionLevelReset
  /-- BLOCK_RESET_COMPLETE (R442). A block reset requested through BLK_CTRL completes within 100 µs, BUSY clears and the block again accepts STAGE objects and packet X requests. -/
  | blockResetComplete (block : Fin 12)
  /-- BLOCK_POWER_UP_COMPLETE (R442). A block whose POWER was set to 1 comes up in its reset state within 1 ms and stops refusing requests. -/
  | blockPowerUpComplete (block : Fin 12)
  /-- TEST_LOGIC_RESET (R505). A TRST_N pulse or the TAP reaching Test-Logic-Reset resets the TAP and selects IDCODE. -/
  | testLogicReset
  deriving DecidableEq, Repr

end Sys2Proof
end

