-- ==== Sys2Proof/Decode.lean ====
section
/-! DEFINITION. Decode.lean: the words of each instruction from the tables of encodings (Tables 2.2 to 2.9,
3.5 to 3.7 and 16.4), and decodeTableWord: the table of commands gives no row any bits. -/

namespace Sys2Proof

/-- A word of format A, or word 1 of format X (Table 2.2). -/
def encFields (op : Nat) (d a b : BitVec 6) (fn : Nat) (g : BitVec 3) : BitVec 32 :=
  BitVec.ofNat 7 op ++ d ++ a ++ b ++ BitVec.ofNat 4 fn ++ g

def encA (op : Nat) (f : FmtA) (fn : Nat) : BitVec 32 := encFields op f.d f.a f.b fn f.g

def encX (op : Nat) (f : FmtX) (unit : Nat) : BitVec 32 := encFields op f.d f.a f.b unit f.g

/-- A word of format I or M. -/
def encI (op : Nat) (f : FmtI) : BitVec 32 := BitVec.ofNat 7 op ++ f.d ++ f.a ++ f.imm ++ f.g

/-- A word of format L. -/
def encL (op : Nat) (f : FmtL) : BitVec 32 := BitVec.ofNat 7 op ++ f.d ++ f.imm ++ f.g

/-- A word of format B. -/
def encB (op : Nat) (f : FmtB) : BitVec 32 := BitVec.ofNat 7 op ++ BitVec.ofBool f.t ++ f.p ++ f.disp

/-- A descriptor whose bits [pos+n-1:pos] the row itself names. -/
def setField (pos n v : Nat) (desc : BitVec 32) : BitVec 32 :=
  (desc &&& ~~~(BitVec.ofNat 32 ((2 ^ n - 1) * 2 ^ pos))) ||| BitVec.ofNat 32 (v * 2 ^ pos)

/-- The words of an instruction of the Uarra set; none for an event or a register command. -/
def words (i : Instr) : Option (BitVec 32 × Option (BitVec 32)) :=
  match i with
  | .add _ f => some (encA 0x00 f 0, none)
  | .sub _ f => some (encA 0x00 f 1, none)
  | .mul _ f => some (encA 0x00 f 2, none)
  | .mulhu _ f => some (encA 0x00 f 3, none)
  | .min _ f => some (encA 0x00 f 4, none)
  | .max _ f => some (encA 0x00 f 5, none)
  | .minu _ f => some (encA 0x00 f 6, none)
  | .maxu _ f => some (encA 0x00 f 7, none)
  | .and _ f => some (encA 0x01 f 0, none)
  | .or _ f => some (encA 0x01 f 1, none)
  | .xor _ f => some (encA 0x01 f 2, none)
  | .andn _ f => some (encA 0x01 f 3, none)
  | .orn _ f => some (encA 0x01 f 4, none)
  | .xnor _ f => some (encA 0x01 f 5, none)
  | .sll _ f => some (encA 0x02 f 0, none)
  | .srl _ f => some (encA 0x02 f 1, none)
  | .sra _ f => some (encA 0x02 f 2, none)
  | .rol _ f => some (encA 0x02 f 3, none)
  | .ror _ f => some (encA 0x02 f 4, none)
  | .clz _ f => some (encA 0x03 f 0, none)
  | .ctz _ f => some (encA 0x03 f 1, none)
  | .popc _ f => some (encA 0x03 f 2, none)
  | .bswap _ f => some (encA 0x03 f 3, none)
  | .bswap32 _ f => some (encA 0x03 f 4, none)
  | .bswap16 _ f => some (encA 0x03 f 5, none)
  | .cmpeq _ f => some (encA 0x04 f 0, none)
  | .cmpne _ f => some (encA 0x04 f 1, none)
  | .cmplt _ f => some (encA 0x04 f 2, none)
  | .cmpltu _ f => some (encA 0x04 f 3, none)
  | .cmple _ f => some (encA 0x04 f 4, none)
  | .cmpleu _ f => some (encA 0x04 f 5, none)
  | .tstz _ f => some (encA 0x04 f 6, none)
  | .tstnz _ f => some (encA 0x04 f 7, none)
  | .sel _ n f => some (encA 0x05 f n.toNat, none)
  | .pand _ f => some (encA 0x07 f 0, none)
  | .por _ f => some (encA 0x07 f 1, none)
  | .pxor _ f => some (encA 0x07 f 2, none)
  | .pandn _ f => some (encA 0x07 f 3, none)
  | .ptow _ f => some (encA 0x07 f 4, none)
  | .wtop _ f => some (encA 0x07 f 5, none)
  | .divu _ f => some (encA 0x08 f 0, none)
  | .remu _ f => some (encA 0x08 f 1, none)
  | .divs _ f => some (encA 0x08 f 2, none)
  | .rems _ f => some (encA 0x08 f 3, none)
  | .addi _ f => some (encI 0x20 f, none)
  | .andi _ f => some (encI 0x21 f, none)
  | .ori _ f => some (encI 0x22 f, none)
  | .xori _ f => some (encI 0x23 f, none)
  | .slli _ f => some (encI 0x24 f, none)
  | .srli _ f => some (encI 0x25 f, none)
  | .srai _ f => some (encI 0x26 f, none)
  | .mov _ f => some (encI 0x27 f, none)
  | .extu _ f => some (encI 0x28 f, none)
  | .exts _ f => some (encI 0x29 f, none)
  | .ins _ f => some (encI 0x2a f, none)
  | .cmpeqi _ f => some (encI 0x2b f, none)
  | .cmplti _ f => some (encI 0x2c f, none)
  | .cmpltui _ f => some (encI 0x2d f, none)
  | .tsti _ f => some (encI 0x2e f, none)
  | .li _ f => some (encL 0x30 f, none)
  | .liz _ f => some (encL 0x31 f, none)
  | .mk16 _ f => some (encL 0x32 f, none)
  | .mk32 _ f => some (encL 0x33 f, none)
  | .mk48 _ f => some (encL 0x34 f, none)
  | .ld8u _ f => some (encI 0x40 f, none)
  | .ld16u _ f => some (encI 0x41 f, none)
  | .ld32u _ f => some (encI 0x42 f, none)
  | .ld64 _ f => some (encI 0x43 f, none)
  | .ld8s _ f => some (encI 0x44 f, none)
  | .ld16s _ f => some (encI 0x45 f, none)
  | .ld32s _ f => some (encI 0x46 f, none)
  | .st8 _ f => some (encI 0x48 f, none)
  | .st16 _ f => some (encI 0x49 f, none)
  | .st32 _ f => some (encI 0x4a f, none)
  | .st64 _ f => some (encI 0x4b f, none)
  | .ldk _ f => some (encI 0x4c f, none)
  | .amoadd _ fn f => some (encA 0x4e f fn.toNat, none)
  | .br _ f => some (encB 0x50 f, none)
  | .call _ f => some (encB 0x51 f, none)
  | .ret _ fn f => some (encA 0x52 f fn.toNat, none)
  | .loop _ f => some (encI 0x53 f, none)
  | .loopr _ f => some (encI 0x54 f, none)
  | .jr _ f => some (encA 0x55 f 0, none)
  | .callr _ f => some (encA 0x55 f 1, none)
  | .csrr _ f => some (encI 0x58 f, none)
  | .csrw _ f => some (encI 0x59 f, none)
  | .csrs _ f => some (encI 0x5a f, none)
  | .csrc _ f => some (encI 0x5b f, none)
  | .trap _ f => some (encI 0x5c f, none)
  | .tret _ f => some (encI 0x5d f, none)
  | .wfi _ f => some (encI 0x5e f, none)
  | .fence _ f => some (encI 0x5f f, none)
  | .frd _ n f => some (encX 0x60 f (n.toNat), some f.desc)
  | .fwr _ n f => some (encX 0x61 f (n.toNat), some f.desc)
  | .fwrBuffer _ n f => some (encX 0x61 f (8 + n.toNat), some f.desc)
  | .xtr _ f => some (encX 0x62 f 0, some f.desc)
  | .csum _ f => some (encX 0x63 f 0, some f.desc)
  | .tstampShort _ n f => some (encX 0x64 f (n.toNat), some f.desc)
  | .tstampSeconds _ n f => some (encX 0x64 f (4 + n.toNat), some f.desc)
  | .tstampMark _ n f => some (encX 0x64 f (8 + n.toNat), some f.desc)
  | .lkpExact _ f => some (encX 0x65 f 0, some f.desc)
  | .lkpLpm _ f => some (encX 0x65 f 1, some f.desc)
  | .lrn _ f => some (encX 0x66 f 0, some f.desc)
  | .del _ f => some (encX 0x66 f 1, some f.desc)
  | .conLookup _ f => some (encX 0x67 f 0, some (setField 30 2 0 f.desc))
  | .conOpen _ f => some (encX 0x67 f 0, some (setField 30 2 1 f.desc))
  | .conUpdate _ f => some (encX 0x67 f 0, some (setField 30 2 2 f.desc))
  | .conClose _ f => some (encX 0x67 f 0, some (setField 30 2 3 f.desc))
  | .alloc _ f => some (encX 0x68 f 0, some f.desc)
  | .share _ f => some (encX 0x68 f 1, some f.desc)
  | .release _ f => some (encX 0x68 f 2, some f.desc)
  | .free _ f => some (encX 0x68 f 3, some f.desc)
  | .meter _ f => some (encX 0x69 f 0, some f.desc)
  | .verdictConfirm _ f => some (encX 0x6a f 0, some f.desc)
  | .verdictWithdraw _ f => some (encX 0x6a f 1, some f.desc)
  | .enq _ f => some (encX 0x6b f 0, some (setField 15 1 0 f.desc))
  | .enqBuf _ f => some (encX 0x6b f 0, some (setField 15 1 1 f.desc))
  | .mcast _ f => some (encX 0x6b f 1, some f.desc)
  | .drop _ f => some (encX 0x6c f 0, some f.desc)
  | .punt _ f => some (encX 0x6c f 1, some f.desc)
  | .recirc _ f => some (encX 0x6c f 2, some f.desc)
  | .done _ f => some (encX 0x6c f 3, some f.desc)
  | .stage _ f => some (encX 0x70 f 0, some f.desc)
  | .commit _ f => some (encX 0x71 f 0, some f.desc)
  | .abortCommit _ f => some (encX 0x72 f 0, some f.desc)
  | .abortGroup _ f => some (encX 0x72 f 1, some f.desc)
  | .thawMaster _ f => some (encX 0x73 f 0, some f.desc)
  | .thawPartner _ f => some (encX 0x73 f 1, some f.desc)
  | .gatelist _ f => some (encX 0x74 f 0, some f.desc)
  | .shaper _ f => some (encX 0x74 f 1, some f.desc)
  | .epoch _ f => some (encX 0x75 f 0, some f.desc)
  | .bank _ f => some (encX 0x75 f 1, some f.desc)
  | .leaseTake _ f => some (encX 0x76 f 0, some f.desc)
  | .leaseJoin _ f => some (encX 0x76 f 0, some f.desc)
  | .leaseForce _ f => some (encX 0x76 f 0, some f.desc)
  | .leaseRelease _ f => some (encX 0x76 f 1, some f.desc)
  | .kloadRoot _ f => some (encX 0x77 f 0, some (setField 28 4 0 f.desc))
  | .kloadFallback _ f => some (encX 0x77 f 0, some (setField 28 4 1 f.desc))
  | .kloadOtpWrite _ f _ _ _ => some (encX 0x77 f 0, some (setField 28 4 2 f.desc))
  | .kloadLifecycle _ f _ => some (encX 0x77 f 0, some (setField 28 4 3 f.desc))
  | .kloadClear _ f => some (encX 0x77 f 0, some (setField 28 4 4 f.desc))
  | .kderive _ f => some (encX 0x77 f 1, some f.desc)
  | .kwrapWrap _ f => some (encX 0x77 f 2, some (setField 31 1 0 f.desc))
  | .kwrapUnwrap _ f => some (encX 0x77 f 2, some (setField 31 1 1 f.desc))
  | .ksign _ f => some (encX 0x77 f 3, some f.desc)
  | .kverify _ f => some (encX 0x77 f 4, some f.desc)
  | _ => none

/-- The agent that executes an instruction. -/
def agentOf (i : Instr) : Option Agent :=
  match i with
  | .add who _ => some who
  | .sub who _ => some who
  | .mul who _ => some who
  | .mulhu who _ => some who
  | .min who _ => some who
  | .max who _ => some who
  | .minu who _ => some who
  | .maxu who _ => some who
  | .and who _ => some who
  | .or who _ => some who
  | .xor who _ => some who
  | .andn who _ => some who
  | .orn who _ => some who
  | .xnor who _ => some who
  | .sll who _ => some who
  | .srl who _ => some who
  | .sra who _ => some who
  | .rol who _ => some who
  | .ror who _ => some who
  | .clz who _ => some who
  | .ctz who _ => some who
  | .popc who _ => some who
  | .bswap who _ => some who
  | .bswap32 who _ => some who
  | .bswap16 who _ => some who
  | .cmpeq who _ => some who
  | .cmpne who _ => some who
  | .cmplt who _ => some who
  | .cmpltu who _ => some who
  | .cmple who _ => some who
  | .cmpleu who _ => some who
  | .tstz who _ => some who
  | .tstnz who _ => some who
  | .sel who _ _ => some who
  | .pand who _ => some who
  | .por who _ => some who
  | .pxor who _ => some who
  | .pandn who _ => some who
  | .ptow who _ => some who
  | .wtop who _ => some who
  | .divu who _ => some who
  | .remu who _ => some who
  | .divs who _ => some who
  | .rems who _ => some who
  | .addi who _ => some who
  | .andi who _ => some who
  | .ori who _ => some who
  | .xori who _ => some who
  | .slli who _ => some who
  | .srli who _ => some who
  | .srai who _ => some who
  | .mov who _ => some who
  | .extu who _ => some who
  | .exts who _ => some who
  | .ins who _ => some who
  | .cmpeqi who _ => some who
  | .cmplti who _ => some who
  | .cmpltui who _ => some who
  | .tsti who _ => some who
  | .li who _ => some who
  | .liz who _ => some who
  | .mk16 who _ => some who
  | .mk32 who _ => some who
  | .mk48 who _ => some who
  | .ld8u who _ => some who
  | .ld16u who _ => some who
  | .ld32u who _ => some who
  | .ld64 who _ => some who
  | .ld8s who _ => some who
  | .ld16s who _ => some who
  | .ld32s who _ => some who
  | .st8 who _ => some who
  | .st16 who _ => some who
  | .st32 who _ => some who
  | .st64 who _ => some who
  | .ldk who _ => some who
  | .amoadd who _ _ => some who
  | .br who _ => some who
  | .call who _ => some who
  | .ret who _ _ => some who
  | .loop who _ => some who
  | .loopr who _ => some who
  | .jr who _ => some who
  | .callr who _ => some who
  | .csrr who _ => some who
  | .csrw who _ => some who
  | .csrs who _ => some who
  | .csrc who _ => some who
  | .trap who _ => some who
  | .tret who _ => some who
  | .wfi who _ => some who
  | .fence who _ => some who
  | .frd who _ _ => some who
  | .fwr who _ _ => some who
  | .fwrBuffer who _ _ => some who
  | .xtr who _ => some who
  | .csum who _ => some who
  | .tstampShort who _ _ => some who
  | .tstampSeconds who _ _ => some who
  | .tstampMark who _ _ => some who
  | .lkpExact who _ => some who
  | .lkpLpm who _ => some who
  | .lrn who _ => some who
  | .del who _ => some who
  | .conLookup who _ => some who
  | .conOpen who _ => some who
  | .conUpdate who _ => some who
  | .conClose who _ => some who
  | .alloc who _ => some who
  | .share who _ => some who
  | .release who _ => some who
  | .free who _ => some who
  | .meter who _ => some who
  | .verdictConfirm who _ => some who
  | .verdictWithdraw who _ => some who
  | .enq who _ => some who
  | .enqBuf who _ => some who
  | .mcast who _ => some who
  | .drop who _ => some who
  | .punt who _ => some who
  | .recirc who _ => some who
  | .done who _ => some who
  | .stage who _ => some who
  | .commit who _ => some who
  | .abortCommit who _ => some who
  | .abortGroup who _ => some who
  | .thawMaster who _ => some who
  | .thawPartner who _ => some who
  | .gatelist who _ => some who
  | .shaper who _ => some who
  | .epoch who _ => some who
  | .bank who _ => some who
  | .leaseTake who _ => some who
  | .leaseJoin who _ => some who
  | .leaseForce who _ => some who
  | .leaseRelease who _ => some who
  | .kloadRoot who _ => some who
  | .kloadFallback who _ => some who
  | .kloadOtpWrite who _ _ _ _ => some who
  | .kloadLifecycle who _ _ => some who
  | .kloadClear who _ => some who
  | .kderive who _ => some who
  | .kwrapWrap who _ => some who
  | .kwrapUnwrap who _ => some who
  | .ksign who _ => some who
  | .kverify who _ => some who
  | _ => none

/-! ### From words to instructions -/

/-- Opcode and fn or unit field of a word (R48). -/
def opOf (w : BitVec 32) : Nat := (w.extractLsb' 25 7).toNat
def unitOf (w : BitVec 32) : Nat := (w.extractLsb' 3 4).toNat

def fieldsA (w : BitVec 32) : FmtA := { d := w.extractLsb' 19 6, a := w.extractLsb' 13 6, b := w.extractLsb' 7 6, g := w.extractLsb' 0 3 }
def fieldsI (w : BitVec 32) : FmtI := { d := w.extractLsb' 19 6, a := w.extractLsb' 13 6, imm := w.extractLsb' 3 10, g := w.extractLsb' 0 3 }
def fieldsL (w : BitVec 32) : FmtL := { d := w.extractLsb' 19 6, imm := w.extractLsb' 3 16, g := w.extractLsb' 0 3 }
def fieldsB (w : BitVec 32) : FmtB := { t := w.getLsbD 24, p := w.extractLsb' 21 3, disp := w.extractLsb' 0 21 }
def fieldsX (w y : BitVec 32) : FmtX :=
  { d := w.extractLsb' 19 6, a := w.extractLsb' 13 6, b := w.extractLsb' 7 6, g := w.extractLsb' 0 3, desc := y }

/-- The instruction of one word (Tables 2.4 to 2.9); none for an opcode or fn that no table lists. -/
def decodeOne (who : Agent) (w : BitVec 32) : Option Instr :=
  match opOf w with
  | 0x00 => match unitOf w with
    | 0 => some (.add who (fieldsA w))
    | 1 => some (.sub who (fieldsA w))
    | 2 => some (.mul who (fieldsA w))
    | 3 => some (.mulhu who (fieldsA w))
    | 4 => some (.min who (fieldsA w))
    | 5 => some (.max who (fieldsA w))
    | 6 => some (.minu who (fieldsA w))
    | 7 => some (.maxu who (fieldsA w))
    | _ => none
  | 0x01 => match unitOf w with
    | 0 => some (.and who (fieldsA w))
    | 1 => some (.or who (fieldsA w))
    | 2 => some (.xor who (fieldsA w))
    | 3 => some (.andn who (fieldsA w))
    | 4 => some (.orn who (fieldsA w))
    | 5 => some (.xnor who (fieldsA w))
    | _ => none
  | 0x02 => match unitOf w with
    | 0 => some (.sll who (fieldsA w))
    | 1 => some (.srl who (fieldsA w))
    | 2 => some (.sra who (fieldsA w))
    | 3 => some (.rol who (fieldsA w))
    | 4 => some (.ror who (fieldsA w))
    | _ => none
  | 0x03 => match unitOf w with
    | 0 => some (.clz who (fieldsA w))
    | 1 => some (.ctz who (fieldsA w))
    | 2 => some (.popc who (fieldsA w))
    | 3 => some (.bswap who (fieldsA w))
    | 4 => some (.bswap32 who (fieldsA w))
    | 5 => some (.bswap16 who (fieldsA w))
    | _ => none
  | 0x04 => match unitOf w with
    | 0 => some (.cmpeq who (fieldsA w))
    | 1 => some (.cmpne who (fieldsA w))
    | 2 => some (.cmplt who (fieldsA w))
    | 3 => some (.cmpltu who (fieldsA w))
    | 4 => some (.cmple who (fieldsA w))
    | 5 => some (.cmpleu who (fieldsA w))
    | 6 => some (.tstz who (fieldsA w))
    | 7 => some (.tstnz who (fieldsA w))
    | _ => none
  | 0x05 => if unitOf w < 8 then some (.sel who (w.extractLsb' 3 3) (fieldsA w)) else none
  | 0x07 => match unitOf w with
    | 0 => some (.pand who (fieldsA w))
    | 1 => some (.por who (fieldsA w))
    | 2 => some (.pxor who (fieldsA w))
    | 3 => some (.pandn who (fieldsA w))
    | 4 => some (.ptow who (fieldsA w))
    | 5 => some (.wtop who (fieldsA w))
    | _ => none
  | 0x08 => match unitOf w with
    | 0 => some (.divu who (fieldsA w))
    | 1 => some (.remu who (fieldsA w))
    | 2 => some (.divs who (fieldsA w))
    | 3 => some (.rems who (fieldsA w))
    | _ => none
  | 0x20 => some (.addi who (fieldsI w))
  | 0x21 => some (.andi who (fieldsI w))
  | 0x22 => some (.ori who (fieldsI w))
  | 0x23 => some (.xori who (fieldsI w))
  | 0x24 => some (.slli who (fieldsI w))
  | 0x25 => some (.srli who (fieldsI w))
  | 0x26 => some (.srai who (fieldsI w))
  | 0x27 => some (.mov who (fieldsI w))
  | 0x28 => some (.extu who (fieldsI w))
  | 0x29 => some (.exts who (fieldsI w))
  | 0x2a => some (.ins who (fieldsI w))
  | 0x2b => some (.cmpeqi who (fieldsI w))
  | 0x2c => some (.cmplti who (fieldsI w))
  | 0x2d => some (.cmpltui who (fieldsI w))
  | 0x2e => some (.tsti who (fieldsI w))
  | 0x30 => some (.li who (fieldsL w))
  | 0x31 => some (.liz who (fieldsL w))
  | 0x32 => some (.mk16 who (fieldsL w))
  | 0x33 => some (.mk32 who (fieldsL w))
  | 0x34 => some (.mk48 who (fieldsL w))
  | 0x40 => some (.ld8u who (fieldsI w))
  | 0x41 => some (.ld16u who (fieldsI w))
  | 0x42 => some (.ld32u who (fieldsI w))
  | 0x43 => some (.ld64 who (fieldsI w))
  | 0x44 => some (.ld8s who (fieldsI w))
  | 0x45 => some (.ld16s who (fieldsI w))
  | 0x46 => some (.ld32s who (fieldsI w))
  | 0x48 => some (.st8 who (fieldsI w))
  | 0x49 => some (.st16 who (fieldsI w))
  | 0x4a => some (.st32 who (fieldsI w))
  | 0x4b => some (.st64 who (fieldsI w))
  | 0x4c => some (.ldk who (fieldsI w))
  | 0x4e => some (.amoadd who (w.extractLsb' 3 4) (fieldsA w))
  | 0x50 => some (.br who (fieldsB w))
  | 0x51 => some (.call who (fieldsB w))
  | 0x52 => some (.ret who (w.extractLsb' 3 4) (fieldsA w))
  | 0x53 => some (.loop who (fieldsI w))
  | 0x54 => some (.loopr who (fieldsI w))
  | 0x55 => match unitOf w with
    | 0 => some (.jr who (fieldsA w))
    | 1 => some (.callr who (fieldsA w))
    | _ => none
  | 0x58 => some (.csrr who (fieldsI w))
  | 0x59 => some (.csrw who (fieldsI w))
  | 0x5a => some (.csrs who (fieldsI w))
  | 0x5b => some (.csrc who (fieldsI w))
  | 0x5c => some (.trap who (fieldsI w))
  | 0x5d => some (.tret who (fieldsI w))
  | 0x5e => some (.wfi who (fieldsI w))
  | 0x5f => some (.fence who (fieldsI w))
  | _ => none

/-- The X instruction of two words (Tables 3.5 to 3.7 and 16.4), the rows of one word told apart by its descriptor. -/
def decodeTwo (who : Agent) (w y : BitVec 32) : Option Instr :=
  match opOf w with
  | 0x60 => if unitOf w < 8 then some (.frd who (w.extractLsb' 3 3) (fieldsX w y)) else none
  | 0x61 =>
    if unitOf w < 8 then some (.fwr who (w.extractLsb' 3 3) (fieldsX w y))
    else some (.fwrBuffer who (w.extractLsb' 3 3) (fieldsX w y))
  | 0x62 => match unitOf w with
    | 0 => some (.xtr who (fieldsX w y))
    | _ => none
  | 0x63 => match unitOf w with
    | 0 => some (.csum who (fieldsX w y))
    | _ => none
  | 0x64 =>
    if unitOf w < 4 then some (.tstampShort who (w.extractLsb' 3 2) (fieldsX w y))
    else if unitOf w < 8 then some (.tstampSeconds who (w.extractLsb' 3 2) (fieldsX w y))
    else if unitOf w < 12 then some (.tstampMark who (w.extractLsb' 3 2) (fieldsX w y))
    else none
  | 0x65 => match unitOf w with
    | 0 => some (.lkpExact who (fieldsX w y))
    | 1 => some (.lkpLpm who (fieldsX w y))
    | _ => none
  | 0x66 => match unitOf w with
    | 0 => some (.lrn who (fieldsX w y))
    | 1 => some (.del who (fieldsX w y))
    | _ => none
  | 0x67 => match unitOf w with
    | 0 =>
      if y.extractLsb' 30 2 = 0#2 then some (.conLookup who (fieldsX w y))
      else if y.extractLsb' 30 2 = 1#2 then some (.conOpen who (fieldsX w y))
      else if y.extractLsb' 30 2 = 2#2 then some (.conUpdate who (fieldsX w y))
      else if y.extractLsb' 30 2 = 3#2 then some (.conClose who (fieldsX w y))
      else none
    | _ => none
  | 0x68 => match unitOf w with
    | 0 => some (.alloc who (fieldsX w y))
    | 1 => some (.share who (fieldsX w y))
    | 2 => some (.release who (fieldsX w y))
    | 3 => some (.free who (fieldsX w y))
    | _ => none
  | 0x69 => match unitOf w with
    | 0 => some (.meter who (fieldsX w y))
    | _ => none
  | 0x6a => match unitOf w with
    | 0 => some (.verdictConfirm who (fieldsX w y))
    | 1 => some (.verdictWithdraw who (fieldsX w y))
    | _ => none
  | 0x6b => match unitOf w with
    | 0 =>
      if y.extractLsb' 15 1 = 0#1 then some (.enq who (fieldsX w y))
      else if y.extractLsb' 15 1 = 1#1 then some (.enqBuf who (fieldsX w y))
      else none
    | 1 => some (.mcast who (fieldsX w y))
    | _ => none
  | 0x6c => match unitOf w with
    | 0 => some (.drop who (fieldsX w y))
    | 1 => some (.punt who (fieldsX w y))
    | 2 => some (.recirc who (fieldsX w y))
    | 3 => some (.done who (fieldsX w y))
    | _ => none
  | 0x70 => match unitOf w with
    | 0 => some (.stage who (fieldsX w y))
    | _ => none
  | 0x71 => match unitOf w with
    | 0 => some (.commit who (fieldsX w y))
    | _ => none
  | 0x72 => match unitOf w with
    | 0 => some (.abortCommit who (fieldsX w y))
    | 1 => some (.abortGroup who (fieldsX w y))
    | _ => none
  | 0x73 => match unitOf w with
    | 0 => some (.thawMaster who (fieldsX w y))
    | 1 => some (.thawPartner who (fieldsX w y))
    | _ => none
  | 0x74 => match unitOf w with
    | 0 => some (.gatelist who (fieldsX w y))
    | 1 => some (.shaper who (fieldsX w y))
    | _ => none
  | 0x75 => match unitOf w with
    | 0 => some (.epoch who (fieldsX w y))
    | 1 => some (.bank who (fieldsX w y))
    | _ => none
  | 0x76 => match unitOf w with
    | 0 => some (.leaseTake who (fieldsX w y))
    | 1 => some (.leaseRelease who (fieldsX w y))
    | _ => none
  | 0x77 => match unitOf w with
    | 0 =>
      if y.extractLsb' 28 4 = 0#4 then some (.kloadRoot who (fieldsX w y))
      else if y.extractLsb' 28 4 = 1#4 then some (.kloadFallback who (fieldsX w y))
      else if y.extractLsb' 28 4 = 4#4 then some (.kloadClear who (fieldsX w y))
      else none
    | 1 => some (.kderive who (fieldsX w y))
    | 2 =>
      if y.extractLsb' 31 1 = 0#1 then some (.kwrapWrap who (fieldsX w y))
      else if y.extractLsb' 31 1 = 1#1 then some (.kwrapUnwrap who (fieldsX w y))
      else none
    | 3 => some (.ksign who (fieldsX w y))
    | 4 => some (.kverify who (fieldsX w y))
    | _ => none
  | _ => none

/-- The instruction that an agent's words spell. -/
def decodeWords (who : Agent) (w : BitVec 32) (y : Option (BitVec 32)) : Option Instr :=
  match y with
  | none => decodeOne who w
  | some y => decodeTwo who w y

/-- Whether a row is the one that decodeWords answers for its words: its descriptor carries the fields that name the row,
and its operands all stand in its words. LEASE's KIND stands in w[a], so LEASE_TAKE speaks for LEASE_JOIN and LEASE_FORCE
too; KLOAD_OTP_WRITE and KLOAD_LIFECYCLE have operands of the supply. -/
def canonical (i : Instr) : Bool :=
  match i with
  | .conLookup _ f => setField 30 2 0 f.desc == f.desc
  | .conOpen _ f => setField 30 2 1 f.desc == f.desc
  | .conUpdate _ f => setField 30 2 2 f.desc == f.desc
  | .conClose _ f => setField 30 2 3 f.desc == f.desc
  | .enq _ f => setField 15 1 0 f.desc == f.desc
  | .enqBuf _ f => setField 15 1 1 f.desc == f.desc
  | .leaseJoin _ _ => false
  | .leaseForce _ _ => false
  | .kloadRoot _ f => setField 28 4 0 f.desc == f.desc
  | .kloadFallback _ f => setField 28 4 1 f.desc == f.desc
  | .kloadOtpWrite _ _ _ _ _ => false
  | .kloadLifecycle _ _ _ => false
  | .kloadClear _ f => setField 28 4 4 f.desc == f.desc
  | .kwrapWrap _ f => setField 31 1 0 f.desc == f.desc
  | .kwrapUnwrap _ f => setField 31 1 1 f.desc == f.desc
  | _ => true

/-- The command that a word spells by the table's bits: no row of the table has bits. -/
def decodeTableWord (_nbits _w : Nat) : Option Instr := none

end Sys2Proof
end

