-- ==== Sys2Proof/Config.lean ====
section
/-! DEFINITION. Config.lean: what the manual leaves open, as constants that nothing can evaluate. -/

namespace Sys2Proof

/-- The free values, by draw (log entry 2). -/
opaque Config.free : Nat → Nat

/-- The hash of a core's architectural state that the Triad compares (R367), over the numbers that spell
the state; equal states have equal hashes. -/
opaque Config.stateHash : List Nat → BitVec 64

/-- CMD_NONCE after reset: a word of the TRNG (Table 17.8; log entry 2). -/
opaque Config.resetNonce : BitVec 64

/-- The device serial number (Table 16.12). -/
opaque Config.serial : BitVec 64

/-- The die quadrant of a port node's front end (R332, R333). -/
opaque Config.quadrantOf : Nat → Fin 4

/-- RX_LAT and TX_LAT in ps that the fuse block holds for a speed of a port node (R307, R331). -/
opaque Config.rxLat : Nat → Nat → Nat
opaque Config.txLat : Nat → Nat → Nat

/-- The nominal values that Face uses for a front end whose trim record fails its CRC (R331). -/
opaque Config.nominalRxLat : Nat → Nat → Nat
opaque Config.nominalTxLat : Nat → Nat → Nat

/-- The length in ns of the low-power oscillator's second k since the last Backup reset, within 3 % (R433). -/
opaque Config.lpoSecond : Nat → Nat

/-- The level of GPIO i at an instant while nothing drives it and it has no pull (R517). -/
opaque Config.floatingPin : Nat → Nat → Bool

/-- What KSIGN writes under an IDK whose modulus is too short for the encoding of R470, which RFC 8017 leaves an error. -/
opaque Config.shortSign : List Byte → List Byte → List Byte

/-- 4 KiB pages that stand free before section i of a snapshot, modulo 16 (R492). -/
opaque Config.wbOffset : Nat → Nat

/-- Contents of the Boot ROM by offset, which the manual does not give (Table 1.4). -/
opaque Config.bootByte : Nat → Byte

end Sys2Proof
end

