-- ==== Sys2Proof/Machine/State.lean ====
section
/-! DEFINITION. Machine/State.lean: the state of the device as plain data, the reasons a step can stop,
and the state after reset.  A sparse array is a list of (index, value) pairs in rising order of index
whose unlisted elements hold the value they have after reset. -/

namespace Sys2Proof.Machine

/-- A sparse array: (index, value) pairs, indices strictly rising; an unlisted index holds the array's
reset value. -/
abbrev Tbl (β : Type) := List (Nat × β)

/-- A byte-addressed memory: listed bytes by address, strictly rising; an unlisted byte reads 0x00
(log entry 3). -/
abbrev Mem := List Host.Cell

/-! ### Planes, crossings and the Bench tick (chapter 1) -/

/-- The Bench tick (R29 to R31) and the device window (Tables 1.7 to 1.12). -/
structure Bench where
  /-- tick count, 64 bits (R30) -/
  tickCount : Nat
  /-- period in force P in microseconds (Table 1.10) -/
  period : Nat
  /-- ODD_COUNT (Table 1.11) -/
  oddCount : Nat
  /-- ODD_TICK (Table 1.11) -/
  oddTick : Bool
  /-- RUNNING (Table 1.11) -/
  running : Bool
  /-- whole-nanosecond T0 reading at the boundary that began this tick, before its steps (R31) -/
  startNs : Int
  /-- local time of that boundary (R31) -/
  startLocal : Nat
  /-- a step of T0 or a change of P took effect at that boundary (R31, R124) -/
  disturbed : Bool
  /-- the latch behind TICK_COUNT_HI, one for each reader (R28): 0 Triad, 1 to 4 Tally, 5 host -/
  hiLatch : Tbl Nat
  /-- WB_PUBLISHED (Table 1.12) -/
  wbPublished : Nat
  /-- tick count at the last step 6: every rotating-priority start derives from it (R412) -/
  arbTick : Nat
  deriving DecidableEq, Repr

/-- A staged object (R108): its subsystem, TYPE, image, and the operands that an instruction other
than STAGE adds (RESET of SHAPER, node of SHAPER, bank of BANK, number of EPOCH, operation of LEASE). -/
structure Obj where
  sub : Nat
  typ : Nat
  img : List Byte
  arg : Nat
  deriving DecidableEq, Repr

/-- Free handles, as runs of cells, that prepare has taken from pool src for pool dst (R14, R234). -/
structure PoolMove where
  src : Nat
  dst : Nat
  runs : List (Nat × Nat)
  deriving DecidableEq, Repr

/-- The key that prepare copied for a record of a MACSEC_SA object: its handle, value, and whether the key has become
stale since (R473, Table 16.12a). -/
structure SaKey where
  handle : Nat
  key : Nat
  stale : Bool
  deriving DecidableEq, Repr

/-- A commit that returned OK and is not applied yet (R14 to R17), with what its prepare reserved: free handles that pools
hand over, and the chains of its INJECT objects in order. -/
structure Commit where
  num : Nat
  target : Nat
  objs : List Obj
  moves : List PoolMove
  frames : List Nat
  /-- one for each record of its MACSEC_SA objects, in order -/
  sas : List SaKey
  deriving DecidableEq, Repr

/-- The Commit Gate (R14 to R18, R108, R109). -/
structure CommitGate where
  /-- the open commit group -/
  group : Option (List Obj)
  /-- commits that returned OK, oldest first -/
  committed : List Commit
  /-- the number of the next commit to return OK -/
  nextNum : Nat
  deriving DecidableEq, Repr

/-! ### Cores and threads (chapter 2) -/

/-- A Uarra-S core (R43, R44, R73, Tables 2.12 to 2.15). -/
structure SCore where
  w : Tbl Word
  /-- p7 to p0; bit 0 reads 1 -/
  p : BitVec 8
  pc : Word
  /-- current level: 2 Vault, 1 Supervisor, 0 User -/
  pl : BitVec 2
  /-- core-local memory -/
  lmem : Mem
  /-- STATUS without PL -/
  status : Word
  tvec : Word
  epc : Word
  cause : Word
  tval : Word
  scratch : Word
  ie : Word
  timecmp : Word
  regionBase : Tbl Word
  regionLast : Tbl Word
  vstatus : Word
  vtvec : Word
  vepc : Word
  vcause : Word
  vtval : Word
  vscratch : Word
  /-- latched pending bits: 1 TICK, 5 VAULT_DONE, 6 WB_READY (R75) -/
  latched : BitVec 8
  /-- tick count [31:0] of the step 1 that raised WB_READY (Table 2.16) -/
  wbTick : Nat
  /-- local time at which the core left reset: CYCLE counts from it -/
  startNs : Nat
  /-- instructions retired since reset -/
  retired : Nat
  /-- waiting in WFI (R65) -/
  waiting : Bool
  /-- stopped under R76 (R79) -/
  stopped : Bool
  deriving DecidableEq, Repr

/-- One entry of a thread's loop stack (R64). -/
structure LoopEnt where
  start : Word
  stop : Word
  remaining : Nat
  deriving DecidableEq, Repr

/-! ### Screen and packets (chapters 3 and 4) -/

/-- Where a frame's speculation stands (R200 to R206). -/
inductive Spec where
  /-- none was attempted: SPEC = 0 -/
  | none
  /-- attempted and refused by queue admission -/
  | refused
  /-- refused by queue admission, and counted at the end of the pass that was refused (R103, Table 6.17) -/
  | full
  /-- an enqueue stands on a queue, with a queue tag -/
  | standing
  /-- VERDICT confirm returned OK -/
  | confirmed
  /-- withdrawn -/
  | withdrawn
  deriving DecidableEq, Repr

/-- The last CON of a pass that returned OK (R197): connection index, record STATE, REMOVED, the
connection's zones and the event bits. -/
structure LastCon where
  conn : Nat
  state : Nat
  removed : Bool
  zsrc : Nat
  zdst : Nat
  ev : Nat
  deriving DecidableEq, Repr

/-- A packet in flight: what Screen and the Berm record with a frame from stage 7 until its last pass
ends (Tables 3.4 and 4.1). -/
structure Packet where
  /-- buffer handle of the frame's first cell -/
  handle : Nat
  /-- frame descriptor taken at ingress -/
  desc : Nat
  /-- frame length in bytes, FCS included -/
  len : Nat
  /-- IN_PORT -/
  src : Nat
  /-- partner mapped at stage 4 -/
  partner : Nat
  /-- epoch stamped at stage 7 -/
  epoch : Nat
  /-- bank stamped at first dispatch; false A, true B -/
  bank : Bool
  dispatched : Bool
  /-- local time of the first dispatch (t_d of R203) -/
  dispAt : Nat
  /-- sequence number, once stage 8 gave it -/
  seq : Option Nat
  profile : Nat
  rule : Nat
  ruleHit : Bool
  entry : Nat
  pass : Nat
  deep : Bool
  lenConflict : Bool
  /-- the profile's or the winning rule's NO_SPEC -/
  noSpec : Bool
  /-- extractor outputs e(0) to e(31) -/
  ext : List Nat
  /-- rule key K -/
  key : Nat
  /-- ingress time stamp, T0 short time -/
  rxTime : Nat
  /-- ingress stamp record (Table 9.6) -/
  stamp : List Byte
  /-- local time of the last ingress bit -/
  lastBit : Nat
  /-- fabric virtual channel of arrival (R410) -/
  arrVc : Option Nat
  /-- MACsec association that decrypted the frame, if any -/
  viaSa : Option Nat
  /-- carry words of the RECIRC that ended the pass before -/
  carry0 : Word
  carry1 : Word
  /-- speculation of this frame -/
  spec : Spec
  /-- queue and template of the cached verdict (w5) -/
  specQueue : Nat
  specTemplate : Nat
  specDp : Nat
  /-- the frame was offered under R157 -/
  offered : Bool
  /-- the flow key that the Berm formed, 256 bits (R196) -/
  fkey : Nat
  /-- the cache way that the standing or confirmed speculation came from -/
  specWay : Nat
  lastCon : Option LastCon
  /-- egress stamp that the frame's TX entry requests: base and cookie (Table 17.3) -/
  req : Option (Nat × Nat)
  deriving DecidableEq, Repr

/-- A number that a source has assigned and the reorder stage has not released (R158). -/
structure SeqEnt where
  num : Nat
  /-- disposed by a drop or a PUNT -/
  filled : Bool
  /-- local time at which its frame became ready -/
  ready : Option Nat
  deriving DecidableEq, Repr

/-- A rule set in force or live (R147): its epoch number and its image (Table 4.12). -/
structure RuleSet where
  num : Nat
  img : Mem
  deriving DecidableEq, Repr

/-- A range of the partner map (Table 4.7). -/
structure PartnerRange where
  low : Nat
  high : Nat
  groups : Nat
  partner : Nat
  deriving DecidableEq, Repr

/-- Screen (chapter 4). -/
structure Screen where
  current : Option RuleSet
  older : Option RuleSet
  /-- number that the next rule set receives (R149) -/
  nextEpoch : Nat
  /-- a rule set whose swap R150 deferred by one boundary -/
  deferred : Option RuleSet
  partnerMap : List PartnerRange
  defPartner : Tbl Nat
  seqCtr : Tbl Nat
  /-- frames that wait at stage 8, in the order of their last ingress bits -/
  waiting : List Packet
  /-- frames that completed stage 9 in this cycle are merged into this first-in first-out queue -/
  dispatchQ : List Packet
  /-- numbers not yet released, oldest first, for each source (R158) -/
  reorder : Tbl (List SeqEnt)
  /-- the engine last used in each group (R155) -/
  groupLast : Tbl Nat
  deriving DecidableEq, Repr

/-- A Uarra-P thread (R43, R44, R70, R87, R88). -/
structure Thread where
  w : Tbl Word
  /-- p7 to p0; bit 0 reads 1 -/
  p : BitVec 8
  pc : Word
  /-- return stack, last pushed first -/
  rstack : List Word
  /-- loop stack, innermost first -/
  lstack : List LoopEnt
  scratch : Mem
  /-- header window -/
  window : List Byte
  /-- issue slots of this pass (R70) -/
  slots : Nat
  /-- the packet that the thread holds, if any -/
  pkt : Option Packet
  /-- the packet whose recirculated pass the thread is reserved for (R122) -/
  reserved : Option Packet
  /-- egress stamp mark of this pass: base and cookie (R95) -/
  mark : Option (Nat × Nat)
  deriving DecidableEq, Repr

/-- An entry of an entry table (Table 3.1). -/
structure EntryRec where
  start : Nat
  rate : Nat
  u : Nat
  c : Nat
  wns : Nat
  deriving DecidableEq, Repr

/-- A program that a bank holds, with the figures that the loader computed (R115). -/
structure Prog where
  base : Nat
  len : Nat
  c : Nat
  u : Nat
  wc : Nat
  deriving DecidableEq, Repr

/-- A program store bank (R81). -/
structure ProgBank where
  words : Tbl (BitVec 32)
  consts : Mem
  entries : Tbl EntryRec
  progs : List Prog
  /-- A_FREE or B_FREE -/
  free : Bool
  deriving DecidableEq, Repr

/-- A token bucket: tokens in the unit that its rule names, and the local time of its last refill. -/
structure Bucket where
  tokens : Nat
  upd : Nat
  deriving DecidableEq, Repr

/-- The engine array (chapter 3). -/
structure EngineArray where
  bankA : ProgBank
  bankB : ProgBank
  /-- bank in service: none, A (false) or B (true) -/
  service : Option Bool
  /-- the bank of a committed switch that awaits its boundary -/
  armed : Option Bool
  /-- the BANK object of the armed switch has applied; the switch is made at the next step 3 that no step of T0 and no change of P defers -/
  deferred : Bool
  /-- SWITCH_DEFERRED -/
  switchDeferred : Bool
  /-- entry buckets, tokens in units of 10^-9 packet (R85) -/
  buckets : Tbl Bucket
  /-- issue selector of each engine: the thread with priority (R67) -/
  prio : Tbl Nat
  threads : Tbl Thread
  deriving DecidableEq, Repr

/-! ### Counters -/

/-- The 64-bit data-plane counters, in the order of their counter tables (R493); the comment names the
subsystem whose section holds them. -/
inductive Ctr where
  -- subsystem 1 (Table 10.14)
  | rxErr
  | macsecDrop
  | txAborted
  | fecCorrected
  | fecUncorrected
  | linkDowns
  | linkUps
  | recalDone
  | recalAbort
  | plcaLost
  | plcaCollisions
  | segOversize
  | tc10Sleeps
  | tc10Wakes
  | fastRefused
  | txdTimeouts
  | busShorts
  | saStaleDrop
  -- subsystem 2 (Table 7.15)
  | cellsTx
  | cellsRx
  | creditStallTicks
  | cellErr
  | seqGap
  | abortedRx
  | fcsErr
  | saStaleDropCv
  -- subsystem 3 (Table 4.17)
  | rxFrames
  | discardErr
  | noRulesetDrop
  | lenConflictDrop
  | deepDrop
  | partnerDrop
  | waitDrop
  | dispatched
  | reorderGap
  | reorderLate
  | profileHits
  | ruleHits
  | entryDrop
  | admitDrop
  -- subsystem 4 (R493)
  | dropReason
  | recircLimit
  | doneDrop
  | disposeIgnored
  -- subsystem 5 (Table 5.10)
  | lookups
  | hits
  | entries
  | learned
  | learnExisted
  | learnBudget
  | learnFull
  | evicted
  | aged
  | relocated
  | writeBusy
  | lpmLookups
  | lpmMisses
  | units
  -- subsystem 6 (Table 6.17)
  | probes
  | specConfirmed
  | specRefused
  | specWithdrawnEarly
  | specWithdrawnLate
  | specLate
  | stomped
  | stompEcc
  | cacheInstalls
  | cacheSkipped
  | connOpened
  | connDenied
  | connLimited
  | connFull
  | connExpired
  | connReset
  | connClosed
  | connCount
  -- subsystem 7 (Table 7.15)
  | admitRefused
  | flushed
  | flushedBytes
  | holdExpired
  | holdDisplaced
  | spoilFull
  | spoilExpired
  | spoilFlushed
  | downDrop
  | pauseFlush
  | hsBypass
  | spilledCells
  | descDrop
  -- subsystem 8 (Table 7.15)
  | allocOk
  | allocEmpty
  | cacheDry
  | inUse
  | borrowed
  | poolDrop
  | losslessDrop
  | reclaimed
  -- subsystem 9 (Table 8.12)
  | txFramesQ
  | txFramesP
  | txBytesQ
  | txBytesP
  | gateOversize
  | expressOversize
  | preempted
  | green
  | yellow
  | red
  | greenBytes
  | yellowBytes
  | redBytes
  | sfOversize
  | sfBlocked
  | sfGateClosed
  | haltTx
  | haltPortDown
  | haltRx
  | haltSuppressed
  | unattachedDrop
  | templateSkip
  | templateDrop
  | injectSent
  | injectDrop
  -- subsystem 10 (Table 9.13)
  | tsEgress
  | tsStomped
  | tsNotSent
  | ppsCaptures
  | ppsOverrun
  | ppsNoBase
  | steps
  -- subsystem 11 (Table 11.13)
  | contractDrop
  | contractRed
  | breaches
  | relayRxFrames
  | rxNoBuf
  | relayTxFrames
  | txOverflow
  | txExpired
  | busOffs
  | noResponse
  | linErr
  | spallFwd
  | spallMiss
  | acfSkipped
  | acfMalformed
  | busIdBad
  | formatRefused
  -- subsystem 15 (Table 13.12)
  | deltasSent
  | deltasApplied
  | deltaBytesTotal
  | lagEvents
  | renewMissed
  | configDiverge
  | seqAdjust
  | seqPassed
  | seqDiscard
  | seqRogue
  | seqResets
  | frameCrcErr
  | naks
  | txStandby
  -- subsystem 18 (Table 14.9)
  | violations
  | thaws
  | hostStalls
  | ctrlRestarts
  | restartIgnored
  | vcOrderDrop
  deriving DecidableEq, Repr

/-! ### The lookup complex (chapter 5) -/

/-- A slot (Table 5.4), or an overflow entry, whose keyw then holds all 256 key bits (R170). -/
structure LSlot where
  keyw : Nat
  data : Nat
  used : Bool
  vis : Bool
  static : Bool
  hit : Bool
  strike : Bool
  swept : Bool
  tag : Nat
  width : Nat
  part : Nat
  ctag : Nat
  table : Nat
  pstatic : Bool
  pdata : Nat
  deriving DecidableEq, Repr

/-- The fields of a table's TABLE_DEF (Table 5.3). -/
structure TableDef where
  learn : Bool
  age : Bool
  notify : Bool
  random : Bool
  dram : Bool
  key : Nat
  sweep : Nat
  lrnBurst : Nat
  lrnRate : Nat
  maxEntries : Nat
  ovfMax : Nat
  partLimit : Nat
  seed : Nat
  deriving DecidableEq, Repr

/-- A defined exact-match table. -/
structure LTable where
  defn : TableDef
  /-- learning bucket, in units of 2^-16 x 10^-9 token (R177) -/
  bucket : Bucket
  /-- new_by_partner of this tick (R176) -/
  newBy : Tbl Nat
  /-- pass parity PH -/
  ph : Bool
  /-- start of the pass in progress (local time) and its length in seconds -/
  passStart : Nat
  passLen : Nat
  deriving DecidableEq, Repr

/-- A commit tag (R183, R184). -/
inductive TagState where
  | free
  /-- held by the prepared commit of that number -/
  | prepared (num : Nat)
  /-- its commit has applied: applied[c] = 1 -/
  | applied
  /-- its commit was aborted -/
  | aborted
  deriving DecidableEq, Repr

/-- What an LRN under relocation still has to do (R180). -/
structure LrnCtx where
  thread : Nat
  d : Nat
  table : Nat
  key : Nat
  data : Nat
  partner : Nat
  deriving DecidableEq, Repr

/-- An entry under relocation (R180): its tier, the slot indices of its old and new copies, and the LRN
that waits for its drains. -/
structure Reloc where
  dram : Bool
  old : Nat
  new : Nat
  ctx : LrnCtx
  deriving DecidableEq, Repr

/-- One route of a domain (Table 5.7). -/
structure Route where
  v6 : Bool
  len : Nat
  addr : Nat
  data : Nat
  deriving DecidableEq, Repr

/-- A defined routing domain (R185). -/
structure Domain where
  dram : Bool
  quota : Nat
  routes : List Route
  deriving DecidableEq, Repr

/-- A tier's exact-match stores: slots by 4 x bucket + slot, and overflow entries (Table 5.1). -/
structure LTier where
  slots : Tbl LSlot
  ovf : Tbl LSlot
  /-- the tier's 16-bit LFSR (R181) -/
  lfsr : BitVec 16
  /-- LRN writes pending behind a relocation, oldest first (R174, R175) -/
  waiting : List LrnCtx
  /-- what a Warm reset kept of the DRAM tier's slots and overflow entries: no entry, but still what a read of their bytes gives
  (Table 0.7, R194) -/
  keptSlots : Tbl LSlot
  keptOvf : Tbl LSlot
  deriving DecidableEq, Repr

/-- The lookup complex (chapter 5). -/
structure Lookup where
  onDie : LTier
  dram : LTier
  tables : Tbl (Option LTable)
  tags : Tbl TagState
  relocs : List Reloc
  domains : Tbl (Option Domain)
  deriving DecidableEq, Repr

/-! ### The Berm (chapter 6) -/

/-- A verdict cache entry with VALID = 1 (Table 6.1). -/
structure VEntry where
  key : Nat
  epoch : Nat
  queue : Nat
  template : Nat
  dp : Nat
  zfrom : Nat
  zto : Nat
  dir : Bool
  conn : Nat
  hit : Bool
  deriving DecidableEq, Repr

/-- A connection (R211, Tables 6.13 and 6.14); the back pointers name cache ways (R198). -/
structure Conn where
  key : Nat
  /-- 1 OPENING, 2 ESTABLISHED, 3 CLOSING -/
  state : Nat
  hs : Bool
  rSeen : Bool
  finI : Bool
  finR : Bool
  zsrc : Nat
  zdst : Nat
  tclass : Nat
  cachedI : Option Nat
  cachedR : Option Nat
  idle : Nat
  /-- seconds spent in Retained mode that the next visit adds (R215) -/
  addIdle : Nat
  /-- local time of the last visit, OPEN or UPDATE (R215) -/
  visited : Nat
  /-- ceased to be found, place not yet freed (R217) -/
  cleared : Bool
  deriving DecidableEq, Repr

/-- The Berm (chapter 6). -/
structure Berm where
  /-- verdict cache, by 4 x set + way -/
  cache : Tbl (Option VEntry)
  /-- connections by CONN -/
  conns : Tbl (Option Conn)
  /-- connections of each zone pair, by 32 x source + destination -/
  pairCount : Tbl Nat
  /-- retired epochs whose entries are still to be cleared, oldest first; SCRUB_BUSY while there is one -/
  scrub : List Nat
  deriving DecidableEq, Repr

/-! ### Stockpile, Hopper and fabric (chapter 7) -/

/-- The record of a cell: generation, whether it is allocated, where its bytes are, and the pool whose
ring it came from with the pool that borrowed it (R222, R230, R232). -/
structure CellRec where
  gen : Nat
  live : Bool
  /-- the head-store bank that holds it, if any; none is the DRAM tier -/
  bank : Option Nat
  pool : Nat
  borrower : Option Nat
  /-- a head-store write of it waits at the bank matcher -/
  writing : Bool
  deriving DecidableEq, Repr

/-- A live chain (R223, R236): its cells in order, hold count, named last owner, whether it is PENDING,
and its bytes by offset. -/
structure Chain where
  cells : List Nat
  hold : Nat
  owner : Nat
  pending : Bool
  data : Mem
  deriving DecidableEq, Repr

/-- A pending cell of a bank matcher requester (Table 7.5); age is local time of the request. -/
structure PendCell where
  req : Nat
  cell : Nat
  write : Bool
  age : Nat
  deriving DecidableEq, Repr

/-- A Hopper pool (R232, Table 7.6): free handles as runs of cell numbers (first, count), oldest
first, in the ring and in the cache. -/
structure Pool where
  size : Nat
  lossless : Bool
  alpha : Nat
  borrowMax : Nat
  xoff : Nat
  xon : Nat
  ring : List (Nat × Nat)
  cache : List (Nat × Nat)
  borrowed : Nat
  inUse : Nat
  deriving DecidableEq, Repr

/-- A QADMIT record (Table 7.9). -/
structure QAdmit where
  hold : Bool
  dropOld : Bool
  maxCells : Nat
  spillCells : Nat
  dp1 : Nat
  dp2 : Nat
  dp3 : Nat
  holdLife : Nat
  releaseRate : Nat
  watchGpio : Bool
  watch : Nat
  deriving DecidableEq, Repr

/-- Table 7.10. -/
inductive HoldState where
  | normal
  | holding
  | releasing
  deriving DecidableEq, Repr

/-- A frame on a queue or in transmission: its descriptor (Table 7.3) and what the device records with
it for release, tagging and time-stamping. -/
structure Desc where
  /-- index in the frame descriptor store -/
  idx : Nat
  handle : Nat
  spec : Bool
  cut : Bool
  len : Nat
  dp : Nat
  copy : Bool
  template : Nat
  queue : Nat
  seq : Nat
  src : Nat
  rxTime : Nat
  cells : Nat
  /-- place in its source's reorder order: the number it waits on, if any (R158) -/
  order : Option Nat
  partner : Nat
  /-- fabric virtual channel of arrival (R410) -/
  arrVc : Option Nat
  /-- egress stamp mark (R95) -/
  mark : Option (Nat × Nat)
  /-- 802.1CB sequence number taken at enqueue (R393) -/
  cbSeq : Option Nat
  /-- local time of the enqueue -/
  since : Nat
  /-- local time of the last ingress bit -/
  lastBit : Nat
  /-- RECIRC, PUNT and HOST delivery: a reason or an entry -/
  info : Nat
  /-- the Stockpile spills this frame wherever no copy of it is being transmitted (R231, Table 7.10) -/
  toSpill : Bool := false
  deriving DecidableEq, Repr

/-- An entry of a port's spoil list (R242, R243). -/
structure SpoilEnt where
  desc : Desc
  deadline : Nat
  deriving DecidableEq, Repr

/-- A PFC pause received for a class (R245, R246): local time at which it ends, and the tick count and
local time at which the class became paused. -/
structure PfcRx where
  ends : Nat
  since : Nat
  sinceTick : Nat
  deriving DecidableEq, Repr

/-- Stockpile (chapter 7). -/
structure Stock where
  cells : Tbl CellRec
  chains : Tbl (Option Chain)
  /-- used cells of each head-store bank -/
  bankUsed : Tbl Nat
  /-- grant pointers gp[b] (R226) -/
  gp : Tbl Nat
  pend : List PendCell
  /-- cells that a spill mover has still to copy, in order (R231) -/
  spill : List Nat
  /-- spill movers and the cells that they have read and not yet switched to the DRAM tier (R230) -/
  moved : List (Nat × Nat)
  /-- a spill for occupancy is under way (R231) -/
  spilling : Bool
  qadmit : Tbl QAdmit
  /-- STK_PARAMS (R239) -/
  residue : Nat
  hsHigh : Nat
  hsLow : Nat
  /-- frame descriptors in use -/
  descs : Tbl Bool
  /-- members (TEMPLATE, QUEUE) of each multicast group -/
  groups : Tbl (List (Nat × Nat))
  spoil : Tbl (List SpoilEnt)
  /-- PFC pauses received, by 8 x lane + class -/
  pfcRx : Tbl (Option PfcRx)
  /-- 8 x lane + class that PFC holds paused at the sender, with the local time of the next repeat -/
  pfcTx : Tbl (Option Nat)
  /-- the PFC frames most recently sent on each Conveyor lane, a class and its quanta, oldest first (R247) -/
  pfcOut : Tbl (List (Nat × Nat))
  /-- classes flushed under R246 and still paused, by 8 x node + class; a fabric port keeps them for each lane and virtual channel
  (blockIdx) -/
  blocked : Tbl Bool
  deriving DecidableEq, Repr

/-- The Hopper (chapter 7). -/
structure Hopper where
  pools : Tbl Pool
  /-- POOL_MAP: pool of 8 x node + class, and default class of 512 + node -/
  poolMap : Tbl Nat
  /-- ledger of each thread: first cell and the thread's holds (R238) -/
  ledger : Tbl (List (Nat × Nat))
  deriving DecidableEq, Repr

/-- A queue's binding to a remote device (R250). -/
structure Bind where
  dev : Nat
  vc : Nat
  direct : Bool
  rxLport : Nat
  remoteQueue : Nat
  deriving DecidableEq, Repr

/-- A frame in reassembly on a lane's virtual channel (R253). -/
structure RxFrame where
  bytes : List Byte
  len : Nat
  direct : Bool
  queue : Nat
  dp : Nat
  lport : Nat
  /-- T0 short time and stamp record at the SOF cell (R305) -/
  rxTime : Nat
  stamp : List Byte
  /-- the Stockpile cells that the Hopper has given it, and whether it is dropped for want of one (R248, R253) -/
  cells : List Nat
  lost : Bool
  deriving DecidableEq, Repr

/-- A cell in a channel's receive buffer, with the T0 short time and the stamp record of its arrival (R305). -/
structure RxCell where
  cell : List Byte
  rxTime : Nat
  stamp : List Byte
  deriving DecidableEq, Repr

/-- One virtual channel of a fabric lane, both directions (R251 to R253). -/
structure LaneVc where
  /-- S: DATA cells sent -/
  sent : Nat
  /-- latest K received from the peer -/
  kPeer : Nat
  /-- K: cumulative credit given -/
  kOwn : Nat
  txSeq : Nat
  rxSeq : Nat
  rxFrame : Option RxFrame
  /-- the frame in progress is discarded at its next cell -/
  rxBad : Bool
  /-- cells received that wait in the receive buffer for a place, oldest first (R252, R253) -/
  waits : List RxCell
  /-- tick count since which cells wait without credit -/
  stallTick : Option Nat
  deriving DecidableEq, Repr

/-- The Conveyor fabric (R250). -/
structure Fabric where
  devId : Nat
  laneMask : Nat
  losslessVc : Nat
  /-- neighbour device of CVk -/
  neigh : Tbl Nat
  /-- RX_CELLS of each virtual channel -/
  rxCells : Tbl Nat
  binds : Tbl (Option Bind)
  lanes : Tbl LaneVc
  /-- virtual channel that each lane's next cell reports credit for -/
  credRot : Tbl Nat
  /-- the cells most recently sent on each lane, oldest first -/
  cellsOut : Tbl (List (List Byte))
  deriving DecidableEq, Repr

/-! ### The Haul scheduler (chapter 8) -/

/-- A queue: its place in the hierarchy (R258, R260), its frames in enqueue order, its hold state and
its release bucket (R241, R272). -/
structure QueueRec where
  attached : Bool
  cls : Nat
  tc : Nat
  parent : Nat
  weight : Nat
  frames : List Desc
  hold : HoldState
  /-- release bucket: tokens in 2^-16 byte, remainder, last refill -/
  relT : Int
  relRem : Nat
  relU : Nat
  deriving DecidableEq, Repr

/-- A subscriber or service node (R258). -/
structure NodeRec where
  attached : Bool
  cls : Nat
  parent : Nat
  weight : Nat
  deriving DecidableEq, Repr

/-- The two buckets of a node (R267, R268): rates in 8 kb/s, bursts in bytes, tokens in 2^-16 byte. -/
structure Shaper where
  cir : Nat
  pir : Nat
  cbs : Nat
  pbs : Nat
  ct : Int
  pt : Int
  cRem : Nat
  pRem : Nat
  cu : Nat
  pu : Nat
  deriving DecidableEq, Repr

/-- An ingress policer (Table 8.4) with its buckets and BLOCKED. -/
structure Policer where
  mode : Nat
  sgEn : Bool
  blockOversize : Bool
  sg : Nat
  maxSdu : Nat
  cir : Nat
  pir : Nat
  cbs : Nat
  pbs : Nat
  ct : Int
  pt : Int
  cRem : Nat
  pRem : Nat
  cu : Nat
  pu : Nat
  blocked : Bool
  deriving DecidableEq, Repr

/-- An entry of a gate list: gate bits with OP, or a stream gate's OPEN, IPV_EN and IPV; interval. -/
structure GateEnt where
  /-- gate bits, or OPEN x 16 + IPV_EN x 8 + IPV for a stream gate -/
  v : Nat
  op : Nat
  ivl : Nat
  deriving DecidableEq, Repr

/-- A gate list (Table 8.5): base time in nanoseconds of its time base; no entries means the removal
of the list. -/
structure GateList where
  tb : Nat
  base : Nat
  cycle : Nat
  ents : List GateEnt
  deriving DecidableEq, Repr

/-- The gate lists of a port node or stream gate (R276 to R279). -/
structure GateState where
  /-- the active list and its start S, in ns of its time base -/
  active : Option (GateList × Nat)
  /-- the pending list and its takeover S -/
  pending : Option (GateList × Nat)
  /-- COAST: last reading of the time base in ns, and local time of it -/
  coast : Option (Nat × Nat)
  /-- a SET_AND_HOLD is in force -/
  hold : Bool
  deriving DecidableEq, Repr

/-- A MACsec association (Table 16.7, R473, R474). -/
structure Sa where
  rx : Bool
  node : Nat
  an : Nat
  xpn : Bool
  ssci : Nat
  sci : Nat
  pn : Nat
  salt : Nat
  /-- handle it was installed from, and the key bits copied from it -/
  handle : Nat
  key : Nat
  stale : Bool
  deriving DecidableEq, Repr

/-- A slew in progress (R301): increment per cycle, cycles left, remainder of the division. -/
structure Slew where
  inc : Int
  left : Nat
  rem : Int
  deriving DecidableEq, Repr

/-- A time base (R296 to R301): its value in units of 2^-32 ns. -/
structure TimeBase where
  running : Bool
  value : Int
  rate : Int
  slew : Option Slew
  stepSeq : Nat
  deriving DecidableEq, Repr

/-- TS_PORT settings of a port node and the latencies in force, in ps (R307). -/
structure TsPort where
  stampTb : Nat
  useOtp : Bool
  rxLat : Nat
  txLat : Nat
  asym : Int
  deriving DecidableEq, Repr

/-- The time bases and the ports' stamp settings at an instant of local time (R304, R307). -/
structure TimeSnap where
  when : Nat
  t0 : TimeBase
  t1 : TimeBase
  t2 : TimeBase
  t3 : TimeBase
  ports : Tbl TsPort
  deriving DecidableEq, Repr

/-- How a transmission ended: whole, or stomped with its CRC inverted and the mark of Table 6.3 for its port. -/
inductive TailMark where
  /-- not stomped -/
  | whole
  /-- no mark beside the inverted CRC: the fragment of a preemptible frame -/
  | invertedCrc
  /-- PHY transmit error symbol before it (B) -/
  | phyError
  /-- transmit error at the MII for one symbol before it (E) -/
  | miiError
  /-- ESDERR after it (M) -/
  | esdErr
  /-- error control block before it (CV) -/
  | errorBlock
  /-- a fabric cell with ABORT -/
  | abortCell
  deriving DecidableEq, Repr

/-- A frame in transmission (R266, R269, R282). -/
structure TxRec where
  desc : Desc
  /-- the bytes as sent, FCS included -/
  bytes : List Byte
  /-- local time at which its first preamble byte leaves -/
  start : Nat
  /-- frame bytes sent before the start, for a resumed fragment -/
  done : Nat
  express : Bool
  /-- nodes charged: level, index, and whether chosen in the GREEN pass (R269) -/
  path : List (Nat × Nat × Bool)
  tc : Nat
  /-- head-store cells still to be read -/
  reads : List Nat
  /-- stomped after that many frame bytes -/
  stomp : Option Nat
  halt : Bool
  /-- MACsec association used, with the packet number taken (R330) -/
  sa : Option Sa
  /-- local time at which the first preamble byte of the first fragment leaves (R284, R304) -/
  first : Nat
  /-- what was captured for the first fragment and the T0 short time of its first bit, once it has been parked (R304) -/
  cap : Option (TimeSnap × Nat)
  /-- preempted at least once (R294) -/
  parked : Bool
  /-- template skips that wait for a confirmation (R202) -/
  skips : Nat
  /-- charged to its queue's release bucket too (R269, R272) -/
  released : Bool
  deriving DecidableEq, Repr

/-- A port node (R281, R295): PORT_SCHED settings, transmission in progress, preempted frame, halt
frames that wait, and the last frame sent with how it ended. -/
structure PortRec where
  overhead : Int
  verify : Bool
  addFrag : Nat
  preempt : Nat
  maxExpress : Nat
  verified : Bool
  tx : Option TxRec
  preempted : Option TxRec
  /-- the frame of a decision made before the transmitter is free (R263) -/
  decided : Option TxRec
  /-- transmissions of standing speculations that ended stomped (R207, R309) -/
  ended : List TxRec
  haltQ : List (List Byte)
  /-- the bytes of the last frame sent, and how it ended (Table 6.3) -/
  lastSent : Option (List Byte × TailMark)
  /-- local time at which the last transmission and its gap end -/
  freeAt : Nat
  deriving DecidableEq, Repr

/-- The Haul scheduler (chapter 8). -/
structure Haul where
  queues : Tbl QueueRec
  subs : Tbl NodeRec
  svcs : Tbl NodeRec
  /-- backlogged children with their DEF, by (2^20 x parent level + parent) x 8 + class (R265) -/
  lists : Tbl (List (Nat × Int))
  /-- by 2^20 x level + index -/
  shapers : Tbl Shaper
  policers : Tbl Policer
  sgates : Tbl GateState
  gates : Tbl GateState
  ports : Tbl PortRec
  templates : Tbl (List Byte)
  /-- histogram bins and MAX_NS, by 17 x (8 x node + TC) + bin (R284) -/
  hist : Tbl Nat
  /-- HALT object in force: EN, CONSUME, ETYPE, MAGIC, DA, IN_MASK, OUT_MASK, GAP_US -/
  haltEn : Bool
  haltConsume : Bool
  haltEtype : Nat
  haltMagic : Nat
  haltDa : Nat
  haltIn : Nat
  haltOut : Nat
  haltGap : Nat
  /-- level of STOP_OUT -/
  stop : Bool
  lastNode : Nat
  haltCount : Nat
  /-- local time of the last halt frame forwarded -/
  haltAt : Option Nat
  deriving DecidableEq, Repr

/-! ### Time bases (chapter 9) -/

/-- A PPS input (R312): its record, the ball's level, local time of the last captured edge. -/
structure PpsIn where
  en : Bool
  edge : Nat
  tb : Nat
  level : Bool
  lastCap : Option Nat
  deriving DecidableEq, Repr

/-- A PPS output (R313): its record, its level, the next rising edge in ns of its base, the local
time of the fall that ends the pulse in progress, and of the last fall. -/
structure PpsOut where
  en : Bool
  tb : Nat
  start : Nat
  period : Nat
  width : Nat
  level : Bool
  next : Option Nat
  fallAt : Option Nat
  lastFall : Option Nat
  deriving DecidableEq, Repr

/-- A reader's latch set of one base (Table 9.12). -/
structure TbLatch where
  secLo : Nat
  secHi : Nat
  frac : Nat
  deriving DecidableEq, Repr

/-- The time unit (chapter 9). -/
structure TimeUnit where
  t0 : TimeBase
  t1 : TimeBase
  t2 : TimeBase
  t3 : TimeBase
  /-- by 4 x reader + base; readers 0 Triad, 1 to 4 Tally, 5 host -/
  latches : Tbl TbLatch
  tsPorts : Tbl TsPort
  ppsIn : Tbl PpsIn
  ppsOut : Tbl PpsOut
  /-- the bases and port settings as they stood after each change, newest first, as far back as a capture can lie (R299, R304, R307) -/
  log : List TimeSnap
  deriving DecidableEq, Repr

/-! ### Face (chapter 10) -/

/-- A PHY front end and the shell of its port node, 0 to 55 (Tables 10.3 and 10.11). -/
structure FacePort where
  /-- PORT_CFG: ENABLE, AUTONEG, SPEED, ROLE, EEE, TC10_EN, UP_HOLD_MS, FEC, MEDIUM, LOOPBACK, ACCEPT_SLEEP, WAKE_FWD -/
  enable : Bool
  autoneg : Bool
  speedCfg : Nat
  roleCfg : Nat
  eee : Bool
  tc10En : Bool
  upHold : Nat
  fecCfg : Nat
  medium : Bool
  loopback : Nat
  acceptSleep : Bool
  wakeFwd : Bool
  /-- LINK, UP, SPEED, LEADER, LPI of Table 10.11; local time since which the link is OK -/
  link : Bool
  linkAt : Nat
  up : Bool
  speed : Nat
  leader : Bool
  lpi : Bool
  /-- the FEC in force, and whether EEE was negotiated -/
  fec : Nat
  eeeOn : Bool
  /-- TC10 state of Table 10.11, and the local time of the last sleep request -/
  tc10 : Nat
  tc10At : Nat
  sqi : Nat
  margin : Nat
  /-- 0 no recalibration, 1 waiting, 2 running -/
  recal : Nat
  trimBad : Bool
  /-- CAL_TEMP, and whether the front end holds calibration results -/
  calTemp : Nat
  calibrated : Bool
  /-- whether the front end has calibrated itself, or kept its results, since the last reset (R332) -/
  checked : Bool
  /-- cable test: 0 none, 1 waiting, 2 running; RESULT and DIST -/
  test : Nat
  result : Nat
  dist : Nat
  /-- the PHY kept the link on entry to Retained (R323, R454) -/
  kept : Bool
  /-- local times of the last TC10_CMD WAKE and of the last wake that was forwarded from here (R338) -/
  wakeAt : Option Nat
  fwdAt : Option Nat
  deriving DecidableEq, Repr

/-- PLCA_CFG of a segment and whether PLCA is active (Table 10.5, R325). -/
structure Plca where
  en : Bool
  nodeId : Nat
  nodeCount : Nat
  toTimer : Nat
  burstCnt : Nat
  burstTimer : Nat
  segMax : Nat
  active : Bool
  /-- frames that the device may still send in its transmit opportunity of this cycle (R324) -/
  left : Nat
  deriving DecidableEq, Repr

/-- A CAN transceiver (channel c) or LIN transceiver (index 16 + l): Tables 10.7, 10.8 and 10.11. -/
structure BusPhy where
  mode : Nat
  fastEn : Bool
  wakeEn : Bool
  commander : Bool
  slope : Bool
  fast : Bool
  txdTimeout : Bool
  thermal : Bool
  short : Bool
  wakeSeen : Bool
  /-- the bus is held recessive after a fault of R328 -/
  held : Bool
  /-- MODE of the record that applied while R431 keeps the transceiver Off; it acts as BOOT_DONE applies -/
  later : Nat
  /-- the conditions of R328 that last: TXD dominant, overtemperature, short -/
  txdOn : Bool
  hotOn : Bool
  shortOn : Bool
  deriving DecidableEq, Repr

/-- Face (chapter 10). -/
structure Face where
  ports : Tbl FacePort
  plca : Tbl Plca
  phys : Tbl BusPhy
  /-- die temperature of each quadrant, a signed byte -/
  temp : Tbl Nat
  trimsLoaded : Bool
  trimFail : Bool
  /-- the fuse block: front ends (port node m) and transceivers (56 + index) whose trim record fails its CRC (R331) -/
  fuseBad : List Nat
  recalDelta : Nat
  /-- nodes that the calibration engines serve -/
  engines : List Nat
  sas : Tbl (Option Sa)
  /-- former contents of associations, oldest first: index, local time at which they were replaced or went stale, contents; frames in
  reception at that time go by them (R465, R473) -/
  sasOld : List (Nat × Nat × Option Sa)
  deriving DecidableEq, Repr

/-! ### Partners and Relay (chapter 11) -/

/-- A contract in force (Table 11.3). -/
structure Contract where
  polEn : Bool
  policer : Nat
  zoneMask : Nat
  portMask : Nat
  frameCeil : Nat
  deriving DecidableEq, Repr

/-- A CAN channel: CAN_CTL (Table 11.6), the controller's state and error counts, and its transmit buffers with
the local time at which each frame was buffered, oldest first. -/
structure CanChan where
  en : Bool
  fdEn : Bool
  xlEn : Bool
  autoRecover : Bool
  nomKbps : Nat
  fdKbps : Nat
  xlKbps : Nat
  nomSp : Nat
  dataSp : Nat
  /-- STATE of Table 11.12 -/
  state : Nat
  tecCount : Nat
  recCount : Nat
  /-- bus-off recovery has begun -/
  recovering : Bool
  bufs : List (CanMsg × Nat)
  deriving DecidableEq, Repr

/-- An identifier of a LIN channel: DIR, ENHANCED, response length, response buffer. -/
structure LinId where
  dir : Nat
  enhanced : Bool
  len : Nat
  buf : Option (List Byte)
  deriving DecidableEq, Repr

/-- A LIN channel (Table 11.7): its schedule of (identifier, SLOT_MS), identifiers, current slot and the local
time at which the next slot starts. -/
structure LinChan where
  en : Bool
  baud : Nat
  slots : List (Nat × Nat)
  ids : Tbl LinId
  slot : Nat
  running : Bool
  next : Nat
  deriving DecidableEq, Repr

/-- A Spall route (Table 11.8). -/
structure SpallRoute where
  valid : Bool
  kind : Nat
  ide : Bool
  srcCh : Nat
  linMask : Nat
  canMask : Nat
  idLow : Nat
  idHigh : Nat
  outId : Nat
  deriving DecidableEq, Repr

/-- The Relay, and the partners' contracts. -/
structure Relay where
  contracts : Tbl (Option Contract)
  /-- frames of each partner in this tick (R346) -/
  counts : Tbl Nat
  can : Tbl CanChan
  lin : Tbl LinChan
  spallOff : Bool
  relayTb : Nat
  txLife : Nat
  da : Nat
  sa : Nat
  routes : List SpallRoute
  spallBad : Bool
  spallLoaded : Bool
  /-- sequence_num of each source channel, C0 to C15 then L0 to L7 -/
  seqNum : Tbl Nat
  /-- frames that the controllers put on their buses since reset, channel and frame -/
  busOut : Tbl CanMsg
  /-- LIN response last sent on each channel -/
  linOut : Tbl (List Byte)
  deriving DecidableEq, Repr

/-! ### Triad (chapter 12) -/

/-- The tick program (R40): none raised yet, TICK raised and not taken, entered, or complete. -/
inductive TickProg where
  | none
  | raised
  | entered
  | complete
  deriving DecidableEq, Repr

/-- The Triad as a whole (Table 12.8 and R365 to R380). -/
structure Triad where
  split : Bool
  lockstepBroken : Bool
  fault : Bool
  coasting : Bool
  safe : Bool
  coastCause : Nat
  faultCause : Nat
  /-- EXCLUDED, bit i for core i -/
  excluded : BitVec 3
  /-- REJOIN_FAIL -/
  rejoinFail : BitVec 3
  safeStop : Bool
  coastLimit : Nat
  maskedCount : Nat
  latentCount : Nat
  reloads : Nat
  delayEccCorrected : Nat
  /-- the core excluded by voting in this tick, if any (Table 12.3) -/
  votedOut : Option Nat
  /-- boundaries since each core's exclusion (R370) -/
  exclBounds : Tbl Nat
  /-- a reload has copied registers and waits for pages (R369) -/
  reloading : Bool
  /-- coast limit latched when coasting began, and boundaries since detection (R373, R374) -/
  limit : Nat
  coastBounds : Nat
  tickProg : TickProg
  /-- the voter's two copies (R371) -/
  voter : Voter
  /-- core that a debug session runs (R379) -/
  debugCore : Option Nat
  deriving DecidableEq, Repr

/-! ### Fence (chapter 14) -/

/-- The Fence (R414 to R423). -/
structure Fence where
  /-- frozen master IDs, rising -/
  frozen : List Nat
  /-- frozen partners, rising -/
  partners : List Nat
  hostStall : Bool
  /-- credits withheld since (local time), and which -/
  stallSince : Nat
  lastViolation : List Nat
  /-- INFO and PC held for each frozen Tally core (R417) -/
  heldInfo : Tbl Nat
  heldPc : Tbl Nat
  /-- consecutive boundaries at which no tick program was entered (R421) -/
  noTick : Nat
  deriving DecidableEq, Repr
/-! ### Pair unit (chapter 13) -/

/-- ROLE (Table 13.11). -/
inductive Role where
  | active
  | lead
  | follow
  | rejoin
  | off
  deriving DecidableEq, Repr

/-- A delta on receipt: the TICK of its frames, chunks received, and whether it was prepared whole. -/
structure RxDelta where
  tick : Nat
  chunks : List Chunk
  ready : Bool
  deriving DecidableEq, Repr

/-- An 802.1CB recovery function (R395): its record and its history: the last number taken, the window of
numbers seen (bit i is the number i below it), and boundaries since it passed a frame. -/
structure Recovery where
  strip : Bool
  takeNoSeq : Bool
  history : Nat
  vid : Nat
  da : Nat
  resetTicks : Nat
  last : Option Nat
  seen : Nat
  idle : Nat
  deriving DecidableEq, Repr

/-- A lease order that step 2 applied and step 5 performs (R387). -/
inductive LeaseOrder where
  | take
  | join
  | force
  | release
  deriving DecidableEq, Repr

/-- A frame sent on the pair link: TYPE (Table 13.2) and TICK. -/
structure PairFrame where
  typ : Nat
  tick : Nat
  /-- CHUNK: the chunk of a DELTA or BULK frame, or the chunk that a NAK names; zero in others -/
  chunk : Nat
  deriving DecidableEq, Repr

/-- The Pair unit. -/
structure Pair where
  /-- PAIR_EN as option loading sampled it (R383) -/
  en : Bool
  role : Role
  lane0 : Bool
  lane1 : Bool
  sync : Bool
  lagging : Bool
  lost : Bool
  joinPending : Bool
  side : Bool
  /-- PEER_ROLE: 4 when the peer is lost -/
  peerRole : Nat
  busHeld : Bool
  /-- SKEW_NS, 16 bits -/
  skew : Nat
  lastRenew : Nat
  lastAck : Nat
  deltaBytes : Nat
  bulkLeft : Nat
  yieldOnLoss : Bool
  takeOnExpiry : Bool
  leaseLen : Nat
  /-- FUNC of each template whose GEN_EN is 1 (R393) -/
  genMap : Tbl (Option Nat)
  /-- generation counters -/
  genCtr : Tbl Nat
  /-- generation counters at the last seal -/
  genSealed : Tbl Nat
  recovery : Tbl (Option Recovery)
  /-- changes that the data plane made in this tick -/
  changes : List DeltaRec
  /-- chunks of the sealed delta still to be sent, and those sent in this tick -/
  txChunks : List Chunk
  txSent : List Chunk
  /-- the delta on receipt -/
  rx : Option RxDelta
  /-- bulk records received in this tick, and whether the last chunk was among them -/
  bulkRx : List DeltaRec
  bulkLast : Bool
  /-- while a peer rejoins, the place in the walk of the next bulk record, and the bulk bytes sent in this tick -/
  bulkTx : Option Nat
  bulkBytes : Nat
  /-- an ACK has come since the device last became Lead (log entry 29) -/
  acked : Bool
  /-- a Lead by RELEASE that has had no ACK yet: the tick from which its yield is reckoned (log entry 29) -/
  heir : Option Nat
  /-- the REQ that waits lost a contention (R389) -/
  contended : Bool
  /-- lease order applied at this boundary's step 2 -/
  orders : List LeaseOrder
  /-- tick of the REQ that waits for its GRANT -/
  reqTick : Option Nat
  /-- GRANT, RELEASE received: step 5 of the next boundary takes the lease -/
  granted : Bool
  released : Bool
  /-- tick count at which the peer was lost -/
  lostTick : Option Nat
  /-- COMMIT_DIGEST of the last boundary -/
  digest : Nat
  /-- image bytes of the objects applied at the current step 2 -/
  digestBytes : List Byte
  /-- frames sent since the last boundary -/
  sent : List PairFrame
  /-- a lag occurred since the Rejoin in progress began -/
  rejoinLag : Bool
  /-- the device left Lead because it began to coast: while it coasts its deltas keep flowing (Table 13.8) -/
  source : Bool
  /-- lagging as Follow, or the peer lost in Rejoin: step 5 of the next boundary moves ROLE (R387) -/
  lagDue : Bool
  peerGone : Bool
  /-- indices of the chunks received in this tick, and of those that a NAK has named and that have not come since -/
  rxSeen : List Nat
  rxMiss : List Nat
  /-- a lane went down in this tick while the device received its peer's chunks (R398, R401) -/
  laneLost : Bool
  deriving DecidableEq, Repr


/-! ### Events (chapter 17) -/

/-- A record of the data-plane event queue (R494): SEQ, T0 short time of the posting, subsystem index
and the four payload words; and the index from which the rotating order stood at the posting. -/
structure EvRec where
  seq : Nat
  time : Nat
  sub : Nat
  payload : List Nat
  turn : Nat
  deriving DecidableEq, Repr

/-- The data-plane event queue of the tick in progress (R494, R495). -/
structure EventQ where
  recs : List EvRec
  nextSeq : Nat
  /-- records posted in this tick -/
  count : Nat
  lost : Nat
  deriving DecidableEq, Repr

/-! ### Supply, modes, reset and wake (chapter 15) -/

/-- Table 15.3. -/
inductive Mode where
  | off
  | dormant
  | retained
  | waking
  | limp
  | active
  | lead
  | follow
  | rejoin
  | maintenance
  | recovery
  | factory
  deriving DecidableEq, Repr

/-- SLEEP_STATE of Table 15.14. -/
inductive SleepState where
  | none
  | agreed
  | committed
  deriving DecidableEq, Repr

/-- TARGET of a SLEEP object. -/
inductive SleepTarget where
  | dormant
  | retained
  deriving DecidableEq, Repr

/-- A GPIO (Table 15.9). -/
structure Gpio where
  oe : Bool
  value : Bool
  pull : Nat
  /-- level that the board drives; none where it drives none -/
  ext : Option Bool
  deriving DecidableEq, Repr

/-- Control of a resettable block (R442). -/
structure Block where
  power : Bool
  /-- POWER is 1 but the block has not come up -/
  rising : Bool
  result : Nat
  busy : Bool
  deriving DecidableEq, Repr

/-- The Gatehouse. -/
structure Gatehouse where
  mode : Mode
  lastMode : Mode
  sleepState : SleepState
  target : SleepTarget
  tc10Mask : Nat
  canStby : Nat
  linStby : Nat
  /-- modes, with WAKE_EN at bit 2, of the channels that AGREED or Retained set to Standby, CAN c and LIN 16 + l -/
  prevModes : Tbl (Option Nat)
  /-- local time of the sleep commit, then that of its completed entry; whether the entry has completed -/
  commitAt : Nat
  entryDone : Bool
  /-- local time of the sleep commit from which TIMER_S counts, until the device has woken (Table 15.8) -/
  timerAt : Option Nat
  /-- the mode that Retained was entered from resumes as Active (Table 15.4) -/
  resuming : Bool
  inh : Bool
  pen : Nat
  pgood : Nat
  /-- the level that the VIO cells sensed at the last rise of PGOOD3, in force while it is high: 3.3 V or 1.8 V (R510) -/
  vio33 : Bool
  /-- starts that failed for PG_FAIL in a row -/
  pgFails : Nat
  lockout : Bool
  bootPending : Bool
  rstCause : Nat
  /-- REACH of RST_INFO -/
  reach : Nat
  rstCount : Nat
  failStarts : Nat
  failT : Nat
  bootsel : Nat
  splitStrap : Bool
  strapRefused : Bool
  /-- sources asserted now, and since the reset in progress or the Dormant entry began (Table 15.5); bit 9 also marks a
  wake latched after the commit cycle (R449) -/
  asserted : Nat
  seen : Nat
  /-- next release step of Table 15.6; 0 when no reset is in progress -/
  relStep : Nat
  /-- effective reach of the reset in progress -/
  effReach : Nat
  late : Bool
  abandoned : Bool
  firstDetail : Nat
  first : Nat
  src : Nat
  faultSrc : Nat
  wdtEn : Bool
  escalate : Bool
  restartTicks : Nat
  bootLimit : Nat
  wakeEn : Nat
  edge : Nat
  canEn : Nat
  linEn : Nat
  timerS : Nat
  bkp : Tbl Nat
  retmem : Mem
  /-- local time of the last Backup reset, from which SECONDS counts -/
  backupAt : Nat
  /-- local time of the release that began Waking -/
  wakingAt : Nat
  /-- local time at which the safe output state was entered -/
  safeAt : Option Nat
  gpio : Tbl Gpio
  blocks : Tbl Block
  deriving DecidableEq, Repr

/-! ### Key Vault (chapter 16) -/

/-- An OTP key slot (R459). -/
structure OtpSlot where
  header : Nat
  value : Nat
  check : Nat
  deriving DecidableEq, Repr

/-- A working key (Table 16.3): the key XOR its mask, and the mask. -/
structure VKey where
  masked : Nat
  mask : Nat
  /-- WIDTH: 512 bits -/
  wide : Bool
  exportable : Bool
  /-- parent handle, 0x100 none -/
  parent : Nat
  depth : Nat
  stale : Bool
  deriving DecidableEq, Repr

/-- A signature request accepted and not completed (R470): its block's address and fields, and the IDK or the
key that it began with. -/
structure SigOp where
  ea : Nat
  agent : Nat
  msgEa : Nat
  msgLen : Nat
  mode : Nat
  role : Nat
  sigEa : Nat
  keyEa : Nat
  key : Nat
  deriving DecidableEq, Repr

/-- What the device booted from (R479): measurement, SVN, the slot that anchored it, whether its header passed, whether its sections did,
and whether it holds a Spall set. -/
structure BootInfo where
  measure : Nat
  svn : Nat
  slot : Nat
  headerOk : Bool
  sound : Bool
  spall : Bool
  /-- images tried since the release (R478) -/
  tries : Nat
  /-- the accepted image: where it was read, its header and its sections; whether the Boot ROM has run on it (R478, R479) -/
  place : Nat
  header : List Byte
  secs : List (List Byte)
  booted : Bool
  deriving DecidableEq, Repr

/-- The Vault. -/
structure Vault where
  slots : Tbl OtpSlot
  /-- lifecycle fuses: bits 2k and 2k + 1 are step k + 1 (R462) -/
  fuses : Nat
  keys : Tbl (Option VKey)
  fallbackUsed : Bool
  remaskMs : Nat
  trngFail : Bool
  sign : Option SigOp
  verify : Option SigOp
  /-- WKR and IDK are cleared once the pending signature completes (Table 16.12a) -/
  clearAfter : Bool
  /-- local time of the last re-mask pass, and whether it left the IDK to the end of a pending signature (R464) -/
  remaskAt : Nat
  remaskLate : Bool
  boot : BootInfo
  deriving DecidableEq, Repr

/-! ### Host port, mailbox rings, debug and Weighbridge (chapter 17) -/

/-- A DMA queue pair (Table 17.8). -/
structure QPair where
  rxBase : Nat
  txBase : Nat
  en : Bool
  group : Nat
  rxSize : Nat
  txSize : Nat
  rxTail : Nat
  rxHead : Nat
  txTail : Nat
  txHead : Nat
  stopped : Bool
  /-- punts dropped under R488 for want of an entry, and those longer than BUF_LEN -/
  puntDrop : Nat
  puntTooLong : Nat
  deriving DecidableEq, Repr

/-- A message in a mailbox ring: word 0 and its bytes. -/
structure MailMsg where
  word0 : Nat
  bytes : List Byte
  deriving DecidableEq, Repr

/-- A mailbox ring (R497, R498). -/
structure MailRing where
  msgs : List MailMsg
  staging : Mem
  len : Nat
  result : Nat
  seq : Nat
  /-- sends in this tick -/
  sends : Nat
  deriving DecidableEq, Repr

/-- A host command or a debug token in verification. -/
structure HostCmd where
  bytes : List Byte
  deriving DecidableEq, Repr

/-- The host port, the debug unit and the punt rings. -/
structure HostPort where
  linkUp : Bool
  width : Nat
  gen : Nat
  bootAddr : Nat
  bootLen : Nat
  /-- BOOT_GO has been written -/
  bootGo : Bool
  nonce : Nat
  cmdBlock : Mem
  cmdLive : Option HostCmd
  cmdStatus : Nat
  xspiOwner : Nat
  dbgAttached : Bool
  dbgLive : Option HostCmd
  dbgStatus : Nat
  dbgLen : Nat
  dbgWindow : Mem
  /-- TAP: selected instruction, write pointer of the token buffer, and boundary scan register -/
  tapIr : Nat
  tapPtr : Nat
  tapScan : List Bool
  /-- data of the last register read outside an instruction -/
  readOut : Nat
  /-- the host port answered the last access with Unsupported Request (R484) -/
  unsupported : Bool
  /-- the Tally cores wait in the Boot ROM for their release (R479) -/
  tallyWait : Bool
  /-- whether that read was a non-posted request of the frozen host, which completes with Completer Abort (Table 14.6) -/
  completerAbort : Bool
  pairs : Tbl QPair
  /-- host memory as written by the device and as posted with ring entries -/
  hostMem : Mem
  /-- times that each MSI-X vector fired -/
  msix : Tbl Nat
  tpHead : Nat
  tpTail : Nat
  tpDrop : Nat
  tpRing : Mem
  /-- EVQ_ACK of Tally cores 0 to 3 and of the host (4), and of the Triad (5) -/
  evqAck : Tbl Nat
  dfaultLast : Nat
  rings : Tbl MailRing
  deriving DecidableEq, Repr

/-- A published half of the counter store (R19, R492 to R494): the snapshot's tick count, period, event records
and losses, the time block, the counters, the queue samples and the histograms. -/
structure Snap where
  tick : Nat
  period : Nat
  recs : List EvRec
  lost : Nat
  time : List Byte
  counters : Tbl Nat
  /-- queue samples, by queue: bytes of Table 8.6 -/
  samples : Tbl (List Byte)
  hist : Tbl Nat
  deriving DecidableEq, Repr

/-! ### The whole state -/

/-- The state of the device. -/
structure State where
  /-- commands that wait, first in first out -/
  pending : List Instr
  /-- nanoseconds of REFCLK since reset, one time-unit cycle each (R268, R297) -/
  localNs : Nat
  /-- free values drawn so far (log entry 2) -/
  freeIdx : Nat
  bench : Bench
  gate : CommitGate
  /-- cores: 0 to 2 Triad, 3 to 6 Tally -/
  cores : Tbl SCore
  engine : EngineArray
  screen : Screen
  lookup : Lookup
  berm : Berm
  stock : Stock
  hopper : Hopper
  fabric : Fabric
  haul : Haul
  time : TimeUnit
  triad : Triad
  fence : Fence
  /-- data-plane counters, by 2^26 x subsystem + 2^20 x array + index -/
  counters : Tbl Nat
  /-- data-plane event queue of this tick (R494) -/
  events : EventQ
  /-- Face -/
  face : Face
  /-- the Relay and the partners' contracts -/
  relay : Relay
  /-- the Pair unit -/
  pair : Pair
  /-- the Gatehouse -/
  gh : Gatehouse
  /-- the Vault -/
  vault : Vault
  /-- host port, mailbox rings and debug -/
  host : HostPort
  /-- halves of the counter store (R19, R530) -/
  wb : Tbl (Option Snap)
  deriving DecidableEq, Repr

/-! ### Reset values -/

/-- Packet region cells (R221). -/
def cellCount : Nat := 25165824

/-- Base of the Boot ROM, where every core starts (R71). -/
def bootRom : Word := 0x3FF0000000#64

/-- A Triad core after reset: Vault level at the Boot ROM (R71, Tables 2.12 to 2.15; the CSRs without a
stated reset value are zero, log entry 4). -/
def SCore.triadReset : SCore :=
  { w := [], p := 1#8, pc := bootRom, pl := 2#2, lmem := [], status := 0#64, tvec := 0#64, epc := 0#64,
    cause := 0#64, tval := 0#64, scratch := 0#64, ie := 0#64, timecmp := 0#64, regionBase := [],
    regionLast := [], vstatus := 0#64, vtvec := 0#64, vepc := 0#64, vcause := 0#64, vtval := 0#64,
    vscratch := 0#64, latched := 0#8, wbTick := 0, startNs := 0, retired := 0, waiting := false,
    stopped := false }

/-- A Tally core after reset: Supervisor level at the Boot ROM (R71). -/
def SCore.tallyReset : SCore := { SCore.triadReset with pl := 1#2 }

/-- Core k after reset: 0 to 2 Triad, 3 to 6 Tally. -/
def SCore.reset (k : Nat) : SCore := if k < 3 then SCore.triadReset else SCore.tallyReset

def LSlot.empty : LSlot :=
  { keyw := 0, data := 0, used := false, vis := false, static := false, hit := false, strike := false,
    swept := false, tag := 0, width := 0, part := 0, ctag := 0, table := 0, pstatic := false, pdata := 0 }

def Thread.reset : Thread :=
  { w := [], p := 1#8, pc := 0#64, rstack := [], lstack := [], scratch := [], window := [], slots := 0,
    pkt := none, reserved := none, mark := none }

def EntryRec.zero : EntryRec := { start := 0, rate := 0, u := 0, c := 0, wns := 0 }

/-- An empty bank, released and writable (Table 3.2). -/
def ProgBank.reset : ProgBank := { words := [], consts := [], entries := [], progs := [], free := true }

/-- An entry bucket after reset: full, 64 packets in units of 10^-9 packet (R85; log entry 5). -/
def entryBucketReset : Bucket := { tokens := 64000000000, upd := 0 }

def EngineArray.reset : EngineArray :=
  { bankA := ProgBank.reset, bankB := ProgBank.reset, service := none, armed := none, deferred := false,
    switchDeferred := false, buckets := [], prio := [], threads := [] }

def Screen.reset : Screen :=
  { current := none, older := none, nextEpoch := 1, deferred := none, partnerMap := [], defPartner := [],
    seqCtr := [], waiting := [], dispatchQ := [], reorder := [], groupLast := [] }

/-- A tier after reset: empty, its LFSR at 0xACE1 (R181, R194). -/
def LTier.reset : LTier := { slots := [], ovf := [], lfsr := 0xACE1#16, waiting := [], keptSlots := [], keptOvf := [] }

def Lookup.reset : Lookup :=
  { onDie := LTier.reset, dram := LTier.reset, tables := [], tags := [], relocs := [], domains := [] }

def Berm.reset : Berm := { cache := [], conns := [], pairCount := [], scrub := [] }

/-- A cell after reset: free, generation 1, from pool 0 (R255). -/
def CellRec.reset : CellRec :=
  { gen := 1, live := false, bank := none, pool := 0, borrower := none, writing := false }

/-- Pools 1 to 31 after reset: no cells (R255). -/
def Pool.zero : Pool :=
  { size := 0, lossless := false, alpha := 0, borrowMax := 0, xoff := 0, xon := 0, ring := [], cache := [],
    borrowed := 0, inUse := 0 }

/-- Pool 0 after reset: every cell free, 1,024 in its cache (R232, R255). -/
def Pool.shared : Pool :=
  { Pool.zero with size := cellCount, cache := [(0, 1024)], ring := [(1024, cellCount - 1024)] }

/-- Pool n after reset. -/
def Pool.reset (n : Nat) : Pool := if n = 0 then Pool.shared else Pool.zero

def QAdmit.reset : QAdmit :=
  { hold := false, dropOld := false, maxCells := 0, spillCells := 0, dp1 := 0, dp2 := 0, dp3 := 0,
    holdLife := 0, releaseRate := 0, watchGpio := false, watch := 0 }

/-- The Stockpile after reset (R239, R255). -/
def Stock.reset : Stock :=
  { cells := [], chains := [], bankUsed := [], gp := [], pend := [], spill := [], moved := [], spilling := false,
    qadmit := [], residue := 8, hsHigh := 90, hsLow := 75, descs := [], groups := [], spoil := [],
    pfcRx := [], pfcTx := [], pfcOut := [], blocked := [] }

def Hopper.reset : Hopper := { pools := [], poolMap := [], ledger := [] }

def LaneVc.reset : LaneVc :=
  { sent := 0, kPeer := 0, kOwn := 0, txSeq := 0, rxSeq := 65535, rxFrame := none, rxBad := false, waits := [], stallTick := none }

def Fabric.reset : Fabric :=
  { devId := 0, laneMask := 0, losslessVc := 0, neigh := [], rxCells := [], binds := [], lanes := [],
    credRot := [], cellsOut := [] }

def QueueRec.reset : QueueRec :=
  { attached := false, cls := 0, tc := 0, parent := 0, weight := 0, frames := [], hold := .normal,
    relT := 0, relRem := 0, relU := 0 }

def NodeRec.reset : NodeRec := { attached := false, cls := 0, parent := 0, weight := 0 }

def Shaper.absent : Shaper :=
  { cir := 0, pir := 0, cbs := 0, pbs := 0, ct := 0, pt := 0, cRem := 0, pRem := 0, cu := 0, pu := 0 }

def Policer.reset : Policer :=
  { mode := 0, sgEn := false, blockOversize := false, sg := 0, maxSdu := 0, cir := 0, pir := 0, cbs := 0,
    pbs := 0, ct := 0, pt := 0, cRem := 0, pRem := 0, cu := 0, pu := 0, blocked := false }

def GateState.none : GateState := { active := .none, pending := .none, coast := .none, hold := false }

/-- Port node m after reset (R295). -/
def PortRec.reset (m : Nat) : PortRec :=
  { overhead := if m < 56 then 20 else 0, verify := false, addFrag := 0, preempt := 0,
    maxExpress := 16383, verified := false, tx := none, preempted := none, decided := none, ended := [], haltQ := [], lastSent := none, freeAt := 0 }

def Haul.reset : Haul :=
  { queues := [], subs := [], svcs := [], lists := [], shapers := [], policers := [], sgates := [],
    gates := [], ports := [], templates := [], hist := [], haltEn := false, haltConsume := false,
    haltEtype := 0, haltMagic := 0, haltDa := 0, haltIn := 0, haltOut := 0, haltGap := 0, stop := false,
    lastNode := 0, haltCount := 0, haltAt := none }

/-- A stopped base at zero (R315). -/
def TimeBase.stopped : TimeBase := { running := false, value := 0, rate := 0, slew := none, stepSeq := 0 }

/-- A port's stamp settings after reset (R315). -/
def TsPort.reset : TsPort := { stampTb := 0, useOtp := true, rxLat := 0, txLat := 0, asym := 0 }

def PpsIn.reset : PpsIn := { en := false, edge := 0, tb := 0, level := false, lastCap := none }

def PpsOut.reset : PpsOut :=
  { en := false, tb := 0, start := 0, period := 0, width := 0, level := false, next := none,
    fallAt := none, lastFall := none }

def TbLatch.zero : TbLatch := { secLo := 0, secHi := 0, frac := 0 }

/-- The time unit as it leaves reset: T0 runs from 0 (R315). -/
def TimeUnit.reset : TimeUnit :=
  { t0 := { TimeBase.stopped with running := true }, t1 := TimeBase.stopped, t2 := TimeBase.stopped,
    t3 := TimeBase.stopped, latches := [], tsPorts := [], ppsIn := [], ppsOut := [], log := [] }

/-- The Bench tick as the time unit leaves reset (R29, R30, Tables 1.9 to 1.12). -/
def Bench.reset : Bench :=
  { tickCount := 0, period := 125, oddCount := 0, oddTick := false, running := true, startNs := 0,
    startLocal := 0, disturbed := false, hiLatch := [], wbPublished := 0, arbTick := 0 }

def CommitGate.reset : CommitGate := { group := none, committed := [], nextNum := 0 }

/-- The Triad after a reset of reach 2 or more (Table 12.8, R382). -/
def Triad.reset : Triad :=
  { split := false, lockstepBroken := false, fault := false, coasting := false, safe := false,
    coastCause := 0, faultCause := 0, excluded := 0#3, rejoinFail := 0#3, safeStop := false,
    coastLimit := 7, maskedCount := 0, latentCount := 0, reloads := 0, delayEccCorrected := 0,
    votedOut := none, exclBounds := [], reloading := false, limit := 0, coastBounds := 0,
    tickProg := .none, voter := .sound, debugCore := none }

def Fence.reset : Fence :=
  { frozen := [], partners := [], hostStall := false, stallSince := 0, lastViolation := [0, 0, 0, 0],
    heldInfo := [], heldPc := [], noTick := 0 }

/-- The Pair unit after reset with PAIR_EN low: ROLE Off, PEER_ROLE 4, PAIR_CFG at its defaults (R404,
Table 13.11; the strap level is log entry 1's). -/
def Pair.reset : Pair :=
  { en := false, role := .off, lane0 := false, lane1 := false, sync := false, lagging := false, lost := false,
    joinPending := false, side := false, peerRole := 4, busHeld := false, skew := 0, lastRenew := 0, lastAck := 0,
    deltaBytes := 0, bulkLeft := 0, yieldOnLoss := true, takeOnExpiry := true, leaseLen := 3, genMap := [],
    genCtr := [], genSealed := [], recovery := [], changes := [], txChunks := [], txSent := [], rx := none,
    bulkRx := [], bulkLast := false, bulkTx := none, bulkBytes := 0, acked := false, heir := none, contended := false, orders := [], reqTick := none, granted := false,
    released := false, lostTick := some 0, digest := 0, digestBytes := [], sent := [], rejoinLag := false, source := false,
    lagDue := false, peerGone := false, rxSeen := [], rxMiss := [], laneLost := false }

/-- The highest SPEED of port node m (Tables 10.1 and 10.3, R319). -/
def topSpeed (m : Nat) : Nat :=
  if m < 8 then 6 else if m < 32 then 2 else if m < 48 then 0 else if m % 2 = 0 then 8 else 7

/-- Port node m of Face after reset (R342, Table 10.11). -/
def FacePort.reset (m : Nat) : FacePort :=
  { enable := false, autoneg := true, speedCfg := topSpeed m, roleCfg := 0, eee := false, tc10En := false, upHold := 10,
    fecCfg := 0, medium := false, loopback := 0, acceptSleep := false, wakeFwd := false, link := false, linkAt := 0,
    up := false, speed := 0, leader := false, lpi := false, fec := 0, eeeOn := false, tc10 := 0, tc10At := 0, sqi := 0,
    margin := 0, recal := 0, trimBad := false, calTemp := 0, calibrated := false, test := 0, result := 0, dist := 0,
    kept := false, checked := false, wakeAt := none, fwdAt := none }

/-- PLCA_CFG after reset (R342); BURST_TIMER, NODE_ID: log entry 4. -/
def Plca.reset : Plca :=
  { en := false, nodeId := 0, nodeCount := 8, toTimer := 32, burstCnt := 0, burstTimer := 0, segMax := 1522, active := false, left := 0 }

/-- A transceiver after reset: Off (R342). -/
def BusPhy.reset : BusPhy :=
  { mode := 0, fastEn := false, wakeEn := false, commander := false, slope := false, fast := false, txdTimeout := false,
    thermal := false, short := false, wakeSeen := false, held := false, later := 0, txdOn := false, hotOn := false, shortOn := false }

def Face.reset : Face :=
  { ports := [], plca := [], phys := [], temp := [], trimsLoaded := true, trimFail := false, fuseBad := [], recalDelta := 15,
    engines := [], sas := [], sasOld := [] }

/-- A CAN controller after reset: disabled (R361). -/
def CanChan.reset : CanChan :=
  { en := false, fdEn := false, xlEn := false, autoRecover := false, nomKbps := 0, fdKbps := 0, xlKbps := 0, nomSp := 0,
    dataSp := 0, state := 3, tecCount := 0, recCount := 0, recovering := false, bufs := [] }

def LinId.reset : LinId := { dir := 0, enhanced := false, len := 0, buf := none }

def LinChan.reset : LinChan :=
  { en := false, baud := 0, slots := [], ids := [], slot := 0, running := false, next := 0 }

/-- The Relay after reset (R361). -/
def Relay.reset : Relay :=
  { contracts := [], counts := [], can := [], lin := [], spallOff := false, relayTb := 0, txLife := 100, da := 0, sa := 0,
    routes := [], spallBad := false, spallLoaded := false, seqNum := [], busOut := [], linOut := [] }

/-- A GPIO after reset: an input with pull-down (R443, R458, R517). -/
def Gpio.reset : Gpio := { oe := false, value := false, pull := 1, ext := none }

/-- BLK_CTRL after reset (R456). -/
def Block.reset : Block := { power := true, rising := false, result := 0, busy := false }

/-- The Gatehouse at the end of the first start from Off (R433, R434, R458, Table 15.14): every rail is up, the
straps read 0 (log entry 1). -/
def Gatehouse.reset : Gatehouse :=
  { mode := .waking, lastMode := .off, sleepState := .none, target := .dormant, tc10Mask := 0, canStby := 0, linStby := 0,
    prevModes := [], commitAt := 0, entryDone := false, timerAt := none, resuming := false, inh := true, pen := 63, pgood := 63, vio33 := true,
    pgFails := 0, lockout := false, bootPending := true, rstCause := 1, reach := 4, rstCount := 1, failStarts := 1,
    failT := 0, bootsel := 0, splitStrap := false, strapRefused := false, asserted := 0, seen := 0, relStep := 0,
    effReach := 0, late := false, abandoned := false, firstDetail := 0, first := 0, src := 0, faultSrc := 1,
    wdtEn := true, escalate := false, restartTicks := 1, bootLimit := 5, wakeEn := 1, edge := 0, canEn := 0, linEn := 0,
    timerS := 0, bkp := [], retmem := [], backupAt := 0, wakingAt := 0, safeAt := none, gpio := [], blocks := [] }

/-- The Vault after reset, with blank fuses (Tables 16.3 and 16.12; log entry 8). -/
def Vault.reset : Vault :=
  { slots := [], fuses := 0, keys := [], fallbackUsed := false, remaskMs := 10, trngFail := false, sign := none,
    verify := none, clearAfter := false,
    boot := { measure := 0, svn := 0, slot := 0, headerOk := false, sound := false, spall := false, tries := 0, place := 0,
              header := [], secs := [], booted := false },
    remaskAt := 0, remaskLate := false }

/-- Queue pair q after reset (Table 17.8). -/
def QPair.reset (q : Nat) : QPair :=
  { rxBase := 0, txBase := 0, en := false, group := q % 31, rxSize := 6, txSize := 6, rxTail := 0, rxHead := 0, txTail := 0,
    txHead := 0, stopped := false, puntDrop := 0, puntTooLong := 0 }

def MailRing.reset : MailRing := { msgs := [], staging := [], len := 0, result := 0, seq := 0, sends := 0 }

/-- The host port after reset (Table 17.8, R490, R505); CMD_NONCE comes from the TRNG (log entry 2). -/
def HostPort.reset : HostPort :=
  { linkUp := false, width := 0, gen := 0, bootAddr := 0, bootLen := 0, bootGo := false, nonce := Config.resetNonce.toNat,
    cmdBlock := [], cmdLive := none, cmdStatus := 0, xspiOwner := 0x3FF, dbgAttached := false, dbgLive := none,
    dbgStatus := 0, dbgLen := 0, dbgWindow := [], tapIr := 2, tapPtr := 0, tapScan := [], readOut := 0, completerAbort := false, unsupported := false, tallyWait := true, pairs := [], hostMem := [],
    msix := [], tpHead := 0, tpTail := 0, tpDrop := 0, tpRing := [], evqAck := [], dfaultLast := 0, rings := [] }

/-- The device at the instant the time unit leaves reset after a Cold reset (R30, R315, and each
chapter's reset rule; log entry 1 names the instant). -/
def State.reset : State :=
  { pending := [], localNs := 0, freeIdx := 0, bench := Bench.reset, gate := CommitGate.reset, cores := [],
    engine := EngineArray.reset, screen := Screen.reset, lookup := Lookup.reset, berm := Berm.reset,
    stock := Stock.reset, hopper := Hopper.reset, fabric := Fabric.reset, haul := Haul.reset,
    time := TimeUnit.reset, triad := Triad.reset, fence := Fence.reset, counters := [],
    events := { recs := [], nextSeq := 0, count := 0, lost := 0 },
    face := Face.reset,
    relay := Relay.reset,
    pair := Pair.reset,
    gh := Gatehouse.reset,
    vault := Vault.reset,
    host := HostPort.reset,
    wb := [] }

/-! ### Why a step stops -/

/-- Why the machine stops with a fault.  Safe: a stopped model proves no false claim. -/
inductive Fault where
  /-- raised by a meaning where the manual gives the command no effect at all; safe -/
  | noEffect
  deriving DecidableEq, Repr

/-- Why the model gives a command no meaning. -/
inductive Refusal where
  /-- an arm of exec that has no meaning yet; safe -/
  | notModelled (mnemonic : String)
  deriving DecidableEq, Repr

end Sys2Proof.Machine
end

