-- ==== Sys2Proof/Machine/Ops.lean ====
section
/-! DEFINITION. Machine/Ops.lean: the shared operations: sparse arrays, memory, bit fields, images,
counters, events, the clock, and the accessors of the state's arrays. -/

namespace Sys2Proof.Machine

/-! ### Sparse arrays and memory -/

/-- The element at an index of a sparse array whose unlisted elements are dflt. -/
def tblGet {β : Type} (dflt : β) : Tbl β → Nat → β
  | [], _ => dflt
  | (k, v) :: t, i => if k = i then v else tblGet dflt t i

/-- Writes an element; writing the default removes the pair, so equal arrays are equal lists. -/
def tblSet {β : Type} [DecidableEq β] (dflt : β) : Tbl β → Nat → β → Tbl β
  | [], i, v => if v = dflt then [] else [(i, v)]
  | (k, x) :: t, i, v =>
    if i < k then (if v = dflt then (k, x) :: t else (i, v) :: (k, x) :: t)
    else if i = k then (if v = dflt then t else (i, v) :: t)
    else (k, x) :: tblSet dflt t i v

/-- A memory's unlisted bytes read 0x00 (log entry 3). -/
def memGet (m : Mem) (a : Nat) : Byte := tblGet 0#8 m a

def memSet (m : Mem) (a : Nat) (v : Byte) : Mem := tblSet 0#8 m a v

/-- The canonical form of a sparse array: indices strictly rising, no listed default. -/
def tblWf {β : Type} [DecidableEq β] (dflt : β) : Tbl β → Bool
  | [] => true
  | (k, v) :: t => decide (v ≠ dflt) && (match t with | [] => true | (j, _) :: _ => decide (k < j)) && tblWf dflt t

/-- The canonical form of a memory. -/
def memWf (m : Mem) : Bool := tblWf 0#8 m

/-- n bytes from address a, lowest address first. -/
def memBytes (m : Mem) (a n : Nat) : List Byte := (List.range n).map (fun i => memGet m (a + i))

/-- Writes bytes from address a on. -/
def memPut (m : Mem) (a : Nat) : List Byte → Mem
  | [] => m
  | b :: t => memPut (memSet m a b) (a + 1) t

/-! ### Numbers and bytes -/

/-- Bits [h:l] of a number (R7). -/
def bits (n h l : Nat) : Nat := n / 2 ^ l % 2 ^ (h - l + 1)

/-- Bit i of a number. -/
def bitOf (n i : Nat) : Bool := n / 2 ^ i % 2 = 1

def b2n (b : Bool) : Nat := if b then 1 else 0

/-- The number that n low bits read as in two's complement. -/
def sgn (n v : Nat) : Int := if v % 2 ^ n < 2 ^ (n - 1) then ((v % 2 ^ n : Nat) : Int) else ((v % 2 ^ n : Nat) : Int) - 2 ^ n

/-- A signed number modulo 2^n. -/
def wrapInt (n : Nat) (i : Int) : Nat := (i % 2 ^ n).toNat

/-- Little-endian value of bytes (R7). -/
def leNat : List Byte → Nat
  | [] => 0
  | b :: t => b.toNat + 256 * leNat t

/-- Big-endian value of bytes, as frame fields are written (R7). -/
def beNat (l : List Byte) : Nat := l.foldl (fun a b => a * 256 + b.toNat) 0

/-- The n little-endian bytes of a value. -/
def leBytes : Nat → Nat → List Byte
  | 0, _ => []
  | n + 1, v => BitVec.ofNat 8 v :: leBytes n (v / 256)

/-- The n big-endian bytes of a value. -/
def beBytes (n v : Nat) : List Byte := (leBytes n v).reverse

/-- Bytes added bit by bit. -/
def xorBytes (a b : List Byte) : List Byte := List.zipWith (· ^^^ ·) a b

/-- n bytes of an image from offset o; bytes past its end read zero. -/
def imgBytes (img : List Byte) (o n : Nat) : List Byte :=
  let x := (img.drop o).take n
  x ++ List.replicate (n - x.length) 0#8

/-- The 8-, 16-, 32- and 64-bit little-endian words of an image. -/
def im8 (img : List Byte) (o : Nat) : Nat := leNat (imgBytes img o 1)
def im16 (img : List Byte) (o : Nat) : Nat := leNat (imgBytes img o 2)
def im32 (img : List Byte) (o : Nat) : Nat := leNat (imgBytes img o 4)
def im64 (img : List Byte) (o : Nat) : Nat := leNat (imgBytes img o 8)

/-- The records of n bytes that follow offset o, count of them. -/
def imgRecs (img : List Byte) (o n count : Nat) : List (List Byte) :=
  (List.range count).map (fun i => imgBytes img (o + n * i) n)

def allZero (l : List Byte) : Bool := l.all (fun b => b = 0#8)

/-- Quotient rounded up. -/
def ceilDiv (a b : Nat) : Nat := (a + b - 1) / b

/-- Saturates a count at n bits. -/
def sat (n v : Nat) : Nat := min v (2 ^ n - 1)

/-- Indices 0 to n - 1 from a rotating start (R412). -/
def rotated (n start : Nat) : List Nat := (List.range n).map (fun i => (start + i) % n)

/-- The failure that R531 reports of two: lower offset first, then lower code. -/
def betterFault (x y : Nat × Nat) : Nat × Nat := if y.1 < x.1 ∨ (y.1 = x.1 ∧ y.2 < x.2) then y else x

/-- The reason code of the first failure of an object's checks in the order of R531. -/
def pickFault : List (Nat × Nat) → Option Nat
  | [] => none
  | x :: t => some (t.foldl betterFault x).2

/-- A check: the failure it gives at an offset with a code when it is broken. -/
def chk (bad : Bool) (o c : Nat) : List (Nat × Nat) := if bad then [(o, c)] else []

/-- The reflected CRC step of one bit (R169): polynomial 0x1EDC_6F41 reflected. -/
def crcBit (r : BitVec 32) : BitVec 32 :=
  if r.getLsbD 0 then (r >>> 1) ^^^ 0x82F63B78#32 else r >>> 1

def crcByte (r : BitVec 32) (b : Byte) : BitVec 32 :=
  let x := r ^^^ (b.zeroExtend 32)
  crcBit (crcBit (crcBit (crcBit (crcBit (crcBit (crcBit (crcBit x)))))))

/-- crc32c(m, s) of R169. -/
def crc32c (m : List Byte) (s : BitVec 32) : BitVec 32 := (m.foldl crcByte s) ^^^ 0xFFFFFFFF#32

/-! ### Status codes (Table 3.14) -/

def stOK : Nat := 0x00
def stMISS : Nat := 0x01
def stFULL : Nat := 0x02
def stDENIED : Nat := 0x03
def stEMPTY : Nat := 0x04
def stBUDGET : Nat := 0x05
def stABORTED : Nat := 0x06
def stEPOCHBUSY : Nat := 0x07
def stLEASELOST : Nat := 0x08
def stSTALE : Nat := 0x09
def stTORN : Nat := 0x0A
def stBADSIG : Nat := 0x0B
def stTIMEOUT : Nat := 0x0C
def stNOTIDLE : Nat := 0x0D

/-! ### Counters (R493, Table 17.5) -/

/-- The subsystem of a counter, the place of its array in that subsystem's section, and the entries of
the array (R493, Table 17.5). -/
def Ctr.place : Ctr → Nat × Nat × Nat
  | .rxErr => (1, 0, 64)
  | .macsecDrop => (1, 1, 64)
  | .txAborted => (1, 2, 64)
  | .fecCorrected => (1, 3, 64)
  | .fecUncorrected => (1, 4, 64)
  | .linkDowns => (1, 5, 64)
  | .linkUps => (1, 6, 64)
  | .recalDone => (1, 7, 64)
  | .recalAbort => (1, 8, 64)
  | .plcaLost => (1, 9, 16)
  | .plcaCollisions => (1, 10, 16)
  | .segOversize => (1, 11, 16)
  | .tc10Sleeps => (1, 12, 64)
  | .tc10Wakes => (1, 13, 64)
  | .fastRefused => (1, 14, 24)
  | .txdTimeouts => (1, 15, 24)
  | .busShorts => (1, 16, 24)
  | .saStaleDrop => (1, 17, 512)
  | .cellsTx => (2, 0, 64)
  | .cellsRx => (2, 1, 64)
  | .creditStallTicks => (2, 2, 64)
  | .cellErr => (2, 3, 64)
  | .seqGap => (2, 4, 64)
  | .abortedRx => (2, 5, 64)
  | .fcsErr => (2, 6, 64)
  | .saStaleDropCv => (2, 7, 512)
  | .rxFrames => (3, 0, 64)
  | .discardErr => (3, 1, 64)
  | .noRulesetDrop => (3, 2, 64)
  | .lenConflictDrop => (3, 3, 64)
  | .deepDrop => (3, 4, 64)
  | .partnerDrop => (3, 5, 4096)
  | .waitDrop => (3, 6, 64)
  | .dispatched => (3, 7, 64)
  | .reorderGap => (3, 8, 64)
  | .reorderLate => (3, 9, 64)
  | .profileHits => (3, 10, 64)
  | .ruleHits => (3, 11, 16384)
  | .entryDrop => (3, 12, 256)
  | .admitDrop => (3, 13, 256)
  | .dropReason => (4, 0, 256)
  | .recircLimit => (4, 1, 256)
  | .doneDrop => (4, 2, 256)
  | .disposeIgnored => (4, 3, 256)
  | .lookups => (5, 0, 256)
  | .hits => (5, 1, 256)
  | .entries => (5, 2, 256)
  | .learned => (5, 3, 256)
  | .learnExisted => (5, 4, 256)
  | .learnBudget => (5, 5, 256)
  | .learnFull => (5, 6, 256)
  | .evicted => (5, 7, 256)
  | .aged => (5, 8, 256)
  | .relocated => (5, 9, 256)
  | .writeBusy => (5, 10, 2)
  | .lpmLookups => (5, 11, 256)
  | .lpmMisses => (5, 12, 256)
  | .units => (5, 13, 256)
  | .probes => (6, 0, 64)
  | .specConfirmed => (6, 1, 64)
  | .specRefused => (6, 2, 64)
  | .specWithdrawnEarly => (6, 3, 64)
  | .specWithdrawnLate => (6, 4, 64)
  | .specLate => (6, 5, 64)
  | .stomped => (6, 6, 64)
  | .stompEcc => (6, 7, 64)
  | .cacheInstalls => (6, 8, 1)
  | .cacheSkipped => (6, 9, 1)
  | .connOpened => (6, 10, 1024)
  | .connDenied => (6, 11, 1024)
  | .connLimited => (6, 12, 1024)
  | .connFull => (6, 13, 1)
  | .connExpired => (6, 14, 1024)
  | .connReset => (6, 15, 1024)
  | .connClosed => (6, 16, 1024)
  | .connCount => (6, 17, 1024)
  | .admitRefused => (7, 0, 524288)
  | .flushed => (7, 1, 524288)
  -- the bytes that R244 counts with the frames have no array of their own in the section (R493)
  | .flushedBytes => (7, 12, 524288)
  | .holdExpired => (7, 2, 524288)
  | .holdDisplaced => (7, 3, 524288)
  | .spoilFull => (7, 4, 64)
  | .spoilExpired => (7, 5, 64)
  | .spoilFlushed => (7, 6, 64)
  | .downDrop => (7, 7, 64)
  | .pauseFlush => (7, 8, 64)
  | .hsBypass => (7, 9, 1)
  | .spilledCells => (7, 10, 1)
  | .descDrop => (7, 11, 1)
  | .allocOk => (8, 0, 32)
  | .allocEmpty => (8, 1, 32)
  | .cacheDry => (8, 2, 32)
  | .inUse => (8, 3, 32)
  | .borrowed => (8, 4, 32)
  | .poolDrop => (8, 5, 32)
  | .losslessDrop => (8, 6, 32)
  | .reclaimed => (8, 7, 32)
  | .txFramesQ => (9, 0, 524288)
  | .txFramesP => (9, 1, 64)
  | .txBytesQ => (9, 2, 524288)
  | .txBytesP => (9, 3, 64)
  | .gateOversize => (9, 4, 524288)
  | .expressOversize => (9, 5, 524288)
  | .preempted => (9, 6, 64)
  | .green => (9, 7, 131072)
  | .yellow => (9, 8, 131072)
  | .red => (9, 9, 131072)
  | .greenBytes => (9, 10, 131072)
  | .yellowBytes => (9, 11, 131072)
  | .redBytes => (9, 12, 131072)
  | .sfOversize => (9, 13, 131072)
  | .sfBlocked => (9, 14, 131072)
  | .sfGateClosed => (9, 15, 131072)
  | .haltTx => (9, 16, 64)
  | .haltPortDown => (9, 17, 64)
  | .haltRx => (9, 18, 1)
  | .haltSuppressed => (9, 19, 1)
  | .unattachedDrop => (9, 20, 1)
  | .templateSkip => (9, 21, 64)
  | .templateDrop => (9, 22, 64)
  | .injectSent => (9, 23, 1)
  | .injectDrop => (9, 24, 1)
  | .tsEgress => (10, 0, 64)
  | .tsStomped => (10, 1, 64)
  | .tsNotSent => (10, 2, 64)
  | .ppsCaptures => (10, 3, 2)
  | .ppsOverrun => (10, 4, 2)
  | .ppsNoBase => (10, 5, 2)
  | .steps => (10, 6, 4)
  | .contractDrop => (11, 0, 4096)
  | .contractRed => (11, 1, 4096)
  | .breaches => (11, 2, 4096)
  | .relayRxFrames => (11, 3, 24)
  | .rxNoBuf => (11, 4, 24)
  | .relayTxFrames => (11, 5, 24)
  | .txOverflow => (11, 6, 16)
  | .txExpired => (11, 7, 16)
  | .busOffs => (11, 8, 16)
  | .noResponse => (11, 9, 8)
  | .linErr => (11, 10, 8)
  | .spallFwd => (11, 11, 24)
  | .spallMiss => (11, 12, 24)
  | .acfSkipped => (11, 13, 1)
  | .acfMalformed => (11, 14, 1)
  | .busIdBad => (11, 15, 1)
  | .formatRefused => (11, 16, 1)
  | .deltasSent => (15, 0, 1)
  | .deltasApplied => (15, 1, 1)
  | .deltaBytesTotal => (15, 2, 1)
  | .lagEvents => (15, 3, 1)
  | .renewMissed => (15, 4, 1)
  | .configDiverge => (15, 5, 1)
  | .seqAdjust => (15, 6, 1024)
  | .seqPassed => (15, 7, 1024)
  | .seqDiscard => (15, 8, 1024)
  | .seqRogue => (15, 9, 1024)
  | .seqResets => (15, 10, 1024)
  | .frameCrcErr => (15, 11, 2)
  | .naks => (15, 12, 2)
  | .txStandby => (15, 13, 24)
  | .violations => (18, 0, 70)
  | .thaws => (18, 1, 7)
  | .hostStalls => (18, 2, 1)
  | .ctrlRestarts => (18, 3, 1)
  | .restartIgnored => (18, 4, 1)
  | .vcOrderDrop => (18, 5, 524288)

/-- The counter arrays of subsystem 1, in the order of its section. -/
def Ctr.sub1 : List Ctr :=
  [.rxErr, .macsecDrop, .txAborted, .fecCorrected, .fecUncorrected, .linkDowns, .linkUps, .recalDone, .recalAbort, .plcaLost, .plcaCollisions, .segOversize, .tc10Sleeps, .tc10Wakes, .fastRefused, .txdTimeouts, .busShorts, .saStaleDrop]

/-- The counter arrays of subsystem 2, in the order of its section. -/
def Ctr.sub2 : List Ctr :=
  [.cellsTx, .cellsRx, .creditStallTicks, .cellErr, .seqGap, .abortedRx, .fcsErr, .saStaleDropCv]

/-- The counter arrays of subsystem 3, in the order of its section. -/
def Ctr.sub3 : List Ctr :=
  [.rxFrames, .discardErr, .noRulesetDrop, .lenConflictDrop, .deepDrop, .partnerDrop, .waitDrop, .dispatched, .reorderGap, .reorderLate, .profileHits, .ruleHits, .entryDrop, .admitDrop]

/-- The counter arrays of subsystem 4, in the order of its section. -/
def Ctr.sub4 : List Ctr :=
  [.dropReason, .recircLimit, .doneDrop, .disposeIgnored]

/-- The counter arrays of subsystem 5, in the order of its section. -/
def Ctr.sub5 : List Ctr :=
  [.lookups, .hits, .entries, .learned, .learnExisted, .learnBudget, .learnFull, .evicted, .aged, .relocated, .writeBusy, .lpmLookups, .lpmMisses, .units]

/-- The counter arrays of subsystem 6, in the order of its section. -/
def Ctr.sub6 : List Ctr :=
  [.probes, .specConfirmed, .specRefused, .specWithdrawnEarly, .specWithdrawnLate, .specLate, .stomped, .stompEcc, .cacheInstalls, .cacheSkipped, .connOpened, .connDenied, .connLimited, .connFull, .connExpired, .connReset, .connClosed, .connCount]

/-- The counter arrays of subsystem 7, in the order of its section. -/
def Ctr.sub7 : List Ctr :=
  [.admitRefused, .flushed, .holdExpired, .holdDisplaced, .spoilFull, .spoilExpired, .spoilFlushed, .downDrop, .pauseFlush, .hsBypass, .spilledCells, .descDrop]

/-- The counter arrays of subsystem 8, in the order of its section. -/
def Ctr.sub8 : List Ctr :=
  [.allocOk, .allocEmpty, .cacheDry, .inUse, .borrowed, .poolDrop, .losslessDrop, .reclaimed]

/-- The counter arrays of subsystem 9, in the order of its section. -/
def Ctr.sub9 : List Ctr :=
  [.txFramesQ, .txFramesP, .txBytesQ, .txBytesP, .gateOversize, .expressOversize, .preempted, .green, .yellow, .red, .greenBytes, .yellowBytes, .redBytes, .sfOversize, .sfBlocked, .sfGateClosed, .haltTx, .haltPortDown, .haltRx, .haltSuppressed, .unattachedDrop, .templateSkip, .templateDrop, .injectSent, .injectDrop]

/-- The counter arrays of subsystem 10, in the order of its section. -/
def Ctr.sub10 : List Ctr :=
  [.tsEgress, .tsStomped, .tsNotSent, .ppsCaptures, .ppsOverrun, .ppsNoBase, .steps]

/-- The counter arrays of subsystem 11, in the order of its section. -/
def Ctr.sub11 : List Ctr :=
  [.contractDrop, .contractRed, .breaches, .relayRxFrames, .rxNoBuf, .relayTxFrames, .txOverflow, .txExpired, .busOffs, .noResponse, .linErr, .spallFwd, .spallMiss, .acfSkipped, .acfMalformed, .busIdBad, .formatRefused]

/-- The counter arrays of subsystem 15, in the order of its section. -/
def Ctr.sub15 : List Ctr :=
  [.deltasSent, .deltasApplied, .deltaBytesTotal, .lagEvents, .renewMissed, .configDiverge, .seqAdjust, .seqPassed, .seqDiscard, .seqRogue, .seqResets, .frameCrcErr, .naks, .txStandby]

/-- The counter arrays of subsystem 18, in the order of its section. -/
def Ctr.sub18 : List Ctr :=
  [.violations, .thaws, .hostStalls, .ctrlRestarts, .restartIgnored, .vcOrderDrop]

/-- Every counter, in the order of the sections and of the arrays within each. -/
def Ctr.all : List Ctr :=
  List.flatten [Ctr.sub1, Ctr.sub2, Ctr.sub3, Ctr.sub4, Ctr.sub5, Ctr.sub6, Ctr.sub7, Ctr.sub8, Ctr.sub9, Ctr.sub10, Ctr.sub11, Ctr.sub15, Ctr.sub18]

/-- The index of one entry of a counter in the state's counter array. -/
def ctrKey (c : Ctr) (i : Nat) : Nat := c.place.1 * 2 ^ 26 + c.place.2.1 * 2 ^ 20 + i

def getCtr (s : State) (c : Ctr) (i : Nat) : Nat := tblGet 0 s.counters (ctrKey c i)

/-- Adds n to a counter, 64 bits. -/
def bump (s : State) (c : Ctr) (i n : Nat) : State :=
  { s with counters := tblSet 0 s.counters (ctrKey c i) ((getCtr s c i + n) % 2 ^ 64) }

/-! ### Time (R296 to R301, R528) -/

/-- A time base by number. -/
def tbGet (t : TimeUnit) (n : Nat) : TimeBase :=
  match n with
  | 0 => t.t0
  | 1 => t.t1
  | 2 => t.t2
  | _ => t.t3

def tbSet (t : TimeUnit) (n : Nat) (b : TimeBase) : TimeUnit :=
  match n with
  | 0 => { t with t0 := b }
  | 1 => { t with t1 := b }
  | 2 => { t with t2 := b }
  | _ => { t with t3 := b }

/-- A value of a base in the range of its fields: S has 48 bits and wraps (R296). -/
def tbWrap (v : Int) : Int := v % (2 ^ 80 * 1000000000)

/-- Advance of a base by n cycles (R297), a slew's remainder falling in its last cycle (R301). -/
def tbAdvance (b : TimeBase) (n : Nat) : TimeBase :=
  if b.running = false then b
  else
    let v := b.value + n * (2 ^ 32 + b.rate)
    match b.slew with
    | none => { b with value := tbWrap v }
    | some sl =>
      if n < sl.left then { b with value := tbWrap (v + n * sl.inc), slew := some { sl with left := sl.left - n } }
      else { b with value := tbWrap (v + sl.left * sl.inc + sl.rem), slew := none }

/-- INC of R297. -/
def tbInc (b : TimeBase) : Int :=
  if b.running then 2 ^ 32 + b.rate + (match b.slew with | some x => x.inc | none => 0) else 0

/-- The base as it reads n/1000 of a cycle later, interpolated (R528). -/
def tbPart (b : TimeBase) (n : Nat) : TimeBase := { b with value := tbWrap (b.value + tbInc b * n / 1000) }

/-- The base n cycles ago, where nothing has changed it since. -/
def tbBack (b : TimeBase) (n : Nat) : TimeBase := { b with value := tbWrap (b.value - n * tbInc b) }

/-- n nanoseconds of local time pass. -/
def advance (s : State) (n : Nat) : State :=
  { s with
    localNs := s.localNs + n
    time := { s.time with t0 := tbAdvance s.time.t0 n, t1 := tbAdvance s.time.t1 n, t2 := tbAdvance s.time.t2 n,
                          t3 := tbAdvance s.time.t3 n } }

/-- Cycles until a base first reads v or more, in units of 2^-32 ns; none for a stopped base that is
below v. -/
def cyclesTo (b : TimeBase) (v : Int) : Option Nat :=
  if v ≤ b.value then some 0
  else if b.running = false then none
  else
    let r := (2 ^ 32 + b.rate).toNat
    match b.slew with
    | none => some (ceilDiv (v - b.value).toNat r)
    | some sl =>
      let q := (2 ^ 32 + b.rate + sl.inc).toNat
      let n := ceilDiv (v - b.value).toNat q
      if n ≤ sl.left then some n
      else
        let w := b.value + sl.left * (2 ^ 32 + b.rate + sl.inc) + sl.rem
        some (sl.left + ceilDiv (v - w).toNat r)

/-! ### Captures (R299, R304, R528) -/

/-- The bases and port settings as they stand. -/
def timeSnap (s : State) : TimeSnap :=
  { when := s.localNs, t0 := s.time.t0, t1 := s.time.t1, t2 := s.time.t2, t3 := s.time.t3, ports := s.time.tsPorts }

def snapBase (x : TimeSnap) (n : Nat) : TimeBase :=
  match n with
  | 0 => x.t0
  | 1 => x.t1
  | 2 => x.t2
  | _ => x.t3

/-- Every base of a snapshot, changed alike. -/
def snapMap (f : TimeBase → TimeBase) (x : TimeSnap) : TimeSnap := { x with t0 := f x.t0, t1 := f x.t1, t2 := f x.t2, t3 := f x.t3 }

/-- The entries that a capture no older than an instant can need. -/
def keepSince (old : Nat) : List TimeSnap → List TimeSnap
  | [] => []
  | x :: t => if x.when ≤ old then [x] else x :: keepSince old t

/-- Local ns for which changes are kept: longer than the longest frame takes on the slowest port. -/
def captureSpan : Nat := 16000000

/-- Notes a change of a base or of a port's stamp settings that turned old into s. -/
def logTime (old s : State) : State :=
  let l := if s.time.log.isEmpty then [timeSnap old] else s.time.log
  { s with time := { s.time with log := timeSnap s :: keepSince (s.localNs - captureSpan) l } }

/-- What a capture at an instant, in ps of local time, holds: values, rates and settings as they stood then, interpolated between
cycles (R299, R304, R528). -/
def captureAt (s : State) (ps : Nat) : TimeSnap :=
  let n := ps / 1000
  let x := match s.time.log.find? (fun x => decide (x.when ≤ n)) with
    | some x => snapMap (fun b => tbAdvance b (n - x.when)) x
    | none =>
      let x := (s.time.log.getLast?).getD (timeSnap s)
      snapMap (fun b => if x.when ≤ n then tbAdvance b (n - x.when) else tbBack b (x.when - n)) x
  { snapMap (fun b => tbPart b (ps % 1000)) x with when := n }

/-- Whole nanoseconds of a base's reading. -/
def tbNs (b : TimeBase) : Nat := (b.value / 2 ^ 32).toNat

/-- Fields of a reading (R296): seconds, nanoseconds, fraction in 2^-16 ns. -/
def tbSec (b : TimeBase) : Nat := tbNs b / 1000000000 % 2 ^ 48
def tbNano (b : TimeBase) : Nat := tbNs b % 1000000000
def tbFrac (b : TimeBase) : Nat := (b.value / 2 ^ 16 % 2 ^ 16).toNat

/-- The short time of a base (R298). -/
def shortTime (b : TimeBase) : Nat := tbNs b % 2 ^ 48

/-- T0 short time now. -/
def nowShort (s : State) : Nat := shortTime s.time.t0

/-- The signed 48-bit difference of two short times (R298). -/
def shortDiff (a b : Nat) : Int := sgn 48 ((a + 2 ^ 48 - b % 2 ^ 48) % 2 ^ 48)

/-- Length of a tick in local ns at the period in force. -/
def tickNs (s : State) : Nat := s.bench.period * 1000

/-- Cycles until the next boundary instant (R29, R31), and the T0 reading there in whole ns. -/
def boundaryDue (s : State) : Option (Nat × Nat) :=
  let p := s.bench.period * 1000
  if s.bench.running = false ∨ p = 0 then none
  else if s.bench.disturbed then
    let wait := s.bench.startLocal + p / 2 - s.localNs
    let t := tbAdvance s.time.t0 wait
    let m := ((t.value + (p * 2 ^ 32 - 1)) / (p * 2 ^ 32)).toNat * p
    (cyclesTo t (m * 2 ^ 32)).map (fun n => (wait + n, m))
  else
    let m := ((s.bench.startNs.toNat / p) + 1) * p
    (cyclesTo s.time.t0 (m * 2 ^ 32)).map (fun n => (n, m))

/-- The low 32 bits of the tick count, as records carry them. -/
def tick32 (s : State) : Nat := s.bench.tickCount % 2 ^ 32

/-! ### Events (R494, R495) -/

/-- Posts a record: subsystem n and four payload words.  The queue runs while boundaries run, and keeps
what Face posts in Retained until the return (R323, R494); a tick keeps its first 65,536 records and counts the rest. -/
def postEvent (s : State) (n : Nat) (payload : List Nat) : State :=
  if s.bench.running = false ∧ ¬(n = 1 ∧ (s.gh.mode = .retained ∨ s.gh.resuming)) then s
  else
    let q := s.events
    let r : EvRec := { seq := q.nextSeq, time := nowShort s, sub := n, payload := payload, turn := s.bench.arbTick % 18 }
    if q.count < 65536 then
      { s with events := { q with recs := q.recs ++ [r], nextSeq := (q.nextSeq + 1) % 2 ^ 64, count := q.count + 1 } }
    else
      { s with events := { q with nextSeq := (q.nextSeq + 1) % 2 ^ 64, count := q.count + 1, lost := q.lost + 1 } }

/-- Draws the next free value (log entry 2). -/
def drawFree (s : State) : Nat × State := (Config.free s.freeIdx, { s with freeIdx := s.freeIdx + 1 })

/-! ### Accessors -/

/-- Bytes of core-local memory (R44). -/
def localSize (k : Nat) : Nat := if k < 3 then 4 * 1048576 else 1048576

def getCore (s : State) (k : Nat) : SCore := tblGet (SCore.reset k) s.cores k
def setCore (s : State) (k : Nat) (c : SCore) : State := { s with cores := tblSet (SCore.reset k) s.cores k c }

def getThread (s : State) (t : Nat) : Thread := tblGet Thread.reset s.engine.threads t
def setThread (s : State) (t : Nat) (x : Thread) : State :=
  { s with engine := { s.engine with threads := tblSet Thread.reset s.engine.threads t x } }

def getBank (s : State) (b : Bool) : ProgBank := if b then s.engine.bankB else s.engine.bankA
def setBank (s : State) (b : Bool) (x : ProgBank) : State :=
  if b then { s with engine := { s.engine with bankB := x } } else { s with engine := { s.engine with bankA := x } }

def getQueue (s : State) (q : Nat) : QueueRec := tblGet QueueRec.reset s.haul.queues q
def setQueue (s : State) (q : Nat) (x : QueueRec) : State :=
  { s with haul := { s.haul with queues := tblSet QueueRec.reset s.haul.queues q x } }

def getPort (s : State) (m : Nat) : PortRec := tblGet (PortRec.reset m) s.haul.ports m
def setPort (s : State) (m : Nat) (x : PortRec) : State :=
  { s with haul := { s.haul with ports := tblSet (PortRec.reset m) s.haul.ports m x } }

def getPool (s : State) (p : Nat) : Pool := tblGet (Pool.reset p) s.hopper.pools p
def setPool (s : State) (p : Nat) (x : Pool) : State :=
  { s with hopper := { s.hopper with pools := tblSet (Pool.reset p) s.hopper.pools p x } }

def getCell (s : State) (c : Nat) : CellRec := tblGet CellRec.reset s.stock.cells c
def setCell (s : State) (c : Nat) (x : CellRec) : State :=
  { s with stock := { s.stock with cells := tblSet CellRec.reset s.stock.cells c x } }

def getChain (s : State) (c : Nat) : Option Chain := tblGet none s.stock.chains c
def setChain (s : State) (c : Nat) (x : Option Chain) : State :=
  { s with stock := { s.stock with chains := tblSet none s.stock.chains c x } }

def getQAdmit (s : State) (q : Nat) : QAdmit := tblGet QAdmit.reset s.stock.qadmit q

/-- Whether a master is frozen (R415). -/
def isFrozen (s : State) (m : Nat) : Bool := s.fence.frozen.contains m

/-- Whether a partner is frozen (R348). -/
def partnerFrozen (s : State) (p : Nat) : Bool := s.fence.partners.contains p

/-- Inserts into a rising list without repeats. -/
def insertNat (n : Nat) : List Nat → List Nat
  | [] => [n]
  | x :: t => if n < x then n :: x :: t else if n = x then x :: t else x :: insertNat n t

/-- From the sleep commit until the return is complete every port node is down (R255, R323, R452). -/
def portsSlept (s : State) : Bool := s.gh.sleepState == .committed || s.gh.mode == .retained || s.gh.resuming

/-- Whether the line of a Haul port node is up (R321, R408): Face's UP for 0 to 55, the host port for 56; nodes 57 to 63
have no link of their own (log entry 6). -/
def lineUp (s : State) (m : Nat) : Bool :=
  if m < 56 then (tblGet (FacePort.reset m) s.face.ports m).up
  else if m = 56 then !s.fence.hostStall && !portsSlept s
  else !portsSlept s

/-- UP of a Haul port node for queued traffic: in Rejoin, nodes 0 to 55 and 59 to 63 keep their links but are down (R400). -/
def portUp (s : State) (m : Nat) : Bool := lineUp s m && !(s.pair.role == .rejoin && (decide (m < 56) || decide (59 ≤ m)))

/-- Line rate of a SPEED code in Mb/s (Table 10.3). -/
def speedRate : Nat → Nat
  | 0 => 10
  | 1 => 100
  | 2 => 1000
  | 3 => 2500
  | 4 => 5000
  | 5 => 10000
  | 6 => 25000
  | 7 => 50000
  | 8 => 100000
  | _ => 0

/-- Line rate of a port node in Mb/s (R317); a fabric logical port sends at the lane's 50 Gb/s (R249);
the Relay's node 57 counts as 1 Gb/s (R352); nodes 56 and 58 have none: 0. -/
def portRate (s : State) (m : Nat) : Nat :=
  if m < 56 then (if lineUp s m then speedRate ((tblGet (FacePort.reset m) s.face.ports m).speed) else 0)
  else if m = 57 then 1000 else if m < 59 then 0 else 50000

/-- Picoseconds of a byte on a port. -/
def bytePs (s : State) (m : Nat) : Nat := if portRate s m = 0 then 0 else 8000000 / portRate s m

/-- Nanoseconds that n bytes take at a rate in Mb/s, rounded up; no time where there is no line rate. -/
def bytesNs (n rate : Nat) : Nat := if rate = 0 then 0 else ceilDiv (n * 8000) rate

/-! ### The rule set in force (Tables 4.12 and 6.6) -/

/-- The n-byte little-endian field at an offset of a rule set image. -/
def rsField (r : RuleSet) (o n : Nat) : Nat := leNat (memBytes r.img o n)

/-- The rule set of an epoch that is live. -/
def ruleSetOf (s : State) (e : Nat) : Option RuleSet :=
  match s.screen.current with
  | some r => if r.num = e then some r else match s.screen.older with
    | some o => if o.num = e then some o else none
    | none => none
  | none => none

/-- Number of the current epoch; 0 while no rule set is in force. -/
def curEpoch (s : State) : Nat := match s.screen.current with
  | some r => r.num
  | none => 0

/-- A field of the Berm zone policy section of a rule set (Table 6.6). -/
def bermField (r : RuleSet) (o n : Nat) : Nat := rsField r (rsField r 0x0C 4 + o) n

/-- port_zone[m] under an epoch (R209); 0 where the epoch is not live. -/
def portZone (s : State) (e m : Nat) : Nat := match ruleSetOf s e with
  | some r => bermField r (0x0040 + m) 1 % 32
  | none => 0

/-- partner_zone[i] under an epoch (R209). -/
def partnerZone (s : State) (e i : Nat) : Nat := match ruleSetOf s e with
  | some r => bermField r (0x0400 + i) 1 % 32
  | none => 0

/-! ### Hashing of keys (R169, R195, R211) -/

/-- The message that R169 hashes: TABLE, then the key's kw/8 bytes, most significant byte first. -/
def keyMsg (table kw key : Nat) : List Byte := BitVec.ofNat 8 table :: beBytes (kw / 8) key

/-- The two candidate buckets of a key among nb (R169). -/
def bucketPair (table kw key seed nb : Nat) : Nat × Nat :=
  let m := keyMsg table kw key
  let s := BitVec.ofNat 32 seed
  let b1 := (crc32c m s).toNat % nb
  let b2 := (crc32c m (s ^^^ 0x9E3779B9#32)).toNat % nb
  (b1, if b2 = b1 then b1 ^^^ 1 else b2)

end Sys2Proof.Machine
end

