-- ==== Sys2Proof/Machine/Encoding.lean ====
section
/-! DEFINITION. Machine/Encoding.lean: the fields of an instruction word and the legal encodings of the two
profiles (R50, R92, Tables 2.3 to 2.9, 3.5 to 3.7 and 16.4). -/

namespace Sys2Proof.Machine

/-! ### Fields of a word (Table 2.2) -/

def fOp (w : Nat) : Nat := bits w 31 25
def fD (w : Nat) : Nat := bits w 24 19
def fA (w : Nat) : Nat := bits w 18 13
def fB (w : Nat) : Nat := bits w 12 7
def fFn (w : Nat) : Nat := bits w 6 3
def fG (w : Nat) : Nat := bits w 2 0
def fImm10 (w : Nat) : Nat := bits w 12 3

/-- Whether a word is word 1 of an X instruction. -/
def isX (w : Nat) : Bool := decide (0x60 ≤ fOp w) && decide (fOp w ≤ 0x77)

/-- A compare's destinations do not name one predicate other than p0 twice (R47). -/
def pairOk (d : Nat) : Bool := decide (d % 8 ≠ d / 8) || decide (d = 0)

/-- The words that both profiles decode (Tables 2.3 to 2.8). -/
def legalCommon (w : Nat) : Bool :=
  let d := fD w; let a := fA w; let b := fB w; let fn := fFn w; let imm := fImm10 w
  match fOp w with
  | 0x00 => fn ≤ 7
  | 0x01 => fn ≤ 5
  | 0x02 => fn ≤ 4
  | 0x03 => fn ≤ 5 && b == 0
  | 0x04 => fn ≤ 7 && pairOk d
  | 0x05 => fn ≤ 7
  | 0x07 => if fn ≤ 3 then d < 8 && a < 8 && b < 8 else if fn = 4 then true else fn == 5 && d == 0 && b == 0
  | 0x20 | 0x21 | 0x22 | 0x23 => true
  | 0x24 | 0x25 | 0x26 => imm < 64
  | 0x27 => imm == 0
  | 0x28 | 0x29 | 0x2a => true
  | 0x2b | 0x2c | 0x2d | 0x2e => pairOk d
  | 0x30 | 0x31 | 0x32 | 0x33 | 0x34 => true
  | 0x40 | 0x41 | 0x42 | 0x43 | 0x44 | 0x45 | 0x46 | 0x48 | 0x49 | 0x4a | 0x4b => true
  | 0x50 | 0x51 => true
  | 0x52 => d == 0 && a == 0 && b == 0 && fn == 0
  | _ => false

/-- Registers that a key of k registers needs, within w63 (R92, R96). -/
def keyFits (a k : Nat) : Bool := a + k ≤ 64

/-- Registers of an exact key by its KEY field (R96). -/
def keyRegs (key : Nat) : Nat := 2 ^ key

/-- The packet X encodings (R92, Tables 3.5 and 3.6); y is word 2. -/
def legalPacketX (w y : Nat) : Bool :=
  let d := fD w; let a := fA w; let b := fB w; let u := fFn w
  match fOp w with
  | 0x60 => u ≤ 7 && b == 0 && bits y 30 14 == 0
  | 0x61 => if u ≤ 7 then d == 0 && bits y 30 14 == 0 else bits y 31 14 == 0
  | 0x62 => u == 0 && b == 0 && bits y 31 22 == 0 && bits y 15 11 == 0
  | 0x63 => u == 0 && bits y 31 24 == 0 && bits y 15 8 == 0
  | 0x64 => u ≤ 11 && y == 0
  | 0x65 =>
    b == 0 && bits y 30 28 == 0 && bits y 25 8 == 0 &&
      (if u = 0 then bits y 27 26 ≤ 2 && keyFits a (keyRegs (bits y 27 26))
       else u == 1 && bits y 27 26 ≤ 1 && keyFits a (bits y 27 26 + 1))
  | 0x66 =>
    bits y 30 28 == 0 && bits y 25 8 == 0 && bits y 27 26 ≤ 2 && keyFits a (keyRegs (bits y 27 26)) &&
      (u == 0 || (u == 1 && d == 0 && b == 0))
  | 0x67 => u == 0 && bits y 29 10 == 0 && keyFits a 4
  | 0x68 =>
    match u with
    | 0 => b == 0 && bits y 31 5 == 0
    | 1 => d == 0 && bits y 31 11 == 0 &&
        (y ≤ 0x24F || y == 0x400 || y == 0x401 || y == 0x402)
    | 2 | 3 => d == 0 && b == 0 && y == 0
    | _ => false
  | 0x69 => u == 0 && bits y 31 17 == 0
  | 0x6a => y == 0 && d == 0 && (u == 0 || (u == 1 && a == 0 && b == 0))
  | 0x6b => d == 0 && (if u = 0 then bits y 31 16 == 0 else u == 1 && b == 0 && bits y 31 1 == 0)
  | 0x6c =>
    d == 0 &&
      (match u with
       | 0 => b == 0 && y == 0
       | 1 => b == 0 && bits y 31 7 == 0
       | 2 => bits y 31 8 == 0
       | 3 => a == 0 && b == 0 && y == 0
       | _ => false)
  | _ => false

/-- The plane X encodings (Tables 3.7 and 16.4, R276, R388, R466). -/
def legalPlaneX (w y : Nat) : Bool :=
  let d := fD w; let a := fA w; let b := fB w; let u := fFn w
  match fOp w with
  | 0x70 => u == 0 && bits y 18 0 == 0
  | 0x71 => u == 0
  | 0x72 => u == 0 || (u == 1 && a == 0)
  | 0x73 => u ≤ 1
  | 0x74 => u ≤ 1
  | 0x75 => u == 0 || (u == 1 && bits y 31 1 == 0)
  | 0x76 => (u == 0 || (u == 1 && a == 0)) && d == 0 && b == 0
  | 0x77 =>
    match u with
    | 0 =>
      bits y 26 0 == 0 &&
        (match bits y 31 28 with
         | 0 => d == 0 && a == 0 && b == 0
         | 1 => d == 0
         | 2 => true
         | 3 => d == 0 && b == 0
         | 4 => d == 0 && b == 0
         | _ => false)
    | 1 => bits y 29 0 == 0
    | 2 => bits y 27 24 == 0 && (bitOf y 31 || d == 0)
    | 3 | 4 => y == 0 && d == 0 && b == 0
    | _ => false
  | _ => false

/-- Legal Uarra-P encodings: w is word 1, y word 2 of an X instruction. -/
def legalP (w y : Nat) : Bool :=
  match fOp w with
  | 0x4c => true
  | 0x53 => fImm10 w ≠ 0 && (fD w * 64 + fA w) ≠ 0
  | 0x54 => fImm10 w ≠ 0 && fD w ≤ 12
  | _ => legalCommon w || legalPacketX w y

/-- Legal Uarra-S encodings. -/
def legalS (w y : Nat) : Bool :=
  match fOp w with
  | 0x08 => fFn w ≤ 3
  | 0x4e => fFn w == 0
  | 0x55 => fFn w ≤ 1 && fD w == 0 && fB w == 0
  | 0x58 => fA w == 0
  | 0x59 => fD w == 0
  | 0x5a | 0x5b => true
  | 0x5c => fD w == 0 && fA w == 0
  | 0x5d | 0x5e | 0x5f => fD w == 0 && fA w == 0 && fImm10 w == 0
  | _ => legalCommon w || legalPlaneX w y

/-- The worst coprocessor wait of a packet X instruction (Table 3.5). -/
def worstWait (w y : Nat) : Nat :=
  match fOp w with
  | 0x60 => if bitOf y 31 then 400 else 4
  | 0x61 => if fFn w ≤ 7 then (if bitOf y 31 then 400 else 4) else 20
  | 0x62 => 4
  | 0x63 => 12
  | 0x64 => 12
  | 0x65 | 0x66 => if bitOf y 31 then 400 else 40
  | 0x67 => 400
  | 0x69 => 40
  | _ => 20

/-- Whether a packet X instruction is terminal (R104). -/
def isTerminal (w y : Nat) : Bool :=
  match fOp w with
  | 0x6b => if fFn w = 0 then !bitOf y 15 else fFn w == 1
  | 0x6c => fFn w ≤ 3
  | _ => false

end Sys2Proof.Machine
end

