-- ==== Sys2Proof/Machine/Operands.lean ====
section
/-! DEFINITION. Machine/Operands.lean: the registers that both profiles share, and the operations of the ALU
tables over register values (R43, R51 to R55, Tables 2.4 to 2.6). -/

namespace Sys2Proof.Machine

/-- The general registers and predicates of a thread or core (R43). -/
structure Regs where
  w : Tbl Word
  p : BitVec 8
  deriving DecidableEq, Repr

/-- Register w0 reads zero (R43). -/
def rget (r : Regs) (i : Nat) : Word := if i = 0 then 0#64 else tblGet 0#64 r.w i

/-- A write to w0 is discarded (R43). -/
def rset (r : Regs) (i : Nat) (v : Word) : Regs := if i = 0 then r else { r with w := tblSet 0#64 r.w i v }

/-- Predicate p0 reads 1 (R43). -/
def pget (r : Regs) (i : Nat) : Bool := if i = 0 then true else r.p.getLsbD i

/-- A write to p0 is discarded (R43). -/
def pset (r : Regs) (i : Nat) (b : Bool) : Regs :=
  if i = 0 then r else { r with p := if b then r.p ||| (1#8 <<< i) else r.p &&& ~~~(1#8 <<< i) }

def Thread.regs (t : Thread) : Regs := { w := t.w, p := t.p }
def Thread.setRegs (t : Thread) (r : Regs) : Thread := { t with w := r.w, p := r.p }
def SCore.regs (c : SCore) : Regs := { w := c.w, p := c.p }
def SCore.setRegs (c : SCore) (r : Regs) : SCore := { c with w := r.w, p := r.p }

/-- Sign extension of the n low bits of a number to 64 bits. -/
def sx (n v : Nat) : Word := BitVec.ofInt 64 (sgn n v)

/-! ### Register operations (Table 2.4) -/

def opMulhu (x y : Word) : Word := BitVec.ofNat 64 (x.toNat * y.toNat / 2 ^ 64)
def opMin (x y : Word) : Word := if x.toInt ≤ y.toInt then x else y
def opMax (x y : Word) : Word := if x.toInt ≤ y.toInt then y else x
def opMinu (x y : Word) : Word := if x.toNat ≤ y.toNat then x else y
def opMaxu (x y : Word) : Word := if x.toNat ≤ y.toNat then y else x

/-- The shift amount of a register shift: w[b][5:0]. -/
def shamt (y : Word) : Nat := y.toNat % 64

def opSll (x y : Word) : Word := x <<< shamt y
def opSrl (x y : Word) : Word := x >>> shamt y
def opSra (x y : Word) : Word := x.sshiftRight (shamt y)
def opRol (x y : Word) : Word := x.rotateLeft (shamt y)
def opRor (x y : Word) : Word := x.rotateRight (shamt y)

/-- Bits of a word, least significant first. -/
def wordBits (x : Word) : List Bool := (List.range 64).map (fun i => x.getLsbD i)

def opClz (x : Word) : Word := BitVec.ofNat 64 ((wordBits x).reverse.takeWhile (! ·)).length
def opCtz (x : Word) : Word := BitVec.ofNat 64 ((wordBits x).takeWhile (! ·)).length
def opPopc (x : Word) : Word := BitVec.ofNat 64 ((wordBits x).filter id).length

/-- The n low bytes of a word in reverse order. -/
def opBswap (n : Nat) (x : Word) : Word := BitVec.ofNat 64 (leNat (leBytes n x.toNat).reverse)

/-! ### Division (R52) -/

def opDivu (x y : Word) : Word := if y = 0#64 then BitVec.allOnes 64 else x / y
def opRemu (x y : Word) : Word := if y = 0#64 then x else x % y
def opDivs (x y : Word) : Word := if y = 0#64 then BitVec.allOnes 64 else BitVec.ofInt 64 (x.toInt.tdiv y.toInt)
def opRems (x y : Word) : Word := if y = 0#64 then x else BitVec.ofInt 64 (x.toInt.tmod y.toInt)

/-! ### Bit fields (R54) -/

/-- Position and length of the field that imm10 names. -/
def fieldPos (imm : BitVec 10) : Nat := imm.toNat % 64
def fieldLen (imm : BitVec 10) : Nat := imm.toNat / 64 + 1

def opExtu (x : Word) (imm : BitVec 10) : Word := BitVec.ofNat 64 (x.toNat / 2 ^ fieldPos imm % 2 ^ fieldLen imm)
def opExts (x : Word) (imm : BitVec 10) : Word := sx (fieldLen imm) (x.toNat / 2 ^ fieldPos imm)

/-- The field of old replaced by the low bits of x. -/
def opIns (old x : Word) (imm : BitVec 10) : Word :=
  let m := BitVec.ofNat 64 ((2 ^ fieldLen imm - 1) * 2 ^ fieldPos imm)
  (old &&& ~~~m) ||| ((x <<< fieldPos imm) &&& m)

/-- The 16-bit lane at bit pos of a word replaced (R55). -/
def opLane (old : Word) (pos : Nat) (imm : BitVec 16) : Word :=
  (old &&& ~~~(BitVec.ofNat 64 (65535 * 2 ^ pos))) ||| BitVec.ofNat 64 (imm.toNat * 2 ^ pos)

end Sys2Proof.Machine
end

