-- ==== Sys2Proof/Machine/Flags.lean ====
section
/-! DEFINITION. Machine/Flags.lean: the compares and the predicates that they write (R47, Table 2.4). -/

namespace Sys2Proof.Machine

/-- A compare writes its result to p[d[2:0]] and the complement to p[d[5:3]] (R47). -/
def setPair (r : Regs) (d : Nat) (b : Bool) : Regs := pset (pset r (d % 8) b) (d / 8) (!b)

def cmpEq (x y : Word) : Bool := x == y
def cmpNe (x y : Word) : Bool := x != y
def cmpLt (x y : Word) : Bool := decide (x.toInt < y.toInt)
def cmpLtu (x y : Word) : Bool := decide (x.toNat < y.toNat)
def cmpLe (x y : Word) : Bool := decide (x.toInt ≤ y.toInt)
def cmpLeu (x y : Word) : Bool := decide (x.toNat ≤ y.toNat)
def cmpTstz (x y : Word) : Bool := x &&& y == 0#64
def cmpTstnz (x y : Word) : Bool := x &&& y != 0#64

/-- Predicates p7 to p0 as a number; bit 0 reads 1. -/
def predWord (r : Regs) : Word := (r.p ||| 1#8).zeroExtend 64

/-- Predicates p1 to p7 from bits 1 to 7 of a word. -/
def predLoad (r : Regs) (x : Word) : Regs := { r with p := (r.p &&& 1#8) ||| (x.truncate 8 &&& 0xFE#8) }

/-- The end of an X instruction (R90): w1 holds the status, the detail and the bits from 16 up, and p7 whether
the status is OK. -/
def setStatus (r : Regs) (status detail high : Nat) : Regs :=
  pset (rset r 1 (BitVec.ofNat 64 (status + 256 * (detail % 256) + 65536 * high))) 7 (status == stOK)

end Sys2Proof.Machine
end

