-- ==== Sys2Proof/Machine/Aes.lean ====
section
/-! DEFINITION. Machine/Aes.lean: AES-256 (FIPS 197), AES key wrap (NIST SP 800-38F) and GCM (NIST SP 800-38D), which the Vault and
MACsec use (R330, R469, R473). -/

namespace Sys2Proof.Machine

/-! ### The cipher -/

/-- The substitution table and its inverse. -/
def aesSbox : List Byte :=
  [0x63, 0x7C, 0x77, 0x7B, 0xF2, 0x6B, 0x6F, 0xC5, 0x30, 0x01, 0x67, 0x2B, 0xFE, 0xD7, 0xAB, 0x76] ++
  [0xCA, 0x82, 0xC9, 0x7D, 0xFA, 0x59, 0x47, 0xF0, 0xAD, 0xD4, 0xA2, 0xAF, 0x9C, 0xA4, 0x72, 0xC0] ++
  [0xB7, 0xFD, 0x93, 0x26, 0x36, 0x3F, 0xF7, 0xCC, 0x34, 0xA5, 0xE5, 0xF1, 0x71, 0xD8, 0x31, 0x15] ++
  [0x04, 0xC7, 0x23, 0xC3, 0x18, 0x96, 0x05, 0x9A, 0x07, 0x12, 0x80, 0xE2, 0xEB, 0x27, 0xB2, 0x75] ++
  [0x09, 0x83, 0x2C, 0x1A, 0x1B, 0x6E, 0x5A, 0xA0, 0x52, 0x3B, 0xD6, 0xB3, 0x29, 0xE3, 0x2F, 0x84] ++
  [0x53, 0xD1, 0x00, 0xED, 0x20, 0xFC, 0xB1, 0x5B, 0x6A, 0xCB, 0xBE, 0x39, 0x4A, 0x4C, 0x58, 0xCF] ++
  [0xD0, 0xEF, 0xAA, 0xFB, 0x43, 0x4D, 0x33, 0x85, 0x45, 0xF9, 0x02, 0x7F, 0x50, 0x3C, 0x9F, 0xA8] ++
  [0x51, 0xA3, 0x40, 0x8F, 0x92, 0x9D, 0x38, 0xF5, 0xBC, 0xB6, 0xDA, 0x21, 0x10, 0xFF, 0xF3, 0xD2] ++
  [0xCD, 0x0C, 0x13, 0xEC, 0x5F, 0x97, 0x44, 0x17, 0xC4, 0xA7, 0x7E, 0x3D, 0x64, 0x5D, 0x19, 0x73] ++
  [0x60, 0x81, 0x4F, 0xDC, 0x22, 0x2A, 0x90, 0x88, 0x46, 0xEE, 0xB8, 0x14, 0xDE, 0x5E, 0x0B, 0xDB] ++
  [0xE0, 0x32, 0x3A, 0x0A, 0x49, 0x06, 0x24, 0x5C, 0xC2, 0xD3, 0xAC, 0x62, 0x91, 0x95, 0xE4, 0x79] ++
  [0xE7, 0xC8, 0x37, 0x6D, 0x8D, 0xD5, 0x4E, 0xA9, 0x6C, 0x56, 0xF4, 0xEA, 0x65, 0x7A, 0xAE, 0x08] ++
  [0xBA, 0x78, 0x25, 0x2E, 0x1C, 0xA6, 0xB4, 0xC6, 0xE8, 0xDD, 0x74, 0x1F, 0x4B, 0xBD, 0x8B, 0x8A] ++
  [0x70, 0x3E, 0xB5, 0x66, 0x48, 0x03, 0xF6, 0x0E, 0x61, 0x35, 0x57, 0xB9, 0x86, 0xC1, 0x1D, 0x9E] ++
  [0xE1, 0xF8, 0x98, 0x11, 0x69, 0xD9, 0x8E, 0x94, 0x9B, 0x1E, 0x87, 0xE9, 0xCE, 0x55, 0x28, 0xDF] ++
  [0x8C, 0xA1, 0x89, 0x0D, 0xBF, 0xE6, 0x42, 0x68, 0x41, 0x99, 0x2D, 0x0F, 0xB0, 0x54, 0xBB, 0x16]

def aesInvSbox : List Byte :=
  [0x52, 0x09, 0x6A, 0xD5, 0x30, 0x36, 0xA5, 0x38, 0xBF, 0x40, 0xA3, 0x9E, 0x81, 0xF3, 0xD7, 0xFB] ++
  [0x7C, 0xE3, 0x39, 0x82, 0x9B, 0x2F, 0xFF, 0x87, 0x34, 0x8E, 0x43, 0x44, 0xC4, 0xDE, 0xE9, 0xCB] ++
  [0x54, 0x7B, 0x94, 0x32, 0xA6, 0xC2, 0x23, 0x3D, 0xEE, 0x4C, 0x95, 0x0B, 0x42, 0xFA, 0xC3, 0x4E] ++
  [0x08, 0x2E, 0xA1, 0x66, 0x28, 0xD9, 0x24, 0xB2, 0x76, 0x5B, 0xA2, 0x49, 0x6D, 0x8B, 0xD1, 0x25] ++
  [0x72, 0xF8, 0xF6, 0x64, 0x86, 0x68, 0x98, 0x16, 0xD4, 0xA4, 0x5C, 0xCC, 0x5D, 0x65, 0xB6, 0x92] ++
  [0x6C, 0x70, 0x48, 0x50, 0xFD, 0xED, 0xB9, 0xDA, 0x5E, 0x15, 0x46, 0x57, 0xA7, 0x8D, 0x9D, 0x84] ++
  [0x90, 0xD8, 0xAB, 0x00, 0x8C, 0xBC, 0xD3, 0x0A, 0xF7, 0xE4, 0x58, 0x05, 0xB8, 0xB3, 0x45, 0x06] ++
  [0xD0, 0x2C, 0x1E, 0x8F, 0xCA, 0x3F, 0x0F, 0x02, 0xC1, 0xAF, 0xBD, 0x03, 0x01, 0x13, 0x8A, 0x6B] ++
  [0x3A, 0x91, 0x11, 0x41, 0x4F, 0x67, 0xDC, 0xEA, 0x97, 0xF2, 0xCF, 0xCE, 0xF0, 0xB4, 0xE6, 0x73] ++
  [0x96, 0xAC, 0x74, 0x22, 0xE7, 0xAD, 0x35, 0x85, 0xE2, 0xF9, 0x37, 0xE8, 0x1C, 0x75, 0xDF, 0x6E] ++
  [0x47, 0xF1, 0x1A, 0x71, 0x1D, 0x29, 0xC5, 0x89, 0x6F, 0xB7, 0x62, 0x0E, 0xAA, 0x18, 0xBE, 0x1B] ++
  [0xFC, 0x56, 0x3E, 0x4B, 0xC6, 0xD2, 0x79, 0x20, 0x9A, 0xDB, 0xC0, 0xFE, 0x78, 0xCD, 0x5A, 0xF4] ++
  [0x1F, 0xDD, 0xA8, 0x33, 0x88, 0x07, 0xC7, 0x31, 0xB1, 0x12, 0x10, 0x59, 0x27, 0x80, 0xEC, 0x5F] ++
  [0x60, 0x51, 0x7F, 0xA9, 0x19, 0xB5, 0x4A, 0x0D, 0x2D, 0xE5, 0x7A, 0x9F, 0x93, 0xC9, 0x9C, 0xEF] ++
  [0xA0, 0xE0, 0x3B, 0x4D, 0xAE, 0x2A, 0xF5, 0xB0, 0xC8, 0xEB, 0xBB, 0x3C, 0x83, 0x53, 0x99, 0x61] ++
  [0x17, 0x2B, 0x04, 0x7E, 0xBA, 0x77, 0xD6, 0x26, 0xE1, 0x69, 0x14, 0x63, 0x55, 0x21, 0x0C, 0x7D]

def aesSub (b : Byte) : Byte := aesSbox.getD b.toNat 0
def aesInvSub (b : Byte) : Byte := aesInvSbox.getD b.toNat 0

/-- Product of a byte with x, and with a polynomial of four bits. -/
def aesDouble (b : Byte) : Byte := (b <<< 1) ^^^ (if b.getLsbD 7 then 0x1B#8 else 0#8)

def aesMul (k : BitVec 4) (b : Byte) : Byte :=
  let d := aesDouble b
  let q := aesDouble d
  (if k.getLsbD 0 then b else 0) ^^^ (if k.getLsbD 1 then d else 0) ^^^ (if k.getLsbD 2 then q else 0)
    ^^^ (if k.getLsbD 3 then aesDouble q else 0)

/-- The constant of round i. -/
def aesRcon : Nat → Byte
  | 0 => 1#8
  | n + 1 => aesDouble (aesRcon n)

/-- n further words of the key schedule, newest first. -/
def aesExtend : Nat → List (List Byte) → List (List Byte)
  | 0, l => l
  | n + 1, l =>
    let i := l.length
    let t := l.headD []
    let t := if i % 8 = 0 then xorBytes ((t.drop 1 ++ t.take 1).map aesSub) [aesRcon (i / 8 - 1), 0, 0, 0]
      else if i % 8 = 4 then t.map aesSub else t
    aesExtend n (xorBytes (l.getD 7 []) t :: l)

/-- The 15 round keys of a key of 32 bytes. -/
def aesKeys (key : List Byte) : List (List Byte) :=
  let w := (aesExtend 52 ((List.range 8).map (fun i => imgBytes key (4 * i) 4)).reverse).reverse.flatten
  (List.range 15).map (fun i => imgBytes w (16 * i) 16)

/-- Byte r + 4c of a state whose row r has moved by k columns to the left. -/
def aesShift (k : Nat → Nat) (x : List Byte) : List Byte :=
  (List.range 16).map (fun i => x.getD (i % 4 + 4 * ((i / 4 + k (i % 4)) % 4)) 0)

/-- Each column times a circulant matrix, given by its first row. -/
def aesMix (m : List (BitVec 4)) (x : List Byte) : List Byte :=
  (List.range 16).map (fun i => (List.range 4).foldl (fun a j =>
    a ^^^ aesMul (m.getD ((j + 4 - i % 4) % 4) 0) (x.getD (i / 4 * 4 + j) 0)) 0#8)

/-- The cipher on a block of 16 bytes under the round keys. -/
def aesEnc (ks : List (List Byte)) (b : List Byte) : List Byte :=
  let x := ((ks.drop 1).take 13).foldl (fun x k => xorBytes (aesMix [2, 3, 1, 1] (aesShift id (x.map aesSub))) k) (xorBytes b (ks.headD []))
  xorBytes (aesShift id (x.map aesSub)) (ks.getD 14 [])

/-- The inverse cipher. -/
def aesDec (ks : List (List Byte)) (b : List Byte) : List Byte :=
  let back (x : List Byte) : List Byte := (aesShift (fun r => 4 - r) x).map aesInvSub
  let x := ((ks.drop 1).take 13).reverse.foldl (fun x k => aesMix [14, 11, 13, 9] (xorBytes (back x) k)) (xorBytes b (ks.getD 14 []))
  xorBytes (back x) (ks.headD [])

/-! ### Key wrap (R469) -/

/-- A pass over the semiblocks: what is carried, the step's number, and the semiblocks done, newest first. -/
def kwPass (ks : List (List Byte)) (n : Nat) (x : List Byte × Nat × List (List Byte)) : List Byte × Nat × List (List Byte) :=
  (List.range n).foldl (fun y i =>
    let b := aesEnc ks (y.1 ++ x.2.2.getD i [])
    (xorBytes (b.take 8) (beBytes 8 y.2.1), y.2.1 + 1, y.2.2 ++ [b.drop 8])) (x.1, x.2.1, [])

/-- The same pass backwards. -/
def kwBack (ks : List (List Byte)) (n : Nat) (x : List Byte × Nat × List (List Byte)) : List Byte × Nat × List (List Byte) :=
  (List.range n).foldl (fun y i =>
    let b := aesDec ks (xorBytes y.1 (beBytes 8 y.2.1) ++ x.2.2.getD (n - 1 - i) [])
    (b.take 8, y.2.1 - 1, b.drop 8 :: y.2.2)) (x.1, x.2.1, [])

/-- The wrapped form of bytes, a multiple of 8, under a key encryption key. -/
def kwWrap (key p : List Byte) : List Byte :=
  let ks := aesKeys key
  let n := p.length / 8
  let r := (List.range n).map (fun i => imgBytes p (8 * i) 8)
  let y := (List.range 6).foldl (fun x _ => kwPass ks n x) (List.replicate 8 0xA6#8, 1, r)
  y.1 ++ y.2.2.flatten

/-- The bytes that were wrapped, where the integrity check passes. -/
def kwUnwrap (key c : List Byte) : Option (List Byte) :=
  let ks := aesKeys key
  let n := c.length / 8 - 1
  let r := (List.range n).map (fun i => imgBytes c (8 + 8 * i) 8)
  let y := (List.range 6).foldl (fun x _ => kwBack ks n x) (c.take 8, 6 * n, r)
  if y.1 = List.replicate 8 0xA6#8 then some y.2.2.flatten else none

/-! ### GCM (R330, R473) -/

/-- The product in the field of GHASH, over the bits of x from bit n - 1 down. -/
def ghashMul (x : BitVec 128) : Nat → BitVec 128 → BitVec 128 → BitVec 128
  | 0, _, z => z
  | n + 1, v, z =>
    ghashMul x n ((v >>> 1) ^^^ (if v.getLsbD 0 then 0xE1#128 <<< 120 else 0)) (if x.getLsbD n then z ^^^ v else z)

/-- Blocks of 16 bytes, the last one padded with zeros. -/
def gcmBlocks (b : List Byte) : List (BitVec 128) :=
  (List.range ((b.length + 15) / 16)).map (fun i => BitVec.ofNat 128 (beNat (imgBytes b (16 * i) 16)))

/-- GHASH under h of associated data and ciphertext with their lengths. -/
def ghash (h : BitVec 128) (aad c : List Byte) : BitVec 128 :=
  (gcmBlocks aad ++ gcmBlocks c ++ [BitVec.ofNat 128 (8 * aad.length * 2 ^ 64 + 8 * c.length)]).foldl (fun y b => ghashMul (y ^^^ b) 128 h 0) 0

/-- Counter mode from counter block i + 1 on, under a nonce of 12 bytes. -/
def gcmCounter (ks : List (List Byte)) (iv : List Byte) (b : List Byte) : List Byte :=
  xorBytes b ((List.range ((b.length + 15) / 16)).flatMap (fun i => aesEnc ks (iv ++ beBytes 4 ((i + 2) % 2 ^ 32))))

/-- The tag of associated data and ciphertext. -/
def gcmTag (ks : List (List Byte)) (iv aad c : List Byte) : List Byte :=
  let h := BitVec.ofNat 128 (beNat (aesEnc ks (List.replicate 16 0#8)))
  xorBytes (beBytes 16 (ghash h aad c).toNat) (aesEnc ks (iv ++ beBytes 4 1))

end Sys2Proof.Machine
end

