-- ==== Sys2Proof/Machine/Stockpile.lean ====
section
/-! DEFINITION. Machine/Stockpile.lean: cells, pools, chains, ownership, the bank matcher and spill
(R220 to R238, R247, R248). -/

namespace Sys2Proof.Machine

/-! ### Runs of free handles -/

def runsLen (l : List (Nat × Nat)) : Nat := l.foldl (fun a r => a + r.2) 0

/-- Takes n cells from the front of a list of runs. -/
def runsTake : Nat → List (Nat × Nat) → List Nat × List (Nat × Nat)
  | _, [] => ([], [])
  | n, (f, c) :: t =>
    if n < c then ((List.range n).map (f + ·), (f + n, c - n) :: t)
    else
      let r := runsTake (n - c) t
      ((List.range c).map (f + ·) ++ r.1, r.2)

/-- Moves n cells from the front of a list of runs, as runs. -/
def runsSplit : Nat → List (Nat × Nat) → List (Nat × Nat) × List (Nat × Nat)
  | _, [] => ([], [])
  | n, (f, c) :: t =>
    if n = 0 then ([], (f, c) :: t)
    else if n < c then ([(f, n)], (f + n, c - n) :: t)
    else
      let r := runsSplit (n - c) t
      ((f, c) :: r.1, r.2)

/-- Returns one cell to the back of a list of runs. -/
def runsPut (c : Nat) : List (Nat × Nat) → List (Nat × Nat)
  | [] => [(c, 1)]
  | [(f, n)] => if f + n = c then [(f, n + 1)] else [(f, n), (c, 1)]
  | x :: t => x :: runsPut c t

/-- Free handles of a pool, ring and cache together: free[p]. -/
def poolFree (p : Pool) : Nat := runsLen p.ring + runsLen p.cache

/-! ### Pause of lossless classes (R247) -/

/-- Whether node m is a Conveyor lane in Ethernet mode (R245, R250). -/
def isCvEthernet (s : State) (m : Nat) : Bool :=
  decide (48 ≤ m) && decide (m < 56) && !bitOf s.fabric.laneMask (m - 48)

/-- Nanoseconds of n quanta of 512 bit times at a rate in Mb/s. -/
def quantaNs (n rate : Nat) : Nat := if rate = 0 then 0 else ceilDiv (n * 512 * 1000) rate

/-- Pool of ingress class c of node m (R234). -/
def poolOf (s : State) (m c : Nat) : Nat := tblGet 0 s.hopper.poolMap (8 * m + c)

/-- Whether a lane sends PFC: it is an Ethernet lane whose node is up, outside the safe output state (R247, R375). -/
def pfcRuns (s : State) (lane : Nat) : Bool := isCvEthernet s (48 + lane) && lineUp s (48 + lane) && !s.triad.safe

/-- PFC frames kept of each lane's output. -/
def pfcKept : Nat := 16

/-- A PFC frame for a class leaves on a lane; k is 8 x lane + class (R247). -/
def sendPfc (s : State) (k quanta : Nat) : State :=
  let l := tblGet [] s.stock.pfcOut (k / 8) ++ [(k % 8, quanta)]
  { s with stock := { s.stock with pfcOut := tblSet [] s.stock.pfcOut (k / 8) (l.drop (l.length - pfcKept)) } }

/-- Sets or ends the sending of PFC for every class of a Conveyor Ethernet lane that maps to pool p: XOFF
reached sends quanta 0xFFFF, a fall below XON quanta 0; a pool that is not lossless sends none (R247). -/
def pfcLevel (s : State) (p : Nat) : State :=
  let x := getPool s p
  if x.lossless = false then
    { s with stock := { s.stock with pfcTx := s.stock.pfcTx.filter (fun e => poolOf s (48 + e.1 / 8) (e.1 % 8) != p) } }
  else
    (List.range 64).foldl (fun s k =>
      let m := 48 + k / 8
      if isCvEthernet s m && poolOf s m (k % 8) == p then
        match tblGet none s.stock.pfcTx k with
        | none =>
          if x.inUse ≥ x.xoff ∧ pfcRuns s (k / 8) then
            sendPfc { s with stock := { s.stock with pfcTx := tblSet none s.stock.pfcTx k (some s.localNs) } } k 0xFFFF
          else s
        | some _ =>
          if x.inUse < x.xon then
            let s := { s with stock := { s.stock with pfcTx := tblSet none s.stock.pfcTx k none } }
            if pfcRuns s (k / 8) then sendPfc s k 0 else s
          else s
      else s) s

/-! ### Allocation (R233) -/

/-- What a pool answers to a request for cells. -/
inductive AllocRes where
  | ok (cells : List Nat)
  /-- nothing taken; CACHE_DRY when the pool's ring and cache together hold enough -/
  | empty (dry : Bool)
  deriving DecidableEq, Repr

/-- Marks a cell taken from pool p's ring, on loan to b if any. -/
def takeCell (p : Nat) (b : Option Nat) (s : State) (c : Nat) : State :=
  setCell s c { getCell s c with live := true, bank := none, pool := p, borrower := b, writing := false }

/-- Cells that pool p may have on loan (lim of R233). -/
def borrowLimit (s : State) (p : Nat) : Nat :=
  let x := getPool s p
  if x.alpha = 0 then 0 else min x.borrowMax (poolFree (getPool s 0) * 2 ^ x.alpha / 128)

/-- An allocation of n cells from pool p (R233). -/
def allocCells (s : State) (p n : Nat) : State × AllocRes :=
  let x := getPool s p
  let own := min n (runsLen x.cache)
  let need := n - own
  let got := runsTake own x.cache
  if need = 0 then
    let s := setPool s p { x with cache := got.2, inUse := x.inUse + n }
    let s := got.1.foldl (takeCell p none) s
    (bump (pfcLevel s p) .allocOk p 1, .ok got.1)
  else if p ≠ 0 ∧ need ≤ runsLen (getPool s 0).cache ∧ x.borrowed + need ≤ borrowLimit s p then
    let z := getPool s 0
    let lent := runsTake need z.cache
    let s := setPool s p { x with cache := got.2, inUse := x.inUse + own, borrowed := x.borrowed + need }
    let s := setPool s 0 { z with cache := lent.2, inUse := z.inUse + need }
    let s := got.1.foldl (takeCell p none) s
    let s := lent.1.foldl (takeCell 0 (some p)) s
    (bump (pfcLevel s p) .allocOk p 1, .ok (got.1 ++ lent.1))
  else
    let dry := decide (poolFree x ≥ n)
    let s := bump s .allocEmpty p 1
    (if dry then bump s .cacheDry p 1 else s, .empty dry)

/-- The generation after g (R222). -/
def nextGen (g : Nat) : Nat := if g ≥ 127 then 1 else g + 1

/-- A drain burst: 64 handles from the cache to the ring (R232). -/
def drained (x : Pool) : Pool :=
  let r := runsSplit 64 x.cache
  { x with cache := r.2, ring := x.ring ++ r.1 }

/-- Handles that a pool's cache holds (R232). -/
def cacheSize : Nat := 1024

/-- Frees a cell: its generation advances and its handle returns to the pool whose ring it came from;
a full cache drains first (R222, R232). -/
def freeCell (s : State) (c : Nat) : State :=
  let r := getCell s c
  let s := match r.bank with
    | some b => { s with stock := { s.stock with bankUsed := tblSet 0 s.stock.bankUsed b (tblGet 0 s.stock.bankUsed b - 1) } }
    | none => s
  let s := setCell s c { CellRec.reset with gen := nextGen r.gen }
  let s := { s with stock := { s.stock with pend := s.stock.pend.filter (fun x => x.cell != c),
                                            spill := s.stock.spill.filter (· != c)
                                            moved := s.stock.moved.filter (fun e => e.2 != c) } }
  let x := getPool s r.pool
  let x := if runsLen x.cache ≥ cacheSize then drained x else x
  let s := setPool s r.pool { x with cache := runsPut c x.cache, inUse := x.inUse - 1 }
  match r.borrower with
  | some b => let y := getPool s b; setPool s b { y with borrowed := y.borrowed - 1 }
  | none => s

/-- Frees cells, and resumes the classes whose pools fall below XON (R247). -/
def freeCells (s : State) (cells : List Nat) : State :=
  let ps := (cells.map (fun c => (getCell s c).pool)).eraseDups
  ps.foldl pfcLevel (cells.foldl freeCell s)

/-- Frees a chain by its first cell. -/
def freeChain (s : State) (first : Nat) : State :=
  match getChain s first with
  | none => s
  | some ch => setChain (freeCells s ch.cells) first none

/-! ### Handles and ownership (R222, R223, R236) -/

/-- The handle of a cell at its current generation (Table 7.2). -/
def handleOf (s : State) (c : Nat) : Nat := (getCell s c).gen * 2 ^ 25 + c

def handleCell (h : Nat) : Nat := h % 2 ^ 25
def handleGen (h : Nat) : Nat := h / 2 ^ 25 % 2 ^ 7

/-- What a handle names. -/
inductive HandleState where
  | live (first : Nat)
  /-- a free cell whose generation is one ahead of the handle's -/
  | behind
  | stale
  deriving DecidableEq, Repr

/-- A handle names a live chain only by its first cell and current generation (R222, R223). -/
def handleState (s : State) (h : Nat) : HandleState :=
  let c := handleCell h
  let r := getCell s c
  if r.live then
    if r.gen = handleGen h ∧ (getChain s c).isSome then .live c else .stale
  else if handleGen h ≠ 0 ∧ nextGen (handleGen h) = r.gen ∧ c < cellCount then .behind
  else .stale

/-- The answer to an ownership request: done, FULL, or a violation code of Table 14.5. -/
inductive OwnRes where
  | ok (s : State)
  | full
  | viol (code : Nat)

def vADDR : Nat := 0x01
def vDOUBLEFREE : Nat := 0x02
def vFOREIGNFREE : Nat := 0x03
def vOVERRELEASE : Nat := 0x04
def vSTALE : Nat := 0x05
def vBUDGET : Nat := 0x06
def vTICK : Nat := 0x07
def vUNAUTH : Nat := 0x08
def vCONTRACT : Nat := 0x09
def vVAULT : Nat := 0x0A

/-- SHARE of n holds naming last owner x (Table 7.8). -/
def ownShare (s : State) (h n x : Nat) : OwnRes :=
  match handleState s h with
  | .live c =>
    match getChain s c with
    | some ch =>
      if ch.hold + n > 255 then .full
      else .ok (setChain s c (some { ch with hold := ch.hold + n, owner := x, pending := false }))
    | none => .viol vSTALE
  | _ => .viol vSTALE

/-- RELEASE of one hold (Table 7.8). -/
def ownRelease (s : State) (h : Nat) : OwnRes :=
  match handleState s h with
  | .live c =>
    match getChain s c with
    | some ch =>
      if ch.hold ≥ 2 then .ok (setChain s c (some { ch with hold := ch.hold - 1 }))
      else if ch.pending then .ok (freeChain s c)
      else .viol vOVERRELEASE
    | none => .viol vSTALE
  | _ => .viol vSTALE

/-- FREE by m (Table 7.8). -/
def ownFree (s : State) (m h : Nat) : OwnRes :=
  match handleState s h with
  | .live c =>
    match getChain s c with
    | some ch =>
      if ch.owner ≠ m then .viol vFOREIGNFREE
      else if ch.pending then .viol vDOUBLEFREE
      else if ch.hold ≥ 2 then .ok (setChain s c (some { ch with hold := ch.hold - 1, pending := true }))
      else .ok (freeChain s c)
    | none => .viol vSTALE
  | .behind => .viol vDOUBLEFREE
  | .stale => .viol vSTALE

/-- Drops the Haul scheduler's hold of a chain: a FREE where the scheduler is the owner, else a RELEASE, which leaves the last
hold of an OWNED chain to its owner (Table 7.8, R237, R243, R244). -/
def dropHold (s : State) (h : Nat) : State :=
  match ownFree s 0x400 h with
  | .ok s => s
  | _ => match ownRelease s h with
    | .ok s => s
    | _ => s

/-! ### The ledger of a pass (R238) -/

def getLedger (s : State) (t : Nat) : List (Nat × Nat) := tblGet [] s.hopper.ledger t
def setLedger (s : State) (t : Nat) (l : List (Nat × Nat)) : State :=
  { s with hopper := { s.hopper with ledger := tblSet [] s.hopper.ledger t l } }

/-- Adds n, or takes one, from the thread's holds on a ledger chain. -/
def ledgerAdd (s : State) (t h n : Nat) : State :=
  setLedger s t ((getLedger s t).map (fun e => if e.1 = h then (e.1, e.2 + n) else e))
def ledgerSub (s : State) (t h : Nat) : State :=
  setLedger s t ((getLedger s t).map (fun e => if e.1 = h then (e.1, e.2 - 1) else e))

/-- Releases up to n holds of a chain, stopping at one that would leave an OWNED chain with none; answers
how many it released. -/
def releaseHolds (s : State) (h : Nat) : Nat → State × Nat
  | 0 => (s, 0)
  | n + 1 =>
    match ownRelease s h with
    | .ok s' => let r := releaseHolds s' h n; (r.1, r.2 + 1)
    | _ => (s, 0)

/-- Ends one ledger chain of thread t's pass (R238). -/
def reclaimChain (t : Nat) (s : State) (e : Nat × Nat) : State :=
  match handleState s e.1 with
  | .live c =>
    let p := (getCell s c).borrower.getD (getCell s c).pool
    match ownFree s t e.1 with
    | .ok s1 =>
      let r := releaseHolds s1 e.1 (e.2 - 1)
      bump r.1 .reclaimed p 1
    | _ =>
      let r := releaseHolds s e.1 e.2
      if r.2 > 0 then bump r.1 .reclaimed p 1 else s
  | _ => s

/-- The Hopper's end of a pass: every ledger chain is processed and the ledger empties (R238). -/
def passEndReclaim (s : State) (t : Nat) : State :=
  setLedger ((getLedger s t).foldl (reclaimChain t) s) t []

/-! ### The bank matcher (R225 to R228) -/

def bankFree (s : State) (b : Nat) : Nat := 6144 - tblGet 0 s.stock.bankUsed b

/-- HS_USED: head-store cells in use. -/
def hsUsed (s : State) : Nat := s.stock.bankUsed.foldl (fun a e => a + e.2) 0

/-- Whether bank b can serve a pending cell (R226). -/
def canServe (s : State) (b : Nat) (x : PendCell) : Bool :=
  if x.write then decide (bankFree s b > 256) else (getCell s x.cell).bank == some b

/-- The pending cells of requester r, oldest first. -/
def pendOf (s : State) (r : Nat) : List PendCell := s.stock.pend.filter (fun x => x.req == r)

/-- Switches a cell's location to the DRAM tier and frees its head-store cell; a read of it that has not begun takes it from
its home (R230). -/
def spillCell (s : State) (c : Nat) : State :=
  let r := getCell s c
  match r.bank with
  | none => { s with stock := { s.stock with spill := s.stock.spill.filter (· != c) } }
  | some b =>
    let s := { s with stock := { s.stock with bankUsed := tblSet 0 s.stock.bankUsed b (tblGet 0 s.stock.bankUsed b - 1),
                                              spill := s.stock.spill.filter (· != c),
                                              pend := s.stock.pend.filter (fun x => !(x.cell == c && !x.write)) } }
    bump (setCell s c { r with bank := none }) .spilledCells 0 1

/-- Performs the access of a matched pair: an ingress write enters bank b, an egress read is done, and a
spill mover has the cell in hand. -/
def matchedAccess (s : State) (b : Nat) (x : PendCell) : State :=
  let s := { s with stock := { s.stock with pend := s.stock.pend.filter (· != x) } }
  if x.write then
    let s := { s with stock := { s.stock with bankUsed := tblSet 0 s.stock.bankUsed b (tblGet 0 s.stock.bankUsed b + 1) } }
    setCell s x.cell { getCell s x.cell with bank := some b, writing := false }
  else if x.req ≥ 16 then { s with stock := { s.stock with moved := s.stock.moved ++ [(x.req - 16, x.cell)] } }
  else s

/-- What one cell time has matched so far: requesters, banks, pairs with their cells, and pointers. -/
structure MatchState where
  reqs : List Nat
  banks : List Nat
  pairs : List (Nat × PendCell)
  gp : Tbl Nat
  deriving DecidableEq, Repr

/-- The grant of a bank in one round: the first requester from gp[b] that asks (R226). -/
def bankGrant (s : State) (m : MatchState) (b : Nat) : Option Nat :=
  (rotated 20 (tblGet 0 m.gp b)).find? (fun r => !m.reqs.contains r && (pendOf s r).any (canServe s b))

/-- One round of the matcher (R226). -/
def matchRound (s : State) (round : Nat) (m : MatchState) : MatchState :=
  let free := (List.range 64).filter (fun b => !m.banks.contains b)
  let grants := free.filterMap (fun b => (bankGrant s m b).map (fun r => (b, r)))
  let gp := if round = 1 then grants.foldl (fun g e => tblSet 0 g e.1 ((e.2 + 1) % 20)) m.gp else m.gp
  (List.range 20).foldl (fun m r =>
    let mine := (grants.filter (fun e => e.2 = r)).map (·.1)
    match (pendOf s r).find? (fun x => mine.any (fun b => canServe s b x)) with
    | none => m
    | some x =>
      match (rotated 64 (s.bench.arbTick % 64)).find? (fun b => mine.contains b && canServe s b x) with
      | none => m
      | some b => { m with reqs := r :: m.reqs, banks := b :: m.banks, pairs := m.pairs ++ [(b, x)] })
    { m with gp := gp }

/-- Puts the next cells of frames in transmission before the matcher, up to four for each reader (R225), and the next cell of a spilling
frame, which a mover takes one at a time (R230).  A cell whose head-store write is still pending is read once it has a bank. -/
def feedMatcher (s : State) : State :=
  let s := (List.range 64).foldl (fun s m =>
    let p := getPort s m
    match p.tx with
    | none => s
    | some tx =>
      let r := 8 + m % 8
      let room := 4 - (pendOf s r).length
      let next := (tx.reads.takeWhile (fun c => !(getCell s c).writing)).take room
      let now := next.filter (fun c => (getCell s c).bank.isSome)
      let s := setPort s m { p with tx := some { tx with reads := tx.reads.drop next.length } }
      { s with stock := { s.stock with pend := s.stock.pend ++ now.map (fun c => { req := r, cell := c, write := false, age := s.localNs }) } }) s
  (List.range 4).foldl (fun s k =>
    let r := 16 + k
    let room := if s.stock.moved.any (fun e => e.1 == k) then 0 else 1 - (pendOf s r).length
    let waiting := s.stock.spill.filter (fun c => (getCell s c).bank.isSome && !s.stock.pend.any (fun x => x.cell == c && x.req ≥ 16)
      && !s.stock.moved.any (fun e => e.2 == c))
    { s with stock := { s.stock with pend := s.stock.pend ++ (waiting.take room).map (fun c => { req := r, cell := c, write := false, age := s.localNs }) } }) s

/-- An ingress write that no bank can serve goes straight to its home (R228). -/
def bypassCell (s : State) (c : Nat) : State :=
  let s := setCell s c { getCell s c with writing := false }
  bump { s with stock := { s.stock with spill := s.stock.spill.filter (· != c) } } .hsBypass 0 1

/-- Whether some bank can take an ingress write (R226). -/
def bankOpen (s : State) : Bool := (List.range 64).any (fun b => decide (bankFree s b > 256))

/-- Pending writes leave the matcher once no bank can take one (R228). -/
def bypassPending (s : State) : State :=
  if bankOpen s then s
  else
    let ws := s.stock.pend.filter (·.write)
    let s := { s with stock := { s.stock with pend := s.stock.pend.filter (fun x => !x.write) } }
    ws.foldl (fun s x => bypassCell s x.cell) s

/-- One cell time of the bank matcher (R226). -/
def matchCellTime (s0 : State) : State :=
  let s := bypassPending (feedMatcher s0)
  let m0 : MatchState := { reqs := [], banks := [], pairs := [], gp := s.stock.gp }
  let m := matchRound s 3 (matchRound s 2 (matchRound s 1 m0))
  let s := { s with stock := { s.stock with gp := m.gp } }
  m.pairs.foldl (fun s e => matchedAccess s e.1 e.2) s

/-- Runs cell times until writer k has room for another pending cell, at most n of them. -/
def makeRoom (k : Nat) : Nat → State → State
  | 0, s => s
  | n + 1, s => if (pendOf s k).length < 4 then s else makeRoom k n (matchCellTime s)

/-- An arriving cell goes to the head store through its writer's pending cells, or straight to its home
when no bank can take it (R225, R228). -/
def writeCell (m : Nat) (s : State) (c : Nat) : State :=
  let k := m % 8
  let s := makeRoom k 40 s
  if (pendOf s k).length < 4 ∧ bankOpen s then
    let s := setCell s c { getCell s c with writing := true }
    { s with stock := { s.stock with pend := s.stock.pend ++ [{ req := k, cell := c, write := true, age := s.localNs }] } }
  else bypassCell s c

/-! ### Frame descriptors and stored frames -/

def descCount : Nat := 8388608

/-- The lowest free descriptor index (log entry 7). -/
def lowestFree (n : Nat) : Tbl Bool → Nat
  | [] => n
  | (k, _) :: t => if k = n then lowestFree (n + 1) t else n

def takeDesc (s : State) : Option (Nat × State) :=
  if s.stock.descs.length ≥ descCount then none
  else
    let i := lowestFree 0 s.stock.descs
    some (i, { s with stock := { s.stock with descs := tblSet false s.stock.descs i true } })

def freeDesc (s : State) (i : Nat) : State :=
  { s with stock := { s.stock with descs := tblSet false s.stock.descs i false } }

/-- Cells that a frame of n bytes takes. -/
def cellsFor (n : Nat) : Nat := max 1 (ceilDiv n 256)

/-- The outcome of storing an arriving frame (R248). -/
inductive StoreRes where
  | ok (handle desc : Nat)
  | noCell
  | noDesc
  deriving DecidableEq, Repr

/-- Takes the cells of an arriving frame one by one; answers none when one cannot be had. -/
def takeCells (p : Nat) : Nat → State → State × Option (List Nat)
  | 0, s => (s, some [])
  | n + 1, s =>
    match allocCells s p 1 with
    | (s, .ok cs) =>
      match takeCells p n s with
      | (s, some rest) => (s, some (cs ++ rest))
      | (s, none) => (freeCells s cs, none)
    | (s, .empty _) => (s, none)

/-- Stores a frame that arrives on node m in ingress class c: cells from its pool, then a descriptor; a
frame that lacks either is dropped whole (R237, R248). -/
def storeFrame (s : State) (m c : Nat) (bytes : List Byte) : State × StoreRes :=
  let p := poolOf s m c
  match takeCells p (cellsFor bytes.length) s with
  | (s, none) =>
    let s := bump s .poolDrop p 1
    (if (getPool s p).lossless then bump s .losslessDrop p 1 else s, .noCell)
  | (s, some cells) =>
    match takeDesc s with
    | none => (bump (freeCells s cells) .descDrop 0 1, .noDesc)
    | some (d, s) =>
      let first := cells.headD 0
      let s := setChain s first (some { cells := cells, hold := 1, owner := 0x400, pending := false, data := memPut [] 0 bytes })
      let s := cells.foldl (writeCell m) s
      (s, .ok (handleOf s first) d)

/-- The stored bytes of a frame. -/
def frameBytes (s : State) (h n : Nat) : List Byte :=
  match getChain s (handleCell h) with
  | some ch => memBytes ch.data 0 n
  | none => List.replicate n 0#8

/-- Overwrites stored bytes of a frame from offset o. -/
def frameWrite (s : State) (h o : Nat) (b : List Byte) : State :=
  match getChain s (handleCell h) with
  | some ch => setChain s (handleCell h) (some { ch with data := memPut ch.data o b })
  | none => s

/-- Releases a frame's chain and descriptor at ingress: the device's own chain with one hold. -/
def discardStored (s : State) (h d : Nat) : State := freeDesc (dropHold s h) d

/-- Whether a frame's head is being transmitted on some port. -/
def inTransmission (s : State) (h : Nat) : Bool :=
  (List.range 64).any (fun m =>
    let p := getPort s m
    (p.tx.toList ++ p.preempted.toList).any (fun t => !t.halt && t.desc.handle == h))

/-- Marks a chain's head-store cells for the spill movers, unless its frame's head is being transmitted (R231). -/
def markSpill (s : State) (h : Nat) : State :=
  match getChain s (handleCell h) with
  | some ch =>
    if inTransmission s h then s
    else
      let more := ch.cells.filter (fun c => ((getCell s c).bank.isSome || (getCell s c).writing) && !s.stock.spill.contains c)
      { s with stock := { s.stock with spill := s.stock.spill ++ more } }
  | none => s

/-- A frame whose head is being transmitted is spilled no further (R231). -/
def unmarkSpill (s : State) (h : Nat) : State :=
  match getChain s (handleCell h) with
  | some ch => { s with stock := { s.stock with
      spill := s.stock.spill.filter (fun c => !ch.cells.contains c)
      moved := s.stock.moved.filter (fun e => !ch.cells.contains e.2)
      pend := s.stock.pend.filter (fun x => !(decide (16 ≤ x.req) && ch.cells.contains x.cell)) } }
  | none => s

/-- Ingress class of a frame from node m (R234). -/
def ingressClass (s : State) (m : Nat) (bytes : List Byte) : Nat :=
  let t := beNat (imgBytes bytes 12 2)
  if t = 0x8100 ∨ t = 0x88A8 then im8 bytes 14 / 32 else tblGet 0 s.hopper.poolMap (512 + m)

/-! ### Hopper bursts (R232) -/

/-- A refill burst: 64 handles from the ring to the cache when the cache holds fewer than 256.  A ring with fewer than 64 gives
what it holds (log entry 187, DESIGN CHOICE). -/
def refillBurst (s : State) (p : Nat) : State :=
  let x := getPool s p
  if runsLen x.cache < 256 ∧ runsLen x.ring > 0 then
    let r := runsSplit (min 64 (runsLen x.ring)) x.ring
    setPool s p { x with ring := r.2, cache := x.cache ++ r.1 }
  else s

/-- A drain burst: 64 handles from the cache to the ring when the cache holds more than 960. -/
def drainBurst (s : State) (p : Nat) : State :=
  let x := getPool s p
  if runsLen x.cache > 960 then setPool s p (drained x) else s

end Sys2Proof.Machine
end

