-- ==== Sys2Proof/Machine/Queues.lean ====
section
/-! DEFINITION. Machine/Queues.lean: the hierarchy's lists, queue admission, enqueue and removal, the
reorder stage, and the withdrawal of speculation (R158 to R160, R206, R240, R258 to R269). -/

namespace Sys2Proof.Machine

/-! ### The hierarchy (R258, R265) -/

def getNode (s : State) (level i : Nat) : NodeRec :=
  if level = 1 then tblGet NodeRec.reset s.haul.subs i else tblGet NodeRec.reset s.haul.svcs i

def setNode (s : State) (level i : Nat) (x : NodeRec) : State :=
  if level = 1 then { s with haul := { s.haul with subs := tblSet NodeRec.reset s.haul.subs i x } }
  else { s with haul := { s.haul with svcs := tblSet NodeRec.reset s.haul.svcs i x } }

/-- port(q): the port node reached from a queue through its parents (R258); none when unattached. -/
def queuePort (s : State) (q : Nat) : Option Nat :=
  let x := getQueue s q
  if x.attached then
    let y := getNode s 1 x.parent
    if y.attached then
      let z := getNode s 2 y.parent
      if z.attached then some z.parent else none
    else none
  else none

def listKey (level parent cls : Nat) : Nat := (2 ^ 20 * level + parent) * 8 + cls

def getList (s : State) (level parent cls : Nat) : List (Nat × Int) := tblGet [] s.haul.lists (listKey level parent cls)
def setList (s : State) (level parent cls : Nat) (l : List (Nat × Int)) : State :=
  { s with haul := { s.haul with lists := tblSet [] s.haul.lists (listKey level parent cls) l } }

/-- QUANTUM of a child: WEIGHT x 64 bytes (R265). -/
def quantum (weight : Nat) : Int := weight * 64

/-- Parent, class and weight of a child at a level (0 queue, 1 subscriber, 2 service). -/
def childPlace (s : State) (level i : Nat) : Nat × Nat × Nat :=
  if level = 0 then let x := getQueue s i; (x.parent, x.cls, x.weight)
  else let x := getNode s level i; (x.parent, x.cls, x.weight)

/-- A child joins the tail of its parent's list with a full quantum, unless it is listed (R265). -/
def joinList (s : State) (level i : Nat) : State :=
  let (p, c, w) := childPlace s level i
  let l := getList s (level + 1) p c
  if l.any (fun e => e.1 == i) then s else setList s (level + 1) p c (l ++ [(i, quantum w)])

/-- A child leaves its parent's list; its DEF is discarded. -/
def leaveList (s : State) (level i : Nat) : State :=
  let (p, c, _) := childPlace s level i
  setList s (level + 1) p c ((getList s (level + 1) p c).filter (fun e => e.1 != i))

/-- Whether a node has no backlogged child. -/
def nodeIdle (s : State) (level i : Nat) : Bool := (List.range 8).all (fun c => (getList s level i c).isEmpty)

/-- A queue that became backlogged joins the lists up to its port (R265). -/
def joinUp (s : State) (q : Nat) : State :=
  let s := joinList s 0 q
  let sub := (getQueue s q).parent
  let s := joinList s 1 sub
  joinList s 2 (getNode s 1 sub).parent

/-- A queue that emptied leaves, and so does every node above it whose subtree emptied. -/
def leaveUp (s : State) (q : Nat) : State :=
  let s := leaveList s 0 q
  let sub := (getQueue s q).parent
  if nodeIdle s 1 sub then
    let s := leaveList s 1 sub
    let svc := (getNode s 1 sub).parent
    if nodeIdle s 2 svc then leaveList s 2 svc else s
  else s

/-- A rising list of indices of a level with n of them in the rotating-priority order of the tick (R265, R412). -/
def fromTick (s : State) (n : Nat) (l : List Nat) : List Nat :=
  let k := s.bench.arbTick % n
  l.filter (fun i => decide (k ≤ i)) ++ l.filter (fun i => decide (i < k))

/-- Indices in rising order, each once. -/
def risingOnce (l : List Nat) : List Nat := l.foldl (fun a i => insertNat i a) []

/-- Queues that join in the same cycle join the lists up to their ports, level by level in the order of R265. -/
def joinAll (s : State) (qs : List Nat) : State :=
  let s := (fromTick s 524288 (risingOnce qs)).foldl (fun s q => joinList s 0 q) s
  let subs := risingOnce (qs.map (fun q => (getQueue s q).parent))
  let s := (fromTick s 65536 subs).foldl (fun s i => joinList s 1 i) s
  let svcs := risingOnce (subs.map (fun i => (getNode s 1 i).parent))
  (fromTick s 8192 svcs).foldl (fun s i => joinList s 2 i) s

/-- Nodes of a level that join in the same cycle, with the nodes above them (R265). -/
def joinNodes (s : State) (level : Nat) (l : List Nat) : State :=
  if level = 1 then
    let s := (fromTick s 65536 (risingOnce l)).foldl (fun s i => joinList s 1 i) s
    (fromTick s 8192 (risingOnce (l.map (fun i => (getNode s 1 i).parent)))).foldl (fun s i => joinList s 2 i) s
  else (fromTick s 8192 (risingOnce l)).foldl (fun s i => joinList s 2 i) s

/-! ### Queue contents -/

/-- Depth of a queue in cells. -/
def queueDepth (x : QueueRec) : Nat := x.frames.foldl (fun a d => a + d.cells) 0

/-- Replaces a queue's frames and keeps the lists in step. -/
def setFrames (s : State) (q : Nat) (l : List Desc) : State :=
  let x := getQueue s q
  let s := setQueue s q { x with frames := l }
  if l.isEmpty then (if x.frames.isEmpty then s else
    let s := if x.hold = .releasing then setQueue s q { getQueue s q with hold := .normal } else s
    leaveUp s q)
  else if x.frames.isEmpty then joinUp s q else s

/-- A frame that leaves a queue without being sent: its hold and descriptor go back, and a marked frame
counts in TS_NOT_SENT of the port (R237, R309). -/
def discardDesc (s : State) (m : Nat) (d : Desc) : State :=
  let s := if d.spec then s else freeDesc (dropHold s d.handle) d.idx
  if d.mark.isSome ∧ d.spec = false then bump s .tsNotSent m 1 else s

/-- A marked frame that is refused is dropped before transmission: it counts in TS_NOT_SENT of its port (R309). -/
def notSent (s : State) (q : Nat) (marked : Bool) : State := match queuePort s q with
  | some m => if marked then bump s .tsNotSent m 1 else s
  | none => s

/-! ### Sequence numbers of frames (R393) -/

/-- The generation function of a template (R393). -/
def genFunc (s : State) (t : Nat) : Option Nat := tblGet none s.pair.genMap t

def mapDescs (f : Desc → Desc) (s : State) : State :=
  { s with
    haul := { s.haul with queues := s.haul.queues.map (fun e => (e.1, { e.2 with frames := e.2.frames.map f })) }
    stock := { s.stock with spoil := s.stock.spoil.map (fun e => (e.1, e.2.map (fun x => { x with desc := f x.desc }))) } }

/-- Every queued or spoiled descriptor. -/
def allDescs (s : State) : List Desc :=
  s.haul.queues.flatMap (fun e => e.2.frames) ++ s.stock.spoil.flatMap (fun e => e.2.map (·.desc))

/-- Assigns the 802.1CB numbers of the frame that holds a source's number: one for each distinct
generation function of its copies (R393). -/
def assignGen (s : State) (src num : Nat) : State :=
  let mine (d : Desc) : Bool := d.src == src && d.order == some num && d.cbSeq.isNone
  let funcs := ((allDescs s).filter mine).filterMap (fun d => genFunc s d.template)
  funcs.eraseDups.foldl (fun s f =>
    let n := tblGet 0 s.pair.genCtr f
    let s := mapDescs (fun d => if mine d ∧ genFunc s d.template = some f then { d with cbSeq := some n } else d) s
    { s with pair := { s.pair with genCtr := tblSet 0 s.pair.genCtr f ((n + 1) % 65536) } }) s

/-! ### The reorder stage (R158 to R160) -/

def getReorder (s : State) (src : Nat) : List SeqEnt := tblGet [] s.screen.reorder src
def setReorder (s : State) (src : Nat) (l : List SeqEnt) : State :=
  { s with screen := { s.screen with reorder := tblSet [] s.screen.reorder src l } }

/-- Releases numbers in order from the oldest for as long as each is filled or ready; the speculative
enqueue whose turn has come takes its generation number then. -/
def releaseFront (src : Nat) : List SeqEnt → State → State
  | [], s => setReorder s src []
  | e :: t, s =>
    if e.filled then releaseFront src t s
    else if e.ready.isSome then releaseFront src t (assignGen s src e.num)
    else assignGen (setReorder s src (e :: t)) src e.num

/-- A number is disposed of by a drop or a PUNT: it fills its place (R158). -/
def seqFill (s : State) (src num : Nat) : State :=
  releaseFront src ((getReorder s src).map (fun e => if e.num = num then { e with filled := true } else e)) s

/-- A number's frame became ready; a number already skipped is released at once and counted late
(R158, R160). -/
def seqReady (s : State) (src num : Nat) : State :=
  let l := getReorder s src
  if l.any (fun e => e.num == num) then
    releaseFront src (l.map (fun e => if e.num = num then { e with ready := some s.localNs } else e)) s
  else assignGen (bump s .reorderLate src 1) src num

/-- Whether the reorder stage has released a queued frame (R158); a standing speculative frame may leave
once every earlier number has been released (R159). -/
def descReleased (s : State) (d : Desc) : Bool :=
  match d.order with
  | none => true
  | some n =>
    let l := getReorder s d.src
    if d.spec then (match l with | [] => true | e :: _ => e.num == n || !(l.any (fun x => x.num == n)))
    else !(l.any (fun e => e.num == n))

/-- Skips to the oldest ready frame of a source that has waited one tick, counting each number passed
over (R160). -/
def seqGap (s : State) (src : Nat) : State :=
  let l := getReorder s src
  let gone := l.takeWhile (fun e => e.ready.isNone)
  let rest := l.drop gone.length
  match rest with
  | e :: _ =>
    match e.ready with
    | some t =>
      if t + tickNs s ≤ s.localNs then
        releaseFront src rest (bump s .reorderGap src (gone.filter (fun e => !e.filled)).length)
      else s
    | none => s
  | [] => s

/-! ### Admission and enqueue (R240, R261, R410) -/

/-- The lane to a neighbour device. -/
def laneTo (s : State) (dev : Nat) : Option Nat :=
  (List.range 8).find? (fun k => bitOf s.fabric.laneMask k && tblGet 0 s.fabric.neigh k == dev)

/-- Where the refusal of R246 for a fabric port's lane and virtual channel is kept. -/
def laneBlock (m k vc : Nat) : Nat := 8 * (64 + 8 * (m - 59) + k) + vc

/-- Where the refusal of R246 for a queue of port m is kept: by node and class, or by node, lane and virtual channel. -/
def blockIdx (s : State) (m q : Nat) : Nat :=
  if 59 ≤ m then
    match tblGet none s.fabric.binds q with
    | some b => laneBlock m ((laneTo s b.dev).getD 0) b.vc
    | none => 8 * m
  else 8 * m + (getQueue s q).tc

/-- Whether the class or channel of a queue on its port is flushed and still paused (R246). -/
def classBlocked (s : State) (m q : Nat) : Bool :=
  tblGet false s.stock.blocked (blockIdx s m q) &&
    (decide (m < 48) || decide (56 ≤ m) || (match tblGet none s.stock.pfcRx (8 * (m - 48) + (getQueue s q).tc) with
      | some x => decide (s.localNs < x.ends)
      | none => false))

/-- Cells of a queue's frames that are standing speculations: they keep their place until their verdict (Table 6.2, Table 6.4). -/
def specDepth (x : QueueRec) : Nat := (x.frames.filter (·.spec)).foldl (fun a d => a + d.cells) 0

/-- Drops frames from the head of a hold queue until k cells fit (R240); a standing speculation is passed over (log entry 82). -/
def displace (q m k lim : Nat) : List Desc → State → State
  | [], s => s
  | d :: t, s =>
    if queueDepth (getQueue s q) + k ≤ lim then s
    else if d.spec then displace q m k lim t s
    else displace q m k lim t (bump (discardDesc (setFrames s q ((getQueue s q).frames.filter (· != d))) m d) .holdDisplaced q 1)

/-- The depth limit of a queue for a drop precedence (R240). -/
def admitLimit (a : QAdmit) (dp : Nat) : Nat :=
  match dp with
  | 0 => a.maxCells
  | 1 => a.maxCells * (a.dp1 + 1) / 16
  | 2 => a.maxCells * (a.dp2 + 1) / 16
  | _ => a.maxCells * (a.dp3 + 1) / 16

/-- Whether a frame that arrived on lossless channel v would not ascend on a queue (R410). -/
def descends (s : State) (q : Nat) (arrVc : Option Nat) : Bool :=
  match arrVc, tblGet none s.fabric.binds q with
  | some v, some b => bitOf s.fabric.losslessVc v && bitOf s.fabric.losslessVc b.vc && decide (b.vc ≤ v)
  | _, _ => false

/-- Queue admission of k cells (R240), after the refusals that come before it: an unattached queue (R261),
the ascent rule (R410), a port that is down (R244) and a class flushed under R246. -/
def admitTo (s : State) (q k dp : Nat) (arrVc : Option Nat) : State × Bool :=
  match queuePort s q with
  | none => (bump s .unattachedDrop 0 1, false)
  | some m =>
    let a := getQAdmit s q
    let x := getQueue s q
    if descends s q arrVc then (bump s .vcOrderDrop q 1, false)
    else if portUp s m = false ∧ a.hold = false then (bump s .downDrop m 1, false)
    else if classBlocked s m q ∧ a.hold = false then (bump s .admitRefused q 1, false)
    else
      let lim := admitLimit a dp
      if queueDepth x + k ≤ lim then (s, true)
      else if a.hold ∧ a.dropOld ∧ specDepth x + k ≤ lim then (displace q m k lim x.frames s, true)
      else (bump s .admitRefused q 1, false)

/-- Puts an admitted frame at the tail of its queue and marks it for spilling where R231 says so. -/
def appendDesc (s : State) (d : Desc) : State :=
  let x := getQueue s d.queue
  let a := getQAdmit s d.queue
  let deep := decide (queueDepth x ≥ a.spillCells)
  let s := setFrames s d.queue (x.frames ++ [{ d with toSpill := a.hold || deep }])
  if a.hold || deep then markSpill s d.handle else s

/-- Queue admission, then the enqueue. -/
def enqueue (s : State) (d : Desc) : State × Bool :=
  let r := admitTo s d.queue d.cells d.dp d.arrVc
  if r.2 then (appendDesc r.1 d, true) else (r.1, false)

/-! ### Buckets (R267 to R269) -/

/-- Refill of one bucket (R268): tokens, remainder and last refill from rate and burst.  A bucket that a decision for an instant to
come has refilled ahead gains nothing before that instant. -/
def refill (rate burst : Nat) (t : Int) (rem u now : Nat) : Int × Nat × Nat :=
  if now < u then (t, rem, u)
  else
    let a := rate * (now - u) * 65536 + rem
    let t' := t + (a / 1000000 : Nat)
    if t' > burst * 65536 then ((burst * 65536 : Nat), 0, now) else (t', a % 1000000, now)

def getShaper (s : State) (level i : Nat) : Shaper := tblGet Shaper.absent s.haul.shapers (2 ^ 20 * level + i)
def setShaper (s : State) (level i : Nat) (x : Shaper) : State :=
  { s with haul := { s.haul with shapers := tblSet Shaper.absent s.haul.shapers (2 ^ 20 * level + i) x } }

/-- A node's buckets refilled to an instant. -/
def refillShaper (x : Shaper) (now : Nat) : Shaper :=
  let c := refill x.cir x.cbs x.ct x.cRem x.cu now
  let p := refill x.pir x.pbs x.pt x.pRem x.pu now
  let x := if x.cir = 0 then x else { x with ct := c.1, cRem := c.2.1, cu := c.2.2 }
  if x.pir = 0 then x else { x with pt := p.1, pRem := p.2.1, pu := p.2.2 }

/-- Adds a signed number of 2^-16 bytes to the buckets of a node, the committed one only when it was
chosen in the GREEN pass (R269). -/
def chargeNode (s : State) (level i : Nat) (green : Bool) (n : Int) : State :=
  let x := refillShaper (getShaper s level i) s.localNs
  let x := if x.pir = 0 then x else { x with pt := x.pt - n }
  let x := if x.cir = 0 ∨ green = false then x else { x with ct := x.ct - n }
  setShaper s level i x

/-- The release bucket refilled (R272). -/
def refillRelease (s : State) (q : Nat) : QueueRec :=
  let x := getQueue s q
  let a := getQAdmit s q
  let r := refill a.releaseRate 16384 x.relT x.relRem x.relU s.localNs
  { x with relT := r.1, relRem := r.2.1, relU := r.2.2 }

/-- Charges n units of 2^-16 byte to a queue's release bucket (R272). -/
def chargeRelease (s : State) (q : Nat) (n : Int) : State :=
  let y := refillRelease s q
  setQueue s q { y with relT := y.relT - n }

/-- Gives n units of 2^-16 byte back to every bucket that a transmission charged (R269). -/
def refundTx (s : State) (tx : TxRec) (n : Int) : State :=
  let s := tx.path.foldl (fun s e => chargeNode s e.1 e.2.1 e.2.2 (-n)) s
  if tx.released then chargeRelease s tx.desc.queue (-n) else s

/-! ### Withdrawal of a speculation (R206) -/

/-- Frame bytes of a transmission sent by now, before its FCS; the 8 preamble bytes go first. -/
def txSent (s : State) (m : Nat) (tx : TxRec) : Nat :=
  let n := if m ≥ 59 then tx.done else tx.done + ((s.localNs - tx.start) * portRate s m / 8000 - 8)
  min n (tx.bytes.length - 4)

/-- Stomps a transmission that has sent so many of its bytes (R206, R207, R269): those not sent are refunded. -/
def stompTx (s : State) (sent : Nat) (tx : TxRec) : State × TxRec :=
  let k := min (max sent (min 64 (tx.bytes.length - 4))) (tx.bytes.length - 4)
  (refundTx s tx (((tx.bytes.length : Int) - k) * 65536), { tx with stomp := some k })

/-- Whether a transmission is that of a speculative descriptor. -/
def isSpecTx (d : Nat) (t : TxRec) : Bool := t.desc.idx == d && t.desc.spec

/-- The packet number of a frame that has not begun goes back: it is taken when the head leaves (Table 6.2). -/
def restorePn (s : State) (m : Nat) (t : TxRec) : State :=
  { s with face := { s.face with sas := s.face.sas.map (fun e => (e.1, e.2.map (fun a =>
    match t.sa with
    | some b => if a.rx = false ∧ a.node = m ∧ a.key = b.key ∧ a.pn = b.pn + 1 then { a with pn := b.pn } else a
    | none => a))) } }

/-- Puts a frame that was decided and has not begun back at the head of its queue, with nothing charged (Table 6.2). -/
def putBack (s : State) (m : Nat) (t : TxRec) : State :=
  let s := refundTx s t (((t.bytes.length : Int) + (getPort s m).overhead) * 65536)
  let s := restorePn s m t
  let s := setFrames s t.desc.queue (t.desc :: (getQueue s t.desc.queue).frames)
  if t.desc.toSpill then markSpill s t.desc.handle else s

/-- A transmission of a frame is over: copies of it that R231 spills are spilled from now on. -/
def remarkSpill (s : State) (h : Nat) : State :=
  if s.haul.queues.any (fun e => e.2.frames.any (fun d => d.toSpill && d.handle == h)) then markSpill s h else s

/-- Whether a transmission of node m has begun: its first byte has left, or on the fabric its first cell.  What happens at the very
instant of its start comes first (Table 6.5). -/
def txBegun (s : State) (m : Nat) (t : TxRec) : Bool :=
  t.parked || (if m ≥ 59 then decide (0 < t.done) else decide (t.start < s.localNs))

/-- Puts back the frames of a port node that a test selects and that have been decided and have not begun; a halt frame goes back to
the head of those that wait. -/
def unstart (s : State) (m : Nat) (f : TxRec → Bool) : State :=
  let s := match (getPort s m).decided with
    | some t => if f t then putBack (setPort s m { getPort s m with decided := none }) m t else s
    | none => s
  match (getPort s m).tx with
  | some t =>
    if f t = false ∨ txBegun s m t then s
    else if t.halt then restorePn (setPort s m { getPort s m with tx := none, haltQ := t.bytes :: (getPort s m).haltQ }) m t
    else putBack (setPort s m { getPort s m with tx := none }) m t
  | none => s

/-- Longest time in ns for which a frame can be in reception on a port with MACsec: 16,383 bytes and more at 2.5 Gb/s. -/
def saKept : Nat := 100000

/-- Replaces the contents of an association, and keeps the old ones for the frames in reception under them (R465, R473). -/
def putSa (s : State) (i : Nat) (x : Option Sa) : State :=
  let old := s.face.sasOld.filter (fun e => decide (s.localNs < e.2.1 + saKept)) ++ [(i, s.localNs, tblGet none s.face.sas i)]
  { s with face := { s.face with sas := tblSet none s.face.sas i x, sasOld := old } }

/-- The contents of an association under which a frame whose first bit came at a local time t is received, and whether they are the
present ones. -/
def saDuring (s : State) (i t : Nat) : Option Sa × Bool := match s.face.sasOld.find? (fun e => e.1 == i && decide (t < e.2.1)) with
  | some e => (e.2.2, false)
  | none => (tblGet none s.face.sas i, true)

/-- The counter of frames that a stale association would have carried on node m: Face's or the Conveyor's (R474). -/
def saDropCtr (m : Nat) : Ctr := if 48 ≤ m then .saStaleDropCv else .saStaleDrop

/-- Where a standing speculative frame's head is: still on its queue, or on a port. -/
def specPort (s : State) (d : Nat) : Option Nat :=
  (List.range 64).find? (fun m =>
    let p := getPort s m
    p.tx.any (isSpecTx d) || p.preempted.any (isSpecTx d) || p.decided.any (isSpecTx d) || p.ended.any (isSpecTx d))

/-- Stomps the transmission of a speculative descriptor on a port, in progress or parked, unless it has been stomped under R207. -/
def stompSpec (s : State) (m d : Nat) : State :=
  let p := getPort s m
  let hit (t : TxRec) : Bool := isSpecTx d t && t.stomp.isNone
  match p.tx.filter hit, p.preempted.filter hit with
  | some t, _ =>
    let r := stompTx s (txSent s m t) t
    bump (setPort r.1 m { p with tx := some r.2 }) .stomped m 1
  | none, some t =>
    let r := stompTx s t.done t
    bump (setPort r.1 m { p with preempted := some r.2 }) .stomped m 1
  | none, none => s

/-- Withdraws the standing speculation of a packet: before the head has left it vanishes from its queue,
after that the transmission is stomped, unless R207 stomped it before (R206). -/
def withdrawSpec (s : State) (p : Packet) : State :=
  let s := match specPort s p.desc with
    | some m => unstart s m (isSpecTx p.desc)
    | none => s
  match specPort s p.desc with
  | none =>
    let x := getQueue s p.specQueue
    let s := setFrames s p.specQueue (x.frames.filter (fun d => !(d.idx == p.desc && d.spec)))
    bump s .specWithdrawnEarly p.src 1
  | some m =>
    let s := stompSpec s m p.desc
    bump (setPort s m { getPort s m with ended := (getPort s m).ended.filter (fun t => !isSpecTx p.desc t) }) .specWithdrawnLate p.src 1

/-- Ends a packet's standing speculation, if one stands; a refused one counts at the end of its pass
(Table 6.17), and stays refused for the passes that follow (R103). -/
def endSpec (s : State) (p : Packet) : State × Packet :=
  match p.spec with
  | .standing => (withdrawSpec s p, { p with spec := .withdrawn })
  | .refused => (bump s .specRefused p.src 1, { p with spec := .full })
  | _ => (s, p)

/-- A packet that is dropped: its speculation is withdrawn, its number filled, its cells and descriptor
freed (R39, R69, R104, R158).  After a confirmation the enqueued frame is untouched (R105). -/
def dropPacket (s : State) (p : Packet) : State :=
  if p.spec = .confirmed then s
  else
    let r := endSpec s p
    let s := match p.seq with
      | some n => seqFill r.1 p.src n
      | none => r.1
    discardStored s p.handle p.desc

/-- Clears a thread: no packet, no reservation, no mark; the rest holds until the next dispatch. -/
def clearThread (s : State) (t : Nat) : State :=
  setThread s t { getThread s t with pkt := none, reserved := none, mark := none, rstack := [], lstack := [] }

/-- Writes of a thread that lost its packet complete without an answer to it (R415, R417): no thread has the number 512. -/
def detachLrn (s : State) (t : Nat) : State :=
  let f (c : LrnCtx) : LrnCtx := if c.thread = t then { c with thread := 512 } else c
  let l := s.lookup
  { s with lookup := { l with
      relocs := l.relocs.map (fun r => { r with ctx := f r.ctx })
      onDie := { l.onDie with waiting := l.onDie.waiting.map f }
      dram := { l.dram with waiting := l.dram.waiting.map f } } }

/-! ### Port flush (R244) -/

/-- The thread or dispatch queue entry whose packet owns a speculative descriptor is marked withdrawn. -/
def markWithdrawn (s : State) (d : Nat) : State :=
  let f (p : Packet) : Packet := if p.desc = d ∧ p.spec = .standing then { p with spec := .withdrawn } else p
  let g (x : Thread) : Thread := { x with pkt := x.pkt.map f, reserved := x.reserved.map f }
  { s with
    screen := { s.screen with dispatchQ := s.screen.dispatchQ.map f, waiting := s.screen.waiting.map f }
    engine := { s.engine with threads := s.engine.threads.map (fun e => (e.1, g e.2)) } }

/-- Every packet in flight. -/
def packets (s : State) : List Packet :=
  s.screen.waiting ++ s.screen.dispatchQ ++
    s.engine.threads.flatMap (fun e => e.2.pkt.toList ++ e.2.reserved.toList)

/-- Withdraws a standing speculation by its descriptor. -/
def withdrawDesc (s : State) (d : Nat) : State :=
  match (packets s).find? (fun p => p.desc == d && p.spec == .standing) with
  | some p => markWithdrawn (withdrawSpec s p) d
  | none => s

/-- Removes every frame of a queue: the rest of it, once its speculations are withdrawn, is freed and counted in
FLUSHED with its bytes; answers frames and cells (R244 step 3). -/
def flushQueue (s : State) (q m : Nat) : State × Nat × Nat :=
  let l := (getQueue s q).frames
  let s := l.foldl (fun s d => discardDesc s m d) (setFrames s q [])
  (bump (bump s .flushed q l.length) .flushedBytes q (l.foldl (fun a d => a + d.len) 0), l.length, l.foldl (fun a d => a + d.cells) 0)

/-- Queues of a port, in rising order. -/
def portQueues (s : State) (m : Nat) : List Nat :=
  (s.haul.queues.filter (fun e => queuePort s e.1 == some m)).map (·.1)

/-- Payload of Table 7.11. -/
def flushPayload (s : State) (typ cls m frames cells : Nat) : List Nat :=
  [typ * 2 ^ 24 + cls * 2 ^ 11 + m, tick32 s, sat 32 frames, sat 32 cells]

/-- Puts a hold queue of a port into Holding, and marks its frames for spilling (R241, Table 7.10). -/
def toHolding (s : State) (q : Nat) : State :=
  let x := getQueue s q
  let s := setQueue s q { x with hold := .holding, frames := x.frames.map (fun d => { d with toSpill := true }) }
  (getQueue s q).frames.foldl (fun s d => markSpill s d.handle) s

/-- Step 1 of R244 for some queues of a port: what has been decided and has not begun is theirs again.  Step 2: their standing
speculations are withdrawn, on the queues and in transmission. -/
def withdrawQueues (s : State) (m : Nat) (qs : List Nat) : State :=
  let s := unstart s m (fun t => !t.halt && qs.contains t.desc.queue)
  let s := qs.foldl (fun s q => ((getQueue s q).frames.filter (·.spec)).foldl (fun s d => withdrawDesc s d.idx) s) s
  let p := getPort s m
  ((p.tx.toList ++ p.preempted.toList ++ p.ended).filter (fun t => t.desc.spec && qs.contains t.desc.queue)).foldl
    (fun s t => withdrawDesc s t.desc.idx) s

/-- Steps 1 to 3 of R244 for some queues of a port, hold queues excepted from the flush; answers frames and cells. -/
def flushQueues (s : State) (m : Nat) (qs : List Nat) : State × Nat × Nat :=
  qs.foldl (fun (a : State × Nat × Nat) q =>
    if (getQAdmit a.1 q).hold then a
    else let f := flushQueue a.1 q m; (f.1, a.2.1 + f.2.1, a.2.2 + f.2.2)) (withdrawQueues s m qs, 0, 0)

/-- Step 5 of R244: the spoil entries of a port for some queues are dropped. -/
def flushSpoil (s : State) (m : Nat) (qs : List Nat) : State :=
  let l := tblGet [] s.stock.spoil m
  let gone := l.filter (fun e => qs.contains e.desc.queue)
  let s := { s with stock := { s.stock with spoil := tblSet [] s.stock.spoil m (l.filter (fun e => !qs.contains e.desc.queue)) } }
  bump (gone.foldl (fun s e => discardDesc s m e.desc) s) .spoilFlushed m gone.length

/-- What a port node's going down does to its queues (R244). -/
def portFlush (s : State) (m : Nat) : State :=
  let qs := portQueues s m
  let r := flushQueues s m qs
  let s := qs.foldl (fun s q => if (getQAdmit s q).hold then toHolding s q else s) r.1
  let s := flushSpoil s m (risingOnce (qs ++ (tblGet [] s.stock.spoil m).map (·.desc.queue)))
  postEvent s 7 (flushPayload s 0x20 0 m r.2.1 r.2.2)

end Sys2Proof.Machine
end

