-- ==== Sys2Proof/Machine/Keys.lean ====
section
/-! DEFINITION. Machine/Keys.lean: the Vault's working keys, their masks, and invalidation (R463 to R465). -/

namespace Sys2Proof.Machine

def getKey (s : State) (h : Nat) : Option VKey := tblGet none s.vault.keys h
def setKey (s : State) (h : Nat) (k : Option VKey) : State :=
  { s with vault := { s.vault with keys := tblSet none s.vault.keys h k } }

/-- Bits of a key by handle: 14,336 for the IDK, else by WIDTH (Table 16.3). -/
def keyBits (h : Nat) (wide : Bool) : Nat := if h = 9 then 14336 else if wide then 512 else 256

/-- The clear value of a held key (R464). -/
def VKey.clear (k : VKey) : Nat := k.masked ^^^ k.mask

/-- Stores a key under a fresh mask (R464). -/
def storeKey (s : State) (h v : Nat) (wide exportable : Bool) (parent depth : Nat) : State :=
  let (r, s) := drawFree s
  let m := r % 2 ^ keyBits h wide
  setKey s h (some { masked := v ^^^ m, mask := m, wide := wide, exportable := exportable, parent := parent, depth := depth, stale := false })

/-- The handles of keys whose parent lies among the given handles. -/
def keyChildren (s : State) (l : List Nat) : List Nat :=
  (s.vault.keys.filter (fun e => match e.2 with | some k => l.contains k.parent && !l.contains e.1 | none => false)).map (·.1)

/-- A handle and its descendants, to n generations. -/
def keyFamily (s : State) : Nat → List Nat → List Nat
  | 0, l => l
  | n + 1, l => keyFamily s n (l ++ keyChildren s l)

/-- Marks an association stale: frames in reception end under it, and those of its port that have not begun go back (R465, R474). -/
def staleSa (s : State) (i : Nat) (a : Sa) : State := putSa (unstart s a.node (fun _ => true)) i (some { a with stale := true })

/-- Marks the associations installed from any of the handles stale, and the keys that prepare copied (R465, R474,
Table 16.12a). -/
def staleSas (s : State) (l : List Nat) : State :=
  let s := s.face.sas.foldl (fun s e => match tblGet none s.face.sas e.1 with
    | some a => if l.contains a.handle ∧ a.stale = false then staleSa s e.1 a else s
    | none => s) s
  { s with
    gate := { s.gate with committed := s.gate.committed.map (fun c =>
      { c with sas := c.sas.map (fun a => if l.contains a.handle then { a with stale := true } else a) }) } }

/-- Invalidates a key: the keys derived from it and the associations installed from any of them become stale
(R465). -/
def invalidateKey (s : State) (h : Nat) : State :=
  let l := keyFamily s 8 [h]
  let s := (l.filter (· != h)).foldl (fun s i => match getKey s i with
    | some k => setKey s i (some { k with stale := true })
    | none => s) s
  setKey (staleSas s l) h none

/-- Loads a key in place of what the handle held, which is invalidated (R465). -/
def reload' (s : State) (h v : Nat) (wide exportable : Bool) (parent depth : Nat) : State :=
  storeKey (if (getKey s h).isSome then invalidateKey s h else s) h v wide exportable parent depth

/-- The key of a handle takes a fresh mask (R464). -/
def remaskKey (s : State) (h : Nat) : State := match getKey s h with
  | some k =>
    let (r, s) := drawFree s
    let m := r % 2 ^ keyBits h k.wide
    setKey s h (some { k with masked := k.clear ^^^ m, mask := m })
  | none => s

/-- The IDK takes its fresh mask once the signature that used it has ended, where a pass came meanwhile (R464, Table 16.12a). -/
def remaskAfter (s : State) : State :=
  if s.vault.remaskLate then remaskKey { s with vault := { s.vault with remaskLate := false } } 9 else s

/-- WKR and the IDK are cleared as the device enters Returned (R462). -/
def clearRootKeys (s : State) : State := invalidateKey (invalidateKey s 0) 9

/-- Pending signature operations are abandoned: no STATUS and no VAULT_DONE (Table 16.12a). -/
def abandonSig (s : State) : State :=
  let s1 := remaskAfter { s with vault := { s.vault with sign := none, verify := none, clearAfter := false } }
  if s.vault.clearAfter then clearRootKeys s1 else s1

/-- A control-domain reset empties all but the fallback slots; what was installed or copied from an emptied key goes on
without a parent (R474, R482): handle 0x100 names none. -/
def orphanSas (s : State) : State :=
  let keep (h : Nat) : Bool := decide (1 ≤ h) && decide (h ≤ 8)
  { s with
    vault := { s.vault with keys := s.vault.keys.filter (fun e => keep e.1) }
    face := { s.face with sas := s.face.sas.map (fun e => (e.1, e.2.map (fun a => if keep a.handle then a else { a with handle := 0x100 }))) }
    gate := { s.gate with committed := s.gate.committed.map (fun c =>
      { c with sas := c.sas.map (fun a => if keep a.handle then a else { a with handle := 0x100 }) }) } }

/-- A re-mask pass over every key; the IDK that a pending KSIGN uses waits for it (R464). -/
def remaskAll (s : State) : State :=
  let s := (s.vault.keys.filter (fun e => e.2.isSome && !(e.1 == 9 && s.vault.sign.isSome))).foldl (fun s e => remaskKey s e.1) s
  { s with vault := { s.vault with remaskAt := s.localNs, remaskLate := s.vault.sign.isSome && (getKey s 9).isSome } }

end Sys2Proof.Machine
end

