-- ==== Sys2Proof/Machine/Sha512.lean ====
section
/-! DEFINITION. Machine/Sha512.lean: SHA-512 (FIPS 180-4) and HMAC-SHA-512 (FIPS 198-1), which the Vault uses (R459, R468, R470, R476). -/

namespace Sys2Proof.Machine

/-- The 80 round constants. -/
def shaK : List Word :=
  [0x428A2F98D728AE22#64, 0x7137449123EF65CD#64, 0xB5C0FBCFEC4D3B2F#64, 0xE9B5DBA58189DBBC#64] ++
  [0x3956C25BF348B538#64, 0x59F111F1B605D019#64, 0x923F82A4AF194F9B#64, 0xAB1C5ED5DA6D8118#64] ++
  [0xD807AA98A3030242#64, 0x12835B0145706FBE#64, 0x243185BE4EE4B28C#64, 0x550C7DC3D5FFB4E2#64] ++
  [0x72BE5D74F27B896F#64, 0x80DEB1FE3B1696B1#64, 0x9BDC06A725C71235#64, 0xC19BF174CF692694#64] ++
  [0xE49B69C19EF14AD2#64, 0xEFBE4786384F25E3#64, 0x0FC19DC68B8CD5B5#64, 0x240CA1CC77AC9C65#64] ++
  [0x2DE92C6F592B0275#64, 0x4A7484AA6EA6E483#64, 0x5CB0A9DCBD41FBD4#64, 0x76F988DA831153B5#64] ++
  [0x983E5152EE66DFAB#64, 0xA831C66D2DB43210#64, 0xB00327C898FB213F#64, 0xBF597FC7BEEF0EE4#64] ++
  [0xC6E00BF33DA88FC2#64, 0xD5A79147930AA725#64, 0x06CA6351E003826F#64, 0x142929670A0E6E70#64] ++
  [0x27B70A8546D22FFC#64, 0x2E1B21385C26C926#64, 0x4D2C6DFC5AC42AED#64, 0x53380D139D95B3DF#64] ++
  [0x650A73548BAF63DE#64, 0x766A0ABB3C77B2A8#64, 0x81C2C92E47EDAEE6#64, 0x92722C851482353B#64] ++
  [0xA2BFE8A14CF10364#64, 0xA81A664BBC423001#64, 0xC24B8B70D0F89791#64, 0xC76C51A30654BE30#64] ++
  [0xD192E819D6EF5218#64, 0xD69906245565A910#64, 0xF40E35855771202A#64, 0x106AA07032BBD1B8#64] ++
  [0x19A4C116B8D2D0C8#64, 0x1E376C085141AB53#64, 0x2748774CDF8EEB99#64, 0x34B0BCB5E19B48A8#64] ++
  [0x391C0CB3C5C95A63#64, 0x4ED8AA4AE3418ACB#64, 0x5B9CCA4F7763E373#64, 0x682E6FF3D6B2B8A3#64] ++
  [0x748F82EE5DEFB2FC#64, 0x78A5636F43172F60#64, 0x84C87814A1F0AB72#64, 0x8CC702081A6439EC#64] ++
  [0x90BEFFFA23631E28#64, 0xA4506CEBDE82BDE9#64, 0xBEF9A3F7B2C67915#64, 0xC67178F2E372532B#64] ++
  [0xCA273ECEEA26619C#64, 0xD186B8C721C0C207#64, 0xEADA7DD6CDE0EB1E#64, 0xF57D4F7FEE6ED178#64] ++
  [0x06F067AA72176FBA#64, 0x0A637DC5A2C898A6#64, 0x113F9804BEF90DAE#64, 0x1B710B35131C471B#64] ++
  [0x28DB77F523047D84#64, 0x32CAAB7B40C72493#64, 0x3C9EBE0A15C9BEBC#64, 0x431D67C49C100D4C#64] ++
  [0x4CC5D4BECB3E42B6#64, 0x597F299CFC657E2A#64, 0x5FCB6FAB3AD6FAEC#64, 0x6C44198C4A475817#64]

/-- The eight working variables, or a hash value. -/
structure Sha where
  a : Word
  b : Word
  c : Word
  d : Word
  e : Word
  f : Word
  g : Word
  h : Word
  deriving DecidableEq, Repr

/-- The initial hash value. -/
def shaInit : Sha :=
  { a := 0x6A09E667F3BCC908#64, b := 0xBB67AE8584CAA73B#64, c := 0x3C6EF372FE94F82B#64, d := 0xA54FF53A5F1D36F1#64
    e := 0x510E527FADE682D1#64, f := 0x9B05688C2B3E6C1F#64, g := 0x1F83D9ABFB41BD6B#64, h := 0x5BE0CD19137E2179#64 }

/-- One round with the sum of its constant and its schedule word. -/
def shaRound (x : Sha) (kw : Word) : Sha :=
  let t1 := x.h + (x.e.rotateRight 14 ^^^ x.e.rotateRight 18 ^^^ x.e.rotateRight 41) + ((x.e &&& x.f) ^^^ (~~~x.e &&& x.g)) + kw
  let t2 := (x.a.rotateRight 28 ^^^ x.a.rotateRight 34 ^^^ x.a.rotateRight 39) + ((x.a &&& x.b) ^^^ (x.a &&& x.c) ^^^ (x.b &&& x.c))
  { a := t1 + t2, b := x.a, c := x.b, d := x.c, e := x.d + t1, f := x.e, g := x.f, h := x.g }

/-- n further words of the message schedule, newest first. -/
def shaExtend : Nat → List Word → List Word
  | 0, l => l
  | n + 1, l =>
    let u := l.getD 1 0
    let v := l.getD 14 0
    shaExtend n (((u.rotateRight 19 ^^^ u.rotateRight 61 ^^^ u >>> 6) + l.getD 6 0
      + (v.rotateRight 1 ^^^ v.rotateRight 8 ^^^ v >>> 7) + l.getD 15 0) :: l)

/-- The compression of a block of 128 bytes. -/
def shaCompress (x : Sha) (block : List Byte) : Sha :=
  let m := (List.range 16).map (fun i => BitVec.ofNat 64 (beNat (imgBytes block (8 * i) 8)))
  let y := (List.zipWith (· + ·) shaK (shaExtend 64 m.reverse).reverse).foldl shaRound x
  { a := x.a + y.a, b := x.b + y.b, c := x.c + y.c, d := x.d + y.d, e := x.e + y.e, f := x.f + y.f, g := x.g + y.g, h := x.h + y.h }

/-- n blocks. -/
def shaBlocks : Nat → Sha → List Byte → Sha
  | 0, x, _ => x
  | n + 1, x, b => shaBlocks n (shaCompress x (b.take 128)) (b.drop 128)

/-- A message with its padding and length. -/
def shaPad (b : List Byte) : List Byte :=
  b ++ [0x80#8] ++ List.replicate ((239 - b.length % 128) % 128) 0#8 ++ beBytes 16 (8 * b.length)

/-- SHA-512 of bytes, its first byte uppermost. -/
def sha512 (b : List Byte) : BitVec 512 :=
  let p := shaPad b
  let x := shaBlocks (p.length / 128) shaInit p
  x.a ++ x.b ++ x.c ++ x.d ++ x.e ++ x.f ++ x.g ++ x.h

/-- SHA-512 as bytes. -/
def shaBytes (b : List Byte) : List Byte := beBytes 64 (sha512 b).toNat

/-- HMAC-SHA-512 of a message under a key. -/
def hmacSha512 (key msg : List Byte) : BitVec 512 :=
  let k := if key.length > 128 then shaBytes key else key
  let k := k ++ List.replicate (128 - k.length) 0#8
  sha512 (k.map (· ^^^ 0x5C#8) ++ shaBytes (k.map (· ^^^ 0x36#8) ++ msg))

end Sys2Proof.Machine
end

