-- ==== Sys2Proof/Machine/Rsa.lean ====
section
/-! DEFINITION. Machine/Rsa.lean: RSASSA-PSS of RFC 8017 with SHA-512, MGF1 with SHA-512 and a salt of 64 bytes, as KSIGN and KVERIFY use
it (R470, R476). -/

namespace Sys2Proof.Machine

/-- b to the power e modulo n, over the given number of bits of e. -/
def modPow : Nat → Nat → Nat → Nat → Nat
  | 0, _, _, n => 1 % n
  | k + 1, b, e, n =>
    let r := modPow k (b * b % n) (e / 2) n
    if e % 2 = 1 then b * r % n else r

/-- Bits of a number. -/
def bitLen (n : Nat) : Nat := if n = 0 then 0 else Nat.log2 n + 1

/-- The mask of n bytes that MGF1 makes of a seed. -/
def mgf1 (seed : List Byte) (n : Nat) : List Byte :=
  ((List.range ((n + 63) / 64)).flatMap (fun i => shaBytes (seed ++ beBytes 4 i))).take n

/-- H of a message and a salt. -/
def pssHash (msg salt : List Byte) : List Byte := shaBytes (List.replicate 8 0#8 ++ shaBytes msg ++ salt)

/-- A byte string with its uppermost bits cleared, so many of its first byte. -/
def clearTop (k : Nat) (b : List Byte) : List Byte := match b with
  | [] => []
  | x :: t => BitVec.ofNat 8 (x.toNat % 2 ^ (8 - k)) :: t

/-- The encoded message of so many bits (EMSA-PSS). -/
def pssEncode (msg salt : List Byte) (bits : Nat) : List Byte :=
  let n := (bits + 7) / 8
  let h := pssHash msg salt
  let db := List.replicate (n - 130) 0#8 ++ [1#8] ++ salt
  clearTop (8 * n - bits) (xorBytes db (mgf1 h (n - 65))) ++ h ++ [0xBC#8]

/-- Whether an encoded message of so many bits is one of a message (EMSA-PSS). -/
def pssDecodes (msg em : List Byte) (bits : Nat) : Bool :=
  let n := (bits + 7) / 8
  let top := 8 * n - bits
  let masked := em.take (n - 65)
  let h := (em.drop (n - 65)).take 64
  let db := clearTop top (xorBytes masked (mgf1 h (n - 65)))
  decide (130 ≤ n) && em.drop (n - 1) == [0xBC#8] && clearTop top masked == masked
    && db.take (n - 129) == List.replicate (n - 130) 0#8 ++ [1#8] && pssHash msg (db.drop (n - 129)) == h

/-- Verification under a modulus, with the exponent 65,537. -/
def pssVerify (modulus msg sig : List Byte) : Bool :=
  let n := beNat modulus
  let s := beNat sig
  let k := (bitLen n - 1 + 7) / 8
  let m := modPow 17 s 65537 n
  sig.length == (bitLen n + 7) / 8 && decide (s < n) && decide (m < 256 ^ k) && pssDecodes msg (beBytes k m) (bitLen n - 1)

/-- A part of the IDK blob, big-endian (R469). -/
def idkPart (blob : List Byte) (o n : Nat) : Nat := beNat (imgBytes blob o n)

/-- The private operation on a number by the Chinese remainder theorem (RSASP1). -/
def rsaPrivate (blob : List Byte) (c : Nat) : Nat :=
  let p := idkPart blob 512 256
  let q := idkPart blob 768 256
  let m1 := modPow 2048 c (idkPart blob 1024 256) p
  let m2 := modPow 2048 c (idkPart blob 1280 256) q
  m2 + q * (idkPart blob 1536 256 * (m1 + (p - m2 % p)) % p)

/-- The signature of a message under an IDK blob with a salt; a modulus too short for the encoding gives what the standard leaves open. -/
def pssSign (blob msg salt : List Byte) : List Byte :=
  let bits := bitLen (idkPart blob 0 512) - 1
  if (bits + 7) / 8 < 130 then Config.shortSign blob msg
  else beBytes 512 (rsaPrivate blob (beNat (pssEncode msg salt bits)))

end Sys2Proof.Machine
end

