-- ==== Sys2Proof/Machine/VaultOps.lean ====
section
/-! DEFINITION. Machine/VaultOps.lean: the OTP key slots, the lifecycle, anchors and Suhild images (R459 to R462, R470,
R476, R477). -/

namespace Sys2Proof.Machine

/-- Exactly n bytes. -/
def fitTo (n : Nat) (b : List Byte) : List Byte := b.take n ++ List.replicate (n - b.length) 0#8

/-- A key's bytes, first byte first. -/
def keyBytes (h : Nat) (k : VKey) : List Byte := leBytes (keyBits h k.wide / 8) k.clear

/-- The AES key encryption key: the first 256 bits of a key. -/
def kekOf (h : Nat) (k : VKey) : List Byte := (keyBytes h k).take 32

/-- The bytes that KDERIVE makes of a key for a label and a context: 32, or 64 (R468). -/
def deriveBytes (key label context : List Byte) (wide : Bool) : List Byte :=
  let n := if wide then 512 else 256
  (beBytes 64 (hmacSha512 key (beBytes 4 1 ++ label ++ [0#8] ++ context ++ beBytes 4 n)).toNat).take (n / 8)

/-! ### Slots (R459, R460) -/

def blankSlot : OtpSlot := { header := 0, value := 0, check := 0 }
def getOtp (s : State) (i : Nat) : OtpSlot := tblGet blankSlot s.vault.slots i
def setOtp (s : State) (i : Nat) (x : OtpSlot) : State := { s with vault := { s.vault with slots := tblSet blankSlot s.vault.slots i x } }

/-- The check code over the header, the value bytes and the slot index. -/
def slotCheck (header value i : Nat) : Nat := (sha512 (leBytes 4 header ++ leBytes 64 value ++ leBytes 1 i)).toNat / 2 ^ 480

/-- STATE of a slot: 0 BLANK, 1 VALID, 2 TORN. -/
def slotState (s : State) (i : Nat) : Nat :=
  let x := getOtp s i
  if x = blankSlot then 0 else if x.check = slotCheck x.header x.value i then 1 else 2

/-- The slot in force for a role, and its value: the VALID slot with the highest index. -/
def inForce (s : State) (role : Nat) : Option (Nat × Nat) :=
  if role = 0 ∨ role > 5 then none
  else (((List.range 64).filter (fun i => slotState s i == 1 && (getOtp s i).header % 16 == role)).getLast?).map (fun i => (i, (getOtp s i).value))

/-- NEXT_SLOT. -/
def nextSlot (s : State) : Nat := match ((List.range 64).filter (fun i => slotState s i != 0)).getLast? with
  | some i => i + 1
  | none => 0

/-! ### Lifecycle (R462, Table 16.2) -/

/-- Whether step k (1 to 3) is taken: either of its fuse bits reads 1. -/
def stepTaken (s : State) (k : Nat) : Bool := bits s.vault.fuses (2 * k - 1) (2 * k - 2) != 0

/-- LIFECYCLE: 0 Blank, 1 Provisioned, 2 Field, 3 Returned. -/
def lifecycle (s : State) : Nat :=
  if stepTaken s 3 then 3 else if stepTaken s 2 then 2 else if stepTaken s 1 then 1 else 0

/-- Whether a role may be written now. -/
def roleWritable (s : State) (role : Nat) : Bool :=
  decide (1 ≤ role) && decide (role ≤ 5) && (match lifecycle s with
    | 0 => true
    | 1 => true
    | 2 => role != 1
    | _ => false)

/-- Whether a forward move of the lifecycle is permitted. -/
def moveAllowed (s : State) (t : Nat) : Bool :=
  match lifecycle s, t with
  | 0, 1 => (inForce s 1).isSome && (inForce s 2).isSome
  | 0, 3 => true
  | 1, 2 => (inForce s 3).isSome
  | 1, 3 => true
  | 2, 3 => true
  | _, _ => false

/-! ### Anchors (R470) -/

/-- The hash of a signing key: its modulus and the 4-byte exponent 65,537. -/
def keyHash (modulus : List Byte) : List Byte := shaBytes (modulus ++ beBytes 4 0x00010001)

/-- Whether a key is anchored to a role. -/
def anchored (s : State) (role : Nat) (modulus : List Byte) : Bool := match inForce s role with
  | some (_, v) => leBytes 64 v == keyHash modulus
  | none => false

/-! ### Suhild images (R476, R477) -/

def suhildKind (img : List Byte) : Nat := im8 img 5
def suhildSections (img : List Byte) : Nat := im8 img 4 % 16
def secType (img : List Byte) (i : Nat) : Nat := im8 img (0x43 + 0x60 * i)
def secLen (img : List Byte) (i : Nat) : Nat := im32 img (0x44 + 0x60 * i)
def secOff (img : List Byte) (i : Nat) : Nat := im32 img (0x48 + 0x60 * i)
def secHash (img : List Byte) (i : Nat) : List Byte := imgBytes img (0x60 + 0x60 * i) 64
def suhildModulus (img : List Byte) : List Byte := imgBytes img 0x340 512

/-- Whether section s of a header is formed as Table 16.9 gives. -/
def secOk (img : List Byte) (i : Nat) : Bool :=
  let o := 0x40 + 0x60 * i
  [1, 2, 3, 4, 5, 6, 0x10].contains (secType img i) && im32 img o % 2 ^ 24 == 0 && im32 img (o + 0x0C) == 0 && im64 img (o + 0x18) == 0
    && (secType img i == 1 || secType img i == 2 || im64 img (o + 0x10) == 0)

/-- MAGIC, FORMAT, KIND, SECTIONS and the reserved fields. -/
def headerFormat (img : List Byte) (kinds : List Nat) : Bool :=
  decide (1856 ≤ img.length) && imgBytes img 0 4 == [0x53#8, 0x55#8, 0x48#8, 0x4C#8] && im16 img 6 == 1 && kinds.contains (suhildKind img)
    && im8 img 4 / 16 == 0 && decide (1 ≤ suhildSections img) && decide (suhildSections img ≤ 8) && allZero (imgBytes img 0x0C 0x34)
    && (List.range (suhildSections img)).all (secOk img)

/-- The signature of a header over its bytes 0x000 to 0x53F. -/
def headerSigned (img : List Byte) : Bool := pssVerify (suhildModulus img) (imgBytes img 0 0x540) (imgBytes img 0x540 512)

/-- Whether SVN is not below MIN_SVN in force. -/
def svnOk (s : State) (img : List Byte) : Bool := match inForce s 5 with
  | some (_, v) => decide (v % 2 ^ 32 ≤ im32 img 8)
  | none => true

/-- Every section lies inside the image and its hash matches. -/
def sectionsOk (img : List Byte) : Bool :=
  (List.range (suhildSections img)).all (fun i =>
    decide (secOff img i + secLen img i ≤ img.length) && shaBytes (imgBytes img (secOff img i) (secLen img i)) == secHash img i)

/-- The kinds that a role anchors (R477). -/
def roleKinds (role : Nat) : List Nat := match role with
  | 2 => [1, 3]
  | 3 => [2]
  | 4 => [4]
  | _ => [1, 2, 3, 4]

/-- Verification of a whole image: DETAIL of Table 16.5, and whether everything held; role 0xFF leaves the key unanchored. -/
def suhildCheck (s : State) (img : List Byte) (role : Nat) (kinds : List Nat) : Nat × Bool :=
  if headerFormat img kinds = false then (0x10 + b2n (role == 0xFF), false)
  else
    let anch := role == 0xFF || anchored s role (suhildModulus img)
    let sec := sectionsOk img
    let svn := svnOk s img
    (b2n (role == 0xFF) + 2 * b2n (!anch) + 4 * b2n (!sec) + 8 * b2n (!svn), anch && sec && svn && headerSigned img)

end Sys2Proof.Machine
end

