-- ==== Sys2Proof/Machine/BootRom.lean ====
section
/-! DEFINITION. Machine/BootRom.lean: what the Boot ROM's code does with an accepted image (R479). -/

namespace Sys2Proof.Machine

/-- The first section of a type in the booted image: its header index and bytes. -/
def bootSection (s : State) (typ : Nat) : Option (Nat × List Byte) :=
  let b := s.vault.boot
  ((List.range (suhildSections b.header)).find? (fun i => secType b.header i == typ)).map (fun i => (i, b.secs.getD i []))

/-- Cores load a section at its TARGET, as far as their local memory goes, and start there at a level. -/
def enterSection (s : State) (cores : List Nat) (typ : Nat) (pl : BitVec 2) : State := match bootSection s typ with
  | some (i, b) =>
    let o := im64 s.vault.boot.header (0x50 + 0x60 * i)
    cores.foldl (fun s k =>
      let c := getCore s k
      setCore s k { c with lmem := memPut c.lmem o (b.take (localSize k - o)), pc := BitVec.ofNat 64 (2 ^ 63 + o), pl := pl }) s
  | none => s

/-- Step 1: KLOAD ROOT. -/
def romRoot (s : State) : State :=
  if lifecycle s = 0 ∨ lifecycle s = 3 then s
  else match inForce s 1 with
    | some (_, v) => reload' s 0 v true false 0x100 0
    | none => s

/-- Step 3: the IDK of an IDK_BLOB section is unwrapped under a key derived from WKR, which is cleared again. -/
def romIdk (s : State) : State := match bootSection s 5, getKey s 0 with
  | some (_, b), some k =>
    match (if b.length = 1800 then kwUnwrap (deriveBytes (keyBytes 0 k) [0x49#8, 0x44#8, 0x4B#8] (beBytes 8 Config.serial.toNat) false) b else none) with
    | some p => reload' s 9 (leNat p) false false 0x100 0
    | none => s
  | _, _ => s

/-- Steps 1 to 3 and 5, which a reset of the control domain alone repeats. -/
def romControl (s : State) : State := enterSection (romIdk (romRoot s)) [0, 1, 2] 1 2#2

/-- Step 4: the Tally cores load their section and are released at its TARGET at Supervisor level. -/
def romTally (s : State) : State :=
  if (bootSection s 2).isSome then
    let s := enterSection s [3, 4, 5, 6] 2 1#2
    { s with host := { s.host with tallyWait := false } }
  else s

/-- The Boot ROM's stage, taken at one instant (log entry 152, DESIGN CHOICE). -/
def bootRomRun (s : State) : State :=
  let s := romTally (romControl s)
  { s with vault := { s.vault with boot := { s.vault.boot with booted := true } } }

end Sys2Proof.Machine
end

