-- ==== Sys2Proof/Machine/Fence.lean ====
section
/-! DEFINITION. Machine/Fence.lean: violations and freezes, coasting and TRIAD_FAULT, the dropping of the
lease, and the changes of the state delta (R372 to R374, R387, R391, R396, R399, R414 to R418). -/

namespace Sys2Proof.Machine

/-! ### Pair unit: role and records -/

/-- Encoding of ROLE (Table 13.11). -/
def Role.code : Role → Nat
  | .active => 0
  | .lead => 1
  | .follow => 2
  | .rejoin => 3
  | .off => 4

/-- The mode of a role (R430): Off reports Active. -/
def Role.mode : Role → Mode
  | .active => .active
  | .lead => .lead
  | .follow => .follow
  | .rejoin => .rejoin
  | .off => .active

/-- Whether the mode follows ROLE (R430). -/
def Mode.paired : Mode → Bool
  | .active => true
  | .lead => true
  | .follow => true
  | .rejoin => true
  | _ => false

/-- ROLE changes, and MODE with it where MODE follows ROLE (R430). -/
def setRole (s : State) (r : Role) : State :=
  { s with pair := { s.pair with role := r, source := false }
           gh := { s.gh with mode := if s.gh.mode.paired then r.mode else s.gh.mode } }

/-- Sets or clears a bit of FAULT_SRC (R445). -/
def setFaultSrc (s : State) (i : Nat) (on : Bool) : State :=
  { s with gh := { s.gh with faultSrc := if on then s.gh.faultSrc ||| 2 ^ i else s.gh.faultSrc &&& (127 ^^^ 2 ^ i) } }

/-- The mode that follows Waking, Limp or Retained (Table 15.4). -/
def enterMode (s : State) (m : Mode) : State := { s with gh := { s.gh with mode := m } }

/-- Posts a Pair event (Table 13.10). -/
def pairEvent (s : State) (typ code detail : Nat) : State :=
  postEvent s 15 [typ * 2 ^ 24 + code * 2 ^ 16 + s.pair.role.code * 2 ^ 13, tick32 s, detail, 0]

/-- Whether the pair link is up (R384). -/
def pairUp (s : State) : Bool := s.pair.lane0 || s.pair.lane1

/-- A frame sent on the pair link, when it is up. -/
def pairSend (s : State) (typ : Nat) (chunk : Nat := 0) : State :=
  if pairUp s then { s with pair := { s.pair with sent := s.pair.sent ++ [{ typ := typ, tick := tick32 s, chunk := chunk }] } } else s

/-- The lease is dropped: a Lead leaves to Active with LOST and BUS_HELD set, and RELEASE is sent
(Table 12.4, Table 13.4, R388, R391); code 3 coast, 4 debug. -/
def dropLease (s : State) (code : Nat) : State :=
  if s.pair.role = .lead then
    let s := pairSend s 0x6
    let s := setRole { s with pair := { s.pair with lost := true, busHeld := true } } .active
    pairEvent { s with pair := { s.pair with source := decide (code = 3) } } 0x71 code 0
  else s

/-- Whether the data plane's own writes to the classes of the state delta are held back (R399). -/
def pairPassive (s : State) : Bool := s.pair.role == .follow || s.pair.role == .rejoin

/-- Whether the device sends its state delta: the Lead, and one that left Lead as it began to coast, while it coasts, whose deltas keep flowing without RENEW
(R396, Table 13.8). -/
def leadSource (s : State) : Bool := s.pair.role == .lead || (s.pair.source && s.triad.coasting)

/-- A change of a delta class made by the Lead's data plane enters the delta of the tick (R396). -/
def logChange (s : State) (r : DeltaRec) : State :=
  if leadSource s then { s with pair := { s.pair with changes := s.pair.changes ++ [r] } } else s

/-! ### Coasting and TRIAD_FAULT -/

/-- Coasting begins with a cause of Table 12.5, unless it has begun already (R373, Table 12.7). -/
def beginCoast (s : State) (cause : Nat) : State :=
  if s.triad.coasting then s
  else
    let s := { s with
      triad := { s.triad with coasting := true, coastCause := cause, limit := s.triad.coastLimit + 1, coastBounds := 0 }
      pair := { s.pair with source := false } }
    dropLease s 3

/-- Whether the voter's copies decide differently about copies of a shape: one of them answers it wrongly. -/
def votersDiffer (v : Voter) (shape : Nat) : Bool := v.a.getLsbD shape != v.b.getLsbD shape

/-- The self-test of R371: a copy answers one of the 8 patterns with another outcome than Table 12.2's. -/
def selfTestFails (v : Voter) : Bool := v.a != 0#8 || v.b != 0#8

/-- TRIAD_FAULT with a cause of Table 12.6: the cores are held, open groups roll back, the Vault abandons its
operations, a lease is dropped and coasting begins; a further cause changes nothing (R372, Table 12.4). -/
def triadFault (s : State) (cause : Nat) : State :=
  if s.triad.fault then s
  else
    let s := { s with
      triad := { s.triad with fault := true, faultCause := if s.triad.faultCause = 0 then cause else s.triad.faultCause }
      gate := { s.gate with group := none } }
    dropLease (beginCoast (setFaultSrc (abandonSig s) 1 true) 1) 3

/-! ### Violations (R414 to R416) -/

/-- The master ranges of Table 14.6: threads, Triad, Tally cores, host function, host DMA groups, internal
DMA; partners are 6. -/
def masterRange (m : Nat) : Nat :=
  if m < 0x200 then 0
  else if m = 0x200 then 1
  else if m < 0x220 then 2
  else if m = 0x220 then 3
  else if m < 0x240 then 4
  else 5

/-- Master 0x200, the Triad. -/
def mTRIAD : Nat := 0x200
def mTALLY : Nat := 0x210
def mHOST : Nat := 0x220

/-- The payload of Table 14.7. -/
def violPayload (s : State) (code : Nat) (partner : Bool) (subject info : Nat) : List Nat :=
  [0x80 * 2 ^ 24 + code * 2 ^ 16 + b2n partner * 2 ^ 12 + subject, tick32 s, info % 2 ^ 32, info / 2 ^ 32 % 256]

/-- The freeze of an engine thread: its packet is dropped, its speculation withdrawn, its chains reclaimed
(Table 14.6, R69, R238). -/
def freezeThread (s : State) (t : Nat) : State :=
  match (getThread s t).pkt with
  | some p => detachLrn (clearThread (passEndReclaim (dropPacket s p) t) t) t
  | none => s

/-- A violation of master m with a code of Table 14.5 and its INFO; pc is the address of the offending
instruction of a core (R414 to R417). -/
def violate (s : State) (m code info pc : Nat) : State :=
  let s := bump s .violations ((code - 1) * 7 + masterRange m) 1
  let pl := violPayload s code false m info
  let s := postEvent s 18 pl
  let s := { s with fence := { s.fence with lastViolation := pl, frozen := insertNat m s.fence.frozen } }
  match masterRange m with
  | 0 => freezeThread s m
  | 1 => beginCoast s (if code = vTICK then 2 else 3)
  | 2 =>
    { s with fence := { s.fence with heldInfo := tblSet 0 s.fence.heldInfo m info, heldPc := tblSet 0 s.fence.heldPc m pc } }
  | _ => s

/-- A CONTRACT violation: the partner is frozen, unless the device is Follow or Rejoin (R399), and the record goes to
LAST_VIOLATION only (R416). -/
def violatePartner (s : State) (p : Nat) : State :=
  let s := bump s .violations ((vCONTRACT - 1) * 7 + 6) 1
  let s := { s with fence := { s.fence with lastViolation := violPayload s vCONTRACT true p p } }
  if pairPassive s then s
  else logChange { s with fence := { s.fence with partners := insertNat p s.fence.partners } } (.freeze p)

/-- A violation by a packet program (Table 2.11). -/
def threadFault (s : State) (t code info : Nat) : State := violate s t code info 0

end Sys2Proof.Machine
end

