-- ==== Sys2Proof/Machine/Berm.lean ====
section
/-! DEFINITION. Machine/Berm.lean: zone policy, the verdict cache, and the connection table (R195 to R200,
R209 to R217). -/

namespace Sys2Proof.Machine

/-! ### Zone policy (Tables 6.6 to 6.9) -/

/-- An entry of the zone pair policy (Table 6.9). -/
structure PairPolicy where
  permit : Bool
  spec : Bool
  notify : Bool
  tclass : Nat
  maxConn : Nat
  deriving DecidableEq, Repr

/-- The policy of the pair (x, y) under an epoch; nothing is permitted where the epoch is not live. -/
def pairPolicy (s : State) (e x y : Nat) : PairPolicy :=
  let w := match ruleSetOf s e with
    | some r => bermField r (0x1400 + 8 * (32 * x + y)) 4
    | none => 0
  { permit := bitOf w 31, spec := bitOf w 30, notify := bitOf w 29, tclass := bits w 27 24, maxConn := bits w 22 0 }

/-- SPEC_EN of an epoch. -/
def specEn (s : State) (e : Nat) : Bool := match ruleSetOf s e with
  | some r => bitOf (bermField r 0 4) 0
  | none => false

/-- The recipe bytes of a profile (Table 6.7), byte 0 first. -/
def recipe (r : RuleSet) (profile : Nat) : List Nat := (List.range 4).map (fun j => bermField r (0x0080 + 4 * profile + j) 1)

/-- A profile whose recipe bytes all select zero is treated as NO_SPEC (R196). -/
def recipeEmpty (r : RuleSet) (profile : Nat) : Bool := (recipe r profile).all (fun b => b / 64 == 0)

/-- The flow key F (R196): word j is zero, an extractor output or the rule key. -/
def flowKey (r : RuleSet) (profile : Nat) (ext : List Nat) (k : Nat) : Nat :=
  ((recipe r profile).zipIdx.map (fun e =>
    let v := match e.1 / 64 with
      | 1 => ext.getD (e.1 % 32) 0
      | 2 => k
      | _ => 0
    (v % 2 ^ 64) * 2 ^ (64 * e.2))).sum

/-- The idle limit of a state from a timeout class under an epoch (Table 6.8). -/
def idleLimit (s : State) (e tclass state : Nat) : Nat :=
  match ruleSetOf s e with
  | some r =>
    let o := 0x0180 + 16 * tclass
    match state with
    | 1 => bermField r (o + 2) 2
    | 2 => bermField r o 2
    | _ => bermField r (o + 6) 2
  | none => 0

/-! ### The verdict cache -/

/-- The set of a flow key (R195). -/
def cacheSet (key : Nat) : Nat := (crc32c (beBytes 32 key) 0xFFFFFFFF#32).toNat % 65536

def getWay (s : State) (v : Nat) : Option VEntry := tblGet none s.berm.cache v
def setWay (s : State) (v : Nat) (x : Option VEntry) : State :=
  { s with berm := { s.berm with cache := tblSet none s.berm.cache v x } }

def getConn (s : State) (c : Nat) : Option Conn := tblGet none s.berm.conns c
def setConn (s : State) (c : Nat) (x : Option Conn) : State :=
  { s with berm := { s.berm with conns := tblSet none s.berm.conns c x } }

/-- The way that holds a key with VALID = 1. -/
def findWay (s : State) (key : Nat) : Option Nat :=
  ((List.range 4).map (fun w => 4 * cacheSet key + w)).find? (fun v =>
    match getWay s v with | some x => x.key == key | none => false)

/-- A connection's back pointer of a direction: false initiator, true reply. -/
def backPtr (c : Conn) (dir : Bool) : Option Nat := if dir then c.cachedR else c.cachedI
def setBackPtr (s : State) (i : Nat) (dir : Bool) (v : Option Nat) : State :=
  match getConn s i with
  | some c => setConn s i (some (if dir then { c with cachedR := v } else { c with cachedI := v }))
  | none => s

/-- Clears VALID of a way, and the back pointer that names it. -/
def clearWay (s : State) (v : Nat) : State :=
  match getWay s v with
  | some x =>
    let s := match getConn s x.conn with
      | some c => if backPtr c x.dir = some v then setBackPtr s x.conn x.dir none else s
      | none => s
    setWay s v none
  | none => s

/-- The way that install chooses (R198). -/
def chooseWay (s : State) (key : Nat) : State × Nat :=
  let ws := (List.range 4).map (fun w => 4 * cacheSet key + w)
  match findWay s key with
  | some v => (s, v)
  | none =>
    match ws.find? (fun v => match getWay s v with | some x => x.epoch != curEpoch s | none => true) with
    | some v => (s, v)
    | none =>
      match ws.find? (fun v => match getWay s v with | some x => !x.hit | none => true) with
      | some v => (s, v)
      | none =>
        let s := ws.foldl (fun s v => match getWay s v with
          | some x => setWay s v (some { x with hit := false })
          | none => s) s
        (s, 4 * cacheSet key)

/-- install of R198: one write of a confirmed verdict. -/
def installVerdict (s : State) (x : VEntry) : State :=
  let s := match (getConn s x.conn).bind (fun c => backPtr c x.dir) with
    | some b =>
      match getWay s b with
      | some y => if y.key = x.key then s else setBackPtr (setWay s b none) x.conn x.dir none
      | none => setBackPtr s x.conn x.dir none
    | none => s
  let r := chooseWay s x.key
  let s := match getWay r.1 r.2 with
    | some y => if y.conn = x.conn ∧ y.dir = x.dir then r.1 else setBackPtr r.1 y.conn y.dir none
    | none => r.1
  let s := setBackPtr (setWay s r.2 (some { x with hit := false })) x.conn x.dir (some r.2)
  bump s .cacheInstalls 0 1

/-- The evaluation of R197 at the end of a pass in ENQ with BUF = 0. -/
def installAtEnq (s : State) (p : Packet) (q template dp : Nat) (cut : Bool) : State :=
  match p.lastCon, queuePort s q with
  | some c, some m =>
    let e := p.epoch
    let pol := pairPolicy s e c.zsrc c.zdst
    if p.pass = 0 ∧ p.offered ∧ cut ∧ specEn s e ∧ (m < 56 ∨ 58 < m) ∧ e = curEpoch s ∧ c.removed = false
        ∧ c.state = 2 ∧ bitOf c.ev 5 ∧ pol.permit ∧ pol.spec then
      let zf := partnerZone s e p.partner
      let zt := portZone s e m
      let reply := bitOf c.ev 0
      if (reply = false ∧ zf = c.zsrc ∧ zt = c.zdst) ∨ (reply = true ∧ zf = c.zdst ∧ zt = c.zsrc) then
        installVerdict s { key := p.fkey, epoch := e, queue := q, template := template, dp := dp, zfrom := zf,
                           zto := zt, dir := reply, conn := c.conn, hit := false }
      else bump s .cacheSkipped 0 1
    else s
  | _, _ => s

/-- A confirmed frame that ends in DONE sets HIT of its entry (R197). -/
def setHit (s : State) (p : Packet) : State :=
  match getWay s p.specWay with
  | some x => if x.key = p.fkey then setWay s p.specWay (some { x with hit := true }) else s
  | none => s

/-- The probe of R200: the way that hits for an offered frame.  A cached queue that has become unattached has no port and so no zone:
the probe misses, and no speculation is refused or counted (log entry 177, DESIGN CHOICE). -/
def probe (s : State) (p : Packet) : Option (Nat × VEntry) :=
  if specEn s p.epoch = false ∨ p.epoch ≠ curEpoch s then none
  else match findWay s p.fkey with
    | none => none
    | some v =>
      match getWay s v with
      | none => none
      | some x =>
        match queuePort s x.queue with
        | none => none
        | some m =>
          let zf := partnerZone s p.epoch p.partner
          let zt := portZone s p.epoch m
          let pr := if x.dir then pairPolicy s p.epoch zt zf else pairPolicy s p.epoch zf zt
          if x.epoch = p.epoch ∧ zf = x.zfrom ∧ zt = x.zto ∧ pr.permit ∧ pr.spec then some (v, x) else none

/-! ### Connections (R211 to R217) -/

/-- The candidate buckets of a connection key (R211). -/
def connBuckets (key : Nat) : Nat × Nat := bucketPair 0xFF 256 key 0xB3E70001 1048576

/-- The candidate places of a key, in the order of R211. -/
def connPlaces (key : Nat) : List Nat :=
  let b := connBuckets key
  (List.range 4).map (4 * b.1 + ·) ++ (List.range 4).map (4 * b.2 + ·)

/-- The connection of a key: its index and record. -/
def findConn (s : State) (key : Nat) : Option (Nat × Conn) :=
  (connPlaces key).findSome? (fun i => match getConn s i with
    | some c => if c.key = key ∧ c.cleared = false then some (i, c) else none
    | none => none)

/-- The lowest free place of b1, else of b2 (R211). -/
def freePlace (s : State) (key : Nat) : Option Nat := (connPlaces key).find? (fun i => (getConn s i).isNone)

/-- The record word of Table 6.13. -/
def connWord (i : Nat) (c : Conn) : Nat :=
  i * 2 ^ 42 + c.state * 2 ^ 40 + b2n c.hs * 2 ^ 39 + b2n c.rSeen * 2 ^ 38 + b2n c.finI * 2 ^ 37 + b2n c.finR * 2 ^ 36
    + c.zsrc * 2 ^ 31 + c.zdst * 2 ^ 26 + c.tclass * 2 ^ 22 + b2n c.cachedI.isSome * 2 ^ 21
    + b2n c.cachedR.isSome * 2 ^ 20 + c.idle

def pairIdx (x y : Nat) : Nat := 32 * x + y

def pairCount (s : State) (x y : Nat) : Nat := tblGet 0 s.berm.pairCount (pairIdx x y)
def setPairCount (s : State) (x y n : Nat) : State :=
  { s with berm := { s.berm with pairCount := tblSet 0 s.berm.pairCount (pairIdx x y) n } }

/-- Clears the cache entries that a connection's back pointers name (R199). -/
def clearCached (s : State) (i : Nat) (c : Conn) : State :=
  let s := match c.cachedI with | some v => setWay s v none | none => s
  let s := match c.cachedR with | some v => setWay s v none | none => s
  setConn s i (some { c with cachedI := none, cachedR := none })

/-- Removes a connection: pair count, cache entries and place in one write (R216). -/
def removeConn (s : State) (i : Nat) (c : Conn) : State :=
  let s := clearCached s i c
  let s := setPairCount s c.zsrc c.zdst (pairCount s c.zsrc c.zdst - 1)
  logChange (setConn s i none) (.connRemove c.key)

/-- The event of an expiry or an RST removal, when the pair's NOTIFY asks for it (R216, Table 6.15). -/
def connEvent (s : State) (e typ i : Nat) (c : Conn) : State :=
  if (pairPolicy s e c.zsrc c.zdst).notify then
    postEvent s 6 [typ * 2 ^ 24 + i, c.zdst * 2 ^ 5 + c.zsrc, tick32 s, 0]
  else s

/-- The transition of Table 6.14. -/
def connNext (c : Conn) (ev : Nat) : Conn :=
  let reply := bitOf ev 0
  let syn := bitOf ev 1
  let ack := bitOf ev 2
  let fin := bitOf ev 3
  let closing := if reply then { c with state := 3, finR := true } else { c with state := 3, finI := true }
  if c.state = 1 ∧ c.hs = false ∧ reply then { c with state := 2, rSeen := true }
  else if c.state = 1 ∧ c.hs ∧ reply ∧ syn ∧ ack then { c with rSeen := true }
  else if c.state = 1 ∧ c.hs ∧ reply = false ∧ ack ∧ c.rSeen then { c with state := 2 }
  else if (c.state = 2 ∨ c.state = 3) ∧ fin then closing
  else if reply then { c with rSeen := true } else c

/-- What CON answers: the state, status, detail, w[d], and the record for R197. -/
structure ConRes where
  st : State
  status : Nat
  detail : Nat
  word : Nat
  con : Option LastCon

def conFail (s : State) (status detail : Nat) : ConRes := { st := s, status := status, detail := detail, word := 0, con := none }

def conOk (s : State) (i : Nat) (c : Conn) (detail : Nat) (ev : Nat) : ConRes :=
  { st := s, status := stOK, detail := detail, word := connWord i c,
    con := some { conn := i, state := c.state, removed := bitOf detail 1, zsrc := c.zsrc, zdst := c.zdst, ev := ev } }

/-- Keeps the state of a device that writes none of the delta classes itself (R399). -/
def unlessPassive (s0 : State) (r : ConRes) : ConRes := if pairPassive s0 then { r with st := s0 } else r

/-- LOOKUP (Table 6.12). -/
def conLookupOp (s : State) (e key ev : Nat) : ConRes :=
  match findConn s key with
  | none => conFail s stMISS 0
  | some (i, c) =>
    if (pairPolicy s e c.zsrc c.zdst).permit = false then conFail s stDENIED 0 else conOk s i c 0 ev

/-- UPDATE of an existing connection; det is the detail that OPEN adds. -/
def conUpdateFound (s : State) (e i : Nat) (c : Conn) (ev det : Nat) : ConRes :=
  if (pairPolicy s e c.zsrc c.zdst).permit = false then conFail s stDENIED det
  else if bitOf ev 4 then
    let s' := connEvent (bump (removeConn s i c) .connReset (pairIdx c.zsrc c.zdst) 1) e 0x11 i c
    conOk s' i { c with state := 0 } (det + 2) ev
  else
    let c' := { connNext c ev with idle := 0, visited := s.localNs }
    conOk (logChange (setConn s i (some c')) (.connSet c'.key (connWord i c'))) i c' det ev

def conUpdateOp (s : State) (e key ev : Nat) : ConRes :=
  match findConn s key with
  | none => conFail s stMISS 0
  | some (i, c) => unlessPassive s (conUpdateFound s e i c ev 0)

/-- CLOSE (Table 6.12). -/
def conCloseOp (s : State) (key ev : Nat) : ConRes :=
  match findConn s key with
  | none => conFail s stMISS 0
  | some (i, c) =>
    unlessPassive s (conOk (bump (removeConn s i c) .connClosed (pairIdx c.zsrc c.zdst) 1) i c 2 ev)

/-- OPEN of a connection that does not exist (Table 6.12). -/
def conCreate (s : State) (e partner key x y ev : Nat) : ConRes :=
  let pol := pairPolicy s e x y
  if pol.permit = false ∨ partnerZone s e partner ≠ x then conFail (bump s .connDenied (pairIdx x y) 1) stDENIED 0
  else if pol.maxConn > 0 ∧ pairCount s x y ≥ pol.maxConn then conFail (bump s .connLimited (pairIdx x y) 1) stFULL 4
  else match freePlace s key with
    | none => conFail (bump s .connFull 0 1) stFULL 0
    | some i =>
      let c : Conn := { key := key, state := 1, hs := bitOf ev 1, rSeen := false, finI := false, finR := false, zsrc := x,
                        zdst := y, tclass := pol.tclass, cachedI := none, cachedR := none, idle := 0, addIdle := 0,
                        visited := s.localNs, cleared := false }
      let s := setPairCount (setConn s i (some c)) x y (pairCount s x y + 1)
      let s := logChange s (.connSet key (connWord i c))
      conOk (bump s .connOpened (pairIdx x y) 1) i c 0 ev

def conOpenOp (s : State) (e partner key x y ev : Nat) : ConRes :=
  match findConn s key with
  | some (i, c) =>
    let r := conUpdateFound s e i c ev 1
    unlessPassive s (if r.status = stDENIED then { r with st := bump r.st .connDenied (pairIdx c.zsrc c.zdst) 1 } else r)
  | none => unlessPassive s (conCreate s e partner key x y ev)

/-- CONN_CLEAR at step 2 (R217): the connections cease to be found and their cache entries to hit; their
places stay in use until they are freed. -/
def connClear (s : State) (all : Bool) (x y : Nat) : State :=
  s.berm.conns.foldl (fun s e => match e.2 with
    | some c =>
      if c.cleared = false ∧ (all ∨ (c.zsrc = x ∧ c.zdst = y)) then
        let s := clearCached s e.1 c
        let s := setPairCount s c.zsrc c.zdst (pairCount s c.zsrc c.zdst - 1)
        setConn s e.1 (some { c with cleared := true, cachedI := none, cachedR := none })
      else s
    | none => s) s

/-- Frees the places of cleared connections (R217). -/
def connClearFree (s : State) : State :=
  s.berm.conns.foldl (fun s e => match e.2 with
    | some c => if c.cleared then setConn s e.1 none else s
    | none => s) s

/-- Where in each second of local time connection i is visited, in ns: the places follow one another evenly (log entry 78). -/
def visitPhase (i : Nat) : Nat := i * 1000000000 / 4194304

/-- The first instant after t at which connection i is due for a visit. -/
def nextVisit (i t : Nat) : Nat := t + 1000000000 - (t + 1000000000 - visitPhase i) % 1000000000

/-- Visits of connection i that fall due after t and no later than u. -/
def visitsDue (i t u : Nat) : Nat := if nextVisit i t ≤ u then 1 + (u - nextVisit i t) / 1000000000 else 0

/-- The next visit of the connection sweeper to a connection: the clock runs to its instant (R215).  Where that instant and further ones
have passed, the visits of all of them are made at once.  A visit that finds IDLE_S at the limit removes the connection, so that it goes
between its limit and its limit plus 1 s after its last OPEN or UPDATE (log entry 78). -/
def connVisit (s : State) (i : Nat) : State :=
  match getConn s i with
  | none => s
  | some c =>
    if c.cleared then s
    else
      let due := nextVisit i c.visited
      let s := advance s (due - s.localNs)
      let before := c.idle + (s.localNs - due) / 1000000000 + c.addIdle
      let idle := sat 16 (before + 1)
      let c := { c with idle := idle, addIdle := 0, visited := s.localNs }
      let s := setConn s i (some c)
      let lim := idleLimit s (curEpoch s) c.tclass c.state
      if lim ≠ 0 ∧ before ≥ lim ∧ pairPassive s = false then
        let s := bump (removeConn s i c) .connExpired (pairIdx c.zsrc c.zdst) 1
        connEvent s (curEpoch s) 0x10 i c
      else s

/-- Clears every cache entry of an epoch. -/
def clearEpoch (s : State) (e : Nat) : State :=
  s.berm.cache.foldl (fun s v => match v.2 with
    | some x => if x.epoch = e then clearWay s v.1 else s
    | none => s) s

/-- The scrub of the epoch that retired first (R199). -/
def epochScrub (s : State) : State :=
  match s.berm.scrub with
  | [] => s
  | e :: t => let s := clearEpoch s e; { s with berm := { s.berm with scrub := t } }

end Sys2Proof.Machine
end

