-- ==== Sys2Proof/Machine/Template.lean ====
section
/-! DEFINITION. Machine/Template.lean: the FCS, rewrite templates, R-TAGs and the bytes that a frame leaves
with (R88, R290 to R292, R393). -/

namespace Sys2Proof.Machine

/-! ### Check sequences -/

/-- One bit of the CRC-32 of IEEE 802.3. -/
def fcsBit (r : BitVec 32) : BitVec 32 := if r.getLsbD 0 then (r >>> 1) ^^^ 0xEDB88320#32 else r >>> 1

def fcsByte (r : BitVec 32) (b : Byte) : BitVec 32 :=
  let x := r ^^^ (b.zeroExtend 32)
  fcsBit (fcsBit (fcsBit (fcsBit (fcsBit (fcsBit (fcsBit (fcsBit x)))))))

/-- The CRC-32 of a frame's bytes. -/
def crc32 (m : List Byte) : Nat := ((m.foldl fcsByte 0xFFFFFFFF#32) ^^^ 0xFFFFFFFF#32).toNat

/-- A frame's bytes with their FCS appended (R88). -/
def withFcs (m : List Byte) : List Byte := m ++ leBytes 4 (crc32 m)

/-- Whether a frame ends in its right FCS. -/
def fcsOk (f : List Byte) : Bool :=
  let n := f.length - 4
  decide (4 ≤ f.length) && f.drop n == leBytes 4 (crc32 (f.take n))

/-- Adds a 16-bit word to a ones' complement sum (R92's CSUM). -/
def onesAdd (a x : Nat) : Nat := if a + x > 0xFFFF then a + x - 0xFFFF else a + x

/-- RFC 1071 sum of bytes from an initial value, an odd final byte padded with zero. -/
def rfc1071 : Nat → List Byte → Nat
  | a, [] => a
  | a, [x] => onesAdd a (x.toNat * 256)
  | a, x :: y :: t => rfc1071 (onesAdd a (x.toNat * 256 + y.toNat)) t

/-! ### Templates (R291, R292) -/

/-- Overwrites bytes of a frame from an offset. -/
def setBytes (l : List Byte) (o : Nat) (b : List Byte) : List Byte := l.take o ++ b ++ l.drop (o + b.length)

/-- Edit i of a template applied to a frame, with the number of skips (R292). -/
def applyEdit (b : List Byte) (w : Nat) : List Byte × Nat :=
  let off := bits w 63 56
  let mask := bits w 47 32
  let value := bits w 31 16
  let fits (n : Nat) : Bool := decide (off + n ≤ b.length) && decide (off + n ≤ 256)
  match bits w 55 53 with
  | 1 =>
    if fits 2 then
      let x := beNat (imgBytes b off 2)
      (setBytes b off (beBytes 2 ((x &&& (0xFFFF ^^^ mask)) ||| (value &&& mask))), 0)
    else (b, 1)
  | 2 => if fits 1 then (setBytes b off [BitVec.ofNat 8 (im8 b off - 1)], 0) else (b, 1)
  | 3 =>
    if fits 1 then
      let h := 4 * (im8 b off % 16)
      if h < 20 ∨ fits h = false then (b, 1)
      else
        let z := setBytes b (off + 10) [0#8, 0#8]
        (setBytes z (off + 10) (beBytes 2 (0xFFFF - rfc1071 0 (imgBytes z off h))), 0)
    else (b, 1)
  | _ => (b, 0)

/-- A template applied to a frame's bytes without FCS, with the number of skips (R291).  An insert of no bytes is no insert, wherever
INS_OFF lies, and counts no skip (log entry 205, DESIGN CHOICE). -/
def applyTemplate (t b : List Byte) : List Byte × Nat :=
  let w0 := im32 t 0
  let w1 := im32 t 4
  if bitOf w0 31 = false then (b, 0)
  else
    let so := bits w0 23 16
    let b := b.take so ++ b.drop (so + bits w0 15 8)
    let io := bits w1 31 24
    let n := bits w1 23 16
    let r := if n = 0 then (b, 0)
      else if io ≤ b.length then (b.take io ++ imgBytes t 8 n ++ b.drop io, 0) else (b, 1)
    (List.range 3).foldl (fun r i =>
      let x := applyEdit r.1 (im64 t (0x28 + 8 * i))
      (x.1, r.2 + x.2)) r

/-- Offset after the source address and the VLAN tags that follow it (R393). -/
def tagOffset (b : List Byte) : Nat → Nat → Nat
  | 0, o => o
  | n + 1, o => if beNat (imgBytes b o 2) = 0x8100 ∨ beNat (imgBytes b o 2) = 0x88A8 then tagOffset b n (o + 4) else o

/-- Places the R-TAG with a sequence number, or overwrites the number of one that stands there (R393). -/
def placeRtag (b : List Byte) (seq : Nat) : List Byte :=
  let o := tagOffset b (b.length / 4) 12
  if beNat (imgBytes b o 2) = 0xF1C1 then setBytes b (o + 4) (beBytes 2 seq)
  else b.take o ++ [0xF1#8, 0xC1#8, 0#8, 0#8] ++ beBytes 2 seq ++ b.drop o

/-- Pads a frame without FCS to 60 bytes (R291). -/
def padFrame (b : List Byte) : List Byte := b ++ List.replicate (60 - b.length) 0#8

def getTemplate (s : State) (t : Nat) : List Byte := tblGet [] s.haul.templates t

/-- The bytes that a queued frame leaves with, FCS included, and its template skips (R291, R393). -/
def egressBytes (s : State) (d : Desc) : List Byte × Nat :=
  let b := frameBytes s d.handle d.len
  let r := applyTemplate (getTemplate s d.template) (b.take (d.len - 4))
  let x := match d.cbSeq with
    | some n => if (genFunc s d.template).isSome then placeRtag r.1 n else r.1
    | none => r.1
  (withFcs (padFrame x), r.2)

end Sys2Proof.Machine
end

