-- ==== Sys2Proof/Machine/Macsec.lean ====
section
/-! DEFINITION. Machine/Macsec.lean: IEEE 802.1AE protection with GCM-AES-256 and GCM-AES-XPN-256 (R330, R473). -/

namespace Sys2Proof.Machine

/-- The nonce of a packet number: SCI and PN, or with XPN the salt added to SSCI and PN. -/
def macsecNonce (a : Sa) (pn : Nat) : List Byte :=
  if a.xpn then xorBytes (beBytes 12 a.salt) (beBytes 4 a.ssci ++ beBytes 8 pn) else beBytes 8 a.sci ++ beBytes 4 pn

/-- The SecTAG of a frame with n bytes of secure data, with E, C and SC set and the SCI explicit (log entry 99, DESIGN CHOICE). -/
def secTag (a : Sa) (pn n : Nat) : List Byte :=
  [0x88#8, 0xE5#8, BitVec.ofNat 8 (0x2C + a.an % 4), BitVec.ofNat 8 (if n < 48 then n else 0)] ++ beBytes 4 pn ++ beBytes 8 a.sci

/-- The frame that an association sends in place of one, FCS and all, with its next packet number. -/
def macsecProtect (a : Sa) (b : List Byte) : List Byte :=
  let ks := aesKeys (leBytes 32 a.key)
  let m := b.take (b.length - 4)
  let iv := macsecNonce a a.pn
  let hdr := m.take 12 ++ secTag a a.pn (m.length - 12)
  let c := gcmCounter ks iv (m.drop 12)
  withFcs (hdr ++ c ++ gcmTag ks iv hdr c)

/-- The frame that was protected under an association with a packet number, where the SecTAG names them and the tag is right. -/
def macsecRecover (a : Sa) (pn : Nat) (b : List Byte) : Option (List Byte) :=
  let ks := aesKeys (leBytes 32 a.key)
  let m := b.take (b.length - 4)
  let tci := im8 m 14
  let explicitSci := bitOf tci 5
  let n := if explicitSci then 28 else 20
  let sl := im8 m 15
  let rest := m.length - n - 16
  let len := if sl = 0 then rest else sl
  let hdr := m.take n
  let c := imgBytes m n len
  let iv := macsecNonce a pn
  let secret := bitOf tci 3 && bitOf tci 2
  let shown := !bitOf tci 3 && !bitOf tci 2
  if n + len + 16 ≤ m.length ∧ imgBytes m 12 2 = [0x88#8, 0xE5#8] ∧ tci < 128 ∧ tci % 4 = a.an ∧ (sl = 0 → 48 ≤ len) ∧ sl < 48
      ∧ beNat (imgBytes m 16 4) = pn % 2 ^ 32 ∧ (a.xpn = true ∨ pn < 2 ^ 32) ∧ (explicitSci = true → beNat (imgBytes m 20 8) = a.sci)
      ∧ (secret = true ∨ shown = true)
      ∧ gcmTag ks iv (if secret then hdr else hdr ++ c) (if secret then c else []) = imgBytes m (n + len) 16 then
    some (withFcs (m.take 12 ++ (if secret then gcmCounter ks iv c else c)))
  else none

end Sys2Proof.Machine
end

