-- ==== Sys2Proof/Machine/Haul.lean ====
section
/-! DEFINITION. Machine/Haul.lean: gates, policers, the walk, transmissions and their ends (R202 to R208, R237,
R263 to R284, R309). -/

namespace Sys2Proof.Machine

/-! ### Gate lists (R277 to R280) -/

/-- Reading of a gate's time base in whole ns, dt ns of local time from now; a stopped base of a list in
COAST runs on local time from its last reading (R279). -/
def gateReading (s : State) (tb : Nat) (coast : Option (Nat × Nat)) (dt : Nat) : Int :=
  let b := tbGet s.time tb
  match coast with
  | some (r, t) => if b.running then (tbNs (tbAdvance b dt) : Int) else (r : Int) + ((s.localNs + dt : Nat) : Int) - t
  | none => (tbNs (tbAdvance b dt) : Int)

/-- The entry at a position of a cycle, and the ns until it ends (R277). -/
def entryAt (cycle : Nat) : List GateEnt → Nat → Nat → Option (GateEnt × Nat)
  | [], _, _ => none
  | [e], pos, _ => some (e, cycle - pos)
  | e :: t, pos, start =>
    if pos < start + e.ivl then some (e, min (start + e.ivl) cycle - pos) else entryAt cycle t pos (start + e.ivl)

/-- The entry of a list in force at a reading, and the ns until it ends. -/
def listAt (l : GateList) (start : Nat) (r : Int) : Option (GateEnt × Nat) :=
  if l.cycle = 0 then none
  else entryAt l.cycle l.ents ((r - start) % l.cycle).toNat 0

/-- Local ns from dt on until a list's base has gone n ns further than its reading r there (R277); a list in COAST counts local ns.
None while the base stands still. -/
def gateLeft (s : State) (tb : Nat) (coast : Bool) (dt : Nat) (r : Int) (n : Nat) : Option Nat :=
  let b := tbGet s.time tb
  if b.running then cyclesTo (tbAdvance b dt) ((r + n) * 2 ^ 32) else if coast then some n else none

/-- The list that rules an instant dt ns from now, with its start, and the local ns until another takes over. -/
def rulingList (s : State) (g : GateState) (dt : Nat) : Option (GateList × Nat) × Option Nat :=
  match g.pending with
  | none => (g.active, none)
  | some (l, st) =>
    let b := tbGet s.time l.tb
    if b.running = false then (g.active, none)
    else
      let r := gateReading s l.tb none dt
      if (st : Int) ≤ r then (some (l, st), none) else (g.active, gateLeft s l.tb false dt r ((st : Int) - r).toNat)

/-- The entry that rules an instant dt ns from now, none where all is open, and the local ns for which it is sure
to last: none where no change is in sight. -/
def gateAt (s : State) (g : GateState) (dt : Nat) : Option GateEnt × Option Nat :=
  match rulingList s g dt with
  | (none, w) => (none, w)
  | (some (l, st), w) =>
    if l.ents.isEmpty then (none, w)
    else
      let r := gateReading s l.tb g.coast dt
      match listAt l st r with
      | none => (none, w)
      | some (e, n) => (some e, match w, gateLeft s l.tb g.coast.isSome dt r n with
        | some x, some y => some (min x y)
        | some x, none => some x
        | none, y => y)

def getGates (s : State) (m : Nat) : GateState := tblGet GateState.none s.haul.gates m
def setGates (s : State) (m : Nat) (g : GateState) : State :=
  { s with haul := { s.haul with gates := tblSet GateState.none s.haul.gates m g } }

def getSgate (s : State) (i : Nat) : GateState := tblGet GateState.none s.haul.sgates i
def setSgate (s : State) (i : Nat) (g : GateState) : State :=
  { s with haul := { s.haul with sgates := tblSet GateState.none s.haul.sgates i g } }

/-- Whether the gate of a TC is open dt ns from now. -/
def gateOpen (s : State) (g : GateState) (tc dt : Nat) : Bool := match (gateAt s g dt).1 with
  | none => true
  | some e => bitOf e.v tc

/-- Whether the gate of a TC is open at every instant of the next `left` ns from dt on (R280). -/
def gateSpan (s : State) (g : GateState) (tc : Nat) : Nat → Nat → Nat → Bool
  | 0, _, _ => false
  | fuel + 1, dt, left =>
    if left = 0 then true
    else
      match gateAt s g dt with
      | (none, none) => true
      | (none, some n) => if left ≤ n then true else gateSpan s g tc fuel (dt + max n 1) (left - max n 1)
      | (some e, n) =>
        if bitOf e.v tc = false then false
        else
          let k := max (n.getD left) 1
          if left ≤ k then true else gateSpan s g tc fuel (dt + k) (left - k)

/-- The lengths of a cycle's entries as they run (R277). -/
def entrySpans (cycle : Nat) : List GateEnt → Nat → List (GateEnt × Nat)
  | [], _ => []
  | [e], start => [(e, cycle - start)]
  | e :: t, start => (e, min e.ivl (cycle - start)) :: entrySpans cycle t (start + e.ivl)

/-- The longest run of open entries over two turns of the cycle; none where the gate never closes. -/
def longestOpen (l : GateList) (tc : Nat) : Option Nat :=
  let sp := (entrySpans l.cycle l.ents 0).filter (fun e => e.2 > 0)
  if sp.all (fun e => bitOf e.1.v tc) then none
  else
    some ((sp ++ sp).foldl (fun (a : Nat × Nat) e =>
      if bitOf e.1.v tc then (a.1 + e.2, max a.2 (a.1 + e.2)) else (0, a.2)) (0, 0)).2

/-- Whether a frame that needs that many local ns can never meet the gate rule under the list that rules now (R280): its
longest open period, at the pace of the list's base, is too short. -/
def gateNever (s : State) (g : GateState) (tc need : Nat) : Bool :=
  match (rulingList s g 0).1 with
  | none => false
  | some (l, _) =>
    if l.ents.isEmpty then false
    else match longestOpen l tc with
      | none => false
      | some n =>
        let b := tbGet s.time l.tb
        let inc := if b.running then tbInc b else 2 ^ 32
        decide ((n : Int) * 2 ^ 32 < need * inc) || decide (n = 0)

/-- S of R278: the first BASE + N x CYCLE that is not below the apply instant. -/
def takeover (l : GateList) (a : Nat) : Nat :=
  if a ≤ l.base ∨ l.cycle = 0 then l.base else l.base + ceilDiv (a - l.base) l.cycle * l.cycle

/-- A list applied at step 2 becomes the pending list (R278). -/
def pendList (s : State) (g : GateState) (l : GateList) : GateState :=
  let b := tbGet s.time l.tb
  -- an instant read within a nanosecond is at or after the whole nanosecond above it
  let a := ((b.value + (2 ^ 32 - 1)) / 2 ^ 32).toNat
  { g with pending := some (l, takeover l a) }

/-! ### Policers (R273, R274) -/

def getPolicer (s : State) (i : Nat) : Policer := tblGet Policer.reset s.haul.policers i
def setPolicer (s : State) (i : Nat) (x : Policer) : State :=
  { s with haul := { s.haul with policers := tblSet Policer.reset s.haul.policers i x } }

/-- What METER answers: configured, colour (0 green, 1 yellow, 2 red), detail, and the priority value. -/
structure MeterRes where
  ok : Bool
  colour : Nat
  detail : Nat
  ipv : Nat
  deriving DecidableEq, Repr

/-- Counts a METER result (Table 8.12). -/
def countMeter (s : State) (i n colour detail : Nat) : State :=
  let s := match colour with
    | 0 => bump (bump s .green i 1) .greenBytes i n
    | 1 => bump (bump s .yellow i 1) .yellowBytes i n
    | _ => bump (bump s .red i 1) .redBytes i n
  let s := if bitOf detail 0 then bump s .sfOversize i 1 else s
  let s := if bitOf detail 1 then bump s .sfGateClosed i 1 else s
  if bitOf detail 2 then bump s .sfBlocked i 1 else s

/-- The colour and buckets of a marker (R274). -/
def policerColour (x : Policer) (n inp : Nat) : Nat × Policer :=
  let b : Int := n * 65536
  if x.mode = 1 then
    if inp = 2 ∨ x.pt < b then (2, x)
    else if inp = 1 ∨ x.ct < b then (1, { x with pt := x.pt - b })
    else (0, { x with pt := x.pt - b, ct := x.ct - b })
  else
    if (inp = 0 ∨ inp = 3) ∧ x.ct ≥ b then (0, { x with ct := x.ct - b })
    else if inp ≠ 2 ∧ x.pt ≥ b then (1, { x with pt := x.pt - b })
    else (2, x)

/-- A policer's buckets refilled to an instant. -/
def refillPolicer (x : Policer) (now : Nat) : Policer :=
  let c := refill x.cir x.cbs x.ct x.cRem x.cu now
  let p := refill x.pir x.pbs x.pt x.pRem x.pu now
  { x with ct := c.1, cRem := c.2.1, cu := c.2.2, pt := p.1, pRem := p.2.1, pu := p.2.2 }

/-- METER of policer i for n bytes with an input colour (R274). -/
def meter (s : State) (i n inp : Nat) : State × MeterRes :=
  let x := refillPolicer (getPolicer s i) s.localNs
  let red (s : State) (detail ipv : Nat) : State × MeterRes :=
    (countMeter s i n 2 detail, { ok := true, colour := 2, detail := detail, ipv := ipv })
  if x.mode = 0 then (s, { ok := false, colour := 0, detail := 0, ipv := 0 })
  else if x.blocked then red (setPolicer s i x) 4 0
  else if x.maxSdu > 0 ∧ n > x.maxSdu then
    red (setPolicer s i (if x.blockOversize then { x with blocked := true } else x)) 1 0
  else
    let e := if x.sgEn then (gateAt s (getSgate s x.sg) 0).1 else none
    let iv := match e with | some g => bitOf g.v 3 | none => false
    let ipv := match e with | some g => if bitOf g.v 3 then g.v % 8 else 0 | none => 0
    let d := if iv then 8 else 0
    if (match e with | some g => !bitOf g.v 4 | none => false) then red (setPolicer s i x) (2 + d) ipv
    else
      let r := policerColour x n inp
      (countMeter (setPolicer s i r.2) i n r.1 0, { ok := true, colour := r.1, detail := d, ipv := ipv })

/-! ### Colours and eligibility (R264, R267) -/

inductive Colour where
  | green
  | yellow
  | red
  deriving DecidableEq, Repr

/-- The colour of a node's buckets now (R267). -/
def nodeColour (s : State) (level i : Nat) : Colour :=
  let x := refillShaper (getShaper s level i) s.localNs
  if x.pir ≠ 0 ∧ x.pt < 0 then .red
  else if x.cir ≠ 0 ∧ 0 ≤ x.ct then .green
  else .yellow

/-- The colour of a queue: RED in Releasing while its release bucket is below zero (R272). -/
def queueColour (s : State) (q : Nat) : Colour :=
  if (getQueue s q).hold = .releasing ∧ (refillRelease s q).relT < 0 then .red else nodeColour s 0 q

/-- Whether preemption is active on a port node (R281). -/
def preemptActive (s : State) (m : Nat) : Bool :=
  let p := getPort s m
  decide (m < 32) && p.preempt != 0 && (!p.verify || p.verified)

/-- Whether a TC is express on a port (R281). -/
def isExpress (s : State) (m tc : Nat) : Bool := !preemptActive s m || !bitOf (getPort s m).preempt tc

/-- Whether a TC of a port is paused by PFC (R245). -/
def pfcPaused (s : State) (m tc : Nat) : Bool :=
  decide (48 ≤ m) && decide (m < 56) && (match tblGet none s.stock.pfcRx (8 * (m - 48) + tc) with
    | some x => decide (s.localNs < x.ends)
    | none => false)

def getBind (s : State) (q : Nat) : Option Bind := tblGet none s.fabric.binds q

def getLane (s : State) (k vc : Nat) : LaneVc := tblGet LaneVc.reset s.fabric.lanes (8 * k + vc)
def setLane (s : State) (k vc : Nat) (x : LaneVc) : State :=
  { s with fabric := { s.fabric with lanes := tblSet LaneVc.reset s.fabric.lanes (8 * k + vc) x } }

/-- Frees the cells of every frame in reassembly. -/
def freeRx (s : State) : State :=
  (List.range 64).foldl (fun s i => match (getLane s (i / 8) (i % 8)).rxFrame with
    | some f => freeCells s f.cells
    | none => s) s

/-- The link of fabric lane k comes up: both sides of every channel start anew, with the credit of RX_CELLS (R252).  A channel whose
queues are refused under R246 stays so until the peer's credit comes. -/
def laneLinkUp (s : State) (k : Nat) : State :=
  (List.range 8).foldl (fun s v =>
    let s := match (getLane s k v).rxFrame with
      | some f => freeCells s f.cells
      | none => s
    setLane s k v { LaneVc.reset with kOwn := tblGet 0 s.fabric.rxCells v }) s

/-- Whether a lane's virtual channel holds a credit (R252). -/
def hasCredit (s : State) (k vc : Nat) : Bool :=
  let x := getLane s k vc
  decide ((x.kPeer + 4096 - x.sent % 4096) % 4096 ≥ 1)

/-- The lane and virtual channel that a transmission of a fabric node uses. -/
def txLane (s : State) (t : TxRec) : Option (Nat × Nat) :=
  match getBind s t.desc.queue with
  | some b => (laneTo s b.dev).map (fun k => (k, b.vc))
  | none => none

/-- Whether a fabric queue may start a frame: its lane and channel hold a credit and send no other frame
(R251, R264). -/
def fabricReady (s : State) (q : Nat) : Bool :=
  match getBind s q with
  | some b =>
    match laneTo s b.dev with
    | some k =>
      hasCredit s k b.vc && (List.range 5).all (fun i => match (getPort s (59 + i)).tx with
        | some t => txLane s t != some (k, b.vc)
        | none => true)
    | none => false
  | none => false

/-- Line time of n bytes on a port in ns, rounded up. -/
def lineNs (s : State) (m n : Nat) : Nat := bytesNs n (portRate s m)

/-- R203 for the head of a standing speculative frame of length len on port m at this instant. -/
def specMayLeave (s : State) (m : Nat) (d : Desc) (len : Nat) : Bool :=
  match (packets s).find? (fun p => p.desc == d.idx && p.spec == .standing) with
  | none => false
  | some p =>
    let b := getBank s p.bank
    let wns := (tblGet EntryRec.zero b.entries p.entry).wns
    let rate := portRate s m
    p.dispatched && p.epoch == curEpoch s && (decide (m < 56) || decide (59 ≤ m)) && decide (0 < rate) &&
      decide ((((p.dispAt + wns + 20 : Nat) : Int) - s.localNs) * rate ≤ ((len : Int) + 4) * 8000)

/-- Whether the device is silent: the safe output state (R375). -/
def isSafe (s : State) : Bool := s.triad.safe

/-- The association that protects what node m transmits: the transmit association of the node with the lowest
index (R330; log entry 20). -/
def txSa (s : State) (m : Nat) : Option (Nat × Sa) :=
  s.face.sas.findSome? (fun e => match e.2 with
    | some a => if a.rx = false ∧ a.node = m then some (e.1, a) else none
    | none => none)

/-- Whether an association stopped transmitting: its key is stale, or its PN would wrap (R474). -/
def saStopped (a : Sa) : Bool := a.stale || decide (a.pn ≥ if a.xpn then 2 ^ 64 else 2 ^ 32)

/-- Whether the head of a queue is dropped at a decision, and the counter of the drop (R280, R289, R291). -/
def headDrop (s : State) (m q : Nat) (d : Desc) : Option (State → State) :=
  let x := getQueue s q
  let len := (egressBytes s d).1.length
  if len > 16383 then some (fun s => bump s .templateDrop m 1)
  else if (match txSa s m with | some e => saStopped e.2 | none => false) then
    (txSa s m).map (fun e s => bump s (saDropCtr m) e.1 1)
  else if m < 56 ∧ bitOf s.haul.haltOut m ∧ isExpress s m x.tc ∧ len > (getPort s m).maxExpress then
    some (fun s => bump s .expressOversize q 1)
  else if m < 56 ∧ gateNever s (getGates s m) x.tc (if isExpress s m x.tc then lineNs s m (8 + len) else 0) then
    some (fun s => bump s .gateOversize q 1)
  else none

/-- Whether queue q is eligible for a decision of port m now (R264). A standing speculative head that a decision would have to drop
waits for its verdict, since no such drop is an event of Table 6.4. -/
def queueEligible (s : State) (m q : Nat) : Bool :=
  let x := getQueue s q
  match x.frames with
  | [] => false
  | d :: _ =>
    let len := (egressBytes s d).1.length
    portUp s m && descReleased s d && (!d.spec || (specMayLeave s m d len && (headDrop s m q d).isNone)) && !pfcPaused s m x.tc &&
      (decide (m < 59) || fabricReady s q) && x.hold != .holding && queueColour s q != .red &&
      (decide (56 ≤ m) ||
        (if isExpress s m x.tc then gateSpan s (getGates s m) x.tc (16383 * 1000) 0 (lineNs s m (8 + len))
         else gateOpen s (getGates s m) x.tc 0))

/-- Children of a parent in every class of its lists. -/
def childrenOf (s : State) (level i : Nat) : List Nat := (List.range 8).flatMap (fun c => (getList s level i c).map (·.1))

/-- Whether a child of a level is eligible for port m: a queue, or a node with an eligible child whose
colour is not RED (R264). -/
def childEligible (s : State) (m level i : Nat) : Bool :=
  match level with
  | 0 => queueEligible s m i
  | 1 => nodeColour s 1 i != .red && (childrenOf s 1 i).any (queueEligible s m)
  | _ => nodeColour s 2 i != .red && (childrenOf s 2 i).any (fun j =>
      nodeColour s 1 j != .red && (childrenOf s 1 j).any (queueEligible s m))

/-- Colour of a child of a level. -/
def childColour (s : State) (level i : Nat) : Colour := if level = 0 then queueColour s i else nodeColour s level i

/-! ### The walk (R265, R266) -/

/-- Weight of a child of a level. -/
def childWeight (s : State) (level i : Nat) : Nat := if level = 0 then (getQueue s i).weight else (getNode s level i).weight

/-- The turns of pick over one list: the first eligible matching child with DEF above zero. -/
def pickTurns (s : State) (level : Nat) (ok : Nat → Bool) : Nat → List (Nat × Int) → Option Nat × List (Nat × Int)
  | 0, l => (none, l)
  | fuel + 1, l =>
    match l.find? (fun e => ok e.1) with
    | none => (none, l)
    | some (y, d) =>
      if d > 0 then (some y, l)
      else pickTurns s level ok fuel (l.filter (fun e => e.1 != y) ++ [(y, d + quantum (childWeight s level y))])

/-- Turns that a list can need: each raises a DEF by at least 64 bytes. -/
def pickFuel (l : List (Nat × Int)) : Nat := l.foldl (fun a e => a + (-e.2).toNat / 64 + 2) 1

/-- pick over the classes 7 to 0 of a parent in one pass. -/
def pickPass (m level parent : Nat) (green : Bool) : List Nat → State → State × Option Nat
  | [], s => (s, none)
  | c :: t, s =>
    let l := getList s (level + 1) parent c
    let ok (y : Nat) : Bool :=
      childEligible s m level y && (if green then childColour s level y == .green else childColour s level y != .red)
    let r := pickTurns s level ok (pickFuel l) l
    let s := setList s (level + 1) parent c r.2
    match r.1 with
    | some y => (s, some y)
    | none => pickPass m level parent green t s

/-- pick(p, s) of R266: the child and whether the GREEN pass chose it. -/
def pick (s : State) (m level parent : Nat) : State × Option (Nat × Bool) :=
  let r := pickPass m level parent true [7, 6, 5, 4, 3, 2, 1, 0] s
  match r.2 with
  | some y => (r.1, some (y, true))
  | none =>
    let r := pickPass m level parent false [7, 6, 5, 4, 3, 2, 1, 0] r.1
    match r.2 with
    | some y => (r.1, some (y, false))
    | none => (r.1, none)

/-- The path of a decision: service, subscriber and queue, each with its pass; none for a port node that is RED (R264). -/
def walk (s : State) (m : Nat) : State × Option ((Nat × Bool) × (Nat × Bool) × (Nat × Bool)) :=
  if nodeColour s 3 m = .red then (s, none)
  else match pick s m 2 m with
  | (s, none) => (s, none)
  | (s, some v) =>
    match pick s m 1 v.1 with
    | (s, none) => (s, none)
    | (s, some u) =>
      match pick s m 0 u.1 with
      | (s, none) => (s, none)
      | (s, some q) => (s, some (v, u, q))

/-- DEF after a charge of n bytes, and the move to the tail (R266). -/
def chargeDef (s : State) (level i : Nat) (n : Int) : State :=
  let (p, c, w) := childPlace s level i
  let l := getList s (level + 1) p c
  match l.find? (fun e => e.1 == i) with
  | none => s
  | some (_, d) =>
    if d - n ≤ 0 then setList s (level + 1) p c (l.filter (fun e => e.1 != i) ++ [(i, d - n + quantum w)])
    else setList s (level + 1) p c (l.map (fun e => if e.1 = i then (i, d - n) else e))

/-! ### Time stamps and samples -/

/-- What was captured for a transmission's first fragment, and the T0 short time of its first bit (R284, R304). -/
def txCapture (s : State) (m : Nat) (t : TxRec) : TimeSnap × Nat := match t.cap with
  | some x => x
  | none => (captureAt s (t.first * 1000 + 8 * bytePs s m), shortTime (captureAt s (t.first * 1000)).t0)

/-- The egress stamp of a capture on port m (R304, R305): base, value in 2^-16 ns, whether the base did not run, STEP_SEQ. -/
def egressStamp (m tb : Nat) (x : TimeSnap) : Nat × Nat × Bool × Nat :=
  let b := snapBase x tb
  let lat : Int := if m < 56 then ((tblGet TsPort.reset x.ports m).txLat * 65536 / 1000 : Nat) else 0
  (tb, (tbWrap ((b.value / 65536 + lat) * 65536) / 65536).toNat, !b.running, b.stepSeq)

/-- The payload of Table 9.7. -/
def stampPayload (m cookie : Nat) (stomped : Bool) (x : Nat × Nat × Bool × Nat) : List Nat :=
  let ns := x.2.1 / 65536
  [0x40 * 2 ^ 24 + x.1 * 2 ^ 22 + m * 2 ^ 16 + cookie,
   x.2.1 % 65536 * 2 ^ 16 + b2n stomped * 2 ^ 15 + b2n x.2.2.1 * 2 ^ 14 + x.2.2.2 % 256,
   ns % 1000000000, ns / 1000000000 % 2 ^ 32]

/-- The bin of Table 8.7 for a delay in ns. -/
def delayBin (d : Nat) : Nat := if d < 256 then 0 else min 15 (Nat.log2 d - 7)

/-- Adds a delay to the histogram of a node and TC (R284). -/
def addDelay (s : State) (m tc d : Nat) : State :=
  let k := 17 * (8 * m + tc)
  let b := k + delayBin d
  let h := tblSet 0 s.haul.hist b ((tblGet 0 s.haul.hist b + 1) % 2 ^ 64)
  { s with haul := { s.haul with hist := tblSet 0 h (k + 16) (max (tblGet 0 h (k + 16)) d) } }

/-! ### Decisions and transmissions -/

/-- Takes the packet number for a frame that starts on node m. -/
def takePn (s : State) (m : Nat) : State × Option Sa :=
  match txSa s m with
  | some (i, a) => ({ s with face := { s.face with sas := tblSet none s.face.sas i (some { a with pn := a.pn + 1 }) } }, some a)
  | none => (s, none)

/-- The bytes that a frame leaves with after protection (R330). -/
def protectedBytes (a : Option Sa) (b : List Byte) : List Byte := match a with
  | some a => macsecProtect a b
  | none => b

/-- Drops the head of a queue at a decision. -/
def dropHead (s : State) (m q : Nat) (d : Desc) : State :=
  discardDesc (setFrames s q ((getQueue s q).frames.filter (fun x => x != d))) m d

/-- Drops the heads of a queue that can never leave, up to n of them; a standing speculation is not dropped (Table 6.4). -/
def purgeQueue (m q : Nat) : Nat → State → State
  | 0, s => s
  | n + 1, s =>
    match (getQueue s q).frames with
    | [] => s
    | d :: _ =>
      if descReleased s d ∧ d.spec = false then
        match headDrop s m q d with
        | some f => purgeQueue m q n (dropHead (f s) m q d)
        | none => s
      else s

/-- The cells of a frame that stand in the head store and must be read for its transmission. -/
def txReads (s : State) (h : Nat) : List Nat :=
  match getChain s (handleCell h) with
  | some ch => ch.cells
  | none => []

/-- Decides for the head frame of queue q on port m along a path, to start now (R266, R269). -/
def startFrame (s : State) (m : Nat) (v u q : Nat × Bool) : State :=
  match (getQueue s q.1).frames with
  | [] => s
  | d :: rest =>
    let x := getQueue s q.1
    let e := egressBytes s d
    let n : Int := (e.1.length : Int) + (getPort s m).overhead
    let green := nodeColour s 3 m == .green
    let path : List (Nat × Nat × Bool) := [(0, q.1, q.2), (1, u.1, u.2), (2, v.1, v.2), (3, m, green)]
    let s := chargeDef (chargeDef (chargeDef s 0 q.1 n) 1 u.1 n) 2 v.1 n
    let s := path.foldl (fun s y => chargeNode s y.1 y.2.1 y.2.2 (n * 65536)) s
    let rel := x.hold == .releasing
    let s := if rel then chargeRelease s q.1 (n * 65536) else s
    let (s, sa) := takePn s m
    let tx : TxRec := { desc := d, bytes := e.1, start := s.localNs, done := 0, express := isExpress s m x.tc, path := path,
                        tc := x.tc, reads := txReads s d.handle, stomp := none, halt := false, sa := sa, first := s.localNs,
                        cap := none, parked := false, skips := e.2, released := rel }
    let s := unmarkSpill (setFrames s q.1 rest) d.handle
    setPort s m { getPort s m with tx := some tx }

/-- A dummy descriptor for a halt frame, which has none (R286). -/
def haltDesc : Desc :=
  { idx := descCount, handle := 0, spec := false, cut := false, len := 0, dp := 0, copy := false, template := 0, queue := 524288,
    seq := 0, src := 0, rxTime := 0, cells := 0, order := none, partner := 0, arrVc := none, mark := none, cbSeq := none,
    since := 0, lastBit := 0, info := 0 }

/-- The next waiting halt frame, to start at an instant (R287). -/
def startHalt (s : State) (m start : Nat) (b : List Byte) (rest : List (List Byte)) : State :=
  if (match txSa s m with | some e => saStopped e.2 | none => false) then
    let s := match txSa s m with | some e => bump s (saDropCtr m) e.1 1 | none => s
    setPort s m { getPort s m with haltQ := rest }
  else
  let (s, sa) := takePn s m
  let tx : TxRec := { desc := haltDesc, bytes := b, start := start, done := 0, express := true, path := [], tc := 7, reads := [],
                      stomp := none, halt := true, sa := sa, first := start, cap := none, parked := false, skips := 0, released := false }
  setPort s m { getPort s m with tx := some tx, haltQ := rest }

/-- A transmission set to begin at an instant. -/
def beginAt (t : TxRec) (start : Nat) : TxRec := { t with start := start, first := start }

/-- Whether a frame decided on port m may still begin at an instant: R203 and R280 hold of that instant, its class is not paused, its
queue does not hold, and no preemptible frame starts while another is parked (R203, R241, R245, R280, R282). -/
def mayBegin (s : State) (m : Nat) (t : TxRec) (start : Nat) : Bool :=
  let a := advance s (start - s.localNs)
  portUp a m && (!t.desc.spec || specMayLeave a m t.desc t.bytes.length) && !pfcPaused a m t.tc &&
    (getQueue a t.desc.queue).hold != .holding && (t.express || (getPort a m).preempted.isNone) &&
    (decide (56 ≤ m) ||
      (if t.express then gateSpan a (getGates a m) t.tc (16383 * 1000) 0 (lineNs a m (8 + t.bytes.length)) else gateOpen a (getGates a m) t.tc 0))

/-- The frame that a port has decided begins at an instant, or goes back to the head of its queue where it may no longer begin. -/
def beginDecided (s : State) (m start : Nat) : State :=
  let p := getPort s m
  match p.decided with
  | none => s
  | some t =>
    if mayBegin s m t start then setPort s m { p with tx := some (beginAt t start), decided := none }
    else putBack (setPort s m { p with decided := none }) m t

/-- The frames of a port that have been decided and have not begun go back where an event keeps them from their start. -/
def recheckPort (s : State) (m : Nat) : State := unstart s m (fun t => !t.halt && !mayBegin s m t (max t.start s.localNs))

/-- A preempted frame resumes at an instant (R282). -/
def resumeFrame (s : State) (m start : Nat) : State :=
  match (getPort s m).preempted with
  | some t => setPort s m { getPort s m with tx := some { t with start := start }, preempted := none }
  | none => s

/-- The frame bytes after which a preemptible transmission can yield: no fragment but the last is shorter than
64 x (1 + ADD_FRAG) bytes, and the last no shorter than 64 (R281, log entry 102). None where too little is left. -/
def yieldPoint (s : State) (m : Nat) (t : TxRec) : Option Nat :=
  let k := max (txSent s m t) (t.done + 64 * (1 + (getPort s m).addFrag))
  if t.bytes.length < k + 64 then none else some k

/-- Parks the preemptible frame in progress once it has sent k of its bytes (R281, R282). -/
def preemptFrame (s : State) (m k : Nat) : State :=
  match (getPort s m).tx with
  | some t =>
    let s := advance s (t.start + lineNs s m (8 + (k - t.done)) - s.localNs)
    -- the count of a speculation waits for its confirmation (R202)
    let s := if t.parked ∨ t.desc.spec then s else bump s .preempted m 1
    setPort s m { getPort s m with tx := none, preempted := some { t with done := k, parked := true, cap := some (txCapture s m t) } }
  | none => s

/-- Whether the transmission in progress on a port is a preemptible one that may yield (R282). -/
def mayYield (s : State) (m : Nat) (t : TxRec) : Bool :=
  preemptActive s m && !t.express && (getPort s m).preempted.isNone && t.stomp.isNone

/-- A decision of R266 for a frame that starts now: express frames, and preemptible ones when none is parked. -/
def decideFree (s : State) (m : Nat) (onlyExpress : Bool) : State × Bool :=
  let s := (portQueues s m).foldl (fun s q => purgeQueue m q (getQueue s q).frames.length s) s
  match walk s m with
  | (s', some (v, u, q)) =>
    if onlyExpress && !isExpress s' m (getQueue s' q.1).tc then (s, false) else (startFrame s' m v u q, true)
  | (s', none) => (s', false)

/-- A decision for a frame that starts at an instant to come: the walk sees the lists, gates and buckets of that instant (R263, R266). -/
def decideAt (s : State) (m : Nat) (onlyExpress : Bool) (start : Nat) : State × Bool :=
  let r := decideFree (advance s (start - s.localNs)) m onlyExpress
  ({ r.1 with localNs := s.localNs, time := s.time }, r.2)

/-- Line bytes that a transmission takes from its start: preamble and what is left of the frame, or the bytes
up to the end of a stomp. -/
def txLineBytes (t : TxRec) : Nat := match t.stomp with
  | none => 8 + t.bytes.length - t.done
  | some k => 8 + (k - t.done) + 4

/-- Lead of a decision before the transmitter is free (R263). -/
def decisionLead : Nat := 128

/-- The instant at which the transmitter of node m is expected to be free: behind the frame in progress and its gap, or on a fabric port
behind the cells that its frame still needs. -/
def txFree (s : State) (m : Nat) (t : TxRec) : Nat :=
  if m ≥ 59 then s.localNs + lineNs s m (t.bytes.length - t.done) else t.start + lineNs s m (txLineBytes t) + lineNs s m 12

/-- The decision for the frame that follows the one in progress, within the lead of R263; a waiting halt frame comes first, and a port
under PLCA decides in its opportunity. -/
def decideNext (s : State) (m : Nat) (t : TxRec) : State :=
  let p := getPort s m
  let free := txFree s m t
  if p.decided.isSome ∨ p.haltQ.isEmpty = false ∨ (32 ≤ m ∧ m < 48) ∨ s.localNs + decisionLead < free then s
  else
    let r := decideAt s m p.preempted.isSome free
    if r.2 then setPort r.1 m { getPort r.1 m with tx := some t, decided := (getPort r.1 m).tx } else r.1

/-- Whether PLCA keeps a port from transmitting: it is active and the device's opportunity in this cycle is used or past (R324). -/
def plcaWaits (s : State) (m : Nat) : Bool :=
  decide (32 ≤ m) && decide (m < 48) && (let x := tblGet Plca.reset s.face.plca (m - 32); x.active && x.left == 0)

/-- A request that PLCA's opportunity allows: one frame fewer may follow, and where none started the opportunity passes (R324). -/
def plcaSpend (s : State) (m : Nat) : State :=
  if 32 ≤ m ∧ m < 48 then
    let x := tblGet Plca.reset s.face.plca (m - 32)
    if x.active then
      let y := { x with left := if (getPort s m).tx.isSome then x.left - 1 else 0 }
      { s with face := { s.face with plca := tblSet Plca.reset s.face.plca (m - 32) y } }
    else s
  else s

/-- A halt frame goes before the frame that a port is about to begin: a fragment to be resumed stays parked, a frame under PLCA goes back
to its queue, as the opportunity that it was given is the halt frame's now, and any other frame stays decided (R287, R324). -/
def overtaken (s : State) (m : Nat) (t : TxRec) : State :=
  let p := getPort s m
  if t.parked then setPort s m { p with tx := none, preempted := some t }
  else if 32 ≤ m ∧ m < 48 then putBack (setPort s m { p with tx := none }) m t
  else setPort s m { p with tx := none, decided := some t }

/-- The request of port node m for a decision (R263, R266, R282, R287): made no earlier than the lead before its transmitter is free,
for the instant at which it is.  A hold keeps a parked frame from resuming; with none parked a preemptible frame may start
(log entry 181, DESIGN CHOICE). -/
def haulDecision (s : State) (m : Nat) : State :=
  if isSafe s then s
  else
    let p := getPort s m
    match p.tx with
    | none =>
      if plcaWaits s m then s
      else
      let s := advance s (p.freeAt - decisionLead - s.localNs)
      let start := max s.localNs p.freeAt
      plcaSpend (match p.haltQ with
      | b :: rest => startHalt s m start b rest
      | [] =>
        let s := beginDecided s m start
        if (getPort s m).tx.isSome then s
        else if p.preempted.isSome then
          let r := decideAt s m true start
          if r.2 then r.1
          else if (getGates s m).hold then r.1 else resumeFrame r.1 m start
        else (decideAt s m false start).1) m
    | some t =>
      if s.localNs < t.start then
        -- decided and not begun: a halt frame goes first
        match p.haltQ with
        | b :: rest => if t.halt then s else startHalt (overtaken s m t) m t.start b rest
        | [] => s
      else
        match (if mayYield s m t then yieldPoint s m t else none), p.haltQ with
        | none, _ => decideNext s m t
        | some k, b :: rest =>
          let s := preemptFrame s m k
          startHalt s m s.localNs b rest
        | some k, [] =>
          let r := decideFree (preemptFrame s m k) m true
          if r.2 then r.1 else decideNext s m t

/-- Takes the withdrawal of a standing speculation at its tail point (R204). -/
def specTail (s : State) (t : TxRec) : State :=
  match (packets s).find? (fun p => p.desc == t.desc.idx && p.spec == .standing) with
  | some p => bump (withdrawDesc s p.desc) .specLate p.src 1
  | none => s

/-- Whether the next 240-byte cell of a fabric transmission would carry a byte of the FCS: that is its tail point (R204). -/
def cellHasFcs (t : TxRec) : Bool := decide (t.bytes.length < t.done + 244)

/-- The mark at the end of a transmission on node m (Table 6.3). -/
def tailMark (m : Nat) (t : TxRec) : TailMark := match t.stomp with
  | none => .whole
  | some _ =>
    if t.express = false then .invertedCrc
    else if m < 8 then .phyError
    else if m < 32 then .miiError
    else if m < 48 then .esdErr
    else if m < 56 then .errorBlock
    else if m < 59 then .invertedCrc
    else .abortCell

/-- The bytes that a transmission put on the line: all of it, or those before the stomp and their CRC, inverted (Table 6.3). -/
def sentBytes (m : Nat) (t : TxRec) : List Byte :=
  let b := protectedBytes t.sa t.bytes
  match t.stomp with
  | none => b
  | some k => if 59 ≤ m then b.take k else b.take k ++ leBytes 4 (2 ^ 32 - 1 - crc32 (b.take k))

/-- What an ordinary transmission that ended counts and releases (R237, R284, R294, R309). -/
def settleTx (s : State) (m : Nat) (t : TxRec) : State :=
  let gone := t.stomp.isSome
  let d := t.desc
  let x := txCapture s m t
  -- what its template skipped counts for a frame that left, or that was confirmed (R202, R294)
  let s := bump s .templateSkip m t.skips
  let s := if gone then s
    else
      let n := t.bytes.length
      let s := bump (bump s .txFramesQ d.queue 1) .txBytesQ d.queue n
      let s := bump (bump s .txFramesP m 1) .txBytesP m n
      addDelay s m t.tc (shortDiff x.2 d.rxTime).toNat
  let s := match d.mark with
    | some k => postEvent (bump (if gone then bump s .tsStomped m 1 else s) .tsEgress m 1) 10 (stampPayload m k.2 gone (egressStamp m k.1 x.1))
    | none => s
  freeDesc (dropHold s d.handle) d.idx

/-- Whether a descriptor's speculation stands. -/
def specStands (s : State) (i : Nat) : Bool := (packets s).any (fun p => p.desc == i && p.spec == .standing)

/-- A transmission ends: the next decided frame follows its gap, unless a halt frame waits. What it counts and releases is settled now,
or, where it was a speculation that still stands, at the confirmation (R202, R309). -/
def finishTx (s : State) (m : Nat) (t : TxRec) : State :=
  let p := getPort s m
  let free := s.localNs + lineNs s m 12
  let p := { p with tx := none, freeAt := free, lastSent := some (sentBytes m t, tailMark m t) }
  let stands := t.desc.spec && specStands s t.desc.idx
  let s := setPort s m (if stands then { p with ended := p.ended ++ [{ t with cap := some (txCapture s m t) }] } else p)
  let s :=
    if t.halt then bump s .haltTx m 1
    -- a withdrawn speculation leaves the stored frame to its real verdict
    else remarkSpill (if t.desc.spec then s else settleTx s m t) t.desc.handle
  if p.haltQ.isEmpty then beginDecided s m free else s

/-- The end of the transmission of port node m: the clock runs to the last bit (R237). -/
def frameTxEnd (s : State) (m : Nat) : State :=
  match (getPort s m).tx with
  | none => s
  | some t =>
    if m = 57 ∨ m ≥ 59 then s
    else
      -- an unconfirmed speculation meets its tail point, 4 bytes before the end, first
      let s := if t.desc.spec ∧ t.stomp = none then
          specTail (advance s (t.start + lineNs s m (txLineBytes t - 4) - s.localNs)) t else s
      match (getPort s m).tx with
      | none => s
      | some t => finishTx (advance s (t.start + lineNs s m (txLineBytes t) - s.localNs)) m t

/-- The tail point of an unconfirmed speculative frame on port node m (R204). -/
def specTailPoint (s : State) (m : Nat) : State :=
  match (getPort s m).tx with
  | none => s
  | some t =>
    if t.desc.spec = false ∨ t.stomp.isSome then s
    else if m ≥ 59 then (if cellHasFcs t then specTail s t else s)
    else specTail (advance s (t.start + lineNs s m (txLineBytes t - 4) - s.localNs)) t

/-- Drops the copies of a chain's frame that have not begun, on queues, decided and on spoil lists, and counts them (R207). -/
def dropCopies (s : State) (h : Nat) : State :=
  let mine (d : Desc) : Bool := d.handle == h && !d.spec
  let s := (List.range 64).foldl (fun s m => unstart s m (fun u => !u.halt && mine u.desc)) s
  let s := (s.haul.queues.map (·.1)).foldl (fun s q =>
    match queuePort s q with
    | some n => ((getQueue s q).frames.filter mine).foldl (fun s d =>
        bump (discardDesc (setFrames s q ((getQueue s q).frames.filter (· != d))) n d) .stompEcc n 1) s
    | none => s) s
  (List.range 64).foldl (fun s m =>
    let l := tblGet [] s.stock.spoil m
    (l.filter (fun e => mine e.desc)).foldl (fun s e => bump (discardDesc s m e.desc) .stompEcc m 1)
      { s with stock := { s.stock with spoil := tblSet [] s.stock.spoil m (l.filter (fun e => !mine e.desc)) } }) s

/-- An uncorrectable cell read of the frame in transmission on port node m (R207): the transmission is
stomped; copies of the frame that have not begun are dropped and counted. -/
def stompEccAt (s : State) (m : Nat) : State :=
  match (getPort s m).tx with
  | none => s
  | some t =>
    if t.halt ∨ t.stomp.isSome ∨ txBegun s m t = false then s
    else
      let r := stompTx s (txSent s m t) t
      dropCopies (bump (setPort r.1 m { getPort r.1 m with tx := some r.2 }) .stompEcc m 1) t.desc.handle

end Sys2Proof.Machine
end

