-- ==== Sys2Proof/Machine/Face.lean ====
section
/-! DEFINITION. Machine/Face.lean: link state and port nodes, PLCA, calibration, cable tests, TC10, the CAN and LIN
transceivers, and halt frames (R286 to R288, R316 to R342). -/

namespace Sys2Proof.Machine

def getFp (s : State) (m : Nat) : FacePort := tblGet (FacePort.reset m) s.face.ports m
def setFp (s : State) (m : Nat) (x : FacePort) : State :=
  { s with face := { s.face with ports := tblSet (FacePort.reset m) s.face.ports m x } }

def getPlca (s : State) (g : Nat) : Plca := tblGet Plca.reset s.face.plca g
def setPlca (s : State) (g : Nat) (x : Plca) : State :=
  { s with face := { s.face with plca := tblSet Plca.reset s.face.plca g x } }

def getPhy (s : State) (c : Nat) : BusPhy := tblGet BusPhy.reset s.face.phys c
def setPhy (s : State) (c : Nat) (x : BusPhy) : State :=
  { s with face := { s.face with phys := tblSet BusPhy.reset s.face.phys c x } }

/-- Temperature of a node's quadrant, a signed byte. -/
def nodeTemp (s : State) (m : Nat) : Nat := tblGet 0 s.face.temp (Config.quadrantOf m).val

/-- Distance between two signed bytes. -/
def tempGap (a b : Nat) : Nat := (sgn 8 a - sgn 8 b).natAbs

/-- Posts a Face event (Table 10.12): type, code, port, detail. -/
def faceEvent (s : State) (typ code port detail : Nat) : State :=
  postEvent s 1 [typ * 2 ^ 24 + code * 2 ^ 16 + port, tick32 s, detail, 0]

/-! ### Hold queues and their watched links (R241) -/

/-- The level of a GPIO as QADMIT's WATCH sees it: the pin's level, which on a pin that nothing drives is that of its PULL (R517). -/
def gpioLevel (s : State) (i : Nat) : Bool :=
  let g := tblGet Gpio.reset s.gh.gpio i
  if g.oe then g.value
  else match g.ext with
    | some b => b
    | none => if g.pull = 0 then Config.floatingPin i s.localNs else g.pull == 2

/-- Whether the watched link and the own port of a hold queue on port m are both up (R241, Table 7.9). -/
def holdUp (s : State) (q m : Nat) : Bool :=
  let a := getQAdmit s q
  portUp s m && (if a.watchGpio then gpioLevel s a.watch else portUp s a.watch)

/-- Brings a hold queue into the state that its links ask for (R241, Table 7.10). -/
def holdUpdate (s : State) (q : Nat) : State :=
  match queuePort s q with
  | none => s
  | some m =>
    -- a queue that is no hold queue any more is in Normal
    if (getQAdmit s q).hold = false then
      (if (getQueue s q).hold = .normal then s else setQueue s q { getQueue s q with hold := .normal })
    else
      let x := getQueue s q
      if holdUp s q m then
        if x.hold = .holding then
          setQueue s q { x with hold := if x.frames.isEmpty then .normal else .releasing,
                                relT := 0, relRem := 0, relU := s.localNs }
        else s
      else if x.hold = .holding then s else toHolding s q

/-- Every hold queue follows its links. -/
def holdUpdateAll (s : State) : State := (s.haul.queues.map (·.1)).foldl holdUpdate s

/-! ### Links and port nodes (R319 to R323) -/

/-- Whether a SPEED code is a rate of Table 10.1 for a node (R319). -/
def speedFits (m sp : Nat) : Bool :=
  if m < 8 then decide (3 ≤ sp) && decide (sp ≤ 6)
  else if m < 32 then decide (1 ≤ sp) && decide (sp ≤ 2)
  else if m < 48 then decide (sp = 0)
  else decide (5 ≤ sp) && (decide (sp ≤ 7) || (decide (sp = 8) && decide (m % 2 = 0)))

/-- Whether a node's lane is the odd member of a 100 Gb/s pair: it stays down (R319). -/
def pairOdd (s : State) (m : Nat) : Bool :=
  decide (48 ≤ m) && decide (m % 2 = 1) && (let e := getFp s (m - 1); e.enable && e.speedCfg == 8)

/-- Loads the latencies of the port's speed from the fuse trims at link-up, when USE_OTP = 1 (R307). -/
def loadLatency (s : State) (m sp : Nat) : State :=
  let t := tblGet TsPort.reset s.time.tsPorts m
  if t.useOtp then
    let t := if (getFp s m).trimBad then { t with rxLat := Config.nominalRxLat m sp, txLat := Config.nominalTxLat m sp }
      else { t with rxLat := Config.rxLat m sp, txLat := Config.txLat m sp }
    logTime s { s with time := { s.time with tsPorts := tblSet TsPort.reset s.time.tsPorts m t } }
  else s

/-- Start-up calibration of a front end (R332): it is skipped after a Warm reset, and while its results hold, where its quadrant's
temperature lies within RECAL_DELTA of CAL_TEMP. -/
def calibrate (s : State) (m : Nat) (x : FacePort) : FacePort :=
  { x with
    calTemp := if x.calibrated ∧ (x.checked ∨ tempGap (nodeTemp s m) x.calTemp ≤ s.face.recalDelta) then x.calTemp else nodeTemp s m
    calibrated := true, checked := true }

/-- The PHY of node m reports link OK (R320, R321, R332). -/
def linkOk (s : State) (m speed : Nat) (leader eee : Bool) (fec : Nat) : State :=
  let x := getFp s m
  if x.enable = false ∨ x.link ∨ x.tc10 = 2 ∨ pairOdd s m then s
  else
    let sp := if x.autoneg ∧ speedFits m speed ∧ speed ≤ x.speedCfg then speed else x.speedCfg
    let y := { calibrate s m x with
      link := true, linkAt := s.localNs, speed := sp
      leader := if m < 32 then (if x.roleCfg = 0 then leader else x.roleCfg == 1) else false
      eeeOn := x.eee && eee && decide (m < 32)
      fec := if m < 48 then 0 else if x.fecCfg = 0 then fec else x.fecCfg
      tc10 := 0 }
    bump (loadLatency (setFp s m y) m sp) .linkUps m 1

/-- The port node comes up once the link has been OK for UP_HOLD_MS (R321): the clock runs to that instant. -/
def nodeUp (s : State) (m : Nat) : State :=
  let x := getFp s m
  -- in Retained, and until the return is complete, a kept link's node stays down (R323)
  if x.enable = false ∨ x.link = false ∨ x.up ∨ portsSlept s ∨ x.kept then s
  else
    let s := advance s (x.linkAt + x.upHold * 1000000 - s.localNs)
    let s := setFp s m { x with up := true }
    holdUpdateAll (faceEvent s 0x50 0 m (b2n x.leader * 16 + x.speed))

/-- A frame in transmission is abandoned and released as in a flush (R321). -/
def abandonTx (s : State) (m : Nat) (t : TxRec) : State :=
  let s := if t.halt ∨ t.desc.spec then s else bump s .templateSkip m t.skips
  bump (if t.halt then s else remarkSpill (discardDesc s m t.desc) t.desc.handle) .txAborted m 1

/-- The frames that a port node transmits are abandoned (R321, R375); one decided and not begun stays with its queue. -/
def abandonPort (s : State) (m : Nat) : State :=
  let s := unstart s m (fun _ => true)
  let p := getPort s m
  let s := match p.tx with | some t => abandonTx s m t | none => s
  let s := match p.preempted with | some t => abandonTx s m t | none => s
  setPort s m { getPort s m with tx := none, preempted := none }

/-- Ends a port node's UP: R244 runs, and frames in transmission are abandoned (R321). -/
def nodeDown (s : State) (m : Nat) : State :=
  let s := setFp s m { getFp s m with up := false }
  let s := portFlush s m
  let s := bump (abandonPort s m) .haltPortDown m (getPort s m).haltQ.length
  holdUpdateAll (setPort s m { getPort s m with haltQ := [], verified := false })

/-- The link of node m goes down with a LINK_DOWN code of Table 10.12 (R321, R334); a recalibration in
progress is abandoned. -/
def linkDown (s : State) (m code : Nat) : State :=
  let x := getFp s m
  if x.link = false then s
  else
    let s := bump s .linkDowns m 1
    let s := setFp s m { x with link := false, lpi := false, kept := false, recal := if x.recal = 2 then 0 else x.recal,
                                calibrated := x.calibrated && x.recal != 2 }
    let s := if x.recal = 2 then
        let s := bump s .recalAbort m 1
        { s with face := { s.face with engines := s.face.engines.filter (· != m) } }
      else s
    let s := if x.up then nodeDown s m else s
    if x.up ∨ x.kept then faceEvent s 0x51 code m 0 else s

/-- Applies a PORT_CFG record (R318 to R320, Table 10.3). -/
def applyPortCfg (s : State) (r : List Byte) : State :=
  let w := im32 r 0
  let v := im32 r 4
  let m := bits w 31 26
  let x := getFp s m
  let y := { x with
    enable := bitOf w 25, autoneg := bitOf w 24, speedCfg := bits w 23 20, roleCfg := bits w 19 18, eee := bitOf w 17
    tc10En := bitOf w 16, upHold := bits w 15 8, fecCfg := bits w 7 5, medium := bitOf w 4, loopback := bits v 31 30
    acceptSleep := bitOf v 29, wakeFwd := bitOf v 28 }
  let retrain := x.enable && (y.speedCfg != x.speedCfg || y.roleCfg != x.roleCfg || y.fecCfg != x.fecCfg
    || y.medium != x.medium || y.autoneg != x.autoneg || y.eee != x.eee || y.loopback != x.loopback)
  let s := if y.enable = false ∨ retrain then linkDown s m 2 else s
  let z := getFp s m
  let stop := y.enable && x.test != 0
  let y := if y.enable && !x.enable then calibrate s m y else y
  let s := setFp s m { y with
    link := z.link, up := z.up, lpi := z.lpi, calibrated := if y.enable then z.calibrated || y.calibrated && !x.enable else z.calibrated && !x.enable, recal := if y.enable then z.recal else 0
    tc10 := if y.enable ∧ y.tc10En then z.tc10 else 0
    test := if y.enable then 0 else z.test, result := if stop then 6 else z.result, dist := if stop then 0 else z.dist }
  if stop then
    let s := faceEvent s 0x52 0 m (6 * 2 ^ 29)
    { s with face := { s.face with engines := s.face.engines.filter (· != m) } }
  else s

/-- Applies a PLCA_CFG record (Table 10.5). -/
def applyPlca (s : State) (r : List Byte) : State :=
  let w := im32 r 0
  let v := im32 r 4
  let g := bits w 31 28
  let x := getPlca s g
  setPlca s g { en := bitOf w 27, nodeId := bits w 26 21, nodeCount := bits w 20 14, toTimer := bits w 13 6, burstCnt := bits v 31 24,
                burstTimer := bits v 23 16, segMax := bits v 13 0
                -- the coordinator hears the beacons that it sends itself (log entry 98)
                active := bitOf w 27 && (x.active || bits w 26 21 == 0), left := 0 }

/-! ### Halt frames (R286 to R288) -/

/-- Whether a frame on node m is a halt frame (R286). -/
def isHalt (s : State) (m : Nat) (b : List Byte) : Bool :=
  s.haul.haltEn && bitOf s.haul.haltIn m && fcsOk b && decide (64 ≤ b.length) && decide (b.length ≤ 128)
    && beNat (imgBytes b 0 6) == s.haul.haltDa && beNat (imgBytes b 12 2) == s.haul.haltEtype
    && beNat (imgBytes b 14 4) == s.haul.haltMagic

/-- Payload of the halt event (Table 8.9): SUPPRESSED as it stands at recognition, before a suppressed frame counts itself (log entry 106). -/
def haltPayload (s : State) (m : Nat) : List Nat :=
  [0x30 * 2 ^ 24 + m, tick32 s, getCtr s .haltSuppressed 0 % 2 ^ 32, 0]

/-- What the device does on recognition of a halt frame (R287, R288). -/
def haltRecognised (s : State) (m : Nat) (b : List Byte) : State :=
  let pl := haltPayload s m
  let s := bump s .haltRx 0 1
  let gap := match s.haul.haltAt with
    | some t => decide (s.localNs < t + s.haul.haltGap * 1000)
    | none => false
  let s := { s with haul := { s.haul with stop := true, lastNode := m, haltCount := sat 16 (s.haul.haltCount + 1) } }
  let s := if gap then bump s .haltSuppressed 0 1
    else
      let s := { s with haul := { s.haul with haltAt := some s.localNs } }
      (List.range 56).foldl (fun s n =>
        if bitOf s.haul.haltOut n ∧ n ≠ m then
          if lineUp s n then setPort s n { getPort s n with haltQ := (getPort s n).haltQ ++ [b] }
          else bump s .haltPortDown n 1
        else s) s
  postEvent s 9 pl

/-! ### TC10 (R337, R338, R446 to R448) -/

/-- Puts a port into SLEEP (Table 10.6): its link goes down with code 3. -/
def tc10Sleep (s : State) (m code : Nat) : State :=
  let s := linkDown s m 3
  let s := setFp s m { getFp s m with tc10 := 2 }
  faceEvent (bump s .tc10Sleeps m 1) 0x53 code m 0

/-- A sleeping port trains its link again (Table 10.6, R334). -/
def tc10Train (s : State) (m : Nat) : State :=
  let x := getFp s m
  setFp s m { x with tc10 := 3, calibrated := x.calibrated && decide (tempGap (nodeTemp s m) x.calTemp ≤ s.face.recalDelta) }

/-- TC10_CMD SLEEP (Table 10.6). -/
def tc10CmdSleep (s : State) (m : Nat) : State :=
  let x := getFp s m
  if x.tc10 = 0 then setFp s m { x with tc10 := 1, tc10At := s.localNs } else s

/-- TC10_CMD WAKE (Table 10.6, R338). -/
def tc10CmdWake (s : State) (m : Nat) : State :=
  let s := setFp s m { getFp s m with wakeAt := some s.localNs }
  let x := getFp s m
  if x.tc10 = 2 then tc10Train s m
  else if x.tc10 = 1 then faceEvent (setFp s m { x with tc10 := 0 }) 0x53 5 m 0
  else s

/-- Whether a wake received on a port is one that was forwarded from it and returns within the millisecond that forwarding may take: it is
ignored (R338, log entry 94). -/
def wakeReturns (s : State) (x : FacePort) : Bool := match x.fwdAt with
  | some t => decide (s.localNs ≤ t + 1000000)
  | none => false

/-- A received wake is forwarded to every other port with TC10_EN = 1 (R338). -/
def tc10Forward (s : State) (m : Nat) : State :=
  if (getFp s m).wakeFwd then
    let s := setFp s m { getFp s m with fwdAt := some s.localNs }
    (List.range 32).foldl (fun s n => if n ≠ m ∧ (getFp s n).tc10En ∧ (getFp s n).enable then tc10CmdWake s n else s) s
  else s

end Sys2Proof.Machine
end

