-- ==== Sys2Proof/Machine/Gatehouse.lean ====
section
/-! DEFINITION. Machine/Gatehouse.lean: wake events and sleep, resets by reach, and the restart of one domain
(R419, R423, R430, R433, R436 to R450, R457, R458). -/

namespace Sys2Proof.Machine

/-- The seconds that the low-power oscillator has counted in so many ns, from its second k on: each lasts between 1/1.03 s and 1/0.97 s. -/
def countSeconds : Nat → Nat → Nat → Nat
  | 0, k, _ => k
  | fuel + 1, k, left =>
    if left < 970873787 ∨ left < min 1030927835 (Config.lpoSecond k) then k
    else countSeconds fuel (k + 1) (left - max 970873787 (min 1030927835 (Config.lpoSecond k)))

/-- SECONDS (R433): the seconds since the last Backup reset was released as the low-power oscillator counts them, within 3 %. -/
def seconds (s : State) : Nat :=
  let t := s.localNs - s.gh.backupAt
  if bitOf s.gh.asserted 0 then 0 else countSeconds (t / 970873787 + 1) 0 t % 2 ^ 32

/-- Posts a Gatehouse event (Table 15.15). -/
def ghEvent (s : State) (typ first detail src late : Nat) : State :=
  postEvent s 16 [typ * 2 ^ 24 + first * 2 ^ 20 + detail * 2 ^ 8 + src, tick32 s, seconds s, late * 2 ^ 31]

/-- The event of the wake record as WAKE_SRC stands. -/
def wakeEvent (s : State) (typ : Nat) : State := ghEvent s typ s.gh.first s.gh.firstDetail s.gh.src (b2n s.gh.late)

/-! ### Transceivers in Standby (R361, R446, R448) -/

/-- Puts a transceiver in Standby and remembers its mode and WAKE_EN; CAN 3, LIN 2; detect sets wake detection. -/
def toStandby (detect : Bool) (s : State) (c : Nat) : State :=
  let x := getPhy s c
  let s := { s with gh := { s.gh with prevModes := tblSet none s.gh.prevModes c (some (x.mode + 4 * b2n x.wakeEn)) } }
  setPhy s c { x with mode := if c < 16 then 3 else 2, wakeEn := x.wakeEn || detect }

/-- Restores every transceiver whose mode is remembered. -/
def restorePhys (s : State) : State :=
  let s1 := s.gh.prevModes.foldl (fun s e => match e.2 with
    | some m => setPhy s e.1 { getPhy s e.1 with mode := m % 4, wakeEn := decide (4 ≤ m) }
    | none => s) s
  { s1 with gh := { s1.gh with prevModes := [] } }

/-! ### Sleep (R446 to R449) -/

/-- Masked nodes of the sleep in force. -/
def sleepNodes (s : State) : List Nat := (List.range 32).filter (bitOf s.gh.tc10Mask)

/-- Whether a node is masked while the sleep is AGREED. -/
def sleepMasked (s : State) (m : Nat) : Bool := s.gh.sleepState == .agreed && decide (m < 32) && bitOf s.gh.tc10Mask m

/-- Undoes an AGREED sleep: TC10 WAKE to its nodes, transceivers restored, SLEEP_ABANDONED posted; a CANCEL
sets no ABANDONED bit (R448). -/
def sleepAbandon (s : State) (byWake : Bool) : State :=
  let nodes := (sleepNodes s).filter (fun m => (getFp s m).tc10 == 1 || (getFp s m).tc10 == 2)
  let s := { s with gh := { s.gh with sleepState := .none, abandoned := s.gh.abandoned || byWake } }
  let s := nodes.foldl tc10CmdWake s
  wakeEvent (restorePhys s) 0x91

/-- A new SLEEP in AGREED: channels are restored, and the TC10 requests in force on its mask restart (R451). -/
def sleepReplace (s : State) (mask : Nat) : State :=
  ((List.range 32).filter (bitOf mask)).foldl (fun s m =>
    if (getFp s m).tc10 = 1 then setFp s m { getFp s m with tc10At := s.localNs } else s) (restorePhys s)

/-- SLEEP applies (R446, R451). -/
def sleepAgree (s : State) (t : SleepTarget) (mask can lin : Nat) : State :=
  let s := if s.gh.sleepState = .agreed then sleepReplace s mask else s
  let s := { s with gh := { s.gh with sleepState := .agreed, target := t, tc10Mask := mask, canStby := can, linStby := lin, prevModes := [] } }
  let s := (sleepNodes s).foldl tc10CmdSleep s
  let s := ((List.range 16).filter (bitOf can)).foldl (toStandby true) s
  ((List.range 8).filter (bitOf lin)).foldl (fun s l => toStandby true s (16 + l)) s

/-- SLEEP_HELD for a masked node that returned to ACTIVE (R447). -/
def sleepHeld (s : State) (m : Nat) : State :=
  if sleepMasked s m then ghEvent s 0x92 0 m s.gh.src (b2n s.gh.late) else s

/-- The modes that a sleep may leave (Table 15.4). -/
def sleepLeaves (s : State) : Bool :=
  s.gh.mode.paired || (s.gh.target == .dormant && (s.gh.mode == .limp || s.gh.mode == .maintenance || s.gh.mode == .recovery))

/-- A port node goes down at the sleep commit, for Retained with its link kept whether or not the node was up (R323). -/
def sleepNode (s : State) (m : Nat) : State :=
  if m < 56 then
    let s := if (getFp s m).up then nodeDown s m else s
    let y := getFp s m
    if s.gh.target = .retained ∧ y.link then setFp s m { y with kept := true, lpi := y.eeeOn } else s
  else if (m = 56 ∧ s.fence.hostStall) ∨ (59 ≤ m ∧ s.pair.role = .rejoin) then s
  else holdUpdateAll (abandonPort (portFlush s m) m)

/-- The sleep commits once every masked node is in SLEEP (R447); every port node goes down (R255, R452). -/
def sleepCommit (s : State) : State :=
  if s.gh.sleepState = .agreed ∧ sleepLeaves s ∧ (sleepNodes s).all (fun m => (getFp s m).tc10 == 2) then
    let s := { s with gh := { s.gh with sleepState := .committed, commitAt := s.localNs, entryDone := false, timerAt := some s.localNs, seen := 0 } }
    (List.range 64).foldl sleepNode s
  else s

/-! ### Wake events (R449, R450) -/

/-- Whether a wake is being handled: the start from Dormant is under way, or the resume from Retained (R450). -/
def wakeHandled (s : State) : Bool := s.gh.resuming || (s.gh.relStep != 0 && bitOf s.gh.seen 9)

/-- Whether the Gatehouse's own receivers watch the buses: in Dormant, and while a wake from Dormant is handled (R450). -/
def ownReceivers (s : State) : Bool := s.gh.mode == .dormant || (s.gh.relStep != 0 && bitOf s.gh.seen 9)

/-- Whether a wake source (its code in Table 15.8) is armed now: while a wake is handled the sources of its mode stay armed, so that
a wake that arrives meanwhile leaves its bit set (R450, log entry 190). -/
def wakeArmed (s : State) (code : Nat) : Bool :=
  if ownReceivers s then code != 8
  else if s.gh.mode = .retained ∨ s.gh.resuming then true
  else match s.gh.sleepState with
    | .none => false
    | .agreed => code != 5
    | .committed => code != 8 || s.gh.target == .retained

/-- Resume from Retained begins (Table 15.4). -/
def startResume (s : State) : State :=
  { s with gh := { s.gh with mode := .waking, resuming := true, sleepState := .none, seen := 0 } }

/-- Records a wake event in WAKE_SRC (R450). -/
def recordWake (s : State) (code detail : Nat) : State :=
  let g := s.gh
  { s with gh := { g with src := g.src ||| 2 ^ (code - 1), first := if g.first = 0 then code else g.first,
                          firstDetail := if g.first = 0 then detail else g.firstDetail } }

/-! ### Resets (R436 to R441) -/

/-- Reach of a source of Table 15.5. -/
def sourceReach (i : Nat) : Nat :=
  if i = 0 then 4 else if i = 11 ∨ i = 13 ∨ i = 14 then 2 else if i < 16 then 3 else 1

/-- The Gatehouse at the assertion of a reset of reach 2 or more: what the backup domain keeps, and what a
Backup reset clears (R433, R458). -/
def ghAtReset (s : State) (reach : Nat) : Gatehouse :=
  let g := s.gh
  let r := Gatehouse.reset
  let base := { r with
    mode := g.mode, lastMode := g.lastMode, inh := g.inh, pen := g.pen, pgood := g.pgood, vio33 := g.vio33, pgFails := g.pgFails, lockout := g.lockout
    bootPending := g.bootPending, rstCause := g.rstCause, reach := g.reach, rstCount := g.rstCount, failStarts := g.failStarts
    failT := g.failT, bootsel := g.bootsel, splitStrap := g.splitStrap, strapRefused := g.strapRefused, asserted := g.asserted
    seen := g.seen, relStep := g.relStep, effReach := g.effReach, late := g.late, abandoned := g.abandoned
    firstDetail := g.firstDetail, first := g.first, src := g.src, faultSrc := g.faultSrc &&& 0b1101001, wdtEn := g.wdtEn
    escalate := g.escalate, restartTicks := g.restartTicks, bootLimit := g.bootLimit, wakeEn := g.wakeEn, edge := g.edge
    timerAt := g.timerAt, canEn := g.canEn, linEn := g.linEn, timerS := g.timerS, bkp := g.bkp, retmem := g.retmem, backupAt := g.backupAt
    gpio := g.gpio.map (fun e => (e.1, { Gpio.reset with ext := e.2.ext })) }
  if reach < 4 then base
  else
    { base with
      lastMode := .off, bootPending := false, rstCount := 0, failStarts := 0, failT := 0, late := false, abandoned := false
      firstDetail := 0, first := 0, src := 0, rstCause := 0, wdtEn := true, escalate := false, restartTicks := 1, bootLimit := 5
      wakeEn := 1, edge := 0, canEn := 0, linEn := 0, timerS := 0, bkp := [], retmem := [], backupAt := s.localNs }

/-- Face at a reset of reach 2 or more; a Warm reset keeps calibration results (R332, R342). -/
def faceAtReset (s : State) (reach : Nat) : Face :=
  let keep := if reach = 2 then (List.range 56).foldl (fun (t : Tbl FacePort) m =>
      let x := getFp s m
      tblSet (FacePort.reset m) t m { FacePort.reset m with calTemp := x.calTemp, calibrated := x.calibrated }) [] else []
  { Face.reset with ports := keep, trimsLoaded := false, fuseBad := s.face.fuseBad }

/-- The DRAM tier of the lookup complex after a Warm reset: it holds no entry (R194), and its bytes are kept (Table 0.7). -/
def dramKept (t : LTier) : LTier :=
  { slots := [], ovf := [], lfsr := 0xACE1#16, waiting := []
    keptSlots := t.slots.foldl (fun l e => tblSet LSlot.empty l e.1 e.2) t.keptSlots
    keptOvf := t.ovf.foldl (fun l e => tblSet LSlot.empty l e.1 e.2) t.keptOvf }

/-- Everything that a reset of reach 2 or more clears (R10, each chapter's reset rule; Warm keeps the DRAM contents: the punt ring and
the bytes of the lookup complex's DRAM tier); the time unit stays in reset
and no boundary is generated until the release completes. -/
def resetAll (s : State) (reach : Nat) : State :=
  let r := State.reset
  let (n, s) := drawFree s
  { r with
    pending := s.pending, localNs := s.localNs, freeIdx := s.freeIdx
    bench := { r.bench with running := false }
    time := { r.time with t0 := TimeBase.stopped }
    gh := ghAtReset s reach
    face := faceAtReset s reach
    lookup := if reach = 2 then { r.lookup with dram := dramKept s.lookup.dram } else r.lookup
    vault := { r.vault with slots := s.vault.slots, fuses := s.vault.fuses }
    host := { r.host with nonce := n % 2 ^ 64, hostMem := s.host.hostMem, msix := s.host.msix
                          tpRing := if reach = 2 then s.host.tpRing else [] }
    triad := { r.triad with split := s.gh.splitStrap, voter := s.triad.voter } }

/-- Whether a reset of reach 2 or more is asserted or releasing. -/
def inReset (s : State) : Bool := s.gh.relStep != 0

/-- RESET_N is low by the device: under reset, and in Off and Dormant through VGH's pull-down (R441, R516). -/
def resetLow (s : State) : Bool := inReset s || s.gh.mode == .off || s.gh.mode == .dormant

/-- Whether a block refuses requests and STAGE: under reset, without power, or coming up (R442). -/
def blockRefuses (s : State) (n : Nat) : Bool :=
  let b := tblGet Block.reset s.gh.blocks n
  !b.power || b.rising || b.busy

/-- Whether the chip beyond the Gatehouse is powered and out of reset, with its clocks running. -/
def deviceRuns (s : State) : Bool :=
  !inReset s && !s.gh.resuming && (match s.gh.mode with | .off => false | .dormant => false | .retained => false | _ => true)

/-- Assertion of a source of reach 2 or more (R437, R438): everything resets, and sequencing starts again from the first step that the
source's own reach requires: Cold and Backup drop the rails, Warm holds them as sequenced.  INH is low only during a Backup reset
until VBAT_ON (R426). -/
def assertReset (s : State) (i : Nat) : State :=
  let eff := max (sourceReach i) (if s.gh.relStep = 0 then 0 else s.gh.effReach)
  let seen := if s.gh.relStep = 0 then 2 ^ i else s.gh.seen ||| 2 ^ i
  -- only source POR itself clears the backup domain (R433)
  let s := resetAll s (if sourceReach i = 4 then 4 else min eff 3)
  let g := s.gh
  { s with gh := { g with
      asserted := g.asserted ||| 2 ^ i, seen := seen, effReach := eff, relStep := 1, rstCause := g.rstCause ||| 2 ^ i, reach := eff
      sleepState := .none
      pen := if sourceReach i ≥ 3 then 0 else g.pen, pgood := if sourceReach i ≥ 3 then 0 else g.pgood
      inh := i != 0 && !bitOf g.asserted 0 } }

/-- A reset source of reach 2 or more asserts. During the entry to Dormant it waits for the entry to complete (R449); in
Dormant it is held for the next start (R451, Table 15.4); in Off nothing supervises. -/
def raiseReset (s : State) (i : Nat) : State :=
  if s.gh.mode = .off then s
  else if s.gh.mode = .dormant then
    { s with gh := { s.gh with asserted := s.gh.asserted ||| 2 ^ i, rstCause := s.gh.rstCause ||| 2 ^ i } }
  else if s.gh.sleepState = .committed ∧ s.gh.target = .dormant ∧ s.gh.entryDone = false then
    { s with gh := { s.gh with asserted := s.gh.asserted ||| 2 ^ i, seen := s.gh.seen ||| 2 ^ i, rstCause := s.gh.rstCause ||| 2 ^ i } }
  else assertReset s i

/-- The last source has released: mode Waking, and the release sequence begins (R437, R438, Table 15.4). -/
def beginRelease (s : State) : State :=
  if s.gh.asserted = 0 ∧ s.gh.relStep ≠ 0 then
    let g := s.gh
    let g := { g with mode := .waking, inh := true, wakingAt := s.localNs }
    if g.effReach ≥ 3 then { s with gh := { g with relStep := 2, pen := if g.pen = 0 then 1 else g.pen } }
    else { s with gh := { g with relStep := 4 } }
  else s

/-- Releases sources, given as a bit set, and starts the release when none is left. -/
def releaseSources (s : State) (set : Nat) : State :=
  beginRelease { s with gh := { s.gh with asserted := s.gh.asserted &&& ((2 ^ 21 - 1) ^^^ set) } }

/-- Wake from Dormant: a Cold reset with source DORMANT is asserted and released (Table 15.4, R436). -/
def wakeDormant (s : State) : State :=
  let s := setFaultSrc { s with gh := { s.gh with lockout := false } } 6 false
  let s := assertReset s 9
  releaseSources s (2 ^ 9)

/-- A wake event (R448 to R450). -/
def wake (s : State) (code detail : Nat) : State :=
  if wakeArmed s code = false then s
  else
    let s := recordWake s code detail
    if wakeHandled s then s
    else if s.gh.mode = .dormant then wakeDormant s
    else if s.gh.mode = .retained then startResume s
    else match s.gh.sleepState with
      | .none => s
      | .agreed => sleepAbandon s true
      | .committed => { s with gh := { s.gh with late := true, seen := s.gh.seen ||| 2 ^ 9 } }

/-! ### Plane resets (R419, R423, R440) -/

/-- Thaws the masters of a range. -/
def thawRange (s : State) (lo hi : Nat) : State :=
  { s with fence := { s.fence with frozen := s.fence.frozen.filter (fun m => m < lo || hi < m) } }

/-- A Triad or Tally core after its reset, at this instant. -/
def resetCore (s : State) (k : Nat) : State := setCore s k { SCore.reset k with startNs := s.localNs }

/-- Marks LOCKSTEP_BROKEN's end in FAULT_SRC and in the mode, which is Active again and follows ROLE (R380, R430, Table 15.4). -/
def endMaintenance (s : State) : State :=
  let s := setFaultSrc s 4 false
  if s.gh.mode = .maintenance then { s with gh := { s.gh with mode := s.pair.role.mode } } else s

/-- Restarts the control domain from source i of Table 15.5 (R382, R419, R440, R482, R490). EVQ_ACK_T and TP_DROP of window 12, which
no rule names here, stay (log entry 172). -/
def controlReset (s : State) (i : Nat) : State :=
  let t := s.triad
  let s := orphanSas (abandonSig { s with gate := { s.gate with group := none } })
  let s := { s with
    triad := { Triad.reset with split := t.split, safe := t.safe, safeStop := t.safeStop, coastLimit := t.coastLimit,
                                coasting := t.coasting, coastCause := t.coastCause, limit := t.limit, coastBounds := t.coastBounds,
                                voter := t.voter }
    host := { s.host with tpHead := s.host.tpTail, dbgAttached := false }
    gh := { s.gh with rstCause := s.gh.rstCause ||| 2 ^ i, reach := 1 }
    fence := { s.fence with noTick := 0 } }
  let s := [0, 1, 2].foldl resetCore s
  let s := thawRange s 0x200 0x200
  let s := endMaintenance s
  let s := bump s .ctrlRestarts 0 1
  -- the voter self-test runs before the first instruction issues (R376, R382)
  if selfTestFails s.triad.voter then triadFault s 5
  else
    let s := setFaultSrc s 1 false
    -- the Triad's ROM code boots it again from the image that booted (R479)
    if s.vault.boot.booted then romControl s else s

/-- A plane reset of the management domain (R440, R423, R501).  Of the debug unit DBG_WINDOW, DBG_STATUS, the attached session and the
TAP keep their values, and the token buffer's DBG_LEN and the command block are cleared (log entry 212, DESIGN CHOICE: Table 0.7 and R440
say only "host port function"). -/
def managementReset (s : State) : State :=
  let s := [3, 4, 5, 6].foldl resetCore s
  let h := s.host
  let s := { s with host := { HostPort.reset with
      linkUp := h.linkUp, width := h.width, gen := h.gen, nonce := h.nonce, dbgAttached := h.dbgAttached, dbgLive := h.dbgLive,
      dbgStatus := h.dbgStatus, tapIr := h.tapIr, tapPtr := h.tapPtr, tapScan := h.tapScan, hostMem := h.hostMem, msix := h.msix,
      tpHead := h.tpHead, tpTail := h.tpTail, tpDrop := h.tpDrop, tpRing := h.tpRing, tallyWait := h.tallyWait
      evqAck := h.evqAck.filter (fun e => e.1 == 5), dbgWindow := h.dbgWindow } }
  let s := thawRange s 0x210 0x23F
  let s := { s with fence := { s.fence with heldInfo := [], heldPc := [] } }
  -- the cores boot as R479 gives, from the image that booted (R502; log entry 214, DESIGN CHOICE)
  if s.vault.boot.booted then romTally s else s

/-- The management domain resets from source i of Table 15.5. -/
def managementSource (s : State) (i : Nat) : State :=
  managementReset { s with gh := { s.gh with rstCause := s.gh.rstCause ||| 2 ^ i, reach := 1 } }

end Sys2Proof.Machine
end

