-- ==== Sys2Proof/Machine/Cores.lean ====
section
/-! DEFINITION. Machine/Cores.lean: how a Uarra-S core executes one instruction: fetch and encoding checks, traps
and returns, the interrupts, and the vote on what the Triad's cores send out (R58, R61, R65 to R80, R362 to R380). -/

namespace Sys2Proof.Machine

/-! ### Levels and local memory -/

/-- Master ID of core k. -/
def coreMaster (k : Nat) : Nat := if k < 3 then mTRIAD else mTALLY + (k - 3)

/-- Whether a region grants an access of n bytes at an address to User level (R80): bit 2 R, 1 W, 0 X. -/
def regionGrants (c : SCore) (a : Word) (n bit : Nat) : Bool :=
  (List.range 8).any (fun i =>
    let b := (tblGet 0#64 c.regionBase i).toNat
    let l := (tblGet 0#64 c.regionLast i).toNat
    bitOf b bit && decide (b / 4096 ≤ l / 4096) && decide (b / 4096 * 4096 ≤ a.toNat)
      && decide (a.toNat + n ≤ l / 4096 * 4096 + 4096))

/-- Whether User level lacks the right to an access. -/
def userDenied (c : SCore) (a : Word) (n bit : Nat) : Bool := c.pl == 0#2 && !regionGrants c a n bit

/-- Whether an instruction of n bytes may be fetched (R61, R80).  The two words of an X instruction are one access of 8 bytes, which
one region must grant whole and which is tested before the encoding (log entry 178, DESIGN CHOICE). -/
def fetchOk (k : Nat) (c : SCore) (n : Nat) : Bool :=
  let a := c.pc.toNat
  (if a ≥ 2 ^ 63 then decide (a - 2 ^ 63 + n ≤ localSize k) else decide (0x3FF0000000 ≤ a) && decide (a + n ≤ 0x3FF0040000))
    && !userDenied c c.pc n 0

/-! ### Traps (R66, R74, R76) -/

def cTICK : Nat := 1
def cMAILBOX : Nat := 2
def cTIMER : Nat := 3
def cEVENT : Nat := 4
def cVAULT : Nat := 5
def cWB : Nat := 6
def cILLEGAL : Nat := 0x10
def cPRIV : Nat := 0x11
def cALIGN : Nat := 0x12
def cACCESS : Nat := 0x13
def cTRAPS : Nat := 0x14
def cTRAPV : Nat := 0x15
def cDOUBLE : Nat := 0x16

/-- STATUS or VSTATUS after a trap entry: PPL, PIE, IE 0, TD 1 (R76). -/
def statusEntry (st : Word) (pl : BitVec 2) : Word :=
  (pl.zeroExtend 64 <<< 10) ||| 0x10#64 ||| (if st.getLsbD 2 then 0x8#64 else 0#64)

/-- STATUS or VSTATUS after TRET: IE := PIE, TD := 0. -/
def statusReturn (st : Word) : Word := (st &&& 0xC08#64) ||| (if st.getLsbD 3 then 0x4#64 else 0#64)

/-- CAUSE or VCAUSE: INTR and CODE (Table 2.14). -/
def causeWord (intr : Bool) (code : Nat) : Word := BitVec.ofNat 64 (b2n intr * 2 ^ 63 + code)

def enterS (c : SCore) (intr : Bool) (code : Nat) (tval epc : Word) : SCore :=
  { c with epc := epc, cause := causeWord intr code, tval := tval, status := statusEntry c.status c.pl, pl := 1#2, pc := c.tvec }

def enterV (c : SCore) (intr : Bool) (code : Nat) (tval epc : Word) : SCore :=
  { c with vepc := epc, vcause := causeWord intr code, vtval := tval, vstatus := statusEntry c.vstatus c.pl, pl := 2#2, pc := c.vtvec }

/-- An exception of core k (R74, R76): the level that takes it, DOUBLE on a Triad core, or the core stops. -/
def exception (k : Nat) (c : SCore) (code : Nat) (tval epc : Word) : SCore :=
  if code = cTRAPV ∨ c.pl = 2#2 then
    if c.pl = 2#2 ∧ c.vstatus.getLsbD 4 then { c with stopped := true } else enterV c false code tval epc
  else if c.pl = 1#2 ∧ c.status.getLsbD 4 then
    if k < 3 then enterV c false cDOUBLE (BitVec.ofNat 64 code) c.epc else { c with stopped := true }
  else enterS c false code tval epc

/-- Core k takes an exception; a Tally core that stops is recorded in DFAULT_LAST (R79, R502). -/
def takeException (s : State) (k : Nat) (code : Nat) (tval epc : Word) : State :=
  let c := exception k (getCore s k) code tval epc
  let s := setCore s k c
  if c.stopped ∧ k ≥ 3 then { s with host := { s.host with dfaultLast := coreMaster k } } else s

/-- The level that a saved level names; one that core k lacks leaves the level as it is (R71; log entry 21). -/
def levelOf (k : Nat) (now ppl : BitVec 2) : BitVec 2 := if ppl = 3#2 ∨ (ppl = 2#2 ∧ k ≥ 3) then now else ppl

/-- TRET of core k at Supervisor or Vault level (R76); PC is a multiple of 4 (R43; log entry 21). -/
def trapReturn (k : Nat) (c : SCore) : SCore :=
  if c.pl = 2#2 then
    { c with pc := c.vepc &&& ~~~3#64, pl := levelOf k c.pl ((c.vstatus >>> 10).truncate 2), vstatus := statusReturn c.vstatus }
  else
    { c with pc := c.epc &&& ~~~3#64, pl := levelOf k c.pl ((c.status >>> 10).truncate 2), status := statusReturn c.status }

/-! ### Requests and the vote (R364, R365) -/

/-- What leaves a core for the Fence (Table 12.1): a read or write of n bytes, AMOADD, or a plane X request with its
words, the values of its register operands and the object image that it streams. -/
inductive Req where
  | load (a n : Nat)
  | store (a n : Nat) (v : Word)
  | amo (a : Nat) (v : Word)
  | plane (w y : Nat) (ops : List Word) (img : List Byte)
  deriving DecidableEq, Repr

/-- The answer to a request: its data, or the access was refused and the master frozen. -/
inductive Reply where
  | data (l : List Nat)
  | refused
  deriving DecidableEq, Repr

/-- What an instruction of a core leads to: the next instruction, a transfer of control, an exception with its code
and TVAL, or a request and what its data do to the core. -/
inductive CRes where
  | fall (c : SCore)
  | jump (c : SCore) (target : Word)
  | trap (code : Nat) (tval : Word)
  /-- a service trap, whose resume address is the next instruction -/
  | service (code : Nat) (tval : Word)
  | ask (r : Req) (fin : SCore → List Nat → SCore)

/-- Whether core k is held: frozen, stopped, in TRIAD_FAULT, waiting in the Boot ROM for its release, or the device is not running (R76,
R372, R415, R479). -/
def coreHeld (s : State) (k : Nat) : Bool :=
  !deviceRuns s || (getCore s k).stopped || isFrozen s (coreMaster k) || (if k < 3 then s.triad.fault else s.host.tallyWait)

/-- Whether core k issues nothing: held, or waiting in WFI (R65). -/
def coreIdle (s : State) (k : Nat) : Bool := coreHeld s k || (getCore s k).waiting

/-- The cores that an agent names in the present operation of the Triad (R362, R378, R379). -/
def agentCores (s : State) (who : Agent) : List Nat :=
  match who with
  | .thread _ => []
  | .tally c => [3 + c.val]
  | .triadCore i =>
    if s.triad.split = false then []
    else if s.triad.lockstepBroken ∧ s.triad.debugCore ≠ some i.val then [] else [i.val]
  | .triad => if s.triad.split then [] else if s.triad.lockstepBroken then [s.triad.debugCore.getD 0] else [0, 1, 2]

/-- Whether the copies of the cores are voted. -/
def isVoted (s : State) (who : Agent) : Bool := who == .triad && !s.triad.split && !s.triad.lockstepBroken

/-- Core i is excluded from voting (R365, R366). -/
def exclude (s : State) (i : Nat) : State :=
  { s with triad := { s.triad with
      excluded := s.triad.excluded ||| (1#3 <<< i), exclBounds := tblSet 0 s.triad.exclBounds i 0 } }

/-- The odd core of an output difference (Table 12.2). -/
def maskCore (s : State) (i : Nat) : State :=
  let s := exclude s i
  { s with triad := { s.triad with votedOut := some i, maskedCount := sat 32 (s.triad.maskedCount + 1) } }

/-- The vote of Table 12.2 over the copies of the voting cores; none is a core that presents nothing. -/
def vote {α : Type} [DecidableEq α] (s : State) (copies : List (Nat × Option α)) : State × Option α :=
  match copies with
  | [(i, a), (j, b), (k, c)] =>
    if a = b ∧ b = c then (s, a)
    else if a = b then (maskCore s k, a)
    else if a = c then (maskCore s j, a)
    else if b = c then (maskCore s i, b)
    else (triadFault s 1, none)
  | [(_, a), (_, b)] => if a = b then (s, a) else (triadFault s 2, none)
  | [(_, a)] => (s, a)
  | _ => (s, none)

/-- The pattern of R371's self-test that the copies of one output resemble: 0 three equal, 1 to 3 one core odd, 4 three different, 5 one
missing, 6 and 7 two copies with the third core excluded, equal or not. -/
def voteShape {α : Type} [DecidableEq α] (l : List (Option α)) : Nat := match l with
  | [a, b, c] =>
    if a.isNone || b.isNone || c.isNone then 5
    else if a == b && b == c then 0
    else if b == c then 1
    else if a == c then 2
    else if a == b then 3
    else 4
  | [a, b] => if a == b then 6 else 7
  | _ => 0

/-- The next instruction of core k: one more retired. -/
def retire (s : State) (k : Nat) (c : SCore) (pc : Word) : State :=
  setCore s k { c with pc := pc, retired := (c.retired + 1) % 2 ^ 64 }

/-- What core k does with the instruction before any request: checks of fetch and encoding, guard, meaning (R46, R61).  TVAL of an
illegal X instruction is its word 1, zero-extended (log entry 180, DESIGN CHOICE). -/
def coreIssue (s : State) (k : Nat) (w : BitVec 32) (y : Option (BitVec 32)) (run : State → Nat → SCore → CRes) : CRes :=
  let c := getCore s k
  let n := if y.isSome then 8 else 4
  if fetchOk k c n = false then .trap cACCESS c.pc
  else if legalS w.toNat ((y.getD 0#32).toNat) = false then .trap cILLEGAL (w.zeroExtend 64)
  else if decide (fOp w.toNat = 0x50 ∨ fOp w.toNat = 0x51) || pget c.regs (fG w.toNat) then run s k c
  else .fall c

/-- The effects that stay inside core k, with its request if it makes one. -/
def coreLocal (n : Nat) (s : State) (e : Nat × CRes) : State :=
  let c := getCore s e.1
  match e.2 with
  | .fall c => retire s e.1 c (c.pc + BitVec.ofNat 64 n)
  | .jump c a => retire s e.1 c a
  | .trap code tval => takeException s e.1 code tval c.pc
  | .service code tval => takeException s e.1 code tval (c.pc + BitVec.ofNat 64 n)
  | .ask _ _ => s

def askOf (r : CRes) : Option Req := match r with
  | .ask q _ => some q
  | _ => none

/-- The copy that core k presents to the voter. -/
def copyOf (rs : List (Nat × CRes)) (k : Nat) : Option Req := (rs.find? (fun e => e.1 == k)).bind (fun e => askOf e.2)

/-- The request's answer reaches every core that asked (R362). -/
def coreAnswer (n : Nat) (l : List Nat) (s : State) (e : Nat × CRes) : State :=
  match e.2 with
  | .ask _ fin => let c := fin (getCore s e.1) l; retire s e.1 c (c.pc + BitVec.ofNat 64 n)
  | _ => s

/-- What is issued of the copies that an agent's cores present: the voter acts by Table 12.2, and where its own two copies answer
differently nothing is issued (R371). -/
def voteAll {α : Type} [DecidableEq α] (s : State) (voted : Bool) (copies : List (Nat × Option α)) : State × Option α :=
  if voted = false then (s, (copies.head?).bind (·.2))
  else if copies.any (fun e => e.2.isSome) && votersDiffer s.triad.voter (voteShape (copies.map (·.2))) then (triadFault s 4, none)
  else vote s copies

/-- One instruction of the cores that an agent names: each executes it, what they send out is voted, performed once
and answered to all (R362 to R366, R371, R378, R379). -/
def coreStep (who : Agent) (w : BitVec 32) (y : Option (BitVec 32)) (run : State → Nat → SCore → CRes)
    (perform : State → Nat → Req → State × Reply) (s : State) : State :=
  let ks := (agentCores s who).filter (fun k => !coreIdle s k)
  let n := if y.isSome then 8 else 4
  let rs := ks.map (fun k => (k, coreIssue s k w y run))
  let s := rs.foldl (coreLocal n) s
  -- a voting core that issues nothing presents nothing
  let voting := if isVoted s who then ((agentCores s who).filter (fun k => !s.triad.excluded.getLsbD k)).map (fun k => (k, copyOf rs k))
    else rs.map (fun e => (e.1, askOf e.2))
  let v := voteAll s (isVoted s who) voting
  match v.2 with
  | none => v.1
  | some q =>
    let m := match voting.find? (fun e => e.2 == some q) with | some e => e.1 | none => 0
    match perform v.1 m q with
    | (s, .refused) => s
    | (s, .data l) => rs.foldl (coreAnswer n l) s

/-- An instruction that sends nothing out. -/
def noRequest (s : State) (_ : Nat) (_ : Req) : State × Reply := (s, .refused)

/-! ### Interrupts (R75, R77, R78) -/

/-- The newest complete snapshot (Table 1.12). -/
def newestSnap (s : State) : Option Snap := tblGet none s.wb (s.bench.wbPublished % 2)

/-- EVENT: the newest snapshot holds records that reader r has not acknowledged (R496); 0 to 3 Tally cores, 5 Triad. -/
def eventPending (s : State) (r : Nat) : Bool := match newestSnap s with
  | some x => !x.recs.isEmpty && tblGet 0 s.host.evqAck r != x.tick % 2 ^ 32
  | none => false

/-- The mailbox rings addressed to core k that hold a message (Table 17.6). -/
def ringsFor (s : State) (k : Nat) : List Nat :=
  (if k < 3 then [0, 1, 2, 3, 4] else [8 + (k - 3)]).filter (fun r => !(tblGet MailRing.reset s.host.rings r).msgs.isEmpty)

/-- Whether interrupt cause c is pending on core k (R75). -/
def irqPending (s : State) (k c : Nat) : Bool :=
  let x := getCore s k
  match c with
  | 1 => x.latched.getLsbD 1
  | 2 => !(ringsFor s k).isEmpty
  | 3 => decide (shortDiff (nowShort s) (x.timecmp.toNat % 2 ^ 48) ≥ 0)
  | 4 => eventPending s (if k < 3 then 5 else k - 3)
  | 5 => x.latched.getLsbD 5
  | 6 => x.latched.getLsbD 6
  | _ => false

def anyPending (s : State) (k : Nat) : Bool := (List.range 7).any (irqPending s k)

/-- IP (Table 2.12). -/
def ipWord (s : State) (k : Nat) : Word :=
  BitVec.ofNat 64 (((List.range 7).filter (irqPending s k)).map (2 ^ ·)).sum

/-- Whether a pending cause is enabled and its level is not below the current level (R77). -/
def irqEligible (s : State) (k c : Nat) : Bool :=
  let x := getCore s k
  irqPending s k c && x.ie.getLsbD c &&
    (if c = 5 then decide (x.pl ≠ 2#2) || x.vstatus.getLsbD 2
     else decide (x.pl = 0#2) || (decide (x.pl = 1#2) && x.status.getLsbD 2))

/-- The interrupt that core k takes (R78): VAULT_DONE first, else by rotating priority over the causes. -/
def irqChoice (s : State) (k : Nat) : Option Nat :=
  if irqEligible s k 5 then some 5
  else ((rotated 6 (s.bench.arbTick % 6)).map (· + 1)).find? (irqEligible s k)

/-- TVAL of an interrupt (Table 2.16): the ring of MAILBOX by the rotating-priority rule over its rings. -/
def irqTval (s : State) (k c : Nat) : Word :=
  match c with
  | 2 =>
    let l := ringsFor s k
    BitVec.ofNat 64 ((((rotated 16 (s.bench.arbTick % 16)).find? (fun r => l.contains r))).getD 0)
  | 6 => BitVec.ofNat 64 (getCore s k).wbTick
  | _ => 0#64

/-- Core k takes interrupt c: TICK, VAULT_DONE and WB_READY clear at entry (R75, R76). -/
def takeIrq (s : State) (k c : Nat) : State :=
  let x := getCore s k
  let y := if c = 5 then enterV x true c (irqTval s k c) x.pc else enterS x true c (irqTval s k c) x.pc
  setCore s k { y with latched := if c = 1 ∨ c = 5 ∨ c = 6 then y.latched &&& ~~~(1#8 <<< c) else y.latched }

/-- The tick program is entered when the Triad takes TICK; the first after a restart ends coasting (R40, R374). -/
def tickEntered (s : State) : State :=
  let s := { s with triad := { s.triad with tickProg := .entered }, fence := { s.fence with noTick := 0 } }
  if s.triad.coasting && !s.triad.fault then
    { s with triad := { s.triad with coasting := false, coastCause := 0 } }
  else s

/-- WFI of the Triad completes a tick program that was entered (R40). -/
def tickDone (s : State) : State :=
  if s.triad.tickProg = .entered then { s with triad := { s.triad with tickProg := .complete } } else s

end Sys2Proof.Machine
end

