-- ==== Sys2Proof/Machine/Engine.lean ====
section
/-! DEFINITION. Machine/Engine.lean: how a packet engine's thread executes one instruction: its faults, issue
slots, guard, and loop bodies (R46, R62 to R64, R69, R70). -/

namespace Sys2Proof.Machine

/-- What an instruction of a thread leads to: the next instruction, a transfer of control, the end of the pass,
or a fault with a code of Table 14.5 and its INFO. -/
inductive TRes where
  | fall (s : State)
  | jump (s : State) (target : Word)
  | ended (s : State)
  | fault (code info : Nat)

/-- Whether a thread waits for its LRN (R175, R180). -/
def waitsReloc (s : State) (t : Nat) : Bool :=
  s.lookup.relocs.any (fun r => r.ctx.thread == t) || s.lookup.onDie.waiting.any (fun c => c.thread == t)
    || s.lookup.dram.waiting.any (fun c => c.thread == t)

/-- The program that a pass runs: the one at its entry's START in the stamped bank. -/
def passProg (s : State) (p : Packet) : Option Prog :=
  let b := getBank s p.bank
  b.progs.find? (fun g => g.base == (tblGet EntryRec.zero b.entries p.entry).start)

/-- Whether the innermost loop's body ends at an address. -/
def loopEndsAt (t : Thread) (a : Word) : Bool := match t.lstack with
  | e :: _ => e.stop == a
  | [] => false

/-- The address after the instruction at a completes without transferring control (R64). -/
def afterInstr (t : Thread) (a next : Word) : Thread :=
  match t.lstack with
  | e :: rest =>
    if e.stop = a then
      if e.remaining > 1 then { t with pc := e.start, lstack := { e with remaining := e.remaining - 1 } :: rest }
      else { t with pc := e.stop + 4#64, lstack := rest }
    else { t with pc := next }
  | [] => { t with pc := next }

/-- An engine issued an instruction of thread t: its issue selector gives priority to the thread that follows (R67). -/
def issued (s : State) (t : Nat) : State :=
  { s with engine := { s.engine with prio := tblSet 0 s.engine.prio (t / 8) ((t + 1) % 8) } }

/-- One instruction of a thread: w is word 1, y word 2 of an X instruction, run its meaning and skip what it does
when its guard reads 0.  A thread without a packet, frozen, or waiting for a relocation issues nothing (R67).
The order of the commands is the order in which the selectors issue; cycles are not timed (log entry 173). -/
def threadStep (t : Nat) (w : BitVec 32) (y : Option (BitVec 32)) (skip run : State → TRes) (s : State) : State :=
  let th := getThread s t
  match th.pkt with
  | none => s
  | some p =>
    if isFrozen s t || waitsReloc s t then s
    else
      let s := issued s t
      let wn := w.toNat
      let pc := th.pc
      let op := fOp wn
      if 0x70 ≤ op ∧ op ≤ 0x77 then threadFault s t vUNAUTH pc.toNat
      else if legalP wn ((y.getD 0#32).toNat) = false ∨ (y.isSome && loopEndsAt th (pc + 4#64)) then threadFault s t vADDR pc.toNat
      else
        let go := decide (op = 0x50 ∨ op = 0x51) || pget th.regs (fG wn)
        let slots := th.slots + if y.isSome && go then 2 else 1
        let tooMany := match passProg s p with
          | some g => decide (slots > g.c)
          | none => true
        if tooMany then threadFault s t vBUDGET pc.toNat
        else
          let s := setThread s t { th with slots := slots }
          match (if go then run s else skip s) with
          | .fall s => setThread s t (afterInstr (getThread s t) pc (pc + if y.isSome then 8#64 else 4#64))
          | .jump s a => setThread s t { getThread s t with pc := a }
          | .ended s => s
          | .fault c i => threadFault s t c i

/-- An instruction that changes only the registers of a thread. -/
def threadRegs (t : Nat) (f : Regs → Regs) (s : State) : TRes :=
  let th := getThread s t
  .fall (setThread s t (th.setRegs (f th.regs)))

/-- Pops the entries of loops whose bodies do not contain a target (R64). -/
def popLoops (a : Word) : List LoopEnt → List LoopEnt
  | [] => []
  | e :: t => if e.start.toNat ≤ a.toNat ∧ a.toNat ≤ e.stop.toNat then e :: t else popLoops a t

end Sys2Proof.Machine
end

