-- ==== Sys2Proof/Machine/Alu.lean ====
section
/-! DEFINITION. Machine/Alu.lean: the register operations of Table 2.4 (R47, R51, R52). -/

namespace Sys2Proof.Machine

/-- An instruction that only changes registers and predicates of its thread or core. -/
def regsOp (who : Agent) (w : BitVec 32) (f : Regs → Regs) (s : State) : State :=
  match who with
  | .thread t => threadStep t w none TRes.fall (threadRegs t f) s
  | _ => coreStep who w none (fun _ _ c => .fall (c.setRegs (f c.regs))) noRequest s

/-- w[d] := g(w[a], w[b]). -/
def aluOp (who : Agent) (op fn : Nat) (f : FmtA) (g : Word → Word → Word) (s : State) : State :=
  regsOp who (encA op f fn) (fun r => rset r f.d.toNat (g (rget r f.a.toNat) (rget r f.b.toNat))) s

/-- w[d] := g(w[a]). -/
def unaryOp (who : Agent) (op fn : Nat) (f : FmtA) (g : Word → Word) (s : State) : State :=
  regsOp who (encA op f fn) (fun r => rset r f.d.toNat (g (rget r f.a.toNat))) s

/-- A compare of w[a] and w[b] (R47). -/
def cmpOp (who : Agent) (fn : Nat) (f : FmtA) (g : Word → Word → Bool) (s : State) : State :=
  regsOp who (encA 0x04 f fn) (fun r => setPair r f.d.toNat (g (rget r f.a.toNat) (rget r f.b.toNat))) s

/-- p[d] := g(p[a], p[b]). -/
def predOp (who : Agent) (fn : Nat) (f : FmtA) (g : Bool → Bool → Bool) (s : State) : State :=
  regsOp who (encA 0x07 f fn) (fun r => pset r (f.d.toNat % 8) (g (pget r (f.a.toNat % 8)) (pget r (f.b.toNat % 8)))) s

/-- ADD (R51). -/
def execAdd (who : Agent) (f : FmtA) (s : State) : Host.Outcome State Fault Refusal :=
  .next (aluOp who 0x00 0 f (· + ·) s)

/-- SUB (R51). -/
def execSub (who : Agent) (f : FmtA) (s : State) : Host.Outcome State Fault Refusal :=
  .next (aluOp who 0x00 1 f (· - ·) s)

/-- MUL (R51). -/
def execMul (who : Agent) (f : FmtA) (s : State) : Host.Outcome State Fault Refusal :=
  .next (aluOp who 0x00 2 f (· * ·) s)

/-- MULHU (R51). -/
def execMulhu (who : Agent) (f : FmtA) (s : State) : Host.Outcome State Fault Refusal :=
  .next (aluOp who 0x00 3 f opMulhu s)

/-- MIN (R51). -/
def execMin (who : Agent) (f : FmtA) (s : State) : Host.Outcome State Fault Refusal :=
  .next (aluOp who 0x00 4 f opMin s)

/-- MAX (R51). -/
def execMax (who : Agent) (f : FmtA) (s : State) : Host.Outcome State Fault Refusal :=
  .next (aluOp who 0x00 5 f opMax s)

/-- MINU (R51). -/
def execMinu (who : Agent) (f : FmtA) (s : State) : Host.Outcome State Fault Refusal :=
  .next (aluOp who 0x00 6 f opMinu s)

/-- MAXU (R51). -/
def execMaxu (who : Agent) (f : FmtA) (s : State) : Host.Outcome State Fault Refusal :=
  .next (aluOp who 0x00 7 f opMaxu s)

/-- AND (R51). -/
def execAnd (who : Agent) (f : FmtA) (s : State) : Host.Outcome State Fault Refusal :=
  .next (aluOp who 0x01 0 f (· &&& ·) s)

/-- OR (R51). -/
def execOr (who : Agent) (f : FmtA) (s : State) : Host.Outcome State Fault Refusal :=
  .next (aluOp who 0x01 1 f (· ||| ·) s)

/-- XOR (R51). -/
def execXor (who : Agent) (f : FmtA) (s : State) : Host.Outcome State Fault Refusal :=
  .next (aluOp who 0x01 2 f (· ^^^ ·) s)

/-- ANDN (R51). -/
def execAndn (who : Agent) (f : FmtA) (s : State) : Host.Outcome State Fault Refusal :=
  .next (aluOp who 0x01 3 f (fun x y => x &&& ~~~y) s)

/-- ORN (R51). -/
def execOrn (who : Agent) (f : FmtA) (s : State) : Host.Outcome State Fault Refusal :=
  .next (aluOp who 0x01 4 f (fun x y => x ||| ~~~y) s)

/-- XNOR (R51). -/
def execXnor (who : Agent) (f : FmtA) (s : State) : Host.Outcome State Fault Refusal :=
  .next (aluOp who 0x01 5 f (fun x y => ~~~(x ^^^ y)) s)

/-- SLL (R51). -/
def execSll (who : Agent) (f : FmtA) (s : State) : Host.Outcome State Fault Refusal :=
  .next (aluOp who 0x02 0 f opSll s)

/-- SRL (R51). -/
def execSrl (who : Agent) (f : FmtA) (s : State) : Host.Outcome State Fault Refusal :=
  .next (aluOp who 0x02 1 f opSrl s)

/-- SRA (R51). -/
def execSra (who : Agent) (f : FmtA) (s : State) : Host.Outcome State Fault Refusal :=
  .next (aluOp who 0x02 2 f opSra s)

/-- ROL (R51). -/
def execRol (who : Agent) (f : FmtA) (s : State) : Host.Outcome State Fault Refusal :=
  .next (aluOp who 0x02 3 f opRol s)

/-- ROR (R51). -/
def execRor (who : Agent) (f : FmtA) (s : State) : Host.Outcome State Fault Refusal :=
  .next (aluOp who 0x02 4 f opRor s)

/-- CLZ (R51). -/
def execClz (who : Agent) (f : FmtA) (s : State) : Host.Outcome State Fault Refusal :=
  .next (unaryOp who 0x03 0 f opClz s)

/-- CTZ (R51). -/
def execCtz (who : Agent) (f : FmtA) (s : State) : Host.Outcome State Fault Refusal :=
  .next (unaryOp who 0x03 1 f opCtz s)

/-- POPC (R51). -/
def execPopc (who : Agent) (f : FmtA) (s : State) : Host.Outcome State Fault Refusal :=
  .next (unaryOp who 0x03 2 f opPopc s)

/-- BSWAP (R51). -/
def execBswap (who : Agent) (f : FmtA) (s : State) : Host.Outcome State Fault Refusal :=
  .next (unaryOp who 0x03 3 f (opBswap 8) s)

/-- BSWAP32 (R51). -/
def execBswap32 (who : Agent) (f : FmtA) (s : State) : Host.Outcome State Fault Refusal :=
  .next (unaryOp who 0x03 4 f (opBswap 4) s)

/-- BSWAP16 (R51). -/
def execBswap16 (who : Agent) (f : FmtA) (s : State) : Host.Outcome State Fault Refusal :=
  .next (unaryOp who 0x03 5 f (opBswap 2) s)

/-- CMPEQ (R47, R51). -/
def execCmpeq (who : Agent) (f : FmtA) (s : State) : Host.Outcome State Fault Refusal :=
  .next (cmpOp who 0 f cmpEq s)

/-- CMPNE (R47, R51). -/
def execCmpne (who : Agent) (f : FmtA) (s : State) : Host.Outcome State Fault Refusal :=
  .next (cmpOp who 1 f cmpNe s)

/-- CMPLT (R47, R51). -/
def execCmplt (who : Agent) (f : FmtA) (s : State) : Host.Outcome State Fault Refusal :=
  .next (cmpOp who 2 f cmpLt s)

/-- CMPLTU (R47, R51). -/
def execCmpltu (who : Agent) (f : FmtA) (s : State) : Host.Outcome State Fault Refusal :=
  .next (cmpOp who 3 f cmpLtu s)

/-- CMPLE (R47, R51). -/
def execCmple (who : Agent) (f : FmtA) (s : State) : Host.Outcome State Fault Refusal :=
  .next (cmpOp who 4 f cmpLe s)

/-- CMPLEU (R47, R51). -/
def execCmpleu (who : Agent) (f : FmtA) (s : State) : Host.Outcome State Fault Refusal :=
  .next (cmpOp who 5 f cmpLeu s)

/-- TSTZ (R47, R51). -/
def execTstz (who : Agent) (f : FmtA) (s : State) : Host.Outcome State Fault Refusal :=
  .next (cmpOp who 6 f cmpTstz s)

/-- TSTNZ (R47, R51). -/
def execTstnz (who : Agent) (f : FmtA) (s : State) : Host.Outcome State Fault Refusal :=
  .next (cmpOp who 7 f cmpTstnz s)

/-- SEL (R51). -/
def execSel (who : Agent) (n : BitVec 3) (f : FmtA) (s : State) : Host.Outcome State Fault Refusal :=
  .next (regsOp who (encA 0x05 f n.toNat) (fun r => rset r f.d.toNat (if pget r n.toNat then rget r f.a.toNat else rget r f.b.toNat)) s)

/-- PAND (R51). -/
def execPand (who : Agent) (f : FmtA) (s : State) : Host.Outcome State Fault Refusal :=
  .next (predOp who 0 f (· && ·) s)

/-- POR (R51). -/
def execPor (who : Agent) (f : FmtA) (s : State) : Host.Outcome State Fault Refusal :=
  .next (predOp who 1 f (· || ·) s)

/-- PXOR (R51). -/
def execPxor (who : Agent) (f : FmtA) (s : State) : Host.Outcome State Fault Refusal :=
  .next (predOp who 2 f xor s)

/-- PANDN (R51). -/
def execPandn (who : Agent) (f : FmtA) (s : State) : Host.Outcome State Fault Refusal :=
  .next (predOp who 3 f (fun x y => x && !y) s)

/-- PTOW (R51). -/
def execPtow (who : Agent) (f : FmtA) (s : State) : Host.Outcome State Fault Refusal :=
  .next (regsOp who (encA 0x07 f 4) (fun r => rset r f.d.toNat (predWord r)) s)

/-- WTOP (R51). -/
def execWtop (who : Agent) (f : FmtA) (s : State) : Host.Outcome State Fault Refusal :=
  .next (regsOp who (encA 0x07 f 5) (fun r => predLoad r (rget r f.a.toNat)) s)

/-- DIVU (R52). -/
def execDivu (who : Agent) (f : FmtA) (s : State) : Host.Outcome State Fault Refusal :=
  .next (aluOp who 0x08 0 f opDivu s)

/-- REMU (R52). -/
def execRemu (who : Agent) (f : FmtA) (s : State) : Host.Outcome State Fault Refusal :=
  .next (aluOp who 0x08 1 f opRemu s)

/-- DIVS (R52). -/
def execDivs (who : Agent) (f : FmtA) (s : State) : Host.Outcome State Fault Refusal :=
  .next (aluOp who 0x08 2 f opDivs s)

/-- REMS (R52). -/
def execRems (who : Agent) (f : FmtA) (s : State) : Host.Outcome State Fault Refusal :=
  .next (aluOp who 0x08 3 f opRems s)

end Sys2Proof.Machine
end

