-- ==== Sys2Proof/Machine/AluImm.lean ====
section
/-! DEFINITION. Machine/AluImm.lean: the immediate and constant operations of Tables 2.5 and 2.6 (R53 to R55). -/

namespace Sys2Proof.Machine

/-- w[d] := g(w[a], imm10). -/
def immOp (who : Agent) (op : Nat) (f : FmtI) (g : Word → BitVec 10 → Word) (s : State) : State :=
  regsOp who (encI op f) (fun r => rset r f.d.toNat (g (rget r f.a.toNat) f.imm)) s

/-- A compare of w[a] with an immediate (R47, R53). -/
def cmpImmOp (who : Agent) (op : Nat) (f : FmtI) (g : Word → BitVec 10 → Bool) (s : State) : State :=
  regsOp who (encI op f) (fun r => setPair r f.d.toNat (g (rget r f.a.toNat) f.imm)) s

/-- w[d] := g(w[d], imm16). -/
def constOp (who : Agent) (op : Nat) (f : FmtL) (g : Word → BitVec 16 → Word) (s : State) : State :=
  regsOp who (encL op f) (fun r => rset r f.d.toNat (g (rget r f.d.toNat) f.imm)) s

/-- ADDI (R53). -/
def execAddi (who : Agent) (f : FmtI) (s : State) : Host.Outcome State Fault Refusal :=
  .next (immOp who 0x20 f (fun x i => x + i.signExtend 64) s)

/-- ANDI (R53). -/
def execAndi (who : Agent) (f : FmtI) (s : State) : Host.Outcome State Fault Refusal :=
  .next (immOp who 0x21 f (fun x i => x &&& i.zeroExtend 64) s)

/-- ORI (R53). -/
def execOri (who : Agent) (f : FmtI) (s : State) : Host.Outcome State Fault Refusal :=
  .next (immOp who 0x22 f (fun x i => x ||| i.zeroExtend 64) s)

/-- XORI (R53). -/
def execXori (who : Agent) (f : FmtI) (s : State) : Host.Outcome State Fault Refusal :=
  .next (immOp who 0x23 f (fun x i => x ^^^ i.zeroExtend 64) s)

/-- SLLI (R53). -/
def execSlli (who : Agent) (f : FmtI) (s : State) : Host.Outcome State Fault Refusal :=
  .next (immOp who 0x24 f (fun x i => x <<< (i.toNat % 64)) s)

/-- SRLI (R53). -/
def execSrli (who : Agent) (f : FmtI) (s : State) : Host.Outcome State Fault Refusal :=
  .next (immOp who 0x25 f (fun x i => x >>> (i.toNat % 64)) s)

/-- SRAI (R53). -/
def execSrai (who : Agent) (f : FmtI) (s : State) : Host.Outcome State Fault Refusal :=
  .next (immOp who 0x26 f (fun x i => x.sshiftRight (i.toNat % 64)) s)

/-- MOV (R53). -/
def execMov (who : Agent) (f : FmtI) (s : State) : Host.Outcome State Fault Refusal :=
  .next (immOp who 0x27 f (fun x _ => x) s)

/-- EXTU (R54). -/
def execExtu (who : Agent) (f : FmtI) (s : State) : Host.Outcome State Fault Refusal :=
  .next (immOp who 0x28 f opExtu s)

/-- EXTS (R54). -/
def execExts (who : Agent) (f : FmtI) (s : State) : Host.Outcome State Fault Refusal :=
  .next (immOp who 0x29 f opExts s)

/-- INS (R54). -/
def execIns (who : Agent) (f : FmtI) (s : State) : Host.Outcome State Fault Refusal :=
  .next (regsOp who (encI 0x2a f) (fun r => rset r f.d.toNat (opIns (rget r f.d.toNat) (rget r f.a.toNat) f.imm)) s)

/-- CMPEQI (R47, R53). -/
def execCmpeqi (who : Agent) (f : FmtI) (s : State) : Host.Outcome State Fault Refusal :=
  .next (cmpImmOp who 0x2b f (fun x i => cmpEq x (i.signExtend 64)) s)

/-- CMPLTI (R47, R53). -/
def execCmplti (who : Agent) (f : FmtI) (s : State) : Host.Outcome State Fault Refusal :=
  .next (cmpImmOp who 0x2c f (fun x i => cmpLt x (i.signExtend 64)) s)

/-- CMPLTUI (R47, R53). -/
def execCmpltui (who : Agent) (f : FmtI) (s : State) : Host.Outcome State Fault Refusal :=
  .next (cmpImmOp who 0x2d f (fun x i => cmpLtu x (i.zeroExtend 64)) s)

/-- TSTI (R47, R53). -/
def execTsti (who : Agent) (f : FmtI) (s : State) : Host.Outcome State Fault Refusal :=
  .next (cmpImmOp who 0x2e f (fun x i => cmpTstnz x (i.zeroExtend 64)) s)

/-- LI (R55). -/
def execLi (who : Agent) (f : FmtL) (s : State) : Host.Outcome State Fault Refusal :=
  .next (constOp who 0x30 f (fun _ i => i.signExtend 64) s)

/-- LIZ (R55). -/
def execLiz (who : Agent) (f : FmtL) (s : State) : Host.Outcome State Fault Refusal :=
  .next (constOp who 0x31 f (fun _ i => i.zeroExtend 64) s)

/-- MK16 (R55). -/
def execMk16 (who : Agent) (f : FmtL) (s : State) : Host.Outcome State Fault Refusal :=
  .next (constOp who 0x32 f (fun x i => opLane x 16 i) s)

/-- MK32 (R55). -/
def execMk32 (who : Agent) (f : FmtL) (s : State) : Host.Outcome State Fault Refusal :=
  .next (constOp who 0x33 f (fun x i => opLane x 32 i) s)

/-- MK48 (R55). -/
def execMk48 (who : Agent) (f : FmtL) (s : State) : Host.Outcome State Fault Refusal :=
  .next (constOp who 0x34 f (fun x i => opLane x 48 i) s)

end Sys2Proof.Machine
end

