-- ==== Sys2Proof/Machine/Loader.lean ====
section
/-! DEFINITION. Machine/Loader.lean: the loader's checks of a PROGRAM object and the figures C, U and W_C that it
computes over every path of a program (R112 to R117, R527). -/

namespace Sys2Proof.Machine

/-! ### Reason codes (Table 3.10) -/

def lILLEGAL : Nat := 0x01
def lBACKWARD : Nat := 0x02
def lTARGET : Nat := 0x03
def lNESTING : Nat := 0x04
def lLOOPDEPTH : Nat := 0x05
def lCALLDEPTH : Nat := 0x06
def lNOTERMINAL : Nat := 0x07
def lLATENCY : Nat := 0x08
def lMISMATCH : Nat := 0x09
def lPLACEMENT : Nat := 0x0A
def lSIZE : Nat := 0x0B
def lCOST : Nat := 0x0C
def lTYPE : Nat := 0x0D
def lRESERVED : Nat := 0x0E
def lCAPACITY : Nat := 0x10
def lRATE : Nat := 0x11
def lCHAIN : Nat := 0x12
def lENTRY : Nat := 0x13
def lTIER : Nat := 0x14
def lBANKBUSY : Nat := 0x15
def lPERIOD : Nat := 0x16

/-! ### Instruction starts -/

/-- One instruction of a program: its word index, word 1 and word 2 (0 when it has none). -/
structure LIns where
  i : Nat
  w : Nat
  y : Nat
  deriving DecidableEq, Repr

/-- The instruction starts in order (R113 rule 2). -/
def lStarts : Nat → List Nat → List LIns
  | i, w :: y :: t => if isX w then { i := i, w := w, y := y } :: lStarts (i + 2) t else { i := i, w := w, y := 0 } :: lStarts (i + 1) (y :: t)
  | i, [w] => [{ i := i, w := w, y := 0 }]
  | _, [] => []

def LIns.size (x : LIns) : Nat := if isX x.w then 2 else 1
def LIns.op (x : LIns) : Nat := fOp x.w
def LIns.guarded (x : LIns) : Bool := fG x.w != 0

/-- Fields of format B: p, t and the signed displacement in words. -/
def LIns.bp (x : LIns) : Nat := bits x.w 23 21
def LIns.bt (x : LIns) : Bool := bitOf x.w 24
def LIns.target (x : LIns) : Int := x.i + sgn 21 x.w

/-- A branch or call that is no no-operation (R113 rule 3; the no-operation binds no rule: log entry 23). -/
def LIns.branches (x : LIns) : Bool := (x.op == 0x50 || x.op == 0x51) && !(x.bp == 0 && !x.bt)
def LIns.isCall (x : LIns) : Bool := x.op == 0x51 && x.branches
def LIns.isBr (x : LIns) : Bool := x.op == 0x50 && x.branches
def LIns.isRet (x : LIns) : Bool := x.op == 0x52
def LIns.isLoop (x : LIns) : Bool := x.op == 0x53 || x.op == 0x54
def LIns.loopLen (x : LIns) : Nat := fImm10 x.w
def LIns.terminal (x : LIns) : Bool := isX x.w && isTerminal x.w x.y

/-- Legal in the sense of R50 and R92; the cap of LOOPR has a code of its own (R114 rule 5). -/
def LIns.legal (x : LIns) : Bool := if x.op = 0x54 then fImm10 x.w ≠ 0 else legalP x.w x.y

/-- The maximal count of a loop (R114 rule 7). -/
def LIns.count (x : LIns) : Nat := if x.op = 0x53 then fD x.w * 64 + fA x.w else 2 ^ fD x.w

/-! ### A program under check -/

/-- A program's instructions, its length in words and its loop bodies (LOOP word, first, last), those that break a rule of R114
among them: R527 reports the lowest word at which any rule fails. -/
structure LProg where
  ins : List LIns
  n : Nat
  bodies : List (Nat × Nat × Nat)
  deriving DecidableEq, Repr

def LProg.find (p : LProg) (i : Nat) : Option LIns := p.ins.find? (fun x => x.i == i)

/-- A target word, when it is an instruction start of the program. -/
def LProg.startAt (p : LProg) (t : Int) : Option Nat := if t < 0 then none else (p.find t.toNat).map (·.i)

def lProgram (words : List Nat) : LProg :=
  let ins := lStarts 0 words
  { ins := ins, n := words.length
    bodies := (ins.filter (fun x => x.isLoop && x.loopLen != 0)).map (fun x => (x.i, x.i + 1, x.i + x.loopLen)) }

/-- Whether a body contains a word. -/
def bodyHas (b : Nat × Nat × Nat) (i : Nat) : Bool := decide (b.2.1 ≤ i) && decide (i ≤ b.2.2)

/-- The innermost body that contains a word. -/
def LProg.inner (p : LProg) (i : Nat) : Option (Nat × Nat × Nat) := (p.bodies.filter (bodyHas · i)).getLast?

/-- Loops active in the function at a word. -/
def LProg.nest (p : LProg) (i : Nat) : Nat := (p.bodies.filter (bodyHas · i)).length

/-! ### Structure (R113 rules 2 and 3, R114 rules 1 to 5): (word index, reason code) -/

def lEncodingFaults (p : LProg) : List (Nat × Nat) :=
  p.ins.flatMap (fun x =>
    chk (!x.legal || (isX x.w && x.i + 1 == p.n)) x.i lILLEGAL ++ chk (x.op == 0x54 && decide (fD x.w > 12)) x.i lLOOPDEPTH)

def lTargetFaults (p : LProg) : List (Nat × Nat) :=
  (p.ins.filter LIns.branches).flatMap (fun x =>
    chk (x.op == 0x50 && decide (sgn 21 x.w < 1)) x.i lBACKWARD ++ chk (p.startAt x.target).isNone x.i lTARGET)

/-- A loop whose body leaves the program, ends in an instruction that may not end it, or crosses or ends with
an enclosing body (R114 rules 1 to 3). -/
def lBodyFaults (p : LProg) : List (Nat × Nat) :=
  (p.ins.filter LIns.isLoop).flatMap (fun x =>
    let last := x.i + x.loopLen
    let badEnd := match p.find last with
      | some y => y.size != 1 || y.isCall || y.isRet || y.isLoop
      | none => true
    let crosses := p.bodies.any (fun b => b.1 != x.i && bodyHas b x.i && decide (last ≥ b.2.2))
    chk (badEnd || crosses) x.i lNESTING)

/-- Branches and calls into bodies, and returns inside them (R114 rule 4). -/
def lEntryFaults (p : LProg) : List (Nat × Nat) :=
  p.ins.flatMap (fun x =>
    let into := match (if x.branches then p.startAt x.target else none) with
      | some t => p.bodies.any (fun b => bodyHas b t && (x.isCall || !bodyHas b x.i))
      | none => false
    chk (into || (x.isRet && (p.inner x.i).isSome)) x.i lNESTING)

/-! ### Figures (R115) -/

/-- The three figures of a path. -/
structure Fig where
  c : Nat
  u : Nat
  wc : Nat
  deriving DecidableEq, Repr

def Fig.zero : Fig := { c := 0, u := 0, wc := 0 }
def Fig.add (x y : Fig) : Fig := { c := x.c + y.c, u := x.u + y.u, wc := x.wc + y.wc }
def Fig.max (x y : Fig) : Fig := { c := Max.max x.c y.c, u := Max.max x.u y.u, wc := Max.max x.wc y.wc }
def Fig.times (n : Nat) (x : Fig) : Fig := { c := n * x.c, u := n * x.u, wc := n * x.wc }

/-- Where a path leaves the region it runs in: a terminal, a return, the completion of the body's last word, or a
taken branch to a word outside the body. -/
inductive LExit where
  | term
  | ret
  | done
  | out (t : Nat)
  deriving DecidableEq, Repr

/-- The worst figures to each exit that some path reaches. -/
abbrev Outs := List (LExit × Fig)

def outPut (o : Outs) (e : LExit) (f : Fig) : Outs :=
  match o with
  | [] => [(e, f)]
  | (x, g) :: t => if x = e then (x, g.max f) :: t else (x, g) :: outPut t e f

def outJoin (a b : Outs) : Outs := b.foldl (fun o e => outPut o e.1 e.2) a

def outAfter (f : Fig) (o : Outs) : Outs := o.map (fun e => (e.1, f.add e.2))

def outGet (o : Outs) (e : LExit) : Option Fig := (o.find? (fun x => x.1 == e)).map (·.2)

/-- Contribution of an executed instruction, on the fall-through edge of a branch (Tables 2.10 and 3.11). -/
def lCost (x : LIns) : Fig :=
  if isX x.w then { c := 2, u := 2 + worstWait x.w x.y, wc := 9 + worstWait x.w x.y }
  else
    let op := x.op
    let e :=
      if op = 0x00 ∧ (fFn x.w = 2 ∨ fFn x.w = 3) then 1
      else if (0x40 ≤ op ∧ op ≤ 0x46) ∨ op = 0x4C then 1
      else if op = 0x52 then 2
      else 0
    { c := 1, u := 1 + e, wc := 8 + e }

/-- The taken edge of BR and CALL. -/
def lTaken : Fig := { c := 1, u := 3, wc := 10 }

/-- An instruction whose guard reads 0, or a branch not taken. -/
def lSkip : Fig := { c := 1, u := 1, wc := 8 }

/-- The paths from word i on, given those from each later word (rest, whose head is word i + 1) and from each callee. -/
def lWord (p : LProg) (callee : Nat → Outs) (rest : List Outs) (i : Nat) : Outs :=
  match p.find i with
  | none => []
  | some x =>
    let body := p.inner i
    let fromWord (t : Nat) : Outs := rest.getD (t - i - 1) []
    let fall (t : Nat) : Outs := match body with
      | some b => if i = b.2.2 then [(.done, Fig.zero)] else fromWord t
      | none => fromWord t
    let jump (t : Nat) : Outs := match body with
      | some b => if bodyHas b t then fromWord t else [(.out t, Fig.zero)]
      | none => fromWord t
    if x.isBr then
      let taken := match p.startAt x.target with
        | some t => if t > i then outAfter lTaken (jump t) else []
        | none => []
      if x.bp = 0 then taken else outJoin taken (outAfter lSkip (fall (i + 1)))
    else if x.isCall then
      let c := match p.startAt x.target with
        | some t => callee t
        | none => []
      let ended := match outGet c .term with
        | some f => [(LExit.term, lTaken.add f)]
        | none => []
      let back := match outGet c .ret with
        | some f => outAfter (lTaken.add f) (fall (i + 1))
        | none => []
      let taken := outJoin ended back
      if x.bp = 0 then taken else outJoin taken (outAfter lSkip (fall (i + 1)))
    else if x.op = 0x50 ∨ x.op = 0x51 then outAfter lSkip (fall (i + 1))
    else if x.isRet then
      let r : Outs := [(.ret, lCost x)]
      if x.guarded then outJoin r (outAfter lSkip (fall (i + 1))) else r
    else if x.isLoop then
      let f := lCost x
      let b := rest.headD []
      let after := i + x.loopLen + 1
      let once := match outGet b .done with
        | some g => f.add (Fig.times (x.count - 1) g)
        | none => f
      let exits := b.foldl (fun o e => match e.1 with
        | .done => o
        | .out t => outJoin o (outAfter (once.add e.2) (jump t))
        | k => outPut o k (once.add e.2)) ([] : Outs)
      let full := match outGet b .done with
        | some g => outAfter (f.add (Fig.times x.count g)) (fromWord after)
        | none => []
      let o := outJoin exits full
      if x.guarded ∨ x.op = 0x54 then outJoin o (outAfter f (fromWord after)) else o
    else if x.terminal then
      let r : Outs := [(.term, lCost x)]
      if x.guarded then outJoin r (outAfter lSkip (fall (i + 2))) else r
    else outAfter (lCost x) (fall (i + x.size))

/-- The paths from each word n - k to n - 1, right to left. -/
def lFrom (p : LProg) (callee : Nat → Outs) : Nat → List Outs
  | 0 => []
  | k + 1 => let rest := lFrom p callee k; lWord p callee rest (p.n - (k + 1)) :: rest

/-- The paths from every word with at most d further calls outstanding. -/
def lTable (p : LProg) : Nat → List Outs
  | 0 => lFrom p (fun _ => []) p.n
  | d + 1 => let t := lTable p d; lFrom p (fun j => t.getD j []) p.n

/-! ### Paths (R113 rules 4 to 6, R114 rule 6) -/

/-- Words that an instruction can lead to inside its function; returns says whether a callee comes back. -/
def lNext (p : LProg) (returns : Nat → Bool) (x : LIns) : List Nat :=
  let dst := (p.startAt x.target).toList
  if x.isBr then (if x.bp = 0 then dst else (x.i + 1) :: dst)
  else if x.isCall then (if x.bp ≠ 0 ∨ dst.any returns then [x.i + 1] else [])
  else if x.isRet then (if x.guarded then [x.i + 1] else [])
  else if x.isLoop ∧ p.bodies.any (fun b => b.1 == x.i) then
    (if x.guarded ∨ x.op = 0x54 then [x.i + 1, x.i + x.loopLen + 1] else [x.i + 1])
  else if x.terminal then (if x.guarded then [x.i + 2] else [])
  else [x.i + x.size]

/-- Instructions of a function reached from the words given, in order; k words remain. -/
def lReach (p : LProg) (returns : Nat → Bool) : Nat → List Nat → List LIns
  | 0, _ => []
  | k + 1, l =>
    let i := p.n - (k + 1)
    if l.contains i then match p.find i with
      | some x => x :: lReach p returns k (l ++ lNext p returns x)
      | none => lReach p returns k l
    else lReach p returns k l

/-- A function as a path enters it: its first word, and the loops active at the outstanding call sites. -/
abbrev LEntry := Nat × Nat

/-- Failures of the paths through functions entered with k calls outstanding, and the functions that they call. -/
def lLevel (p : LProg) (k : Nat) (returns : Nat → Bool) (es : List LEntry) : List (Nat × Nat) × List LEntry :=
  es.foldl (fun (acc : List (Nat × Nat) × List LEntry) e =>
    let rs := lReach p returns p.n [e.1]
    let f := rs.flatMap (fun x =>
      chk ((lNext p returns x).any (fun j => decide (j ≥ p.n))) (p.n - 1) lNOTERMINAL
        ++ chk (x.isRet && k == 0) x.i lCALLDEPTH
        ++ chk (x.isCall && k == 4) x.i lCALLDEPTH
        ++ chk (x.isLoop && decide (e.2 + p.nest x.i + 1 > 4)) x.i lLOOPDEPTH)
    let cs := (rs.filter LIns.isCall).flatMap (fun x => ((p.startAt x.target).toList).map (fun t => (t, e.2 + p.nest x.i)))
    (acc.1 ++ f, acc.2 ++ cs.filter (fun c => !acc.2.contains c))) ([], [])

/-- The failures along the paths from word 0; d is the number of calls that may still be added. -/
def lPathFaults (p : LProg) : Nat → List LEntry → List (Nat × Nat)
  | 0, es => (lLevel p 4 (fun _ => true) es).1
  | d + 1, es =>
    let t := lTable p d
    let r := lLevel p (3 - d) (fun j => (outGet (t.getD j []) .ret).isSome) es
    r.1 ++ lPathFaults p d r.2.eraseDups

/-- Functions that a function calls, with the calling words (R113 rule 4). -/
def lCalls (p : LProg) (f : Nat) : List (Nat × Nat) :=
  ((lReach p (fun _ => true) p.n [f]).filter LIns.isCall).flatMap (fun x => ((p.startAt x.target).toList).map (fun t => (x.i, t)))

/-- Functions reached from those given in at most k calls. -/
def lCallees (p : LProg) : Nat → List Nat → List Nat
  | 0, l => l
  | k + 1, l => lCallees p k (l ++ l.flatMap (fun f => (lCalls p f).map (·.2))).eraseDups

/-- Calls that close a cycle of the call graph. -/
def lCycleFaults (p : LProg) : List (Nat × Nat) :=
  let fs := (0 :: (p.ins.filter LIns.isCall).flatMap (fun x => (p.startAt x.target).toList)).eraseDups
  fs.flatMap (fun f => (lCalls p f).flatMap (fun c => chk ((lCallees p fs.length [c.2]).contains f) c.1 lCALLDEPTH))

/-! ### The object (R112, R527, Table 3.9) -/

/-- Lowest word index first, then lowest reason code. -/
def lPick : List (Nat × Nat) → Option (Nat × Nat)
  | [] => none
  | x :: t => some (t.foldl betterFault x)

def progWords (img : List Byte) : List Nat := (List.range (bits (im32 img 4) 12 0)).map (fun i => im32 img (0x20 + 4 * i))

/-- The figures of a program: the worst paths to a terminal with at most four calls outstanding. -/
def progFig (words : List Nat) : Fig := ((outGet ((lTable (lProgram words) 4).headD []) .term)).getD Fig.zero

/-- Whether W of one pass exceeds P/2 (R117); P in microseconds. -/
def tooSlow (wc p : Nat) : Bool := decide (2 * (wc + 8) > 1500 * p)

/-- The first failure of a PROGRAM object: (reason code, word index).  used says which words of the bank are taken. -/
def progFault (img : List Byte) (writable : Bool) (used : List (Nat × Nat)) (period : Nat) : Option (Nat × Nat) :=
  let h := im32 img 0
  let len := bits (im32 img 4) 12 0
  let base := bits h 15 0
  if len = 0 ∨ len > 4096 ∨ img.length ≠ 0x20 + 4 * len then some (lSIZE, 0)
  else if bits h 30 16 ≠ 0 ∨ bits (im32 img 4) 31 13 ≠ 0 ∨ !allZero (imgBytes img 0x10 16) then some (lRESERVED, 0)
  else if !writable ∨ base + len > 65536 ∨ used.any (fun r => base < r.1 + r.2 && r.1 < base + len) then some (lPLACEMENT, 0)
  else
    let words := progWords img
    let p := lProgram words
    match lPick (List.flatten [lEncodingFaults p, lTargetFaults p, lBodyFaults p, lEntryFaults p, lPathFaults p 4 [(0, 0)], lCycleFaults p]) with
    | some f => some (f.2, f.1)
    | none =>
      let f := progFig words
      if f.c > 65535 ∨ f.u > 65535 then some (lCOST, 0)
      else if tooSlow f.wc period then some (lLATENCY, 0)
      else if bits (im32 img 8) 31 16 ≠ f.u ∨ bits (im32 img 8) 15 0 ≠ f.c ∨ im32 img 12 ≠ f.wc then some (lMISMATCH, 0)
      else none

end Sys2Proof.Machine
end

