-- ==== Sys2Proof/Machine/Admission.lean ====
section
/-! DEFINITION. Machine/Admission.lean: the objects of the engine array, the admission of a program set, and the
replacement of the bank in service (R83, R111, R118 to R125, Tables 3.8 and 3.13). -/

namespace Sys2Proof.Machine

/-! ### Objects of the engine array at STAGE (R111, R112, Table 3.8) -/

/-- Bank that a PROGRAM, CONST or ENTRY object names. -/
def objBank (img : List Byte) : Bool := bitOf (im32 img 0) 31

/-- Whether STAGE may write a bank: released, and no switch to it armed (R125, Table 3.13). -/
def bankWritable (s : State) (b : Bool) : Bool := (getBank s b).free && s.engine.armed != some b && s.engine.service != some b

/-- Objects of the open group and of commits not applied yet, oldest first. -/
def committedObjs (s : State) : List Obj := s.gate.committed.flatMap (·.objs)
def openObjs (s : State) : List Obj := committedObjs s ++ s.gate.group.getD []

/-- Places (base, length) that programs of a bank hold or will hold (R113 rule 1). -/
def usedPlaces (s : State) (b : Bool) : List (Nat × Nat) :=
  (getBank s b).progs.map (fun p => (p.base, p.len))
    ++ ((openObjs s).filter (fun o => o.sub == 4 && o.typ == 1 && objBank o.img == b)).map
        (fun o => (bits (im32 o.img 0) 15 0, bits (im32 o.img 4) 12 0))

/-- CONST (Table 3.8). -/
def constFaults (s : State) (img : List Byte) : List (Nat × Nat) :=
  let h := im32 img 0
  let n := im32 img 4
  if img.length < 4 then [(0, lSIZE)]
  else chk (decide (img.length < 8) || img.length != 8 + n) 0 lSIZE ++ chk (bits h 30 16 != 0) 0 lRESERVED
    ++ chk (!bankWritable s (objBank img) || bits h 15 0 % 8 != 0 || decide (bits h 15 0 + n > 65536)) 0 lPLACEMENT
    ++ chk (decide (n < 8) || decide (n > 65536) || n % 8 != 0) 4 lSIZE

/-- An entry as control software stages it (Table 3.1). -/
def entryOf (img : List Byte) (o : Nat) : EntryRec := { EntryRec.zero with start := im16 img o, rate := im32 img (o + 4) }

def entryCount (img : List Byte) : Nat := bits (im32 img 0) 15 8 + 1
def entryFirst (img : List Byte) : Nat := im8 img 0

/-- The staged entries with their indices. -/
def entryList (img : List Byte) : List (Nat × EntryRec) :=
  (List.range (entryCount img)).map (fun i => (entryFirst img + i, entryOf img (4 + 16 * i)))

/-- A bank with the contents of an object added (R112). -/
def bankApply (x : ProgBank) (o : Obj) : ProgBank :=
  match o.typ with
  | 1 =>
    let words := progWords o.img
    let base := bits (im32 o.img 0) 15 0
    let f := progFig words
    { x with words := ((List.range words.length).zip words).foldl (fun t e => tblSet 0#32 t (base + e.1) (BitVec.ofNat 32 e.2)) x.words
             progs := x.progs ++ [{ base := base, len := words.length, c := f.c, u := f.u, wc := f.wc }] }
  | 2 => { x with consts := memPut x.consts (bits (im32 o.img 0) 15 0) (imgBytes o.img 8 (im32 o.img 4)) }
  | 3 => { x with entries := (entryList o.img).foldl (fun t e =>
      let y := tblGet EntryRec.zero t e.1
      tblSet EntryRec.zero t e.1 { y with start := e.2.start, rate := e.2.rate }) x.entries }
  | _ => x

/-- A bank as it stands once the objects given are applied. -/
def bankWith (s : State) (b : Bool) (objs : List Obj) : ProgBank :=
  (objs.filter (fun o => o.sub == 4 && (o.typ == 1 || o.typ == 2 || o.typ == 3) && objBank o.img == b)).foldl bankApply (getBank s b)

/-- ENTRY (Table 3.8): to the bank in service only RATE may change. -/
def entryFaults (s : State) (img : List Byte) : List (Nat × Nat) :=
  if img.length < 4 then [(0, lSIZE)]
  else
    let n := entryCount img
    let b := objBank img
    let whole := decide (img.length = 4 + 16 * n) && decide (entryFirst img + n ≤ 256)
    let cur := bankWith s b (openObjs s)
    let keep := decide (s.engine.service = some b) && ((entryList img).take ((img.length - 4) / 16)).all (fun e =>
      decide (256 ≤ e.1) || (tblGet EntryRec.zero cur.entries e.1).start == e.2.start)
    chk (!whole) 0 lSIZE ++ chk (bits (im32 img 0) 30 16 != 0) 0 lRESERVED ++ chk (!bankWritable s b && !keep) 0 lPLACEMENT
        ++ (if whole then List.range n else []).flatMap (fun i =>
            let o := 4 + 16 * i
            chk (im16 img (o + 2) != 0) o lRESERVED ++ chk (im32 img (o + 8) != 0) (o + 8) lRESERVED
              ++ chk (im32 img (o + 12) != 0) (o + 12) lRESERVED)

/-- STAGE to the engine array: the reason and the word index of a refusal. -/
def stageEngine (s : State) (typ : Nat) (img : List Byte) : Option (Nat × Nat) :=
  match typ with
  | 1 => progFault img (bankWritable s (objBank img)) (usedPlaces s (objBank img)) s.bench.period
  | 2 => (pickFault (constFaults s img)).map (fun c => (c, 0))
  | 3 => (pickFault (entryFaults s img)).map (fun c => (c, 0))
  | _ => some (lTYPE, 0)

/-! ### Chains (R118) -/

/-- The words of a program in its bank. -/
def bankWords (x : ProgBank) (p : Prog) : List Nat := (List.range p.len).map (fun i => (tblGet 0#32 x.words (p.base + i)).toNat)

def bankIns (x : ProgBank) (p : Prog) : List LIns := lStarts 0 (bankWords x p)

/-- The program that an entry names. -/
def entryProg (x : ProgBank) (e : Nat) : Option Prog :=
  x.progs.find? (fun p => p.base == (tblGet EntryRec.zero x.entries e).start)

/-- Entries to which a program recirculates. -/
def recircEntries (x : ProgBank) (p : Prog) : List Nat :=
  (((bankIns x p).filter (fun i => i.op == 0x6c && fFn i.w == 2)).map (fun i => bits i.y 7 0)).eraseDups

/-- Sums along a chain: C, U, D with the recirculations, programs, and three times W in ns with the recirculations. -/
structure Chain3 where
  c : Nat
  u : Nat
  d : Nat
  n : Nat
  w3 : Nat

def Chain3.max (a b : Chain3) : Chain3 :=
  { c := Max.max a.c b.c, u := Max.max a.u b.u, d := Max.max a.d b.d, n := Max.max a.n b.n, w3 := Max.max a.w3 b.w3 }

def Chain3.zero : Chain3 := { c := 0, u := 0, d := 0, n := 0, w3 := 0 }

/-- The chains from a program, at most k programs long: the largest sums, and whether every chain ends within k. -/
def chains (x : ProgBank) : Nat → Prog → Chain3 × Bool
  | 0, _ => (Chain3.zero, false)
  | k + 1, p =>
    let subs := ((recircEntries x p).filterMap (entryProg x)).map (chains x k)
    let m := subs.foldl (fun a e =>
      a.max { e.1 with d := e.1.d + 282, w3 := e.1.w3 + 4500 }) Chain3.zero
    ({ c := p.c + m.c, u := p.u + m.u, d := Max.max p.c (ceilDiv p.u 8) + m.d, n := 1 + m.n, w3 := 2 * (p.wc + 8) + m.w3 },
     subs.all (·.2))

/-- Entries with RATE above zero. -/
def liveEntries (x : ProgBank) : List (Nat × EntryRec) := x.entries.filter (fun e => e.2.rate != 0)

/-- Tables and domains that the programs of a bank reference with TIER = 0: LPM flag and number. -/
def tierRefs (x : ProgBank) : List (Bool × Nat) :=
  x.progs.flatMap (fun p => ((bankIns x p).filter (fun i => (i.op == 0x65 || i.op == 0x66) && !bitOf i.y 31)).map
    (fun i => (i.op == 0x65 && fFn i.w == 1, bits i.y 7 0)))

/-- Whether the definitions place a table or domain in the DRAM tier, once the objects given are applied (R119). -/
def dramPlaced (s : State) (objs : List Obj) (r : Bool × Nat) : Bool :=
  let defs := objs.filter (fun o => o.sub == 5 && o.typ == (if r.1 then 3 else 1) && im8 o.img 0 == r.2)
  match defs.getLast? with
  | some o => bitOf (im32 o.img 0) 31 && bitOf (im32 o.img 0) (if r.1 then 30 else 26)
  | none =>
    if r.1 then (match tblGet none s.lookup.domains r.2 with | some d => d.dram | none => false)
    else (match tblGet none s.lookup.tables r.2 with | some t => t.defn.dram | none => false)

/-- P in force once the objects given are applied (R33). -/
def periodWith (s : State) (objs : List Obj) : Nat :=
  match (objs.filter (fun o => o.sub == 10 && o.typ == 5 && bitOf (im32 o.img 0) 31)).getLast? with
  | some o => bits (im32 o.img 0) 10 0
  | none => s.bench.period

/-- The admission of a program set (R119): failures as a whole, at offset 0. -/
def admitFaults (s : State) (objs : List Obj) (x : ProgBank) : List (Nat × Nat) :=
  let p := periodWith s objs
  let live := liveEntries x
  let named := live.filterMap (fun e => (entryProg x e.1).map (fun g => (e, g)))
  let sums := named.map (fun e => (e.1.2.rate, chains x 4 e.2))
  let slots : Nat := (sums.map (fun e => e.1 * 1000 * e.2.1.d)).sum
  let disp : Nat := (sums.map (fun e => e.1 * 1000 * e.2.1.n)).sum
  let missing := live.length != named.length
    || x.progs.any (fun g => (recircEntries x g).any (fun e => (entryProg x e).isNone))
  chk (decide (slots > 96000000000)) 0 lCAPACITY ++ chk (decide (disp > 1000000000)) 0 lRATE
    ++ chk (sums.any (fun e => !e.2.2 || decide (e.2.1.w3 > 1500 * p))) 0 lCHAIN
    ++ chk missing 0 lENTRY ++ chk ((tierRefs x).any (dramPlaced s objs)) 0 lTIER

/-! ### Prepare of the engine array -/

/-- Whether two packets of the bank not in service may still be in flight: its release has not come (R125). -/
def bankHeld (s : State) (b : Bool) : Bool := !(getBank s b).free

/-- BANK (Table 3.13); prev are the group's objects before it, objs all that this commit and earlier ones apply. -/
def bankFaults (s : State) (prev objs : List Obj) (b : Bool) : List (Nat × Nat) :=
  let x := bankWith s b objs
  chk (s.engine.armed.isSome || s.engine.service == some b || bankHeld s b || prev.any (fun o => o.sub == 4 && o.typ == 16)) 0 lBANKBUSY
    ++ chk ((liveEntries x).isEmpty) 0 lENTRY ++ admitFaults s objs x

/-- One object of the engine array at prepare: BANK, and an ENTRY that changes the bank in service (R118, R119). -/
def prepEngine (s : State) (prev objs : List Obj) (o : Obj) : List (Nat × Nat) :=
  match o.typ with
  | 16 => bankFaults s prev objs (o.arg == 1)
  | 3 => if s.engine.service = some (objBank o.img) then admitFaults s objs (bankWith s (objBank o.img) objs) else []
  | _ => []

/-- The bank in service, and the armed bank as it will stand at its switch: armed by an object given, or by a commit that has returned OK
and may apply later than they do. -/
def serviceBanks (s : State) (objs : List Obj) : List ProgBank :=
  let armed := match (objs.filter (fun o => o.sub == 4 && o.typ == 16)).getLast? with
    | some o => [bankWith s (o.arg == 1) objs]
    | none => s.engine.armed.toList.map (fun b => bankWith s b (committedObjs s))
  s.engine.service.toList.map (fun b => bankWith s b objs) ++ armed

/-- R32: a new P refused while a program in the bank in service or in an armed bank is slower than half of it. -/
def tickPeriodFaults (s : State) (objs : List Obj) (img : List Byte) : List (Nat × Nat) :=
  chk (bitOf (im32 img 0) 31 && (serviceBanks s objs).any (fun x => x.progs.any (fun p => tooSlow p.wc (bits (im32 img 0) 10 0)))) 0 lPERIOD

/-- Settles every entry bucket at the rates in force up to now (R85). -/
def settleBuckets (s : State) : State :=
  match s.engine.service with
  | none => s
  | some b =>
    let bk := (List.range 256).foldl (fun t e =>
      let x := tblGet entryBucketReset t e
      let r := (tblGet EntryRec.zero (getBank s b).entries e).rate
      let v := min 64000000000 (x.tokens + (s.localNs - x.upd) * r * 1000)
      if x.tokens = 64000000000 then t else tblSet entryBucketReset t e { tokens := v, upd := if v = 64000000000 then 0 else s.localNs }) s.engine.buckets
    { s with engine := { s.engine with buckets := bk } }

/-- An object of the engine array applies (step 2). -/
def applyEngine (s : State) (o : Obj) : State :=
  match o.typ with
  | 16 => { s with engine := { s.engine with deferred := true, switchDeferred := false } }
  | _ =>
    let s := if o.typ = 3 ∧ s.engine.service = some (objBank o.img) then settleBuckets s else s
    setBank s (objBank o.img) (bankApply (getBank s (objBank o.img)) o)

/-- Entries x with C, U and W_NS as the loader writes them for the bank g that prepare admits (R83, R118). -/
def fillEntries (g : ProgBank) (x : Tbl EntryRec) : Tbl EntryRec :=
  (liveEntries g).foldl (fun t e =>
    match entryProg g e.1 with
    | some p =>
      let c := (chains g 4 p).1
      tblSet EntryRec.zero t e.1 { tblGet EntryRec.zero t e.1 with c := min c.c 65535, u := min c.u 65535, wns := ceilDiv c.w3 3 }
    | none => t) x

/-- The banks of a group's BANK objects. -/
def groupBanks (group : List Obj) : List Bool := (group.filter (fun o => o.sub == 4 && o.typ == 16)).map (fun o => o.arg == 1)

/-- Prepare of a commit that contains a BANK object writes C, U and W_NS of that bank's entries (R83). -/
def loaderWrites (s : State) (group objs : List Obj) : State :=
  (groupBanks group).foldl (fun s b =>
    let x := getBank s b
    setBank s b { x with entries := fillEntries (bankWith s b objs) x.entries }) s

/-- An abort of that commit takes the fields back (R18). -/
def loaderClears (s : State) (group : List Obj) : State :=
  (groupBanks group).foldl (fun s b =>
    let x := getBank s b
    setBank s b { x with entries := x.entries.foldl (fun t e => tblSet EntryRec.zero t e.1 { e.2 with c := 0, u := 0, wns := 0 }) x.entries }) s

/-! ### The bank switch (R37, R123, R124) -/

/-- Packets in flight under a bank. -/
def inFlight (s : State) (b : Bool) : Nat :=
  (s.engine.threads.filter (fun e =>
    (match e.2.pkt with | some p => p.dispatched && p.bank == b | none => false)
      || (match e.2.reserved with | some p => p.dispatched && p.bank == b | none => false))).length

/-- The old bank is emptied and released once no packet is in flight under it (R37, R123). -/
def releaseOld (s : State) : State :=
  match s.engine.service with
  | none => s
  | some b =>
    let o := !b
    if (getBank s o).free = false ∧ inFlight s o = 0 then setBank s o ProgBank.reset else s

/-- The armed switch is performed (R123). -/
def switchBank (s : State) (b : Bool) : State :=
  let s := settleBuckets s
  let old := s.engine.service
  let s := setBank s b { getBank s b with free := false }
  let s := { s with engine := { s.engine with service := some b, armed := none, deferred := false } }
  match old with
  | some o => if o = b then s else setBank s o { getBank s o with free := false }
  | none => s

end Sys2Proof.Machine
end

