-- ==== Sys2Proof/Machine/HostOps.lean ====
section
/-! DEFINITION. Machine/HostOps.lean: host memory, the vectors of the host port, and the delivery of punted frames
to queue pairs and to the Triad's punt ring (R485 to R490). -/

namespace Sys2Proof.Machine

/-- n little-endian bytes of host memory. -/
def hostRead (s : State) (a n : Nat) : Nat := leNat (memBytes s.host.hostMem a n)

def hostWrite (s : State) (a : Nat) (b : List Byte) : State :=
  { s with host := { s.host with hostMem := memPut s.host.hostMem a b } }

/-- MSI-X vector v fires (R485). -/
def fireMsix (s : State) (v : Nat) : State :=
  { s with host := { s.host with msix := tblSet 0 s.host.msix v (tblGet 0 s.host.msix v + 1) } }

def getPair (s : State) (q : Nat) : QPair := tblGet (QPair.reset q) s.host.pairs q
def setPair' (s : State) (q : Nat) (x : QPair) : State :=
  { s with host := { s.host with pairs := tblSet (QPair.reset q) s.host.pairs q x } }

/-- Master of a pair's DMA queue group (R486). -/
def pairMaster (x : QPair) : Nat := 0x221 + x.group

/-- Whether a pair may move an entry: enabled, not stopped, its group not frozen, and the host reachable (R408, R415). -/
def pairRuns (s : State) (x : QPair) : Bool :=
  x.en && !x.stopped && !isFrozen s (pairMaster x) && s.host.linkUp && !s.fence.hostStall

/-- The device's words of a punt descriptor from 0x0C on (Table 17.2); f is DONE, IRQ and TRUNC. -/
def puntWords (p : Packet) (reason f : Nat) : List Byte :=
  leBytes 4 f ++ leBytes 4 (reason % 65536 * 65536 + p.len * 4) ++ leBytes 4 (p.partner * 2 ^ 20 + p.src * 2 ^ 14 + p.rule)
    ++ leBytes 4 (p.epoch * 2 ^ 24 + p.entry * 2 ^ 16) ++ leBytes 4 0 ++ imgBytes p.stamp 0 16 ++ leBytes 8 (p.rxTime % 2 ^ 48) ++ leBytes 8 0

/-- The stored frame of a packet with its FCS. -/
def puntFrame (s : State) (p : Packet) : List Byte := withFcs (frameBytes s p.handle (p.len - 4))

/-- A punt to queue pair q (R488). -/
def puntHost (s : State) (q reason : Nat) (p : Packet) : State :=
  let x := getPair s q
  let a := x.rxBase + 64 * x.rxHead
  let len := hostRead s (a + 8) 2
  if pairRuns s x = false ∨ x.rxHead = x.rxTail then setPair' s q { x with puntDrop := sat 16 (x.puntDrop + 1) }
  else if p.len > len then setPair' s q { x with puntTooLong := sat 16 (x.puntTooLong + 1) }
  else
    let irq := bitOf (hostRead s (a + 0x0C) 4) 30
    let s := hostWrite s (hostRead s a 8) (puntFrame s p)
    let s := hostWrite s (a + 0x0C) (puntWords p reason (2 ^ 31 + b2n irq * 2 ^ 30))
    let s := setPair' s q { x with rxHead := (x.rxHead + 1) % 2 ^ x.rxSize }
    if irq then fireMsix s (4 + q) else s

/-- A punt to the Triad's punt ring (R490). -/
def puntTriad (s : State) (reason : Nat) (p : Packet) : State :=
  let h := s.host
  if (h.tpTail + 1) % 8192 = h.tpHead then { s with host := { h with tpDrop := sat 32 (h.tpDrop + 1) } }
  else
    let o := 2048 * h.tpTail
    let d := leBytes 8 0 ++ leBytes 4 0 ++ puntWords p reason (2 ^ 31 + b2n (decide (p.len > 1984)) * 2 ^ 29)
    let m := memPut (memPut h.tpRing o d) (o + 0x40) ((puntFrame s p).take 1984)
    { s with host := { h with tpRing := m, tpTail := (h.tpTail + 1) % 8192 } }

end Sys2Proof.Machine
end

