-- ==== Sys2Proof/Machine/FaceEvents.lean ====
section
/-! DEFINITION. Machine/FaceEvents.lean: the events of Face's front ends, transceivers and calibration engines
(R281, R307, R321 to R338). -/

namespace Sys2Proof.Machine

/-- R321, R320. -/
def execPhyLinkOk (node : Fin 56) (speed : Fin 9) (leader eee : Bool) (fec : Fin 5) (s : State) : Host.Outcome State Fault Refusal :=
  let k := node.val - 48
  .next (if 48 ≤ node.val ∧ bitOf s.fabric.laneMask k then laneLinkUp s k else linkOk s node speed leader eee fec)

/-- R321. -/
def execPortNodeUp (node : Fin 56) (s : State) : Host.Outcome State Fault Refusal := .next (nodeUp s node)

/-- R281: verification succeeds on an up port that asks for it. -/
def execPreemptVerifyDone (node : Fin 32) (s : State) : Host.Outcome State Fault Refusal :=
  let p := getPort s node
  .next (if p.verify ∧ p.preempt ≠ 0 ∧ lineUp s node then setPort s node { p with verified := true } else s)

/-- R325: PLCA becomes inactive, except on the coordinator, which sends the beacon (R324). -/
def execPlcaBeaconLost (seg : Fin 16) (s : State) : Host.Outcome State Fault Refusal :=
  let x := getPlca s seg
  .next (if x.active ∧ x.nodeId ≠ 0 then bump (setPlca s seg { x with active := false }) .plcaLost seg 1 else s)

/-- R324, R325, R340: a beacon starts a cycle, in which the device has one transmit opportunity; collisions are those since the last
beacon, which count where PLCA was active. -/
def execPlcaBeaconRx (seg : Fin 16) (s : State) (collisions : BitVec 16 := 0#16) : Host.Outcome State Fault Refusal :=
  let x := getPlca s seg
  .next (if x.en then
      let s := if x.active then bump s .plcaCollisions seg collisions.toNat else s
      setPlca s seg { x with active := true, left := x.burstCnt + 1 }
    else s)

/-- A front end's request for a recalibration (R333, R334): one in TC10 SLEEP calibrates before it trains at the wake.  One without a
link otherwise asks for none (log entry 210, DESIGN CHOICE). -/
def recalRequest (s : State) (m : Nat) : State :=
  let x := getFp s m
  if x.enable ∧ tempGap (nodeTemp s m) x.calTemp > s.face.recalDelta then
    if x.tc10 = 2 then setFp s m { x with calibrated := false }
    else if x.link ∧ x.recal = 0 then setFp s m { x with recal := 1 }
    else s
  else s

/-- R333: the four quadrant sensors are sampled. -/
def execTempSample (t0 t1 t2 t3 : Byte) (s : State) : Host.Outcome State Fault Refusal :=
  let t := [t0, t1, t2, t3].zipIdx.foldl (fun (t : Tbl Nat) e => tblSet 0 t e.2 e.1.toNat) []
  let s := { s with face := { s.face with temp := t } }
  .next ((List.range 56).foldl recalRequest s)

/-- The node that an idle engine serves next among those that wait (R333, R412). -/
def engineNext (s : State) (ok : FacePort → Bool) : Option Nat :=
  if s.face.engines.length < 4 then (rotated 56 s.bench.arbTick).find? (fun m => ok (getFp s m)) else none

/-- R333. -/
def execRecalStart (s : State) : Host.Outcome State Fault Refusal :=
  .next (match engineNext s (fun x => x.recal == 1 && x.link) with
    | some m =>
      let s := setFp s m { getFp s m with recal := 2 }
      { s with face := { s.face with engines := s.face.engines ++ [m] } }
    | none => s)

/-- R333: CAL_TEMP is updated and RECAL_DONE posted. -/
def execRecalDone (node : Fin 56) (s : State) : Host.Outcome State Fault Refusal :=
  let x := getFp s node
  .next (if x.recal = 2 then
      let t := nodeTemp s node
      let s := setFp s node { x with recal := 0, calTemp := t }
      let s := { s with face := { s.face with engines := s.face.engines.filter (· != node.val) } }
      faceEvent (bump s .recalDone node 1) 0x54 0 node t
    else s)

/-- R333, R336: an engine takes a waiting cable test when no recalibration waits. -/
def execCableTestStart (s : State) : Host.Outcome State Fault Refusal :=
  .next (match engineNext s (fun x => x.recal == 1 && x.link), engineNext s (fun x => x.test == 1) with
    | none, some m =>
      let s := setFp s m { getFp s m with test := 2 }
      { s with face := { s.face with engines := s.face.engines ++ [m] } }
    | _, _ => s)

/-- R336: RESULT 1 to 5 and the distance. -/
def execCableResult (node : Fin 48) (result : Fin 6) (dist : BitVec 16) (s : State) : Host.Outcome State Fault Refusal :=
  let x := getFp s node
  .next (if x.test = 2 ∧ result.val ≠ 0 then
      let s := setFp s node { x with test := 0, result := result, dist := dist.toNat }
      let s := { s with face := { s.face with engines := s.face.engines.filter (· != node.val) } }
      faceEvent s 0x52 0 node (result.val * 2 ^ 29 + dist.toNat)
    else s)

/-- SQI of a margin in 0.1 dB (R335). -/
def sqiOf (margin : BitVec 16) : Nat := if margin.toInt < 0 then 0 else min 7 (1 + (margin.toInt / 10).toNat)

/-- R335; M ports report zero. -/
def execSqiMeasure (node : Fin 56) (margin : BitVec 16) (s : State) : Host.Outcome State Fault Refusal :=
  let x := getFp s node
  .next (if x.link ∧ (node.val < 32 ∨ 48 ≤ node.val) then setFp s node { x with margin := margin.toNat, sqi := sqiOf margin } else s)

/-- Table 10.6: the partner acknowledges within 16 ms. -/
def execTc10PartnerAck (node : Fin 32) (s : State) : Host.Outcome State Fault Refusal :=
  let x := getFp s node
  .next (if x.tc10 = 1 ∧ s.localNs ≤ x.tc10At + 16000000 then tc10Sleep s node 1 else s)

/-- Table 10.6: 16 ms pass without an acknowledgement. -/
def execTc10SleepTimeout (node : Fin 32) (s : State) : Host.Outcome State Fault Refusal :=
  let x := getFp s node
  .next (if x.tc10 = 1 then
      let s := advance s (x.tc10At + 16000000 - s.localNs)
      sleepHeld (faceEvent (setFp s node { x with tc10 := 0 }) 0x53 3 node 0) node
    else s)

/-- Table 10.6. -/
def execTc10PartnerRefuse (node : Fin 32) (s : State) : Host.Outcome State Fault Refusal :=
  let x := getFp s node
  .next (if x.tc10 = 1 then sleepHeld (faceEvent (setFp s node { x with tc10 := 0 }) 0x53 4 node 0) node else s)

/-- Table 10.6, R446: a masked node of an AGREED sleep accepts. -/
def execTc10PartnerSleepReq (node : Fin 32) (s : State) : Host.Outcome State Fault Refusal :=
  let x := getFp s node
  .next (if x.tc10En = false then s
    else if x.tc10 = 1 then tc10Sleep s node 1
    else if x.tc10 = 0 ∧ x.link then
      -- a request that coincides with a local WAKE is refused (R338)
      if (x.acceptSleep ∨ sleepMasked s node) ∧ x.wakeAt ≠ some s.localNs then tc10Sleep s node 2 else faceEvent s 0x53 8 node 0
    else s)

/-- Table 10.6, R338: a wake-up pulse. -/
def execTc10WakePulseRx (node : Fin 32) (s : State) : Host.Outcome State Fault Refusal :=
  let x := getFp s node
  .next (if wakeReturns s x then s
    else if x.tc10 = 2 then
      let s := faceEvent (bump (tc10Train s node) .tc10Wakes node 1) 0x53 6 node 0
      wake (tc10Forward s node) 8 node
    else if x.tc10 = 1 then
      let s := faceEvent (bump (setFp s node { x with tc10 := 0 }) .tc10Wakes node 1) 0x53 5 node 0
      wake (tc10Forward s node) 8 node
    else s)

/-- Table 10.6, R338: a wake-up request; in SLEEP it is a wake source all the same (Table 15.8). -/
def execTc10WakeRequestRx (node : Fin 32) (s : State) : Host.Outcome State Fault Refusal :=
  let x := getFp s node
  .next (if x.tc10En = false ∨ wakeReturns s x then s
    else if x.tc10 = 0 then tc10Forward (faceEvent (bump s .tc10Wakes node 1) 0x53 7 node 0) node
    else if x.tc10 = 1 then
      let s := faceEvent (bump (setFp s node { x with tc10 := 0 }) .tc10Wakes node 1) 0x53 5 node 0
      wake (tc10Forward s node) 8 node
    else if x.tc10 = 2 then wake s 8 node
    else s)

/-! ### CAN and LIN transceivers (R327 to R329) -/

/-- PORT of a transceiver in Face events (Table 10.12): channel c, or 16 + l. -/
def busPortCode (c : Nat) : Nat := if c < 16 then 0x80 + c else 0xC0 + (c - 16)

/-- R328: TXD dominant past its timeout in Normal, or recessive again. -/
def execTxdTimeout (ch : Fin 24) (s : State) (on : Bool := true) : Host.Outcome State Fault Refusal :=
  let x := getPhy s ch
  .next (if on = false then setPhy s ch { x with txdOn := false }
    else if x.mode = 1 then
      faceEvent (bump (setPhy s ch { x with txdTimeout := true, held := true, txdOn := true }) .txdTimeouts ch 1) 0x55 1 (busPortCode ch) 0
    else s)

/-- R328: overtemperature, or its end. -/
def execThermalShutdown (ch : Fin 24) (s : State) (on : Bool := true) : Host.Outcome State Fault Refusal :=
  let x := getPhy s ch
  .next (if on = false then setPhy s ch { x with hotOn := false }
    else faceEvent (setPhy s ch { x with thermal := true, held := true, hotOn := true }) 0x55 2 (busPortCode ch) 0)

/-- R328, R329: a short to ground or to the supply, or its end; LIN does not detect one to ground. -/
def execBusShort (ch : Fin 24) (s : State) (ground : Bool := false) (on : Bool := true) : Host.Outcome State Fault Refusal :=
  let x := getPhy s ch
  .next (if 16 ≤ ch.val ∧ ground then s
    else if on = false then setPhy s ch { x with shortOn := false }
    else faceEvent (bump (setPhy s ch { x with short := true, held := true, shortOn := true }) .busShorts ch 1) 0x55 3 (busPortCode ch) 0)

/-- R328, R450: a wake-up pattern in Standby. -/
def execBusWakePattern (ch : Fin 24) (s : State) : Host.Outcome State Fault Refusal :=
  let x := getPhy s ch
  .next (if (ch.val < 16 ∧ x.mode = 3 ∧ x.wakeEn) ∨ (16 ≤ ch.val ∧ x.mode = 2) then
      let s := faceEvent (setPhy s ch { x with wakeSeen := true }) 0x55 4 (busPortCode ch) 0
      if ch.val < 16 then wake s 6 ch else wake s 7 (ch.val - 16)
    else s)

/-- A transceiver under a new record: status bits clear and a hold ends, except where a condition of R328 lasts. -/
def phyRecord (x y : BusPhy) : BusPhy :=
  { y with txdTimeout := x.txdOn, thermal := x.hotOn, short := x.shortOn, held := x.txdOn || x.hotOn || x.shortOn
           txdOn := x.txdOn, hotOn := x.hotOn, shortOn := x.shortOn }

/-- A transceiver's new MODE: while a start without a Spall set waits for BOOT_DONE the transceiver stays Off, and the MODE acts as
BOOT_DONE applies (R431; log entry 213, DESIGN CHOICE). -/
def phyMode (s : State) (mode : Nat) (x : BusPhy) : BusPhy :=
  if s.gh.mode = .waking ∧ s.gh.resuming = false ∧ (s.vault.boot.spall = false ∨ s.relay.spallBad) then { x with mode := 0, later := mode }
  else { x with mode := mode, later := 0 }

/-- A CAN_PHY record (Table 10.7) applies (R328). -/
def applyCanPhy (s : State) (r : List Byte) : State :=
  let w := im32 r 0
  let c := bits w 31 28
  setPhy s c (phyRecord (getPhy s c) (phyMode s (bits w 27 26) { BusPhy.reset with fastEn := bitOf w 25, wakeEn := bitOf w 24 }))

/-- A LIN_PHY record (Table 10.8) applies. -/
def applyLinPhy (s : State) (r : List Byte) : State :=
  let w := im32 r 0
  let c := 16 + bits w 31 29
  setPhy s c (phyRecord (getPhy s c) (phyMode s (bits w 28 27) { BusPhy.reset with commander := bitOf w 26, slope := bitOf w 25 }))

end Sys2Proof.Machine
end

