-- ==== Sys2Proof/Machine/Screen.lean ====
section
/-! DEFINITION. Machine/Screen.lean: the stages of Screen, ingress stamps, 802.1CB recovery, contracts, numbering and
dispatch (R126 to R162, R304 to R308, R346, R348, R395). -/

namespace Sys2Proof.Machine

/-! ### Ingress stamps (R304 to R308) -/

/-- How long ago, in ps, the first bit of a received frame of n bytes came: as the line says of a frame received in fragments, else its
bytes at the rate of node m (R281, R304). -/
def sinceFirst (s : State) (m n : Nat) (line : RxLine) : Nat := match line.elapsed with
  | some x => x.toNat
  | none => n * bytePs s m

/-- The capture of a frame received on node m whose first bit came so many ps ago (R304, R305). -/
def ingressCapture (s : State) (ps : Nat) : TimeSnap := captureAt s (s.localNs * 1000 - ps)

/-- The ingress stamp of a capture in a base, in 2^-16 ns (R304, R305). -/
def ingressStamp (m tb : Nat) (x : TimeSnap) : Nat :=
  let t := tblGet TsPort.reset x.ports m
  let corr : Int := if m < 56 then ((t.rxLat : Int) + t.asym) * 65536 / 1000 else 0
  (tbWrap (((snapBase x tb).value / 65536 - corr) * 65536) / 65536).toNat

/-- RX_TIME of a capture: its ingress stamp in T0 as a short time (R308). -/
def rxTimeOf (m : Nat) (x : TimeSnap) : Nat := ingressStamp m 0 x / 65536 % 2 ^ 48

/-- The ingress stamp record of Table 9.6. -/
def stampRecord (m : Nat) (x : TimeSnap) : List Byte :=
  let tb := if m < 56 then (tblGet TsPort.reset x.ports m).stampTb else 0
  let b := snapBase x tb
  let v := ingressStamp m tb x
  let ns := v / 65536
  let sec := ns / 1000000000 % 2 ^ 48
  leBytes 4 (tb * 2 ^ 30 + b2n (!b.running) * 2 ^ 29 + b.stepSeq % 256) ++ leBytes 4 (ns % 1000000000) ++ leBytes 4 (sec % 2 ^ 32)
    ++ leBytes 4 (v % 65536 * 65536 + sec / 2 ^ 32)

/-! ### Rule set tables (Tables 4.2 to 4.12) -/

/-- A big-endian bit field of a window: k bits from bit s, bit 0 the most significant of byte 0; bytes past the
window read zero (R132). -/
def bitField (win : List Byte) (s k : Nat) : Nat :=
  let b0 := s / 8
  let n := (s + k - 1) / 8 + 1 - b0
  beNat (imgBytes win b0 n) / 2 ^ (8 * n - s % 8 - k) % 2 ^ k

def portGroup (r : RuleSet) (m : Nat) : Nat := rsField r (0x40 + m) 1 % 16

/-- Profile selection (R130). -/
def selectProfile (r : RuleSet) (m : Nat) (b : List Byte) : Nat :=
  let g := portGroup r m
  let t12 := beNat (imgBytes b 12 2)
  let t16 := beNat (imgBytes b 16 2)
  let hit (i : Nat) : Bool :=
    let o := 0x100 + 16 * i
    let w := rsField r o 4
    let x := rsField r (o + 4) 4
    let y := rsField r (o + 8) 4
    bitOf w 31 && bitOf w g && (t12 &&& bits x 15 0) == (bits x 31 16 &&& bits x 15 0)
      && (t16 &&& bits y 15 0) == (bits y 31 16 &&& bits y 15 0)
  match (List.range 128).find? hit with
  | some i => bits (rsField r (0x100 + 16 * i) 4) 21 16
  | none => rsField r (0x80 + g) 1 % 64

def profileWord (r : RuleSet) (p o : Nat) : Nat := rsField r (0x900 + 160 * p + o) 4

/-- Extractor outputs e(0) to e(31) (R132). -/
def extract (r : RuleSet) (p : Nat) (b : List Byte) : List Nat :=
  (List.range 32).map (fun i =>
    let w := profileWord r p (0x20 + 4 * i)
    if bitOf w 31 then bitField (b.take 256) (8 * bits w 15 8 + bits w 18 16) (bits w 29 24 + 1) else 0)

/-- LEN_CONFLICT and DEEP (R135). -/
def shapeFlags (r : RuleSet) (p n : Nat) (e : List Nat) : Bool × Bool :=
  let x (i : Nat) : Nat := e.getD i 0
  let lc := (List.range 4).any (fun j =>
    let c := profileWord r p (0x10 + 4 * j)
    let v : Int := ((x (bits c 29 25) * 2 ^ bits c 24 23 : Nat) : Int) + sgn 8 (bits c 7 0)
    let lim : Int := (n : Int) - 4 - bits c 15 8
    match bits c 31 30 with
    | 1 => decide (v ≠ lim)
    | 2 => decide (v > lim)
    | 3 => decide (v > ((x (bits c 22 18) * 2 ^ bits c 17 16 : Nat) : Int))
    | _ => false)
  let w := profileWord r p 4
  let stop := bits w 8 0 + if bitOf w 31 then x (bits w 30 26) * 2 ^ bits w 25 24 else 0
  (lc, decide (stop > 256))

/-- The rule key K (Table 4.10). -/
def ruleKey (r : RuleSet) (p m partner : Nat) (e : List Nat) : Nat :=
  let w := profileWord r p 8
  let sel (k : Nat) : Nat :=
    let b := w / 2 ^ (8 * k) % 256
    if bitOf b 7 then e.getD (bits b 6 2) 0 / 2 ^ (16 * (b % 4)) % 65536 else 0
  p * 2 ^ 58 + m * 2 ^ 52 + partner * 2 ^ 40 + sel 0 * 2 ^ 24 + sel 1 * 2 ^ 8 + sel 2 % 256

/-- The result of comparator c (R142). -/
def comparator (r : RuleSet) (e : List Nat) (c : Nat) : Bool :=
  let o := 0x3100 + 16 * c
  let w := rsField r o 4
  let wide := bitOf (rsField r 8 4) (c / 16)
  let v := e.getD (bits w 6 2) 0
  let x := if wide then v / 2 ^ (32 * (w % 4)) % 2 ^ 32 else v / 2 ^ (16 * (w % 4)) % 2 ^ 16
  bitOf w 31 && decide (rsField r (o + 8) 4 ≤ x) && decide (x ≤ rsField r (o + 12) 4)

/-- Whether rule i matches (R144). -/
def ruleMatches (r : RuleSet) (e : List Nat) (k i : Nat) : Bool :=
  let o := 0x4100 + 32 * i
  let u := rsField r (o + 0x18) 4
  let cmp := rsField r (o + 0x10) 8
  bitOf (rsField r (o + 0x1C) 4) 31 && (k &&& rsField r (o + 8) 8) == rsField r o 8
    && (List.range 8).all (fun j => !bitOf u (24 + j) || (comparator r e (cmp / 2 ^ (8 * j) % 256) != bitOf u (16 + j)))

/-- The winning rule, if any (R145). -/
def winningRule (r : RuleSet) (e : List Nat) (k : Nat) : Option Nat :=
  ((List.range (rsField r 4 4 % 2 ^ 15)).filter (ruleMatches r e k)).foldl (fun best i =>
    match best with
    | none => some i
    | some b => if bits (rsField r (0x4100 + 32 * i + 0x18) 4) 15 0 > bits (rsField r (0x4100 + 32 * b + 0x18) 4) 15 0 then some i else some b) none

/-! ### Partners and contracts (R139, R346 to R348) -/

/-- The partner of an identity word (R139). -/
def mapPartner (s : State) (r : RuleSet) (m ident : Nat) : Nat :=
  match s.screen.partnerMap.find? (fun x => bitOf x.groups (portGroup r m) && decide (x.low ≤ ident) && decide (ident ≤ x.high)) with
  | some x => x.partner
  | none => tblGet 0 s.screen.defPartner m

/-- A breach of a contract: code 1 PORT, 2 CEILING, 3 ZONE (R348, Table 11.14). -/
def breach (s : State) (partner code node : Nat) : State :=
  let s := violatePartner (bump s .breaches partner 1) partner
  postEvent s 11 [0x60 * 2 ^ 24 + code * 2 ^ 16 + partner, tick32 s, node, 0]

def getContract (s : State) (p : Nat) : Option Contract := tblGet none s.relay.contracts p

/-- Adds a frame to the partner's count of this tick. -/
def countPartner (s : State) (p : Nat) : State :=
  { s with relay := { s.relay with counts := tblSet 0 s.relay.counts p (tblGet 0 s.relay.counts p + 1) } }

/-- The contract checks of Table 11.4: whether the frame continues. -/
def contractCheck (s : State) (p m n : Nat) : State × Bool :=
  match getContract s p with
  | none => (s, true)
  | some c =>
    if bitOf c.portMask m = false then (bump (breach s p 1 m) .contractDrop p 1, false)
    else if c.frameCeil ≠ 0 ∧ tblGet 0 s.relay.counts p ≥ c.frameCeil then (bump (breach s p 2 m) .contractDrop p 1, false)
    else
      let s := countPartner s p
      if c.polEn then
        let r := meter s c.policer n 3
        if r.2.ok ∧ r.2.colour = 2 then (bump r.1 .contractRed p 1, false) else (r.1, true)
      else (s, true)

/-- The zone check of R347 toward a queue, under the frame's epoch: whether the zone is allowed. -/
def zoneAllowed (s : State) (p : Packet) (q : Nat) : Bool :=
  match getContract s p.partner, queuePort s q with
  | some c, some m => bitOf c.zoneMask (portZone s p.epoch m)
  | _, _ => true

/-! ### 802.1CB recovery (R395) -/

/-- VID of a frame: that of a tag at byte 12, zero without one. -/
def frameVid (b : List Byte) : Nat :=
  let t := beNat (imgBytes b 12 2)
  if t = 0x8100 ∨ t = 0x88A8 then beNat (imgBytes b 14 2) % 4096 else 0

/-- What recovery decides on a frame. -/
inductive RecRes where
  | pass
  | duplicate
  | rogue
  deriving DecidableEq, Repr

/-- The vector recovery algorithm on a number (R395). -/
def vectorRecover (x : Recovery) (n : Nat) : RecRes × Recovery :=
  match x.last with
  | none => (.pass, { x with last := some n, seen := 1, idle := 0 })
  | some l =>
    let d := sgn 16 ((n + 65536 - l) % 65536)
    if d ≥ x.history ∨ d ≤ -(x.history : Int) then (.rogue, x)
    else if d ≤ 0 then
      let k := (-d).toNat
      if bitOf x.seen k then (.duplicate, x) else (.pass, { x with seen := x.seen ||| 2 ^ k, idle := 0 })
    else (.pass, { x with last := some n, seen := (x.seen * 2 ^ d.toNat + 1) % 2 ^ x.history, idle := 0 })

/-- Recovery of a frame on stage 1: whether it continues, and its bytes. -/
def recoverFrame (s : State) (m : Nat) (b : List Byte) : State × Option (List Byte) :=
  if m = 56 ∨ m = 57 then (s, some b)
  else
    match s.pair.recovery.find? (fun e => match e.2 with
      | some x => x.da == beNat (imgBytes b 0 6) && x.vid == frameVid b
      | none => false) with
    | none => (s, some b)
    | some (f, o) =>
      match o with
      | none => (s, some b)
      | some x =>
        let setF (s : State) (x : Recovery) : State := { s with pair := { s.pair with recovery := tblSet none s.pair.recovery f (some x) } }
        let o := tagOffset b (b.length / 4) 12
        if beNat (imgBytes b o 2) = 0xF1C1 then
          match vectorRecover x (beNat (imgBytes b (o + 4) 2)) with
          | (.pass, x) =>
            (bump (setF s x) .seqPassed f 1, some (if x.strip then withFcs ((b.take o ++ b.drop (o + 6)).take (b.length - 10)) else b))
          | (.duplicate, _) => (bump s .seqDiscard f 1, none)
          | (.rogue, _) => (bump s .seqRogue f 1, none)
        else if x.takeNoSeq then (bump (setF s { x with idle := 0 }) .seqPassed f 1, some b)
        else (bump s .seqDiscard f 1, none)

/-! ### Metering of entries (R84, R85) -/

/-- The entry in the bank in service, if a bank is in service. -/
def serviceEntry (s : State) (e : Nat) : Option EntryRec :=
  s.engine.service.map (fun b => tblGet EntryRec.zero (getBank s b).entries e)

/-- A bucket of an entry refilled at a rate in 1,000 packets per second. -/
def refillEntry (s : State) (e rate : Nat) : Bucket :=
  let b := tblGet entryBucketReset s.engine.buckets e
  { tokens := min 64000000000 (b.tokens + (s.localNs - b.upd) * rate * 1000), upd := s.localNs }

def setBucket (s : State) (e : Nat) (b : Bucket) : State :=
  { s with engine := { s.engine with buckets := tblSet entryBucketReset s.engine.buckets e b } }

/-- Stage 7: whether the entry admits the packet. -/
def meterEntry (s : State) (e : Nat) : State × Bool :=
  match serviceEntry s e with
  | none => (bump s .entryDrop e 1, false)
  | some r =>
    if r.rate = 0 then (bump s .entryDrop e 1, false)
    else
      let b := refillEntry s e r.rate
      if b.tokens < 1000000000 then (bump (setBucket s e b) .admitDrop e 1, false)
      else (setBucket s e { b with tokens := b.tokens - 1000000000 }, true)

/-! ### Stages 8 and 9 (R153, R157, R200) -/

/-- Whether source m may take its next number. -/
def windowOpen (s : State) (m : Nat) : Bool :=
  match getReorder s m with
  | [] => true
  | e :: _ => decide ((tblGet 0 s.screen.seqCtr m + 65536 - e.num) % 65536 < 2048)

/-- The descriptor of a packet's enqueue on a queue. -/
def packetDesc (s : State) (p : Packet) (q template dp : Nat) (cut spec copy : Bool) : Desc :=
  { idx := p.desc, handle := p.handle, spec := spec, cut := cut, len := p.len, dp := dp, copy := copy, template := template,
    queue := q, seq := p.seq.getD 0, src := p.src, rxTime := p.rxTime, cells := cellsFor p.len, order := p.seq, partner := p.partner,
    arrVc := p.arrVc, mark := none, cbSeq := none, since := s.localNs, lastBit := p.lastBit, info := 0 }

/-- Stage 9: the probe of an offered frame and its speculative enqueue (R200). -/
def offerProbe (s : State) (p : Packet) : State × Packet :=
  if p.pass = 0 ∧ p.lenConflict = false ∧ p.deep = false ∧ p.noSpec = false ∧ p.seq.isSome then
    let s := bump s .probes p.src 1
    let p := { p with offered := true }
    match probe s p with
    | none => (s, p)
    | some (v, x) =>
      let p := { p with specQueue := x.queue, specTemplate := x.template, specDp := x.dp, specWay := v }
      let r := enqueue s (packetDesc s p x.queue x.template x.dp false true false)
      (r.1, { p with spec := if r.2 then .standing else .refused })
  else (s, p)

/-- Stage 8 for the oldest waiting frame of a source, then stage 9 and the dispatch queue; up to n frames. -/
def assignWaiting (m : Nat) : Nat → State → State
  | 0, s => s
  | n + 1, s =>
    match s.screen.waiting.find? (fun p => p.src == m) with
    | none => s
    | some p =>
      if windowOpen s m then
        let k := tblGet 0 s.screen.seqCtr m
        let s := { s with screen := { s.screen with
          waiting := s.screen.waiting.erase p, seqCtr := tblSet 0 s.screen.seqCtr m ((k + 1) % 65536) } }
        let s := setReorder s m (getReorder s m ++ [{ num := k, filled := false, ready := none }])
        let r := offerProbe s { p with seq := some k }
        assignWaiting m n { r.1 with screen := { r.1.screen with dispatchQ := r.1.screen.dispatchQ ++ [r.2] } }
      else s

/-! ### Stages 2 to 7 -/

/-- What hands a frame to Screen: its source, bytes, identity word, stamps and path. -/
structure Arrival where
  src : Nat
  bytes : List Byte
  ident : Nat
  handle : Nat
  desc : Nat
  rxTime : Nat
  stamp : List Byte
  arrVc : Option Nat
  sa : Option Nat
  bad : Bool
  /-- egress stamp that a host's TX entry requests -/
  req : Option (Nat × Nat) := none

/-- Stages 2 to 6 of a pass under a rule set: profile, extraction and flags (R130 to R137). -/
def shapePass (r : RuleSet) (m : Nat) (b : List Byte) : Nat × List Nat × Bool × Bool :=
  let p := selectProfile r m b
  let e := extract r p b
  (p, e, shapeFlags r p b.length e)

/-- Whether a profile drops frames with flags set (R136), and the counter. -/
def flagDrop (r : RuleSet) (p : Nat) (lc deep : Bool) : Option Ctr :=
  if bitOf (profileWord r p 0) 31 then none
  else if lc then some .lenConflictDrop
  else if deep then some .deepDrop
  else none

/-- Stages 1 to 9 of a first pass (Table 4.1). -/
def screenFrame (s : State) (a : Arrival) : State :=
  let n := a.bytes.length
  let gone (s : State) : State := discardStored s a.handle a.desc
  if isSafe s then gone s
  else if a.bad ∨ n < 64 ∨ n > 16383 then gone (bump s .discardErr a.src 1)
  else
    -- without a rule set every frame counts here, whatever recovery would find (R162)
    match s.screen.current with
    | none => gone (bump s .noRulesetDrop a.src 1)
    | some r =>
      match recoverFrame s a.src a.bytes with
      | (s, none) => gone s
      | (s, some b) =>
        let s := if b.length = n then s else frameWrite s a.handle 0 b
        let n := b.length
        let s := bump s .rxFrames a.src 1
        let (p, e, lc, deep) := shapePass r a.src b
        let s := bump s .profileHits p 1
        let partner := mapPartner s r a.src a.ident
        if partnerFrozen s partner then gone (bump s .partnerDrop partner 1)
        else
          match contractCheck s partner a.src n with
          | (s, false) => gone s
          | (s, true) =>
            match flagDrop r p lc deep with
            | some c => gone (bump s c a.src 1)
            | none =>
              let k := ruleKey r p a.src partner e
              let w := winningRule r e k
              let o := 0x4100 + 32 * w.getD 0 + 0x1C
              let entry := if w.isSome then rsField r o 1 else bits (profileWord r p 0) 23 16
              let s := match w with | some i => bump s .ruleHits i 1 | none => s
              match meterEntry s entry with
              | (s, false) => gone s
              | (s, true) =>
                let pkt : Packet :=
                  { handle := a.handle, desc := a.desc, len := n, src := a.src, partner := partner, epoch := r.num, bank := false,
                    dispatched := false, dispAt := 0, seq := none, profile := p, rule := w.getD 0, ruleHit := w.isSome, entry := entry,
                    pass := 0, deep := deep, lenConflict := lc,
                    noSpec := bitOf (profileWord r p 0) 30 || (w.isSome && bitOf (rsField r o 4) 30) || recipeEmpty r p,
                    ext := e, key := k, rxTime := a.rxTime, stamp := a.stamp, lastBit := s.localNs, arrVc := a.arrVc, viaSa := a.sa,
                    carry0 := 0#64, carry1 := 0#64, spec := .none, specQueue := 0, specTemplate := 0, specDp := 0, offered := false,
                    fkey := flowKey r p e k, specWay := 0, lastCon := none, req := a.req }
                let s := { s with screen := { s.screen with waiting := s.screen.waiting ++ [pkt] } }
                assignWaiting a.src (s.screen.waiting.length) s

/-! ### Dispatch (R154 to R156) -/

/-- Whether a thread may take a packet (R155). -/
def threadFree (s : State) (t : Nat) : Bool :=
  let x := getThread s t
  x.pkt.isNone && x.reserved.isNone && !isFrozen s t

/-- The thread of a group that the dispatcher takes: the engine after the one last used with a free thread, and
its lowest free thread (R155); engines 8g to 8g + 7 form group g. -/
def groupThread (s : State) (g : Nat) : Option Nat :=
  let last := tblGet 0 s.screen.groupLast g
  (rotated 8 (last + 1)).findSome? (fun i =>
    (List.range 8).findSome? (fun k => let t := 8 * (8 * g + i) + k; if threadFree s t then some t else none))

/-- The first word of an entry's program in a bank, when START names a loaded program (R82, R84). -/
def entryStart (s : State) (bank : Bool) (e : Nat) : Option Nat :=
  let b := getBank s bank
  let x := tblGet EntryRec.zero b.entries e
  if b.progs.any (fun p => p.base == x.start) then some x.start else none

/-- The words w2 to w5 of a pass (Table 3.4). -/
def frameWord (p : Packet) : Nat :=
  p.handle * 2 ^ 32 + p.len * 2 ^ 16 + p.epoch * 2 ^ 8 + b2n p.bank * 2 ^ 7 + b2n (p.spec != .none) * 2 ^ 6 + b2n p.deep * 2 ^ 5
    + b2n p.lenConflict * 2 ^ 4 + p.pass * 2 ^ 2
def sourceWord (p : Packet) : Nat := p.partner * 2 ^ 36 + p.src * 2 ^ 30 + p.rule * 2 ^ 16 + b2n p.ruleHit * 2 ^ 15 + p.profile * 2 ^ 6
def arrivalWord (p : Packet) : Nat := p.seq.getD 0 * 2 ^ 48 + p.rxTime % 2 ^ 48
def specWord (p : Packet) : Nat := if p.spec = .none then 0 else p.specTemplate * 2 ^ 19 + p.specQueue

/-- The thread at the start of a pass (Table 3.3, R88). -/
def passThread (s : State) (p : Packet) (start : Nat) : Thread :=
  let regs : List (Nat × Nat) := [(2, frameWord p), (3, sourceWord p), (4, arrivalWord p), (5, specWord p), (6, p.carry0.toNat), (7, p.carry1.toNat)]
    ++ p.ext.zipIdx.map (fun e => (32 + e.2, e.1))
  { Thread.reset with
    w := regs.foldl (fun (t : Tbl Word) e => tblSet 0#64 t e.1 (BitVec.ofNat 64 e.2)) []
    p := 0x81#8
    pc := BitVec.ofNat 64 (4 * start)
    window := frameBytes s p.handle (min p.len 256)
    pkt := some p }

/-- A packet starts a pass on thread t: the bank is stamped at its first dispatch (R35, R36). -/
def startPass (s : State) (t : Nat) (p : Packet) : State :=
  let p := if p.dispatched then p else { p with dispatched := true, bank := s.engine.service.getD false, dispAt := s.localNs }
  match entryStart s p.bank p.entry with
  | none => setThread (dropPacket (bump s .entryDrop p.entry 1) p) t { getThread s t with reserved := none }
  | some st => setThread (bump s .dispatched p.src 1) t (passThread s p st)

/-- A drop under R156. -/
def waitDrop (s : State) (p : Packet) : State := dropPacket (bump s .waitDrop p.src 1) p

/-- R155: the dispatch cycle of a group.  A frame that is dropped at its dispatch because START names no loaded program counts as the
group's last use of that engine (log entry 202, DESIGN CHOICE). -/
def execDispatch (group : Fin 8) (s : State) : Host.Outcome State Fault Refusal :=
  .next (match s.screen.dispatchQ with
    | [] => s
    | p :: rest =>
      let s0 := { s with screen := { s.screen with dispatchQ := rest } }
      if p.lastBit + tickNs s / 2 ≤ s.localNs then waitDrop s0 p
      else match groupThread s group with
        | none => s
        | some t =>
          startPass { s0 with screen := { s0.screen with groupLast := tblSet 0 s0.screen.groupLast group (t / 8 % 8) } } t p)

/-- R153: the oldest frame of a source that waits at stage 8. -/
def execSequenceAssign (src : Fin 64) (s : State) : Host.Outcome State Fault Refusal := .next (assignWaiting src 1 s)

/-- R156: the oldest undispatched first-pass frame of a source reaches its wait limit. -/
def execWaitDrop (src : Fin 64) (s : State) : Host.Outcome State Fault Refusal :=
  .next (match (s.screen.dispatchQ ++ s.screen.waiting).find? (fun p => p.src == src.val) with
    | none => s
    | some p =>
      let s := advance s (p.lastBit + tickNs s / 2 - s.localNs)
      waitDrop { s with screen := { s.screen with dispatchQ := s.screen.dispatchQ.erase p, waiting := s.screen.waiting.erase p } } p)

/-- R39: the packet of a thread has not completed one tick after its last ingress bit. -/
def execPacketTickOverrun (t : Fin 512) (s : State) : Host.Outcome State Fault Refusal :=
  .next (match (getThread s t).pkt with
    | none => s
    | some p =>
      let s := advance s (p.lastBit + tickNs s - s.localNs)
      threadFault s t vTICK (getThread s t).pc.toNat)

/-- R160. -/
def execReorderGap (src : Fin 64) (s : State) : Host.Outcome State Fault Refusal :=
  let wait := match (getReorder s src).find? (fun e => e.ready.isSome) with
    | some e => e.ready.getD 0 + tickNs s - s.localNs
    | none => 0
  .next (seqGap (advance s wait) src)

/-- R122, R137, R146: a recirculated pass re-enters Screen and is dispatched to its reserved thread. -/
def execRecircReentry (t : Fin 512) (s : State) : Host.Outcome State Fault Refusal :=
  .next (match (getThread s t).reserved with
    | none => s
    | some p =>
      if p.lastBit + tickNs s ≤ s.localNs then clearThread (waitDrop s p) t
      else
        match ruleSetOf s p.epoch with
        | none => clearThread (dropPacket s p) t
        | some r =>
          let b := frameBytes s p.handle p.len
          let (pr, e, lc, deep) := shapePass r p.src b
          match flagDrop r pr lc deep with
          | some c => clearThread (dropPacket (bump s c p.src 1) p) t
          | none => startPass s t { p with profile := pr, ext := e, lenConflict := lc, deep := deep })

/-! ### Arrival on a port of Face (R248, R286, R322, R325, R330) -/

/-- What MACsec leaves of a received frame (R330). -/
structure MacsecRes where
  st : State
  /-- failed verification or replay -/
  failed : Bool
  /-- the association that verified it -/
  sa : Option Nat
  /-- dropped: the association's key is stale (R474) -/
  drop : Bool
  /-- the frame after decryption -/
  bytes : List Byte

/-- Face verifies and decrypts a frame received on a B or Conveyor port whose first bit came at local time t: the contents that an
association had then are those that count (R465, R473). -/
def macsecCheck (s : State) (m t : Nat) (sec : SecMark) (b : List Byte) : MacsecRes :=
  let bad : MacsecRes := { st := bump s .macsecDrop m 1, failed := true, sa := none, drop := false, bytes := b }
  if m < 8 ∨ 48 ≤ m then
    match sec with
    | .clear => { st := s, failed := false, sa := none, drop := false, bytes := b }
    | .failed => bad
    | .verified i pn =>
      match saDuring s i t with
      | (none, _) => bad
      | (some a, now) =>
        if a.rx = false ∨ a.node ≠ m ∨ pn.toNat < a.pn then bad
        else if a.stale then { st := bump s (saDropCtr m) i 1, failed := false, sa := none, drop := true, bytes := b }
        else match macsecRecover a pn.toNat b with
          | none => bad
          | some x =>
            { st := if now then { s with face := { s.face with sas := tblSet none s.face.sas i (some { a with pn := pn.toNat + 1 }) } } else s
              failed := false, sa := some i.val, drop := false, bytes := x }
  else { st := s, failed := false, sa := none, drop := false, bytes := b }

/-- The identity word of a frame on a port of Face (Table 4.6). -/
def portIdent (s : State) (m : Nat) (b : List Byte) (plca : Byte) : Nat :=
  let mac := beNat (imgBytes b 6 6)
  if 32 ≤ m ∧ m < 48 then (if (getPlca s (m - 32)).active then plca.toNat else 0xFF) * 2 ^ 48 + mac else mac

/-- Whether FEC is in force on a node: the FEC chosen on a Conveyor lane, and the one that their standards include on B ports and on E
ports at 1 Gb/s (log entry 98). -/
def fecOn (s : State) (m : Nat) : Bool :=
  let x := getFp s m
  if 48 ≤ m then decide (2 ≤ x.fec) else decide (m < 32) && decide (2 ≤ x.speed)

/-- Counts the FEC blocks that came with a frame (R340). -/
def countFec (s : State) (m : Nat) (line : RxLine) : State :=
  if fecOn s m then bump (bump s .fecCorrected m line.corrected.toNat) .fecUncorrected m line.uncorrected.toNat else s

/-- Whether Face marks a frame as errored for what its PHY and PCS report (R322). -/
def lineBad (s : State) (m : Nat) (line : RxLine) : Bool := line.errored || (fecOn s m && line.uncorrected != 0#16)

/-- A frame's last bit arrives on port node 0 to 55: MACsec, then halt recognition, then Screen (R286, R322, R330). -/
def frameArrives (s : State) (m : Nat) (raw : List Byte) (line : RxLine) (sec : SecMark) (plca : Byte) : State :=
  let err := lineBad s m line || !fcsOk raw
  let s := countFec s m line
  let s := if 32 ≤ m ∧ m < 48 ∧ raw.length > (getPlca s (m - 32)).segMax then bump s .segOversize (m - 32) 1 else s
  let ps := sinceFirst s m raw.length line
  let x := macsecCheck s m (s.localNs - ps / 1000) sec raw
  let bytes := x.bytes
  let s := x.st
  let err := err || x.failed
  let s := if err then bump s .rxErr m 1 else s
  let halt := !err && !x.drop && isHalt s m bytes
  let s := if halt then haltRecognised s m bytes else s
  if halt && s.haul.haltConsume then s
  else
    let cap := ingressCapture s ps
    match storeFrame s m (ingressClass s m bytes) bytes with
    | (s, .ok h d) =>
      if x.drop then discardStored s h d
      else
        screenFrame s { src := m, bytes := bytes, ident := portIdent s m bytes plca, handle := h, desc := d,
                        rxTime := rxTimeOf m cap, stamp := stampRecord m cap,
                        arrVc := none, sa := x.sa, bad := err }
    | (s, _) => s

/-- R126, R286, R322, R330. -/
def execFrameReceive (node : Fin 56) (bytes : List Byte) (line : RxLine) (sec : SecMark) (plca : Byte) (s : State) :
    Host.Outcome State Fault Refusal :=
  .next (if lineUp s node = false then s else frameArrives s node bytes line sec plca)

/-- A line without an error to report. -/
def cleanLine : RxLine := { errored := false, corrected := 0#16, uncorrected := 0#16, elapsed := none }

/-- R286, R287: the frame is a halt frame once MACsec has passed it; where CONSUME = 0 it also enters Screen. -/
def execHaltFrameReceive (node : Fin 56) (bytes : List Byte) (s : State) (sec : SecMark := .clear) (plca : Byte := 0xFF#8) :
    Host.Outcome State Fault Refusal :=
  let x := macsecCheck s node (s.localNs - sinceFirst s node bytes.length cleanLine / 1000) sec bytes
  .next (if lineUp s node ∧ fcsOk bytes ∧ x.failed = false ∧ x.drop = false ∧ isHalt s node x.bytes then frameArrives s node bytes cleanLine sec plca
    else s)

/-- R321: loss of link: a frame in reception, of which the bytes given have come, goes to Screen marked errored; then the node goes down. -/
def execPhyLinkLoss (node : Fin 56) (s : State) (cut : List Byte := []) : Host.Outcome State Fault Refusal :=
  let s := if lineUp s node ∧ cut ≠ [] then frameArrives s node cut { cleanLine with errored := true } .clear 0xFF#8 else s
  .next (linkDown s node 1)

end Sys2Proof.Machine
end

