-- ==== Sys2Proof/Machine/StockEvents.lean ====
section
/-! DEFINITION. Machine/StockEvents.lean: the events of the Stockpile, the Hopper and the Conveyor fabric (R226 to
R232, R241 to R253). -/

namespace Sys2Proof.Machine

/-! ### Head store (R226, R230, R231) -/

/-- Head-store cells in all banks. -/
def hsCells : Nat := 64 * 6144

/-- Frames that a spill for occupancy may take: not at the head of their queue, newest enqueue first. -/
def spillOrder (s : State) : List Desc :=
  let l := s.haul.queues.flatMap (fun e => e.2.frames.drop 1)
  l.mergeSort (fun a b => decide (b.since ≤ a.since))

/-- Marks frames, newest first, until occupancy would fall to HS_LOW (R231). -/
def markOccupancy : List Desc → State → State
  | [], s => s
  | d :: t, s =>
    if (hsUsed s - s.stock.spill.length) * 100 ≤ s.stock.hsLow * hsCells then s else markOccupancy t (markSpill s d.handle)

/-- Starts and ends the spill for occupancy (R231). -/
def spillCheck (s : State) : State :=
  let on := decide (hsUsed s * 100 ≥ s.stock.hsHigh * hsCells) || (s.stock.spilling && decide (hsUsed s * 100 > s.stock.hsLow * hsCells))
  let s := { s with stock := { s.stock with spilling := on } }
  if on then markOccupancy (spillOrder s) s else s

/-- R226: one cell time of the bank matcher. -/
def execHeadStoreMatch (s : State) : Host.Outcome State Fault Refusal := .next (matchCellTime (spillCheck s))

/-- R230: the cell that a spill mover has read goes to its home, its location switches and its head-store cell is freed. -/
def execSpillCell (mover : Fin 4) (s : State) : Host.Outcome State Fault Refusal :=
  .next (match s.stock.moved.find? (fun e => e.1 == mover.val) with
    | some e => spillCell { s with stock := { s.stock with moved := s.stock.moved.filter (· != e) } } e.2
    | none => s)

/-- R232. -/
def execHopperDrainBurst (pool : Fin 32) (s : State) : Host.Outcome State Fault Refusal := .next (drainBurst s pool)

/-! ### Multicast copies and spoil lists (R242, R243) -/

/-- Whether a copy's queue is ready but for admission: its port is up and the gate of its class open (R242). -/
def copyGate (s : State) (q : Nat) : Bool :=
  match queuePort s q with
  | some m => portUp s m && (decide (56 ≤ m) || gateOpen s (getGates s m) (getQueue s q).tc 0)
  | none => false

/-- Whether R240 would accept k cells on a queue, whose class may be refused under R246. -/
def wouldAdmit (s : State) (q k dp : Nat) : Bool :=
  let a := getQAdmit s q
  let lim := admitLimit a dp
  (a.hold || (match queuePort s q with | some m => !classBlocked s m q | none => false))
    && (decide (queueDepth (getQueue s q) + k ≤ lim) || (a.hold && a.dropOld && decide (specDepth (getQueue s q) + k ≤ lim)))

def getSpoil (s : State) (m : Nat) : List SpoilEnt := tblGet [] s.stock.spoil m
def setSpoil (s : State) (m : Nat) (l : List SpoilEnt) : State :=
  { s with stock := { s.stock with spoil := tblSet [] s.stock.spoil m l } }

/-- Retries the entries of a spoil list in order; an entry whose queue is not ready holds back later copies of
the same queue only (R243), and one that R240 refuses counts in ADMIT_REFUSED (log entry 81).  A copy whose queue is unattached or would descend is refused for good (R261, R410). -/
def retrySpoil (m : Nat) : List SpoilEnt → List Nat → State → State
  | [], _, s => s
  | e :: t, blocked, s =>
    let q := e.desc.queue
    let refuse (s : State) : State := discardDesc (setSpoil s m ((getSpoil s m).erase e)) m e.desc
    if e.deadline ≤ s.bench.tickCount then retrySpoil m t blocked s
    else if queuePort s q = none then retrySpoil m t blocked (bump (refuse s) .unattachedDrop 0 1)
    else if descends s q e.desc.arrVc then retrySpoil m t blocked (bump (refuse s) .vcOrderDrop q 1)
    else if !blocked.contains q ∧ copyGate s q then
      -- the entry is one copy: it leaves the list for its queue, or stays
      let r := enqueue s { e.desc with since := s.localNs }
      if r.2 then retrySpoil m t blocked (setSpoil r.1 m ((getSpoil r.1 m).erase e)) else retrySpoil m t (q :: blocked) r.1
    else retrySpoil m t (q :: blocked) s

/-- R243. -/
def execSpoilRetry (node : Fin 64) (s : State) : Host.Outcome State Fault Refusal :=
  .next (retrySpoil node (getSpoil s node) [] s)

/-- R243: entries at or past their deadline tick. -/
def execSpoilExpire (node : Fin 64) (s : State) : Host.Outcome State Fault Refusal :=
  let l := getSpoil s node
  let gone := l.filter (fun e => decide (e.deadline ≤ s.bench.tickCount))
  let s := setSpoil s node (l.filter (fun e => decide (s.bench.tickCount < e.deadline)))
  .next (bump (gone.foldl (fun s e => discardDesc s node e.desc) s) .spoilExpired node gone.length)

/-! ### Hold queues (R241) -/

/-- R241: a watched GPIO changes level. -/
def execHoldWatchChange (pin : Fin 32) (level : Bool) (s : State) : Host.Outcome State Fault Refusal :=
  let g := tblGet Gpio.reset s.gh.gpio pin
  .next (holdUpdateAll { s with gh := { s.gh with gpio := tblSet Gpio.reset s.gh.gpio pin { g with ext := some level } } })

/-- Drops frames at the head of a queue that are older than a life in ns. -/
def expireHeads (q m life : Nat) : List Desc → State → State
  | [], s => s
  | d :: t, s =>
    if shortDiff (nowShort s) d.rxTime > life ∧ d.spec = false then
      expireHeads q m life t (bump (discardDesc (setFrames s q t) m d) .holdExpired q 1)
    else s

/-- R241. -/
def execHoldExpired (queue : Fin 524288) (s : State) : Host.Outcome State Fault Refusal :=
  let x := getQueue s queue
  let life := (getQAdmit s queue).holdLife
  .next (match queuePort s queue with
    | some m => if x.hold = .holding ∧ life ≠ 0 then expireHeads queue m (life * 1000000000) x.frames s else s
    | none => s)

/-! ### Pause (R245 to R247) -/

/-- Whether a virtual channel of a lane has been without credit for more than 16 ticks. -/
def laneStalled (s : State) (k vc : Nat) : Bool := match (getLane s k vc).stallTick with
  | some t => decide (t + 16 < s.bench.tickCount)
  | none => false

/-- Whether class or channel cls of a node has been paused or without credit for more than 16 ticks. -/
def stalledLong (s : State) (m cls : Nat) : Bool :=
  if 59 ≤ m then (List.range 8).any (fun k => laneStalled s k cls)
  else if 48 ≤ m ∧ m < 56 then
    match tblGet none s.stock.pfcRx (8 * (m - 48) + cls) with
    | some x => decide (x.sinceTick + 16 < s.bench.tickCount) && decide (s.localNs < x.ends)
    | none => false
  else false

/-- The queues of a class of a port, or those of a fabric port bound to a virtual channel of a lane that is stalled, hold queues
excepted (R246). -/
def pausedQueues (s : State) (m cls : Nat) : List Nat :=
  (portQueues s m).filter (fun q => !(getQAdmit s q).hold &&
    (if 59 ≤ m then (match getBind s q with
      | some b => b.vc == cls && (match laneTo s b.dev with | some k => laneStalled s k cls | none => false)
      | none => false) else (getQueue s q).tc == cls))

/-- R246. -/
def execPauseFlush (node : Fin 64) (cls : Fin 8) (s : State) : Host.Outcome State Fault Refusal :=
  let m := node.val
  .next (
    let qs := pausedQueues s m cls
    if stalledLong s m cls ∧ qs.any (fun q => !(getQueue s q).frames.isEmpty) then
      let r := flushQueues s m qs
      let s := qs.foldl (fun s q => { s with stock := { s.stock with blocked := tblSet false s.stock.blocked (blockIdx s m q) true } }) r.1
      let s := flushSpoil s m qs
      postEvent (bump s .pauseFlush m 1) 7 (flushPayload s 0x21 cls m r.2.1 r.2.2)
    else s)

/-- Ends the refusal of R246 that is kept at an index. -/
def unblock (s : State) (i : Nat) : State := { s with stock := { s.stock with blocked := tblSet false s.stock.blocked i false } }

/-- R245: a PFC frame sets the remaining time of a class. -/
def execPfcReceive (lane cls : Fin 8) (quanta : BitVec 16) (s : State) : Host.Outcome State Fault Refusal :=
  let m := 48 + lane.val
  let k := 8 * lane.val + cls.val
  .next (if isCvEthernet s m = false ∨ lineUp s m = false then s
    else if quanta = 0#16 then unblock { s with stock := { s.stock with pfcRx := tblSet none s.stock.pfcRx k none } } (8 * m + cls)
    else
      let old := tblGet none s.stock.pfcRx k
      let fresh : PfcRx := { ends := 0, since := s.localNs, sinceTick := s.bench.tickCount }
      let on := match old with | some x => decide (s.localNs < x.ends) | none => false
      let x := if on then old.getD fresh else fresh
      let s := if on then s else unblock s (8 * m + cls)
      let x := { x with ends := s.localNs + quantaNs quanta.toNat (portRate s m) }
      let s := { s with stock := { s.stock with pfcRx := tblSet none s.stock.pfcRx k (some x) } }
      -- a frame decided and not begun is stopped too
      unstart s m (fun t => !t.halt && t.tc == cls))

/-- R245: the clock runs to the end of the pause. -/
def execPfcPauseExpire (lane cls : Fin 8) (s : State) : Host.Outcome State Fault Refusal :=
  let k := 8 * lane.val + cls.val
  .next (match tblGet none s.stock.pfcRx k with
    | none => s
    | some x =>
      let s := advance s (x.ends - s.localNs)
      unblock { s with stock := { s.stock with pfcRx := tblSet none s.stock.pfcRx k none } } (8 * (48 + lane.val) + cls))

/-- R247: the next repeat of a PFC that holds a class paused; the clock runs to it. -/
def execPfcRepeat (lane cls : Fin 8) (s : State) : Host.Outcome State Fault Refusal :=
  let k := 8 * lane.val + cls.val
  .next (match tblGet none s.stock.pfcTx k with
    | none => s
    | some t =>
      if pfcRuns s lane = false then s
      else
      let gap := quantaNs 32768 (portRate s (48 + lane.val))
      let s := advance s (t + gap - s.localNs)
      sendPfc { s with stock := { s.stock with pfcTx := tblSet none s.stock.pfcTx k (some (t + gap)) } } k 0xFFFF)

/-! ### The Conveyor fabric (R249 to R253) -/

/-- A cell header of Table 7.12 without its HCRC, as bits [127:32]. -/
structure CellHdr where
  typ : Nat
  src : Nat
  dst : Nat
  vc : Nat
  sof : Bool
  eof : Bool
  abort : Bool
  bytes : Nat
  seq : Nat
  queue : Nat
  dp : Nat
  credVc : Nat
  credits : Nat
  len : Nat
  direct : Bool
  lport : Nat
  deriving DecidableEq, Repr

/-- A header's 16 bytes (Table 7.12). -/
def cellHeader (h : CellHdr) : List Byte :=
  let n := h.typ * 2 ^ 92 + h.src * 2 ^ 88 + h.dst * 2 ^ 84 + h.vc * 2 ^ 81 + b2n h.sof * 2 ^ 80 + b2n h.eof * 2 ^ 79
    + b2n h.abort * 2 ^ 78 + h.bytes * 2 ^ 70 + h.seq * 2 ^ 54 + h.queue * 2 ^ 35 + h.dp * 2 ^ 33 + h.credVc * 2 ^ 30
    + h.credits * 2 ^ 18 + h.len * 2 ^ 4 + b2n h.direct * 2 ^ 3 + h.lport
  let b := beBytes 12 n
  b ++ beBytes 4 (crc32c b 0xFFFFFFFF#32).toNat

/-- Reads a header (Table 7.12). -/
def readHeader (c : List Byte) : CellHdr :=
  let n := beNat (imgBytes c 0 12)
  { typ := bits n 95 92, src := bits n 91 88, dst := bits n 87 84, vc := bits n 83 81, sof := bitOf n 80, eof := bitOf n 79,
    abort := bitOf n 78, bytes := bits n 77 70, seq := bits n 69 54, queue := bits n 53 35, dp := bits n 34 33,
    credVc := bits n 32 30, credits := bits n 29 18, len := bits n 17 4, direct := bitOf n 3, lport := bits n 2 0 }

/-- Whether a header's HCRC is right. -/
def headerOk (c : List Byte) : Bool :=
  beNat (imgBytes c 12 4) == (crc32c (imgBytes c 0 12) 0xFFFFFFFF#32).toNat

/-- Cells kept of each lane's output. -/
def cellsKept : Nat := 16

/-- A cell leaves on a lane with the credit of the channel whose turn it is (R252). -/
def sendCell (s : State) (k : Nat) (h : CellHdr) (payload : List Byte) : State :=
  let v := tblGet 0 s.fabric.credRot k
  let h := { h with src := s.fabric.devId, dst := tblGet 0 s.fabric.neigh k, credVc := v, credits := (getLane s k v).kOwn % 4096 }
  let cell := cellHeader h ++ imgBytes payload 0 240
  let l := tblGet [] s.fabric.cellsOut k ++ [cell]
  { s with fabric := { s.fabric with
      credRot := tblSet 0 s.fabric.credRot k ((v + 1) % 8)
      cellsOut := tblSet [] s.fabric.cellsOut k (l.drop (l.length - cellsKept)) } }

def zeroHdr : CellHdr :=
  { typ := 0, src := 0, dst := 0, vc := 0, sof := false, eof := false, abort := false, bytes := 0, seq := 0, queue := 0, dp := 0,
    credVc := 0, credits := 0, len := 0, direct := false, lport := 0 }

/-- The fabric port whose transmission uses a lane's channel. -/
def laneTx (s : State) (k vc : Nat) : Option (Nat × TxRec) :=
  ((List.range 5).map (59 + ·)).findSome? (fun m => match (getPort s m).tx with
    | some t => if txLane s t = some (k, vc) then some (m, t) else none
    | none => none)

/-- Whether cells wait to leave on a lane's channel (R246, Table 7.15). -/
def laneWaits (s : State) (k vc : Nat) : Bool :=
  (laneTx s k vc).isSome || s.fabric.binds.any (fun e => match e.2 with
    | some b => b.vc == vc && laneTo s b.dev == some k && !(getQueue s e.1).frames.isEmpty
    | none => false)

/-- Keeps the tick since which cells wait on a channel without credit; a credit ends the refusal of R246. -/
def markStall (s : State) (k vc : Nat) : State :=
  let x := getLane s k vc
  if hasCredit s k vc then
    let s := if x.stallTick.isSome then setLane s k vc { x with stallTick := none } else s
    (List.range 5).foldl (fun s i => unblock s (laneBlock (59 + i) k vc)) s
  else if laneWaits s k vc then (if x.stallTick.isNone then setLane s k vc { x with stallTick := some s.bench.tickCount } else s)
  else if x.stallTick.isSome then setLane s k vc { x with stallTick := none } else s

/-- The DATA cell of a transmission: header, payload, and whether it ends the frame (R251, Table 6.3). -/
def dataCell (s : State) (k vc m : Nat) (t : TxRec) : State :=
  let b := getBind s t.desc.queue
  let x := getLane s k vc
  let abort := t.stomp.isSome
  -- the FCS of a stomped frame never leaves (Table 6.2); its abort cell carries a padding byte where nothing else is left (Table 7.12)
  let left := min 240 (t.stomp.getD t.bytes.length - t.done)
  let n := if abort then max 1 left else left
  let last := abort || decide (t.done + n ≥ t.bytes.length)
  let first := decide (t.done = 0)
  let h : CellHdr := { zeroHdr with
    vc := vc, sof := first, eof := last, abort := abort, bytes := n, seq := x.txSeq
    queue := if first then (match b with | some b => if b.direct then b.remoteQueue else 0 | none => 0) else 0
    dp := if first then t.desc.dp else 0
    len := if first then t.bytes.length else 0
    direct := match b with | some b => b.direct | none => false
    lport := match b with | some b => if b.direct then 0 else b.rxLport | none => 0 }
  let s := sendCell s k h ((t.bytes.drop t.done).take left)
  let s := setLane s k vc { x with txSeq := (x.txSeq + 1) % 65536, sent := (x.sent + 1) % 4096 }
  -- the cells of an unconfirmed speculation are counted at its confirmation (Table 6.2)
  let s := if t.desc.spec then s else bump s .cellsTx (8 * k + vc) 1
  if last then finishTx s m t else setPort s m { getPort s m with tx := some { t with done := t.done + n } }

/-- The transmission of a lane's channel with its tail point taken where its last cell is due (R204). -/
def readyTx (s : State) (k vc : Nat) : State × Option (Nat × TxRec) :=
  match laneTx s k vc with
  | none => (s, none)
  | some (m, t) =>
    if t.desc.spec ∧ t.stomp.isNone ∧ cellHasFcs t then
      let s := specTail s t
      (s, laneTx s k vc)
    else (s, some (m, t))

/-- Returns credit for n cells of a channel (R252). -/
def giveCredit (s : State) (k vc n : Nat) : State :=
  let x := getLane s k vc
  setLane s k vc { x with kOwn := (x.kOwn + n) % 4096 }

/-- Drops the frame in reassembly on a channel and frees its cells. -/
def dropRx (s : State) (k vc : Nat) : State :=
  let x := getLane s k vc
  let s := setLane s k vc { x with rxFrame := none }
  match x.rxFrame with
  | some f => freeCells s f.cells
  | none => s

/-- A whole frame leaves reassembly: DIRECT to its queue, otherwise to Screen; its ingress class is its channel (R253, R409). -/
def fabricFrame (s : State) (k vc : Nat) (f : RxFrame) : State :=
  let m := 59 + f.lport
  if f.lost then dropRx s k vc
  else if fcsOk f.bytes = false then bump (dropRx s k vc) .fcsErr (8 * k + vc) 1
  else match takeDesc s with
    | none => bump (dropRx s k vc) .descDrop 0 1
    | some (d, s) =>
      let s := setLane s k vc { getLane s k vc with rxFrame := none }
      let first := f.cells.headD 0
      let s := setChain s first (some { cells := f.cells, hold := 1, owner := 0x400, pending := false, data := memPut [] 0 f.bytes })
      let h := handleOf s first
      if f.direct then
        let r := enqueue s { idx := d, handle := h, spec := false, cut := false, len := f.bytes.length, dp := f.dp, copy := false,
                             template := 0, queue := f.queue, seq := 0, src := m, rxTime := f.rxTime, cells := f.cells.length,
                             order := none, partner := 0, arrVc := some vc, mark := none, cbSeq := none, since := s.localNs,
                             lastBit := s.localNs, info := 0 }
        if r.2 then r.1 else discardStored r.1 h d
      else
        screenFrame s { src := m, bytes := f.bytes, ident := beNat (imgBytes f.bytes 6 6), handle := h, desc := d, rxTime := f.rxTime,
                        stamp := f.stamp, arrVc := some vc, sa := none, bad := false }

/-- Takes the next Stockpile cell of a frame in reassembly once its bytes reach it; none when the Hopper gives none (R248). -/
def rxPlace (s : State) (vc : Nat) (f : RxFrame) : State × Option RxFrame :=
  if f.lost ∨ cellsFor f.bytes.length ≤ f.cells.length then (s, some f)
  else
    match allocCells s (poolOf s (59 + f.lport) vc) 1 with
    | (s, .ok cs) => (cs.foldl (writeCell (59 + f.lport)) s, some { f with cells := f.cells ++ cs })
    | (s, .empty _) => (s, none)

/-- The frame in reassembly with the bytes of one more cell, after what Table 7.13 says of the cell before them; none where the
cell adds to no frame. -/
def rxFaults (s : State) (k : Nat) (h : CellHdr) (payload : List Byte) (c : RxCell) : State × Option RxFrame :=
  let vc := h.vc
  let i := 8 * k + vc
  let x := getLane s k vc
  -- a frame marked by a broken header is discarded at this cell
  let s := if x.rxBad then dropRx s k vc else s
  let gap := decide (h.seq ≠ (x.rxSeq + 1) % 65536)
  let s := if gap then dropRx (bump s .seqGap i 1) k vc else s
  let s := setLane s k vc { getLane s k vc with rxSeq := h.seq, rxBad := false }
  if h.abort then (bump (dropRx s k vc) .abortedRx i 1, none)
  else
    match (getLane s k vc).rxFrame, h.sof with
    | some _, true => (bump (dropRx s k vc) .seqGap i 1, none)
    | none, false => (bump s .seqGap i 1, none)
    | none, true =>
      (s, some { bytes := payload.take h.bytes, len := h.len, direct := h.direct, queue := h.queue, dp := h.dp
                 lport := if h.direct then 0 else h.lport, rxTime := c.rxTime, stamp := c.stamp
                 cells := [], lost := !h.direct && decide (4 < h.lport) })
    | some f, false => (s, some { f with bytes := f.bytes ++ payload.take h.bytes })

/-- The next cell of a channel's receive buffer, and whether it left the buffer: on a lossless channel a cell without a place
stays, on any other its frame is dropped (R248, R252, R253). -/
def rxCell (s0 : State) (k vc : Nat) (c : RxCell) : State × Bool :=
  let cell := c.cell
  let leave (s : State) : State := if bitOf s.fabric.losslessVc vc then giveCredit s k vc 1 else s
  if headerOk cell = false then (leave (setLane s0 k vc { getLane s0 k vc with rxBad := true }), true)
  else
    let h := readHeader cell
    let (s, r) := rxFaults s0 k h ((cell.drop 16).take 240) c
    match r with
    | none => (leave s, true)
    | some f =>
      match rxPlace s vc f with
      | (s1, some f) =>
        let s1 := leave (setLane s1 k vc { getLane s1 k vc with rxFrame := some f })
        (if h.eof then fabricFrame s1 k vc f else s1, true)
      | (s1, none) =>
        -- the cell stays as it came; what the Hopper counted of its refusal stands
        if bitOf s.fabric.losslessVc vc then
          let p := poolOf s0 (59 + f.lport) vc
          let c := bump s0 .allocEmpty p 1
          ({ s0 with counters := (if poolFree (getPool s0 p) ≥ 1 then bump c .cacheDry p 1 else c).counters }, false)
        else
          let p := poolOf s (59 + f.lport) vc
          let s1 := bump (dropRx s1 k vc) .poolDrop p 1
          let s1 := if (getPool s1 p).lossless then bump s1 .losslessDrop p 1 else s1
          let s1 := setLane s1 k vc { getLane s1 k vc with rxFrame := some { f with cells := [], lost := true } }
          (if h.eof then dropRx s1 k vc else s1, true)

/-- Cells leave a channel's receive buffer in order for as long as they can, at most n of them. -/
def drainRx (k vc : Nat) : Nat → State → State
  | 0, s => s
  | n + 1, s =>
    match (getLane s k vc).waits with
    | [] => s
    | c :: t =>
      let r := rxCell s k vc c
      if r.2 then drainRx k vc n (setLane r.1 k vc { getLane r.1 k vc with waits := t }) else r.1

/-- The ingress writer, 0 to 7, that a cell at the head of a channel's receive buffer needs, and the pool that it asks (R225, R235). -/
def waitingWriter (s : State) (k vc : Nat) : Option (Nat × Nat) :=
  match (getLane s k vc).waits with
  | [] => none
  | c :: _ =>
    let h := readHeader c.cell
    let p := match (getLane s k vc).rxFrame with
      | some f => f.lport
      | none => if h.direct then 0 else h.lport
    some ((59 + p) % 8, poolOf s (59 + p) vc)

/-- The ingress writers from the requester at which the Hopper starts: writer w is requester 512 + w of 522 (R235, R412). -/
def writerOrder (s : State) : List Nat :=
  let k := s.bench.arbTick % 522
  rotated 8 (if 512 < k ∧ k < 520 then k - 512 else 0)

/-- Each writer in turn gets a place for the first cell that waits for it at a pool that a test selects. -/
def serveRound (ok : Nat → Bool) (s : State) : State :=
  (writerOrder s).foldl (fun s w =>
    match (List.range 64).find? (fun i => match waitingWriter s (i / 8) (i % 8) with
      | some e => e.1 == w && ok e.2
      | none => false) with
    | some i => drainRx (i / 8) (i % 8) 1 s
    | none => s) s

/-- Cells in all receive buffers. -/
def cellsWaiting (s : State) : Nat := s.fabric.lanes.foldl (fun a e => a + e.2.waits.length) 0

/-- Rounds for as long as a cell finds its place, at most n of them. -/
def serveWaits (ok : Nat → Bool) : Nat → State → State
  | 0, s => s
  | n + 1, s =>
    let s' := serveRound ok s
    if cellsWaiting s' < cellsWaiting s then serveWaits ok n s' else s'

/-- Every channel takes what has found a place meanwhile. -/
def drainAllRx (s : State) : State := serveWaits (fun _ => true) (cellsWaiting s) s

/-- R232; cells that wait for the pool find places, from the Hopper's starting requester on (R235, R412). -/
def execHopperRefillBurst (pool : Fin 32) (s : State) : Host.Outcome State Fault Refusal :=
  .next (serveWaits (· == pool.val) (cellsWaiting s) (refillBurst s pool))

/-- R251: the lane chooses among the channels with a frame in progress and a credit. -/
def execFabricCellSend (lane : Fin 8) (s : State) : Host.Outcome State Fault Refusal :=
  let k := lane.val
  .next (if bitOf s.fabric.laneMask k = false ∨ isSafe s then s
    else
      let s := (List.range 8).foldl (fun s v => markStall s k v) (drainAllRx s)
      match (rotated 8 s.bench.arbTick).find? (fun v => hasCredit s k v && (laneTx s k v).isSome) with
      | none => s
      | some v =>
        match readyTx s k v with
        | (s, some (m, t)) => dataCell s k v m t
        | (s, none) => s)

/-- R252: a CREDIT cell. -/
def execCreditCellSend (lane : Fin 8) (s : State) : Host.Outcome State Fault Refusal :=
  .next (if bitOf s.fabric.laneMask lane = false ∨ isSafe s then s
    else sendCell (drainAllRx s) lane { zeroHdr with typ := 1 } [])

/-- A cell as it enters a receive buffer, stamped where it starts a frame (R305). -/
def arrivedCell (s : State) (h : CellHdr) (cell : List Byte) : RxCell :=
  { cell := cell, rxTime := nowShort s, stamp := stampRecord (59 + (if h.direct then 0 else h.lport)) (timeSnap s) }

/-- R252, R253: a cell arrives on a fabric lane, and enters the receive buffer of its channel. -/
def execFabricCellReceive (lane : Fin 8) (cell : List Byte) (s : State) : Host.Outcome State Fault Refusal :=
  let k := lane.val
  .next (if bitOf s.fabric.laneMask k = false then s
    else
      let h := readHeader cell
      let i := 8 * k + h.vc
      let ok := headerOk cell
      -- only a DATA cell has taken a credit (R252)
      if ok ∧ h.dst ≠ s.fabric.devId then
        let s := bump s .cellErr i 1
        if h.typ = 0 then giveCredit s k h.vc 1 else s
      else
        let c := getLane s k h.credVc
        let s := if ok ∧ h.typ ≤ 2 then markStall (setLane s k h.credVc { c with kPeer := h.credits }) k h.credVc else s
        if ok ∧ h.typ ≠ 0 then s
        else
          let s := bump s (if ok then .cellsRx else .cellErr) i 1
          let s := if bitOf s.fabric.losslessVc h.vc then s else giveCredit s k h.vc 1
          let x := getLane s k h.vc
          drainRx k h.vc (x.waits.length + 1) (setLane s k h.vc { x with waits := x.waits ++ [arrivedCell s h cell] }))

end Sys2Proof.Machine
end

