-- ==== Sys2Proof/Machine/PacketX.lean ====
section
/-! DEFINITION. Machine/PacketX.lean: the packet X instructions that reach frames, time, connections, buffers, meters
and verdicts, and those that end a pass (R88 to R106, Tables 3.5 and 3.6). -/

namespace Sys2Proof.Machine

/-! ### Common form (R90 to R92) -/

/-- The subsystem that serves a packet X opcode's request, 0 none outside the engine array. -/
def xBlock (op : Nat) : Nat := match op with
  | 0x64 => 10
  | 0x65 => 5
  | 0x66 => 5
  | 0x67 => 6
  | 0x68 => 8
  | 0x69 => 9
  | 0x6a => 6
  | _ => 0

/-- w[d] of a packet X word whose unit answers DENIED while it is under block reset or off: LRN, CON, ALLOC and METER write zero
whenever they return DENIED (R97 to R99, R102, R442). -/
def refusedRegs (w : BitVec 32) (r : Regs) : Regs :=
  let op := fOp w.toNat
  if (op = 0x66 ∧ fFn w.toNat = 0) ∨ op = 0x67 ∨ (op = 0x68 ∧ fFn w.toNat = 0) ∨ op = 0x69 then rset r (fD w.toNat) 0#64 else r

/-- A packet X instruction: run on the thread and its packet; illegal on Uarra-S (R50). -/
def packetX (who : Agent) (w y : BitVec 32) (run : Nat → State → Thread → Packet → TRes) (s : State) : State :=
  match who with
  | .thread t =>
    threadStep t w (some y) TRes.fall (fun s =>
      let th := getThread s t
      match th.pkt with
      | some p =>
        if blockRefuses s (xBlock (fOp w.toNat)) then .fall (setThread s t (th.setRegs (setStatus (refusedRegs w th.regs) stDENIED 0 0)))
        else run t s th p
      | none => .fall s) s
  | _ => coreStep who w (some y) (fun _ _ c => .fall c) noRequest s

/-- The end of a packet X instruction: the result, if any, then w1 and p7 (R90). -/
def xEnd (t : Nat) (f : FmtX) (s : State) (v : Option Word) (status detail high : Nat) : TRes :=
  let th := getThread s t
  let r := match v with
    | some x => rset th.regs f.d.toNat x
    | none => th.regs
  .fall (setThread s t (th.setRegs (setStatus r status detail high)))

/-- Replaces the packet that a thread holds. -/
def setPkt (s : State) (t : Nat) (p : Packet) : State := setThread s t { getThread s t with pkt := some p }

/-! ### Frame access (R94, Table 3.5) -/

/-- Bytes of the frame under program: the window, then the stored frame. -/
def readFrame (s : State) (th : Thread) (p : Packet) (ea n : Nat) : List Byte :=
  let b := frameBytes s p.handle p.len
  (List.range n).map (fun i => if ea + i < 256 then th.window.getD (ea + i) 0#8 else b.getD (ea + i) 0#8)

/-- Writes bytes of the frame: those below 256 into the window, the others into the stored frame. -/
def writeFrame (s : State) (t : Nat) (p : Packet) (ea : Nat) (b : List Byte) : State :=
  let th := getThread s t
  let k := 256 - ea
  let s := setThread s t { th with window := setBytes th.window ea (b.take k) }
  if ea + b.length > 256 then frameWrite s p.handle (max ea 256) (b.drop k) else s

/-- The address of a frame access: w[a] + OFF. -/
def frameEa (th : Thread) (f : FmtX) (off : Nat) : Nat := ((rget th.regs f.a.toNat).toNat + off) % 2 ^ 64

/-- FRD (R94). -/
def execFrd (who : Agent) (n : BitVec 3) (f : FmtX) (s : State) : Host.Outcome State Fault Refusal :=
  .next (packetX who (encX 0x60 f n.toNat) f.desc (fun t s th p =>
    let ea := frameEa th f (bits f.desc.toNat 13 0)
    let k := n.toNat + 1
    if ea + k > p.len ∨ (ea + k > 256 ∧ bitOf f.desc.toNat 31 = false) then xEnd t f s (some 0#64) stDENIED 0 0
    else xEnd t f s (some (BitVec.ofNat 64 (beNat (readFrame s th p ea k)))) stOK 0 0) s)

/-- FWR (R94). -/
def execFwr (who : Agent) (n : BitVec 3) (f : FmtX) (s : State) : Host.Outcome State Fault Refusal :=
  .next (packetX who (encX 0x61 f n.toNat) f.desc (fun t s th p =>
    let ea := frameEa th f (bits f.desc.toNat 13 0)
    let k := n.toNat + 1
    if ea + k > p.len ∨ (ea + k > 256 ∧ bitOf f.desc.toNat 31 = false) then xEnd t f s none stDENIED 0 0
    else if p.spec = .standing then xEnd t f s none stDENIED 1 0
    else xEnd t f (writeFrame s t p ea (beBytes k (rget th.regs f.b.toNat).toNat)) none stOK 0 0) s)

/-- Whether a chain holds a frame whose speculative enqueue stands: its bytes may not change (R94, R201). -/
def chainStands (s : State) (c : Nat) : Bool := (packets s).any (fun p => p.spec == .standing && handleCell p.handle == c)

/-- FWR, buffer form (R229): bytes of a live chain, within its cells; refused as FWR is while the chain's frame stands as a
speculation (R201). -/
def execFwrBuffer (who : Agent) (n : BitVec 3) (f : FmtX) (s : State) : Host.Outcome State Fault Refusal :=
  .next (packetX who (encX 0x61 f (8 + n.toNat)) f.desc (fun t s th _ =>
    let x := (rget th.regs f.a.toNat).toNat
    let h := x % 2 ^ 32
    let o := x / 2 ^ 48 + bits f.desc.toNat 13 0
    let k := n.toNat + 1
    match handleState s h with
    | .live c =>
      match getChain s c with
      | some ch =>
        if o + k > 256 * ch.cells.length then xEnd t f s none stDENIED 0 0
        else if chainStands s c then xEnd t f s none stDENIED 1 0
        else xEnd t f (frameWrite s h o (beBytes k (rget th.regs f.b.toNat).toNat)) none stOK 0 0
      | none => .fault vSTALE h
    | _ => .fault vSTALE h) s)

/-- XTR (R92). -/
def execXtr (who : Agent) (f : FmtX) (s : State) : Host.Outcome State Fault Refusal :=
  .next (packetX who (encX 0x62 f 0) f.desc (fun t s th p =>
    let o := ((rget th.regs f.a.toNat).toNat + bits f.desc.toNat 10 0) % 2 ^ 64
    let k := bits f.desc.toNat 21 16 + 1
    if o + k > 8 * min p.len 256 then xEnd t f s (some 0#64) stDENIED 0 0
    else xEnd t f s (some (BitVec.ofNat 64 (bitField th.window o k))) stOK 0 0) s)

/-- CSUM (R92). -/
def execCsum (who : Agent) (f : FmtX) (s : State) : Host.Outcome State Fault Refusal :=
  .next (packetX who (encX 0x63 f 0) f.desc (fun t s th p =>
    let o := frameEa th f (bits f.desc.toNat 7 0)
    let k := bits f.desc.toNat 23 16 + 1
    if o + k > min p.len 256 then xEnd t f s (some 0#64) stDENIED 0 0
    else
      let sum := rfc1071 ((rget th.regs f.b.toNat).toNat % 65536) (imgBytes th.window o k)
      xEnd t f s (some (BitVec.ofNat 64 sum)) stOK 0 0) s)

/-! ### Time (R95) -/

/-- TSTAMP reading a value of base n; DENIED leaves w[d] when the base does not run. -/
def tstampRead (who : Agent) (u n : Nat) (f : FmtX) (v : TimeBase → Nat) (s : State) : State :=
  packetX who (encX 0x64 f u) f.desc (fun t s _ _ =>
    let b := tbGet s.time n
    if b.running then xEnd t f s (some (BitVec.ofNat 64 (v b))) stOK 0 0 else xEnd t f s none stDENIED 0 0) s

/-- TSTAMP, short time (R95). -/
def execTstampShort (who : Agent) (n : BitVec 2) (f : FmtX) (s : State) : Host.Outcome State Fault Refusal :=
  .next (tstampRead who n.toNat n.toNat f shortTime s)

/-- TSTAMP, seconds (R95). -/
def execTstampSeconds (who : Agent) (n : BitVec 2) (f : FmtX) (s : State) : Host.Outcome State Fault Refusal :=
  .next (tstampRead who (4 + n.toNat) n.toNat f tbSec s)

/-- TSTAMP, egress stamp request (R95). -/
def execTstampMark (who : Agent) (n : BitVec 2) (f : FmtX) (s : State) : Host.Outcome State Fault Refusal :=
  .next (packetX who (encX 0x64 f (8 + n.toNat)) f.desc (fun t s th _ =>
    if (tbGet s.time n.toNat).running then
      let cookie := (rget th.regs f.a.toNat).toNat % 65536
      xEnd t f (setThread s t { th with mark := some (n.toNat, cookie) }) none stOK 0 0
    else xEnd t f s none stDENIED 0 0) s)

/-! ### Connections (R98, R214) -/

/-- The key of k registers from w[a], the lowest register least significant (R96). -/
def keyOf (r : Regs) (a k : Nat) : Nat := ((List.range k).map (fun i => (rget r (a + i)).toNat * 2 ^ (64 * i))).sum

/-- A CON operation with its OP code; event bits above 5 are refused, and change nothing (R213). -/
def conOp (who : Agent) (op : Nat) (f : FmtX) (run : State → Packet → Nat → Nat → ConRes) (s : State) : State :=
  packetX who (encX 0x67 f 0) (setField 30 2 op f.desc) (fun t s th p =>
    let ev := (rget th.regs f.b.toNat).toNat
    let r := if ev ≥ 64 then conFail s stDENIED 0 else run s p (keyOf th.regs f.a.toNat 4) ev
    let s := match r.con with
      | some c => setPkt r.st t { p with lastCon := some c }
      | none => r.st
    xEnd t f s (some (BitVec.ofNat 64 r.word)) r.status r.detail 0) s

/-- CON LOOKUP (R214). -/
def execConLookup (who : Agent) (f : FmtX) (s : State) : Host.Outcome State Fault Refusal :=
  .next (conOp who 0 f (fun s p k ev => conLookupOp s p.epoch k ev) s)

/-- CON OPEN (R214). -/
def execConOpen (who : Agent) (f : FmtX) (s : State) : Host.Outcome State Fault Refusal :=
  .next (conOp who 1 f (fun s p k ev =>
    conOpenOp s p.epoch p.partner k (bits f.desc.toNat 4 0) (bits f.desc.toNat 9 5) ev) s)

/-- CON UPDATE (R214). -/
def execConUpdate (who : Agent) (f : FmtX) (s : State) : Host.Outcome State Fault Refusal :=
  .next (conOp who 2 f (fun s p k ev => conUpdateOp s p.epoch k ev) s)

/-- CON CLOSE (R214). -/
def execConClose (who : Agent) (f : FmtX) (s : State) : Host.Outcome State Fault Refusal :=
  .next (conOp who 3 f (fun s _ k ev => conCloseOp s k ev) s)

/-! ### Buffers (R99, R100, R229, R233, R236, R238) -/

/-- Places a chain's cells in head bank e. -/
def bankCells (e : Nat) (cells : List Nat) (s : State) : State :=
  let s := cells.foldl (fun s c => setCell s c { getCell s c with bank := some e }) s
  { s with stock := { s.stock with bankUsed := tblSet 0 s.stock.bankUsed e (tblGet 0 s.stock.bankUsed e + cells.length) } }

/-- ALLOC (R99, R229, R233, R238).  Where the head bank lacks the cells, BANK_FULL alone is set, whatever the pool would have answered
(log entry 204, DESIGN CHOICE). -/
def execAlloc (who : Agent) (f : FmtX) (s : State) : Host.Outcome State Fault Refusal :=
  .next (packetX who (encX 0x68 f 0) f.desc (fun t s th _ =>
    let n := (rget th.regs f.a.toNat).toNat % 256
    let p := bits f.desc.toNat 4 0
    if n = 0 ∨ n > 64 ∨ (getLedger s t).length ≥ 8 then xEnd t f s (some 0#64) stDENIED 0 0
    else if bankFree s (t / 8) < n then xEnd t f (bump s .allocEmpty p 1) (some 0#64) stEMPTY 2 0
    else match allocCells s p n with
      | (s, .empty dry) => xEnd t f s (some 0#64) stEMPTY (b2n dry) 0
      | (s, .ok cells) =>
        let c := cells.headD 0
        let s := bankCells (t / 8) cells s
        let s := setChain s c (some { cells := cells, hold := 1, owner := t, pending := false, data := [] })
        let h := handleOf s c
        xEnd t f (setLedger s t (getLedger s t ++ [(h, 1)])) (some (BitVec.ofNat 64 h)) stOK 0 0) s)

/-- The handle that an ownership request takes: w[a][31:0] (R100). -/
def handleArg (th : Thread) (f : FmtX) : Nat := (rget th.regs f.a.toNat).toNat % 2 ^ 32

/-- SHARE (R100, R236). -/
def execShare (who : Agent) (f : FmtX) (s : State) : Host.Outcome State Fault Refusal :=
  .next (packetX who (encX 0x68 f 1) f.desc (fun t s th _ =>
    let h := handleArg th f
    let n := (rget th.regs f.b.toNat).toNat % 256
    let x := bits f.desc.toNat 10 0
    match ownShare s h n x with
    | .ok s => xEnd t f (if x = t then ledgerAdd s t h n else s) none stOK 0 0
    | .full => xEnd t f s none stFULL 0 0
    | .viol c => .fault c h) s)

/-- RELEASE (R100, R236). -/
def execRelease (who : Agent) (f : FmtX) (s : State) : Host.Outcome State Fault Refusal :=
  .next (packetX who (encX 0x68 f 2) f.desc (fun t s th _ =>
    let h := handleArg th f
    match ownRelease s h with
    | .ok s => xEnd t f (ledgerSub s t h) none stOK 0 0
    | .full => xEnd t f s none stFULL 0 0
    | .viol c => .fault c h) s)

/-- FREE (R100, R236). -/
def execFree (who : Agent) (f : FmtX) (s : State) : Host.Outcome State Fault Refusal :=
  .next (packetX who (encX 0x68 f 3) f.desc (fun t s th _ =>
    let h := handleArg th f
    match ownFree s t h with
    | .ok s => xEnd t f (ledgerSub s t h) none stOK 0 0
    | .full => xEnd t f s none stFULL 0 0
    | .viol c => .fault c h) s)

/-! ### Meter and verdict (R102, R103, R274) -/

/-- METER (R102, R274): the priority value goes to w1[18:16]. -/
def execMeter (who : Agent) (f : FmtX) (s : State) : Host.Outcome State Fault Refusal :=
  .next (packetX who (encX 0x69 f 0) f.desc (fun t s th p =>
    let i := (bits f.desc.toNat 16 0 + (rget th.regs f.a.toNat).toNat % 131072) % 131072
    let r := meter s i p.len ((rget th.regs f.b.toNat).toNat % 4)
    if r.2.ok then xEnd t f r.1 (some (BitVec.ofNat 64 r.2.colour)) stOK r.2.detail r.2.ipv
    else xEnd t f r.1 (some 0#64) stDENIED 0 0) s)

/-- The standing speculative descriptor of a packet becomes an ordinary enqueue, wherever it stands. -/
def ordinary (i : Nat) (mark : Option (Nat × Nat)) (d : Desc) : Desc :=
  if d.idx = i ∧ d.spec then { d with spec := false, mark := mark } else d

/-- Whether a packet's descriptor still stands on a queue or a port. -/
def stillStands (s : State) (p : Packet) : Bool :=
  (specPort s p.desc).isSome || (getQueue s p.specQueue).frames.any (fun d => d.idx == p.desc && d.spec)

/-- A transmission of the speculative frame becomes an ordinary one; its record follows the confirmation (R309). -/
def confirmTx (i : Nat) (mark : Option (Nat × Nat)) (u : TxRec) : TxRec :=
  if isSpecTx i u then { u with desc := ordinary i mark u.desc } else u

/-- Confirmation on the port that has the frame: what waited for it is counted, and a transmission that ended stomped is settled
(R202, R309). -/
def confirmPort (s : State) (m i : Nat) (mark : Option (Nat × Nat)) : State :=
  let q := getPort s m
  let mine := (q.tx.toList ++ q.preempted.toList ++ q.decided.toList ++ q.ended).filter (isSpecTx i)
  let s := setPort s m { q with
    tx := q.tx.map (confirmTx i mark), preempted := q.preempted.map (confirmTx i mark), decided := q.decided.map (confirmTx i mark)
    ended := q.ended.filter (fun u => !isSpecTx i u) }
  let s := mine.foldl (fun s u =>
    let s := if u.parked then bump s .preempted m 1 else s
    match txLane s u with
    | some e => if m ≥ 59 then bump s .cellsTx (8 * e.1 + e.2) (ceilDiv u.done 240) else s
    | none => s) s
  (q.ended.filter (isSpecTx i)).foldl (fun s u => settleTx s m (confirmTx i mark u)) s

/-- Confirmation of a standing speculation (R103, R158, R202). -/
def confirmSpec (s : State) (t : Nat) (p : Packet) : State :=
  let mark := (getThread s t).mark <|> p.req
  let s :=
    if stillStands s p then
      let x := getQueue s p.specQueue
      let s := setQueue s p.specQueue { x with frames := x.frames.map (ordinary p.desc mark) }
      match specPort s p.desc with
      | some m => confirmPort s m p.desc mark
      | none => s
    else discardStored s p.handle p.desc
  let s := bump s .specConfirmed p.src 1
  let s := match p.seq with
    | some n => seqReady s p.src n
    | none => s
  setPkt s t { p with spec := .confirmed }

/-- VERDICT confirm (R103, R347). -/
def execVerdictConfirm (who : Agent) (f : FmtX) (s : State) : Host.Outcome State Fault Refusal :=
  .next (packetX who (encX 0x6a f 0) f.desc (fun t s th p =>
    let same := decide ((rget th.regs f.a.toNat).toNat % 2 ^ 19 = p.specQueue ∧ (rget th.regs f.b.toNat).toNat % 2 ^ 12 = p.specTemplate)
    let out (s : State) (st : Nat) : TRes := xEnd t f s none st 0 0
    match p.spec with
    | .confirmed => out s (if same then stOK else stMISS)
    | .refused => out s stFULL
    | .full => out s stFULL
    | .standing =>
      if same = false then out (setPkt (withdrawSpec s p) t { p with spec := .withdrawn }) stMISS
      else if zoneAllowed s p p.specQueue then out (confirmSpec s t p) stOK
      else
        let s := breach s p.partner 3 p.src
        out (setPkt (withdrawSpec s p) t { p with spec := .withdrawn }) stMISS
    | _ => out s stMISS) s)

/-- VERDICT withdraw (R103). -/
def execVerdictWithdraw (who : Agent) (f : FmtX) (s : State) : Host.Outcome State Fault Refusal :=
  .next (packetX who (encX 0x6a f 1) f.desc (fun t s _ p =>
    if p.spec = .standing then xEnd t f (setPkt (withdrawSpec s p) t { p with spec := .withdrawn }) none stOK 0 0
    else xEnd t f s none stMISS 0 0) s)

/-! ### Terminal instructions (R88, R104, R105) -/

/-- The pass of a thread ends: its chains are reclaimed and it is free. -/
def passOver (s : State) (t : Nat) : TRes := .ended (clearThread (passEndReclaim s t) t)

/-- The window is written back into the stored frame (R88). -/
def writeBack (s : State) (t : Nat) (p : Packet) : State := frameWrite s p.handle 0 (getThread s t).window

/-- A terminal instruction: ignored after a confirmation (R105); else the speculation ends first and run disposes of the
frame. -/
def terminal (who : Agent) (w y : BitVec 32) (run : Nat → State → Thread → Packet → State) (s : State) : State :=
  packetX who w y (fun t s th p =>
    if p.spec = .confirmed then passOver (bump s .disposeIgnored p.entry 1) t
    else
      let r := endSpec s p
      passOver (run t r.1 th r.2) t) s

/-- The frame's number became ready. -/
def readySeq (s : State) (p : Packet) : State := match p.seq with
  | some n => seqReady s p.src n
  | none => s

/-- The frame's number is filled. -/
def fillSeq (s : State) (p : Packet) : State := match p.seq with
  | some n => seqFill s p.src n
  | none => s

/-- ENQ with BUF = 0 (R104, R197, R347): R197 is evaluated whatever becomes of the frame. -/
def execEnq (who : Agent) (f : FmtX) (s : State) : Host.Outcome State Fault Refusal :=
  .next (terminal who (encX 0x6b f 0) (setField 15 1 0 f.desc) (fun t s th p =>
    let s := writeBack s t p
    let q := (rget th.regs f.a.toNat).toNat % 2 ^ 19
    let tp := bits f.desc.toNat 11 0
    let dp := bits f.desc.toNat 14 13
    let cut := bitOf f.desc.toNat 12
    let mark := th.mark <|> p.req
    if zoneAllowed s p q = false then
      dropPacket (notSent (bump (breach (installAtEnq s p q tp dp cut) p.partner 3 p.src) .contractDrop p.partner 1) q mark.isSome) p
    else
      let r := enqueue s { packetDesc s p q tp dp cut false false with mark := mark }
      let s := installAtEnq r.1 p q tp dp cut
      if r.2 then readySeq s p else dropPacket (notSent s q mark.isSome) p) s)

/-- ENQ with BUF = 1 (R106): the chain's length counts its FCS, as every frame length does; a length below 64 or beyond the chain's
cells is taken as it stands, absent bytes reading zero (log entry 49). -/
def execEnqBuf (who : Agent) (f : FmtX) (s : State) : Host.Outcome State Fault Refusal :=
  .next (packetX who (encX 0x6b f 0) (setField 15 1 1 f.desc) (fun t s th p =>
    let b := (rget th.regs f.b.toNat).toNat
    let h := b % 2 ^ 32
    match handleState s h with
    | .live c =>
      match getChain s c with
      | none => .fault vSTALE h
      | some ch =>
        if ch.owner ≠ t then .fault vFOREIGNFREE h
        else if ch.pending then .fault vDOUBLEFREE h
        else match takeDesc s with
          | none => xEnd t f (bump s .descDrop 0 1) none stFULL 0 0
          | some (i, s1) =>
            let q := (rget th.regs f.a.toNat).toNat % 2 ^ 19
            let d := packetDesc s1 p q (bits f.desc.toNat 11 0) (bits f.desc.toNat 14 13) (bitOf f.desc.toNat 12) false false
            let d := { d with idx := i, handle := h, len := bits b 45 32, cells := ch.cells.length, order := none, seq := 0
                              rxTime := nowShort s1, arrVc := none, lastBit := s1.localNs }
            let r := enqueue s1 d
            if r.2 then
              let s := setChain r.1 c ((getChain r.1 c).map (fun x => { x with owner := 0x400 }))
              xEnd t f (ledgerSub s t h) none stOK 0 0
            else xEnd t f (freeDesc r.1 i) none stFULL 0 0
    | _ => .fault vSTALE h) s)

/-- One copy of a multicast frame (R242, R347, R410); a copy that R240 refuses counts in ADMIT_REFUSED.  The hold count of one hold per
copy may pass 255, of which the spec says nothing for MCAST (log entry 203, DESIGN CHOICE). -/
def mcastCopy (p : Packet) (noSelf : Bool) (s : State) (e : Nat × Nat) : State :=
  let q := e.2
  match queuePort s q with
  | none => bump s .unattachedDrop 0 1
  | some m =>
    if noSelf ∧ m = p.src then s
    else if zoneAllowed s p q = false then breach s p.partner 3 p.src
    else if descends s q p.arrVc then bump s .vcOrderDrop q 1
    else match takeDesc s with
      | none => bump s .descDrop 0 1
      | some (i, s1) =>
        let c := handleCell p.handle
        let hold (s : State) : State := setChain s c ((getChain s c).map (fun x => { x with hold := x.hold + 1 }))
        let d := { packetDesc s1 p q e.1 0 false false true with idx := i }
        -- copies to one queue keep their order (R243)
        let behind := (getSpoil s m).any (fun e => e.desc.queue == q && decide (s.bench.tickCount < e.deadline))
        let r := if !behind && copyGate s1 q then enqueue (hold s1) d else (hold s1, false)
        if r.2 then r.1
        else if (getSpoil s m).length < 16384 then
          setSpoil r.1 m (getSpoil r.1 m ++ [{ desc := d, deadline := s.bench.tickCount + s.stock.residue }])
        else
          let s := freeDesc (setChain r.1 c ((getChain r.1 c).map (fun x => { x with hold := x.hold - 1 }))) i
          bump s .spoilFull m 1

/-- MCAST (R104, R242). -/
def execMcast (who : Agent) (f : FmtX) (s : State) : Host.Outcome State Fault Refusal :=
  .next (terminal who (encX 0x6b f 1) f.desc (fun t s th p =>
    let s := writeBack s t p
    let c := handleCell p.handle
    let s := setChain s c ((getChain s c).map (fun x => { x with owner := 0x401 }))
    let g := tblGet [] s.stock.groups ((rget th.regs f.a.toNat).toNat % 65536)
    let s := g.foldl (mcastCopy p (bitOf f.desc.toNat 0)) s
    let s := match ownFree s 0x401 p.handle with
      | .ok s => s
      | _ => s
    readySeq (freeDesc s p.desc) p) s)

/-- DROP (R104). -/
def execDrop (who : Agent) (f : FmtX) (s : State) : Host.Outcome State Fault Refusal :=
  .next (terminal who (encX 0x6c f 0) f.desc (fun _ s th p =>
    dropPacket (bump s .dropReason ((rget th.regs f.a.toNat).toNat % 256) 1) p) s)

/-- PUNT (R104, R488, R490). -/
def execPunt (who : Agent) (f : FmtX) (s : State) : Host.Outcome State Fault Refusal :=
  .next (terminal who (encX 0x6c f 1) f.desc (fun t s th p =>
    let s := writeBack s t p
    let reason := (rget th.regs f.a.toNat).toNat % 65536
    let s := if bitOf f.desc.toNat 6 then puntTriad s reason p else puntHost s (bits f.desc.toNat 5 0) reason p
    discardStored (fillSeq s p) p.handle p.desc) s)

/-- RECIRC (R104, R122): the thread stays reserved for the packet's next pass. -/
def execRecirc (who : Agent) (f : FmtX) (s : State) : Host.Outcome State Fault Refusal :=
  .next (packetX who (encX 0x6c f 2) f.desc (fun t s th p =>
    if p.spec = .confirmed then passOver (bump s .disposeIgnored p.entry 1) t
    else
      let r := endSpec s p
      if p.pass = 3 then passOver (dropPacket (bump r.1 .recircLimit p.entry 1) r.2) t
      else
        let s := clearThread (passEndReclaim (writeBack r.1 t p) t) t
        .ended (setThread s t { getThread s t with
          reserved := some { r.2 with pass := p.pass + 1, entry := bits f.desc.toNat 7 0, lastCon := none,
                                      carry0 := rget th.regs f.a.toNat, carry1 := rget th.regs f.b.toNat } })) s)

/-- DONE (R104, R197). -/
def execDone (who : Agent) (f : FmtX) (s : State) : Host.Outcome State Fault Refusal :=
  .next (packetX who (encX 0x6c f 3) f.desc (fun t s _ p =>
    if p.spec = .confirmed then passOver (setHit s p) t
    else
      let r := endSpec s p
      passOver (dropPacket (bump r.1 .doneDrop p.entry 1) r.2) t) s)

end Sys2Proof.Machine
end

