-- ==== Sys2Proof/Machine/Lookup.lean ====
section
/-! DEFINITION. Machine/Lookup.lean: the lookup complex: exact-match tables with their buckets, overflow, learning,
eviction and relocation, routing domains, ageing, and the LKP, LRN and DEL instructions (R163 to R193). -/

namespace Sys2Proof.Machine

/-! ### Tables and tiers (R163 to R165, R169) -/

def getTable (s : State) (t : Nat) : Option LTable := tblGet none s.lookup.tables t
def setTable (s : State) (t : Nat) (x : Option LTable) : State :=
  { s with lookup := { s.lookup with tables := tblSet none s.lookup.tables t x } }

def getTier (s : State) (dram : Bool) : LTier := if dram then s.lookup.dram else s.lookup.onDie
def setTier (s : State) (dram : Bool) (x : LTier) : State :=
  if dram then { s with lookup := { s.lookup with dram := x } } else { s with lookup := { s.lookup with onDie := x } }

/-- Buckets and overflow entries of a tier (Table 5.1). -/
def tierBuckets (dram : Bool) : Nat := if dram then 4194304 else 262144
def tierOvf (dram : Bool) : Nat := if dram then 65536 else 8192

def TableDef.width (d : TableDef) : Nat := 2 ^ d.key
def TableDef.bits (d : TableDef) : Nat := 64 * 2 ^ d.key

/-- The candidate buckets of a key (R169). -/
def tableBuckets (t : Nat) (d : TableDef) (key : Nat) : Nat × Nat := bucketPair t d.bits key d.seed (tierBuckets d.dram)

/-- Word p of a key. -/
def keyPart (key p : Nat) : Nat := key / 2 ^ (64 * p) % 2 ^ 64

/-- Where an entry stands: its first slot, or an overflow entry. -/
inductive Loc where
  | slot (i : Nat)
  | ovf (i : Nat)
  deriving DecidableEq, Repr

def getSlot (s : State) (dram : Bool) (i : Nat) : LSlot := tblGet LSlot.empty (getTier s dram).slots i
def getOvf (s : State) (dram : Bool) (i : Nat) : LSlot := tblGet LSlot.empty (getTier s dram).ovf i

def setSlot (s : State) (dram : Bool) (i : Nat) (x : LSlot) : State :=
  let t := getTier s dram
  setTier s dram { t with slots := tblSet LSlot.empty t.slots i x, keptSlots := tblSet LSlot.empty t.keptSlots i LSlot.empty }
def setOvf (s : State) (dram : Bool) (i : Nat) (x : LSlot) : State :=
  let t := getTier s dram
  setTier s dram { t with ovf := tblSet LSlot.empty t.ovf i x, keptOvf := tblSet LSlot.empty t.keptOvf i LSlot.empty }

/-- Part 0 of an entry, or the overflow entry. -/
def getEntry (s : State) (dram : Bool) (l : Loc) : LSlot := match l with
  | .slot i => getSlot s dram i
  | .ovf i => getOvf s dram i

/-- Changes part 0 of an entry. -/
def modEntry (s : State) (dram : Bool) (l : Loc) (f : LSlot → LSlot) : State := match l with
  | .slot i => setSlot s dram i (f (getSlot s dram i))
  | .ovf i => setOvf s dram i (f (getOvf s dram i))

/-- Changes every part of an entry (R170). -/
def modParts (s : State) (dram : Bool) (l : Loc) (f : LSlot → LSlot) : State := match l with
  | .slot i => (List.range (2 ^ (getSlot s dram i).width)).foldl (fun s p => setSlot s dram (i + p) (f (getSlot s dram (i + p)))) s
  | .ovf i => setOvf s dram i (f (getOvf s dram i))

/-- A slot or overflow entry that no entry uses (R170). -/
def LSlot.isFree (x : LSlot) : Bool := !x.used && x.tag == 0

/-- Whether commit tag c has applied (R172). -/
def tagApplied (s : State) (c : Nat) : Bool := tblGet TagState.free s.lookup.tags c == .applied

/-- visible of R172. -/
def slotVisible (s : State) (x : LSlot) : Bool :=
  x.used && x.vis && (x.tag == 0 || x.tag == 3 || (x.tag == 1 && tagApplied s x.ctag) || (x.tag == 2 && !tagApplied s x.ctag))

/-- data of R172. -/
def slotData (s : State) (x : LSlot) : Nat := if x.tag = 3 ∧ tagApplied s x.ctag then x.pdata else x.data

/-- The aligned groups of w slots of a bucket (R164). -/
def bucketGroups (b w : Nat) : List Nat := (List.range (4 / w)).map (fun j => 4 * b + w * j)

/-- The aligned groups of both candidate buckets, in order. -/
def keyGroups (t : Nat) (d : TableDef) (key : Nat) : List Nat :=
  let b := tableBuckets t d key
  bucketGroups b.1 d.width ++ bucketGroups b.2 d.width

/-- Whether the slots from i hold a key of table t. -/
def groupHolds (s : State) (t : Nat) (d : TableDef) (key i : Nat) : Bool :=
  (List.range d.width).all (fun p =>
    let x := getSlot s d.dram (i + p)
    x.used && x.table == t && x.width == d.key && x.part == p && x.keyw == keyPart key p)

/-- The copies of a key in the search order of R172 that satisfy a test. -/
def findBy (s : State) (t : Nat) (d : TableDef) (key : Nat) (ok : LSlot → Bool) : Option Loc :=
  match (keyGroups t d key).find? (fun i => groupHolds s t d key i && ok (getSlot s d.dram i)) with
  | some i => some (.slot i)
  | none => ((getTier s d.dram).ovf.find? (fun e => e.2.used && e.2.table == t && e.2.keyw == key && ok e.2)).map (fun e => .ovf e.1)

/-- find of R172. -/
def findKey (s : State) (t : Nat) (d : TableDef) (key : Nat) : Option Loc := findBy s t d key (slotVisible s)

/-- Key of an entry: from the slots of its group, or of the overflow entry. -/
def entryKey (s : State) (dram : Bool) (l : Loc) : Nat := match l with
  | .slot i => ((List.range (2 ^ (getSlot s dram i).width)).map (fun p => (getSlot s dram (i + p)).keyw * 2 ^ (64 * p))).sum
  | .ovf i => (getOvf s dram i).keyw

/-- The entries of a tier: part 0 of every group in use, and overflow entries in use. -/
def tierEntries (s : State) (dram : Bool) : List (Loc × LSlot) :=
  ((getTier s dram).slots.filter (fun e => e.2.used && e.2.part == 0)).map (fun e => (.slot e.1, e.2))
    ++ ((getTier s dram).ovf.filter (fun e => e.2.used)).map (fun e => (.ovf e.1, e.2))

/-- Whether a place holds the copy that a relocation has made, which is no entry of its own (R180). -/
def relocCopy (s : State) (dram : Bool) (l : Loc) : Bool := match l with
  | .slot i => s.lookup.relocs.any (fun r => r.dram == dram && r.new == i)
  | .ovf _ => false

/-- count[t] and ovf_count[t] (R179), over both tiers. -/
def tableCount (s : State) (t : Nat) : Nat :=
  ([false, true].map (fun dram => ((tierEntries s dram).filter (fun e => e.2.table == t && !relocCopy s dram e.1)).length)).sum
def tableOvf (s : State) (t : Nat) : Nat :=
  ((s.lookup.onDie.ovf ++ s.lookup.dram.ovf).filter (fun e => e.2.used && e.2.table == t)).length

/-- Whether the entry at a slot is under relocation (R180). -/
def underReloc (s : State) (dram : Bool) (i : Nat) : Bool :=
  s.lookup.relocs.any (fun r => r.dram == dram && (r.old == i || r.new == i))

/-! ### Placing, relocation and eviction (R179 to R181) -/

/-- What place() writes beside the key (R179). -/
structure NewEntry where
  table : Nat
  key : Nat
  data : Nat
  static : Bool
  tag : Nat
  ctag : Nat

/-- Part p of a new entry. -/
def NewEntry.part (e : NewEntry) (d : TableDef) (ph : Bool) (p : Nat) : LSlot :=
  { LSlot.empty with
    keyw := keyPart e.key p, used := true, vis := true, tag := e.tag, width := d.key, part := p, ctag := e.ctag, table := e.table
    data := if p = 0 then e.data else 0, static := p == 0 && e.static, hit := p == 0, swept := p == 0 && !ph }

/-- PH of a table; of one that a commit has still to define, 0. -/
def tablePh (s : State) (t : Nat) : Bool := match getTable s t with
  | some x => x.ph
  | none => false

/-- place() (R179). -/
def placeEntry (s : State) (d : TableDef) (l : Loc) (e : NewEntry) : State :=
  let ph := tablePh s e.table
  match l with
  | .slot i => (List.range d.width).foldl (fun s p => setSlot s d.dram (i + p) (e.part d ph p)) s
  | .ovf i => setOvf s d.dram i { e.part d ph 0 with keyw := e.key }

/-- Whether w slots from i are free. -/
def groupFree (s : State) (dram : Bool) (i w : Nat) : Bool := (List.range w).all (fun p => (getSlot s dram (i + p)).isFree)

/-- The entry that every used slot of the w slots from h belongs to, when it may be relocated, with the free group of its
other candidate bucket (R179): its first slot and that group. -/
def relocTarget (s : State) (dram : Bool) (h w : Nat) : Option (Nat × Nat) :=
  let used := (List.range w).filterMap (fun p =>
    let x := getSlot s dram (h + p)
    if x.isFree then none else some (h + p - x.part))
  match used.eraseDups with
  | [i] =>
    let x := getSlot s dram i
    match getTable s x.table with
    | none => none
    | some tb =>
      if slotVisible s x && x.tag == 0 && !underReloc s dram i then
        let b := tableBuckets x.table tb.defn (entryKey s dram (.slot i))
        let other := if i / 4 = b.1 then b.2 else b.1
        ((bucketGroups other tb.defn.width).find? (fun g => groupFree s dram g tb.defn.width)).map (fun g => (i, g))
      else none
  | _ => none

/-- Steps 1 and 2 of R180: a copy of the entry at i is written to g, then published. -/
def copyEntry (s : State) (dram : Bool) (i g : Nat) : State :=
  let w := 2 ^ (getSlot s dram i).width
  let s := (List.range w).foldl (fun s p => setSlot s dram (g + p) (getSlot s dram (i + p))) s
  bump s .relocated (getSlot s dram i).table 1

/-- Step 4 of R180: HIT and STRIKE merge into the copy and the old copy is cleared. -/
def mergeEntry (s : State) (dram : Bool) (i g : Nat) : State :=
  let o := getSlot s dram i
  let s := modEntry s dram (.slot g) (fun x => { x with hit := x.hit || o.hit, strike := x.strike && o.strike })
  modParts s dram (.slot i) (fun x => { x with used := false, vis := false, tag := 0 })

/-- Where an insertion without eviction goes (R179): a place, or a relocation of the entry at old to new that frees
group h, or nowhere. -/
inductive InsertAt where
  | place (l : Loc)
  | reloc (old new h : Nat)
  | noRoom

/-- The choice of insert() before eviction (R179). -/
def insertAt (s : State) (t : Nat) (d : TableDef) (key : Nat) : InsertAt :=
  if tableCount s t < d.maxEntries then
    let gs := keyGroups t d key
    match gs.find? (fun g => groupFree s d.dram g d.width) with
    | some g => .place (.slot g)
    | none =>
      match gs.findSome? (fun h => (relocTarget s d.dram h d.width).map (fun r => (r, h))) with
      | some (r, h) => .reloc r.1 r.2 h
      | none =>
        let used := (getTier s d.dram).ovf
        if tableOvf s t < d.ovfMax then
          match (List.range (used.length + 1)).find? (fun i => (getOvf s d.dram i).isFree && decide (i < tierOvf d.dram)) with
          | some i => .place (.ovf i)
          | none => .noRoom
        else .noRoom
  else .noRoom

/-- One step of a tier's LFSR (R181). -/
def lfsrNext (x : BitVec 16) : BitVec 16 :=
  let b := x.getLsbD 0 ^^ x.getLsbD 2 ^^ x.getLsbD 3 ^^ x.getLsbD 5
  (x >>> 1) ||| (if b then 0x8000#16 else 0#16)

/-- Posts the event of an eviction or age removal when NOTIFY asks for it (R193). -/
def lookupEvent (s : State) (d : TableDef) (typ partner t key : Nat) : State :=
  if d.notify then postEvent s 5 [typ * 2 ^ 24 + partner * 2 ^ 8 + t, tick32 s, key % 2 ^ 32, key / 2 ^ 32 % 2 ^ 32] else s

/-- evict() (R181): the state with the new entry, and the evicted key; none without a candidate. -/
def evictEntry (s : State) (d : TableDef) (e : NewEntry) (partner : Nat) : Option (State × Nat) :=
  let cands := (keyGroups e.table d e.key).filter (fun i =>
    let x := getSlot s d.dram i
    x.part == 0 && x.table == e.table && slotVisible s x && !x.static && x.tag == 0 && !underReloc s d.dram i)
  match cands with
  | [] => none
  | c :: _ =>
    let r := (getTier s d.dram).lfsr
    let v := if d.random then cands.getD (r.toNat % cands.length) c else (cands.find? (fun i => (getSlot s d.dram i).strike)).getD c
    let s := if d.random then setTier s d.dram { getTier s d.dram with lfsr := lfsrNext r } else s
    let key := entryKey s d.dram (.slot v)
    let s := logChange s (.entryRemove e.table d.bits key)
    let s := lookupEvent (bump s .evicted e.table 1) d 0x01 partner e.table key
    some (placeEntry s d (.slot v) e, key % 2 ^ 64)

/-! ### Learning (R176, R177) -/

/-- The learning bucket of a table refilled (R177), in units of 2^-16 x 10^-9 token. -/
def learnBucket (s : State) (x : LTable) : Bucket :=
  { tokens := min (x.defn.lrnBurst * 65536000000000) (x.bucket.tokens + (s.localNs - x.bucket.upd) * x.defn.lrnRate * 65536)
    upd := s.localNs }

/-- What LRN answers: a result, or it waits for a relocation. -/
inductive LrnOut where
  | done (s : State) (status detail word : Nat)
  | wait (s : State)

/-- Spends a token and counts the partner's new key, and counts LEARNED. -/
def learnedKey (s : State) (c : LrnCtx) : State :=
  match getTable s c.table with
  | none => s
  | some x =>
    let b := learnBucket s x
    let x := { x with bucket := { b with tokens := b.tokens - 65536000000000 }
                      newBy := tblSet 0 x.newBy c.partner (tblGet 0 x.newBy c.partner + 1) }
    logChange (bump (setTable s c.table (some x)) .learned c.table 1) (.entrySet c.table x.defn.bits c.key c.data)

def LrnCtx.entry (c : LrnCtx) : NewEntry := { table := c.table, key := c.key, data := c.data, static := false, tag := 0, ctag := 0 }

/-- Whether a pending TABLE_DEF that changes KEY, PLACE or SEED, or deletes, closes a table (R167). -/
def defCloses (x : TableDef) (o : Obj) : Bool :=
  !bitOf (im32 o.img 0) 31 || decide (bits (im32 o.img 0) 25 24 ≠ x.key) || (bitOf (im32 o.img 0) 26 != x.dram) || decide (im32 o.img 0x18 ≠ x.seed)

def tableClosed (s : State) (t : Nat) : Bool :=
  match getTable s t with
  | none => false
  | some x => s.gate.committed.any (fun c => c.objs.any (fun o => o.sub == 5 && o.typ == 1 && im8 o.img 0 == t && defCloses x.defn o))

/-- LRN at its place in the write order (R176). -/
def lrnApply (s : State) (c : LrnCtx) : LrnOut :=
  match getTable s c.table with
  | none => .done s stDENIED 0 0
  | some x =>
    let d := x.defn
    match findBy s c.table d c.key (fun y => slotVisible s y || (y.used && y.tag == 1)) with
    | some l =>
      let y := getEntry s d.dram l
      let s := bump s .learnExisted c.table 1
      if y.static ∨ y.tag = 1 then .done s stOK 2 0
      else
        let s := modEntry s d.dram l (fun y => { y with data := c.data, hit := true })
        .done (logChange s (.entrySet c.table d.bits c.key c.data)) stOK 2 0
    | none =>
      if (d.partLimit > 0 ∧ tblGet 0 x.newBy c.partner ≥ d.partLimit) ∨ (learnBucket s x).tokens < 65536000000000 then
        .done (bump s .learnBudget c.table 1) stBUDGET 0 0
      else
        match insertAt s c.table d c.key with
        | .place (.slot i) => .done (learnedKey (placeEntry s d (.slot i) c.entry) c) stOK 0 0
        | .place (.ovf i) => .done (learnedKey (placeEntry s d (.ovf i) c.entry) c) stOK 1 0
        | .reloc old new _ =>
          let s := copyEntry s d.dram old new
          .wait { s with lookup := { s.lookup with relocs := s.lookup.relocs ++ [{ dram := d.dram, old := old, new := new, ctx := c }] } }
        | .noRoom =>
          match evictEntry s d c.entry c.partner with
          | none => .done (bump s .learnFull c.table 1) stFULL 0 0
          | some (s, k) => .done (learnedKey s c) stOK 4 k

/-- The LRN of a relocation whose drains are done (R180): the old copy is cleared and the new entry placed in the freed
group, unless the device has come to follow or rejoin, when the LRN writes nothing (R399). -/
def relocFinish (s : State) (r : Reloc) : LrnOut :=
  let s := mergeEntry { s with lookup := { s.lookup with relocs := s.lookup.relocs.erase r } } r.dram r.old r.new
  match getTable s r.ctx.table with
  | none => .done s stDENIED 0 0
  | some x =>
    if pairPassive s then .done s stOK 0 0
    else .done (learnedKey (placeEntry s x.defn (.slot (r.old / x.defn.width * x.defn.width)) r.ctx.entry) r.ctx) stOK 0 0

/-- The result of an LRN reaches its thread, unless the thread has lost its packet since (R90, R415). -/
def lrnReturn (s : State) (c : LrnCtx) (status detail word : Nat) : State :=
  let th := getThread s c.thread
  if th.pkt.isNone then s
  else setThread s c.thread (th.setRegs (setStatus (rset th.regs c.d (BitVec.ofNat 64 word)) status detail 0))

def tierBusy (s : State) (dram : Bool) : Bool := s.lookup.relocs.any (fun r => r.dram == dram)

/-- LRN on a Follow or Rejoining device: the results that it would give, and no change (R399). -/
def lrnPassive (s : State) (c : LrnCtx) : LrnOut :=
  match lrnApply s c with
  | .done _ st de wo => .done s st de wo
  | .wait _ => .done s stOK 0 0

/-- An LRN at its place in the write order, on a device of either role. -/
def lrnServe (s : State) (c : LrnCtx) : LrnOut := if pairPassive s then lrnPassive s c else lrnApply s c

/-- Serves the pending LRN writes of a tier in order until one waits for a relocation. -/
def serveWaiting (dram : Bool) : Nat → State → State
  | 0, s => s
  | n + 1, s =>
    let t := getTier s dram
    match t.waiting with
    | [] => s
    | c :: rest =>
      match lrnServe (setTier s dram { t with waiting := rest }) c with
      | .done s st de wo => serveWaiting dram n (lrnReturn s c st de wo)
      | .wait s => s

/-- A tier's relocation completes, and its LRN returns (R180). -/
def relocDone (s : State) (dram : Bool) : State :=
  match s.lookup.relocs.find? (fun r => r.dram == dram) with
  | none => s
  | some r =>
    match relocFinish s r with
    | .done s st de wo => lrnReturn s r.ctx st de wo
    | .wait s => s

/-- The drains of a tier's relocation are done (R180), and the writes behind it are served (R174). -/
def relocDrain (s : State) (dram : Bool) : State := if tierBusy s dram then serveWaiting dram 8 (relocDone s dram) else s

/-- Completes every pending write of a tier. -/
def drainTier (dram : Bool) : Nat → State → State
  | 0, s => s
  | n + 1, s => if tierBusy s dram then drainTier dram n (relocDrain s dram) else s

def drainAll (s : State) : State := drainTier true 10 (drainTier false 10 s)

/-- LRN from its issue (R167, R168, R174 to R176, R399). -/
def lrnIssue (s : State) (c : LrnCtx) : LrnOut :=
  match getTable s c.table with
  | none => .done s stDENIED 0 0
  | some x =>
    let dram := x.defn.dram
    if x.defn.learn = false ∨ tableClosed s c.table then .done s stDENIED 0 0
    else if pairPassive s then lrnPassive s c
    else if tierBusy s dram then
      if (getTier s dram).waiting.length + 1 ≥ 8 then .done (bump s .writeBusy (b2n dram) 1) stBUDGET 0 0
      else .wait (setTier s dram { getTier s dram with waiting := (getTier s dram).waiting ++ [c] })
    else lrnApply s c

/-- DEL at its place in the write order (R178, R399). -/
def delApply (s : State) (t : Nat) (d : TableDef) (key : Nat) : State × Nat :=
  match findKey s t d key with
  | none => (s, stMISS)
  | some l =>
    if (getEntry s d.dram l).static ∨ (findBy s t d key (fun y => y.used && y.tag != 0)).isSome then (s, stDENIED)
    else if pairPassive s then (s, stOK)
    else (logChange (modParts s d.dram l (fun y => { y with used := false, vis := false })) (.entryRemove t d.bits key), stOK)

/-- DEL (R168, R175): one that names a key under relocation waits for it to complete, and goes ahead of the LRN writes that wait. -/
def delKey (s : State) (t key : Nat) : State × Nat :=
  match getTable s t with
  | none => (s, stDENIED)
  | some x =>
    let d := x.defn
    if d.learn = false then (s, stDENIED)
    else if s.lookup.relocs.any (fun r => r.dram == d.dram && (getSlot s d.dram r.old).table == t && entryKey s d.dram (.slot r.old) == key) then
      let r := delApply (relocDone s d.dram) t d key
      (serveWaiting d.dram 8 r.1, r.2)
    else delApply s t d key

/-! ### Lookups (R172, R187) -/

/-- An exact lookup: the data on a hit. -/
def lkpExact (s : State) (t key : Nat) : State × Option Nat :=
  let s := bump s .lookups t 1
  match getTable s t with
  | none => (s, none)
  | some x =>
    match findKey s t x.defn key with
    | none => (s, none)
    | some l =>
      let v := slotData s (getEntry s x.defn.dram l)
      (bump (modEntry s x.defn.dram l (fun y => { y with hit := true })) .hits t 1, some v)

/-- The route of longest prefix for an address (R187). -/
def bestRoute (l : List Route) (v6 : Bool) (addr : Nat) : Option Route :=
  let n := if v6 then 128 else 32
  (l.filter (fun r => r.v6 == v6 && decide (r.addr / 2 ^ (n - r.len) = addr / 2 ^ (n - r.len)))).foldl (fun best r =>
    match best with
    | none => some r
    | some b => if r.len > b.len then some r else some b) none

def getDomain (s : State) (d : Nat) : Option Domain := tblGet none s.lookup.domains d
def setDomain (s : State) (d : Nat) (x : Option Domain) : State :=
  { s with lookup := { s.lookup with domains := tblSet none s.lookup.domains d x } }

/-- The key that an instruction gives a table: its registers, cut or zero-extended to the table's width (log entry 22). -/
def tableKey (s : State) (t : Nat) (r : Regs) (a k : Nat) : Nat :=
  match getTable s t with
  | some x => keyOf r a k % 2 ^ x.defn.bits
  | none => keyOf r a k

/-- LKP, exact match (R96, R172). -/
def execLkpExact (who : Agent) (f : FmtX) (s : State) : Host.Outcome State Fault Refusal :=
  .next (packetX who (encX 0x65 f 0) f.desc (fun t s th _ =>
    let tb := bits f.desc.toNat 7 0
    let r := lkpExact s tb (tableKey s tb th.regs f.a.toNat (keyRegs (bits f.desc.toNat 27 26)))
    match r.2 with
    | some v => xEnd t f r.1 (some (BitVec.ofNat 64 v)) stOK 0 0
    | none => xEnd t f r.1 (some 0#64) stMISS 0 0) s)

/-- LKP, longest prefix match (R96, R187). -/
def execLkpLpm (who : Agent) (f : FmtX) (s : State) : Host.Outcome State Fault Refusal :=
  .next (packetX who (encX 0x65 f 1) f.desc (fun t s th _ =>
    let d := bits f.desc.toNat 7 0
    let v6 := decide (bits f.desc.toNat 27 26 = 1)
    let w0 := (rget th.regs f.a.toNat).toNat
    let addr := if v6 then w0 * 2 ^ 64 + (rget th.regs (f.a.toNat + 1)).toNat else w0 % 2 ^ 32
    let s := bump s .lpmLookups d 1
    match (getDomain s d).bind (fun x => bestRoute x.routes v6 addr) with
    | some r => xEnd t f s (some (BitVec.ofNat 64 (r.data + r.len * 2 ^ 32))) stOK 0 0
    | none => xEnd t f (bump s .lpmMisses d 1) (some 0#64) stMISS 0 0) s)

/-- LRN (R97, R176). -/
def execLrn (who : Agent) (f : FmtX) (s : State) : Host.Outcome State Fault Refusal :=
  .next (packetX who (encX 0x66 f 0) f.desc (fun t s th p =>
    let tb := bits f.desc.toNat 7 0
    let c : LrnCtx := { thread := t, d := f.d.toNat, table := tb, key := tableKey s tb th.regs f.a.toNat (keyRegs (bits f.desc.toNat 27 26))
                        data := (rget th.regs f.b.toNat).toNat, partner := p.partner }
    match lrnIssue s c with
    | .done s st de wo => xEnd t f s (some (BitVec.ofNat 64 wo)) st de 0
    | .wait s => .fall s) s)

/-- DEL (R97, R178). -/
def execDel (who : Agent) (f : FmtX) (s : State) : Host.Outcome State Fault Refusal :=
  .next (packetX who (encX 0x66 f 1) f.desc (fun t s th _ =>
    let tb := bits f.desc.toNat 7 0
    let r := delKey s tb (tableKey s tb th.regs f.a.toNat (keyRegs (bits f.desc.toNat 27 26)))
    xEnd t f r.1 none r.2 0 0) s)

/-! ### Ageing (R188) -/

/-- A new pass of a table (R188): the clock runs to the end of the pass before; the parity inverts. -/
def agePass (s : State) (t : Nat) : State :=
  match getTable s t with
  | none => s
  | some x =>
    if x.defn.age = false then s
    else
      let s := advance s (x.passStart + x.passLen * 1000000000 - s.localNs)
      setTable s t (some { x with ph := !x.ph, passStart := s.localNs, passLen := x.defn.sweep })

/-- The visit of one entry (R188). -/
def ageEntry (t : Nat) (x : LTable) (s : State) (l : Loc) : State :=
  let d := x.defn
  let y := getEntry s d.dram l
  let relocating := match l with
    | .slot i => underReloc s d.dram i
    | .ovf _ => false
  if y.table = t ∧ y.part = 0 ∧ slotVisible s y ∧ y.static = false ∧ y.tag = 0 ∧ relocating = false ∧ y.swept ≠ x.ph then
    if y.hit then modEntry s d.dram l (fun y => { y with hit := false, strike := false, swept := x.ph })
    else if y.strike = false then modEntry s d.dram l (fun y => { y with strike := true, swept := x.ph })
    else if pairPassive s then modEntry s d.dram l (fun y => { y with swept := x.ph })
    else
      let key := entryKey s d.dram l
      let s := modParts s d.dram l (fun y => { y with used := false, vis := false })
      lookupEvent (logChange (bump s .aged t 1) (.entryRemove t d.bits key)) d 0x02 0 t key
  else s

/-- A visit of bucket j, or of overflow entry j, in the pass of a table: the clock runs to its instant, and the LRN writes accepted
before it are done (R174, R188; log entry 176). -/
def ageVisit (s : State) (t : Nat) (ovf : Bool) (j : Nat) : State :=
  match getTable s t with
  | none => s
  | some x =>
    let n := if ovf then tierOvf x.defn.dram else tierBuckets x.defn.dram
    if x.defn.age = false ∨ j ≥ n then s
    else
      let s := drainTier x.defn.dram 10 (advance s (x.passStart + j * x.passLen * 1000000000 / n - s.localNs))
      if ovf then ageEntry t x s (.ovf j) else (List.range 4).foldl (fun s p => ageEntry t x s (.slot (4 * j + p))) s

/-- AGE_SWEEP_PASS (R188). -/
def execAgeSweepPass (table : Fin 256) (s : State) : Host.Outcome State Fault Refusal := .next (agePass s table)

/-- AGE_SWEEP_VISIT (R188). -/
def execAgeSweepVisit (table : Fin 256) (ovf : Bool) (index : Fin 4194304) (s : State) : Host.Outcome State Fault Refusal :=
  .next (ageVisit s table ovf index)

/-- RELOCATION_DRAIN (R180). -/
def execRelocationDrain (dram : Bool) (s : State) : Host.Outcome State Fault Refusal := .next (relocDrain s dram)

/-! ### Normalisation (R184) -/

/-- Normalises one entry that carries tag c. -/
def normEntry (applied : Bool) (dram : Bool) (s : State) (l : Loc) : State :=
  let free (s : State) : State := modParts s dram l (fun y => { y with used := false, vis := false, tag := 0 })
  match (getEntry s dram l).tag with
  | 1 => if applied then modParts s dram l (fun y => { y with tag := 0 }) else free s
  | 2 => if applied then free s else modParts s dram l (fun y => { y with tag := 0 })
  | 3 =>
    let s := if applied then modEntry s dram l (fun y => { y with data := y.pdata, static := y.pstatic }) else s
    modEntry (modParts s dram l (fun y => { y with tag := 0 })) dram l (fun y => { y with pdata := 0, pstatic := false })
  | _ => s

/-- Normalises every entry that carries tag c, and releases the tag; the LRN writes accepted before it are done (R174; log entry 176). -/
def normalise (s : State) (c : Nat) : State :=
  match tblGet TagState.free s.lookup.tags c with
  | .free => s
  | .prepared _ => s
  | st =>
    let s := drainAll s
    let s := [false, true].foldl (fun s dram =>
      ((tierEntries s dram).filter (fun e => e.2.tag != 0 && e.2.ctag == c)).foldl (fun s e => normEntry (st == .applied) dram s e.1) s) s
    { s with lookup := { s.lookup with tags := tblSet TagState.free s.lookup.tags c .free } }

/-- NORMALISE (R184). -/
def execNormalise (tag : Fin 16) (s : State) : Host.Outcome State Fault Refusal := .next (normalise s tag)

/-! ### The Berm's sweeps (R199, R215, R217) -/

/-- CONN_SWEEP_VISIT (R215). -/
def execConnSweepVisit (conn : Fin 4194304) (s : State) : Host.Outcome State Fault Refusal := .next (connVisit s conn)

/-- CONN_CLEAR_FREE (R217). -/
def execConnClearFree (s : State) : Host.Outcome State Fault Refusal := .next (connClearFree s)

/-- EPOCH_SCRUB (R199). -/
def execEpochScrub (s : State) : Host.Outcome State Fault Refusal := .next (epochScrub s)

end Sys2Proof.Machine
end

