-- ==== Sys2Proof/Machine/LookupCommit.lean ====
section
/-! DEFINITION. Machine/LookupCommit.lean: the objects of the lookup complex: checks at STAGE, prepare, apply and
abort (R166, R167, R182 to R186, Tables 5.2 to 5.8). -/

namespace Sys2Proof.Machine

/-! ### Checks at STAGE (R166) -/

def kFORMAT : Nat := 0x01
def kRESERVED : Nat := 0x02
def kUNDEFINED : Nat := 0x03
def kNOTEMPTY : Nat := 0x04
def kTIERREF : Nat := 0x05
def kNOROOM : Nat := 0x06
def kQUOTA : Nat := 0x07
def kPREFIXBITS : Nat := 0x08
def kDUPLICATE : Nat := 0x09
def kTAGSBUSY : Nat := 0x0A
def kTAGGED : Nat := 0x0B

/-- TABLE_DEF (Table 5.3). -/
def tableDefFaults (img : List Byte) : List (Nat × Nat) :=
  if img.length ≠ 32 then [(0, kFORMAT)]
  else
    let h := im32 img 0
    if bitOf h 31 = false then []
    else
      let dram := bitOf h 26
      chk (bits h 25 24 == 3) 0 kFORMAT ++ chk (bits h 23 8 != 0) 0 kRESERVED
        ++ chk (bitOf h 29 && im16 img 6 == 0) 4 kFORMAT
        ++ chk (decide (bits (im32 img 0x0C) 24 0 > 4 * tierBuckets dram)) 0x0C kFORMAT ++ chk (bits (im32 img 0x0C) 31 25 != 0) 0x0C kRESERVED
        ++ chk (decide (bits (im32 img 0x10) 16 0 > tierOvf dram)) 0x10 kFORMAT ++ chk (bits (im32 img 0x10) 31 17 != 0) 0x10 kRESERVED
        ++ chk (im16 img 0x16 != 0) 0x14 kRESERVED ++ chk (im32 img 0x1C != 0) 0x1C kRESERVED

/-- ENTRIES (Table 5.6). -/
def entriesFaults (img : List Byte) : List (Nat × Nat) :=
  let n := im32 img 4
  if img.length < 8 ∨ n = 0 ∨ img.length ≠ 8 + 48 * n then [(0, kFORMAT)]
  else chk (bits (im32 img 0) 31 8 != 0) 0 kRESERVED
    ++ (List.range n).flatMap (fun i =>
        let o := 8 + 48 * i
        chk (bits (im32 img o) 29 0 != 0) o kRESERVED ++ chk (im32 img (o + 4) != 0) (o + 4) kRESERVED
          ++ chk (bitOf (im32 img o) 31 && im64 img (o + 8) != 0) (o + 8) kRESERVED)

/-- DOMAIN_DEF (Table 5.7). -/
def domainDefFaults (img : List Byte) : List (Nat × Nat) :=
  if img.length ≠ 16 then [(0, kFORMAT)]
  else if bitOf (im32 img 0) 31 = false then []
  else chk (bits (im32 img 0) 29 8 != 0) 0 kRESERVED ++ chk (bits (im32 img 4) 31 23 != 0) 4 kRESERVED ++ chk (im64 img 8 != 0) 8 kRESERVED

/-- ROUTES (Table 5.7); address words that an IPv4 record must leave zero count as reserved (log entry 24). -/
def routesFaults (img : List Byte) : List (Nat × Nat) :=
  let n := im32 img 4
  if img.length < 8 ∨ n = 0 ∨ img.length ≠ 8 + 24 * n then [(0, kFORMAT)]
  else chk (bits (im32 img 0) 31 8 != 0) 0 kRESERVED
    ++ (List.range n).flatMap (fun i =>
        let o := 8 + 24 * i
        chk (bits (im32 img o) 29 8 != 0) o kRESERVED
          ++ chk (!bitOf (im32 img o) 30 && im64 img (o + 8) != 0) (o + 8) kRESERVED
          ++ chk (!bitOf (im32 img o) 30 && im32 img (o + 0x14) != 0) (o + 0x10) kRESERVED)

/-- The failures of an object of subsystem 5 that STAGE reports. -/
def lookupStage (typ : Nat) (img : List Byte) : List (Nat × Nat) :=
  match typ with
  | 1 => tableDefFaults img
  | 2 => entriesFaults img
  | 3 => domainDefFaults img
  | 4 => routesFaults img
  | _ => [(0, kFORMAT)]

/-! ### Decoding -/

/-- The definition of a TABLE_DEF with VALID = 1. -/
def tableDefOf (img : List Byte) : TableDef :=
  let h := im32 img 0
  { learn := bitOf h 30, age := bitOf h 29, notify := bitOf h 28, random := bitOf h 27, dram := bitOf h 26, key := bits h 25 24
    sweep := im16 img 6, lrnBurst := im16 img 4, lrnRate := im32 img 8, maxEntries := bits (im32 img 0x0C) 24 0
    ovfMax := bits (im32 img 0x10) 16 0, partLimit := im16 img 0x14, seed := im32 img 0x18 }

/-- A record of ENTRIES. -/
structure EntryRecord where
  del : Bool
  static : Bool
  data : Nat
  key : Nat

def entryRecords (img : List Byte) : List EntryRecord :=
  (List.range (im32 img 4)).map (fun i =>
    let o := 8 + 48 * i
    { del := bitOf (im32 img o) 31, static := bitOf (im32 img o) 30, data := im64 img (o + 8), key := leNat (imgBytes img (o + 0x10) 32) })

/-- A record of ROUTES; true for DELETE. -/
def routeRecords (img : List Byte) : List (Bool × Route) :=
  (List.range (im32 img 4)).map (fun i =>
    let o := 8 + 24 * i
    (bitOf (im32 img o) 31,
     { v6 := bitOf (im32 img o) 30, len := im8 img o, addr := im64 img (o + 8) * 2 ^ 64 + im64 img (o + 0x10), data := im32 img (o + 4) }))

/-! ### Prepare (R167, R182 to R186) -/

/-- What prepare carries from record to record: the state with its reservations, definitions made earlier in the commit,
keys and prefixes already named, and the commit's tag once taken. -/
structure LkPrep where
  s : State
  defs : Tbl (Option TableDef)
  doms : Tbl (Option Domain)
  keys : List (Nat × Nat)
  prefixes : List (Nat × Bool × Nat × Nat)
  tag : Option Nat

/-- A prepare step: the new context, or the failure's offset and code. -/
abbrev LkRes := Except (Nat × Nat) LkPrep

/-- A walk over records or objects: the context that it leaves, and its first failure. -/
abbrev LkWalk := LkPrep × Option (Nat × Nat)

/-- A step taken as a walk: one that fails leaves the context from before it. -/
def LkRes.walk (c : LkPrep) (r : LkRes) : LkWalk := match r with
  | .ok c => (c, none)
  | .error f => (c, some f)

/-- The definition that holds for a table at this place of the commit. -/
def LkPrep.table (c : LkPrep) (t : Nat) : Option TableDef :=
  match c.defs.find? (fun e => e.1 == t) with
  | some e => e.2
  | none => (getTable c.s t).map (·.defn)

/-- TABLE_DEF at prepare. -/
def prepTableDef (c : LkPrep) (objs : List Obj) (img : List Byte) : LkRes :=
  let t := im8 img 0
  let cur := c.table t
  let full := decide (tableCount c.s t > 0)
  let put (x : Option TableDef) : LkPrep := { c with defs := (t, x) :: c.defs }
  if bitOf (im32 img 0) 31 = false then
    if cur.isNone then .error (0, kUNDEFINED) else if full then .error (0, kNOTEMPTY) else .ok (put none)
  else
    let d := tableDefOf img
    let moved := match cur with
      | some x => x.key != d.key || x.dram != d.dram || x.seed != d.seed
      | none => false
    if moved && full then .error (0, kNOTEMPTY)
    else
      let refs := (serviceBanks c.s objs).flatMap tierRefs
      if d.dram && refs.contains (false, t) then .error (0, kTIERREF) else .ok (put (some d))

/-- The commit's tag, taken at its first ENTRIES object: the lowest not held (R183). -/
def takeTag (c : LkPrep) (num : Nat) : Option (LkPrep × Nat) :=
  match c.tag with
  | some g => some (c, g)
  | none =>
    match (List.range 16).find? (fun g => tblGet TagState.free c.s.lookup.tags g == .free) with
    | none => none
    | some g =>
      let s := { c.s with lookup := { c.s.lookup with tags := tblSet TagState.free c.s.lookup.tags g (.prepared num) } }
      some ({ c with s := s, tag := some g }, g)

/-- A copy of the key that carries another commit's tag: normalised when that commit has applied or was aborted; true when
it is still prepared (R183). -/
def clearOther (s : State) (t : Nat) (d : TableDef) (key own : Nat) : State × Bool :=
  match findBy s t d key (fun x => x.tag != 0 && x.ctag != own) with
  | none => (s, false)
  | some l =>
    match tblGet TagState.free s.lookup.tags (getEntry s d.dram l).ctag with
    | .prepared _ => (s, true)
    | .applied => (normEntry true d.dram s l, false)
    | _ => (normEntry false d.dram s l, false)

/-- ADD of an absent key without eviction; a relocation that it causes completes at once (R183, R532). -/
def addEntry (s : State) (d : TableDef) (e : NewEntry) : Option State :=
  match insertAt s e.table d e.key with
  | .place l => some (placeEntry s d l e)
  | .reloc old new h => some (placeEntry (mergeEntry (copyEntry s d.dram old new) d.dram old new) d (.slot h) e)
  | .noRoom => none

/-- What the path of R183 makes of a record with its key cut to the table's width. -/
def entryPath (t : Nat) (d : TableDef) (g o : Nat) (c : LkPrep) (r : EntryRecord) : LkRes :=
      let s := c.s
      match findKey s t d r.key with
      | some l =>
        if r.del then .ok { c with s := modParts s d.dram l (fun x => { x with tag := 2, ctag := g }) }
        else
          let s := modParts s d.dram l (fun x => { x with tag := 3, ctag := g })
          .ok { c with s := modEntry s d.dram l (fun x => { x with pdata := r.data, pstatic := r.static }) }
      | none =>
        if r.del then .ok { c with s := s }
        else match addEntry s d { table := t, key := r.key, data := r.data, static := r.static, tag := 1, ctag := g } with
          | some s => .ok { c with s := s }
          | none => .error (o, kNOROOM)

/-- One record of ENTRIES, at an offset of its image: of several failures the one at the lowest offset (R531), which the record
itself, its key and the words beyond the table's width take in this order. -/
def prepEntry (t : Nat) (d : TableDef) (g o : Nat) (c : LkPrep) (r : EntryRecord) : LkRes :=
  let whole := r.key % 2 ^ d.bits
  let cut := { r with key := whole }
  if r.del = false ∧ (findKey c.s t d whole).isNone ∧ tableClosed c.s t then .error (o, kNOTEMPTY)
  else if c.keys.contains (t, whole) then .error (o + 0x10, kDUPLICATE)
  else
    let p := clearOther c.s t d whole g
    if p.2 then .error (o + 0x10, kTAGGED)
    else match entryPath t d g o { c with s := p.1, keys := (t, whole) :: c.keys } cut with
      | .ok c => if r.key = whole then .ok c else .error (o + 0x10 + 8 * d.width, kRESERVED)
      | .error f => .error f

def prepEntryList (t : Nat) (d : TableDef) (g : Nat) : Nat → List EntryRecord → LkPrep → LkWalk
  | _, [], c => (c, none)
  | o, r :: l, c =>
    match (prepEntry t d g o c r).walk c with
    | (c, none) => prepEntryList t d g (o + 48) l c
    | x => x

/-- ENTRIES at prepare. -/
def prepEntries (c : LkPrep) (num : Nat) (img : List Byte) : LkWalk :=
  let t := im8 img 0
  match c.table t with
  | none => (c, some (0, kUNDEFINED))
  | some d =>
    match takeTag c num with
    | none => (c, some (0, kTAGSBUSY))
    | some (c, g) => prepEntryList t d g 8 (entryRecords img) c

/-! ### Routing domains (R185, R186) -/

/-- Units of a route (R186). -/
def routeUnits (r : Route) : Nat := if r.v6 then 2 else 1
def domainUnits (d : Domain) : Nat := (d.routes.map routeUnits).sum

def sameRoute (a b : Route) : Bool := a.v6 == b.v6 && a.len == b.len && a.addr == b.addr

/-- The routes after one record. -/
def routePut (l : List Route) (del : Bool) (r : Route) : List Route :=
  if del then l.filter (fun x => !sameRoute x r)
  else if l.any (sameRoute r) then l.map (fun x => if sameRoute x r then r else x)
  else l ++ [r]

/-- The domains once an object applies. -/
def domApply (t : Tbl (Option Domain)) (o : Obj) : Tbl (Option Domain) :=
  let n := im8 o.img 0
  match o.typ with
  | 3 =>
    if bitOf (im32 o.img 0) 31 then
      let old := match tblGet none t n with | some d => d.routes | none => []
      tblSet none t n (some { dram := bitOf (im32 o.img 0) 30, quota := bits (im32 o.img 4) 22 0, routes := old })
    else tblSet none t n none
  | 4 =>
    match tblGet none t n with
    | some d => tblSet none t n (some { d with routes := (routeRecords o.img).foldl (fun l e => routePut l e.1 e.2) d.routes })
    | none => t
  | _ => t

/-- The domains once the objects given apply. -/
def domainsWith (t : Tbl (Option Domain)) (objs : List Obj) : Tbl (Option Domain) := (objs.filter (fun o => o.sub == 5)).foldl domApply t

/-- The domains after a commit, then after each commit that applies at a later boundary. -/
def domainStates : Tbl (Option Domain) → List (List Obj) → List (Tbl (Option Domain))
  | t, [] => [t]
  | t, l :: rest => t :: domainStates (domainsWith t l) rest

/-- Whether a domain would hold more units than its QUOTA once a commit has applied, at its boundary or at the boundary of a commit
that has returned OK and applies later (R185, R186). -/
def overQuota (states : List (Tbl (Option Domain))) (n : Nat) : Bool :=
  states.any (fun t => match tblGet none t n with
    | some d => decide (domainUnits d > d.quota)
    | none => false)

/-- Units that the domains of a tier reserve. -/
def quotaTotal (t : Tbl (Option Domain)) (dram : Bool) : Nat :=
  (t.map (fun e => match e.2 with | some d => if d.dram = dram then d.quota else 0 | none => 0)).sum

/-- Whether a domain is defined in force or earlier in the commit (R186). -/
def domDefined (s : State) (prev : List Obj) (n : Nat) : Bool :=
  match (prev.filter (fun o => o.sub == 5 && o.typ == 3 && im8 o.img 0 == n)).getLast? with
  | some o => bitOf (im32 o.img 0) 31
  | none => (getDomain s n).isSome

/-- Whether a committed DOMAIN_DEF moves or deletes a domain (R185). -/
def domClosed (s : State) (n : Nat) : Bool :=
  match getDomain s n with
  | none => false
  | some d => (committedObjs s).any (fun o => o.sub == 5 && o.typ == 3 && im8 o.img 0 == n
      && (!bitOf (im32 o.img 0) 31 || bitOf (im32 o.img 0) 30 != d.dram))

/-- Whether a commit that has returned OK and applies later adds a route to domain n: its units are reserved (R186). -/
def routesLater (later : List (List Obj)) (n : Nat) : Bool :=
  later.any (fun l => l.any (fun o => o.sub == 5 && o.typ == 4 && im8 o.img 0 == n && (routeRecords o.img).any (fun e => !e.1)))

/-- DOMAIN_DEF at prepare: a domain holds a route while it holds one in force, or will at this place of the commit, or a later commit
has one reserved in it. -/
def prepDomainDef (states : List (Tbl (Option Domain))) (later : List (List Obj)) (c : LkPrep) (prev objs : List Obj) (o : Obj) : LkRes :=
  let n := im8 o.img 0
  let cur := tblGet none c.doms n
  let full (x : Option Domain) : Bool := match x with | some d => !d.routes.isEmpty | none => false
  let holds := full cur || full (getDomain c.s n) || routesLater later n
  let c' := { c with doms := domApply c.doms o }
  if bitOf (im32 o.img 0) 31 = false then
    if domDefined c.s prev n = false then .error (0, kUNDEFINED) else if holds then .error (0, kNOTEMPTY) else .ok c'
  else
    let dram := bitOf (im32 o.img 0) 30
    let moved := match cur with | some d => d.dram != dram | none => false
    let refs := (serviceBanks c.s objs).flatMap tierRefs
    let bad := chk (moved && holds) 0 kNOTEMPTY ++ chk (dram && refs.contains (true, n)) 0 kTIERREF
      ++ chk (states.any (fun t => decide (quotaTotal t false > 262144) || decide (quotaTotal t true > 3932160)) || overQuota states n) 4 kQUOTA
    match pickFault bad with
    | some k => .error (0, k)
    | none => .ok c'

/-- Address bits below a prefix (R186). -/
def prefixBits (r : Route) : Bool :=
  let n := if r.v6 then 128 else 32
  r.addr % 2 ^ (n - r.len) != 0

/-- The checks of one record of ROUTES at an offset. -/
def prepRoute (n o : Nat) (c : LkPrep) (e : Bool × Route) : LkRes :=
  let r := e.2
  let id := (n, r.v6, r.len, r.addr)
  if r.len > (if r.v6 then 128 else 32) then .error (o, kFORMAT)
  else if e.1 = false ∧ domClosed c.s n then .error (o, kNOTEMPTY)
  else if c.prefixes.contains id then .error (o, kDUPLICATE)
  else if prefixBits r then .error (o + 8, kPREFIXBITS)
  else
    match tblGet none c.doms n with
    | none => .error (0, kUNDEFINED)
    | some d => .ok { c with doms := tblSet none c.doms n (some { d with routes := routePut d.routes e.1 r }), prefixes := id :: c.prefixes }

def prepRouteList (n : Nat) : Nat → List (Bool × Route) → LkPrep → LkRes
  | _, [], c => .ok c
  | o, e :: l, c =>
    match prepRoute n o c e with
    | .ok c => prepRouteList n (o + 24) l c
    | .error f => .error f

/-! ### The lookup complex in a commit -/

/-- ROUTES at prepare: what concerns the object as a whole, then its records in order (R531, log entry 175). -/
def prepRoutes (states : List (Tbl (Option Domain))) (c : LkPrep) (prev : List Obj) (o : Obj) : LkRes :=
  let n := im8 o.img 0
  if domDefined c.s prev n = false then .error (0, kUNDEFINED)
  else if overQuota states n then .error (0, kQUOTA)
  else prepRouteList n 8 (routeRecords o.img) c

/-- What prepare knows of the other commits: the domains at this boundary and at each later one, the objects that apply no later than
this commit, its own among them, and those of the commits that follow. -/
structure LkAround where
  states : List (Tbl (Option Domain))
  objs : List Obj
  later : List (List Obj)

/-- Prepares one object; prev stands before it in the commit. -/
def prepLookupObj (x : LkAround) (c : LkPrep) (prev : List Obj) (num : Nat) (o : Obj) : LkWalk :=
  match o.typ with
  | 1 => (prepTableDef c x.objs o.img).walk c
  | 2 => prepEntries c num o.img
  | 3 => (prepDomainDef x.states x.later c prev x.objs o).walk c
  | _ => (prepRoutes x.states c prev o).walk c

def prepLookupList (x : LkAround) (num : Nat) : List Obj → List Obj → LkPrep → LkWalk
  | _, [], c => (c, none)
  | prev, o :: l, c =>
    if o.sub = 5 then
      match prepLookupObj x c prev num o with
      | (c, none) => prepLookupList x num (prev ++ [o]) l c
      | f => f
    else prepLookupList x num (prev ++ [o]) l c

/-- Marks the tags of a commit applied or aborted (R184). -/
def settleTags (s : State) (num : Nat) (applied : Bool) : State :=
  { s with lookup := { s.lookup with tags := s.lookup.tags.map (fun e =>
      (e.1, if e.2 = .prepared num then (if applied then TagState.applied else TagState.aborted) else e.2)) } }

/-- Prepare of the lookup complex for a commit: the state with its reservations, and the reason code where it fails; before are the
objects that apply no later than this commit, later those of the commits that follow.  The writes take their places behind those
pending, so a prepare that fails has drained them, and keeps the relocations that its records completed; its tags are aborted
(R184, R532). -/
def prepLookup (s : State) (before group : List Obj) (later : List (List Obj)) (num : Nat) : State × Option Nat :=
  if group.any (fun o => o.sub == 5) then
    let s := drainAll s
    let doms := domainsWith s.lookup.domains before
    let c : LkPrep := { s := s, defs := [], doms := doms, keys := [], prefixes := [], tag := none }
    let x : LkAround := { states := domainStates (domainsWith doms group) later, objs := before ++ group, later := later }
    match prepLookupList x num [] group c with
    | (c, none) => (c.s, none)
    | (c, some f) => (settleTags c.s num false, some f.2)
  else (s, none)

/-- A TABLE_DEF applies (R167, R188).  PH of a table starts at 0, of which the spec says only that each pass inverts it (log entry 201,
DESIGN CHOICE). -/
def applyTableDef (s : State) (img : List Byte) : State :=
  let t := im8 img 0
  if bitOf (im32 img 0) 31 then
    let d := tableDefOf img
    let full : Bucket := { tokens := d.lrnBurst * 65536000000000, upd := s.localNs }
    let x : LTable := match getTable s t with
      | some x => { x with defn := d, bucket := full }
      | none => { defn := d, bucket := full, newBy := [], ph := false, passStart := 0, passLen := 0 }
    let old := match getTable s t with | some x => x.defn.age | none => false
    let x := if d.age && !old then { x with ph := !x.ph, passStart := s.localNs, passLen := d.sweep } else x
    setTable s t (some x)
  else setTable s t none

/-- An object of subsystem 5 applies at step 2; the records of ENTRIES apply with their tag. -/
def applyLookup (s : State) (o : Obj) : State :=
  match o.typ with
  | 1 => applyTableDef s o.img
  | 2 => s
  | _ => { s with lookup := { s.lookup with domains := domApply s.lookup.domains o } }

end Sys2Proof.Machine
end

