-- ==== Sys2Proof/Machine/HaulEvents.lean ====
section
/-! DEFINITION. Machine/HaulEvents.lean: the events of the Haul scheduler's decisions, transmissions and gates (R204,
R207, R237, R263, R275 to R282). -/

namespace Sys2Proof.Machine

/-- R263, R266, R282, R287. -/
def execHaulDecision (node : Fin 64) (s : State) : Host.Outcome State Fault Refusal := .next (haulDecision s node)

/-- R237. -/
def execFrameTxEnd (node : Fin 64) (s : State) : Host.Outcome State Fault Refusal := .next (frameTxEnd s node)

/-- R204. -/
def execSpecTailPoint (node : Fin 64) (s : State) : Host.Outcome State Fault Refusal := .next (specTailPoint s node)

/-- R207. -/
def execStompEcc (node : Fin 64) (s : State) : Host.Outcome State Fault Refusal := .next (stompEccAt s node)

/-- A pending list whose S its base has reached becomes the active list (R278). -/
def settleGates (s : State) (g : GateState) : GateState :=
  match g.pending with
  | none => g
  | some (l, st) =>
    let b := tbGet s.time l.tb
    if b.running ∧ (st * 2 ^ 32 : Int) ≤ b.value then
      { g with active := if l.ents.isEmpty then none else some (l, st), pending := none, coast := none }
    else g

/-- Whether the hold of a node is in force after the entry that rules now took effect (R282). -/
def holdAfter (s : State) (g : GateState) : Bool := match (gateAt s g 0).1 with
  | some e => if e.op = 1 then true else if e.op = 2 then false else g.hold
  | none => false

/-- The lists of a port node as they stand now: takeover, hold, and the yield that a hold asks of a preemptible frame
in progress (R277, R278, R282). -/
def settleNode (s : State) (m : Nat) : State :=
  let g := settleGates s (getGates s m)
  let h := holdAfter s g
  let s := setGates s m { g with hold := h }
  match (getPort s m).tx with
  | some t =>
    if h ∧ mayYield s m t ∧ t.start ≤ s.localNs then
      match yieldPoint s m t with
      | some k => preemptFrame s m k
      | none => s
    else s
  | none => s

/-- R277: the clock runs to the end of the entry that rules now. -/
def execGateChange (node : Fin 56) (s : State) : Host.Outcome State Fault Refusal :=
  .next (match (gateAt s (getGates s node) 0).2 with
    | some n => settleNode (advance s n) node
    | none => settleNode s node)

/-- R278: the clock runs to S in the list's base. -/
def execGateListTakeover (node : Fin 56) (s : State) : Host.Outcome State Fault Refusal :=
  .next (match (getGates s node).pending with
    | none => s
    | some (l, st) =>
      match cyclesTo (tbGet s.time l.tb) (st * 2 ^ 32) with
      | some n => settleNode (advance s n) node
      | none => s)

/-- R275: the next change of a stream gate, the takeover of its list included. -/
def execStreamGateChange (gate : Fin 256) (s : State) : Host.Outcome State Fault Refusal :=
  .next (
    let s := match (gateAt s (getSgate s gate) 0).2 with
      | some n => advance s n
      | none => s
    setSgate s gate (settleGates s (getSgate s gate)))

end Sys2Proof.Machine
end

