-- ==== Sys2Proof/Machine/StockObjects.lean ====
section
/-! DEFINITION. Machine/StockObjects.lean: the objects of the Conveyor, the Stockpile and the Hopper: checks at STAGE,
prepare with what it reserves, and apply (R232, R234, R239, R242, R250, R256, R257, R409). -/

namespace Sys2Proof.Machine

/-! ### The Stockpile (Tables 7.9 and 7.16) -/

def qFORMAT : Nat := 0x01
def qRESERVED : Nat := 0x02
def qRANGE : Nat := 0x03
def qHOLDCOUNT : Nat := 0x04
def qTHRESHOLD : Nat := 0x05
def qDUPLICATE : Nat := 0x06

def queueCount : Nat := 524288

/-- FIRST and COUNT of an object that names a run of queues. -/
def runFirst (img : List Byte) : Nat := bits (im32 img 0) 18 0
def runCount (img : List Byte) : Nat := im32 img 4

/-- The failures of an object of subsystem 7 that STAGE reports. -/
def stockStage (typ : Nat) (img : List Byte) : List (Nat × Nat) :=
  match typ with
  | 1 =>
    let n := runCount img
    if img.length < 8 ∨ img.length ≠ 8 + 16 * n then [(0, qFORMAT)]
    else chk (bits (im32 img 0) 31 19 != 0) 0 qRESERVED ++ chk (decide (runFirst img + n > queueCount)) 0 qRANGE
      ++ (List.range n).flatMap (fun i =>
          let o := 8 + 16 * i
          chk (bits (im32 img o) 29 25 != 0) o qRESERVED ++ chk (bits (im32 img (o + 4)) 31 25 != 0) (o + 4) qRESERVED
            ++ chk (bits (im32 img (o + 8)) 19 16 != 0) (o + 8) qRESERVED
            ++ chk (bitOf (im32 img (o + 12)) 6 && decide (bits (im32 img (o + 12)) 5 0 ≥ 32)) (o + 12) qRANGE)
  | 2 =>
    let n := bits (im32 img 0) 22 16
    if img.length < 4 ∨ img.length ≠ 4 + 4 * n then [(0, qFORMAT)]
    else chk (bits (im32 img 0) 31 23 != 0) 0 qRESERVED ++ chk (decide (n > 64)) 0 qRANGE
      ++ (List.range n).flatMap (fun i => chk (bitOf (im32 img (4 + 4 * i)) 31) (4 + 4 * i) qRESERVED)
  | 3 =>
    if img.length ≠ 8 then [(0, qFORMAT)]
    else chk (im8 img 3 == 0 || decide (im8 img 2 > 100) || decide (im8 img 1 > 100)) 0 qFORMAT ++ chk (im8 img 0 != 0) 0 qRESERVED
      ++ chk (im32 img 4 != 0) 4 qRESERVED
  | _ => [(0, qFORMAT)]

/-- A QADMIT record (Table 7.9). -/
def qadmitOf (img : List Byte) (o : Nat) : QAdmit :=
  let a := im32 img o
  let c := im32 img (o + 8)
  let e := im32 img (o + 12)
  { hold := bitOf a 31, dropOld := bitOf a 30, maxCells := bits a 24 0, spillCells := bits (im32 img (o + 4)) 24 0
    dp1 := bits c 31 28, dp2 := bits c 27 24, dp3 := bits c 23 20, holdLife := bits c 15 0, releaseRate := bits e 31 7
    watchGpio := bitOf e 6, watch := bits e 5 0 }

/-- The admission records once an object applies. -/
def qadmitApply (t : Tbl QAdmit) (o : Obj) : Tbl QAdmit :=
  if o.sub = 7 ∧ o.typ = 1 then
    (List.range (runCount o.img)).foldl (fun t i => tblSet QAdmit.reset t (runFirst o.img + i) (qadmitOf o.img (8 + 16 * i))) t
  else t

/-- Runs (first, count) that objects of one subsystem and TYPE name. -/
def runsOf (objs : List Obj) (sub typ : Nat) : List (Nat × Nat) :=
  (objs.filter (fun o => o.sub == sub && o.typ == typ)).map (fun o => (runFirst o.img, runCount o.img))

/-- The first record of a run at record size z that names a queue of an earlier run. -/
def runDuplicate (prev : List (Nat × Nat)) (img : List Byte) (z c : Nat) : List (Nat × Nat) :=
  (List.range (runCount img)).flatMap (fun i =>
    chk (prev.any (fun r => decide (r.1 ≤ runFirst img + i) && decide (runFirst img + i < r.1 + r.2))) (8 + z * i) c)

/-- The Stockpile at prepare; prev stands before the object in the commit, objs are all that this commit and earlier
ones apply. -/
def prepStock (s : State) (prev objs : List Obj) (o : Obj) : List (Nat × Nat) :=
  match o.typ with
  | 1 =>
    let n := ((objs.foldl qadmitApply s.stock.qadmit).filter (fun e => e.2.hold)).length
    chk (decide (n > 4096)) 0 qHOLDCOUNT ++ runDuplicate (runsOf prev 7 1) o.img 16 qDUPLICATE
  | 2 => chk (prev.any (fun x => x.sub == 7 && x.typ == 2 && im16 x.img 0 == im16 o.img 0)) 0 qDUPLICATE
  | _ => chk (decide (im8 o.img 1 ≥ im8 o.img 2)) 0 qTHRESHOLD

/-- An object of the Stockpile applies (R239, R241, R242). -/
def applyStock (s : State) (o : Obj) : State :=
  match o.typ with
  | 1 =>
    let s := { s with stock := { s.stock with qadmit := qadmitApply s.stock.qadmit o } }
    (List.range (runCount o.img)).foldl (fun s i => holdUpdate s (runFirst o.img + i)) s
  | 2 =>
    let ms := (List.range (bits (im32 o.img 0) 22 16)).map (fun i =>
      (bits (im32 o.img (4 + 4 * i)) 30 19, bits (im32 o.img (4 + 4 * i)) 18 0))
    { s with stock := { s.stock with groups := tblSet [] s.stock.groups (im16 o.img 0) ms } }
  | _ => spillCheck { s with stock := { s.stock with residue := im8 o.img 3, hsHigh := im8 o.img 2, hsLow := im8 o.img 1 } }

/-! ### The Hopper (Tables 7.6 and 7.7) -/

def hFORMAT : Nat := 0x01
def hRESERVEOVER : Nat := 0x02
def hINUSE : Nat := 0x03
def hNOFREE : Nat := 0x04
def hTHRESHOLD : Nat := 0x05
def hRESERVED : Nat := 0x06

/-- A POOL_DEF record (Table 7.6). -/
structure PoolDef where
  pool : Nat
  valid : Bool
  lossless : Bool
  alpha : Nat
  size : Nat
  borrowMax : Nat
  xoff : Nat
  xon : Nat

/-- A record as it takes effect: VALID = 0 returns the pool to its reset state. -/
def poolDefOf (img : List Byte) (o : Nat) : PoolDef :=
  let a := im32 img o
  let v := bitOf a 31
  let f (n : Nat) : Nat := if v then n else 0
  { pool := bits (im32 img (o + 4)) 31 27, valid := v, lossless := v && bitOf a 30, alpha := f (bits a 29 26), size := f (bits a 24 0)
    borrowMax := f (bits (im32 img (o + 4)) 24 0), xoff := f (bits (im32 img (o + 8)) 24 0), xon := f (bits (im32 img (o + 12)) 24 0) }

def poolDefs (img : List Byte) : List PoolDef := (List.range (im32 img 0)).map (fun i => poolDefOf img (4 + 16 * i))

/-- The Hopper's checks of an object's image (Table 7.7). -/
def hopperImage (typ : Nat) (img : List Byte) : List (Nat × Nat) :=
  match typ with
  | 1 =>
    let n := im32 img 0
    if img.length < 4 ∨ img.length ≠ 4 + 16 * n then [(0, hFORMAT)]
    else (List.range n).flatMap (fun i =>
      let o := 4 + 16 * i
      if bitOf (im32 img o) 31 = false then []
      else chk (decide (bits (im32 img o) 29 26 > 10)) o hFORMAT ++ chk (bitOf (im32 img o) 25) o hRESERVED
        ++ chk (bits (im32 img (o + 4)) 26 25 != 0) (o + 4) hRESERVED ++ chk (bits (im32 img (o + 8)) 31 25 != 0) (o + 8) hRESERVED
        ++ chk (bits (im32 img (o + 12)) 31 25 != 0) (o + 12) hRESERVED)
  | 2 =>
    if img.length ≠ 576 then [(0, hFORMAT)]
    else (List.range 512).flatMap (fun i => chk (decide (im8 img i ≥ 32)) i hRESERVED)
      ++ (List.range 64).flatMap (fun m => chk (decide (im8 img (512 + m) ≥ 8)) (512 + m) hRESERVED)
  | _ => [(0, hFORMAT)]

/-- Removes the last n free handles that a pool hands over: ring first, then cache. -/
def poolGive (s : State) (p n : Nat) : State × List (Nat × Nat) :=
  let x := getPool s p
  let r := runsSplit (min n (runsLen x.ring)) x.ring
  let c := runsSplit (n - min n (runsLen x.ring)) x.cache
  (setPool s p { x with ring := r.2, cache := c.2 }, r.1 ++ c.1)

/-- Sizes of pools once the commits that have returned OK apply. -/
def pendingSize (objs : List Obj) (s : State) (p : Nat) : Nat :=
  match ((objs.filter (fun o => o.sub == 8 && o.typ == 1)).flatMap (fun o => poolDefs o.img)).reverse.find? (fun d => d.pool == p) with
  | some d => d.size
  | none => (getPool s p).size

/-- One record at prepare: its failures, or the state with the handles reserved. -/
def prepPool (objs : List Obj) (o : Nat) (d : PoolDef) (s : State) (size : Nat) : List (Nat × Nat) × State × List PoolMove :=
  let p := d.pool
  if p = 0 then (chk d.lossless o hTHRESHOLD, s, [])
  else
    let total := ((List.range 31).map (fun i => if i + 1 = p then d.size else pendingSize objs s (i + 1))).sum
    let bad := chk (decide (total > cellCount)) o hRESERVEOVER ++ chk (decide (d.size < (getPool s p).inUse)) o hINUSE
      ++ chk (decide (d.size > size) && decide (d.size - size > poolFree (getPool s 0))) o hNOFREE
      ++ chk (d.lossless && !(decide (d.xon < d.xoff) && decide (d.xoff ≤ d.size))) o hTHRESHOLD
    if !bad.isEmpty then (bad, s, [])
    else if d.size > size then
      let g := poolGive s 0 (d.size - size)
      ([], g.1, [{ src := 0, dst := p, runs := g.2 }])
    else if d.size < size then
      let g := poolGive s p (size - d.size)
      ([], g.1, [{ src := p, dst := 0, runs := g.2 }])
    else ([], s, [])

/-- The records of a POOL_DEF in order; seen are the objects whose sizes already stand. -/
def prepPools (objs : List Obj) : Nat → List PoolDef → List PoolDef → State → List PoolMove → List (Nat × Nat) × State × List PoolMove
  | _, _, [], s, m => ([], s, m)
  | o, seen, d :: l, s, m =>
    let size := match seen.find? (fun x => x.pool == d.pool) with
      | some x => x.size
      | none => pendingSize (committedObjsOf s) s d.pool
    match prepPool objs o d s size with
    | ([], s, m') => prepPools objs (o + 16) (d :: seen) l s (m ++ m')
    | (f, s, _) => (f, s, m)
where
  /-- objects of commits that have returned OK -/
  committedObjsOf (s : State) : List Obj := s.gate.committed.flatMap (·.objs)

/-- Prepare of a POOL_DEF after the objects prev of its commit (R234). -/
def prepPoolDef (s : State) (prev objs : List Obj) (o : Obj) : List (Nat × Nat) × State × List PoolMove :=
  let seen := ((prev.filter (fun x => x.sub == 8 && x.typ == 1)).flatMap (fun x => poolDefs x.img)).reverse
  prepPools objs 4 seen (poolDefs o.img) s []

/-- A POOL_DEF record applies (R232). -/
def applyPool (s : State) (d : PoolDef) : State :=
  let x := getPool s d.pool
  let size := if d.pool = 0 then x.size else d.size
  pfcLevel (setPool s d.pool { x with size := size, lossless := d.lossless, alpha := d.alpha, borrowMax := d.borrowMax, xoff := d.xoff, xon := d.xon }) d.pool

/-- Size of pool 0 (R232). -/
def settlePoolZero (s : State) : State :=
  let n := ((List.range 31).map (fun i => (getPool s (i + 1)).size)).sum
  setPool s 0 { getPool s 0 with size := cellCount - n }

/-- Handles that prepare reserved reach their pool's ring, or on an abort the ring that they came from. -/
def poolMoves (applied : Bool) (s : State) (m : PoolMove) : State :=
  let p := if applied then m.dst else m.src
  setPool s p { getPool s p with ring := (getPool s p).ring ++ m.runs }

/-- An object of the Hopper applies; the handles of a POOL_DEF move with the commit. -/
def applyHopper (s : State) (o : Obj) : State :=
  match o.typ with
  | 1 => settlePoolZero ((poolDefs o.img).foldl applyPool s)
  | _ =>
    let s := { s with hopper := { s.hopper with poolMap := (List.range 576).foldl (fun t i => tblSet 0 t i (im8 o.img i % 32)) [] } }
    (List.range 32).foldl pfcLevel s

/-! ### The Conveyor (Table 7.17) -/

def vFORMAT : Nat := 0x01
def vRESERVED : Nat := 0x02
def vRANGE : Nat := 0x03
def vLANECONFLICT : Nat := 0x04
def vUNBOUND : Nat := 0x05
def vDUPLICATE : Nat := 0x06
def vCHANNELPLAN : Nat := 0x10

/-- The fields of a FABRIC object, 28 bytes (R250). -/
def fabDev (img : List Byte) : Nat := bits (im32 img 0) 31 28
def fabMask (img : List Byte) : Nat := bits (im32 img 0) 27 20
def fabLossless (img : List Byte) : Nat := bits (im32 img 0) 19 12
def fabNeigh (img : List Byte) (k : Nat) : Nat := im8 img (4 + k) % 16
def fabCells (img : List Byte) (v : Nat) : Nat := im16 img (12 + 2 * v) % 2048

/-- The failures of an object of subsystem 2 that STAGE reports.  Neighbours of lanes outside LANE_MASK are bound by
nothing (log entry 25). -/
def conveyorStage (typ : Nat) (img : List Byte) : List (Nat × Nat) :=
  match typ with
  | 1 =>
    if img.length ≠ 28 then [(0, vFORMAT)]
    else
      let lanes := (List.range 8).filter (fun k => bitOf (fabMask img) k)
      let sum := ((List.range 8).map (fabCells img)).sum
      chk (bits (im32 img 0) 11 0 != 0) 0 vRESERVED ++ chk (decide (fabDev img > 8)) 0 vRANGE
        ++ (List.range 8).flatMap (fun k => chk (decide (im8 img (4 + k) ≥ 16)) (4 + k) vRESERVED)
        ++ lanes.flatMap (fun k =>
            chk (decide (fabNeigh img k > 8) || fabNeigh img k == fabDev img) (4 + k) vRANGE
              ++ chk (lanes.any (fun j => decide (j < k) && fabNeigh img j == fabNeigh img k)) (4 + k) vLANECONFLICT)
        ++ (List.range 8).flatMap (fun v =>
            chk (decide (im16 img (12 + 2 * v) ≥ 2048)) (12 + 2 * v) vRESERVED ++ chk (decide (fabCells img v < 16)) (12 + 2 * v) vRANGE)
        ++ chk (decide (sum > 4096)) 12 vRANGE
  | 2 =>
    let n := runCount img
    if img.length < 8 ∨ img.length ≠ 8 + 4 * n then [(0, vFORMAT)]
    else chk (bits (im32 img 0) 31 19 != 0) 0 vRESERVED ++ chk (decide (runFirst img + n > queueCount)) 0 vRANGE
      ++ (List.range n).flatMap (fun i =>
          let x := im32 img (8 + 4 * i)
          chk (bits x 20 19 != 0) (8 + 4 * i) vRESERVED ++ chk (decide (bits x 31 28 > 8) || decide (bits x 23 21 > 4)) (8 + 4 * i) vRANGE)
  | _ => [(0, vFORMAT)]

/-- The bindings once an object applies. -/
def bindApply (t : Tbl (Option Bind)) (o : Obj) : Tbl (Option Bind) :=
  if o.sub = 2 ∧ o.typ = 2 then
    (List.range (runCount o.img)).foldl (fun t i =>
      let x := im32 o.img (8 + 4 * i)
      tblSet none t (runFirst o.img + i)
        (some { dev := bits x 31 28, vc := bits x 27 25, direct := bitOf x 24, rxLport := bits x 23 21, remoteQueue := bits x 18 0 })) t
  else t

/-- The pool map once the objects given apply. -/
def mapWith (s : State) (objs : List Obj) (i : Nat) : Nat :=
  match (objs.filter (fun o => o.sub == 8 && o.typ == 2)).getLast? with
  | some o => im8 o.img i % 32
  | none => tblGet 0 s.hopper.poolMap i

/-- LOSSLESS of a pool once the objects given apply. -/
def losslessWith (s : State) (objs : List Obj) (p : Nat) : Bool :=
  match ((objs.filter (fun o => o.sub == 8 && o.typ == 1)).flatMap (fun o => poolDefs o.img)).reverse.find? (fun d => d.pool == p) with
  | some d => d.lossless
  | none => (getPool s p).lossless

/-- LOSSLESS_VC once the objects given apply. -/
def losslessVcWith (s : State) (objs : List Obj) : Nat :=
  match (objs.filter (fun o => o.sub == 2 && o.typ == 1)).getLast? with
  | some o => fabLossless o.img
  | none => s.fabric.losslessVc

/-- The channel-dependency check (R409). -/
def channelPlanOk (s : State) (objs : List Obj) : Bool :=
  let vs := (List.range 8).filter (fun v => bitOf (losslessVcWith s objs) v)
  let poolsOf (v : Nat) : List Nat := ([59, 60, 61, 62, 63].map (fun m => mapWith s objs (8 * m + v))).eraseDups
  let pools := vs.map poolsOf
  pools.all (fun l => match l with
    | [p] => losslessWith s objs p
    | _ => false)
  && decide pools.flatten.Nodup
  && (List.range 472).all (fun i => !pools.flatten.contains (mapWith s objs i))

/-- The Conveyor's objects at prepare (Table 7.17).  LANE_CONFLICT tests the enable of a lane's Ethernet node as it stands at prepare,
whatever pending PORT_CFG objects will make of it (log entry 182, DESIGN CHOICE). -/
def prepConveyor (s : State) (prev objs : List Obj) (o : Obj) : List (Nat × Nat) :=
  match o.typ with
  | 1 =>
    chk ((List.range 8).any (fun k => bitOf (fabMask o.img) k && (getFp s (48 + k)).enable)) 0 vLANECONFLICT
      ++ chk (prev.any (fun x => x.sub == 2 && x.typ == 1)) 0 vDUPLICATE ++ chk (!channelPlanOk s objs) 0 vCHANNELPLAN
  | _ => runDuplicate (runsOf prev 2 2) o.img 4 vDUPLICATE ++ chk (!channelPlanOk s objs) 0 vCHANNELPLAN

/-- A POOL_MAP in a commit asks the Conveyor for the channel-dependency check too (R409). -/
def prepChannelPlan (s : State) (objs : List Obj) (o : Obj) : List (Nat × Nat) :=
  if o.sub = 8 ∧ o.typ = 2 then chk (!channelPlanOk s objs) 0 vCHANNELPLAN else []

/-- A FABRIC or FABRIC_BIND applies: the receive side of every lane starts its credit anew (R250, R252). -/
def applyConveyor (s : State) (o : Obj) : State :=
  match o.typ with
  | 1 =>
    let img := o.img
    let s := freeRx s
    let lanes := (List.range 64).foldl (fun t i =>
      tblSet LaneVc.reset t i { LaneVc.reset with kOwn := if bitOf (fabMask img) (i / 8) then fabCells img (i % 8) else 0 }) []
    { s with fabric := { s.fabric with
        devId := fabDev img, laneMask := fabMask img, losslessVc := fabLossless img
        neigh := (List.range 8).foldl (fun t k => tblSet 0 t k (fabNeigh img k)) []
        rxCells := (List.range 8).foldl (fun t v => tblSet 0 t v (fabCells img v)) []
        lanes := lanes, credRot := [] } }
  | _ => { s with fabric := { s.fabric with binds := bindApply s.fabric.binds o } }

end Sys2Proof.Machine
end

