-- ==== Sys2Proof/Machine/HaulObjects.lean ====
section
/-! DEFINITION. Machine/HaulObjects.lean: the objects of the Haul scheduler: their checks at prepare, what an INJECT
reserves, and apply (R262, R270, R271, R273, R275, R276, R278, R281, R286, R290, R293, R491, Tables 8.3 to 8.10). -/

namespace Sys2Proof.Machine

/-! ### Reason codes (Table 8.10) -/

def sFORMAT : Nat := 0x01
def sRESERVED : Nat := 0x02
def sRANGE : Nat := 0x03
def sDUPLICATE : Nat := 0x04
def sHOLDBUSY : Nat := 0x05
def sTIMEBASE : Nat := 0x06
def sFABRICPORT : Nat := 0x07
def sRATEORDER : Nat := 0x08
def sNOCELLS : Nat := 0x09

/-- TYPE by which the model names the objects of SHAPER and GATELIST. -/
def tSHAPER : Nat := 16
def tGATELIST : Nat := 17

/-! ### What SHAPER and GATELIST refuse themselves (R271, R276) -/

/-- Whether SHAPER returns DENIED; n is w[a]. -/
def shaperDenied (n : Nat) (img : List Byte) : Bool :=
  let level := bits n 21 20
  let i := bits n 18 0
  let limit := if level = 0 then queueCount else if level = 1 then 65536 else if level = 2 then 8192 else 64
  bits n 63 22 != 0 || bitOf n 19 || decide (i ≥ limit) || bits (im32 img 0) 31 26 != 0 || bits (im32 img 4) 31 26 != 0
    || bits (im32 img 8) 31 24 != 0 || bits (im32 img 12) 31 24 != 0 || decide (im32 img 0 > 50000000) || decide (im32 img 4 > 50000000)

/-- Whether GATELIST returns DENIED; n is w[a], y the descriptor. -/
def gatelistDenied (n y : Nat) (img : List Byte) : Bool :=
  let k := bits y 10 0
  bits n 63 6 != 0 || decide (n > 55) || bits y 31 11 != 0 || decide (k > 1024) || bits (im32 img 0) 29 16 != 0
    || decide (im32 img 8 ≥ 1000000000) || decide (im32 img 12 < 64) || decide (im32 img 12 > 1000000000)
    || (List.range k).any (fun j =>
        let o := 0x10 + 8 * j
        bits (im32 img o) 31 10 != 0 || bits (im32 img o) 9 8 == 3 || decide (im32 img (o + 4) < 64))

/-- The bytes of the record that SHAPER and GATELIST read. -/
def gatelistSize (y : Nat) : Nat := 0x10 + 8 * bits y 10 0

/-- A gate list image (Table 8.5). -/
def gateListOf (img : List Byte) (k : Nat) : GateList :=
  { tb := bits (im32 img 0) 31 30, base := (im16 img 0 * 2 ^ 32 + im32 img 4) * 1000000000 + im32 img 8, cycle := im32 img 12
    ents := (List.range k).map (fun j =>
      let o := 0x10 + 8 * j
      { v := im8 img o, op := bits (im32 img o) 9 8, ivl := im32 img (o + 4) }) }

/-- A stream gate's list (TYPE 0x05). -/
def streamListOf (img : List Byte) : GateList :=
  { tb := bits (im32 img 0) 31 30, base := (im16 img 0 * 2 ^ 32 + im32 img 4) * 1000000000 + im32 img 8, cycle := im32 img 12
    ents := (List.range (bits (im32 img 0x10) 6 0)).map (fun j =>
      let x := im32 img (0x14 + 8 * j)
      { v := b2n (bitOf x 31) * 16 + b2n (bitOf x 30) * 8 + bits x 29 27, op := 0, ivl := im32 img (0x18 + 8 * j) }) }

/-! ### Records of runs -/

/-- FIRST of a run: the low n bits of word 0. -/
def firstOf (n : Nat) (img : List Byte) : Nat := im32 img 0 % 2 ^ n

/-- Checks of a run of records of z bytes: length, reserved bits of word 0 above the first n bits of FIRST, and the index range. -/
def runFaults (img : List Byte) (z n limit : Nat) (body : Nat → Nat → List (Nat × Nat)) : List (Nat × Nat) :=
  let k := im32 img 4
  if img.length < 8 ∨ img.length ≠ 8 + z * k then [(0, sFORMAT)]
  else chk (im32 img 0 / 2 ^ n != 0) 0 sRESERVED ++ chk (decide (firstOf n img + k > limit)) 0 sRANGE
    ++ (List.range k).flatMap (fun i => body (firstOf n img + i) (8 + z * i))

/-- QUEUE_MAP; a record that detaches is bound by its reserved fields only. -/
def queueMapFaults (img : List Byte) : List (Nat × Nat) :=
  runFaults img 8 19 queueCount (fun _ o =>
    let a := im32 img o
    let w := im32 img (o + 4)
    chk (bits a 24 16 != 0) o sRESERVED ++ chk (bits w 31 12 != 0) (o + 4) sRESERVED ++ chk (bitOf a 31 && bits w 11 0 == 0) (o + 4) sRANGE)

/-- NODE_MAP. -/
def nodeMapFaults (img : List Byte) : List (Nat × Nat) :=
  let k := im32 img 4
  let level := bits (im32 img 0) 31 30
  let first := bits (im32 img 0) 16 0
  if img.length < 8 ∨ img.length ≠ 8 + 8 * k ∨ level = 0 ∨ level = 3 then [(0, sFORMAT)]
  else chk (bits (im32 img 0) 29 17 != 0) 0 sRESERVED ++ chk (decide (first + k > if level = 1 then 65536 else 8192)) 0 sRANGE
    ++ (List.range k).flatMap (fun i =>
        let o := 8 + 8 * i
        let a := im32 img o
        let w := im32 img (o + 4)
        chk (bits a 27 13 != 0) o sRESERVED ++ chk (bitOf a 31 && level == 2 && decide (bits a 12 0 > 63)) o sRANGE
          ++ chk (bits w 31 12 != 0) (o + 4) sRESERVED ++ chk (bitOf a 31 && bits w 11 0 == 0) (o + 4) sRANGE)

/-- PORT_SCHED. -/
def portSchedFaults (img : List Byte) : List (Nat × Nat) :=
  runFaults img 4 6 64 (fun m o =>
    let a := im32 img o
    chk (decide (bits a 13 0 < 64)) o sRANGE ++ chk (decide (m ≥ 32) && (bits a 21 14 != 0 || bitOf a 24)) o sRANGE)

/-- POLICER (Table 8.4). -/
def policerFaults (img : List Byte) : List (Nat × Nat) :=
  runFaults img 32 17 131072 (fun _ o =>
    let a := im32 img o
    chk (bits a 31 30 == 3) o sFORMAT ++ chk (bits a 19 14 != 0) o sRESERVED ++ chk (bits (im32 img (o + 4)) 31 26 != 0) (o + 4) sRESERVED
      ++ chk (bits (im32 img (o + 8)) 31 26 != 0) (o + 8) sRESERVED ++ chk (bits (im32 img (o + 12)) 31 24 != 0) (o + 12) sRESERVED
      ++ chk (bits (im32 img (o + 16)) 31 24 != 0) (o + 16) sRESERVED
      ++ chk (!allZero (imgBytes img (o + 0x14) 12)) (o + 0x14) sRESERVED
      ++ chk (bits a 31 30 == 1 && decide (im32 img (o + 8) < im32 img (o + 4))) (o + 8) sRATEORDER)

/-- STREAM_GATE. -/
def streamGateFaults (s : State) (img : List Byte) : List (Nat × Nat) :=
  let k := bits (im32 img 0x10) 6 0
  if img.length < 0x14 ∨ img.length ≠ 0x14 + 8 * k then [(0, sFORMAT)]
  else chk (bits (im32 img 0) 29 24 != 0) 0 sRESERVED ++ chk (!(tbGet s.time (bits (im32 img 0) 31 30)).running) 0 sTIMEBASE
    ++ chk (decide (im32 img 8 ≥ 1000000000)) 8 sRANGE ++ chk (decide (im32 img 12 < 64) || decide (im32 img 12 > 1000000000)) 12 sRANGE
    ++ chk (bits (im32 img 0x10) 31 7 != 0) 0x10 sRESERVED ++ chk (decide (k > 64)) 0x10 sRANGE
    ++ (List.range k).flatMap (fun j =>
        chk (bits (im32 img (0x14 + 8 * j)) 26 0 != 0) (0x14 + 8 * j) sRESERVED ++ chk (decide (im32 img (0x18 + 8 * j) < 64)) (0x18 + 8 * j) sRANGE)

/-- HALT. -/
def haltFaults (img : List Byte) : List (Nat × Nat) :=
  if img.length ≠ 40 then [(0, sFORMAT)]
  else chk (bits (im32 img 0) 28 16 != 0) 0 sRESERVED ++ chk (im16 img 0x0E != 0) 8 sRESERVED ++ chk (im8 img 0x17 != 0) 0x10 sRESERVED
    ++ chk (im8 img 0x1F != 0) 0x18 sRESERVED ++ chk (im16 img 0x22 != 0) 0x20 sRESERVED ++ chk (decide (im16 img 0x20 < 10)) 0x20 sRANGE

/-- TEMPLATE (R290, Table 8.13): an EDIT of a reserved KIND is RANGE. -/
def templateFaults (img : List Byte) : List (Nat × Nat) :=
  runFaults img 64 12 4096 (fun _ o =>
    let insLen := im8 img (o + 6)
    chk (bits (im32 img o) 30 24 != 0 || im8 img o != 0) o sRESERVED
      ++ chk (decide (im8 img (o + 1) > 64) || decide (im8 img (o + 2) + im8 img (o + 1) > 256)) o sRANGE
      ++ chk (decide (insLen > 32)) (o + 4) sRANGE ++ chk (im16 img (o + 4) != 0) (o + 4) sRESERVED
      ++ chk (!allZero (imgBytes img (o + 8 + insLen) (32 - insLen))) (o + 8 + insLen) sRESERVED
      ++ (List.range 3).flatMap (fun i =>
          let e := im64 img (o + 0x28 + 8 * i)
          chk (decide (bits e 55 53 > 3)) (o + 0x28 + 8 * i) sRANGE
            ++ chk (bits e 52 48 != 0 || bits e 15 0 != 0) (o + 0x28 + 8 * i) sRESERVED))

/-- INJECT (Table 17.9); n is SIZE of its pool once the commits before it apply. -/
def injectFaults (size : Nat) (img : List Byte) : List (Nat × Nat) :=
  let len := bits (im32 img 4) 13 0
  let padded := ceilDiv len 4 * 4
  if img.length < 0x10 ∨ img.length ≠ 0x10 + padded then [(0, sFORMAT)]
  else chk (bits (im32 img 0) 23 19 != 0) 0 sRESERVED ++ chk (bits (im32 img 0) 28 24 != 0 && size == 0) 0 sRANGE
    ++ chk (decide (len < 60) || decide (len > 16379)) 4 sRANGE ++ chk (bits (im32 img 8) 31 12 != 0) 8 sRESERVED ++ chk (im32 img 12 != 0) 12 sRESERVED
    ++ chk (!allZero (imgBytes img (0x10 + len) (padded - len))) (0x10 + len) sRESERVED

/-! ### Prepare -/

/-- The indices that an object names, with a key that keeps kinds apart, and their offsets (DUPLICATE of Table 8.10). -/
def haulNames (o : Obj) : List (Nat × Nat) :=
  let run (kind z n : Nat) : List (Nat × Nat) := (List.range (im32 o.img 4)).map (fun i => (kind * 2 ^ 32 + firstOf n o.img + i, 8 + z * i))
  if o.sub ≠ 9 then []
  else match o.typ with
  | 1 => run 1 8 19
  | 2 => run (2 + bits (im32 o.img 0) 31 30) 8 17
  | 3 => run 6 4 6
  | 4 => run 7 32 17
  | 5 => [(8 * 2 ^ 32 + im8 o.img 2, 0)]
  | 7 => run 9 64 12
  | 16 => [(10 * 2 ^ 32 + o.arg % 2 ^ 22, 0)]
  | 17 => [(11 * 2 ^ 32 + o.arg % 64, 0)]
  | _ => []

/-- A queue's record and a node's record of QUEUE_MAP and NODE_MAP. -/
def queueMapApply (t : Tbl QueueRec) (o : Obj) : Tbl QueueRec :=
  (List.range (im32 o.img 4)).foldl (fun t i =>
    let a := im32 o.img (8 + 8 * i)
    let q := firstOf 19 o.img + i
    tblSet QueueRec.reset t q { tblGet QueueRec.reset t q with
      attached := bitOf a 31, cls := bits a 30 28, tc := bits a 27 25, parent := bits a 15 0, weight := bits (im32 o.img (12 + 8 * i)) 11 0 }) t

def nodeMapApply (t : Tbl NodeRec) (o : Obj) : Tbl NodeRec :=
  (List.range (im32 o.img 4)).foldl (fun t i =>
    let a := im32 o.img (8 + 8 * i)
    tblSet NodeRec.reset t (bits (im32 o.img 0) 16 0 + i)
      { attached := bitOf a 31, cls := bits a 30 28, parent := bits a 12 0, weight := bits (im32 o.img (12 + 8 * i)) 11 0 }) t

/-- The hierarchy once an object applies, frames and lists untouched: what port(q) will answer. -/
def mapShape (s : State) (o : Obj) : State :=
  if o.sub ≠ 9 then s
  else if o.typ = 1 then { s with haul := { s.haul with queues := queueMapApply s.haul.queues o } }
  else if o.typ = 2 then
    if bits (im32 o.img 0) 31 30 = 1 then { s with haul := { s.haul with subs := nodeMapApply s.haul.subs o } }
    else { s with haul := { s.haul with svcs := nodeMapApply s.haul.svcs o } }
  else s

/-- HOLD_BUSY: a hold queue that holds frames would change port node (R262). -/
def holdBusy (s : State) (objs : List Obj) (o : Obj) : Bool :=
  let before := ((objs.takeWhile (fun x => decide (x ≠ o))).foldl mapShape s)
  let after := mapShape before o
  s.haul.queues.any (fun e => !e.2.frames.isEmpty && (getQAdmit s e.1).hold && queuePort before e.1 != queuePort after e.1)

/-- The image checks of an object of the Haul scheduler. -/
def haulImage (s : State) (objs : List Obj) (o : Obj) : List (Nat × Nat) :=
  match o.typ with
  | 1 => queueMapFaults o.img
  | 2 => nodeMapFaults o.img
  | 3 => portSchedFaults o.img
  | 4 => policerFaults o.img
  | 5 => streamGateFaults s o.img
  | 6 => haltFaults o.img
  | 7 => templateFaults o.img
  | 8 => injectFaults (let p := bits (im32 o.img 0) 28 24; if p = 0 then cellCount else pendingSize objs s p) o.img
  | 17 =>
    let m := o.arg % 64
    chk (decide (m ≥ 48) && bitOf s.fabric.laneMask (m - 48)) 0 sFABRICPORT ++ chk (!(tbGet s.time (bits (im32 o.img 0) 31 30)).running) 0 sTIMEBASE
  | _ => []

/-- One object of the Haul scheduler at prepare: its failures, or the state with the chain that an INJECT reserves. -/
def prepHaul (s : State) (prev objs : List Obj) (o : Obj) : List (Nat × Nat) × State × List Nat :=
  let image := haulImage s objs o
  if image.contains (0, sFORMAT) then (image, s, [])
  else
    let names := prev.flatMap (fun x => (haulNames x).map (·.1))
    let dup := (haulNames o).flatMap (fun e => chk (names.contains e.1) e.2 sDUPLICATE)
    let bad := image ++ dup ++ chk ((o.typ == 1 || o.typ == 2) && holdBusy s objs o) 0 sHOLDBUSY
    if o.typ = 8 then
      let len := bits (im32 o.img 4) 13 0
      match allocCells s (bits (im32 o.img 0) 28 24) (ceilDiv (len + 4) 256) with
      | (s, .ok cells) =>
        let first := cells.headD 0
        let s := setChain s first (some { cells := cells, hold := 1, owner := 0x200, pending := false, data := memPut [] 0 (withFcs (imgBytes o.img 0x10 len)) })
        (bad, s, [handleOf s first])
      | (s, _) => ((0, sNOCELLS) :: bad, s, [])
    else (bad, s, [])

/-- UNBOUND: every queue of port nodes 59 to 63 must be bound (R250, Table 7.17); reported by the Conveyor. -/
def unboundFaults (s : State) (objs : List Obj) : List (Nat × Nat) :=
  let shape := objs.foldl mapShape s
  let binds := objs.foldl bindApply s.fabric.binds
  chk (shape.haul.queues.any (fun e => (match queuePort shape e.1 with | some m => decide (m ≥ 59) | none => false)
    && (tblGet none binds e.1).isNone)) 0 vUNBOUND

/-- Whether an object can leave a fabric queue unbound. -/
def touchesBinding (o : Obj) : Bool := (o.sub == 2) || (o.sub == 9 && (o.typ == 1 || o.typ == 2))

/-! ### Apply -/

/-- The queues below a node, and those that lie anywhere when the node is a port's. -/
def flushMoved (s : State) (after : State) : State :=
  s.haul.queues.foldl (fun s e =>
    match queuePort s e.1 with
    | some m => if queuePort after e.1 = some m then s else (flushQueues s m [e.1]).1
    | none => s) s

/-- QUEUE_MAP applies (R262): a backlogged child whose parent or class changes joins the tail of its new list. -/
def applyQueueMap (s : State) (o : Obj) : State :=
  let s := flushMoved s (mapShape s o)
  let named := (List.range (im32 o.img 4)).map (firstOf 19 o.img + ·)
  let after := mapShape s o
  let busy := named.filter (fun q => !(getQueue s q).frames.isEmpty &&
    ((getQueue s q).parent != (getQueue after q).parent || (getQueue s q).cls != (getQueue after q).cls))
  let s := busy.foldl leaveUp s
  let s := joinAll (mapShape s o) busy
  named.foldl holdUpdate s

/-- NODE_MAP applies (R262), as QUEUE_MAP does for queues. -/
def applyNodeMap (s : State) (o : Obj) : State :=
  let level := bits (im32 o.img 0) 31 30
  let s := flushMoved s (mapShape s o)
  let named := (List.range (im32 o.img 4)).map (bits (im32 o.img 0) 16 0 + ·)
  let after := mapShape s o
  let busy := named.filter (fun i => !nodeIdle s level i &&
    ((getNode s level i).parent != (getNode after level i).parent || (getNode s level i).cls != (getNode after level i).cls))
  let s := busy.foldl (fun s i =>
    let s := leaveList s level i
    let up := (getNode s 1 i).parent
    if level = 1 ∧ nodeIdle s 2 up then leaveList s 2 up else s) s
  holdUpdateAll (joinNodes (mapShape s o) level busy)

/-- PORT_SCHED applies; changes of ADD_FRAG and PREEMPT restart verification. -/
def applyPortSched (s : State) (o : Obj) : State :=
  (List.range (im32 o.img 4)).foldl (fun s i =>
    let a := im32 o.img (8 + 4 * i)
    let m := firstOf 6 o.img + i
    let p := getPort s m
    let same := p.addFrag == bits a 23 22 && p.preempt == bits a 21 14
    setPort s m { p with overhead := sgn 7 (bits a 31 25), verify := bitOf a 24, addFrag := bits a 23 22, preempt := bits a 21 14,
                         maxExpress := bits a 13 0, verified := p.verified && same }) s

/-- POLICER applies (R273): both buckets full, BLOCKED clear. -/
def applyPolicer (s : State) (o : Obj) : State :=
  (List.range (im32 o.img 4)).foldl (fun s i =>
    let b := 8 + 32 * i
    let a := im32 o.img b
    let cbs := bits (im32 o.img (b + 12)) 23 0
    let pbs := bits (im32 o.img (b + 16)) 23 0
    setPolicer s (firstOf 17 o.img + i)
      { mode := bits a 31 30, sgEn := bitOf a 29, blockOversize := bitOf a 28, sg := bits a 27 20, maxSdu := bits a 13 0
        cir := bits (im32 o.img (b + 4)) 25 0, pir := bits (im32 o.img (b + 8)) 25 0, cbs := cbs, pbs := pbs
        ct := ((cbs * 65536 : Nat) : Int), pt := ((pbs * 65536 : Nat) : Int), cRem := 0, pRem := 0, cu := s.localNs, pu := s.localNs
        blocked := false }) s

/-- SHAPER applies (R270); arg is w[a] with RESET at bit 32. -/
def applyShaper (s : State) (o : Obj) : State :=
  let full := bitOf o.arg 32
  let cbs := bits (im32 o.img 8) 23 0
  let pbs := bits (im32 o.img 12) 23 0
  setShaper s (bits o.arg 21 20) (bits o.arg 18 0)
    { cir := bits (im32 o.img 0) 25 0, pir := bits (im32 o.img 4) 25 0, cbs := cbs, pbs := pbs
      ct := if full then ((cbs * 65536 : Nat) : Int) else 0, pt := if full then ((pbs * 65536 : Nat) : Int) else 0
      cRem := 0, pRem := 0, cu := s.localNs, pu := s.localNs }

/-- HALT applies; CLEAR lowers STOP_OUT unless SAFE_STOP holds it high in the safe output state (R286, R287, R375). -/
def applyHaltObj (s : State) (o : Obj) : State :=
  let img := o.img
  { s with haul := { s.haul with
      haltEn := bitOf (im32 img 0) 31, haltConsume := bitOf (im32 img 0) 30, haltEtype := im16 img 0, haltMagic := im32 img 4
      haltDa := im64 img 8 % 2 ^ 48, haltIn := im64 img 0x10 % 2 ^ 56, haltOut := im64 img 0x18 % 2 ^ 56, haltGap := im16 img 0x20
      stop := s.haul.stop && (!bitOf (im32 img 0) 29 || (s.triad.safe && s.triad.safeStop)) } }

/-- TEMPLATE applies (R290). -/
def applyTemplates (s : State) (o : Obj) : State :=
  { s with haul := { s.haul with templates := (List.range (im32 o.img 4)).foldl (fun t i =>
      tblSet [] t (firstOf 12 o.img + i) (imgBytes o.img (8 + 64 * i) 64)) s.haul.templates } }

/-- INJECT applies: the frame of chain h is offered to its queue (R491). -/
def applyInject (s : State) (o : Obj) (h : Nat) : State :=
  let c := handleCell h
  let len := bits (im32 o.img 4) 13 0 + 4
  let s := setChain s c ((getChain s c).map (fun x => { x with owner := 0x400 }))
  match takeDesc s with
  | none =>
    let s := notSent s (bits (im32 o.img 0) 18 0) (bitOf (im32 o.img 0) 31)
    bump (bump (freeChain s c) .descDrop 0 1) .injectDrop 0 1
  | some (i, s) =>
    let mark := if bitOf (im32 o.img 0) 31 then some (bits (im32 o.img 0) 30 29, im16 o.img 6) else none
    let d : Desc := { haltDesc with
      idx := i, handle := h, len := len, dp := bits (im32 o.img 4) 15 14, template := bits (im32 o.img 8) 11 0, queue := bits (im32 o.img 0) 18 0
      rxTime := nowShort s, cells := ceilDiv len 256, mark := mark, since := s.localNs, lastBit := s.localNs }
    let r := enqueue s d
    if r.2 then bump r.1 .injectSent 0 1 else bump (notSent (freeDesc (freeChain r.1 c) i) d.queue mark.isSome) .injectDrop 0 1

/-- An object of the Haul scheduler applies; frames are the chains that the commit's INJECT objects still hold. -/
def applyHaul (s : State) (o : Obj) : State :=
  match o.typ with
  | 1 => applyQueueMap s o
  | 2 => applyNodeMap s o
  | 3 => applyPortSched s o
  | 4 => applyPolicer s o
  | 5 => setSgate s (im8 o.img 2) (pendList s (getSgate s (im8 o.img 2)) (streamListOf o.img))
  | 6 => applyHaltObj s o
  | 7 => applyTemplates s o
  | 16 => applyShaper s o
  | 17 => setGates s (o.arg % 64) (pendList s (getGates s (o.arg % 64)) (gateListOf o.img (o.arg / 64)))
  | _ => s

end Sys2Proof.Machine
end

