-- ==== Sys2Proof/Machine/TimeObjects.lean ====
section
/-! DEFINITION. Machine/TimeObjects.lean: the objects of the time unit, their checks at prepare and their effect at
step 2 (R33, R299 to R303, R307, R312, R313, Table 9.14). -/

namespace Sys2Proof.Machine

/-! ### Reason codes (Table 9.3) -/

def tFORMAT : Nat := 0x01
def tRESERVED : Nat := 0x02
def tDUPLICATE : Nat := 0x03
def tT0STOP : Nat := 0x04
def tNOTRUNNING : Nat := 0x05
def tRATERANGE : Nat := 0x06
def tPORT : Nat := 0x07
def tTICKCOUNT : Nat := 0x08
def tPERIOD : Nat := 0x09

/-! ### Fields -/

/-- MODE and TB of a TB_ADJ object (Table 9.1). -/
def adjMode (img : List Byte) : Nat := bits (im32 img 0) 31 28
def adjTb (img : List Byte) : Nat := bits (im32 img 0) 27 26

/-- The value or offset that a TB_ADJ object names, in units of 2^-32 ns (R300). -/
def adjValue (img : List Byte) : Int :=
  let m := adjMode img
  if m = 0 ∨ m = 2 then
    let sec := sgn 48 (im64 img 8)
    let ns := sgn 32 (im32 img 0x10)
    let f : Int := im16 img 0x16 * 2 ^ 16
    (sec * 1000000000 + ns) * 2 ^ 32 + (if sec < 0 ∨ ns < 0 then -f else f)
  else ((bits (im64 img 8) 47 0 * 1000000000 + im32 img 0x10 : Nat) : Int) * 2 ^ 32 + im16 img 0x16 * 2 ^ 16

/-- Cycles of a slew (R301). -/
def adjCycles (img : List Byte) : Nat := im32 img 0x18 * 1000

/-! ### Checks at prepare (R33, R302, R312, R313) -/

/-- The running state of a base once the objects of earlier commits and of this one have applied (R302). -/
def runsAfter (s : State) (objs : List Obj) (n : Nat) : Bool :=
  objs.foldl (fun r o =>
    if o.sub = 10 ∧ o.typ = 1 ∧ adjTb o.img = n then
      if adjMode o.img = 4 then true else if adjMode o.img = 5 then false else r
    else r) (tbGet s.time n).running

/-- What an object names, with a key that keeps kinds apart, and the offset (DUPLICATE of Table 9.3). -/
def timeNames (o : Obj) : List (Nat × Nat) :=
  if o.sub ≠ 10 then []
  else match o.typ with
  | 1 => [(adjTb o.img, 0)]
  | 2 => (List.range (im32 o.img 0)).map (fun i => (0x100 + bits (im32 o.img (4 + 16 * i)) 31 26, 4 + 16 * i))
  | 3 => (List.range (im32 o.img 0)).map (fun i => (0x200 + bits (im32 o.img (4 + 4 * i)) 26 26, 4 + 4 * i))
  | 4 => (List.range (im32 o.img 0)).map (fun i => (0x300 + bits (im32 o.img (4 + 24 * i)) 28 27, 4 + 24 * i))
  | 5 => [(0x400, 0)]
  | _ => []

/-- Names of one object that occur twice, at the offsets of the later ones. -/
def nameTwice : List Nat → List (Nat × Nat) → List (Nat × Nat)
  | _, [] => []
  | seen, (k, o) :: t => chk (seen.contains k) o tDUPLICATE ++ nameTwice (k :: seen) t

/-- TB_ADJ (Tables 9.1 and 9.2); run is the running state of the base as R302 reads it.  A RATE outside MODE 3 and a DURATION_US outside
Table 9.1 are reported as FORMAT, since Table 9.3 lists neither under a code (log entry 206, DESIGN CHOICE). -/
def adjFaults (run : Bool) (img : List Byte) : List (Nat × Nat) :=
  if img.length ≠ 32 then [(0, tFORMAT)]
  else
    let m := adjMode img
    let n := adjTb img
    let rel := m == 0 || m == 2
    let sec := sgn 48 (im64 img 8)
    let ns := sgn 32 (im32 img 0x10)
    let rate := sgn 32 (im32 img 4)
    chk (decide (m > 5)) 0 tFORMAT ++ chk (bits (im32 img 0) 25 0 != 0) 0 tRESERVED
      ++ chk ((m == 4 || m == 5) && n == 0) 0 tT0STOP
      ++ chk (decide (m ≤ 5) && !((m == 4 || m == 5) && n == 0) && (if m == 4 then run else !run)) 0 tNOTRUNNING
      ++ chk (m != 3 && im32 img 4 != 0) 4 tFORMAT
      ++ chk (m == 3 && (decide (rate > 2147483) || decide (rate < -2147483))) 4 tRATERANGE
      ++ chk (bits (im64 img 8) 63 48 != 0) 8 tRESERVED
      ++ chk (rel && (decide (sec < 0 ∧ ns > 0) || decide (sec > 0 ∧ ns < 0))) 8 tFORMAT
      ++ chk (if rel then decide (ns > 999999999) || decide (ns < -999999999) else decide (im32 img 0x10 > 999999999)) 0x10 tFORMAT
      ++ chk (im16 img 0x14 != 0) 0x14 tRESERVED
      ++ chk (if m == 2 then im32 img 0x18 == 0 else im32 img 0x18 != 0) 0x18 tFORMAT
      ++ chk (m == 2 && decide ((adjValue img).natAbs * 1000000 > 500 * 2 ^ 32 * adjCycles img)) 0x18 tRATERANGE
      ++ chk (im32 img 0x1C != 0) 0x1C tRESERVED

/-- The length of an image that is a count word and records of z bytes. -/
def countFaults (img : List Byte) (z : Nat) (body : Nat → List (Nat × Nat)) : List (Nat × Nat) :=
  if img.length < 4 ∨ img.length ≠ 4 + z * im32 img 0 then [(0, tFORMAT)]
  else (List.range (im32 img 0)).flatMap (fun i => body (4 + z * i))

/-- TS_PORT (Table 9.5). -/
def tsPortFaults (img : List Byte) : List (Nat × Nat) :=
  countFaults img 16 (fun o =>
    chk (decide (bits (im32 img o) 31 26 > 55)) o tPORT ++ chk (bits (im32 img o) 22 0 != 0) o tRESERVED
      ++ chk (im8 img (o + 7) != 0) (o + 4) tRESERVED ++ chk (im8 img (o + 11) != 0) (o + 8) tRESERVED)

/-- PPS_IN (R312). -/
def ppsInFaults (img : List Byte) : List (Nat × Nat) :=
  countFaults img 4 (fun o => chk (bits (im32 img o) 30 29 == 3) o tFORMAT ++ chk (bits (im32 img o) 25 0 != 0) o tRESERVED)

/-- PPS_OUT (Table 9.11).  A START_NS, PERIOD_NS or WIDTH_NS outside the table's range is refused with FORMAT (log entry 207, DESIGN
CHOICE: the spec names no refusal of it). -/
def ppsOutFaults (img : List Byte) : List (Nat × Nat) :=
  countFaults img 24 (fun o =>
    let p := im32 img (o + 0x0C)
    let w := im32 img (o + 0x10)
    chk (bits (im32 img o) 26 16 != 0) o tRESERVED ++ chk (decide (im32 img (o + 8) > 999999999)) (o + 8) tFORMAT
      ++ chk (decide (p < 1000) || decide (p > 1000000000)) (o + 0x0C) tFORMAT
      ++ chk (decide (w < 100) || decide (w + 100 > p)) (o + 0x10) tFORMAT ++ chk (im32 img (o + 0x14) != 0) (o + 0x14) tRESERVED)

/-- TICK (R33, Table 1.15); natural is the count that its boundary would carry without it, and pending tells that a
TICK object of an earlier commit awaits its boundary. -/
def tickFaults (natural : Nat) (pending : Bool) (img : List Byte) : List (Nat × Nat) :=
  if img.length ≠ 16 then [(0, tFORMAT)]
  else
    let w := im32 img 0
    let p := bits w 10 0
    let c := im64 img 8
    chk (!bitOf w 31 && !bitOf w 30) 0 tFORMAT ++ chk (bits w 29 11 != 0 || (!bitOf w 31 && p != 0)) 0 tRESERVED
      ++ chk pending 0 tDUPLICATE ++ chk (bitOf w 31 && (decide (p < 8) || decide (p > 1024))) 0 tPERIOD
      ++ chk (im32 img 4 != 0) 4 tRESERVED ++ chk (!bitOf w 30 && c != 0) 8 tRESERVED
      ++ chk (bitOf w 30 && (decide (c ≤ natural) || c % 2 != natural % 2)) 8 tTICKCOUNT

/-- One object of the time unit at prepare: prev are the group's objects before it, before those of the commits that
apply earlier, and natural the count that the commit's boundary would carry. -/
def prepTime (s : State) (prev before : List Obj) (natural : Nat) (o : Obj) : List (Nat × Nat) :=
  let bad := match o.typ with
    | 1 => adjFaults (runsAfter s (before ++ prev) (adjTb o.img)) o.img
    | 2 => tsPortFaults o.img
    | 3 => ppsInFaults o.img
    | 4 => ppsOutFaults o.img
    | 5 => tickFaults natural ((committedObjs s).any (fun x => x.sub == 10 && x.typ == 5)) o.img
    | _ => [(0, tFORMAT)]
  -- an image of the wrong length names nothing
  if bad = [(0, tFORMAT)] then bad else bad ++ nameTwice (prev.flatMap (fun x => (timeNames x).map (·.1))) (timeNames o)

/-! ### Effects of a jump of a base (R279, R303, R313) -/

/-- The whole nanosecond at or after a reading. -/
def tbCeil (b : TimeBase) : Nat := ((b.value + (2 ^ 32 - 1)) / 2 ^ 32).toNat

/-- The smallest E_k of a PPS output that is not earlier than both now and 100 ns after the previous falling edge (R313). -/
def ppsNext (s : State) (x : PpsOut) : Option Nat :=
  if x.en = false then none
  else
    let f := match x.fallAt with
      | some t => t + 100
      | none => match x.lastFall with
        | some t => t + 100
        | none => 0
    let r := tbCeil (tbAdvance (tbGet s.time x.tb) (f - s.localNs))
    some (if r ≤ x.start then x.start else x.start + ceilDiv (r - x.start) x.period * x.period)

def getPpsOut (s : State) (k : Nat) : PpsOut := tblGet PpsOut.reset s.time.ppsOut k
def setPpsOut (s : State) (k : Nat) (x : PpsOut) : State := { s with time := { s.time with ppsOut := tblSet PpsOut.reset s.time.ppsOut k x } }

/-- A pending list whose S the base was stepped past computes its S again (R279). -/
def gateStep (s : State) (n : Nat) (g : GateState) : GateState :=
  let g := match g.pending with
    | some (l, st) => if l.tb = n ∧ (st * 2 ^ 32 : Int) < (tbGet s.time n).value then pendList s g l else g
    | none => g
  match g.active with
  | some (l, _) => if l.tb = n then { g with coast := none } else g
  | none => g

/-- The active list of a base that stops goes on in local time from its last reading (R279). -/
def gateStop (s : State) (n : Nat) (g : GateState) : GateState := match g.active with
  | some (l, _) => if l.tb = n then { g with coast := some (tbNs (tbGet s.time n), s.localNs) } else g
  | none => g

/-- Every gate list takes a change of a base. -/
def gatesEach (s : State) (f : GateState → GateState) : State :=
  let t := (List.range 56).foldl (fun t m => tblSet GateState.none t m (f (tblGet GateState.none t m))) s.haul.gates
  let u := (List.range 256).foldl (fun t m => tblSet GateState.none t m (f (tblGet GateState.none t m))) s.haul.sgates
  { s with haul := { s.haul with gates := t, sgates := u } }

/-- What follows a step or start of base n: gate lists and PPS outputs compute their next instants again, and a step of
T0 makes the tick one of R31. -/
def tbStepped (s : State) (n : Nat) : State :=
  let s := gatesEach s (gateStep s n)
  let s := (List.range 4).foldl (fun s k =>
    let x := getPpsOut s k
    if x.en ∧ x.tb = n then setPpsOut s k { x with next := ppsNext s x } else s) s
  let s := bump s .steps n 1
  if n = 0 then { s with bench := { s.bench with disturbed := true } } else s

/-! ### Apply -/

def setTb (s : State) (n : Nat) (b : TimeBase) : State := { s with time := tbSet s.time n b }

/-- TB_ADJ applies (Table 9.2). -/
def applyAdj (s : State) (img : List Byte) : State :=
  let n := adjTb img
  let b := tbGet s.time n
  let v := adjValue img
  let late : Int := (s.localNs - s.bench.startLocal : Nat) * 2 ^ 32
  let stepped (b : TimeBase) : State := tbStepped (setTb s n { b with slew := none, stepSeq := (b.stepSeq + 1) % 256 }) n
  logTime s (match adjMode img with
  | 0 => stepped { b with value := tbWrap (b.value + v) }
  | 1 => stepped { b with value := tbWrap (v + late) }
  | 2 =>
    let d : Int := adjCycles img
    setTb s n { b with slew := some { inc := v / d, left := adjCycles img, rem := v % d } }
  | 3 => setTb s n { b with rate := sgn 32 (im32 img 4) }
  | 4 => stepped { b with value := tbWrap (v + late), running := true, rate := 0 }
  | _ => gatesEach (setTb s n { b with running := false }) (gateStop s n))

/-- TS_PORT applies (R307). -/
def applyTsPort (s : State) (img : List Byte) : State :=
  let t := (List.range (im32 img 0)).foldl (fun t i =>
    let o := 4 + 16 * i
    let w := im32 img o
    let m := bits w 31 26
    let x := { tblGet TsPort.reset t m with stampTb := bits w 25 24, useOtp := bitOf w 23, asym := sgn 32 (im32 img (o + 12)) }
    tblSet TsPort.reset t m (if bitOf w 23 then x else { x with rxLat := bits (im32 img (o + 4)) 23 0, txLat := bits (im32 img (o + 8)) 23 0 })) s.time.tsPorts
  logTime s { s with time := { s.time with tsPorts := t } }

/-- PPS_IN applies (R312). -/
def applyPpsIn (s : State) (img : List Byte) : State :=
  let t := (List.range (im32 img 0)).foldl (fun t i =>
    let w := im32 img (4 + 4 * i)
    let k := bits w 26 26
    tblSet PpsIn.reset t k { tblGet PpsIn.reset t k with en := bitOf w 31, edge := bits w 30 29, tb := bits w 28 27 }) s.time.ppsIn
  { s with time := { s.time with ppsIn := t } }

/-- One record of PPS_OUT applies (R313): a pulse in progress completes, and takeover is at the smallest E_k that is not
earlier than now. -/
def applyPpsRec (s : State) (img : List Byte) (o : Nat) : State :=
  let w := im32 img o
  let k := bits w 28 27
  let start := (bits w 15 0 * 2 ^ 32 + im32 img (o + 4)) * 1000000000 + im32 img (o + 8)
  let period := im32 img (o + 0x0C)
  let r := tbCeil (tbGet s.time (bits w 30 29))
  let next := if r ≤ start then start else start + ceilDiv (r - start) period * period
  setPpsOut s k { getPpsOut s k with
    en := bitOf w 31, tb := bits w 30 29, start := start, period := period, width := im32 img (o + 0x10),
    next := if bitOf w 31 then some next else none }

/-- TICK applies: a new P rules the tick that begins (R31, R33).  A count takes effect at the boundary instant. -/
def applyTick (s : State) (img : List Byte) : State :=
  if bitOf (im32 img 0) 31 then
    { s with bench := { s.bench with period := bits (im32 img 0) 10 0, disturbed := s.bench.disturbed || bits (im32 img 0) 10 0 != s.bench.period } }
  else s

/-- An object of the time unit applies (step 2). -/
def applyTime (s : State) (o : Obj) : State :=
  match o.typ with
  | 1 => applyAdj s o.img
  | 2 => applyTsPort s o.img
  | 3 => applyPpsIn s o.img
  | 4 => (List.range (im32 o.img 0)).foldl (fun s i => applyPpsRec s o.img (4 + 24 * i)) s
  | 5 => applyTick s o.img
  | _ => s

end Sys2Proof.Machine
end

