-- ==== Sys2Proof/Machine/FaceObjects.lean ====
section
/-! DEFINITION. Machine/FaceObjects.lean: the objects of Face, their checks at prepare and their effect at step 2
(R318, R319, R324, R327, R329, R336, R337, R339). -/

namespace Sys2Proof.Machine

/-! ### Reason codes (Table 10.13) -/

def fFORMAT : Nat := 0x01
def fRESERVED : Nat := 0x02
def fSPEED : Nat := 0x03
def fLANECONFLICT : Nat := 0x04
def fPLCA : Nat := 0x05
def fRANGE : Nat := 0x06
def fPORTENABLED : Nat := 0x07
def fDUPLICATE : Nat := 0x08
def fTC10OFF : Nat := 0x09

/-- Bytes of a record of a TYPE (Table 10.2). -/
def faceRecord (typ : Nat) : Nat := if typ = 1 ∨ typ = 2 then 8 else 4

/-- The n-th record of an object and its offset. -/
def faceRecs (o : Obj) : List (List Byte × Nat) :=
  (List.range (im32 o.img 0)).map (fun i => (imgBytes o.img (4 + faceRecord o.typ * i) (faceRecord o.typ), 4 + faceRecord o.typ * i))

/-- What a commit makes of the configuration of the port nodes that checks read: ENABLE, SPEED and TC10_EN. -/
def cfgApply (t : Tbl FacePort) (o : Obj) : Tbl FacePort :=
  if o.sub = 1 ∧ o.typ = 1 then
    (faceRecs o).foldl (fun t r =>
      let w := im32 r.1 0
      let m := bits w 31 26
      tblSet (FacePort.reset m) t m { tblGet (FacePort.reset m) t m with enable := bitOf w 25, speedCfg := bits w 23 20, tc10En := bitOf w 16 }) t
  else t

/-- LANE_MASK once the objects given apply (R319). -/
def laneMaskWith (s : State) (objs : List Obj) : Nat :=
  match (objs.filter (fun o => o.sub == 2 && o.typ == 1)).getLast? with
  | some o => fabMask o.img
  | none => s.fabric.laneMask

/-- Whether FEC names a code that IEEE 802.3 defines for a rate (R319); 0 leaves it to auto-negotiation. -/
def fecFits (sp fec : Nat) : Bool :=
  fec == 0 || (if sp = 5 then decide (fec ≤ 2) else if sp = 6 then decide (fec ≤ 3) else fec == 4)

/-- A PORT_CFG record (Table 10.3, R319); cfg holds the nodes and mask the lanes as they stand after the commit. -/
def portCfgFaults (cfg : Tbl FacePort) (mask : Nat) (r : List Byte) (o : Nat) : List (Nat × Nat) :=
  let w := im32 r 0
  let v := im32 r 4
  let m := bits w 31 26
  let sp := bits w 23 20
  let fec := bits w 7 5
  let on (k : Nat) : Bool := (tblGet (FacePort.reset k) cfg k).enable
  let t1 := decide (m < 32)
  let cv := decide (m ≥ 48)
  chk (decide (m > 55)) o fRANGE ++ chk (!speedFits m sp) o fSPEED ++ chk (decide (9 ≤ sp) || bits w 19 18 == 3 || decide (fec > 4) || (fec != 0 && !(cv && fecFits sp fec))) o fFORMAT
    ++ chk (!t1 && (bits w 19 18 != 0 || bitOf w 17 || bitOf w 16)) o fRANGE ++ chk (!cv && bitOf w 4) o fRANGE
    ++ chk (bits w 3 0 != 0) o fRESERVED
    ++ chk (cv && bitOf w 25 && (bitOf mask (m - 48)
        || (m % 2 == 1 && on (m - 1) && (tblGet (FacePort.reset (m - 1)) cfg (m - 1)).speedCfg == 8)
        || (m % 2 == 0 && sp == 8 && on (m + 1)))) o fLANECONFLICT
    ++ chk (bits v 31 30 == 3) (o + 4) fFORMAT ++ chk (bits v 27 0 != 0) (o + 4) fRESERVED

/-- A PLCA_CFG record (R324). -/
def plcaFaults (r : List Byte) (o : Nat) : List (Nat × Nat) :=
  let w := im32 r 0
  let v := im32 r 4
  let n := bits w 20 14
  chk (decide (bits w 26 21 ≥ n) || n == 0 || decide (n > 64) || bits w 13 6 == 0) o fPLCA ++ chk (bits w 5 0 != 0) o fRESERVED
    ++ chk (decide (bits v 13 0 < 64)) (o + 4) fRANGE ++ chk (bits v 15 14 != 0) (o + 4) fRESERVED

/-- What a record names within its TYPE. -/
def faceName (typ w : Nat) : Option Nat :=
  match typ with
  | 1 | 3 | 4 => some (typ * 0x100 + bits w 31 26)
  | 2 | 5 => some (typ * 0x100 + bits w 31 28)
  | 6 => some (typ * 0x100 + bits w 31 29)
  | _ => none

/-- The names of an object, with the offsets of its records. -/
def faceNames (o : Obj) : List (Nat × Nat) :=
  if o.sub = 1 then (faceRecs o).filterMap (fun r => (faceName o.typ (im32 r.1 0)).map (fun k => (k, r.2))) else []

/-- Names of one object that the commit has named before, at the offsets of the later ones. -/
def faceTwice : List Nat → List (Nat × Nat) → List (Nat × Nat)
  | _, [] => []
  | seen, (k, o) :: t => chk (seen.contains k) o fDUPLICATE ++ faceTwice (k :: seen) t

/-- One object of Face at prepare: prev are the group's objects before it, before those of earlier commits, and objs
the whole group after those. -/
def prepFace (s : State) (prev before objs : List Obj) (o : Obj) : List (Nat × Nat) :=
  if o.img.length < 4 ∨ o.img.length ≠ 4 + faceRecord o.typ * im32 o.img 0 then [(0, fFORMAT)]
  else
    let cfg := objs.foldl cfgApply s.face.ports
    let now := (before ++ prev).foldl cfgApply s.face.ports
    let en (t : Tbl FacePort) (m : Nat) : Bool := (tblGet (FacePort.reset m) t m).enable
    let one (r : List Byte × Nat) : List (Nat × Nat) :=
      let w := im32 r.1 0
      let m := bits w 31 26
      match o.typ with
      | 1 => portCfgFaults cfg (laneMaskWith s objs) r.1 r.2
      | 2 => plcaFaults r.1 r.2
      | 3 => chk (decide (bits w 25 24 > 1)) r.2 fFORMAT ++ chk (bits w 23 0 != 0) r.2 fRESERVED
          ++ chk (decide (m ≥ 32) || !(tblGet (FacePort.reset m) now m).tc10En) r.2 fTC10OFF
      | 4 => chk (bits w 25 0 != 0) r.2 fRESERVED ++ chk (decide (m ≥ 48)) r.2 fRANGE ++ chk (en s.face.ports m || en cfg m) r.2 fPORTENABLED
      | 5 => chk (bits w 23 0 != 0) r.2 fRESERVED
      | 6 => chk (bits w 28 27 == 3) r.2 fFORMAT ++ chk (bits w 24 0 != 0) r.2 fRESERVED
      | _ => chk (decide (bits w 31 24 < 5) || decide (bits w 31 24 > 40)) r.2 fRANGE ++ chk (bits w 23 0 != 0) r.2 fRESERVED
    (faceRecs o).flatMap one ++ faceTwice (prev.flatMap (fun x => (faceNames x).map (·.1))) (faceNames o)

/-- A cable test is requested: it waits for an engine (R336).  A request during a test of the same node is ignored (log entry 211, DESIGN
CHOICE). -/
def applyCableTest (s : State) (r : List Byte) : State :=
  let m := bits (im32 r 0) 31 26
  let x := getFp s m
  if x.test = 2 then s else setFp s m { x with test := 1 }

/-- One record of an object of Face applies (step 2). -/
def applyFaceRec (s : State) (typ : Nat) (r : List Byte) : State :=
  let w := im32 r 0
  match typ with
  | 1 => applyPortCfg s r
  | 2 => applyPlca s r
  | 3 => if bits w 25 24 = 0 then tc10CmdSleep s (bits w 31 26) else tc10CmdWake s (bits w 31 26)
  | 4 => applyCableTest s r
  | 5 => applyCanPhy s r
  | 6 => applyLinPhy s r
  | _ => { s with face := { s.face with recalDelta := bits w 31 24 } }

/-- An object of Face applies (step 2). -/
def applyFace (s : State) (o : Obj) : State := (faceRecs o).foldl (fun s r => applyFaceRec s o.typ r.1) s

end Sys2Proof.Machine
end

