-- ==== Sys2Proof/Machine/RelayObjects.lean ====
section
/-! DEFINITION. Machine/RelayObjects.lean: contracts, the CAN and LIN controllers' settings, Spall routes and the Spall
set: their checks at prepare and their effect at step 2 (R344, R345, R349, R354, R356). -/

namespace Sys2Proof.Machine

/-! ### Reason codes (Table 11.10) -/

def eFORMAT : Nat := 0x01
def eRESERVED : Nat := 0x02
def eRATE : Nat := 0x03
def eRANGE : Nat := 0x04
def eDUPLICATE : Nat := 0x05

def getCan (s : State) (c : Nat) : CanChan := tblGet CanChan.reset s.relay.can c
def setCan (s : State) (c : Nat) (x : CanChan) : State := { s with relay := { s.relay with can := tblSet CanChan.reset s.relay.can c x } }
def getLin (s : State) (l : Nat) : LinChan := tblGet LinChan.reset s.relay.lin l
def setLin (s : State) (l : Nat) (x : LinChan) : State := { s with relay := { s.relay with lin := tblSet LinChan.reset s.relay.lin l x } }

/-- Whether a channel runs its schedule. -/
def linRuns (s : State) (l : Nat) : Bool :=
  let x := getLin s l
  let p := getPhy s (16 + l)
  x.en && p.commander && p.mode == 1 && !p.held && !x.slots.isEmpty && !isSafe s && !s.pair.busHeld

/-! ### Checks of one record -/

/-- A CONTRACT record at an offset (Table 11.3). -/
def contractFaults (img : List Byte) (o : Nat) : List (Nat × Nat) :=
  chk (bits (im32 img o) 29 17 != 0) o eRESERVED ++ chk (bits (im64 img (o + 8)) 63 58 != 0) (o + 8) eRESERVED
    ++ chk (im16 img (o + 0x12) != 0) (o + 0x10) eRESERVED ++ chk (im32 img (o + 0x14) != 0) (o + 0x14) eRESERVED

/-- Whether a rate is one that the CAN clock divides into, up to a limit (R349). -/
def canRate (k lo hi : Nat) : Bool := decide (lo ≤ k) && decide (k ≤ hi) && 80000 % k == 0

/-- A CAN_CTL record at an offset (Table 11.6, R349). -/
def canCtlFaults (img : List Byte) (o : Nat) : List (Nat × Nat) :=
  let w := im32 img o
  let v := im32 img (o + 4)
  let u := im32 img (o + 8)
  let data (en : Bool) (k hi : Nat) : Bool := if en then canRate k 1 hi else k == 0
  let sp (n : Nat) : Bool := decide (50 ≤ n) && decide (n ≤ 90)
  chk (bits w 23 16 != 0) o eRESERVED ++ chk (!canRate (bits w 15 0) 10 1000) o eRATE
    ++ chk (!(data (bitOf w 26) (bits v 31 16) 8000 && data (bitOf w 25) (bits v 15 0) 10000)) (o + 4) eRATE
    ++ chk (!(sp (bits u 31 24) && sp (bits u 23 16))) (o + 8) eRANGE ++ chk (bits u 15 0 != 0) (o + 8) eRESERVED

/-- COUNT of a LIN_CTL object and its length (Table 11.7). -/
def linSlots (img : List Byte) : Nat := bits (im32 img 0) 12 6
def linCtlLen (img : List Byte) : Nat := 4 + 4 * linSlots img + 256

/-- A LIN_CTL object (Table 11.7). -/
def linCtlFaults (img : List Byte) : List (Nat × Nat) :=
  let w := im32 img 0
  let n := linSlots img
  if img.length < 4 ∨ img.length ≠ linCtlLen img then [(0, eFORMAT)]
  else chk (bits w 5 0 != 0) 0 eRESERVED ++ chk (decide (bits w 27 13 < 1000) || decide (bits w 27 13 > 20000)) 0 eRATE ++ chk (decide (n > 64)) 0 eRANGE
    ++ (List.range n).flatMap (fun i =>
        let x := im32 img (4 + 4 * i)
        chk (bits x 25 18 == 0) (4 + 4 * i) eRANGE ++ chk (bits x 17 0 != 0) (4 + 4 * i) eRESERVED)
    ++ (List.range 64).flatMap (fun i =>
        let o := 4 + 4 * n + 4 * i
        chk (bits (im32 img o) 31 30 == 3) o eFORMAT ++ chk (bits (im32 img o) 25 0 != 0) o eRESERVED)

/-- RELAY_PARAMS at an offset (Table 11.2). -/
def relayParamsFaults (img : List Byte) (o : Nat) : List (Nat × Nat) :=
  chk (bits (im32 img o) 28 16 != 0) o eRESERVED ++ chk (bits (im32 img o) 15 0 == 0) o eRANGE
    ++ chk (im16 img (o + 6) != 0) (o + 4) eRESERVED ++ chk (im16 img (o + 0x0E) != 0) (o + 0x0C) eRESERVED
    ++ chk (im32 img (o + 0x14) != 0) (o + 0x14) eRESERVED

/-- A Spall route at an offset (Table 11.8). -/
def routeFaults (img : List Byte) (o : Nat) : List (Nat × Nat) :=
  let w := im32 img o
  let k := bits w 30 29
  chk (k == 3) o eFORMAT ++ chk (k == 2 && decide (bits w 27 24 > 7)) o eRANGE
    ++ chk (bits (im32 img (o + 4)) 31 29 != 0) (o + 4) eRESERVED
    ++ chk (decide (bits (im32 img (o + 4)) 28 0 > bits (im32 img (o + 8)) 28 0)) (o + 4) eRANGE
    ++ chk (bits (im32 img (o + 8)) 31 29 != 0) (o + 8) eRESERVED
    ++ chk (bits (im32 img (o + 12)) 31 29 != 0 || (k == 0 && im32 img (o + 12) != 0)) (o + 12) eRESERVED

/-! ### Prepare -/

/-- What an object names, with a key that keeps kinds apart, and the offset. -/
def relayNames (o : Obj) : List (Nat × Nat) :=
  if o.sub ≠ 11 then []
  else match o.typ with
  | 1 => (List.range (im32 o.img 4)).map (fun i => (0x10000 + im16 o.img 0 % 4096 + i, 8 + 24 * i))
  | 2 => (List.range (im32 o.img 0)).map (fun i => (0x20000 + bits (im32 o.img (4 + 12 * i)) 31 28, 4 + 12 * i))
  | 3 => [(0x30000 + bits (im32 o.img 0) 31 29, 0)]
  | _ => []

/-- Names that the commit has named before, at the offsets of the later ones. -/
def relayTwice : List Nat → List (Nat × Nat) → List (Nat × Nat)
  | _, [] => []
  | seen, (k, o) :: t => chk (seen.contains k) o eDUPLICATE ++ relayTwice (k :: seen) t

/-- The image checks of an object of the Relay. -/
def relayImage (typ : Nat) (img : List Byte) : List (Nat × Nat) :=
  match typ with
  | 1 =>
    let n := im32 img 4
    if img.length < 8 ∨ img.length ≠ 8 + 24 * n then [(0, eFORMAT)]
    else chk (bits (im32 img 0) 31 12 != 0) 0 eRESERVED ++ chk (decide (bits (im32 img 0) 11 0 + n > 4096)) 0 eRANGE
      ++ (List.range n).flatMap (fun i => contractFaults img (8 + 24 * i))
  | 2 =>
    if img.length < 4 ∨ img.length ≠ 4 + 12 * im32 img 0 then [(0, eFORMAT)]
    else (List.range (im32 img 0)).flatMap (fun i => canCtlFaults img (4 + 12 * i))
  | 3 => linCtlFaults img
  | 4 => if img.length ≠ 24 then [(0, eFORMAT)] else relayParamsFaults img 0
  | 5 =>
    let n := im32 img 0
    if img.length < 4 ∨ img.length ≠ 4 + 16 * n then [(0, eFORMAT)]
    else chk (decide (n > 2048)) 0 eRANGE ++ (List.range n).flatMap (fun i => routeFaults img (4 + 16 * i))
  | _ => [(0, eFORMAT)]

/-- One object of the Relay at prepare; prev are the group's objects before it. -/
def prepRelay (prev : List Obj) (o : Obj) : List (Nat × Nat) :=
  let bad := relayImage o.typ o.img
  if bad = [(0, eFORMAT)] then bad else bad ++ relayTwice (prev.flatMap (fun x => (relayNames x).map (·.1))) (relayNames o)

/-! ### Apply -/

/-- CONTRACT applies (R345). -/
def applyContract (s : State) (img : List Byte) : State :=
  let t := (List.range (im32 img 4)).foldl (fun t i =>
    let o := 8 + 24 * i
    let w := im32 img o
    tblSet none t (im16 img 0 % 4096 + i)
      (if bitOf w 31 then
        some { polEn := bitOf w 30, policer := bits w 16 0, zoneMask := im32 img (o + 4), portMask := im64 img (o + 8), frameCeil := im16 img (o + 0x10) }
      else none)) s.relay.contracts
  { s with relay := { s.relay with contracts := t } }

/-- A CAN_CTL record applies: bus-off recovery begins where the controller waited for it (R350). -/
def applyCanCtl (s : State) (r : List Byte) : State :=
  let w := im32 r 0
  let c := bits w 31 28
  let x := getCan s c
  let en := bitOf w 27
  let up := en && x.state == 3
  setCan s c { x with
    en := en, fdEn := bitOf w 26, xlEn := bitOf w 25, autoRecover := bitOf w 24, nomKbps := bits w 15 0
    fdKbps := im16 r 6, xlKbps := im16 r 4, nomSp := im8 r 11, dataSp := im8 r 10
    state := if en then (if x.state = 3 then 0 else x.state) else 3
    tecCount := if up then 0 else x.tecCount, recCount := if up then 0 else x.recCount, recovering := en && x.state == 2 }

/-- The first n bytes of a payload, zero-filled. -/
def fitBytes (l : List Byte) (n : Nat) : List Byte := l.take n ++ List.replicate (n - l.length) 0#8

/-- LIN_CTL applies: the schedule starts at slot 0, and a response buffer keeps its bytes at the new LEN (R354). -/
def applyLinCtl (s : State) (img : List Byte) : State :=
  let w := im32 img 0
  let l := bits w 31 29
  let n := linSlots img
  let x := getLin s l
  let ids := (List.range 64).foldl (fun t i =>
    let v := im32 img (4 + 4 * n + 4 * i)
    let n := bits v 28 26 + 1
    tblSet LinId.reset t i { dir := bits v 31 30, enhanced := bitOf v 29, len := n, buf := (tblGet LinId.reset x.ids i).buf.map (fitBytes · n) }) []
  setLin s l
    { en := bitOf w 28, baud := bits w 27 13, slots := (List.range n).map (fun i => (bits (im32 img (4 + 4 * i)) 31 26, bits (im32 img (4 + 4 * i)) 25 18))
      ids := ids, slot := 0, running := false, next := 0 }

/-- RELAY_PARAMS at an offset applies. -/
def applyRelayParams (s : State) (img : List Byte) (o : Nat) : State :=
  { s with relay := { s.relay with
      spallOff := bitOf (im32 img o) 31, relayTb := bits (im32 img o) 30 29, txLife := im16 img o
      da := im16 img (o + 4) * 2 ^ 32 + im32 img (o + 8), sa := im16 img (o + 0x0C) * 2 ^ 32 + im32 img (o + 0x10) } }

/-- A route (Table 11.8). -/
def routeOf (img : List Byte) (o : Nat) : SpallRoute :=
  let w := im32 img o
  { valid := bitOf w 31, kind := bits w 30 29, ide := bitOf w 28, srcCh := bits w 27 24, linMask := bits w 23 16, canMask := bits w 15 0
    idLow := bits (im32 img (o + 4)) 28 0, idHigh := bits (im32 img (o + 8)) 28 0, outId := bits (im32 img (o + 12)) 28 0 }

def applyRoutes (s : State) (img : List Byte) (o n : Nat) : State :=
  { s with relay := { s.relay with routes := (List.range n).map (fun i => routeOf img (o + 16 * i)) } }

/-- An object of the Relay applies (step 2). -/
def applyRelay (s : State) (o : Obj) : State :=
  match o.typ with
  | 1 => applyContract s o.img
  | 2 => (List.range (im32 o.img 0)).foldl (fun s i => applyCanCtl s (imgBytes o.img (4 + 12 * i) 12)) s
  | 3 => applyLinCtl s o.img
  | 4 => applyRelayParams s o.img 0
  | 5 => applyRoutes s o.img 4 (im32 o.img 0)
  | _ => s

/-! ### The Spall set (R356) -/

/-- The LIN_CTL records of a Spall set: n of them from an offset, and the offset after them. -/
def spallLins (img : List Byte) : Nat → Nat → List (List Byte) × Nat
  | 0, o => ([], o)
  | n + 1, o =>
    let r := imgBytes img o (linCtlLen (imgBytes img o 4))
    let t := spallLins img n (o + r.length)
    (r :: t.1, t.2)

/-- The parts of a Spall set: counts of its six kinds, and the offsets of its records. -/
structure SpallSet where
  canPhy : Nat
  linPhy : Nat
  canCtl : Nat
  lins : List (List Byte)
  params : Nat
  routes : Nat
  oCanCtl : Nat
  oParams : Nat
  oRoutes : Nat
  stop : Nat

/-- Parses a Spall set (R356). -/
def spallParse (img : List Byte) : SpallSet :=
  let a := im32 img 4
  let b := im32 img 8
  let c := im32 img 12
  let o := 28 + 4 * a + 4 * b
  let l := spallLins img (min (im32 img 16) 8) (o + 12 * c)
  let p := im32 img 20
  let r := im32 img 24
  { canPhy := a, linPhy := b, canCtl := c, lins := l.1, params := p, routes := r, oCanCtl := o, oParams := l.2, oRoutes := l.2 + 24 * p,
    stop := l.2 + 24 * p + 16 * r }

/-- Whether a Spall set keeps its format: the sizes first, then every record's own checks, and no channel is named twice by records of
one kind. -/
def spallOk (img : List Byte) : Bool :=
  let x := spallParse img
  decide (28 ≤ img.length) && decide (img.length ≤ 262144) && im32 img 0 == 0x00010000 && decide (im32 img 4 ≤ 16) && decide (im32 img 8 ≤ 8)
    && decide (im32 img 12 ≤ 16) && decide (im32 img 16 ≤ 8) && decide (im32 img 20 ≤ 1) && decide (im32 img 24 ≤ 2048) && x.stop == img.length
    && (List.range x.canPhy).all (fun i => bits (im32 img (28 + 4 * i)) 23 0 == 0)
    && (List.range x.linPhy).all (fun i => let w := im32 img (28 + 4 * x.canPhy + 4 * i); bits w 28 27 != 3 && bits w 24 0 == 0)
    && (List.range x.canCtl).all (fun i => (canCtlFaults img (x.oCanCtl + 12 * i)).isEmpty)
    && x.lins.all (fun r => (linCtlFaults r).isEmpty)
    && (List.range x.params).all (fun i => (relayParamsFaults img (x.oParams + 24 * i)).isEmpty)
    && (List.range x.routes).all (fun i => (routeFaults img (x.oRoutes + 16 * i)).isEmpty)
    && decide ((List.range x.canPhy).map (fun i => bits (im32 img (28 + 4 * i)) 31 28)).Nodup
    && decide ((List.range x.linPhy).map (fun i => bits (im32 img (28 + 4 * x.canPhy + 4 * i)) 31 29)).Nodup
    && decide ((List.range x.canCtl).map (fun i => bits (im32 img (x.oCanCtl + 12 * i)) 31 28)).Nodup
    && decide (x.lins.map (fun r => bits (im32 r 0) 31 29)).Nodup

/-- The Spall set is applied, or the Relay sets SPALL_BAD and leaves every transceiver Off (R356). -/
def spallApply (s : State) (img : List Byte) (good : Bool) : State :=
  if good && spallOk img then
    let x := spallParse img
    let s := (List.range x.canPhy).foldl (fun s i => applyCanPhy s (imgBytes img (28 + 4 * i) 4)) s
    let s := (List.range x.linPhy).foldl (fun s i => applyLinPhy s (imgBytes img (28 + 4 * x.canPhy + 4 * i) 4)) s
    let s := (List.range x.canCtl).foldl (fun s i => applyCanCtl s (imgBytes img (x.oCanCtl + 12 * i) 12)) s
    let s := x.lins.foldl applyLinCtl s
    let s := (List.range x.params).foldl (fun s i => applyRelayParams s img (x.oParams + 24 * i)) s
    let s := applyRoutes s img x.oRoutes x.routes
    { s with relay := { s.relay with spallLoaded := true } }
  else { s with relay := { s.relay with spallBad := true }, face := { s.face with phys := [] } }

end Sys2Proof.Machine
end

