-- ==== Sys2Proof/Machine/PairOps.lean ====
section
/-! DEFINITION. Machine/PairOps.lean: roles and the lease, the state delta's records, and what the Pair unit does at
steps 2 and 5 of a boundary (R384 to R401). -/

namespace Sys2Proof.Machine

/-! ### Roles (R387, R391, R400) -/

/-- Posts ROLE for a change that posts no lease event of its own. -/
def roleEvent (s : State) : State := pairEvent s 0x74 0 0

/-- The port nodes that Rejoin takes down to queued traffic (R400). -/
def rejoinNodes : List Nat := List.range 56 ++ [59, 60, 61, 62, 63]

/-- Entry to Rejoin: its port nodes flush under R244, and the device holds the buses no more (R391, R400). -/
def enterRejoin (s : State) : State :=
  let s := setRole { s with pair := { s.pair with
    busHeld := true, joinPending := false, rejoinLag := false, lagDue := false, peerGone := false, bulkRx := [], bulkLast := false
    lastRenew := tick32 s } } .rejoin
  let s := (rejoinNodes.filter (lineUp s)).foldl portFlush s
  roleEvent (holdUpdateAll s)

/-- Entry to Lead: CAN channels transmit from empty buffers, LIN schedules start at slot 0 (R391); codes of LEASE_TAKEN.  A pending
JOIN stays pending (R389); a Lead by RELEASE reckons its yield from the boundary of the RELEASE until its first ACK, unless its peer
follows no more (log entry 29). -/
def enterLead (s : State) (code : Nat) : State :=
  let s := setRole { s with
    pair := { s.pair with busHeld := false, acked := false, lagging := false, bulkTx := none, reqTick := none
                          granted := false, released := false, contended := false, lagDue := false, peerGone := false
                          heir := if code = 3 ∧ s.pair.peerRole ≠ 0 then some ((tick32 s + 2 ^ 32 - 1) % 2 ^ 32) else none }
    relay := { s.relay with
      can := (List.range 16).foldl (fun t c => tblSet CanChan.reset t c { tblGet CanChan.reset t c with bufs := [] }) s.relay.can
      lin := (List.range 8).foldl (fun t l => tblSet LinChan.reset t l { tblGet LinChan.reset t l with running := false, slot := 0 }) s.relay.lin } } .lead
  pairEvent s 0x70 code 0

/-- Entry to Follow from Rejoin: the port nodes come up (R400). -/
def enterFollow (s : State) : State :=
  let s := setRole { s with pair := { s.pair with lagging := false, busHeld := true } } .follow
  roleEvent (holdUpdateAll s)

/-- Leaves Follow or Rejoin to Active. -/
def toActive (s : State) : State :=
  roleEvent (holdUpdateAll (setRole { s with pair := { s.pair with lagDue := false, peerGone := false, released := false } } .active))

/-- The number under which a delta on receipt holds its commit tag: no commit of the gate has it (R398). -/
def deltaNum : Nat := 65536

/-- The delta on receipt is given up: its reservations are released as those of a commit that is aborted (R398). -/
def dropDelta (s : State) : State := settleTags { s with pair := { s.pair with rx := none } } deltaNum false

/-- The Follow or Rejoining device becomes lagging with a code of Table 13.10: a Follow leaves to Rejoin at step 5 (R387, R398,
log entry 188); a Rejoin begins anew, and what is left of the Lead's present walk does not count, unless the Lead itself set LAG and
restarts it, or has sent its LAST already (R400). -/
def lag (s : State) (code : Nat) : State :=
  if pairPassive s = false ∨ s.pair.lagDue then s
  else
    let s := bump s .lagEvents 0 1
    let s := dropDelta { s with pair := { s.pair with lagging := true } }
    let s := pairEvent s 0x73 code s.pair.deltaBytes
    if s.pair.role = .follow then { s with pair := { s.pair with lagDue := true } }
    else { s with pair := { s.pair with rejoinLag := decide (code ≠ 1) && !s.pair.bulkLast, bulkRx := [], bulkLast := false } }

/-- A NAK names a chunk of the tick that was lost (R397). -/
def nak (s : State) (i : Nat) : State :=
  pairSend { s with pair := { s.pair with rxMiss := insertNat i s.pair.rxMiss } } 0x8 i

/-- With one lane up, every chunk below one that came, or below index n, and did not come itself is lost: it is NAKed once (R401). -/
def nakGaps (s : State) (n : Nat) : State :=
  if s.pair.lane0 = s.pair.lane1 then s
  else ((List.range n).filter (fun i => !s.pair.rxSeen.contains i && !s.pair.rxMiss.contains i)).foldl nak s

/-- The indices below which a passive device expects chunks as a lane goes down: up to the highest that came, and while its Lead's delta
lacks its last chunk one more. -/
def chunksDue (s : State) : Nat :=
  let seen := s.pair.rxSeen.foldl (fun a i => max a (i + 1)) 0
  let whole := match s.pair.rx with
    | some r => r.ready || r.chunks.any (·.last)
    | none => false
  if s.pair.peerRole = 1 ∧ whole = false then seen + 1 else seen

/-- Pair lane n goes down: the chunks it lost are NAKed on the other; the peer is lost when both are down, and a Rejoin then ends at
step 5 (R384, R387, R398, Tables 13.4 and 13.8). -/
def laneDown (s : State) (n : Nat) : State :=
  let was := pairUp s
  let s := { s with pair := if n = 0 then { s.pair with lane0 := false } else { s.pair with lane1 := false } }
  if was && !pairUp s then
    let s := { s with pair := { s.pair with peerRole := 4, lostTick := some s.bench.tickCount, bulkTx := none, peerGone := s.pair.role == Role.rejoin } }
    match s.pair.rx with
    | some r => if r.ready then s else lag s 5
    | none => s
  else if pairPassive s then
    let s := { s with pair := { s.pair with laneLost := true } }
    nakGaps s (chunksDue s)
  else s

/-- Entry to Retained while paired: a Lead releases and a Follow leaves to Active (Table 13.8); no RELEASE order takes the
Lead out of its role, so LOST is set (R388). -/
def pairRetained (s : State) : State :=
  match s.pair.role with
  | .lead =>
    let s := pairSend s 0x6
    pairEvent (setRole { s with pair := { s.pair with busHeld := true, lost := true } } .active) 0x71 1 0
  | .follow => toActive s
  | .rejoin => toActive s
  | _ => s

/-! ### Records (Table 13.6) -/

/-- A record word with CONN, CACHED_I, CACHED_R and IDLE_S zeroed (Table 13.6). -/
def connPad (w : Nat) : Nat := bits w 41 22 * 2 ^ 22

/-- The body of a record, padding zeroed; its byte layout is the model's (log entry 28). -/
def recBody : DeltaRec → List Byte
  | .entrySet t w k d => beBytes 1 t ++ beBytes (w / 8) k ++ beBytes 8 d
  | .entryRemove t w k => beBytes 1 t ++ beBytes (w / 8) k
  | .connSet k w => beBytes 32 k ++ beBytes 8 (connPad w)
  | .connRemove k => beBytes 32 k
  | .gen f v => beBytes 2 f ++ beBytes 2 v
  | .freeze p => beBytes 2 p
  | .thaw p => beBytes 2 p

/-- The item of a record, its value left out. -/
def recItem : DeltaRec → DeltaRec
  | .entrySet t w k _ | .entryRemove t w k => .entryRemove t w k
  | .connSet k _ | .connRemove k => .connRemove k
  | .gen f _ => .gen f 0
  | .freeze p | .thaw p => .thaw p

/-- The records of the changes of a tick: one of each change, each with the full value that its item has at the seal (R396, log
entry 189). -/
def sealRecords (l : List DeltaRec) : List DeltaRec :=
  l.map (fun r => (l.reverse.find? (fun x => recItem x == recItem r)).getD r)

/-- The last record of every item. -/
def lastRecords : List DeltaRec → List DeltaRec
  | [] => []
  | r :: t => if t.any (fun x => recItem x == recItem r) then lastRecords t else r :: lastRecords t

/-- CHECK over records (Table 13.7). -/
def deltaCheck (l : List DeltaRec) : Nat := (crc32c (l.flatMap recBody) 0xFFFFFFFF#32).toNat

/-- Bytes of records, header words included. -/
def deltaSize (l : List DeltaRec) : Nat := (l.map (fun r => 4 + (recBody r).length)).sum

/-- The record of an item as the device itself holds it: what CHECK is computed over again (R398). -/
def ownRecord (s : State) (r : DeltaRec) : DeltaRec :=
  match r with
  | .entrySet t w k _ | .entryRemove t w k =>
    match getTable s t with
    | none => .entryRemove t w k
    | some x => match findKey s t x.defn k with
      | some l => .entrySet t w k (slotData s (getEntry s x.defn.dram l))
      | none => .entryRemove t w k
  | .connSet k _ | .connRemove k =>
    match findConn s k with
    | some (i, c) => .connSet k (connPad (connWord i c))
    | none => .connRemove k
  | .gen f v => .gen f v
  | .freeze p | .thaw p => if partnerFrozen s p then .freeze p else .thaw p

/-- Applies a record of class 0x01 or 0x02, or 0x05; none where there is no room. -/
def applyRecord (s : State) (r : DeltaRec) : Option State :=
  match r with
  | .entrySet t w k v =>
    match getTable s t with
    | none => none
    | some x =>
      if x.defn.bits ≠ w then none
      else match findKey s t x.defn k with
        | some l => some (modEntry s x.defn.dram l (fun y => { y with data := v }))
        | none => addEntry s x.defn { table := t, key := k, data := v, static := false, tag := 0, ctag := 0 }
  | .entryRemove t w k =>
    match getTable s t with
    | none => none
    | some x =>
      if x.defn.bits ≠ w then none
      else match findKey s t x.defn k with
        | some l => some (modParts s x.defn.dram l (fun y => { y with used := false, vis := false }))
        | none => some s
  | .connSet k w =>
    let c : Conn := { key := k, state := bits w 41 40, hs := bitOf w 39, rSeen := bitOf w 38, finI := bitOf w 37, finR := bitOf w 36
                      zsrc := bits w 35 31, zdst := bits w 30 26, tclass := bits w 25 22, cachedI := none, cachedR := none, idle := 0
                      addIdle := 0, visited := s.localNs, cleared := false }
    match findConn s k with
    | some (i, o) =>
      let s := setPairCount s o.zsrc o.zdst (pairCount s o.zsrc o.zdst - 1)
      let s := setPairCount s c.zsrc c.zdst (pairCount s c.zsrc c.zdst + 1)
      some (setConn s i (some { c with cachedI := o.cachedI, cachedR := o.cachedR, idle := o.idle, addIdle := o.addIdle, visited := o.visited }))
    | none =>
      match freePlace s k with
      | some i => some (setConn (setPairCount s c.zsrc c.zdst (pairCount s c.zsrc c.zdst + 1)) i (some c))
      | none => none
  | .connRemove k =>
    match findConn s k with
    | some (i, c) =>
      let s := clearCached s i c
      some (setConn (setPairCount s c.zsrc c.zdst (pairCount s c.zsrc c.zdst - 1)) i none)
    | none => some s
  | .gen f v =>
    let own := tblGet 0 s.pair.genSealed f
    let d := (v + 65536 - own % 65536) % 65536
    let s := { s with pair := { s.pair with genCtr := tblSet 0 s.pair.genCtr f ((tblGet 0 s.pair.genCtr f + d) % 65536) } }
    some (if d = 0 then s else bump s .seqAdjust f 1)
  | .freeze p => some { s with fence := { s.fence with partners := insertNat p s.fence.partners } }
  | .thaw p => some { s with fence := { s.fence with partners := s.fence.partners.filter (· != p) } }

/-- Applies records in order; none when one finds no room. -/
def applyRecords (s : State) : List DeltaRec → Option State
  | [] => some s
  | r :: t => match applyRecord s r with
    | some s => applyRecords s t
    | none => none

/-- Whether a record names an exact-match entry, whose write takes a commit tag. -/
def isEntryRec : DeltaRec → Bool
  | .entrySet .. | .entryRemove .. => true
  | _ => false

/-- STATIC of an entry as it stands visibly (R172). -/
def entryStatic (s : State) (dram : Bool) (l : Loc) : Bool :=
  let x := getEntry s dram l
  if x.tag = 3 ∧ tagApplied s x.ctag then x.pstatic else x.static

/-- Prepares the entry of a record under tag g as ENTRIES prepares its own (R183, R398); the entry keeps its STATIC bit. -/
def prepRecord (g : Nat) (c : LkPrep) (r : DeltaRec) : Option LkPrep :=
  let go (t w k : Nat) (del : Bool) (v : Nat) : Option LkPrep :=
    match getTable c.s t with
    | none => none
    | some x =>
      let fixed := match findKey c.s t x.defn k with
        | some l => entryStatic c.s x.defn.dram l
        | none => false
      if x.defn.bits ≠ w then none
      else match prepEntry t x.defn g 0 c { del := del, static := fixed, data := v, key := k } with
        | .ok c => some c
        | .error _ => none
  match r with
  | .entrySet t w k v => go t w k false v
  | .entryRemove t w k => go t w k true 0
  | _ => some c

def prepRecords (g : Nat) (c : LkPrep) : List DeltaRec → Option LkPrep
  | [] => some c
  | r :: t => match prepRecord g c r with
    | some c => prepRecords g c t
    | none => none

/-- Prepare of a delta on receipt, as a commit of the lookup complex, the Berm, the Relay and the Pair unit (R398): its entries take a
tag and their places, and its other records find room; none where it fails. -/
def prepDelta (s : State) (l : List DeltaRec) : Option State :=
  let ents := lastRecords (l.filter isEntryRec)
  if (applyRecords s (l.filter (fun r => !isEntryRec r))).isNone then none
  else if ents.isEmpty then some s
  else
    let s := drainAll s
    match takeTag { s := s, defs := [], doms := [], keys := [], prefixes := [], tag := none } deltaNum with
    | none => none
    | some (c, g) => (prepRecords g c ents).map (·.s)

/-! ### Chunks (R397) -/

/-- The chunks 0 to the last of a delta have all come. -/
def deltaWhole (l : List Chunk) : Bool := match l.find? (·.last) with
  | some c => (List.range (c.index + 1)).all (fun i => l.any (fun x => x.index == i))
  | none => false

/-- The records of chunks in index order, and the seal. -/
def deltaRecords (l : List Chunk) : List DeltaRec := match l.find? (·.last) with
  | some c => (List.range (c.index + 1)).flatMap (fun i => match l.find? (fun x => x.index == i) with
    | some x => x.recs
    | none => [])
  | none => []
def deltaSeal (l : List Chunk) : Option Seal := (l.find? (·.last)).bind (·.sealed)

/-- Lanes up. -/
def lanesUp (s : State) : Nat := b2n s.pair.lane0 + b2n s.pair.lane1

/-- D_MAX (R397). -/
def deltaMax (s : State) : Nat := min 524288 (3000 * lanesUp s * (s.bench.period - 2))

/-- Splits records into chunks of at most 4,096 payload bytes; the last has room for the seal of 24. -/
def splitRecs : Nat → List DeltaRec → List DeltaRec → List (List DeltaRec)
  | _, acc, [] => [acc]
  | used, acc, r :: t =>
    let n := 4 + (recBody r).length
    if used + n > 4072 then acc :: splitRecs n [r] t else splitRecs (used + n) (acc ++ [r]) t

/-- The chunks of a sealed delta. -/
def sealChunks (l : List DeltaRec) (x : Seal) : List Chunk :=
  let p := splitRecs 0 [] (if x.lag then [] else l)
  p.zipIdx.map (fun e => { index := e.2, last := e.2 + 1 == p.length, recs := e.1, sealed := if e.2 + 1 = p.length then some x else none })

/-! ### Step 2 on the Follow (R398, R400) -/

/-- What a delta that is not whole at its boundary lags with: the code of a lane loss, else that of a late delta (R398). -/
def lateCode (s : State) : Nat := if s.pair.laneLost && !s.pair.rxMiss.isEmpty then 5 else 2

/-- The delta received in the tick that ends applies, or the device lags; a Follow whose link is up lags also when nothing of the delta
of its Lead has come, whose ROLE it has perhaps not heard since both lanes came back (R398). -/
def applyDelta (s : State) : State := match s.pair.rx with
  | none => if (pairUp s && (s.pair.peerRole == 1 || s.pair.peerRole == 4)) || !s.pair.rxMiss.isEmpty then lag s (lateCode s) else s
  | some r =>
    if pairPassive s = false then dropDelta s
    else if r.ready = false then lag s (lateCode s)
    else
      let l := deltaRecords r.chunks
      let s := settleTags { s with pair := { s.pair with rx := none } } deltaNum true
      match applyRecords s (l.filter (fun r => !isEntryRec r)) with
      | none => lag s 4
      | some t =>
        let own := deltaCheck (l.map (ownRecord t))
        let t := bump t .deltasApplied 0 1
        match deltaSeal r.chunks with
        | some x => if own = x.check then t else lag t 3
        | none => t

/-- Bulk records apply in order, each counter to the value that the Lead read of it live: the device's own value is the one that it
holds, since the delta of this step has corrected it already (R400). -/
def applyBulkRecords (s : State) : List DeltaRec → Option State
  | [] => some s
  | r :: t =>
    let s := match r with
      | .gen f _ => { s with pair := { s.pair with genSealed := tblSet 0 s.pair.genSealed f (tblGet 0 s.pair.genCtr f) } }
      | _ => s
    match applyRecord s r with
    | some s => applyBulkRecords s t
    | none => none

/-- The bulk records received in the tick that ends apply; the last chunk ends Rejoin unless the device lagged, and a chunk of the
bulk that was lost and did not come again makes it lag. -/
def applyBulk (s : State) : State :=
  let last := s.pair.bulkLast
  let l := s.pair.bulkRx
  let code := lateCode s
  let lost := !s.pair.rxMiss.isEmpty
  let s := { s with pair := { s.pair with bulkRx := [], rxSeen := [], rxMiss := [], laneLost := false } }
  -- a walk whose LAST has come is over, whether it counted or not
  let walked (s : State) : State := { s with pair := { s.pair with rejoinLag := s.pair.rejoinLag && !last, bulkLast := false } }
  if s.pair.role ≠ .rejoin then { s with pair := { s.pair with bulkLast := false } }
  else if lost then walked (if s.pair.rejoinLag then s else lag s code)
  else
    match applyBulkRecords s l with
    | none => walked (lag s 4)
    | some s => if last && !s.pair.rejoinLag then enterFollow { s with pair := { s.pair with bulkLast := false } } else walked s

/-! ### Step 5 -/

/-- Signed distance between two tick counts of 32 bits. -/
def tickGap (k r : Nat) : Int := sgn 32 ((k + 2 ^ 32 - r % 2 ^ 32) % 2 ^ 32)

/-- A TAKE that has no GRANT fails (R389); the code says why. -/
def takeFail (s : State) : State :=
  let code := if !pairUp s then 1 else if s.pair.peerRole = 1 then 2 else if s.pair.contended then 3 else 4
  pairEvent { s with pair := { s.pair with reqTick := none, contended := false } } 0x72 code 0

/-- The tick from which a Lead reckons its yield: a, or the boundary of the RELEASE that made it Lead (R390, log entry 29). -/
def yieldBase (p : Pair) : Nat := p.heir.getD p.lastAck

/-- Role changes that frames and time bring about: a GRANT or RELEASE received, a TAKE without a GRANT, a yield of the
Lead, a lag, expiry on the Follow, a peer lost in Rejoin, and a JOIN that was pending (R387, R389, R390, log entry 188). -/
def leaseEvents (s : State) : State :=
  let k := tick32 s
  let s := if s.pair.reqTick.isSome ∧ s.pair.granted = false then takeFail s
    else if s.pair.role = .active then s
    else { s with pair := { s.pair with reqTick := none, granted := false } }
  let p := s.pair
  match p.role with
  | .lead =>
    let s := if p.acked && decide (tickGap k p.lastAck ≥ 2) then bump s .renewMissed 0 1 else s
    if p.yieldOnLoss && decide (tickGap k (yieldBase p) ≥ (p.leaseLen : Int) - 1) && (p.acked || p.heir.isSome) then
      pairEvent (setRole { s with pair := { s.pair with lost := true, busHeld := true } } .active) 0x71 2 0
    else s
  | .follow =>
    let s := if tickGap k p.lastRenew ≥ 2 then bump s .renewMissed 0 1 else s
    if p.released then enterLead s 3
    else if p.lagDue then
      let s := enterRejoin s
      if pairUp s then s else toActive s
    else if tickGap k p.lastRenew ≥ p.leaseLen then
      if p.takeOnExpiry && p.sync then enterLead s 2 else toActive { s with pair := { s.pair with busHeld := true } }
    else s
  | .active =>
    if p.reqTick.isSome ∧ p.granted then enterLead s 1
    else if p.joinPending && p.peerRole == 1 && p.sync then enterRejoin s
    else s
  | .rejoin => if p.peerGone then toActive s else s
  | .off => s

/-- A lease order that step 2 applied takes its effect (R387 to R389). -/
def leaseOrder (s : State) (o : LeaseOrder) : State :=
  let k := s.bench.tickCount
  match o with
  | .take => pairSend { s with pair := { s.pair with reqTick := some (tick32 s), granted := false, contended := false } } 0x4
  | .join =>
    if s.pair.role = .active then
      if s.pair.peerRole = 1 ∧ s.pair.sync then enterRejoin s else { s with pair := { s.pair with joinPending := true } }
    else s
  | .force =>
    match s.pair.lostTick with
    | some t => if s.pair.role = .active ∧ !pairUp s ∧ k ≥ t + s.pair.leaseLen then enterLead s 4 else s
    | none => s
  | .release =>
    if s.pair.role = .lead then
      let s := pairSend { s with pair := { s.pair with busHeld := true, joinPending := false, lastRenew := tick32 s } } 0x6
      pairEvent (setRole s .follow) 0x71 1 0
    else { s with pair := { s.pair with joinPending := false } }

/-- The lease orders of the boundary, in the order of their commits. -/
def leaseOrders (s : State) : State := s.pair.orders.foldl leaseOrder { s with pair := { s.pair with orders := [] } }

/-- The delta of the tick that ended is sealed and its chunks wait for DELTA_CHUNK_SEND (R397). -/
def sealDelta (s : State) : State :=
  let gens := (List.range 1024).filter (fun f => tblGet 0 s.pair.genCtr f != tblGet 0 s.pair.genSealed f)
  let l := sealRecords s.pair.changes ++ gens.map (fun f => .gen f (tblGet 0 s.pair.genCtr f))
  let s := { s with pair := { s.pair with changes := [], txChunks := [], txSent := [], bulkBytes := 0, genSealed := s.pair.genCtr } }
  if leadSource s = false ∨ pairUp s = false then s
  else
    let n := deltaSize l
    let big := decide (n > deltaMax s)
    let renew := s.pair.role == .lead
    let x : Seal := { tick := s.bench.tickCount, renew := renew, lag := big, records := l.length, bytes := n, check := deltaCheck l }
    let s := { s with pair := { s.pair with
      txChunks := sealChunks l x, deltaBytes := n % 2 ^ 20, lastRenew := if renew then tick32 s else s.pair.lastRenew
      bulkTx := if big then s.pair.bulkTx.map (fun _ => 0) else s.pair.bulkTx } }
    if big then s else bump (bump s .deltasSent 0 1) .deltaBytesTotal 0 n

/-- Recovery functions count the boundaries since they passed a frame (R395). -/
def recoveryIdle (s : State) : State :=
  let t := s.pair.recovery.foldl (fun t e => tblSet none t e.1 (e.2.map (fun x => { x with idle := x.idle + 1 }))) s.pair.recovery
  { s with pair := { s.pair with recovery := t } }

/-- COMMIT_DIGEST (Table 13.2): the crc32c over the images of the objects that step 2 applied. -/
def commitDigest (s : State) : State :=
  { s with pair := { s.pair with digest := (crc32c s.pair.digestBytes 0xFFFFFFFF#32).toNat, digestBytes := [] } }

/-- Step 5: roles, the seal, the lease orders and the BEAT: the delta of the last tick as Lead is sealed before a RELEASE order ends
that role (R34, R384, R387, R397). -/
def pairStep5 (s : State) : State :=
  let s := recoveryIdle s
  if s.pair.en = false then { s with pair := { s.pair with changes := [], orders := [], genSealed := s.pair.genCtr } }
  else
    let s := { s with pair := { s.pair with sent := [] } }
    pairSend (leaseOrders (sealDelta (leaseEvents (commitDigest s)))) 0x1

end Sys2Proof.Machine
end

