-- ==== Sys2Proof/Machine/Blocks.lean ====
section
/-! DEFINITION. Machine/Blocks.lean: who reads and writes registers outside an instruction, and the reset and power of
blocks through BLK_CTRL (R442). -/

namespace Sys2Proof.Machine

/-! ### Readers (Table 1.5) -/

/-- The latch set of a reader: 0 Triad, 1 to 4 Tally, 5 host (R28). -/
def readerIndex : Reader → Nat
  | .triad => 0
  | .triadCore _ => 0
  | .tally c => c.val + 1
  | .host => 5

/-- The master ID of a reader. -/
def readerMaster : Reader → Nat
  | .triad => mTRIAD
  | .triadCore _ => mTRIAD
  | .tally c => mTALLY + c.val
  | .host => mHOST

/-- Whether a reader issues accesses: it is powered, out of reset, not frozen, held or stopped (R372, R378, R379, R415, R484). -/
def readerRuns (s : State) (who : Reader) : Bool :=
  deviceRuns s && !isFrozen s (readerMaster who) && (match who with
    | .triad => !s.triad.fault && !s.triad.split
    | .triadCore i => !s.triad.fault && s.triad.split && (!s.triad.lockstepBroken || s.triad.debugCore == some i.val)
    | .tally c => !(getCore s (3 + c.val)).stopped && !s.host.tallyWait
    | .host => s.host.linkUp)

/-- Whether some core of the Triad issues accesses. -/
def triadRuns (s : State) : Bool := deviceRuns s && !isFrozen s mTRIAD && !s.triad.fault

/-- Whether the three cores' copies of an output are voted. -/
def readerVoted (s : State) (who : Reader) : Bool := who == .triad && !s.triad.split && !s.triad.lockstepBroken

/-- An access that every voting core of the Triad presents alike is issued, unless the voter's two copies answer it differently
(R371); another reader's is issued as it is. -/
def voterIssue (s : State) (who : Reader) (f : State → State) : State :=
  if readerVoted s who && votersDiffer s.triad.voter (if s.triad.excluded = 0#3 then 0 else 6) then triadFault s 4 else f s

/-- A register that only the Triad writes is written by it. -/
def triadIssued (s : State) (f : State → State) : State :=
  if triadRuns s then voterIssue s (if s.triad.split then .triadCore 0 else .triad) f else s

/-- A violation of a reader; a Tally core keeps its place (R417). -/
def readerFault (s : State) (who : Reader) (code info : Nat) : State :=
  let pc := match who with
    | .tally c => (getCore s (3 + c.val)).pc.toNat
    | _ => 0
  violate s (readerMaster who) code info pc

/-! ### IDLE (R442) -/

/-- Subsystem of a block that has BLK_CTRL: 1 to 11, then 15. -/
def blockIndex (b : Nat) : Nat := if b < 11 then b + 1 else 15

def getBlock (s : State) (n : Nat) : Block := tblGet Block.reset s.gh.blocks n
def setBlock (s : State) (n : Nat) (x : Block) : State := { s with gh := { s.gh with blocks := tblSet Block.reset s.gh.blocks n x } }

/-- Whether a block holds no frame, cell, chain, connection or pending request, no enabled port or channel, and no lane up. -/
def blockEmpty (s : State) (n : Nat) : Bool :=
  let portFree (m : Nat) : Bool := (getPort s m).tx.isNone && (getPort s m).preempted.isNone && (getPort s m).decided.isNone && (getPort s m).ended.isEmpty
  match n with
  | 1 => s.face.ports.all (fun e => !e.2.enable && e.2.test == 0) && s.face.phys.all (fun e => e.2.mode == 0 && e.2.later == 0)
  | 2 => s.fabric.lanes.all (fun e => e.2.rxFrame.isNone && e.2.waits.isEmpty) && (List.range' 48 8 ++ [59, 60, 61, 62, 63]).all portFree
  | 3 => s.screen.waiting.isEmpty && s.screen.dispatchQ.isEmpty && s.screen.reorder.all (fun e => e.2.isEmpty)
  | 4 => s.engine.threads.all (fun e => e.2.pkt.isNone && e.2.reserved.isNone)
  | 5 => s.lookup.onDie.waiting.isEmpty && s.lookup.dram.waiting.isEmpty && s.lookup.relocs.isEmpty
  | 6 => s.berm.conns.all (fun e => e.2.isNone)
  | 7 => s.stock.chains.all (fun e => e.2.isNone) && s.stock.pend.isEmpty && s.stock.spill.isEmpty && s.stock.moved.isEmpty
  | 8 => (List.range 32).all (fun p => (getPool s p).inUse == 0)
  | 9 => s.haul.queues.all (fun e => e.2.frames.isEmpty) && (List.range 64).all (fun m => portFree m && (getPort s m).haltQ.isEmpty)
  | 11 => s.relay.can.all (fun e => !e.2.en && e.2.bufs.isEmpty) && s.relay.lin.all (fun e => !e.2.en)
  | 15 => !pairUp s
  | _ => true

/-- IDLE: the block is empty and no prepared or committed object of its own awaits its boundary. -/
def blockIdle (s : State) (n : Nat) : Bool :=
  blockEmpty s n && !(s.gate.committed.any (fun c => c.objs.any (fun o => o.sub == n)))

/-! ### Reset states -/

/-- A front end as its reset leaves it, with its calibration kept (R442). -/
def keepCalibration (m : Nat) (x : FacePort) : FacePort :=
  { FacePort.reset m with calTemp := x.calTemp, calibrated := x.calibrated, trimBad := x.trimBad }

/-- T0 restarts from 0, which is a step of T0 (R31, R315). -/
def resetTime (s : State) : State :=
  -- the lists of the bases that stop go on in local time, and those of T0 follow it (R279)
  let s := [1, 2, 3].foldl (fun s n => if (tbGet s.time n).running then gatesEach s (gateStop s n) else s) s
  let s := { s with time := TimeUnit.reset }
  { gatesEach s (gateStep s 0) with bench := { s.bench with disturbed := true, startLocal := s.localNs } }

/-- The state that a block's chapter gives after a reset of reach 2 or more; its counters read zero. -/
def resetBlock (s : State) (n : Nat) : State :=
  let s := { s with counters := s.counters.filter (fun e => e.1 / 2 ^ 26 != n) }
  match n with
  | 1 =>
    let f := s.face
    { s with face := { Face.reset with
      ports := f.ports.foldl (fun t e => tblSet (FacePort.reset e.1) t e.1 (keepCalibration e.1 e.2)) []
      temp := f.temp, trimsLoaded := f.trimsLoaded, trimFail := f.trimFail, fuseBad := f.fuseBad } }
  | 2 => { freeRx s with fabric := Fabric.reset }
  | 3 => { s with screen := Screen.reset }
  | 4 => { s with engine := EngineArray.reset }
  | 5 => { s with lookup := Lookup.reset }
  | 6 => { s with berm := Berm.reset }
  | 7 => { s with stock := Stock.reset }
  | 8 => { s with hopper := Hopper.reset }
  | 9 => { s with haul := Haul.reset }
  | 10 => resetTime s
  | 11 => { s with relay := Relay.reset }
  | 15 =>
    let en := s.pair.en
    let held := s.pair.busHeld || s.pair.role == .lead || pairPassive s
    let s := { s with pair := { Pair.reset with en := en, busHeld := held, lostTick := some s.bench.tickCount } }
    setRole s (if en then .active else .off)
  | _ => s

/-! ### Commands -/

/-- R442: RESET_REQ = 1. -/
def resetReq (s : State) (n : Nat) : State :=
  let b := getBlock s n
  if b.busy ∨ b.power = false ∨ b.rising then s
  else if blockIdle s n then setBlock s n { b with busy := true }
  else setBlock s n { b with result := stNOTIDLE }

/-- R442: POWER is written. -/
def powerWrite (s : State) (n : Nat) (on : Bool) : State :=
  let b := getBlock s n
  if on then (if b.power then s else setBlock s n { b with power := true, rising := true })
  else if b.power = false then s
  else if (n = 2 ∨ n = 11 ∨ n = 15) ∧ blockIdle s n ∧ b.busy = false ∧ b.rising = false then setBlock s n { b with power := false }
  else setBlock s n { b with result := stNOTIDLE }

/-- R442: the Triad writes RESET_REQ. -/
def execResetReq (block : Fin 12) (s : State) : Host.Outcome State Fault Refusal :=
  .next (triadIssued s (fun s => resetReq s (blockIndex block)))

/-- R442: the Triad clears POWER. -/
def execPowerOff (block : Fin 12) (s : State) : Host.Outcome State Fault Refusal :=
  .next (triadIssued s (fun s => powerWrite s (blockIndex block) false))

/-- R442: the Triad sets POWER. -/
def execPowerOn (block : Fin 12) (s : State) : Host.Outcome State Fault Refusal :=
  .next (triadIssued s (fun s => powerWrite s (blockIndex block) true))

/-- R442: a block reset completes. -/
def execBlockResetComplete (block : Fin 12) (s : State) : Host.Outcome State Fault Refusal :=
  let n := blockIndex block
  .next (if (getBlock s n).busy then
      let s := resetBlock s n
      setBlock s n { getBlock s n with busy := false, result := stOK }
    else s)

/-- R442: a block comes up in its reset state. -/
def execBlockPowerUpComplete (block : Fin 12) (s : State) : Host.Outcome State Fault Refusal :=
  let n := blockIndex block
  .next (if (getBlock s n).rising then
      let s := resetBlock s n
      setBlock s n { getBlock s n with rising := false }
    else s)

end Sys2Proof.Machine
end

