-- ==== Sys2Proof/Machine/GateObjects.lean ====
section
/-! DEFINITION. Machine/GateObjects.lean: the objects of the Gatehouse, their checks at prepare and their effect at step 2
(R432, R446, R455, Tables 15.9 and 15.12a). -/

namespace Sys2Proof.Machine

def gFORMAT : Nat := 0x01
def gRESERVED : Nat := 0x02
def gRANGE : Nat := 0x03
def gSTATE : Nat := 0x04
def gTC10 : Nat := 0x05
def gDUPLICATE : Nat := 0x06

/-- SLEEP. -/
def sleepFaults (s : State) (prev before : List Obj) (img : List Byte) : List (Nat × Nat) :=
  if img.length ≠ 16 then [(0, gFORMAT)]
  else
    let t := bits (im32 img 0) 31 30
    let cfg := (before ++ prev).foldl cfgApply s.face.ports
    let noTc10 := (List.range 32).any (fun m => bitOf (im32 img 4) m && !(tblGet (FacePort.reset m) cfg m).tc10En)
    chk (t == 3) 0 gFORMAT ++ chk (im32 img 0 % 2 ^ 30 != 0) 0 gRESERVED
      ++ chk (s.gh.mode == .factory || (t == 2 && (s.gh.mode == .limp || s.gh.mode == .maintenance || s.gh.mode == .recovery))) 0 gSTATE
      ++ chk (prev.any (fun x => x.sub == 16 && x.typ == 1)) 0 gDUPLICATE
      ++ chk noTc10 4 gTC10 ++ chk (im8 img 11 != 0) 8 gRESERVED ++ chk (im32 img 12 != 0) 12 gRESERVED

/-- WAKE_CFG. -/
def wakeCfgFaults (img : List Byte) : List (Nat × Nat) :=
  if img.length ≠ 8 then [(0, gFORMAT)]
  else
    let w := im32 img 0
    chk ((List.range 4).any (fun n => bits w (21 + 2 * n) (20 + 2 * n) == 3)) 0 gFORMAT ++ chk (w % 4096 != 0) 0 gRESERVED

/-- GH_CFG. -/
def ghCfgFaults (img : List Byte) : List (Nat × Nat) :=
  if img.length ≠ 8 then [(0, gFORMAT)]
  else
    let w := im32 img 0
    chk (w % 65536 != 0) 0 gRESERVED ++ chk (decide (bits w 23 16 < 1) || decide (bits w 23 16 > 60)) 0 gRANGE
      ++ chk (im32 img 4 != 0) 4 gRESERVED

/-- GPIOs that a GPIO_CFG object names, with offsets. -/
def gpioNames (o : Obj) : List (Nat × Nat) :=
  if o.sub = 16 ∧ o.typ = 6 then (List.range (im32 o.img 0)).map (fun i => (bits (im32 o.img (4 + 4 * i)) 31 27, 4 + 4 * i)) else []

/-- Names given twice, among the names before and the new ones. -/
def namedTwice : List Nat → List (Nat × Nat) → List (Nat × Nat)
  | _, [] => []
  | seen, e :: t => chk (seen.contains e.1) e.2 gDUPLICATE ++ namedTwice (e.1 :: seen) t

/-- GPIO_CFG. -/
def gpioFaults (prev : List Obj) (o : Obj) : List (Nat × Nat) :=
  let n := im32 o.img 0
  if o.img.length < 4 ∨ o.img.length ≠ 4 + 4 * n then [(0, gFORMAT)]
  else
    (List.range n).flatMap (fun i =>
      let w := im32 o.img (4 + 4 * i)
      chk (bits w 24 23 == 3) (4 + 4 * i) gFORMAT ++ chk (w % 2 ^ 23 != 0) (4 + 4 * i) gRESERVED)
      ++ namedTwice (prev.flatMap (fun x => (gpioNames x).map (·.1))) (gpioNames o)

/-- One object of the Gatehouse at prepare: prev are the group's objects before it, before those of commits that apply
earlier. -/
def prepGate (s : State) (prev before : List Obj) (o : Obj) : List (Nat × Nat) :=
  let w := im32 o.img 0
  match o.typ with
  | 1 => sleepFaults s prev before o.img
  | 2 => wakeCfgFaults o.img
  | 3 => if o.img.length ≠ 4 then [(0, gFORMAT)] else chk (w / 2 ^ 30 == 0) 0 gFORMAT ++ chk (w % 2 ^ 30 != 0) 0 gRESERVED
  | 4 => if o.img.length ≠ 4 then [(0, gFORMAT)] else chk (w != 0) 0 gRESERVED ++ chk (!s.gh.bootPending) 0 gSTATE
  | 5 => ghCfgFaults o.img
  | 6 => gpioFaults prev o
  | _ => [(0, gFORMAT)]

/-! ### Effects -/

/-- SLEEP applies; once the sleep is committed its entry runs to its end (R447, R448). -/
def applySleep (s : State) (img : List Byte) : State :=
  let can := im16 img 8
  if s.gh.sleepState = .committed then s
  else match bits (im32 img 0) 31 30 with
    | 1 => sleepAgree s .dormant (im32 img 4) can (im8 img 10)
    | 2 => sleepAgree s .retained (im32 img 4) can (im8 img 10)
    | _ => if s.gh.sleepState = .agreed then sleepAbandon s false else s

/-- The transceivers that a start without a Spall set kept Off take the MODE of their last record (R431). -/
def physLater (s : State) : State :=
  s.face.phys.foldl (fun s e => if e.2.later = 0 then s else setPhy s e.1 { e.2 with mode := e.2.later, later := 0 }) s

/-- BOOT_DONE applies (R430 to R432). -/
def applyBootDone (s : State) : State :=
  let s := physLater s
  let s := setFaultSrc { s with gh := { s.gh with bootPending := false, failStarts := 0 } } 0 false
  if s.gh.mode = .waking ∨ s.gh.mode = .limp then enterMode s s.pair.role.mode else s

/-- SYS_RESET applies (R455). -/
def applySysReset (s : State) (reach : Nat) : State :=
  if reach = 1 then managementSource s 19 else raiseReset s (if reach = 2 then 11 else 10)

/-- A record of GPIO_CFG applies. -/
def applyGpio (s : State) (w : Nat) : State :=
  let i := bits w 31 27
  let x := tblGet Gpio.reset s.gh.gpio i
  { s with gh := { s.gh with gpio := tblSet Gpio.reset s.gh.gpio i { x with oe := bitOf w 26, value := bitOf w 25, pull := bits w 24 23 } } }

/-- An object of the Gatehouse applies (step 2). -/
def applyGate (s : State) (o : Obj) : State :=
  let w := im32 o.img 0
  match o.typ with
  | 1 => applySleep s o.img
  | 2 => { s with gh := { s.gh with wakeEn := bits w 31 28, edge := bits w 27 20, canEn := bits w 19 16, linEn := bits w 15 12, timerS := im32 o.img 4 } }
  | 3 => applySysReset s (bits w 31 30)
  | 4 => applyBootDone s
  | 5 =>
    { s with gh := { s.gh with wdtEn := bitOf w 31, escalate := bitOf w 30, restartTicks := bits w 29 24, bootLimit := bits w 23 16 } }
  | 6 => holdUpdateAll ((List.range w).foldl (fun s i => applyGpio s (im32 o.img (4 + 4 * i))) s)
  | _ => s

end Sys2Proof.Machine
end

