-- ==== Sys2Proof/Machine/PairObjects.lean ====
section
/-! DEFINITION. Machine/PairObjects.lean: the objects of the Pair unit, its lease orders, and their checks at prepare and
effect at step 2 (R386 to R388, R393, R395). -/

namespace Sys2Proof.Machine

/-! ### Reason codes (Table 13.9) -/

def pFORMAT : Nat := 0x01
def pRESERVED : Nat := 0x02
def pRANGE : Nat := 0x03
def pDUPLICATE : Nat := 0x04
def pPOLICY : Nat := 0x05
def pROLE : Nat := 0x06

/-- The type that stands for a lease order; its operand is 0 TAKE, 1 JOIN, 2 FORCE, 3 RELEASE. -/
def tLEASE : Nat := 16

/-- PAIR_CFG (Table 13.3). -/
def pairCfgFaults (s : State) (img : List Byte) : List (Nat × Nat) :=
  let w := im32 img 0
  if img.length ≠ 4 then [(0, pFORMAT)]
  else chk (bits w 31 8 != 0 || bitOf w 5) 0 pRESERVED ++ chk (decide (bits w 4 0 < 2) || decide (bits w 4 0 > 16)) 0 pRANGE
    ++ chk (bitOf w 6 && !bitOf w 7) 0 pPOLICY ++ chk (!(s.pair.role == .active || s.pair.role == .off)) 0 pROLE

/-- Names of templates in a GEN_MAP object, with offsets. -/
def genNames (o : Obj) : List (Nat × Nat) :=
  if o.sub = 15 ∧ o.typ = 2 then (List.range (im32 o.img 4)).map (fun i => (im16 o.img 0 % 4096 + i, 8 + 4 * i)) else []

/-- GEN_MAP (Table 13.3). -/
def genMapFaults (prev : List Obj) (o : Obj) : List (Nat × Nat) :=
  let n := im32 o.img 4
  if o.img.length < 8 ∨ o.img.length ≠ 8 + 4 * n then [(0, pFORMAT)]
  else
    let seen := prev.flatMap (fun x => (genNames x).map (·.1))
    chk (bits (im32 o.img 0) 31 12 != 0) 0 pRESERVED ++ chk (decide (im16 o.img 0 % 4096 + n > 4096)) 0 pRANGE
      ++ (List.range n).flatMap (fun i => chk (bits (im32 o.img (8 + 4 * i)) 30 10 != 0) (8 + 4 * i) pRESERVED)
      ++ (genNames o).flatMap (fun e => chk (seen.contains e.1) e.2 pDUPLICATE)

/-- DA and VID of a recovery record. -/
def recKey (img : List Byte) (o : Nat) : Nat × Nat := (im16 img (o + 4) * 2 ^ 32 + im32 img (o + 8), bits (im32 img o) 19 8)

/-- RECOVERY (Table 13.3, R395). -/
def recoveryFaults (img : List Byte) : List (Nat × Nat) :=
  let n := im32 img 0
  if img.length < 4 ∨ img.length ≠ 4 + 16 * n then [(0, pFORMAT)]
  else chk (decide (n > 1024)) 0 pRANGE
    ++ (List.range n).flatMap (fun i =>
        let o := 4 + 16 * i
        chk (bits (im32 img o) 7 0 != 0) o pRESERVED ++ chk (decide (bits (im32 img o) 28 20 > 255)) o pRANGE
          ++ chk (im16 img (o + 6) != 0) (o + 4) pRESERVED
          ++ chk (im16 img (o + 14) == 0) (o + 12) pRANGE ++ chk (im16 img (o + 12) != 0) (o + 12) pRESERVED
          ++ chk ((List.range i).any (fun j => recKey img (4 + 16 * j) == recKey img o)) o pDUPLICATE)

/-- One object of the Pair unit at prepare; prev are the group's objects before it. -/
def prepPair (s : State) (prev : List Obj) (o : Obj) : List (Nat × Nat) :=
  match o.typ with
  | 1 => pairCfgFaults s o.img
  | 2 => genMapFaults prev o
  | 3 => recoveryFaults o.img
  | 16 => []
  | _ => [(0, pFORMAT)]

/-- RECOVERY applies: it replaces the whole set. -/
def applyRecovery (s : State) (img : List Byte) : State :=
  let t := (List.range (im32 img 0)).foldl (fun t i =>
    let o := 4 + 16 * i
    let w := im32 img o
    if bitOf w 31 then
      tblSet none t i (some { strip := bitOf w 30, takeNoSeq := bitOf w 29, history := bits w 28 20 + 1, vid := bits w 19 8, da := (recKey img o).1
                              resetTicks := im16 img (o + 14), last := none, seen := 0, idle := 0 })
    else t) []
  { s with pair := { s.pair with recovery := t } }

/-- An object of the Pair unit applies (step 2). -/
def applyPair (s : State) (o : Obj) : State :=
  let w := im32 o.img 0
  match o.typ with
  | 1 =>
    if s.pair.role = .active ∨ s.pair.role = .off then
      { s with pair := { s.pair with yieldOnLoss := bitOf w 7, takeOnExpiry := bitOf w 6, leaseLen := bits w 4 0 } }
    else s
  | 2 =>
    let t := (List.range (im32 o.img 4)).foldl (fun t i =>
      let v := im32 o.img (8 + 4 * i)
      tblSet none t (im16 o.img 0 % 4096 + i) (if bitOf v 31 then some (bits v 9 0) else none)) s.pair.genMap
    { s with pair := { s.pair with genMap := t } }
  | 3 => applyRecovery s o.img
  | 16 =>
    let ord : LeaseOrder := match o.arg with
      | 0 => .take
      | 1 => .join
      | 2 => .force
      | _ => .release
    { s with pair := { s.pair with orders := s.pair.orders ++ [ord] } }
  | _ => s

end Sys2Proof.Machine
end

