-- ==== Sys2Proof/Machine/Plane.lean ====
section
/-! DEFINITION. Machine/Plane.lean: the common form of the plane X instructions: level, operand images in core-local
memory, the request that leaves the Triad, and its answer (R71, R72, R90, R107, R466). -/

namespace Sys2Proof.Machine

/-- The outcome of a plane X request: status, detail and w1[63:16], the value of w[d] if there is one, bytes written to
core-local memory, and whether the Fence froze the master instead. -/
structure PlaneRes where
  status : Nat
  detail : Nat
  high : Nat
  value : Option Nat
  out : Option (Nat × List Byte)
  froze : Bool
  deriving DecidableEq, Repr

/-- A status and nothing else. -/
def PlaneRes.only (status : Nat) : PlaneRes := { status := status, detail := 0, high := 0, value := none, out := none, froze := false }

/-- A status with its detail. -/
def PlaneRes.why (status detail : Nat) : PlaneRes := { PlaneRes.only status with detail := detail }

/-- OK with a value for w[d]. -/
def PlaneRes.give (v : Nat) : PlaneRes := { PlaneRes.only stOK with value := some v }

/-- A violation of master 0x200: no effect, and no answer. -/
def PlaneRes.frozen : PlaneRes := { PlaneRes.only stOK with froze := true }

/-- Whether n bytes at an effective address lie in the local memory of core k. -/
def localRange (k ea n : Nat) : Bool := decide (2 ^ 63 ≤ ea) && decide (ea - 2 ^ 63 + n ≤ localSize k)

/-- n bytes of the local memory of a core. -/
def localBytes (c : SCore) (ea n : Nat) : List Byte := memBytes c.lmem (ea - 2 ^ 63) n

/-- The answer as numbers: status, detail, w1[63:16], whether there is a value, the value, then an address and bytes. -/
def PlaneRes.toList (r : PlaneRes) : List Nat :=
  [r.status, r.detail, r.high, b2n r.value.isSome, r.value.getD 0] ++ (match r.out with
    | some (a, b) => a :: b.map BitVec.toNat
    | none => [])

/-- What the answer does to a core: memory, w[d], then w1 and p7 (R90). -/
def planeFin (f : FmtX) (c : SCore) (l : List Nat) : SCore :=
  match l with
  | st :: dt :: hi :: has :: v :: rest =>
    let c := match rest with
      | a :: b => { c with lmem := memPut c.lmem (a - 2 ^ 63) (b.map (BitVec.ofNat 8)) }
      | [] => c
    let r := if has = 1 then rset c.regs f.d.toNat (BitVec.ofNat 64 v) else c.regs
    c.setRegs (setStatus r st dt hi)
  | _ => c

/-- A plane X instruction. A packet program violates (Table 2.11), a level below the required one traps, a Tally core
violates at the Fence; on the Triad the image that core k streams and its operands go out, and run acts on them. -/
def planeX (who : Agent) (w y : BitVec 32) (f : FmtX) (level : Nat) (image : State → Nat → SCore → Nat → Nat → Except Nat (List Byte))
    (run : State → Nat → Nat → Nat → List Byte → State × PlaneRes) (s : State) : State :=
  match who with
  | .thread t => threadStep t w (some y) TRes.fall TRes.fall s
  | _ =>
    coreStep who w (some y)
      (fun s k c =>
        let a := rget c.regs f.a.toNat
        let b := rget c.regs f.b.toNat
        if c.pl.toNat < level then .trap cPRIV (w.zeroExtend 64)
        else if k ≥ 3 then .ask (.plane w.toNat y.toNat [a, b] []) (fun c _ => c)
        else match image s k c a.toNat b.toNat with
          | .ok img => .ask (.plane w.toNat y.toNat [a, b] img) (planeFin f)
          | .error ea => .trap cACCESS (BitVec.ofNat 64 ea))
      (fun s m q => match q with
        | .plane _ _ (a :: b :: _) img =>
          if m ≥ 3 then
            let pc := (getCore s m).pc.toNat
            (violate s (coreMaster m) vUNAUTH pc pc, .refused)
          else
            let (s, r) := run s m a.toNat b.toNat img
            if r.froze then (s, .refused) else (s, .data r.toList)
        | _ => (s, .refused)) s

/-- No image. -/
def noImage (_ : State) (_ : Nat) (_ : SCore) (_ _ : Nat) : Except Nat (List Byte) := .ok []

/-- An image of n bytes at an address, which the Commit Gate streams from core-local memory. -/
def localImage (k : Nat) (c : SCore) (ea n : Nat) : Except Nat (List Byte) :=
  if localRange k ea n then .ok (localBytes c ea n) else .error ea

/-- For a Vault call: the bytes of a range that lies in core-local memory, else none. -/
def vaultImage (k : Nat) (c : SCore) (ea n : Nat) : List Byte := if localRange k ea n then localBytes c ea n else []

/-- Codes of Table 15.3. -/
def Mode.code : Mode → Nat
  | .off => 0
  | .dormant => 1
  | .retained => 2
  | .waking => 3
  | .limp => 4
  | .active => 5
  | .lead => 6
  | .follow => 7
  | .rejoin => 8
  | .maintenance => 9
  | .recovery => 10
  | .factory => 11

end Sys2Proof.Machine
end

