-- ==== Sys2Proof/Machine/ScreenObjects.lean ====
section
/-! DEFINITION. Machine/ScreenObjects.lean: the objects of Screen and the Berm: the checks of a rule set image, of the
partner tables and of CONN_CLEAR, and what they do when they apply (R133, R139, R140, R142, R144, R147 to R150, R209,
R210, R217). -/

namespace Sys2Proof.Machine

/-! ### Reason codes (Tables 4.13 and 6.10) -/

def rFORMAT : Nat := 0x01
def rRESERVED : Nat := 0x02
def rEXTRACT : Nat := 0x03
def rKEYMASK : Nat := 0x04
def rSLICE : Nat := 0x05
def rLENGTH : Nat := 0x06
def rOVERLAP : Nat := 0x07
def bLENGTH : Nat := 0x03
def bRECIPE : Nat := 0x04

/-- A byte range that must be zero, with a code at its first byte that is not. -/
def zeroFaults (img : List Byte) (o n c : Nat) : List (Nat × Nat) :=
  match ((imgBytes img o n).zip (List.range n)).find? (fun e => e.1 != 0#8) with
  | some e => [(o + e.2, c)]
  | none => []

/-! ### The rule set image (Table 4.12) -/

def ruleCount (img : List Byte) : Nat := bits (im32 img 4) 14 0
def bermOffset (img : List Byte) : Nat := im32 img 0x0C
def bermLength (img : List Byte) : Nat := im32 img 0x10

/-- A selector entry (Table 4.2). -/
def selectorFaults (img : List Byte) (o : Nat) : List (Nat × Nat) :=
  chk (bits (im32 img o) 30 22 != 0) o rRESERVED ++ chk (im32 img (o + 0xC) != 0) (o + 0xC) rRESERVED

/-- An extractor (Table 4.4, R133). -/
def extractorFaults (img : List Byte) (o : Nat) : List (Nat × Nat) :=
  let x := im32 img o
  chk (bitOf x 30 || bits x 23 19 != 0 || bits x 7 0 != 0) o rRESERVED
    ++ chk (bitOf x 31 && decide (8 * bits x 15 8 + bits x 18 16 + bits x 29 24 + 1 > 2048)) o rEXTRACT

/-- A profile record (Table 4.3). -/
def profileFaults (img : List Byte) (o : Nat) : List (Nat × Nat) :=
  chk (bits (im32 img o) 29 24 != 0 || bits (im32 img o) 15 0 != 0) o rRESERVED
    ++ chk (bits (im32 img (o + 4)) 23 9 != 0) (o + 4) rRESERVED
    ++ chk (bits (im32 img (o + 8)) 31 24 != 0) (o + 8) rRESERVED
    ++ chk (im32 img (o + 0xC) != 0) (o + 0xC) rRESERVED
    ++ (List.range 32).flatMap (fun i => extractorFaults img (o + 0x20 + 4 * i))

/-- Comparator c (Table 4.9, R142); one that is off is bound by its reserved fields only. -/
def comparatorFaults (img : List Byte) (c : Nat) : List (Nat × Nat) :=
  let o := 0x3100 + 16 * c
  let wide := bitOf (im32 img 8) (c / 16)
  let on := bitOf (im32 img o) 31
  chk (bits (im32 img o) 30 7 != 0) o rRESERVED ++ chk (im32 img (o + 4) != 0) (o + 4) rRESERVED
    ++ chk (on && wide && decide (bits (im32 img o) 1 0 > 1)) o rSLICE
    ++ chk (on && !wide && bits (im32 img (o + 8)) 31 16 != 0) (o + 8) rSLICE
    ++ chk (on && !wide && bits (im32 img (o + 0xC)) 31 16 != 0) (o + 0xC) rSLICE

/-- A rule record (Table 4.11, R144). -/
def ruleFaults (img : List Byte) (o : Nat) : List (Nat × Nat) :=
  chk (im64 img o &&& (2 ^ 64 - 1 - im64 img (o + 8)) != 0) o rKEYMASK ++ chk (bits (im32 img (o + 0x1C)) 29 8 != 0) (o + 0x1C) rRESERVED

/-- Screen's checks of a rule set at prepare (R148). -/
def ruleSetFaults (img : List Byte) : List (Nat × Nat) :=
  let n := ruleCount img
  let rulesEnd := 0x4100 + 32 * n
  let off := bermOffset img
  let head := List.flatten
    [ chk (im16 img 2 != 1) 0 rFORMAT, chk (im16 img 0 != 0) 0 rRESERVED,
      chk (bits (im32 img 4) 31 15 != 0) 4 rRESERVED, chk (decide (n > 16384)) 0 rFORMAT, chk (im16 img 0x0A != 0) 8 rRESERVED,
      chk (img.length != off + bermLength img) 0 rLENGTH, chk (off % 64 != 0 || decide (off < rulesEnd)) 0x0C rLENGTH ]
  if img.length ≠ off + bermLength img ∨ off < rulesEnd ∨ n > 16384 then head
  else
    List.flatten
    [ head, zeroFaults img 0x14 44 rRESERVED,
      (List.range 64).flatMap (fun m => chk (decide (im8 img (0x40 + m) ≥ 16)) (0x40 + m) rRESERVED),
      (List.range 16).flatMap (fun g => chk (decide (im8 img (0x80 + g) ≥ 64)) (0x80 + g) rRESERVED),
      zeroFaults img 0x90 112 rRESERVED,
      (List.range 128).flatMap (fun i => selectorFaults img (0x100 + 16 * i)),
      (List.range 64).flatMap (fun i => profileFaults img (0x900 + 160 * i)),
      (List.range 256).flatMap (comparatorFaults img),
      (List.range n).flatMap (fun i => ruleFaults img (0x4100 + 32 * i)),
      zeroFaults img rulesEnd (off - rulesEnd) rRESERVED ]

/-! ### The zone policy section (Tables 6.6 to 6.9, R210) -/

/-- A recipe byte of profile p; b is the section's offset in the image. -/
def recipeFaults (img : List Byte) (b p j : Nat) : List (Nat × Nat) :=
  let o := b + 0x80 + 4 * p + j
  let x := im8 img o
  let en := bitOf (im32 img (0x900 + 160 * p + 0x20 + 4 * (x % 32))) 31
  chk (bits x 7 6 == 3) o rFORMAT ++ chk (bitOf x 5) o rRESERVED ++ chk (bits x 7 6 == 1 && !en) o bRECIPE

/-- A zone pair entry (Table 6.9). -/
def zonePairFaults (img : List Byte) (o : Nat) : List (Nat × Nat) :=
  let x := im32 img o
  chk (bitOf x 28 || bitOf x 23) o rRESERVED ++ chk (decide (bits x 22 0 > 4194304)) o rFORMAT ++ chk (im32 img (o + 4) != 0) (o + 4) rRESERVED

/-- The Berm's checks of a rule set at prepare (R210). -/
def zonePolicyFaults (img : List Byte) : List (Nat × Nat) :=
  let b := bermOffset img
  if bermLength img ≠ 13312 then [(0x10, bLENGTH)]
  else if img.length ≠ b + 13312 then [(0, bLENGTH)]
  else List.flatten
    [ chk (im16 img (b + 2) != 1) b rFORMAT, chk (bits (im32 img b) 15 1 != 0) b rRESERVED, zeroFaults img (b + 4) 60 rRESERVED,
      (List.range 64).flatMap (fun m => chk (decide (im8 img (b + 0x40 + m) ≥ 32)) (b + 0x40 + m) rRESERVED),
      (List.range 64).flatMap (fun p => (List.range 4).flatMap (recipeFaults img b p)),
      (List.range 16).flatMap (fun t =>
        let o := b + 0x180 + 16 * t
        chk (im16 img (o + 4) != 0) (o + 4) rRESERVED ++ chk (im64 img (o + 8) != 0) (o + 8) rRESERVED),
      zeroFaults img (b + 0x280) 384 rRESERVED,
      (List.range 4096).flatMap (fun i => chk (decide (im8 img (b + 0x400 + i) ≥ 32)) (b + 0x400 + i) rRESERVED),
      (List.range 1024).flatMap (fun i => zonePairFaults img (b + 0x1400 + 8 * i)) ]

/-! ### Partner tables (Tables 4.7 and 4.8) and CONN_CLEAR (R217) -/

/-- A range of the partner map. -/
def rangeOf (img : List Byte) (o : Nat) : PartnerRange :=
  { low := im64 img o, high := im64 img (o + 8), groups := im16 img (o + 0x12), partner := bits (im32 img (o + 0x10)) 11 0 }

def partnerRanges (img : List Byte) : List PartnerRange := (List.range (bits (im32 img 0) 12 0)).map (fun i => rangeOf img (4 + 24 * i))

/-- The failures of an object of subsystem 3 that STAGE reports; PARTNER_OVERLAP is prepare's (R139, R140).  A COUNT above
4,096 is refused with LENGTH, and reserved bits of the half-word for node 58 with RESERVED_SET (log entry 174). -/
def screenStage (typ : Nat) (img : List Byte) : List (Nat × Nat) :=
  match typ with
  | 1 =>
    let n := bits (im32 img 0) 12 0
    chk (bits (im32 img 0) 31 13 != 0) 0 rRESERVED ++ chk (decide (img.length < 4) || decide (n > 4096) || img.length != 4 + 24 * n) 0 rLENGTH
      ++ (if img.length = 4 + 24 * n then (List.range n).flatMap (fun i =>
            let o := 4 + 24 * i
            chk (bits (im32 img (o + 0x10)) 15 12 != 0) (o + 0x10) rRESERVED ++ chk (im32 img (o + 0x14) != 0) (o + 0x14) rRESERVED)
          else [])
  | 2 =>
    chk (img.length != 128) 0 rLENGTH
      ++ (List.range 64).flatMap (fun m => chk (decide (im16 img (2 * m) ≥ 4096)) (2 * m) rRESERVED)
  | _ => [(0, rFORMAT)]

/-- The failures of an object of subsystem 6 that STAGE reports. -/
def bermStage (typ : Nat) (img : List Byte) : List (Nat × Nat) :=
  match typ with
  | 1 => chk (img.length != 8) 0 bLENGTH ++ chk (bits (im32 img 0) 30 10 != 0) 0 rRESERVED ++ chk (im32 img 4 != 0) 4 rRESERVED
  | _ => [(0, rFORMAT)]

/-- Ranges that overlap although their groups share a bit (R139); a range whose LOW exceeds its HIGH holds no identity. -/
def rangesOverlap (a b : PartnerRange) : Bool :=
  a.groups &&& b.groups != 0 && decide (max a.low b.low ≤ min a.high b.high)

/-- Each range against the ones before it, with its offset. -/
def overlapFaults : Nat → List PartnerRange → List PartnerRange → List (Nat × Nat)
  | _, _, [] => []
  | o, seen, r :: l => chk (seen.any (rangesOverlap r)) o rOVERLAP ++ overlapFaults (o + 24) (r :: seen) l

/-- Screen at prepare: a rule set, or a partner map (R139, R148). -/
def prepScreen (o : Obj) : List (Nat × Nat) :=
  match o.typ with
  | 1 => overlapFaults 4 [] (partnerRanges o.img)
  | 17 => ruleSetFaults o.img
  | _ => []

/-- The Berm at prepare of an EPOCH object (R210). -/
def prepBerm (o : Obj) : List (Nat × Nat) := if o.sub = 3 ∧ o.typ = 17 then zonePolicyFaults o.img else []

/-! ### Apply (R140, R150, R217) -/

/-- The scrubs still to come end before one of their numbers is in use again (R199). -/
def finishScrubs (s : State) (n : Nat) : State :=
  if s.berm.scrub.contains n then
    let s := s.berm.scrub.foldl clearEpoch s
    { s with berm := { s.berm with scrub := [] } }
  else s

/-- A rule set becomes current, and the one that it replaces the older epoch (R150); the head of a standing speculation that has not
left waits from now on (R203 condition 3). -/
def swapEpoch (s : State) (r : RuleSet) : State :=
  let s := finishScrubs s r.num
  (List.range 64).foldl recheckPort
  { s with screen := { s.screen with older := s.screen.current, current := some r, deferred := none
                                     nextEpoch := if r.num = 255 then 1 else r.num + 1 } }

/-- An EPOCH object applies; disturbed says that a step of T0 or a change of P takes effect at this boundary, which
defers the swap by one boundary (R150). -/
def applyEpoch (s : State) (o : Obj) (disturbed : Bool) : State :=
  let r : RuleSet := { num := s.screen.nextEpoch, img := memPut [] 0 o.img }
  if disturbed then { s with screen := { s.screen with deferred := some r } } else swapEpoch s r

/-- PARTNER_MAP, PARTNER_DEFAULT and EPOCH apply. -/
def applyScreen (s : State) (o : Obj) (disturbed : Bool) : State :=
  match o.typ with
  | 1 => { s with screen := { s.screen with partnerMap := partnerRanges o.img } }
  | 2 => { s with screen := { s.screen with
      defPartner := (List.range 64).foldl (fun t m => tblSet 0 t m (im16 o.img (2 * m) % 4096)) [] } }
  | _ => applyEpoch s o disturbed

/-- CONN_CLEAR applies (R217). -/
def applyBerm (s : State) (o : Obj) : State := connClear s (bitOf (im32 o.img 0) 31) (bits (im32 o.img 0) 4 0) (bits (im32 o.img 0) 9 5)

/-- Whether an EPOCH object is staged, committed or deferred (R110, PENDING of Table 4.14). -/
def epochPending (s : State) : Bool :=
  s.screen.deferred.isSome || (s.gate.committed.flatMap (·.objs) ++ s.gate.group.getD []).any (fun o => o.sub == 3 && o.typ == 17)

/-- In-flight count of an epoch (R151). -/
def epochInFlight (s : State) (e : Nat) : Nat :=
  let holds (p : Option Packet) : Bool := match p with | some p => p.epoch == e | none => false
  (s.screen.waiting.filter (fun p => p.epoch == e)).length + (s.screen.dispatchQ.filter (fun p => p.epoch == e)).length
    + (s.engine.threads.filter (fun t => holds t.2.pkt || holds t.2.reserved)).length

/-- Epoch retirement (R152, R199). -/
def retireEpoch (s : State) : State :=
  match s.screen.older with
  | none => s
  | some r =>
    if epochInFlight s r.num = 0 then
      { s with screen := { s.screen with older := none }, berm := { s.berm with scrub := s.berm.scrub ++ [r.num] } }
    else s

end Sys2Proof.Machine
end

