-- ==== Sys2Proof/Machine/VaultObjects.lean ====
section
/-! DEFINITION. Machine/VaultObjects.lean: MACSEC_SA, its checks at prepare and its effect at step 2 (R473, R474, Tables
16.7 and 16.8). -/

namespace Sys2Proof.Machine

def aFORMAT : Nat := 0x01
def aRESERVED : Nat := 0x02
def aKEY : Nat := 0x03
def aPORT : Nat := 0x04
def aDUPLICATE : Nat := 0x05

/-- Offsets of the records of a MACSEC_SA image. -/
def saRecs (img : List Byte) : List Nat := (List.range (im32 img 0)).map (fun i => 4 + 48 * i)

def saIndex (img : List Byte) (o : Nat) : Nat := bits (im32 img o) 28 20
def saNode (img : List Byte) (o : Nat) : Nat := bits (im32 img o) 19 14

/-- SALT: 96 bits. -/
def saSalt (img : List Byte) (o : Nat) : Nat := im64 img (o + 0x18) + im32 img (o + 0x20) * 2 ^ 64

/-- Whether a node secures frames: B, or a CV Ethernet node whose lane is not in fabric mode once the objects given apply. -/
def saPort (mask m : Nat) : Bool := decide (m < 8) || (decide (48 ≤ m) && decide (m < 56) && !bitOf mask (m - 48))

/-- Whether a handle holds a 256-bit key in force. -/
def saKeyOk (s : State) (h : Nat) : Bool := match getKey s h with
  | some k => !k.stale && keyBits h k.wide == 256
  | none => false

/-- A record of Table 16.7. -/
def saFaults (s : State) (mask : Nat) (img : List Byte) (o : Nat) : List (Nat × Nat) :=
  let w := im32 img o
  let xpn := bitOf w 30
  chk (bits w 11 8 != 0) o aRESERVED ++ chk (bitOf w 31 && !saKeyOk s (w % 256)) o aKEY ++ chk (!saPort mask (saNode img o)) o aPORT
    ++ chk (!xpn && im32 img (o + 4) != 0) (o + 4) aFORMAT ++ chk (!xpn && im32 img (o + 0x14) != 0) (o + 0x10) aRESERVED
    ++ chk (!xpn && saSalt img o != 0) (o + 0x18) aFORMAT ++ chk (!allZero (imgBytes img (o + 0x24) 12)) (o + 0x24) aRESERVED

/-- SA indices named twice. -/
def saTwice : List Nat → List (Nat × Nat) → List (Nat × Nat)
  | _, [] => []
  | seen, e :: t => chk (seen.contains e.1) e.2 aDUPLICATE ++ saTwice (e.1 :: seen) t

def saNames (o : Obj) : List (Nat × Nat) := if o.sub = 14 then (saRecs o.img).map (fun r => (saIndex o.img r, r)) else []

/-- One MACSEC_SA at prepare; mask is LANE_MASK once the objects of this commit and earlier ones apply. -/
def prepVault (s : State) (prev : List Obj) (mask : Nat) (o : Obj) : List (Nat × Nat) :=
  if o.img.length < 4 ∨ o.img.length ≠ 4 + 48 * im32 o.img 0 then [(0, aFORMAT)]
  else (saRecs o.img).flatMap (saFaults s mask o.img) ++ saTwice (prev.flatMap (fun x => (saNames x).map (·.1))) (saNames o)

/-- The keys that prepare copies, one for each record. -/
def saKeys (s : State) (o : Obj) : List SaKey :=
  if o.sub = 14 then
    (saRecs o.img).map (fun r =>
      let h := im32 o.img r % 256
      match getKey s h with
      | some k => { handle := h, key := k.clear, stale := false }
      | none => { handle := h, key := 0, stale := false })
  else []

/-- The records of MACSEC_SA apply with the keys that prepare copied; frames of their nodes that have not begun go back, and take the
new contents when they start (R473). -/
def applySas (s : State) (img : List Byte) : List Nat → List SaKey → State
  | r :: t, k :: ks =>
    let w := im32 img r
    let x : Option Sa :=
      if bitOf w 31 then
        some { rx := bitOf w 29, node := saNode img r, an := bits w 13 12, xpn := bitOf w 30, ssci := im32 img (r + 4), sci := im64 img (r + 8)
               pn := im64 img (r + 0x10), salt := saSalt img r, handle := k.handle, key := k.key, stale := k.stale }
      else none
    let s := match tblGet none s.face.sas (saIndex img r) with
      | some a => unstart s a.node (fun _ => true)
      | none => s
    applySas (putSa (unstart s (saNode img r) (fun _ => true)) (saIndex img r) x) img t ks
  | _, _ => s

/-- A MACSEC_SA applies; the keys left over are for the commit's later objects. -/
def applyVault (s : State) (o : Obj) (keys : List SaKey) : State × List SaKey :=
  let l := saRecs o.img
  (applySas s o.img l (keys.take l.length), keys.drop l.length)

end Sys2Proof.Machine
end

