-- ==== Sys2Proof/Machine/CommitOps.lean ====
section
/-! DEFINITION. Machine/CommitOps.lean: the Commit Gate: staging, prepare of a group, abort, and the application of a
commit (R14 to R18, R108 to R110, R529, R531). -/

namespace Sys2Proof.Machine

/-! ### Staging (R108, R529) -/

/-- The TYPEs that the subsystems accept with STAGE (Tables 3.8, 4.11, 5.8, 6.15, 7.8, 7.7, 7.16, 8.8, 9.14, 10.4,
11.2, 13.3, 15.12, 16.7). -/
def stageTypes (n : Nat) : List Nat :=
  match n with
  | 1 => [1, 2, 3, 4, 5, 6, 7]
  | 2 => [1, 2]
  | 3 => [1, 2]
  | 4 => [1, 2, 3]
  | 5 => [1, 2, 3, 4]
  | 6 => [1]
  | 7 => [1, 2, 3]
  | 8 => [1, 2]
  | 9 => [1, 2, 3, 4, 5, 6, 7, 8]
  | 10 => [1, 2, 3, 4, 5]
  | 11 => [1, 2, 3, 4, 5]
  | 14 => [1]
  | 15 => [1, 2, 3]
  | 16 => [1, 2, 3, 4, 5, 6]
  | _ => []

/-- Whether an object more would exceed a limit of R108. -/
def groupFull (s : State) (n : Nat) : Bool :=
  let g := s.gate.group.getD []
  decide (g.length ≥ 4096) || decide ((g.map (fun o => o.img.length)).sum + n > 16777216)

/-- The group with an object more, or FULL; v is the value of w[d], when there is one. -/
def stageObj (s : State) (o : Obj) (v : Option Nat) : State × PlaneRes :=
  if groupFull s o.img.length then (s, PlaneRes.only stFULL)
  else ({ s with gate := { s.gate with group := some (s.gate.group.getD [] ++ [o]) } }, { PlaneRes.only stOK with value := v })

/-- What the subsystem of a STAGE checks while it executes: the reason code and the word index of a refusal. -/
def stageCheck (s : State) (n typ : Nat) (img : List Byte) : Option (Nat × Nat) :=
  let whole (l : List (Nat × Nat)) : Option (Nat × Nat) := (pickFault l).map (fun c => (c, 0))
  match n with
  | 2 => whole (conveyorStage typ img)
  | 3 => whole (screenStage typ img)
  | 4 => stageEngine s typ img
  | 5 => whole (lookupStage typ img)
  | 6 => whole (bermStage typ img)
  | 7 => whole (stockStage typ img)
  | _ => none

/-- STAGE with its descriptor y (R108, R111, R112, R529). -/
def stage (s : State) (y : Nat) (img : List Byte) : State × PlaneRes :=
  let n := bits y 31 27
  let typ := bits y 26 19
  if n = 0 ∨ n > 18 ∨ (stageTypes n).isEmpty ∨ blockRefuses s n then (s, PlaneRes.why stDENIED 0)
  else if (stageTypes n).contains typ = false then (s, PlaneRes.why stDENIED (if n = 4 then 0x0D else 0x01))
  else match stageCheck s n typ img with
    | some (c, w) => (s, { PlaneRes.why stDENIED c with high := w })
    | none => stageObj s { sub := n, typ := typ, img := img, arg := 0 } (some (s.gate.group.getD []).length)

/-- GATELIST; a is w[a] (R276). -/
def stageGates (s : State) (a y : Nat) (img : List Byte) : State × PlaneRes :=
  if blockRefuses s 9 ∨ gatelistDenied a y img then (s, PlaneRes.why stDENIED 0)
  else stageObj s { sub := 9, typ := tGATELIST, img := img, arg := a % 64 + 64 * bits y 10 0 } none

/-- SHAPER (R270, R271). -/
def stageShaper (s : State) (a y : Nat) (img : List Byte) : State × PlaneRes :=
  if blockRefuses s 9 ∨ shaperDenied a img ∨ bits y 30 0 ≠ 0 then (s, PlaneRes.why stDENIED 0)
  else stageObj s { sub := 9, typ := tSHAPER, img := img, arg := a % 2 ^ 32 + bits y 31 31 * 2 ^ 32 } none

/-- EPOCH (R110, R149). -/
def stageEpoch (s : State) (img : List Byte) : State × PlaneRes :=
  if blockRefuses s 3 then (s, PlaneRes.why stDENIED 0)
  else if s.screen.older.isSome ∨ epochPending s then (s, PlaneRes.only stEPOCHBUSY)
  else stageObj s { sub := 3, typ := 17, img := img, arg := 0 } (some s.screen.nextEpoch)

/-- BANK (R125). -/
def stageBank (s : State) (b : Nat) : State × PlaneRes :=
  if blockRefuses s 4 then (s, PlaneRes.why stDENIED 0) else stageObj s { sub := 4, typ := 16, img := [], arg := b } none

/-- The reasons for which LEASE returns DENIED (R378, R379, R383, R388); order is 0 TAKE, 1 JOIN, 2 FORCE, 3 RELEASE. -/
def leaseDenied (s : State) (order a : Nat) : Bool :=
  let kind := a % 4
  !s.pair.en || s.triad.split || s.triad.lockstepBroken || blockRefuses s 15
    || (order != 3 && (decide (a ≥ 4) || kind == 3))
    || (order != 3 && decide (kind ≤ 1) && s.pair.role == .lead)
    || (order != 3 && kind == 1 && (s.pair.role == .follow || s.pair.role == .rejoin))
    || (order == 3 && s.pair.role != .lead) || (order != 3 && kind == 2 && pairUp s)
    || (s.gate.group.getD []).any (fun o => o.sub == 15 && o.typ == tLEASE)

/-- LEASE (R388): w[a] names the KIND of a request. -/
def stageLease (s : State) (order a : Nat) : State × PlaneRes :=
  if s.pair.lost then ({ s with pair := { s.pair with lost := false } }, PlaneRes.only stLEASELOST)
  else if leaseDenied s order a then (s, PlaneRes.why stDENIED 0)
  else stageObj s { sub := 15, typ := tLEASE, img := [], arg := if order = 3 then 3 else a % 4 } none

/-! ### Prepare (R14, R15, R33) -/

/-- Whether a commit holds a TICK object that sets the count, and that count (R33). -/
def setsCount (l : List Obj) : Option Nat :=
  match l.find? (fun o => o.sub == 10 && o.typ == 5 && bitOf (im32 o.img 0) 30) with
  | some o => some (im64 o.img 8)
  | none => none

/-- The boundary at which a pending TICK object sets the count, by the count it would carry, and the count (R33). -/
def tickJump (l : List Commit) : Option (Nat × Nat) :=
  l.findSome? (fun c => (setsCount c.objs).map (fun n => (c.target, n)))

/-- Inserts a commit behind those whose boundaries are no later. -/
def placeCommit (f : Commit → Nat) (c : Commit) : List Commit → List Commit
  | [] => [c]
  | x :: l => if f c < f x then c :: x :: l else x :: placeCommit f c l

/-- Commits in the order in which they apply: by boundary, and at one boundary in the order in which they returned OK (R17). -/
def inApplyOrder (f : Commit → Nat) (l : List Commit) : List Commit := l.foldl (fun t c => placeCommit f c t) []

/-- The boundary at which a target applies, named by the count it would carry (R33). -/
def boundaryOf (j : Option (Nat × Nat)) (t : Nat) : Nat :=
  match j with
  | some (nb, n) => if nb ≤ t ∧ t ≤ n then nb else t
  | none => t

/-- The first object of a group, in its order, that a check fails, and the code reported (R531). -/
def firstAny (f : List Obj → Obj → List (Nat × Nat)) : List Obj → List Obj → Option Nat
  | _, [] => none
  | prev, o :: l =>
    match pickFault (f prev o) with
    | some c => some c
    | none => firstAny f (prev ++ [o]) l

/-- The same over the objects of one subsystem. -/
def firstFault (idx : Nat) (f : List Obj → Obj → List (Nat × Nat)) : List Obj → List Obj → Option Nat :=
  firstAny (fun prev o => if o.sub = idx then f prev o else [])

/-- Prepare of the Hopper's objects in order: a code, or the state with the handles taken and their moves. -/
def prepHopper (objs : List Obj) : List Obj → List Obj → State → List PoolMove → Except Nat (State × List PoolMove)
  | _, [], s, m => .ok (s, m)
  | prev, o :: l, s, m =>
    if o.sub = 8 then
      let image := hopperImage o.typ o.img
      let (f, s', m') := if o.typ = 1 ∧ image.contains (0, hFORMAT) = false then prepPoolDef s prev objs o else ([], s, [])
      match pickFault (image ++ f) with
      | some c => .error c
      | none => prepHopper objs (prev ++ [o]) l s' (m ++ m')
    else prepHopper objs (prev ++ [o]) l s m

/-- Prepare of the Haul scheduler's objects in order: a code, or the state with the chains of INJECT objects. -/
def prepHauls (objs : List Obj) : List Obj → List Obj → State → List Nat → Except Nat (State × List Nat)
  | _, [], s, h => .ok (s, h)
  | prev, o :: l, s, h =>
    if o.sub = 9 then
      let (f, s', h') := prepHaul s prev objs o
      match pickFault f with
      | some c => .error c
      | none => prepHauls objs (prev ++ [o]) l s' (h ++ h')
    else prepHauls objs (prev ++ [o]) l s h

/-- The checks of the Conveyor on a group: its own objects, and bindings that the group leaves out. -/
def prepFabric (s : State) (group objs : List Obj) : Option Nat :=
  match firstAny (fun prev o =>
      if o.sub = 2 then prepConveyor s prev objs o else prepChannelPlan s objs o) [] group with
  | some c => some c
  | none => if group.any touchesBinding then pickFault (unboundFaults s objs) else none

/-- The engine array's checks: its own objects, and the TICK object that the time unit passes on (R32). -/
def prepEngines (s : State) (group objs : List Obj) : Option Nat :=
  firstAny (fun prev o =>
    if o.sub = 4 then prepEngine s prev objs o
    else if o.sub = 10 ∧ o.typ = 5 then tickPeriodFaults s objs o.img else []) [] group

/-- Checks that reserve nothing, by subsystem; before are the objects of commits that apply before this one. -/
def plainFault (s : State) (natural : Nat) (group before : List Obj) (n : Nat) : Option Nat :=
  let objs := before ++ group
  match n with
  | 1 => firstFault 1 (fun prev o => prepFace s prev before objs o) [] group
  | 2 => prepFabric s group objs
  | 3 => firstFault 3 (fun _ o => prepScreen o) [] group
  | 4 => prepEngines s group objs
  | 6 => firstFault 3 (fun _ o => prepBerm o) [] group
  | 7 => firstFault 7 (fun prev o => prepStock s prev objs o) [] group
  | 10 => firstFault 10 (fun prev o => prepTime s prev before natural o) [] group
  | 11 => firstFault 11 (fun prev o => prepRelay prev o) [] group
  | 14 => firstFault 14 (fun prev o => prepVault s prev (laneMaskWith s objs) o) [] group
  | 15 => firstFault 15 (fun prev o => prepPair s prev o) [] group
  | 16 => firstFault 16 (fun prev o => prepGate s prev before o) [] group
  | _ => none

/-- What a prepare reserved. -/
structure Prep where
  s : State
  moves : List PoolMove
  frames : List Nat

/-- The lowest of the failing subsystems, with its code (R15). -/
def lowestFault : List (Nat × Nat) → Option (Nat × Nat)
  | [] => none
  | f :: t => some (t.foldl (fun a b => if b.1 < a.1 then b else a) f)

/-- Prepare of a group on every subsystem: the lowest failing index with its code, and the state as every unit rolls back, or the
reservations (R14, R15); the lookup complex keeps what its prepare drained (R532). -/
def prepare (s : State) (natural num : Nat) (group before : List Obj) (later : List (List Obj)) : Except (Nat × Nat × State) Prep :=
  let objs := before ++ group
  let plain := (List.range 19).filterMap (fun n => (plainFault s natural group before n).map (fun c => (n, c)))
  let lk := prepLookup s before group later num
  let s1 := lk.1
  let hp := prepHopper objs [] group s1 []
  let s2 := match hp with | .ok x => x.1 | .error _ => s1
  let hl := prepHauls objs [] group s2 []
  let all := plain ++ (match lk.2 with | none => [] | some c => [(5, c)]) ++ (match hp with | .ok _ => [] | .error c => [(8, c)])
    ++ (match hl with | .ok _ => [] | .error c => [(9, c)])
  match lowestFault all with
  | none => .ok { s := loaderWrites (match hl with | .ok x => x.1 | .error _ => s2) group objs
                  moves := match hp with | .ok x => x.2 | .error _ => []
                  frames := match hl with | .ok x => x.2 | .error _ => [] }
  | some f => .error (f.1, f.2, settleTags s1 num false)

/-- COMMIT with a target tick (R14 to R16, R109). -/
def commit (s : State) (target : Nat) : State × PlaneRes :=
  match s.gate.group with
  | none => (s, PlaneRes.only stEMPTY)
  | some group =>
    let natural := max target (s.bench.tickCount + 1)
    let num := s.gate.nextNum
    let j := tickJump s.gate.committed
    let mine := boundaryOf j natural
    let order := inApplyOrder (fun c => boundaryOf j c.target) s.gate.committed
    let before := (order.filter (fun c => decide (boundaryOf j c.target ≤ mine))).flatMap (·.objs)
    let later := (order.filter (fun c => decide (mine < boundaryOf j c.target))).map (·.objs)
    let closed (s : State) : State := { s with gate := { s.gate with group := none } }
    match prepare s natural num group before later with
    | .error (n, c, s) => (closed s, { PlaneRes.why stABORTED n with high := c })
    | .ok p =>
      let applied := match setsCount group with
        | some n => n
        | none => match j with
          | some (nb, n) => if mine = nb then n else natural
          | none => natural
      let x : Commit := { num := num, target := natural, objs := group, moves := p.moves, frames := p.frames
                          sas := (group.filter (fun o => o.sub == 14)).flatMap (saKeys p.s) }
      let armed := match group.find? (fun o => o.sub == 4 && o.typ == 16) with
        | some o => some (o.arg == 1)
        | none => p.s.engine.armed
      let t := closed p.s
      ({ t with gate := { t.gate with committed := t.gate.committed ++ [x], nextNum := (num + 1) % 65536 }
                engine := { t.engine with armed := armed } },
        { PlaneRes.give applied with high := num })

/-! ### Abort (R18) -/

/-- Releases what the prepare of a commit reserved. -/
def releaseCommit (s : State) (c : Commit) : State :=
  let s := { s with gate := { s.gate with committed := s.gate.committed.filter (fun x => x.num != c.num) } }
  let s := c.frames.foldl (fun s h => freeChain s (handleCell h)) s
  let s := c.moves.reverse.foldl (poolMoves false) s
  let s := loaderClears (settleTags s c.num false) c.objs
  if c.objs.any (fun o => o.sub == 4 && o.typ == 16) then { s with engine := { s.engine with armed := none } } else s

/-- ABORT of a commit number. -/
def abortCommit (s : State) (num : Nat) : State × PlaneRes :=
  match s.gate.committed.find? (fun c => c.num == num) with
  | none => (s, PlaneRes.only stMISS)
  | some c => (releaseCommit s c, PlaneRes.only stOK)

/-- ABORT of the open group. -/
def abortGroup (s : State) : State × PlaneRes :=
  match s.gate.group with
  | none => (s, PlaneRes.only stEMPTY)
  | some _ => ({ s with gate := { s.gate with group := none } }, PlaneRes.only stOK)

/-! ### THAW (R417, R418, R420) -/

/-- THAW of a master. -/
def thawMaster (s : State) (a : Nat) : State × PlaneRes :=
  if a ≥ 1024 then (s, PlaneRes.why stDENIED 0)
  else if a = mTRIAD then
    if pairUp s then (bump (pairSend s 0x9) .thaws (masterRange a) 1, PlaneRes.only stOK) else (s, PlaneRes.only stMISS)
  else if isFrozen s a = false then (s, PlaneRes.only stMISS)
  else
    let s := bump { s with fence := { s.fence with frozen := s.fence.frozen.filter (· != a) } } .thaws (masterRange a) 1
    let k := a - mTALLY + 3
    let s := if mTALLY ≤ a ∧ a < mTALLY + 4 then
        takeException s k cACCESS (BitVec.ofNat 64 (tblGet 0 s.fence.heldInfo (a))) (BitVec.ofNat 64 (tblGet 0 s.fence.heldPc a))
      else s
    (s, PlaneRes.only stOK)

/-- THAW of a partner. -/
def thawPartner (s : State) (a : Nat) : State × PlaneRes :=
  if a ≥ 4096 then (s, PlaneRes.why stDENIED 0)
  else if partnerFrozen s a = false then (s, PlaneRes.only stMISS)
  else
    let s := bump { s with fence := { s.fence with partners := s.fence.partners.filter (· != a) } } .thaws 6 1
    (logChange s (.thaw a), PlaneRes.only stOK)

/-! ### Application at step 2 (R16, R17) -/

/-- What the application of a commit's objects carries: the handles of its INJECT objects, the keys of its associations,
and the EPOCH object, whose swap follows the other objects of the boundary. -/
structure ApplyCtx where
  s : State
  frames : List Nat
  sas : List SaKey
  epoch : Option Obj

/-- One object applies. -/
def applyObj (c : ApplyCtx) (o : Obj) : ApplyCtx :=
  let s := if o.sub = 15 then c.s else { c.s with pair := { c.s.pair with digestBytes := c.s.pair.digestBytes ++ o.img } }
  match o.sub with
  | 1 => { c with s := applyFace s o }
  | 2 => { c with s := applyConveyor s o }
  | 3 => if o.typ = 17 then { c with s := s, epoch := some o } else { c with s := applyScreen s o false }
  | 4 => { c with s := applyEngine s o }
  | 5 => { c with s := applyLookup s o }
  | 6 => { c with s := applyBerm s o }
  | 7 => { c with s := applyStock s o }
  | 8 => { c with s := applyHopper s o }
  | 9 =>
    if o.typ = 8 then
      match c.frames with
      | h :: t => { c with s := applyInject s o h, frames := t }
      | [] => { c with s := s }
    else { c with s := applyHaul s o }
  | 10 => { c with s := applyTime s o }
  | 11 => { c with s := applyRelay s o }
  | 14 => let r := applyVault s o c.sas; { c with s := r.1, sas := r.2 }
  | 15 => { c with s := applyPair s o }
  | 16 => { c with s := applyGate s o }
  | _ => { c with s := s }

/-- The objects of a commit in order; a reset that one of them raises ends the walk (R437). -/
def applyObjs : List Obj → ApplyCtx → ApplyCtx
  | [], c => c
  | o :: l, c => if inReset c.s then c else applyObjs l (applyObj c o)

/-- A commit applies in full (R14, R17); the answer carries its EPOCH object. -/
def applyCommit (s : State) (c : Commit) : State × Option Obj :=
  let s := { s with gate := { s.gate with committed := s.gate.committed.filter (fun x => x.num != c.num) } }
  let s := c.moves.foldl (poolMoves true) s
  let r := applyObjs c.objs { s := s, frames := c.frames, sas := c.sas, epoch := none }
  if inReset r.s then (r.s, none) else (settleTags r.s c.num true, r.epoch)

end Sys2Proof.Machine
end

