-- ==== Sys2Proof/Machine/Commit.lean ====
section
/-! DEFINITION. Machine/Commit.lean: the plane X instructions of the Commit Gate, the lease and THAW (Table 3.7). -/

namespace Sys2Proof.Machine

/-- The image of STAGE and EPOCH: w[b] bytes at EA w[a]. -/
def sizedImage (_ : State) (k : Nat) (c : SCore) (a b : Nat) : Except Nat (List Byte) := localImage k c a b

/-- The record of GATELIST and SHAPER: n bytes at EA w[b]. -/
def recordImage (n : Nat) (_ : State) (k : Nat) (c : SCore) (_ b : Nat) : Except Nat (List Byte) := localImage k c b n

/-- R108, R111, R112, R529. -/
def execStage (who : Agent) (f : FmtX) (s : State) : Host.Outcome State Fault Refusal :=
  .next (planeX who (encX 0x70 f 0) f.desc f 1 sizedImage (fun s _ _ _ img => stage s f.desc.toNat img) s)

/-- R14 to R16, R109. -/
def execCommit (who : Agent) (f : FmtX) (s : State) : Host.Outcome State Fault Refusal :=
  .next (planeX who (encX 0x71 f 0) f.desc f 1 noImage (fun s _ a _ _ => commit s a) s)

/-- R18: a commit by its number. -/
def execAbortCommit (who : Agent) (f : FmtX) (s : State) : Host.Outcome State Fault Refusal :=
  .next (planeX who (encX 0x72 f 0) f.desc f 1 noImage (fun s _ a _ _ => abortCommit s (a % 65536)) s)

/-- R108: the open group. -/
def execAbortGroup (who : Agent) (f : FmtX) (s : State) : Host.Outcome State Fault Refusal :=
  .next (planeX who (encX 0x72 f 1) f.desc f 1 noImage (fun s _ _ _ _ => abortGroup s) s)

/-- R417, R420. -/
def execThawMaster (who : Agent) (f : FmtX) (s : State) : Host.Outcome State Fault Refusal :=
  .next (planeX who (encX 0x73 f 0) f.desc f 1 noImage (fun s _ a _ _ => thawMaster s a) s)

/-- R417. -/
def execThawPartner (who : Agent) (f : FmtX) (s : State) : Host.Outcome State Fault Refusal :=
  .next (planeX who (encX 0x73 f 1) f.desc f 1 noImage (fun s _ a _ _ => thawPartner s a) s)

/-- R276. -/
def execGatelist (who : Agent) (f : FmtX) (s : State) : Host.Outcome State Fault Refusal :=
  .next (planeX who (encX 0x74 f 0) f.desc f 1 (recordImage (gatelistSize f.desc.toNat))
    (fun s _ a _ img => stageGates s a f.desc.toNat img) s)

/-- R270, R271. -/
def execShaper (who : Agent) (f : FmtX) (s : State) : Host.Outcome State Fault Refusal :=
  .next (planeX who (encX 0x74 f 1) f.desc f 1 (recordImage 16) (fun s _ a _ img => stageShaper s a f.desc.toNat img) s)

/-- R110, R149. -/
def execEpoch (who : Agent) (f : FmtX) (s : State) : Host.Outcome State Fault Refusal :=
  .next (planeX who (encX 0x75 f 0) f.desc f 1 sizedImage (fun s _ _ _ img => stageEpoch s img) s)

/-- R123, R125. -/
def execBank (who : Agent) (f : FmtX) (s : State) : Host.Outcome State Fault Refusal :=
  .next (planeX who (encX 0x75 f 1) f.desc f 1 noImage (fun s _ _ _ _ => stageBank s (f.desc.toNat % 2)) s)

/-- R388: KIND comes from w[a]. -/
def execLeaseTake (who : Agent) (f : FmtX) (s : State) : Host.Outcome State Fault Refusal :=
  .next (planeX who (encX 0x76 f 0) f.desc f 1 noImage (fun s _ a _ _ => stageLease s 0 a) s)

/-- R388: KIND comes from w[a]. -/
def execLeaseJoin (who : Agent) (f : FmtX) (s : State) : Host.Outcome State Fault Refusal :=
  .next (planeX who (encX 0x76 f 0) f.desc f 1 noImage (fun s _ a _ _ => stageLease s 1 a) s)

/-- R388: KIND comes from w[a]. -/
def execLeaseForce (who : Agent) (f : FmtX) (s : State) : Host.Outcome State Fault Refusal :=
  .next (planeX who (encX 0x76 f 0) f.desc f 1 noImage (fun s _ a _ _ => stageLease s 2 a) s)

/-- R388. -/
def execLeaseRelease (who : Agent) (f : FmtX) (s : State) : Host.Outcome State Fault Refusal :=
  .next (planeX who (encX 0x76 f 1) f.desc f 1 noImage (fun s _ _ _ _ => stageLease s 3 0) s)

end Sys2Proof.Machine
end

