-- ==== Sys2Proof/Machine/Control.lean ====
section
/-! DEFINITION. Machine/Control.lean: branches, calls, returns, jumps and counted loops of both profiles (R62 to
R64, Table 2.8). -/

namespace Sys2Proof.Machine

/-- Target of a format B word at an address: sx(disp21) words away. -/
def dispTarget (pc : Word) (f : FmtB) : Word := pc + sx 21 f.disp.toNat * 4#64

/-- BR (R62): a taken branch of a thread pops the loops that it leaves (R64). -/
def execBr (who : Agent) (f : FmtB) (s : State) : Host.Outcome State Fault Refusal :=
  .next (match who with
  | .thread t =>
    threadStep t (encB 0x50 f) none TRes.fall (fun s =>
      let th := getThread s t
      if pget th.regs f.p.toNat = f.t then
        let a := dispTarget th.pc f
        .jump (setThread s t { th with lstack := popLoops a th.lstack }) a
      else .fall s) s
  | _ =>
    coreStep who (encB 0x50 f) none (fun _ _ c =>
      if pget c.regs f.p.toNat = f.t then .jump c (dispTarget c.pc f) else .fall c) noRequest s)

/-- CALL (R63). -/
def execCall (who : Agent) (f : FmtB) (s : State) : Host.Outcome State Fault Refusal :=
  .next (match who with
  | .thread t =>
    threadStep t (encB 0x51 f) none TRes.fall (fun s =>
      let th := getThread s t
      if pget th.regs f.p.toNat = f.t then
        if th.rstack.length ≥ 4 then .fault vADDR th.pc.toNat
        else .jump (setThread s t { th with rstack := (th.pc + 4#64) :: th.rstack }) (dispTarget th.pc f)
      else .fall s) s
  | _ =>
    coreStep who (encB 0x51 f) none (fun _ _ c =>
      if pget c.regs f.p.toNat = f.t then .jump (c.setRegs (rset c.regs 63 (c.pc + 4#64))) (dispTarget c.pc f)
      else .fall c) noRequest s)

/-- A jump of a core to a register's address; one that is not a multiple of 4 raises ALIGN (R63). -/
def jumpTo (c : SCore) (a : Word) : CRes := if a.toNat % 4 = 0 then .jump c a else .trap cALIGN a

/-- RET (R63). -/
def execRet (who : Agent) (fn : BitVec 4) (f : FmtA) (s : State) : Host.Outcome State Fault Refusal :=
  .next (match who with
  | .thread t =>
    threadStep t (encA 0x52 f fn.toNat) none TRes.fall (fun s =>
      let th := getThread s t
      match th.rstack with
      | [] => .fault vADDR th.pc.toNat
      | a :: rest => .jump (setThread s t { th with rstack := rest }) a) s
  | _ => coreStep who (encA 0x52 f fn.toNat) none (fun _ _ c => jumpTo c (rget c.regs 63)) noRequest s)

/-- JR (R62, R63). -/
def execJr (who : Agent) (f : FmtA) (s : State) : Host.Outcome State Fault Refusal :=
  .next (match who with
  | .thread t => threadStep t (encA 0x55 f 0) none TRes.fall TRes.fall s
  | _ => coreStep who (encA 0x55 f 0) none (fun _ _ c => jumpTo c (rget c.regs f.a.toNat)) noRequest s)

/-- CALLR (R62, R63): the target is read before w63 is written. -/
def execCallr (who : Agent) (f : FmtA) (s : State) : Host.Outcome State Fault Refusal :=
  .next (match who with
  | .thread t => threadStep t (encA 0x55 f 1) none TRes.fall TRes.fall s
  | _ =>
    coreStep who (encA 0x55 f 1) none (fun _ _ c =>
      let a := rget c.regs f.a.toNat
      if a.toNat % 4 = 0 then .jump (c.setRegs (rset c.regs 63 (c.pc + 4#64))) a else .trap cALIGN a) noRequest s)

/-- The address after a loop's body of len words (R64). -/
def loopExit (pc : Word) (len : Nat) : Word := pc + 4#64 + BitVec.ofNat 64 (4 * len)

/-- The set-up of a loop of n rounds (R64). -/
def loopEnter (t n len : Nat) (s : State) : TRes :=
  let th := getThread s t
  if n = 0 then .jump s (loopExit th.pc len)
  else if th.lstack.length ≥ 4 then .fault vADDR th.pc.toNat
  else
    let e : LoopEnt := { start := th.pc + 4#64, stop := th.pc + BitVec.ofNat 64 (4 * len), remaining := n }
    .jump (setThread s t { th with lstack := e :: th.lstack }) (th.pc + 4#64)

/-- A loop whose guard reads 0 skips its body. -/
def loopSkip (t len : Nat) (s : State) : TRes := .jump s (loopExit (getThread s t).pc len)

/-- LOOP (R64); illegal on Uarra-S. -/
def execLoop (who : Agent) (f : FmtI) (s : State) : Host.Outcome State Fault Refusal :=
  .next (match who with
  | .thread t =>
    threadStep t (encI 0x53 f) none (loopSkip t f.imm.toNat) (loopEnter t (f.d.toNat * 64 + f.a.toNat) f.imm.toNat) s
  | _ => coreStep who (encI 0x53 f) none (fun _ _ c => .fall c) noRequest s)

/-- LOOPR (R64); illegal on Uarra-S. -/
def execLoopr (who : Agent) (f : FmtI) (s : State) : Host.Outcome State Fault Refusal :=
  .next (match who with
  | .thread t =>
    threadStep t (encI 0x54 f) none (loopSkip t f.imm.toNat) (fun s =>
      loopEnter t (min (rget (getThread s t).regs f.a.toNat).toNat (2 ^ f.d.toNat)) f.imm.toNat s) s
  | _ => coreStep who (encI 0x54 f) none (fun _ _ c => .fall c) noRequest s)

end Sys2Proof.Machine
end

