-- ==== Sys2Proof/Machine/GateEvents.lean ====
section
/-! DEFINITION. Machine/GateEvents.lean: supply, rails, reset sources and their release, option loading and start, sleep and
wake, and the verification of the boot image (R424 to R454, R477 to R479). -/

namespace Sys2Proof.Machine

/-! ### Supply and sources (R424, R436, R437) -/

/-- R424: VBAT rises above VBAT_ON: UV releases and, from Off, the Backup reset, since which SECONDS counts (R433). -/
def execVbatOnRise (s : State) : Host.Outcome State Fault Refusal :=
  let s := if bitOf s.gh.asserted 0 then { s with gh := { s.gh with backupAt := s.localNs } } else s
  .next (releaseSources s 0b11)

/-- R424. -/
def execVbatUvFall (s : State) : Host.Outcome State Fault Refusal := .next (raiseReset s 1)

/-- R424. -/
def execVbatOvRise (s : State) : Host.Outcome State Fault Refusal := .next (raiseReset s 2)

/-- R424. -/
def execVbatOvRelease (s : State) : Host.Outcome State Fault Refusal := .next (releaseSources s 0b100)

/-- R424, R433: everything is lost, and the Backup reset is held until VBAT_ON. -/
def execVbatPorFall (s : State) : Host.Outcome State Fault Refusal :=
  .next (
    let s := assertReset { s with gh := { s.gh with asserted := 0, relStep := 0 } } 0
    { s with gh := { s.gh with mode := .off, lockout := false, pgFails := 0, faultSrc := 0 } })

/-- R441: RESET_N is sampled only while the device does not drive it. -/
def execExt (s : State) : Host.Outcome State Fault Refusal := .next (if resetLow s then s else raiseReset s 4)

/-- R436. -/
def execTherm (s : State) : Host.Outcome State Fault Refusal := .next (raiseReset s 5)

/-- R436. -/
def execClk (s : State) : Host.Outcome State Fault Refusal := .next (raiseReset s 6)

/-- R437, R438: every source ends but those that VBAT holds, whose ends are events of their own. -/
def execResetRelease (s : State) : Host.Outcome State Fault Refusal := .next (releaseSources s ((2 ^ 21 - 1) ^^^ 0b111))

/-! ### Rails (R427, R428) -/

/-- R427: PGOOD of an enabled step rises; while the rails come up the next step begins.  At the rise of PGOOD3 the VIO cells
sense VIO, above 2.5 V or not, and hold that level until it falls (R510). -/
def execPgoodRise (step : Fin 6) (s : State) (vio : Bool := true) : Host.Outcome State Fault Refusal :=
  .next (if bitOf s.gh.pen step = false then s
    else
      let g := { s.gh with
        pgood := s.gh.pgood ||| 2 ^ step.val, vio33 := if step = 3 ∧ bitOf s.gh.pgood 3 = false then vio else s.gh.vio33 }
      { s with gh := if g.relStep ≥ 2 ∧ step.val < 5 then { g with pen := g.pen ||| 2 ^ (step.val + 1) } else g })

/-- The third start in a row that failed: power lockout, and the device counts as Dormant (R428). -/
def lockOut (s : State) : State :=
  setFaultSrc { s with gh := { s.gh with
    lockout := true, pen := 0, pgood := 0, inh := false, lastMode := s.gh.mode, mode := .dormant, relStep := 0, asserted := s.gh.asserted &&& 0b111
    seen := 0, pgFails := 0, sleepState := .none, resuming := false, timerAt := none } } 6 true

/-- R428: a PGOOD of an enabled step is late, or falls while the device runs. -/
def execPgFail (step : Fin 6) (s : State) : Host.Outcome State Fault Refusal :=
  .next (if bitOf s.gh.pen step = false then s
    else
      let starting := inReset s
      let s := raiseReset s 3
      let s := { s with gh := { s.gh with pgFails := if starting then s.gh.pgFails + 1 else 0 } }
      if s.gh.pgFails ≥ 3 then lockOut s else s)

/-- Dormant is entered as INH goes low: all but the Gatehouse has lost its supply (R426, R429, R452); of FAULT_SRC only MAINT ends, with
LOCKSTEP_BROKEN, and the wake's reset clears TRIAD and SAFE (R445). -/
def enterDormant (s : State) : State :=
  let m := s.gh.mode
  let src := s.gh.faultSrc
  let s := resetAll s 3
  { s with gh := { s.gh with mode := .dormant, lastMode := m, faultSrc := src &&& 0b1101111, inh := false, pen := 0, pgood := 0, entryDone := true, commitAt := s.localNs, relStep := 0 } }

/-- R427: the next rail of a Dormant entry goes down, and after PEN0 INH. -/
def execRailStepDown (s : State) : Host.Outcome State Fault Refusal :=
  .next (if s.gh.sleepState ≠ .committed ∨ s.gh.target ≠ .dormant ∨ s.gh.entryDone then s
    else if s.gh.pen = 0 then enterDormant s
    else
      let top := 2 ^ Nat.log2 s.gh.pen
      { s with gh := { s.gh with pen := s.gh.pen - top, pgood := s.gh.pgood &&& (63 ^^^ top) } })

/-! ### The release sequence (R434, R435, R438, R439, Table 15.6) -/

/-- The start accounting of R434. -/
def accountStart (s : State) : State :=
  let g := s.gh
  let now := seconds s
  let fresh := g.bootPending = false ∨ now > g.failT + 60
  setFaultSrc { s with gh := { g with
    rstCount := min (g.rstCount + 1) 65535
    failStarts := if fresh then 1 else min (g.failStarts + 1) 8
    failT := if fresh then now else g.failT
    bootPending := true } } 0 true

/-- The mode that a start selects: Recovery, Factory or Waking (Table 15.4). -/
def startMode (s : State) (bootsel : Nat) : Mode :=
  if bootsel = 2 ∨ s.gh.failStarts = 8 then .recovery
  else if bootsel = 3 then .factory
  else .waking

/-- Face reads its fuse block: a front end or transceiver whose trim record fails its CRC takes nominal values (R331). -/
def loadTrims (f : Face) : Face :=
  { f with
    trimsLoaded := true
    trimFail := (List.range 80).any f.fuseBad.contains
    ports := (List.range 56).foldl (fun t m => tblSet (FacePort.reset m) t m { tblGet (FacePort.reset m) t m with trimBad := f.fuseBad.contains m }) f.ports }

/-- TRIM_BAD of every front end and transceiver that uses nominal values (Table 10.12), posted as the event queue begins to run. -/
def postTrims (s : State) : State :=
  { s with events := ((List.range 80).foldl (fun s k =>
      if s.face.fuseBad.contains k then faceEvent s 0x56 0 (if k < 56 then k else if k < 72 then 0x80 + (k - 56) else 0xC0 + (k - 72)) 0
      else s) s).events }

/-- Option loading: straps, lifecycle, fuse block and start accounting. -/
def optionLoading (s : State) (bootsel : Nat) (split pairEn : Bool) : State :=
  let refused := bootsel == 3 && (lifecycle s == 1 || lifecycle s == 2)
  let s := accountStart { s with
    gh := { s.gh with bootsel := bootsel, splitStrap := split, strapRefused := refused, relStep := 5 }
    triad := { s.triad with split := split }
    pair := { s.pair with en := pairEn, role := if pairEn then .active else .off }
    face := loadTrims s.face }
  let m := startMode s (if refused then 0 else bootsel)
  let s := { s with gh := { s.gh with mode := m } }
  setFaultSrc (setFaultSrc s 3 (m == .recovery)) 5 split

/-- R439: once the rails or the PLLs allow it and no source is asserted. -/
def execOptionLoading (bootsel : BitVec 2) (split pairEn : Bool) (s : State) : Host.Outcome State Fault Refusal :=
  .next (if s.gh.asserted = 0 ∧ (s.gh.relStep = 4 ∨ (s.gh.relStep = 2 ∧ bitOf s.gh.pgood 3)) then optionLoading s bootsel.toNat split pairEn
    else s)

/-- Images that the boot tries (R478, R500). -/
def imageCount (s : State) : Nat :=
  if s.gh.mode = .recovery then 1 else if s.gh.mode = .factory then 0
  else if s.gh.bootsel = 1 then 1 else 2

/-- Whether the image comes from the host (R435, R500). -/
def hostImage (s : State) : Bool := s.gh.bootsel == 1 && s.gh.mode != .recovery

/-- Where the next image to try lies: its offset in the flash, or its host address (R478, R500). -/
def imagePlace (s : State) : Nat :=
  if s.gh.mode = .recovery then 0x2000000 else if hostImage s then s.host.bootAddr else 0x1000000 * s.vault.boot.tries

/-- The bytes that an image may have: 16 MiB, or BOOT_LEN of at most that (R478, R500). -/
def imageBound (s : State) : Nat := if hostImage s then (if s.host.bootLen ≤ 2 ^ 24 then s.host.bootLen else 0) else 2 ^ 24

/-- The Boot ROM runs: an accepted image boots; one that is not, for a section that fails its check too, gives way to the next, and after
the last one source ROM is raised (R432, R477 to R479). -/
def romCheck (s : State) : State :=
  let b := s.vault.boot
  if inReset s then s
  else if b.headerOk ∧ b.sound then (if b.booted ∨ s.triad.fault then s else bootRomRun s)
  else
    let s := { s with vault := { s.vault with boot := { b with headerOk := false } } }
    if imageCount s > 0 ∧ b.tries ≥ imageCount s then raiseReset s 8 else s

/-- R438: DRAM is ready; the time unit and the cores leave reset, and the voter tests itself first (R30, R71, R382). -/
def execDramInitDone (s : State) : Host.Outcome State Fault Refusal :=
  .next (if s.gh.relStep ≠ 5 ∨ s.gh.asserted ≠ 0 ∨ bitOf s.gh.pgood 5 = false then s
    else
      let s := { s with
        gh := { s.gh with relStep := 0, seen := 0, pgFails := 0, timerAt := none }
        time := { s.time with t0 := { TimeBase.stopped with running := true } }
        bench := { s.bench with running := true, startNs := 0, startLocal := s.localNs }
        vault := { s.vault with remaskAt := s.localNs } }
      let s := postTrims ((List.range 7).foldl resetCore s)
      romCheck (if selfTestFails s.triad.voter then triadFault s 5 else s))

/-- R432: BOOT_LIMIT_S seconds after the release that began Waking; the clock runs to it. -/
def execBootWdt (s : State) : Host.Outcome State Fault Refusal :=
  .next (if s.gh.bootPending = false ∨ s.gh.asserted ≠ 0 ∨ s.gh.mode = .off ∨ s.gh.mode = .dormant then s
    else raiseReset (advance s (s.gh.wakingAt + s.gh.bootLimit * 1000000000 - s.localNs)) 7)

/-! ### The boot image (R450, R476 to R479) -/

/-- The records of a port preset section: PORT_CFG records of 8 bytes. -/
def presetObj (b : List Byte) : Obj := { sub := 1, typ := 1, img := leBytes 4 (b.length / 8) ++ b, arg := 0 }

/-- Whether a section lies inside the image and its bytes there are those that its header entry names (R477, R478). -/
def sectionOk (bound : Nat) (header : List Byte) (sections : List (List Byte)) (i : Nat) : Bool :=
  let b := sections.getD i []
  decide (secOff header i + secLen header i ≤ bound) && b.length == secLen header i && shaBytes b == secHash header i

/-- The port preset applies once the header and the section's hash have passed (R479). -/
def applyPreset (s : State) (header : List Byte) (sections : List (List Byte)) : State :=
  match (List.range (suhildSections header)).find? (fun i => secType header i == 4) with
  | none => s
  | some i =>
    let o := presetObj (sections.getD i [])
    if sectionOk (imageBound s) header sections i ∧ (prepFace s [] [] [o] o).isEmpty then applyFace s o else s

/-- The next image to try is checked, its header and sections as they lie at imagePlace in the flash or in the host's memory; its anchor is BOOT_PK, in Recovery RECOVERY_PK. -/
def bootHeader (s : State) (header : List Byte) (sections : List (List Byte)) : State :=
  let recov := s.gh.mode == .recovery
  let role := if recov then 3 else 2
  let b := s.vault.boot
  let m := suhildModulus header
  let good := headerFormat header [if recov then 2 else 1] && decide (1856 ≤ imageBound s) && anchored s role m && svnOk s header
    && headerSigned header
  let spall := (List.range (suhildSections header)).any (fun i => secType header i == 3)
  let s := { s with vault := { s.vault with boot :=
    if good then
      { measure := (sha512 (imgBytes header 0 0x540)).toNat, svn := im32 header 8
        slot := match inForce s role with | some (i, _) => i | none => 0
        headerOk := true, sound := (List.range (suhildSections header)).all (sectionOk (imageBound s) header sections), spall := spall, tries := b.tries + 1
        place := imagePlace s, header := imgBytes header 0 1856, secs := sections, booted := false }
    else { b with tries := b.tries + 1 } } }
  romCheck (if good then applyPreset s header sections else s)

/-- R479: the hardware stage runs from the end of option loading; a host image waits for BOOT_GO (R500). -/
def execBootHeaderVerified (header : List Byte) (sections : List (List Byte)) (s : State) : Host.Outcome State Fault Refusal :=
  .next (
    let b := s.vault.boot
    let due := s.gh.asserted = 0 ∧ (s.gh.relStep = 0 ∨ s.gh.relStep = 5) ∧ (s.gh.mode = .waking ∨ s.gh.mode = .limp ∨ s.gh.mode = .recovery) ∧ s.gh.resuming = false
    if due ∧ b.headerOk = false ∧ b.tries < imageCount s ∧ (hostImage s = false ∨ s.host.bootGo) then bootHeader s header sections
    else s)

/-! ### Sleep and wake (R446 to R454) -/

/-- R450: WAKE0 to WAKE3 as WAKE_CFG arms them. -/
def execWakePinEdge (pin : Fin 4) (rising : Bool) (s : State) : Host.Outcome State Fault Refusal :=
  .next (
    let e := bits s.gh.edge (2 * pin.val + 1) (2 * pin.val)
    if bitOf s.gh.wakeEn pin ∧ (e = 2 ∨ e = b2n (!rising)) then wake s (pin.val + 1) 0 else s)

/-- R450: TIMER_S seconds have passed since the sleep commit; the clock runs to the earliest instant that its accuracy of 3 % allows. -/
def execWakeTimer (s : State) : Host.Outcome State Fault Refusal :=
  .next (match s.gh.timerAt with
    | some t =>
      if s.gh.timerS = 0 ∨ wakeArmed s 5 = false then s
      else
        let s := advance s (t + s.gh.timerS * 970000000 - s.localNs)
        wake { s with gh := { s.gh with timerAt := none } } 5 0
    | none => s)

/-- R450: the Gatehouse's own receivers, in Dormant. -/
def execGatehouseBusWake (lin : Bool) (ch : Fin 4) (s : State) : Host.Outcome State Fault Refusal :=
  .next (if ownReceivers s ∧ bitOf (if lin then s.gh.linEn else s.gh.canEn) ch then wake s (if lin then 7 else 6) ch else s)

/-- R447. -/
def execSleepCommit (s : State) : Host.Outcome State Fault Refusal := .next (sleepCommit s)

/-- Every transceiver in Normal goes to Standby (Table 10.7, R361). -/
def standbyAll (s : State) : State :=
  ((List.range 24).filter (fun c => (getPhy s c).mode == 1)).foldl (toStandby false) s

/-- R452: Retained is entered; a wake latched since the commit starts the resume at once (R449). -/
def execRetainedEntryDone (s : State) : Host.Outcome State Fault Refusal :=
  .next (if s.gh.sleepState ≠ .committed ∨ s.gh.target ≠ .retained ∨ s.gh.entryDone then s
    else
      let s := standbyAll (pairRetained s)
      let s := { s with
        bench := { s.bench with running := false }
        gh := { s.gh with mode := .retained, entryDone := true, commitAt := s.localNs } }
      if s.gh.seen ≠ 0 then startResume s else s)

/-- R449: 100 µs after INH went low, for a wake or a reset source that came after the commit; the clock runs to it. -/
def execDormantWakeStart (s : State) : Host.Outcome State Fault Refusal :=
  .next (if s.gh.mode ≠ .dormant ∨ s.gh.lockout ∨ s.gh.seen = 0 then s
    else wakeDormant (advance s (s.gh.commitAt + 100000 - s.localNs)))

/-- What each unit does on return from Retained: shaper buckets as RESET ZERO, policer buckets full, an empty verdict cache,
and the visits due before Retained and the seconds spent in it added to connections at their next visits (R215, R219; ends of chapters 6 and 8). -/
def unitsReturn (s : State) : State :=
  let secs := (s.localNs - s.gh.commitAt) / 1000000000
  { s with
    haul := { s.haul with
      shapers := s.haul.shapers.map (fun e => (e.1, { e.2 with ct := 0, pt := 0, cRem := 0, pRem := 0, cu := s.localNs, pu := s.localNs }))
      policers := s.haul.policers.map (fun e => (e.1, { e.2 with
        ct := ((e.2.cbs * 65536 : Nat) : Int), pt := ((e.2.pbs * 65536 : Nat) : Int), cRem := 0, pRem := 0, cu := s.localNs, pu := s.localNs })) }
    berm := { s.berm with
      cache := []
      conns := s.berm.conns.map (fun e => (e.1, e.2.map (fun c => { c with cachedI := none, cachedR := none, addIdle := c.addIdle + visitsDue e.1 c.visited s.gh.commitAt + secs, visited := s.localNs }))) } }

/-- Port nodes whose link stayed OK come up without UP_HOLD_MS (R323, R454). -/
def keptUp (s : State) : State :=
  (List.range 56).foldl (fun s m =>
    let x := getFp s m
    if x.kept then
      let s := setFp s m { x with kept := false, lpi := false, up := x.link && x.enable }
      if x.link && x.enable then faceEvent s 0x50 0 m (b2n x.leader * 16 + x.speed) else s
    else s) s

/-- R454: full service: boundaries restart from the next instant of R29, the WAKE event is posted, and the ports slept by TC10 retrain. -/
def execResumeComplete (s : State) : Host.Outcome State Fault Refusal :=
  .next (if s.gh.mode ≠ .waking ∨ s.gh.resuming = false then s
    else
      let s := unitsReturn s
      let s := { s with
        bench := { s.bench with running := true, startNs := (tbNs s.time.t0 : Nat), startLocal := s.localNs, disturbed := false }
        gh := { s.gh with resuming := false, timerAt := none } }
      let s := enterMode s s.pair.role.mode
      let s := ((List.range 32).filter (fun m => (getFp s m).tc10 == 2)).foldl tc10Train s
      holdUpdateAll (keptUp (wakeEvent (restorePhys s) 0x90)))

end Sys2Proof.Machine
end

