-- ==== Sys2Proof/Machine/Weigh.lean ====
section
/-! DEFINITION. Machine/Weigh.lean: the bytes of the Weighbridge counter store: header, directory and sections of a half
(R19 to R21, R25, R492, R493, R530, Table 17.4). -/

namespace Sys2Proof.Machine

/-- Byte i of the little-endian form of a value. -/
def byteAt (v i : Nat) : Byte := BitVec.ofNat 8 (v / 256 ^ i)

/-- The next multiple of n. -/
def alignUp (n v : Nat) : Nat := ceilDiv v n * n

/-- Subsystems that have a counter section, in the order of the model's directory. -/
def wbSubs : List Nat := [1, 2, 3, 4, 5, 6, 7, 8, 9, 10, 11, 15, 18]

/-- Counters of a subsystem in the order of its table (R493). -/
def wbCounters (n : Nat) : List Ctr := Ctr.all.filter (fun c => c.place.1 == n)

/-- The arrays of a subsystem's counters with their starts, each on a 64-byte boundary, from o on; and where they end. -/
def wbArrays : Nat → List Ctr → List (Ctr × Nat) × Nat
  | o, [] => ([], o)
  | o, c :: l =>
    let a := alignUp 64 o
    let r := wbArrays (a + 8 * c.place.2.2) l
    ((c, a) :: r.1, r.2)

/-- Where the queue samples and the histograms of the Haul scheduler's section start. -/
def wbSamples : Nat := alignUp 64 (wbArrays 0 (wbCounters 9)).2
def wbHist : Nat := wbSamples + 8 * 524288

/-- Bytes of a subsystem's section. -/
def wbLength (n : Nat) : Nat := if n = 9 then wbHist + 136 * 512 else (wbArrays 0 (wbCounters n)).2

/-- Directory of a snapshot: KIND, SUBSYS and LENGTH of each entry. -/
def wbDir (x : Snap) : List (Nat × Nat × Nat) := wbSubs.map (fun n => (0, n, wbLength n)) ++ [(1, 0, 32 * x.recs.length)]

/-- Starts of the sections: the manual leaves them open, so as many free 4 KiB pages as Config gives, modulo 16, lie before
each. -/
def wbStarts : Nat → Nat → List (Nat × Nat × Nat) → List (Nat × Nat × Nat × Nat)
  | _, _, [] => []
  | i, o, (k, n, z) :: l =>
    let a := alignUp 4096 o + 4096 * (Config.wbOffset i % 16)
    (a, k, n, z) :: wbStarts (i + 1) (a + z) l

/-- The directory with its offsets; the first section lies above the header. -/
def wbLayout (x : Snap) : List (Nat × Nat × Nat × Nat) := wbStarts 0 4096 (wbDir x)

/-- The 32 bytes of an event record (R494). -/
def recBytes (r : EvRec) : List Byte :=
  leBytes 8 r.seq ++ leBytes 8 (r.sub * 2 ^ 48 + r.time % 2 ^ 48) ++ (r.payload.flatMap (leBytes 4))

/-- Byte o of a counter section. -/
def wbCounterByte (x : Snap) (n o : Nat) : Byte :=
  match (wbArrays 0 (wbCounters n)).1.find? (fun e => decide (e.2 ≤ o) && decide (o < e.2 + 8 * e.1.place.2.2)) with
  | some (c, a) => byteAt (tblGet 0 x.counters (ctrKey c ((o - a) / 8))) ((o - a) % 8)
  | none =>
    if n = 9 ∧ wbSamples ≤ o ∧ o < wbHist then (tblGet (leBytes 8 0) x.samples ((o - wbSamples) / 8)).getD ((o - wbSamples) % 8) 0#8
    else if n = 9 ∧ wbHist ≤ o then byteAt (tblGet 0 x.hist ((o - wbHist) / 8)) ((o - wbHist) % 8)
    else 0#8

/-- The header, up to the time block. -/
def wbHeader (x : Snap) : List Byte :=
  leBytes 8 x.tick ++ leBytes 4 (1 * 65536 + (wbDir x).length) ++ leBytes 4 x.period ++ leBytes 4 x.recs.length ++ leBytes 4 x.lost
    ++ leBytes 40 0 ++ imgBytes x.time 0 64

/-- The directory. -/
def wbDirBytes (x : Snap) : List Byte :=
  (wbLayout x).flatMap (fun e => leBytes 4 (e.2.1 * 65536 + e.2.2.1) ++ leBytes 4 e.1 ++ leBytes 4 e.2.2.2 ++ leBytes 4 0)

/-- Byte o of a snapshot's half. -/
def snapByte (x : Snap) (o : Nat) : Byte :=
  if o < 0x80 then (wbHeader x).getD o 0#8
  else if o < 0x80 + 16 * (wbDir x).length then (wbDirBytes x).getD (o - 0x80) 0#8
  else match (wbLayout x).find? (fun e => decide (e.1 ≤ o) && decide (o < e.1 + e.2.2.2)) with
    | some (a, k, n, _) =>
      if k = 0 then wbCounterByte x n (o - a)
      else match x.recs[(o - a) / 32]? with
        | some r => (recBytes r).getD ((o - a) % 32) 0#8
        | none => 0#8
    | none => 0#8

/-- Byte o of the counter store; a half reads zero until its first snapshot (R530). -/
def wbByte (s : State) (o : Nat) : Byte :=
  match tblGet none s.wb (o / 2 ^ 27 % 2) with
  | some x => snapByte x (o % 2 ^ 27)
  | none => 0#8

def wbBytes (s : State) (o n : Nat) : List Byte := (List.range n).map (fun i => wbByte s (o + i))

end Sys2Proof.Machine
end

