-- ==== Sys2Proof/Machine/HostRows.lean ====
section
/-! DEFINITION. Machine/HostRows.lean: the host port: link and credits, queue pairs, mailbox rings, latched reads, host
commands, the boot flash, debug tokens and the TAP (R28, R296, R408, R475, R483 to R490, R496 to R505). -/

namespace Sys2Proof.Machine

/-! ### The endpoint's fixed properties (Table 17.1)

Constants of the PCIe configuration space.  No command reads that space and no state of the device depends on the transfer
sizes, so nothing else of the model uses them. -/

/-- R483: Vendor ID. -/
def pcieVendor : BitVec 16 := 0x1F7A#16
/-- R483: Device ID. -/
def pcieDevice : BitVec 16 := 0x9640#16
/-- R483: Revision ID. -/
def pcieRevision : Byte := 0xB0#8
/-- R483: class code. -/
def pcieClass : BitVec 24 := 0x028000#24
/-- R483: bytes behind BAR0, the only BAR. -/
def pcieBar0 : Nat := 2 ^ 25
/-- R483: MSI-X vectors. -/
def pcieVectors : Nat := 68
/-- R483: bytes of the largest payload. -/
def pcieMaxPayload : Nat := 512
/-- R483: bytes of the largest read request. -/
def pcieMaxReadRequest : Nat := 4096
/-- R483: outstanding non-posted requests. -/
def pcieNonPosted : Nat := 64

/-! ### Link and credits (R408, R484) -/

/-- R484: the link comes up after option loading. -/
def execPcieLinkUp (width : Fin 3) (gen : Fin 4) (s : State) : Host.Outcome State Fault Refusal :=
  let loaded := s.gh.relStep == 0 || decide (5 ≤ s.gh.relStep)
  let live := match s.gh.mode with | .off => false | .dormant => false | .retained => false | _ => true
  .next (if loaded && live && !s.host.linkUp then
      { s with host := { s.host with linkUp := true, width := 2 ^ width.val, gen := gen.val + 1 } }
    else s)

/-- Port node 56 goes down: R244 runs, and a frame in transmission to the host is released with it. -/
def hostNodeDown (s : State) : State :=
  holdUpdateAll (abandonPort (portFlush s 56) 56)

/-- R408: credits of the given types have been withheld for 10 µs. -/
def execHostCreditStall (s : State) (posted nonPosted : Bool := true) : Host.Outcome State Fault Refusal :=
  .next (if s.host.linkUp = false ∨ s.fence.hostStall ∨ deviceRuns s = false ∨ (posted = false ∧ nonPosted = false) then s
    else
      let s := { s with fence := { s.fence with hostStall := true, stallSince := s.localNs } }
      let s := postEvent s 17 [0xA0 * 2 ^ 24 + b2n nonPosted * 2 + b2n posted, tick32 s, 0, 0]
      hostNodeDown (bump s .hostStalls 0 1))

/-- R408: credits return, and node 56 comes up. -/
def execHostCreditRecover (s : State) : Host.Outcome State Fault Refusal :=
  .next (if s.fence.hostStall = false ∨ deviceRuns s = false then s
    else
      let us := min ((s.localNs - s.fence.stallSince) / 1000) (2 ^ 32 - 1)
      let s := { s with fence := { s.fence with hostStall := false } }
      holdUpdateAll (postEvent s 17 [0xA1 * 2 ^ 24, tick32 s, us, 0]))

/-- R483: a function-level reset acts as a plane reset of the management domain. -/
def execFunctionLevelReset (s : State) : Host.Outcome State Fault Refusal :=
  .next (if s.host.linkUp ∧ deviceRuns s then managementReset { s with gh := { s.gh with reach := 1 } } else s)

/-! ### Queue pairs (R486 to R489) -/

/-- RX_SIZE or TX_SIZE as stored (Table 17.8). -/
def ringSize (n : Nat) : Nat := if 6 ≤ n ∧ n ≤ 16 then n else 6

/-- The control word of pair q is written: a rising EN starts the pair with its indices at zero, a falling one stops it. -/
def pairControl (s : State) (q : Nat) (en : Bool) (group rxSize txSize : Nat) : State :=
  let x := getPair s q
  if x.en then (if en then s else setPair' s q { x with en := false, stopped := true })
  else
    let x := { x with group := if group < 31 then group else x.group, rxSize := ringSize rxSize, txSize := ringSize txSize }
    setPair' s q (if en then
      { x with en := true, stopped := false, rxTail := 0, rxHead := 0, txTail := 0, txHead := 0, puntDrop := 0, puntTooLong := 0 } else x)

/-- Entries of z bytes that the host writes into a ring of host memory from an index on. -/
def ringPut (base z size : Nat) : Nat → List (List Byte) → Mem → Mem
  | _, [], m => m
  | i, e :: l, m => ringPut base z size (i + 1) l (memPut m (base + z * (i % 2 ^ size)) e)

/-- RX_TAIL or TX_TAIL is written. -/
def rxTailWrite (s : State) (q v : Nat) : State :=
  let x := getPair s q
  setPair' s q { x with rxTail := v % 2 ^ x.rxSize }
def txTailWrite (s : State) (q v : Nat) : State :=
  let x := getPair s q
  setPair' s q { x with txTail := v % 2 ^ x.txSize }

/-- R487. -/
def execQueuePairEnable (q : Fin 64) (group rxSize txSize : Fin 32) (s : State) : Host.Outcome State Fault Refusal :=
  .next (if readerRuns s .host then pairControl s q true group rxSize txSize else s)

/-- R487. -/
def execQueuePairDisable (q : Fin 64) (s : State) : Host.Outcome State Fault Refusal :=
  let x := getPair s q
  .next (if readerRuns s .host ∧ x.en then pairControl s q false x.group x.rxSize x.txSize else s)

/-- R487: the host writes RX entries behind the last one it posted, then RX_TAIL. -/
def execRxTailWrite (q : Fin 64) (tail : BitVec 16) (entries : List Byte) (s : State) : Host.Outcome State Fault Refusal :=
  .next (if readerRuns s .host = false then s
    else
      let x := getPair s q
      let l := imgRecs entries 0 64 (ceilDiv entries.length 64)
      rxTailWrite { s with host := { s.host with hostMem := ringPut x.rxBase 64 x.rxSize x.rxTail l s.host.hostMem } } q tail.toNat)

/-- R487: the host writes TX entries behind the last one it posted, then TX_TAIL. -/
def execTxTailWrite (q : Fin 64) (tail : BitVec 16) (entries : List Byte) (s : State) : Host.Outcome State Fault Refusal :=
  .next (if readerRuns s .host = false then s
    else
      let x := getPair s q
      let l := imgRecs entries 0 32 (ceilDiv entries.length 32)
      txTailWrite { s with host := { s.host with hostMem := ringPut x.txBase 32 x.txSize x.txTail l s.host.hostMem } } q tail.toNat)

/-- The words of the TX entry at the head of a pair's ring. -/
def txEntry (s : State) (x : QPair) : List Byte := memBytes s.host.hostMem (x.txBase + 32 * x.txHead) 32

/-- The device completes the TX entry at the head with a status; DONE is written last. -/
def completeTx (s : State) (q st : Nat) : State :=
  let x := getPair s q
  let e := txEntry s x
  let s := hostWrite s (x.txBase + 32 * x.txHead + 0x18) (leBytes 4 (2 ^ 31 + st))
  let s := setPair' s q { x with txHead := (x.txHead + 1) % 2 ^ x.txSize }
  if bitOf (im32 e 8) 26 then fireMsix s (4 + q) else s

/-- A TX entry of an OP is served when it stands at the head of a pair that runs; one that waits on a stalled host ends
with TIMEOUT (R408, R489). -/
def serveTx (s : State) (q op : Nat) (run : List Byte → QPair → State → State) : State :=
  let x := getPair s q
  let e := txEntry s x
  if deviceRuns s = false ∨ x.en = false ∨ x.stopped ∨ s.host.linkUp = false ∨ isFrozen s (pairMaster x) ∨ x.txHead = x.txTail
      ∨ bits (im32 e 8) 31 30 ≠ op then s
  else if s.fence.hostStall then completeTx s q stTIMEOUT
  else run e x s

/-- A FRAME entry: the frame that lies at ADDR in the host's memory, where the host has placed the given bytes, enters Screen at stage 1 as
a frame of node 56, with its FCS. -/
def txFrame (q : Nat) (bytes : List Byte) (e : List Byte) (_ : QPair) (s : State) : State :=
  let w := im32 e 8
  let n := bits w 22 0
  let s := hostWrite s (im64 e 0) (bytes.take n)
  if n < 64 ∨ n > 16383 then completeTx s q stDENIED
  else
    let b := withFcs (memBytes s.host.hostMem (im64 e 0) n)
    match takeCells (poolOf s 56 (ingressClass s 56 b)) (cellsFor b.length) s with
    | (s, none) => completeTx s q stEMPTY
    | (s, some cells) =>
      match takeDesc s with
      | none => completeTx (bump (freeCells s cells) .descDrop 0 1) q stEMPTY
      | some (d, s) =>
        let first := cells.headD 0
        let s := setChain s first (some { cells := cells, hold := 1, owner := 0x400, pending := false, data := memPut [] 0 b })
        let s := cells.foldl (writeCell 56) s
        let s := completeTx s q stOK
        screenFrame s { src := 56, bytes := b, ident := beNat (imgBytes b 6 6), handle := handleOf s first, desc := d,
                        rxTime := nowShort s, stamp := stampRecord 56 (timeSnap s), arrVc := none, sa := none, bad := false
                        req := if bitOf w 29 then some (bits w 28 27, im16 e 0x0E) else none }

/-- R489. -/
def execTxFrameEntry (q : Fin 64) (bytes : List Byte) (s : State) : Host.Outcome State Fault Refusal :=
  .next (serveTx s q 0 (txFrame q bytes) )

/-- A WB_COPY entry: a range that leaves the store is DENIED and freezes the group.  When a publication overtook the copy of a range in
one half, its tick word read differently after the copy: the bytes copied are a mixture, a free value, and the entry ends with STALE. -/
def wbCopy (q : Nat) (overtaken : Bool) (e : List Byte) (x : QPair) (s : State) : State :=
  let n := bits (im32 e 8) 22 0
  let o := im32 e 0x10
  if o + n > 2 ^ 28 then violate (completeTx s q stDENIED) (pairMaster x) vADDR (0x2800000000 + o) 0
  else if n < 8 ∨ n > 4194304 ∨ n % 8 ≠ 0 ∨ o % 8 ≠ 0 then completeTx s q stDENIED
  else if overtaken ∧ o / 2 ^ 27 = (o + n - 1) / 2 ^ 27 then
    let (v, s) := drawFree s
    completeTx (hostWrite s (im64 e 0) (leBytes n v)) q stSTALE
  else completeTx (hostWrite s (im64 e 0) (wbBytes s o n)) q stOK

/-- R489: overtaken says whether the half's tick word changed while the copy ran. -/
def execWbCopyEntry (q : Fin 64) (s : State) (overtaken : Bool := false) : Host.Outcome State Fault Refusal :=
  .next (serveTx s q 1 (wbCopy q overtaken))

/-! ### Mailbox rings (R497, R498, Table 17.6) -/

/-- The sender and the receiver of a ring. -/
def ringEnds (r : Nat) : Option (Nat × Nat) :=
  if r < 4 then some (mTALLY + r, mTRIAD)
  else if r = 4 then some (mHOST, mTRIAD)
  else if 8 ≤ r ∧ r < 12 then some (mTRIAD, mTALLY + (r - 8))
  else if r = 12 then some (mTRIAD, mHOST)
  else none

def getRing (s : State) (r : Nat) : MailRing := tblGet MailRing.reset s.host.rings r
def setRing (s : State) (r : Nat) (x : MailRing) : State := { s with host := { s.host with rings := tblSet MailRing.reset s.host.rings r x } }

/-- Whether a master may write the face of a ring. -/
def ringParty (r m : Nat) : Bool := match ringEnds r with
  | some (a, b) => m == a || m == b
  | none => false

/-- SEND = 1 with LEN. -/
def mailSend (s : State) (who : Reader) (r len : Nat) : State :=
  let m := readerMaster who
  match ringEnds r with
  | none => readerFault s who vADDR r
  | some (a, b) =>
    if m ≠ a then (if m = b then s else readerFault s who vADDR r)
    else if len < 4 ∨ len > 252 then readerFault s who vADDR r
    else
      let x := getRing s r
      if x.sends ≥ 64 then readerFault s who vBUDGET r
      else
        let x := { x with sends := x.sends + 1, len := len }
        if x.msgs.length ≥ 16 then setRing s r { x with result := stFULL }
        else
          let msg : MailMsg := { word0 := m * 2 ^ 22 + len * 256 + x.seq, bytes := memBytes x.staging 0 len }
          let s := setRing s r { x with msgs := x.msgs ++ [msg], result := stOK, seq := (x.seq + 1) % 256 }
          if r = 12 then fireMsix s 2 else s

/-- POP = 1. -/
def mailPop (s : State) (who : Reader) (r : Nat) : State :=
  let m := readerMaster who
  match ringEnds r with
  | none => readerFault s who vADDR r
  | some (a, b) =>
    if m ≠ b then (if m = a then s else readerFault s who vADDR r)
    else match (getRing s r).msgs with
      | [] => readerFault s who vADDR r
      | _ :: t => setRing s r { getRing s r with msgs := t }

/-- R498. -/
def execMailboxSend (who : Reader) (ring : Fin 16) (len : Byte) (s : State) : Host.Outcome State Fault Refusal :=
  .next (if readerRuns s who then voterIssue s who (fun s => mailSend s who ring len.toNat) else s)

/-- R498. -/
def execMailboxPop (who : Reader) (ring : Fin 16) (s : State) : Host.Outcome State Fault Refusal :=
  .next (if readerRuns s who then voterIssue s who (fun s => mailPop s who ring) else s)

/-- EVQ_ACK of a reader is written (R496). -/
def evqAck (s : State) (i v : Nat) : State := { s with host := { s.host with evqAck := tblSet 0 s.host.evqAck i (v % 2 ^ 32) } }

/-- R496: a reader writes its own acknowledgement. -/
def execEvqAckWrite (who : Reader) (value : BitVec 32) (s : State) : Host.Outcome State Fault Refusal :=
  let i := match who with
    | .triad => 5
    | .triadCore _ => 5
    | .tally c => c.val
    | .host => 4
  .next (if readerRuns s who then voterIssue s who (fun s => evqAck s i value.toNat) else s)

/-- R490: the Triad returns slots of its punt ring. -/
def execTpHeadWrite (value : BitVec 13) (s : State) : Host.Outcome State Fault Refusal :=
  .next (triadIssued s (fun s => { s with host := { s.host with tpHead := value.toNat } }))

/-! ### Accesses that a core judges by its level (R58, R366, R378, R379) -/

/-- The cores that issue a reader's accesses. -/
def readerCores (s : State) (who : Reader) : List Nat := match who with
  | .triad => agentCores s .triad
  | .triadCore i => agentCores s (.triadCore i)
  | .tally c => [3 + c.val]
  | .host => []

/-- An access by the cores of a reader: each meets the traps of its own level, what the others send out is voted where the Triad votes,
and what is issued is performed. -/
def coresAccess (s : State) (who : Reader) (trap : Nat → SCore → Option Nat) (tval : Word) (f : State → State) : State :=
  let ks := readerCores s who
  let copy (k : Nat) : Option Unit := if (trap k (getCore s k)).isSome then none else some ()
  let copies := (if readerVoted s who then ks.filter (fun k => !s.triad.excluded.getLsbD k) else ks).map (fun k => (k, copy k))
  let s := ks.foldl (fun s k => match trap k (getCore s k) with
    | some code => takeException s k code tval (getCore s k).pc
    | none => s) s
  match voteAll s (readerVoted s who) copies with
  | (s, some _) => f s
  | (s, none) => s

/-! ### Reads that do something (R28, R296, R475) -/

/-- TICK_COUNT_LO fills the reader's latch. -/
def readTickLo (s : State) (r : Nat) : State × Nat :=
  ({ s with bench := { s.bench with hiLatch := tblSet 0 s.bench.hiLatch r (s.bench.tickCount / 2 ^ 32 % 2 ^ 32) } }, s.bench.tickCount % 2 ^ 32)

/-- TBn_NS latches the base's other fields for the reader. -/
def readTbNs (s : State) (r n : Nat) : State × Nat :=
  let b := tbGet s.time n
  let x : TbLatch := { secLo := tbSec b % 2 ^ 32, secHi := tbSec b / 2 ^ 32, frac := tbFrac b }
  ({ s with time := { s.time with latches := tblSet TbLatch.zero s.time.latches (4 * r + n) x } }, tbNano b)

/-- TRNG: a fresh random word, zero while the TRNG has failed. -/
def readTrng (s : State) : State × Nat :=
  if s.vault.trngFail then (s, 0) else let (v, s) := drawFree s; (s, v % 2 ^ 32)

/-- The data of a read outside an instruction. -/
def readBack (r : State × Nat) : State := { r.1 with host := { r.1.host with readOut := r.2, completerAbort := false } }

/-- A read by a reader that issues nothing: a frozen host's non-posted request completes with Completer Abort (R415). -/
def refusedRead (s : State) (who : Reader) : State :=
  if who = .host ∧ deviceRuns s ∧ s.host.linkUp ∧ isFrozen s mHOST then { s with host := { s.host with completerAbort := true } } else s

/-- R28. -/
def execTickCountLoRead (who : Reader) (s : State) : Host.Outcome State Fault Refusal :=
  .next (if readerRuns s who then voterIssue s who (fun s => readBack (readTickLo s (readerIndex who))) else refusedRead s who)

/-- R296: window 10 is open to every reader (Table 1.5). -/
def execTbnNsRead (who : Reader) (tb : Fin 4) (s : State) : Host.Outcome State Fault Refusal :=
  .next (if readerRuns s who then voterIssue s who (fun s => readBack (readTbNs s (readerIndex who) tb)) else refusedRead s who)

/-- The internal address of the TRNG register (Table 16.12). -/
def trngAddr : Nat := 0x3000E00010

/-- R475: window 14 belongs to the Triad at Vault level; another master violates, and a lower level takes ACCESS. -/
def execTrngRead (who : Reader) (s : State) : Host.Outcome State Fault Refusal :=
  .next (if readerRuns s who = false then refusedRead s who
    else if readerMaster who = mTRIAD then
      coresAccess s who (fun _ c => if c.pl = 2#2 then none else some cACCESS) (BitVec.ofNat 64 trngAddr) (fun s => readBack (readTrng s))
    else readerFault s who vADDR trngAddr)

/-! ### Write-one-to-clear registers of the Gatehouse (R450, R456) -/

/-- Clears the bits of a number that read 1 in a mask. -/
def clearBits (n mask w : Nat) : Nat := n &&& ((2 ^ w - 1) ^^^ (mask % 2 ^ w))

def rstCauseClear (s : State) (v : Nat) : State := { s with gh := { s.gh with rstCause := clearBits s.gh.rstCause v 21 } }

/-- SRC, LATE and ABANDONED; FIRST and FIRST_DETAIL clear when SRC becomes zero. -/
def wakeSrcClear (s : State) (v : Nat) : State :=
  let src := clearBits s.gh.src v 8
  { s with gh := { s.gh with
    src := src, late := s.gh.late && !bitOf v 31, abandoned := s.gh.abandoned && !bitOf v 30
    first := if src = 0 then 0 else s.gh.first, firstDetail := if src = 0 then 0 else s.gh.firstDetail } }

/-- R456: a Tally core writes the register. -/
def execRstCauseClear (core : Fin 4) (value : BitVec 32) (s : State) : Host.Outcome State Fault Refusal :=
  .next (if readerRuns s (.tally core) then rstCauseClear s value.toNat else s)

/-- R450: a Tally core writes the register. -/
def execWakeSrcClear (core : Fin 4) (value : BitVec 32) (s : State) : Host.Outcome State Fault Refusal :=
  .next (if readerRuns s (.tally core) then wakeSrcClear s value.toNat else s)

/-! ### Host commands and boot (R499 to R501) -/

/-- XSPI_OWNER is written by a master: it takes a free controller under its own ID, and writing 0x3FF releases the controller. -/
def xspiWrite (s : State) (m v : Nat) : State :=
  let o := s.host.xspiOwner
  if (o = 0x3FF ∧ v = m) ∨ v = 0x3FF then { s with host := { s.host with xspiOwner := v } } else s

/-- R501: the Triad may only read control window 17 (Table 1.5). -/
def execXspiOwnerWrite (who : Reader) (owner : BitVec 10) (s : State) : Host.Outcome State Fault Refusal :=
  .next (if readerRuns s who = false then s
    else if readerMaster who = mTRIAD then voterIssue s who (fun s => readerFault s who vADDR 0x3001100034)
    else xspiWrite s (readerMaster who) owner.toNat)

/-- GO = 1: verification of the block in CMD_BLOCK begins, unless one is under way. -/
def hostGo (s : State) : State :=
  if s.host.cmdLive.isSome then s
  else { s with host := { s.host with cmdLive := some { bytes := memBytes s.host.cmdBlock 0 1088 } } }

/-- The host writes a command block, whose CMD the row names, and then GO = 1. -/
def hostCommand (s : State) (cmd : Byte) (block : List Byte) : State :=
  if readerRuns s .host = false then s
  else hostGo { s with host := { s.host with cmdBlock := memSet (memPut s.host.cmdBlock 0 (imgBytes block 0 1088)) 0 cmd } }

/-- R499. -/
def execHostRestartCmd (block : List Byte) (s : State) : Host.Outcome State Fault Refusal := .next (hostCommand s 1#8 block)

/-- R499. -/
def execHostColdCmd (block : List Byte) (s : State) : Host.Outcome State Fault Refusal := .next (hostCommand s 2#8 block)

/-- R499. -/
def execHostWarmCmd (block : List Byte) (s : State) : Host.Outcome State Fault Refusal := .next (hostCommand s 3#8 block)

/-- R499. -/
def execMgmtHostCmd (block : List Byte) (s : State) : Host.Outcome State Fault Refusal := .next (hostCommand s 4#8 block)

/-- Whether a command block passes every check of R499; reserved fields and MAGIC belong to its format (Table 17.7). -/
def cmdGood (s : State) (b : List Byte) : Bool :=
  let w := im32 b 0
  let modulus := imgBytes b 0x40 512
  let free := (inForce s 4).isNone && (lifecycle s == 0 || lifecycle s == 3)
  bits w 31 8 == 0x5A4C43 && decide (1 ≤ bits w 7 0) && decide (bits w 7 0 ≤ 4) && allZero (imgBytes b 4 12) && allZero (imgBytes b 0x20 32)
    && im64 b 0x10 == Config.serial.toNat && im64 b 0x18 == s.host.nonce && (free || anchored s 4 modulus)
    && pssVerify modulus (imgBytes b 0 0x40) (imgBytes b 0x240 512)

/-- A new CMD_NONCE. -/
def newNonce (s : State) : State := let (v, s) := drawFree s; { s with host := { s.host with nonce := v % 2 ^ 64 } }

/-- Verification of a host command completes: STATUS, the new nonce, vector 3, and the source that it asserts. -/
def hostComplete (s : State) : State :=
  match s.host.cmdLive with
  | none => s
  | some c =>
    let cmd := im8 c.bytes 0
    let st := if cmdGood s c.bytes = false then stBADSIG
      else if cmd = 1 ∧ s.triad.coasting = false ∧ s.gh.mode ≠ .maintenance then stDENIED
      else stOK
    let s := newNonce { s with host := { s.host with cmdLive := none, cmdStatus := st } }
    let s := fireMsix s 3
    if st ≠ stOK then s
    else match cmd with
      | 1 => controlReset s 17
      | 2 => raiseReset s 12
      | 3 => raiseReset s 13
      | _ => managementSource s 20

/-- R499. -/
def execHostCmdComplete (s : State) : Host.Outcome State Fault Refusal := .next (if deviceRuns s then hostComplete s else s)

/-- R500: BOOT_GO. -/
def execBootGo (s : State) : Host.Outcome State Fault Refusal :=
  .next (if readerRuns s .host then { s with host := { s.host with bootGo := true } } else s)

/-! ### Debug (R379, R380, R504, R505) -/

/-- A start of verification over so many bytes of the token buffer. -/
def dbgStart (s : State) (len : Nat) : State :=
  if s.host.dbgLive.isSome then s
  else if len < 1872 ∨ len > 4096 then { s with host := { s.host with dbgStatus := stDENIED } }
  else { s with host := { s.host with dbgLive := some { bytes := memBytes s.host.dbgWindow 0 len } } }

/-- The session attaches (R379); the mode changes from the modes that Table 15.4 names, and in Waking it stays (R430, log entry 142). -/
def dbgAttach (s : State) : State :=
  let s := dropLease s 4
  let t := s.triad
  let core := match t.debugCore with
    | some i => some i
    | none => [0, 1, 2].find? (fun i => !t.excluded.getLsbD i)
  let s := { s with
    triad := { t with lockstepBroken := true, debugCore := core }
    host := { s.host with dbgAttached := true } }
  match s.gh.mode with
  | .active | .lead | .follow | .rejoin | .limp => setFaultSrc { s with gh := { s.gh with mode := .maintenance } } 4 true
  | .recovery | .factory => setFaultSrc s 4 true
  | _ => s

/-- Whether a token holds the serial number and the current nonce, big-endian, in a DATA section. -/
def tokenBound (s : State) (img : List Byte) : Bool :=
  (List.range (suhildSections img)).any (fun i => secType img i == 6 && decide (16 ≤ secLen img i)
    && imgBytes img (secOff img i) 16 == beBytes 8 Config.serial.toNat ++ beBytes 8 s.host.nonce)

/-- Verification of a debug token completes. -/
def dbgComplete (s : State) : State :=
  match s.host.dbgLive with
  | none => s
  | some c =>
    let ok := (suhildCheck s c.bytes 4 [4]).2 && tokenBound s c.bytes
    let s := newNonce { s with host := { s.host with dbgLive := none, dbgStatus := if ok then stOK else stBADSIG } }
    if ok then dbgAttach s else s

/-- R505: the session detaches; LOCKSTEP_BROKEN stays (R380). -/
def dbgDetach (s : State) : State := { s with host := { s.host with dbgAttached := false } }

/-- R505: the host writes DBG_LEN with DBG_GO = 1. -/
def execDbgGo (len : BitVec 13) (s : State) : Host.Outcome State Fault Refusal :=
  .next (if readerRuns s .host then dbgStart { s with host := { s.host with dbgLen := len.toNat } } len.toNat else s)

/-- R505: DBG_DETACH = 1. -/
def execDbgDetach (s : State) : Host.Outcome State Fault Refusal := .next (if readerRuns s .host then dbgDetach s else s)

/-- R504. -/
def execDbgVerifyComplete (s : State) : Host.Outcome State Fault Refusal := .next (if deviceRuns s then dbgComplete s else s)

/-! ### The TAP (R503, R505, Table 17.10) -/

/-- Whether the TAP has power. -/
def tapLive (s : State) : Bool := match s.gh.mode with
  | .off => false
  | .dormant => false
  | _ => true

/-- The TAP selects an instruction. -/
def tapSelect (s : State) (i : Nat) : State := if tapLive s then { s with host := { s.host with tapIr := i } } else s

/-- The instruction that the TAP executes: EXTEST and CLAMP take effect only while source EXT holds the device in reset, and at any other
time BYPASS is executed in their place; so is it for a code that Table 17.10 does not list (R503, R505). -/
def tapActing (s : State) : Nat :=
  let i := s.host.tapIr
  if i = 0x00 ∨ i = 0x03 then (if bitOf s.gh.asserted 4 then i else 0xFF)
  else if i = 0x01 ∨ i = 0x02 ∨ i = 0x40 ∨ i = 0x41 then i else 0xFF

/-- R503: the balls take the levels of the boundary scan register while EXTEST acts. -/
def execExtest (s : State) : Host.Outcome State Fault Refusal := .next (tapSelect s 0x00)

/-- R503: Capture-DR loads the levels of the balls into the boundary scan register, whose order the spec does not give (a free value, log
entry 215), and what is shifted in takes their place. -/
def execSamplePreload (scan : List Bool) (s : State) : Host.Outcome State Fault Refusal :=
  .next (if tapLive s then
      let s := readBack ((drawFree (tapSelect s 0x01)).2, (drawFree s).1)
      { s with host := { s.host with tapScan := scan } }
    else s)

/-- R503. -/
def execIdcode (s : State) : Host.Outcome State Fault Refusal :=
  let s := tapSelect s 0x02
  .next (if tapLive s then readBack (s, 0xB964056B) else s)

/-- R503. -/
def execClamp (s : State) : Host.Outcome State Fault Refusal := .next (tapSelect s 0x03)

/-- R505: the code of BYPASS, or one that Table 17.10 does not list; a listed one belongs to its own row. -/
def execBypass (s : State) (code : Byte := 0xFF#8) : Host.Outcome State Fault Refusal :=
  .next (if [0x00, 0x01, 0x02, 0x03, 0x40, 0x41].contains code.toNat then s else tapSelect s code.toNat)

/-- One word into the token buffer at the write pointer; the buffer is 4 KiB. -/
def tokenWord (s : State) (w : BitVec 32) : State :=
  if s.host.tapPtr + 4 ≤ 4096 then
    { s with host := { s.host with dbgWindow := memPut s.host.dbgWindow s.host.tapPtr (leBytes 4 w.toNat), tapPtr := s.host.tapPtr + 4 } }
  else s

/-- R505: entry to DBG_TOKEN, then one Update-DR for each word. -/
def execDbgToken (words : List (BitVec 32)) (s : State) : Host.Outcome State Fault Refusal :=
  let s := tapSelect s 0x40
  .next (if tapLive s then words.foldl tokenWord { s with host := { s.host with tapPtr := 0 } } else s)

/-- What Capture-DR of DBG_CTRL loads. -/
def dbgCapture (s : State) : Nat := b2n s.host.dbgAttached * 512 + b2n s.host.dbgLive.isSome * 256 + s.host.dbgStatus % 256

/-- R505: Capture-DR of DBG_CTRL, then an Update-DR with bits 31 and 30 as given. -/
def dbgCtrl (s : State) (start detach : Bool) (len : Nat) : State :=
  if tapLive s then
    let s := tapSelect s 0x41
    let s := readBack (s, dbgCapture s)
    if deviceRuns s then
      let s := if detach then dbgDetach s else s
      if start then dbgStart s len else s
    else s
  else s

/-- R505: an Update-DR of DBG_CTRL with bit 31, and bit 30 as given. -/
def execDbgCtrlStart (len : BitVec 13) (s : State) (detach : Bool := false) : Host.Outcome State Fault Refusal :=
  .next (dbgCtrl s true detach len.toNat)

/-- R505: an Update-DR of DBG_CTRL with bit 31 zero and bit 30 as given. -/
def execDbgCtrlDetach (s : State) (detach : Bool := true) : Host.Outcome State Fault Refusal := .next (dbgCtrl s false detach 0)

/-- R505. -/
def execTestLogicReset (s : State) : Host.Outcome State Fault Refusal := .next (tapSelect s 0x02)

end Sys2Proof.Machine
end

