-- ==== Sys2Proof/Machine/Registers.lean ====
section
/-! DEFINITION. Machine/Registers.lean: what the registers of the device window and of the control windows read as (Tables
1.6 to 1.12, 3.2, 4.14 to 4.16, 5.9, 6.16, 7.14, 8.11, 9.12, 10.11, 11.12, 12.8, 13.11, 14.8, 15.14, 16.12 and 17.8).
An offset that no table lists reads zero. -/

namespace Sys2Proof.Machine

/-- A flag at a bit of a register. -/
def flagAt (b : Bool) (i : Nat) : Nat := b2n b * 2 ^ i

/-- Saturation at 16 bits. -/
def sat16 (n : Nat) : Nat := sat 16 n

/-- A signed value in w bits. -/
def twos (w : Nat) (v : Int) : Nat := (v % (2 ^ w : Nat)).toNat

/-- Bits of word k of a set of numbers (Tables 11.12 and 14.8). -/
def setWord (l : List Nat) (k : Nat) : Nat := ((l.filter (fun n => n / 32 == k)).map (fun n => 2 ^ (n % 32))).sum

/-! ### Device window (Table 1.6) -/

/-- TICK_COUNT_HI is the latch of reader r. -/
def deviceWord (s : State) (r o : Nat) : Nat :=
  match o with
  | 0x0000 => 0x00019640
  | 0x0004 => 0x000000B0
  | 0x0010 => s.bench.tickCount % 2 ^ 32
  | 0x0014 => tblGet 0 s.bench.hiLatch r
  | 0x0018 => s.bench.period
  | 0x001C => s.bench.oddCount * 65536 + flagAt s.bench.oddTick 8 + b2n s.bench.running
  | 0x0020 => s.bench.wbPublished
  | _ => 0

/-! ### Data-plane windows -/

/-- The status of a transceiver (Table 10.11). -/
def phyWord (x : BusPhy) (lin : Bool) : Nat :=
  x.mode * 2 ^ 30 + flagAt (x.fast && !lin) 29 + flagAt x.txdTimeout 28 + flagAt x.thermal 27 + flagAt x.short 26 + flagAt x.wakeSeen 25

/-- Face (Table 10.11). -/
def faceWord (s : State) (o : Nat) : Nat :=
  if o = 0 then ((List.range 4).map (fun q => tblGet 0 s.face.temp q % 256 * 256 ^ q)).sum
  else if o = 4 then flagAt s.face.trimsLoaded 31 + flagAt s.face.trimFail 30 + s.face.engines.length % 8
  else if 0x100 ≤ o ∧ o < 0x480 then
    let m := (o - 0x100) / 16
    let x := getFp s m
    match o % 16 with
    | 0 => flagAt x.link 31 + flagAt x.up 30 + x.speed * 2 ^ 26 + flagAt x.leader 25 + flagAt x.lpi 24 + x.tc10 * 2 ^ 21 + x.sqi * 2 ^ 18
        + flagAt (x.recal != 0) 17 + flagAt x.trimBad 16
        + flagAt (decide (32 ≤ m) && decide (m < 48) && (getPlca s (m - 32)).active) 15 + x.fec * 2 ^ 12
    | 4 => x.margin % 65536
    | 8 => x.calTemp % 256 * 2 ^ 24
    | _ => x.result * 2 ^ 29 + x.dist % 65536
  else if 0x500 ≤ o ∧ o < 0x540 then phyWord (getPhy s ((o - 0x500) / 4)) false
  else if 0x540 ≤ o ∧ o < 0x560 then phyWord (getPhy s (16 + (o - 0x540) / 4)) true
  else 0

/-- Whether engine group g has a free thread. -/
def groupReady (s : State) (g : Nat) : Bool := (List.range 64).any (fun i => threadFree s (64 * g + i))

/-- Screen (Tables 4.14 to 4.16). -/
def screenWord (s : State) (o : Nat) : Nat :=
  let cur := match s.screen.current with | some r => r.num | none => 0
  let old := match s.screen.older with | some r => r.num | none => 0
  match o with
  | 0 => flagAt (epochPending s) 18 + flagAt s.screen.older.isSome 17 + flagAt s.screen.current.isSome 16 + old * 256 + cur
  | 4 =>
    let c := if s.screen.current.isSome then sat16 (epochInFlight s cur) else 0
    let d := if s.screen.older.isSome then sat16 (epochInFlight s old) else 0
    c * 65536 + d
  | 8 => sat16 s.screen.dispatchQ.length * 65536 + ((List.range 8).map (fun g => flagAt (groupReady s g) g)).sum
  | _ => 0

/-- The engine array (Table 3.2). -/
def engineWord (s : State) (o : Nat) : Nat :=
  if o = 0 then
    let e := s.engine
    let old := match e.service with | some b => sat16 (inFlight s (!b)) | none => 0
    old * 65536 + flagAt e.switchDeferred 7 + flagAt e.armed.isSome 4 + flagAt (bankWritable s true) 3 + flagAt (bankWritable s false) 2
      + flagAt e.service.isSome 1 + b2n (e.service == some true)
  else 0

/-- Slots and overflow entries of a tier in use. -/
def usedSlots (l : Tbl LSlot) : Nat := (l.filter (fun e => e.2.used)).length

/-- The lookup complex (Table 5.9). -/
def lookupWord (s : State) (o : Nat) : Nat :=
  match o with
  | 0x00 => usedSlots s.lookup.onDie.slots
  | 0x04 => usedSlots s.lookup.onDie.ovf
  | 0x08 => usedSlots s.lookup.dram.slots
  | 0x0C => usedSlots s.lookup.dram.ovf
  | 0x10 => (s.lookup.domains.map (fun e => match e.2 with | some d => domainUnits d | none => 0)).sum
  | 0x14 => (s.lookup.tags.filter (fun e => e.2 != .free)).length
  | _ => 0

/-- The Berm (Table 6.16). -/
def bermWord (s : State) (o : Nat) : Nat :=
  match o with
  | 0 => flagAt (s.screen.current.isSome && specEn s (curEpoch s)) 31 + (s.berm.conns.filter (fun e => e.2.isSome)).length
  | 4 => (s.berm.cache.filter (fun e => e.2.isSome)).length
  | 8 => match s.berm.scrub with | e :: _ => 256 + e | [] => 0
  | _ => 0

/-- The Stockpile (Table 7.14, W7). -/
def stockWord (s : State) (o : Nat) : Nat :=
  match o with
  | 0 => (s.stock.bankUsed.map (·.2)).sum
  | 4 => 8388608 - (s.stock.descs.filter (·.2)).length
  | 8 => (s.haul.queues.filter (fun e => e.2.hold == .holding)).length
  | _ => 0

/-- The Hopper (Table 7.14, W8). -/
def hopperWord (s : State) (o : Nat) : Nat := if o < 128 then poolFree (getPool s (o / 4)) else 0

/-- HALT_BOUND_NS of a node (R289, R326). -/
def haltBound (s : State) (m : Nat) : Nat :=
  if bitOf s.haul.haltOut m = false ∨ portUp s m = false then 0xFFFFFFFF
  else
    let p := getPort s m
    let active := preemptActive s m
    let pre := if active then 143 + 64 * p.addFrag else 0
    let x := if (List.range 8).any (isExpress s m) then p.maxExpress else 0
    let ns := 200 + bytesNs (max pre (20 + x)) (portRate s m)
    if 32 ≤ m ∧ m < 48 then
      let c := getPlca s (m - 32)
      if c.active then
        ns + 100 * (20 + (c.nodeCount - 1) * (c.toTimer + (c.burstCnt + 1) * 8 * (8 + c.segMax + 12) + c.burstCnt * c.burstTimer))
      else 0xFFFFFFFE
    else ns

/-- The Haul scheduler (Table 8.11). -/
def haulWord (s : State) (o : Nat) : Nat :=
  if o = 0 then flagAt s.haul.stop 31 + s.haul.lastNode * 65536 + sat16 s.haul.haltCount
  else if 0x100 ≤ o ∧ o < 0x480 then
    let g := getGates s ((o - 0x100) / 16)
    let t := match g.pending with | some (_, t) => t | none => 0
    match o % 16 with
    | 0 =>
      flagAt g.active.isSome 31 + flagAt g.pending.isSome 30 + flagAt g.coast.isSome 29
        + (match g.pending with | some (l, _) => l.tb * 2048 | none => 0) + (match g.active with | some (l, _) => l.ents.length | none => 0)
    | 4 => t / 1000000000 / 2 ^ 32 % 65536
    | 8 => t / 1000000000 % 2 ^ 32
    | _ => t % 1000000000
  else if 0x500 ≤ o ∧ o < 0x5E0 then haltBound s ((o - 0x500) / 4)
  else if o = 0x600 then ((List.range 32).map (fun m => flagAt (preemptActive s m) m)).sum
  else 0

/-- The time unit (Table 9.12); TBn_SEC and TBn_FRAC are the latches of reader r. -/
def timeWord (s : State) (r o : Nat) : Nat :=
  if o < 0x10 then
    let b := tbGet s.time (o / 4)
    flagAt b.running 31 + flagAt b.slew.isSome 30 + b.stepSeq % 256
  else if o < 0x20 then twos 32 (tbGet s.time (o / 4 - 4)).rate
  else if 0x100 ≤ o ∧ o < 0x140 then
    let n := (o - 0x100) / 16
    let x := tblGet TbLatch.zero s.time.latches (4 * r + n)
    match o % 16 with
    | 0 => tbNano (tbGet s.time n)
    | 4 => x.secLo
    | 8 => x.frac * 65536 + x.secHi
    | _ => 0
  else if 0x200 ≤ o ∧ o < 0x3C0 then
    let x := tblGet TsPort.reset s.time.tsPorts ((o - 0x200) / 8)
    if o % 8 = 0 then x.rxLat % 2 ^ 24 else x.txLat % 2 ^ 24
  else if o = 0x400 then
    ((List.range 4).map (fun k => flagAt (getPpsOut s k).level k)).sum
      + flagAt (tblGet PpsIn.reset s.time.ppsIn 0).level 4 + flagAt (tblGet PpsIn.reset s.time.ppsIn 1).level 5
  else 0

/-- The Relay (Table 11.12). -/
def relayWord (s : State) (o : Nat) : Nat :=
  let r := s.relay
  if o = 0 then flagAt r.spallBad 2 + flagAt (!r.spallOff && (r.spallLoaded || !r.routes.isEmpty)) 1 + b2n r.spallLoaded
  else if 0x100 ≤ o ∧ o < 0x140 then
    let c := getCan s ((o - 0x100) / 4)
    c.state * 2 ^ 30 + min c.tecCount 255 * 256 + min c.recCount 255
  else if 0x140 ≤ o ∧ o < 0x160 then
    let k := (o - 0x140) / 4
    flagAt (linRuns s k) 31 + (getLin s k).slot % 64
  else if 0x1000 ≤ o ∧ o < 0x1200 then setWord s.fence.partners ((o - 0x1000) / 4)
  else 0

/-- The Pair unit (Table 13.11). -/
def pairWord (s : State) (o : Nat) : Nat :=
  let p := s.pair
  match o with
  | 0x00 => p.role.code * 2 ^ 29 + flagAt p.lane0 28 + flagAt p.lane1 27 + flagAt p.sync 26 + flagAt p.lagging 25 + flagAt p.lost 24
      + flagAt p.joinPending 23 + flagAt p.side 22 + p.peerRole * 2 ^ 19 + flagAt p.busHeld 18 + p.skew % 65536
  | 0x04 => p.lastRenew % 2 ^ 32
  | 0x08 => p.lastAck % 2 ^ 32
  | 0x0C => p.deltaBytes % 2 ^ 20
  | 0x10 => deltaMax s % 2 ^ 20
  | 0x14 => p.bulkLeft % 2 ^ 32
  | 0x18 => flagAt p.yieldOnLoss 7 + flagAt p.takeOnExpiry 6 + p.leaseLen % 32
  | _ => 0

/-- BLK_CTRL of a block (Table 15.14). -/
def blockWord (s : State) (n : Nat) : Nat :=
  let b := getBlock s n
  flagAt b.power 28 + b.result * 256 + flagAt b.busy 1 + b2n (blockIdle s n)

/-! ### Control and management windows -/

/-- The Triad's registers (Table 12.8). -/
def triadWord (s : State) (o : Nat) : Nat :=
  let t := s.triad
  match o with
  | 0x00 => flagAt t.split 31 + flagAt t.lockstepBroken 30 + flagAt t.fault 29 + flagAt t.coasting 28 + flagAt t.safe 27
      + t.coastCause * 2 ^ 24 + t.faultCause * 65536 + t.excluded.toNat * 256 + t.rejoinFail.toNat
  | 0x04 => flagAt t.safeStop 6 + t.coastLimit
  | 0x08 => t.maskedCount
  | 0x0C => t.latentCount
  | 0x10 => t.reloads
  | 0x14 => t.delayEccCorrected
  | _ => 0

/-- The bytes of a ring's head slot: word 0 and the message. -/
def headSlot (s : State) (r : Nat) : List Byte := match (getRing s r).msgs with
  | m :: _ => leBytes 4 m.word0 ++ m.bytes
  | [] => []

/-- Faces, staging areas and head slots of the mailbox rings, in windows 12 and 13. -/
def mailWord (s : State) (o : Nat) : Nat :=
  if 0x200 ≤ o ∧ o < 0x300 then
    let x := getRing s ((o - 0x200) / 16)
    if o % 16 = 0 then x.len * 65536 + x.result * 256 + x.msgs.length else 0
  else if 0x1000 ≤ o ∧ o < 0x2000 then leNat (memBytes (getRing s ((o - 0x1000) / 256)).staging (o % 256) 4)
  else if 0x2000 ≤ o ∧ o < 0x3000 then im32 (headSlot s ((o - 0x2000) / 256)) (o % 256)
  else 0

/-- Window 12 (Tables 12.8 and 17.8). -/
def controlWord (s : State) (o : Nat) : Nat :=
  match o with
  | 0x20 => tblGet 0 s.host.evqAck 5
  | 0x30 => s.host.tpTail
  | 0x34 => s.host.tpHead
  | 0x38 => s.host.tpDrop
  | _ => if o < 0x20 then triadWord s o else mailWord s o

/-- Window 13 (Table 17.8). -/
def tallyWord (s : State) (o : Nat) : Nat :=
  if o < 0x10 then
    let k := 3 + o / 4
    flagAt (!coreIdle s k) 31 + flagAt (getCore s k).stopped 30 + flagAt (isFrozen s (coreMaster k)) 29
  else if o < 0x24 then tblGet 0 s.host.evqAck (o / 4 - 4)
  else if o = 0x24 then s.host.dfaultLast
  else mailWord s o

/-- The Vault (Table 16.12). -/
def vaultWord (s : State) (o : Nat) : Nat :=
  match o with
  | 0x00 => lifecycle s * 2 ^ 30 + flagAt (getKey s 0).isSome 29 + flagAt (getKey s 9).isSome 28 + flagAt s.vault.trngFail 27
      + flagAt s.vault.sign.isSome 26 + flagAt s.vault.verify.isSome 25 + flagAt s.vault.fallbackUsed 23 + nextSlot s
  | 0x04 => s.vault.remaskMs
  | 0x08 => Config.serial.toNat % 2 ^ 32
  | 0x0C => Config.serial.toNat / 2 ^ 32
  | _ =>
    if 0x100 ≤ o ∧ o < 0x200 then
      let i := (o - 0x100) / 4
      slotState s i * 2 ^ 30 + (if slotState s i = 0 then 0 else (getOtp s i).header % 16)
    else if 0x200 ≤ o ∧ o < 0x600 then
      match getKey s ((o - 0x200) / 4) with
      | some k => 2 ^ 31 + flagAt k.stale 30 + flagAt k.exportable 29 + flagAt k.wide 28 + min k.parent 0xFF * 256 + k.depth
      | none => 0xFF00
    else 0

def SleepState.code : SleepState → Nat
  | .none => 0
  | .agreed => 1
  | .committed => 2

/-- FAULT_N is asserted while a bit of FAULT_SRC is set, and while RESET_N is low: from the assertion of a reset until its release, and in Off
and Dormant (R444, R516). -/
def faultAsserted (s : State) : Bool := resetLow s || s.gh.faultSrc != 0

/-- The Gatehouse (Table 15.14). -/
def gateWord (s : State) (o : Nat) : Nat :=
  let g := s.gh
  match o with
  | 0x00 => g.mode.code * 2 ^ 28 + g.sleepState.code * 2 ^ 26 + flagAt g.inh 25 + flagAt (faultAsserted s) 24 + g.pen % 64 * 65536
      + g.pgood % 64 * 256 + flagAt g.bootPending 4 + g.lastMode.code
  | 0x04 => g.rstCause
  | 0x08 => g.reach * 2 ^ 29 + sat16 g.rstCount
  | 0x0C => g.bootsel * 2 ^ 30 + flagAt g.splitStrap 29 + flagAt s.pair.en 28 + flagAt g.strapRefused 27 + flagAt g.lockout 26
      + g.failStarts % 16 * 65536
  | 0x10 => flagAt g.late 31 + flagAt g.abandoned 30 + g.firstDetail * 65536 + g.first * 4096 + g.src
  | 0x14 => seconds s
  | 0x18 => g.faultSrc
  | 0x1C => flagAt g.wdtEn 31 + flagAt g.escalate 30 + g.restartTicks * 2 ^ 24 + g.bootLimit * 65536
  | _ =>
    if 0x40 ≤ o ∧ o < 0x80 then tblGet 0 g.bkp ((o - 0x40) / 4)
    else if 0x400 ≤ o ∧ o < 0x800 then leNat (memBytes g.retmem (o - 0x400) 4)
    else if 0xF00 ≤ o ∧ o < 0xF18 then triadWord s (o - 0xF00)
    else 0

/-- A queue pair's registers (Table 17.8). -/
def qpairWord (s : State) (q o : Nat) : Nat :=
  let x := getPair s q
  match o with
  | 0x00 => x.rxBase % 2 ^ 32
  | 0x04 => x.rxBase / 2 ^ 32
  | 0x08 => x.txBase % 2 ^ 32
  | 0x0C => x.txBase / 2 ^ 32
  | 0x10 => flagAt x.en 31 + x.group * 2 ^ 26 + x.rxSize * 32 + x.txSize
  | 0x14 => x.rxTail
  | 0x18 => x.rxHead
  | 0x1C => x.txTail
  | 0x20 => x.txHead
  | 0x24 => flagAt (isFrozen s (pairMaster x)) 31 + flagAt x.stopped 30 + sat 16 (x.puntDrop + x.puntTooLong)
  | _ => 0

/-- Window 17 (Table 17.8). -/
def hostWord (s : State) (o : Nat) : Nat :=
  let h := s.host
  match o with
  | 0x00 => flagAt h.linkUp 31 + flagAt s.fence.hostStall 30 + h.width * 65536 + h.gen * 4096 + h.xspiOwner
  | 0x08 => h.bootAddr % 2 ^ 32
  | 0x0C => h.bootAddr / 2 ^ 32
  | 0x10 => h.bootLen
  | 0x20 => h.nonce % 2 ^ 32
  | 0x24 => h.nonce / 2 ^ 32
  | 0x30 => h.cmdStatus * 256 + b2n h.cmdLive.isSome
  | 0x34 => h.xspiOwner
  | 0x38 => dbgCapture s
  | 0x3C => h.dbgLen
  | _ =>
    if 0x400 ≤ o ∧ o < 0x840 then leNat (memBytes h.cmdBlock (o - 0x400) 4)
    else if 0x1000 ≤ o ∧ o < 0x2000 then qpairWord s ((o - 0x1000) / 64) (o % 64)
    else if 0x4000 ≤ o ∧ o < 0x5000 then leNat (memBytes h.dbgWindow (o - 0x4000) 4)
    else 0

/-- The Fence (Table 14.8). -/
def fenceWord (s : State) (o : Nat) : Nat :=
  let f := s.fence
  if o = 0 then flagAt (f.frozen.contains mTRIAD) 31 + flagAt f.hostStall 30 + f.frozen.length
  else if o = 4 then f.partners.length
  else if 0x10 ≤ o ∧ o < 0x20 then f.lastViolation.getD ((o - 0x10) / 4) 0
  else if 0x100 ≤ o ∧ o < 0x180 then setWord f.frozen ((o - 0x100) / 4)
  else 0

/-! ### A window's word -/

/-- Offset of BLK_CTRL (R442). -/
def blkOffset : Nat := 0xFFF00

/-- Whether a window holds BLK_CTRL. -/
def hasBlock (n : Nat) : Bool := (decide (1 ≤ n) && decide (n ≤ 11)) || n == 15

/-- What the register at an offset of window n holds for reader r; window 0 is the device window, window 2 holds no register
of its own (Table 1.4). -/
def windowWord (s : State) (r n o : Nat) : Nat :=
  if hasBlock n ∧ o = blkOffset then blockWord s n
  else match n with
  | 0 => deviceWord s r o
  | 1 => faceWord s o
  | 3 => screenWord s o
  | 4 => engineWord s o
  | 5 => lookupWord s o
  | 6 => bermWord s o
  | 7 => stockWord s o
  | 8 => hopperWord s o
  | 9 => haulWord s o
  | 10 => timeWord s r o
  | 11 => relayWord s o
  | 12 => controlWord s o
  | 13 => tallyWord s o
  | 14 => vaultWord s o
  | 15 => pairWord s o
  | 16 => gateWord s o
  | 17 => hostWord s o
  | 18 => fenceWord s o
  | _ => 0

/-- A read of that register: TICK_COUNT_LO and TBn_NS latch, and TRNG draws a word (R28, R296, R475). -/
def windowRead (s : State) (r n o : Nat) : State × Nat :=
  if n = 0 ∧ o = 0x10 then readTickLo s r
  else if n = 10 ∧ 0x100 ≤ o ∧ o < 0x140 ∧ o % 16 = 0 then readTbNs s r ((o - 0x100) / 16)
  else if n = 14 ∧ o = 0x10 then readTrng s
  else (s, windowWord s r n o)

end Sys2Proof.Machine
end

