-- ==== Sys2Proof/Machine/Map.lean ====
section
/-! DEFINITION. Machine/Map.lean: the internal address map: the rights of Table 1.5, what a read returns, and what a write to
a register does (R8, R9, R13, R24 to R28, R170, R171, R221, R381, R442, R456, R482, R487, R490, R498 to R501, R505). -/

namespace Sys2Proof.Machine

/-! ### Regions and rights (Tables 1.4 and 1.5) -/

def windowBase : Nat := 0x3000000000

/-- Window and offset of an address in the device window (0) or a control window (1 to 18). -/
def windowAt (a : Nat) : Option (Nat × Nat) :=
  if windowBase ≤ a ∧ a < windowBase + 19 * 0x100000 then some ((a - windowBase) / 0x100000, (a - windowBase) % 0x100000) else none

def tableBase : Nat := 0x180000000
def dieBase : Nat := 0x2000000000
def weighBase : Nat := 0x2800000000
def romBase : Nat := 0x3FF0000000

/-- Whether a master may read an address; the host reads the counter store through DMA queues only. -/
def mayRead (who : Reader) (a : Nat) : Bool :=
  match windowAt a with
  | some (n, _) => readerMaster who == mTRIAD || (n != 12 && n != 14)
  | none =>
    if tableBase ≤ a ∧ a < 0x200000000 then readerMaster who == mTRIAD
    else if dieBase ≤ a ∧ a < dieBase + 2 ^ 28 then readerMaster who == mTRIAD
    else if weighBase ≤ a ∧ a < weighBase + 2 ^ 28 then who != .host
    else decide (romBase ≤ a) && decide (a < romBase + 0x40000) && who != .host

/-- Offsets of window 13 that the host may write: the faces and staging areas of the rings, where the ring's ends decide (R498),
and its own EVQ_ACK. -/
def hostFace (o : Nat) : Bool :=
  (decide (0x200 ≤ o) && decide (o < 0x300)) || (decide (0x1000 ≤ o) && decide (o < 0x2000)) || o == 0x20

/-- Whether a master may write an address. -/
def mayWrite (who : Reader) (a : Nat) : Bool :=
  match windowAt a with
  | none => false
  | some (n, o) =>
    match who with
    | .triad => n == 12 || n == 14 || (hasBlock n && o / 4 * 4 == blkOffset)
    | .triadCore _ => n == 12 || n == 14 || (hasBlock n && o / 4 * 4 == blkOffset)
    | .tally _ => n == 13 || n == 16 || n == 17
    | .host => n == 17 || (n == 13 && hostFace (o / 4 * 4))

/-! ### Reads -/

/-- The control word of a slot or overflow entry (Table 5.4). -/
def slotControl (x : LSlot) : Nat :=
  flagAt x.used 63 + flagAt x.vis 62 + flagAt x.static 61 + flagAt x.hit 60 + flagAt x.strike 59 + flagAt x.swept 58 + x.tag * 2 ^ 56
    + x.width * 2 ^ 54 + x.part * 2 ^ 52 + x.ctag * 2 ^ 48 + x.table * 2 ^ 40 + flagAt x.pstatic 39

/-- The 32 bytes of a slot, and the 64 of an overflow entry (R170). -/
def slotBytes (x : LSlot) : List Byte := leBytes 8 x.keyw ++ leBytes 8 x.data ++ leBytes 8 (slotControl x) ++ leBytes 8 x.pdata
def ovfBytes (x : LSlot) : List Byte := leBytes 32 x.keyw ++ leBytes 8 x.data ++ leBytes 8 (slotControl x) ++ leBytes 8 x.pdata ++ leBytes 8 0

/-- A frame of a queue with the index of the frame behind it. -/
def findDesc (i : Nat) : List Desc → Option (Desc × Nat)
  | [] => none
  | d :: t => if d.idx = i then some (d, match t with | e :: _ => e.idx | [] => 0xFFFFFFFF) else findDesc i t

/-- The 32 bytes of a frame descriptor (Table 7.3). -/
def descBytes (s : State) (d : Desc) (next : Nat) : List Byte :=
  let cs := (match getChain s (d.handle % 2 ^ 25) with | some c => c.cells | none => [])
  let far := (cs.filter (fun c => (getCell s c).bank.isNone && !(getCell s c).writing)).length
  leBytes 4 d.handle ++ leBytes 4 (flagAt d.spec 31 + flagAt d.cut 30 + d.len * 65536 + d.dp * 16384 + flagAt d.copy 13 + d.template)
    ++ leBytes 4 d.queue ++ leBytes 4 (d.seq % 65536 * 65536 + d.src * 1024) ++ leBytes 8 (d.rxTime % 2 ^ 48) ++ leBytes 4 next
    ++ leBytes 4 (far * 128 + d.cells)

/-- The descriptor with an index among the frames in transmission, parked or on a spoil list. -/
def heldDesc (s : State) (i : Nat) : Option Desc :=
  let out := (List.range 64).flatMap (fun m =>
    let p := getPort s m
    ((p.tx.toList ++ p.preempted.toList ++ p.decided.toList ++ p.ended).filter (fun t => !t.halt)).map (·.desc))
  (out ++ s.stock.spoil.flatMap (fun e => e.2.map (·.desc))).find? (fun d => d.idx == i)

/-- n bytes of the frame descriptor store (Table 7.3).  NEXT of a frame that stands on no queue, and a descriptor that no frame has
reached, hold what the manual leaves open. -/
def descRead (s : State) (o n : Nat) : Option Nat :=
  match s.haul.queues.findSome? (fun e => findDesc (o / 32) e.2.frames) with
  | some r => some (leNat (imgBytes (descBytes s r.1 r.2) (o % 32) n))
  | none => match heldDesc s (o / 32) with
    | some d => if o % 32 < 28 ∧ 24 < o % 32 + n then none else some (leNat (imgBytes (descBytes s d 0) (o % 32) n))
    | none => none

/-- What the DRAM tier holds at a place: an entry of the present stores, else what a Warm reset kept there (Table 0.7). -/
def heldSlot (now kept : Tbl LSlot) (i : Nat) : LSlot := match now.find? (fun e => e.1 == i) with
  | some e => e.2
  | none => tblGet LSlot.empty kept i

/-- n bytes at an address that is readable and no register; none where the layout or the content is not architectural. -/
def memoryRead (s : State) (a n : Nat) : Option Nat :=
  if romBase ≤ a then some (leNat ((List.range n).map (fun i => Config.bootByte (a - romBase + i))))
  else if weighBase ≤ a then some (leNat (wbBytes s (a - weighBase) n))
  else if dieBase ≤ a then
    let o := a - dieBase
    if o < 0x2000000 then some (leNat (imgBytes (slotBytes (tblGet LSlot.empty s.lookup.onDie.slots (o / 32))) (o % 32) n))
    else if o < 0x2080000 then some (leNat (imgBytes (ovfBytes (tblGet LSlot.empty s.lookup.onDie.ovf ((o - 0x2000000) / 64))) (o % 64) n))
    else none
  else
    let o := a - tableBase
    if o < 0x20000000 then some (leNat (imgBytes (slotBytes (heldSlot s.lookup.dram.slots s.lookup.dram.keptSlots (o / 32))) (o % 32) n))
    else if o < 0x20400000 then
      some (leNat (imgBytes (ovfBytes (heldSlot s.lookup.dram.ovf s.lookup.dram.keptOvf ((o - 0x20000000) / 64))) (o % 64) n))
    else if 0x23000000 ≤ o ∧ o < 0x24000000 then some (leNat (memBytes s.host.tpRing (o - 0x23000000) n))
    else if 0x36000000 ≤ o ∧ o < 0x46000000 then descRead s (o - 0x36000000) n
    else if 0x46000000 ≤ o ∧ o < 0x56000000 then some (leNat (wbBytes s (o - 0x46000000) n))
    else none

/-- A read of n bytes, 1, 2, 4 or 8, at a multiple of n that the master may read. -/
def mapRead (s : State) (who : Reader) (a n : Nat) : State × Nat :=
  let r := readerIndex who
  match windowAt a with
  | some (w, o) =>
    if n = 8 then
      let (s, lo) := windowRead s r w o
      let (s, hi) := windowRead s r w (o + 4)
      (s, lo + hi * 2 ^ 32)
    else
      let (s, v) := windowRead s r w (o / 4 * 4)
      (s, v / 256 ^ (o % 4) % 256 ^ n)
  | none =>
    match memoryRead s a n with
    | some v => (s, v)
    | none =>
      -- what is left open of the lower or the upper half alone leaves the other half as it is
      let (v, s) := drawFree s
      if n = 8 then
        (s, (memoryRead s a 4).getD (v % 2 ^ 32) + (memoryRead s (a + 4) 4).getD (v / 2 ^ 32 % 2 ^ 32) * 2 ^ 32)
      else (s, v % 256 ^ n)

/-! ### Writes -/

/-- A write to the mailbox registers: a ring that the master is no end of violates; the sender writes the staging area, and LEN
with or without SEND; the receiver pops (R498). -/
def mailStore (s : State) (who : Reader) (o v : Nat) : State :=
  let m := readerMaster who
  let sender (r : Nat) : Bool := match ringEnds r with | some (a, _) => m == a | none => false
  if 0x200 ≤ o ∧ o < 0x300 then
    let r := (o - 0x200) / 16
    if ringParty r m = false then readerFault s who vADDR r
    else if o % 16 ≠ 0 then s
    else
      let s := if bitOf v 30 then mailPop s who r else s
      if bitOf v 31 then mailSend s who r (bits v 23 16)
      else if sender r then setRing s r { getRing s r with len := bits v 23 16 }
      else s
  else if 0x1000 ≤ o ∧ o < 0x2000 then
    let r := (o - 0x1000) / 256
    if ringParty r m = false then readerFault s who vADDR r
    else if sender r then setRing s r { getRing s r with staging := memPut (getRing s r).staging (o % 256) (leBytes 4 v) }
    else s
  else s

/-- BLK_CTRL: POWER, then RESET_REQ (R442). -/
def blockStore (s : State) (n v : Nat) : State :=
  let s := powerWrite s n (bitOf v 28)
  if bitOf v 31 then resetReq s n else s

/-- Window 12: TRIAD_CFG, EVQ_ACK_T, TP_HEAD and the mailbox registers. -/
def controlStore (s : State) (who : Reader) (o v : Nat) : State :=
  match o with
  -- in the safe output state STOP_OUT follows SAFE_STOP = 1 (R375)
  | 0x04 => { s with
      triad := { s.triad with safeStop := bitOf v 6, coastLimit := bits v 5 0 }
      haul := { s.haul with stop := s.haul.stop || (s.triad.safe && bitOf v 6) } }
  | 0x20 => evqAck s 5 v
  | 0x34 => { s with host := { s.host with tpHead := bits v 12 0 } }
  | _ => mailStore s who o v

/-- Window 14: REMASK_MS. -/
def vaultStore (s : State) (o v : Nat) : State :=
  if o = 4 then
    let m := bits v 6 0
    { s with vault := { s.vault with remaskMs := if 1 ≤ m ∧ m ≤ 100 then m else 10 } }
  else s

/-- Window 13: EVQ_ACK and the mailbox registers. -/
def tallyStore (s : State) (who : Reader) (o v : Nat) : State :=
  if 0x10 ≤ o ∧ o < 0x24 then evqAck s (o / 4 - 4) v else mailStore s who o v

/-- Window 16: RST_CAUSE, WAKE_SRC, the backup registers and the retained memory. -/
def gateStore (s : State) (o v : Nat) : State :=
  if o = 4 then rstCauseClear s v
  else if o = 0x10 then wakeSrcClear s v
  else if 0x40 ≤ o ∧ o < 0x80 then { s with gh := { s.gh with bkp := tblSet 0 s.gh.bkp ((o - 0x40) / 4) v } }
  else if 0x400 ≤ o ∧ o < 0x800 then { s with gh := { s.gh with retmem := memPut s.gh.retmem (o - 0x400) (leBytes 4 v) } }
  else s

/-- The low or high half of a number replaced. -/
def lowHalf (old v : Nat) : Nat := old / 2 ^ 32 * 2 ^ 32 + v
def highHalf (old v : Nat) : Nat := v * 2 ^ 32 + old % 2 ^ 32

/-- A queue pair: its bases, kept 64-byte aligned and ignored while EN = 1, its control word and its tails (R487). -/
def qpairStore (s : State) (q o v : Nat) : State :=
  let x := getPair s q
  let rx (a : Nat) : State := if x.en then s else setPair' s q { x with rxBase := a / 64 * 64 }
  let tx (a : Nat) : State := if x.en then s else setPair' s q { x with txBase := a / 64 * 64 }
  match o with
  | 0x00 => rx (lowHalf x.rxBase v)
  | 0x04 => rx (highHalf x.rxBase v)
  | 0x08 => tx (lowHalf x.txBase v)
  | 0x0C => tx (highHalf x.txBase v)
  | 0x10 => pairControl s q (bitOf v 31) (bits v 30 26) (bits v 9 5) (bits v 4 0)
  | 0x14 => rxTailWrite s q (v % 65536)
  | 0x1C => txTailWrite s q (v % 65536)
  | _ => s

/-- Window 17. -/
def hostStore (s : State) (who : Reader) (o v : Nat) : State :=
  let h := s.host
  match o with
  | 0x08 => { s with host := { h with bootAddr := lowHalf h.bootAddr v } }
  | 0x0C => { s with host := { h with bootAddr := highHalf h.bootAddr v } }
  | 0x10 => { s with host := { h with bootLen := v } }
  | 0x14 => if bitOf v 31 then { s with host := { h with bootGo := true } } else s
  | 0x30 => if bitOf v 31 then hostGo s else s
  | 0x34 => xspiWrite s (readerMaster who) (bits v 9 0)
  | 0x3C =>
    let s := { s with host := { h with dbgLen := bits v 12 0 } }
    let s := if bitOf v 30 then dbgDetach s else s
    if bitOf v 31 then dbgStart s (bits v 12 0) else s
  | _ =>
    if 0x400 ≤ o ∧ o < 0x840 then { s with host := { h with cmdBlock := memPut h.cmdBlock (o - 0x400) (leBytes 4 v) } }
    else if 0x1000 ≤ o ∧ o < 0x2000 then qpairStore s ((o - 0x1000) / 64) (o % 64) v
    else if 0x4000 ≤ o ∧ o < 0x5000 then { s with host := { h with dbgWindow := memPut h.dbgWindow (o - 0x4000) (leBytes 4 v) } }
    else s

/-- A word written to window n at a multiple of 4: read-only fields and reserved bits ignore it (R8, R9). -/
def windowStore (s : State) (who : Reader) (n o v : Nat) : State :=
  if hasBlock n then (if o = blkOffset then blockStore s n v else s)
  else match n with
  | 12 => controlStore s who o v
  | 13 => tallyStore s who o v
  | 14 => vaultStore s o v
  | 16 => gateStore s o v
  | 17 => hostStore s who o v
  | _ => s

/-- Whether the bits of a register clear where ones are written. -/
def clearsOnOne (n o : Nat) : Bool := n == 16 && (o == 4 || o == 0x10)

/-- The word that a write of n bytes, 1 or 2 or 4, at byte i of a register's word makes: the other bytes keep what the register
holds, and clear nothing. -/
def mergeWord (old i n v : Nat) : Nat :=
  old % 256 ^ i + v % 256 ^ n * 256 ^ i + old / 256 ^ (i + n) * 256 ^ (i + n)

/-- A write of n bytes, 1, 2, 4 or 8, at a multiple of n that the master may write. -/
def mapWrite (s : State) (who : Reader) (a n v : Nat) : State :=
  match windowAt a with
  | none => s
  | some (w, o) =>
    if n = 8 then
      let s := windowStore s who w o (v % 2 ^ 32)
      if isFrozen s (readerMaster who) then s else windowStore s who w (o + 4) (v / 2 ^ 32 % 2 ^ 32)
    else
      let b := o / 4 * 4
      let old := if clearsOnOne w b then 0 else windowWord s (readerIndex who) w b
      windowStore s who w b (mergeWord old (o % 4) n v)

/-- A write as the Fence passes or refuses it (R24, R27). -/
def fenceWrite (s : State) (who : Reader) (a n v : Nat) : State :=
  if mayWrite who a then mapWrite s who a n v else readerFault s who vADDR a

end Sys2Proof.Machine
end

