-- ==== Sys2Proof/Machine/Memory.lean ====
section
/-! DEFINITION. Machine/Memory.lean: the memory instructions of both profiles, and a register write by a core or the host
(R24, R27, R56 to R61, R80, R484, Table 2.7). -/

namespace Sys2Proof.Machine

/-- EA of a format M instruction (R56). -/
def effAddr (r : Regs) (f : FmtI) : Word := rget r f.a.toNat + sx 10 f.imm.toNat

/-! ### Uarra-P (R57) -/

/-- Whether a scratch access is in range and aligned. -/
def scratchOk (ea : Word) (n : Nat) : Bool := ea.toNat % n == 0 && decide (ea.toNat + n ≤ 2048)

/-- A thread's load from its scratch. -/
def threadLoad (t : Nat) (f : FmtI) (n : Nat) (conv : Nat → Word) (s : State) : TRes :=
  let th := getThread s t
  let ea := effAddr th.regs f
  if scratchOk ea n then .fall (setThread s t (th.setRegs (rset th.regs f.d.toNat (conv (leNat (memBytes th.scratch ea.toNat n))))))
  else .fault vADDR ea.toNat

/-- A thread's store to its scratch. -/
def threadStore (t : Nat) (f : FmtI) (n : Nat) (s : State) : TRes :=
  let th := getThread s t
  let ea := effAddr th.regs f
  if scratchOk ea n then
    .fall (setThread s t { th with scratch := memPut th.scratch ea.toNat (leBytes n (rget th.regs f.d.toNat).toNat) })
  else .fault vADDR ea.toNat

/-- LDK: the constants of the bank stamped on the packet. -/
def threadConst (t : Nat) (f : FmtI) (s : State) : TRes :=
  let th := getThread s t
  let ea := effAddr th.regs f
  match th.pkt with
  | none => .fall s
  | some p =>
    if ea.toNat % 8 = 0 ∧ ea.toNat < 65536 then
      .fall (setThread s t (th.setRegs (rset th.regs f.d.toNat (BitVec.ofNat 64 (leNat (memBytes (getBank s p.bank).consts ea.toNat 8))))))
    else .fault vADDR ea.toNat

/-! ### Uarra-S (R58, R61, R80) -/

/-- The trap of an access of n bytes by core k before anything leaves the core: ALIGN first, then the rights of User level, the
range, and window 14 below Vault level. -/
def accessTrap (k : Nat) (c : SCore) (ea : Word) (n bit : Nat) (amo : Bool) : Option Nat :=
  let a := ea.toNat
  if a % n ≠ 0 then some cALIGN
  else if userDenied c ea n bit then some cACCESS
  else if a ≥ 2 ^ 63 then (if amo ∨ a - 2 ^ 63 + n > localSize k then some cACCESS else none)
  else if a ≥ 2 ^ 40 then some cACCESS
  else if 0x3000E00000 ≤ a ∧ a ≤ 0x3000EFFFFF ∧ c.pl ≠ 2#2 then some cACCESS
  else none

/-- A core's load: from its own memory at once, or a request. -/
def coreLoad (f : FmtI) (n : Nat) (conv : Nat → Word) (k : Nat) (c : SCore) : CRes :=
  let ea := effAddr c.regs f
  match accessTrap k c ea n 2 false with
  | some code => .trap code ea
  | none =>
    if ea.toNat ≥ 2 ^ 63 then .fall (c.setRegs (rset c.regs f.d.toNat (conv (leNat (memBytes c.lmem (ea.toNat - 2 ^ 63) n)))))
    else .ask (.load ea.toNat n) (fun c l => c.setRegs (rset c.regs f.d.toNat (conv (l.headD 0))))

/-- A core's store: to its own memory at once, or a request. -/
def coreStore (f : FmtI) (n : Nat) (k : Nat) (c : SCore) : CRes :=
  let ea := effAddr c.regs f
  let v := rget c.regs f.d.toNat
  match accessTrap k c ea n 1 false with
  | some code => .trap code ea
  | none =>
    if ea.toNat ≥ 2 ^ 63 then .fall { c with lmem := memPut c.lmem (ea.toNat - 2 ^ 63) (leBytes n v.toNat) }
    else .ask (.store ea.toNat n (BitVec.ofNat 64 (v.toNat % 256 ^ n))) (fun c _ => c)

/-- AMOADD by a core (R59); User level needs both rights. -/
def coreAmo (f : FmtA) (k : Nat) (c : SCore) : CRes :=
  let ea := rget c.regs f.a.toNat
  let v := rget c.regs f.b.toNat
  match accessTrap k c ea 8 2 true with
  | some code => .trap code ea
  | none =>
    if userDenied c ea 8 1 then .trap cACCESS ea
    else .ask (.amo ea.toNat v) (fun c l => c.setRegs (rset c.regs f.d.toNat (BitVec.ofNat 64 (l.headD 0))))

/-- The reader that core k is. -/
def coreReader (k : Nat) : Reader := if k < 3 then .triad else .tally (Fin.ofNat 4 (k - 3))

/-- A write is answered unless it froze its master. -/
def storeReply (who : Reader) (s : State) (l : List Nat) : State × Reply :=
  if isFrozen s (readerMaster who) then (s, .refused) else (s, .data l)

/-- The Fence and the target perform a request of core m (R24, R27, R59). -/
def mapAccess (s : State) (m : Nat) (q : Req) : State × Reply :=
  let who := coreReader m
  match q with
  | .load a n =>
    if mayRead who a then
      let (s, v) := mapRead s who a n
      (s, .data [v])
    else (readerFault s who vADDR a, .refused)
  | .store a n v => storeReply who (fenceWrite s who a n v.toNat) []
  | .amo a v =>
    if mayRead who a && mayWrite who a then
      let (s, old) := mapRead s who a 8
      storeReply who (mapWrite s who a 8 ((old + v.toNat) % 2 ^ 64)) [old]
    else (readerFault s who vADDR a, .refused)
  | .plane _ _ _ _ => (s, .refused)

/-! ### Commands -/

/-- A load of either profile. -/
def loadOp (who : Agent) (op n : Nat) (conv : Nat → Word) (f : FmtI) (s : State) : State :=
  match who with
  | .thread t => threadStep t (encI op f) none TRes.fall (threadLoad t f n conv) s
  | _ => coreStep who (encI op f) none (fun _ k c => coreLoad f n conv k c) mapAccess s

/-- A store of either profile. -/
def storeOp (who : Agent) (op n : Nat) (f : FmtI) (s : State) : State :=
  match who with
  | .thread t => threadStep t (encI op f) none TRes.fall (threadStore t f n) s
  | _ => coreStep who (encI op f) none (fun _ k c => coreStore f n k c) mapAccess s

/-- LD8U (R56 to R58). -/
def execLd8u (who : Agent) (f : FmtI) (s : State) : Host.Outcome State Fault Refusal := .next (loadOp who 0x40 1 (BitVec.ofNat 64) f s)

/-- LD16U (R56 to R58). -/
def execLd16u (who : Agent) (f : FmtI) (s : State) : Host.Outcome State Fault Refusal := .next (loadOp who 0x41 2 (BitVec.ofNat 64) f s)

/-- LD32U (R56 to R58). -/
def execLd32u (who : Agent) (f : FmtI) (s : State) : Host.Outcome State Fault Refusal := .next (loadOp who 0x42 4 (BitVec.ofNat 64) f s)

/-- LD64 (R56 to R58). -/
def execLd64 (who : Agent) (f : FmtI) (s : State) : Host.Outcome State Fault Refusal := .next (loadOp who 0x43 8 (BitVec.ofNat 64) f s)

/-- LD8S (R56 to R58). -/
def execLd8s (who : Agent) (f : FmtI) (s : State) : Host.Outcome State Fault Refusal := .next (loadOp who 0x44 1 (sx 8) f s)

/-- LD16S (R56 to R58). -/
def execLd16s (who : Agent) (f : FmtI) (s : State) : Host.Outcome State Fault Refusal := .next (loadOp who 0x45 2 (sx 16) f s)

/-- LD32S (R56 to R58). -/
def execLd32s (who : Agent) (f : FmtI) (s : State) : Host.Outcome State Fault Refusal := .next (loadOp who 0x46 4 (sx 32) f s)

/-- ST8 (R56 to R58, R60). -/
def execSt8 (who : Agent) (f : FmtI) (s : State) : Host.Outcome State Fault Refusal := .next (storeOp who 0x48 1 f s)

/-- ST16 (R56 to R58, R60). -/
def execSt16 (who : Agent) (f : FmtI) (s : State) : Host.Outcome State Fault Refusal := .next (storeOp who 0x49 2 f s)

/-- ST32 (R56 to R58, R60). -/
def execSt32 (who : Agent) (f : FmtI) (s : State) : Host.Outcome State Fault Refusal := .next (storeOp who 0x4A 4 f s)

/-- ST64 (R56 to R58, R60). -/
def execSt64 (who : Agent) (f : FmtI) (s : State) : Host.Outcome State Fault Refusal := .next (storeOp who 0x4B 8 f s)

/-- LDK (R57); the encoding is illegal on Uarra-S. -/
def execLdk (who : Agent) (f : FmtI) (s : State) : Host.Outcome State Fault Refusal :=
  .next (match who with
    | .thread t => threadStep t (encI 0x4C f) none TRes.fall (threadConst t f) s
    | _ => coreStep who (encI 0x4C f) none (fun _ _ c => .fall c) noRequest s)

/-- AMOADD (R59); the encoding is illegal on Uarra-P. -/
def execAmoadd (who : Agent) (fn : BitVec 4) (f : FmtA) (s : State) : Host.Outcome State Fault Refusal :=
  .next (match who with
    | .thread t => threadStep t (encA 0x4E f fn.toNat) none TRes.fall TRes.fall s
    | _ => coreStep who (encA 0x4E f fn.toNat) none (fun _ k c => coreAmo f k c) mapAccess s)

/-- R8: a write of 4 or 8 bytes to a register by the Triad, a Tally core or the host.  A core's access first meets its traps
(R58); the host port answers what BAR0 does not accept with Unsupported Request (R484). -/
def execRegisterWrite (who : Reader) (addr : BitVec 40) (wide : Bool) (value : BitVec 64) (s : State) : Host.Outcome State Fault Refusal :=
  let a := addr.toNat
  let n := if wide then 8 else 4
  .next (if readerRuns s who = false then s
    else if who = .host then
      let bad := decide (a % n ≠ 0 ∨ a < windowBase ∨ windowBase + 0x2000000 ≤ a)
      let s := { s with host := { s.host with unsupported := bad } }
      if bad then s else fenceWrite s who a n value.toNat
    else coresAccess s who (fun k c => accessTrap k c (addr.zeroExtend 64) n 1 false) (addr.zeroExtend 64) (fun s => fenceWrite s who a n value.toNat))

end Sys2Proof.Machine
end

