-- ==== Sys2Proof/Machine/PairEvents.lean ====
section
/-! DEFINITION. Machine/PairEvents.lean: lanes and frames of the pair link (R384 to R400, R420). -/

namespace Sys2Proof.Machine

/-- Sets a lane bit. -/
def laneUp (s : State) (n : Nat) : State :=
  { s with pair := { s.pair with lane0 := s.pair.lane0 || n == 0, lane1 := s.pair.lane1 || n == 1, lostTick := none, peerGone := false } }

/-- R384: lanes train only while PAIR_EN was high, once Waking has completed, while the block has power and the outputs are not
safe (R375, R383, R442). -/
def execPairLaneUp (lane : Fin 2) (s : State) : Host.Outcome State Fault Refusal :=
  .next (if s.pair.en ∧ deviceRuns s ∧ s.gh.mode ≠ .waking ∧ isSafe s = false ∧ (tblGet Block.reset s.gh.blocks 15).power then laneUp s lane else s)

/-- R384. -/
def execPairLaneDown (lane : Fin 2) (s : State) : Host.Outcome State Fault Refusal := .next (laneDown s lane)

/-- Roles of devices that are paired. -/
def roleInPair (r : Nat) : Bool := decide (1 ≤ r) && decide (r ≤ 3)

/-- A BEAT of the peer (R385, R389, R400). -/
def beatReceive (s : State) (b : Beat) : State :=
  if pairUp s = false then s
  else
    let p := s.pair
    let sync := b.tick.toNat == s.bench.tickCount && decide (b.skew.toInt.natAbs ≤ 1000) && b.leaseLen.val == p.leaseLen
      && b.yieldOnLoss == p.yieldOnLoss && b.takeOnExpiry == p.takeOnExpiry
    let bulk := if p.role = .lead ∧ b.role.val = 3 then some (p.bulkTx.getD 0) else none
    let s := { s with pair := { p with
      side := !b.side, peerRole := b.role, skew := b.skew.toNat, sync := sync, bulkTx := bulk
      heir := if b.role.val = 0 then none else p.heir } }
    let s := if p.sync && !sync then pairEvent s 0x76 0 0 else s
    if b.tick.toNat = s.bench.tickCount ∧ roleInPair p.role.code ∧ roleInPair b.role ∧ b.digest.toNat ≠ p.digest then
      pairEvent (bump s .configDiverge 0 1) 0x75 0 p.digest
    else s

/-- R385. -/
def execBeatReceive (b : Beat) (s : State) : Host.Outcome State Fault Refusal := .next (beatReceive s b)

/-- R390: the ACK of a renewal. -/
def execAckReceive (tick : BitVec 32) (s : State) : Host.Outcome State Fault Refusal :=
  .next (if pairUp s ∧ s.pair.role = .lead then { s with pair := { s.pair with lastAck := tick.toNat, acked := true, heir := none } } else s)

/-- A REQ of the peer: granted when the device is not Lead and SYNC = 1; of two REQs of one TICK, the one whose SIDE is
(tick count mod 2) wins (R389). -/
def reqReceive (s : State) (tick : Nat) : State :=
  if pairUp s = false ∨ s.pair.role = .lead ∨ s.pair.sync = false then s
  else if s.pair.reqTick = some tick then
    if b2n s.pair.side = tick % 2 then s
    else pairSend { s with pair := { s.pair with contended := true } } 0x5
  else pairSend s 0x5

/-- R389. -/
def execReqReceive (tick : BitVec 32) (s : State) : Host.Outcome State Fault Refusal := .next (reqReceive s tick.toNat)

/-- R389: the GRANT of the REQ that waits. -/
def execGrantReceive (tick : BitVec 32) (s : State) : Host.Outcome State Fault Refusal :=
  .next (if pairUp s ∧ s.pair.reqTick = some tick.toNat then { s with pair := { s.pair with granted := true } } else s)

/-- R387: the Follow takes the lease at step 5 of the next boundary. -/
def execReleaseReceive (_tick : BitVec 32) (s : State) : Host.Outcome State Fault Refusal :=
  .next (if pairUp s ∧ s.pair.role = .follow then { s with pair := { s.pair with released := true } } else s)

/-- A chunk that fails its CRC: NAK (R397). -/
def badChunk (s : State) (lane index : Nat) : State := nak (bump s .frameCrcErr lane 1) index

/-- A chunk that has come, and with one lane up those below it that have not (R401). -/
def seeChunk (s : State) (index : Nat) : State :=
  nakGaps { s with pair := { s.pair with rxSeen := insertNat index s.pair.rxSeen, rxMiss := s.pair.rxMiss.filter (· != index) } } index

/-- A delta that has come whole: renewal, ACK and prepare (R390, R398). -/
def deltaComplete (s : State) (tick : Nat) (chunks : List Chunk) : State :=
  match deltaSeal chunks with
  | none => s
  | some x =>
    let s := { s with pair := { s.pair with deltaBytes := x.bytes % 2 ^ 20 } }
    let s := if x.renew then pairSend { s with pair := { s.pair with lastRenew := x.tick % 2 ^ 32 } } 0x3 else s
    if x.lag then lag s 1
    else match prepDelta s (deltaRecords chunks) with
      | some s => { s with pair := { s.pair with rx := some { tick := tick, chunks := chunks, ready := true } } }
      | none => lag s 4

/-- A chunk of the Lead's delta (R397, R398). -/
def deltaReceive (s : State) (lane tick : Nat) (c : Chunk) (good : Bool) : State :=
  if pairUp s = false ∨ pairPassive s = false ∨ s.pair.lagDue then s
  else if good = false then badChunk s lane c.index
  else
    let s := seeChunk s c.index
    let old := match s.pair.rx with
      | some r => if r.tick = tick then r else { tick := tick, chunks := [], ready := false }
      | none => { tick := tick, chunks := [], ready := false }
    if old.ready then s
    else
      let chunks := if old.chunks.any (fun x => x.index == c.index) then old.chunks else old.chunks ++ [c]
      let s := { s with pair := { s.pair with rx := some { tick := tick, chunks := chunks, ready := false } } }
      if deltaWhole chunks then deltaComplete s tick chunks else s

/-- R398. -/
def execDeltaReceive (lane : Fin 2) (tick : BitVec 32) (chunk : Chunk) (good : Bool) (s : State) : Host.Outcome State Fault Refusal :=
  .next (deltaReceive s lane tick.toNat chunk good)

/-- R400: bulk records wait for step 2 of the next boundary. -/
def execBulkReceive (lane : Fin 2) (_tick : BitVec 32) (chunk : Chunk) (good : Bool) (s : State) : Host.Outcome State Fault Refusal :=
  .next (if pairUp s = false ∨ s.pair.role ≠ .rejoin then s
    else if good = false then badChunk s lane chunk.index
    else if s.pair.rxSeen.contains chunk.index then s
    else seeChunk { s with pair := { s.pair with bulkRx := s.pair.bulkRx ++ chunk.recs, bulkLast := s.pair.bulkLast || chunk.last } } chunk.index)

/-! ### The Lead's chunks (R397, R400) -/

/-- Inserts by place. -/
def byPlace (e : Nat × DeltaRec) : List (Nat × DeltaRec) → List (Nat × DeltaRec)
  | [] => [e]
  | x :: t => if e.1 < x.1 then e :: x :: t else x :: byPlace e t

/-- The places of the walk in order: class, then item index; every generation function and every partner is an item, whatever its value. -/
def bulkPlaces (s : State) : List (Nat × DeltaRec) :=
  let ents (dram : Bool) : List (Nat × DeltaRec) := (tierEntries s dram).filterMap (fun e =>
    match getTable s e.2.table with
    | none => none
    | some x =>
      if slotVisible s e.2 then
        some (2 ^ 40 + e.2.table * 2 ^ 28 + (match e.1 with | .slot i => i | .ovf i => 2 ^ 25 + i),
              .entrySet e.2.table x.defn.bits (entryKey s dram e.1) (slotData s e.2))
      else none)
  let conns := s.berm.conns.filterMap (fun e => match e.2 with
    | some c => if c.cleared then none else some (2 ^ 41 + e.1, DeltaRec.connSet c.key (connWord e.1 c))
    | none => none)
  let inOrder (l : List (Nat × DeltaRec)) : List (Nat × DeltaRec) := l.foldl (fun l e => byPlace e l) []
  inOrder (ents false ++ ents true) ++ inOrder conns
    ++ (List.range 1024).map (fun f => (2 ^ 42 + f, DeltaRec.gen f (tblGet 0 s.pair.genCtr f)))
    ++ (List.range 4096).map (fun p => (2 ^ 43 + p, if partnerFrozen s p then DeltaRec.freeze p else .thaw p))

/-- Keeps the first records that fit in so many bytes. -/
def takeFit : Nat → List (Nat × DeltaRec) → List (Nat × DeltaRec)
  | _, [] => []
  | room, e :: t =>
    let n := 4 + (recBody e.2).length
    if n > room then [] else e :: takeFit (room - n) t

/-- The next BULK chunk, read from the live state, in what D_MAX leaves of the tick; the walk ends with LAST. -/
def bulkChunk (s : State) (pos : Nat) : State :=
  let rest := (bulkPlaces s).filter (fun e => decide (pos ≤ e.1))
  let room := min 4096 (deltaMax s - s.pair.deltaBytes - s.pair.bulkBytes)
  let l := takeFit room rest
  if l.isEmpty && !rest.isEmpty then s
  else
    let n := (l.map (fun e => 4 + (recBody e.2).length)).sum
    let c : Chunk := { index := s.pair.txSent.length, last := l.length == rest.length, recs := l.map (·.2), sealed := none }
    let next := match l.getLast? with
      | some e => e.1 + 1
      | none => pos
    pairSend { s with pair := { s.pair with
      bulkTx := if c.last then none else some next, bulkBytes := s.pair.bulkBytes + n, bulkLeft := rest.length - l.length
      txSent := s.pair.txSent ++ [c] } } 0x7 c.index

/-- TYPE of the frame of a chunk: BULK for a NAKed chunk behind the seal of the tick's delta. -/
def chunkType (s : State) (c : Chunk) : Nat := if s.pair.txSent.any (fun x => x.sealed.isSome && decide (x.index < c.index)) then 0x7 else 0x2

/-- R397, R400: the next chunk of the sealed delta, then of the bulk. -/
def execDeltaChunkSend (s : State) : Host.Outcome State Fault Refusal :=
  .next (if pairUp s = false then s
    else match s.pair.txChunks with
      | c :: t => pairSend { s with pair := { s.pair with txChunks := t, txSent := s.pair.txSent ++ [c] } } (chunkType s c) c.index
      | [] => match s.pair.bulkTx with
        | some pos => if s.pair.role = .lead then bulkChunk s pos else s
        | none => s)

/-- R397: a NAKed chunk of this tick is sent again. -/
def execNakReceive (lane : Fin 2) (index : BitVec 16) (s : State) : Host.Outcome State Fault Refusal :=
  .next (if pairUp s = false then s
    else
      let s := bump s .naks lane 1
      match s.pair.txSent.find? (fun c => c.index == index.toNat) with
      | some c => { s with pair := { s.pair with txChunks := c :: s.pair.txChunks } }
      | none => s)

/-- R420: a RESTART frame. -/
def execRestartFrameReceive (s : State) : Host.Outcome State Fault Refusal :=
  .next (if pairUp s = false then s
    else if s.triad.coasting then controlReset s 16
    else bump s .restartIgnored 0 1)

/-- R395: a recovery function that passed no frame for RESET_TICKS ticks. -/
def execRecoveryFunctionReset (func : Fin 1024) (s : State) : Host.Outcome State Fault Refusal :=
  .next (match tblGet none s.pair.recovery func with
    | none => s
    | some x =>
      if x.idle < x.resetTicks then s
      else bump { s with pair := { s.pair with recovery := tblSet none s.pair.recovery func (some { x with last := none, seen := 0, idle := 0 }) } } .seqResets func 1)

end Sys2Proof.Machine
end

