-- ==== Sys2Proof/Machine/RelayEvents.lean ====
section
/-! DEFINITION. Machine/RelayEvents.lean: CAN and LIN traffic through the Relay: frames into Screen, messages onto the
buses, and direct forwarding under the Spall set (R343, R350 to R357). -/

namespace Sys2Proof.Machine

/-! ### Transmit buffers and response buffers (R353, R355) -/

/-- Frames of a channel whose TX_LIFE_MS has passed are discarded (R353). -/
def canAged (s : State) (c : Nat) : State :=
  let x := getCan s c
  let old (e : CanMsg × Nat) : Bool := decide (e.2 + s.relay.txLife * 1000000 ≤ s.localNs)
  if x.bufs.any old then
    bump (setCan s c { x with bufs := x.bufs.filter (fun e => !old e) }) .txExpired c (x.bufs.filter old).length
  else s

/-- Places a frame in a channel's transmit buffers. -/
def canBuffer (s : State) (c : Nat) (m : CanMsg) : State :=
  let s := canAged s c
  let x := getCan s c
  if x.bufs.length ≥ 32 then bump s .txOverflow c 1 else setCan s c { x with bufs := x.bufs ++ [(m, s.localNs)] }

/-- Writes the response buffer of an identifier. -/
def linWrite (s : State) (l i : Nat) (payload : List Byte) : State :=
  let x := getLin s l
  let e := tblGet LinId.reset x.ids i
  setLin s l { x with ids := tblSet LinId.reset x.ids i { e with buf := some (fitBytes payload e.len) } }

/-! ### Frames of the Relay (R343, R351, Table 11.5) -/

/-- An IEEE 1722 ACF CAN message (its layout is IEEE 1722's: log entry 26). -/
def acfCan (m : CanMsg) (c time : Nat) : List Byte :=
  let n := ceilDiv m.payload.length 4 * 4
  beBytes 2 (0x01 * 512 + (16 + n) / 4)
    ++ beBytes 2 ((n - m.payload.length) * 2 ^ 14 + 2 ^ 13 + b2n m.rtr * 2 ^ 12 + b2n m.ide * 2 ^ 11 + b2n m.brs * 2 ^ 10 + b2n (m.fmt == .fd) * 2 ^ 9
        + b2n m.esi * 2 ^ 8 + c)
    ++ beBytes 8 time ++ beBytes 4 (m.id % 2 ^ 29) ++ fitBytes m.payload n

/-- An IEEE 1722 ACF LIN message. -/
def acfLin (l i time : Nat) (payload : List Byte) : List Byte :=
  let n := ceilDiv payload.length 4 * 4
  beBytes 2 (0x03 * 512 + (12 + n) / 4) ++ beBytes 2 ((n - payload.length) * 2 ^ 14 + 2 ^ 13 + l * 2 ^ 8 + i) ++ beBytes 8 time ++ fitBytes payload n

/-- The CAN XL message of Table 11.9. -/
def acfXl (m : CanMsg) (c time : Nat) : List Byte :=
  let q := 5 + ceilDiv m.payload.length 4
  beBytes 4 (0x78 * 2 ^ 25 + (if q > 511 then 0 else q) * 2 ^ 16 + 2 ^ 15 + b2n m.sec * 2 ^ 14 + b2n m.rrs * 2 ^ 13 + m.sdt % 256 * 2 ^ 5 + c)
    ++ beBytes 8 time ++ beBytes 4 (m.id % 2048 * 2 ^ 21 + m.vcid % 256 * 2 ^ 13 + (m.payload.length - 1) % 2048) ++ beBytes 4 m.af
    ++ fitBytes m.payload (4 * (q - 5))

/-- The frame of Table 11.5 around one message: NTSCF, or TSCF for CAN XL; code is 0x0080 + c or 0x00C0 + l. -/
def relayFrame (s : State) (xl : Bool) (code seq : Nat) (msg : List Byte) : List Byte :=
  let sid := beBytes 6 s.relay.sa ++ beBytes 2 code
  let hdr := if xl then
      beBytes 1 0x05 ++ beBytes 1 0x80 ++ beBytes 1 seq ++ beBytes 1 0 ++ sid ++ beBytes 4 0 ++ beBytes 4 0 ++ beBytes 2 msg.length ++ beBytes 2 0
    else beBytes 1 0x82 ++ beBytes 2 (0x8000 + msg.length) ++ beBytes 1 seq ++ sid
  withFcs (padFrame (beBytes 6 s.relay.da ++ beBytes 6 s.relay.sa ++ beBytes 2 0x22F0 ++ hdr ++ msg))

/-- Stores a Relay frame as requester 521 and hands it to Screen; ch is the source channel, C0 to C15 then L0 to L7. -/
def relayIngress (s : State) (ch ident : Nat) (xl : Bool) (msg : List Byte) : State :=
  let seq := tblGet 0 s.relay.seqNum ch
  let b := relayFrame s xl (if ch < 16 then 0x80 + ch else 0xC0 + (ch - 16)) seq msg
  match allocCells s (poolOf s 57 (tblGet 0 s.hopper.poolMap (512 + 57))) (cellsFor b.length) with
  | (s, .empty _) => bump s .rxNoBuf ch 1
  | (s, .ok cells) =>
    let s := { s with relay := { s.relay with seqNum := tblSet 0 s.relay.seqNum ch ((seq + 1) % 256) } }
    match takeDesc s with
    | none => bump (freeCells s cells) .descDrop 0 1
    | some (d, s) =>
      let first := cells.headD 0
      let s := setChain s first (some { cells := cells, hold := 1, owner := 0x400, pending := false, data := memPut [] 0 b })
      let s := cells.foldl (writeCell 57) s
      screenFrame s { src := 57, bytes := b, ident := ident, handle := handleOf s first, desc := d,
                      rxTime := nowShort s, stamp := stampRecord 57 (timeSnap s), arrVc := none, sa := none, bad := false }

/-- The Relay's own stamp of a frame that began back ns ago, as message_timestamp (R351). -/
def relayStamp (s : State) (back : Nat) : Nat := tbNs (snapBase (captureAt s ((s.localNs - back) * 1000)) s.relay.relayTb) % 2 ^ 64

/-! ### Direct forwarding (R357) -/

/-- The first route that matches a CAN frame of channel c. -/
def canRoute (s : State) (c : Nat) (m : CanMsg) : Option SpallRoute :=
  s.relay.routes.find? (fun r => r.valid && decide (r.kind < 2) && r.srcCh == c && r.ide == (m.ide && m.fmt != .xl)
    && decide (r.idLow ≤ m.id) && decide (m.id ≤ r.idHigh))

/-- The first route that matches a response of LIN channel l, whose identifiers are the low 6 bits of ID_LOW and ID_HIGH. -/
def linRoute (s : State) (l i : Nat) : Option SpallRoute :=
  s.relay.routes.find? (fun r => r.valid && r.kind == 2 && r.srcCh == l && decide (r.idLow % 64 ≤ i) && decide (i ≤ r.idHigh % 64))

/-- A classical CAN frame of data bytes. -/
def classicalFrame (ide : Bool) (id : Nat) (payload : List Byte) : CanMsg :=
  { fmt := .classical, ide := ide, id := id, rtr := false, brs := false, esi := false, sec := false, rrs := false, sdt := 0, vcid := 0, af := 0, payload := payload }

/-- What a matched CAN frame does. -/
def forwardCan (s : State) (c : Nat) (m : CanMsg) (r : SpallRoute) : State :=
  let s := bump s .spallFwd c 1
  if r.kind = 0 then ((List.range 16).filter (fun k => bitOf r.canMask k && k != c)).foldl (fun s k => canBuffer s k m) s
  else ((List.range 8).filter (bitOf r.linMask)).foldl (fun s l => linWrite s l (r.outId % 64) m.payload) s

/-- What a matched LIN response does. -/
def forwardLin (s : State) (l : Nat) (payload : List Byte) (r : SpallRoute) : State :=
  ((List.range 16).filter (bitOf r.canMask)).foldl (fun s k => canBuffer s k (classicalFrame r.ide (if r.ide then r.outId else r.outId % 2048) payload))
    (bump s .spallFwd (16 + l) 1)

/-! ### From the buses (R350, R351, R354) -/

/-- Whether a controller sends and takes frames of a format (Table 11.6). -/
def canFormat (x : CanChan) (f : CanFmt) : Bool := match f with
  | .classical => true
  | .fd => x.fdEn
  | .xl => x.xlEn

/-- Whether a controller takes part in its bus and accepts a frame's format. -/
def canAccepts (s : State) (c : Nat) (f : CanFmt) : Bool :=
  let x := getCan s c
  x.en && x.state != 2 && canFormat x f

/-- Error active again once both counts lie below 128 (ISO 11898-1, R350). -/
def errorSettle (y : CanChan) : CanChan := if y.state = 1 ∧ y.tecCount < 128 ∧ y.recCount < 128 then { y with state := 0 } else y

/-- A frame sent lowers TEC by one. -/
def errorLess (x : CanChan) : CanChan := errorSettle { x with tecCount := x.tecCount - 1 }

/-- A frame received lowers REC by one; from above 127 it goes to a value of 119 to 127 that ISO 11898-1 leaves open (log entry 27). -/
def recLess (s : State) (c : Nat) : State :=
  let x := getCan s c
  if x.recCount > 127 then
    let r := drawFree s
    setCan r.2 c (errorSettle { x with recCount := 119 + r.1 % 9 })
  else setCan s c (errorSettle { x with recCount := x.recCount - 1 })

/-- The identity word of a CAN frame (Table 11.1). -/
def canIdent (c : Nat) (m : CanMsg) : Nat :=
  (0x80 + c) * 2 ^ 56 + (if m.fmt = .xl then m.id % 2048 else b2n m.ide * 2 ^ 29 + m.id % 2 ^ 29)

/-- A CAN frame received without error. -/
def canReceive (s : State) (c : Nat) (m : CanMsg) (back : Nat) : State :=
  let phy := getPhy s c
  if canAccepts s c m.fmt = false ∨ ¬(phy.mode = 1 ∨ phy.mode = 2) then s
  else
    let s := bump (recLess s c) .relayRxFrames c 1
    let up (s : State) : State :=
      if m.fmt = .xl then relayIngress s c (canIdent c m) true (acfXl m c (relayStamp s back))
      else relayIngress s c (canIdent c m) false (acfCan m c (relayStamp s back))
    if s.relay.spallOff then up s
    else match canRoute s c m with
      | some r => forwardCan s c m r
      | none => if s.screen.current.isSome then up s else bump s .spallMiss c 1

/-- R351, R357. -/
def execCanFrameReceive (ch : Fin 16) (msg : CanMsg) (back : BitVec 32) (s : State) : Host.Outcome State Fault Refusal :=
  .next (canReceive s ch msg back.toNat)

/-- A LIN response to a subscribed identifier; good tells that its checksum is right. -/
def linReceive (s : State) (l i : Nat) (payload : List Byte) (good : Bool) (back : Nat) : State :=
  let x := getLin s l
  let e := tblGet LinId.reset x.ids i
  if x.en = false ∨ (getPhy s (16 + l)).mode ≠ 1 ∨ e.dir ≠ 2 then s
  else if good = false ∨ payload.length ≠ e.len then bump s .linErr l 1
  else
    let s := bump s .relayRxFrames (16 + l) 1
    let up (s : State) : State := relayIngress s (16 + l) ((0xC0 + l) * 2 ^ 56 + i) false (acfLin l i (relayStamp s back) payload)
    if s.relay.spallOff then up s
    else match linRoute s l i with
      | some r => forwardLin s l payload r
      | none => if s.screen.current.isSome then up s else bump s .spallMiss (16 + l) 1

/-- R351, R354, R357. -/
def execLinResponseReceive (ch : Fin 8) (id : Fin 64) (bytes : List Byte) (good : Bool) (back : BitVec 32) (s : State) :
    Host.Outcome State Fault Refusal := .next (linReceive s ch id bytes good back.toNat)

/-! ### From Screen to the buses (R352, R353) -/

/-- Valid data lengths of classical and FD frames. -/
def canLengthOk (f : CanFmt) (n : Nat) : Bool := match f with
  | .classical => decide (n ≤ 8)
  | .fd => decide (n ≤ 8) || [12, 16, 20, 24, 32, 48, 64].contains n
  | .xl => decide (1 ≤ n) && decide (n ≤ 2048)

/-- An accepted CAN message goes to its channel. -/
def egressCan (s : State) (c : Nat) (m : CanMsg) : State :=
  let x := getCan s c
  if c > 15 then bump s .busIdBad 0 1
  else if s.pair.busHeld then bump s .txStandby c 1
  else if (m.fmt = .fd ∧ x.fdEn = false) ∨ (m.fmt = .xl ∧ x.xlEn = false) then bump s .formatRefused 0 1
  else if canLengthOk m.fmt m.payload.length = false then bump s .acfMalformed 0 1
  else canBuffer s c m

/-- An accepted LIN message writes a response buffer. -/
def egressLin (s : State) (l i : Nat) (payload : List Byte) : State :=
  if l > 7 then bump s .busIdBad 0 1
  else if s.pair.busHeld then bump s .txStandby (16 + l) 1
  else if (tblGet LinId.reset (getLin s l).ids i).dir ≠ 1 then bump s .formatRefused 0 1
  else linWrite s l i payload

/-- An ACF CAN or ACF CAN_BRIEF message of n bytes with a header of h. -/
def acfCanRead (d : List Byte) (h n : Nat) : Nat × CanMsg :=
  let v := beNat (imgBytes d 2 2)
  let eff := bitOf v 11
  let id := beNat (imgBytes d (h - 4) 4) % 2 ^ 29
  (v % 32, { fmt := if bitOf v 9 then .fd else .classical, ide := eff, id := if eff then id else id % 2048, rtr := bitOf v 12, brs := bitOf v 10,
             esi := bitOf v 8, sec := false, rrs := false, sdt := 0, vcid := 0, af := 0, payload := imgBytes d h (n - h - v / 2 ^ 14) })

/-- The CAN XL message of Table 11.9. -/
def acfXlRead (d : List Byte) : Nat × CanMsg :=
  let w := beNat (imgBytes d 0 4)
  let v := beNat (imgBytes d 12 4)
  (w % 32, { fmt := .xl, ide := false, id := bits v 31 21, rtr := false, brs := false, esi := false, sec := bitOf w 14, rrs := bitOf w 13,
             sdt := bits w 12 5, vcid := bits v 20 13, af := beNat (imgBytes d 16 4), payload := imgBytes d 20 (bits v 10 0 + 1) })

/-- Length in bytes of the message at the front of the data. -/
def acfLen (d : List Byte) : Nat :=
  let w := beNat (imgBytes d 0 2)
  if w / 512 = 0x78 ∧ w % 512 = 0 then 20 + 4 * ceilDiv (bits (beNat (imgBytes d 12 4)) 10 0 + 1) 4 else 4 * (w % 512)

/-- One message of n bytes; a message shorter than its own header and payload is malformed. -/
def acfMessage (s : State) (d : List Byte) (n : Nat) : State :=
  let t := beNat (imgBytes d 0 2) / 512
  let pad := im8 d 2 / 64
  if t = 0x01 then (if n < 16 + pad then bump s .acfMalformed 0 1 else let r := acfCanRead d 16 n; egressCan s r.1 r.2)
  else if t = 0x02 then (if n < 8 + pad then bump s .acfMalformed 0 1 else let r := acfCanRead d 8 n; egressCan s r.1 r.2)
  else if t = 0x03 then
    (if n < 12 + pad then bump s .acfMalformed 0 1 else egressLin s (im8 d 2 % 32) (im8 d 3 % 64) (imgBytes d 12 (n - 12 - pad)))
  else if t = 0x78 then
    (if n < 20 + bits (beNat (imgBytes d 12 4)) 10 0 + 1 then bump s .acfMalformed 0 1 else let r := acfXlRead d; egressCan s r.1 r.2)
  else bump s .acfSkipped 0 1

/-- The walk over the messages (R352): count of messages walked so far, then the data that is left. -/
def acfWalk : Nat → Nat → List Byte → State → State
  | 0, _, _, s => s
  | fuel + 1, k, d, s =>
    if d.isEmpty then s
    else
      let n := acfLen d
      if n = 0 ∨ n > d.length then bump s .acfMalformed 0 1
      else acfWalk fuel (k + 1) (d.drop n) (if k ≥ 32 then bump s .acfSkipped 0 1 else acfMessage s d n)

/-- The Relay parses a frame of node 57, FCS included (R352). -/
def relayParse (s : State) (b : List Byte) : State :=
  let h := if beNat (imgBytes b 12 2) = 0x8100 then 18 else 14
  let sub := im8 b h
  if beNat (imgBytes b (h - 2) 2) ≠ 0x22F0 ∨ ¬(sub = 0x82 ∨ sub = 0x05) then bump s .acfMalformed 0 1
  else
    let (o, n) := if sub = 0x82 then (h + 12, beNat (imgBytes b (h + 1) 2) % 2048) else (h + 24, beNat (imgBytes b (h + 20) 2))
    let d := ((b.take (b.length - 4)).drop o).take n
    acfWalk d.length 0 d s

/-- The frame in service on node 57 reaches the Relay (R352). -/
def relayEgress (s : State) : State := match (getPort s 57).tx with
  | none => s
  | some t =>
    let s := advance s (t.start + lineNs s 57 (txLineBytes t) - s.localNs)
    finishTx (relayParse s t.bytes) 57 t

/-- R352. -/
def execRelayEgress (s : State) : Host.Outcome State Fault Refusal := .next (relayEgress s)

/-- The arbitration field of a frame as a number: the lower wins (R353). -/
def arbitration (m : CanMsg) : Nat :=
  if m.ide ∧ m.fmt ≠ .xl then m.id / 2 ^ 18 * 2 ^ 21 + 2 ^ 20 + 2 ^ 19 + m.id % 2 ^ 18 * 2 + b2n m.rtr
  else m.id % 2048 * 2 ^ 21 + b2n (m.rtr || (m.fmt == .xl && m.rrs)) * 2 ^ 20

/-- The buffered frame that a controller offers: the one that would win, the oldest among equals. -/
def canOffer : List (CanMsg × Nat) → Option (CanMsg × Nat)
  | [] => none
  | x :: t => match canOffer t with
    | some y => if arbitration y.1 < arbitration x.1 then some y else some x
    | none => some x

/-- A channel puts the frame that it offers on its bus; frames of a format that it does not send wait until they expire (R349, R353). -/
def canSend (s : State) (c : Nat) : State :=
  let s := canAged s c
  let x := getCan s c
  let phy := getPhy s c
  if x.en = false ∨ x.state = 2 ∨ phy.mode ≠ 1 ∨ phy.held ∨ isSafe s ∨ s.pair.busHeld then s
  else match canOffer (x.bufs.filter (fun e => canFormat x e.1.fmt)) with
    | none => s
    | some e =>
      let s := setCan s c (errorLess { x with bufs := x.bufs.erase e })
      let s := if e.1.fmt = .xl ∧ phy.fastEn = false then bump s .fastRefused c 1 else s
      bump { s with relay := { s.relay with busOut := tblSet (classicalFrame false 0 []) s.relay.busOut c e.1 } } .relayTxFrames c 1

/-- R353. -/
def execCanTxComplete (ch : Fin 16) (s : State) : Host.Outcome State Fault Refusal := .next (canSend s ch)

/-- The oldest buffered frame of a channel reaches TX_LIFE_MS: the clock runs to that instant (R353). -/
def canExpire (s : State) (c : Nat) : State := match (getCan s c).bufs with
  | [] => s
  | (_, t) :: _ => canAged (advance s (t + s.relay.txLife * 1000000 - s.localNs)) c

/-- R353. -/
def execCanTxExpire (ch : Fin 16) (s : State) : Host.Outcome State Fault Refusal := .next (canExpire s ch)

/-! ### Fault confinement (R350) -/

/-- Posts CAN_STATE (Table 11.14). -/
def canState (s : State) (c st : Nat) : State := postEvent s 11 [0x61 * 2 ^ 24 + st * 2 ^ 16 + 0x80 + c, tick32 s, 0, 0]

/-- R350; the error counts are those that the controller then holds. -/
def execCanErrorPassive (ch : Fin 16) (tec rxc : Byte) (s : State) : Host.Outcome State Fault Refusal :=
  let x := getCan s ch
  .next (if x.en ∧ x.state = 0 then canState (setCan s ch { x with state := 1, tecCount := tec.toNat, recCount := rxc.toNat }) ch 1 else s)

/-- R350: bus-off; TEC then exceeds what its field holds, so the field is a free value (log entry 27). -/
def execCanBusOff (ch : Fin 16) (s : State) : Host.Outcome State Fault Refusal :=
  let x := getCan s ch
  .next (if x.en ∧ (x.state = 0 ∨ x.state = 1) then
      let r := drawFree s
      canState (bump (setCan r.2 ch { x with state := 2, tecCount := r.1 % 256, recovering := x.autoRecover }) .busOffs ch 1) ch 2
    else s)

/-- R350: 128 occurrences of 11 recessive bits have been seen. -/
def execCanBusOffRecovered (ch : Fin 16) (s : State) : Host.Outcome State Fault Refusal :=
  let x := getCan s ch
  .next (if x.state = 2 ∧ x.recovering then setCan s ch { x with state := 0, tecCount := 0, recCount := 0, recovering := false } else s)

/-! ### LIN (R354, R355) -/

/-- A response from the buffer of a published identifier. -/
def linAnswer (s : State) (l : Nat) (b : List Byte) : State :=
  bump { s with relay := { s.relay with linOut := tblSet [] s.relay.linOut l b } } .relayTxFrames (16 + l) 1

/-- The next slot of a commander's schedule starts: the clock runs to it. -/
def linSlot (s : State) (l : Nat) : State :=
  let x := getLin s l
  if linRuns s l = false then s
  else
    let s := if x.running then advance s (x.next - s.localNs) else s
    let k := if x.running then (x.slot + 1) % x.slots.length else 0
    let e := x.slots.getD k (0, 1)
    let s := setLin s l { x with running := true, slot := k, next := s.localNs + e.2 * 1000000 }
    let i := tblGet LinId.reset x.ids e.1
    match i.dir, i.buf with
    | 1, some b => linAnswer s l b
    | _, _ => s

/-- R354. -/
def execLinScheduleSlot (ch : Fin 8) (s : State) : Host.Outcome State Fault Refusal := .next (linSlot s ch)

/-- R354, R355. -/
def execLinHeaderReceive (ch : Fin 8) (id : Fin 64) (s : State) : Host.Outcome State Fault Refusal :=
  let x := getLin s ch
  let p := getPhy s (16 + ch)
  let e := tblGet LinId.reset x.ids id
  .next (if x.en = false ∨ p.commander ∨ p.mode ≠ 1 ∨ p.held ∨ e.dir ≠ 1 ∨ isSafe s ∨ s.pair.busHeld then s
    else match e.buf with
      | some b => linAnswer s ch b
      | none => bump s .noResponse ch 1)

/-- Whether the bytes read are those of the SPALL section that the accepted header names (R356, R479). -/
def spallRead (s : State) (img : List Byte) : Bool :=
  let h := s.vault.boot.header
  (List.range (suhildSections h)).any (fun i => secType h i == 3 && img.length == secLen h i && shaBytes img == secHash h i)

/-- R356: the Spall set is read in Waking, which DRAM training does not hold up; good tells that the flash was read without error. -/
def execSpallLoad (img : List Byte) (good : Bool) (s : State) : Host.Outcome State Fault Refusal :=
  .next (if s.gh.mode = .waking ∧ (s.gh.relStep = 0 ∨ s.gh.relStep = 5) ∧ s.gh.asserted = 0 ∧ s.vault.boot.spall ∧ s.relay.spallLoaded = false ∧ s.relay.spallBad = false then
      let s := spallApply s img (good && s.vault.boot.headerOk && spallRead s img)
      if s.relay.spallLoaded ∧ s.relay.spallOff = false then enterMode s .limp else s
    else s)

end Sys2Proof.Machine
end

