-- ==== Sys2Proof/Machine/System.lean ====
section
/-! DEFINITION. Machine/System.lean: control and status registers, service traps, returns from traps, waits and
interrupts of Uarra-S (R65, R66, R73, R75 to R79, Tables 2.9 and 2.12 to 2.16). -/

namespace Sys2Proof.Machine

/-! ### CSRs (Table 2.12) -/

/-- Whether a number names a CSR. -/
def csrKnown (n : Nat) : Bool :=
  (decide (0x80 ≤ n) && decide (n ≤ 0x84)) || (decide (0x100 ≤ n) && decide (n ≤ 0x107)) ||
    (decide (0x110 ≤ n) && decide (n ≤ 0x11F)) || n == 0x180 || (decide (0x200 ≤ n) && decide (n ≤ 0x205))

/-- Whether a number's CSR is read-only: bit [7]. -/
def csrReadOnly (n : Nat) : Bool := bitOf n 7

/-- CYCLE: core cycles since reset at 800 MHz on the Triad and 1.0 GHz on Tally. -/
def cycleCount (s : State) (k : Nat) (c : SCore) : Nat :=
  if k < 3 then (s.localNs - c.startNs) * 4 / 5 else s.localNs - c.startNs

/-- CORE: the master ID, and the core index in split operation (R378). -/
def coreWord (s : State) (k : Nat) : Nat := coreMaster k + if k < 3 ∧ s.triad.split then k * 2 ^ 10 else 0

/-- The value that a read of a CSR returns. -/
def csrRead (s : State) (k n : Nat) (c : SCore) : Word :=
  match n with
  | 0x080 => BitVec.ofNat 64 (cycleCount s k c)
  | 0x081 => BitVec.ofNat 64 s.bench.tickCount
  | 0x082 => BitVec.ofNat 64 (nowShort s)
  | 0x083 => BitVec.ofNat 64 (coreWord s k)
  | 0x084 => BitVec.ofNat 64 c.retired
  | 0x100 => c.status ||| (c.pl.zeroExtend 64 <<< 8)
  | 0x101 => c.tvec
  | 0x102 => c.epc
  | 0x103 => c.cause
  | 0x104 => c.tval
  | 0x105 => c.scratch
  | 0x106 => c.ie
  | 0x107 => c.timecmp
  | 0x180 => ipWord s k
  | 0x200 => c.vstatus
  | 0x201 => c.vtvec
  | 0x202 => c.vepc
  | 0x203 => c.vcause
  | 0x204 => c.vtval
  | 0x205 => c.vscratch
  | _ => if n % 2 = 0 then tblGet 0#64 c.regionBase ((n - 0x110) / 2) else tblGet 0#64 c.regionLast ((n - 0x110) / 2)

/-- A CSR written; reserved bits read zero (Tables 2.12 to 2.15). -/
def csrWrite (n : Nat) (v : Word) (c : SCore) : SCore :=
  match n with
  | 0x100 => { c with status := v &&& 0xC1C#64 }
  | 0x101 => { c with tvec := v &&& ~~~3#64 }
  | 0x102 => { c with epc := v }
  | 0x103 => { c with cause := v &&& 0x80000000000000FF#64 }
  | 0x104 => { c with tval := v }
  | 0x105 => { c with scratch := v }
  | 0x106 => { c with ie := v &&& 0x7E#64 }
  | 0x107 => { c with timecmp := v &&& 0xFFFFFFFFFFFF#64 }
  | 0x200 => { c with vstatus := v &&& 0xC1C#64 }
  | 0x201 => { c with vtvec := v &&& ~~~3#64 }
  | 0x202 => { c with vepc := v }
  | 0x203 => { c with vcause := v &&& 0x80000000000000FF#64 }
  | 0x204 => { c with vtval := v }
  | 0x205 => { c with vscratch := v }
  | _ =>
    if n % 2 = 0 then { c with regionBase := tblSet 0#64 c.regionBase ((n - 0x110) / 2) (v &&& ~~~0xFF8#64) }
    else { c with regionLast := tblSet 0#64 c.regionLast ((n - 0x110) / 2) (v &&& ~~~0xFFF#64) }

/-- An access of core k to CSR n (R73): new is the value written, if the instruction writes; old goes to w[d] when
the instruction returns it. -/
def csrAccess (w : BitVec 32) (f : FmtI) (ret wr : Bool) (new : Word → Word → Word) (s : State) (k : Nat) (c : SCore) : CRes :=
  let n := f.imm.toNat
  if csrKnown n = false ∨ (wr ∧ csrReadOnly n) ∨ (k ≥ 3 ∧ n / 256 = 2) then .trap cILLEGAL (w.zeroExtend 64)
  else if c.pl.toNat < n / 256 then .trap cPRIV (w.zeroExtend 64)
  else
    let old := csrRead s k n c
    let c := if wr then csrWrite n (new old (rget c.regs f.a.toNat)) c else c
    .fall (if ret then c.setRegs (rset c.regs f.d.toNat old) else c)

/-- A system instruction: illegal on Uarra-P (R50). -/
def systemOp (who : Agent) (w : BitVec 32) (run : State → Nat → SCore → CRes) (s : State) : State :=
  match who with
  | .thread t => threadStep t w none TRes.fall TRes.fall s
  | _ => coreStep who w none run noRequest s

/-- CSRR (R65, R73). -/
def execCsrr (who : Agent) (f : FmtI) (s : State) : Host.Outcome State Fault Refusal :=
  .next (systemOp who (encI 0x58 f) (csrAccess (encI 0x58 f) f true false (fun old _ => old)) s)

/-- CSRW (R65, R73). -/
def execCsrw (who : Agent) (f : FmtI) (s : State) : Host.Outcome State Fault Refusal :=
  .next (systemOp who (encI 0x59 f) (csrAccess (encI 0x59 f) f false true (fun _ x => x)) s)

/-- CSRS (R65, R73). -/
def execCsrs (who : Agent) (f : FmtI) (s : State) : Host.Outcome State Fault Refusal :=
  .next (systemOp who (encI 0x5a f) (fun s k c =>
    csrAccess (encI 0x5a f) f true (!(csrReadOnly f.imm.toNat && f.a == 0#6)) (fun old x => old ||| x) s k c) s)

/-- CSRC (R65, R73). -/
def execCsrc (who : Agent) (f : FmtI) (s : State) : Host.Outcome State Fault Refusal :=
  .next (systemOp who (encI 0x5b f) (fun s k c =>
    csrAccess (encI 0x5b f) f true (!(csrReadOnly f.imm.toNat && f.a == 0#6)) (fun old x => old &&& ~~~x) s k c) s)

/-! ### Traps, returns, waits -/

/-- TRAP (R65, R66): a service trap to Supervisor, or to Vault level on the Triad; on a Tally core imm10[9] is illegal, which its
meaning tests and which a guard that reads 0 therefore skips (log entry 179, DESIGN CHOICE). -/
def execTrap (who : Agent) (f : FmtI) (s : State) : Host.Outcome State Fault Refusal :=
  .next (systemOp who (encI 0x5c f) (fun _ k _ =>
    let code := BitVec.ofNat 64 (f.imm.toNat % 512)
    if f.imm.getLsbD 9 then (if k ≥ 3 then .trap cILLEGAL ((encI 0x5c f).zeroExtend 64) else .service cTRAPV code)
    else .service cTRAPS code) s)

/-- TRET (R76). -/
def execTret (who : Agent) (f : FmtI) (s : State) : Host.Outcome State Fault Refusal :=
  .next (systemOp who (encI 0x5d f) (fun _ k c =>
    if c.pl = 0#2 then .trap cPRIV ((encI 0x5d f).zeroExtend 64)
    else let c := trapReturn k c; .jump c c.pc) s)

/-- The Triad cores whose progress counts for an agent: the voting ones. -/
def leadCore (s : State) (who : Agent) : Option Nat :=
  ((agentCores s who).filter (fun k => !coreIdle s k && !(isVoted s who && s.triad.excluded.getLsbD k))).head?

/-- Whether the leading Triad core of an agent executes an instruction. -/
def leadExecutes (s : State) (who : Agent) (w : BitVec 32) : Bool :=
  match leadCore s who with
  | some k => if k < 3 then (match coreIssue s k w none (fun _ _ _ => .service 0 0#64) with | .service _ _ => true | _ => false) else false
  | none => false

/-- WFI (R65): the core waits unless an interrupt is pending; on the Triad it completes the tick program (R40). -/
def execWfi (who : Agent) (f : FmtI) (s : State) : Host.Outcome State Fault Refusal :=
  let s' := systemOp who (encI 0x5e f) (fun s k c => .fall { c with waiting := !anyPending s k }) s
  .next (if leadExecutes s who (encI 0x5e f) then tickDone s' else s')

/-- FENCE (R60, R65): every access of the model is complete when its instruction retires. -/
def execFence (who : Agent) (f : FmtI) (s : State) : Host.Outcome State Fault Refusal :=
  .next (systemOp who (encI 0x5f f) (fun _ _ c => .fall c) s)

/-- A waiting core resumes at the next instruction once an interrupt is pending (R65, R66). -/
def execWfiResume (who : Agent) (s : State) : Host.Outcome State Fault Refusal :=
  .next ((agentCores s who).foldl (fun s k =>
    let c := getCore s k
    if c.waiting && !coreHeld s k && anyPending s k then setCore s k { c with waiting := false } else s) s)

/-- Each core of an agent takes the interrupt that it is due (R77, R78); TICK enters the tick program (R40). -/
def execInterruptTake (who : Agent) (s : State) : Host.Outcome State Fault Refusal :=
  let entered := match leadCore s who with
    | some k => decide (k < 3) && irqChoice s k == some cTICK
    | none => false
  let s' := (agentCores s who).foldl (fun s k =>
    if coreIdle s k then s else match irqChoice s k with
      | some c => takeIrq s k c
      | none => s) s
  .next (if entered then tickEntered s' else s')

end Sys2Proof.Machine
end

