-- ==== Sys2Proof/Machine/TriadEvents.lean ====
section
/-! DEFINITION. Machine/TriadEvents.lean: what the voter, the state hashes and the watchdogs do by themselves: the window
of a vote, hash comparison and reload, delay ECC, the safe output state, and the escalation of its watchdogs (R363, R365,
R368 to R375, R421, R436). -/

namespace Sys2Proof.Machine

/-! ### The state hash (R367) -/

/-- Cells of page n of core-local memory. -/
def lmemPage (c : SCore) (n : Nat) : Mem := c.lmem.filter (fun e => e.1 / 4096 == n)

/-- The numbers that spell a page's bytes. -/
def pageWords (c : SCore) (n : Nat) : List Nat := (lmemPage c n).flatMap (fun e => [e.1 % 4096, e.2.toNat])

/-- The hash of page n. -/
def pageHash (c : SCore) (n : Nat) : BitVec 64 := Config.stateHash (pageWords c n)

/-- Whether the pages of two cores hash the same: equal pages do. -/
def pageSame (a b : SCore) (n : Nat) : Bool := pageWords a n == pageWords b n || pageHash a n == pageHash b n

/-- The numbers that spell w0 to w63, p0 to p7, PC, the level and every RW CSR. -/
def coreWords (c : SCore) : List Nat :=
  (List.range 64).map (fun i => (tblGet 0#64 c.w i).toNat) ++ [c.p.toNat, c.pc.toNat, c.pl.toNat]
    ++ [c.status, c.tvec, c.epc, c.cause, c.tval, c.scratch, c.ie, c.timecmp].map BitVec.toNat
    ++ (List.range 8).flatMap (fun i => [(tblGet 0#64 c.regionBase i).toNat, (tblGet 0#64 c.regionLast i).toNat])
    ++ [c.vstatus, c.vtvec, c.vepc, c.vcause, c.vtval, c.vscratch].map BitVec.toNat

/-- The pages that hold anything in either of two cores; all others are equal. -/
def livePages (a b : SCore) : List Nat := (List.range 1024).filter (fun n => !(lmemPage a n).isEmpty || !(lmemPage b n).isEmpty)

/-- The state hash of a core, over its registers and its 1,024 page hashes. -/
def coreHash (c : SCore) : BitVec 64 :=
  Config.stateHash (coreWords c ++ (List.range 1024).map (fun n => (pageHash c n).toNat))

/-- Whether two cores hash the same: equal states do. -/
def hashSame (a b : SCore) : Bool := (coreWords a == coreWords b && a.lmem == b.lmem) || coreHash a == coreHash b

/-! ### Comparison and reload (R368 to R370, Table 12.3) -/

/-- Whether the Triad votes and hashes now. -/
def lockstep (s : State) : Bool :=
  deviceRuns s && !s.triad.fault && !s.triad.split && !s.triad.lockstepBroken

/-- The voting cores, rising. -/
def votingCores (s : State) : List Nat := [0, 1, 2].filter (fun i => !s.triad.excluded.getLsbD i)

/-- LATENT: core i is excluded until its reload. -/
def latent (s : State) (i : Nat) : State :=
  let s := exclude s i
  { s with triad := { s.triad with latentCount := sat 32 (s.triad.latentCount + 1) } }

/-- One odd hash: LATENT, unless the voter excluded another core in this tick. -/
def hashOdd (s : State) (i : Nat) : State := match s.triad.votedOut with
  | some j => if i = j then s else triadFault s 3
  | none => latent s i

/-- Table 12.3 over the hashes of the voting cores. -/
def hashOutcome (s : State) : State :=
  let same (i j : Nat) : Bool := hashSame (getCore s i) (getCore s j)
  match votingCores s with
  | [i, j, k] =>
    if same i j && same j k then s
    else if same i j then hashOdd s k
    else if same i k then hashOdd s j
    else if same j k then hashOdd s i
    else triadFault s 3
  | [i, j] => if same i j then s else triadFault s 3
  | _ => s

/-- The hash point: the self-test of both voters, then the comparison (R368, R371); voting differences count per tick. -/
def hashCompare (s : State) : State :=
  if deviceRuns s = false ∨ s.triad.fault then s
  else if selfTestFails s.triad.voter then triadFault s 5
  else
    let s := if lockstep s then hashOutcome s else s
    { s with triad := { s.triad with votedOut := none } }

/-- R368, R371: at the hash point the voter's copies stand as given. -/
def execHashCompare (s : State) (voter : Voter := .sound) : Host.Outcome State Fault Refusal :=
  .next (hashCompare { s with triad := { s.triad with voter := voter } })

/-- A page copied from one core to another. -/
def copyPage (src dst : SCore) (n : Nat) : SCore :=
  { dst with lmem := (lmemPage src n).foldl (fun m e => memSet m e.1 e.2) (dst.lmem.filter (fun e => e.1 / 4096 != n)) }

/-- A reload of core i from core j: its registers, at most 16 differing pages, and the comparison (R369). -/
def reload (s : State) (i j : Nat) : State :=
  let src := getCore s j
  let dst := { src with lmem := (getCore s i).lmem }
  let diff := (livePages src dst).filter (fun n => !pageSame src dst n)
  let dst := (diff.take 16).foldl (fun d n => copyPage src d n) dst
  let s := setCore s i dst
  if hashSame src dst then
    { s with triad := { s.triad with
      excluded := s.triad.excluded &&& ~~~(1#3 <<< i), exclBounds := tblSet 0 s.triad.exclBounds i 0
      reloads := sat 32 (s.triad.reloads + 1) } }
  else { s with triad := { s.triad with reloading := true } }

/-- R369: core i is reloaded once at each boundary after its exclusion. -/
def coreReload (s : State) (i : Nat) : State :=
  if lockstep s = false ∨ s.triad.reloading ∨ s.triad.excluded.getLsbD i = false ∨ s.triad.rejoinFail.getLsbD i
      ∨ tblGet 0 s.triad.exclBounds i = 0 ∨ isFrozen s mTRIAD then s
  else match (votingCores s).head? with
    | some j => reload s i j
    | none => s

/-- R369. -/
def execCoreReload (core : Fin 3) (s : State) : Host.Outcome State Fault Refusal := .next (coreReload s core)

/-- R370: 64 boundaries after its exclusion. -/
def execRejoinFail (core : Fin 3) (s : State) : Host.Outcome State Fault Refusal :=
  .next (if s.triad.excluded.getLsbD core ∧ tblGet 0 s.triad.exclBounds core ≥ 64 then
      { s with triad := { s.triad with rejoinFail := s.triad.rejoinFail ||| (1#3 <<< core.val) } }
    else s)

/-! ### The voter's window and the delay registers (R363, R365) -/

/-- R365: core i presents nothing within 16 cycles of the others' copies, and counts as differing (Table 12.2). -/
def voteWindow (s : State) (i : Nat) : State :=
  if lockstep s = false ∨ s.triad.excluded.getLsbD i then s
  else if votersDiffer s.triad.voter (if (votingCores s).length = 3 then 5 else 7) then triadFault s 4
  else if (votingCores s).length = 3 then maskCore s i
  else triadFault s 2

/-- R365, R371: the window of a vote ends, with the voter's copies as given. -/
def execVoteWindowExpire (core : Fin 3) (s : State) (voter : Voter := .sound) : Host.Outcome State Fault Refusal :=
  .next (voteWindow { s with triad := { s.triad with voter := voter } } core)

/-- R363: a scrub that corrects so many words, and that finds an uncorrectable error or none. -/
def execDelayEccScrub (single : BitVec 32) (double : Bool) (s : State) : Host.Outcome State Fault Refusal :=
  .next (if deviceRuns s = false then s
    else
      let s := { s with triad := { s.triad with delayEccCorrected := sat 32 (s.triad.delayEccCorrected + single.toNat) } }
      if double then triadFault s 6 else s)

/-! ### The safe output state (R374, R375) -/

/-- PPS_OUT0 to PPS_OUT3 go low. -/
def ppsLow (s : State) : State :=
  (List.range 4).foldl (fun s k => setPpsOut s k { getPpsOut s k with level := false, fallAt := none }) s

/-- Entry to the safe output state. -/
def enterSafe (s : State) : State :=
  if s.triad.safe then s
  else
    let s := setFaultSrc { s with
      triad := { s.triad with safe := true }
      haul := { s.haul with stop := s.haul.stop || s.triad.safeStop }
      gh := { s.gh with safeAt := some s.localNs } } 2 true
    laneDown (laneDown (ppsLow ((List.range 64).foldl abandonPort s)) 0) 1

/-! ### Watchdogs (R421, R436) -/

/-- R436: 10 ms after the safe output state was entered, when ESCALATE = 1; the clock runs to it. -/
def execWdtEsc (s : State) : Host.Outcome State Fault Refusal :=
  .next (match s.gh.safeAt with
    | some t =>
      if s.triad.safe ∧ s.gh.escalate ∧ inReset s = false then
        raiseReset (advance s (t + 10000000 - s.localNs)) 14
      else s
    | none => s)

/-- R419, R421: no tick program for RESTART_TICKS consecutive boundaries. -/
def execCtrlWdt (s : State) : Host.Outcome State Fault Refusal :=
  .next (if s.gh.wdtEn ∧ s.triad.coasting ∧ s.gh.mode ≠ .maintenance ∧ s.fence.noTick ≥ s.gh.restartTicks + 1 ∧ deviceRuns s then
      controlReset s 18
    else s)

end Sys2Proof.Machine
end

