-- ==== Sys2Proof/Machine/Tick.lean ====
section
/-! DEFINITION. Machine/Tick.lean: the Bench tick boundary: the instant, the snapshot, the commits that apply, and the
other steps of Table 1.14, with the events that a boundary brings about (R19 to R21, R29 to R40, R373, R374, R390). -/

namespace Sys2Proof.Machine

/-! ### The instant (R29 to R31, R33) -/

/-- The commits that apply at the boundary of a natural count, in their order (R17, R33). -/
def dueCommits (natural : Nat) (l : List Commit) : List Commit :=
  let sets (c : Commit) : Bool := decide (c.target ≤ natural) && (setsCount c.objs).isSome
  match l.find? sets with
  | none => l.filter (fun c => decide (c.target ≤ natural))
  | some t =>
    let n := (setsCount t.objs).getD natural
    let pre := l.takeWhile (fun c => !sets c)
    let post := l.drop (pre.length + 1)
    pre.filter (fun c => decide (c.target ≤ natural)) ++ [t]
      ++ pre.filter (fun c => decide (natural < c.target) && decide (c.target ≤ n)) ++ post.filter (fun c => decide (c.target ≤ n))

/-- The count that the next boundary carries (R30, R33). -/
def nextCount (s : State) : Nat :=
  let natural := (s.bench.tickCount + 1) % 2 ^ 64
  ((dueCommits natural s.gate.committed).findSome? (fun c => setsCount c.objs)).getD natural

/-- Lanes and channels that wait without credit at the instant (Table 7.15). -/
def countStalls (s : State) : State :=
  (List.range 64).foldl (fun s i =>
    let s := markStall s (i / 8) (i % 8)
    if laneWaits s (i / 8) (i % 8) && !hasCredit s (i / 8) (i % 8) then bump s .creditStallTicks i 1 else s) s

/-- The clock and the count at the instant: n cycles from now, when T0 reads m ns.  The LRN writes accepted before it are done, and
count in the tick that ends (R174, R176; log entry 176). -/
def instant (s : State) (n m : Nat) : State :=
  let count := nextCount s
  let s := countStalls (drainAll (advance s n))
  let odd := s.bench.disturbed && ((m : Int) - s.bench.startNs != (s.bench.period * 1000 : Nat))
  { s with
    bench := { s.bench with
      tickCount := count, startNs := m, startLocal := s.localNs, disturbed := false, oddTick := odd
      oddCount := sat 16 (s.bench.oddCount + b2n odd) }
    relay := { s.relay with counts := [] }
    lookup := { s.lookup with tables := s.lookup.tables.map (fun e => (e.1, e.2.map (fun x => { x with newBy := [] }))) }
    host := { s.host with rings := s.host.rings.foldl (fun t e => tblSet MailRing.reset t e.1 { e.2 with sends := 0 }) s.host.rings } }

/-! ### Step 1 (R19 to R21, R283, R284, R310, R492 to R495) -/

/-- The 16 bytes of a base in the time block (Table 9.8). -/
def timeEntry (b : TimeBase) : List Byte :=
  leBytes 4 (tbNano b) ++ leBytes 4 (tbSec b % 2 ^ 32) ++ leBytes 4 (tbFrac b * 65536 + tbSec b / 2 ^ 32 % 65536)
    ++ leBytes 4 (b2n b.running * 2 ^ 31 + b2n b.slew.isSome * 2 ^ 30 + b.stepSeq % 256)

/-- The bases at the boundary instant, at which T0 reads whole ns between two cycles (R310, R528). -/
def timeAtInstant (s : State) : TimeUnit :=
  let past := s.time.t0.value - s.bench.startNs * 2 ^ 32
  let inc := tbInc s.time.t0
  if 0 < past ∧ past < inc then
    let f (b : TimeBase) : TimeBase := { b with value := tbWrap (b.value - tbInc b * past / inc) }
    { s.time with t0 := f s.time.t0, t1 := f s.time.t1, t2 := f s.time.t2, t3 := f s.time.t3 }
  else s.time

/-- The time block. -/
def timeBlock (t : TimeUnit) : List Byte := timeEntry t.t0 ++ timeEntry t.t1 ++ timeEntry t.t2 ++ timeEntry t.t3

/-- The sample of a queue (Table 8.6); standing speculation is left out (R202).  A difference that a backward step of T0 makes negative
reads 0 (log entry 209, DESIGN CHOICE). -/
def queueSample (s : State) (x : QueueRec) : List Byte :=
  let l := x.frames.filter (fun d => !d.spec)
  let hol := match l.head? with
    | some d => min (2 ^ 38 - 1) (shortDiff (nowShort s) d.rxTime).toNat
    | none => 0
  leBytes 8 (b2n (x.hold == .holding) * 2 ^ 63 + (l.map (·.cells)).sum % 2 ^ 25 * 2 ^ 38 + hol)

/-- The counters that report what the device holds: ENTRIES, UNITS, CONN_COUNT, IN_USE and BORROWED. -/
def gauges (s : State) : Tbl Nat :=
  let set (c : Ctr) (t : Tbl Nat) (i v : Nat) : Tbl Nat := tblSet 0 t (ctrKey c i) v
  let tables := ([false, true].flatMap (fun d => (tierEntries s d).map (·.2.table))).eraseDups
  let t := tables.foldl (fun t i => set .entries t i (tableCount s i)) s.counters
  let t := s.lookup.domains.foldl (fun t e => match e.2 with | some d => set .units t e.1 (domainUnits d) | none => t) t
  let t := s.berm.pairCount.foldl (fun t e => set .connCount t e.1 e.2) t
  (List.range 32).foldl (fun t p => set .borrowed (set .inUse t p (getPool s p).inUse) p (getPool s p).borrowed) t

/-- A record behind those of its cycle that come no later in the rotating order of their subsystems; newest first (R494). -/
def slideRec (r : EvRec) : List EvRec → List EvRec
  | [] => [r]
  | x :: t =>
    let rank (y : EvRec) : Nat := (y.sub + 17 - y.turn) % 18
    if x.time = r.time ∧ x.turn = r.turn ∧ rank r < rank x then x :: slideRec r t else r :: x :: t

/-- Records as they were posted, those of one cycle in rotating order of their subsystems, with SEQ rising. -/
def cycleOrder (l : List EvRec) : List EvRec :=
  List.zipWith (fun a r => { r with seq := a.seq }) l (l.foldl (fun t r => slideRec r t) []).reverse

/-- The snapshot of the instant; period is P of the tick that it closes. -/
def takeSnap (s : State) : Snap :=
  { tick := s.bench.tickCount, period := s.bench.period, recs := cycleOrder s.events.recs, lost := s.events.lost, time := timeBlock (timeAtInstant s)
    counters := gauges s, samples := s.haul.queues.foldl (fun t e => tblSet (leBytes 8 0) t e.1 (queueSample s e.2)) []
    hist := s.haul.hist }

/-- Every MAX_NS restarts at 0 (R284). -/
def clearMax (h : Tbl Nat) : Tbl Nat := h.filter (fun e => e.1 % 17 != 16)

/-- Step 1: the snapshot is written into its half and published; WB_READY and the host's vectors follow (R75, R485). -/
def step1 (s : State) : State :=
  let x := takeSnap s
  let s := { s with
    wb := tblSet none s.wb (x.tick % 2) (some x)
    bench := { s.bench with wbPublished := x.tick % 2 ^ 32 }
    haul := { s.haul with hist := clearMax s.haul.hist }
    events := { s.events with recs := [], count := 0, lost := 0 } }
  let s := [3, 4, 5, 6].foldl (fun s k =>
    let c := getCore s k
    setCore s k { c with latched := c.latched ||| 0x40#8, wbTick := x.tick % 2 ^ 32 }) s
  let s := fireMsix s 0
  if x.recs.isEmpty then s else fireMsix s 1

/-! ### What the instant decides about the Triad (R40, R370, R373, R374) -/

/-- Whether the tick program of this tick has not completed, and the Fence may raise TICK_OVERRUN (R40). -/
def tickUnfinished (s : State) : Bool :=
  (s.triad.tickProg == .raised || s.triad.tickProg == .entered) && !s.triad.fault && !isFrozen s mTRIAD && !s.triad.coasting

/-- The coast limit, then TICK_OVERRUN, at the instant; boundaries since each exclusion are counted. -/
def triadInstant (s : State) : State :=
  let e := [0, 1, 2].foldl (fun t i =>
    if s.triad.excluded.getLsbD i then tblSet 0 t i (tblGet 0 t i + 1) else t) s.triad.exclBounds
  let s := { s with triad := { s.triad with exclBounds := e, reloading := false } }
  let s := if s.triad.coasting then
      let s := { s with triad := { s.triad with coastBounds := s.triad.coastBounds + 1 } }
      if s.triad.coastBounds = s.triad.limit then enterSafe s else s
    else s
  if tickUnfinished s then violate s mTRIAD vTICK 0 0 else s

/-! ### Step 2 (R16, R17, R150, R398, R400) -/

/-- The commits in order; a reset that one raises ends the step. -/
def applyCommits : List Commit → State → Option Obj → State × Option Obj
  | [], s, e => (s, e)
  | c :: l, s, e =>
    if inReset s then (s, none)
    else
      let r := applyCommit s c
      applyCommits l r.1 (if r.2.isSome then r.2 else e)

/-- The rule set that this boundary makes current, unless a step of T0 or a change of P defers it (R150). -/
def swapRules (s : State) (e : Option Obj) : State :=
  match s.screen.deferred with
  | some r => if s.bench.disturbed then s else swapEpoch s r
  | none => match e with
    | some o => applyEpoch s o s.bench.disturbed
    | none => s

/-- The Pair unit's requester of step 2: the delta, then the bulk (R398, R400). -/
def pairStep2 (s : State) : State := applyBulk (applyDelta s)

/-- Step 2: the Commit Gate and the Pair unit in rotating order (R412). -/
def step2 (s : State) (l : List Commit) : State :=
  if s.bench.arbTick % 2 = 0 then
    let r := applyCommits l s none
    if inReset r.1 then r.1 else swapRules (pairStep2 r.1) r.2
  else
    let r := applyCommits l (pairStep2 s) none
    if inReset r.1 then r.1 else swapRules r.1 r.2

/-! ### Steps 3, 6 and 7 -/

/-- The event record of a switch (R124): the manual gives it no layout, so every word but the tick is a free value. -/
def switchEvent (s : State) : State :=
  let (a, s) := drawFree s
  let (b, s) := drawFree s
  let (c, s) := drawFree s
  postEvent s 4 [a % 2 ^ 32, tick32 s, b % 2 ^ 32, c % 2 ^ 32]

/-- Step 3: the release check of the old bank, then the armed switch, which a step of T0 or a change of P defers
(R37, R123, R124). -/
def step3 (s : State) : State :=
  let s := releaseOld s
  match s.engine.armed with
  | none => s
  | some b =>
    if s.engine.deferred = false then s
    else if s.bench.disturbed then { s with engine := { s.engine with switchDeferred := true } }
    else switchEvent (switchBank s b)

/-- Step 6: every rotating start follows the tick count (R67, R226, R412). -/
def step6 (s : State) : State :=
  let n := s.bench.tickCount
  { s with
    bench := { s.bench with arbTick := n }
    engine := { s.engine with prio := (List.range 64).foldl (fun t i => tblSet 0 t i (n % 8)) [] }
    stock := { s.stock with gp := (List.range 64).foldl (fun t b => tblSet 0 t b (n % 20)) [] } }

/-- Step 7: TICK is raised on the Triad, unless it is held or frozen (R40, R373); boundaries without a tick program count
for the watchdog (R421). -/
def step7 (s : State) : State :=
  let missed := s.triad.fault || isFrozen s mTRIAD
  let s := if missed || s.triad.tickProg == .raised then { s with fence := { s.fence with noTick := s.fence.noTick + 1 } } else s
  if missed then s
  else
    let s := [0, 1, 2].foldl (fun s k => let c := getCore s k; setCore s k { c with latched := c.latched ||| 0x02#8 }) s
    { s with triad := { s.triad with tickProg := .raised } }

/-! ### The boundary (R34) -/

/-- The next boundary, while boundaries are generated. -/
def boundary (s : State) : State :=
  match boundaryDue s with
  | none => s
  | some (n, m) =>
    let l := dueCommits ((s.bench.tickCount + 1) % 2 ^ 64) s.gate.committed
    let s := step2 (triadInstant (step1 (instant s n m))) l
    if inReset s ∨ s.bench.running = false then s else step7 (step6 (pairStep5 (retireEpoch (step3 s))))

/-- R34: steps 1 to 7 of Table 1.14. -/
def execBenchTickBoundary (s : State) : Host.Outcome State Fault Refusal := .next (boundary s)

/-! ### Events that the next boundary brings about -/

/-- The tick count of the next boundary as frames of the pair link carry it. -/
def nextTick32 (s : State) : Nat := nextCount s % 2 ^ 32

/-- R390: the Follow's lease expires at step 5 of the next boundary. -/
def expiryDue (s : State) : Bool :=
  s.pair.en && s.pair.role == .follow && !s.pair.released && !s.pair.lagDue && decide (tickGap (nextTick32 s) s.pair.lastRenew ≥ s.pair.leaseLen)

/-- R390: the Lead yields at step 5 of the next boundary. -/
def yieldDue (s : State) : Bool :=
  s.pair.en && s.pair.role == .lead && s.pair.yieldOnLoss && (s.pair.acked || s.pair.heir.isSome)
    && decide (tickGap (nextTick32 s) (yieldBase s.pair) ≥ (s.pair.leaseLen : Int) - 1)

/-- R389: a TAKE has no GRANT by the next boundary. -/
def takeDue (s : State) : Bool :=
  s.pair.en && s.pair.reqTick.isSome && !s.pair.granted

/-- R374: the boundary of the coast limit is next. -/
def coastDue (s : State) : Bool := s.triad.coasting && !s.triad.safe && s.triad.coastBounds + 1 == s.triad.limit

/-- The next boundary when what the command names will happen at it. -/
def boundaryIf (c : Bool) (s : State) : State := if c then boundary s else s

/-- R390. -/
def execLeaseExpiry (s : State) : Host.Outcome State Fault Refusal := .next (boundaryIf (expiryDue s) s)

/-- R390. -/
def execLeadYield (s : State) : Host.Outcome State Fault Refusal := .next (boundaryIf (yieldDue s) s)

/-- R389. -/
def execTakeTimeout (s : State) : Host.Outcome State Fault Refusal := .next (boundaryIf (takeDue s) s)

/-- R40. -/
def execTriadTickOverrun (s : State) : Host.Outcome State Fault Refusal := .next (boundaryIf (tickUnfinished s) s)

/-- R374. -/
def execCoastLimitReached (s : State) : Host.Outcome State Fault Refusal := .next (boundaryIf (coastDue s) s)

end Sys2Proof.Machine
end

