-- ==== Sys2Proof/Machine/TimeEvents.lean ====
section
/-! DEFINITION. Machine/TimeEvents.lean: the end of a slew and the edges of the PPS inputs and outputs (R301, R312,
R313). -/

namespace Sys2Proof.Machine

/-- R301: the clock runs to the last cycle of the base's slew. -/
def execSlewComplete (tb : Fin 4) (s : State) : Host.Outcome State Fault Refusal :=
  .next (match (tbGet s.time tb).slew with
    | some sl => advance s sl.left
    | none => s)

/-- The payload of a PPS capture (Table 9.10). -/
def ppsPayload (b : TimeBase) (k tb : Nat) (falling : Bool) : List Nat :=
  [0x41 * 2 ^ 24 + k * 2 ^ 23 + b2n falling * 2 ^ 22 + tb * 2 ^ 20 + tbFrac b, tbNano b, tbSec b % 2 ^ 32,
   b.stepSeq * 2 ^ 24 + tbSec b / 2 ^ 32]

/-- Whether a PPS input captures an edge of a direction: EDGE 0 rising, 1 falling, 2 both. -/
def edgeSelected (e : Nat) (falling : Bool) : Bool := e == 2 || e == b2n falling

/-- A PPS input ball changes level (R312).  An edge that comes too early while the base stands still counts in PPS_OVERRUN alone (log
entry 208, DESIGN CHOICE). -/
def ppsEdge (s : State) (k : Nat) (level : Bool) : State :=
  let x := tblGet PpsIn.reset s.time.ppsIn k
  let put (s : State) (x : PpsIn) : State := { s with time := { s.time with ppsIn := tblSet PpsIn.reset s.time.ppsIn k x } }
  if x.level = level then s
  else
    let y := { x with level := level }
    let b := tbGet s.time x.tb
    if x.en = false ∨ edgeSelected x.edge (!level) = false then put s y
    else if (match x.lastCap with | some t => decide (s.localNs < t + 100) | none => false) then bump (put s y) .ppsOverrun k 1
    else if b.running = false then bump (put s y) .ppsNoBase k 1
    else postEvent (bump (put s { y with lastCap := some s.localNs }) .ppsCaptures k 1) 10 (ppsPayload b k x.tb (!level))

/-- R312. -/
def execPpsInEdge (pin : Fin 2) (level : Bool) (s : State) : Host.Outcome State Fault Refusal := .next (ppsEdge s pin level)

/-- The next rising edge of a PPS output: the clock runs to E_k in its base (R313). -/
def ppsRise (s : State) (k : Nat) : State :=
  let x := getPpsOut s k
  match x.next with
  | none => s
  | some e =>
    if x.en = false ∨ (tbGet s.time x.tb).running = false then s
    else match cyclesTo (tbGet s.time x.tb) (e * 2 ^ 32) with
      | none => s
      | some n =>
        let s := advance s n
        if s.triad.safe then setPpsOut s k { x with next := some (e + x.period) }
        else setPpsOut s k { x with level := true, next := some (e + x.period), fallAt := some (max (x.fallAt.getD 0) (s.localNs + x.width)) }

/-- R313. -/
def execPpsOutEdge (pin : Fin 4) (s : State) : Host.Outcome State Fault Refusal := .next (ppsRise s pin)

/-- The end of a PPS output's pulse: the clock runs to it (R313). -/
def ppsFall (s : State) (k : Nat) : State :=
  let x := getPpsOut s k
  match x.fallAt with
  | none => s
  | some t =>
    let s := advance s (t - s.localNs)
    setPpsOut s k { x with level := false, fallAt := none, lastFall := some s.localNs }

/-- R313. -/
def execPpsOutFall (pin : Fin 4) (s : State) : Host.Outcome State Fault Refusal := .next (ppsFall s pin)

end Sys2Proof.Machine
end

