-- ==== Sys2Proof/Machine/VaultCalls.lean ====
section
/-! DEFINITION. Machine/VaultCalls.lean: the Vault calls, the completions of signatures, re-masking and the TRNG's health
(R459 to R475, R480, R481). -/

namespace Sys2Proof.Machine

/-- The lowest free derived entry. -/
def freeDerived (s : State) : Option Nat := ((List.range 240).map (· + 16)).find? (fun h => (getKey s h).isNone)

/-- A status whose value the spec does not give, one of those that Table 16.4 gives KLOAD (log entry 2). -/
def openStatus (s : State) : State × PlaneRes :=
  let (v, s) := drawFree s
  (s, PlaneRes.only ([stOK, stMISS, stFULL, stTORN, stDENIED].getD (v % 5) stDENIED))

/-- A VAULT violation: the call has no effect and the Triad is frozen (R471). -/
def vaultViolation (s : State) (info : Nat) : State × PlaneRes := (violate s mTRIAD vVAULT info 0, PlaneRes.frozen)

/-! ### KLOAD (R460 to R462, R467) -/

/-- A Vault call at Vault level: an X instruction with op 0x77. -/
def vaultX (who : Agent) (unit level : Nat) (desc : BitVec 32) (f : FmtX) (image : State → Nat → SCore → Nat → Nat → Except Nat (List Byte))
    (run : State → Nat → Nat → Nat → List Byte → State × PlaneRes) (s : State) : State :=
  planeX who (encX 0x77 f unit) desc f level image run s

/-- The descriptor of a KLOAD row: SUB in [31:28]. -/
def kloadDesc (f : FmtX) (sub : Nat) : BitVec 32 := setField 28 4 sub f.desc

/-- KLOAD ROOT. -/
def kloadRoot (s : State) : State × PlaneRes :=
  if lifecycle s = 0 ∨ lifecycle s = 3 then (s, PlaneRes.only stDENIED)
  else match inForce s 1 with
    | none => (s, PlaneRes.only stMISS)
    | some (_, v) => (reload' s 0 v true false 0x100 0, PlaneRes.only stOK)

/-- R467. -/
def execKloadRoot (who : Agent) (f : FmtX) (s : State) : Host.Outcome State Fault Refusal :=
  .next (vaultX who 0 2 (kloadDesc f 0) f noImage (fun s _ _ _ _ => kloadRoot s) s)

/-- KLOAD FALLBACK: n bytes at EA b into fallback slot a[2:0]. -/
def kloadFallback (s : State) (n a b : Nat) (k : Nat) (img : List Byte) : State × PlaneRes :=
  if localRange k b n = false then (s, PlaneRes.only stDENIED)
  else
    let s := reload' s (1 + a % 8) (leNat img) (n == 64) false 0x100 0
    ({ s with vault := { s.vault with fallbackUsed := true } }, PlaneRes.only stOK)

/-- R467, R472. -/
def execKloadFallback (who : Agent) (f : FmtX) (s : State) : Host.Outcome State Fault Refusal :=
  let n := if f.desc.getLsbD 27 then 64 else 32
  .next (vaultX who 0 2 (kloadDesc f 1) f (fun _ k c _ b => .ok (vaultImage k c b n)) (fun s k a b img => kloadFallback s n a b k img) s)

/-- KLOAD OTP_WRITE: phase A, then phase B, each only while VBAT is above VBAT_UV; good tells whether the write takes.  A reset or
TRIAD_FAULT that comes during phase A (cut false) or B (true) lets that phase complete and no later one start, and the call does not
return (Table 16.12a). -/
def otpWrite (s : State) (role v : Nat) (vbatA vbatB good : Bool) (cut : Option Bool) : State × PlaneRes :=
  let i := nextSlot s
  if roleWritable s role = false then (s, PlaneRes.only stDENIED)
  else if i ≥ 64 then (s, PlaneRes.only stFULL)
  else if vbatA = false then openStatus s
  else
    let s := setOtp s i { header := role, value := v, check := 0 }
    if cut = some false then (s, PlaneRes.frozen)
    else if vbatB = false then (s, PlaneRes.only stTORN)
    else
      let (r, s) := drawFree s
      let s := setOtp s i { header := role, value := v, check := if good then slotCheck role v i else r % 2 ^ 32 }
      if cut = some true then (s, PlaneRes.frozen)
      else if slotState s i = 1 then (s, PlaneRes.give i) else (s, PlaneRes.only stTORN)

/-- R461, R467, R481; vbatA and vbatB are the comparator before each phase. -/
def execKloadOtpWrite (who : Agent) (f : FmtX) (vbatA vbatB good : Bool) (s : State) (cut : Option Bool := none) :
    Host.Outcome State Fault Refusal :=
  .next (vaultX who 0 2 (kloadDesc f 2) f (fun _ k c _ b => .ok (vaultImage k c b 64))
    (fun s k a b img => if localRange k b 64 then otpWrite s (a % 16) (leNat img) vbatA vbatB good cut else (s, PlaneRes.only stDENIED)) s)

/-- KLOAD LIFECYCLE to state t; a move to Returned clears WKR and the IDK, after a pending KSIGN (Table 16.12a). -/
def moveLifecycle (s : State) (t : Nat) (vbat : Bool) : State × PlaneRes :=
  let cur := lifecycle s
  if t = cur then (s, PlaneRes.only stOK)
  else if t < cur then vaultViolation s 2
  else if moveAllowed s t = false then (s, PlaneRes.only stDENIED)
  else if vbat = false then openStatus s
  else
    let s := { s with vault := { s.vault with fuses := s.vault.fuses ||| 3 * 2 ^ (2 * t - 2) } }
    let s := if t ≠ 3 then s
      else if s.vault.sign.isSome then { s with vault := { s.vault with clearAfter := true } }
      else clearRootKeys s
    (s, PlaneRes.only stOK)

/-- R462, R467. -/
def execKloadLifecycle (who : Agent) (f : FmtX) (vbat : Bool) (s : State) : Host.Outcome State Fault Refusal :=
  .next (vaultX who 0 2 (kloadDesc f 3) f noImage (fun s _ a _ _ => moveLifecycle s (a % 4) vbat) s)

/-- R465, R467. -/
def execKloadClear (who : Agent) (f : FmtX) (s : State) : Host.Outcome State Fault Refusal :=
  .next (vaultX who 0 2 (kloadDesc f 4) f noImage (fun s _ a _ _ =>
    if (getKey s (a % 256)).isSome then (invalidateKey s (a % 256), PlaneRes.only stOK) else (s, PlaneRes.only stMISS)) s)

/-! ### KDERIVE (R468) -/

/-- Bytes of an input block: its word, the label and the context. -/
def deriveLen (w : Nat) : Nat := 4 + w % 65536 + w / 65536

/-- KDERIVE with an input block. -/
def kderive (s : State) (h : Nat) (wide exportable : Bool) (img : List Byte) : State × PlaneRes :=
  let w := im32 img 0
  let nl := w % 65536
  let nc := w / 65536
  match getKey s h with
  | none => (s, PlaneRes.only stMISS)
  | some k =>
    if k.stale then (s, PlaneRes.only stSTALE)
    else if nl < 1 ∨ nl > 64 ∨ nc > 128 ∨ k.depth ≥ 8 ∨ (h = 0 ∧ lifecycle s = 3) then (s, PlaneRes.only stDENIED)
    else match freeDerived s with
      | none => (s, PlaneRes.only stFULL)
      | some d =>
        let v := leNat (deriveBytes (keyBytes h k) (imgBytes img 4 nl) (imgBytes img (4 + nl) nc) wide)
        (storeKey s d v wide exportable h (k.depth + 1), PlaneRes.give d)

/-- R468. -/
def execKderive (who : Agent) (f : FmtX) (s : State) : Host.Outcome State Fault Refusal :=
  .next (vaultX who 1 2 f.desc f
    (fun _ k c _ b => .ok (vaultImage k c b (deriveLen (im32 (vaultImage k c b 4) 0))))
    (fun s _ a _ img =>
      if img.isEmpty then (s, PlaneRes.only stDENIED) else kderive s (a % 256) (f.desc.getLsbD 31) (f.desc.getLsbD 30) img) s)

/-! ### KWRAP (R469, R471) -/

/-- Whether LEN is one that KWRAP takes. -/
def wrapLen (n : Nat) : Bool := decide (16 ≤ n) && decide (n ≤ 2048) && n % 8 == 0

/-- The wrapped bytes at EA b. -/
def wrapOut (s : State) (h : Nat) (k : VKey) (b : Nat) (p : List Byte) : State × PlaneRes :=
  (s, { PlaneRes.only stOK with out := some (b, kwWrap (kekOf h k) p) })

/-- Whether a held key may not be wrapped: WKR, a fallback slot, the IDK, or a derived one without EXPORT (Table 16.6). -/
def keyKept (s : State) (h : Nat) : Bool := match getKey s h with
  | some x => decide (h < 16) || !x.exportable
  | none => false

/-- KWRAP wrap under key h: key sub, or the bytes given; inside tells whether the buffer lies in core-local memory.  KEY_EXPORT comes
before every status (R471). -/
def kwrapWrap (s : State) (h b n sub : Nat) (mem inside : Bool) (img : List Byte) : State × PlaneRes :=
  if mem = false ∧ keyKept s sub then vaultViolation s 1
  else match getKey s h with
  | none => (s, PlaneRes.only stMISS)
  | some k =>
    if k.stale then (s, PlaneRes.only stSTALE)
    else if wrapLen n = false ∨ inside = false then (s, PlaneRes.only stDENIED)
    else if mem then wrapOut s h k b img
    else match getKey s sub with
      | none => (s, PlaneRes.only stMISS)
      | some x =>
        if x.stale then (s, PlaneRes.only stSTALE)
        else if n ≠ keyBits sub x.wide / 8 then (s, PlaneRes.only stDENIED)
        else wrapOut s h k b (keyBytes sub x)

/-- R469. -/
def execKwrapWrap (who : Agent) (f : FmtX) (s : State) : Host.Outcome State Fault Refusal :=
  let y := setField 31 1 0 f.desc
  let n := bits y.toNat 15 0
  .next (vaultX who 2 2 y f (fun _ k c _ b => .ok (if y.getLsbD 29 then vaultImage k c b n else []))
    (fun s k a b img => kwrapWrap s (a % 256) b n (bits y.toNat 23 16) (y.getLsbD 29) (localRange k b (n + 8)) img) s)

/-- KWRAP unwrap of n + 8 bytes under key h, into the derived store or the IDK, which is no derived entry and so has no
parent (R463, R479 step 3). -/
def kwrapUnwrap (s : State) (h n : Nat) (toIdk exportable : Bool) (img : List Byte) : State × PlaneRes :=
  match getKey s h with
  | none => (s, PlaneRes.only stMISS)
  | some k =>
    if k.stale then (s, PlaneRes.only stSTALE)
    else if (toIdk ∧ n ≠ 1792) ∨ (toIdk = false ∧ ((n ≠ 32 ∧ n ≠ 64) ∨ k.depth ≥ 8)) then (s, PlaneRes.only stDENIED)
    else match kwUnwrap (kekOf h k) img with
      | none => (s, PlaneRes.only stBADSIG)
      | some p =>
        let v := leNat (fitTo n p)
        if toIdk then (reload' s 9 v false false 0x100 0, PlaneRes.give 9)
        else match freeDerived s with
          | none => (s, PlaneRes.only stFULL)
          | some d => (storeKey s d v (n == 64) exportable h (k.depth + 1), PlaneRes.give d)

/-- R469. -/
def execKwrapUnwrap (who : Agent) (f : FmtX) (s : State) : Host.Outcome State Fault Refusal :=
  let y := setField 31 1 1 f.desc
  let n := bits y.toNat 15 0
  .next (vaultX who 2 2 y f (fun _ k c _ b => .ok (vaultImage k c b (n + 8)))
    (fun s k a b img =>
      if localRange k b (n + 8) then kwrapUnwrap s (a % 256) n (y.getLsbD 30) (y.getLsbD 28) img else (s, PlaneRes.only stDENIED)) s)

/-! ### KSIGN and KVERIFY (R470, R480) -/

/-- The request of a block at EA a, whose key a KSIGN begins with. -/
def sigOf (a m : Nat) (img : List Byte) (key : Nat) : SigOp :=
  { ea := a, agent := m, msgEa := im64 img 0, msgLen := im32 img 8, mode := im8 img 0x0F, role := im8 img 0x0E, sigEa := im64 img 0x10
    keyEa := im64 img 0x18, key := key }

/-- Whether a block's reserved fields are zero and its ranges lie in core-local memory. -/
def sigOk (k : Nat) (img : List Byte) : Bool :=
  im16 img 0x0C == 0 && allZero (imgBytes img 0x22 0x1E) && decide (1 ≤ im32 img 8) && decide (im32 img 8 ≤ 4194304)
    && localRange k (im64 img 0) (im32 img 8)

/-- KSIGN of a block at EA a by core k. -/
def ksign (s : State) (k a : Nat) (img : List Byte) : State × PlaneRes :=
  let mode := im8 img 0x0F
  if s.vault.sign.isSome then (s, PlaneRes.only stFULL)
  else match getKey s 9 with
    | none => (s, PlaneRes.only stMISS)
    | some x =>
      if localRange k a 64 = false ∨ sigOk k img = false ∨ mode > 1 ∨ (mode = 1 ∧ im32 img 8 ≠ 256) ∨ im64 img 0x18 ≠ 0 ∨ im8 img 0x0E ≠ 0
          ∨ localRange k (im64 img 0x10) 512 = false then (s, PlaneRes.only stDENIED)
      else ({ s with vault := { s.vault with sign := some (sigOf a k img x.clear) } }, PlaneRes.only stOK)

/-- R470. -/
def execKsign (who : Agent) (f : FmtX) (s : State) : Host.Outcome State Fault Refusal :=
  .next (vaultX who 3 2 f.desc f (fun _ k c a _ => .ok (vaultImage k c a 64)) (fun s k a _ img => ksign s k a img) s)

/-- KVERIFY of a block at EA a by core k. -/
def kverify (s : State) (k a : Nat) (img : List Byte) : State × PlaneRes :=
  let mode := im8 img 0x0F
  let role := im8 img 0x0E
  if s.vault.verify.isSome then (s, PlaneRes.only stFULL)
  else if localRange k a 64 = false ∨ sigOk k img = false ∨ mode > 1 ∨ ¬(role = 0xFF ∨ (2 ≤ role ∧ role ≤ 4))
      ∨ (mode = 0 ∧ (localRange k (im64 img 0x18) 512 = false ∨ localRange k (im64 img 0x10) 512 = false))
      ∨ (mode = 1 ∧ (im64 img 0x18 ≠ 0 ∨ im64 img 0x10 < 2 ^ 63)) then (s, PlaneRes.only stDENIED)
  else ({ s with vault := { s.vault with verify := some (sigOf a k img 0) } }, PlaneRes.only stOK)

/-- R470. -/
def execKverify (who : Agent) (f : FmtX) (s : State) : Host.Outcome State Fault Refusal :=
  .next (vaultX who 4 1 f.desc f (fun _ k c a _ => .ok (vaultImage k c a 64)) (fun s k a _ img => kverify s k a img) s)

/-- The cores that an operation accepted from core k serves: all three of the voted Triad, else itself. -/
def vaultCores (s : State) (k : Nat) : List Nat := if s.triad.split ∨ s.triad.lockstepBroken then [k] else [0, 1, 2]

/-- Ranges of core-local memory that the cores of an operation stream one after another, as the voter passes them (R466, Table 12.1). -/
def vaultRead (s : State) (k : Nat) (l : List (Nat × Nat)) : State × Option (List Byte) :=
  let ks := vaultCores s k
  let voted := ks.length == 3
  voteAll s voted ((if voted then ks.filter (fun i => !s.triad.excluded.getLsbD i) else ks).map (fun i =>
    (i, some (l.flatMap (fun e => localBytes (getCore s i) e.1 e.2)))))

/-- Writes bytes to the local memory of the cores that an operation serves. -/
def vaultWrite (s : State) (k a : Nat) (b : List Byte) : State :=
  (vaultCores s k).foldl (fun s i => setCore s i { getCore s i with lmem := memPut (getCore s i).lmem (a - 2 ^ 63) b }) s

/-- STATUS and DETAIL are written and VAULT_DONE is raised (Table 2.16). -/
def sigDone (s : State) (op : SigOp) (status detail : Nat) : State :=
  let s := vaultWrite s op.agent (op.ea + 0x20) (leBytes 1 status ++ leBytes 1 detail)
  (vaultCores s op.agent).foldl (fun s i => setCore s i { getCore s i with latched := (getCore s i).latched ||| 0x20#8 }) s

/-- Bytes 0x000 to 0x05F of an attestation record (Table 16.11). -/
def attestHead (s : State) : List Byte :=
  let b := s.vault.boot
  let t := s.triad
  leBytes 4 (2 ^ 16 + s.gh.mode.code * 2 ^ 12 + lifecycle s * 2 ^ 10)
    ++ leBytes 4 (b2n (t.split || t.lockstepBroken) * 2 ^ 31 + b2n t.split * 2 ^ 30 + b2n t.lockstepBroken * 2 ^ 29
        + b2n s.vault.fallbackUsed * 2 ^ 28 + s.gh.bootsel)
    ++ leBytes 8 Config.serial.toNat ++ leBytes 8 s.bench.tickCount ++ leBytes 4 b.svn ++ leBytes 4 b.slot ++ beBytes 64 b.measure

/-- A KSIGN completes; keys that the move to Returned clears go then (Table 16.12a). -/
def ksignComplete (s : State) (op : SigOp) : State :=
  let s := { s with vault := { s.vault with sign := none } }
  let s :=
    if s.vault.trngFail then sigDone s op stDENIED 0
    else
      let s := if op.mode = 1 then vaultWrite s op.agent op.msgEa (attestHead s) else s
      let (salt, s) := drawFree s
      match vaultRead s op.agent [(op.msgEa, op.msgLen)] with
      | (s, some msg) => sigDone (vaultWrite s op.agent op.sigEa (fitTo 512 (pssSign (leBytes 1792 op.key) msg (leBytes 64 salt)))) op stOK 0
      | (s, none) => s
  let s := remaskAfter s
  if s.vault.clearAfter then clearRootKeys { s with vault := { s.vault with clearAfter := false } } else s

/-- R470, R480. -/
def execKsignComplete (s : State) : Host.Outcome State Fault Refusal :=
  .next (match s.vault.sign with
    | some op => if deviceRuns s then ksignComplete s op else s
    | none => s)

/-- A KVERIFY completes. -/
def kverifyComplete (s : State) (op : SigOp) : State :=
  let s := { s with vault := { s.vault with verify := none } }
  match vaultRead s op.agent ((op.msgEa, op.msgLen) :: if op.mode = 1 then [] else [(op.keyEa, 512), (op.sigEa, 512)]) with
  | (s, none) => s
  | (s, some b) =>
    let msg := b.take op.msgLen
    if op.mode = 1 then
      let r := suhildCheck s msg op.role (roleKinds op.role)
      sigDone s op (if r.2 then stOK else stBADSIG) r.1
    else
      let key := imgBytes b op.msgLen 512
      let anch := op.role == 0xFF || anchored s op.role key
      let good := anch && pssVerify key msg (imgBytes b (op.msgLen + 512) 512)
      sigDone s op (if good then stOK else stBADSIG) (b2n (op.role == 0xFF) + 2 * b2n (!anch))

/-- R470, R477. -/
def execKverifyComplete (s : State) : Host.Outcome State Fault Refusal :=
  .next (match s.vault.verify with
    | some op => if deviceRuns s then kverifyComplete s op else s
    | none => s)

/-! ### Masks and the TRNG (R464, R475) -/

/-- R464: the pass REMASK_MS milliseconds after the last, to which the clock runs; it pauses while the TRNG fails. -/
def execRemaskPass (s : State) : Host.Outcome State Fault Refusal :=
  .next (if deviceRuns s = false ∨ s.vault.trngFail then s
    else remaskAll (advance s (s.vault.remaskAt + s.vault.remaskMs * 1000000 - s.localNs)))

/-- R475. -/
def execTrngHealthFail (s : State) : Host.Outcome State Fault Refusal :=
  .next (if inReset s then s else { s with vault := { s.vault with trngFail := true } })

/-- R475. -/
def execTrngHealthRecover (s : State) : Host.Outcome State Fault Refusal :=
  .next (if inReset s then s else { s with vault := { s.vault with trngFail := false } })

end Sys2Proof.Machine
end

