-- ==== Sys2Proof/Machine/Dispatch.lean ====
section
/-! DEFINITION. Machine/Dispatch.lean: exec, one arm per command of the table. -/

namespace Sys2Proof.Machine

def exec (i : Instr) (s : State) : Host.Outcome State Fault Refusal :=
  match i with
  | .add who f => Sys2Proof.Machine.execAdd who f s
  | .sub who f => Sys2Proof.Machine.execSub who f s
  | .mul who f => Sys2Proof.Machine.execMul who f s
  | .mulhu who f => Sys2Proof.Machine.execMulhu who f s
  | .min who f => Sys2Proof.Machine.execMin who f s
  | .max who f => Sys2Proof.Machine.execMax who f s
  | .minu who f => Sys2Proof.Machine.execMinu who f s
  | .maxu who f => Sys2Proof.Machine.execMaxu who f s
  | .and who f => Sys2Proof.Machine.execAnd who f s
  | .or who f => Sys2Proof.Machine.execOr who f s
  | .xor who f => Sys2Proof.Machine.execXor who f s
  | .andn who f => Sys2Proof.Machine.execAndn who f s
  | .orn who f => Sys2Proof.Machine.execOrn who f s
  | .xnor who f => Sys2Proof.Machine.execXnor who f s
  | .sll who f => Sys2Proof.Machine.execSll who f s
  | .srl who f => Sys2Proof.Machine.execSrl who f s
  | .sra who f => Sys2Proof.Machine.execSra who f s
  | .rol who f => Sys2Proof.Machine.execRol who f s
  | .ror who f => Sys2Proof.Machine.execRor who f s
  | .clz who f => Sys2Proof.Machine.execClz who f s
  | .ctz who f => Sys2Proof.Machine.execCtz who f s
  | .popc who f => Sys2Proof.Machine.execPopc who f s
  | .bswap who f => Sys2Proof.Machine.execBswap who f s
  | .bswap32 who f => Sys2Proof.Machine.execBswap32 who f s
  | .bswap16 who f => Sys2Proof.Machine.execBswap16 who f s
  | .cmpeq who f => Sys2Proof.Machine.execCmpeq who f s
  | .cmpne who f => Sys2Proof.Machine.execCmpne who f s
  | .cmplt who f => Sys2Proof.Machine.execCmplt who f s
  | .cmpltu who f => Sys2Proof.Machine.execCmpltu who f s
  | .cmple who f => Sys2Proof.Machine.execCmple who f s
  | .cmpleu who f => Sys2Proof.Machine.execCmpleu who f s
  | .tstz who f => Sys2Proof.Machine.execTstz who f s
  | .tstnz who f => Sys2Proof.Machine.execTstnz who f s
  | .sel who n f => Sys2Proof.Machine.execSel who n f s
  | .pand who f => Sys2Proof.Machine.execPand who f s
  | .por who f => Sys2Proof.Machine.execPor who f s
  | .pxor who f => Sys2Proof.Machine.execPxor who f s
  | .pandn who f => Sys2Proof.Machine.execPandn who f s
  | .ptow who f => Sys2Proof.Machine.execPtow who f s
  | .wtop who f => Sys2Proof.Machine.execWtop who f s
  | .divu who f => Sys2Proof.Machine.execDivu who f s
  | .remu who f => Sys2Proof.Machine.execRemu who f s
  | .divs who f => Sys2Proof.Machine.execDivs who f s
  | .rems who f => Sys2Proof.Machine.execRems who f s
  | .addi who f => Sys2Proof.Machine.execAddi who f s
  | .andi who f => Sys2Proof.Machine.execAndi who f s
  | .ori who f => Sys2Proof.Machine.execOri who f s
  | .xori who f => Sys2Proof.Machine.execXori who f s
  | .slli who f => Sys2Proof.Machine.execSlli who f s
  | .srli who f => Sys2Proof.Machine.execSrli who f s
  | .srai who f => Sys2Proof.Machine.execSrai who f s
  | .mov who f => Sys2Proof.Machine.execMov who f s
  | .extu who f => Sys2Proof.Machine.execExtu who f s
  | .exts who f => Sys2Proof.Machine.execExts who f s
  | .ins who f => Sys2Proof.Machine.execIns who f s
  | .cmpeqi who f => Sys2Proof.Machine.execCmpeqi who f s
  | .cmplti who f => Sys2Proof.Machine.execCmplti who f s
  | .cmpltui who f => Sys2Proof.Machine.execCmpltui who f s
  | .tsti who f => Sys2Proof.Machine.execTsti who f s
  | .li who f => Sys2Proof.Machine.execLi who f s
  | .liz who f => Sys2Proof.Machine.execLiz who f s
  | .mk16 who f => Sys2Proof.Machine.execMk16 who f s
  | .mk32 who f => Sys2Proof.Machine.execMk32 who f s
  | .mk48 who f => Sys2Proof.Machine.execMk48 who f s
  | .ld8u who f => Sys2Proof.Machine.execLd8u who f s
  | .ld16u who f => Sys2Proof.Machine.execLd16u who f s
  | .ld32u who f => Sys2Proof.Machine.execLd32u who f s
  | .ld64 who f => Sys2Proof.Machine.execLd64 who f s
  | .ld8s who f => Sys2Proof.Machine.execLd8s who f s
  | .ld16s who f => Sys2Proof.Machine.execLd16s who f s
  | .ld32s who f => Sys2Proof.Machine.execLd32s who f s
  | .st8 who f => Sys2Proof.Machine.execSt8 who f s
  | .st16 who f => Sys2Proof.Machine.execSt16 who f s
  | .st32 who f => Sys2Proof.Machine.execSt32 who f s
  | .st64 who f => Sys2Proof.Machine.execSt64 who f s
  | .ldk who f => Sys2Proof.Machine.execLdk who f s
  | .amoadd who fn f => Sys2Proof.Machine.execAmoadd who fn f s
  | .br who f => Sys2Proof.Machine.execBr who f s
  | .call who f => Sys2Proof.Machine.execCall who f s
  | .ret who fn f => Sys2Proof.Machine.execRet who fn f s
  | .loop who f => Sys2Proof.Machine.execLoop who f s
  | .loopr who f => Sys2Proof.Machine.execLoopr who f s
  | .jr who f => Sys2Proof.Machine.execJr who f s
  | .callr who f => Sys2Proof.Machine.execCallr who f s
  | .csrr who f => Sys2Proof.Machine.execCsrr who f s
  | .csrw who f => Sys2Proof.Machine.execCsrw who f s
  | .csrs who f => Sys2Proof.Machine.execCsrs who f s
  | .csrc who f => Sys2Proof.Machine.execCsrc who f s
  | .trap who f => Sys2Proof.Machine.execTrap who f s
  | .tret who f => Sys2Proof.Machine.execTret who f s
  | .wfi who f => Sys2Proof.Machine.execWfi who f s
  | .fence who f => Sys2Proof.Machine.execFence who f s
  | .wfiResume who => Sys2Proof.Machine.execWfiResume who s
  | .interruptTake who => Sys2Proof.Machine.execInterruptTake who s
  | .frd who n f => Sys2Proof.Machine.execFrd who n f s
  | .fwr who n f => Sys2Proof.Machine.execFwr who n f s
  | .fwrBuffer who n f => Sys2Proof.Machine.execFwrBuffer who n f s
  | .xtr who f => Sys2Proof.Machine.execXtr who f s
  | .csum who f => Sys2Proof.Machine.execCsum who f s
  | .tstampShort who n f => Sys2Proof.Machine.execTstampShort who n f s
  | .tstampSeconds who n f => Sys2Proof.Machine.execTstampSeconds who n f s
  | .tstampMark who n f => Sys2Proof.Machine.execTstampMark who n f s
  | .lkpExact who f => Sys2Proof.Machine.execLkpExact who f s
  | .lkpLpm who f => Sys2Proof.Machine.execLkpLpm who f s
  | .lrn who f => Sys2Proof.Machine.execLrn who f s
  | .del who f => Sys2Proof.Machine.execDel who f s
  | .conLookup who f => Sys2Proof.Machine.execConLookup who f s
  | .conOpen who f => Sys2Proof.Machine.execConOpen who f s
  | .conUpdate who f => Sys2Proof.Machine.execConUpdate who f s
  | .conClose who f => Sys2Proof.Machine.execConClose who f s
  | .alloc who f => Sys2Proof.Machine.execAlloc who f s
  | .share who f => Sys2Proof.Machine.execShare who f s
  | .release who f => Sys2Proof.Machine.execRelease who f s
  | .free who f => Sys2Proof.Machine.execFree who f s
  | .meter who f => Sys2Proof.Machine.execMeter who f s
  | .verdictConfirm who f => Sys2Proof.Machine.execVerdictConfirm who f s
  | .verdictWithdraw who f => Sys2Proof.Machine.execVerdictWithdraw who f s
  | .enq who f => Sys2Proof.Machine.execEnq who f s
  | .enqBuf who f => Sys2Proof.Machine.execEnqBuf who f s
  | .mcast who f => Sys2Proof.Machine.execMcast who f s
  | .drop who f => Sys2Proof.Machine.execDrop who f s
  | .punt who f => Sys2Proof.Machine.execPunt who f s
  | .recirc who f => Sys2Proof.Machine.execRecirc who f s
  | .done who f => Sys2Proof.Machine.execDone who f s
  | .stage who f => Sys2Proof.Machine.execStage who f s
  | .commit who f => Sys2Proof.Machine.execCommit who f s
  | .abortCommit who f => Sys2Proof.Machine.execAbortCommit who f s
  | .abortGroup who f => Sys2Proof.Machine.execAbortGroup who f s
  | .thawMaster who f => Sys2Proof.Machine.execThawMaster who f s
  | .thawPartner who f => Sys2Proof.Machine.execThawPartner who f s
  | .gatelist who f => Sys2Proof.Machine.execGatelist who f s
  | .shaper who f => Sys2Proof.Machine.execShaper who f s
  | .epoch who f => Sys2Proof.Machine.execEpoch who f s
  | .bank who f => Sys2Proof.Machine.execBank who f s
  | .leaseTake who f => Sys2Proof.Machine.execLeaseTake who f s
  | .leaseJoin who f => Sys2Proof.Machine.execLeaseJoin who f s
  | .leaseForce who f => Sys2Proof.Machine.execLeaseForce who f s
  | .leaseRelease who f => Sys2Proof.Machine.execLeaseRelease who f s
  | .kloadRoot who f => Sys2Proof.Machine.execKloadRoot who f s
  | .kloadFallback who f => Sys2Proof.Machine.execKloadFallback who f s
  | .kloadOtpWrite who f vbatA vbatB good cut => Sys2Proof.Machine.execKloadOtpWrite who f vbatA vbatB good s cut
  | .kloadLifecycle who f vbat => Sys2Proof.Machine.execKloadLifecycle who f vbat s
  | .kloadClear who f => Sys2Proof.Machine.execKloadClear who f s
  | .kderive who f => Sys2Proof.Machine.execKderive who f s
  | .kwrapWrap who f => Sys2Proof.Machine.execKwrapWrap who f s
  | .kwrapUnwrap who f => Sys2Proof.Machine.execKwrapUnwrap who f s
  | .ksign who f => Sys2Proof.Machine.execKsign who f s
  | .kverify who f => Sys2Proof.Machine.execKverify who f s
  | .ksignComplete => Sys2Proof.Machine.execKsignComplete s
  | .kverifyComplete => Sys2Proof.Machine.execKverifyComplete s
  | .benchTickBoundary => Sys2Proof.Machine.execBenchTickBoundary s
  | .leaseExpiry => Sys2Proof.Machine.execLeaseExpiry s
  | .leadYield => Sys2Proof.Machine.execLeadYield s
  | .takeTimeout => Sys2Proof.Machine.execTakeTimeout s
  | .frameReceive node bytes line sec plca => Sys2Proof.Machine.execFrameReceive node bytes line sec plca s
  | .haltFrameReceive node bytes sec plca => Sys2Proof.Machine.execHaltFrameReceive node bytes s sec plca
  | .sequenceAssign src => Sys2Proof.Machine.execSequenceAssign src s
  | .dispatch group => Sys2Proof.Machine.execDispatch group s
  | .recircReentry t => Sys2Proof.Machine.execRecircReentry t s
  | .waitDrop src => Sys2Proof.Machine.execWaitDrop src s
  | .packetTickOverrun t => Sys2Proof.Machine.execPacketTickOverrun t s
  | .triadTickOverrun => Sys2Proof.Machine.execTriadTickOverrun s
  | .reorderGap src => Sys2Proof.Machine.execReorderGap src s
  | .haulDecision node => Sys2Proof.Machine.execHaulDecision node s
  | .frameTxEnd node => Sys2Proof.Machine.execFrameTxEnd node s
  | .specTailPoint node => Sys2Proof.Machine.execSpecTailPoint node s
  | .stompEcc node => Sys2Proof.Machine.execStompEcc node s
  | .headStoreMatch => Sys2Proof.Machine.execHeadStoreMatch s
  | .spillCell mover => Sys2Proof.Machine.execSpillCell mover s
  | .hopperRefillBurst pool => Sys2Proof.Machine.execHopperRefillBurst pool s
  | .hopperDrainBurst pool => Sys2Proof.Machine.execHopperDrainBurst pool s
  | .spoilRetry node => Sys2Proof.Machine.execSpoilRetry node s
  | .spoilExpire node => Sys2Proof.Machine.execSpoilExpire node s
  | .holdWatchChange pin level => Sys2Proof.Machine.execHoldWatchChange pin level s
  | .holdExpired queue => Sys2Proof.Machine.execHoldExpired queue s
  | .pauseFlush node cls => Sys2Proof.Machine.execPauseFlush node cls s
  | .pfcReceive lane cls quanta => Sys2Proof.Machine.execPfcReceive lane cls quanta s
  | .pfcPauseExpire lane cls => Sys2Proof.Machine.execPfcPauseExpire lane cls s
  | .pfcRepeat lane cls => Sys2Proof.Machine.execPfcRepeat lane cls s
  | .fabricCellSend lane => Sys2Proof.Machine.execFabricCellSend lane s
  | .creditCellSend lane => Sys2Proof.Machine.execCreditCellSend lane s
  | .fabricCellReceive lane cell => Sys2Proof.Machine.execFabricCellReceive lane cell s
  | .ageSweepPass table => Sys2Proof.Machine.execAgeSweepPass table s
  | .ageSweepVisit table ovf index => Sys2Proof.Machine.execAgeSweepVisit table ovf index s
  | .relocationDrain dram => Sys2Proof.Machine.execRelocationDrain dram s
  | .normalise tag => Sys2Proof.Machine.execNormalise tag s
  | .connSweepVisit conn => Sys2Proof.Machine.execConnSweepVisit conn s
  | .connClearFree => Sys2Proof.Machine.execConnClearFree s
  | .epochScrub => Sys2Proof.Machine.execEpochScrub s
  | .gateChange node => Sys2Proof.Machine.execGateChange node s
  | .gateListTakeover node => Sys2Proof.Machine.execGateListTakeover node s
  | .streamGateChange gate => Sys2Proof.Machine.execStreamGateChange gate s
  | .slewComplete tb => Sys2Proof.Machine.execSlewComplete tb s
  | .ppsInEdge pin level => Sys2Proof.Machine.execPpsInEdge pin level s
  | .ppsOutEdge pin => Sys2Proof.Machine.execPpsOutEdge pin s
  | .ppsOutFall pin => Sys2Proof.Machine.execPpsOutFall pin s
  | .phyLinkOk node speed leader eee fec => Sys2Proof.Machine.execPhyLinkOk node speed leader eee fec s
  | .portNodeUp node => Sys2Proof.Machine.execPortNodeUp node s
  | .phyLinkLoss node cut => Sys2Proof.Machine.execPhyLinkLoss node s cut
  | .preemptVerifyDone node => Sys2Proof.Machine.execPreemptVerifyDone node s
  | .plcaBeaconLost seg => Sys2Proof.Machine.execPlcaBeaconLost seg s
  | .plcaBeaconRx seg collisions => Sys2Proof.Machine.execPlcaBeaconRx seg s collisions
  | .tempSample t0 t1 t2 t3 => Sys2Proof.Machine.execTempSample t0 t1 t2 t3 s
  | .recalStart => Sys2Proof.Machine.execRecalStart s
  | .recalDone node => Sys2Proof.Machine.execRecalDone node s
  | .cableTestStart => Sys2Proof.Machine.execCableTestStart s
  | .cableResult node result dist => Sys2Proof.Machine.execCableResult node result dist s
  | .sqiMeasure node margin => Sys2Proof.Machine.execSqiMeasure node margin s
  | .tc10PartnerAck node => Sys2Proof.Machine.execTc10PartnerAck node s
  | .tc10SleepTimeout node => Sys2Proof.Machine.execTc10SleepTimeout node s
  | .tc10PartnerRefuse node => Sys2Proof.Machine.execTc10PartnerRefuse node s
  | .tc10PartnerSleepReq node => Sys2Proof.Machine.execTc10PartnerSleepReq node s
  | .tc10WakePulseRx node => Sys2Proof.Machine.execTc10WakePulseRx node s
  | .tc10WakeRequestRx node => Sys2Proof.Machine.execTc10WakeRequestRx node s
  | .txdTimeout ch on => Sys2Proof.Machine.execTxdTimeout ch s on
  | .thermalShutdown ch on => Sys2Proof.Machine.execThermalShutdown ch s on
  | .busShort ch ground on => Sys2Proof.Machine.execBusShort ch s ground on
  | .busWakePattern ch => Sys2Proof.Machine.execBusWakePattern ch s
  | .canFrameReceive ch msg back => Sys2Proof.Machine.execCanFrameReceive ch msg back s
  | .linResponseReceive ch id bytes good back => Sys2Proof.Machine.execLinResponseReceive ch id bytes good back s
  | .relayEgress => Sys2Proof.Machine.execRelayEgress s
  | .canTxExpire ch => Sys2Proof.Machine.execCanTxExpire ch s
  | .canTxComplete ch => Sys2Proof.Machine.execCanTxComplete ch s
  | .canErrorPassive ch tec rxc => Sys2Proof.Machine.execCanErrorPassive ch tec rxc s
  | .canBusOff ch => Sys2Proof.Machine.execCanBusOff ch s
  | .canBusOffRecovered ch => Sys2Proof.Machine.execCanBusOffRecovered ch s
  | .linScheduleSlot ch => Sys2Proof.Machine.execLinScheduleSlot ch s
  | .linHeaderReceive ch id => Sys2Proof.Machine.execLinHeaderReceive ch id s
  | .spallLoad img good => Sys2Proof.Machine.execSpallLoad img good s
  | .voteWindowExpire core voter => Sys2Proof.Machine.execVoteWindowExpire core s voter
  | .hashCompare voter => Sys2Proof.Machine.execHashCompare s voter
  | .coreReload core => Sys2Proof.Machine.execCoreReload core s
  | .rejoinFail core => Sys2Proof.Machine.execRejoinFail core s
  | .delayEccScrub single double => Sys2Proof.Machine.execDelayEccScrub single double s
  | .coastLimitReached => Sys2Proof.Machine.execCoastLimitReached s
  | .wdtEsc => Sys2Proof.Machine.execWdtEsc s
  | .ctrlWdt => Sys2Proof.Machine.execCtrlWdt s
  | .pairLaneUp lane => Sys2Proof.Machine.execPairLaneUp lane s
  | .pairLaneDown lane => Sys2Proof.Machine.execPairLaneDown lane s
  | .beatReceive b => Sys2Proof.Machine.execBeatReceive b s
  | .deltaChunkSend => Sys2Proof.Machine.execDeltaChunkSend s
  | .deltaReceive lane tick chunk good => Sys2Proof.Machine.execDeltaReceive lane tick chunk good s
  | .ackReceive tick => Sys2Proof.Machine.execAckReceive tick s
  | .reqReceive tick => Sys2Proof.Machine.execReqReceive tick s
  | .grantReceive tick => Sys2Proof.Machine.execGrantReceive tick s
  | .releaseReceive tick => Sys2Proof.Machine.execReleaseReceive tick s
  | .bulkReceive lane tick chunk good => Sys2Proof.Machine.execBulkReceive lane tick chunk good s
  | .nakReceive lane index => Sys2Proof.Machine.execNakReceive lane index s
  | .restartFrameReceive => Sys2Proof.Machine.execRestartFrameReceive s
  | .recoveryFunctionReset func => Sys2Proof.Machine.execRecoveryFunctionReset func s
  | .hostCreditStall posted nonPosted => Sys2Proof.Machine.execHostCreditStall s posted nonPosted
  | .hostCreditRecover => Sys2Proof.Machine.execHostCreditRecover s
  | .pcieLinkUp width gen => Sys2Proof.Machine.execPcieLinkUp width gen s
  | .txFrameEntry q bytes => Sys2Proof.Machine.execTxFrameEntry q bytes s
  | .wbCopyEntry q overtaken => Sys2Proof.Machine.execWbCopyEntry q s overtaken
  | .queuePairEnable q group rxSize txSize => Sys2Proof.Machine.execQueuePairEnable q group rxSize txSize s
  | .queuePairDisable q => Sys2Proof.Machine.execQueuePairDisable q s
  | .rxTailWrite q tail entries => Sys2Proof.Machine.execRxTailWrite q tail entries s
  | .txTailWrite q tail entries => Sys2Proof.Machine.execTxTailWrite q tail entries s
  | .tpHeadWrite value => Sys2Proof.Machine.execTpHeadWrite value s
  | .evqAckWrite who value => Sys2Proof.Machine.execEvqAckWrite who value s
  | .mailboxSend who ring len => Sys2Proof.Machine.execMailboxSend who ring len s
  | .mailboxPop who ring => Sys2Proof.Machine.execMailboxPop who ring s
  | .tickCountLoRead who => Sys2Proof.Machine.execTickCountLoRead who s
  | .tbnNsRead who tb => Sys2Proof.Machine.execTbnNsRead who tb s
  | .trngRead who => Sys2Proof.Machine.execTrngRead who s
  | .resetReq block => Sys2Proof.Machine.execResetReq block s
  | .powerOff block => Sys2Proof.Machine.execPowerOff block s
  | .powerOn block => Sys2Proof.Machine.execPowerOn block s
  | .rstCauseClear core value => Sys2Proof.Machine.execRstCauseClear core value s
  | .wakeSrcClear core value => Sys2Proof.Machine.execWakeSrcClear core value s
  | .xspiOwnerWrite who owner => Sys2Proof.Machine.execXspiOwnerWrite who owner s
  | .registerWrite who addr wide value => Sys2Proof.Machine.execRegisterWrite who addr wide value s
  | .hostRestartCmd block => Sys2Proof.Machine.execHostRestartCmd block s
  | .hostColdCmd block => Sys2Proof.Machine.execHostColdCmd block s
  | .hostWarmCmd block => Sys2Proof.Machine.execHostWarmCmd block s
  | .mgmtHostCmd block => Sys2Proof.Machine.execMgmtHostCmd block s
  | .hostCmdComplete => Sys2Proof.Machine.execHostCmdComplete s
  | .bootGo => Sys2Proof.Machine.execBootGo s
  | .dbgGo len => Sys2Proof.Machine.execDbgGo len s
  | .dbgDetach => Sys2Proof.Machine.execDbgDetach s
  | .dbgVerifyComplete => Sys2Proof.Machine.execDbgVerifyComplete s
  | .extest => Sys2Proof.Machine.execExtest s
  | .samplePreload scan => Sys2Proof.Machine.execSamplePreload scan s
  | .idcode => Sys2Proof.Machine.execIdcode s
  | .clamp => Sys2Proof.Machine.execClamp s
  | .bypass code => Sys2Proof.Machine.execBypass s code
  | .dbgToken words => Sys2Proof.Machine.execDbgToken words s
  | .dbgCtrlStart len detach => Sys2Proof.Machine.execDbgCtrlStart len s detach
  | .dbgCtrlDetach detach => Sys2Proof.Machine.execDbgCtrlDetach s detach
  | .vbatOnRise => Sys2Proof.Machine.execVbatOnRise s
  | .vbatUvFall => Sys2Proof.Machine.execVbatUvFall s
  | .vbatOvRise => Sys2Proof.Machine.execVbatOvRise s
  | .vbatOvRelease => Sys2Proof.Machine.execVbatOvRelease s
  | .vbatPorFall => Sys2Proof.Machine.execVbatPorFall s
  | .pgoodRise step vio33 => Sys2Proof.Machine.execPgoodRise step s vio33
  | .pgFail step => Sys2Proof.Machine.execPgFail step s
  | .railStepDown => Sys2Proof.Machine.execRailStepDown s
  | .ext => Sys2Proof.Machine.execExt s
  | .therm => Sys2Proof.Machine.execTherm s
  | .clk => Sys2Proof.Machine.execClk s
  | .resetRelease => Sys2Proof.Machine.execResetRelease s
  | .optionLoading bootsel split pairEn => Sys2Proof.Machine.execOptionLoading bootsel split pairEn s
  | .dramInitDone => Sys2Proof.Machine.execDramInitDone s
  | .bootHeaderVerified header sections => Sys2Proof.Machine.execBootHeaderVerified header sections s
  | .bootWdt => Sys2Proof.Machine.execBootWdt s
  | .wakePinEdge pin rising => Sys2Proof.Machine.execWakePinEdge pin rising s
  | .wakeTimer => Sys2Proof.Machine.execWakeTimer s
  | .gatehouseBusWake lin ch => Sys2Proof.Machine.execGatehouseBusWake lin ch s
  | .sleepCommit => Sys2Proof.Machine.execSleepCommit s
  | .retainedEntryDone => Sys2Proof.Machine.execRetainedEntryDone s
  | .dormantWakeStart => Sys2Proof.Machine.execDormantWakeStart s
  | .resumeComplete => Sys2Proof.Machine.execResumeComplete s
  | .remaskPass => Sys2Proof.Machine.execRemaskPass s
  | .trngHealthFail => Sys2Proof.Machine.execTrngHealthFail s
  | .trngHealthRecover => Sys2Proof.Machine.execTrngHealthRecover s
  | .functionLevelReset => Sys2Proof.Machine.execFunctionLevelReset s
  | .blockResetComplete block => Sys2Proof.Machine.execBlockResetComplete block s
  | .blockPowerUpComplete block => Sys2Proof.Machine.execBlockPowerUpComplete block s
  | .testLogicReset => Sys2Proof.Machine.execTestLogicReset s

end Sys2Proof.Machine
end

