-- ==== Sys2Proof/Safety.lean ====
section
/-! DEFINITION. Safety.lean: the terms that claims use: when an agent executes an instruction, what it leaves
unchanged, and what a safe run of the device is. -/

namespace Sys2Proof

open Machine

/-- A step that goes on: it neither faults nor is refused. -/
def GoesOn (s : State) : Prop := ∃ t, step s = .next t

/-! ### Engine threads -/

/-- Words of an instruction: 2 with a descriptor, else 1. -/
def wordsOf (y : Option (BitVec 32)) : Nat := if y.isSome then 2 else 1

/-- Thread t holds a packet, is not frozen and does not wait for its LRN, and the instruction w, y is a legal encoding
within the issue slots of the running program (R46, R50, R64, R67, R70). -/
structure ThreadIssues (s : State) (t : Nat) (w : BitVec 32) (y : Option (BitVec 32)) (p : Packet) : Prop where
  packet : (getThread s t).pkt = some p
  thawed : isFrozen s t = false
  notWaiting : waitsReloc s t = false
  legal : legalP w.toNat ((y.getD 0#32).toNat) = true
  noPlane : fOp w.toNat < 0x70 ∨ 0x77 < fOp w.toNat
  oneWord : y.isSome = true → loopEndsAt (getThread s t) ((getThread s t).pc + 4#64) = false
  budget : ∃ g, passProg s p = some g ∧ (getThread s t).slots + wordsOf y ≤ g.c

/-- The guard of an instruction reads 1 on a thread or core's registers; BR and CALL carry none (R46). -/
def guardHolds (r : Regs) (w : BitVec 32) : Prop := fOp w.toNat = 0x50 ∨ fOp w.toNat = 0x51 ∨ pget r (fG w.toNat) = true

/-- Nothing outside thread t changed but the issue selector of its engine, whose priority passed to the next thread (R67). -/
structure OnlyThread (s s' : State) (t : Nat) : Prop where
  others : ∀ u, u ≠ t → getThread s' u = getThread s u
  rest : s' = { s with engine := { s.engine with threads := s'.engine.threads, prio := (issued s t).engine.prio } }

/-- Thread t took n issue slots, changed registers by R, and went on past an instruction of words words, or round the loop
whose last word it was (R64, R70); its stacks but for a finished loop, scratch, window, packet and marks are as before. -/
structure ThreadRan (s s' : State) (t words n : Nat) (R : Regs → Regs → Prop) : Prop where
  regs : R (getThread s t).regs (getThread s' t).regs
  rest : getThread s' t = afterInstr { getThread s t with w := (getThread s' t).w, p := (getThread s' t).p, slots := (getThread s t).slots + n }
    (getThread s t).pc ((getThread s t).pc + BitVec.ofNat 64 (4 * words))

/-- The same, and nothing outside thread t changed. -/
structure ThreadWent (s s' : State) (t words : Nat) (R : Regs → Regs → Prop) : Prop where
  only : OnlyThread s s' t
  ran : ThreadRan s s' t words words R

/-! ### Cores -/

/-- Core k of an agent issues the instruction w, y: it is neither held nor waiting, may fetch it, and the encoding is
legal (R44, R50, R61, R65, R362). -/
structure CoreIssues (s : State) (who : Agent) (k : Nat) (w : BitVec 32) (y : Option (BitVec 32)) : Prop where
  mine : k ∈ agentCores s who
  free : coreIdle s k = false
  fetch : fetchOk k (getCore s k) (4 * wordsOf y) = true
  legal : legalS w.toNat ((y.getD 0#32).toNat) = true

/-- Nothing outside the agent's cores changed. -/
structure OnlyCores (s s' : State) (who : Agent) : Prop where
  others : ∀ j, j ∉ agentCores s who → getCore s' j = getCore s j
  rest : s' = { s with cores := s'.cores }

/-- Core k retired an instruction of n words that changed its registers by R, and nothing else of it changed. -/
structure CoreWent (s s' : State) (k n : Nat) (R : Regs → Regs → Prop) : Prop where
  regs : R (getCore s k).regs (getCore s' k).regs
  rest : getCore s' k = { getCore s k with
    w := (getCore s' k).w, p := (getCore s' k).p, pc := (getCore s k).pc + BitVec.ofNat 64 (4 * n),
    retired := ((getCore s k).retired + 1) % 2 ^ 64 }

/-! ### Instructions that only change registers -/

/-- w[d] took a value, and no other register or predicate changed; a write to w0 is discarded (R43). -/
def RegIs (d : BitVec 6) (v : Regs → Word) (r r' : Regs) : Prop :=
  (∀ i, rget r' i = if i = d.toNat ∧ i ≠ 0 then v r else rget r i) ∧ r'.p = r.p

/-- Predicates took values and no register changed; p0 reads 1 (R43). -/
def PredsAre (v : Regs → Nat → Bool) (r r' : Regs) : Prop :=
  (∀ i, i < 8 → pget r' i = if i = 0 then true else v r i) ∧ r'.w = r.w

/-- What an instruction of one word does that only changes registers: on a thread or a core that issues it with its
guard 1, the relation R, and nothing else (R43, R46). -/
def RegLaw (i : Agent → Instr) (w : BitVec 32) (R : Regs → Regs → Prop) : Prop :=
  (∀ (s : State) (t : Fin 512) (p : Packet), ThreadIssues s t w none p → guardHolds (getThread s t).regs w →
    tblWf 0#64 (getThread s t).w = true →
    ∃ s', exec (i (.thread t)) s = .next s' ∧ ThreadWent s s' t 1 R)
  ∧ (∀ (s : State) (who : Agent) (k : Nat), CoreIssues s who k w none → guardHolds (getCore s k).regs w →
    s.cores.Pairwise (fun a b => a.1 < b.1) → tblWf 0#64 (getCore s k).w = true →
    ∃ s', exec (i who) s = .next s' ∧ CoreWent s s' k 1 R ∧ OnlyCores s s' who)

/-- w[a] and w[b] of a format A word as numbers. -/
def opA (f : FmtA) (r : Regs) : Nat := (rget r f.a.toNat).toNat
def opB (f : FmtA) (r : Regs) : Nat := (rget r f.b.toNat).toNat

/-- w[d] takes a number modulo 2^64. -/
def NatIs (d : BitVec 6) (v : Regs → Nat) : Regs → Regs → Prop := RegIs d (fun r => BitVec.ofNat 64 (v r))

/-- w[d] takes a signed number modulo 2^64. -/
def IntIs (d : BitVec 6) (v : Regs → Int) : Regs → Regs → Prop := RegIs d (fun r => BitVec.ofInt 64 (v r))

/-- A compare: p[d[2:0]] takes its result and p[d[5:3]] the complement; no other predicate and no register changes
(R47). -/
def CmpIs (d : BitVec 6) (c : Regs → Prop) (r r' : Regs) : Prop :=
  r'.w = r.w ∧ pget r' 0 = true ∧
  (d.toNat % 8 ≠ 0 → d.toNat / 8 ≠ d.toNat % 8 → (pget r' (d.toNat % 8) = true ↔ c r)) ∧
  (d.toNat / 8 ≠ 0 → d.toNat / 8 ≠ d.toNat % 8 → (pget r' (d.toNat / 8) = true ↔ ¬ c r)) ∧
  ∀ i, i < 8 → i ≠ d.toNat % 8 → i ≠ d.toNat / 8 → pget r' i = pget r i

/-! ### Packet X instructions -/

/-- The end of a packet X instruction: w[d] takes a value if there is one, then w1 the status word of Table 3.4 and p7 whether
the status is OK (R90). -/
def StatusIs (d : BitVec 6) (v : Option Word) (status detail high : Nat) (r r' : Regs) : Prop :=
  (∀ i, rget r' i = if i = 1 then BitVec.ofNat 64 (status + 256 * (detail % 256) + 65536 * high)
    else match v with
      | some x => if i = d.toNat ∧ i ≠ 0 then x else rget r i
      | none => rget r i)
  ∧ ∀ i, i < 8 → pget r' i = if i = 7 then decide (status = stOK) else pget r i

/-- What a packet X instruction does on a thread that issues it with its guard 1 while its unit answers. -/
def XLaw (i : Agent → Instr) (w y : BitVec 32) (R : State → Fin 512 → Packet → State → Prop) : Prop :=
  ∀ (s : State) (t : Fin 512) (p : Packet), ThreadIssues s t w (some y) p → guardHolds (getThread s t).regs w →
    blockRefuses s (xBlock (fOp w.toNat)) = false → tblWf 0#64 (getThread s t).w = true →
    ∃ s', exec (i (.thread t)) s = .next s' ∧ R s t p s'

/-! ### Requests of a core -/

/-- Every core of an agent issues the instruction w, y with its guard 1, and all present one request q; where they are voted, none
is excluded and the voter is sound (R362 to R366, R371). -/
structure AllAsk (s : State) (who : Agent) (w : BitVec 32) (y : Option (BitVec 32)) (ask : Nat → SCore → Option Req) (q : Req) : Prop where
  nonempty : agentCores s who ≠ []
  issue : ∀ k ∈ agentCores s who, CoreIssues s who k w y ∧ guardHolds (getCore s k).regs w ∧ ask k (getCore s k) = some q
  vote : isVoted s who = true → s.triad.excluded = 0#3 ∧ s.triad.voter = .sound

/-- The request of a plane X instruction of core k at a level, with the image that the core streams. -/
def planeAsk (w y : BitVec 32) (f : FmtX) (level : Nat) (image : State → Nat → SCore → Nat → Nat → Except Nat (List Byte)) (s : State)
    (k : Nat) (c : SCore) : Option Req :=
  if c.pl.toNat < level then none
  else match image s k c (rget c.regs f.a.toNat).toNat (rget c.regs f.b.toNat).toNat with
    | .ok img => some (.plane w.toNat y.toNat [rget c.regs f.a.toNat, rget c.regs f.b.toNat] img)
    | .error _ => none

/-- The answer to a plane X instruction reached every core of the agent: memory, w[d], w1 and p7 as R90 says, the next pc, one more
retired; and nothing but the cores changed since the request was performed in s1. -/
structure PlaneAnswered (s s1 s' : State) (who : Agent) (f : FmtX) (r : PlaneRes) : Prop where
  cores : ∀ k ∈ agentCores s who, getCore s' k =
    { planeFin f (getCore s1 k) r.toList with
      pc := (getCore s1 k).pc + 8#64, retired := ((getCore s1 k).retired + 1) % 2 ^ 64 }
  others : ∀ j, j ∉ agentCores s who → getCore s' j = getCore s1 j
  rest : s' = { s1 with cores := s'.cores }

/-- What a plane X instruction does when all cores of a Triad agent ask with the operands a and b and the image img: run acts on the
state once and its answer reaches them, unless the Fence froze the master instead. -/
def PlaneLaw (i : Agent → Instr) (w y : BitVec 32) (f : FmtX) (level : Nat)
    (image : State → Nat → SCore → Nat → Nat → Except Nat (List Byte))
    (run : State → Nat → Nat → Nat → List Byte → State × PlaneRes) : Prop :=
  ∀ (s : State) (who : Agent) (a b : Word) (img : List Byte) (m : Nat),
    AllAsk s who w (some y) (planeAsk w y f level image s) (.plane w.toNat y.toNat [a, b] img) →
    (agentCores s who).head? = some m → m < 3 →
    let r := run s m a.toNat b.toNat img
    r.2.froze = false → r.1.cores.Pairwise (fun a b => a.1 < b.1) →
    ∃ s', exec (i who) s = .next s' ∧ PlaneAnswered s r.1 s' who f r.2

/-- What an instruction of the Commit Gate does when all cores of a Triad agent ask with the operands a and b and the image img: it
completes, run acts on the state once, its answer reaches the cores, and nothing else changes (R72, R90, R107). -/
def GateLaw (i : Agent → Instr) (w y : BitVec 32) (f : FmtX) (level : Nat)
    (image : State → Nat → SCore → Nat → Nat → Except Nat (List Byte))
    (run : State → Nat → Nat → Nat → List Byte → State × PlaneRes) : Prop :=
  ∀ (s : State) (who : Agent) (a b : Word) (img : List Byte) (m : Nat),
    AllAsk s who w (some y) (planeAsk w y f level image s) (.plane w.toNat y.toNat [a, b] img) →
    (agentCores s who).head? = some m → m < 3 →
    let r := run s m a.toNat b.toNat img
    ∃ s', exec (i who) s = .next s' ∧ s' = { r.1 with cores := s'.cores } ∧
      (∀ j, j ∉ agentCores s who → getCore s' j = getCore r.1 j) ∧
      (r.1.cores.Pairwise (fun a b => a.1 < b.1) → PlaneAnswered s r.1 s' who f r.2)

/-- The plane X instructions without further operands (Table 3.7, Table 16.4), each with its words and the level that it requires (R72). -/
def planeForms (f : FmtX) : List ((Agent → Instr) × BitVec 32 × BitVec 32 × Nat) := [
  (fun x => .stage x f, encX 0x70 f 0, f.desc, 1), (fun x => .commit x f, encX 0x71 f 0, f.desc, 1),
  (fun x => .abortCommit x f, encX 0x72 f 0, f.desc, 1), (fun x => .abortGroup x f, encX 0x72 f 1, f.desc, 1),
  (fun x => .thawMaster x f, encX 0x73 f 0, f.desc, 1), (fun x => .thawPartner x f, encX 0x73 f 1, f.desc, 1),
  (fun x => .gatelist x f, encX 0x74 f 0, f.desc, 1), (fun x => .shaper x f, encX 0x74 f 1, f.desc, 1),
  (fun x => .epoch x f, encX 0x75 f 0, f.desc, 1), (fun x => .bank x f, encX 0x75 f 1, f.desc, 1),
  (fun x => .leaseTake x f, encX 0x76 f 0, f.desc, 1), (fun x => .leaseJoin x f, encX 0x76 f 0, f.desc, 1),
  (fun x => .leaseForce x f, encX 0x76 f 0, f.desc, 1), (fun x => .leaseRelease x f, encX 0x76 f 1, f.desc, 1),
  (fun x => .kloadRoot x f, encX 0x77 f 0, kloadDesc f 0, 2), (fun x => .kloadFallback x f, encX 0x77 f 0, kloadDesc f 1, 2),
  (fun x => .kloadClear x f, encX 0x77 f 0, kloadDesc f 4, 2), (fun x => .kderive x f, encX 0x77 f 1, f.desc, 2),
  (fun x => .kwrapWrap x f, encX 0x77 f 2, setField 31 1 0 f.desc, 2), (fun x => .kwrapUnwrap x f, encX 0x77 f 2, setField 31 1 1 f.desc, 2),
  (fun x => .ksign x f, encX 0x77 f 3, f.desc, 2), (fun x => .kverify x f, encX 0x77 f 4, f.desc, 1)]

/-- Every plane X instruction. -/
def PlaneForm (f : FmtX) (i : Agent → Instr) (w y : BitVec 32) (level : Nat) : Prop :=
  (i, w, y, level) ∈ planeForms f
  ∨ (∃ vbatA vbatB good cut, i = (Instr.kloadOtpWrite · f vbatA vbatB good cut) ∧ w = encX 0x77 f 0 ∧ y = kloadDesc f 2 ∧ level = 2)
  ∨ ∃ vbat, i = (Instr.kloadLifecycle · f vbat) ∧ w = encX 0x77 f 0 ∧ y = kloadDesc f 3 ∧ level = 2

/-! ### Memory -/

/-- The number that n bytes of a memory from address a on hold, least significant byte first (R7). -/
def leAt (m : Mem) (a n : Nat) : Nat := ((List.range n).map (fun i => (memGet m (a + i)).toNat * 256 ^ i)).sum

/-- The n bytes from address a on hold the low bytes of v, least significant first, and every other byte is as before; the
canonical form is kept (R7). -/
def Stored (m m' : Mem) (a n v : Nat) : Prop :=
  (∀ b, memGet m' b = if a ≤ b ∧ b < a + n then BitVec.ofNat 8 (v / 256 ^ (b - a)) else memGet m b) ∧ memWf m' = true

/-- Effective address of a format M instruction: w[a] plus the sign-extended offset (R56). -/
def eaOf (r : Regs) (f : FmtI) : Word := rget r f.a.toNat + BitVec.ofInt 64 f.imm.toInt

/-- A load of a thread from its scratch: n bytes at an aligned address in range, converted into w[d] (R56, R57). -/
def ThreadLoadLaw (i : Agent → FmtI → Instr) (op n : Nat) (conv : Nat → Word) : Prop :=
  ∀ (s : State) (t : Fin 512) (p : Packet) (f : FmtI), ThreadIssues s t (encI op f) none p →
    guardHolds (getThread s t).regs (encI op f) → tblWf 0#64 (getThread s t).w = true →
    let a := (eaOf (getThread s t).regs f).toNat
    a % n = 0 → a + n ≤ 2048 →
    ∃ s', exec (i (.thread t) f) s = .next s' ∧ ThreadWent s s' t 1 (RegIs f.d fun _ => conv (leAt (getThread s t).scratch a n))

/-- A store of a thread to its scratch: the n low bytes of w[d], and no other byte of the scratch and nothing else (R56, R57). -/
def ThreadStoreLaw (i : Agent → FmtI → Instr) (op n : Nat) : Prop :=
  ∀ (s : State) (t : Fin 512) (p : Packet) (f : FmtI), ThreadIssues s t (encI op f) none p →
    guardHolds (getThread s t).regs (encI op f) → memWf (getThread s t).scratch = true →
    let th := getThread s t
    let a := (eaOf th.regs f).toNat
    a % n = 0 → a + n ≤ 2048 →
    ∃ s' m, exec (i (.thread t) f) s = .next s' ∧ OnlyThread s s' t ∧
      getThread s' t = afterInstr { th with slots := th.slots + 1, scratch := m } th.pc (th.pc + 4#64) ∧
      Stored th.scratch m a n (rget th.regs f.d.toNat).toNat

/-- Core-local memory of core k in bytes (R44). -/
def localExtent (k : Nat) : Nat := if k < 3 then 4194304 else 1048576

/-- Every core of an agent that executes a format M instruction finds its own address of n bytes aligned, permitted and in its
memory (R58). -/
def AllLocal (s : State) (who : Agent) (w : BitVec 32) (f : FmtI) (n bit : Nat) : Prop :=
  ∀ j ∈ agentCores s who, CoreIssues s who j w none → guardHolds (getCore s j).regs w →
    let ea := eaOf (getCore s j).regs f
    ea.toNat % n = 0 ∧ userDenied (getCore s j) ea n bit = false ∧ 2 ^ 63 ≤ ea.toNat ∧ ea.toNat - 2 ^ 63 < localExtent j

/-- A load of each core of an agent from its own memory, voted or not (R58, R362). -/
def CoreLoadLaw (i : Agent → FmtI → Instr) (op n : Nat) (conv : Nat → Word) : Prop :=
  ∀ (s : State) (who : Agent) (k : Nat) (f : FmtI), CoreIssues s who k (encI op f) none → AllLocal s who (encI op f) f n 2 →
    guardHolds (getCore s k).regs (encI op f) → s.cores.Pairwise (fun a b => a.1 < b.1) → tblWf 0#64 (getCore s k).w = true →
    ∃ s', exec (i who f) s = .next s' ∧ OnlyCores s s' who ∧
      CoreWent s s' k 1 (RegIs f.d fun _ => conv (leAt (getCore s k).lmem ((eaOf (getCore s k).regs f).toNat - 2 ^ 63) n))

/-- A store of each core of an agent to its own memory: no other byte of it and nothing else changes (R58, R362). -/
def CoreStoreLaw (i : Agent → FmtI → Instr) (op n : Nat) : Prop :=
  ∀ (s : State) (who : Agent) (k : Nat) (f : FmtI), CoreIssues s who k (encI op f) none → AllLocal s who (encI op f) f n 1 →
    guardHolds (getCore s k).regs (encI op f) → s.cores.Pairwise (fun a b => a.1 < b.1) → memWf (getCore s k).lmem = true →
    let c := getCore s k
    ∃ s' m, exec (i who f) s = .next s' ∧ OnlyCores s s' who ∧
      getCore s' k = { c with lmem := m, pc := c.pc + 4#64, retired := (c.retired + 1) % 2 ^ 64 } ∧
      Stored c.lmem m ((eaOf c.regs f).toNat - 2 ^ 63) n (rget c.regs f.d.toNat).toNat

/-- The answer to a request reached every core of the agent: registers changed by R, the next pc, one more retired; nothing but
the cores changed since the request was performed in s1 (R362). -/
structure CoresAnswered (s s1 s' : State) (who : Agent) (n : Nat) (R : Regs → Regs → Prop) : Prop where
  cores : ∀ k ∈ agentCores s who, CoreWent s1 s' k n R
  others : ∀ j, j ∉ agentCores s who → getCore s' j = getCore s1 j
  rest : s' = { s1 with cores := s'.cores }

/-- The request of a load or store of n bytes that leaves core k for the internal address map (R58). -/
def mapAsk (f : FmtI) (n bit : Nat) (req : SCore → Nat → Req) (k : Nat) (c : SCore) : Option Req :=
  if accessTrap k c (eaOf c.regs f) n bit false = none ∧ (eaOf c.regs f).toNat < 2 ^ 63 then some (req c (eaOf c.regs f).toNat) else none

/-- A load that the Fence passes reads the internal address map once and answers every core that asked (R24, R58, R362). -/
def MapLoadLaw (i : Agent → FmtI → Instr) (op n : Nat) (conv : Nat → Word) : Prop :=
  ∀ (s : State) (who : Agent) (f : FmtI) (a m : Nat), AllAsk s who (encI op f) none (mapAsk f n 2 fun _ a => .load a n) (.load a n) →
    (agentCores s who).head? = some m → mayRead (coreReader m) a = true →
    let r := mapRead s (coreReader m) a n
    r.1.cores.Pairwise (fun a b => a.1 < b.1) → (∀ k ∈ agentCores s who, tblWf 0#64 (getCore r.1 k).w = true) →
    ∃ s', exec (i who f) s = .next s' ∧ CoresAnswered s r.1 s' who 1 (RegIs f.d fun _ => conv r.2)

/-- A store that the Fence passes writes the internal address map once (R24, R58, R362). -/
def MapStoreLaw (i : Agent → FmtI → Instr) (op n : Nat) : Prop :=
  ∀ (s : State) (who : Agent) (f : FmtI) (a m : Nat) (v : Word),
    AllAsk s who (encI op f) none (mapAsk f n 1 fun c a => .store a n (BitVec.ofNat 64 ((rget c.regs f.d.toNat).toNat % 256 ^ n))) (.store a n v) →
    (agentCores s who).head? = some m → mayWrite (coreReader m) a = true →
    let s1 := mapWrite s (coreReader m) a n v.toNat
    isFrozen s1 (coreMaster m) = false → s1.cores.Pairwise (fun a b => a.1 < b.1) →
    ∃ s', exec (i who f) s = .next s' ∧ CoresAnswered s s1 s' who 1 (fun r r' => r' = r)

/-- Core k took an exception with a code, TVAL and EPC, and nothing else of the cores changed (R74, R76). -/
def Trapped (s s' : State) (k code : Nat) (tval epc : Word) : Prop :=
  getCore s' k = exception k (getCore s k) code tval epc ∧ ∀ j, j ≠ k → getCore s' j = getCore s j

/-- Thread t has issued and taken n more issue slots (R67, R70). -/
def slotsTaken (s : State) (t n : Nat) : State := setThread (issued s t) t { getThread s t with slots := (getThread s t).slots + n }

/-- A packet X instruction completed after its unit left s0: w[d], w1 and p7 as R90 says, the next pc, and nothing else since s0. -/
structure XDone (s0 s' : State) (t : Nat) (f : FmtX) (v : Option Word) (status detail high : Nat) : Prop where
  regs : StatusIs f.d v status detail high (getThread s0 t).regs (getThread s' t).regs
  thread : getThread s' t = afterInstr { getThread s0 t with w := (getThread s' t).w, p := (getThread s' t).p }
    (getThread s0 t).pc ((getThread s0 t).pc + 8#64)
  others : ∀ u, u ≠ t → getThread s' u = getThread s0 u
  rest : s' = { s0 with engine := { s0.engine with threads := s'.engine.threads } }

/-- The number that n bytes of a list from place i on spell, most significant first; places past the end read zero (R94). -/
def beAt (b : List Byte) (i n : Nat) : Nat := ((List.range n).map (fun j => (b.getD (i + j) 0#8).toNat * 256 ^ (n - 1 - j))).sum

/-- The bytes of the frame that thread t holds: the first 256 from its window, the others as stored (R88, R94). -/
def frameNow (s : State) (t : Nat) (p : Packet) : List Byte :=
  (List.range p.len).map (fun i => if i < 256 then (getThread s t).window.getD i 0#8 else (frameBytes s p.handle p.len).getD i 0#8)

/-- The pass of thread t ended in s0: the chains of its ledger are reclaimed and the thread is free (R88, R238). -/
def passEnded (s0 : State) (t : Nat) : State := clearThread (passEndReclaim s0 t) t

/-- w[a] and w[b] of a packet X instruction as numbers. -/
def xa (s : State) (t : Nat) (f : FmtX) : Nat := (rget (getThread s t).regs f.a.toNat).toNat
def xb (s : State) (t : Nat) (f : FmtX) : Nat := (rget (getThread s t).regs f.b.toNat).toNat

/-! ### Boundaries and shared resources -/

/-- R333: an idle calibration engine serves a waiting recalibration before a waiting cable test, the first of either from the
rotating start over the port nodes. -/
def NextServed (s : State) (waits : FacePort → Bool) (m : Nat) : Prop :=
  s.face.engines.length < 4 ∧ m < 56 ∧ waits (getFp s m) = true ∧
  ∀ j, j < 56 → waits (getFp s j) = true → (m + 56 - s.bench.arbTick % 56) % 56 ≤ (j + 56 - s.bench.arbTick % 56) % 56

/-- The cells that a list of runs names, in order. -/
def runCells (l : List (Nat × Nat)) : List Nat := l.flatMap (fun r => (List.range r.2).map (r.1 + ·))

/-- At the next boundary no commit applies, no rule set or bank switch waits, no LRN write is pending, and neither a delta of the peer
nor its absence counts. -/
structure PlainBoundary (s : State) : Prop where
  commits : s.gate.committed = []
  running : s.gh.relStep = 0
  epoch : s.screen.deferred = none
  bank : s.engine.armed = none
  delta : s.pair.rx = none ∧ s.pair.rxMiss = []
  quiet : s.pair.role = .follow → s.pair.peerRole = 1 ∨ s.pair.peerRole = 4 → s.pair.lane0 = false ∧ s.pair.lane1 = false
  writes : tierBusy s false = false ∧ tierBusy s true = false
  role : s.pair.role ≠ .rejoin
  pair : s.pair.en = false → s.pair.role = .off

/-- s without what waits for a boundary: commits, a rule set, a bank switch and a delta on receipt. -/
def calmed (s : State) : State :=
  { s with gate := { s.gate with committed := [] }, screen := { s.screen with deferred := none }
           engine := { s.engine with armed := none }, pair := { s.pair with rx := none } }

/-- The next boundary comes n cycles on; the device is not paired, its Triad neither coasts nor runs a tick program, and but for what
waits for the boundary it is plain. -/
structure AtBoundary (s : State) (n : Nat) : Prop where
  due : ∃ m, boundaryDue s = some (n, m)
  plain : PlainBoundary (calmed s)
  alone : s.pair.en = false ∧ s.pair.rx = none
  triad : s.triad.coasting = false ∧ s.triad.tickProg = .none

/-- At the next boundary, n cycles on, the one commit that waits has reached its target and holds the objects os, none of which names
a pool, a chain or a key. -/
structure Applies (s : State) (n : Nat) (c : Commit) (os : List Obj) : Prop where
  boundary : AtBoundary s n
  one : s.gate.committed = [c]
  target : c.target ≤ (s.bench.tickCount + 1) % 2 ^ 64
  objs : c.objs = os
  plain : c.moves = [] ∧ c.frames = []

/-- The levels that the cores have (R71): no core at the level 0b11, no Tally core at Vault level or with VAULT_DONE latched, no signature
operation of another core than the Triad's, and one record a core. -/
structure LevelInv (s : State) : Prop where
  sorted : s.cores.Pairwise (fun a b => a.1 < b.1)
  legal : ∀ k, (getCore s k).pl ≠ 3#2
  tally : ∀ k, 3 ≤ k → (getCore s k).pl ≠ 2#2 ∧ (getCore s k).latched.getLsbD 5 = false
  sign : ∀ op, s.vault.sign = some op → op.agent < 3
  verify : ∀ op, s.vault.verify = some op → op.agent < 3

/-! ### Resets and wake events -/

/-- After s a reset of a reach stands in s': everything that a reset of reach 2 or more clears is clear, no boundary is generated, and
what outlives it is kept (R30, R437, R458). -/
structure ResetHeld (s s' : State) (reach : Nat) : Prop where
  held : s'.gh.relStep = 1 ∧ s'.gh.effReach = reach ∧ s'.gh.reach = reach ∧ s'.gh.sleepState = .none
  ticks : s'.bench.running = false ∧ s'.bench.tickCount = 0 ∧ s'.time.t0.running = false
  cores : s'.cores = []
  planes : s'.engine = EngineArray.reset ∧ s'.screen = Screen.reset ∧ s'.lookup = Lookup.reset ∧ s'.berm = Berm.reset ∧
    s'.stock = Stock.reset ∧ s'.hopper = Hopper.reset ∧ s'.fabric = Fabric.reset ∧ s'.haul = Haul.reset ∧ s'.relay = Relay.reset
  gate : s'.gate = CommitGate.reset ∧ s'.fence = Fence.reset ∧ s'.pair = Pair.reset
  counters : s'.counters = [] ∧ s'.wb = []
  otp : s'.vault.fuses = s.vault.fuses ∧ s'.vault.slots = s.vault.slots
  clock : s'.localNs = s.localNs ∧ s'.pending = s.pending

/-- Commands that are wake events of a pin or bus of the Gatehouse with their code and detail of Table 15.8, when their source is enabled. -/
def WakeCommand (s : State) (c : Instr) (code d : Nat) : Prop :=
  (∃ (pin : Fin 4) (rising : Bool), c = .wakePinEdge pin rising ∧ code = pin.val + 1 ∧ d = 0 ∧ bitOf s.gh.wakeEn pin = true ∧
    (s.gh.edge / 4 ^ pin.val % 4 = 2 ∨ s.gh.edge / 4 ^ pin.val % 4 = if rising then 0 else 1))
  ∨ (∃ (bus : Bool) (ch : Fin 4), c = .gatehouseBusWake bus ch ∧ code = (if bus then 7 else 6) ∧ d = ch.val ∧ ownReceivers s = true ∧
    bitOf (if bus then s.gh.linEn else s.gh.canEn) ch = true)

end Sys2Proof
end

