-- ==== Sys2Proof/Certificates/Slice0/Obligations.lean ====
section
/-! DEFINITION. Certificates/Slice0/Obligations.lean: the statements for the provers, from the numbered rules of the spec. -/

open Sys2Proof Sys2Proof.Machine

/-- A step runs the command at the front of the queue on the state with the queue's rest; on an empty queue one nanosecond of local time
passes (the model's choice, log entry 31). -/
def Obligations.StepRunsFront : Prop :=
  (∀ (s : State) (c : Instr) (rest : List Instr), s.pending = c :: rest → step s = exec c { s with pending := rest })
  ∧ (∀ s : State, s.pending = [] → ∃ s', step s = .next s' ∧ s'.localNs = s.localNs + 1 ∧
      s' = { s with localNs := s'.localNs, time := { s.time with t0 := s'.time.t0, t1 := s'.time.t1, t2 := s'.time.t2, t3 := s'.time.t3 } } ∧
      ∀ n : Fin 4, (tbGet s.time n).running = false → tbGet s'.time n = tbGet s.time n)

/-- R29, R30, R37, R80, R199, R283, R315, R382, R404, R416: what a reset leaves where the spec gives it: the tick count 0 and P 125, boundary
1 when T0 reads P, T0 running from 0 with the other bases stopped, empty banks, tables, queues and counters, nothing frozen, the Triad's
and the Pair unit's registers at their reset values; the level and pc of each core, and the invariant of the levels. The model's readings
and choices that it rests on: log entries 1, 4, 8, 60, 123. -/
def Obligations.ResetValues : Prop :=
  let s := State.reset
  s.pending = [] ∧ s.bench.tickCount = 0 ∧ s.bench.period = 125 ∧ s.bench.running = true ∧ boundaryDue s = some (125000, 125000)
  ∧ tbGet s.time 0 = { running := true, value := 0, rate := 0, slew := none, stepSeq := 0 }
  ∧ (∀ n : Fin 4, n ≠ 0 → tbGet s.time n = { running := false, value := 0, rate := 0, slew := none, stepSeq := 0 })
  ∧ (∀ k : Fin 4, (getPpsOut s k).en = false ∧ (getPpsOut s k).level = false) ∧ (∀ c i, getCtr s c i = 0)
  ∧ (∀ k < 7, (getCore s k).pl = (if k < 3 then 2#2 else 1#2) ∧ (getCore s k).pc = 0x3FF0000000#64 ∧ (getCore s k).stopped = false)
  ∧ s.engine.service = none ∧ s.engine.armed = none ∧ (∀ t, (getThread s t).pkt = none) ∧ s.screen.current = none
  ∧ (∀ t, getTable s t = none) ∧ (∀ k, (findConn s k) = none) ∧ (∀ q, (getQueue s q).frames = [] ∧ (getQueue s q).attached = false)
  ∧ (∀ m, isFrozen s m = false) ∧ (∀ p, partnerFrozen s p = false) ∧ s.fence.lastViolation = [0, 0, 0, 0]
  ∧ s.triad.coastLimit = 7 ∧ s.triad.fault = false ∧ s.triad.safe = false ∧ s.triad.coasting = false
  ∧ s.pair.leaseLen = 3 ∧ s.pair.yieldOnLoss = true ∧ s.pair.takeOnExpiry = true ∧ s.pair.peerRole = 4
  ∧ (∀ i, getOtp s i = blankSlot) ∧ s.gate.committed = [] ∧ s.gate.group = none ∧ LevelInv s

/-- R51: the arithmetic, logic and shift operations of Table 2.4, on both profiles. R51: the counts and byte reversals of Table 2.4. R51: SEL
and the predicate operations of Table 2.4. -/
def Obligations.RegisterResults : Prop :=
  (∀ f : FmtA,
   RegLaw (.add · f) (encA 0x00 f 0) (NatIs f.d fun r => opA f r + opB f r)
   ∧ RegLaw (.sub · f) (encA 0x00 f 1) (NatIs f.d fun r => opA f r + (2 ^ 64 - opB f r))
   ∧ RegLaw (.mul · f) (encA 0x00 f 2) (NatIs f.d fun r => opA f r * opB f r)
   ∧ RegLaw (.mulhu · f) (encA 0x00 f 3) (NatIs f.d fun r => opA f r * opB f r / 2 ^ 64)
   ∧ RegLaw (.min · f) (encA 0x00 f 4) (IntIs f.d fun r => min (rget r f.a.toNat).toInt (rget r f.b.toNat).toInt)
   ∧ RegLaw (.max · f) (encA 0x00 f 5) (IntIs f.d fun r => max (rget r f.a.toNat).toInt (rget r f.b.toNat).toInt)
   ∧ RegLaw (.minu · f) (encA 0x00 f 6) (NatIs f.d fun r => min (opA f r) (opB f r))
   ∧ RegLaw (.maxu · f) (encA 0x00 f 7) (NatIs f.d fun r => max (opA f r) (opB f r))
   ∧ RegLaw (.and · f) (encA 0x01 f 0) (NatIs f.d fun r => opA f r &&& opB f r)
   ∧ RegLaw (.or · f) (encA 0x01 f 1) (NatIs f.d fun r => opA f r ||| opB f r)
   ∧ RegLaw (.xor · f) (encA 0x01 f 2) (NatIs f.d fun r => opA f r ^^^ opB f r)
   ∧ RegLaw (.andn · f) (encA 0x01 f 3) (NatIs f.d fun r => opA f r &&& (2 ^ 64 - 1 - opB f r))
   ∧ RegLaw (.orn · f) (encA 0x01 f 4) (NatIs f.d fun r => opA f r ||| (2 ^ 64 - 1 - opB f r))
   ∧ RegLaw (.xnor · f) (encA 0x01 f 5) (NatIs f.d fun r => 2 ^ 64 - 1 - (opA f r ^^^ opB f r))
   ∧ RegLaw (.sll · f) (encA 0x02 f 0) (NatIs f.d fun r => opA f r * 2 ^ (opB f r % 64))
   ∧ RegLaw (.srl · f) (encA 0x02 f 1) (NatIs f.d fun r => opA f r / 2 ^ (opB f r % 64))
   ∧ RegLaw (.sra · f) (encA 0x02 f 2) (IntIs f.d fun r => (rget r f.a.toNat).toInt / 2 ^ (opB f r % 64))
   ∧ RegLaw (.rol · f) (encA 0x02 f 3) (NatIs f.d fun r => opA f r * 2 ^ (opB f r % 64) + opA f r / 2 ^ (64 - opB f r % 64))
   ∧ RegLaw (.ror · f) (encA 0x02 f 4) (NatIs f.d fun r => opA f r / 2 ^ (opB f r % 64) + opA f r * 2 ^ (64 - opB f r % 64)))
  ∧ (∀ f : FmtA,
   RegLaw (.clz · f) (encA 0x03 f 0) (NatIs f.d fun r => if opA f r = 0 then 64 else 63 - Nat.log2 (opA f r))
   ∧ RegLaw (.ctz · f) (encA 0x03 f 1) (NatIs f.d fun r => ((List.range 64).find? (fun i => (opA f r).testBit i)).getD 64)
   ∧ RegLaw (.popc · f) (encA 0x03 f 2) (NatIs f.d fun r => ((List.range 64).map (fun i => opA f r / 2 ^ i % 2)).sum)
   ∧ RegLaw (.bswap · f) (encA 0x03 f 3) (NatIs f.d fun r => ((List.range 8).map (fun i => opA f r / 256 ^ i % 256 * 256 ^ (7 - i))).sum)
   ∧ RegLaw (.bswap32 · f) (encA 0x03 f 4) (NatIs f.d fun r => ((List.range 4).map (fun i => opA f r / 256 ^ i % 256 * 256 ^ (3 - i))).sum)
   ∧ RegLaw (.bswap16 · f) (encA 0x03 f 5) (NatIs f.d fun r => opA f r / 256 % 256 + opA f r % 256 * 256))
  ∧ ((∀ (n : BitVec 3) (f : FmtA),
     RegLaw (.sel · n f) (encA 0x05 f n.toNat) (NatIs f.d fun r => if pget r n.toNat then opA f r else opB f r))
   ∧ ∀ f : FmtA,
     (f.d.toNat < 8 → f.a.toNat < 8 → f.b.toNat < 8 →
       RegLaw (.pand · f) (encA 0x07 f 0) (PredsAre fun r i => if i = f.d.toNat then pget r f.a.toNat && pget r f.b.toNat else pget r i)
       ∧ RegLaw (.por · f) (encA 0x07 f 1) (PredsAre fun r i => if i = f.d.toNat then pget r f.a.toNat || pget r f.b.toNat else pget r i)
       ∧ RegLaw (.pxor · f) (encA 0x07 f 2) (PredsAre fun r i => if i = f.d.toNat then pget r f.a.toNat ^^ pget r f.b.toNat else pget r i)
       ∧ RegLaw (.pandn · f) (encA 0x07 f 3) (PredsAre fun r i => if i = f.d.toNat then pget r f.a.toNat && !pget r f.b.toNat else pget r i))
     ∧ RegLaw (.ptow · f) (encA 0x07 f 4) (NatIs f.d fun r => ((List.range 8).map (fun i => if pget r i then 2 ^ i else 0)).sum)
     ∧ RegLaw (.wtop · f) (encA 0x07 f 5) (PredsAre fun r i => (opA f r).testBit i))

/-- R52: division, whose corners are defined and trap nothing. -/
def Obligations.DivisionResults : Prop :=
  ∀ f : FmtA,
  RegLaw (.divu · f) (encA 0x08 f 0) (NatIs f.d fun r => if opB f r = 0 then 2 ^ 64 - 1 else opA f r / opB f r)
  ∧ RegLaw (.remu · f) (encA 0x08 f 1) (NatIs f.d fun r => if opB f r = 0 then opA f r else opA f r % opB f r)
  ∧ RegLaw (.divs · f) (encA 0x08 f 2) (IntIs f.d fun r => if opB f r = 0 then -1
      else if (rget r f.a.toNat).toInt = -2 ^ 63 ∧ (rget r f.b.toNat).toInt = -1 then -2 ^ 63
      else (rget r f.a.toNat).toInt.tdiv (rget r f.b.toNat).toInt)
  ∧ RegLaw (.rems · f) (encA 0x08 f 3) (IntIs f.d fun r => if opB f r = 0 then (rget r f.a.toNat).toInt
      else if (rget r f.a.toNat).toInt = -2 ^ 63 ∧ (rget r f.b.toNat).toInt = -1 then 0
      else (rget r f.a.toNat).toInt.tmod (rget r f.b.toNat).toInt)

/-- R47: the compares of Tables 2.4 and 2.5 write a predicate and its complement; p0 keeps reading 1. -/
def Obligations.CompareResults : Prop :=
  (∀ f : FmtA,
    RegLaw (.cmpeq · f) (encA 0x04 f 0) (CmpIs f.d fun r => opA f r = opB f r)
    ∧ RegLaw (.cmpne · f) (encA 0x04 f 1) (CmpIs f.d fun r => opA f r ≠ opB f r)
    ∧ RegLaw (.cmplt · f) (encA 0x04 f 2) (CmpIs f.d fun r => (rget r f.a.toNat).toInt < (rget r f.b.toNat).toInt)
    ∧ RegLaw (.cmpltu · f) (encA 0x04 f 3) (CmpIs f.d fun r => opA f r < opB f r)
    ∧ RegLaw (.cmple · f) (encA 0x04 f 4) (CmpIs f.d fun r => (rget r f.a.toNat).toInt ≤ (rget r f.b.toNat).toInt)
    ∧ RegLaw (.cmpleu · f) (encA 0x04 f 5) (CmpIs f.d fun r => opA f r ≤ opB f r)
    ∧ RegLaw (.tstz · f) (encA 0x04 f 6) (CmpIs f.d fun r => opA f r &&& opB f r = 0)
    ∧ RegLaw (.tstnz · f) (encA 0x04 f 7) (CmpIs f.d fun r => opA f r &&& opB f r ≠ 0))
  ∧ (∀ f : FmtI,
    RegLaw (.cmpeqi · f) (encI 0x2b f) (CmpIs f.d fun r => (rget r f.a.toNat).toInt = f.imm.toInt)
    ∧ RegLaw (.cmplti · f) (encI 0x2c f) (CmpIs f.d fun r => (rget r f.a.toNat).toInt < f.imm.toInt)
    ∧ RegLaw (.cmpltui · f) (encI 0x2d f) (CmpIs f.d fun r => (rget r f.a.toNat).toNat < f.imm.toNat)
    ∧ RegLaw (.tsti · f) (encI 0x2e f) (CmpIs f.d fun r => (rget r f.a.toNat).toNat &&& f.imm.toNat ≠ 0))
  ∧ (∀ (n : Fin 8) (f : FmtA), f.d.toNat % 8 = f.d.toNat / 8 → f.d.toNat % 8 ≠ 0 →
    legalP (encA 0x04 f n).toNat 0 = false ∧ legalS (encA 0x04 f n).toNat 0 = false)
  ∧ ∀ (n : Fin 4) (f : FmtI), f.d.toNat % 8 = f.d.toNat / 8 → f.d.toNat % 8 ≠ 0 →
    legalP (encI (0x2b + n.val) f).toNat 0 = false ∧ legalS (encI (0x2b + n.val) f).toNat 0 = false

/-- R53, R54, R55: the immediate, field and constant operations of Tables 2.5 and 2.6. -/
def Obligations.ImmediateResults : Prop :=
  (∀ f : FmtI,
    RegLaw (.addi · f) (encI 0x20 f) (IntIs f.d fun r => (rget r f.a.toNat).toInt + f.imm.toInt)
    ∧ RegLaw (.andi · f) (encI 0x21 f) (NatIs f.d fun r => (rget r f.a.toNat).toNat &&& f.imm.toNat)
    ∧ RegLaw (.ori · f) (encI 0x22 f) (NatIs f.d fun r => (rget r f.a.toNat).toNat ||| f.imm.toNat)
    ∧ RegLaw (.xori · f) (encI 0x23 f) (NatIs f.d fun r => (rget r f.a.toNat).toNat ^^^ f.imm.toNat)
    ∧ RegLaw (.slli · f) (encI 0x24 f) (NatIs f.d fun r => (rget r f.a.toNat).toNat * 2 ^ (f.imm.toNat % 64))
    ∧ RegLaw (.srli · f) (encI 0x25 f) (NatIs f.d fun r => (rget r f.a.toNat).toNat / 2 ^ (f.imm.toNat % 64))
    ∧ RegLaw (.srai · f) (encI 0x26 f) (IntIs f.d fun r => (rget r f.a.toNat).toInt / 2 ^ (f.imm.toNat % 64))
    ∧ RegLaw (.mov · f) (encI 0x27 f) (RegIs f.d fun r => rget r f.a.toNat)
    ∧ RegLaw (.extu · f) (encI 0x28 f)
        (NatIs f.d fun r => (rget r f.a.toNat).toNat / 2 ^ (f.imm.toNat % 64) % 2 ^ (f.imm.toNat / 64 + 1))
    ∧ RegLaw (.exts · f) (encI 0x29 f)
        (IntIs f.d fun r => sgn (f.imm.toNat / 64 + 1) ((rget r f.a.toNat).toNat / 2 ^ (f.imm.toNat % 64)))
    ∧ RegLaw (.ins · f) (encI 0x2a f) (fun r r' => ∃ v : Word, RegIs f.d (fun _ => v) r r' ∧ ∀ i, i < 64 →
        v.getLsbD i = if f.imm.toNat % 64 ≤ i ∧ i < f.imm.toNat % 64 + f.imm.toNat / 64 + 1
          then (rget r f.a.toNat).getLsbD (i - f.imm.toNat % 64) else (rget r f.d.toNat).getLsbD i))
  ∧ ∀ f : FmtL,
    RegLaw (.li · f) (encL 0x30 f) (IntIs f.d fun _ => f.imm.toInt)
    ∧ RegLaw (.liz · f) (encL 0x31 f) (NatIs f.d fun _ => f.imm.toNat)
    ∧ RegLaw (.mk16 · f) (encL 0x32 f) (fun r r' => ∃ v : Word, RegIs f.d (fun _ => v) r r' ∧ ∀ i, i < 64 →
        v.getLsbD i = if 16 ≤ i ∧ i < 32 then f.imm.getLsbD (i - 16) else (rget r f.d.toNat).getLsbD i)
    ∧ RegLaw (.mk32 · f) (encL 0x33 f) (fun r r' => ∃ v : Word, RegIs f.d (fun _ => v) r r' ∧ ∀ i, i < 64 →
        v.getLsbD i = if 32 ≤ i ∧ i < 48 then f.imm.getLsbD (i - 32) else (rget r f.d.toNat).getLsbD i)
    ∧ RegLaw (.mk48 · f) (encL 0x34 f) (fun r r' => ∃ v : Word, RegIs f.d (fun _ => v) r r' ∧ ∀ i, i < 64 →
        v.getLsbD i = if 48 ≤ i then f.imm.getLsbD (i - 48) else (rget r f.d.toNat).getLsbD i)

/-- R62, R63, R64: branches, calls, returns and loops of an engine thread that issues them with its guard 1, where the stacks have room: the
new pc and stacks, one issue slot, and nothing else changed; a taken branch leaves the loops that its target leaves. R62, R63: branches,
calls, returns and register jumps of a core that issues them with its guard 1 and an aligned target: pc, w63 and the retired count, and
nothing else changed. R63, R64: a CALL on a full return stack, a RET on an empty one and a LOOP, or a LOOPR of one round or more, on a
full loop stack freeze the thread with an ADDR violation whose INFO is the pc, after the issue slot is taken; RET, JR and CALLR of a core
to an address that is no multiple of 4 raise ALIGN with the address in TVAL and their own in EPC, and write no register. -/
def Obligations.ControlFlow : Prop :=
  ((∀ (s : State) (t : Fin 512) (p : Packet) (f : FmtB), ThreadIssues s t (encB 0x50 f) none p →
     ∃ s', exec (.br (.thread t) f) s = .next s' ∧ OnlyThread s s' t ∧ getThread s' t =
       let th := getThread s t
       let a := th.pc + BitVec.ofInt 64 (f.disp.toInt * 4)
       if pget th.regs f.p.toNat = f.t then
         { th with slots := th.slots + 1, pc := a
                   lstack := th.lstack.dropWhile (fun e => decide (a.toNat < e.start.toNat ∨ e.stop.toNat < a.toNat)) }
       else afterInstr { th with slots := th.slots + 1 } th.pc (th.pc + 4#64))
   ∧ (∀ (s : State) (t : Fin 512) (p : Packet) (f : FmtB), ThreadIssues s t (encB 0x51 f) none p → (getThread s t).rstack.length < 4 →
     ∃ s', exec (.call (.thread t) f) s = .next s' ∧ OnlyThread s s' t ∧ getThread s' t =
       let th := getThread s t
       if pget th.regs f.p.toNat = f.t then
         { th with slots := th.slots + 1, pc := th.pc + BitVec.ofInt 64 (f.disp.toInt * 4), rstack := (th.pc + 4#64) :: th.rstack }
       else afterInstr { th with slots := th.slots + 1 } th.pc (th.pc + 4#64))
   ∧ (∀ (s : State) (t : Fin 512) (p : Packet) (fn : BitVec 4) (f : FmtA) (a : Word) (l : List Word),
     ThreadIssues s t (encA 0x52 f fn.toNat) none p → guardHolds (getThread s t).regs (encA 0x52 f fn.toNat) →
     (getThread s t).rstack = a :: l →
     ∃ s', exec (.ret (.thread t) fn f) s = .next s' ∧ OnlyThread s s' t ∧
       getThread s' t = { getThread s t with slots := (getThread s t).slots + 1, pc := a, rstack := l })
   ∧ (∀ (s : State) (t : Fin 512) (p : Packet) (f : FmtI), ThreadIssues s t (encI 0x53 f) none p →
     guardHolds (getThread s t).regs (encI 0x53 f) → (getThread s t).lstack.length < 4 →
     ∃ s', exec (.loop (.thread t) f) s = .next s' ∧ OnlyThread s s' t ∧ getThread s' t =
       let th := getThread s t
       { th with slots := th.slots + 1, pc := th.pc + 4#64
                 lstack := { start := th.pc + 4#64, stop := th.pc + BitVec.ofNat 64 (4 * f.imm.toNat),
                             remaining := 64 * f.d.toNat + f.a.toNat } :: th.lstack })
   ∧ (∀ (s : State) (t : Fin 512) (p : Packet) (f : FmtI), ThreadIssues s t (encI 0x54 f) none p →
     guardHolds (getThread s t).regs (encI 0x54 f) → (getThread s t).lstack.length < 4 →
     ∃ s', exec (.loopr (.thread t) f) s = .next s' ∧ OnlyThread s s' t ∧ getThread s' t =
       let th := getThread s t
       let n := min (rget th.regs f.a.toNat).toNat (2 ^ f.d.toNat)
       if n = 0 then { th with slots := th.slots + 1, pc := th.pc + BitVec.ofNat 64 (4 + 4 * f.imm.toNat) }
       else
         { th with slots := th.slots + 1, pc := th.pc + 4#64
                   lstack := { start := th.pc + 4#64, stop := th.pc + BitVec.ofNat 64 (4 * f.imm.toNat), remaining := n } :: th.lstack }))
  ∧ (∀ (s : State) (who : Agent) (k : Nat), s.cores.Pairwise (fun a b => a.1 < b.1) → tblWf 0#64 (getCore s k).w = true →
   (∀ f : FmtB, CoreIssues s who k (encB 0x50 f) none →
     ∃ s', exec (.br who f) s = .next s' ∧ OnlyCores s s' who ∧ getCore s' k =
       let c := getCore s k
       { c with pc := if pget c.regs f.p.toNat = f.t then c.pc + BitVec.ofInt 64 (f.disp.toInt * 4) else c.pc + 4#64
                retired := (c.retired + 1) % 2 ^ 64 })
   ∧ (∀ f : FmtB, CoreIssues s who k (encB 0x51 f) none →
     ∃ s', exec (.call who f) s = .next s' ∧ OnlyCores s s' who ∧
       if pget (getCore s k).regs f.p.toNat = f.t then
         RegIs 63#6 (fun _ => (getCore s k).pc + 4#64) (getCore s k).regs (getCore s' k).regs ∧
         getCore s' k = { getCore s k with w := (getCore s' k).w, pc := (getCore s k).pc + BitVec.ofInt 64 (f.disp.toInt * 4),
                                           retired := ((getCore s k).retired + 1) % 2 ^ 64 }
       else getCore s' k = { getCore s k with pc := (getCore s k).pc + 4#64, retired := ((getCore s k).retired + 1) % 2 ^ 64 })
   ∧ (∀ (fn : BitVec 4) (f : FmtA), CoreIssues s who k (encA 0x52 f fn.toNat) none → guardHolds (getCore s k).regs (encA 0x52 f fn.toNat) →
     (∀ j ∈ agentCores s who, (rget (getCore s j).regs 63).toNat % 4 = 0) →
     ∃ s', exec (.ret who fn f) s = .next s' ∧ OnlyCores s s' who ∧
       getCore s' k = { getCore s k with pc := rget (getCore s k).regs 63, retired := ((getCore s k).retired + 1) % 2 ^ 64 })
   ∧ (∀ f : FmtA, CoreIssues s who k (encA 0x55 f 0) none → guardHolds (getCore s k).regs (encA 0x55 f 0) →
     (∀ j ∈ agentCores s who, (rget (getCore s j).regs f.a.toNat).toNat % 4 = 0) →
     ∃ s', exec (.jr who f) s = .next s' ∧ OnlyCores s s' who ∧
       getCore s' k = { getCore s k with pc := rget (getCore s k).regs f.a.toNat, retired := ((getCore s k).retired + 1) % 2 ^ 64 })
   ∧ (∀ f : FmtA, CoreIssues s who k (encA 0x55 f 1) none → guardHolds (getCore s k).regs (encA 0x55 f 1) →
     (∀ j ∈ agentCores s who, (rget (getCore s j).regs f.a.toNat).toNat % 4 = 0) →
     ∃ s', exec (.callr who f) s = .next s' ∧ OnlyCores s s' who ∧
       RegIs 63#6 (fun _ => (getCore s k).pc + 4#64) (getCore s k).regs (getCore s' k).regs ∧
       getCore s' k = { getCore s k with w := (getCore s' k).w, pc := rget (getCore s k).regs f.a.toNat,
                                         retired := ((getCore s k).retired + 1) % 2 ^ 64 }))
  ∧ ((∀ (s : State) (t : Fin 512) (p : Packet) (i : Instr) (w : BitVec 32), ThreadIssues s t w none p → guardHolds (getThread s t).regs w →
     let th := getThread s t
     (∃ f : FmtB, i = .call (.thread t) f ∧ w = encB 0x51 f ∧ pget th.regs f.p.toNat = f.t ∧ 4 ≤ th.rstack.length)
     ∨ (∃ (fn : BitVec 4) (f : FmtA), i = .ret (.thread t) fn f ∧ w = encA 0x52 f fn.toNat ∧ th.rstack = [])
     ∨ (∃ f : FmtI, i = .loop (.thread t) f ∧ w = encI 0x53 f ∧ 4 ≤ th.lstack.length)
     ∨ (∃ f : FmtI, i = .loopr (.thread t) f ∧ w = encI 0x54 f ∧ rget th.regs f.a.toNat ≠ 0#64 ∧ 4 ≤ th.lstack.length) →
     exec i s = .next (threadFault (slotsTaken s t 1) t vADDR th.pc.toNat))
   ∧ ∀ (s : State) (who : Agent) (k : Nat) (i : Instr) (w : BitVec 32) (a : Word), s.cores.Pairwise (fun a b => a.1 < b.1) →
     CoreIssues s who k w none → guardHolds (getCore s k).regs w → a.toNat % 4 ≠ 0 →
     (∃ (fn : BitVec 4) (f : FmtA), i = .ret who fn f ∧ w = encA 0x52 f fn.toNat ∧ a = rget (getCore s k).regs 63)
     ∨ (∃ f : FmtA, i = .jr who f ∧ w = encA 0x55 f 0 ∧ a = rget (getCore s k).regs f.a.toNat)
     ∨ (∃ f : FmtA, i = .callr who f ∧ w = encA 0x55 f 1 ∧ a = rget (getCore s k).regs f.a.toNat) →
     ∃ s', exec i s = .next s' ∧ getCore s' k = exception k (getCore s k) cALIGN a (getCore s k).pc ∧
       ∀ j, j ∉ agentCores s who → getCore s' j = getCore s j)

/-- R46: an instruction of an engine thread whose guard reads 0 does nothing but take one issue slot and go on; a LOOP or LOOPR so guarded
goes on after its body. R46: an instruction of a core whose guard reads 0 only advances the pc and retires. -/
def Obligations.GuardOff : Prop :=
  (∀ (s : State) (i : Instr) (t : Fin 512) (w : BitVec 32) (y : Option (BitVec 32)) (p : Packet),
     agentOf i = some (.thread t) → words i = some (w, y) → ThreadIssues s t w y p → ¬ guardHolds (getThread s t).regs w →
     ∃ s', exec i s = .next s' ∧ OnlyThread s s' t ∧ getThread s' t =
       let th := { getThread s t with slots := (getThread s t).slots + 1 }
       if fOp w.toNat = 0x53 ∨ fOp w.toNat = 0x54 then { th with pc := th.pc + 4#64 + BitVec.ofNat 64 (4 * fImm10 w.toNat) }
       else afterInstr th th.pc (th.pc + BitVec.ofNat 64 (4 * wordsOf y)))
  ∧ (∀ (s : State) (i : Instr) (who : Agent) (w : BitVec 32) (y : Option (BitVec 32)),
     agentOf i = some who → words i = some (w, y) → s.cores.Pairwise (fun a b => a.1 < b.1) → agentCores s who ≠ [] →
     (∀ k ∈ agentCores s who, CoreIssues s who k w y ∧ ¬ guardHolds (getCore s k).regs w) →
     ∃ s', exec i s = .next s' ∧ OnlyCores s s' who ∧ ∀ k ∈ agentCores s who,
       getCore s' k = { getCore s k with pc := (getCore s k).pc + BitVec.ofNat 64 (4 * wordsOf y), retired := ((getCore s k).retired + 1) % 2 ^ 64 })

/-- R50, R69, R70: a thread's word that Uarra-P does not decode, and one that passes its program's issue slots, freezes the thread with an
ADDR or a BUDGET violation whose INFO is the pc; a plane X word is UNAUTH_COMMIT. R61, R50: a core's word that it may not fetch raises
ACCESS, and one that Uarra-S does not decode raises ILLEGAL with the word in TVAL; the trap is taken at the level R76 gives. R57, R58: a
scratch access that is misaligned or out of range is an ADDR violation of the thread with the address; a core's access that is misaligned
raises ALIGN, one past its own memory or the internal map raises ACCESS, in that order, before anything leaves the core. The model's
readings and choices that it rests on: log entries 11, 44, 45, 125, 178, 180. -/
def Obligations.IssueFailures : Prop :=
  (∀ (s : State) (i : Instr) (t : Fin 512) (w : BitVec 32) (y : Option (BitVec 32)) (p : Packet),
     agentOf i = some (.thread t) → words i = some (w, y) → (getThread s t).pkt = some p → isFrozen s t = false → waitsReloc s t = false →
     (0x70 ≤ fOp w.toNat ∧ fOp w.toNat ≤ 0x77 → exec i s = .next (threadFault (issued s t) t vUNAUTH (getThread s t).pc.toNat))
     ∧ (¬ (0x70 ≤ fOp w.toNat ∧ fOp w.toNat ≤ 0x77) → legalP w.toNat ((y.getD 0#32).toNat) = false →
       exec i s = .next (threadFault (issued s t) t vADDR (getThread s t).pc.toNat))
     ∧ (∀ g : Prog, ¬ (0x70 ≤ fOp w.toNat ∧ fOp w.toNat ≤ 0x77) → legalP w.toNat ((y.getD 0#32).toNat) = true →
       (y.isSome = true → loopEndsAt (getThread s t) ((getThread s t).pc + 4#64) = false) → passProg s p = some g →
       (guardHolds (getThread s t).regs w → g.c < (getThread s t).slots + wordsOf y → exec i s = .next (threadFault (issued s t) t vBUDGET (getThread s t).pc.toNat))
       ∧ (¬ guardHolds (getThread s t).regs w → g.c < (getThread s t).slots + 1 → exec i s = .next (threadFault (issued s t) t vBUDGET (getThread s t).pc.toNat))))
  ∧ (∀ (s : State) (i : Instr) (c : Fin 4) (w : BitVec 32) (y : Option (BitVec 32)),
     agentOf i = some (.tally c) → words i = some (w, y) → s.cores.Pairwise (fun a b => a.1 < b.1) → coreIdle s (3 + c.val) = false →
     let x := getCore s (3 + c.val)
     (fetchOk (3 + c.val) x (4 * wordsOf y) = false →
       ∃ s', exec i s = .next s' ∧ getCore s' (3 + c.val) = exception (3 + c.val) x cACCESS x.pc x.pc)
     ∧ (fetchOk (3 + c.val) x (4 * wordsOf y) = true → legalS w.toNat ((y.getD 0#32).toNat) = false →
       ∃ s', exec i s = .next s' ∧ getCore s' (3 + c.val) = exception (3 + c.val) x cILLEGAL (w.zeroExtend 64) x.pc))
  ∧ ((∀ (i : Agent → FmtI → Instr) (op n : Nat), (i, op, n) ∈
       [(Instr.ld8u, 0x40, 1), (Instr.ld16u, 0x41, 2), (Instr.ld32u, 0x42, 4), (Instr.ld64, 0x43, 8), (Instr.ld8s, 0x44, 1),
        (Instr.ld16s, 0x45, 2), (Instr.ld32s, 0x46, 4), (Instr.st8, 0x48, 1), (Instr.st16, 0x49, 2), (Instr.st32, 0x4A, 4),
        (Instr.st64, 0x4B, 8)] →
     (∀ (s : State) (t : Fin 512) (p : Packet) (f : FmtI), ThreadIssues s t (encI op f) none p →
       guardHolds (getThread s t).regs (encI op f) →
       let th := getThread s t
       let a := (eaOf th.regs f).toNat
       a % n ≠ 0 ∨ 2048 < a + n →
       exec (i (.thread t) f) s = .next (threadFault (setThread (issued s t) t { th with slots := th.slots + 1 }) t vADDR a))
     ∧ ∀ (s : State) (who : Agent) (k : Nat) (f : FmtI), CoreIssues s who k (encI op f) none →
       guardHolds (getCore s k).regs (encI op f) → s.cores.Pairwise (fun a b => a.1 < b.1) →
       let c := getCore s k
       let ea := eaOf c.regs f
       ((∀ j ∈ agentCores s who, (eaOf (getCore s j).regs f).toNat % n ≠ 0) →
         ∃ s', exec (i who f) s = .next s' ∧ getCore s' k = exception k c cALIGN ea c.pc ∧
           ∀ j, j ∉ agentCores s who → getCore s' j = getCore s j)
       ∧ ((∀ j ∈ agentCores s who, let a := (eaOf (getCore s j).regs f).toNat
           a % n = 0 ∧ (2 ^ 63 + localExtent j ≤ a ∨ (2 ^ 40 ≤ a ∧ a < 2 ^ 63))) →
         ∃ s', exec (i who f) s = .next s' ∧ getCore s' k = exception k c cACCESS ea c.pc ∧
           ∀ j, j ∉ agentCores s who → getCore s' j = getCore s j))
   ∧ ∀ (s : State) (who : Agent) (f : FmtI) (a m : Nat), AllAsk s who (encI 0x43 f) none (mapAsk f 8 2 fun _ a => .load a 8) (.load a 8) →
     (agentCores s who).head? = some m → mayRead (coreReader m) a = false →
     exec (.ld64 who f) s = .next (readerFault s (coreReader m) vADDR a))

/-- R56, R57: loads of an engine thread from its scratch, and LDK from the constants of the bank stamped on its packet. R56, R57: stores of an
engine thread to its scratch. The model's readings and choices that it rests on: log entries 3, 45. -/
def Obligations.ThreadMemory : Prop :=
  (ThreadLoadLaw .ld8u 0x40 1 (BitVec.ofNat 64) ∧ ThreadLoadLaw .ld16u 0x41 2 (BitVec.ofNat 64)
   ∧ ThreadLoadLaw .ld32u 0x42 4 (BitVec.ofNat 64) ∧ ThreadLoadLaw .ld64 0x43 8 (BitVec.ofNat 64)
   ∧ ThreadLoadLaw .ld8s 0x44 1 (fun v => BitVec.ofInt 64 (BitVec.ofNat 8 v).toInt)
   ∧ ThreadLoadLaw .ld16s 0x45 2 (fun v => BitVec.ofInt 64 (BitVec.ofNat 16 v).toInt)
   ∧ ThreadLoadLaw .ld32s 0x46 4 (fun v => BitVec.ofInt 64 (BitVec.ofNat 32 v).toInt)
   ∧ ∀ (s : State) (t : Fin 512) (p : Packet) (f : FmtI), ThreadIssues s t (encI 0x4C f) none p →
     guardHolds (getThread s t).regs (encI 0x4C f) → tblWf 0#64 (getThread s t).w = true →
     let a := (eaOf (getThread s t).regs f).toNat
     a % 8 = 0 → a < 65536 →
     ∃ s', exec (.ldk (.thread t) f) s = .next s' ∧
       ThreadWent s s' t 1 (RegIs f.d fun _ => BitVec.ofNat 64 (leAt (getBank s p.bank).consts a 8)))
  ∧ (ThreadStoreLaw .st8 0x48 1 ∧ ThreadStoreLaw .st16 0x49 2 ∧ ThreadStoreLaw .st32 0x4A 4 ∧ ThreadStoreLaw .st64 0x4B 8)

/-- R56, R58: loads and stores of a core in its own memory. R24, R58, R59: accesses of the cores to the internal address map; AMOADD returns
the old value and adds in one access. The model's readings and choices that it rests on: log entries 3, 33, 45, 46, 125. -/
def Obligations.CoreMemory : Prop :=
  (CoreLoadLaw .ld8u 0x40 1 (BitVec.ofNat 64) ∧ CoreLoadLaw .ld16u 0x41 2 (BitVec.ofNat 64)
   ∧ CoreLoadLaw .ld32u 0x42 4 (BitVec.ofNat 64) ∧ CoreLoadLaw .ld64 0x43 8 (BitVec.ofNat 64)
   ∧ CoreLoadLaw .ld8s 0x44 1 (fun v => BitVec.ofInt 64 (BitVec.ofNat 8 v).toInt)
   ∧ CoreLoadLaw .ld16s 0x45 2 (fun v => BitVec.ofInt 64 (BitVec.ofNat 16 v).toInt)
   ∧ CoreLoadLaw .ld32s 0x46 4 (fun v => BitVec.ofInt 64 (BitVec.ofNat 32 v).toInt)
   ∧ CoreStoreLaw .st8 0x48 1 ∧ CoreStoreLaw .st16 0x49 2 ∧ CoreStoreLaw .st32 0x4A 4 ∧ CoreStoreLaw .st64 0x4B 8)
  ∧ (MapLoadLaw .ld8u 0x40 1 (BitVec.ofNat 64) ∧ MapLoadLaw .ld16u 0x41 2 (BitVec.ofNat 64)
   ∧ MapLoadLaw .ld32u 0x42 4 (BitVec.ofNat 64) ∧ MapLoadLaw .ld64 0x43 8 (BitVec.ofNat 64)
   ∧ MapLoadLaw .ld8s 0x44 1 (fun v => BitVec.ofInt 64 (BitVec.ofNat 8 v).toInt)
   ∧ MapLoadLaw .ld16s 0x45 2 (fun v => BitVec.ofInt 64 (BitVec.ofNat 16 v).toInt)
   ∧ MapLoadLaw .ld32s 0x46 4 (fun v => BitVec.ofInt 64 (BitVec.ofNat 32 v).toInt)
   ∧ MapStoreLaw .st8 0x48 1 ∧ MapStoreLaw .st16 0x49 2 ∧ MapStoreLaw .st32 0x4A 4 ∧ MapStoreLaw .st64 0x4B 8
   ∧ ∀ (s : State) (who : Agent) (fn : BitVec 4) (f : FmtA) (a m : Nat) (v : Word),
     AllAsk s who (encA 0x4E f fn.toNat) none (fun k c =>
       let ea := rget c.regs f.a.toNat
       if accessTrap k c ea 8 2 true = none ∧ userDenied c ea 8 1 = false then some (.amo ea.toNat (rget c.regs f.b.toNat)) else none) (.amo a v) →
     (agentCores s who).head? = some m → mayRead (coreReader m) a = true → mayWrite (coreReader m) a = true →
     let r := mapRead s (coreReader m) a 8
     let s1 := mapWrite r.1 (coreReader m) a 8 ((r.2 + v.toNat) % 2 ^ 64)
     isFrozen s1 (coreMaster m) = false → s1.cores.Pairwise (fun a b => a.1 < b.1) →
     (∀ k ∈ agentCores s who, tblWf 0#64 (getCore s1 k).w = true) →
     ∃ s', exec (.amoadd who fn f) s = .next s' ∧ CoresAnswered s s1 s' who 1 (RegIs f.d fun _ => BitVec.ofNat 64 r.2))

/-- R65, R73: reads, writes, sets and clears of a CSR by a core that may make them: the old value to w[d], the new one to the CSR, and nothing
else but the pc and the retired count. R73: what raises ILLEGAL and PRIV instead of an access to a CSR. Tables 2.12 to 2.15: a writable
CSR reads back what was written with its reserved bits zero; PL of STATUS is the level. The model's readings and choices that it rests on:
log entries 21, 40, 45. -/
def Obligations.CsrAccess : Prop :=
  (∀ (s : State) (who : Agent) (k : Nat) (f : FmtI), s.cores.Pairwise (fun a b => a.1 < b.1) → tblWf 0#64 (getCore s k).w = true →
   let c := getCore s k
   let n := f.imm.toNat
   let a := rget c.regs f.a.toNat
   let old := csrRead s k n c
   csrKnown n = true → (k < 3 ∨ n / 256 ≠ 2) → n / 256 ≤ c.pl.toNat →
   (CoreIssues s who k (encI 0x58 f) none → guardHolds c.regs (encI 0x58 f) →
     ∃ s', exec (.csrr who f) s = .next s' ∧ OnlyCores s s' who ∧ CoreWent s s' k 1 (RegIs f.d fun _ => old))
   ∧ (CoreIssues s who k (encI 0x59 f) none → guardHolds c.regs (encI 0x59 f) → bitOf n 7 = false →
     ∃ s', exec (.csrw who f) s = .next s' ∧ OnlyCores s s' who ∧
       getCore s' k = { csrWrite n a c with pc := c.pc + 4#64, retired := (c.retired + 1) % 2 ^ 64 })
   ∧ (CoreIssues s who k (encI 0x5A f) none → guardHolds c.regs (encI 0x5A f) → bitOf n 7 = false →
     ∃ s', exec (.csrs who f) s = .next s' ∧ OnlyCores s s' who ∧ RegIs f.d (fun _ => old) c.regs (getCore s' k).regs ∧
       getCore s' k = { csrWrite n (old ||| a) c with w := (getCore s' k).w, pc := c.pc + 4#64, retired := (c.retired + 1) % 2 ^ 64 })
   ∧ (CoreIssues s who k (encI 0x5B f) none → guardHolds c.regs (encI 0x5B f) → bitOf n 7 = false →
     ∃ s', exec (.csrc who f) s = .next s' ∧ OnlyCores s s' who ∧ RegIs f.d (fun _ => old) c.regs (getCore s' k).regs ∧
       getCore s' k = { csrWrite n (old &&& ~~~a) c with w := (getCore s' k).w, pc := c.pc + 4#64, retired := (c.retired + 1) % 2 ^ 64 })
   ∧ (f.a = 0#6 → bitOf n 7 = true →
     (CoreIssues s who k (encI 0x5A f) none → guardHolds c.regs (encI 0x5A f) →
       ∃ s', exec (.csrs who f) s = .next s' ∧ OnlyCores s s' who ∧ CoreWent s s' k 1 (RegIs f.d fun _ => old))
     ∧ (CoreIssues s who k (encI 0x5B f) none → guardHolds c.regs (encI 0x5B f) →
       ∃ s', exec (.csrc who f) s = .next s' ∧ OnlyCores s s' who ∧ CoreWent s s' k 1 (RegIs f.d fun _ => old))))
  ∧ (∀ (s : State) (who : Agent) (k : Nat) (f : FmtI), s.cores.Pairwise (fun a b => a.1 < b.1) →
   let c := getCore s k
   let n := f.imm.toNat
   (CoreIssues s who k (encI 0x58 f) none → guardHolds c.regs (encI 0x58 f) → csrKnown n = false ∨ (3 ≤ k ∧ n / 256 = 2) →
     ∃ s', exec (.csrr who f) s = .next s' ∧ (∀ j, j ∉ agentCores s who → getCore s' j = getCore s j) ∧ getCore s' k = exception k c cILLEGAL ((encI 0x58 f).zeroExtend 64) c.pc)
   ∧ (CoreIssues s who k (encI 0x58 f) none → guardHolds c.regs (encI 0x58 f) → csrKnown n = true → k < 3 ∨ n / 256 ≠ 2 → c.pl.toNat < n / 256 →
     ∃ s', exec (.csrr who f) s = .next s' ∧ (∀ j, j ∉ agentCores s who → getCore s' j = getCore s j) ∧ getCore s' k = exception k c cPRIV ((encI 0x58 f).zeroExtend 64) c.pc)
   ∧ (CoreIssues s who k (encI 0x59 f) none → guardHolds c.regs (encI 0x59 f) → bitOf n 7 = true →
     ∃ s', exec (.csrw who f) s = .next s' ∧ (∀ j, j ∉ agentCores s who → getCore s' j = getCore s j) ∧ getCore s' k = exception k c cILLEGAL ((encI 0x59 f).zeroExtend 64) c.pc))
  ∧ (∀ (s : State) (k : Nat) (c : SCore) (v : Word),
   csrRead s k 0x100 (csrWrite 0x100 v c) = (v &&& 0xC1C#64) ||| (c.pl.zeroExtend 64 <<< 8)
   ∧ csrRead s k 0x101 (csrWrite 0x101 v c) = v &&& ~~~3#64
   ∧ csrRead s k 0x103 (csrWrite 0x103 v c) = v &&& 0x80000000000000FF#64
   ∧ csrRead s k 0x106 (csrWrite 0x106 v c) = v &&& 0x7E#64
   ∧ csrRead s k 0x107 (csrWrite 0x107 v c) = v &&& 0xFFFFFFFFFFFF#64
   ∧ csrRead s k 0x200 (csrWrite 0x200 v c) = v &&& 0xC1C#64
   ∧ csrRead s k 0x201 (csrWrite 0x201 v c) = v &&& ~~~3#64
   ∧ csrRead s k 0x203 (csrWrite 0x203 v c) = v &&& 0x80000000000000FF#64
   ∧ (∀ n ∈ [0x102, 0x104, 0x105, 0x202, 0x204, 0x205], csrRead s k n (csrWrite n v c) = v)
   ∧ (∀ i < 8, tblWf 0#64 c.regionBase = true → csrRead s k (0x110 + 2 * i) (csrWrite (0x110 + 2 * i) v c) = v &&& ~~~0xFF8#64)
   ∧ (∀ i < 8, tblWf 0#64 c.regionLast = true → csrRead s k (0x111 + 2 * i) (csrWrite (0x111 + 2 * i) v c) = v &&& ~~~0xFFF#64))

/-- R76: what an exception of a core saves and where it goes: at Supervisor level by STATUS, EPC, CAUSE, TVAL and TVEC, at Vault level by
their Vault copies; a second exception there before TRET is DOUBLE on a Triad core or stops the core. R65, R66, R76: a service trap saves
the next instruction and is taken at Supervisor level, or at Vault level where its operand asks for it or the core is there already; TRET
restores the pc, the level and the interrupt enable of its level. The model's readings and choices that it rests on: log entries 21, 41,
45, 179, 180. -/
def Obligations.TrapsAndReturns : Prop :=
  (∀ (k : Nat) (c : SCore) (code : Nat) (tval epc : Word), code ≠ cTRAPV →
   (c.pl = 0#2 ∨ (c.pl = 1#2 ∧ c.status.getLsbD 4 = false) → ∃ st, exception k c code tval epc =
       { c with pl := 1#2, pc := c.tvec, epc := epc, cause := BitVec.ofNat 64 code, tval := tval, status := st } ∧
     st.getLsbD 10 = c.pl.getLsbD 0 ∧ st.getLsbD 11 = c.pl.getLsbD 1 ∧ st.getLsbD 3 = c.status.getLsbD 2 ∧ st.getLsbD 2 = false ∧
     st.getLsbD 4 = true)
   ∧ (c.pl = 2#2 ∧ c.vstatus.getLsbD 4 = false → ∃ st, exception k c code tval epc =
       { c with pc := c.vtvec, vepc := epc, vcause := BitVec.ofNat 64 code, vtval := tval, vstatus := st } ∧
     st.getLsbD 10 = false ∧ st.getLsbD 11 = true ∧ st.getLsbD 3 = c.vstatus.getLsbD 2 ∧ st.getLsbD 2 = false ∧ st.getLsbD 4 = true)
   ∧ (c.pl = 1#2 ∧ c.status.getLsbD 4 = true → k < 3 → ∃ st, exception k c code tval epc =
       { c with pl := 2#2, pc := c.vtvec, vepc := c.epc, vcause := BitVec.ofNat 64 cDOUBLE, vtval := BitVec.ofNat 64 code, vstatus := st })
   ∧ (c.pl = 1#2 ∧ c.status.getLsbD 4 = true → 3 ≤ k → exception k c code tval epc = { c with stopped := true })
   ∧ (c.pl = 2#2 ∧ c.vstatus.getLsbD 4 = true → exception k c code tval epc = { c with stopped := true }))
  ∧ (∀ (s : State) (who : Agent) (k : Nat) (f : FmtI), s.cores.Pairwise (fun a b => a.1 < b.1) →
   let c := getCore s k
   let code := BitVec.ofNat 64 (f.imm.toNat % 512)
   (CoreIssues s who k (encI 0x5C f) none → guardHolds c.regs (encI 0x5C f) → c.pl ≠ 3#2 →
     (f.imm.getLsbD 9 = false → c.pl.toNat < 2 → (c.pl = 0#2 ∨ c.status.getLsbD 4 = false) →
       ∃ s', exec (.trap who f) s = .next s' ∧ OnlyCores s s' who ∧ getCore s' k = enterS c false cTRAPS code (c.pc + 4#64))
     ∧ (f.imm.getLsbD 9 = false → c.pl = 2#2 → c.vstatus.getLsbD 4 = false →
       ∃ s', exec (.trap who f) s = .next s' ∧ OnlyCores s s' who ∧ getCore s' k = enterV c false cTRAPS code (c.pc + 4#64))
     ∧ (f.imm.getLsbD 9 = true → k < 3 → (c.pl ≠ 2#2 ∨ c.vstatus.getLsbD 4 = false) →
       ∃ s', exec (.trap who f) s = .next s' ∧ OnlyCores s s' who ∧ getCore s' k = enterV c false cTRAPV code (c.pc + 4#64))
     ∧ (f.imm.getLsbD 9 = true → 3 ≤ k →
       ∃ s', exec (.trap who f) s = .next s' ∧ (∀ j, j ∉ agentCores s who → getCore s' j = getCore s j) ∧ getCore s' k = exception k c cILLEGAL ((encI 0x5C f).zeroExtend 64) c.pc))
   ∧ (CoreIssues s who k (encI 0x5D f) none → guardHolds c.regs (encI 0x5D f) →
     (c.pl = 1#2 → (c.status >>> 10).truncate 2 = 0#2 ∨ (c.status >>> 10).truncate 2 = 1#2 →
       ∃ s' st, exec (.tret who f) s = .next s' ∧ OnlyCores s s' who ∧ getCore s' k =
         { c with pc := c.epc &&& ~~~3#64, pl := (c.status >>> 10).truncate 2, status := st, retired := (c.retired + 1) % 2 ^ 64 } ∧
         st.getLsbD 2 = c.status.getLsbD 3 ∧ st.getLsbD 4 = false)
     ∧ (c.pl = 2#2 → k < 3 → (c.vstatus >>> 10).truncate 2 ≠ 3#2 →
       ∃ s' st, exec (.tret who f) s = .next s' ∧ OnlyCores s s' who ∧ getCore s' k =
         { c with pc := c.vepc &&& ~~~3#64, pl := (c.vstatus >>> 10).truncate 2, vstatus := st, retired := (c.retired + 1) % 2 ^ 64 } ∧
         st.getLsbD 2 = c.vstatus.getLsbD 3 ∧ st.getLsbD 4 = false)
     ∧ (c.pl = 0#2 → ∃ s', exec (.tret who f) s = .next s' ∧ OnlyCores s s' who ∧
         getCore s' k = exception k c cPRIV ((encI 0x5D f).zeroExtend 64) c.pc)))

/-- R40, R60, R65, R66: WFI stops issue unless an interrupt is pending and, on the Triad's leading core, completes a tick program that was
entered; FENCE only goes on; every waiting core of the named agent that is not held resumes once an interrupt is pending. Nothing else
changes. R40, R75 to R78: each core of an agent that is neither held nor waiting takes the interrupt that it is due, which is pending and
enabled at its level: VAULT_DONE at Vault level, the others at Supervisor level; the saved pc is the next instruction's, CAUSE has INTR
set, and TICK, VAULT_DONE and WB_READY clear. A core without one due stays as it is. TICK on the Triad's leading core enters the tick
program and ends coasting. The model's readings and choices that it rests on: log entries 42, 43, 45. -/
def Obligations.WaitsAndInterrupts : Prop :=
  (∀ (s : State) (who : Agent), s.cores.Pairwise (fun a b => a.1 < b.1) →
   (∀ (f : FmtI) (k : Nat), CoreIssues s who k (encI 0x5E f) none → guardHolds (getCore s k).regs (encI 0x5E f) →
     ∃ s', exec (.wfi who f) s = .next s' ∧
       getCore s' k = { getCore s k with waiting := !anyPending s k, pc := (getCore s k).pc + 4#64, retired := ((getCore s k).retired + 1) % 2 ^ 64 } ∧
       (∀ j, j ∉ agentCores s who → getCore s' j = getCore s j) ∧
       s' = { s with cores := s'.cores, triad := { s.triad with tickProg := s'.triad.tickProg } } ∧
       (leadCore s who = some k → s'.triad.tickProg = if k < 3 ∧ s.triad.tickProg = .entered then .complete else s.triad.tickProg))
   ∧ (∀ (f : FmtI) (k : Nat), CoreIssues s who k (encI 0x5F f) none → guardHolds (getCore s k).regs (encI 0x5F f) →
     ∃ s', exec (.fence who f) s = .next s' ∧ OnlyCores s s' who ∧
       getCore s' k = { getCore s k with pc := (getCore s k).pc + 4#64, retired := ((getCore s k).retired + 1) % 2 ^ 64 })
   ∧ ∃ s', exec (.wfiResume who) s = .next s' ∧ OnlyCores s s' who ∧ ∀ k ∈ agentCores s who,
       getCore s' k = { getCore s k with waiting := (getCore s k).waiting && !(!coreHeld s k && anyPending s k) })
  ∧ (∀ (s : State) (who : Agent), s.cores.Pairwise (fun a b => a.1 < b.1) →
   let entered := ∃ k, leadCore s who = some k ∧ k < 3 ∧ irqChoice s k = some cTICK
   (∀ k n, irqChoice s k = some n → irqPending s k n = true ∧ (getCore s k).ie.getLsbD n = true ∧
     (n ≠ 5 → (getCore s k).pl = 0#2 ∨ ((getCore s k).pl = 1#2 ∧ (getCore s k).status.getLsbD 2 = true)) ∧
     (n = 5 → (getCore s k).pl ≠ 2#2 ∨ (getCore s k).vstatus.getLsbD 2 = true))
   ∧ ∃ s', exec (.interruptTake who) s = .next s' ∧
     (∀ j, j ∉ agentCores s who → getCore s' j = getCore s j) ∧
     (∀ k ∈ agentCores s who, let x := getCore s k
       (coreIdle s k = true ∨ irqChoice s k = none → getCore s' k = x)
       ∧ (∀ n, coreIdle s k = false → irqChoice s k = some n → n ≠ 5 → getCore s' k = { enterS x true n (irqTval s k n) x.pc with
           latched := if n = 1 ∨ n = 6 then x.latched &&& ~~~(1#8 <<< n) else x.latched })
       ∧ (coreIdle s k = false → irqChoice s k = some 5 →
           getCore s' k = { enterV x true 5 0#64 x.pc with latched := x.latched &&& ~~~(1#8 <<< 5) }))
     ∧ (¬ entered → s' = { s with cores := s'.cores })
     ∧ (entered → s' = { s with
         cores := s'.cores, fence := { s.fence with noTick := 0 }
         triad := { s.triad with
           tickProg := .entered
           coasting := s.triad.coasting && s.triad.fault
           coastCause := if s.triad.coasting && !s.triad.fault then 0 else s.triad.coastCause } }))

/-- R88, R90, R92, R94: reads of the frame under program. A read past the frame, or past byte 255 without FAR, is DENIED with w[d] zero; else
w[d] holds the bytes, first byte most significant, and OK. XTR and CSUM reach the window only. R90, R94, R201, R229: writes of the frame
under program and of a buffer chain. An FWR inside the frame, and one inside a chain whose frame a packet holds, is DENIED with detail 1
while that frame's speculative enqueue stands (log entry 50); otherwise bytes below 256 go to the window and the others to the stored
frame, and reading them back gives what was written. R90, R95: TSTAMP reads the short time or the seconds of a time base, or marks the
frame for an egress stamp with a cookie; of a base that does not run it is DENIED and leaves w[d]. The model's readings and choices that
it rests on: log entries 50, 57. -/
def Obligations.FrameAccess : Prop :=
  ((∀ (n : BitVec 3) (f : FmtX), XLaw (.frd · n f) (encX 0x60 f n.toNat) f.desc fun s t p s' =>
     let ea := (xa s t f + bits f.desc.toNat 13 0) % 2 ^ 64
     let k := n.toNat + 1
     if p.len < ea + k ∨ (256 < ea + k ∧ f.desc.getLsbD 31 = false) then XDone (slotsTaken s t 2) s' t f (some 0#64) stDENIED 0 0
     else XDone (slotsTaken s t 2) s' t f (some (BitVec.ofNat 64 (beAt (frameNow s t p) ea k))) stOK 0 0)
   ∧ (∀ f : FmtX, XLaw (.xtr · f) (encX 0x62 f 0) f.desc fun s t p s' =>
     let o := (xa s t f + bits f.desc.toNat 10 0) % 2 ^ 64
     let k := bits f.desc.toNat 21 16 + 1
     if 8 * min p.len 256 < o + k then XDone (slotsTaken s t 2) s' t f (some 0#64) stDENIED 0 0
     else XDone (slotsTaken s t 2) s' t f
       (some (BitVec.ofNat 64 (beAt (getThread s t).window (o / 8) 9 / 2 ^ (72 - o % 8 - k) % 2 ^ k))) stOK 0 0)
   ∧ ∀ f : FmtX, XLaw (.csum · f) (encX 0x63 f 0) f.desc fun s t p s' =>
     let o := (xa s t f + bits f.desc.toNat 7 0) % 2 ^ 64
     let k := bits f.desc.toNat 23 16 + 1
     if min p.len 256 < o + k then XDone (slotsTaken s t 2) s' t f (some 0#64) stDENIED 0 0
     else ∃ sum, sum < 65536 ∧ XDone (slotsTaken s t 2) s' t f (some (BitVec.ofNat 64 sum)) stOK 0 0 ∧
       (sum : Int) % 65535 = ((xb s t f % 65536 + ((List.range k).map (fun i =>
         ((getThread s t).window.getD (o + i) 0#8).toNat * if i % 2 = 0 then 256 else 1)).sum : Nat) : Int) % 65535)
  ∧ ((∀ (n : BitVec 3) (f : FmtX), XLaw (.fwr · n f) (encX 0x61 f n.toNat) f.desc fun s t p s' =>
     let ea := (xa s t f + bits f.desc.toNat 13 0) % 2 ^ 64
     let k := n.toNat + 1
     if p.len < ea + k ∨ (256 < ea + k ∧ f.desc.getLsbD 31 = false) then XDone (slotsTaken s t 2) s' t f none stDENIED 0 0
     else if p.spec = .standing then XDone (slotsTaken s t 2) s' t f none stDENIED 1 0
     else XDone (writeFrame (slotsTaken s t 2) t p ea (beBytes k (xb s t f))) s' t f none stOK 0 0)
   ∧ (∀ (n : BitVec 3) (f : FmtX) (c : Nat) (ch : Chain), XLaw (.fwrBuffer · n f) (encX 0x61 f (8 + n.toNat)) f.desc fun s t _ s' =>
     let h := xa s t f % 2 ^ 32
     let o := xa s t f / 2 ^ 48 + bits f.desc.toNat 13 0
     handleState s h = .live c → getChain s c = some ch →
     if 256 * ch.cells.length < o + n.toNat + 1 then XDone (slotsTaken s t 2) s' t f none stDENIED 0 0
     else if ∃ q ∈ packets s, q.spec = .standing ∧ handleCell q.handle = c then XDone (slotsTaken s t 2) s' t f none stDENIED 1 0
     else XDone (setChain (slotsTaken s t 2) c (some { ch with data := memPut ch.data o (beBytes (n.toNat + 1) (xb s t f)) })) s' t f none stOK 0 0)
   ∧ ∀ (s : State) (t : Nat) (p : Packet) (ea k v i : Nat), (getThread s t).window.length = min p.len 256 → (getThread s t).pkt = some p →
     (∀ ch, getChain s (handleCell p.handle) = some ch → memWf ch.data = true) → (getChain s (handleCell p.handle)).isSome = true →
     i < k → ea + k ≤ p.len → 1 ≤ k → k ≤ 8 →
     (frameNow (writeFrame s t p ea (beBytes k v)) t p).getD (ea + i) 0#8 = BitVec.ofNat 8 (v / 256 ^ (k - 1 - i)))
  ∧ (∀ (n : BitVec 2) (f : FmtX),
   XLaw (.tstampShort · n f) (encX 0x64 f n.toNat) f.desc (fun s t _ s' =>
     let b := tbGet s.time n.toNat
     if b.running then XDone (slotsTaken s t 2) s' t f (some (BitVec.ofNat 64 (tbNs b % 2 ^ 48))) stOK 0 0
     else XDone (slotsTaken s t 2) s' t f none stDENIED 0 0)
   ∧ XLaw (.tstampSeconds · n f) (encX 0x64 f (4 + n.toNat)) f.desc (fun s t _ s' =>
     let b := tbGet s.time n.toNat
     if b.running then XDone (slotsTaken s t 2) s' t f (some (BitVec.ofNat 64 (tbNs b / 10 ^ 9 % 2 ^ 48))) stOK 0 0
     else XDone (slotsTaken s t 2) s' t f none stDENIED 0 0)
   ∧ XLaw (.tstampMark · n f) (encX 0x64 f (8 + n.toNat)) f.desc (fun s t _ s' =>
     if (tbGet s.time n.toNat).running then
       XDone (setThread s t { getThread s t with slots := (getThread s t).slots + 2, mark := some (n.toNat, xa s t f % 65536) }) s' t f none stOK 0 0
     else XDone (slotsTaken s t 2) s' t f none stDENIED 0 0))

/-- R96, R172, R187: LKP counts the lookup; an exact hit gives the entry's data and sets its hit bit, a longest-prefix hit the route's data
and prefix length; a miss gives zero and MISS. R187: the route that a longest-prefix lookup finds matches the address and no matching
route of the family is longer. R97, R176, R178: LRN of a key that is present and neither static nor tagged replaces its data, sets its hit
bit and reports EXISTED; of a new key with room in its buckets it places the entry; of a table that programs may not teach it is DENIED.
DEL removes an entry that is not static, and is MISS without one. The model's readings and choices that it rests on: log entries 22, 57,
66, 67, 73. -/
def Obligations.LookupsAndLearning : Prop :=
  (∀ f : FmtX,
   XLaw (.lkpExact · f) (encX 0x65 f 0) f.desc (fun s t _ s' =>
     let tb := bits f.desc.toNat 7 0
     let k := tableKey s tb (getThread s t).regs f.a.toNat (2 ^ bits f.desc.toNat 27 26)
     let s1 := bump (slotsTaken s t 2) .lookups tb 1
     bits f.desc.toNat 27 26 < 3 →
     match getTable s tb with
     | none => XDone s1 s' t f (some 0#64) stMISS 0 0
     | some x => match findKey s tb x.defn k with
       | none => XDone s1 s' t f (some 0#64) stMISS 0 0
       | some l => XDone (bump (modEntry s1 x.defn.dram l fun y => { y with hit := true }) .hits tb 1) s' t f
           (some (BitVec.ofNat 64 (slotData s (getEntry s x.defn.dram l)))) stOK 0 0)
   ∧ XLaw (.lkpLpm · f) (encX 0x65 f 1) f.desc (fun s t _ s' =>
     let d := bits f.desc.toNat 7 0
     let v6 := decide (bits f.desc.toNat 27 26 = 1)
     let addr := if v6 then xa s t f * 2 ^ 64 + (rget (getThread s t).regs (f.a.toNat + 1)).toNat else xa s t f % 2 ^ 32
     let s1 := bump (slotsTaken s t 2) .lpmLookups d 1
     match (getDomain s d).bind (fun x => bestRoute x.routes v6 addr) with
     | some r => XDone s1 s' t f (some (BitVec.ofNat 64 (r.data + r.len * 2 ^ 32))) stOK 0 0
     | none => XDone (bump s1 .lpmMisses d 1) s' t f (some 0#64) stMISS 0 0))
  ∧ (∀ (l : List Route) (v6 : Bool) (addr : Nat),
   let matches' (r : Route) : Prop := r.v6 = v6 ∧ r.addr / 2 ^ ((if v6 then 128 else 32) - r.len) = addr / 2 ^ ((if v6 then 128 else 32) - r.len)
   (∀ r, bestRoute l v6 addr = some r → r ∈ l ∧ matches' r ∧ ∀ q ∈ l, matches' q → q.len ≤ r.len)
   ∧ (bestRoute l v6 addr = none → ∀ q ∈ l, ¬ matches' q))
  ∧ (∀ f : FmtX, bits f.desc.toNat 27 26 < 3 →
   XLaw (.lrn · f) (encX 0x66 f 0) f.desc (fun s t p s' =>
     let tb := bits f.desc.toNat 7 0
     let k := tableKey s tb (getThread s t).regs f.a.toNat (2 ^ bits f.desc.toNat 27 26)
     let s1 := slotsTaken s t 2
     let c : LrnCtx := { thread := t, d := f.d.toNat, table := tb, key := k, data := xb s t f, partner := p.partner }
     match getTable s tb with
     | none => XDone s1 s' t f (some 0#64) stDENIED 0 0
     | some x =>
       (x.defn.learn = false → XDone s1 s' t f (some 0#64) stDENIED 0 0)
       ∧ (x.defn.learn = true → tableClosed s tb = false → pairPassive s = false → tierBusy s x.defn.dram = false →
         match findBy s tb x.defn k (fun y => slotVisible s y || (y.used && y.tag == 1)) with
         | some l =>
           let y := getEntry s x.defn.dram l
           y.static = false → y.tag ≠ 1 →
           XDone (logChange (modEntry (bump s1 .learnExisted tb 1) x.defn.dram l fun y => { y with data := c.data, hit := true })
             (.entrySet tb x.defn.bits k c.data)) s' t f (some 0#64) stOK 2 0
         | none =>
           (x.defn.partLimit = 0 ∨ tblGet 0 x.newBy p.partner < x.defn.partLimit) → 65536000000000 ≤ (learnBucket s x).tokens →
           match insertAt s tb x.defn k with
           | .place (.slot i) => XDone (learnedKey (placeEntry s1 x.defn (.slot i) c.entry) c) s' t f (some 0#64) stOK 0 0
           | .place (.ovf i) => XDone (learnedKey (placeEntry s1 x.defn (.ovf i) c.entry) c) s' t f (some 0#64) stOK 1 0
           | _ => True))
   ∧ XLaw (.del · f) (encX 0x66 f 1) f.desc (fun s t _ s' =>
     let tb := bits f.desc.toNat 7 0
     let k := tableKey s tb (getThread s t).regs f.a.toNat (2 ^ bits f.desc.toNat 27 26)
     let s1 := slotsTaken s t 2
     match getTable s tb with
     | none => XDone s1 s' t f none stDENIED 0 0
     | some x =>
       (x.defn.learn = false → XDone s1 s' t f none stDENIED 0 0)
       ∧ (x.defn.learn = true → s.lookup.relocs = [] → pairPassive s = false →
         match findKey s tb x.defn k with
         | none => XDone s1 s' t f none stMISS 0 0
         | some l =>
           if (getEntry s x.defn.dram l).static then XDone s1 s' t f none stDENIED 0 0
           else (findBy s tb x.defn k fun y => y.used && y.tag != 0) = none →
             XDone (logChange (modParts s1 x.defn.dram l fun y => { y with used := false, vis := false }) (.entryRemove tb x.defn.bits k))
               s' t f none stOK 0 0)))

/-- R98, R213, R214, R399: CON in every case. Event bits above 63 are DENIED. LOOKUP, UPDATE and CLOSE of no connection are MISS; LOOKUP,
UPDATE and OPEN of one whose zone pair is not permitted are DENIED, which OPEN counts with EXISTED in the detail. LOOKUP changes nothing
and gives the record word; UPDATE, and OPEN of one that exists, advance its state, or remove it on RST; CLOSE removes it. OPEN of none is
DENIED, FULL by the pair's limit, FULL without a place, or makes one in OPENING. A device that writes no delta class itself answers the
same and changes no record. R212, Table 6.14: how the event bits of a frame change the state of a connection: an OPENING connection is
ESTABLISHED by a reply, or by the third message of a handshake; FIN makes an established one CLOSING; no transition leaves CLOSING, and
zones and key stay. The model's readings and choices that it rests on: log entries 53, 75, 76. -/
def Obligations.Connections : Prop :=
  (∀ f : FmtX,
   let found (s : State) (t : Fin 512) (p : Packet) (s' : State) (i : Nat) (c : Conn) (opened : Bool) : Prop :=
     let s0 := slotsTaken s t 2
     let ev := xb s t f
     let z := 32 * c.zsrc + c.zdst
     let det := if opened then 1 else 0
     let keep (s1 : State) : State := if pairPassive s then s0 else s1
     if (pairPolicy s p.epoch c.zsrc c.zdst).permit = false then
       XDone (if opened then keep (bump s0 .connDenied z 1) else s0) s' t f (some 0#64) stDENIED det 0
     else if ev.testBit 4 then
       XDone (setPkt (keep (connEvent (bump (removeConn s0 i c) .connReset z 1) p.epoch 0x11 i c)) t
           { p with lastCon := some { conn := i, state := 0, removed := true, zsrc := c.zsrc, zdst := c.zdst, ev := ev } })
         s' t f (some (BitVec.ofNat 64 (connWord i { c with state := 0 }))) stOK (det + 2) 0
     else
       let c' := { connNext c ev with idle := 0, visited := s.localNs }
       XDone (setPkt (keep (logChange (setConn s0 i (some c')) (.connSet c'.key (connWord i c')))) t
           { p with lastCon := some { conn := i, state := c'.state, removed := false, zsrc := c'.zsrc, zdst := c'.zdst, ev := ev } })
         s' t f (some (BitVec.ofNat 64 (connWord i c'))) stOK det 0
   XLaw (.conLookup · f) (encX 0x67 f 0) (setField 30 2 0 f.desc) (fun s t p s' =>
     let s0 := slotsTaken s t 2
     let ev := xb s t f
     if 64 ≤ ev then XDone s0 s' t f (some 0#64) stDENIED 0 0
     else match findConn s (keyOf (getThread s t).regs f.a.toNat 4) with
     | none => XDone s0 s' t f (some 0#64) stMISS 0 0
     | some (i, c) =>
       if (pairPolicy s p.epoch c.zsrc c.zdst).permit = false then XDone s0 s' t f (some 0#64) stDENIED 0 0
       else XDone (setPkt s0 t { p with lastCon := some { conn := i, state := c.state, removed := false, zsrc := c.zsrc, zdst := c.zdst, ev := ev } })
         s' t f (some (BitVec.ofNat 64 (connWord i c))) stOK 0 0)
   ∧ XLaw (.conUpdate · f) (encX 0x67 f 0) (setField 30 2 2 f.desc) (fun s t p s' =>
     if 64 ≤ xb s t f then XDone (slotsTaken s t 2) s' t f (some 0#64) stDENIED 0 0
     else match findConn s (keyOf (getThread s t).regs f.a.toNat 4) with
     | none => XDone (slotsTaken s t 2) s' t f (some 0#64) stMISS 0 0
     | some (i, c) => found s t p s' i c false)
   ∧ XLaw (.conClose · f) (encX 0x67 f 0) (setField 30 2 3 f.desc) (fun s t p s' =>
     let s0 := slotsTaken s t 2
     let ev := xb s t f
     if 64 ≤ ev then XDone s0 s' t f (some 0#64) stDENIED 0 0
     else match findConn s (keyOf (getThread s t).regs f.a.toNat 4) with
     | none => XDone s0 s' t f (some 0#64) stMISS 0 0
     | some (i, c) =>
       XDone (setPkt (if pairPassive s then s0 else bump (removeConn s0 i c) .connClosed (32 * c.zsrc + c.zdst) 1) t
           { p with lastCon := some { conn := i, state := c.state, removed := true, zsrc := c.zsrc, zdst := c.zdst, ev := ev } })
         s' t f (some (BitVec.ofNat 64 (connWord i c))) stOK 2 0)
   ∧ XLaw (.conOpen · f) (encX 0x67 f 0) (setField 30 2 1 f.desc) (fun s t p s' =>
     let s0 := slotsTaken s t 2
     let k := keyOf (getThread s t).regs f.a.toNat 4
     let ev := xb s t f
     let x := bits f.desc.toNat 4 0
     let y := bits f.desc.toNat 9 5
     let pol := pairPolicy s p.epoch x y
     let keep (s1 : State) : State := if pairPassive s then s0 else s1
     if 64 ≤ ev then XDone s0 s' t f (some 0#64) stDENIED 0 0
     else match findConn s k with
     | some (i, c) => found s t p s' i c true
     | none =>
       if pol.permit = false ∨ partnerZone s p.epoch p.partner ≠ x then
         XDone (keep (bump s0 .connDenied (32 * x + y) 1)) s' t f (some 0#64) stDENIED 0 0
       else if 0 < pol.maxConn ∧ pol.maxConn ≤ pairCount s x y then
         XDone (keep (bump s0 .connLimited (32 * x + y) 1)) s' t f (some 0#64) stFULL 4 0
       else match freePlace s k with
       | none => XDone (keep (bump s0 .connFull 0 1)) s' t f (some 0#64) stFULL 0 0
       | some j =>
         let n : Conn := { key := k, state := 1, hs := ev.testBit 1, rSeen := false, finI := false, finR := false, zsrc := x, zdst := y,
                           tclass := pol.tclass, cachedI := none, cachedR := none, idle := 0, addIdle := 0, visited := s.localNs, cleared := false }
         XDone (setPkt (keep (bump (logChange (setPairCount (setConn s0 j (some n)) x y (pairCount s x y + 1)) (.connSet k (connWord j n)))
             .connOpened (32 * x + y) 1)) t
             { p with lastCon := some { conn := j, state := 1, removed := false, zsrc := x, zdst := y, ev := ev } })
           s' t f (some (BitVec.ofNat 64 (connWord j n))) stOK 0 0))
  ∧ (∀ (c : Conn) (ev : Nat),
   let n := connNext c ev
   (c.state = 1 → c.hs = false → ev.testBit 0 = true → n.state = 2)
   ∧ (c.state = 1 → c.hs = false → ev.testBit 0 = false → n.state = 1)
   ∧ (c.state = 1 → c.hs = true → (n.state = 2 ↔ ev.testBit 0 = false ∧ ev.testBit 2 = true ∧ c.rSeen = true))
   ∧ (c.state = 2 → (n.state = 3 ↔ ev.testBit 3 = true))
   ∧ (c.state = 3 → n.state = 3)
   ∧ n.key = c.key ∧ n.zsrc = c.zsrc ∧ n.zdst = c.zdst ∧ n.tclass = c.tclass ∧ n.hs = c.hs)

/-- R99, R100, R236: ownership of buffer chains (Table 7.8). ALLOC outside 1 to 64 cells, or past eight chains, is DENIED; without room in the
head bank or in the pool it is EMPTY; a granted chain is owned by the thread with one hold. SHARE adds holds and names the owner, RELEASE
drops a hold, the owner's FREE drops one and leaves the chain PENDING while holds remain. R100, R106, R236: what freezes a thread that
misuses a handle: a stale handle, a FREE by another than the named last owner, a second FREE, and a RELEASE that would leave an owned
chain without holds. The chain is untouched. The model's readings and choices that it rests on: log entries 80, 88, 89, 204. -/
def Obligations.BufferOwnership : Prop :=
  (∀ (f : FmtX) (c : Nat) (ch : Chain),
   XLaw (.alloc · f) (encX 0x68 f 0) f.desc (fun s t _ s' =>
     let n := xa s t f % 256
     let p := bits f.desc.toNat 4 0
     if n = 0 ∨ 64 < n ∨ 8 ≤ (getLedger s t).length then XDone (slotsTaken s t 2) s' t f (some 0#64) stDENIED 0 0
     else if bankFree s (t.val / 8) < n then XDone (bump (slotsTaken s t 2) .allocEmpty p 1) s' t f (some 0#64) stEMPTY 2 0
     else match allocCells (slotsTaken s t 2) p n with
     | (s1, .empty dry) => XDone s1 s' t f (some 0#64) stEMPTY (if dry then 1 else 0) 0
     | (s1, .ok cells) =>
       let c0 := cells.headD 0
       let s2 := setChain (bankCells (t.val / 8) cells s1) c0 (some { cells := cells, hold := 1, owner := t, pending := false, data := [] })
       XDone (setLedger s2 t (getLedger s2 t ++ [(handleOf s2 c0, 1)])) s' t f (some (BitVec.ofNat 64 (handleOf s2 c0))) stOK 0 0)
   ∧ XLaw (.share · f) (encX 0x68 f 1) f.desc (fun s t _ s' =>
     let h := xa s t f % 2 ^ 32
     let n := xb s t f % 256
     let o := bits f.desc.toNat 10 0
     handleState s h = .live c → getChain s c = some ch →
     if 255 < ch.hold + n then XDone (slotsTaken s t 2) s' t f none stFULL 0 0
     else
       let s1 := setChain (slotsTaken s t 2) c (some { ch with hold := ch.hold + n, owner := o, pending := false })
       XDone (if o = t then ledgerAdd s1 t h n else s1) s' t f none stOK 0 0)
   ∧ XLaw (.release · f) (encX 0x68 f 2) f.desc (fun s t _ s' =>
     let h := xa s t f % 2 ^ 32
     handleState s h = .live c → getChain s c = some ch →
     (2 ≤ ch.hold → XDone (ledgerSub (setChain (slotsTaken s t 2) c (some { ch with hold := ch.hold - 1 })) t h) s' t f none stOK 0 0)
     ∧ (ch.hold = 1 → ch.pending = true → XDone (ledgerSub (freeChain (slotsTaken s t 2) c) t h) s' t f none stOK 0 0))
   ∧ XLaw (.free · f) (encX 0x68 f 3) f.desc (fun s t _ s' =>
     let h := xa s t f % 2 ^ 32
     handleState s h = .live c → getChain s c = some ch → ch.owner = t → ch.pending = false →
     (2 ≤ ch.hold → XDone (ledgerSub (setChain (slotsTaken s t 2) c (some { ch with hold := ch.hold - 1, pending := true })) t h) s' t f none stOK 0 0)
     ∧ (ch.hold = 1 → XDone (ledgerSub (freeChain (slotsTaken s t 2) c) t h) s' t f none stOK 0 0)))
  ∧ (∀ (s : State) (t : Fin 512) (p : Packet) (f : FmtX),
   let h := xa s t f % 2 ^ 32
   blockRefuses s 8 = false →
   (ThreadIssues s t (encX 0x68 f 3) (some f.desc) p → guardHolds (getThread s t).regs (encX 0x68 f 3) →
     (handleState s h = .stale → exec (.free (.thread t) f) s = .next (threadFault (slotsTaken s t 2) t vSTALE h))
     ∧ (handleState s h = .behind → exec (.free (.thread t) f) s = .next (threadFault (slotsTaken s t 2) t vDOUBLEFREE h))
     ∧ ∀ c ch, handleState s h = .live c → getChain s c = some ch →
       (ch.owner ≠ t → exec (.free (.thread t) f) s = .next (threadFault (slotsTaken s t 2) t vFOREIGNFREE h))
       ∧ (ch.owner = t → ch.pending = true → exec (.free (.thread t) f) s = .next (threadFault (slotsTaken s t 2) t vDOUBLEFREE h)))
   ∧ (ThreadIssues s t (encX 0x68 f 2) (some f.desc) p → guardHolds (getThread s t).regs (encX 0x68 f 2) →
     ∀ c ch, handleState s h = .live c → getChain s c = some ch → ch.hold < 2 → ch.pending = false →
       exec (.release (.thread t) f) s = .next (threadFault (slotsTaken s t 2) t vOVERRELEASE h))
   ∧ (ThreadIssues s t (encX 0x68 f 1) (some f.desc) p → guardHolds (getThread s t).regs (encX 0x68 f 1) →
     (handleState s h = .stale ∨ handleState s h = .behind) →
       exec (.share (.thread t) f) s = .next (threadFault (slotsTaken s t 2) t vSTALE h)))

/-- R102, R268, R274: METER is DENIED for a policer that is not configured. Else its buckets refill to the present and the frame is red where
the policer is BLOCKED, the frame oversize or the stream gate closed; otherwise the marker of its MODE gives the colour and charges the
buckets. The result is counted and the detail names the cause and the gate's priority value. R103, R347: VERDICT confirm confirms a
standing speculation whose queue and template match and whose zone the contract allows, withdraws one that differs or breaches the
contract, and tells a refused enqueue (FULL) from an absent one; VERDICT withdraw withdraws a standing one. The model's readings and
choices that it rests on: log entries 52, 57. -/
def Obligations.MeterAndVerdict : Prop :=
  ∀ f : FmtX,
  XLaw (.meter · f) (encX 0x69 f 0) f.desc (fun s t p s' =>
    let i := (bits f.desc.toNat 16 0 + xa s t f % 2 ^ 17) % 2 ^ 17
    let x := getPolicer s i
    let color := xb s t f % 4
    let b : Int := p.len * 65536
    let tokens (rate burst : Nat) (k : Int) (m u : Nat) : Int × Nat :=
      let a := rate * (s.localNs - u) * 65536 + m
      if k + (a / 1000000 : Nat) > burst * 65536 then ((burst * 65536 : Nat), 0) else (k + (a / 1000000 : Nat), a % 1000000)
    let c := tokens x.cir x.cbs x.ct x.cRem x.cu
    let e := tokens x.pir x.pbs x.pt x.pRem x.pu
    let full : Policer := { x with ct := c.1, cRem := c.2, cu := s.localNs, pt := e.1, pRem := e.2, pu := s.localNs }
    let g := if x.sgEn then (gateAt s (getSgate s x.sg) 0).1 else none
    let ipv := match g with | some v => if v.v.testBit 3 then v.v % 8 else 0 | none => 0
    let valid := match g with | some v => if v.v.testBit 3 then 8 else 0 | none => 0
    let marked (y : Policer) (k kb : Ctr) : State := bump (bump (setPolicer (slotsTaken s t 2) i y) k i 1) kb i p.len
    let red (y : Policer) : State := marked y .red .redBytes
    let done (s1 : State) (color detail high : Nat) : Prop := XDone s1 s' t f (some (BitVec.ofNat 64 color)) stOK detail high
    x.cu ≤ s.localNs → x.pu ≤ s.localNs →
    if x.mode = 0 then XDone (slotsTaken s t 2) s' t f (some 0#64) stDENIED 0 0
    else if x.blocked = true then done (bump (red full) .sfBlocked i 1) 2 4 0
    else if 0 < x.maxSdu ∧ x.maxSdu < p.len then done (bump (red { full with blocked := x.blockOversize }) .sfOversize i 1) 2 1 0
    else if (∃ v, g = some v ∧ v.v.testBit 4 = false) then done (bump (red full) .sfGateClosed i 1) 2 (2 + valid) ipv
    else if x.mode = 1 then
      if color = 2 ∨ e.1 < b then done (red full) 2 valid ipv
      else if color = 1 ∨ c.1 < b then done (marked { full with pt := e.1 - b } .yellow .yellowBytes) 1 valid ipv
      else done (marked { full with pt := e.1 - b, ct := c.1 - b } .green .greenBytes) 0 valid ipv
    else if (color = 0 ∨ color = 3) ∧ b ≤ c.1 then done (marked { full with ct := c.1 - b } .green .greenBytes) 0 valid ipv
    else if color ≠ 2 ∧ b ≤ e.1 then done (marked { full with pt := e.1 - b } .yellow .yellowBytes) 1 valid ipv
    else done (red full) 2 valid ipv)
  ∧ XLaw (.verdictConfirm · f) (encX 0x6A f 0) f.desc (fun s t p s' =>
    let same := xa s t f % 2 ^ 19 = p.specQueue ∧ xb s t f % 2 ^ 12 = p.specTemplate
    match p.spec with
    | .confirmed => XDone (slotsTaken s t 2) s' t f none (if same then stOK else stMISS) 0 0
    | .refused => XDone (slotsTaken s t 2) s' t f none stFULL 0 0
    | .full => XDone (slotsTaken s t 2) s' t f none stFULL 0 0
    | .none => XDone (slotsTaken s t 2) s' t f none stMISS 0 0
    | .withdrawn => XDone (slotsTaken s t 2) s' t f none stMISS 0 0
    | .standing =>
      (¬ same → XDone (setPkt (withdrawSpec (slotsTaken s t 2) p) t { p with spec := .withdrawn }) s' t f none stMISS 0 0)
      ∧ (same → zoneAllowed s p p.specQueue = true → XDone (confirmSpec (slotsTaken s t 2) t p) s' t f none stOK 0 0)
      ∧ (same → zoneAllowed s p p.specQueue = false →
        XDone (setPkt (withdrawSpec (breach (slotsTaken s t 2) p.partner 3 p.src) p) t { p with spec := .withdrawn }) s' t f none stMISS 0 0))
  ∧ XLaw (.verdictWithdraw · f) (encX 0x6A f 1) f.desc (fun s t p s' =>
    if p.spec = .standing then XDone (setPkt (withdrawSpec (slotsTaken s t 2) p) t { p with spec := .withdrawn }) s' t f none stOK 0 0
    else XDone (slotsTaken s t 2) s' t f none stMISS 0 0)

/-- R104, R105, R197, R347: the instructions that end a pass, each in every case. A confirmed frame only ends its pass and counts in
DISPOSE_IGNORED; DONE sets the hit bit of its verdict. Otherwise a standing or refused speculation ends first; then ENQ puts the frame on
its queue or drops it, judged by R197 either way, MCAST copies it to its group, DROP counts its reason, PUNT delivers it and frees it,
RECIRC reserves the thread for the next pass or drops the frame after the fourth, and DONE drops it. R106: ENQ with BUF = 1 of a chain
that the thread owns and that is not pending completes: it goes on the queue and the Haul scheduler owns it, or it is refused with FULL,
for want of a descriptor or by the queue. A chain of another owner is FOREIGN_FREE, a pending one DOUBLE_FREE, a stale handle
STALE_HANDLE. The model's readings and choices that it rests on: log entries 49, 51, 52, 81, 82, 184, 203. -/
def Obligations.PassEnds : Prop :=
  (∀ f : FmtX,
   (∀ (i : Agent → FmtX → Instr) (op u : Nat) (y : BitVec 32), (i, op, u, y) ∈
       [(Instr.enq, 0x6B, 0, setField 15 1 0 f.desc), (Instr.mcast, 0x6B, 1, f.desc), (Instr.drop, 0x6C, 0, f.desc),
        (Instr.punt, 0x6C, 1, f.desc), (Instr.recirc, 0x6C, 2, f.desc)] →
     XLaw (i · f) (encX op f u) y fun s t p s' =>
       p.spec = .confirmed → s' = passEnded (bump (slotsTaken s t 2) .disposeIgnored p.entry 1) t)
   ∧ XLaw (.drop · f) (encX 0x6C f 0) f.desc (fun s t p s' => p.spec ≠ .confirmed →
     let r := endSpec (slotsTaken s t 2) p
     s' = passEnded (dropPacket (bump r.1 .dropReason (xa s t f % 256) 1) r.2) t)
   ∧ XLaw (.enq · f) (encX 0x6B f 0) (setField 15 1 0 f.desc) (fun s t p s' => p.spec ≠ .confirmed →
     let r := endSpec (slotsTaken s t 2) p
     let s1 := frameWrite r.1 r.2.handle 0 (getThread r.1 t).window
     let q := xa s t f % 2 ^ 19
     let mark := (getThread s t).mark <|> r.2.req
     let install (x : State) : State := installAtEnq x r.2 q (bits f.desc.toNat 11 0) (bits f.desc.toNat 14 13) (f.desc.getLsbD 12)
     let e := enqueue s1 { packetDesc s1 r.2 q (bits f.desc.toNat 11 0) (bits f.desc.toNat 14 13) (f.desc.getLsbD 12) false false with mark := mark }
     s' = passEnded (
       if zoneAllowed s1 r.2 q = false then
         dropPacket (notSent (bump (breach (install s1) p.partner 3 p.src) .contractDrop p.partner 1) q mark.isSome) r.2
       else if e.2 then readySeq (install e.1) r.2
       else dropPacket (notSent (install e.1) q mark.isSome) r.2) t)
   ∧ XLaw (.mcast · f) (encX 0x6B f 1) f.desc (fun s t p s' => p.spec ≠ .confirmed →
     let r := endSpec (slotsTaken s t 2) p
     let s1 := frameWrite r.1 r.2.handle 0 (getThread r.1 t).window
     let c := handleCell r.2.handle
     let s2 := setChain s1 c ((getChain s1 c).map fun x => { x with owner := 0x401 })
     let s3 := (tblGet [] s2.stock.groups (xa s t f % 65536)).foldl (mcastCopy r.2 (f.desc.getLsbD 0)) s2
     s' = passEnded (readySeq (freeDesc (match ownFree s3 0x401 r.2.handle with | .ok s4 => s4 | _ => s3) r.2.desc) r.2) t)
   ∧ XLaw (.punt · f) (encX 0x6C f 1) f.desc (fun s t p s' => p.spec ≠ .confirmed →
     let r := endSpec (slotsTaken s t 2) p
     let s1 := frameWrite r.1 r.2.handle 0 (getThread r.1 t).window
     let reason := xa s t f % 65536
     let s2 := if f.desc.getLsbD 6 then puntTriad s1 reason r.2 else puntHost s1 (bits f.desc.toNat 5 0) reason r.2
     s' = passEnded (discardStored (fillSeq s2 r.2) r.2.handle r.2.desc) t)
   ∧ XLaw (.recirc · f) (encX 0x6C f 2) f.desc (fun s t p s' => p.spec ≠ .confirmed →
     let r := endSpec (slotsTaken s t 2) p
     (p.pass = 3 → s' = passEnded (dropPacket (bump r.1 .recircLimit p.entry 1) r.2) t)
     ∧ (p.pass ≠ 3 →
       let s1 := passEnded (frameWrite r.1 p.handle 0 (getThread r.1 t).window) t
       s' = setThread s1 t { getThread s1 t with reserved := some { r.2 with
         pass := p.pass + 1, entry := bits f.desc.toNat 7 0, lastCon := none,
         carry0 := rget (getThread s t).regs f.a.toNat, carry1 := rget (getThread s t).regs f.b.toNat } }))
   ∧ XLaw (.done · f) (encX 0x6C f 3) f.desc (fun s t p s' =>
     s' = passEnded (if p.spec = .confirmed then setHit (slotsTaken s t 2) p
       else let r := endSpec (slotsTaken s t 2) p
         dropPacket (bump r.1 .doneDrop p.entry 1) r.2) t))
  ∧ (∀ (f : FmtX) (s : State) (t : Fin 512) (p : Packet), let y := setField 15 1 1 f.desc
   ThreadIssues s t (encX 0x6B f 0) (some y) p → guardHolds (getThread s t).regs (encX 0x6B f 0) → blockRefuses s 0 = false →
   tblWf 0#64 (getThread s t).w = true →
   let h := xb s t f % 2 ^ 32
   let s0 := slotsTaken s t 2
   (handleState s h = .stale ∨ handleState s h = .behind → exec (.enqBuf (.thread t) f) s = .next (threadFault s0 t vSTALE h))
   ∧ ∀ c ch, handleState s h = .live c → getChain s c = some ch →
     (ch.owner ≠ t → exec (.enqBuf (.thread t) f) s = .next (threadFault s0 t vFOREIGNFREE h))
     ∧ (ch.owner = t → ch.pending = true → exec (.enqBuf (.thread t) f) s = .next (threadFault s0 t vDOUBLEFREE h))
     ∧ (ch.owner = t → ch.pending = false → ∃ s', exec (.enqBuf (.thread t) f) s = .next s' ∧
       match takeDesc s0 with
       | none => XDone (bump s0 .descDrop 0 1) s' t f none stFULL 0 0
       | some (i, s1) =>
         let q := xa s t f % 2 ^ 19
         let d := { packetDesc s1 p q (bits f.desc.toNat 11 0) (bits f.desc.toNat 14 13) (f.desc.getLsbD 12) false false with
           idx := i, handle := h, len := bits (xb s t f) 45 32, cells := ch.cells.length, order := none, seq := 0, rxTime := nowShort s1
           arrVc := none, lastBit := s1.localNs }
         let r := enqueue s1 d
         if r.2 then XDone (ledgerSub (setChain r.1 c ((getChain r.1 c).map fun x => { x with owner := 0x400 })) t h) s' t f none stOK 0 0
         else XDone (freeDesc r.1 i) s' t f none stFULL 0 0))

/-- R72, R107: the plane X instructions of the Commit Gate, the lease, and THAW, issued alike by the Triad's cores at Supervisor level or
above, complete: the unit acts once on the state, each core receives its status, detail, value and the next pc, and nothing else changes.
R13, R72: every plane X instruction, the Vault calls among them: a core below its level raises PRIV with word 1 in TVAL (log entry 180)
and nothing leaves the cores; a Tally core's at or above its level reaches the Fence, which freezes the core for UNAUTH_COMMIT with INFO
its pc and does nothing else. The model's readings and choices that it rests on: log entries 47, 55, 57. -/
def Obligations.PlaneInstructions : Prop :=
  (∀ f : FmtX,
   GateLaw (.stage · f) (encX 0x70 f 0) f.desc f 1 sizedImage (fun s _ _ _ img => stage s f.desc.toNat img)
   ∧ GateLaw (.commit · f) (encX 0x71 f 0) f.desc f 1 noImage (fun s _ a _ _ => commit s a)
   ∧ GateLaw (.abortCommit · f) (encX 0x72 f 0) f.desc f 1 noImage (fun s _ a _ _ => abortCommit s (a % 65536))
   ∧ GateLaw (.abortGroup · f) (encX 0x72 f 1) f.desc f 1 noImage (fun s _ _ _ _ => abortGroup s)
   ∧ GateLaw (.thawMaster · f) (encX 0x73 f 0) f.desc f 1 noImage (fun s _ a _ _ => thawMaster s a)
   ∧ GateLaw (.thawPartner · f) (encX 0x73 f 1) f.desc f 1 noImage (fun s _ a _ _ => thawPartner s a)
   ∧ GateLaw (.gatelist · f) (encX 0x74 f 0) f.desc f 1 (recordImage (gatelistSize f.desc.toNat)) (fun s _ a _ img => stageGates s a f.desc.toNat img)
   ∧ GateLaw (.shaper · f) (encX 0x74 f 1) f.desc f 1 (recordImage 16) (fun s _ a _ img => stageShaper s a f.desc.toNat img)
   ∧ GateLaw (.epoch · f) (encX 0x75 f 0) f.desc f 1 sizedImage (fun s _ _ _ img => stageEpoch s img)
   ∧ GateLaw (.bank · f) (encX 0x75 f 1) f.desc f 1 noImage (fun s _ _ _ _ => stageBank s (f.desc.toNat % 2))
   ∧ GateLaw (.leaseTake · f) (encX 0x76 f 0) f.desc f 1 noImage (fun s _ a _ _ => stageLease s 0 a)
   ∧ GateLaw (.leaseJoin · f) (encX 0x76 f 0) f.desc f 1 noImage (fun s _ a _ _ => stageLease s 1 a)
   ∧ GateLaw (.leaseForce · f) (encX 0x76 f 0) f.desc f 1 noImage (fun s _ a _ _ => stageLease s 2 a)
   ∧ GateLaw (.leaseRelease · f) (encX 0x76 f 1) f.desc f 1 noImage (fun s _ _ _ _ => stageLease s 3 0))
  ∧ (∀ (s : State) (f : FmtX) (i : Agent → Instr) (w y : BitVec 32) (level : Nat), PlaneForm f i w y level → s.cores.Pairwise (fun a b => a.1 < b.1) →
   (∀ (who : Agent) (k : Nat), CoreIssues s who k w (some y) → guardHolds (getCore s k).regs w →
     (∀ j ∈ agentCores s who, (getCore s j).pl.toNat < level) →
     ∃ s', exec (i who) s = .next s' ∧ getCore s' k = exception k (getCore s k) cPRIV (w.zeroExtend 64) (getCore s k).pc ∧
       ∀ j, j ∉ agentCores s who → getCore s' j = getCore s j)
   ∧ ∀ c : Fin 4, let k := 3 + c.val
     CoreIssues s (.tally c) k w (some y) → guardHolds (getCore s k).regs w → level ≤ (getCore s k).pl.toNat →
     exec (i (.tally c)) s = .next (violate s (0x210 + c.val) vUNAUTH (getCore s k).pc.toNat (getCore s k).pc.toNat))

/-- R108, R111, R529: STAGE to a subsystem that takes no objects, or to a block in reset (log entry 57), is DENIED; of a TYPE that the
subsystem does not take it is DENIED with FORMAT, 0x0D on the engine array; of an image that its checks refuse DENIED with the reason and
the word index; past 4,096 objects or 16 MiB FULL; else it adds the object to the open group, opening one, and returns its index. A STAGE
that is not OK leaves the group as it is, and no STAGE changes anything else. R108, R110, R125, R271, R276: what GATELIST, SHAPER, EPOCH
and BANK stage. GATELIST is DENIED by every condition of R276 and SHAPER by those of R271, each without regard to the others; EPOCH is
EPOCH_BUSY while two epochs live or an EPOCH object is staged, committed or deferred, and returns the number that the rule set will have;
all four are DENIED to a block in reset (log entry 57) and FULL past the limits of a group, and then change nothing; else the object joins
the open group with its operands. R14 to R16, R109, R531: COMMIT without an open group is EMPTY; with one it closes it, whatever comes of
it. A group that some subsystem refuses aborts whole with the lowest index that refuses and that unit's reason, the failure of the lowest
offset and, at one offset, of the lowest code; where no object goes to the lookup complex, which keeps the writes its prepare drained,
only tags of the group's number change besides (log entry 58). One that all prepare is queued under the next commit number for the target,
or for the next boundary where the target has passed. R18, R108: ABORT of a commit that is not applied removes it, releases what its
prepare reserved, and leaves the other commits; of a number that no commit carries it is MISS. ABORT of the open group discards it, and is
EMPTY without one. The model's readings and choices that it rests on: log entries 58, 169. -/
def Obligations.CommitGateOutcomes : Prop :=
  (∀ (s : State) (y : Nat) (img : List Byte),
   let n := y / 2 ^ 27 % 32
   let typ := y / 2 ^ 19 % 256
   let g := s.gate.group.getD []
   let r := stage s y img
   r.1 = { s with gate := { s.gate with group := r.1.gate.group } }
   ∧ (r.2.status ≠ stOK → r.1 = s)
   ∧ (n = 0 ∨ 18 < n ∨ n ∈ [12, 13, 17, 18] ∨ blockRefuses s n = true → r = (s, PlaneRes.why stDENIED 0))
   ∧ ∀ k, (n, k) ∈ [(1, 7), (2, 2), (3, 2), (4, 3), (5, 4), (6, 1), (7, 3), (8, 2), (9, 8), (10, 5), (11, 5), (14, 1), (15, 3), (16, 6)] →
     blockRefuses s n = false →
     (typ = 0 ∨ k < typ → r = (s, PlaneRes.why stDENIED (if n = 4 then 0x0D else 0x01)))
     ∧ (1 ≤ typ → typ ≤ k →
       (∀ c w, stageCheck s n typ img = some (c, w) → r = (s, { PlaneRes.why stDENIED c with high := w }))
       ∧ (stageCheck s n typ img = none →
         if 4096 ≤ g.length ∨ 16 * 2 ^ 20 < (g.map (fun o => o.img.length)).sum + img.length then r = (s, PlaneRes.only stFULL)
         else r = ({ s with gate := { s.gate with group := some (g ++ [{ sub := n, typ := typ, img := img, arg := 0 }]) } },
           { PlaneRes.only stOK with value := some g.length }))))
  ∧ (∀ (s : State) (a y : Nat) (img : List Byte), a < 2 ^ 64 → y < 2 ^ 32 →
   let g := s.gate.group.getD []
   let full (n : Nat) : Prop := 4096 ≤ g.length ∨ 16 * 2 ^ 20 < (g.map (fun o => o.img.length)).sum + n
   let staged (o : Obj) : State := { s with gate := { s.gate with group := some (g ++ [o]) } }
   let k := y % 2048
   let badGates : Prop := 55 < a ∨ 1024 < k ∨ y / 2048 ≠ 0 ∨ im32 img 0 / 2 ^ 16 % 2 ^ 14 ≠ 0 ∨ 1000000000 ≤ im32 img 8 ∨ im32 img 12 < 64 ∨
     1000000000 < im32 img 12 ∨ ∃ j < k, im32 img (0x10 + 8 * j) / 2 ^ 10 % 2 ^ 22 ≠ 0 ∨ im32 img (0x10 + 8 * j) / 2 ^ 8 % 4 = 3 ∨ im32 img (0x14 + 8 * j) < 64
   let level := a / 2 ^ 20 % 4
   let badShaper : Prop := a / 2 ^ 22 ≠ 0 ∨ a / 2 ^ 19 % 2 ≠ 0 ∨ (level = 1 ∧ 65536 ≤ a % 2 ^ 19) ∨ (level = 2 ∧ 8192 ≤ a % 2 ^ 19) ∨
     (level = 3 ∧ 64 ≤ a % 2 ^ 19) ∨ im32 img 0 / 2 ^ 26 % 64 ≠ 0 ∨ im32 img 4 / 2 ^ 26 % 64 ≠ 0 ∨ im32 img 8 / 2 ^ 24 % 256 ≠ 0 ∨
     im32 img 12 / 2 ^ 24 % 256 ≠ 0 ∨ 50000000 < im32 img 0 ∨ 50000000 < im32 img 4 ∨ y % 2 ^ 31 ≠ 0
   let busy : Prop := s.screen.older.isSome = true ∨ s.screen.deferred.isSome = true ∨
     (∃ c ∈ s.gate.committed, ∃ o ∈ c.objs, o.sub = 3 ∧ o.typ = 17) ∨ ∃ o ∈ g, o.sub = 3 ∧ o.typ = 17
   (blockRefuses s 9 = true ∨ badGates → stageGates s a y img = (s, PlaneRes.why stDENIED 0))
   ∧ (blockRefuses s 9 = false → ¬ badGates → full img.length → stageGates s a y img = (s, PlaneRes.only stFULL))
   ∧ (blockRefuses s 9 = false → ¬ badGates → ¬ full img.length →
     stageGates s a y img = (staged { sub := 9, typ := tGATELIST, img := img, arg := a + 64 * k }, PlaneRes.only stOK))
   ∧ (blockRefuses s 9 = true ∨ badShaper → stageShaper s a y img = (s, PlaneRes.why stDENIED 0))
   ∧ (blockRefuses s 9 = false → ¬ badShaper → full img.length → stageShaper s a y img = (s, PlaneRes.only stFULL))
   ∧ (blockRefuses s 9 = false → ¬ badShaper → ¬ full img.length →
     stageShaper s a y img = (staged { sub := 9, typ := tSHAPER, img := img, arg := a + y / 2 ^ 31 * 2 ^ 32 }, PlaneRes.only stOK))
   ∧ (blockRefuses s 3 = true → stageEpoch s img = (s, PlaneRes.why stDENIED 0))
   ∧ (blockRefuses s 3 = false → busy → stageEpoch s img = (s, PlaneRes.only stEPOCHBUSY))
   ∧ (blockRefuses s 3 = false → ¬ busy → full img.length → stageEpoch s img = (s, PlaneRes.only stFULL))
   ∧ (blockRefuses s 3 = false → ¬ busy → ¬ full img.length →
     stageEpoch s img = (staged { sub := 3, typ := 17, img := img, arg := 0 }, { PlaneRes.only stOK with value := some s.screen.nextEpoch }))
   ∧ ∀ bank : Nat,
     (blockRefuses s 4 = true → stageBank s bank = (s, PlaneRes.why stDENIED 0))
     ∧ (blockRefuses s 4 = false → full 0 → stageBank s bank = (s, PlaneRes.only stFULL))
     ∧ (blockRefuses s 4 = false → ¬ full 0 →
       stageBank s bank = (staged { sub := 4, typ := 16, img := [], arg := bank }, PlaneRes.only stOK)))
  ∧ ((∀ (l : List (Nat × Nat)) (c : Nat), (pickFault l = none ↔ l = []) ∧
     (pickFault l = some c → ∃ o, (o, c) ∈ l ∧ ∀ x ∈ l, o < x.1 ∨ (o = x.1 ∧ c ≤ x.2)))
   ∧ ∀ (s : State) (target : Nat),
   (s.gate.group = none → commit s target = (s, PlaneRes.only stEMPTY))
   ∧ (s.gate.group ≠ none → (commit s target).1.gate.group = none ∧
       ((commit s target).2.status = stOK ∨ (commit s target).2.status = stABORTED))
   ∧ ∀ g, s.gate.group = some g → s.gate.committed = [] →
     let natural := max target (s.bench.tickCount + 1)
     (∀ n c s1, prepare s natural s.gate.nextNum g [] [] = .error (n, c, s1) →
       commit s target = ({ s1 with gate := { s1.gate with group := none } }, { PlaneRes.why stABORTED n with high := c })
       ∧ (∀ m k, plainFault s natural g [] m = some k → n ≤ m ∧ (m = n → c = k))
       ∧ (∀ k, (prepLookup s [] g [] s.gate.nextNum).2 = some k → n ≤ 5 ∧ (n = 5 → c = k))
       ∧ ((∀ o ∈ g, o.sub ≠ 5) → s1 = { s with lookup := { s.lookup with tags := s1.lookup.tags } } ∧ (s.lookup.tags = [] → s1 = s)))
     ∧ ∀ p, prepare s natural s.gate.nextNum g [] [] = .ok p → p.s.gate.committed = [] →
       (∀ m, plainFault s natural g [] m = none) ∧ (prepLookup s [] g [] s.gate.nextNum).2 = none ∧
       (commit s target).2 = { PlaneRes.give ((setsCount g).getD natural) with high := s.gate.nextNum } ∧
       (commit s target).1.gate.nextNum = (s.gate.nextNum + 1) % 65536 ∧
       ∃ x, (commit s target).1.gate.committed = [x] ∧ x.num = s.gate.nextNum ∧ x.target = natural ∧ x.objs = g)
  ∧ (∀ (s : State) (n : Nat),
   ((∀ c ∈ s.gate.committed, c.num ≠ n) → abortCommit s n = (s, PlaneRes.only stMISS))
   ∧ ((∃ c ∈ s.gate.committed, c.num = n) → (abortCommit s n).2 = PlaneRes.only stOK ∧
     (abortCommit s n).1.gate.committed = s.gate.committed.filter (fun c => c.num != n))
   ∧ (∀ c ∈ s.gate.committed, c.num = n → c.frames = [] → c.moves = [] → c.objs = [] → s.gate.committed = [c] → s.lookup.tags = [] →
       (abortCommit s n).1 = { s with gate := { s.gate with committed := [] } })
   ∧ (s.gate.group = none → abortGroup s = (s, PlaneRes.only stEMPTY))
   ∧ (s.gate.group ≠ none → abortGroup s = ({ s with gate := { s.gate with group := none } }, PlaneRes.only stOK)))

/-- R417, R418, R420: THAW of a frozen thread, DMA group or host function unfreezes it and counts; a frozen Tally core then takes ACCESS with
the violation's INFO in TVAL and its pc in EPC; THAW of 0x200 sends RESTART to the peer while the link is up, else MISS. Of a master that
is not frozen it is MISS, of a number that no master has DENIED; THAW of a partner likewise. R383, R388: LEASE returns LEASE_LOST once
after a loss and clears it; TAKE and JOIN of a Lead, RELEASE of a device that is no Lead, FORCE while the link is up, and any LEASE with
PAIR_EN low are DENIED; otherwise the order joins the open group. The model's readings and choices that it rests on: log entries 55, 120,
133, 169. -/
def Obligations.ThawAndLease : Prop :=
  (∀ (s : State) (a : Nat),
   (1024 ≤ a → thawMaster s a = (s, PlaneRes.why stDENIED 0))
   ∧ (a < 1024 → a ≠ 0x200 → a ∉ s.fence.frozen → thawMaster s a = (s, PlaneRes.only stMISS))
   ∧ (a ∈ s.fence.frozen → a < 0x200 ∨ (0x220 ≤ a ∧ a < 1024) →
     thawMaster s a = (bump { s with fence := { s.fence with frozen := s.fence.frozen.filter (· != a) } } .thaws (masterRange a) 1, PlaneRes.only stOK))
   ∧ (∀ c : Fin 4, a = 0x210 + c.val → a ∈ s.fence.frozen → s.cores.Pairwise (fun a b => a.1 < b.1) →
     let k := 3 + c.val
     (thawMaster s a).2 = PlaneRes.only stOK ∧ (thawMaster s a).1.fence.frozen = s.fence.frozen.filter (· != a) ∧
     getCore (thawMaster s a).1 k = exception k (getCore s k) cACCESS (BitVec.ofNat 64 (tblGet 0 s.fence.heldInfo a)) (BitVec.ofNat 64 (tblGet 0 s.fence.heldPc a)) ∧
     ∀ j, j ≠ k → getCore (thawMaster s a).1 j = getCore s j)
   ∧ (a = 0x200 → thawMaster s a =
       if s.pair.lane0 = true ∨ s.pair.lane1 = true then
         (bump { s with pair := { s.pair with sent := s.pair.sent ++ [{ typ := 9, tick := tick32 s, chunk := 0 }] } } .thaws 1 1, PlaneRes.only stOK)
       else (s, PlaneRes.only stMISS))
   ∧ (4096 ≤ a → thawPartner s a = (s, PlaneRes.why stDENIED 0))
   ∧ (a < 4096 → a ∉ s.fence.partners → thawPartner s a = (s, PlaneRes.only stMISS))
   ∧ (a ∈ s.fence.partners → a < 4096 → (thawPartner s a).2 = PlaneRes.only stOK ∧ (thawPartner s a).1.fence.partners = s.fence.partners.filter (· != a)))
  ∧ (∀ (s : State) (order a : Nat), order < 4 →
   (s.pair.lost = true → stageLease s order a = ({ s with pair := { s.pair with lost := false } }, PlaneRes.only stLEASELOST))
   ∧ (s.pair.lost = false →
     (s.pair.en = false ∨ (order < 3 ∧ a % 4 ≤ 1 ∧ s.pair.role = .lead) ∨ (order = 3 ∧ s.pair.role ≠ .lead) ∨ (order < 3 ∧ a % 4 = 2 ∧ pairUp s = true) →
       stageLease s order a = (s, PlaneRes.why stDENIED 0))
     ∧ (leaseDenied s order a = false → groupFull s 0 = false →
       stageLease s order a = ({ s with gate := { s.gate with group := some (s.gate.group.getD [] ++
         [{ sub := 15, typ := tLEASE, img := [], arg := if order = 3 then 3 else a % 4 }]) } }, PlaneRes.only stOK))))

/-- R466 to R470: the Vault calls, issued alike by the Triad's cores at Vault level, KVERIFY from Supervisor level: the Vault acts once and
each core receives the answer. R460, R462, R467: KLOAD ROOT loads the root value in force into WKR in Provisioned and Field, and is DENIED
in Blank and Returned and MISS without one; a lifecycle move goes forward only, by its fuse step: the present state is OK, a lower one
freezes the Triad for VAULT, and one the table does not permit is DENIED. R464, R465, R468: KDERIVE puts the derived key into the lowest
free derived entry, one deeper than its parent; of an absent key it is MISS, of a stale one STALE, at depth 8 DENIED. CLEAR empties an
entry, and the keys derived from it are stale. A re-mask pass comes REMASK_MS milliseconds after the last, to which the clock runs, and
changes every mask and no key; the IDK that a pending KSIGN uses waits; it pauses while the TRNG fails. The model's readings and choices
that it rests on: log entries 144, 145, 146, 147, 149. -/
def Obligations.VaultCalls : Prop :=
  (∀ f : FmtX,
   PlaneLaw (.kloadRoot · f) (encX 0x77 f 0) (kloadDesc f 0) f 2 noImage (fun s _ _ _ _ => kloadRoot s)
   ∧ PlaneLaw (.kloadFallback · f) (encX 0x77 f 0) (kloadDesc f 1) f 2
       (fun _ k c _ b => .ok (vaultImage k c b (if f.desc.getLsbD 27 then 64 else 32)))
       (fun s k a b img => kloadFallback s (if f.desc.getLsbD 27 then 64 else 32) a b k img)
   ∧ (∀ vbatA vbatB good cut, PlaneLaw (.kloadOtpWrite · f vbatA vbatB good cut) (encX 0x77 f 0) (kloadDesc f 2) f 2 (fun _ k c _ b => .ok (vaultImage k c b 64))
       (fun s k a b img => if localRange k b 64 then otpWrite s (a % 16) (leNat img) vbatA vbatB good cut else (s, PlaneRes.only stDENIED)))
   ∧ (∀ vbat, PlaneLaw (.kloadLifecycle · f vbat) (encX 0x77 f 0) (kloadDesc f 3) f 2 noImage (fun s _ a _ _ => moveLifecycle s (a % 4) vbat))
   ∧ PlaneLaw (.kloadClear · f) (encX 0x77 f 0) (kloadDesc f 4) f 2 noImage (fun s _ a _ _ =>
       if (getKey s (a % 256)).isSome then (invalidateKey s (a % 256), PlaneRes.only stOK) else (s, PlaneRes.only stMISS))
   ∧ PlaneLaw (.kderive · f) (encX 0x77 f 1) f.desc f 2
       (fun _ k c _ b => .ok (vaultImage k c b (deriveLen (im32 (vaultImage k c b 4) 0))))
       (fun s _ a _ img => if img.isEmpty then (s, PlaneRes.only stDENIED) else kderive s (a % 256) (f.desc.getLsbD 31) (f.desc.getLsbD 30) img)
   ∧ (let y := setField 31 1 0 f.desc
     PlaneLaw (.kwrapWrap · f) (encX 0x77 f 2) y f 2 (fun _ k c _ b => .ok (if y.getLsbD 29 then vaultImage k c b (bits y.toNat 15 0) else []))
       (fun s k a b img => kwrapWrap s (a % 256) b (bits y.toNat 15 0) (bits y.toNat 23 16) (y.getLsbD 29) (localRange k b (bits y.toNat 15 0 + 8)) img))
   ∧ (let y := setField 31 1 1 f.desc
     PlaneLaw (.kwrapUnwrap · f) (encX 0x77 f 2) y f 2 (fun _ k c _ b => .ok (vaultImage k c b (bits y.toNat 15 0 + 8)))
       (fun s k a b img => if localRange k b (bits y.toNat 15 0 + 8) then
         kwrapUnwrap s (a % 256) (bits y.toNat 15 0) (y.getLsbD 30) (y.getLsbD 28) img else (s, PlaneRes.only stDENIED)))
   ∧ PlaneLaw (.ksign · f) (encX 0x77 f 3) f.desc f 2 (fun _ k c a _ => .ok (vaultImage k c a 64)) (fun s k a _ img => ksign s k a img)
   ∧ PlaneLaw (.kverify · f) (encX 0x77 f 4) f.desc f 1 (fun _ k c a _ => .ok (vaultImage k c a 64)) (fun s k a _ img => kverify s k a img))
  ∧ (∀ (s : State),
   (lifecycle s = 0 ∨ lifecycle s = 3 → kloadRoot s = (s, PlaneRes.only stDENIED))
   ∧ (lifecycle s = 1 ∨ lifecycle s = 2 → inForce s 1 = none → kloadRoot s = (s, PlaneRes.only stMISS))
   ∧ (∀ i v, lifecycle s = 1 ∨ lifecycle s = 2 → inForce s 1 = some (i, v) →
       (kloadRoot s).2 = PlaneRes.only stOK ∧ ∃ k, getKey (kloadRoot s).1 0 = some k ∧ k.clear = v ∧ k.parent = 0x100 ∧ k.exportable = false)
   ∧ ∀ (t : Nat) (vbat : Bool), t < 4 →
     (t = lifecycle s → moveLifecycle s t vbat = (s, PlaneRes.only stOK))
     ∧ (t < lifecycle s → moveLifecycle s t vbat = (violate s 0x200 vVAULT 2 0, PlaneRes.frozen))
     ∧ (lifecycle s < t → moveAllowed s t = false → moveLifecycle s t vbat = (s, PlaneRes.only stDENIED))
     ∧ (lifecycle s < t → moveAllowed s t = true → vbat = true →
       (moveLifecycle s t vbat).2 = PlaneRes.only stOK ∧ lifecycle (moveLifecycle s t vbat).1 = t))
  ∧ ((∀ (s : State) (h : Nat) (wide exportable : Bool) (img : List Byte),
     (getKey s h = none → kderive s h wide exportable img = (s, PlaneRes.only stMISS))
     ∧ ∀ k, getKey s h = some k →
       (k.stale = true → kderive s h wide exportable img = (s, PlaneRes.only stSTALE))
       ∧ (k.stale = false → 8 ≤ k.depth → kderive s h wide exportable img = (s, PlaneRes.only stDENIED))
       ∧ ∀ d, k.stale = false → k.depth < 8 → h ≠ 0 → 1 ≤ im32 img 0 % 65536 → im32 img 0 % 65536 ≤ 64 → im32 img 0 / 65536 ≤ 128 →
         freeDerived s = some d →
         (kderive s h wide exportable img).2 = PlaneRes.give d ∧
         ∃ x, getKey (kderive s h wide exportable img).1 d = some x ∧ x.wide = wide ∧ x.exportable = exportable ∧ x.parent = h ∧ x.depth = k.depth + 1 ∧ x.stale = false ∧
           x.clear = leNat (deriveBytes (keyBytes h k) (imgBytes img 4 (im32 img 0 % 65536)) (imgBytes img (4 + im32 img 0 % 65536) (im32 img 0 / 65536)) wide))
   ∧ (∀ (s : State) (h c : Nat) (k x : VKey), s.vault.keys.Pairwise (fun a b => a.1 < b.1) → getKey s h = some k → getKey s c = some x → c ≠ h → x.parent = h →
       getKey (invalidateKey s h) h = none ∧ getKey (invalidateKey s h) c = some { x with stale := true })
   ∧ ∀ s : State, s.vault.keys.Pairwise (fun a b => a.1 < b.1) →
     ((deviceRuns s = true → s.vault.trngFail = false →
       let a := advance s (s.vault.remaskAt + s.vault.remaskMs * 1000000 - s.localNs)
       let value (k : VKey) := (k.clear, k.wide, k.exportable, k.parent, k.depth, k.stale)
       ∃ s', exec .remaskPass s = .next s' ∧ s' = { a with
           freeIdx := s'.freeIdx
           vault := { s.vault with
             keys := s'.vault.keys, remaskAt := a.localNs
             remaskLate := s.vault.sign.isSome && (getKey s 9).isSome } } ∧
         (∀ h, (getKey s' h).map value = (getKey s h).map value) ∧ (s.vault.sign.isSome = true → getKey s' 9 = getKey s 9))
     ∧ (s.vault.trngFail = true → exec .remaskPass s = .next s)
     ∧ (inReset s = false → exec .trngHealthFail s = .next { s with vault := { s.vault with trngFail := true } } ∧
         exec .trngHealthRecover s = .next { s with vault := { s.vault with trngFail := false } })))

/-- R466, R470: KSIGN and KVERIFY are FULL while one is pending; KSIGN without the IDK is MISS. The completion of a KSIGN writes the PSS
signature of the message that the cores stream alike, with a salt of the TRNG, and status OK, or DENIED while the TRNG fails; that of a
KVERIFY of a signature writes OK only for an anchored key that verifies it, else BAD_SIG; each raises VAULT_DONE on the cores that it
serves. The model's readings and choices that it rests on: log entries 143, 144, 148, 150. -/
def Obligations.SignatureOperations : Prop :=
  let alike (s : State) (k ea n : Nat) (b : List Byte) : Prop := ∀ j ∈ vaultCores s k, Machine.localBytes (getCore s j) ea n = b
  (∀ (s : State) (k a : Nat) (img : List Byte),
    (s.vault.sign.isSome = true → ksign s k a img = (s, PlaneRes.only stFULL))
    ∧ (s.vault.sign = none → getKey s 9 = none → ksign s k a img = (s, PlaneRes.only stMISS))
    ∧ (s.vault.verify.isSome = true → kverify s k a img = (s, PlaneRes.only stFULL)))
  ∧ (∀ (s : State) (op : SigOp) (i : Nat) (msg : List Byte), s.vault.sign = some op → deviceRuns s = true → s.vault.clearAfter = false → op.mode = 0 →
      s.triad.excluded = 0#3 → s.triad.voter = .sound → alike s op.agent op.msgEa op.msgLen msg →
      s.cores.Pairwise (fun a b => a.1 < b.1) → i ∈ vaultCores s op.agent → memWf (getCore s i).lmem = true → 2 ^ 63 ≤ op.ea → 2 ^ 63 ≤ op.sigEa →
      ∃ s', exec .ksignComplete s = .next s' ∧ s'.vault.sign = none ∧ (getCore s' i).latched.getLsbD 5 = true ∧
        memGet (getCore s' i).lmem (op.ea + 0x20 - 2 ^ 63) = (if s.vault.trngFail then 0x03#8 else 0x00#8) ∧
        (s.vault.trngFail = false → ∀ j < 512, op.sigEa + j ≠ op.ea + 0x20 → op.sigEa + j ≠ op.ea + 0x21 →
          memGet (getCore s' i).lmem (op.sigEa + j - 2 ^ 63) =
            (fitTo 512 (pssSign (leBytes 1792 op.key) msg (leBytes 64 (Config.free s.freeIdx)))).getD j 0#8))
  ∧ ∀ (s : State) (op : SigOp) (i : Nat) (msg key sig : List Byte), s.vault.verify = some op → deviceRuns s = true → op.mode = 0 →
      s.triad.excluded = 0#3 → s.triad.voter = .sound →
      alike s op.agent op.msgEa op.msgLen msg → alike s op.agent op.keyEa 512 key → alike s op.agent op.sigEa 512 sig →
      s.cores.Pairwise (fun a b => a.1 < b.1) → i ∈ vaultCores s op.agent → memWf (getCore s i).lmem = true → 2 ^ 63 ≤ op.ea →
      ∃ s', exec .kverifyComplete s = .next s' ∧ s'.vault.verify = none ∧ (getCore s' i).latched.getLsbD 5 = true ∧
        memGet (getCore s' i).lmem (op.ea + 0x20 - 2 ^ 63) =
          if (op.role = 0xFF ∨ anchored s op.role key = true) ∧ pssVerify key msg sig = true then 0x00#8 else 0x0B#8

/-- R252, R281, R321, R324, R325: a link report of an enabled port takes the settled speed and role and counts LINK_UPS, and one of a fabric
lane starts its channels anew; the port node comes up UP_HOLD_MS after it and posts LINK_UP; loss of the link takes the node down, with
everything R244 flushes, abandons a recalibration and posts LINK_DOWN, once Screen has a frame that it cut, marked errored; preemption is
verified on an up port that asks for it; PLCA follows the beacons, each of which opens one transmit opportunity and reports the collisions
before it. The model's readings and choices that it rests on: log entries 79, 93, 94, 98. -/
def Obligations.LinkEvents : Prop :=
  (∀ (s : State) (m : Fin 56) (sp : Fin 9) (leader eee : Bool) (fec : Fin 5), let x := getFp s m
    (48 ≤ m.val → bitOf s.fabric.laneMask (m.val - 48) = false) → x.enable = true → x.link = false → x.tc10 ≠ 2 → pairOdd s m = false →
    ∃ s', exec (.phyLinkOk m sp leader eee fec) s = .next s' ∧ (getFp s' m).link = true ∧ (getFp s' m).linkAt = s.localNs ∧
      (getFp s' m).speed = (if x.autoneg ∧ speedFits m sp ∧ sp.val ≤ x.speedCfg then sp.val else x.speedCfg) ∧
      (getFp s' m).leader = (if m.val < 32 then (if x.roleCfg = 0 then leader else decide (x.roleCfg = 1)) else false) ∧
      (getFp s' m).up = x.up ∧ (∀ j, j ≠ m.val → getFp s' j = getFp s j) ∧ s'.counters = (bump s .linkUps m 1).counters ∧
      s' = { s with
        face := { s.face with ports := s'.face.ports }, time := { s.time with tsPorts := s'.time.tsPorts, log := s'.time.log }
        counters := s'.counters })
  ∧ (∀ (s : State) (m : Fin 56) (sp : Fin 9) (leader eee : Bool) (fec : Fin 5), 48 ≤ m.val → bitOf s.fabric.laneMask (m.val - 48) = true →
    tblWf LaneVc.reset s.fabric.lanes = true →
    ∃ s', exec (.phyLinkOk m sp leader eee fec) s = .next s' ∧ ∀ v, v < 8 →
      getLane s' (m.val - 48) v = { LaneVc.reset with kOwn := tblGet 0 s.fabric.rxCells v })
  ∧ (∀ (s : State) (m : Fin 56), let x := getFp s m
    x.enable = true → x.link = true → x.up = false → portsSlept s = false → x.kept = false →
    let s1 := advance s (x.linkAt + x.upHold * 1000000 - s.localNs)
    exec (.portNodeUp m) s = .next (holdUpdateAll (postEvent (setFp s1 m { x with up := true }) 1
      [0x50 * 2 ^ 24 + 0 * 2 ^ 16 + m.val, s.bench.tickCount % 2 ^ 32, (if x.leader then 16 else 0) + x.speed, 0])))
  ∧ (∀ (s : State) (m : Fin 56), let x := getFp s m
    x.link = true →
    let s0 := setFp (bump s .linkDowns m 1) m { x with
      link := false, lpi := false, kept := false, recal := if x.recal = 2 then 0 else x.recal, calibrated := x.calibrated && x.recal != 2 }
    let s1 := if x.recal = 2 then
        { bump s0 .recalAbort m 1 with face := { s0.face with engines := s0.face.engines.filter (· != m.val) } } else s0
    exec (.phyLinkLoss m []) s = .next (
      if x.up then postEvent (nodeDown s1 m) 1 [0x51 * 2 ^ 24 + 2 ^ 16 + m.val, (nodeDown s1 m).bench.tickCount % 2 ^ 32, 0, 0]
      else if x.kept then postEvent s1 1 [0x51 * 2 ^ 24 + 2 ^ 16 + m.val, s.bench.tickCount % 2 ^ 32, 0, 0] else s1))
  ∧ (∀ (s : State) (m : Fin 56) (cut : List Byte), (getFp s m).up = true → cut ≠ [] →
    ∃ s1, exec (.frameReceive m cut { errored := true, corrected := 0#16, uncorrected := 0#16 } .clear 0xFF#8) s = .next s1 ∧
      exec (.phyLinkLoss m cut) s = exec (.phyLinkLoss m []) s1)
  ∧ (∀ (s : State) (m : Fin 32), (getPort s m).verify = true → (getPort s m).preempt ≠ 0 → (getFp s m).up = true →
    exec (.preemptVerifyDone m) s = .next (setPort s m { getPort s m with verified := true }))
  ∧ (∀ (s : State) (g : Fin 16), (getPlca s g).active = true → (getPlca s g).nodeId ≠ 0 →
    exec (.plcaBeaconLost g) s = .next (bump (setPlca s g { getPlca s g with active := false }) .plcaLost g 1))
  ∧ (∀ (s : State) (g : Fin 16) (c : BitVec 16), (getPlca s g).en = true →
    exec (.plcaBeaconRx g c) s = .next (
      setPlca (if (getPlca s g).active then bump s .plcaCollisions g c.toNat else s) g
        { getPlca s g with active := true, left := (getPlca s g).burstCnt + 1 }))

/-- R333 to R336: the temperature samples with the recalibrations they request (log entry 210; a port in TC10 SLEEP calibrates before it
trains at its wake), the calibration engines, cable test results and the signal quality of a margin. R337, R338 and Table 10.6: the TC10
states of a port, and the wakes that it forwards; one that returns from a port to which it was forwarded is ignored. The model's readings
and choices that it rests on: log entries 94, 95, 210, 211. -/
def Obligations.FaceMaintenance : Prop :=
  ((∀ (s : State) (t0 t1 t2 t3 : Byte), ∃ s', exec (.tempSample t0 t1 t2 t3) s = .next s' ∧
     (∀ q : Fin 4, tblGet 0 s'.face.temp q = ([t0, t1, t2, t3].getD q 0#8).toNat) ∧
     (∀ m, m < 56 → let x := getFp s m
       let t := ([t0, t1, t2, t3].getD (Config.quadrantOf m) 0#8).toNat
       (getFp s' m).recal = (if x.enable ∧ x.link ∧ x.tc10 ≠ 2 ∧ x.recal = 0 ∧ (s.face.recalDelta : Int) < |sgn 8 t - sgn 8 x.calTemp| then 1 else x.recal) ∧
       (getFp s' m).calibrated = if x.enable ∧ x.tc10 = 2 ∧ (s.face.recalDelta : Int) < |sgn 8 t - sgn 8 x.calTemp| then false else x.calibrated) ∧
     s' = { s with face := { s.face with temp := s'.face.temp, ports := s'.face.ports } })
   ∧ (∀ (s : State) (m : Nat), NextServed s (fun x => decide (x.recal = 1) && x.link) m →
     exec .recalStart s = .next (let s1 := setFp s m { getFp s m with recal := 2 }
       { s1 with face := { s1.face with engines := s.face.engines ++ [m] } }))
   ∧ (∀ (s : State) (m : Fin 56), (getFp s m).recal = 2 → exec (.recalDone m) s = .next (
       let t := tblGet 0 s.face.temp (Config.quadrantOf m)
       let s1 := setFp s m { getFp s m with recal := 0, calTemp := t }
       postEvent (bump { s1 with face := { s1.face with engines := s.face.engines.filter (· != m.val) } } .recalDone m 1) 1
         [0x54 * 2 ^ 24 + 0 * 2 ^ 16 + m.val, s.bench.tickCount % 2 ^ 32, t, 0]))
   ∧ (∀ (s : State) (m : Nat), (∀ j, j < 56 → (getFp s j).recal = 1 → (getFp s j).link = false) → NextServed s (fun x => decide (x.test = 1)) m →
     exec .cableTestStart s = .next (let s1 := setFp s m { getFp s m with test := 2 }
       { s1 with face := { s1.face with engines := s.face.engines ++ [m] } }))
   ∧ (∀ (s : State) (m : Fin 48) (r : Fin 6) (d : BitVec 16), (getFp s m).test = 2 → r.val ≠ 0 →
     exec (.cableResult m r d) s = .next (
       let s1 := setFp s m { getFp s m with test := 0, result := r.val, dist := d.toNat }
       postEvent { s1 with face := { s1.face with engines := s.face.engines.filter (· != m.val) } } 1
         [0x52 * 2 ^ 24 + 0 * 2 ^ 16 + m.val, s.bench.tickCount % 2 ^ 32, r.val * 2 ^ 29 + d.toNat, 0]))
   ∧ (∀ (s : State) (m : Fin 56) (g : BitVec 16), (getFp s m).link = true → m.val < 32 ∨ 48 ≤ m.val →
     exec (.sqiMeasure m g) s = .next (setFp s m { getFp s m with
       margin := g.toNat, sqi := if g.toInt < 0 then 0 else min 7 (1 + (g.toInt / 10).toNat) })))
  ∧ (∀ (s : State) (m : Fin 32), let x := getFp s m
   let ev (s : State) (code : Nat) : State := postEvent s 1 [0x53 * 2 ^ 24 + code * 2 ^ 16 + m.val, s.bench.tickCount % 2 ^ 32, 0, 0]
   let asleep (code : Nat) : State :=
     let s1 := linkDown s m 3
     ev (bump (setFp s1 m { getFp s1 m with tc10 := 2 }) .tc10Sleeps m 1) code
   let active : State := setFp s m { x with tc10 := 0 }
   (x.tc10 = 1 → s.localNs ≤ x.tc10At + 16000000 → exec (.tc10PartnerAck m) s = .next (asleep 1))
   ∧ (x.tc10 = 1 → exec (.tc10SleepTimeout m) s = .next (
       sleepHeld (ev (setFp (advance s (x.tc10At + 16000000 - s.localNs)) m { x with tc10 := 0 }) 3) m))
   ∧ (x.tc10 = 1 → exec (.tc10PartnerRefuse m) s = .next (sleepHeld (ev active 4) m))
   ∧ (x.tc10En = true → x.tc10 = 1 → exec (.tc10PartnerSleepReq m) s = .next (asleep 1))
   ∧ (x.tc10En = true → x.tc10 = 0 → x.link = true → s.gh.sleepState = .none →
       exec (.tc10PartnerSleepReq m) s = .next (if x.acceptSleep ∧ x.wakeAt ≠ some s.localNs then asleep 2 else ev s 8))
   ∧ (wakeReturns s x = true → exec (.tc10WakePulseRx m) s = .next s ∧ exec (.tc10WakeRequestRx m) s = .next s)
   ∧ (wakeReturns s x = false → x.tc10 = 2 → exec (.tc10WakePulseRx m) s = .next (
       let near := decide (|sgn 8 (tblGet 0 s.face.temp (Config.quadrantOf m)) - sgn 8 x.calTemp| ≤ (s.face.recalDelta : Int))
       wake (tc10Forward (ev (bump (setFp s m { x with tc10 := 3, calibrated := x.calibrated && near }) .tc10Wakes m 1) 6) m) 8 m))
   ∧ (wakeReturns s x = false → x.tc10 = 1 → exec (.tc10WakePulseRx m) s = .next (wake (tc10Forward (ev (bump active .tc10Wakes m 1) 5) m) 8 m))
   ∧ (wakeReturns s x = false → x.tc10En = true → x.tc10 = 2 → exec (.tc10WakeRequestRx m) s = .next (wake s 8 m))
   ∧ (wakeReturns s x = false → x.tc10En = true → x.tc10 = 0 → exec (.tc10WakeRequestRx m) s = .next (tc10Forward (ev (bump s .tc10Wakes m 1) 7) m))
   ∧ (wakeReturns s x = false → x.tc10En = true → x.tc10 = 1 → exec (.tc10WakeRequestRx m) s = .next (wake (tc10Forward (ev (bump active .tc10Wakes m 1) 5) m) 8 m)))

/-- R327 to R329: a transceiver fault sets its status bit, holds the bus recessive and posts BUS_FAULT, on a held channel as on another, and
its end leaves the hold; a LIN transceiver detects no short to ground; a wake-up pattern in Standby sets WAKE_SEEN and is a wake event.
R286, R287: a frame that the match of R286 recognises on a node of IN_MASK drives STOP_OUT, is counted and posted with SUPPRESSED as it
stood, and joins the halt queue of every up node of OUT_MASK but its own; within the minimum gap it is suppressed instead. It is the frame
that FRAME_RECEIVE takes, and goes on into Screen where CONSUME is 0. The model's readings and choices that it rests on: log entries 96,
106, 192, 193. -/
def Obligations.BusFaultsAndHalt : Prop :=
  (∀ (s : State) (c : Fin 24), let x := getPhy s c
   let ev (s : State) (code : Nat) : State := postEvent s 1
     [0x55 * 2 ^ 24 + code * 2 ^ 16 + (if c.val < 16 then 0x80 + c.val else 0xC0 + (c.val - 16)), s.bench.tickCount % 2 ^ 32, 0, 0]
   (x.mode = 1 →
     exec (.txdTimeout c true) s = .next (ev (bump (setPhy s c { x with txdTimeout := true, held := true, txdOn := true }) .txdTimeouts c 1) 1))
   ∧ exec (.txdTimeout c false) s = .next (setPhy s c { x with txdOn := false })
   ∧ exec (.thermalShutdown c true) s = .next (ev (setPhy s c { x with thermal := true, held := true, hotOn := true }) 2)
   ∧ exec (.thermalShutdown c false) s = .next (setPhy s c { x with hotOn := false })
   ∧ (∀ ground, c.val < 16 ∨ ground = false →
     exec (.busShort c ground true) s = .next (ev (bump (setPhy s c { x with short := true, held := true, shortOn := true }) .busShorts c 1) 3) ∧
     exec (.busShort c ground false) s = .next (setPhy s c { x with shortOn := false }))
   ∧ (∀ on, 16 ≤ c.val → exec (.busShort c true on) s = .next s)
   ∧ (c.val < 16 → x.mode = 3 → x.wakeEn = true → exec (.busWakePattern c) s = .next (wake (ev (setPhy s c { x with wakeSeen := true }) 4) 6 c))
   ∧ (16 ≤ c.val → x.mode = 2 → exec (.busWakePattern c) s = .next (wake (ev (setPhy s c { x with wakeSeen := true }) 4) 7 (c - 16 : Nat))))
  ∧ (∀ (s : State) (m : Fin 56) (b : List Byte) (sec : SecMark) (plca : Byte), sec = .clear ∨ (8 ≤ m.val ∧ m.val < 48) →
     (getFp s m).up = true → s.haul.haltEn = true → bitOf s.haul.haltIn m = true → fcsOk b = true →
     64 ≤ b.length → b.length ≤ 128 → beAt b 0 6 = s.haul.haltDa → beAt b 12 2 = s.haul.haltEtype → beAt b 14 4 = s.haul.haltMagic →
   exec (.haltFrameReceive m b sec plca) s = exec (.frameReceive m b { errored := false, corrected := 0#16, uncorrected := 0#16 } sec plca) s ∧
   ∃ s', exec (.haltFrameReceive m b sec plca) s = .next s' ∧ (s.haul.haltConsume = true →
     s'.haul.stop = true ∧ s'.haul.lastNode = m.val ∧ s'.haul.haltCount = min (s.haul.haltCount + 1) 65535 ∧
     s' = { s with haul := s'.haul, counters := s'.counters, events := s'.events } ∧
     s'.events = (postEvent s 9 [0x30 * 2 ^ 24 + m.val, s.bench.tickCount % 2 ^ 32, getCtr s .haltSuppressed 0 % 2 ^ 32, 0]).events ∧
     (if (∃ t, s.haul.haltAt = some t ∧ s.localNs < t + s.haul.haltGap * 1000) then
       s'.haul.ports = s.haul.ports ∧ s'.haul.haltAt = s.haul.haltAt
     else s'.haul.haltAt = some s.localNs ∧ ∀ n, n < 56 → (getPort s' n).haltQ =
       if bitOf s.haul.haltOut n ∧ n ≠ m.val ∧ (getFp s n).up then (getPort s n).haltQ ++ [b] else (getPort s n).haltQ)))

/-- R128, R139, R145, R147, R153: a good frame that arrives on an up port, for which the store has room, and that no stage of Screen drops, is
counted and stands as a packet, waiting or numbered, with the epoch, partner, profile, rule and entry that the rules give. R128, R322,
R348: frames that Screen drops at its stages: an errored frame (a bad FCS, or what the PHY and PCS report), one without a rule set in
force and one of a frozen partner are counted, and their cells and descriptor go back to the store; without a rule set every frame counts
so, whatever frame recovery would find (R162). The model's readings and choices that it rests on: log entries 61, 64. -/
def Obligations.ScreenFrames : Prop :=
  (∀ (s s1 : State) (m : Fin 56) (b : List Byte) (line : RxLine) (plca : Byte) (h d : Nat) (r : RuleSet) (x : EntryRec),
     let s0 := countFec s m line
     (getFp s m).up = true → lineBad s m line = false → fcsOk b = true → s.haul.haltEn = false → s1.triad.safe = false →
     64 ≤ b.length → b.length ≤ 16383 →
     (32 ≤ m.val → m.val < 48 → b.length ≤ (getPlca s (m - 32 : Nat)).segMax) →
     storeFrame s0 m (ingressClass s0 m b) b = (s1, .ok h d) → s1.pair.recovery = [] → s1.screen.current = some r →
     let prof := selectProfile r m b
     let e := extract r prof b
     let partner := mapPartner s1 r m (portIdent s m b plca)
     let w := winningRule r e (ruleKey r prof m partner e)
     let entry := match w with
       | some i => rsField r (0x4100 + 32 * i + 0x1C) 1
       | none => profileWord r prof 0 / 2 ^ 16 % 256
     partnerFrozen s1 partner = false → getContract s1 partner = none →
     (profileWord r prof 0 / 2 ^ 31 % 2 = 1 ∨ shapeFlags r prof b.length e = (false, false)) →
     serviceEntry s1 entry = some x → 0 < x.rate → 1000000000 ≤ (refillEntry s1 entry x.rate).tokens →
     ∃ s', exec (.frameReceive m b line .clear plca) s = .next s' ∧
       ∃ p ∈ s'.screen.waiting ++ s'.screen.dispatchQ, p.handle = h ∧ p.desc = d ∧ p.src = m.val ∧ p.len = b.length ∧ p.epoch = r.num ∧
         p.partner = partner ∧ p.profile = prof ∧ p.ruleHit = w.isSome ∧ p.rule = w.getD 0 ∧ p.entry = entry ∧ p.pass = 0 ∧ p.dispatched = false)
  ∧ (∀ (s s1 : State) (m : Fin 56) (b : List Byte) (line : RxLine) (plca : Byte) (h d : Nat), (getFp s m).up = true → s.haul.haltEn = false →
     s1.triad.safe = false → (32 ≤ m.val → m.val < 48 → b.length ≤ (getPlca s (m - 32 : Nat)).segMax) →
   let s0 := countFec s m line
   (lineBad s m line = true ∨ fcsOk b = false → storeFrame (bump s0 .rxErr m 1) m (ingressClass (bump s0 .rxErr m 1) m b) b = (s1, .ok h d) →
     exec (.frameReceive m b line .clear plca) s = .next (discardStored (bump s1 .discardErr m 1) h d))
   ∧ (lineBad s m line = false → fcsOk b = true → 64 ≤ b.length → b.length ≤ 16383 →
     storeFrame s0 m (ingressClass s0 m b) b = (s1, .ok h d) → s1.screen.current = none →
     exec (.frameReceive m b line .clear plca) s = .next (discardStored (bump s1 .noRulesetDrop m 1) h d))
   ∧ (∀ r : RuleSet, lineBad s m line = false → fcsOk b = true → 64 ≤ b.length → b.length ≤ 16383 →
     storeFrame s0 m (ingressClass s0 m b) b = (s1, .ok h d) → s1.pair.recovery = [] → s1.screen.current = some r →
     let partner := mapPartner s1 r m (portIdent s m b plca)
     partnerFrozen s1 partner = true → exec (.frameReceive m b line .clear plca) s = .next (
       discardStored (bump (bump (bump s1 .rxFrames m 1) .profileHits (selectProfile r m b) 1) .partnerDrop partner 1) h d)))

/-- R35, R36, R88, R155: the oldest dispatchable packet takes a free thread of the group: its bank is stamped at its first dispatch, its
thread starts at the entry's program with the registers of Table 3.4 and the header window, and the group remembers the engine; a
recirculated pass starts on the thread reserved for it. The model's readings and choices that it rests on: log entries 60, 63, 65, 202. -/
def Obligations.DispatchEvents : Prop :=
  (∀ (s : State) (g : Fin 8) (p : Packet) (l : List Packet) (t st : Nat) (b : Bool), s.screen.dispatchQ = p :: l →
    s.localNs < p.lastBit + s.bench.period * 1000 / 2 → groupThread s g = some t → p.dispatched = false → s.engine.service = some b →
    entryStart s b p.entry = some st →
    ∃ s', exec (.dispatch g) s = .next s' ∧
      getThread s' t = passThread s { p with dispatched := true, bank := b, dispAt := s.localNs } st ∧
      (∀ u, u ≠ t → getThread s' u = getThread s u) ∧ s'.screen.dispatchQ = l ∧ s'.counters = (bump s .dispatched p.src 1).counters ∧
      s' = { s with screen := { s.screen with dispatchQ := l, groupLast := s'.screen.groupLast }
                    engine := { s.engine with threads := s'.engine.threads }, counters := s'.counters })
  ∧ (∀ (s : State) (t : Fin 512) (p : Packet) (r : RuleSet) (st : Nat), (getThread s t).reserved = some p → p.dispatched = true →
    s.localNs < p.lastBit + s.bench.period * 1000 → ruleSetOf s p.epoch = some r →
    let b := frameBytes s p.handle p.len
    let prof := selectProfile r p.src b
    let e := extract r prof b
    let f := shapeFlags r prof b.length e
    (profileWord r prof 0 / 2 ^ 31 % 2 = 1 ∨ f = (false, false)) → entryStart s p.bank p.entry = some st →
    exec (.recircReentry t) s = .next (
      setThread (bump s .dispatched p.src 1) t (passThread s { p with profile := prof, ext := e, lenConflict := f.1, deep := f.2 } st)))

/-- R39, R153, R156, R158, R160: a source numbers its oldest waiting frame while its window is open; a frame past its wait limit is dropped
and counted; a packet past its tick freezes its thread with TICK_OVERRUN; the reorder stage passes the gap before a frame that has been
ready for a tick. The model's readings and choices that it rests on: log entries 12, 63. -/
def Obligations.ScreenTimers : Prop :=
  (∀ (s : State) (m : Fin 64) (p : Packet), s.screen.waiting.find? (fun p => decide (p.src = m.val)) = some p →
    (∀ e l, getReorder s m = e :: l → (tblGet 0 s.screen.seqCtr m + 65536 - e.num) % 65536 < 2048) →
    let k := tblGet 0 s.screen.seqCtr m
    ∃ s' q, exec (.sequenceAssign m) s = .next s' ∧ s'.screen.waiting = s.screen.waiting.erase p ∧
      s'.screen.dispatchQ = s.screen.dispatchQ ++ [q] ∧ q.seq = some k ∧ q.desc = p.desc ∧ q.handle = p.handle ∧ q.src = p.src ∧
      getReorder s' m = getReorder s m ++ [{ num := k, filled := false, ready := none }] ∧
      s'.screen.seqCtr = tblSet 0 s.screen.seqCtr m ((k + 1) % 65536))
  ∧ (∀ (s : State) (m : Fin 64) (p : Packet), (s.screen.dispatchQ ++ s.screen.waiting).find? (fun p => decide (p.src = m.val)) = some p →
    exec (.waitDrop m) s = .next (
      let s1 := advance s (p.lastBit + s.bench.period * 1000 / 2 - s.localNs)
      dropPacket (bump { s1 with screen := { s.screen with
        dispatchQ := s.screen.dispatchQ.erase p, waiting := s.screen.waiting.erase p } } .waitDrop p.src 1) p))
  ∧ (∀ (s : State) (t : Fin 512) (p : Packet), (getThread s t).pkt = some p → exec (.packetTickOverrun t) s = .next (
      threadFault (advance s (p.lastBit + s.bench.period * 1000 - s.localNs)) t vTICK (getThread s t).pc.toNat))
  ∧ (∀ (s : State) (m : Fin 64) (gone l : List SeqEnt) (e : SeqEnt) (t : Nat), getReorder s m = gone ++ e :: l → (∀ x ∈ gone, x.ready = none) →
    e.ready = some t → exec (.reorderGap m) s = .next (
      releaseFront m (e :: l) (bump (advance s (t + s.bench.period * 1000 - s.localNs)) .reorderGap m (gone.filter (fun x => !x.filled)).length)))

/-- R263, R266, R281, R282, R287: a decision of a transmitter without a frame comes no earlier than 128 ns before it is free. It sends a
waiting halt frame first, else begins the frame that was decided where it may still begin, else starts the head frame of the queue that
the walk picks, with the bytes that its template makes, at the instant at which the transmitter is free, else nothing. A waiting halt
frame preempts a preemptible frame in progress once its fragment is long enough. The model's readings and choices that it rests on: log
entries 20, 100, 101, 102, 103, 107, 181, 185. -/
def Obligations.HaulDecisions : Prop :=
  ∀ (s : State) (m : Fin 64), s.triad.safe = false → txSa s m = none →
  let a := advance s ((getPort s m).freeAt - 128 - s.localNs)
  let start := max a.localNs (getPort s m).freeAt
  let b := advance a (start - a.localNs)
  let s1 := (portQueues b m).foldl (fun s q => purgeQueue m q (getQueue s q).frames.length s) b
  ((getPort s m).tx = none → plcaWaits s m = false →
    (∀ (h : List Byte) (l : List (List Byte)), (getPort s m).haltQ = h :: l →
      ∃ s' x, exec (.haulDecision m) s = .next s' ∧ (getPort s' m).tx = some x ∧ (getPort s' m).haltQ = l ∧ x.bytes = h ∧ x.halt = true ∧
        x.express = true ∧ x.done = 0 ∧ x.stomp = none ∧ x.start = start ∧ (∀ j, j ≠ m.val → getPort s' j = getPort s j) ∧
        s' = { a with haul := { s.haul with ports := s'.haul.ports }, face := { s.face with plca := s'.face.plca } })
    ∧ (∀ x : TxRec, (getPort s m).haltQ = [] → (getPort s m).decided = some x → mayBegin a m x start = true →
      ∃ s', exec (.haulDecision m) s = .next s' ∧ (getPort s' m).tx = some { x with start := start, first := start } ∧ (getPort s' m).decided = none)
    ∧ ((getPort s m).haltQ = [] → (getPort s m).decided = none → (getPort s m).preempted = none →
      (∀ (s2 : State) (v u q : Nat × Bool) (d : Desc) (l : List Desc), walk s1 m = (s2, some (v, u, q)) → (getQueue s2 q.1).attached = true →
        (getQueue s2 q.1).frames = d :: l → txSa s2 m = none →
        ∃ s' x, exec (.haulDecision m) s = .next s' ∧ (getPort s' m).tx = some x ∧ x.desc = d ∧ x.bytes = (egressBytes s2 d).1 ∧
          x.start = s2.localNs ∧ x.done = 0 ∧ x.stomp = none ∧ x.halt = false ∧ (getQueue s' q.1).frames = l ∧ s'.localNs = a.localNs)
      ∧ (∀ s2 : State, walk s1 m = (s2, none) →
        exec (.haulDecision m) s = .next (plcaSpend { s2 with localNs := a.localNs, time := a.time } m))))
  ∧ (∀ (h : List Byte) (l : List (List Byte)) (x : TxRec), (getPort s m).tx = some x → x.start ≤ s.localNs → x.express = false → x.stomp = none →
    (getPort s m).preempted = none → m.val < 32 → (getPort s m).preempt ≠ 0 → ((getPort s m).verify = true → (getPort s m).verified = true) →
    (getPort s m).haltQ = h :: l →
    let k := max (txSent s m x) (x.done + 64 * (1 + (getPort s m).addFrag))
    k + 64 ≤ x.bytes.length →
    ∃ s' y z, exec (.haulDecision m) s = .next s' ∧ (getPort s' m).tx = some y ∧ y.bytes = h ∧ y.halt = true ∧ y.start = s'.localNs ∧
      (getPort s' m).preempted = some z ∧ z.done = k ∧ z.desc = x.desc ∧ z.bytes = x.bytes ∧ z.parked = true ∧ (getPort s' m).haltQ = l)

/-- R204, R206, R207, R237, R284: the end of a transmission frees the transmitter for a gap of 12 bytes, after which a frame that was decided
begins where nothing keeps it from its start (a gate, a pause, a hold; R203, R241, R245, R280), counts the frame and its bytes and adds
its delay to the histogram; an unconfirmed speculation is withdrawn at its tail point, 4 bytes before the end; an uncorrectable cell read
stomps a frame whose head has left, and of its copies drops no more than those that have not begun. R275, R277, R278: a gate's next change
runs the clock to the end of the entry that rules; a pending list takes over at its start in its time base, an empty one removing the
list. The model's readings and choices that it rests on: log entries 10, 102, 103, 107, 185, 186. -/
def Obligations.TransmissionAndGates : Prop :=
  ((∀ (s : State) (m : Fin 64) (x : TxRec), (getPort s m).tx = some x → m.val ≠ 57 → m.val < 59 → x.desc.spec = false → x.stomp = none →
     x.halt = false → x.desc.queue < 524288 → tblWf 0 s.counters = true →
     let t := max s.localNs (x.start + lineNs s m (8 + x.bytes.length - x.done))
     let free := t + lineNs s m 12
     ∃ s', exec (.frameTxEnd m) s = .next s' ∧ s'.localNs = t ∧ (getPort s' m).freeAt = free ∧
       ((getPort s m).haltQ ≠ [] ∨ (getPort s m).decided = none → (getPort s' m).tx = none) ∧
       (∀ d, (getPort s m).decided = some d → (getPort s' m).tx = none ∨ (getPort s' m).tx = some { d with start := free, first := free }) ∧
       (∀ d, (getPort s m).decided = some d → (getPort s m).haltQ = [] → portUp s m = true → d.desc.spec = false → pfcPaused s m d.tc = false →
         (getQueue s d.desc.queue).hold ≠ .holding → d.express = true ∨ (getPort s m).preempted = none → 56 ≤ m.val ∨ getGates s m = GateState.none →
         (getPort s' m).tx = some { d with start := free, first := free }) ∧
       (getPort s' m).lastSent = some (protectedBytes x.sa x.bytes, .whole) ∧
       getCtr s' .txFramesQ x.desc.queue = (getCtr s .txFramesQ x.desc.queue + 1) % 2 ^ 64 ∧
       getCtr s' .txBytesQ x.desc.queue = (getCtr s .txBytesQ x.desc.queue + x.bytes.length) % 2 ^ 64 ∧
       getCtr s' .txFramesP m = (getCtr s .txFramesP m + 1) % 2 ^ 64 ∧ getCtr s' .txBytesP m = (getCtr s .txBytesP m + x.bytes.length) % 2 ^ 64)
   ∧ (∀ (s : State) (m : Fin 64) (x : TxRec) (p : Packet), (getPort s m).tx = some x → m.val < 59 → x.desc.spec = true → x.stomp = none →
     (packets s).find? (fun p => decide (p.desc = x.desc.idx) && decide (p.spec = .standing)) = some p →
     exec (.specTailPoint m) s = .next (
       bump (withdrawDesc (advance s (x.start + lineNs s m (8 + x.bytes.length - x.done - 4) - s.localNs)) p.desc) .specLate p.src 1))
   ∧ (∀ (s : State) (m : Fin 64) (x : TxRec), (getPort s m).tx = some x → txBegun s m x = true → x.halt = false → x.stomp = none →
     let other (d : Desc) : Prop := d.handle ≠ x.desc.handle ∨ d.spec = true
     (∀ e ∈ s.haul.queues, ∀ d ∈ (getQueue s e.1).frames, other d) → (∀ n u, (getPort s n).decided = some u → other u.desc) →
     (∀ n u, (getPort s n).tx = some u → txBegun s n u = true ∨ u.halt = true ∨ other u.desc) →
     (∀ n, ∀ e ∈ getSpoil s n, other e.desc) → tblWf QueueRec.reset s.haul.queues = true → tblWf [] s.stock.spoil = true →
     let k := min (max (txSent s m x) (min 64 (x.bytes.length - 4))) (x.bytes.length - 4)
     ∃ s', exec (.stompEcc m) s = .next s' ∧ (getPort s' m).tx = some { x with stomp := some k } ∧
       s'.counters = (bump s .stompEcc m 1).counters ∧ (∀ n, getSpoil s' n = getSpoil s n) ∧
       s' = { s with haul := s'.haul, counters := s'.counters, stock := { s.stock with spoil := s'.stock.spoil } }))
  ∧ ((∀ (s : State) (m : Fin 56) (n : Nat), (gateAt s (getGates s m) 0).2 = some n → (getPort s m).tx = none →
     ∃ s', exec (.gateChange m) s = .next s' ∧ s'.localNs = s.localNs + n ∧
       s' = { advance s n with haul := { s.haul with gates := s'.haul.gates } } ∧ ∀ j, j ≠ m.val → getGates s' j = getGates s j)
   ∧ (∀ (s : State) (m : Fin 56) (l : GateList) (st n : Nat), (getGates s m).pending = some (l, st) →
     let b := tbGet s.time l.tb
     b.running = true → b.slew = none → -2147483 ≤ b.rate → cyclesTo b (st * 2 ^ 32) = some n → 0 ≤ b.value →
     b.value + n * (2 ^ 32 + b.rate) < 2 ^ 80 * 1000000000 → (getPort s m).tx = none → tblWf GateState.none s.haul.gates = true →
     ∃ s', exec (.gateListTakeover m) s = .next s' ∧ s'.localNs = s.localNs + n ∧ (getGates s' m).pending = none ∧
       (getGates s' m).coast = none ∧ (getGates s' m).active = (if l.ents = [] then none else some (l, st)) ∧
       s' = { advance s n with haul := { s.haul with gates := s'.haul.gates } })
   ∧ (∀ (s : State) (g : Fin 256) (l : GateList) (st n : Nat), (getSgate s g).active = some (l, st) → (getSgate s g).pending = none →
     (gateAt s (getSgate s g) 0).2 = some n → tblWf GateState.none s.haul.sgates = true →
     exec (.streamGateChange g) s = .next (advance s n)))

/-- R226, R230, R232: a lone pending write enters the bank of the rotating start; the cell that a spill mover has in hand goes to its home and
its location switches; a refill moves the oldest 64 handles of the ring to the cache, and a drain the oldest 64 of the cache to the ring.
R240, R241, R243, R261, R410: spoiled copies retry, stay where the queue refuses them, which counts (log entry 81), are refused for good
where their queue is unattached or would descend, and expire, and hold queues follow their links and drop what outlives HOLD_LIFE_S. The
model's readings and choices that it rests on: log entries 81, 88, 92, 187, 195. -/
def Obligations.CellsAndHolds : Prop :=
  ((∀ (s : State) (x : PendCell), s.stock.pend = [x] → x.write = true → x.req < 8 → (∀ m, m < 64 → (getPort s m).tx = none) →
     s.stock.spill = [] → s.stock.bankUsed = [] → s.stock.spilling = false → 0 < s.stock.hsHigh → s.stock.gp = [] →
     ∃ s', exec .headStoreMatch s = .next s' ∧ s'.stock.pend = [] ∧
       getCell s' x.cell = { getCell s x.cell with bank := some (s.bench.arbTick % 64), writing := false } ∧
       (∀ c, c ≠ x.cell → getCell s' c = getCell s c) ∧ s'.stock.bankUsed = [(s.bench.arbTick % 64, 1)] ∧
       (∀ b, b < 64 → tblGet 0 s'.stock.gp b = x.req + 1) ∧ s' = { s with stock := s'.stock })
   ∧ (∀ (s : State) (v : Fin 4) (e : Nat × Nat) (b : Nat), s.stock.moved.find? (fun e => decide (e.1 = v.val)) = some e →
     (getCell s e.2).bank = some b → exec (.spillCell v) s = .next (
       bump (setCell { s with stock := { s.stock with
         bankUsed := tblSet 0 s.stock.bankUsed b (tblGet 0 s.stock.bankUsed b - 1), spill := s.stock.spill.filter (· != e.2)
         moved := s.stock.moved.filter (· != e), pend := s.stock.pend.filter (fun x => !(x.cell == e.2 && !x.write)) } }
         e.2 { getCell s e.2 with bank := none }) .spilledCells 0 1))
   ∧ (∀ (s : State) (v : Fin 4), (∀ e ∈ s.stock.moved, e.1 ≠ v.val) → exec (.spillCell v) s = .next s)
   ∧ (∀ (s : State) (p : Fin 32), (∀ k v, (getLane s k v).waits = []) → runsLen (getPool s p).cache < 256 → 0 < runsLen (getPool s p).ring → ∃ r c,
     exec (.hopperRefillBurst p) s = .next (setPool s p { getPool s p with ring := r, cache := c }) ∧
     runCells c = runCells (getPool s p).cache ++ (runCells (getPool s p).ring).take 64 ∧ runCells r = (runCells (getPool s p).ring).drop 64)
   ∧ (∀ (s : State) (p : Fin 32), 960 < runsLen (getPool s p).cache → ∃ r c,
     exec (.hopperDrainBurst p) s = .next (setPool s p { getPool s p with ring := r, cache := c }) ∧
     runCells r = runCells (getPool s p).ring ++ (runCells (getPool s p).cache).take 64 ∧ runCells c = (runCells (getPool s p).cache).drop 64))
  ∧ ((∀ (s s1 : State) (m : Fin 64) (e : SpoilEnt), getSpoil s m = [e] → s.bench.tickCount < e.deadline →
     (queuePort s e.desc.queue = none → exec (.spoilRetry m) s = .next (
       bump (discardDesc (setSpoil s m []) m e.desc) .unattachedDrop 0 1))
     ∧ (queuePort s e.desc.queue ≠ none → descends s e.desc.queue e.desc.arrVc = true → exec (.spoilRetry m) s = .next (
       bump (discardDesc (setSpoil s m []) m e.desc) .vcOrderDrop e.desc.queue 1))
     ∧ (queuePort s e.desc.queue ≠ none → descends s e.desc.queue e.desc.arrVc = false →
       (copyGate s e.desc.queue = true →
         (enqueue s { e.desc with since := s.localNs } = (s1, true) → exec (.spoilRetry m) s = .next (setSpoil s1 m ((getSpoil s1 m).erase e)))
         ∧ (enqueue s { e.desc with since := s.localNs } = (s1, false) → exec (.spoilRetry m) s = .next s1))
       ∧ (copyGate s e.desc.queue = false → exec (.spoilRetry m) s = .next s)))
   ∧ (∀ (s : State) (m : Fin 64), tblWf [] s.stock.spoil = true → tblWf 0 s.counters = true →
     ∃ s', exec (.spoilExpire m) s = .next s' ∧ getSpoil s' m = (getSpoil s m).filter (fun e => decide (s.bench.tickCount < e.deadline)) ∧
       getCtr s' .spoilExpired m = (getCtr s .spoilExpired m + ((getSpoil s m).filter (fun e => decide (e.deadline ≤ s.bench.tickCount))).length) % 2 ^ 64 ∧
       s'.haul = s.haul)
   ∧ (∀ (s : State) (i : Fin 32) (v : Bool), exec (.holdWatchChange i v) s = .next (holdUpdateAll { s with gh := { s.gh with
       gpio := tblSet Gpio.reset s.gh.gpio i { tblGet Gpio.reset s.gh.gpio i with ext := some v } } }))
   ∧ (∀ (s : State) (q : Fin 524288) (m : Nat), queuePort s q = some m → (getQueue s q).hold = .holding → (getQAdmit s q).holdLife ≠ 0 →
     (∀ d ∈ (getQueue s q).frames, d.spec = false) → tblWf 0 s.counters = true →
     ∃ s', exec (.holdExpired q) s = .next s' ∧
       (getQueue s' q).frames = (getQueue s q).frames.dropWhile (fun d => decide (((getQAdmit s q).holdLife * 1000000000 : Nat) < shortDiff (nowShort s) d.rxTime)) ∧
       getCtr s' .holdExpired q = (getCtr s .holdExpired q + ((getQueue s q).frames.length - (getQueue s' q).frames.length)) % 2 ^ 64))

/-- R245 to R247: a PFC frame pauses a class of a Conveyor Ethernet lane for its quanta, and a frame of the class that was decided and has not
begun goes back to the head of its queue; the pause ends with the quanta; a class paused for more than 16 ticks is flushed; the device
repeats its own PFC every 32,768 quanta, and sends none in the safe output state. R249 to R253: DATA and CREDIT cells that leave a lane
carry the credit of the channel whose turn it is and use up one credit; a received cell is checked, gives its credit report, and a middle
cell of a frame that has room joins the frame in reassembly; each cell that leaves a receive buffer returns one credit. The model's
readings and choices that it rests on: log entries 84, 85, 86, 87. -/
def Obligations.PauseAndFabric : Prop :=
  ((∀ (s : State) (k c : Fin 8) (n : BitVec 16), bitOf s.fabric.laneMask k = false → (getFp s (48 + k : Nat)).up = true → n ≠ 0#16 →
     (∀ u, (getPort s (48 + k : Nat)).decided = some u → u.halt = true ∨ u.tc ≠ c) →
     (∀ u, (getPort s (48 + k : Nat)).tx = some u → txBegun s (48 + k : Nat) u = true ∨ u.halt = true ∨ u.tc ≠ c) →
     let old := tblGet none s.stock.pfcRx (8 * k.val + c.val)
     let ends := s.localNs + quantaNs n.toNat (portRate s (48 + k : Nat))
     exec (.pfcReceive k c n) s = .next { s with stock := { s.stock with
       pfcRx := tblSet none s.stock.pfcRx (8 * k.val + c.val) (some (
       match old with
       | some x => if s.localNs < x.ends then { x with ends := ends } else { ends := ends, since := s.localNs, sinceTick := s.bench.tickCount }
       | none => { ends := ends, since := s.localNs, sinceTick := s.bench.tickCount }))
       blocked := if (match old with | some x => decide (s.localNs < x.ends) | none => false) then s.stock.blocked
         else tblSet false s.stock.blocked (8 * (48 + k.val) + c.val) false } })
   ∧ (∀ (s : State) (k c : Fin 8) (n : BitVec 16) (u : TxRec), bitOf s.fabric.laneMask k = false → (getFp s (48 + k : Nat)).up = true → n ≠ 0#16 →
     (getPort s (48 + k : Nat)).decided = some u → u.halt = false → u.tc = c → (getPort s (48 + k : Nat)).tx = none →
     tblWf QueueRec.reset s.haul.queues = true → s.haul.ports.Pairwise (fun a b => a.1 < b.1) →
     ∃ s', exec (.pfcReceive k c n) s = .next s' ∧ (getPort s' (48 + k : Nat)).decided = none ∧ (getPort s' (48 + k : Nat)).tx = none ∧
       (getQueue s' u.desc.queue).frames = u.desc :: (getQueue s u.desc.queue).frames)
   ∧ (∀ (s : State) (k c : Fin 8), bitOf s.fabric.laneMask k = false → (getFp s (48 + k : Nat)).up = true →
     exec (.pfcReceive k c 0#16) s = .next { s with stock := { s.stock with
       pfcRx := tblSet none s.stock.pfcRx (8 * k.val + c.val) none
       blocked := tblSet false s.stock.blocked (8 * (48 + k.val) + c.val) false } })
   ∧ (∀ (s : State) (k c : Fin 8) (x : PfcRx), tblGet none s.stock.pfcRx (8 * k.val + c.val) = some x →
     exec (.pfcPauseExpire k c) s = .next { advance s (x.ends - s.localNs) with stock := { s.stock with
       pfcRx := tblSet none s.stock.pfcRx (8 * k.val + c.val) none
       blocked := tblSet false s.stock.blocked (8 * (48 + k.val) + c.val) false } })
   ∧ (∀ (s : State) (m : Fin 64) (c : Fin 8) (q : Nat), tblWf QueueRec.reset s.haul.queues = true → stalledLong s m c = true → q ∈ pausedQueues s m c → (getQueue s q).frames ≠ [] →
     ∃ s', exec (.pauseFlush m c) s = .next s' ∧ (∀ j ∈ pausedQueues s m c, (getQueue s' j).frames = []) ∧
       tblGet false s'.stock.blocked (blockIdx s m q) = true)
   ∧ (∀ (s : State) (k c : Fin 8) (t : Nat), tblGet none s.stock.pfcTx (8 * k.val + c.val) = some t →
     let next := t + quantaNs 32768 (portRate s (48 + k : Nat))
     let l := tblGet [] s.stock.pfcOut k ++ [(c.val, 0xFFFF)]
     (bitOf s.fabric.laneMask k = false → (getFp s (48 + k : Nat)).up = true → s.triad.safe = false →
       exec (.pfcRepeat k c) s = .next { advance s (next - s.localNs) with stock := { s.stock with
         pfcTx := tblSet none s.stock.pfcTx (8 * k.val + c.val) (some next), pfcOut := tblSet [] s.stock.pfcOut k (l.drop (l.length - 16)) } })
     ∧ (s.triad.safe = true → exec (.pfcRepeat k c) s = .next s)))
  ∧ ((∀ (s : State) (k : Fin 8), bitOf s.fabric.laneMask k = true → s.triad.safe = false → (∀ v, (getLane s k v).waits = []) →
     tblWf 0 s.fabric.credRot = true →
     let v := tblGet 0 s.fabric.credRot k
     ∃ s', exec (.creditCellSend k) s = .next s' ∧ tblGet 0 s'.fabric.credRot k = (if v % 8 = 7 then 0 else v % 8 + 1) ∧
       (tblGet [] s'.fabric.cellsOut k).getLast? = some (cellHeader { zeroHdr with
         typ := 1, src := s.fabric.devId, dst := tblGet 0 s.fabric.neigh k, credVc := v, credits := (getLane s k v).kOwn % 4096 } ++ List.replicate 240 0#8) ∧
       s' = { s with fabric := { s.fabric with credRot := s'.fabric.credRot, cellsOut := s'.fabric.cellsOut } })
   ∧ (∀ (s s1 : State) (k : Fin 8) (v m : Nat) (t : TxRec), bitOf s.fabric.laneMask k = true → s.triad.safe = false → (∀ v, (getLane s k v).waits = []) →
     s1 = (List.range 8).foldl (fun s v => markStall s k v) s → v < 8 → hasCredit s1 k v = true → laneTx s1 k v = some (m, t) →
     (∀ j, j < 8 → (j + 8 - s1.bench.arbTick % 8) % 8 < (v + 8 - s1.bench.arbTick % 8) % 8 → hasCredit s1 k j = false ∨ laneTx s1 k j = none) →
     t.desc.spec = false → t.stomp = none → t.done + 240 < t.bytes.length → tblWf LaneVc.reset s1.fabric.lanes = true →
     ∃ s', exec (.fabricCellSend k) s = .next s' ∧ (getPort s' m).tx = some { t with done := t.done + 240 } ∧
       getLane s' k v = { getLane s1 k v with txSeq := ((getLane s1 k v).txSeq + 1) % 65536, sent := ((getLane s1 k v).sent + 1) % 4096 } ∧
       s'.counters = (bump s1 .cellsTx (8 * k.val + v) 1).counters)
   ∧ (∀ (s : State) (k : Fin 8) (c : List Byte), bitOf s.fabric.laneMask k = true → tblWf LaneVc.reset s.fabric.lanes = true →
     let h := readHeader c
     let x := getLane s k h.vc
     (headerOk c = false → x.waits = [] → ∃ s', exec (.fabricCellReceive k c) s = .next s' ∧
       s'.counters = (bump s .cellErr (8 * k.val + h.vc) 1).counters ∧
       getLane s' k h.vc = { x with rxBad := true, kOwn := (x.kOwn + 1) % 4096 } ∧
       s' = { s with fabric := { s.fabric with lanes := s'.fabric.lanes }, counters := s'.counters })
     ∧ (headerOk c = true → h.dst ≠ s.fabric.devId → exec (.fabricCellReceive k c) s = .next (
         let s1 := bump s .cellErr (8 * k.val + h.vc) 1
         if h.typ = 0 then setLane s1 k h.vc { x with kOwn := (x.kOwn + 1) % 4096 } else s1))
     ∧ (headerOk c = true → h.dst = s.fabric.devId → h.typ = 1 → exec (.fabricCellReceive k c) s = .next (
         markStall (setLane s k h.credVc { getLane s k h.credVc with kPeer := h.credits }) k h.credVc))
     ∧ ∀ f : RxFrame, headerOk c = true → h.dst = s.fabric.devId → h.typ = 0 → h.sof = false → h.eof = false → h.abort = false → x.waits = [] →
         x.rxFrame = some f → x.rxBad = false → h.seq = (x.rxSeq + 1) % 65536 →
         let b := f.bytes ++ ((c.drop 16).take 240).take h.bytes
         cellsFor b.length ≤ f.cells.length →
         ∃ s', exec (.fabricCellReceive k c) s = .next s' ∧ (getLane s' k h.vc).rxFrame = some { f with bytes := b } ∧
           (getLane s' k h.vc).rxSeq = h.seq ∧ (getLane s' k h.vc).kOwn = (x.kOwn + 1) % 4096 ∧ (getLane s' k h.vc).waits = []))

/-- R188: a pass inverts the parity of its table at the end of the pass before; the visit of an entry that the pass has not swept clears HIT,
else sets STRIKE, else removes it and counts AGED. The entry is an overflow entry or stands alone in its bucket. R180, R184: the end of a
relocation's drains clears the old copy, places the new entry in the freed group and answers the waiting LRN with OK; normalisation of an
applied tag leaves overflow entries as the commit made them and frees the tag. R199, R215, R217: a visit of the connection sweeper, at its
instant in each second of local time (which log entry 78 chooses), adds the second to the idle count and expires a connection whose count
had reached the limit of its state; the places of cleared connections are freed; the scrub of the epoch that retired first clears its
cache entries and leaves the others'. The model's readings and choices that it rests on: log entries 66, 70, 75, 76, 78. -/
def Obligations.TableSweeps : Prop :=
  ((∀ (s : State) (t : Fin 256) (x : LTable), getTable s t = some x → x.defn.age = true →
     let s1 := advance s (x.passStart + x.passLen * 1000000000 - s.localNs)
     exec (.ageSweepPass t) s = .next (setTable s1 t (some { x with ph := !x.ph, passStart := s1.localNs, passLen := x.defn.sweep })))
   ∧ (∀ (s : State) (t : Fin 256) (x : LTable) (o : Bool) (j : Fin 4194304) (l : Loc), getTable s t = some x → x.defn.age = true →
     let dram := x.defn.dram
     let n := if o then (if dram then 65536 else 8192) else (if dram then 4194304 else 262144)
     j.val < n →
     (if o then l = .ovf j else ∃ p, p < 4 ∧ l = .slot (4 * j.val + p) ∧ (getSlot s dram (4 * j.val + p)).width = 0 ∧
       ∀ k, k < 4 → k ≠ p → (getSlot s dram (4 * j.val + k)).used = false) →
     let y := getEntry s dram l
     y.table = t → y.part = 0 → slotVisible s y = true → y.static = false → y.tag = 0 → y.swept = !x.ph →
     tierBusy s dram = false → (∀ i, l = .slot i → underReloc s dram i = false) → pairPassive s = false →
     let s1 := advance s (x.passStart + j.val * x.passLen * 1000000000 / n - s.localNs)
     exec (.ageSweepVisit t o j) s = .next (
       if y.hit then modEntry s1 dram l (fun y => { y with hit := false, strike := false, swept := x.ph })
       else if y.strike = false then modEntry s1 dram l (fun y => { y with strike := true, swept := x.ph })
       else
         let key := entryKey s dram l
         lookupEvent (logChange (bump (modEntry s1 dram l (fun y => { y with used := false, vis := false })) .aged t 1)
           (.entryRemove t x.defn.bits key)) x.defn 0x02 0 t key)))
  ∧ ((∀ (s : State) (dram : Bool) (r : Reloc) (x : LTable), s.lookup.relocs.find? (fun r => decide (r.dram = dram)) = some r →
     getTable s r.ctx.table = some x → (getTier s dram).waiting = [] → pairPassive s = false →
     let s1 := mergeEntry { s with lookup := { s.lookup with relocs := s.lookup.relocs.erase r } } r.dram r.old r.new
     exec (.relocationDrain dram) s = .next (lrnReturn (learnedKey (placeEntry s1 x.defn (.slot (r.old / x.defn.width * x.defn.width))
       { table := r.ctx.table, key := r.ctx.key, data := r.ctx.data, static := false, tag := 0, ctag := 0 }) r.ctx) r.ctx stOK 0 0))
   ∧ (∀ (s : State) (c : Fin 16), tblGet TagState.free s.lookup.tags c = .applied → s.lookup.relocs = [] → tblWf TagState.free s.lookup.tags = true →
     tblWf LSlot.empty s.lookup.onDie.ovf = true → tblWf LSlot.empty s.lookup.dram.ovf = true →
     ∃ s', exec (.normalise c) s = .next s' ∧ tblGet TagState.free s'.lookup.tags c = .free ∧
       (∀ (dram : Bool) (i : Nat), let y := getOvf s dram i
         getOvf s' dram i =
           if y.used = true ∧ y.ctag = c.val ∧ y.tag = 1 then { y with tag := 0 }
           else if y.used = true ∧ y.ctag = c.val ∧ y.tag = 2 then { y with used := false, vis := false, tag := 0 }
           else if y.used = true ∧ y.ctag = c.val ∧ y.tag = 3 then { y with data := y.pdata, static := y.pstatic, tag := 0, pdata := 0, pstatic := false }
           else y) ∧
       s' = { s with lookup := s'.lookup }))
  ∧ ((∀ (s : State) (i : Fin 4194304) (c : Conn), getConn s i = some c → c.cleared = false →
     let due := nextVisit i c.visited
     let s0 := advance s (due - s.localNs)
     let before := c.idle + (s0.localNs - due) / 1000000000 + c.addIdle
     let c' := { c with idle := min (before + 1) 65535, addIdle := 0, visited := s0.localNs }
     let s1 := setConn s0 i (some c')
     let lim := idleLimit s (curEpoch s) c.tclass c.state
     exec (.connSweepVisit i) s = .next (
       if lim ≠ 0 ∧ lim ≤ before ∧ pairPassive s = false then
         connEvent (bump (removeConn s1 i c') .connExpired (32 * c.zsrc + c.zdst) 1) (curEpoch s) 0x10 i c'
       else s1))
   ∧ (∀ s : State, tblWf none s.berm.conns = true → ∃ s', exec .connClearFree s = .next s' ∧
       (∀ i, getConn s' i = match getConn s i with | some c => if c.cleared then none else some c | none => none) ∧
       s' = { s with berm := { s.berm with conns := s'.berm.conns } })
   ∧ (∀ (s : State) (e : Nat) (l : List Nat), s.berm.scrub = e :: l → tblWf none s.berm.cache = true → ∃ s', exec .epochScrub s = .next s' ∧
       s'.berm.scrub = l ∧ (∀ v, getWay s' v = match getWay s v with | some x => if x.epoch = e then none else some x | none => none) ∧
       s' = { s with berm := { s'.berm with pairCount := s.berm.pairCount } }))

/-- R343, R351, R357: a CAN frame or a LIN response that its controller accepts is counted; under the Spall set the first matching route
forwards it, an unmatched frame without a rule set is counted as a miss, and otherwise the Relay hands it to Screen with its identity
word. A response that fails its checksum or length is counted in LIN_ERR. The model's readings and choices that it rests on: log entries
26, 114, 115, 117. -/
def Obligations.BusReceive : Prop :=
  (∀ (s : State) (c : Fin 16) (m : CanMsg) (back : BitVec 32), (getCan s c).en = true → (getCan s c).state ≠ 2 →
    ((getPhy s c).mode = 1 ∨ (getPhy s c).mode = 2) → (m.fmt = .fd → (getCan s c).fdEn = true) → (m.fmt = .xl → (getCan s c).xlEn = true) →
    tblWf 0 s.counters = true →
    ∃ s1, s1 = { s with relay := { s.relay with can := s1.relay.can }, freeIdx := s1.freeIdx, counters := (bump s .relayRxFrames c 1).counters } ∧
      (getCan s1 c).recCount ≤ (getCan s c).recCount ∧ (getCan s1 c).tecCount = (getCan s c).tecCount ∧
      (s.relay.spallOff = true ∨ (canRoute s c m = none ∧ s.screen.current.isSome = true) → exec (.canFrameReceive c m back) s = .next (
        if m.fmt = .xl then relayIngress s1 c ((0x80 + c.val) * 2 ^ 56 + m.id % 2048) true (acfXl m c (relayStamp s back.toNat))
        else relayIngress s1 c ((0x80 + c.val) * 2 ^ 56 + ((if m.ide then 2 ^ 29 else 0) + m.id % 2 ^ 29)) false (acfCan m c (relayStamp s back.toNat)))) ∧
      (s.relay.spallOff = false → canRoute s c m = none → s.screen.current = none →
        exec (.canFrameReceive c m back) s = .next (bump s1 .spallMiss c 1)) ∧
      (∀ (r : SpallRoute) (k : Nat), s.relay.spallOff = false → canRoute s c m = some r → r.kind = 0 → k < 16 → bitOf r.canMask k = true → k ≠ c.val →
        (getCan s k).bufs.length < 32 → (∀ y ∈ (getCan s k).bufs, s.localNs < y.2 + s.relay.txLife * 1000000) →
        ∃ s', exec (.canFrameReceive c m back) s = .next s' ∧ (getCan s' k).bufs = (getCan s k).bufs ++ [(m, s.localNs)] ∧
          getCtr s' .spallFwd c = (getCtr s .spallFwd c + 1) % 2 ^ 64) ∧
      (∀ (r : SpallRoute) (l : Nat), s.relay.spallOff = false → canRoute s c m = some r → r.kind ≠ 0 → l < 8 → bitOf r.linMask l = true →
        ∃ s', exec (.canFrameReceive c m back) s = .next s' ∧ getCtr s' .spallFwd c = (getCtr s .spallFwd c + 1) % 2 ^ 64 ∧
          (tblGet LinId.reset (getLin s' l).ids (r.outId % 64)).buf =
            some (fitBytes m.payload (tblGet LinId.reset (getLin s l).ids (r.outId % 64)).len)))
  ∧ (∀ (s : State) (l : Fin 8) (i : Fin 64) (b : List Byte) (back : BitVec 32), (getLin s l).en = true → (getPhy s (16 + l)).mode = 1 →
    (tblGet LinId.reset (getLin s l).ids i).dir = 2 → tblWf 0 s.counters = true →
    let n := (tblGet LinId.reset (getLin s l).ids i).len
    let s1 := bump s .relayRxFrames (16 + l) 1
    (∀ good, good = false ∨ b.length ≠ n → exec (.linResponseReceive l i b good back) s = .next (bump s .linErr l 1)) ∧
    (b.length = n →
      (s.relay.spallOff = true ∨ (linRoute s l i = none ∧ s.screen.current.isSome = true) → exec (.linResponseReceive l i b true back) s = .next (
        relayIngress s1 (16 + l) ((0xC0 + l.val) * 2 ^ 56 + i.val) false (acfLin l i (relayStamp s back.toNat) b))) ∧
      (s.relay.spallOff = false → linRoute s l i = none → s.screen.current = none →
        exec (.linResponseReceive l i b true back) s = .next (bump s1 .spallMiss (16 + l) 1)) ∧
      (∀ (r : SpallRoute) (k : Nat), s.relay.spallOff = false → linRoute s l i = some r → k < 16 → bitOf r.canMask k = true →
        (getCan s k).bufs.length < 32 → (∀ y ∈ (getCan s k).bufs, s.localNs < y.2 + s.relay.txLife * 1000000) →
        ∃ s', exec (.linResponseReceive l i b true back) s = .next s' ∧
          (getCan s' k).bufs = (getCan s k).bufs ++ [(classicalFrame r.ide (if r.ide then r.outId else r.outId % 2048) b, s.localNs)] ∧
          getCtr s' .spallFwd (16 + l) = (getCtr s .spallFwd (16 + l) + 1) % 2 ^ 64)))

/-- R349, R350, R352, R353: the frame in service on node 57 is parsed at its end; a controller sends the buffered frame, of a format that it
sends, that would win arbitration, and drops those that outlive TX_LIFE_MS; error passive, bus-off and the recovery from it. The model's
readings and choices that it rests on: log entries 27, 114, 115, 117. -/
def Obligations.BusTransmit : Prop :=
  (∀ (s : State) (t : TxRec), (getPort s 57).tx = some t → exec .relayEgress s = .next (
      finishTx (relayParse (advance s (t.start + lineNs s 57 (txLineBytes t) - s.localNs)) t.bytes) 57 t))
  ∧ (∀ (s : State) (c : Fin 16), (getCan s c).en = true → (getCan s c).state ≠ 2 → (getPhy s c).mode = 1 → (getPhy s c).held = false →
    s.triad.safe = false → s.pair.busHeld = false → (∀ y ∈ (getCan s c).bufs, s.localNs < y.2 + s.relay.txLife * 1000000) →
    (∃ y ∈ (getCan s c).bufs, canFormat (getCan s c) y.1.fmt = true) → tblWf (classicalFrame false 0 []) s.relay.busOut = true →
    ∃ s' e, exec (.canTxComplete c) s = .next s' ∧ e ∈ (getCan s c).bufs ∧ canFormat (getCan s c) e.1.fmt = true ∧
      (∀ y ∈ (getCan s c).bufs, canFormat (getCan s c) y.1.fmt = true → arbitration e.1 ≤ arbitration y.1) ∧
      (getCan s' c).bufs = (getCan s c).bufs.erase e ∧ tblGet (classicalFrame false 0 []) s'.relay.busOut c = e.1 ∧
      s'.counters = (bump (if e.1.fmt = .xl ∧ (getPhy s c).fastEn = false then bump s .fastRefused c 1 else s) .relayTxFrames c 1).counters ∧
      (∀ j, j ≠ c.val → getCan s' j = getCan s j) ∧
      s' = { s with relay := { s.relay with can := s'.relay.can, busOut := s'.relay.busOut }, counters := s'.counters })
  ∧ (∀ (s : State) (c : Fin 16) (m : CanMsg) (t : Nat) (l : List (CanMsg × Nat)), (getCan s c).bufs = (m, t) :: l →
    let life := s.relay.txLife * 1000000
    let old (e : CanMsg × Nat) : Bool := decide (e.2 + life ≤ max s.localNs (t + life))
    exec (.canTxExpire c) s = .next (
      bump (setCan (advance s (t + life - s.localNs)) c { getCan s c with bufs := l.filter (fun e => !old e) }) .txExpired c (1 + (l.filter old).length)))
  ∧ (∀ (s : State) (c : Fin 16) (a b : Byte), (getCan s c).en = true → (getCan s c).state = 0 →
    exec (.canErrorPassive c a b) s = .next (postEvent (setCan s c { getCan s c with state := 1, tecCount := a.toNat, recCount := b.toNat }) 11
      [0x61 * 2 ^ 24 + 2 ^ 16 + 0x80 + c.val, s.bench.tickCount % 2 ^ 32, 0, 0]))
  ∧ (∀ (s : State) (c : Fin 16), (getCan s c).en = true → (getCan s c).state = 0 ∨ (getCan s c).state = 1 → ∃ v, v < 256 ∧
    exec (.canBusOff c) s = .next (postEvent (bump (setCan { s with freeIdx := s.freeIdx + 1 } c
      { getCan s c with state := 2, tecCount := v, recovering := (getCan s c).autoRecover }) .busOffs c 1) 11
      [0x61 * 2 ^ 24 + 2 * 2 ^ 16 + 0x80 + c.val, s.bench.tickCount % 2 ^ 32, 0, 0]))
  ∧ (∀ (s : State) (c : Fin 16), (getCan s c).state = 2 → (getCan s c).recovering = true →
    exec (.canBusOffRecovered c) s = .next (setCan s c { getCan s c with state := 0, tecCount := 0, recCount := 0, recovering := false }))

/-- R354 to R356: the slots of a LIN commander's schedule, the answers of a responder, and the Spall set, the section of that length and hash
in the accepted header, which takes the device to Limp-forward, or sets SPALL_BAD with every transceiver Off; DRAM training does not hold
it up. The model's readings and choices that it rests on: log entries 114, 117, 118. -/
def Obligations.LinAndSpall : Prop :=
  (∀ (s : State) (l : Fin 8), let x := getLin s l
    x.en = true → (getPhy s (16 + l)).commander = true → (getPhy s (16 + l)).mode = 1 → (getPhy s (16 + l)).held = false → x.slots ≠ [] →
    s.triad.safe = false → s.pair.busHeld = false →
    let k := if x.running then (x.slot + 1) % x.slots.length else 0
    let e := x.slots.getD k (0, 1)
    let now := if x.running then max s.localNs x.next else s.localNs
    ∃ s', exec (.linScheduleSlot l) s = .next s' ∧ s'.localNs = now ∧
      getLin s' l = { x with running := true, slot := k, next := now + e.2 * 1000000 } ∧
      (match (tblGet LinId.reset x.ids e.1).dir, (tblGet LinId.reset x.ids e.1).buf with
        | 1, some b => s'.relay.linOut = tblSet [] s.relay.linOut l b ∧ s'.counters = (bump s .relayTxFrames (16 + l) 1).counters
        | _, _ => s'.relay.linOut = s.relay.linOut ∧ s'.counters = s.counters))
  ∧ (∀ (s : State) (l : Fin 8) (i : Fin 64), let x := getLin s l
    x.en = true → (getPhy s (16 + l)).commander = false → (getPhy s (16 + l)).mode = 1 → (getPhy s (16 + l)).held = false →
    (tblGet LinId.reset x.ids i).dir = 1 → s.triad.safe = false → s.pair.busHeld = false →
    exec (.linHeaderReceive l i) s = .next (match (tblGet LinId.reset x.ids i).buf with
      | some b => bump { s with relay := { s.relay with linOut := tblSet [] s.relay.linOut l b } } .relayTxFrames (16 + l) 1
      | none => bump s .noResponse l 1))
  ∧ (∀ (s : State) (img : List Byte), s.gh.mode = .waking → s.gh.relStep = 0 ∨ s.gh.relStep = 5 → s.gh.asserted = 0 → s.vault.boot.spall = true →
    s.vault.boot.headerOk = true → s.relay.spallLoaded = false → s.relay.spallBad = false → s.triad.lockstepBroken = false →
    (∀ good, good = false ∨ spallRead s img = false ∨ spallOk img = false →
      exec (.spallLoad img good) s = .next { s with relay := { s.relay with spallBad := true }, face := { s.face with phys := [] } }) ∧
    (spallRead s img = true → spallOk img = true → ∃ s', exec (.spallLoad img true) s = .next s' ∧ s'.relay.spallLoaded = true ∧
      s'.gh = (if s'.relay.spallOff then s.gh else { s.gh with mode := .limp }) ∧ s' = { s with relay := s'.relay, face := s'.face, gh := s'.gh }))

/-- R365, R368, R369, R370, R371: the hash comparison leaves equal cores alone, excludes an odd one and counts LATENT; an unsound voter fails
its self-test, and a vote that its copies answer differently is cause 4; a core that misses the voting window is masked while three vote;
a reload gives the excluded core the registers of the first voting core and brings it back; after 64 boundaries REJOIN_FAIL is set. R363,
R419, R421, R436, R479: a scrub of the delay registers counts what it corrects and raises TRIAD_FAULT on what it cannot; the watchdog of a
coasting control domain restarts it, its cores at the Boot ROM, or at the TARGET of the booted image (log entry 152), and the escalation
of the safe output state is a reset source of reach 2. The model's readings and choices that it rests on: log entries 126, 127, 128. -/
def Obligations.TriadEvents : Prop :=
  (∀ s : State, deviceRuns s = true → s.triad.fault = false → s.triad.split = false → s.triad.lockstepBroken = false →
   (s.triad.excluded = 0#3 → s.triad.votedOut = none → hashSame (getCore s 0) (getCore s 1) = true →
     exec (.hashCompare .sound) s = .next { s with triad := (if hashSame (getCore s 1) (getCore s 2) then { s.triad with voter := .sound }
       else { s.triad with voter := .sound, excluded := 4#3, exclBounds := tblSet 0 s.triad.exclBounds 2 0
                           latentCount := min (s.triad.latentCount + 1) (2 ^ 32 - 1) }) })
   ∧ (∀ v : Voter, v.a ≠ 0#8 ∨ v.b ≠ 0#8 → exec (.hashCompare v) s = .next (triadFault { s with triad := { s.triad with voter := v } } 5))
   ∧ (s.triad.excluded = 0#3 → ∀ (i : Fin 3) (v : Voter),
       let s1 := { s with triad := { s.triad with voter := v } }
       exec (.voteWindowExpire i v) s = .next (if v.a.getLsbD 5 = v.b.getLsbD 5 then { s with triad := { s1.triad with
         excluded := 1#3 <<< i.val, exclBounds := tblSet 0 s.triad.exclBounds i 0, votedOut := .some i.val
         maskedCount := min (s.triad.maskedCount + 1) (2 ^ 32 - 1) } } else triadFault s1 4))
   ∧ (∀ (i j : Fin 3), s.triad.excluded = 1#3 <<< i.val → j ≠ i →
       exec (.voteWindowExpire j .sound) s = .next (triadFault { s with triad := { s.triad with voter := .sound } } 2))
   ∧ (∀ (i : Fin 3) (j : Nat), s.triad.excluded = 1#3 <<< i.val → s.triad.rejoinFail.getLsbD i = false → s.triad.reloading = false →
     0 < tblGet 0 s.triad.exclBounds i → isFrozen s 0x200 = false → j = (if i.val = 0 then 1 else 0) →
     (getCore s i).lmem = (getCore s j).lmem → s.cores.Pairwise (fun a b => a.1 < b.1) →
     ∃ s', exec (.coreReload i) s = .next s' ∧ getCore s' i = getCore s j ∧ (∀ k, k ≠ i.val → getCore s' k = getCore s k) ∧
       s'.triad = { s.triad with excluded := 0#3, exclBounds := tblSet 0 s.triad.exclBounds i 0, reloads := min (s.triad.reloads + 1) (2 ^ 32 - 1) } ∧
       s' = { s with cores := s'.cores, triad := s'.triad })
   ∧ (∀ i : Fin 3, s.triad.excluded.getLsbD i = true → 64 ≤ tblGet 0 s.triad.exclBounds i →
     exec (.rejoinFail i) s = .next { s with triad := { s.triad with rejoinFail := s.triad.rejoinFail ||| (1#3 <<< i.val) } }))
  ∧ ((∀ (s : State) (n : BitVec 32) (bad : Bool), deviceRuns s = true →
     let s1 := { s with triad := { s.triad with delayEccCorrected := min (s.triad.delayEccCorrected + n.toNat) (2 ^ 32 - 1) } }
     exec (.delayEccScrub n bad) s = .next (if bad then triadFault s1 6 else s1))
   ∧ (∀ s : State, deviceRuns s = true → s.gh.wdtEn = true → s.triad.coasting = true → s.gh.mode ≠ .maintenance →
     s.gh.restartTicks < s.fence.noTick → s.triad.voter = .sound → s.cores.Pairwise (fun a b => a.1 < b.1) →
     ∃ s', exec .ctrlWdt s = .next s' ∧
       (s.vault.boot.booted = false → ∀ k, k < 3 → getCore s' k = { SCore.reset k with startNs := s.localNs }) ∧
       (∀ i b, s.vault.boot.booted = true → bootSection s 1 = some (i, b) → ∀ k, k < 3 →
         (getCore s' k).pl = 2#2 ∧ (getCore s' k).pc = BitVec.ofNat 64 (2 ^ 63 + im64 s.vault.boot.header (0x50 + 0x60 * i))) ∧
       (∀ k, 3 ≤ k → getCore s' k = getCore s k) ∧ s'.triad.fault = false ∧ s'.triad.excluded = 0#3 ∧ s'.triad.safe = s.triad.safe ∧
       s'.triad.coasting = true ∧ s'.gate.group = none ∧ s'.fence.noTick = 0 ∧ isFrozen s' 0x200 = false ∧
       bitOf s'.gh.rstCause 18 = true ∧ s'.counters = (bump s .ctrlRestarts 0 1).counters ∧ s'.haul = s.haul ∧ s'.screen = s.screen ∧ s'.stock = s.stock)
   ∧ (∀ (s : State) (t : Nat), s.gh.safeAt = some t → s.triad.safe = true → s.gh.escalate = true → inReset s = false →
     exec .wdtEsc s = .next (raiseReset (advance s (t + 10000000 - s.localNs)) 14)))

/-- R384, R385, R389, R390, R395, R397, R401, R420: lanes, of which the loss of one asks again for the chunks that are due and have not come,
beats, lease messages, RESTART frames and recovery functions. R390, R397, R398, R400: the Lead sends its sealed chunks in order; the
Follow collects them, asks again for a broken one, and takes a whole delta as prepared, with the renewal answered by ACK, or lags where
its prepare fails; bulk chunks wait for the next boundary. The model's readings and choices that it rests on: log entries 29, 119, 122,
123, 188, 197. -/
def Obligations.PairLink : Prop :=
  ((∀ (s : State) (n : Fin 2), s.pair.en = true → deviceRuns s = true → s.gh.mode ≠ .waking → s.triad.safe = false → (tblGet Block.reset s.gh.blocks 15).power = true →
     exec (.pairLaneUp n) s = .next { s with pair := { s.pair with
       lane0 := s.pair.lane0 || decide (n = 0), lane1 := s.pair.lane1 || decide (n = 1), lostTick := none, peerGone := false } })
   ∧ (∀ s : State, s.pair.lane0 = true → s.pair.lane1 = true → s.pair.role ≠ .follow → s.pair.role ≠ .rejoin →
     exec (.pairLaneDown 0) s = .next { s with pair := { s.pair with lane0 := false } } ∧
     exec (.pairLaneDown 1) s = .next { s with pair := { s.pair with lane1 := false } })
   ∧ (∀ s : State, s.pair.lane0 = true → s.pair.lane1 = true → (s.pair.role = .follow ∨ s.pair.role = .rejoin) →
     let seen := s.pair.rxSeen.foldl (fun a i => max a (i + 1)) 0
     let whole := match s.pair.rx with | some r => r.ready || r.chunks.any (·.last) | none => false
     let lost := (List.range (if s.pair.peerRole = 1 ∧ whole = false then seen + 1 else seen)).filter (fun i => !s.pair.rxSeen.contains i && !s.pair.rxMiss.contains i)
     exec (.pairLaneDown 1) s = .next { s with pair := { s.pair with
       lane1 := false, laneLost := true, rxMiss := lost.foldl (fun l i => insertNat i l) s.pair.rxMiss
       sent := s.pair.sent ++ lost.map (fun i => { typ := 0x8, tick := s.bench.tickCount % 2 ^ 32, chunk := i }) } })
   ∧ (∀ s : State, s.pair.lane0 = true → s.pair.lane1 = false → s.pair.rx = none →
     exec (.pairLaneDown 0) s = .next { s with pair := { s.pair with
       lane0 := false, peerRole := 4, lostTick := some s.bench.tickCount, bulkTx := none
       peerGone := s.pair.role == .rejoin } })
   ∧ (∀ (s : State) (b : Beat), s.pair.lane0 = true → (s.pair.role = .active ∨ s.pair.role = .off) → s.pair.sync = false →
     exec (.beatReceive b) s = .next { s with pair := { s.pair with
       side := !b.side, peerRole := b.role, skew := b.skew.toNat, bulkTx := none, heir := if b.role.val = 0 then none else s.pair.heir
       sync := decide (b.tick.toNat = s.bench.tickCount) && decide (b.skew.toInt.natAbs ≤ 1000) && decide (b.leaseLen.val = s.pair.leaseLen)
         && (b.yieldOnLoss == s.pair.yieldOnLoss) && (b.takeOnExpiry == s.pair.takeOnExpiry) } })
   ∧ (∀ (s : State) (t : BitVec 32), s.pair.lane0 = true → s.pair.role = .lead →
     exec (.ackReceive t) s = .next { s with pair := { s.pair with lastAck := t.toNat, acked := true, heir := none } })
   ∧ (∀ (s : State) (t : BitVec 32), s.pair.lane0 = true → s.pair.role ≠ .lead → s.pair.sync = true → s.pair.reqTick ≠ some t.toNat →
     exec (.reqReceive t) s = .next { s with pair := { s.pair with sent := s.pair.sent ++ [{ typ := 0x5, tick := s.bench.tickCount % 2 ^ 32, chunk := 0 }] } })
   ∧ (∀ (s : State) (t : BitVec 32), s.pair.lane0 = true → s.pair.role = .lead → exec (.reqReceive t) s = .next s)
   ∧ (∀ (s : State) (t : BitVec 32), s.pair.lane0 = true → s.pair.reqTick = some t.toNat →
     exec (.grantReceive t) s = .next { s with pair := { s.pair with granted := true } })
   ∧ (∀ (s : State) (t : BitVec 32), s.pair.lane0 = true → s.pair.role = .follow →
     exec (.releaseReceive t) s = .next { s with pair := { s.pair with released := true } })
   ∧ (∀ (s : State) (n : Fin 2) (i : BitVec 16) (c : Chunk), s.pair.lane0 = true → s.pair.txSent.find? (fun c => decide (c.index = i.toNat)) = some c →
     exec (.nakReceive n i) s = .next (let s1 := bump s .naks n 1
       { s1 with pair := { s1.pair with txChunks := c :: s.pair.txChunks } }))
   ∧ (∀ s : State, s.pair.lane0 = true → s.triad.coasting = false → exec .restartFrameReceive s = .next (bump s .restartIgnored 0 1))
   ∧ (∀ s : State, s.pair.lane0 = true → s.triad.coasting = true → exec .restartFrameReceive s = .next (controlReset s 16))
   ∧ (∀ (s : State) (f : Fin 1024) (x : Recovery), tblGet none s.pair.recovery f = some x → x.resetTicks ≤ x.idle →
     exec (.recoveryFunctionReset f) s = .next (bump { s with pair := { s.pair with
       recovery := tblSet none s.pair.recovery f (some { x with last := none, seen := 0, idle := 0 }) } } .seqResets f 1)))
  ∧ ((∀ (s : State) (c : Chunk) (l : List Chunk), s.pair.lane0 = true → s.pair.txChunks = c :: l → (∀ x ∈ s.pair.txSent, x.sealed = none) →
     exec .deltaChunkSend s = .next { s with pair := { s.pair with
       txChunks := l, txSent := s.pair.txSent ++ [c], sent := s.pair.sent ++ [{ typ := 0x2, tick := s.bench.tickCount % 2 ^ 32, chunk := c.index }] } })
   ∧ (∀ (s : State) (n : Fin 2) (t : BitVec 32) (c : Chunk), s.pair.lane0 = true → s.pair.lane1 = true →
     (s.pair.role = .follow ∨ s.pair.role = .rejoin) → s.pair.lagDue = false →
     let seen := insertNat c.index s.pair.rxSeen
     let miss := s.pair.rxMiss.filter (· != c.index)
     (exec (.deltaReceive n t c false) s = .next (let s1 := bump s .frameCrcErr n 1
       { s1 with pair := { s1.pair with
         rxMiss := insertNat c.index s.pair.rxMiss, sent := s.pair.sent ++ [{ typ := 0x8, tick := s.bench.tickCount % 2 ^ 32, chunk := c.index }] } })) ∧
     (c.last = false → s.pair.rx = none → exec (.deltaReceive n t c true) s = .next { s with pair := { s.pair with
       rxSeen := seen, rxMiss := miss, rx := some { tick := t.toNat, chunks := [c], ready := false } } }) ∧
     (∀ x : Seal, c.last = true → c.index = 0 → c.sealed = some x → s.pair.rx = none → x.renew = true →
       let s1 : State := { s with pair := { s.pair with
         rxSeen := seen, rxMiss := miss, rx := some { tick := t.toNat, chunks := [c], ready := false }, deltaBytes := x.bytes % 2 ^ 20
         lastRenew := x.tick % 2 ^ 32, sent := s.pair.sent ++ [{ typ := 0x3, tick := s.bench.tickCount % 2 ^ 32, chunk := 0 }] } }
       exec (.deltaReceive n t c true) s = .next (if x.lag then lag s1 1 else match prepDelta s1 c.recs with
         | some s2 => { s2 with pair := { s2.pair with rx := some { tick := t.toNat, chunks := [c], ready := true } } }
         | none => lag s1 4)))
   ∧ (∀ (s : State) (n : Fin 2) (t : BitVec 32) (c : Chunk), s.pair.lane0 = true → s.pair.lane1 = true → s.pair.role = .rejoin →
     exec (.bulkReceive n t c true) s = .next (if c.index ∈ s.pair.rxSeen then s else { s with pair := { s.pair with
       bulkRx := s.pair.bulkRx ++ c.recs, bulkLast := s.pair.bulkLast || c.last
       rxSeen := insertNat c.index s.pair.rxSeen, rxMiss := s.pair.rxMiss.filter (· != c.index) } })))

/-- R301, R312, R313: a slew ends with exactly its offset added; a PPS input captures the selected edges of a running base, 100 ns apart, and
counts the others; a PPS output rises at its next instant and falls WIDTH_NS of local time later. The model's readings and choices that it
rests on: log entries 10, 110, 208. -/
def Obligations.TimeEdges : Prop :=
  (∀ (s : State) (n : Fin 4) (sl : Slew), (tbGet s.time n).running = true → (tbGet s.time n).slew = some sl →
    exec (.slewComplete n) s = .next (advance s sl.left)
    ∧ tbGet (advance s sl.left).time n = { tbGet s.time n with
        slew := none, value := ((tbGet s.time n).value + sl.left * (2 ^ 32 + (tbGet s.time n).rate) + (sl.left * sl.inc + sl.rem)) % (2 ^ 80 * 1000000000) })
  ∧ (∀ (s : State) (k : Fin 2) (v : Bool) (x : PpsIn), tblGet PpsIn.reset s.time.ppsIn k = x → x.level ≠ v → tblWf PpsIn.reset s.time.ppsIn = true →
    let y := { x with level := v }
    let chosen := x.en = true ∧ (x.edge = 2 ∨ x.edge = if v then 0 else 1)
    let early := ∃ t, x.lastCap = some t ∧ s.localNs < t + 100
    let run := (tbGet s.time x.tb).running = true
    ∃ s', exec (.ppsInEdge k v) s = .next s' ∧ s'.localNs = s.localNs ∧
      tblGet PpsIn.reset s'.time.ppsIn k = (if chosen ∧ ¬ early ∧ run then { y with lastCap := some s.localNs } else y) ∧
      (chosen → early → s'.counters = (bump s .ppsOverrun k 1).counters) ∧
      (chosen → ¬ early → ¬ run → s'.counters = (bump s .ppsNoBase k 1).counters) ∧
      (¬ chosen → s' = { s with time := s'.time }) ∧
      (chosen → ¬ early → run → s' = postEvent (bump { s with time := s'.time } .ppsCaptures k 1) 10 (ppsPayload (tbGet s.time x.tb) k x.tb (!v))))
  ∧ (∀ (s : State) (k : Fin 4) (x : PpsOut) (e n : Nat), getPpsOut s k = x → x.next = some e → x.en = true → (tbGet s.time x.tb).running = true →
    cyclesTo (tbGet s.time x.tb) (e * 2 ^ 32) = some n →
    ∃ s', exec (.ppsOutEdge k) s = .next s' ∧ s'.localNs = s.localNs + n ∧ (getPpsOut s' k).next = some (e + x.period) ∧
      (s.triad.safe = false → (getPpsOut s' k).level = true ∧
        (x.fallAt = none → (getPpsOut s' k).fallAt = some (s.localNs + n + x.width))) ∧
      (s.triad.safe = true → (getPpsOut s' k).level = x.level ∧ (getPpsOut s' k).fallAt = x.fallAt) ∧
      (∀ j : Fin 4, j ≠ k → getPpsOut s' j = getPpsOut s j))
  ∧ (∀ (s : State) (k : Fin 4) (x : PpsOut) (t : Nat), getPpsOut s k = x → x.fallAt = some t → s.localNs ≤ t →
    ∃ s', exec (.ppsOutFall k) s = .next s' ∧ s'.localNs = t ∧
      (getPpsOut s' k) = { x with level := false, fallAt := none, lastFall := some t } ∧ (∀ j : Fin 4, j ≠ k → getPpsOut s' j = getPpsOut s j))

/-- R19, R29, R30, R34, R40, R492, R494: the next boundary comes at the next multiple of P in T0, raises the tick count by one, publishes the
snapshot of that instant in the half of its parity with the tick's event records, those of one T0 time posted by rotating subsystem order
(log entry 216), moves the rotating starts, raises WB_READY on the Tally cores and TICK on the Triad. R31, R454: no boundary comes while
the time unit generates none. R16, R17: while the target of every commit that waits lies beyond the next boundary, that boundary does what
it does without them, and they wait on. R16, R17, R33, R167, R172, R183, R186, R262, R270, R276, R278, R318, R321: a commit that has
reached its target applies in full at the boundary and leaves the Commit Gate: SHAPER, GATELIST (pending until its takeover), QUEUE_MAP,
PORT_CFG, the tags of ENTRIES, TABLE_DEF, ROUTES, and TICK with its period and its count. The model's readings and choices that it rests
on: log entries 9, 10, 35, 38, 176, 216. -/
def Obligations.TickBoundary : Prop :=
  (∀ (s : State) (n m : Nat), boundaryDue s = some (n, m) → PlainBoundary s → s.pair.en = false → s.triad.coasting = false →
     s.triad.tickProg ≠ .raised → s.triad.tickProg ≠ .entered → s.triad.fault = false → isFrozen s 0x200 = false →
     ∃ s' x, exec .benchTickBoundary s = .next s' ∧ s'.localNs = s.localNs + n ∧ s'.bench.tickCount = (s.bench.tickCount + 1) % 2 ^ 64 ∧
       s'.bench.startNs = m ∧ s'.bench.startLocal = s.localNs + n ∧ s'.bench.wbPublished = s'.bench.tickCount % 2 ^ 32 ∧
       tblGet none s'.wb (s'.bench.tickCount % 2) = some x ∧ x.tick = s'.bench.tickCount ∧ x.period = s.bench.period ∧
       x.recs.map (·.seq) = s.events.recs.map (·.seq) ∧
       (x.recs.map (fun r => { r with seq := 0 })).Perm (s.events.recs.map fun r => { r with seq := 0 }) ∧
       (∀ a r q b, x.recs = a ++ r :: q :: b → r.time = q.time → r.turn = q.turn → (r.sub + 17 - r.turn) % 18 ≤ (q.sub + 17 - q.turn) % 18) ∧
       x.lost = s.events.lost ∧ (∀ h, h ≠ s'.bench.tickCount % 2 → tblGet none s'.wb h = tblGet none s.wb h) ∧
       s'.events.recs = [] ∧ s'.events.lost = 0 ∧ s'.events.nextSeq = s.events.nextSeq ∧
       (∀ u < 64, tblGet 0 s'.engine.prio u = s'.bench.tickCount % 8 ∧ tblGet 0 s'.stock.gp u = s'.bench.tickCount % 20) ∧
       (∀ k < 3, getCore s' k = { getCore s k with latched := (getCore s k).latched ||| 2#8 }) ∧
       (∀ k, 3 ≤ k → k < 7 → getCore s' k = { getCore s k with
         latched := (getCore s k).latched ||| 0x40#8, wbTick := s'.bench.tickCount % 2 ^ 32 }) ∧
       s'.triad.tickProg = .raised ∧ s'.fence.noTick = s.fence.noTick ∧
       (∀ i, tblGet 0 s'.host.msix i = tblGet 0 s.host.msix i + (if i = 0 ∨ i = 1 ∧ s.events.recs ≠ [] then 1 else 0)))
  ∧ (∀ s : State, s.bench.running = false → exec .benchTickBoundary s = .next s)
  ∧ (∀ (s : State) (n : Nat), AtBoundary s n → s.screen.deferred = none → s.engine.armed = none →
     (∀ c ∈ s.gate.committed, (s.bench.tickCount + 1) % 2 ^ 64 < c.target) →
     ∃ x y, exec .benchTickBoundary s = .next x ∧
       exec .benchTickBoundary { s with gate := { s.gate with committed := [] } } = .next y ∧
       x = { y with gate := { y.gate with committed := s.gate.committed } })
  ∧ (∀ (s : State) (n : Nat) (c : Commit) (o : Obj), Applies s n c [o] → s.screen.deferred = none → s.engine.armed = none → o.sub ≠ 16 →
   ∃ s', exec .benchTickBoundary s = .next s' ∧ s'.gate.committed = [] ∧ s'.localNs = s.localNs + n
     ∧ (setsCount [o] = none → s'.bench.tickCount = (s.bench.tickCount + 1) % 2 ^ 64)
     ∧ (o.sub = 9 → o.typ = 16 → tblWf Shaper.absent s.haul.shapers = true → ∀ level i, getShaper s' level i =
         if 2 ^ 20 * level + i = 2 ^ 20 * bits o.arg 21 20 + bits o.arg 18 0 then
           { cir := im32 o.img 0 % 2 ^ 26, pir := im32 o.img 4 % 2 ^ 26, cbs := im32 o.img 8 % 2 ^ 24, pbs := im32 o.img 12 % 2 ^ 24
             ct := if bitOf o.arg 32 then ((im32 o.img 8 % 2 ^ 24 * 65536 : Nat) : Int) else 0
             pt := if bitOf o.arg 32 then ((im32 o.img 12 % 2 ^ 24 * 65536 : Nat) : Int) else 0
             cRem := 0, pRem := 0, cu := s.localNs + n, pu := s.localNs + n }
         else getShaper s level i)
     ∧ (o.sub = 9 → o.typ = 17 → ∃ st, getGates s' (o.arg % 64) =
         { getGates s (o.arg % 64) with pending := some (gateListOf o.img (o.arg / 64), st) })
     ∧ (o.sub = 9 → o.typ = 17 → ∀ m, m ≠ o.arg % 64 → getGates s' m = getGates s m)
     ∧ (o.sub = 9 → o.typ = 1 → tblWf QueueRec.reset s.haul.queues = true → ∀ i < im32 o.img 4,
         let a := im32 o.img (8 + 8 * i)
         let x := getQueue s' (im32 o.img 0 % 2 ^ 19 + i)
         x.attached = bitOf a 31 ∧ x.cls = bits a 30 28 ∧ x.tc = bits a 27 25 ∧ x.parent = a % 2 ^ 16 ∧
         x.weight = im32 o.img (12 + 8 * i) % 2 ^ 12)
     ∧ (o.sub = 9 → o.typ = 1 → ∀ q, (∀ i < im32 o.img 4, q ≠ im32 o.img 0 % 2 ^ 19 + i) →
         let x := getQueue s' q
         let y := getQueue s q
         x.attached = y.attached ∧ x.cls = y.cls ∧ x.tc = y.tc ∧ x.parent = y.parent ∧ x.weight = y.weight)
     ∧ (o.sub = 1 → o.typ = 1 → im32 o.img 0 = 1 → s.face.ports.Pairwise (fun a b => a.1 < b.1) →
         let w := im32 o.img 4
         let v := im32 o.img 8
         let y := getFp s' (bits w 31 26)
         y.enable = bitOf w 25 ∧ y.autoneg = bitOf w 24 ∧ y.speedCfg = bits w 23 20 ∧ y.roleCfg = bits w 19 18 ∧ y.eee = bitOf w 17 ∧
         y.tc10En = bitOf w 16 ∧ y.upHold = bits w 15 8 ∧ y.fecCfg = bits w 7 5 ∧ y.medium = bitOf w 4 ∧ y.loopback = bits v 31 30 ∧
         y.acceptSleep = bitOf v 29 ∧ y.wakeFwd = bitOf v 28 ∧ (bitOf w 25 = false → y.link = false))
     ∧ (∀ (k : Nat) (x : LSlot), tblGet TagState.free s.lookup.tags k = .prepared c.num → x.ctag = k → x.used = true → x.vis = true →
         tblGet TagState.free s'.lookup.tags k = .applied ∧
         (x.tag = 1 → slotVisible s x = false ∧ slotVisible s' x = true ∧ slotData s' x = x.data) ∧
         (x.tag = 2 → slotVisible s x = true ∧ slotVisible s' x = false) ∧
         (x.tag = 3 → slotData s x = x.data ∧ slotVisible s' x = true ∧ slotData s' x = x.pdata))
     ∧ (o.sub = 5 → o.typ = 1 → tblWf none s.lookup.tables = true → ∀ t, (getTable s' t).map (·.defn) =
         if t ≠ im8 o.img 0 then (getTable s t).map (·.defn) else if bitOf (im32 o.img 0) 31 then some (tableDefOf o.img) else none)
     ∧ (o.sub = 5 → o.typ = 4 → ∀ d, tblGet none s'.lookup.domains d =
         if d ≠ im8 o.img 0 then tblGet none s.lookup.domains d
         else (tblGet none s.lookup.domains d).map fun x =>
           { x with routes := (routeRecords o.img).foldl (fun l e => routePut l e.1 e.2) x.routes })
     ∧ (o.sub = 10 → o.typ = 5 →
         s'.bench.period = (if bitOf (im32 o.img 0) 31 then im32 o.img 0 % 2 ^ 11 else s.bench.period) ∧
         s'.bench.disturbed = (bitOf (im32 o.img 0) 31 && im32 o.img 0 % 2 ^ 11 != s.bench.period) ∧
         (bitOf (im32 o.img 0) 30 = true → s'.bench.tickCount = im64 o.img 8 ∧
           ∃ x, tblGet none s'.wb (im64 o.img 8 % 2) = some x ∧ x.tick = im64 o.img 8 ∧ x.period = s.bench.period)))

/-- R40, R373, R374: a tick program that is unfinished at the boundary freezes the Triad and starts coasting; the boundary of the coast limit
enters the safe output state. R389, R390, R391: at the boundary where the lease has run out the Follow takes it if TAKE_ON_EXPIRY and SYNC
are set, else turns Active; a Lead without an ACK for LEASE - 1 boundaries, counted from its RELEASE until its first ACK, yields with LOST
set; a TAKE without a GRANT ends. R33, R37, R112, R123, R124, R150, R152: an EPOCH object makes its rule set current and the one in force
the older epoch, which stays or retires with its scrub; the armed bank comes into service; a change of P at the same boundary defers
either by one boundary; the old bank is emptied and free once no packet is in flight under it. R390, R397, R398: the Lead seals the
changes of the tick and the generation counters that moved in the chunks of its delta, or, where they exceed D_MAX, sets LAG in a seal of
no record; the Follow applies a delta that is complete, whose entries become visible with its tag, and a Follow whose Lead's delta is not
complete, or has not come at all, turns lagging and enters Rejoin (log entry 188). The model's readings and choices that it rests on: log
entries 28, 29, 30, 35, 36, 39, 128, 188, 189. -/
def Obligations.BoundaryEvents : Prop :=
  (∀ (s : State) (n m : Nat), boundaryDue s = some (n, m) → PlainBoundary s → s.pair.en = false →
   (s.triad.tickProg = .raised ∨ s.triad.tickProg = .entered → s.triad.fault = false → isFrozen s 0x200 = false → s.triad.coasting = false →
     ∃ s', exec .triadTickOverrun s = .next s' ∧ s'.bench.tickCount = (s.bench.tickCount + 1) % 2 ^ 64 ∧ s'.localNs = s.localNs + n ∧
       isFrozen s' 0x200 = true ∧ s'.triad.coasting = true ∧ s'.triad.coastCause = 2 ∧ s'.fence.noTick = s.fence.noTick + 1 ∧
       (∀ k < 3, (getCore s' k).latched = (getCore s k).latched))
   ∧ (s.triad.coasting = true → s.triad.safe = false → s.triad.coastBounds + 1 = s.triad.limit →
     ∃ s', exec .coastLimitReached s = .next s' ∧ s'.bench.tickCount = (s.bench.tickCount + 1) % 2 ^ 64 ∧ s'.localNs = s.localNs + n ∧
       s'.triad.safe = true ∧ s'.triad.coasting = true ∧ s'.gh.safeAt = some (s.localNs + n)))
  ∧ (∀ (s : State) (n m : Nat), boundaryDue s = some (n, m) → PlainBoundary s → s.pair.en = true → s.pair.orders = [] → s.triad.coasting = false →
     s.triad.tickProg = .none →
     let k := (s.bench.tickCount + 1) % 2 ^ 64 % 2 ^ 32
   (s.pair.role = .follow → s.pair.released = false → s.pair.lagDue = false → tickGap k s.pair.lastRenew ≥ s.pair.leaseLen →
     ∃ s', exec .leaseExpiry s = .next s' ∧ s'.localNs = s.localNs + n ∧ s'.bench.tickCount = (s.bench.tickCount + 1) % 2 ^ 64 ∧
       s'.pair.role = (if s.pair.takeOnExpiry = true ∧ s.pair.sync = true then .lead else .active))
   ∧ (s.pair.role = .lead → s.pair.yieldOnLoss = true → (s.pair.acked = true ∨ s.pair.heir.isSome = true) →
     tickGap k (s.pair.heir.getD s.pair.lastAck) ≥ (s.pair.leaseLen : Int) - 1 →
     ∃ s', exec .leadYield s = .next s' ∧ s'.localNs = s.localNs + n ∧ s'.bench.tickCount = (s.bench.tickCount + 1) % 2 ^ 64 ∧
       s'.pair.role = .active ∧ s'.pair.lost = true)
   ∧ (s.pair.role = .active → s.pair.reqTick.isSome = true → s.pair.granted = false → s.pair.joinPending = false →
     ∃ s', exec .takeTimeout s = .next s' ∧ s'.localNs = s.localNs + n ∧ s'.bench.tickCount = (s.bench.tickCount + 1) % 2 ^ 64 ∧
       s'.pair.role = .active ∧ s'.pair.reqTick = none))
  ∧ ((∀ (s : State) (n : Nat) (c : Commit) (o : Obj), Applies s n c [o] → s.screen.deferred = none → o.sub = 3 → o.typ = 17 → s.engine.armed = none →
     ∃ s', exec .benchTickBoundary s = .next s' ∧ s'.screen.current = some { num := s.screen.nextEpoch, img := memPut [] 0 o.img } ∧
       s'.screen.deferred = none ∧ s'.screen.nextEpoch = (if s.screen.nextEpoch = 255 then 1 else s.screen.nextEpoch + 1) ∧
       (s'.screen.older = s.screen.current ∨ ∃ r, s.screen.current = some r ∧ s'.screen.older = none ∧ r.num ∈ s'.berm.scrub))
   ∧ (∀ (s : State) (n : Nat) (c : Commit) (o t : Obj), Applies s n c [t, o] → s.screen.deferred = none → t.sub = 10 → t.typ = 5 →
     bitOf (im32 t.img 0) 31 = true → im32 t.img 0 % 2 ^ 11 ≠ s.bench.period →
     (o.sub = 3 → o.typ = 17 → s.engine.armed = none →
       ∃ s', exec .benchTickBoundary s = .next s' ∧ s'.screen.current = s.screen.current ∧ s'.bench.period = im32 t.img 0 % 2 ^ 11 ∧
         s'.screen.deferred = some { num := s.screen.nextEpoch, img := memPut [] 0 o.img })
     ∧ (o.sub = 4 → o.typ = 16 → ∀ b, s.engine.armed = some b →
       ∃ s', exec .benchTickBoundary s = .next s' ∧ s'.engine.service = s.engine.service ∧ s'.engine.armed = some b ∧
         s'.engine.deferred = true ∧ s'.engine.switchDeferred = true ∧ s'.bench.period = im32 t.img 0 % 2 ^ 11))
   ∧ (∀ (s : State) (n : Nat) (r : RuleSet), AtBoundary s n → s.gate.committed = [] → s.engine.armed = none → s.screen.deferred = some r →
     ∃ s', exec .benchTickBoundary s = .next s' ∧ s'.screen.current = some r ∧ s'.screen.deferred = none)
   ∧ (∀ (s : State) (n : Nat) (b : Bool), AtBoundary s n → s.screen.deferred = none → s.engine.armed = some b → (getBank s b).free = true →
     (s.gate.committed = [] ∧ s.engine.deferred = true ∨ ∃ c o, Applies s n c [o] ∧ o.sub = 4 ∧ o.typ = 16) →
     ∃ s', exec .benchTickBoundary s = .next s' ∧ s'.engine.service = some b ∧ s'.engine.armed = none ∧ s'.engine.deferred = false ∧
       getBank s' b = { getBank s b with free := false } ∧
       (s.engine.service = some (!b) → getBank s' (!b) = { getBank s (!b) with free := false }))
   ∧ (∀ (s : State) (n : Nat) (b : Bool), AtBoundary s n → s.gate.committed = [] → s.screen.deferred = none → s.engine.armed = none →
     s.engine.service = some b → (getBank s (!b)).free = false →
     ∃ s', exec .benchTickBoundary s = .next s' ∧ s'.engine.service = some b ∧ getBank s' b = getBank s b ∧
       getBank s' (!b) = if inFlight s (!b) = 0 then ProgBank.reset else getBank s (!b)))
  ∧ (∀ (s : State) (n m : Nat), boundaryDue s = some (n, m) →
     PlainBoundary { calmed s with pair := { s.pair with rx := none, rxMiss := [], lane0 := false, lane1 := false } } →
     s.gate.committed = [] → s.screen.deferred = none → s.engine.armed = none → s.pair.en = true → s.pair.orders = [] → s.pair.reqTick = none →
     s.triad.coasting = false → s.triad.tickProg = .none → tblWf 0 s.counters = true →
   let k := (s.bench.tickCount + 1) % 2 ^ 64
   let gens := (List.range 1024).filter fun f => tblGet 0 s.pair.genCtr f != tblGet 0 s.pair.genSealed f
   let l := sealRecords s.pair.changes ++ gens.map fun f => .gen f (tblGet 0 s.pair.genCtr f)
   let big := decide (deltaSize l > deltaMax s)
   (s.pair.role = .lead → s.pair.yieldOnLoss = false → pairUp s = true → s.pair.rx = none → s.pair.rxMiss = [] →
     ∃ s', exec .benchTickBoundary s = .next s' ∧ s'.pair.role = .lead ∧ s'.pair.changes = [] ∧ s'.pair.genSealed = s.pair.genCtr ∧
       s'.pair.lastRenew = k % 2 ^ 32 ∧
       s'.pair.txChunks = sealChunks l { tick := k, renew := true, lag := big, records := l.length, bytes := deltaSize l, check := deltaCheck l } ∧
       getCtr s' .deltasSent 0 = if big then getCtr s .deltasSent 0 else (getCtr s .deltasSent 0 + 1) % 2 ^ 64)
   ∧ (s.pair.role = .follow → s.pair.lagDue = false → ∀ r, s.pair.rx = some r → r.ready = true → (deltaRecords r.chunks).all isEntryRec = true →
     ∃ s', exec .benchTickBoundary s = .next s' ∧ s'.pair.rx = none ∧
       (∀ g, tblGet TagState.free s.lookup.tags g = .prepared 65536 → tblGet TagState.free s'.lookup.tags g = .applied) ∧
       getCtr s' .deltasApplied 0 = (getCtr s .deltasApplied 0 + 1) % 2 ^ 64)
   ∧ (s.pair.role = .follow → s.pair.lagDue = false → s.pair.released = false → pairUp s = true →
     (s.pair.rx = none ∧ (s.pair.peerRole = 1 ∨ s.pair.peerRole = 4) ∨ ∃ r, s.pair.rx = some r ∧ r.ready = false) →
     ∃ s', exec .benchTickBoundary s = .next s' ∧ s'.pair.role = .rejoin ∧ s'.pair.rx = none ∧
       getCtr s' .lagEvents 0 = (getCtr s .lagEvents 0 + 1) % 2 ^ 64))

/-- R408, R415, R483, R484: the host link comes up after option loading; withheld credits set HOST_STALL, count the episode and take node 56
down, returned ones clear it; a function-level reset is a plane reset of the management domain; a frozen host's reads complete with
Completer Abort. The model's readings and choices that it rests on: log entries 132, 160, 199, 212, 214. -/
def Obligations.HostLink : Prop :=
  (∀ (s : State) (w : Fin 3) (g : Fin 4), deviceRuns s = true → s.host.linkUp = false →
    exec (.pcieLinkUp w g) s = .next { s with host := { s.host with linkUp := true, width := 2 ^ w.val, gen := g.val + 1 } })
  ∧ (∀ s : State, deviceRuns s = true → s.host.linkUp = true → s.fence.hostStall = false →
    ∀ posted nonPosted : Bool, posted = true ∨ nonPosted = true →
    exec (.hostCreditStall posted nonPosted) s = .next (hostNodeDown (bump (postEvent { s with
      fence := { s.fence with hostStall := true, stallSince := s.localNs } } 17
      [0xA0 * 2 ^ 24 + (if nonPosted then 2 else 0) + (if posted then 1 else 0), s.bench.tickCount % 2 ^ 32, 0, 0]) .hostStalls 0 1)))
  ∧ (∀ s : State, deviceRuns s = true → s.fence.hostStall = true →
    exec .hostCreditRecover s = .next (holdUpdateAll (postEvent { s with fence := { s.fence with hostStall := false } } 17
      [0xA1 * 2 ^ 24, s.bench.tickCount % 2 ^ 32, min ((s.localNs - s.fence.stallSince) / 1000) (2 ^ 32 - 1), 0])))
  ∧ (∀ s : State, deviceRuns s = true → s.host.linkUp = true → s.vault.boot.booted = false →
    s.cores.Pairwise (fun a b => a.1 < b.1) → ∃ s', exec .functionLevelReset s = .next s' ∧ s'.gh = { s.gh with reach := 1 } ∧ s'.host.linkUp = true ∧ s'.host.xspiOwner = 0x3FF ∧
      s'.host.pairs = [] ∧ s'.host.rings = [] ∧ (∀ k, 3 ≤ k → k < 7 → getCore s' k = { SCore.reset k with startNs := s.localNs }) ∧
      (∀ k, k < 3 → getCore s' k = getCore s k) ∧ (∀ m, isFrozen s' m = (isFrozen s m && !(decide (0x210 ≤ m) && decide (m ≤ 0x23F)))) ∧
      s'.engine = s.engine ∧ s'.stock = s.stock ∧ s'.haul = s.haul ∧ s'.triad = s.triad)
  ∧ (∀ s : State, deviceRuns s = true → s.host.linkUp = true → isFrozen s 0x220 = true →
    let t := { s with host := { s.host with completerAbort := true } }
    exec (.tickCountLoRead .host) s = .next t ∧ exec (.trngRead .host) s = .next t ∧ ∀ n : Fin 4, exec (.tbnNsRead .host n) s = .next t)

/-- R487 to R489: EN starts a pair with its indices at zero or stops it; a TAIL is taken modulo the ring with the entries behind it; a WB_COPY
entry copies a range of the counter store, or ends STALE where a publication overtook it; the bytes that a FRAME entry finds at its ADDR
enter Screen as a frame of node 56 in cells taken one by one (log entry 154). The model's readings and choices that it rests on: log
entries 154, 155, 156, 167. -/
def Obligations.HostQueues : Prop :=
  (∀ (s : State) (q : Fin 64) (g r t : Fin 32), readerRuns s .host = true → (getPair s q).en = false → g.val < 31 →
    6 ≤ r.val → r.val ≤ 16 → 6 ≤ t.val → t.val ≤ 16 → exec (.queuePairEnable q g r t) s = .next (setPair' s q { getPair s q with
      en := true, stopped := false, group := g, rxSize := r, txSize := t, rxTail := 0, rxHead := 0, txTail := 0, txHead := 0,
      puntDrop := 0, puntTooLong := 0 }))
  ∧ (∀ (s : State) (q : Fin 64) (g r t : Fin 32), readerRuns s .host = true → (getPair s q).en = true →
    exec (.queuePairEnable q g r t) s = .next s
    ∧ exec (.queuePairDisable q) s = .next (setPair' s q { getPair s q with en := false, stopped := true }))
  ∧ (∀ (s : State) (q : Fin 64) (v : BitVec 16), readerRuns s .host = true →
    exec (.rxTailWrite q v []) s = .next (setPair' s q { getPair s q with rxTail := v.toNat % 2 ^ (getPair s q).rxSize })
    ∧ exec (.txTailWrite q v []) s = .next (setPair' s q { getPair s q with txTail := v.toNat % 2 ^ (getPair s q).txSize }))
  ∧ (∀ (s : State) (q : Fin 64) (v : BitVec 16) (l : List Byte), readerRuns s .host = true → memWf s.host.hostMem = true →
    (l.length = 64 → ∃ s', exec (.rxTailWrite q v l) s = .next s' ∧ s'.host.pairs = (setPair' s q { getPair s q with rxTail := v.toNat % 2 ^ (getPair s q).rxSize }).host.pairs ∧
      ∀ i < 64, memGet s'.host.hostMem ((getPair s q).rxBase + 64 * ((getPair s q).rxTail % 2 ^ (getPair s q).rxSize) + i) = l.getD i 0#8)
    ∧ (l.length = 32 → ∃ s', exec (.txTailWrite q v l) s = .next s' ∧ s'.host.pairs = (setPair' s q { getPair s q with txTail := v.toNat % 2 ^ (getPair s q).txSize }).host.pairs ∧
      ∀ i < 32, memGet s'.host.hostMem ((getPair s q).txBase + 32 * ((getPair s q).txTail % 2 ^ (getPair s q).txSize) + i) = l.getD i 0#8))
  ∧ (∀ (s : State) (q : Fin 64) (x : QPair) (n o : Nat), let e := txEntry s x
    getPair s q = x → deviceRuns s = true → s.host.linkUp = true → s.fence.hostStall = false → x.en = true → x.stopped = false →
    isFrozen s (0x221 + x.group) = false → x.txHead ≠ x.txTail → n = im32 e 8 % 2 ^ 23 → o = im32 e 0x10 →
    (im32 e 8 / 2 ^ 30 = 1 → 8 ≤ n → n ≤ 4194304 → n % 8 = 0 → o % 8 = 0 → o + n ≤ 2 ^ 28 →
      exec (.wbCopyEntry q false) s = .next (completeTx (hostWrite s (im64 e 0) (wbBytes s o n)) q 0) ∧
      (o / 2 ^ 27 = (o + n - 1) / 2 ^ 27 → ∃ v, exec (.wbCopyEntry q true) s = .next (
        completeTx (hostWrite { s with freeIdx := s.freeIdx + 1 } (im64 e 0) (leBytes n v)) q stSTALE)))
    ∧ (im32 e 8 / 2 ^ 30 = 1 → 2 ^ 28 < o + n → ∃ s', exec (.wbCopyEntry q false) s = .next s' ∧ isFrozen s' (0x221 + x.group) = true ∧
      s'.host = (completeTx s q stDENIED).host)
    ∧ ∀ (b : List Byte) (s2 s3 : State) (cells : List Nat) (d : Nat), let s1 := hostWrite s (im64 e 0) (b.take n)
      let f := withFcs (memBytes s1.host.hostMem (im64 e 0) n)
      let first := cells.headD 0
      im32 e 8 / 2 ^ 30 = 0 → 64 ≤ n → n ≤ 16383 →
      takeCells (poolOf s1 56 (ingressClass s1 56 f)) (cellsFor f.length) s1 = (s2, some cells) → takeDesc s2 = some (d, s3) →
      ∃ a, exec (.txFrameEntry q b) s = .next (screenFrame (completeTx (cells.foldl (writeCell 56) (setChain s3 first (some {
          cells := cells, hold := 1, owner := 0x400, pending := false, data := memPut [] 0 f }))) q 0) a) ∧
        a.src = 56 ∧ a.bytes = f ∧ a.desc = d ∧ a.bad = false ∧ a.ident = beNat (imgBytes f 6 6) ∧
        a.req = if bitOf (im32 e 8) 29 then some (im32 e 8 / 2 ^ 27 % 4, im16 e 0x0E) else none)

/-- R496 to R498: a ring's sender appends a message of 4 to 252 bytes with its ID, LEN and SEQ, or FULL into a full ring; its receiver drops
the head; ADDR answers a bad LEN, an empty ring and other masters. The model's readings and choices that it rests on: log entries 157,
166. -/
def Obligations.Mailboxes : Prop :=
  ∀ (s : State) (who : Reader) (r : Fin 16) (a b : Nat), readerRuns s who = true → ringEnds r = some (a, b) → a ≠ b →
    (readerVoted s who = true → s.triad.voter = .sound) →
  (∀ n : Byte, readerMaster who = a → 4 ≤ n.toNat → n.toNat ≤ 252 → (getRing s r).sends < 64 → (getRing s r).msgs.length < 16 →
    ∃ s', exec (.mailboxSend who r n) s = .next s' ∧
      (getRing s' r).msgs = (getRing s r).msgs ++ [MailMsg.mk (a * 2 ^ 22 + n.toNat * 256 + (getRing s r).seq)
        (memBytes (getRing s r).staging 0 n.toNat)] ∧
      (getRing s' r).seq = ((getRing s r).seq + 1) % 256 ∧ (getRing s' r).result = 0 ∧
      (∀ j, j ≠ r.val → getRing s' j = getRing s j) ∧ s' = { s with host := { s.host with rings := s'.host.rings, msix := s'.host.msix } } ∧
      (∀ v, tblGet 0 s'.host.msix v = tblGet 0 s.host.msix v + (if r.val = 12 ∧ v = 2 then 1 else 0)))
  ∧ (∀ n : Byte, readerMaster who = a → 4 ≤ n.toNat → n.toNat ≤ 252 → (getRing s r).sends < 64 → 16 ≤ (getRing s r).msgs.length →
    exec (.mailboxSend who r n) s = .next (setRing s r { getRing s r with
      sends := (getRing s r).sends + 1, len := n.toNat, result := stFULL }))
  ∧ (∀ n : Byte, readerMaster who = a → 4 ≤ n.toNat → n.toNat ≤ 252 → 64 ≤ (getRing s r).sends →
    exec (.mailboxSend who r n) s = .next (readerFault s who vBUDGET r))
  ∧ (∀ (x : MailMsg) (l : List MailMsg), readerMaster who = b → (getRing s r).msgs = x :: l →
    exec (.mailboxPop who r) s = .next (setRing s r { getRing s r with msgs := l }))
  ∧ (∀ n : Byte, readerMaster who = a → n.toNat < 4 ∨ 252 < n.toNat → exec (.mailboxSend who r n) s = .next (readerFault s who vADDR r))
  ∧ (readerMaster who = b → (getRing s r).msgs = [] → exec (.mailboxPop who r) s = .next (readerFault s who vADDR r))
  ∧ (∀ n : Byte, readerMaster who ≠ a → readerMaster who ≠ b →
    exec (.mailboxSend who r n) s = .next (readerFault s who vADDR r) ∧ exec (.mailboxPop who r) s = .next (readerFault s who vADDR r))

/-- R28, R296, R475, R490, R496: TICK_COUNT_LO and TBn_NS return their value and fill the reader's own latches only; TRNG returns a fresh word
to a core at Vault level, or zero while the TRNG has failed, and a core below that level takes ACCESS; EVQ_ACK and TP_HEAD take the value
written; RST_CAUSE and WAKE_SRC clear where ones are written. R8, R24, R58, R366, R378, R379, R484: a write of a reader outside an
instruction reaches the register map under the Fence; BAR0 answers what it does not accept with Unsupported Request; a core's write first
meets the traps of that core's own level. R8, R9, R24, R26, R381, R442, R456, R464, R475, R482, R499, R500, R505: what Table 1.5 does not
open to a master is refused and freezes it; a register that may be written reads back what was written, within its fields (a REMASK_MS
outside 1 to 100 is 10, log entry 146); a read-only offset ignores a write; and a read changes nothing but the latches of its reader and
the values drawn. The model's readings and choices that it rests on: log entries 32, 33, 146, 151, 162, 218, 220. -/
def Obligations.RegisterAccess : Prop :=
  (∀ (s : State) (who : Reader), readerRuns s who = true → (readerVoted s who = true → s.triad.voter = .sound ∧ s.triad.excluded = 0#3) →
   (∃ s', exec (.tickCountLoRead who) s = .next s' ∧ s'.host.readOut = s.bench.tickCount % 2 ^ 32 ∧
     (tblWf 0 s.bench.hiLatch = true → tblGet 0 s'.bench.hiLatch (readerIndex who) = s.bench.tickCount / 2 ^ 32 % 2 ^ 32) ∧
     (∀ i, i ≠ readerIndex who → tblGet 0 s'.bench.hiLatch i = tblGet 0 s.bench.hiLatch i) ∧
     s' = { s with bench := { s.bench with hiLatch := s'.bench.hiLatch }, host := { s.host with readOut := s'.host.readOut, completerAbort := false } })
   ∧ (∀ n : Fin 4, ∃ s', exec (.tbnNsRead who n) s = .next s' ∧ s'.host.readOut = tbNano (tbGet s.time n) ∧
     (tblWf TbLatch.zero s.time.latches = true → tblGet TbLatch.zero s'.time.latches (4 * readerIndex who + n) = {
       secLo := tbSec (tbGet s.time n) % 2 ^ 32, secHi := tbSec (tbGet s.time n) / 2 ^ 32, frac := tbFrac (tbGet s.time n) }) ∧
     (∀ i, i ≠ 4 * readerIndex who + n.val → tblGet TbLatch.zero s'.time.latches i = tblGet TbLatch.zero s.time.latches i) ∧
     s' = { s with time := { s.time with latches := s'.time.latches }, host := { s.host with readOut := s'.host.readOut, completerAbort := false } })
   ∧ (readerMaster who = 0x200 → (∀ k ∈ readerCores s who, (getCore s k).pl = 2#2) →
     ∃ v : Nat, v < 2 ^ 32 ∧ exec (.trngRead who) s = .next (
       if s.vault.trngFail then { s with host := { s.host with readOut := 0, completerAbort := false } }
       else { s with host := { s.host with readOut := v, completerAbort := false }, freeIdx := s.freeIdx + 1 }))
   ∧ (∀ k, readerCores s who = [k] → readerMaster who = 0x200 → (getCore s k).pl ≠ 2#2 →
     exec (.trngRead who) s = .next (takeException s k cACCESS 0x3000E00010#64 (getCore s k).pc))
   ∧ (readerMaster who ≠ 0x200 → exec (.trngRead who) s = .next (readerFault s who vADDR 0x3000E00010))
   ∧ (∀ v : BitVec 13, triadRuns s = true → s.triad.voter = .sound →
     exec (.tpHeadWrite v) s = .next { s with host := { s.host with tpHead := v.toNat } })
   ∧ (∀ v : BitVec 32, ∃ s', exec (.evqAckWrite who v) s = .next s' ∧
     (let i := match who with
       | .triad => 5
       | .triadCore _ => 5
       | .tally c => c.val
       | .host => 4
     (tblWf 0 s.host.evqAck = true → tblGet 0 s'.host.evqAck i = v.toNat) ∧ ∀ j, j ≠ i → tblGet 0 s'.host.evqAck j = tblGet 0 s.host.evqAck j) ∧
     s' = { s with host := { s.host with evqAck := s'.host.evqAck } })
   ∧ (∀ (c : Fin 4) (v : BitVec 32), who = .tally c →
     (∃ s', exec (.rstCauseClear c v) s = .next s' ∧ s' = { s with gh := { s.gh with rstCause := s'.gh.rstCause } } ∧
       ∀ i < 21, bitOf s'.gh.rstCause i = (bitOf s.gh.rstCause i && !v.getLsbD i))
     ∧ (∃ s', exec (.wakeSrcClear c v) s = .next s' ∧ (∀ i < 8, bitOf s'.gh.src i = (bitOf s.gh.src i && !v.getLsbD i)) ∧
       s'.gh.late = (s.gh.late && !v.getLsbD 31) ∧ s'.gh.abandoned = (s.gh.abandoned && !v.getLsbD 30) ∧
       s'.gh.first = (if s'.gh.src = 0 then 0 else s.gh.first) ∧ s'.gh.firstDetail = (if s'.gh.src = 0 then 0 else s.gh.firstDetail) ∧
       s' = { s with gh := { s.gh with src := s'.gh.src, late := s'.gh.late, abandoned := s'.gh.abandoned, first := s'.gh.first
                                       firstDetail := s'.gh.firstDetail } })))
  ∧ (∀ (s : State) (a : BitVec 40) (wide : Bool) (v : BitVec 64),
   let n := if wide then 8 else 4
   (readerRuns s .host = true → a.toNat % n = 0 → 0x3000000000 ≤ a.toNat → a.toNat < 0x3002000000 →
     exec (.registerWrite .host a wide v) s = .next (fenceWrite { s with host := { s.host with unsupported := false } } .host a.toNat n v.toNat))
   ∧ (readerRuns s .host = true → a.toNat % n ≠ 0 ∨ a.toNat < 0x3000000000 ∨ 0x3002000000 ≤ a.toNat →
     exec (.registerWrite .host a wide v) s = .next { s with host := { s.host with unsupported := true } })
   ∧ (∀ who : Reader, readerRuns s who = true → who ≠ .host → (readerVoted s who = true → s.triad.voter = .sound ∧ s.triad.excluded = 0#3) →
     (∀ k ∈ readerCores s who, accessTrap k (getCore s k) (a.zeroExtend 64) n 1 false = none) →
     exec (.registerWrite who a wide v) s = .next (fenceWrite s who a.toNat n v.toNat))
   ∧ (∀ (who : Reader) (k code : Nat), readerRuns s who = true → readerCores s who = [k] →
     accessTrap k (getCore s k) (a.zeroExtend 64) n 1 false = some code →
     exec (.registerWrite who a wide v) s = .next (takeException s k code (a.zeroExtend 64) (getCore s k).pc)))
  ∧ (∀ (s : State) (who : Reader) (n v : Nat),
   (∀ a, (a < 0x3000000000 ∨ 0x3001300000 ≤ a ∨ ∃ w o, w < 19 ∧ o < 0x100000 ∧ a = 0x3000000000 + 0x100000 * w + o ∧
       (match who with
         | .host => w ≠ 13 ∧ w ≠ 17
         | .tally _ => w ≠ 13 ∧ w ≠ 16 ∧ w ≠ 17
         | _ => w = 0 ∨ w = 13 ∨ 16 ≤ w ∨ (w ≠ 12 ∧ w ≠ 14 ∧ o / 4 ≠ 0x3FFC0))) →
     fenceWrite s who a n v = readerFault s who vADDR a ∧ isFrozen (fenceWrite s who a n v) (readerMaster who) = true)
   ∧ (readerMaster who = 0x200 →
     (let t := fenceWrite s who 0x3000C00004 4 v;
       (mapRead t who 0x3000C00004 4).2 = v % 128 ∧
       t = { s with triad := { s.triad with safeStop := v.testBit 6, coastLimit := v % 64 }, haul := { s.haul with stop := s.haul.stop || (s.triad.safe && v.testBit 6) } })
     ∧ (let t := fenceWrite s who 0x3000E00004 4 v
       let m := v % 128
       (mapRead t who 0x3000E00004 4).2 = (if 1 ≤ m ∧ m ≤ 100 then m else 10) ∧ t = { s with vault := { s.vault with remaskMs := t.vault.remaskMs } })
     ∧ (∀ o, o < 0x100000 → o % 4 = 0 → o ≠ 4 → o ≠ 0x20 → o ≠ 0x34 → o < 0x200 ∨ 0x300 ≤ o → o < 0x1000 ∨ 0x2000 ≤ o →
       fenceWrite s who (0x3000C00000 + o) 4 v = s)
     ∧ (∀ o, o < 0x100000 → o % 4 = 0 → o ≠ 4 → fenceWrite s who (0x3000E00000 + o) 4 v = s))
   ∧ (∀ c : Fin 4, who = .tally c →
     (∀ i < 16, tblWf 0 s.gh.bkp = true → let t := fenceWrite s who (0x3001000040 + 4 * i) 4 v;
       (mapRead t who (0x3001000040 + 4 * i) 4).2 = v % 2 ^ 32 ∧ (∀ j, j ≠ i → tblGet 0 t.gh.bkp j = tblGet 0 s.gh.bkp j) ∧
       t = { s with gh := { s.gh with bkp := t.gh.bkp } })
     ∧ (∀ i < 256, memWf s.gh.retmem = true → let t := fenceWrite s who (0x3001000400 + 4 * i) 4 v;
       (mapRead t who (0x3001000400 + 4 * i) 4).2 = v % 2 ^ 32 ∧
       (∀ j, j < 4 * i ∨ 4 * i + 4 ≤ j → memGet t.gh.retmem j = memGet s.gh.retmem j) ∧ t = { s with gh := { s.gh with retmem := t.gh.retmem } })
     ∧ (∀ o, o < 0x100000 → o % 4 = 0 → o ≠ 4 → o ≠ 0x10 → o < 0x40 ∨ 0x80 ≤ o → o < 0x400 ∨ 0x800 ≤ o →
       fenceWrite s who (0x3001000000 + o) 4 v = s))
   ∧ (readerMaster who ≠ 0x200 →
     (let t := fenceWrite s who 0x3001100008 4 v;
       (mapRead t who 0x3001100008 4).2 = v % 2 ^ 32 ∧ t = { s with host := { s.host with bootAddr := t.host.bootAddr } })
     ∧ (let t := fenceWrite s who 0x3001100010 4 v;
       (mapRead t who 0x3001100010 4).2 = v % 2 ^ 32 ∧ t = { s with host := { s.host with bootLen := t.host.bootLen } })
     ∧ (∀ i < 272, memWf s.host.cmdBlock = true → let t := fenceWrite s who (0x3001100400 + 4 * i) 4 v;
       (mapRead t who (0x3001100400 + 4 * i) 4).2 = v % 2 ^ 32 ∧
       (∀ j, j < 4 * i ∨ 4 * i + 4 ≤ j → memGet t.host.cmdBlock j = memGet s.host.cmdBlock j) ∧
       t = { s with host := { s.host with cmdBlock := t.host.cmdBlock } })
     ∧ (∀ i < 1024, memWf s.host.dbgWindow = true → let t := fenceWrite s who (0x3001104000 + 4 * i) 4 v;
       (mapRead t who (0x3001104000 + 4 * i) 4).2 = v % 2 ^ 32 ∧
       (∀ j, j < 4 * i ∨ 4 * i + 4 ≤ j → memGet t.host.dbgWindow j = memGet s.host.dbgWindow j) ∧
       t = { s with host := { s.host with dbgWindow := t.host.dbgWindow } }))
   ∧ (∀ a, let t := (mapRead s who a n).1
       t = { s with freeIdx := t.freeIdx, bench := { s.bench with hiLatch := t.bench.hiLatch }, time := { s.time with latches := t.time.latches } }))

/-- R442: RESET_REQ on an idle block starts its reset, on another one RESULT becomes NOT_IDLE; POWER may be cleared on the Conveyor, the Relay
and the Pair unit while idle; a block that was reset or powered up stands in its reset state. The model's readings and choices that it
rests on: log entries 140. -/
def Obligations.BlockControl : Prop :=
  ∀ (s : State) (i : Fin 12) (n : Nat) (b : Block), n = (if i.val < 11 then i.val + 1 else 15) → getBlock s n = b →
  (triadRuns s = true → s.triad.voter = .sound → b.busy = false → b.power = true → b.rising = false → exec (.resetReq i) s = .next (
    if blockIdle s n then setBlock s n { b with busy := true } else setBlock s n { b with result := stNOTIDLE }))
  ∧ (triadRuns s = true → s.triad.voter = .sound → b.busy = false → b.power = true → b.rising = false → exec (.powerOff i) s = .next (
    if (n = 2 ∨ n = 11 ∨ n = 15) ∧ blockIdle s n then setBlock s n { b with power := false } else setBlock s n { b with result := stNOTIDLE }))
  ∧ (triadRuns s = true → s.triad.voter = .sound → b.power = false → exec (.powerOn i) s = .next (setBlock s n { b with power := true, rising := true }))
  ∧ (b.busy = true → ∃ s', exec (.blockResetComplete i) s = .next s' ∧ s'.gh.blocks = (setBlock s n { b with busy := false, result := 0 }).gh.blocks ∧
    (∀ (c : Ctr) k, c.place.1 = n → k < 2 ^ 20 → getCtr s' c k = 0) ∧
    (n = 2 → s'.fabric = Fabric.reset) ∧ (n = 3 → s'.screen = Screen.reset) ∧ (n = 4 → s'.engine = EngineArray.reset) ∧
    (n = 5 → s'.lookup = Lookup.reset) ∧ (n = 6 → s'.berm = Berm.reset) ∧ (n = 7 → s'.stock = Stock.reset) ∧
    (n = 8 → s'.hopper = Hopper.reset) ∧ (n = 9 → s'.haul = Haul.reset) ∧ (n = 10 → s'.time = TimeUnit.reset ∧ s'.bench.disturbed = true) ∧
    (n = 11 → s'.relay = Relay.reset) ∧ (n = 15 → s'.pair.lane0 = false ∧ s'.pair.lane1 = false ∧ s'.pair.role = (if s.pair.en then .active else .off) ∧
      s'.pair.busHeld = (s.pair.busHeld || s.pair.role == .lead || s.pair.role == .follow || s.pair.role == .rejoin)) ∧
    (n = 1 → s.face.ports.Pairwise (fun a b => a.1 < b.1) → ∀ m < 56, (getFp s' m).enable = (FacePort.reset m).enable ∧
      (getFp s' m).calTemp = (getFp s m).calTemp ∧ (getFp s' m).calibrated = (getFp s m).calibrated))
  ∧ (b.rising = true → ∃ s', exec (.blockPowerUpComplete i) s = .next s' ∧ s'.gh.blocks = (setBlock s n { b with rising := false }).gh.blocks ∧
    (n = 2 → s'.fabric = Fabric.reset) ∧ (n = 11 → s'.relay = Relay.reset) ∧
    (n = 15 → s'.pair.lane0 = false ∧ s'.pair.lane1 = false))

/-- R499 to R501: XSPI_OWNER takes the free controller, and a write of 0x3FF releases it; a command block waits for its verification, whose
completion sets STATUS, draws a new CMD_NONCE, fires vector 3 and asserts the source of an accepted command; BOOT_GO is recorded. The
model's readings and choices that it rests on: log entries 158, 165. -/
def Obligations.HostCommands : Prop :=
  (∀ (s : State) (o : BitVec 10), readerRuns s .host = true → exec (.xspiOwnerWrite .host o) s = .next (
    if (s.host.xspiOwner = 0x3FF ∧ o.toNat = 0x220) ∨ o.toNat = 0x3FF
    then { s with host := { s.host with xspiOwner := o.toNat } } else s))
  ∧ (∀ (s : State) (c : Fin 4) (o : BitVec 10), readerRuns s (.tally c) = true → exec (.xspiOwnerWrite (.tally c) o) s = .next (
    if (s.host.xspiOwner = 0x3FF ∧ o.toNat = 0x210 + c.val) ∨ o.toNat = 0x3FF
    then { s with host := { s.host with xspiOwner := o.toNat } } else s))
  ∧ (∀ s : State, readerRuns s .host = true → exec .bootGo s = .next { s with host := { s.host with bootGo := true } })
  ∧ (∀ (s : State) (b : List Byte) (i : Instr) (c : Byte), readerRuns s .host = true → s.host.cmdLive = none → b.length = 1088 →
    memWf s.host.cmdBlock = true → (i, c) ∈ [(Instr.hostRestartCmd b, 1#8), (.hostColdCmd b, 2#8), (.hostWarmCmd b, 3#8), (.mgmtHostCmd b, 4#8)] →
    ∃ s' x, exec i s = .next s' ∧ s'.host.cmdLive = some x ∧ x.bytes = c :: b.drop 1 ∧
      s' = { s with host := { s.host with cmdBlock := s'.host.cmdBlock, cmdLive := s'.host.cmdLive } })
  ∧ (∀ (s : State) (x : HostCmd), deviceRuns s = true → s.host.cmdLive = some x →
    let s1 := fireMsix { s with freeIdx := s.freeIdx + 1, host := { s.host with
      nonce := Config.free s.freeIdx % 2 ^ 64, cmdLive := none, cmdStatus := 0 } } 3
    let cmd := im8 x.bytes 0
    exec .hostCmdComplete s = .next (
      if cmdGood s x.bytes = false then { s1 with host := { s1.host with cmdStatus := stBADSIG } }
      else if cmd = 1 ∧ s.triad.coasting = false ∧ s.gh.mode ≠ .maintenance then { s1 with host := { s1.host with cmdStatus := stDENIED } }
      else if cmd = 1 then controlReset s1 17 else if cmd = 2 then raiseReset s1 12 else if cmd = 3 then raiseReset s1 13
      else managementSource s1 20))

/-- R379, R503 to R505: the TAP selects its instructions and executes BYPASS for a code of none of them, and for EXTEST and CLAMP while EXT
does not hold the device; SAMPLE captures a value that the spec leaves open (log entry 215); the token buffer takes words from byte 0; a
start verifies a length of 1,872 to 4,096 bytes, and its completion attaches the session or sets BAD_SIG. The model's readings and choices
that it rests on: log entries 142, 159, 215. -/
def Obligations.DebugPort : Prop :=
  (∀ s : State, tapLive s = true →
    let sel := fun i => { s with host := { s.host with tapIr := i } }
    (∀ c : Byte, c.toNat ∉ [0x00, 0x01, 0x02, 0x03, 0x40, 0x41] → exec (.bypass c) s = .next (sel c.toNat) ∧ tapActing (sel c.toNat) = 0xFF)
    ∧ exec .testLogicReset s = .next (sel 0x02)
    ∧ exec .idcode s = .next { s with host := { s.host with tapIr := 0x02, readOut := 0xB964056B, completerAbort := false } }
    ∧ (∀ l : List Bool, ∃ v, exec (.samplePreload l) s = .next { s with
      freeIdx := s.freeIdx + 1, host := { s.host with tapIr := 0x01, tapScan := l, readOut := v, completerAbort := false } })
    ∧ exec .extest s = .next (sel 0x00) ∧ tapActing (sel 0x00) = (if bitOf s.gh.asserted 4 then 0x00 else 0xFF)
    ∧ exec .clamp s = .next (sel 0x03) ∧ tapActing (sel 0x03) = (if bitOf s.gh.asserted 4 then 0x03 else 0xFF))
  ∧ (∀ (s : State) (l : List (BitVec 32)), tapLive s = true → l.length ≤ 1024 → memWf s.host.dbgWindow = true →
    ∃ s', exec (.dbgToken l) s = .next s' ∧ s'.host.tapIr = 0x40 ∧ s'.host.tapPtr = 4 * l.length ∧
      (∀ i < l.length, ∀ j < 4, memGet s'.host.dbgWindow (4 * i + j) = ((l.getD i 0#32) >>> (8 * j)).truncate 8) ∧
      (∀ a, 4 * l.length ≤ a → memGet s'.host.dbgWindow a = memGet s.host.dbgWindow a))
  ∧ (∀ (s : State) (n : BitVec 13), s.host.dbgLive = none →
    (readerRuns s .host = true → exec (.dbgGo n) s = .next { s with host := (
      if n.toNat < 1872 ∨ 4096 < n.toNat then { s.host with dbgLen := n.toNat, dbgStatus := stDENIED }
      else { s.host with dbgLen := n.toNat, dbgLive := some { bytes := memBytes s.host.dbgWindow 0 n.toNat } }) })
    ∧ (tapLive s = true → deviceRuns s = true → ∃ r, exec (.dbgCtrlStart n false) s = .next { s with host := (
      if n.toNat < 1872 ∨ 4096 < n.toNat then { s.host with tapIr := 0x41, readOut := r, completerAbort := false, dbgStatus := stDENIED }
      else { s.host with tapIr := 0x41, readOut := r, completerAbort := false, dbgLive := some { bytes := memBytes s.host.dbgWindow 0 n.toNat } }) }))
  ∧ (∀ s : State, readerRuns s .host = true → exec .dbgDetach s = .next { s with host := { s.host with dbgAttached := false } })
  ∧ (∀ s : State, tapLive s = true → deviceRuns s = true →
    ∃ r, exec (.dbgCtrlDetach true) s = .next { s with host := { s.host with tapIr := 0x41, readOut := r, completerAbort := false, dbgAttached := false } }
      ∧ exec (.dbgCtrlDetach false) s = .next { s with host := { s.host with tapIr := 0x41, readOut := r, completerAbort := false } })
  ∧ (∀ (s : State) (x : HostCmd), deviceRuns s = true → s.host.dbgLive = some x →
    let nonce := Config.free s.freeIdx % 2 ^ 64
    let good := (suhildCheck s x.bytes 4 [4]).2 && tokenBound s x.bytes
    s.pair.role ≠ .lead → s.gh.mode = .active → ∃ s', exec .dbgVerifyComplete s = .next s' ∧ s'.host.dbgLive = none ∧
      s'.host.nonce = nonce ∧ s'.host.dbgStatus = (if good then stOK else stBADSIG) ∧ s'.host.dbgAttached = (s.host.dbgAttached || good) ∧
      s'.triad.lockstepBroken = (s.triad.lockstepBroken || good) ∧ s'.gh.mode = (if good then .maintenance else .active) ∧
      bitOf s'.gh.faultSrc 4 = (bitOf s.gh.faultSrc 4 || good) ∧ (good = false → s' = { s with freeIdx := s.freeIdx + 1, host := s'.host }))

/-- R424, R436 to R438, R441, R458: a source of Table 15.5 with reach 3 clears the whole device but the backup domain, drops the rails and is
recorded; in Dormant, where the device itself holds RESET_N low, it waits for the next start; the fall of VBAT below VBAT_POR clears the
backup domain too. R433, R437, R438: when the last source ends the device is Waking and its release begins: the rails from PEN0 on after
reach 3 or more, those that a Warm source left up going on from where they stand, option loading alone after reach 2; while another source
stands nothing else changes. SECONDS counts from the end of source POR. The model's readings and choices that it rests on: log entries
135, 137, 141. -/
def Obligations.Resets : Prop :=
  ((∀ (s : State) (i : Nat) (c : Instr), (c, i) ∈ [(Instr.vbatUvFall, 1), (.vbatOvRise, 2), (.ext, 4), (.therm, 5), (.clk, 6)] →
     s.gh.relStep = 0 → s.gh.mode ≠ .off →
     (s.gh.mode = .dormant → c = .ext → exec c s = .next s)
     ∧ (s.gh.mode = .dormant → c ≠ .ext → exec c s = .next { s with gh := { s.gh with
       asserted := s.gh.asserted ||| 2 ^ i, rstCause := s.gh.rstCause ||| 2 ^ i } })
     ∧ (s.gh.mode ≠ .dormant → s.gh.sleepState ≠ .committed → ∃ s', exec c s = .next s' ∧ ResetHeld s s' 3 ∧
       s'.gh.asserted = s.gh.asserted ||| 2 ^ i ∧ s'.gh.rstCause = s.gh.rstCause ||| 2 ^ i ∧ s'.gh.pen = 0 ∧ s'.gh.pgood = 0 ∧
       s'.gh.inh = !bitOf s.gh.asserted 0 ∧ s'.gh.bkp = s.gh.bkp ∧ s'.gh.retmem = s.gh.retmem ∧ s'.gh.failStarts = s.gh.failStarts))
   ∧ (∀ s : State, ∃ s', exec .vbatPorFall s = .next s' ∧ ResetHeld s s' 4 ∧ s'.gh.mode = .off ∧ s'.gh.asserted = 1 ∧ s'.gh.rstCause = 1 ∧
     s'.gh.pen = 0 ∧ s'.gh.inh = false ∧ s'.gh.bkp = [] ∧ s'.gh.retmem = [] ∧ s'.gh.rstCount = 0 ∧ s'.gh.failStarts = 0 ∧
     s'.gh.src = 0 ∧ s'.gh.backupAt = s.localNs))
  ∧ (∀ (s : State) (c : Instr) (held : Nat), (c, held) ∈ [(Instr.resetRelease, 7), (.vbatOnRise, 2 ^ 21 - 4), (.vbatOvRelease, 2 ^ 21 - 5)] →
     s.gh.relStep ≠ 0 →
   (s.gh.asserted &&& held = 0 → exec c s = .next { s with gh := (
     let since := if c = .vbatOnRise ∧ bitOf s.gh.asserted 0 = true then s.localNs else s.gh.backupAt
     if 3 ≤ s.gh.effReach then { s.gh with backupAt := since, asserted := 0, mode := .waking, inh := true, wakingAt := s.localNs, relStep := 2, pen := if s.gh.pen = 0 then 1 else s.gh.pen }
     else { s.gh with backupAt := since, asserted := 0, mode := .waking, inh := true, wakingAt := s.localNs, relStep := 4 }) })
   ∧ (s.gh.asserted &&& held ≠ 0 → exec c s = .next { s with gh := { s.gh with
     backupAt := if c = .vbatOnRise ∧ bitOf s.gh.asserted 0 = true then s.localNs else s.gh.backupAt, asserted := s.gh.asserted &&& held } }))

/-- R427, R428, R435, R445, R510: PGOOD of a step enables the next one while the rails come up, and that of step 3 senses the VIO level; a
rail that fails is source PG; the third failed start in a row locks the device out in Dormant; a Dormant entry drops the rails from the
last step down and then INH, and of FAULT_SRC ends MAINT alone. The model's readings and choices that it rests on: log entries 135, 141,
168. -/
def Obligations.RailEvents : Prop :=
  (∀ (s : State) (i : Fin 6) (v : Bool), bitOf s.gh.pen i = true → exec (.pgoodRise i v) s = .next { s with gh := { s.gh with
    pgood := s.gh.pgood ||| 2 ^ i.val
    vio33 := if i.val = 3 ∧ bitOf s.gh.pgood 3 = false then v else s.gh.vio33
    pen := if s.gh.relStep ≥ 2 ∧ i.val < 5 then s.gh.pen ||| 2 ^ (i.val + 1) else s.gh.pen } })
  ∧ (∀ (s : State) (i : Fin 6), bitOf s.gh.pen i = true → s.gh.mode ≠ .off → s.gh.mode ≠ .dormant → s.gh.sleepState ≠ .committed →
    (s.gh.relStep = 0 → ∃ s', exec (.pgFail i) s = .next s' ∧ ResetHeld s s' 3 ∧ s'.gh.asserted = s.gh.asserted ||| 8 ∧
      s'.gh.rstCause = s.gh.rstCause ||| 8 ∧ s'.gh.pen = 0 ∧ s'.gh.pgFails = 0 ∧ s'.gh.lockout = s.gh.lockout)
    ∧ (s.gh.relStep ≠ 0 → s.gh.pgFails = 2 → ∃ s', exec (.pgFail i) s = .next s' ∧ s'.gh.mode = .dormant ∧ s'.gh.lockout = true ∧
      s'.gh.pen = 0 ∧ s'.gh.inh = false ∧ s'.gh.relStep = 0 ∧ s'.gh.pgFails = 0 ∧ bitOf s'.gh.faultSrc 6 = true))
  ∧ (∀ s : State, s.gh.sleepState = .committed → s.gh.target = .dormant → s.gh.entryDone = false →
    (∀ i : Fin 6, bitOf s.gh.pen i = true → (∀ j, i.val < j → bitOf s.gh.pen j = false) →
      ∃ s', exec .railStepDown s = .next s' ∧ s' = { s with gh := { s.gh with pen := s'.gh.pen, pgood := s'.gh.pgood } } ∧
        ∀ j < 6, bitOf s'.gh.pen j = (bitOf s.gh.pen j && decide (j ≠ i.val)) ∧ bitOf s'.gh.pgood j = (bitOf s.gh.pgood j && decide (j ≠ i.val)))
    ∧ (s.gh.pen = 0 → ∃ s', exec .railStepDown s = .next s' ∧ s'.gh.mode = .dormant ∧ s'.gh.lastMode = s.gh.mode ∧ s'.gh.inh = false ∧
      s'.gh.entryDone = true ∧ s'.gh.faultSrc = s.gh.faultSrc &&& 0b1101111 ∧ s'.gh.commitAt = s.localNs ∧ s'.gh.bkp = s.gh.bkp ∧ s'.engine = EngineArray.reset ∧ s'.cores = []))

/-- R30, R71, R432, R434, R438, R439, R450, R477 to R479: option loading samples the straps and accounts for the start; DRAM readiness starts
the time unit from 0 and the cores at their reset; a boot image whose header passes is measured and is accepted when its sections pass,
and the Boot ROM then enters its sections on the cores, taken at one instant (log entry 152); after the last image source ROM is raised;
BOOT_LIMIT_S after the release the watchdog resets. The model's readings and choices that it rests on: log entries 10, 134, 139, 152, 165,
200. -/
def Obligations.StartEvents : Prop :=
  (∀ (s : State) (b : BitVec 2) (split en : Bool), s.gh.asserted = 0 → s.gh.relStep = 4 → b ≠ 3#2 →
    let fresh := !s.gh.bootPending || decide (s.gh.failT + 60 < seconds s)
    let fails := if fresh then 1 else min (s.gh.failStarts + 1) 8
    ∃ s', exec (.optionLoading b split en) s = .next s' ∧ s'.gh.relStep = 5 ∧ s'.gh.bootsel = b.toNat ∧ s'.gh.splitStrap = split ∧
      s'.triad.split = split ∧ s'.pair.en = en ∧ s'.pair.role = (if en then .active else .off) ∧ s'.gh.rstCount = min (s.gh.rstCount + 1) 65535 ∧
      s'.gh.failStarts = fails ∧ s'.gh.failT = (if fresh then seconds s else s.gh.failT) ∧ s'.gh.bootPending = true ∧
      s'.gh.mode = (if b = 2#2 ∨ fails = 8 then .recovery else .waking))
  ∧ (∀ s : State, s.gh.relStep = 5 → s.gh.asserted = 0 → bitOf s.gh.pgood 5 = true → s.triad.voter = .sound →
    s.vault.boot.tries = 0 → s.vault.boot.headerOk = false → s.cores.Pairwise (fun a b => a.1 < b.1) →
    ∃ s', exec .dramInitDone s = .next s' ∧ s'.gh.relStep = 0 ∧ s'.bench.running = true ∧ s'.bench.startNs = 0 ∧
      s'.bench.tickCount = s.bench.tickCount ∧ s'.time.t0 = { running := true, value := 0, rate := 0, slew := none, stepSeq := 0 } ∧
      s'.vault.remaskAt = s.localNs ∧ (∀ k < 7, getCore s' k = { SCore.reset k with startNs := s.localNs }))
  ∧ (∀ s : State, s.gh.relStep = 5 → s.gh.asserted = 0 → bitOf s.gh.pgood 5 = true → s.triad.voter = .sound → s.triad.fault = false →
    s.vault.boot.headerOk = true → s.vault.boot.sound = true → s.vault.boot.booted = false → s.cores.Pairwise (fun a b => a.1 < b.1) →
    ∃ s', exec .dramInitDone s = .next s' ∧ s'.gh.relStep = 0 ∧ s'.vault.boot = { s.vault.boot with booted := true } ∧
      (∀ k i b typ, (typ = 1 ∧ k < 3) ∨ (typ = 2 ∧ 3 ≤ k ∧ k < 7) → bootSection s typ = some (i, b) →
        let o := im64 s.vault.boot.header (0x50 + 0x60 * i)
        (getCore s' k).pc = BitVec.ofNat 64 (2 ^ 63 + o) ∧ (getCore s' k).pl = (if k < 3 then 2#2 else 1#2) ∧
        ∀ j < b.length, o + j < localSize k → memGet (getCore s' k).lmem (o + j) = b.getD j 0#8) ∧
      ((bootSection s 2).isSome = true → s'.host.tallyWait = false))
  ∧ (∀ s : State, s.gh.bootPending = true → s.gh.asserted = 0 → s.gh.relStep = 0 → s.gh.mode = .waking → s.gh.sleepState ≠ .committed →
    ∃ s', exec .bootWdt s = .next s' ∧ ResetHeld (advance s (s.gh.wakingAt + s.gh.bootLimit * 1000000000 - s.localNs)) s' 3 ∧
      s'.gh.asserted = 2 ^ 7 ∧ bitOf s'.gh.rstCause 7 = true)
  ∧ (∀ (s : State) (h : List Byte) (p : List (List Byte)), s.gh.asserted = 0 → s.gh.relStep = 0 → s.gh.mode = .waking → s.gh.resuming = false →
    s.gh.bootsel = 0 → s.vault.boot.headerOk = false → s.vault.boot.tries < 2 →
    s.vault.boot.booted = false → (∀ i < suhildSections h, secType h i ≠ 4) →
    let good := headerFormat h [1] && anchored s 2 (suhildModulus h) && svnOk s h && headerSigned h
    let whole := good && (List.range (suhildSections h)).all (sectionOk (2 ^ 24) h p)
    (s.vault.boot.tries = 0 → ∃ s', exec (.bootHeaderVerified h p) s = .next s' ∧
      s'.vault.boot.headerOk = whole ∧ s'.vault.boot.tries = 1 ∧ s'.vault.boot.booted = (whole && !s.triad.fault) ∧
      (good = true → s'.vault.boot.svn = im32 h 8 ∧ s'.vault.boot.measure = (sha512 (imgBytes h 0 0x540)).toNat ∧ s'.vault.boot.place = 0) ∧
      (whole = false ∨ s.triad.fault = true → s' = { s with vault := { s.vault with boot := s'.vault.boot } }))
    ∧ (s.vault.boot.tries = 1 → s.gh.sleepState ≠ .committed →
      ∃ s', exec (.bootHeaderVerified h p) s = .next s' ∧ s'.gh.relStep = (if whole then 0 else 1) ∧
        s'.gh.asserted = (if whole then 0 else 2 ^ 8) ∧ (whole = true → s'.vault.boot.headerOk = true ∧ s'.vault.boot.place = 0x1000000) ∧
        (whole = false → bitOf s'.gh.rstCause 8 = true)))

/-- R446 to R450: an armed wake source is recorded in WAKE_SRC; in Dormant it starts a Cold reset with source DORMANT, in Retained the resume,
during the commit it is LATE, and it ends an AGREED sleep; the wake timer comes no earlier than TIMER_S seconds, less 3 %, after the
commit. R447, R449, R452, R454: an AGREED sleep commits and takes the port nodes down; the Retained entry stops the boundaries; the end of
a resume starts them again with the mode of the pair role, and the ports that TC10 put to sleep train their links. The model's readings
and choices that it rests on: log entries 10, 136, 138, 190, 196. -/
def Obligations.SleepAndWake : Prop :=
  ((∀ (s : State) (c : Instr) (code d : Nat), WakeCommand s c code d → wakeArmed s code = true →
     let src := s.gh.src ||| 2 ^ (code - 1)
     let first := if s.gh.first = 0 then code else s.gh.first
     let detail := if s.gh.first = 0 then d else s.gh.firstDetail
     (wakeHandled s = true → exec c s = .next { s with gh := { s.gh with src := src, first := first, firstDetail := detail } })
     ∧ (wakeHandled s = false → (s.gh.mode = .retained → exec c s = .next { s with gh := { s.gh with
       src := src, first := first, firstDetail := detail, mode := .waking, resuming := true, sleepState := .none, seen := 0 } })
     ∧ (s.gh.mode ≠ .retained → s.gh.mode ≠ .dormant → s.gh.sleepState = .committed → exec c s = .next { s with gh := { s.gh with
       src := src, first := first, firstDetail := detail, late := true, seen := s.gh.seen ||| 2 ^ 9 } })
     ∧ (s.gh.mode = .dormant → s.gh.asserted = 0 → s.gh.relStep = 0 → ∃ s', exec c s = .next s' ∧ s'.gh.mode = .waking ∧ s'.gh.relStep = 2 ∧
       s'.gh.pen = 1 ∧ s'.gh.inh = true ∧ s'.gh.src = src ∧ s'.gh.first = first ∧ s'.gh.firstDetail = detail ∧ s'.gh.lockout = false ∧
       bitOf s'.gh.rstCause 9 = true ∧ s'.gh.reach = 3 ∧ s'.gh.wakingAt = s.localNs)
     ∧ (s.gh.mode ≠ .retained → s.gh.mode ≠ .dormant → s.gh.sleepState = .agreed → ∃ s', exec c s = .next s' ∧ s'.gh.sleepState = .none ∧
       s'.gh.abandoned = true ∧ s'.gh.src = src)))
   ∧ (∀ (s : State) (c : Instr) (code d : Nat), WakeCommand s c code d → wakeArmed s code = false → exec c s = .next s)
   ∧ (∀ s : State, s.gh.timerAt = none ∨ s.gh.timerS = 0 ∨ wakeArmed s 5 = false → exec .wakeTimer s = .next s)
   ∧ (∀ (s : State) (t : Nat), s.gh.timerAt = some t → s.gh.timerS ≠ 0 → wakeArmed s 5 = true → wakeHandled s = false →
     let s1 := advance s (t + s.gh.timerS * 970000000 - s.localNs)
     let src := s.gh.src ||| 16
     let first := if s.gh.first = 0 then 5 else s.gh.first
     let detail := if s.gh.first = 0 then 0 else s.gh.firstDetail
     t + s.gh.timerS * 970000000 ≤ s1.localNs ∧
     (s.gh.mode = .retained → exec .wakeTimer s = .next { s1 with gh := { s.gh with
       timerAt := none, src := src, first := first, firstDetail := detail, mode := .waking, resuming := true, sleepState := .none, seen := 0 } }) ∧
     (s.gh.mode = .dormant → s.gh.asserted = 0 → s.gh.relStep = 0 → ∃ s', exec .wakeTimer s = .next s' ∧ s'.gh.mode = .waking ∧ s'.gh.relStep = 2 ∧
       s'.gh.src = src ∧ s'.gh.first = first ∧ s'.gh.timerAt = none ∧ s'.localNs = s1.localNs))
   ∧ (∀ s : State, s.gh.mode = .dormant → s.gh.lockout = false → s.gh.seen ≠ 0 → s.gh.asserted = 0 → s.gh.relStep = 0 →
     ∃ s', exec .dormantWakeStart s = .next s' ∧ s'.localNs = max s.localNs (s.gh.commitAt + 100000) ∧ s'.gh.mode = .waking ∧ s'.gh.relStep = 2 ∧
       s'.gh.pen = 1 ∧ bitOf s'.gh.rstCause 9 = true))
  ∧ ((∀ s : State, s.gh.sleepState = .agreed → sleepLeaves s = true → (∀ m < 32, bitOf s.gh.tc10Mask m = true → (getFp s m).tc10 = 2) →
     s.face.ports.Pairwise (fun a b => a.1 < b.1) →
     ∃ s', exec .sleepCommit s = .next s' ∧ s'.gh.sleepState = .committed ∧ s'.gh.commitAt = s.localNs ∧ s'.gh.timerAt = some s.localNs ∧ s'.gh.entryDone = false ∧
       s'.localNs = s.localNs ∧ (∀ m < 56, (getFp s' m).up = false) ∧
       (s.gh.target = .retained → ∀ m < 56, (getFp s m).link = true → (getFp s' m).kept = true))
   ∧ (∀ s : State, s.gh.sleepState = .committed → s.gh.target = .retained → s.gh.entryDone = false → s.pair.role = .off →
     ∃ s', exec .retainedEntryDone s = .next s' ∧ s'.bench.running = false ∧ s'.gh.entryDone = true ∧ s'.gh.commitAt = s.localNs ∧
       (s.gh.seen = 0 → s'.gh.mode = .retained) ∧ (s.gh.seen ≠ 0 → s'.gh.mode = .waking ∧ s'.gh.resuming = true ∧ s'.gh.sleepState = .none))
   ∧ (∀ s : State, s.gh.mode = .waking → s.gh.resuming = true → ∃ s', exec .resumeComplete s = .next s' ∧ s'.bench.running = true ∧
     s'.bench.startNs = tbNs s.time.t0 ∧ s'.bench.disturbed = false ∧ s'.gh.resuming = false ∧ s'.gh.mode = s.pair.role.mode ∧
     s'.berm.cache = [] ∧ s'.localNs = s.localNs ∧ s'.gh.timerAt = none ∧
     (s.face.ports.Pairwise (fun a b => a.1 < b.1) → ∀ m < 32, (getFp s m).tc10 = 2 → (getFp s' m).tc10 = 3)))

/-- R495: from an empty event section, posting l records keeps the first 65,536 in order, counts the rest in EV_LOST, and advances SEQ for
each of them, kept or lost. -/
def Obligations.EventQueue : Prop :=
  ∀ (s : State) (l : List (Nat × List Nat)), s.bench.running = true → s.events.recs = [] → s.events.count = 0 → s.events.lost = 0 →
    s.events.nextSeq + l.length < 2 ^ 64 →
    let t := l.foldl (fun s e => postEvent s e.1 e.2) s
    t.events.recs.length = min l.length 65536 ∧ t.events.lost = l.length - 65536 ∧ t.events.nextSeq = s.events.nextSeq + l.length ∧
    (∀ i (h : i < t.events.recs.length), t.events.recs[i].seq = s.events.nextSeq + i ∧ some (t.events.recs[i].sub, t.events.recs[i].payload) = l[i]?) ∧
    t = { s with events := t.events }

/-- R48 to R50: the words of every instruction, at every value of its operands, spell that instruction and no other: no bit of an encoding is
dropped. -/
def Obligations.DecodeOfEncode : Prop :=
  ∀ (i : Instr) (who : Agent) (w : BitVec 32) (y : Option (BitVec 32)), agentOf i = some who → words i = some (w, y) → canonical i = true →
    decodeWords who w y = some i

/-- R12, R26: a packet program reaches the data plane only: whatever instruction an engine thread executes, in whatever state, the cores, the
Commit Gate, the Vault, the time bases and the tick, the Triad, the Gatehouse, the Relay and the queue stay as they were, and so does Face
but for the packet numbers of its security associations. -/
def Obligations.PacketIsolation : Prop :=
  ∀ (i : Instr) (t : Fin 512) (s s' : State), agentOf i = some (.thread t) → exec i s = .next s' →
    s'.cores = s.cores ∧ s'.gate = s.gate ∧ s'.vault = s.vault ∧ s'.time = s.time ∧ s'.bench = s.bench ∧ s'.localNs = s.localNs ∧
    s'.triad = s.triad ∧ s'.gh = s.gh ∧ s'.face = { s.face with sas := s'.face.sas } ∧ s'.relay = s.relay ∧ s'.pending = s.pending ∧ s'.screen.current = s.screen.current ∧
    s'.engine.service = s.engine.service ∧ s'.engine.armed = s.engine.armed

/-- R460, R462: no step rewrites an OTP slot that is not blank, and none undoes a step of the lifecycle. -/
def Obligations.OtpWriteOnce : Prop :=
  ∀ s s' : State, step s = .next s' →
    (∀ i, getOtp s i ≠ blankSlot → getOtp s' i = getOtp s i) ∧ (∀ k, stepTaken s k = true → stepTaken s' k = true)

/-- R61, R71: every step keeps the levels legal, in every state where they are: no core runs at a level that it does not have, so that no
Tally core ever stands at Vault level. -/
def Obligations.LevelsStayLegal : Prop :=
  ∀ s s' : State, step s = .next s' → LevelInv s → LevelInv s'
end

