-- ==== Sys2Proof/Laws/Tables.lean ====
section
/-! SUPPORT. Laws/Tables.lean: sparse arrays and memories: reads after writes, and the canonical form. -/

namespace Sys2Proof.Machine

variable {β : Type} [DecidableEq β]

theorem tblWf_tail {d : β} {k : Nat} {v : β} {t : Tbl β} (h : tblWf d ((k, v) :: t) = true) : tblWf d t = true := by
  simp [tblWf] at h; exact h.2

theorem tblWf_head {d : β} {k : Nat} {v : β} {t : Tbl β} (h : tblWf d ((k, v) :: t) = true) : v ≠ d := by
  simp [tblWf] at h; exact h.1.1

/-- The first index of a canonical array is below every later one. -/
theorem tblWf_lt {d : β} : ∀ {t : Tbl β} {k : Nat} {v : β}, tblWf d ((k, v) :: t) = true → ∀ e ∈ t, k < e.1
  | [], _, _, _, e, he => by cases he
  | (j, x) :: t, k, v, h, e, he => by
    have h1 : k < j := by simp [tblWf] at h; exact h.1.2
    rcases List.mem_cons.1 he with rfl | he
    · exact h1
    · exact Nat.lt_trans h1 (tblWf_lt (tblWf_tail h) e he)

omit [DecidableEq β] in
/-- An index that no pair carries reads the default. -/
theorem tblGet_of_lt (d : β) : ∀ {t : Tbl β} {i : Nat}, (∀ e ∈ t, i < e.1) → tblGet d t i = d
  | [], _, _ => rfl
  | (k, v) :: t, i, h => by
    have hk : k ≠ i := Nat.ne_of_gt (h (k, v) (List.mem_cons_self))
    simp [tblGet, hk]
    exact tblGet_of_lt d (fun e he => h e (List.mem_cons_of_mem _ he))

/-- Other indices keep what they read. -/
theorem tblGet_tblSet_ne (d : β) (v : β) : ∀ (t : Tbl β) {i j : Nat}, j ≠ i → tblGet d (tblSet d t i v) j = tblGet d t j
  | [], i, j, h => by simp only [tblSet]; split <;> simp [tblGet, Ne.symm h]
  | (k, x) :: t, i, j, h => by
    simp only [tblSet]
    split
    · split <;> simp [tblGet, Ne.symm h]
    · split
      · rename_i h1 h2; subst h2
        split <;> simp [tblGet, Ne.symm h]
      · simp only [tblGet]; split
        · rfl
        · exact tblGet_tblSet_ne d v t h

/-- A written index reads what was written, in a canonical array. -/
theorem tblGet_tblSet_self (d : β) (v : β) : ∀ (t : Tbl β) (i : Nat), tblWf d t = true → tblGet d (tblSet d t i v) i = v
  | [], i, _ => by simp only [tblSet]; split <;> simp_all [tblGet]
  | (k, x) :: t, i, h => by
    simp only [tblSet]
    split
    · rename_i h1
      split
      · rename_i h2; subst h2
        simp only [tblGet]; rw [if_neg (by omega)]
        exact tblGet_of_lt v (fun e he => Nat.lt_trans h1 (tblWf_lt h e he))
      · simp [tblGet]
    · split
      · rename_i h1 h2; subst h2
        split
        · rename_i h3; subst h3
          exact tblGet_of_lt v (fun e he => tblWf_lt h e he)
        · simp [tblGet]
      · rename_i h1 h2
        simp only [tblGet]; rw [if_neg (by omega)]
        exact tblGet_tblSet_self d v t i (tblWf_tail h)

/-- A written index reads what was written, whatever the array, when that is not the default. -/
theorem tblGet_tblSet_self' (d : β) {v : β} (hv : v ≠ d) : ∀ (t : Tbl β) (i : Nat), tblGet d (tblSet d t i v) i = v
  | [], i => by simp [tblSet, hv, tblGet]
  | (k, x) :: t, i => by
    simp only [tblSet, if_neg hv]
    split
    · simp [tblGet]
    · split
      · simp [tblGet]
      · simp only [tblGet]; rw [if_neg (by omega)]; exact tblGet_tblSet_self' d hv t i

theorem tblGet_tblSet {d v : β} {t : Tbl β} (h : tblWf d t = true) (i j : Nat) :
    tblGet d (tblSet d t i v) j = if j = i then v else tblGet d t j := by
  by_cases hj : j = i
  · subst hj; simp [tblGet_tblSet_self d v t j h]
  · simp [hj, tblGet_tblSet_ne d v t hj]

/-- Two writes of one index are the second, when the first is not the default. -/
theorem tblSet_tblSet (d : β) {u : β} (hu : u ≠ d) (v : β) : ∀ (t : Tbl β) (i : Nat), tblSet d (tblSet d t i u) i v = tblSet d t i v
  | [], i => by simp [tblSet, hu]
  | (k, x) :: t, i => by
    simp only [tblSet, if_neg hu]
    split
    · simp [tblSet]
    · split
      · simp [tblSet]
      · rename_i h1 h2
        simp only [tblSet, if_neg h1, if_neg h2, tblSet_tblSet d hu v t i]

/-- What a write leaves in front. -/
theorem tblSet_lower {d : β} (v : β) : ∀ {t : Tbl β} {i b : Nat}, b < i → (∀ e ∈ t, b < e.1) → ∀ e ∈ tblSet d t i v, b < e.1
  | [], i, b, hb, _, e, he => by
    simp only [tblSet] at he; split at he
    · cases he
    · simp at he; subst he; exact hb
  | (k, x) :: t, i, b, hb, h, e, he => by
    have hk : b < k := h (k, x) List.mem_cons_self
    have ht : ∀ e ∈ t, b < e.1 := fun e he => h e (List.mem_cons_of_mem _ he)
    simp only [tblSet] at he
    split at he
    · split at he
      · exact h e he
      · rcases List.mem_cons.1 he with rfl | he
        · exact hb
        · exact h e he
    · split at he
      · split at he
        · exact ht e he
        · rcases List.mem_cons.1 he with rfl | he
          · exact hb
          · exact ht e he
      · rcases List.mem_cons.1 he with rfl | he
        · exact hk
        · exact tblSet_lower v hb ht e he

theorem tblWf_cons {d : β} {k : Nat} {v : β} {t : Tbl β} (hv : v ≠ d) (hl : ∀ e ∈ t, k < e.1) (ht : tblWf d t = true) :
    tblWf d ((k, v) :: t) = true := by
  cases t with
  | nil => simp [tblWf, hv]
  | cons e t =>
    obtain ⟨j, x⟩ := e
    have := hl (j, x) List.mem_cons_self
    simp only [tblWf] at ht ⊢; simp_all

/-- Every write keeps the canonical form. -/
theorem tblSet_wf {d : β} (v : β) : ∀ {t : Tbl β} (i : Nat), tblWf d t = true → tblWf d (tblSet d t i v) = true
  | [], i, _ => by simp only [tblSet]; split <;> simp_all [tblWf]
  | (k, x) :: t, i, h => by
    have hl := tblWf_lt h
    simp only [tblSet]
    split
    · rename_i h1
      split
      · exact h
      · rename_i h2
        refine tblWf_cons h2 ?_ h
        intro e he
        rcases List.mem_cons.1 he with rfl | he
        · exact h1
        · exact Nat.lt_trans h1 (hl e he)
    · split
      · rename_i h1 h2; subst h2
        split
        · exact tblWf_tail h
        · rename_i h3; exact tblWf_cons h3 hl (tblWf_tail h)
      · rename_i h1 h2
        exact tblWf_cons (tblWf_head h) (tblSet_lower v (by omega) hl) (tblSet_wf v i (tblWf_tail h))

/-- A byte written to a canonical memory reads back; the other bytes stay. -/
theorem memGet_memSet {m : Mem} (h : memWf m = true) (a b : Nat) (v : Byte) :
    memGet (memSet m a v) b = if b = a then v else memGet m b := tblGet_tblSet h a b

theorem memSet_wf {m : Mem} (h : memWf m = true) (a : Nat) (v : Byte) : memWf (memSet m a v) = true := tblSet_wf v a h

/-- Writing bytes keeps a memory's canonical form. -/
theorem memPut_wf : ∀ (l : List Byte) {m : Mem} (a : Nat), memWf m = true → memWf (memPut m a l) = true
  | [], _, _, h => h
  | b :: t, _, a, h => memPut_wf t (a + 1) (memSet_wf h a b)

/-- Bytes outside the written ones stay, whatever the memory. -/
theorem memGet_memPut_out : ∀ (l : List Byte) (m : Mem) (a b : Nat), b < a ∨ a + l.length ≤ b → memGet (memPut m a l) b = memGet m b
  | [], _, _, _, _ => rfl
  | x :: t, m, a, b, h => by
    simp only [List.length_cons] at h
    have hb : b ≠ a := by omega
    rw [memPut, memGet_memPut_out t _ (a + 1) b (by omega)]
    exact tblGet_tblSet_ne 0#8 x m hb

/-- The written bytes read back. -/
theorem memGet_memPut_in : ∀ (l : List Byte) {m : Mem} (a i : Nat), memWf m = true → i < l.length →
    memGet (memPut m a l) (a + i) = l.getD i 0#8
  | [], _, _, _, _, hi => by simp at hi
  | x :: t, m, a, i, h, hi => by
    cases i with
    | zero =>
      rw [memPut, memGet_memPut_out t _ (a + 1) (a + 0) (by omega)]
      simp [memGet_memSet h]
    | succ i =>
      rw [memPut, show a + (i + 1) = a + 1 + i by omega]
      rw [memGet_memPut_in t (a + 1) i (memSet_wf h a x) (by simpa using hi)]
      simp

end Sys2Proof.Machine
end

