-- ==== Sys2Proof/Laws/Threads.lean ====
section
/-! SUPPORT. Laws/Threads.lean: what one instruction of an engine thread can do, said once (R46, R64, R67, R70). -/

namespace Sys2Proof.Machine

@[simp] theorem getThread_setThread_ne (s : State) (t u : Nat) (x : Thread) (h : u ≠ t) :
    getThread (setThread s t x) u = getThread s u := tblGet_tblSet_ne _ _ _ h

theorem getThread_setThread (s : State) (t : Nat) {x : Thread} (h : x ≠ Thread.reset) :
    getThread (setThread s t x) t = x := tblGet_tblSet_self' _ h _ _

theorem setThread_setThread (s : State) (t : Nat) {x : Thread} (h : x ≠ Thread.reset) (y : Thread) :
    setThread (setThread s t x) t y = setThread s t y := by
  simp [setThread, tblSet_tblSet _ h]

/-- A thread that holds a packet is not a reset thread. -/
theorem Thread.ne_reset {x : Thread} {p : Packet} (h : x.pkt = some p) : x ≠ Thread.reset := by
  intro e; rw [e] at h; simp [Thread.reset] at h

@[simp] theorem getThread_issued (s : State) (t u : Nat) : getThread (issued s t) u = getThread s u := rfl
@[simp] theorem passProg_issued (s : State) (t : Nat) (p : Packet) : passProg (issued s t) p = passProg s p := rfl

theorem setThread_only (s : State) (t : Nat) (x : Thread) : OnlyThread s (setThread (issued s t) t x) t :=
  ⟨fun u h => getThread_setThread_ne _ t u x h, rfl⟩

@[simp] theorem afterInstr_w (t : Thread) (a b : Word) : (afterInstr t a b).w = t.w := by
  unfold afterInstr; split <;> (repeat' split) <;> rfl
@[simp] theorem afterInstr_p (t : Thread) (a b : Word) : (afterInstr t a b).p = t.p := by
  unfold afterInstr; split <;> (repeat' split) <;> rfl
@[simp] theorem afterInstr_pkt (t : Thread) (a b : Word) : (afterInstr t a b).pkt = t.pkt := by
  unfold afterInstr; split <;> (repeat' split) <;> rfl

@[simp] theorem Thread.regs_setRegs (t : Thread) (r : Regs) : (t.setRegs r).regs = r := rfl
@[simp] theorem Thread.pkt_setRegs (t : Thread) (r : Regs) : (t.setRegs r).pkt = t.pkt := rfl
@[simp] theorem Thread.pc_setRegs (t : Thread) (r : Regs) : (t.setRegs r).pc = t.pc := rfl
@[simp] theorem SCore.regs_setRegs (c : SCore) (r : Regs) : (c.setRegs r).regs = r := rfl

/-- How an instruction of thread t at pc ends that began in state s, with what its meaning answers (R64, R69). -/
def threadEnd (s : State) (t : Nat) (pc : Word) (y : Option (BitVec 32)) : TRes → State
  | .fall s' => setThread s' t (afterInstr (getThread s' t) pc (pc + if y.isSome then 8#64 else 4#64))
  | .jump s' a => setThread s' t { getThread s' t with pc := a }
  | .ended s' => s'
  | .fault c i => threadFault s t c i

/-- The state in which an instruction's meaning runs: it has issued and its n issue slots are taken (R67, R70). -/
def threadTaken (s : State) (t n : Nat) : State := setThread (issued s t) t { getThread s t with slots := (getThread s t).slots + n }

/-- An instruction that issues with its guard 1 runs its meaning, its slots taken; the slots of a faulting one are taken too. -/
theorem threadStep_issues {s : State} {t : Nat} {w : BitVec 32} {y : Option (BitVec 32)} {p : Packet}
    (skip run : State → TRes) (h : ThreadIssues s t w y p) (hg : guardHolds (getThread s t).regs w) :
    threadStep t w y skip run s = 
      threadEnd (threadTaken s t (wordsOf y)) t (getThread s t).pc y (run (threadTaken s t (wordsOf y))) := by
  obtain ⟨g, hg1, hg2⟩ := h.budget
  have hgo : (decide (fOp w.toNat = 0x50 ∨ fOp w.toNat = 0x51) || pget (getThread s t).regs (fG w.toNat)) = true := by
    rcases hg with h | h | h <;> simp [h]
  have h1 : ¬ (0x70 ≤ fOp w.toNat ∧ fOp w.toNat ≤ 0x77) := by have := h.noPlane; omega
  have h2 : ¬ (legalP w.toNat ((y.getD 0#32).toNat) = false ∨ (y.isSome && loopEndsAt (getThread s t) ((getThread s t).pc + 4#64)) = true) := by
    have h5 := h.oneWord
    rw [h.legal]
    cases hy : y.isSome
    · simp
    · simp [h5 hy]
  have h3 : (getThread s t).slots + (if y.isSome && true then 2 else 1) = (getThread s t).slots + wordsOf y := by
    simp [wordsOf]
  have h4 : ¬ g.c < (getThread s t).slots + wordsOf y := by omega
  simp only [threadStep, h.packet, h.thawed, h.notWaiting, Bool.or_self, Bool.false_eq_true, if_false, h1, h2, hgo, h3,
    passProg_issued, hg1, h4, decide_false, threadTaken]
  simp only [if_true]
  split <;> rename_i hr <;> simp only [hr, threadEnd]

/-- An instruction of a thread that only changes registers: what it does, whole. -/
theorem threadStep_regs {s : State} {t : Nat} {w : BitVec 32} {p : Packet} (f : Regs → Regs) {R : Regs → Regs → Prop}
    (h : ThreadIssues s t w none p) (hg : guardHolds (getThread s t).regs w) (hR : R (getThread s t).regs (f (getThread s t).regs)) :
    ThreadWent s (threadStep t w none TRes.fall (threadRegs t f) s) t 1 R := by
  rw [threadStep_issues _ _ h hg]
  have hp := h.packet
  have hi : getThread (issued s t) t = getThread s t := rfl
  have n1 : ({ getThread s t with slots := (getThread s t).slots + 1 } : Thread) ≠ Thread.reset := Thread.ne_reset (p := p) hp
  have e1 : getThread (threadTaken s t (wordsOf none)) t = { getThread s t with slots := (getThread s t).slots + 1 } := by
    simp [threadTaken, wordsOf, getThread_setThread _ _ n1]
  simp only [threadRegs, threadEnd, e1]
  have n2 : (({ getThread s t with slots := (getThread s t).slots + 1 } : Thread).setRegs (f (getThread s t).regs)) ≠ Thread.reset :=
    Thread.ne_reset (p := p) hp
  have e2 : getThread (setThread (threadTaken s t (wordsOf none)) t
      (({ getThread s t with slots := (getThread s t).slots + 1 } : Thread).setRegs (f (getThread s t).regs))) t =
      (({ getThread s t with slots := (getThread s t).slots + 1 } : Thread).setRegs (f (getThread s t).regs)) := getThread_setThread _ _ n2
  have r1 : ({ getThread s t with slots := (getThread s t).slots + 1 } : Thread).regs = (getThread s t).regs := rfl
  simp only [r1] at e2 n2 ⊢
  rw [e2, setThread_setThread _ _ n2, threadTaken]
  simp only [wordsOf, Option.isSome_none, Bool.false_eq_true, if_false]
  rw [setThread_setThread _ _ n1]
  have n3 : (afterInstr (({ getThread s t with slots := (getThread s t).slots + 1 } : Thread).setRegs (f (getThread s t).regs))
      (getThread s t).pc ((getThread s t).pc + 4#64)) ≠ Thread.reset := Thread.ne_reset (p := p) (by simpa using hp)
  refine ⟨setThread_only _ _ _, ⟨?_, ?_⟩⟩
  · rw [getThread_setThread _ _ n3]
    simpa [Thread.regs, Thread.setRegs] using hR
  · rw [getThread_setThread _ _ n3]
    simp [Thread.setRegs]

end Sys2Proof.Machine
end

