-- ==== Sys2Proof/Laws/Cores.lean ====
section
/-! SUPPORT. Laws/Cores.lean: what one instruction of a core can do that sends nothing out, said once (R46, R61, R362). -/

namespace Sys2Proof.Machine

theorem getCore_setCore_ne (s : State) (k j : Nat) (x : SCore) (h : j ≠ k) : getCore (setCore s k x) j = getCore s j := by
  unfold getCore setCore
  suffices h' : ∀ (d d' : SCore) (t : Tbl SCore), tblGet d' (tblSet d t k x) j = tblGet d' t j from h' _ _ _
  intro d d' t
  induction t with
  | nil => simp only [tblSet]; split <;> simp [tblGet, Ne.symm h]
  | cons e t ih =>
    obtain ⟨i, v⟩ := e
    simp only [tblSet]; split
    · split <;> simp [tblGet, Ne.symm h]
    · split
      · rename_i h2; subst h2; split <;> simp [tblGet, Ne.symm h]
      · simp only [tblGet]; split
        · rfl
        · exact ih

/-- Rising indices, as every write keeps them. -/
abbrev Rising {β : Type} (t : Tbl β) : Prop := t.Pairwise (fun a b => a.1 < b.1)

theorem tblSet_mem {β : Type} [DecidableEq β] {d v : β} {i : Nat} : ∀ {t : Tbl β} {e : Nat × β}, e ∈ tblSet d t i v → e ∈ t ∨ e.1 = i
  | [], e, h => by simp only [tblSet] at h; split at h <;> simp_all
  | (k, x) :: t, e, h => by
    simp only [tblSet] at h
    split at h
    · split at h
      · exact Or.inl h
      · rcases List.mem_cons.1 h with rfl | h
        · exact Or.inr rfl
        · exact Or.inl h
    · split at h
      · split at h
        · exact Or.inl (List.mem_cons_of_mem _ h)
        · rcases List.mem_cons.1 h with rfl | h
          · exact Or.inr rfl
          · exact Or.inl (List.mem_cons_of_mem _ h)
      · rcases List.mem_cons.1 h with rfl | h
        · exact Or.inl List.mem_cons_self
        · rcases tblSet_mem h with h | h
          · exact Or.inl (List.mem_cons_of_mem _ h)
          · exact Or.inr h

theorem tblSet_rising {β : Type} [DecidableEq β] (d v : β) (i : Nat) : ∀ {t : Tbl β}, Rising t → Rising (tblSet d t i v)
  | [], _ => by simp only [tblSet]; split <;> simp
  | (k, x) :: t, h => by
    obtain ⟨hl, ht⟩ := List.pairwise_cons.1 h
    simp only [tblSet]
    split
    · rename_i h1
      split
      · exact h
      · refine List.pairwise_cons.2 ⟨fun e he => ?_, h⟩
        rcases List.mem_cons.1 he with rfl | he
        · exact h1
        · exact Nat.lt_trans h1 (hl e he)
    · split
      · rename_i h1 h2; subst h2
        split
        · exact ht
        · exact List.pairwise_cons.2 ⟨hl, ht⟩
      · rename_i h1 h2
        refine List.pairwise_cons.2 ⟨fun e he => ?_, tblSet_rising d v i ht⟩
        rcases tblSet_mem he with he | he
        · exact hl e he
        · rw [he]; simp only; omega

theorem tblGet_none {β : Type} (d : β) (i : Nat) : ∀ {t : Tbl β}, (∀ e ∈ t, e.1 ≠ i) → tblGet d t i = d
  | [], _ => rfl
  | (k, v) :: t, h => by
    have := h (k, v) List.mem_cons_self
    simp only [tblGet]; rw [if_neg this]
    exact tblGet_none d i (fun e he => h e (List.mem_cons_of_mem _ he))

/-- A written index reads what was written, in an array of rising indices. -/
theorem tblGet_tblSet_rising {β : Type} [DecidableEq β] (d v : β) (i : Nat) : ∀ {t : Tbl β}, Rising t → tblGet d (tblSet d t i v) i = v
  | [], _ => by simp only [tblSet]; split <;> simp_all [tblGet]
  | (k, x) :: t, h => by
    obtain ⟨hl, ht⟩ := List.pairwise_cons.1 h
    simp only [tblSet]
    split
    · rename_i h1
      split
      · rename_i h2; subst h2
        refine tblGet_none v i (fun e he => ?_)
        rcases List.mem_cons.1 he with rfl | he
        · simp only; omega
        · have := hl e he; simp only at this; omega
      · simp [tblGet]
    · split
      · rename_i h1 h2; subst h2
        split
        · rename_i h3; subst h3
          refine tblGet_none v i (fun e he => ?_)
          have := hl e he; simp only at this; omega
        · simp [tblGet]
      · simp only [tblGet]; rw [if_neg (by omega)]; exact tblGet_tblSet_rising d v i ht

theorem getCore_setCore (s : State) (k : Nat) (x : SCore) (h : Rising s.cores) : getCore (setCore s k x) k = x :=
  tblGet_tblSet_rising _ _ _ h

theorem setCore_rising {s : State} (k : Nat) (x : SCore) (h : Rising s.cores) : Rising (setCore s k x).cores :=
  tblSet_rising _ _ _ h

/-- What stays inside a core touches only that core, but for DFAULT_LAST when a Tally core stops. -/
theorem coreLocal_frame (n : Nat) (s : State) (e : Nat × CRes) :
    (∀ j, j ≠ e.1 → getCore (coreLocal n s e) j = getCore s j) ∧ (Rising s.cores → Rising (coreLocal n s e).cores) ∧
      (e.1 < 3 ∨ (∃ c, e.2 = .fall c) ∨ (∃ c a, e.2 = .jump c a) → coreLocal n s e = { s with cores := (coreLocal n s e).cores }) := by
  obtain ⟨k, r⟩ := e
  have set (x : SCore) : (∀ j, j ≠ k → getCore (setCore s k x) j = getCore s j) ∧ (Rising s.cores → Rising (setCore s k x).cores) :=
    ⟨fun j hj => getCore_setCore_ne s k j x hj, fun h => setCore_rising k x h⟩
  have trap (code : Nat) (tval epc : Word) : (∀ j, j ≠ k → getCore (takeException s k code tval epc) j = getCore s j) ∧
      (Rising s.cores → Rising (takeException s k code tval epc).cores) ∧
      (k < 3 → takeException s k code tval epc = { s with cores := (takeException s k code tval epc).cores }) := by
    unfold takeException
    simp only
    split
    · rename_i h
      exact ⟨(set _).1, (set _).2, fun hk => absurd h.2 (by omega)⟩
    · exact ⟨(set _).1, (set _).2, fun _ => rfl⟩
  cases r with
  | fall c => exact ⟨(set _).1, (set _).2, fun _ => rfl⟩
  | jump c a => exact ⟨(set _).1, (set _).2, fun _ => rfl⟩
  | trap code tval =>
    refine ⟨(trap _ _ _).1, (trap _ _ _).2.1, fun h => (trap _ _ _).2.2 ?_⟩
    rcases h with h | ⟨_, h⟩ | ⟨_, _, h⟩
    · exact h
    · cases h
    · cases h
  | service code tval =>
    refine ⟨(trap _ _ _).1, (trap _ _ _).2.1, fun h => (trap _ _ _).2.2 ?_⟩
    rcases h with h | ⟨_, h⟩ | ⟨_, _, h⟩
    · exact h
    · cases h
    · cases h
  | ask r fin => exact ⟨fun _ _ => rfl, id, fun _ => rfl⟩

/-- An agent's cores are distinct. -/
theorem agentCores_nodup (s : State) (who : Agent) : (agentCores s who).Nodup := by
  unfold agentCores
  cases who with
  | thread t => simp
  | triad => simp only; split <;> (try split) <;> simp
  | triadCore i => simp only; split <;> (try split) <;> simp
  | tally c => simp

/-- An agent is one core, or all its cores are the Triad's. -/
theorem agentCores_cases {s : State} {who : Agent} {k : Nat} (h : k ∈ agentCores s who) :
    agentCores s who = [k] ∨ ∀ j ∈ agentCores s who, j < 3 := by
  unfold agentCores at *
  cases who with
  | thread t => simp at h
  | tally c => simp only [List.mem_singleton] at h; subst h; exact Or.inl rfl
  | triadCore i =>
    simp only at *; split at h
    · simp at h
    · split at h
      · simp at h
      · simp only [List.mem_singleton] at h; subst h; simp_all
  | triad =>
    simp only at *; split at h
    · simp at h
    · split at h
      · simp only [List.mem_singleton] at h; subst h; simp_all
      · refine Or.inr ?_; intro j hj; split at hj <;> simp_all; omega

/-- The instruction of each core of an agent that is free to issue. -/
def issuedCores (s : State) (who : Agent) (w : BitVec 32) (y : Option (BitVec 32)) (run : State → Nat → SCore → CRes) : List (Nat × CRes) :=
  ((agentCores s who).filter (fun k => !coreIdle s k)).map (fun k => (k, coreIssue s k w y run))

theorem vote_none {α : Type} [DecidableEq α] (s : State) :
    ∀ l : List (Nat × Option α), (∀ e ∈ l, e.2 = none) → vote s l = (s, none)
  | [], _ => rfl
  | [(i, a)], h => by have := h (i, a) (by simp); simp only at this; subst this; rfl
  | [(i, a), (j, b)], h => by
    have h1 := h (i, a) (by simp); have h2 := h (j, b) (by simp); simp only at h1 h2; subst h1 h2; rfl
  | [(i, a), (j, b), (k, c)], h => by
    have h1 := h (i, a) (by simp); have h2 := h (j, b) (by simp); have h3 := h (k, c) (by simp)
    simp only at h1 h2 h3; subst h1 h2 h3; rfl
  | _ :: _ :: _ :: _ :: _, _ => rfl

/-- Copies that present nothing issue nothing. -/
theorem voteAll_none {α : Type} [DecidableEq α] (s : State) (voted : Bool) {l : List (Nat × Option α)} (h : ∀ e ∈ l, e.2 = none) :
    voteAll s voted l = (s, none) := by
  have hany : l.any (fun e => e.2.isSome) = false := by
    rw [List.any_eq_false]; intro e he; simp [h e he]
  have hhead : (l.head?).bind (·.2) = none := by
    cases l with
    | nil => rfl
    | cons e l => exact h e List.mem_cons_self
  unfold voteAll
  split
  · rw [hhead]
  · simp [hany, vote_none s l h]

theorem askOf_coreIssue {s : State} {k : Nat} {w : BitVec 32} {y : Option (BitVec 32)} {run : State → Nat → SCore → CRes}
    (h : ∀ c, askOf (run s k c) = none) : askOf (coreIssue s k w y run) = none := by
  unfold coreIssue
  simp only
  repeat' split
  all_goals first | rfl | exact h _

/-- Cores that ask for nothing present nothing. -/
theorem copyOf_none {rs : List (Nat × CRes)} (h : ∀ e ∈ rs, askOf e.2 = none) (k : Nat) : copyOf rs k = none := by
  unfold copyOf
  cases hf : rs.find? (fun e => e.1 == k) with
  | none => rfl
  | some e => exact h e (List.mem_of_find?_eq_some hf)

/-- An instruction that asks for nothing outside its core: each core that issues does its own part. -/
theorem coreStep_quiet {s : State} {who : Agent} {w : BitVec 32} {y : Option (BitVec 32)} {run : State → Nat → SCore → CRes}
    (perform : State → Nat → Req → State × Reply) (h : ∀ k c, askOf (run s k c) = none) :
    coreStep who w y run perform s = (issuedCores s who w y run).foldl (coreLocal (if y.isSome then 8 else 4)) s := by
  have hall : ∀ e ∈ issuedCores s who w y run, askOf e.2 = none := by
    intro e he
    obtain ⟨k, _, rfl⟩ := List.mem_map.1 he
    exact askOf_coreIssue (h k)
  unfold coreStep
  simp only
  rw [voteAll_none]
  · rfl
  · intro e he
    generalize (if y.isSome = true then 8 else 4) = n at he
    split at he
    · obtain ⟨x, _, rfl⟩ := List.mem_map.1 he
      exact copyOf_none hall x
    · obtain ⟨x, hx, rfl⟩ := List.mem_map.1 he
      exact hall x hx

/-- A core's part depends on that core alone. -/
theorem coreLocal_at (n : Nat) {a b : State} {k : Nat} (r : CRes) (h : getCore a k = getCore b k) (ha : Rising a.cores) (hb : Rising b.cores) :
    getCore (coreLocal n a (k, r)) k = getCore (coreLocal n b (k, r)) k := by
  have tr (code : Nat) (tval epc : Word) : getCore (takeException a k code tval epc) k = getCore (takeException b k code tval epc) k := by
    have ea (x : State) (hx : Rising x.cores) : getCore (takeException x k code tval epc) k = exception k (getCore x k) code tval epc := by
      unfold takeException
      simp only
      split
      · exact getCore_setCore _ _ _ hx
      · exact getCore_setCore _ _ _ hx
    rw [ea a ha, ea b hb, h]
  cases r with
  | fall c => simp only [coreLocal, retire, getCore_setCore _ _ _ ha, getCore_setCore _ _ _ hb]
  | jump c x => simp only [coreLocal, retire, getCore_setCore _ _ _ ha, getCore_setCore _ _ _ hb]
  | trap code tval => simp only [coreLocal, h]; exact tr _ _ _
  | service code tval => simp only [coreLocal, h]; exact tr _ _ _
  | ask q fin => exact h

/-- The cores of a list do their own parts one after another: core k's part is what it would do alone. -/
theorem foldl_coreLocal (n : Nat) : ∀ (l : List (Nat × CRes)) (s : State), (l.map (·.1)).Nodup → Rising s.cores →
    let s' := l.foldl (coreLocal n) s
    Rising s'.cores ∧ (∀ j, j ∉ l.map (·.1) → getCore s' j = getCore s j) ∧
      (∀ k r, (k, r) ∈ l → getCore s' k = getCore (coreLocal n s (k, r)) k) ∧
      ((∀ e ∈ l, e.1 < 3 ∨ (∃ c, e.2 = .fall c) ∨ (∃ c a, e.2 = .jump c a)) → s' = { s with cores := s'.cores })
  | [], s, _, hr => ⟨hr, fun _ _ => rfl, fun _ _ h => (List.not_mem_nil h).elim, fun _ => rfl⟩
  | e :: l, s, hn, hr => by
    obtain ⟨he, hn⟩ := List.nodup_cons.1 hn
    have f := coreLocal_frame n s e
    have ih := foldl_coreLocal n l (coreLocal n s e) hn (f.2.1 hr)
    simp only [List.foldl_cons] at ih ⊢
    obtain ⟨i1, i2, i3, i4⟩ := ih
    refine ⟨i1, ?_, ?_, ?_⟩
    · intro j hj
      simp only [List.map_cons, List.mem_cons, not_or] at hj
      rw [i2 j hj.2, f.1 j hj.1]
    · intro k r hk
      rcases List.mem_cons.1 hk with rfl | hk
      · rw [i2 _ he]
      · have hne : k ≠ e.1 := fun h => he (List.mem_map.2 ⟨_, hk, h⟩)
        rw [i3 k r hk]
        have hk0 : getCore (coreLocal n s e) k = getCore s k := f.1 k hne
        exact coreLocal_at n r hk0 (f.2.1 hr) hr
    · intro ha
      have h1 := f.2.2 (ha e List.mem_cons_self)
      have h2 := i4 (fun x hx => ha x (List.mem_cons_of_mem _ hx))
      generalize List.foldl (coreLocal n) (coreLocal n s e) l = s' at h2 ⊢
      rw [h2, h1]

/-- A core's part of an instruction that asks for nothing outside: what becomes of that core, and of the others. -/
theorem coreStep_core {s : State} {who : Agent} {k : Nat} {w : BitVec 32} {y : Option (BitVec 32)} {run : State → Nat → SCore → CRes}
    (perform : State → Nat → Req → State × Reply) (hq : ∀ k c, askOf (run s k c) = none) (h : CoreIssues s who k w y)
    (hr : Rising s.cores) :
    getCore (coreStep who w y run perform s) k = getCore (coreLocal (4 * wordsOf y) s (k, coreIssue s k w y run)) k ∧
      (∀ j, j ∉ agentCores s who → getCore (coreStep who w y run perform s) j = getCore s j) := by
  have hn : (issuedCores s who w y run).map (·.1) = (agentCores s who).filter (fun k => !coreIdle s k) := by
    simp [issuedCores, List.map_map, Function.comp_def]
  have hnd : ((issuedCores s who w y run).map (·.1)).Nodup := by rw [hn]; exact (agentCores_nodup s who).filter _
  have h4 : (if y.isSome then 8 else 4) = 4 * wordsOf y := by unfold wordsOf; split <;> rfl
  rw [coreStep_quiet perform hq, h4]
  obtain ⟨f1, f2, f3, _⟩ := foldl_coreLocal (4 * wordsOf y) _ s hnd hr
  have hm : (k, coreIssue s k w y run) ∈ issuedCores s who w y run :=
    List.mem_map.2 ⟨k, List.mem_filter.2 ⟨h.mine, by simp [h.free]⟩, rfl⟩
  refine ⟨f3 k _ hm, fun j hj => f2 j ?_⟩
  rw [hn]
  exact fun hx => hj (List.mem_of_mem_filter hx)

/-- When every core of an agent goes on, or only Triad cores run it, nothing outside the cores changes. -/
theorem coreStep_rest {s : State} {who : Agent} {w : BitVec 32} {y : Option (BitVec 32)} {run : State → Nat → SCore → CRes}
    (perform : State → Nat → Req → State × Reply) (hq : ∀ k c, askOf (run s k c) = none) (hr : Rising s.cores)
    (ha : ∀ e ∈ issuedCores s who w y run, e.1 < 3 ∨ (∃ c, e.2 = .fall c) ∨ (∃ c a, e.2 = .jump c a)) :
    coreStep who w y run perform s = { s with cores := (coreStep who w y run perform s).cores } := by
  have hn : (issuedCores s who w y run).map (·.1) = (agentCores s who).filter (fun k => !coreIdle s k) := by
    simp [issuedCores, List.map_map, Function.comp_def]
  have hnd : ((issuedCores s who w y run).map (·.1)).Nodup := by rw [hn]; exact (agentCores_nodup s who).filter _
  rw [coreStep_quiet perform hq]
  exact (foldl_coreLocal _ _ s hnd hr).2.2.2 ha

/-- An instruction of a core that only changes registers: what it does, whole. -/
theorem coreStep_regs {s : State} {who : Agent} {k : Nat} {w : BitVec 32} {y : Option (BitVec 32)} (f : Regs → Regs)
    {R : Regs → Regs → Prop} (perform : State → Nat → Req → State × Reply) (h : CoreIssues s who k w y)
    (hg : guardHolds (getCore s k).regs w) (hr : Rising s.cores) (hR : R (getCore s k).regs (f (getCore s k).regs)) :
    let s' := coreStep who w y (fun _ _ c => .fall (c.setRegs (f c.regs))) perform s
    CoreWent s s' k (wordsOf y) R ∧ OnlyCores s s' who := by
  have hq : ∀ (k : Nat) (c : SCore), askOf (CRes.fall (c.setRegs (f c.regs))) = none := fun _ _ => rfl
  have hgo : (decide (fOp w.toNat = 0x50 ∨ fOp w.toNat = 0x51) || pget (getCore s k).regs (fG w.toNat)) = true := by
    rcases hg with h | h | h <;> simp [h]
  have hf : fetchOk k (getCore s k) (if y.isSome then 8 else 4) = true := by
    have : (if y.isSome then 8 else 4) = 4 * wordsOf y := by unfold wordsOf; split <;> rfl
    rw [this]; exact h.fetch
  have hi : coreIssue s k w y (fun _ _ c => .fall (c.setRegs (f c.regs))) = .fall ((getCore s k).setRegs (f (getCore s k).regs)) := by
    unfold coreIssue
    simp only [hf, h.legal, hgo, Bool.true_eq_false, if_false, if_true]
  have hc := coreStep_core (run := fun _ _ c => .fall (c.setRegs (f c.regs))) perform hq h hr
  rw [hi] at hc
  have e : getCore (coreStep who w y (fun _ _ c => .fall (c.setRegs (f c.regs))) perform s) k =
      { (getCore s k).setRegs (f (getCore s k).regs) with
        pc := (getCore s k).pc + BitVec.ofNat 64 (4 * wordsOf y), retired := ((getCore s k).retired + 1) % 2 ^ 64 } := by
    rw [hc.1]; simp only [coreLocal, retire]; rw [getCore_setCore _ _ _ hr]; rfl
  refine ⟨⟨?_, ?_⟩, ⟨hc.2, ?_⟩⟩
  · rw [e]; exact hR
  · rw [e]; rfl
  · refine coreStep_rest perform hq hr (fun e he => ?_)
    obtain ⟨j, hj, rfl⟩ := List.mem_map.1 he
    have hj := List.mem_of_mem_filter hj
    rcases agentCores_cases h.mine with h1 | h1
    · rw [h1] at hj; simp only [List.mem_singleton] at hj; subst hj
      exact Or.inr (Or.inl ⟨_, hi⟩)
    · exact Or.inl (h1 j hj)

/-- The law of an instruction that only changes registers (both profiles). -/
theorem regLaw_of {i : Agent → Instr} {w : BitVec 32} {R : Regs → Regs → Prop} (f : Regs → Regs)
    (hi : ∀ who s, exec (i who) s = .next (regsOp who w f s)) (hR : ∀ r : Regs, tblWf 0#64 r.w = true → R r (f r)) : RegLaw i w R := by
  refine ⟨fun s t p h hg hw => ⟨_, hi _ _, threadStep_regs f h hg (hR _ hw)⟩, fun s who k h hg hr hw => ⟨_, hi _ _, ?_⟩⟩
  have hx : regsOp who w f s = coreStep who w none (fun _ _ c => .fall (c.setRegs (f c.regs))) noRequest s := by
    cases who with
    | thread t => have := h.mine; simp [agentCores] at this
    | _ => rfl
  rw [hx]
  exact coreStep_regs f noRequest h hg hr (hR _ hw)

/-- A write to w[d] reads back there and nowhere else; a write to w0 is discarded (R43). -/
theorem regIs_rset {d : BitVec 6} {v : Regs → Word} {r : Regs} (h : tblWf 0#64 r.w = true) : RegIs d v r (rset r d.toNat (v r)) := by
  refine ⟨fun i => ?_, ?_⟩
  · unfold rset rget
    by_cases h0 : i = 0
    · simp [h0]
    · by_cases hd : d.toNat = 0
      · simp [hd, h0]
      · simp only [if_neg hd, ne_eq, h0, not_false_eq_true, and_true]
        exact tblGet_tblSet h _ _
  · unfold rset; split <;> rfl

end Sys2Proof.Machine
end

