-- ==== Sys2Proof/Laws/Encoding.lean ====
section
/-! SUPPORT. Laws/Encoding.lean: the fields of an encoded word read back, and a word is the encoding of its fields. -/

namespace Sys2Proof

/-- A joined bit vector as a number. -/
theorem joined_toNat {m n : Nat} (x : BitVec m) (y : BitVec n) : (x ++ y).toNat = x.toNat * 2 ^ n + y.toNat := by
  rw [BitVec.toNat_append, ← Nat.shiftLeft_add_eq_or_of_lt y.isLt, Nat.shiftLeft_eq]

/-! ### Words as numbers -/

theorem encFields_toNat (op : Nat) (d a b : BitVec 6) (fn : Nat) (g : BitVec 3) : (encFields op d a b fn g).toNat =
    op % 128 * 2 ^ 25 + d.toNat * 2 ^ 19 + a.toNat * 2 ^ 13 + b.toNat * 2 ^ 7 + fn % 16 * 2 ^ 3 + g.toNat := by
  simp only [encFields, joined_toNat, BitVec.toNat_ofNat]; omega

theorem encI_toNat (op : Nat) (f : FmtI) : (encI op f).toNat =
    op % 128 * 2 ^ 25 + f.d.toNat * 2 ^ 19 + f.a.toNat * 2 ^ 13 + f.imm.toNat * 2 ^ 3 + f.g.toNat := by
  simp only [encI, joined_toNat, BitVec.toNat_ofNat]; omega

theorem encL_toNat (op : Nat) (f : FmtL) : (encL op f).toNat =
    op % 128 * 2 ^ 25 + f.d.toNat * 2 ^ 19 + f.imm.toNat * 2 ^ 3 + f.g.toNat := by
  simp only [encL, joined_toNat, BitVec.toNat_ofNat]; omega

theorem encB_toNat (op : Nat) (f : FmtB) : (encB op f).toNat =
    op % 128 * 2 ^ 25 + f.t.toNat * 2 ^ 24 + f.p.toNat * 2 ^ 21 + f.disp.toNat := by
  simp only [encB, joined_toNat, BitVec.toNat_ofNat, BitVec.toNat_ofBool]
  have : f.t.toNat < 2 := by cases f.t <;> decide
  omega

/-! ### Fields of an encoded word -/

theorem slice_toNat (w : BitVec 32) (k n : Nat) : (w.extractLsb' k n).toNat = w.toNat / 2 ^ k % 2 ^ n := by
  rw [BitVec.extractLsb'_toNat, Nat.shiftRight_eq_div_pow]

/-- A slice is the field that its number spells. -/
theorem slice_eq {n : Nat} {w : BitVec 32} {k : Nat} {x : BitVec n} (h : w.toNat / 2 ^ k % 2 ^ n = x.toNat) : w.extractLsb' k n = x := by
  apply BitVec.eq_of_toNat_eq; rw [slice_toNat, h]

@[simp] theorem opOf_encA (op fn : Nat) (f : FmtA) : opOf (encA op f fn) = op % 128 := by
  have := encFields_toNat op f.d f.a f.b fn f.g
  simp only [opOf, encA, slice_toNat]; omega

@[simp] theorem opOf_encX (op u : Nat) (f : FmtX) : opOf (encX op f u) = op % 128 := by
  have := encFields_toNat op f.d f.a f.b u f.g
  simp only [opOf, encX, slice_toNat]; omega

@[simp] theorem opOf_encI (op : Nat) (f : FmtI) : opOf (encI op f) = op % 128 := by
  have := encI_toNat op f
  simp only [opOf, slice_toNat]; omega

@[simp] theorem opOf_encL (op : Nat) (f : FmtL) : opOf (encL op f) = op % 128 := by
  have := encL_toNat op f
  simp only [opOf, slice_toNat]; omega

@[simp] theorem opOf_encB (op : Nat) (f : FmtB) : opOf (encB op f) = op % 128 := by
  have := encB_toNat op f
  have : f.t.toNat < 2 := by cases f.t <;> decide
  simp only [opOf, slice_toNat]; omega

@[simp] theorem unitOf_encA (op fn : Nat) (f : FmtA) : unitOf (encA op f fn) = fn % 16 := by
  have := encFields_toNat op f.d f.a f.b fn f.g
  simp only [unitOf, encA, slice_toNat]; omega

@[simp] theorem unitOf_encX (op u : Nat) (f : FmtX) : unitOf (encX op f u) = u % 16 := by
  have := encFields_toNat op f.d f.a f.b u f.g
  simp only [unitOf, encX, slice_toNat]; omega

@[simp] theorem fieldsA_encA (op fn : Nat) (f : FmtA) : fieldsA (encA op f fn) = f := by
  have := encFields_toNat op f.d f.a f.b fn f.g
  obtain ⟨d, a, b, g⟩ := f
  simp only [fieldsA, encA] at *
  congr 1 <;> (apply slice_eq; omega)

@[simp] theorem fieldsX_encX (op u : Nat) (f : FmtX) (y : BitVec 32) : fieldsX (encX op f u) y = { f with desc := y } := by
  have := encFields_toNat op f.d f.a f.b u f.g
  obtain ⟨d, a, b, g, z⟩ := f
  simp only [fieldsX, encX] at *
  congr 1 <;> (apply slice_eq; omega)

@[simp] theorem fieldsI_encI (op : Nat) (f : FmtI) : fieldsI (encI op f) = f := by
  have := encI_toNat op f
  obtain ⟨d, a, i, g⟩ := f
  simp only [fieldsI] at *
  congr 1 <;> (apply slice_eq; omega)

@[simp] theorem fieldsL_encL (op : Nat) (f : FmtL) : fieldsL (encL op f) = f := by
  have := encL_toNat op f
  obtain ⟨d, i, g⟩ := f
  simp only [fieldsL] at *
  congr 1 <;> (apply slice_eq; omega)

@[simp] theorem fieldsB_encB (op : Nat) (f : FmtB) : fieldsB (encB op f) = f := by
  have h := encB_toNat op f
  obtain ⟨t, p, d⟩ := f
  have ht : t.toNat < 2 := by cases t <;> decide
  have hb : (encB op ⟨t, p, d⟩).getLsbD 24 = t := by
    rw [BitVec.getLsbD, Nat.testBit_eq_decide_div_mod_eq, h]
    cases t <;> simp <;> omega
  simp only [fieldsB, hb] at *
  congr 1 <;> (apply slice_eq; omega)

/-- The fn field of an encoded word, in its low n bits. -/
theorem fn_encA (op fn n : Nat) (f : FmtA) (h : n ≤ 4) : (encA op f fn).extractLsb' 3 n = BitVec.ofNat n fn := by
  have := encFields_toNat op f.d f.a f.b fn f.g
  apply slice_eq
  rw [BitVec.toNat_ofNat]; simp only [encA]
  interval_cases n <;> omega

theorem fn_encX (op u n : Nat) (f : FmtX) (h : n ≤ 4) : (encX op f u).extractLsb' 3 n = BitVec.ofNat n u := by
  have := encFields_toNat op f.d f.a f.b u f.g
  apply slice_eq
  rw [BitVec.toNat_ofNat]; simp only [encX]
  interval_cases n <;> omega

/-! ### A word is the encoding of its fields -/

theorem encA_fieldsA (w : BitVec 32) : encA (opOf w) (fieldsA w) (unitOf w) = w := by
  apply BitVec.eq_of_toNat_eq
  rw [encA, encFields_toNat]
  simp only [fieldsA, opOf, unitOf, slice_toNat]
  have := w.isLt; omega

theorem encX_fieldsX (w y : BitVec 32) : encX (opOf w) (fieldsX w y) (unitOf w) = w := by
  apply BitVec.eq_of_toNat_eq
  rw [encX, encFields_toNat]
  simp only [fieldsX, opOf, unitOf, slice_toNat]
  have := w.isLt; omega

theorem encI_fieldsI (w : BitVec 32) : encI (opOf w) (fieldsI w) = w := by
  apply BitVec.eq_of_toNat_eq
  rw [encI_toNat]
  simp only [fieldsI, opOf, slice_toNat]
  have := w.isLt; omega

theorem encL_fieldsL (w : BitVec 32) : encL (opOf w) (fieldsL w) = w := by
  apply BitVec.eq_of_toNat_eq
  rw [encL_toNat]
  simp only [fieldsL, opOf, slice_toNat]
  have := w.isLt; omega

theorem encB_fieldsB (w : BitVec 32) : encB (opOf w) (fieldsB w) = w := by
  apply BitVec.eq_of_toNat_eq
  rw [encB_toNat]
  have ht : (w.getLsbD 24).toNat = w.toNat / 2 ^ 24 % 2 := by
    rw [BitVec.getLsbD, Nat.testBit_eq_decide_div_mod_eq]
    rcases Nat.mod_two_eq_zero_or_one (w.toNat / 2 ^ 24) with h | h <;> rw [h] <;> rfl
  simp only [fieldsB, opOf, slice_toNat, ht]
  have := w.isLt; omega

/-! ### Descriptors -/

/-- One bit of a descriptor whose field the row names. -/
theorem setField_bit (pos n v : Nat) (y : BitVec 32) (i : Nat) : (setField pos n v y).getLsbD i =
    ((y.getLsbD i && (decide (i < 32) && !(decide (i < 32) && (decide (pos ≤ i) && decide (i - pos < n)))))
      || (decide (i < 32) && (decide (pos ≤ i) && v.testBit (i - pos)))) := by
  simp only [setField, BitVec.getLsbD_or, BitVec.getLsbD_and, BitVec.getLsbD_not, BitVec.getLsbD_ofNat, Nat.testBit_mul_two_pow,
    Nat.testBit_two_pow_sub_one]

/-- The field that a row names reads back. -/
theorem slice_setField (pos n v : Nat) (y : BitVec 32) (h : pos + n ≤ 32) : (setField pos n v y).extractLsb' pos n = BitVec.ofNat n v := by
  apply BitVec.eq_of_getLsbD_eq
  intro i hi
  have h2 : pos + i < 32 := by omega
  rw [BitVec.getLsbD_extractLsb', setField_bit, BitVec.getLsbD_ofNat, show pos + i - pos = i by omega]
  simp only [h2, hi, decide_true, Bool.true_and, Nat.le_add_right, Bool.not_true, Bool.and_false, Bool.false_or]

/-- A descriptor that carries a field keeps it. -/
theorem setField_self (pos n v : Nat) (y : BitVec 32) (hy : y.extractLsb' pos n = BitVec.ofNat n v) (hv : v < 2 ^ n) :
    setField pos n v y = y := by
  apply BitVec.eq_of_getLsbD_eq
  intro i hi
  rw [setField_bit]
  by_cases c1 : pos ≤ i
  · by_cases c2 : i - pos < n
    · have e : (y.extractLsb' pos n).getLsbD (i - pos) = (BitVec.ofNat n v).getLsbD (i - pos) := by rw [hy]
      simp only [BitVec.getLsbD_extractLsb', BitVec.getLsbD_ofNat, c2, decide_true, Bool.true_and] at e
      rw [show pos + (i - pos) = i by omega] at e
      rw [e]; simp [hi, c1, c2]
    · have : v.testBit (i - pos) = false := Nat.testBit_lt_two_pow (Nat.lt_of_lt_of_le hv (Nat.pow_le_pow_right (by omega) (by omega)))
      simp [hi, c1, c2, this]
  · simp [hi, c1]

end Sys2Proof
end

