-- ==== Sys2Proof/Laws/PacketX.lean ====
section
/-! SUPPORT. Laws/PacketX.lean: what a packet X instruction of a thread can do, said once (R90 to R92). -/

namespace Sys2Proof.Machine

theorem threadTaken_thread {s : State} {t : Nat} {p : Packet} (n : Nat) (h : (getThread s t).pkt = some p) :
    getThread (threadTaken s t n) t = { getThread s t with slots := (getThread s t).slots + n } :=
  getThread_setThread _ _ (Thread.ne_reset (p := p) h)

/-- A packet X instruction of a thread that issues it, its unit answering: its meaning runs with its slots taken. -/
theorem packetX_issues {s : State} {t : Fin 512} {w y : BitVec 32} {p : Packet} (run : Nat → State → Thread → Packet → TRes)
    (h : ThreadIssues s t w (some y) p) (hg : guardHolds (getThread s t).regs w) (hb : blockRefuses s (xBlock (fOp w.toNat)) = false) :
    packetX (.thread t) w y run s =
      threadEnd (threadTaken s t 2) t (getThread s t).pc (some y)
        (run t (threadTaken s t 2) { getThread s t with slots := (getThread s t).slots + 2 } p) := by
  have ht := threadTaken_thread 2 h.packet
  have hb' : blockRefuses (threadTaken s t 2) (xBlock (fOp w.toNat)) = false := hb
  simp only [packetX]
  rw [threadStep_issues _ _ h hg]
  simp only [wordsOf, Option.isSome_some, if_true, ht, h.packet, hb', Bool.false_eq_true, if_false]

/-- The status and a result reach the registers as R90 says. -/
theorem statusIs_set {d : BitVec 6} (v : Option Word) (status detail high : Nat) {r : Regs} (h : tblWf 0#64 r.w = true) :
    StatusIs d v status detail high r (setStatus (match v with | some x => rset r d.toNat x | none => r) status detail high) := by
  have w1 : ∀ (r : Regs) (x : Word), tblWf 0#64 r.w = true → ∀ i, rget (rset r 1 x) i = if i = 1 then x else rget r i := by
    intro r x h i
    simp only [rset, rget, Nat.one_ne_zero, if_false]
    by_cases h0 : i = 0
    · subst h0; simp
    · simp only [h0, if_false]; exact tblGet_tblSet h _ _
  have wf : tblWf 0#64 (match v with | some x => rset r d.toNat x | none => r).w = true := by
    cases v with
    | none => exact h
    | some x => simp only [rset]; split
                · exact h
                · exact tblSet_wf _ _ h
  have ps : ∀ (r : Regs) (b : Bool) (i : Nat), i < 8 → pget (pset r 7 b) i = if i = 7 then b else pget r i := by
    intro r b i hi
    by_cases h0 : i = 0
    · subst h0; simp [pget]
    · simp only [pget, h0, if_false, pset]
      obtain ⟨w, p⟩ := r
      have hi' : i = 1 ∨ i = 2 ∨ i = 3 ∨ i = 4 ∨ i = 5 ∨ i = 6 ∨ i = 7 := by omega
      cases b <;> rcases hi' with h | h | h | h | h | h | h <;> subst h <;> simp
  refine ⟨fun i => ?_, fun i hi => ?_⟩
  · have hp : ∀ (r : Regs) b j, rget (pset r 7 b) j = rget r j := by intro r b j; simp [rget, pset]
    simp only [setStatus, hp, w1 _ _ wf]
    split
    · rfl
    · cases v with
      | none => rfl
      | some x => exact (regIs_rset (v := fun _ => x) h).1 i
  · simp only [setStatus]
    rw [ps _ _ _ hi]
    have hp : ∀ (r : Regs) k x j, pget (rset r k x) j = pget r j := by
      intro r k x j; simp only [pget, rset]; split
      · rfl
      · split <;> rfl
    rw [hp]
    cases v <;> simp [hp, BEq.beq]

/-- How a packet X instruction ends that answered in a state that left its thread as the instruction found it. -/
theorem xEnd_ran {s s0 : State} {t : Nat} {p : Packet} {f : FmtX} (y : BitVec 32) (v : Option Word) (status detail high : Nat)
    (hp : (getThread s t).pkt = some p) (hw : tblWf 0#64 (getThread s t).w = true)
    (h0 : getThread s0 t = { getThread s t with slots := (getThread s t).slots + 2 }) (s1 : State) :
    ThreadRan s (threadEnd s1 t (getThread s t).pc (some y) (xEnd t f s0 v status detail high)) t 2 2 (StatusIs f.d v status detail high) ∧
      (∀ u, u ≠ t → getThread (threadEnd s1 t (getThread s t).pc (some y) (xEnd t f s0 v status detail high)) u = getThread s0 u) ∧
      threadEnd s1 t (getThread s t).pc (some y) (xEnd t f s0 v status detail high) =
        { s0 with engine := { s0.engine with threads :=
          (threadEnd s1 t (getThread s t).pc (some y) (xEnd t f s0 v status detail high)).engine.threads } } := by
  have hs := statusIs_set (d := f.d) v status detail high (r := (getThread s t).regs) hw
  simp only [xEnd, threadEnd, h0, Option.isSome_some, if_true]
  generalize hr : setStatus _ status detail high = r
  have hr' : StatusIs f.d v status detail high (getThread s t).regs r := by
    have e : ({ getThread s t with slots := (getThread s t).slots + 2 } : Thread).regs = (getThread s t).regs := rfl
    rw [e] at hr
    rw [← hr]; exact hs
  generalize hx : (({ getThread s t with slots := (getThread s t).slots + 2 } : Thread).setRegs r) = x
  have n1 : x ≠ Thread.reset := by rw [← hx]; exact Thread.ne_reset (p := p) hp
  rw [getThread_setThread _ _ n1, setThread_setThread _ _ n1]
  have n2 : afterInstr x (getThread s t).pc ((getThread s t).pc + 8#64) ≠ Thread.reset :=
    Thread.ne_reset (p := p) (by rw [afterInstr_pkt, ← hx]; exact hp)
  refine ⟨⟨?_, ?_⟩, fun u hu => getThread_setThread_ne _ _ _ _ hu, rfl⟩
  · rw [getThread_setThread _ _ n2]
    have : (afterInstr x (getThread s t).pc ((getThread s t).pc + 8#64)).regs = r := by
      simp only [Thread.regs, afterInstr_w, afterInstr_p, ← hx, Thread.setRegs]
    rw [this]; exact hr'
  · rw [getThread_setThread _ _ n2]
    simp only [afterInstr_w, afterInstr_p, ← hx, Thread.setRegs]

end Sys2Proof.Machine
end

