-- ==== Sys2Proof/Laws/Plane.lean ====
section
/-! SUPPORT. Laws/Plane.lean: a request that every core of an agent presents is performed once and answered to all
(R362 to R366), and what a plane X instruction can do, said once. -/

namespace Sys2Proof.Machine

theorem not_excluded (e : BitVec 3) (h : e = 0#3) (k : Nat) : e.getLsbD k = false := by subst h; simp

/-- The copies of a sound voter decide alike (R371). -/
theorem votersDiffer_sound (n : Nat) : votersDiffer Voter.sound n = false := by simp [votersDiffer, Voter.sound]

/-- All cores of an agent ask for the same: what each does is its own answer. -/
theorem issuedCores_asks {s : State} {who : Agent} {w : BitVec 32} {y : Option (BitVec 32)} {ask : Nat → SCore → Option Req} {q : Req}
    {run : State → Nat → SCore → CRes} {fin : SCore → List Nat → SCore} (h : AllAsk s who w y ask q)
    (hr : ∀ k ∈ agentCores s who, ask k (getCore s k) = some q → run s k (getCore s k) = .ask q fin) :
    issuedCores s who w y run = (agentCores s who).map (fun k => (k, .ask q fin)) := by
  have hf : (agentCores s who).filter (fun k => !coreIdle s k) = agentCores s who :=
    List.filter_eq_self.2 (fun k hk => by simp [(h.issue k hk).1.free])
  unfold issuedCores
  rw [hf]
  refine List.map_congr_left (fun k hk => ?_)
  obtain ⟨hi, hg, hq⟩ := h.issue k hk
  have hgo : (decide (fOp w.toNat = 0x50 ∨ fOp w.toNat = 0x51) || pget (getCore s k).regs (fG w.toNat)) = true := by
    rcases hg with h | h | h <;> simp [h]
  have hfe : fetchOk k (getCore s k) (if y.isSome then 8 else 4) = true := by
    have : (if y.isSome then 8 else 4) = 4 * wordsOf y := by unfold wordsOf; split <;> rfl
    rw [this]; exact hi.fetch
  unfold coreIssue
  simp only [hfe, hi.legal, hgo, Bool.true_eq_false, if_false, if_true, hr k hk hq]

theorem foldl_asks (n : Nat) (q : Req) (fin : SCore → List Nat → SCore) : ∀ (l : List Nat) (s : State),
    (l.map (fun k => (k, CRes.ask q fin))).foldl (coreLocal n) s = s
  | [], _ => rfl
  | _ :: l, s => foldl_asks n q fin l s

theorem vote_same (s : State) (q : Req) : ∀ l : List Nat, l ≠ [] → l.length ≤ 3 → vote s (l.map (fun k => (k, some q))) = (s, some q)
  | [], h, _ => absurd rfl h
  | [_], _, _ => rfl
  | [_, _], _, _ => by simp [vote]
  | [_, _, _], _, _ => by simp [vote]
  | _ :: _ :: _ :: _ :: _, _, h => by simp at h; omega

/-- Sound voters issue what all the copies ask. -/
theorem voteAll_same (s : State) (voted : Bool) (q : Req) (l : List Nat) (h : l ≠ []) (h3 : l.length ≤ 3)
    (hv : voted = true → s.triad.voter = .sound) : voteAll s voted (l.map (fun k => (k, some q))) = (s, some q) := by
  unfold voteAll
  cases voted with
  | true => simp [hv rfl, votersDiffer_sound, vote_same s q l h h3]
  | false =>
    cases l with
    | nil => exact absurd rfl h
    | cons k l => rfl

theorem agentCores_length (s : State) (who : Agent) : (agentCores s who).length ≤ 3 := by
  unfold agentCores
  cases who with
  | thread t => simp
  | tally c => simp
  | triadCore i => simp only; split <;> (try split) <;> simp
  | triad => simp only; split <;> (try split) <;> simp

/-- The answer reaches the cores of a list one after another. -/
theorem foldl_coreAnswer (n : Nat) (q : Req) (fin : SCore → List Nat → SCore) (d : List Nat) : ∀ (l : List Nat) (s : State), l.Nodup →
    Rising s.cores →
    let s' := (l.map (fun k => (k, CRes.ask q fin))).foldl (coreAnswer n d) s
    (∀ j, j ∉ l → getCore s' j = getCore s j) ∧
      (∀ k ∈ l, getCore s' k = { fin (getCore s k) d with
        pc := (fin (getCore s k) d).pc + BitVec.ofNat 64 n, retired := ((fin (getCore s k) d).retired + 1) % 2 ^ 64 }) ∧
      s' = { s with cores := s'.cores }
  | [], s, _, _ => ⟨fun _ _ => rfl, fun _ h => (List.not_mem_nil h).elim, rfl⟩
  | k :: l, s, hn, hr => by
    obtain ⟨hk, hn⟩ := List.nodup_cons.1 hn
    have ih := foldl_coreAnswer n q fin d l (coreAnswer n d s (k, .ask q fin)) hn (setCore_rising _ _ hr)
    simp only [List.map_cons, List.foldl_cons] at ih ⊢
    obtain ⟨i1, i2, i3⟩ := ih
    have o : ∀ j, j ≠ k → getCore (coreAnswer n d s (k, .ask q fin)) j = getCore s j := fun j hj => getCore_setCore_ne _ _ _ _ hj
    refine ⟨fun j hj => ?_, fun j hj => ?_, ?_⟩
    · simp only [List.mem_cons, not_or] at hj
      rw [i1 j hj.2, o j hj.1]
    · rcases List.mem_cons.1 hj with rfl | hj
      · rw [i1 _ hk]; exact getCore_setCore _ _ _ hr
      · have hne : j ≠ k := fun h => hk (h ▸ hj)
        rw [i2 j hj, o j hne]
    · have e : coreAnswer n d s (k, .ask q fin) = { s with cores := (coreAnswer n d s (k, .ask q fin)).cores } := rfl
      generalize List.foldl (coreAnswer n d) (coreAnswer n d s (k, .ask q fin)) (List.map (fun k => (k, CRes.ask q fin)) l) = x at i3 ⊢
      rw [i3, e]

/-- The copy of a core among cores that all ask the same. -/
theorem copyOf_asks (q : Req) (fin : SCore → List Nat → SCore) {k : Nat} : ∀ {l : List Nat}, k ∈ l →
    copyOf (l.map (fun k => (k, CRes.ask q fin))) k = some q
  | j :: l, h => by
    unfold copyOf
    simp only [List.map_cons, List.find?_cons]
    by_cases hj : j = k
    · simp [hj, askOf]
    · simp only [beq_eq_false_iff_ne.2 hj]
      have := copyOf_asks q fin (l := l) (by rcases List.mem_cons.1 h with h | h; exact absurd h.symm hj; exact h)
      unfold copyOf at this
      exact this

/-- One instruction by which every core of an agent presents the same request: it is performed once, by the first core's number, and
its answer reaches them all. -/
theorem coreStep_asks {s : State} {who : Agent} {w : BitVec 32} {y : Option (BitVec 32)} {ask : Nat → SCore → Option Req} {q : Req}
    {run : State → Nat → SCore → CRes} {fin : SCore → List Nat → SCore} {perform : State → Nat → Req → State × Reply} {m : Nat}
    (h : AllAsk s who w y ask q) (hr : ∀ k ∈ agentCores s who, ask k (getCore s k) = some q → run s k (getCore s k) = .ask q fin)
    (hm : (agentCores s who).head? = some m) :
    coreStep who w y run perform s = match perform s m q with
      | (s1, .refused) => s1
      | (s1, .data d) => ((agentCores s who).map (fun k => (k, CRes.ask q fin))).foldl (coreAnswer (if y.isSome then 8 else 4) d) s1 := by
  have hi := issuedCores_asks h hr
  unfold issuedCores at hi
  unfold coreStep
  simp only [hi, foldl_asks]
  have hmap : ((agentCores s who).map (fun k => (k, CRes.ask q fin))).map (fun e => (e.1, askOf e.2)) =
      (agentCores s who).map (fun k => (k, some q)) := by
    simp [List.map_map, Function.comp_def, askOf]
  have hhead : ((agentCores s who).map (fun k => (k, some q))).head? = some (m, some q) := by
    simp [List.head?_map, hm]
  have hfind : ((agentCores s who).map (fun k => (k, some q))).find? (fun e => e.2 == some q) = some (m, some q) := by
    cases hl : agentCores s who with
    | nil => rw [hl] at hm; cases hm
    | cons a l => rw [hl] at hm; simp only [List.head?_cons, Option.some.injEq] at hm; simp [hm]
  cases hv : isVoted s who with
  | true =>
    have hx : ((agentCores s who).filter (fun k => !s.triad.excluded.getLsbD k)).map
        (fun k => (k, copyOf ((agentCores s who).map (fun k => (k, CRes.ask q fin))) k)) = (agentCores s who).map (fun k => (k, some q)) := by
      rw [List.filter_eq_self.2 (fun e _ => by simp [(h.vote hv).1])]
      exact List.map_congr_left (fun k hk => by rw [copyOf_asks q fin hk])
    have hg := voteAll_same s true q _ h.nonempty (agentCores_length s who) (fun _ => (h.vote hv).2)
    simp only [hx, if_true, hfind, hg]
    all_goals (rcases perform s m q with ⟨s1, d | _⟩ <;> rfl)
  | false =>
    have hg := voteAll_same s false q _ h.nonempty (agentCores_length s who) (fun h => by cases h)
    simp only [hmap, hfind, Bool.false_eq_true, if_false, hg]
    all_goals (rcases perform s m q with ⟨s1, d | _⟩ <;> rfl)

theorem planeFin_pc (f : FmtX) (c : SCore) (r : PlaneRes) : (planeFin f c r.toList).pc = c.pc ∧ (planeFin f c r.toList).retired = c.retired := by
  obtain ⟨st, dt, hi, v, o, fr⟩ := r
  cases o with
  | none => simp [planeFin, PlaneRes.toList, SCore.setRegs]
  | some p => simp [planeFin, PlaneRes.toList, SCore.setRegs]

/-- The cores of an agent whose first core is one of the Triad are all of the Triad. -/
theorem agentCores_triad (s : State) (who : Agent) (m : Nat) (hm : (agentCores s who).head? = some m) (hm3 : m < 3) :
    ∀ k ∈ agentCores s who, k < 3 := by
  intro k hk
  unfold agentCores at hm hk
  cases who with
  | thread t => simp at hk
  | triad => simp only at hk hm; split at hk <;> (try split at hk) <;> simp_all <;> omega
  | triadCore i => simp only at hk hm; split at hk <;> (try split at hk) <;> simp_all <;> omega
  | tally c => simp_all

/-- A plane X instruction of the Triad: run acts once, and its answer reaches every core (R107). -/
theorem planeLaw_of {i : Agent → Instr} {w y : BitVec 32} {f : FmtX} {level : Nat}
    {image : State → Nat → SCore → Nat → Nat → Except Nat (List Byte)} {run : State → Nat → Nat → Nat → List Byte → State × PlaneRes}
    (hi : ∀ who s, exec (i who) s = .next (planeX who w y f level image run s)) : PlaneLaw i w y f level image run := by
  intro s who a b img m h hm hm3 r hf hr
  refine ⟨_, hi _ _, ?_⟩
  have hx : planeX who w y f level image run s = coreStep who w (some y) (fun s k c =>
        let a := rget c.regs f.a.toNat
        let b := rget c.regs f.b.toNat
        if c.pl.toNat < level then .trap cPRIV (w.zeroExtend 64)
        else if k ≥ 3 then .ask (.plane w.toNat y.toNat [a, b] []) (fun c _ => c)
        else match image s k c a.toNat b.toNat with
          | .ok img => .ask (.plane w.toNat y.toNat [a, b] img) (planeFin f)
          | .error ea => .trap cACCESS (BitVec.ofNat 64 ea))
      (fun s m q => match q with
        | .plane _ _ (a :: b :: _) img =>
          if m ≥ 3 then
            let pc := (getCore s m).pc.toNat
            (violate s (coreMaster m) vUNAUTH pc pc, .refused)
          else
            let (s, r) := run s m a.toNat b.toNat img
            if r.froze then (s, .refused) else (s, .data r.toList)
        | _ => (s, .refused)) s := by
    cases who with
    | thread t => exact absurd rfl h.nonempty
    | _ => rfl
  rw [hx, coreStep_asks (fin := planeFin f) h ?_ hm]
  · have hm3' : ¬ m ≥ 3 := by omega
    simp only [hm3', if_false]
    have e : run s m a.toNat b.toNat img = (r.1, r.2) := rfl
    rw [e]
    simp only [hf, Bool.false_eq_true, if_false, Option.isSome_some, if_true]
    obtain ⟨f1, f2, f3⟩ := foldl_coreAnswer 8 (.plane w.toNat y.toNat [a, b] img) (planeFin f) r.2.toList (agentCores s who) r.1
      (agentCores_nodup s who) hr
    refine ⟨fun k hk => ?_, f1, f3⟩
    rw [f2 k hk, (planeFin_pc f (getCore r.1 k) r.2).1, (planeFin_pc f (getCore r.1 k) r.2).2]
  · intro k hk hq
    simp only [planeAsk] at hq
    split at hq
    · cases hq
    · rename_i hl
      split at hq
      · rename_i img' he
        have hk3 : ¬ k ≥ 3 := by have := agentCores_triad s who m hm hm3 k hk; omega
        simp only [hl, if_false, hk3, he]
        injection hq with hq
        rw [hq]
      · cases hq

end Sys2Proof.Machine
end

