-- ==== Sys2Proof/Laws/State.lean ====
section
/-! SUPPORT. Laws/State.lean: what each operation that replaces parts of the state leaves as it is, one equation per field. -/

namespace Sys2Proof.Machine

@[simp] theorem setWay_frame (s : State) (v : Nat) (x : Option VEntry) :
    (setWay s v x).pending = s.pending ∧ (setWay s v x).localNs = s.localNs ∧ (setWay s v x).freeIdx = s.freeIdx ∧
    (setWay s v x).bench = s.bench ∧ (setWay s v x).gate = s.gate ∧ (setWay s v x).cores = s.cores ∧
    (setWay s v x).engine = s.engine ∧ (setWay s v x).screen = s.screen ∧ (setWay s v x).lookup = s.lookup ∧
    (setWay s v x).stock = s.stock ∧ (setWay s v x).hopper = s.hopper ∧ (setWay s v x).fabric = s.fabric ∧
    (setWay s v x).haul = s.haul ∧ (setWay s v x).time = s.time ∧ (setWay s v x).triad = s.triad ∧
    (setWay s v x).fence = s.fence ∧ (setWay s v x).counters = s.counters ∧ (setWay s v x).events = s.events ∧
    (setWay s v x).face = s.face ∧ (setWay s v x).relay = s.relay ∧ (setWay s v x).pair = s.pair ∧ (setWay s v x).gh = s.gh ∧
    (setWay s v x).vault = s.vault ∧ (setWay s v x).host = s.host ∧ (setWay s v x).wb = s.wb := by
  exact ⟨rfl, rfl, rfl, rfl, rfl, rfl, rfl, rfl, rfl, rfl, rfl, rfl, rfl, rfl, rfl, rfl, rfl, rfl, rfl, rfl, rfl, rfl, rfl, rfl, rfl⟩

@[simp] theorem setConn_frame (s : State) (c : Nat) (x : Option Conn) :
    (setConn s c x).pending = s.pending ∧ (setConn s c x).localNs = s.localNs ∧ (setConn s c x).freeIdx = s.freeIdx ∧
    (setConn s c x).bench = s.bench ∧ (setConn s c x).gate = s.gate ∧ (setConn s c x).cores = s.cores ∧
    (setConn s c x).engine = s.engine ∧ (setConn s c x).screen = s.screen ∧ (setConn s c x).lookup = s.lookup ∧
    (setConn s c x).stock = s.stock ∧ (setConn s c x).hopper = s.hopper ∧ (setConn s c x).fabric = s.fabric ∧
    (setConn s c x).haul = s.haul ∧ (setConn s c x).time = s.time ∧ (setConn s c x).triad = s.triad ∧
    (setConn s c x).fence = s.fence ∧ (setConn s c x).counters = s.counters ∧ (setConn s c x).events = s.events ∧
    (setConn s c x).face = s.face ∧ (setConn s c x).relay = s.relay ∧ (setConn s c x).pair = s.pair ∧
    (setConn s c x).gh = s.gh ∧ (setConn s c x).vault = s.vault ∧ (setConn s c x).host = s.host ∧ (setConn s c x).wb = s.wb := by
  exact ⟨rfl, rfl, rfl, rfl, rfl, rfl, rfl, rfl, rfl, rfl, rfl, rfl, rfl, rfl, rfl, rfl, rfl, rfl, rfl, rfl, rfl, rfl, rfl, rfl, rfl⟩

@[simp] theorem setPairCount_frame (s : State) (x y n : Nat) :
    (setPairCount s x y n).pending = s.pending ∧ (setPairCount s x y n).localNs = s.localNs ∧
    (setPairCount s x y n).freeIdx = s.freeIdx ∧ (setPairCount s x y n).bench = s.bench ∧
    (setPairCount s x y n).gate = s.gate ∧ (setPairCount s x y n).cores = s.cores ∧ (setPairCount s x y n).engine = s.engine ∧
    (setPairCount s x y n).screen = s.screen ∧ (setPairCount s x y n).lookup = s.lookup ∧
    (setPairCount s x y n).stock = s.stock ∧ (setPairCount s x y n).hopper = s.hopper ∧
    (setPairCount s x y n).fabric = s.fabric ∧ (setPairCount s x y n).haul = s.haul ∧ (setPairCount s x y n).time = s.time ∧
    (setPairCount s x y n).triad = s.triad ∧ (setPairCount s x y n).fence = s.fence ∧
    (setPairCount s x y n).counters = s.counters ∧ (setPairCount s x y n).events = s.events ∧
    (setPairCount s x y n).face = s.face ∧ (setPairCount s x y n).relay = s.relay ∧ (setPairCount s x y n).pair = s.pair ∧
    (setPairCount s x y n).gh = s.gh ∧ (setPairCount s x y n).vault = s.vault ∧ (setPairCount s x y n).host = s.host ∧
    (setPairCount s x y n).wb = s.wb := by
  exact ⟨rfl, rfl, rfl, rfl, rfl, rfl, rfl, rfl, rfl, rfl, rfl, rfl, rfl, rfl, rfl, rfl, rfl, rfl, rfl, rfl, rfl, rfl, rfl, rfl, rfl⟩

@[simp] theorem setBlock_frame (s : State) (n : Nat) (x : Block) :
    (setBlock s n x).pending = s.pending ∧ (setBlock s n x).localNs = s.localNs ∧ (setBlock s n x).freeIdx = s.freeIdx ∧
    (setBlock s n x).bench = s.bench ∧ (setBlock s n x).gate = s.gate ∧ (setBlock s n x).cores = s.cores ∧
    (setBlock s n x).engine = s.engine ∧ (setBlock s n x).screen = s.screen ∧ (setBlock s n x).lookup = s.lookup ∧
    (setBlock s n x).berm = s.berm ∧ (setBlock s n x).stock = s.stock ∧ (setBlock s n x).hopper = s.hopper ∧
    (setBlock s n x).fabric = s.fabric ∧ (setBlock s n x).haul = s.haul ∧ (setBlock s n x).time = s.time ∧
    (setBlock s n x).triad = s.triad ∧ (setBlock s n x).fence = s.fence ∧ (setBlock s n x).counters = s.counters ∧
    (setBlock s n x).events = s.events ∧ (setBlock s n x).face = s.face ∧ (setBlock s n x).relay = s.relay ∧
    (setBlock s n x).pair = s.pair ∧ (setBlock s n x).vault = s.vault ∧ (setBlock s n x).host = s.host ∧
    (setBlock s n x).wb = s.wb := by
  exact ⟨rfl, rfl, rfl, rfl, rfl, rfl, rfl, rfl, rfl, rfl, rfl, rfl, rfl, rfl, rfl, rfl, rfl, rfl, rfl, rfl, rfl, rfl, rfl, rfl, rfl⟩

@[simp] theorem exclude_frame (s : State) (i : Nat) :
    (exclude s i).pending = s.pending ∧ (exclude s i).localNs = s.localNs ∧ (exclude s i).freeIdx = s.freeIdx ∧
    (exclude s i).bench = s.bench ∧ (exclude s i).gate = s.gate ∧ (exclude s i).cores = s.cores ∧
    (exclude s i).engine = s.engine ∧ (exclude s i).screen = s.screen ∧ (exclude s i).lookup = s.lookup ∧
    (exclude s i).berm = s.berm ∧ (exclude s i).stock = s.stock ∧ (exclude s i).hopper = s.hopper ∧
    (exclude s i).fabric = s.fabric ∧ (exclude s i).haul = s.haul ∧ (exclude s i).time = s.time ∧
    (exclude s i).fence = s.fence ∧ (exclude s i).counters = s.counters ∧ (exclude s i).events = s.events ∧
    (exclude s i).face = s.face ∧ (exclude s i).relay = s.relay ∧ (exclude s i).pair = s.pair ∧ (exclude s i).gh = s.gh ∧
    (exclude s i).vault = s.vault ∧ (exclude s i).host = s.host ∧ (exclude s i).wb = s.wb := by
  exact ⟨rfl, rfl, rfl, rfl, rfl, rfl, rfl, rfl, rfl, rfl, rfl, rfl, rfl, rfl, rfl, rfl, rfl, rfl, rfl, rfl, rfl, rfl, rfl, rfl, rfl⟩

@[simp] theorem issued_frame (s : State) (t : Nat) :
    (issued s t).pending = s.pending ∧ (issued s t).localNs = s.localNs ∧ (issued s t).freeIdx = s.freeIdx ∧
    (issued s t).bench = s.bench ∧ (issued s t).gate = s.gate ∧ (issued s t).cores = s.cores ∧
    (issued s t).screen = s.screen ∧ (issued s t).lookup = s.lookup ∧ (issued s t).berm = s.berm ∧
    (issued s t).stock = s.stock ∧ (issued s t).hopper = s.hopper ∧ (issued s t).fabric = s.fabric ∧
    (issued s t).haul = s.haul ∧ (issued s t).time = s.time ∧ (issued s t).triad = s.triad ∧ (issued s t).fence = s.fence ∧
    (issued s t).counters = s.counters ∧ (issued s t).events = s.events ∧ (issued s t).face = s.face ∧
    (issued s t).relay = s.relay ∧ (issued s t).pair = s.pair ∧ (issued s t).gh = s.gh ∧ (issued s t).vault = s.vault ∧
    (issued s t).host = s.host ∧ (issued s t).wb = s.wb := by
  exact ⟨rfl, rfl, rfl, rfl, rfl, rfl, rfl, rfl, rfl, rfl, rfl, rfl, rfl, rfl, rfl, rfl, rfl, rfl, rfl, rfl, rfl, rfl, rfl, rfl, rfl⟩

@[simp] theorem setFp_frame (s : State) (m : Nat) (x : FacePort) :
    (setFp s m x).pending = s.pending ∧ (setFp s m x).localNs = s.localNs ∧ (setFp s m x).freeIdx = s.freeIdx ∧
    (setFp s m x).bench = s.bench ∧ (setFp s m x).gate = s.gate ∧ (setFp s m x).cores = s.cores ∧
    (setFp s m x).engine = s.engine ∧ (setFp s m x).screen = s.screen ∧ (setFp s m x).lookup = s.lookup ∧
    (setFp s m x).berm = s.berm ∧ (setFp s m x).stock = s.stock ∧ (setFp s m x).hopper = s.hopper ∧
    (setFp s m x).fabric = s.fabric ∧ (setFp s m x).haul = s.haul ∧ (setFp s m x).time = s.time ∧
    (setFp s m x).triad = s.triad ∧ (setFp s m x).fence = s.fence ∧ (setFp s m x).counters = s.counters ∧
    (setFp s m x).events = s.events ∧ (setFp s m x).relay = s.relay ∧ (setFp s m x).pair = s.pair ∧ (setFp s m x).gh = s.gh ∧
    (setFp s m x).vault = s.vault ∧ (setFp s m x).host = s.host ∧ (setFp s m x).wb = s.wb := by
  exact ⟨rfl, rfl, rfl, rfl, rfl, rfl, rfl, rfl, rfl, rfl, rfl, rfl, rfl, rfl, rfl, rfl, rfl, rfl, rfl, rfl, rfl, rfl, rfl, rfl, rfl⟩

@[simp] theorem setPlca_frame (s : State) (g : Nat) (x : Plca) :
    (setPlca s g x).pending = s.pending ∧ (setPlca s g x).localNs = s.localNs ∧ (setPlca s g x).freeIdx = s.freeIdx ∧
    (setPlca s g x).bench = s.bench ∧ (setPlca s g x).gate = s.gate ∧ (setPlca s g x).cores = s.cores ∧
    (setPlca s g x).engine = s.engine ∧ (setPlca s g x).screen = s.screen ∧ (setPlca s g x).lookup = s.lookup ∧
    (setPlca s g x).berm = s.berm ∧ (setPlca s g x).stock = s.stock ∧ (setPlca s g x).hopper = s.hopper ∧
    (setPlca s g x).fabric = s.fabric ∧ (setPlca s g x).haul = s.haul ∧ (setPlca s g x).time = s.time ∧
    (setPlca s g x).triad = s.triad ∧ (setPlca s g x).fence = s.fence ∧ (setPlca s g x).counters = s.counters ∧
    (setPlca s g x).events = s.events ∧ (setPlca s g x).relay = s.relay ∧ (setPlca s g x).pair = s.pair ∧
    (setPlca s g x).gh = s.gh ∧ (setPlca s g x).vault = s.vault ∧ (setPlca s g x).host = s.host ∧ (setPlca s g x).wb = s.wb := by
  exact ⟨rfl, rfl, rfl, rfl, rfl, rfl, rfl, rfl, rfl, rfl, rfl, rfl, rfl, rfl, rfl, rfl, rfl, rfl, rfl, rfl, rfl, rfl, rfl, rfl, rfl⟩

@[simp] theorem setPhy_frame (s : State) (c : Nat) (x : BusPhy) :
    (setPhy s c x).pending = s.pending ∧ (setPhy s c x).localNs = s.localNs ∧ (setPhy s c x).freeIdx = s.freeIdx ∧
    (setPhy s c x).bench = s.bench ∧ (setPhy s c x).gate = s.gate ∧ (setPhy s c x).cores = s.cores ∧
    (setPhy s c x).engine = s.engine ∧ (setPhy s c x).screen = s.screen ∧ (setPhy s c x).lookup = s.lookup ∧
    (setPhy s c x).berm = s.berm ∧ (setPhy s c x).stock = s.stock ∧ (setPhy s c x).hopper = s.hopper ∧
    (setPhy s c x).fabric = s.fabric ∧ (setPhy s c x).haul = s.haul ∧ (setPhy s c x).time = s.time ∧
    (setPhy s c x).triad = s.triad ∧ (setPhy s c x).fence = s.fence ∧ (setPhy s c x).counters = s.counters ∧
    (setPhy s c x).events = s.events ∧ (setPhy s c x).relay = s.relay ∧ (setPhy s c x).pair = s.pair ∧
    (setPhy s c x).gh = s.gh ∧ (setPhy s c x).vault = s.vault ∧ (setPhy s c x).host = s.host ∧ (setPhy s c x).wb = s.wb := by
  exact ⟨rfl, rfl, rfl, rfl, rfl, rfl, rfl, rfl, rfl, rfl, rfl, rfl, rfl, rfl, rfl, rfl, rfl, rfl, rfl, rfl, rfl, rfl, rfl, rfl, rfl⟩

@[simp] theorem setRole_frame (s : State) (r : Role) :
    (setRole s r).pending = s.pending ∧ (setRole s r).localNs = s.localNs ∧ (setRole s r).freeIdx = s.freeIdx ∧
    (setRole s r).bench = s.bench ∧ (setRole s r).gate = s.gate ∧ (setRole s r).cores = s.cores ∧
    (setRole s r).engine = s.engine ∧ (setRole s r).screen = s.screen ∧ (setRole s r).lookup = s.lookup ∧
    (setRole s r).berm = s.berm ∧ (setRole s r).stock = s.stock ∧ (setRole s r).hopper = s.hopper ∧
    (setRole s r).fabric = s.fabric ∧ (setRole s r).haul = s.haul ∧ (setRole s r).time = s.time ∧
    (setRole s r).triad = s.triad ∧ (setRole s r).fence = s.fence ∧ (setRole s r).counters = s.counters ∧
    (setRole s r).events = s.events ∧ (setRole s r).face = s.face ∧ (setRole s r).relay = s.relay ∧
    (setRole s r).vault = s.vault ∧ (setRole s r).host = s.host ∧ (setRole s r).wb = s.wb := by
  exact ⟨rfl, rfl, rfl, rfl, rfl, rfl, rfl, rfl, rfl, rfl, rfl, rfl, rfl, rfl, rfl, rfl, rfl, rfl, rfl, rfl, rfl, rfl, rfl, rfl⟩

@[simp] theorem setFaultSrc_frame (s : State) (i : Nat) (on : Bool) :
    (setFaultSrc s i on).pending = s.pending ∧ (setFaultSrc s i on).localNs = s.localNs ∧
    (setFaultSrc s i on).freeIdx = s.freeIdx ∧ (setFaultSrc s i on).bench = s.bench ∧ (setFaultSrc s i on).gate = s.gate ∧
    (setFaultSrc s i on).cores = s.cores ∧ (setFaultSrc s i on).engine = s.engine ∧ (setFaultSrc s i on).screen = s.screen ∧
    (setFaultSrc s i on).lookup = s.lookup ∧ (setFaultSrc s i on).berm = s.berm ∧ (setFaultSrc s i on).stock = s.stock ∧
    (setFaultSrc s i on).hopper = s.hopper ∧ (setFaultSrc s i on).fabric = s.fabric ∧ (setFaultSrc s i on).haul = s.haul ∧
    (setFaultSrc s i on).time = s.time ∧ (setFaultSrc s i on).triad = s.triad ∧ (setFaultSrc s i on).fence = s.fence ∧
    (setFaultSrc s i on).counters = s.counters ∧ (setFaultSrc s i on).events = s.events ∧ (setFaultSrc s i on).face = s.face ∧
    (setFaultSrc s i on).relay = s.relay ∧ (setFaultSrc s i on).pair = s.pair ∧ (setFaultSrc s i on).vault = s.vault ∧
    (setFaultSrc s i on).host = s.host ∧ (setFaultSrc s i on).wb = s.wb := by
  exact ⟨rfl, rfl, rfl, rfl, rfl, rfl, rfl, rfl, rfl, rfl, rfl, rfl, rfl, rfl, rfl, rfl, rfl, rfl, rfl, rfl, rfl, rfl, rfl, rfl, rfl⟩

@[simp] theorem enterMode_frame (s : State) (m : Mode) :
    (enterMode s m).pending = s.pending ∧ (enterMode s m).localNs = s.localNs ∧ (enterMode s m).freeIdx = s.freeIdx ∧
    (enterMode s m).bench = s.bench ∧ (enterMode s m).gate = s.gate ∧ (enterMode s m).cores = s.cores ∧
    (enterMode s m).engine = s.engine ∧ (enterMode s m).screen = s.screen ∧ (enterMode s m).lookup = s.lookup ∧
    (enterMode s m).berm = s.berm ∧ (enterMode s m).stock = s.stock ∧ (enterMode s m).hopper = s.hopper ∧
    (enterMode s m).fabric = s.fabric ∧ (enterMode s m).haul = s.haul ∧ (enterMode s m).time = s.time ∧
    (enterMode s m).triad = s.triad ∧ (enterMode s m).fence = s.fence ∧ (enterMode s m).counters = s.counters ∧
    (enterMode s m).events = s.events ∧ (enterMode s m).face = s.face ∧ (enterMode s m).relay = s.relay ∧
    (enterMode s m).pair = s.pair ∧ (enterMode s m).vault = s.vault ∧ (enterMode s m).host = s.host ∧
    (enterMode s m).wb = s.wb := by
  exact ⟨rfl, rfl, rfl, rfl, rfl, rfl, rfl, rfl, rfl, rfl, rfl, rfl, rfl, rfl, rfl, rfl, rfl, rfl, rfl, rfl, rfl, rfl, rfl, rfl, rfl⟩

@[simp] theorem postTrims_frame (s : State) :
    (postTrims s).pending = s.pending ∧ (postTrims s).localNs = s.localNs ∧ (postTrims s).freeIdx = s.freeIdx ∧
    (postTrims s).bench = s.bench ∧ (postTrims s).gate = s.gate ∧ (postTrims s).cores = s.cores ∧
    (postTrims s).engine = s.engine ∧ (postTrims s).screen = s.screen ∧ (postTrims s).lookup = s.lookup ∧
    (postTrims s).berm = s.berm ∧ (postTrims s).stock = s.stock ∧ (postTrims s).hopper = s.hopper ∧
    (postTrims s).fabric = s.fabric ∧ (postTrims s).haul = s.haul ∧ (postTrims s).time = s.time ∧
    (postTrims s).triad = s.triad ∧ (postTrims s).fence = s.fence ∧ (postTrims s).counters = s.counters ∧
    (postTrims s).face = s.face ∧ (postTrims s).relay = s.relay ∧ (postTrims s).pair = s.pair ∧ (postTrims s).gh = s.gh ∧
    (postTrims s).vault = s.vault ∧ (postTrims s).host = s.host ∧ (postTrims s).wb = s.wb := by
  simp only [postTrims, and_self]

@[simp] theorem startResume_frame (s : State) :
    (startResume s).pending = s.pending ∧ (startResume s).localNs = s.localNs ∧ (startResume s).freeIdx = s.freeIdx ∧
    (startResume s).bench = s.bench ∧ (startResume s).gate = s.gate ∧ (startResume s).cores = s.cores ∧
    (startResume s).engine = s.engine ∧ (startResume s).screen = s.screen ∧ (startResume s).lookup = s.lookup ∧
    (startResume s).berm = s.berm ∧ (startResume s).stock = s.stock ∧ (startResume s).hopper = s.hopper ∧
    (startResume s).fabric = s.fabric ∧ (startResume s).haul = s.haul ∧ (startResume s).time = s.time ∧
    (startResume s).triad = s.triad ∧ (startResume s).fence = s.fence ∧ (startResume s).counters = s.counters ∧
    (startResume s).events = s.events ∧ (startResume s).face = s.face ∧ (startResume s).relay = s.relay ∧
    (startResume s).pair = s.pair ∧ (startResume s).vault = s.vault ∧ (startResume s).host = s.host ∧
    (startResume s).wb = s.wb := by
  exact ⟨rfl, rfl, rfl, rfl, rfl, rfl, rfl, rfl, rfl, rfl, rfl, rfl, rfl, rfl, rfl, rfl, rfl, rfl, rfl, rfl, rfl, rfl, rfl, rfl, rfl⟩

@[simp] theorem thawRange_frame (s : State) (lo hi : Nat) :
    (thawRange s lo hi).pending = s.pending ∧ (thawRange s lo hi).localNs = s.localNs ∧
    (thawRange s lo hi).freeIdx = s.freeIdx ∧ (thawRange s lo hi).bench = s.bench ∧ (thawRange s lo hi).gate = s.gate ∧
    (thawRange s lo hi).cores = s.cores ∧ (thawRange s lo hi).engine = s.engine ∧ (thawRange s lo hi).screen = s.screen ∧
    (thawRange s lo hi).lookup = s.lookup ∧ (thawRange s lo hi).berm = s.berm ∧ (thawRange s lo hi).stock = s.stock ∧
    (thawRange s lo hi).hopper = s.hopper ∧ (thawRange s lo hi).fabric = s.fabric ∧ (thawRange s lo hi).haul = s.haul ∧
    (thawRange s lo hi).time = s.time ∧ (thawRange s lo hi).triad = s.triad ∧ (thawRange s lo hi).counters = s.counters ∧
    (thawRange s lo hi).events = s.events ∧ (thawRange s lo hi).face = s.face ∧ (thawRange s lo hi).relay = s.relay ∧
    (thawRange s lo hi).pair = s.pair ∧ (thawRange s lo hi).gh = s.gh ∧ (thawRange s lo hi).vault = s.vault ∧
    (thawRange s lo hi).host = s.host ∧ (thawRange s lo hi).wb = s.wb := by
  exact ⟨rfl, rfl, rfl, rfl, rfl, rfl, rfl, rfl, rfl, rfl, rfl, rfl, rfl, rfl, rfl, rfl, rfl, rfl, rfl, rfl, rfl, rfl, rfl, rfl, rfl⟩

@[simp] theorem setGates_frame (s : State) (m : Nat) (g : GateState) :
    (setGates s m g).pending = s.pending ∧ (setGates s m g).localNs = s.localNs ∧ (setGates s m g).freeIdx = s.freeIdx ∧
    (setGates s m g).bench = s.bench ∧ (setGates s m g).gate = s.gate ∧ (setGates s m g).cores = s.cores ∧
    (setGates s m g).engine = s.engine ∧ (setGates s m g).screen = s.screen ∧ (setGates s m g).lookup = s.lookup ∧
    (setGates s m g).berm = s.berm ∧ (setGates s m g).stock = s.stock ∧ (setGates s m g).hopper = s.hopper ∧
    (setGates s m g).fabric = s.fabric ∧ (setGates s m g).time = s.time ∧ (setGates s m g).triad = s.triad ∧
    (setGates s m g).fence = s.fence ∧ (setGates s m g).counters = s.counters ∧ (setGates s m g).events = s.events ∧
    (setGates s m g).face = s.face ∧ (setGates s m g).relay = s.relay ∧ (setGates s m g).pair = s.pair ∧
    (setGates s m g).gh = s.gh ∧ (setGates s m g).vault = s.vault ∧ (setGates s m g).host = s.host ∧
    (setGates s m g).wb = s.wb := by
  exact ⟨rfl, rfl, rfl, rfl, rfl, rfl, rfl, rfl, rfl, rfl, rfl, rfl, rfl, rfl, rfl, rfl, rfl, rfl, rfl, rfl, rfl, rfl, rfl, rfl, rfl⟩

@[simp] theorem setSgate_frame (s : State) (i : Nat) (g : GateState) :
    (setSgate s i g).pending = s.pending ∧ (setSgate s i g).localNs = s.localNs ∧ (setSgate s i g).freeIdx = s.freeIdx ∧
    (setSgate s i g).bench = s.bench ∧ (setSgate s i g).gate = s.gate ∧ (setSgate s i g).cores = s.cores ∧
    (setSgate s i g).engine = s.engine ∧ (setSgate s i g).screen = s.screen ∧ (setSgate s i g).lookup = s.lookup ∧
    (setSgate s i g).berm = s.berm ∧ (setSgate s i g).stock = s.stock ∧ (setSgate s i g).hopper = s.hopper ∧
    (setSgate s i g).fabric = s.fabric ∧ (setSgate s i g).time = s.time ∧ (setSgate s i g).triad = s.triad ∧
    (setSgate s i g).fence = s.fence ∧ (setSgate s i g).counters = s.counters ∧ (setSgate s i g).events = s.events ∧
    (setSgate s i g).face = s.face ∧ (setSgate s i g).relay = s.relay ∧ (setSgate s i g).pair = s.pair ∧
    (setSgate s i g).gh = s.gh ∧ (setSgate s i g).vault = s.vault ∧ (setSgate s i g).host = s.host ∧
    (setSgate s i g).wb = s.wb := by
  exact ⟨rfl, rfl, rfl, rfl, rfl, rfl, rfl, rfl, rfl, rfl, rfl, rfl, rfl, rfl, rfl, rfl, rfl, rfl, rfl, rfl, rfl, rfl, rfl, rfl, rfl⟩

@[simp] theorem setPolicer_frame (s : State) (i : Nat) (x : Policer) :
    (setPolicer s i x).pending = s.pending ∧ (setPolicer s i x).localNs = s.localNs ∧ (setPolicer s i x).freeIdx = s.freeIdx ∧
    (setPolicer s i x).bench = s.bench ∧ (setPolicer s i x).gate = s.gate ∧ (setPolicer s i x).cores = s.cores ∧
    (setPolicer s i x).engine = s.engine ∧ (setPolicer s i x).screen = s.screen ∧ (setPolicer s i x).lookup = s.lookup ∧
    (setPolicer s i x).berm = s.berm ∧ (setPolicer s i x).stock = s.stock ∧ (setPolicer s i x).hopper = s.hopper ∧
    (setPolicer s i x).fabric = s.fabric ∧ (setPolicer s i x).time = s.time ∧ (setPolicer s i x).triad = s.triad ∧
    (setPolicer s i x).fence = s.fence ∧ (setPolicer s i x).counters = s.counters ∧ (setPolicer s i x).events = s.events ∧
    (setPolicer s i x).face = s.face ∧ (setPolicer s i x).relay = s.relay ∧ (setPolicer s i x).pair = s.pair ∧
    (setPolicer s i x).gh = s.gh ∧ (setPolicer s i x).vault = s.vault ∧ (setPolicer s i x).host = s.host ∧
    (setPolicer s i x).wb = s.wb := by
  exact ⟨rfl, rfl, rfl, rfl, rfl, rfl, rfl, rfl, rfl, rfl, rfl, rfl, rfl, rfl, rfl, rfl, rfl, rfl, rfl, rfl, rfl, rfl, rfl, rfl, rfl⟩

@[simp] theorem setLane_frame (s : State) (k vc : Nat) (x : LaneVc) :
    (setLane s k vc x).pending = s.pending ∧ (setLane s k vc x).localNs = s.localNs ∧ (setLane s k vc x).freeIdx = s.freeIdx ∧
    (setLane s k vc x).bench = s.bench ∧ (setLane s k vc x).gate = s.gate ∧ (setLane s k vc x).cores = s.cores ∧
    (setLane s k vc x).engine = s.engine ∧ (setLane s k vc x).screen = s.screen ∧ (setLane s k vc x).lookup = s.lookup ∧
    (setLane s k vc x).berm = s.berm ∧ (setLane s k vc x).stock = s.stock ∧ (setLane s k vc x).hopper = s.hopper ∧
    (setLane s k vc x).haul = s.haul ∧ (setLane s k vc x).time = s.time ∧ (setLane s k vc x).triad = s.triad ∧
    (setLane s k vc x).fence = s.fence ∧ (setLane s k vc x).counters = s.counters ∧ (setLane s k vc x).events = s.events ∧
    (setLane s k vc x).face = s.face ∧ (setLane s k vc x).relay = s.relay ∧ (setLane s k vc x).pair = s.pair ∧
    (setLane s k vc x).gh = s.gh ∧ (setLane s k vc x).vault = s.vault ∧ (setLane s k vc x).host = s.host ∧
    (setLane s k vc x).wb = s.wb := by
  exact ⟨rfl, rfl, rfl, rfl, rfl, rfl, rfl, rfl, rfl, rfl, rfl, rfl, rfl, rfl, rfl, rfl, rfl, rfl, rfl, rfl, rfl, rfl, rfl, rfl, rfl⟩

@[simp] theorem applyTemplates_frame (s : State) (o : Obj) :
    (applyTemplates s o).pending = s.pending ∧ (applyTemplates s o).localNs = s.localNs ∧
    (applyTemplates s o).freeIdx = s.freeIdx ∧ (applyTemplates s o).bench = s.bench ∧ (applyTemplates s o).gate = s.gate ∧
    (applyTemplates s o).cores = s.cores ∧ (applyTemplates s o).engine = s.engine ∧ (applyTemplates s o).screen = s.screen ∧
    (applyTemplates s o).lookup = s.lookup ∧ (applyTemplates s o).berm = s.berm ∧ (applyTemplates s o).stock = s.stock ∧
    (applyTemplates s o).hopper = s.hopper ∧ (applyTemplates s o).fabric = s.fabric ∧ (applyTemplates s o).time = s.time ∧
    (applyTemplates s o).triad = s.triad ∧ (applyTemplates s o).fence = s.fence ∧ (applyTemplates s o).counters = s.counters ∧
    (applyTemplates s o).events = s.events ∧ (applyTemplates s o).face = s.face ∧ (applyTemplates s o).relay = s.relay ∧
    (applyTemplates s o).pair = s.pair ∧ (applyTemplates s o).gh = s.gh ∧ (applyTemplates s o).vault = s.vault ∧
    (applyTemplates s o).host = s.host ∧ (applyTemplates s o).wb = s.wb := by
  exact ⟨rfl, rfl, rfl, rfl, rfl, rfl, rfl, rfl, rfl, rfl, rfl, rfl, rfl, rfl, rfl, rfl, rfl, rfl, rfl, rfl, rfl, rfl, rfl, rfl, rfl⟩

@[simp] theorem hostWrite_frame (s : State) (a : Nat) (b : List Byte) :
    (hostWrite s a b).pending = s.pending ∧ (hostWrite s a b).localNs = s.localNs ∧ (hostWrite s a b).freeIdx = s.freeIdx ∧
    (hostWrite s a b).bench = s.bench ∧ (hostWrite s a b).gate = s.gate ∧ (hostWrite s a b).cores = s.cores ∧
    (hostWrite s a b).engine = s.engine ∧ (hostWrite s a b).screen = s.screen ∧ (hostWrite s a b).lookup = s.lookup ∧
    (hostWrite s a b).berm = s.berm ∧ (hostWrite s a b).stock = s.stock ∧ (hostWrite s a b).hopper = s.hopper ∧
    (hostWrite s a b).fabric = s.fabric ∧ (hostWrite s a b).haul = s.haul ∧ (hostWrite s a b).time = s.time ∧
    (hostWrite s a b).triad = s.triad ∧ (hostWrite s a b).fence = s.fence ∧ (hostWrite s a b).counters = s.counters ∧
    (hostWrite s a b).events = s.events ∧ (hostWrite s a b).face = s.face ∧ (hostWrite s a b).relay = s.relay ∧
    (hostWrite s a b).pair = s.pair ∧ (hostWrite s a b).gh = s.gh ∧ (hostWrite s a b).vault = s.vault ∧
    (hostWrite s a b).wb = s.wb := by
  exact ⟨rfl, rfl, rfl, rfl, rfl, rfl, rfl, rfl, rfl, rfl, rfl, rfl, rfl, rfl, rfl, rfl, rfl, rfl, rfl, rfl, rfl, rfl, rfl, rfl, rfl⟩

@[simp] theorem fireMsix_frame (s : State) (v : Nat) :
    (fireMsix s v).pending = s.pending ∧ (fireMsix s v).localNs = s.localNs ∧ (fireMsix s v).freeIdx = s.freeIdx ∧
    (fireMsix s v).bench = s.bench ∧ (fireMsix s v).gate = s.gate ∧ (fireMsix s v).cores = s.cores ∧
    (fireMsix s v).engine = s.engine ∧ (fireMsix s v).screen = s.screen ∧ (fireMsix s v).lookup = s.lookup ∧
    (fireMsix s v).berm = s.berm ∧ (fireMsix s v).stock = s.stock ∧ (fireMsix s v).hopper = s.hopper ∧
    (fireMsix s v).fabric = s.fabric ∧ (fireMsix s v).haul = s.haul ∧ (fireMsix s v).time = s.time ∧
    (fireMsix s v).triad = s.triad ∧ (fireMsix s v).fence = s.fence ∧ (fireMsix s v).counters = s.counters ∧
    (fireMsix s v).events = s.events ∧ (fireMsix s v).face = s.face ∧ (fireMsix s v).relay = s.relay ∧
    (fireMsix s v).pair = s.pair ∧ (fireMsix s v).gh = s.gh ∧ (fireMsix s v).vault = s.vault ∧ (fireMsix s v).wb = s.wb := by
  exact ⟨rfl, rfl, rfl, rfl, rfl, rfl, rfl, rfl, rfl, rfl, rfl, rfl, rfl, rfl, rfl, rfl, rfl, rfl, rfl, rfl, rfl, rfl, rfl, rfl, rfl⟩

@[simp] theorem setPair'_frame (s : State) (q : Nat) (x : QPair) :
    (setPair' s q x).pending = s.pending ∧ (setPair' s q x).localNs = s.localNs ∧ (setPair' s q x).freeIdx = s.freeIdx ∧
    (setPair' s q x).bench = s.bench ∧ (setPair' s q x).gate = s.gate ∧ (setPair' s q x).cores = s.cores ∧
    (setPair' s q x).engine = s.engine ∧ (setPair' s q x).screen = s.screen ∧ (setPair' s q x).lookup = s.lookup ∧
    (setPair' s q x).berm = s.berm ∧ (setPair' s q x).stock = s.stock ∧ (setPair' s q x).hopper = s.hopper ∧
    (setPair' s q x).fabric = s.fabric ∧ (setPair' s q x).haul = s.haul ∧ (setPair' s q x).time = s.time ∧
    (setPair' s q x).triad = s.triad ∧ (setPair' s q x).fence = s.fence ∧ (setPair' s q x).counters = s.counters ∧
    (setPair' s q x).events = s.events ∧ (setPair' s q x).face = s.face ∧ (setPair' s q x).relay = s.relay ∧
    (setPair' s q x).pair = s.pair ∧ (setPair' s q x).gh = s.gh ∧ (setPair' s q x).vault = s.vault ∧
    (setPair' s q x).wb = s.wb := by
  exact ⟨rfl, rfl, rfl, rfl, rfl, rfl, rfl, rfl, rfl, rfl, rfl, rfl, rfl, rfl, rfl, rfl, rfl, rfl, rfl, rfl, rfl, rfl, rfl, rfl, rfl⟩

@[simp] theorem setRing_frame (s : State) (r : Nat) (x : MailRing) :
    (setRing s r x).pending = s.pending ∧ (setRing s r x).localNs = s.localNs ∧ (setRing s r x).freeIdx = s.freeIdx ∧
    (setRing s r x).bench = s.bench ∧ (setRing s r x).gate = s.gate ∧ (setRing s r x).cores = s.cores ∧
    (setRing s r x).engine = s.engine ∧ (setRing s r x).screen = s.screen ∧ (setRing s r x).lookup = s.lookup ∧
    (setRing s r x).berm = s.berm ∧ (setRing s r x).stock = s.stock ∧ (setRing s r x).hopper = s.hopper ∧
    (setRing s r x).fabric = s.fabric ∧ (setRing s r x).haul = s.haul ∧ (setRing s r x).time = s.time ∧
    (setRing s r x).triad = s.triad ∧ (setRing s r x).fence = s.fence ∧ (setRing s r x).counters = s.counters ∧
    (setRing s r x).events = s.events ∧ (setRing s r x).face = s.face ∧ (setRing s r x).relay = s.relay ∧
    (setRing s r x).pair = s.pair ∧ (setRing s r x).gh = s.gh ∧ (setRing s r x).vault = s.vault ∧ (setRing s r x).wb = s.wb := by
  exact ⟨rfl, rfl, rfl, rfl, rfl, rfl, rfl, rfl, rfl, rfl, rfl, rfl, rfl, rfl, rfl, rfl, rfl, rfl, rfl, rfl, rfl, rfl, rfl, rfl, rfl⟩

@[simp] theorem evqAck_frame (s : State) (i v : Nat) :
    (evqAck s i v).pending = s.pending ∧ (evqAck s i v).localNs = s.localNs ∧ (evqAck s i v).freeIdx = s.freeIdx ∧
    (evqAck s i v).bench = s.bench ∧ (evqAck s i v).gate = s.gate ∧ (evqAck s i v).cores = s.cores ∧
    (evqAck s i v).engine = s.engine ∧ (evqAck s i v).screen = s.screen ∧ (evqAck s i v).lookup = s.lookup ∧
    (evqAck s i v).berm = s.berm ∧ (evqAck s i v).stock = s.stock ∧ (evqAck s i v).hopper = s.hopper ∧
    (evqAck s i v).fabric = s.fabric ∧ (evqAck s i v).haul = s.haul ∧ (evqAck s i v).time = s.time ∧
    (evqAck s i v).triad = s.triad ∧ (evqAck s i v).fence = s.fence ∧ (evqAck s i v).counters = s.counters ∧
    (evqAck s i v).events = s.events ∧ (evqAck s i v).face = s.face ∧ (evqAck s i v).relay = s.relay ∧
    (evqAck s i v).pair = s.pair ∧ (evqAck s i v).gh = s.gh ∧ (evqAck s i v).vault = s.vault ∧ (evqAck s i v).wb = s.wb := by
  exact ⟨rfl, rfl, rfl, rfl, rfl, rfl, rfl, rfl, rfl, rfl, rfl, rfl, rfl, rfl, rfl, rfl, rfl, rfl, rfl, rfl, rfl, rfl, rfl, rfl, rfl⟩

@[simp] theorem rstCauseClear_frame (s : State) (v : Nat) :
    (rstCauseClear s v).pending = s.pending ∧ (rstCauseClear s v).localNs = s.localNs ∧
    (rstCauseClear s v).freeIdx = s.freeIdx ∧ (rstCauseClear s v).bench = s.bench ∧ (rstCauseClear s v).gate = s.gate ∧
    (rstCauseClear s v).cores = s.cores ∧ (rstCauseClear s v).engine = s.engine ∧ (rstCauseClear s v).screen = s.screen ∧
    (rstCauseClear s v).lookup = s.lookup ∧ (rstCauseClear s v).berm = s.berm ∧ (rstCauseClear s v).stock = s.stock ∧
    (rstCauseClear s v).hopper = s.hopper ∧ (rstCauseClear s v).fabric = s.fabric ∧ (rstCauseClear s v).haul = s.haul ∧
    (rstCauseClear s v).time = s.time ∧ (rstCauseClear s v).triad = s.triad ∧ (rstCauseClear s v).fence = s.fence ∧
    (rstCauseClear s v).counters = s.counters ∧ (rstCauseClear s v).events = s.events ∧ (rstCauseClear s v).face = s.face ∧
    (rstCauseClear s v).relay = s.relay ∧ (rstCauseClear s v).pair = s.pair ∧ (rstCauseClear s v).vault = s.vault ∧
    (rstCauseClear s v).host = s.host ∧ (rstCauseClear s v).wb = s.wb := by
  exact ⟨rfl, rfl, rfl, rfl, rfl, rfl, rfl, rfl, rfl, rfl, rfl, rfl, rfl, rfl, rfl, rfl, rfl, rfl, rfl, rfl, rfl, rfl, rfl, rfl, rfl⟩

@[simp] theorem dbgDetach_frame (s : State) :
    (dbgDetach s).pending = s.pending ∧ (dbgDetach s).localNs = s.localNs ∧ (dbgDetach s).freeIdx = s.freeIdx ∧
    (dbgDetach s).bench = s.bench ∧ (dbgDetach s).gate = s.gate ∧ (dbgDetach s).cores = s.cores ∧
    (dbgDetach s).engine = s.engine ∧ (dbgDetach s).screen = s.screen ∧ (dbgDetach s).lookup = s.lookup ∧
    (dbgDetach s).berm = s.berm ∧ (dbgDetach s).stock = s.stock ∧ (dbgDetach s).hopper = s.hopper ∧
    (dbgDetach s).fabric = s.fabric ∧ (dbgDetach s).haul = s.haul ∧ (dbgDetach s).time = s.time ∧
    (dbgDetach s).triad = s.triad ∧ (dbgDetach s).fence = s.fence ∧ (dbgDetach s).counters = s.counters ∧
    (dbgDetach s).events = s.events ∧ (dbgDetach s).face = s.face ∧ (dbgDetach s).relay = s.relay ∧
    (dbgDetach s).pair = s.pair ∧ (dbgDetach s).gh = s.gh ∧ (dbgDetach s).vault = s.vault ∧ (dbgDetach s).wb = s.wb := by
  exact ⟨rfl, rfl, rfl, rfl, rfl, rfl, rfl, rfl, rfl, rfl, rfl, rfl, rfl, rfl, rfl, rfl, rfl, rfl, rfl, rfl, rfl, rfl, rfl, rfl, rfl⟩

@[simp] theorem setKey_frame (s : State) (h : Nat) (k : Option VKey) :
    (setKey s h k).pending = s.pending ∧ (setKey s h k).localNs = s.localNs ∧ (setKey s h k).freeIdx = s.freeIdx ∧
    (setKey s h k).bench = s.bench ∧ (setKey s h k).gate = s.gate ∧ (setKey s h k).cores = s.cores ∧
    (setKey s h k).engine = s.engine ∧ (setKey s h k).screen = s.screen ∧ (setKey s h k).lookup = s.lookup ∧
    (setKey s h k).berm = s.berm ∧ (setKey s h k).stock = s.stock ∧ (setKey s h k).hopper = s.hopper ∧
    (setKey s h k).fabric = s.fabric ∧ (setKey s h k).haul = s.haul ∧ (setKey s h k).time = s.time ∧
    (setKey s h k).triad = s.triad ∧ (setKey s h k).fence = s.fence ∧ (setKey s h k).counters = s.counters ∧
    (setKey s h k).events = s.events ∧ (setKey s h k).face = s.face ∧ (setKey s h k).relay = s.relay ∧
    (setKey s h k).pair = s.pair ∧ (setKey s h k).gh = s.gh ∧ (setKey s h k).host = s.host ∧ (setKey s h k).wb = s.wb := by
  exact ⟨rfl, rfl, rfl, rfl, rfl, rfl, rfl, rfl, rfl, rfl, rfl, rfl, rfl, rfl, rfl, rfl, rfl, rfl, rfl, rfl, rfl, rfl, rfl, rfl, rfl⟩

@[simp] theorem setTable_frame (s : State) (t : Nat) (x : Option LTable) :
    (setTable s t x).pending = s.pending ∧ (setTable s t x).localNs = s.localNs ∧ (setTable s t x).freeIdx = s.freeIdx ∧
    (setTable s t x).bench = s.bench ∧ (setTable s t x).gate = s.gate ∧ (setTable s t x).cores = s.cores ∧
    (setTable s t x).engine = s.engine ∧ (setTable s t x).screen = s.screen ∧ (setTable s t x).berm = s.berm ∧
    (setTable s t x).stock = s.stock ∧ (setTable s t x).hopper = s.hopper ∧ (setTable s t x).fabric = s.fabric ∧
    (setTable s t x).haul = s.haul ∧ (setTable s t x).time = s.time ∧ (setTable s t x).triad = s.triad ∧
    (setTable s t x).fence = s.fence ∧ (setTable s t x).counters = s.counters ∧ (setTable s t x).events = s.events ∧
    (setTable s t x).face = s.face ∧ (setTable s t x).relay = s.relay ∧ (setTable s t x).pair = s.pair ∧
    (setTable s t x).gh = s.gh ∧ (setTable s t x).vault = s.vault ∧ (setTable s t x).host = s.host ∧
    (setTable s t x).wb = s.wb := by
  exact ⟨rfl, rfl, rfl, rfl, rfl, rfl, rfl, rfl, rfl, rfl, rfl, rfl, rfl, rfl, rfl, rfl, rfl, rfl, rfl, rfl, rfl, rfl, rfl, rfl, rfl⟩

@[simp] theorem setDomain_frame (s : State) (d : Nat) (x : Option Domain) :
    (setDomain s d x).pending = s.pending ∧ (setDomain s d x).localNs = s.localNs ∧ (setDomain s d x).freeIdx = s.freeIdx ∧
    (setDomain s d x).bench = s.bench ∧ (setDomain s d x).gate = s.gate ∧ (setDomain s d x).cores = s.cores ∧
    (setDomain s d x).engine = s.engine ∧ (setDomain s d x).screen = s.screen ∧ (setDomain s d x).berm = s.berm ∧
    (setDomain s d x).stock = s.stock ∧ (setDomain s d x).hopper = s.hopper ∧ (setDomain s d x).fabric = s.fabric ∧
    (setDomain s d x).haul = s.haul ∧ (setDomain s d x).time = s.time ∧ (setDomain s d x).triad = s.triad ∧
    (setDomain s d x).fence = s.fence ∧ (setDomain s d x).counters = s.counters ∧ (setDomain s d x).events = s.events ∧
    (setDomain s d x).face = s.face ∧ (setDomain s d x).relay = s.relay ∧ (setDomain s d x).pair = s.pair ∧
    (setDomain s d x).gh = s.gh ∧ (setDomain s d x).vault = s.vault ∧ (setDomain s d x).host = s.host ∧
    (setDomain s d x).wb = s.wb := by
  exact ⟨rfl, rfl, rfl, rfl, rfl, rfl, rfl, rfl, rfl, rfl, rfl, rfl, rfl, rfl, rfl, rfl, rfl, rfl, rfl, rfl, rfl, rfl, rfl, rfl, rfl⟩

@[simp] theorem settleTags_frame (s : State) (num : Nat) (applied : Bool) :
    (settleTags s num applied).pending = s.pending ∧ (settleTags s num applied).localNs = s.localNs ∧
    (settleTags s num applied).freeIdx = s.freeIdx ∧ (settleTags s num applied).bench = s.bench ∧
    (settleTags s num applied).gate = s.gate ∧ (settleTags s num applied).cores = s.cores ∧
    (settleTags s num applied).engine = s.engine ∧ (settleTags s num applied).screen = s.screen ∧
    (settleTags s num applied).berm = s.berm ∧ (settleTags s num applied).stock = s.stock ∧
    (settleTags s num applied).hopper = s.hopper ∧ (settleTags s num applied).fabric = s.fabric ∧
    (settleTags s num applied).haul = s.haul ∧ (settleTags s num applied).time = s.time ∧
    (settleTags s num applied).triad = s.triad ∧ (settleTags s num applied).fence = s.fence ∧
    (settleTags s num applied).counters = s.counters ∧ (settleTags s num applied).events = s.events ∧
    (settleTags s num applied).face = s.face ∧ (settleTags s num applied).relay = s.relay ∧
    (settleTags s num applied).pair = s.pair ∧ (settleTags s num applied).gh = s.gh ∧
    (settleTags s num applied).vault = s.vault ∧ (settleTags s num applied).host = s.host ∧
    (settleTags s num applied).wb = s.wb := by
  exact ⟨rfl, rfl, rfl, rfl, rfl, rfl, rfl, rfl, rfl, rfl, rfl, rfl, rfl, rfl, rfl, rfl, rfl, rfl, rfl, rfl, rfl, rfl, rfl, rfl, rfl⟩

@[simp] theorem bump_frame (s : State) (c : Ctr) (i n : Nat) :
    (bump s c i n).pending = s.pending ∧ (bump s c i n).localNs = s.localNs ∧ (bump s c i n).freeIdx = s.freeIdx ∧
    (bump s c i n).bench = s.bench ∧ (bump s c i n).gate = s.gate ∧ (bump s c i n).cores = s.cores ∧
    (bump s c i n).engine = s.engine ∧ (bump s c i n).screen = s.screen ∧ (bump s c i n).lookup = s.lookup ∧
    (bump s c i n).berm = s.berm ∧ (bump s c i n).stock = s.stock ∧ (bump s c i n).hopper = s.hopper ∧
    (bump s c i n).fabric = s.fabric ∧ (bump s c i n).haul = s.haul ∧ (bump s c i n).time = s.time ∧
    (bump s c i n).triad = s.triad ∧ (bump s c i n).fence = s.fence ∧ (bump s c i n).events = s.events ∧
    (bump s c i n).face = s.face ∧ (bump s c i n).relay = s.relay ∧ (bump s c i n).pair = s.pair ∧ (bump s c i n).gh = s.gh ∧
    (bump s c i n).vault = s.vault ∧ (bump s c i n).host = s.host ∧ (bump s c i n).wb = s.wb := by
  exact ⟨rfl, rfl, rfl, rfl, rfl, rfl, rfl, rfl, rfl, rfl, rfl, rfl, rfl, rfl, rfl, rfl, rfl, rfl, rfl, rfl, rfl, rfl, rfl, rfl, rfl⟩

@[simp] theorem advance_frame (s : State) (n : Nat) :
    (advance s n).pending = s.pending ∧ (advance s n).freeIdx = s.freeIdx ∧ (advance s n).bench = s.bench ∧
    (advance s n).gate = s.gate ∧ (advance s n).cores = s.cores ∧ (advance s n).engine = s.engine ∧
    (advance s n).screen = s.screen ∧ (advance s n).lookup = s.lookup ∧ (advance s n).berm = s.berm ∧
    (advance s n).stock = s.stock ∧ (advance s n).hopper = s.hopper ∧ (advance s n).fabric = s.fabric ∧
    (advance s n).haul = s.haul ∧ (advance s n).triad = s.triad ∧ (advance s n).fence = s.fence ∧
    (advance s n).counters = s.counters ∧ (advance s n).events = s.events ∧ (advance s n).face = s.face ∧
    (advance s n).relay = s.relay ∧ (advance s n).pair = s.pair ∧ (advance s n).gh = s.gh ∧ (advance s n).vault = s.vault ∧
    (advance s n).host = s.host ∧ (advance s n).wb = s.wb := by
  exact ⟨rfl, rfl, rfl, rfl, rfl, rfl, rfl, rfl, rfl, rfl, rfl, rfl, rfl, rfl, rfl, rfl, rfl, rfl, rfl, rfl, rfl, rfl, rfl, rfl⟩

@[simp] theorem setCore_frame (s : State) (k : Nat) (c : SCore) :
    (setCore s k c).pending = s.pending ∧ (setCore s k c).localNs = s.localNs ∧ (setCore s k c).freeIdx = s.freeIdx ∧
    (setCore s k c).bench = s.bench ∧ (setCore s k c).gate = s.gate ∧ (setCore s k c).engine = s.engine ∧
    (setCore s k c).screen = s.screen ∧ (setCore s k c).lookup = s.lookup ∧ (setCore s k c).berm = s.berm ∧
    (setCore s k c).stock = s.stock ∧ (setCore s k c).hopper = s.hopper ∧ (setCore s k c).fabric = s.fabric ∧
    (setCore s k c).haul = s.haul ∧ (setCore s k c).time = s.time ∧ (setCore s k c).triad = s.triad ∧
    (setCore s k c).fence = s.fence ∧ (setCore s k c).counters = s.counters ∧ (setCore s k c).events = s.events ∧
    (setCore s k c).face = s.face ∧ (setCore s k c).relay = s.relay ∧ (setCore s k c).pair = s.pair ∧
    (setCore s k c).gh = s.gh ∧ (setCore s k c).vault = s.vault ∧ (setCore s k c).host = s.host ∧ (setCore s k c).wb = s.wb := by
  exact ⟨rfl, rfl, rfl, rfl, rfl, rfl, rfl, rfl, rfl, rfl, rfl, rfl, rfl, rfl, rfl, rfl, rfl, rfl, rfl, rfl, rfl, rfl, rfl, rfl, rfl⟩

@[simp] theorem setThread_frame (s : State) (t : Nat) (x : Thread) :
    (setThread s t x).pending = s.pending ∧ (setThread s t x).localNs = s.localNs ∧ (setThread s t x).freeIdx = s.freeIdx ∧
    (setThread s t x).bench = s.bench ∧ (setThread s t x).gate = s.gate ∧ (setThread s t x).cores = s.cores ∧
    (setThread s t x).screen = s.screen ∧ (setThread s t x).lookup = s.lookup ∧ (setThread s t x).berm = s.berm ∧
    (setThread s t x).stock = s.stock ∧ (setThread s t x).hopper = s.hopper ∧ (setThread s t x).fabric = s.fabric ∧
    (setThread s t x).haul = s.haul ∧ (setThread s t x).time = s.time ∧ (setThread s t x).triad = s.triad ∧
    (setThread s t x).fence = s.fence ∧ (setThread s t x).counters = s.counters ∧ (setThread s t x).events = s.events ∧
    (setThread s t x).face = s.face ∧ (setThread s t x).relay = s.relay ∧ (setThread s t x).pair = s.pair ∧
    (setThread s t x).gh = s.gh ∧ (setThread s t x).vault = s.vault ∧ (setThread s t x).host = s.host ∧
    (setThread s t x).wb = s.wb := by
  exact ⟨rfl, rfl, rfl, rfl, rfl, rfl, rfl, rfl, rfl, rfl, rfl, rfl, rfl, rfl, rfl, rfl, rfl, rfl, rfl, rfl, rfl, rfl, rfl, rfl, rfl⟩

@[simp] theorem setQueue_frame (s : State) (q : Nat) (x : QueueRec) :
    (setQueue s q x).pending = s.pending ∧ (setQueue s q x).localNs = s.localNs ∧ (setQueue s q x).freeIdx = s.freeIdx ∧
    (setQueue s q x).bench = s.bench ∧ (setQueue s q x).gate = s.gate ∧ (setQueue s q x).cores = s.cores ∧
    (setQueue s q x).engine = s.engine ∧ (setQueue s q x).screen = s.screen ∧ (setQueue s q x).lookup = s.lookup ∧
    (setQueue s q x).berm = s.berm ∧ (setQueue s q x).stock = s.stock ∧ (setQueue s q x).hopper = s.hopper ∧
    (setQueue s q x).fabric = s.fabric ∧ (setQueue s q x).time = s.time ∧ (setQueue s q x).triad = s.triad ∧
    (setQueue s q x).fence = s.fence ∧ (setQueue s q x).counters = s.counters ∧ (setQueue s q x).events = s.events ∧
    (setQueue s q x).face = s.face ∧ (setQueue s q x).relay = s.relay ∧ (setQueue s q x).pair = s.pair ∧
    (setQueue s q x).gh = s.gh ∧ (setQueue s q x).vault = s.vault ∧ (setQueue s q x).host = s.host ∧
    (setQueue s q x).wb = s.wb := by
  exact ⟨rfl, rfl, rfl, rfl, rfl, rfl, rfl, rfl, rfl, rfl, rfl, rfl, rfl, rfl, rfl, rfl, rfl, rfl, rfl, rfl, rfl, rfl, rfl, rfl, rfl⟩

@[simp] theorem setPort_frame (s : State) (m : Nat) (x : PortRec) :
    (setPort s m x).pending = s.pending ∧ (setPort s m x).localNs = s.localNs ∧ (setPort s m x).freeIdx = s.freeIdx ∧
    (setPort s m x).bench = s.bench ∧ (setPort s m x).gate = s.gate ∧ (setPort s m x).cores = s.cores ∧
    (setPort s m x).engine = s.engine ∧ (setPort s m x).screen = s.screen ∧ (setPort s m x).lookup = s.lookup ∧
    (setPort s m x).berm = s.berm ∧ (setPort s m x).stock = s.stock ∧ (setPort s m x).hopper = s.hopper ∧
    (setPort s m x).fabric = s.fabric ∧ (setPort s m x).time = s.time ∧ (setPort s m x).triad = s.triad ∧
    (setPort s m x).fence = s.fence ∧ (setPort s m x).counters = s.counters ∧ (setPort s m x).events = s.events ∧
    (setPort s m x).face = s.face ∧ (setPort s m x).relay = s.relay ∧ (setPort s m x).pair = s.pair ∧
    (setPort s m x).gh = s.gh ∧ (setPort s m x).vault = s.vault ∧ (setPort s m x).host = s.host ∧ (setPort s m x).wb = s.wb := by
  exact ⟨rfl, rfl, rfl, rfl, rfl, rfl, rfl, rfl, rfl, rfl, rfl, rfl, rfl, rfl, rfl, rfl, rfl, rfl, rfl, rfl, rfl, rfl, rfl, rfl, rfl⟩

@[simp] theorem setPool_frame (s : State) (p : Nat) (x : Pool) :
    (setPool s p x).pending = s.pending ∧ (setPool s p x).localNs = s.localNs ∧ (setPool s p x).freeIdx = s.freeIdx ∧
    (setPool s p x).bench = s.bench ∧ (setPool s p x).gate = s.gate ∧ (setPool s p x).cores = s.cores ∧
    (setPool s p x).engine = s.engine ∧ (setPool s p x).screen = s.screen ∧ (setPool s p x).lookup = s.lookup ∧
    (setPool s p x).berm = s.berm ∧ (setPool s p x).stock = s.stock ∧ (setPool s p x).fabric = s.fabric ∧
    (setPool s p x).haul = s.haul ∧ (setPool s p x).time = s.time ∧ (setPool s p x).triad = s.triad ∧
    (setPool s p x).fence = s.fence ∧ (setPool s p x).counters = s.counters ∧ (setPool s p x).events = s.events ∧
    (setPool s p x).face = s.face ∧ (setPool s p x).relay = s.relay ∧ (setPool s p x).pair = s.pair ∧
    (setPool s p x).gh = s.gh ∧ (setPool s p x).vault = s.vault ∧ (setPool s p x).host = s.host ∧ (setPool s p x).wb = s.wb := by
  exact ⟨rfl, rfl, rfl, rfl, rfl, rfl, rfl, rfl, rfl, rfl, rfl, rfl, rfl, rfl, rfl, rfl, rfl, rfl, rfl, rfl, rfl, rfl, rfl, rfl, rfl⟩

@[simp] theorem setCell_frame (s : State) (c : Nat) (x : CellRec) :
    (setCell s c x).pending = s.pending ∧ (setCell s c x).localNs = s.localNs ∧ (setCell s c x).freeIdx = s.freeIdx ∧
    (setCell s c x).bench = s.bench ∧ (setCell s c x).gate = s.gate ∧ (setCell s c x).cores = s.cores ∧
    (setCell s c x).engine = s.engine ∧ (setCell s c x).screen = s.screen ∧ (setCell s c x).lookup = s.lookup ∧
    (setCell s c x).berm = s.berm ∧ (setCell s c x).hopper = s.hopper ∧ (setCell s c x).fabric = s.fabric ∧
    (setCell s c x).haul = s.haul ∧ (setCell s c x).time = s.time ∧ (setCell s c x).triad = s.triad ∧
    (setCell s c x).fence = s.fence ∧ (setCell s c x).counters = s.counters ∧ (setCell s c x).events = s.events ∧
    (setCell s c x).face = s.face ∧ (setCell s c x).relay = s.relay ∧ (setCell s c x).pair = s.pair ∧
    (setCell s c x).gh = s.gh ∧ (setCell s c x).vault = s.vault ∧ (setCell s c x).host = s.host ∧ (setCell s c x).wb = s.wb := by
  exact ⟨rfl, rfl, rfl, rfl, rfl, rfl, rfl, rfl, rfl, rfl, rfl, rfl, rfl, rfl, rfl, rfl, rfl, rfl, rfl, rfl, rfl, rfl, rfl, rfl, rfl⟩

@[simp] theorem setChain_frame (s : State) (c : Nat) (x : Option Chain) :
    (setChain s c x).pending = s.pending ∧ (setChain s c x).localNs = s.localNs ∧ (setChain s c x).freeIdx = s.freeIdx ∧
    (setChain s c x).bench = s.bench ∧ (setChain s c x).gate = s.gate ∧ (setChain s c x).cores = s.cores ∧
    (setChain s c x).engine = s.engine ∧ (setChain s c x).screen = s.screen ∧ (setChain s c x).lookup = s.lookup ∧
    (setChain s c x).berm = s.berm ∧ (setChain s c x).hopper = s.hopper ∧ (setChain s c x).fabric = s.fabric ∧
    (setChain s c x).haul = s.haul ∧ (setChain s c x).time = s.time ∧ (setChain s c x).triad = s.triad ∧
    (setChain s c x).fence = s.fence ∧ (setChain s c x).counters = s.counters ∧ (setChain s c x).events = s.events ∧
    (setChain s c x).face = s.face ∧ (setChain s c x).relay = s.relay ∧ (setChain s c x).pair = s.pair ∧
    (setChain s c x).gh = s.gh ∧ (setChain s c x).vault = s.vault ∧ (setChain s c x).host = s.host ∧
    (setChain s c x).wb = s.wb := by
  exact ⟨rfl, rfl, rfl, rfl, rfl, rfl, rfl, rfl, rfl, rfl, rfl, rfl, rfl, rfl, rfl, rfl, rfl, rfl, rfl, rfl, rfl, rfl, rfl, rfl, rfl⟩

@[simp] theorem laneUp_frame (s : State) (n : Nat) :
    (laneUp s n).pending = s.pending ∧ (laneUp s n).localNs = s.localNs ∧ (laneUp s n).freeIdx = s.freeIdx ∧
    (laneUp s n).bench = s.bench ∧ (laneUp s n).gate = s.gate ∧ (laneUp s n).cores = s.cores ∧
    (laneUp s n).engine = s.engine ∧ (laneUp s n).screen = s.screen ∧ (laneUp s n).lookup = s.lookup ∧
    (laneUp s n).berm = s.berm ∧ (laneUp s n).stock = s.stock ∧ (laneUp s n).hopper = s.hopper ∧
    (laneUp s n).fabric = s.fabric ∧ (laneUp s n).haul = s.haul ∧ (laneUp s n).time = s.time ∧ (laneUp s n).triad = s.triad ∧
    (laneUp s n).fence = s.fence ∧ (laneUp s n).counters = s.counters ∧ (laneUp s n).events = s.events ∧
    (laneUp s n).face = s.face ∧ (laneUp s n).relay = s.relay ∧ (laneUp s n).gh = s.gh ∧ (laneUp s n).vault = s.vault ∧
    (laneUp s n).host = s.host ∧ (laneUp s n).wb = s.wb := by
  exact ⟨rfl, rfl, rfl, rfl, rfl, rfl, rfl, rfl, rfl, rfl, rfl, rfl, rfl, rfl, rfl, rfl, rfl, rfl, rfl, rfl, rfl, rfl, rfl, rfl, rfl⟩

@[simp] theorem commitDigest_frame (s : State) :
    (commitDigest s).pending = s.pending ∧ (commitDigest s).localNs = s.localNs ∧ (commitDigest s).freeIdx = s.freeIdx ∧
    (commitDigest s).bench = s.bench ∧ (commitDigest s).gate = s.gate ∧ (commitDigest s).cores = s.cores ∧
    (commitDigest s).engine = s.engine ∧ (commitDigest s).screen = s.screen ∧ (commitDigest s).lookup = s.lookup ∧
    (commitDigest s).berm = s.berm ∧ (commitDigest s).stock = s.stock ∧ (commitDigest s).hopper = s.hopper ∧
    (commitDigest s).fabric = s.fabric ∧ (commitDigest s).haul = s.haul ∧ (commitDigest s).time = s.time ∧
    (commitDigest s).triad = s.triad ∧ (commitDigest s).fence = s.fence ∧ (commitDigest s).counters = s.counters ∧
    (commitDigest s).events = s.events ∧ (commitDigest s).face = s.face ∧ (commitDigest s).relay = s.relay ∧
    (commitDigest s).gh = s.gh ∧ (commitDigest s).vault = s.vault ∧ (commitDigest s).host = s.host ∧
    (commitDigest s).wb = s.wb := by
  exact ⟨rfl, rfl, rfl, rfl, rfl, rfl, rfl, rfl, rfl, rfl, rfl, rfl, rfl, rfl, rfl, rfl, rfl, rfl, rfl, rfl, rfl, rfl, rfl, rfl, rfl⟩

@[simp] theorem setList_frame (s : State) (level parent cls : Nat) (l : List (Nat × Int)) :
    (setList s level parent cls l).pending = s.pending ∧ (setList s level parent cls l).localNs = s.localNs ∧
    (setList s level parent cls l).freeIdx = s.freeIdx ∧ (setList s level parent cls l).bench = s.bench ∧
    (setList s level parent cls l).gate = s.gate ∧ (setList s level parent cls l).cores = s.cores ∧
    (setList s level parent cls l).engine = s.engine ∧ (setList s level parent cls l).screen = s.screen ∧
    (setList s level parent cls l).lookup = s.lookup ∧ (setList s level parent cls l).berm = s.berm ∧
    (setList s level parent cls l).stock = s.stock ∧ (setList s level parent cls l).hopper = s.hopper ∧
    (setList s level parent cls l).fabric = s.fabric ∧ (setList s level parent cls l).time = s.time ∧
    (setList s level parent cls l).triad = s.triad ∧ (setList s level parent cls l).fence = s.fence ∧
    (setList s level parent cls l).counters = s.counters ∧ (setList s level parent cls l).events = s.events ∧
    (setList s level parent cls l).face = s.face ∧ (setList s level parent cls l).relay = s.relay ∧
    (setList s level parent cls l).pair = s.pair ∧ (setList s level parent cls l).gh = s.gh ∧
    (setList s level parent cls l).vault = s.vault ∧ (setList s level parent cls l).host = s.host ∧
    (setList s level parent cls l).wb = s.wb := by
  exact ⟨rfl, rfl, rfl, rfl, rfl, rfl, rfl, rfl, rfl, rfl, rfl, rfl, rfl, rfl, rfl, rfl, rfl, rfl, rfl, rfl, rfl, rfl, rfl, rfl, rfl⟩

@[simp] theorem mapDescs_frame (f : Desc → Desc) (s : State) :
    (mapDescs f s).pending = s.pending ∧ (mapDescs f s).localNs = s.localNs ∧ (mapDescs f s).freeIdx = s.freeIdx ∧
    (mapDescs f s).bench = s.bench ∧ (mapDescs f s).gate = s.gate ∧ (mapDescs f s).cores = s.cores ∧
    (mapDescs f s).engine = s.engine ∧ (mapDescs f s).screen = s.screen ∧ (mapDescs f s).lookup = s.lookup ∧
    (mapDescs f s).berm = s.berm ∧ (mapDescs f s).hopper = s.hopper ∧ (mapDescs f s).fabric = s.fabric ∧
    (mapDescs f s).time = s.time ∧ (mapDescs f s).triad = s.triad ∧ (mapDescs f s).fence = s.fence ∧
    (mapDescs f s).counters = s.counters ∧ (mapDescs f s).events = s.events ∧ (mapDescs f s).face = s.face ∧
    (mapDescs f s).relay = s.relay ∧ (mapDescs f s).pair = s.pair ∧ (mapDescs f s).gh = s.gh ∧
    (mapDescs f s).vault = s.vault ∧ (mapDescs f s).host = s.host ∧ (mapDescs f s).wb = s.wb := by
  exact ⟨rfl, rfl, rfl, rfl, rfl, rfl, rfl, rfl, rfl, rfl, rfl, rfl, rfl, rfl, rfl, rfl, rfl, rfl, rfl, rfl, rfl, rfl, rfl, rfl⟩

@[simp] theorem setReorder_frame (s : State) (src : Nat) (l : List SeqEnt) :
    (setReorder s src l).pending = s.pending ∧ (setReorder s src l).localNs = s.localNs ∧
    (setReorder s src l).freeIdx = s.freeIdx ∧ (setReorder s src l).bench = s.bench ∧ (setReorder s src l).gate = s.gate ∧
    (setReorder s src l).cores = s.cores ∧ (setReorder s src l).engine = s.engine ∧ (setReorder s src l).lookup = s.lookup ∧
    (setReorder s src l).berm = s.berm ∧ (setReorder s src l).stock = s.stock ∧ (setReorder s src l).hopper = s.hopper ∧
    (setReorder s src l).fabric = s.fabric ∧ (setReorder s src l).haul = s.haul ∧ (setReorder s src l).time = s.time ∧
    (setReorder s src l).triad = s.triad ∧ (setReorder s src l).fence = s.fence ∧ (setReorder s src l).counters = s.counters ∧
    (setReorder s src l).events = s.events ∧ (setReorder s src l).face = s.face ∧ (setReorder s src l).relay = s.relay ∧
    (setReorder s src l).pair = s.pair ∧ (setReorder s src l).gh = s.gh ∧ (setReorder s src l).vault = s.vault ∧
    (setReorder s src l).host = s.host ∧ (setReorder s src l).wb = s.wb := by
  exact ⟨rfl, rfl, rfl, rfl, rfl, rfl, rfl, rfl, rfl, rfl, rfl, rfl, rfl, rfl, rfl, rfl, rfl, rfl, rfl, rfl, rfl, rfl, rfl, rfl, rfl⟩

@[simp] theorem setShaper_frame (s : State) (level i : Nat) (x : Shaper) :
    (setShaper s level i x).pending = s.pending ∧ (setShaper s level i x).localNs = s.localNs ∧
    (setShaper s level i x).freeIdx = s.freeIdx ∧ (setShaper s level i x).bench = s.bench ∧
    (setShaper s level i x).gate = s.gate ∧ (setShaper s level i x).cores = s.cores ∧
    (setShaper s level i x).engine = s.engine ∧ (setShaper s level i x).screen = s.screen ∧
    (setShaper s level i x).lookup = s.lookup ∧ (setShaper s level i x).berm = s.berm ∧
    (setShaper s level i x).stock = s.stock ∧ (setShaper s level i x).hopper = s.hopper ∧
    (setShaper s level i x).fabric = s.fabric ∧ (setShaper s level i x).time = s.time ∧
    (setShaper s level i x).triad = s.triad ∧ (setShaper s level i x).fence = s.fence ∧
    (setShaper s level i x).counters = s.counters ∧ (setShaper s level i x).events = s.events ∧
    (setShaper s level i x).face = s.face ∧ (setShaper s level i x).relay = s.relay ∧ (setShaper s level i x).pair = s.pair ∧
    (setShaper s level i x).gh = s.gh ∧ (setShaper s level i x).vault = s.vault ∧ (setShaper s level i x).host = s.host ∧
    (setShaper s level i x).wb = s.wb := by
  exact ⟨rfl, rfl, rfl, rfl, rfl, rfl, rfl, rfl, rfl, rfl, rfl, rfl, rfl, rfl, rfl, rfl, rfl, rfl, rfl, rfl, rfl, rfl, rfl, rfl, rfl⟩

@[simp] theorem restorePn_frame (s : State) (m : Nat) (t : TxRec) :
    (restorePn s m t).pending = s.pending ∧ (restorePn s m t).localNs = s.localNs ∧ (restorePn s m t).freeIdx = s.freeIdx ∧
    (restorePn s m t).bench = s.bench ∧ (restorePn s m t).gate = s.gate ∧ (restorePn s m t).cores = s.cores ∧
    (restorePn s m t).engine = s.engine ∧ (restorePn s m t).screen = s.screen ∧ (restorePn s m t).lookup = s.lookup ∧
    (restorePn s m t).berm = s.berm ∧ (restorePn s m t).stock = s.stock ∧ (restorePn s m t).hopper = s.hopper ∧
    (restorePn s m t).fabric = s.fabric ∧ (restorePn s m t).haul = s.haul ∧ (restorePn s m t).time = s.time ∧
    (restorePn s m t).triad = s.triad ∧ (restorePn s m t).fence = s.fence ∧ (restorePn s m t).counters = s.counters ∧
    (restorePn s m t).events = s.events ∧ (restorePn s m t).relay = s.relay ∧ (restorePn s m t).pair = s.pair ∧
    (restorePn s m t).gh = s.gh ∧ (restorePn s m t).vault = s.vault ∧ (restorePn s m t).host = s.host ∧
    (restorePn s m t).wb = s.wb := by
  exact ⟨rfl, rfl, rfl, rfl, rfl, rfl, rfl, rfl, rfl, rfl, rfl, rfl, rfl, rfl, rfl, rfl, rfl, rfl, rfl, rfl, rfl, rfl, rfl, rfl, rfl⟩

@[simp] theorem setCan_frame (s : State) (c : Nat) (x : CanChan) :
    (setCan s c x).pending = s.pending ∧ (setCan s c x).localNs = s.localNs ∧ (setCan s c x).freeIdx = s.freeIdx ∧
    (setCan s c x).bench = s.bench ∧ (setCan s c x).gate = s.gate ∧ (setCan s c x).cores = s.cores ∧
    (setCan s c x).engine = s.engine ∧ (setCan s c x).screen = s.screen ∧ (setCan s c x).lookup = s.lookup ∧
    (setCan s c x).berm = s.berm ∧ (setCan s c x).stock = s.stock ∧ (setCan s c x).hopper = s.hopper ∧
    (setCan s c x).fabric = s.fabric ∧ (setCan s c x).haul = s.haul ∧ (setCan s c x).time = s.time ∧
    (setCan s c x).triad = s.triad ∧ (setCan s c x).fence = s.fence ∧ (setCan s c x).counters = s.counters ∧
    (setCan s c x).events = s.events ∧ (setCan s c x).face = s.face ∧ (setCan s c x).pair = s.pair ∧
    (setCan s c x).gh = s.gh ∧ (setCan s c x).vault = s.vault ∧ (setCan s c x).host = s.host ∧ (setCan s c x).wb = s.wb := by
  exact ⟨rfl, rfl, rfl, rfl, rfl, rfl, rfl, rfl, rfl, rfl, rfl, rfl, rfl, rfl, rfl, rfl, rfl, rfl, rfl, rfl, rfl, rfl, rfl, rfl, rfl⟩

@[simp] theorem setLin_frame (s : State) (l : Nat) (x : LinChan) :
    (setLin s l x).pending = s.pending ∧ (setLin s l x).localNs = s.localNs ∧ (setLin s l x).freeIdx = s.freeIdx ∧
    (setLin s l x).bench = s.bench ∧ (setLin s l x).gate = s.gate ∧ (setLin s l x).cores = s.cores ∧
    (setLin s l x).engine = s.engine ∧ (setLin s l x).screen = s.screen ∧ (setLin s l x).lookup = s.lookup ∧
    (setLin s l x).berm = s.berm ∧ (setLin s l x).stock = s.stock ∧ (setLin s l x).hopper = s.hopper ∧
    (setLin s l x).fabric = s.fabric ∧ (setLin s l x).haul = s.haul ∧ (setLin s l x).time = s.time ∧
    (setLin s l x).triad = s.triad ∧ (setLin s l x).fence = s.fence ∧ (setLin s l x).counters = s.counters ∧
    (setLin s l x).events = s.events ∧ (setLin s l x).face = s.face ∧ (setLin s l x).pair = s.pair ∧
    (setLin s l x).gh = s.gh ∧ (setLin s l x).vault = s.vault ∧ (setLin s l x).host = s.host ∧ (setLin s l x).wb = s.wb := by
  exact ⟨rfl, rfl, rfl, rfl, rfl, rfl, rfl, rfl, rfl, rfl, rfl, rfl, rfl, rfl, rfl, rfl, rfl, rfl, rfl, rfl, rfl, rfl, rfl, rfl, rfl⟩

@[simp] theorem applyRelayParams_frame (s : State) (img : List Byte) (o : Nat) :
    (applyRelayParams s img o).pending = s.pending ∧ (applyRelayParams s img o).localNs = s.localNs ∧
    (applyRelayParams s img o).freeIdx = s.freeIdx ∧ (applyRelayParams s img o).bench = s.bench ∧
    (applyRelayParams s img o).gate = s.gate ∧ (applyRelayParams s img o).cores = s.cores ∧
    (applyRelayParams s img o).engine = s.engine ∧ (applyRelayParams s img o).screen = s.screen ∧
    (applyRelayParams s img o).lookup = s.lookup ∧ (applyRelayParams s img o).berm = s.berm ∧
    (applyRelayParams s img o).stock = s.stock ∧ (applyRelayParams s img o).hopper = s.hopper ∧
    (applyRelayParams s img o).fabric = s.fabric ∧ (applyRelayParams s img o).haul = s.haul ∧
    (applyRelayParams s img o).time = s.time ∧ (applyRelayParams s img o).triad = s.triad ∧
    (applyRelayParams s img o).fence = s.fence ∧ (applyRelayParams s img o).counters = s.counters ∧
    (applyRelayParams s img o).events = s.events ∧ (applyRelayParams s img o).face = s.face ∧
    (applyRelayParams s img o).pair = s.pair ∧ (applyRelayParams s img o).gh = s.gh ∧
    (applyRelayParams s img o).vault = s.vault ∧ (applyRelayParams s img o).host = s.host ∧
    (applyRelayParams s img o).wb = s.wb := by
  exact ⟨rfl, rfl, rfl, rfl, rfl, rfl, rfl, rfl, rfl, rfl, rfl, rfl, rfl, rfl, rfl, rfl, rfl, rfl, rfl, rfl, rfl, rfl, rfl, rfl, rfl⟩

@[simp] theorem applyRoutes_frame (s : State) (img : List Byte) (o n : Nat) :
    (applyRoutes s img o n).pending = s.pending ∧ (applyRoutes s img o n).localNs = s.localNs ∧
    (applyRoutes s img o n).freeIdx = s.freeIdx ∧ (applyRoutes s img o n).bench = s.bench ∧
    (applyRoutes s img o n).gate = s.gate ∧ (applyRoutes s img o n).cores = s.cores ∧
    (applyRoutes s img o n).engine = s.engine ∧ (applyRoutes s img o n).screen = s.screen ∧
    (applyRoutes s img o n).lookup = s.lookup ∧ (applyRoutes s img o n).berm = s.berm ∧
    (applyRoutes s img o n).stock = s.stock ∧ (applyRoutes s img o n).hopper = s.hopper ∧
    (applyRoutes s img o n).fabric = s.fabric ∧ (applyRoutes s img o n).haul = s.haul ∧
    (applyRoutes s img o n).time = s.time ∧ (applyRoutes s img o n).triad = s.triad ∧
    (applyRoutes s img o n).fence = s.fence ∧ (applyRoutes s img o n).counters = s.counters ∧
    (applyRoutes s img o n).events = s.events ∧ (applyRoutes s img o n).face = s.face ∧
    (applyRoutes s img o n).pair = s.pair ∧ (applyRoutes s img o n).gh = s.gh ∧ (applyRoutes s img o n).vault = s.vault ∧
    (applyRoutes s img o n).host = s.host ∧ (applyRoutes s img o n).wb = s.wb := by
  exact ⟨rfl, rfl, rfl, rfl, rfl, rfl, rfl, rfl, rfl, rfl, rfl, rfl, rfl, rfl, rfl, rfl, rfl, rfl, rfl, rfl, rfl, rfl, rfl, rfl, rfl⟩

@[simp] theorem countPartner_frame (s : State) (p : Nat) :
    (countPartner s p).pending = s.pending ∧ (countPartner s p).localNs = s.localNs ∧ (countPartner s p).freeIdx = s.freeIdx ∧
    (countPartner s p).bench = s.bench ∧ (countPartner s p).gate = s.gate ∧ (countPartner s p).cores = s.cores ∧
    (countPartner s p).engine = s.engine ∧ (countPartner s p).screen = s.screen ∧ (countPartner s p).lookup = s.lookup ∧
    (countPartner s p).berm = s.berm ∧ (countPartner s p).stock = s.stock ∧ (countPartner s p).hopper = s.hopper ∧
    (countPartner s p).fabric = s.fabric ∧ (countPartner s p).haul = s.haul ∧ (countPartner s p).time = s.time ∧
    (countPartner s p).triad = s.triad ∧ (countPartner s p).fence = s.fence ∧ (countPartner s p).counters = s.counters ∧
    (countPartner s p).events = s.events ∧ (countPartner s p).face = s.face ∧ (countPartner s p).pair = s.pair ∧
    (countPartner s p).gh = s.gh ∧ (countPartner s p).vault = s.vault ∧ (countPartner s p).host = s.host ∧
    (countPartner s p).wb = s.wb := by
  exact ⟨rfl, rfl, rfl, rfl, rfl, rfl, rfl, rfl, rfl, rfl, rfl, rfl, rfl, rfl, rfl, rfl, rfl, rfl, rfl, rfl, rfl, rfl, rfl, rfl, rfl⟩

@[simp] theorem setBucket_frame (s : State) (e : Nat) (b : Bucket) :
    (setBucket s e b).pending = s.pending ∧ (setBucket s e b).localNs = s.localNs ∧ (setBucket s e b).freeIdx = s.freeIdx ∧
    (setBucket s e b).bench = s.bench ∧ (setBucket s e b).gate = s.gate ∧ (setBucket s e b).cores = s.cores ∧
    (setBucket s e b).screen = s.screen ∧ (setBucket s e b).lookup = s.lookup ∧ (setBucket s e b).berm = s.berm ∧
    (setBucket s e b).stock = s.stock ∧ (setBucket s e b).hopper = s.hopper ∧ (setBucket s e b).fabric = s.fabric ∧
    (setBucket s e b).haul = s.haul ∧ (setBucket s e b).time = s.time ∧ (setBucket s e b).triad = s.triad ∧
    (setBucket s e b).fence = s.fence ∧ (setBucket s e b).counters = s.counters ∧ (setBucket s e b).events = s.events ∧
    (setBucket s e b).face = s.face ∧ (setBucket s e b).relay = s.relay ∧ (setBucket s e b).pair = s.pair ∧
    (setBucket s e b).gh = s.gh ∧ (setBucket s e b).vault = s.vault ∧ (setBucket s e b).host = s.host ∧
    (setBucket s e b).wb = s.wb := by
  exact ⟨rfl, rfl, rfl, rfl, rfl, rfl, rfl, rfl, rfl, rfl, rfl, rfl, rfl, rfl, rfl, rfl, rfl, rfl, rfl, rfl, rfl, rfl, rfl, rfl, rfl⟩

@[simp] theorem setSpoil_frame (s : State) (m : Nat) (l : List SpoilEnt) :
    (setSpoil s m l).pending = s.pending ∧ (setSpoil s m l).localNs = s.localNs ∧ (setSpoil s m l).freeIdx = s.freeIdx ∧
    (setSpoil s m l).bench = s.bench ∧ (setSpoil s m l).gate = s.gate ∧ (setSpoil s m l).cores = s.cores ∧
    (setSpoil s m l).engine = s.engine ∧ (setSpoil s m l).screen = s.screen ∧ (setSpoil s m l).lookup = s.lookup ∧
    (setSpoil s m l).berm = s.berm ∧ (setSpoil s m l).hopper = s.hopper ∧ (setSpoil s m l).fabric = s.fabric ∧
    (setSpoil s m l).haul = s.haul ∧ (setSpoil s m l).time = s.time ∧ (setSpoil s m l).triad = s.triad ∧
    (setSpoil s m l).fence = s.fence ∧ (setSpoil s m l).counters = s.counters ∧ (setSpoil s m l).events = s.events ∧
    (setSpoil s m l).face = s.face ∧ (setSpoil s m l).relay = s.relay ∧ (setSpoil s m l).pair = s.pair ∧
    (setSpoil s m l).gh = s.gh ∧ (setSpoil s m l).vault = s.vault ∧ (setSpoil s m l).host = s.host ∧
    (setSpoil s m l).wb = s.wb := by
  exact ⟨rfl, rfl, rfl, rfl, rfl, rfl, rfl, rfl, rfl, rfl, rfl, rfl, rfl, rfl, rfl, rfl, rfl, rfl, rfl, rfl, rfl, rfl, rfl, rfl, rfl⟩

@[simp] theorem unblock_frame (s : State) (i : Nat) :
    (unblock s i).pending = s.pending ∧ (unblock s i).localNs = s.localNs ∧ (unblock s i).freeIdx = s.freeIdx ∧
    (unblock s i).bench = s.bench ∧ (unblock s i).gate = s.gate ∧ (unblock s i).cores = s.cores ∧
    (unblock s i).engine = s.engine ∧ (unblock s i).screen = s.screen ∧ (unblock s i).lookup = s.lookup ∧
    (unblock s i).berm = s.berm ∧ (unblock s i).hopper = s.hopper ∧ (unblock s i).fabric = s.fabric ∧
    (unblock s i).haul = s.haul ∧ (unblock s i).time = s.time ∧ (unblock s i).triad = s.triad ∧
    (unblock s i).fence = s.fence ∧ (unblock s i).counters = s.counters ∧ (unblock s i).events = s.events ∧
    (unblock s i).face = s.face ∧ (unblock s i).relay = s.relay ∧ (unblock s i).pair = s.pair ∧ (unblock s i).gh = s.gh ∧
    (unblock s i).vault = s.vault ∧ (unblock s i).host = s.host ∧ (unblock s i).wb = s.wb := by
  exact ⟨rfl, rfl, rfl, rfl, rfl, rfl, rfl, rfl, rfl, rfl, rfl, rfl, rfl, rfl, rfl, rfl, rfl, rfl, rfl, rfl, rfl, rfl, rfl, rfl, rfl⟩

@[simp] theorem setLedger_frame (s : State) (t : Nat) (l : List (Nat × Nat)) :
    (setLedger s t l).pending = s.pending ∧ (setLedger s t l).localNs = s.localNs ∧ (setLedger s t l).freeIdx = s.freeIdx ∧
    (setLedger s t l).bench = s.bench ∧ (setLedger s t l).gate = s.gate ∧ (setLedger s t l).cores = s.cores ∧
    (setLedger s t l).engine = s.engine ∧ (setLedger s t l).screen = s.screen ∧ (setLedger s t l).lookup = s.lookup ∧
    (setLedger s t l).berm = s.berm ∧ (setLedger s t l).stock = s.stock ∧ (setLedger s t l).fabric = s.fabric ∧
    (setLedger s t l).haul = s.haul ∧ (setLedger s t l).time = s.time ∧ (setLedger s t l).triad = s.triad ∧
    (setLedger s t l).fence = s.fence ∧ (setLedger s t l).counters = s.counters ∧ (setLedger s t l).events = s.events ∧
    (setLedger s t l).face = s.face ∧ (setLedger s t l).relay = s.relay ∧ (setLedger s t l).pair = s.pair ∧
    (setLedger s t l).gh = s.gh ∧ (setLedger s t l).vault = s.vault ∧ (setLedger s t l).host = s.host ∧
    (setLedger s t l).wb = s.wb := by
  exact ⟨rfl, rfl, rfl, rfl, rfl, rfl, rfl, rfl, rfl, rfl, rfl, rfl, rfl, rfl, rfl, rfl, rfl, rfl, rfl, rfl, rfl, rfl, rfl, rfl, rfl⟩

@[simp] theorem freeDesc_frame (s : State) (i : Nat) :
    (freeDesc s i).pending = s.pending ∧ (freeDesc s i).localNs = s.localNs ∧ (freeDesc s i).freeIdx = s.freeIdx ∧
    (freeDesc s i).bench = s.bench ∧ (freeDesc s i).gate = s.gate ∧ (freeDesc s i).cores = s.cores ∧
    (freeDesc s i).engine = s.engine ∧ (freeDesc s i).screen = s.screen ∧ (freeDesc s i).lookup = s.lookup ∧
    (freeDesc s i).berm = s.berm ∧ (freeDesc s i).hopper = s.hopper ∧ (freeDesc s i).fabric = s.fabric ∧
    (freeDesc s i).haul = s.haul ∧ (freeDesc s i).time = s.time ∧ (freeDesc s i).triad = s.triad ∧
    (freeDesc s i).fence = s.fence ∧ (freeDesc s i).counters = s.counters ∧ (freeDesc s i).events = s.events ∧
    (freeDesc s i).face = s.face ∧ (freeDesc s i).relay = s.relay ∧ (freeDesc s i).pair = s.pair ∧ (freeDesc s i).gh = s.gh ∧
    (freeDesc s i).vault = s.vault ∧ (freeDesc s i).host = s.host ∧ (freeDesc s i).wb = s.wb := by
  exact ⟨rfl, rfl, rfl, rfl, rfl, rfl, rfl, rfl, rfl, rfl, rfl, rfl, rfl, rfl, rfl, rfl, rfl, rfl, rfl, rfl, rfl, rfl, rfl, rfl, rfl⟩

@[simp] theorem setPpsOut_frame (s : State) (k : Nat) (x : PpsOut) :
    (setPpsOut s k x).pending = s.pending ∧ (setPpsOut s k x).localNs = s.localNs ∧ (setPpsOut s k x).freeIdx = s.freeIdx ∧
    (setPpsOut s k x).bench = s.bench ∧ (setPpsOut s k x).gate = s.gate ∧ (setPpsOut s k x).cores = s.cores ∧
    (setPpsOut s k x).engine = s.engine ∧ (setPpsOut s k x).screen = s.screen ∧ (setPpsOut s k x).lookup = s.lookup ∧
    (setPpsOut s k x).berm = s.berm ∧ (setPpsOut s k x).stock = s.stock ∧ (setPpsOut s k x).hopper = s.hopper ∧
    (setPpsOut s k x).fabric = s.fabric ∧ (setPpsOut s k x).haul = s.haul ∧ (setPpsOut s k x).triad = s.triad ∧
    (setPpsOut s k x).fence = s.fence ∧ (setPpsOut s k x).counters = s.counters ∧ (setPpsOut s k x).events = s.events ∧
    (setPpsOut s k x).face = s.face ∧ (setPpsOut s k x).relay = s.relay ∧ (setPpsOut s k x).pair = s.pair ∧
    (setPpsOut s k x).gh = s.gh ∧ (setPpsOut s k x).vault = s.vault ∧ (setPpsOut s k x).host = s.host ∧
    (setPpsOut s k x).wb = s.wb := by
  exact ⟨rfl, rfl, rfl, rfl, rfl, rfl, rfl, rfl, rfl, rfl, rfl, rfl, rfl, rfl, rfl, rfl, rfl, rfl, rfl, rfl, rfl, rfl, rfl, rfl, rfl⟩

@[simp] theorem setTb_frame (s : State) (n : Nat) (b : TimeBase) :
    (setTb s n b).pending = s.pending ∧ (setTb s n b).localNs = s.localNs ∧ (setTb s n b).freeIdx = s.freeIdx ∧
    (setTb s n b).bench = s.bench ∧ (setTb s n b).gate = s.gate ∧ (setTb s n b).cores = s.cores ∧
    (setTb s n b).engine = s.engine ∧ (setTb s n b).screen = s.screen ∧ (setTb s n b).lookup = s.lookup ∧
    (setTb s n b).berm = s.berm ∧ (setTb s n b).stock = s.stock ∧ (setTb s n b).hopper = s.hopper ∧
    (setTb s n b).fabric = s.fabric ∧ (setTb s n b).haul = s.haul ∧ (setTb s n b).triad = s.triad ∧
    (setTb s n b).fence = s.fence ∧ (setTb s n b).counters = s.counters ∧ (setTb s n b).events = s.events ∧
    (setTb s n b).face = s.face ∧ (setTb s n b).relay = s.relay ∧ (setTb s n b).pair = s.pair ∧ (setTb s n b).gh = s.gh ∧
    (setTb s n b).vault = s.vault ∧ (setTb s n b).host = s.host ∧ (setTb s n b).wb = s.wb := by
  exact ⟨rfl, rfl, rfl, rfl, rfl, rfl, rfl, rfl, rfl, rfl, rfl, rfl, rfl, rfl, rfl, rfl, rfl, rfl, rfl, rfl, rfl, rfl, rfl, rfl, rfl⟩

@[simp] theorem setOtp_frame (s : State) (i : Nat) (x : OtpSlot) :
    (setOtp s i x).pending = s.pending ∧ (setOtp s i x).localNs = s.localNs ∧ (setOtp s i x).freeIdx = s.freeIdx ∧
    (setOtp s i x).bench = s.bench ∧ (setOtp s i x).gate = s.gate ∧ (setOtp s i x).cores = s.cores ∧
    (setOtp s i x).engine = s.engine ∧ (setOtp s i x).screen = s.screen ∧ (setOtp s i x).lookup = s.lookup ∧
    (setOtp s i x).berm = s.berm ∧ (setOtp s i x).stock = s.stock ∧ (setOtp s i x).hopper = s.hopper ∧
    (setOtp s i x).fabric = s.fabric ∧ (setOtp s i x).haul = s.haul ∧ (setOtp s i x).time = s.time ∧
    (setOtp s i x).triad = s.triad ∧ (setOtp s i x).fence = s.fence ∧ (setOtp s i x).counters = s.counters ∧
    (setOtp s i x).events = s.events ∧ (setOtp s i x).face = s.face ∧ (setOtp s i x).relay = s.relay ∧
    (setOtp s i x).pair = s.pair ∧ (setOtp s i x).gh = s.gh ∧ (setOtp s i x).host = s.host ∧ (setOtp s i x).wb = s.wb := by
  exact ⟨rfl, rfl, rfl, rfl, rfl, rfl, rfl, rfl, rfl, rfl, rfl, rfl, rfl, rfl, rfl, rfl, rfl, rfl, rfl, rfl, rfl, rfl, rfl, rfl, rfl⟩

end Sys2Proof.Machine
end

