-- ==== Sys2Proof/WellFormed.lean ====
section
/-! DEFINITION. WellFormed.lean: when a command is well formed: an instruction's words are a legal encoding of
the profile of the agent that executes it (R42, R50, R92). -/

namespace Sys2Proof

/-- Whether the words of an instruction are legal for an agent (R42, R50). -/
def legalFor (who : Agent) (w : BitVec 32) (y : Option (BitVec 32)) : Bool :=
  let y' := (y.getD 0#32).toNat
  match who with
  | .thread _ => Machine.legalP w.toNat y'
  | _ => Machine.legalS w.toNat y'

/-- A well-formed command: an event's operands are typed; an instruction's words are legal. -/
def wellFormed (i : Instr) : Bool :=
  match agentOf i, words i with
  | some who, some (w, y) => legalFor who w y
  | _, _ => true

end Sys2Proof
end

