-- ==== Sys2Proof/Tests/Slice0.lean ====
section
/-! SUPPORT. Tests/Slice0.lean: the words and figures that the spec works out, the smoke test of WellFormed, and for every statement with
hypotheses a concrete state and operands that meet them. -/

open Sys2Proof Sys2Proof.Machine

namespace Sys2Proof.Tests

-- The proofs below evaluate in the kernel, one after the other: elaborated side by side each would hold a thread while it waits.
set_option Elab.async false

/-! ### When an instruction executes, as a check that evaluates -/

/-- What ThreadIssues asks, and the guard, as one check. -/
def threadChk (s : State) (t : Nat) (w : BitVec 32) (y : Option (BitVec 32)) (p : Packet) : Bool :=
  decide ((getThread s t).pkt = some p) && !isFrozen s t && !waitsReloc s t && legalP w.toNat ((y.getD 0#32).toNat) &&
  decide (fOp w.toNat < 0x70 ∨ 0x77 < fOp w.toNat) && (!y.isSome || !loopEndsAt (getThread s t) ((getThread s t).pc + 4#64)) &&
  (match passProg s p with | some g => decide ((getThread s t).slots + wordsOf y ≤ g.c) | none => false)

theorem issues_of {s : State} {t : Nat} {w : BitVec 32} {y : Option (BitVec 32)} {p : Packet} (h : threadChk s t w y p = true) :
    ThreadIssues s t w y p := by
  simp only [threadChk, Bool.and_eq_true, decide_eq_true_eq, Bool.not_eq_true', Bool.or_eq_true] at h
  obtain ⟨⟨⟨⟨⟨⟨h1, h2⟩, h3⟩, h4⟩, h5⟩, h6⟩, h7⟩ := h
  refine ⟨h1, h2, h3, h4, h5, fun hy => ?_, ?_⟩
  · rcases h6 with h | h
    · rw [hy] at h; exact absurd h (by decide)
    · exact h
  · split at h7
    · rename_i g hg; exact ⟨g, hg, of_decide_eq_true h7⟩
    · exact absurd h7 (by decide)

/-- What CoreIssues asks. -/
def coreChk (s : State) (who : Agent) (k : Nat) (w : BitVec 32) (y : Option (BitVec 32)) : Bool :=
  decide (k ∈ agentCores s who) && !coreIdle s k && fetchOk k (getCore s k) (4 * wordsOf y) && legalS w.toNat ((y.getD 0#32).toNat)

theorem coreIssues_of {s : State} {who : Agent} {k : Nat} {w : BitVec 32} {y : Option (BitVec 32)} (h : coreChk s who k w y = true) :
    CoreIssues s who k w y := by
  simp only [coreChk, Bool.and_eq_true, decide_eq_true_eq, Bool.not_eq_true'] at h
  exact ⟨h.1.1.1, h.1.1.2, h.1.2, h.2⟩

def guardChk (r : Regs) (w : BitVec 32) : Bool := decide (fOp w.toNat = 0x50 ∨ fOp w.toNat = 0x51) || pget r (fG w.toNat)

theorem guard_of {r : Regs} {w : BitVec 32} (h : guardChk r w = true) : guardHolds r w := by
  simp only [guardChk, Bool.or_eq_true, decide_eq_true_eq] at h
  rcases h with (h | h) | h
  · exact .inl h
  · exact .inr (.inl h)
  · exact .inr (.inr h)

theorem noGuard_of {r : Regs} {w : BitVec 32} (h : guardChk r w = false) : ¬ guardHolds r w := by
  rintro (h1 | h1 | h1) <;> simp [guardChk, h1] at h

/-- The hypotheses of a statement about one instruction of thread t. -/
def ThreadReady (s : State) (t : Nat) (w : BitVec 32) (y : Option (BitVec 32)) (p : Packet) : Prop :=
  ThreadIssues s t w y p ∧ guardHolds (getThread s t).regs w ∧ tblWf 0#64 (getThread s t).w = true

theorem threadReady_of {s : State} {t : Nat} {w : BitVec 32} {y : Option (BitVec 32)} {p : Packet}
    (h : threadChk s t w y p = true ∧ guardChk (getThread s t).regs w = true ∧ tblWf 0#64 (getThread s t).w = true) : ThreadReady s t w y p :=
  ⟨issues_of h.1, guard_of h.2.1, h.2.2⟩

/-- The hypotheses of a statement about one instruction of core k. -/
def CoreReady (s : State) (who : Agent) (k : Nat) (w : BitVec 32) (y : Option (BitVec 32)) : Prop :=
  CoreIssues s who k w y ∧ guardHolds (getCore s k).regs w ∧ s.cores.Pairwise (fun a b => a.1 < b.1) ∧ tblWf 0#64 (getCore s k).w = true

theorem coreReady_of {s : State} {who : Agent} {k : Nat} {w : BitVec 32} {y : Option (BitVec 32)}
    (h : coreChk s who k w y = true ∧ guardChk (getCore s k).regs w = true ∧ s.cores.Pairwise (fun a b => a.1 < b.1) ∧
      tblWf 0#64 (getCore s k).w = true) : CoreReady s who k w y := ⟨coreIssues_of h.1, guard_of h.2.1, h.2.2.1, h.2.2.2⟩

/-- The hypotheses of XLaw. -/
def XReady (s : State) (t : Fin 512) (w y : BitVec 32) (p : Packet) : Prop :=
  ThreadIssues s t w (some y) p ∧ guardHolds (getThread s t).regs w ∧ blockRefuses s (xBlock (fOp w.toNat)) = false ∧
    tblWf 0#64 (getThread s t).w = true

def xChk (s : State) (t : Fin 512) (w y : BitVec 32) (p : Packet) : Bool :=
  threadChk s t w (some y) p && guardChk (getThread s t).regs w && !blockRefuses s (xBlock (fOp w.toNat)) && tblWf 0#64 (getThread s t).w

theorem xReady_of {s : State} {t : Fin 512} {w y : BitVec 32} {p : Packet} (h : xChk s t w y p = true) : XReady s t w y p := by
  simp only [xChk, Bool.and_eq_true, Bool.not_eq_true'] at h
  exact ⟨issues_of h.1.1.1, guard_of h.1.1.2, h.1.2, h.2⟩

theorem xReady_all {s : State} {t : Fin 512} {p : Packet} (l : List (BitVec 32 × BitVec 32)) (h : l.all (fun e => xChk s t e.1 e.2 p) = true) :
    ∀ e ∈ l, XReady s t e.1 e.2 p := fun e he => xReady_of (List.all_eq_true.1 h e he)

/-- What AllAsk asks. -/
theorem allAsk_of {s : State} {who : Agent} {w : BitVec 32} {y : Option (BitVec 32)} {ask : Nat → SCore → Option Req} {q : Req}
    (h : agentCores s who ≠ [] ∧ (∀ k ∈ agentCores s who, coreChk s who k w y = true ∧ guardChk (getCore s k).regs w = true ∧
      ask k (getCore s k) = some q) ∧ (isVoted s who = true → s.triad.excluded = 0#3 ∧ s.triad.voter = .sound)) :
    AllAsk s who w y ask q :=
  ⟨h.1, fun k hk => ⟨coreIssues_of (h.2.1 k hk).1, guard_of (h.2.1 k hk).2.1, (h.2.1 k hk).2.2⟩, h.2.2⟩

/-! ### Demo states -/

/-- A frame of 64 bytes in flight. -/
def pk : Packet :=
  { handle := 0, desc := 0, len := 64, src := 0, partner := 0, epoch := 1, bank := false, dispatched := true, dispAt := 0, seq := none,
    profile := 0, rule := 0, ruleHit := false, entry := 0, pass := 0, deep := false, lenConflict := false, noSpec := false, ext := [],
    key := 0, rxTime := 0, stamp := [], lastBit := 0, arrVc := none, viaSa := none, carry0 := 0#64, carry1 := 0#64, spec := .none,
    specQueue := 0, specTemplate := 0, specDp := 0, offered := false, fkey := 0, specWay := 0, lastCon := none, req := none }

/-- A thread that holds a packet. -/
def thOf (p : Packet) : Thread := { Thread.reset with pkt := some p, window := List.replicate 64 0#8 }

/-- s with a program of 1,000 issue slots in bank A, in service, the Tally cores started, and the thread 0 given. -/
def withThread (s : State) (t : Thread) : State :=
  { s with host := { s.host with tallyWait := false }, engine := { s.engine with
      service := some false, bankA := { ProgBank.reset with progs := [{ base := 0, len := 100, c := 1000, u := 1000, wc := 1000 }] }, threads := [(0, t)] } }

/-- Thread 0 holds pk; the cores stand as after reset. -/
def sT : State := withThread State.reset (thOf pk)

/-- Thread 0 holds pk with values in its registers. -/
def withRegs (s : State) (w : List (Nat × Word)) : State := withThread s { thOf pk with w := w }

/-- Core k with a record. -/
def withCore (k : Nat) (c : SCore) : State := { sT with cores := [(k, c)] }

def fA : FmtA := ⟨5#6, 2#6, 3#6, 0#3⟩
def fI : FmtI := ⟨5#6, 2#6, 0#10, 0#3⟩
def fL : FmtL := ⟨5#6, 0xFFFF#16, 0#3⟩
def fB : FmtB := ⟨true, 0#3, 4#21⟩
def fX (desc : BitVec 32) : FmtX := ⟨5#6, 2#6, 3#6, 0#3, desc⟩

/-- A word that thread 0 and Tally core 0 both execute from sT. -/
def Ready (w : BitVec 32) : Prop := ThreadReady sT 0 w none pk ∧ CoreReady sT (.tally 0) 3 w none

def readyChk (w : BitVec 32) : Bool :=
  threadChk sT 0 w none pk && coreChk sT (.tally 0) 3 w none && guardChk (getThread sT 0).regs w && guardChk (getCore sT 3).regs w

theorem ready_all (l : List (BitVec 32)) (h : l.all readyChk = true) : ∀ w ∈ l, Ready w := fun w hw => by
  have := List.all_eq_true.1 h w hw
  simp only [readyChk, Bool.and_eq_true] at this
  exact ⟨⟨issues_of this.1.1.1, guard_of this.1.2, by decide +kernel⟩,
    coreIssues_of this.1.1.2, guard_of this.2, by decide +kernel, by decide +kernel⟩

/-! ### Witnesses: registers, control flow, memory and system instructions -/

theorem witness_StepRunsFront :
    ({ State.reset with pending := [.bootGo] } : State).pending = .bootGo :: [] ∧ State.reset.pending = [] ∧
    (tbGet State.reset.time 1).running = false := by decide +kernel

theorem witness_RegisterResults : ∀ w ∈ [encA 0 fA 0, encA 0 fA 7, encA 1 fA 5, encA 2 fA 4, encA 3 ⟨5#6, 2#6, 0#6, 0#3⟩ 5, encA 5 fA 0, encA 5 fA 7, encA 7 fA 0,
    encA 7 fA 3, encA 7 fA 4, encA 7 ⟨0#6, 63#6, 0#6, 0#3⟩ 5, encA 0 ⟨0#6, 63#6, 63#6, 0#3⟩ 2], Ready w := ready_all _ (by decide +kernel)

/-- Divisions are the cores' only; on a thread they are no legal encoding (R42). -/
theorem witness_DivisionResults : ∀ w ∈ [encA 8 fA 0, encA 8 fA 1, encA 8 fA 2, encA 8 ⟨0#6, 63#6, 0#6, 0#3⟩ 3], CoreReady sT (.tally 0) 3 w none := by
  intro w hw
  have h : [encA 8 fA 0, encA 8 fA 1, encA 8 fA 2, encA 8 ⟨0#6, 63#6, 0#6, 0#3⟩ 3].all (fun w => coreChk sT (.tally 0) 3 w none &&
      guardChk (getCore sT 3).regs w) = true := by decide +kernel
  have h := List.all_eq_true.1 h w hw
  simp only [Bool.and_eq_true] at h
  exact coreReady_of ⟨h.1, h.2, by decide +kernel, by decide +kernel⟩

/-- The last conjunct: a word that names one predicate twice, p1 and p7 (R47). -/
theorem witness_CompareResults : (∀ w ∈ [encA 4 ⟨0o21#6, 2#6, 3#6, 0#3⟩ 0, encA 4 ⟨0o70#6, 2#6, 3#6, 0#3⟩ 7, encI 0x2b ⟨0o21#6, 2#6, 5#10, 0#3⟩,
      encI 0x2e ⟨0o01#6, 2#6, 0x3FF#10, 0#3⟩, encA 4 ⟨0#6, 2#6, 3#6, 0#3⟩ 1], Ready w)
    ∧ ∀ d ∈ [0o11, 0o77], d % 8 = d / 8 ∧ d % 8 ≠ 0 := ⟨ready_all _ (by decide +kernel), by decide +kernel⟩

theorem witness_ImmediateResults : ∀ w ∈ [encI 0x20 fI, encI 0x21 fI, encI 0x24 ⟨5#6, 2#6, 63#10, 0#3⟩, encI 0x26 fI, encI 0x27 fI,
    encI 0x28 ⟨5#6, 2#6, 0x1FF#10, 0#3⟩, encI 0x29 fI, encI 0x2a ⟨5#6, 2#6, 0x1FF#10, 0#3⟩, encL 0x30 fL, encL 0x31 fL, encL 0x34 fL], Ready w :=
  ready_all _ (by decide +kernel)

/-- Thread 0 with three entries on each stack. -/
def sStacks : State := withThread State.reset { thOf pk with
  rstack := [8#64, 4#64, 0#64], lstack := List.replicate 3 { start := 0#64, stop := 0x100#64, remaining := 2 } }

theorem witness_ControlFlow :
    ThreadReady sStacks 0 (encB 0x50 fB) none pk ∧ ThreadReady sStacks 0 (encB 0x51 fB) none pk ∧ (getThread sStacks 0).rstack.length < 4 ∧
    ThreadReady sStacks 0 (encA 0x52 ⟨0#6, 0#6, 0#6, 0#3⟩ 0) none pk ∧ (getThread sStacks 0).rstack = 8#64 :: [4#64, 0#64] ∧
    ThreadReady sStacks 0 (encI 0x53 ⟨0#6, 2#6, 5#10, 0#3⟩) none pk ∧ (getThread sStacks 0).lstack.length < 4 ∧
    ThreadReady sStacks 0 (encI 0x54 ⟨12#6, 2#6, 5#10, 0#3⟩) none pk ∧
    CoreReady sT (.tally 0) 3 (encB 0x50 fB) none ∧ CoreReady sT (.tally 0) 3 (encB 0x51 fB) none ∧
    CoreReady sT (.tally 0) 3 (encA 0x52 ⟨0#6, 0#6, 0#6, 0#3⟩ 0) none ∧ CoreReady sT (.tally 0) 3 (encA 0x55 ⟨0#6, 2#6, 0#6, 0#3⟩ 0) none ∧
    CoreReady sT (.tally 0) 3 (encA 0x55 ⟨0#6, 2#6, 0#6, 0#3⟩ 1) none ∧
    (∀ j ∈ agentCores sT (.tally 0), (rget (getCore sT j).regs 63).toNat % 4 = 0 ∧ (rget (getCore sT j).regs 2).toNat % 4 = 0) :=
  ⟨threadReady_of (by decide +kernel), threadReady_of (by decide +kernel), by decide +kernel, threadReady_of (by decide +kernel), by decide +kernel,
   threadReady_of (by decide +kernel), by decide +kernel, threadReady_of (by decide +kernel), coreReady_of (by decide +kernel),
   coreReady_of (by decide +kernel), coreReady_of (by decide +kernel), coreReady_of (by decide +kernel), coreReady_of (by decide +kernel),
   by decide +kernel⟩

/-- An ADD, a LOOP and a FRD under p1, which reads 0, on thread 0; an ADD under p1 on all cores of the Triad. -/
theorem witness_GuardOff :
    (∀ e ∈ [(encA 0 ⟨5#6, 2#6, 3#6, 1#3⟩ 0, none), (encI 0x53 ⟨0#6, 2#6, 5#10, 1#3⟩, none), (encX 0x60 ⟨5#6, 2#6, 0#6, 1#3, 0#32⟩ 0, some 0#32)],
      ThreadIssues sT 0 e.1 e.2 pk ∧ ¬ guardHolds (getThread sT 0).regs e.1) ∧
    (agentOf (.add .triad ⟨5#6, 2#6, 3#6, 1#3⟩) = some .triad ∧ words (.add .triad ⟨5#6, 2#6, 3#6, 1#3⟩) = some (encA 0 ⟨5#6, 2#6, 3#6, 1#3⟩ 0, none) ∧
      sT.cores.Pairwise (fun a b => a.1 < b.1) ∧ agentCores sT .triad ≠ [] ∧
      ∀ k ∈ agentCores sT .triad, CoreIssues sT .triad k (encA 0 ⟨5#6, 2#6, 3#6, 1#3⟩ 0) none ∧
        ¬ guardHolds (getCore sT k).regs (encA 0 ⟨5#6, 2#6, 3#6, 1#3⟩ 0)) := by
  refine ⟨fun e he => ?_, by decide +kernel, by decide +kernel, by decide +kernel, by decide +kernel, fun k hk => ?_⟩
  · have h : [(encA 0 ⟨5#6, 2#6, 3#6, 1#3⟩ 0, none), (encI 0x53 ⟨0#6, 2#6, 5#10, 1#3⟩, none), (encX 0x60 ⟨5#6, 2#6, 0#6, 1#3, 0#32⟩ 0, some 0#32)].all
        (fun e => threadChk sT 0 e.1 e.2 pk && !guardChk (getThread sT 0).regs e.1) = true := by decide +kernel
    have h := List.all_eq_true.1 h e he
    simp only [Bool.and_eq_true, Bool.not_eq_true'] at h
    exact ⟨issues_of h.1, noGuard_of h.2⟩
  · have h : (agentCores sT .triad).all (fun k => coreChk sT .triad k (encA 0 ⟨5#6, 2#6, 3#6, 1#3⟩ 0) none &&
        !guardChk (getCore sT k).regs (encA 0 ⟨5#6, 2#6, 3#6, 1#3⟩ 0)) = true := by decide +kernel
    have h := List.all_eq_true.1 h k hk
    simp only [Bool.and_eq_true, Bool.not_eq_true'] at h
    exact ⟨coreIssues_of h.1, noGuard_of h.2⟩

/-- A core at User level whose region 0 lets it fetch from the Boot ROM. -/
def cUser : SCore := { SCore.tallyReset with pl := 0#2, regionBase := [(0, 0x3FF0000001#64)], regionLast := [(0, 0x3FF0000000#64)] }

/-- Thread 0 with all 1,000 slots of its program taken. -/
def sSpent : State := withThread State.reset { thOf pk with slots := 1000 }

/-- Thread 0 and Tally core 0 with an address in w2. -/
def sAt (a : Nat) : State :=
  let w : Tbl Word := if a = 0 then [] else [(2, BitVec.ofNat 64 a)]
  { withRegs State.reset w with cores := [(3, { SCore.tallyReset with w := w })] }

/-- An address of core-local memory. -/
def lm (a : Nat) : Nat := 2 ^ 63 + a

theorem ready_core {s : State} {k : Nat} {who : Agent} (l : List (BitVec 32)) (h : l.all (fun w => coreChk s who k w none && guardChk (getCore s k).regs w) = true)
    (h2 : s.cores.Pairwise (fun a b => a.1 < b.1) ∧ tblWf 0#64 (getCore s k).w = true) : ∀ w ∈ l, CoreReady s who k w none := fun w hw => by
  have := List.all_eq_true.1 h w hw
  simp only [Bool.and_eq_true] at this
  exact coreReady_of ⟨this.1, this.2, h2.1, h2.2⟩

theorem ready_thread {s : State} {p : Packet} (l : List (BitVec 32)) (h : l.all (fun w => threadChk s 0 w none p && guardChk (getThread s 0).regs w) = true)
    (h2 : tblWf 0#64 (getThread s 0).w = true) : ∀ w ∈ l, ThreadReady s 0 w none p := fun w hw => by
  have := List.all_eq_true.1 h w hw
  simp only [Bool.and_eq_true] at this
  exact threadReady_of ⟨this.1, this.2, h2⟩

/-- An illegal word (op 0x06), a plane X word, words beyond the slots with their guard on and off; a core at an address it may not fetch, and
one with an illegal word; scratch and core addresses that are misaligned by one, and the first past each end. -/
theorem witness_IssueFailures :
    ((getThread sT 0).pkt = some pk ∧ isFrozen sT 0 = false ∧ waitsReloc sT 0 = false ∧
      fOp (encX 0x70 (fX 0#32) 0).toNat = 0x70 ∧ fOp (encX 0x77 (fX 0#32) 4).toNat = 0x77 ∧ legalP (encA 8 fA 0).toNat 0 = false) ∧
    ((getThread sSpent 0).pkt = some pk ∧ (passProg sSpent pk).isSome = true ∧ (passProg sSpent pk).all (fun g => decide (g.c < (getThread sSpent 0).slots + 1)) = true ∧
      guardChk (getThread sSpent 0).regs (encA 0 fA 0) = true ∧ guardChk (getThread sSpent 0).regs (encA 0 ⟨5#6, 2#6, 3#6, 1#3⟩ 0) = false) ∧
    (let s := withCore 3 { SCore.tallyReset with pc := 0x100000000#64 }
     coreIdle s 3 = false ∧ s.cores.Pairwise (fun a b => a.1 < b.1) ∧ fetchOk 3 (getCore s 3) 4 = false) ∧
    (coreIdle sT 3 = false ∧ fetchOk 3 (getCore sT 3) 8 = true ∧ legalS (encX 0x60 (fX 0#32) 0).toNat 0 = false) ∧
    (∀ a ∈ [1, 2041, 2048], ThreadReady (sAt a) 0 (encI 0x43 fI) none pk ∧ (a % 8 ≠ 0 ∨ 2048 < a + 8)) ∧
    (∀ a ∈ [lm 1, lm 0x100000, 2 ^ 40, 2 ^ 63 - 8], CoreReady (sAt a) (.tally 0) 3 (encI 0x43 fI) none ∧ agentCores (sAt a) (.tally 0) = [3] ∧
      (getCore (sAt a) 3).pl ≠ 2#2 ∧ (a % 8 ≠ 0 ∨ 2 ^ 63 + localExtent 3 ≤ a ∨ (2 ^ 40 ≤ a ∧ a < 2 ^ 63))) ∧
    (AllAsk (sAt 0x3000C00000) (.tally 0) (encI 0x43 fI) none (mapAsk fI 8 2 fun _ a => .load a 8) (.load 0x3000C00000 8) ∧
      (agentCores (sAt 0x3000C00000) (.tally 0)).head? = some 3 ∧ mayRead (coreReader 3) 0x3000C00000 = false) := by
  refine ⟨by decide +kernel, by decide +kernel, by decide +kernel, by decide +kernel, fun a ha => ?_, fun a ha => ?_, allAsk_of (by decide +kernel), by decide +kernel, by decide +kernel⟩
  · have h : ∀ a ∈ [1, 2041, 2048], threadChk (sAt a) 0 (encI 0x43 fI) none pk = true ∧ guardChk (getThread (sAt a) 0).regs (encI 0x43 fI) = true ∧
        tblWf 0#64 (getThread (sAt a) 0).w = true ∧ (a % 8 ≠ 0 ∨ 2048 < a + 8) := by decide +kernel
    obtain ⟨h1, h2, h3, h4⟩ := h a ha
    exact ⟨threadReady_of ⟨h1, h2, h3⟩, h4⟩
  · have h : ∀ a ∈ [lm 1, lm 0x100000, 2 ^ 40, 2 ^ 63 - 8], (coreChk (sAt a) (.tally 0) 3 (encI 0x43 fI) none = true ∧
        guardChk (getCore (sAt a) 3).regs (encI 0x43 fI) = true ∧ (sAt a).cores.Pairwise (fun a b => a.1 < b.1) ∧
        tblWf 0#64 (getCore (sAt a) 3).w = true) ∧ agentCores (sAt a) (.tally 0) = [3] ∧
        (getCore (sAt a) 3).pl ≠ 2#2 ∧ (a % 8 ≠ 0 ∨ 2 ^ 63 + localExtent 3 ≤ a ∨ (2 ^ 40 ≤ a ∧ a < 2 ^ 63)) := by decide +kernel
    obtain ⟨h1, h2⟩ := h a ha
    exact ⟨coreReady_of h1, h2⟩

/-- Addresses at both ends of the scratch and of the constants. -/
theorem witness_ThreadMemory :
    (∀ a ∈ [0, 2040], ∀ w ∈ [encI 0x40 fI, encI 0x43 fI, encI 0x45 fI, encI 0x48 fI, encI 0x4B fI], ThreadReady (sAt a) 0 w none pk) ∧
    (∀ a ∈ [0, 65528], ThreadReady (sAt a) 0 (encI 0x4C fI) none pk) ∧
    (∀ a ∈ [0, 2040, 65528], (eaOf (getThread (sAt a) 0).regs fI).toNat = a ∧ a % 8 = 0) ∧ memWf (getThread (sAt 0) 0).scratch = true := by
  refine ⟨fun a ha => ?_, fun a ha => ?_, by decide +kernel, by decide +kernel⟩
  · have h : ∀ a ∈ [0, 2040], [encI 0x40 fI, encI 0x43 fI, encI 0x45 fI, encI 0x48 fI, encI 0x4B fI].all (fun w => threadChk (sAt a) 0 w none pk &&
        guardChk (getThread (sAt a) 0).regs w) = true ∧ tblWf 0#64 (getThread (sAt a) 0).w = true := by decide +kernel
    exact ready_thread _ (h a ha).1 (h a ha).2
  · have h : ∀ a ∈ [0, 65528], threadChk (sAt a) 0 (encI 0x4C fI) none pk = true ∧ guardChk (getThread (sAt a) 0).regs (encI 0x4C fI) = true ∧
        tblWf 0#64 (getThread (sAt a) 0).w = true := by decide +kernel
    exact threadReady_of (h a ha)

/-- Loads and stores of core 3 at both ends of its memory; a load, a store and an AMOADD of Tally core 0 in the window of a unit. -/
theorem witness_CoreMemory :
    (∀ a ∈ [lm 0, lm 0xFFFF8], (∀ w ∈ [encI 0x40 fI, encI 0x43 fI, encI 0x46 fI, encI 0x48 fI, encI 0x4B fI], CoreReady (sAt a) (.tally 0) 3 w none) ∧
      agentCores (sAt a) (.tally 0) = [3] ∧ userDenied (getCore (sAt a) 3) (eaOf (getCore (sAt a) 3).regs fI) 8 2 = false ∧
      userDenied (getCore (sAt a) 3) (eaOf (getCore (sAt a) 3).regs fI) 8 1 = false ∧ 2 ^ 63 ≤ a ∧ a - 2 ^ 63 < localExtent 3) ∧
    memWf (getCore (sAt 0) 3).lmem = true ∧
    (AllAsk (sAt 0x3000D00000) (.tally 0) (encI 0x43 fI) none (mapAsk fI 8 2 fun _ a => .load a 8) (.load 0x3000D00000 8) ∧
      (agentCores (sAt 0x3000D00000) (.tally 0)).head? = some 3 ∧ mayRead (coreReader 3) 0x3000D00000 = true ∧
      (mapRead (sAt 0x3000D00000) (coreReader 3) 0x3000D00000 8).1.cores.Pairwise (fun a b => a.1 < b.1)) ∧
    (AllAsk (sAt 0x3000D00010) (.tally 0) (encI 0x4A fI) none (mapAsk fI 4 1 fun c a => .store a 4 (BitVec.ofNat 64 ((rget c.regs fI.d.toNat).toNat % 256 ^ 4)))
        (.store 0x3000D00010 4 0#64) ∧ mayWrite (coreReader 3) 0x3000D00010 = true ∧
      isFrozen (mapWrite (sAt 0x3000D00010) (coreReader 3) 0x3000D00010 4 0) (coreMaster 3) = false ∧
      (mapWrite (sAt 0x3000D00010) (coreReader 3) 0x3000D00010 4 0).cores.Pairwise (fun a b => a.1 < b.1)) ∧
    (AllAsk (sAt 0x3000D00010) (.tally 0) (encA 0x4E fA 0) none (fun k c =>
        let ea := rget c.regs fA.a.toNat
        if accessTrap k c ea 8 2 true = none ∧ userDenied c ea 8 1 = false then some (.amo ea.toNat (rget c.regs fA.b.toNat)) else none)
        (.amo 0x3000D00010 0#64) ∧
      (let r := mapRead (sAt 0x3000D00010) (coreReader 3) 0x3000D00010 8
       let s1 := mapWrite r.1 (coreReader 3) 0x3000D00010 8 ((r.2 + 0) % 2 ^ 64)
       isFrozen s1 (coreMaster 3) = false ∧ s1.cores.Pairwise (fun a b => a.1 < b.1) ∧ tblWf 0#64 (getCore s1 3).w = true)) := by
  refine ⟨fun a ha => ?_, by decide +kernel, ⟨allAsk_of (by decide +kernel), by decide +kernel⟩, ⟨allAsk_of (by decide +kernel), by decide +kernel⟩,
    allAsk_of (by decide +kernel), by decide +kernel⟩
  have h : ∀ a ∈ [lm 0, lm 0xFFFF8], [encI 0x40 fI, encI 0x43 fI, encI 0x46 fI, encI 0x48 fI, encI 0x4B fI].all (fun w => coreChk (sAt a) (.tally 0) 3 w none &&
        guardChk (getCore (sAt a) 3).regs w) = true ∧ ((sAt a).cores.Pairwise (fun a b => a.1 < b.1) ∧ tblWf 0#64 (getCore (sAt a) 3).w = true) ∧
      agentCores (sAt a) (.tally 0) = [3] ∧ userDenied (getCore (sAt a) 3) (eaOf (getCore (sAt a) 3).regs fI) 8 2 = false ∧
      userDenied (getCore (sAt a) 3) (eaOf (getCore (sAt a) 3).regs fI) 8 1 = false ∧ 2 ^ 63 ≤ a ∧ a - 2 ^ 63 < localExtent 3 := by decide +kernel
  exact ⟨ready_core _ (h a ha).1 (h a ha).2.1, (h a ha).2.2⟩

/-- A format I word of register a and number imm. -/
def fCsr (a : BitVec 6) (imm : BitVec 10) : FmtI := ⟨5#6, a, imm, 0#3⟩

/-- TVEC on a Tally core; CYCLE by set and clear of w0; VTVEC on a Triad core in split operation; an unknown CSR, a Vault CSR on a Tally
core, one above the level, a write of CYCLE. -/
theorem witness_CsrAccess :
    (∀ w ∈ [encI 0x58 (fCsr 0#6 0x102#10), encI 0x59 ⟨0#6, 2#6, 0x102#10, 0#3⟩, encI 0x5A (fCsr 2#6 0x102#10), encI 0x5B (fCsr 2#6 0x102#10), encI 0x5A (fCsr 0#6 0x80#10),
      encI 0x5B (fCsr 0#6 0x80#10), encI 0x58 (fCsr 0#6 0x3FF#10), encI 0x58 (fCsr 0#6 0x202#10), encI 0x59 ⟨0#6, 2#6, 0x80#10, 0#3⟩],
      CoreReady sT (.tally 0) 3 w none) ∧
    (csrKnown 0x102 = true ∧ 0x102 / 256 ≠ 2 ∧ 0x102 / 256 ≤ (getCore sT 3).pl.toNat ∧ bitOf 0x102 7 = false ∧ csrKnown 0x80 = true ∧ bitOf 0x80 7 = true ∧
      csrKnown 0x3FF = false ∧ 0x202 / 256 = 2) ∧
    (CoreReady (withCore 3 cUser) (.tally 0) 3 (encI 0x58 (fCsr 0#6 0x102#10)) none ∧ (getCore (withCore 3 cUser) 3).pl.toNat < 0x102 / 256) ∧
    (let s := { sT with triad := { sT.triad with split := true } }
     CoreReady s (.triadCore 0) 0 (encI 0x58 (fCsr 0#6 0x202#10)) none ∧ 0x202 / 256 ≤ (getCore s 0).pl.toNat) :=
  ⟨ready_core _ (by decide +kernel) (by decide +kernel), by decide +kernel, ⟨coreReady_of (by decide +kernel), by decide +kernel⟩,
   coreReady_of (by decide +kernel), by decide +kernel⟩

/-- The levels and handlers of every clause; TRAP with and without bit 9, TRET at each level. -/
theorem witness_TrapsAndReturns :
    (cUser.pl = 0#2 ∧ SCore.tallyReset.pl = 1#2 ∧ SCore.tallyReset.status.getLsbD 4 = false ∧ SCore.triadReset.pl = 2#2 ∧
      SCore.triadReset.vstatus.getLsbD 4 = false ∧ ({ SCore.tallyReset with status := 0x10#64 } : SCore).status.getLsbD 4 = true ∧
      ({ SCore.triadReset with vstatus := 0x10#64 } : SCore).vstatus.getLsbD 4 = true ∧ cACCESS ≠ cTRAPV) ∧
    (∀ w ∈ [encI 0x5C ⟨0#6, 0#6, 0x1FF#10, 0#3⟩, encI 0x5C ⟨0#6, 0#6, 0x200#10, 0#3⟩, encI 0x5D ⟨0#6, 0#6, 0#10, 0#3⟩],
      CoreReady sT (.tally 0) 3 w none ∧ CoreReady { sT with triad := { sT.triad with split := true } } (.triadCore 0) 0 w none ∧
      CoreReady (withCore 3 cUser) (.tally 0) 3 w none) ∧
    ((getCore sT 3).status >>> 10).truncate 2 = 0#2 ∧ ((getCore sT 0).vstatus >>> 10).truncate 2 ≠ 3#2 ∧
    (0x1FF#10).getLsbD 9 = false ∧ (0x200#10).getLsbD 9 = true := by
  refine ⟨by decide +kernel, fun w hw => ⟨?_, ?_, ?_⟩, by decide +kernel⟩
  · exact ready_core _ (by decide +kernel) (by decide +kernel) w hw
  · exact ready_core _ (by decide +kernel) (by decide +kernel) w hw
  · exact ready_core (s := withCore 3 cUser) (k := 3) (who := .tally 0) _ (by decide +kernel) (by decide +kernel) w hw

/-- WFI and FENCE; a core that waits with TIMER pending; WB_READY, TICK and VAULT_DONE as the interrupt chosen; TICK due on the
Triad's leading core, and a core without an interrupt due. -/
theorem witness_WaitsAndInterrupts :
    (∀ w ∈ [encI 0x5E ⟨0#6, 0#6, 0#10, 0#3⟩, encI 0x5F ⟨0#6, 0#6, 0#10, 0#3⟩], CoreReady sT (.tally 0) 3 w none) ∧
    (let s := withCore 3 { SCore.tallyReset with waiting := true, latched := 0x40#8 }
     agentCores s (.tally 0) = [3] ∧ coreHeld s 3 = false ∧ (getCore s 3).waiting = true ∧ anyPending s 3 = true) ∧
    (∀ n ∈ [1, 5, 6], let s := withCore 3 { cUser with ie := 0x7E#64, latched := 1#8 <<< n, timecmp := 1000#64 }
      s.cores.Pairwise (fun a b => a.1 < b.1) ∧ 3 ∈ agentCores s (.tally 0) ∧ coreIdle s 3 = false ∧ irqChoice s 3 = some n) ∧
    (let c : SCore := { SCore.triadReset with pl := 1#2, ie := 2#64, status := 4#64, latched := 2#8 }
     let s : State := { sT with cores := [(0, c), (1, c), (2, c)], triad := { sT.triad with tickProg := .entered, coasting := true } }
     s.cores.Pairwise (fun a b => a.1 < b.1) ∧ leadCore s .triad = some 0 ∧ irqChoice s 0 = some cTICK ∧ s.triad.tickProg = .entered ∧
       leadCore (withCore 3 cUser) (.tally 0) = some 3 ∧ irqChoice (withCore 3 cUser) 3 = none) :=
  ⟨ready_core _ (by decide +kernel) (by decide +kernel), by decide +kernel, by decide +kernel, by decide +kernel⟩

/-! ### Witnesses: packet X instructions -/

/-- The state that a command leaves. -/
def after (i : Instr) (s : State) : State := match exec i s with | .next t => t | _ => s

/-- A packet X word of thread 0 with d = 5, a = 2, b = 3, where the form has them. -/
def xw (op unit : Nat) (d a b : BitVec 6) : BitVec 32 := encX op ⟨d, a, b, 0#3, 0#32⟩ unit

/-- w2 holds an offset or a handle, w3 a value. -/
def sX (a : Nat) : State := withRegs State.reset (if a = 0 then [(3, 7#64)] else [(2, BitVec.ofNat 64 a), (3, 7#64)])

/-- Thread 0 owns a chain of one cell, whose handle w5 holds. -/
def sOwn : State := after (.alloc (.thread 0) ⟨5#6, 2#6, 0#6, 0#3, 0#32⟩) (sX 1)

def hOwn : Nat := (rget (getThread sOwn 0).regs 5).toNat

/-- FRD, FWR, XTR, CSUM and TSTAMP of each part; offsets at both ends of a frame of 64 bytes; the chain of sOwn for the buffer form. -/
theorem witness_FrameAccess :
    (∀ a ∈ [0, 56, 57, 63, 64], ∀ e ∈ [(xw 0x60 7 5#6 2#6 0#6, 0#32), (xw 0x61 7 0#6 2#6 3#6, 0#32), (xw 0x62 0 5#6 2#6 0#6, 0x003F0000#32),
      (xw 0x63 0 5#6 2#6 3#6, 0x00FF0000#32), (xw 0x64 0 5#6 2#6 3#6, 0#32), (xw 0x64 5 5#6 2#6 3#6, 0#32), (xw 0x64 11 5#6 2#6 3#6, 0#32)],
      XReady (sX a) 0 e.1 e.2 pk) ∧
    ((tbGet (sX 0).time 0).running = true ∧ (tbGet (sX 0).time 1).running = false) ∧
    (let s := withThread sOwn { thOf pk with w := [(2, BitVec.ofNat 64 hOwn)] }
     XReady s 0 (xw 0x61 8 0#6 2#6 3#6) 0#32 pk ∧ handleState s hOwn = .live (handleCell hOwn) ∧ (getChain s (handleCell hOwn)).isSome = true) ∧
    (let p := { pk with handle := hOwn }
     let s := withThread sOwn (thOf p)
     (getThread s 0).window.length = min p.len 256 ∧ (getThread s 0).pkt = some p ∧ (getChain s (handleCell p.handle)).isSome = true ∧
       ((getChain s (handleCell p.handle)).all fun ch => memWf ch.data) = true ∧ 7 < 8 ∧ 56 + 8 ≤ p.len) := by
  refine ⟨fun a ha e he => ?_, by decide +kernel, ⟨xReady_of (by decide +kernel), by decide +kernel⟩, by decide +kernel⟩
  have h : ∀ a ∈ [0, 56, 57, 63, 64], [(xw 0x60 7 5#6 2#6 0#6, 0#32), (xw 0x61 7 0#6 2#6 3#6, 0#32), (xw 0x62 0 5#6 2#6 0#6, 0x003F0000#32),
      (xw 0x63 0 5#6 2#6 3#6, 0x00FF0000#32), (xw 0x64 0 5#6 2#6 3#6, 0#32), (xw 0x64 5 5#6 2#6 3#6, 0#32), (xw 0x64 11 5#6 2#6 3#6, 0#32)].all
      (fun e => xChk (sX a) 0 e.1 e.2 pk) = true := by decide +kernel
  exact xReady_of (List.all_eq_true.1 (h a ha) e he)

/-- Table 3 of 64-bit keys that programs may teach, with tokens for one new key. -/
def sTab : State :=
  let d : TableDef :=
    { learn := true, age := true, notify := false, random := false, dram := false, key := 0, sweep := 10, lrnBurst := 1, lrnRate := 1
      maxEntries := 100, ovfMax := 10, partLimit := 1, seed := 0 }
  setTable (sX 9) 3 (some { defn := d, bucket := { tokens := 65536000000000, upd := 0 }, newBy := [], ph := false, passStart := 0, passLen := 10 })

/-- The same with the key 9 learned. -/
def sLearned : State := after (.lrn (.thread 0) ⟨5#6, 2#6, 3#6, 0#3, 3#32⟩) sTab

/-- A domain with the route 10.0.0.0/8. -/
def sRoute : State := setDomain (sX 0x0A000001) 2 (some { dram := false, quota := 1, routes := [{ v6 := false, len := 8, addr := 0x0A000000, data := 77 }] })

/-- Exact lookups without a table, without the key and of the key; a prefix lookup; LRN of a new and of a present key; DEL of both. -/
theorem witness_LookupsAndLearning :
    (XReady (sX 9) 0 (xw 0x65 0 5#6 2#6 0#6) 3#32 pk ∧ getTable (sX 9) 3 = none) ∧
    (XReady sTab 0 (xw 0x65 0 5#6 2#6 0#6) 3#32 pk ∧ (getTable sTab 3).any (fun x => (findKey sTab 3 x.defn 9).isNone) = true) ∧
    (XReady sLearned 0 (xw 0x65 0 5#6 2#6 0#6) 3#32 pk ∧ (getTable sLearned 3).any (fun x => (findKey sLearned 3 x.defn 9).isSome) = true) ∧
    (XReady sRoute 0 (xw 0x65 1 5#6 2#6 0#6) 2#32 pk ∧
      (getDomain sRoute 2).bind (fun x => bestRoute x.routes false 0x0A000001) = some { v6 := false, len := 8, addr := 0x0A000000, data := 77 } ∧
      (getDomain sRoute 2).bind (fun x => bestRoute x.routes false 0x0B000001) = none) ∧
    (XReady sTab 0 (xw 0x66 0 5#6 2#6 3#6) 3#32 pk ∧ tableClosed sTab 3 = false ∧ pairPassive sTab = false ∧ tierBusy sTab false = false ∧
      (getTable sTab 3).any (fun x => x.defn.learn && decide (tblGet 0 x.newBy pk.partner < x.defn.partLimit) && decide (65536000000000 ≤ (learnBucket sTab x).tokens) &&
        (findBy sTab 3 x.defn 9 (fun y => slotVisible sTab y || (y.used && y.tag == 1))).isNone &&
        (match insertAt sTab 3 x.defn 9 with | .place (.slot _) => true | _ => false)) = true) ∧
    (XReady sLearned 0 (xw 0x66 0 5#6 2#6 3#6) 3#32 pk ∧ (getTable sLearned 3).any (fun x =>
        (findBy sLearned 3 x.defn 9 (fun y => slotVisible sLearned y || (y.used && y.tag == 1))).any fun l =>
          !(getEntry sLearned false l).static && (getEntry sLearned false l).tag != 1) = true) ∧
    (XReady sTab 0 (xw 0x66 1 0#6 2#6 0#6) 3#32 pk ∧ XReady sLearned 0 (xw 0x66 1 0#6 2#6 0#6) 3#32 pk ∧ sLearned.lookup.relocs = [] ∧
      (getTable sLearned 3).any (fun x => (findBy sLearned 3 x.defn 9 fun y => y.used && y.tag != 0).isNone) = true) :=
  ⟨⟨xReady_of (by decide +kernel), by decide +kernel⟩, ⟨xReady_of (by decide +kernel), by decide +kernel⟩,
   ⟨xReady_of (by decide +kernel), by decide +kernel⟩, ⟨xReady_of (by decide +kernel), by decide +kernel⟩,
   ⟨xReady_of (by decide +kernel), by decide +kernel⟩, ⟨xReady_of (by decide +kernel), by decide +kernel⟩,
   xReady_of (by decide +kernel), xReady_of (by decide +kernel), by decide +kernel⟩

/-- Epoch 1 in force, whose zone pair (0, 0) is permitted, with a limit n of connections. -/
def sZone (n : Nat) : State := { sX 9 with screen := { Screen.reset with current := some { num := 1, img := memPut [] 0x1400 [BitVec.ofNat 8 n, 0#8, 0#8, 0x80#8] } } }

/-- The same with a connection of the key in w2 to w5. -/
def sConn : State := after (.conOpen (.thread 0) ⟨5#6, 2#6, 7#6, 0#3, 0#32⟩) (sZone 0)

/-- The packet of thread 0 in sConn. -/
def pkC : Packet := (getThread sConn 0).pkt.getD pk

/-- The words of CON with its event bits in w7, which reads 0; 63 is the last value of the event bits. -/
theorem witness_Connections :
    (∀ k ∈ [0, 1, 2, 3], XReady (sZone 0) 0 (xw 0x67 0 5#6 2#6 7#6) (setField 30 2 k 0#32) pk ∧ XReady sConn 0 (xw 0x67 0 5#6 2#6 7#6) (setField 30 2 k 0#32) pkC) ∧
    (let key := keyOf (getThread (sZone 0) 0).regs 2 4
     findConn (sZone 0) key = none ∧ pairPassive (sZone 0) = false ∧ (pairPolicy (sZone 0) 1 0 0).permit = true ∧ (pairPolicy (sZone 0) 1 0 0).maxConn = 0 ∧
       (pairPolicy (sZone 0) 1 1 0).permit = false ∧ partnerZone (sZone 0) 1 pk.partner = 0 ∧ (freePlace (sZone 0) key).isSome = true ∧
       (findConn sConn key).isSome = true ∧ (pairPolicy sConn 1 0 0).permit = true ∧
       (pairPolicy (sZone 1) 1 0 0).maxConn = 1 ∧ pairCount (setPairCount (sZone 1) 0 0 1) 0 0 = 1 ∧ findConn (setPairCount (sZone 1) 0 0 1) key = none) ∧
    (let c : Conn := { key := 0, state := 1, hs := false, rSeen := false, finI := false, finR := false, zsrc := 0, zdst := 0, tclass := 0,
                       cachedI := none, cachedR := none, idle := 0, addIdle := 0, visited := 0, cleared := false }
     (connNext c 1).state = 2 ∧ (connNext c 2).state = 1 ∧ (connNext { c with hs := true, rSeen := true } 4).state = 2 ∧
       (connNext { c with state := 2 } 8).state = 3 ∧ (connNext { c with state := 3 } 63).state = 3) := by
  refine ⟨fun k hk => ?_, by decide +kernel, by decide +kernel⟩
  have h : ∀ k ∈ [0, 1, 2, 3], xChk (sZone 0) 0 (xw 0x67 0 5#6 2#6 7#6) (setField 30 2 k 0#32) pk = true ∧
      xChk sConn 0 (xw 0x67 0 5#6 2#6 7#6) (setField 30 2 k 0#32) pkC = true := by decide +kernel
  exact ⟨xReady_of (h k hk).1, xReady_of (h k hk).2⟩

/-- Thread 0 with w2 the handle h, in sOwn. -/
def sHold (f : State → State) (h : Nat) : State := f (withThread sOwn { thOf pk with w := [(2, BitVec.ofNat 64 h), (3, 7#64)] })

/-- Changes the chain of sOwn. -/
def onChain (f : Chain → Chain) (s : State) : State := setChain s (handleCell hOwn) ((getChain s (handleCell hOwn)).map f)

/-- ALLOC of 0, 1, 64 and 65 cells; SHARE, RELEASE and FREE of the chain that the thread owns with one hold and with two, pending or
of another owner, and of a handle that is stale or one generation behind. -/
theorem witness_BufferOwnership :
    (∀ n ∈ [0, 1, 64, 65], XReady (sX n) 0 (xw 0x68 0 5#6 2#6 0#6) 0#32 pk ∧ (getLedger (sX n) 0).length < 8 ∧ n ≤ bankFree (sX n) 0 ∧
      (n = 0 ∨ 64 < n ∨ (match allocCells (slotsTaken (sX n) 0 2) 0 n with | (_, .ok _) => true | _ => false) = true)) ∧
    (∀ e ∈ [(xw 0x68 1 0#6 2#6 3#6, 0x400#32), (xw 0x68 2 0#6 2#6 0#6, 0#32), (xw 0x68 3 0#6 2#6 0#6, 0#32)],
      XReady (sHold id hOwn) 0 e.1 e.2 pk ∧ XReady (sHold (onChain fun c => { c with hold := 2 }) hOwn) 0 e.1 e.2 pk ∧
      XReady (sHold (onChain fun c => { c with pending := true }) hOwn) 0 e.1 e.2 pk ∧ XReady (sHold (onChain fun c => { c with owner := 9 }) hOwn) 0 e.1 e.2 pk) ∧
    (∀ f ∈ [id, onChain fun c => { c with hold := 2 }, onChain fun c => { c with pending := true }, onChain fun c => { c with owner := 9 }],
      handleState (sHold f hOwn) hOwn = .live (handleCell hOwn) ∧ (getChain (sHold f hOwn) (handleCell hOwn)).isSome = true) ∧
    handleState (sHold id 5) 5 = .stale ∧
    handleState (freeChain (sHold id hOwn) (handleCell hOwn)) hOwn = .behind := by
  refine ⟨fun n hn => ?_, fun e he => ?_, fun f hf => ?_, by decide +kernel, by decide +kernel⟩
  · have h : ∀ n ∈ [0, 1, 64, 65], xChk (sX n) 0 (xw 0x68 0 5#6 2#6 0#6) 0#32 pk = true ∧ (getLedger (sX n) 0).length < 8 ∧ n ≤ bankFree (sX n) 0 ∧
      (n = 0 ∨ 64 < n ∨ (match allocCells (slotsTaken (sX n) 0 2) 0 n with | (_, .ok _) => true | _ => false) = true) := by decide +kernel
    exact ⟨xReady_of (h n hn).1, (h n hn).2⟩
  · have h : [(xw 0x68 1 0#6 2#6 3#6, 0x400#32), (xw 0x68 2 0#6 2#6 0#6, 0#32), (xw 0x68 3 0#6 2#6 0#6, 0#32)].all (fun e =>
      xChk (sHold id hOwn) 0 e.1 e.2 pk && xChk (sHold (onChain fun c => { c with hold := 2 }) hOwn) 0 e.1 e.2 pk &&
      xChk (sHold (onChain fun c => { c with pending := true }) hOwn) 0 e.1 e.2 pk && xChk (sHold (onChain fun c => { c with owner := 9 }) hOwn) 0 e.1 e.2 pk) = true := by
      decide +kernel
    have h := List.all_eq_true.1 h e he
    simp only [Bool.and_eq_true] at h
    exact ⟨xReady_of h.1.1.1, xReady_of h.1.1.2, xReady_of h.1.2, xReady_of h.2⟩
  · have h : [id, onChain fun c => { c with hold := 2 }, onChain fun c => { c with pending := true }, onChain fun c => { c with owner := 9 }].all (fun f =>
      decide (handleState (sHold f hOwn) hOwn = .live (handleCell hOwn)) && (getChain (sHold f hOwn) (handleCell hOwn)).isSome) = true := by decide +kernel
    have h := List.all_eq_true.1 h f hf
    simp only [Bool.and_eq_true, decide_eq_true_eq] at h
    exact h

/-- Thread 0 with a packet whose speculation stands in one of its ways. -/
def sSpec (v : Spec) (q : Nat) : State := withThread State.reset { thOf { pk with spec := v, specQueue := q } with w := [(2, 5#64)] }

/-- METER; VERDICT in every state of the speculation, with the queue it names (5)
and another. -/
theorem witness_MeterAndVerdict :
    (XReady sT 0 (xw 0x69 0 5#6 2#6 3#6) 0#32 pk ∧ XReady sT 0 (xw 0x69 0 5#6 2#6 3#6) 0x1FFFF#32 pk) ∧
    (∀ v ∈ [Spec.none, .refused, .full, .standing, .confirmed, .withdrawn], ∀ q ∈ [5, 6], XReady (sSpec v q) 0 (xw 0x6A 0 0#6 2#6 3#6) 0#32 { pk with spec := v, specQueue := q } ∧
      XReady (sSpec v q) 0 (xw 0x6A 1 0#6 0#6 0#6) 0#32 { pk with spec := v, specQueue := q }) ∧
    xa (sSpec .standing 5) 0 (fX 0#32) % 2 ^ 19 = 5 ∧ zoneAllowed (sSpec .standing 5) { pk with spec := .standing, specQueue := 5 } 5 = true := by
  refine ⟨⟨xReady_of (by decide +kernel), xReady_of (by decide +kernel)⟩, fun v hv q hq => ?_, by decide +kernel, by decide +kernel⟩
  have h : [Spec.none, .refused, .full, .standing, .confirmed, .withdrawn].all (fun v => [5, 6].all (fun q =>
      xChk (sSpec v q) 0 (xw 0x6A 0 0#6 2#6 3#6) 0#32 { pk with spec := v, specQueue := q } &&
      xChk (sSpec v q) 0 (xw 0x6A 1 0#6 0#6 0#6) 0#32 { pk with spec := v, specQueue := q })) = true := by decide +kernel
  have h := List.all_eq_true.1 (List.all_eq_true.1 h v hv) q hq
  simp only [Bool.and_eq_true] at h
  exact ⟨xReady_of h.1, xReady_of h.2⟩

/-- A packet with no speculation and one with a confirmed one, in its first and its fourth pass; ENQ of the chain of sOwn, of a stale handle, a
pending chain and another's. -/
theorem witness_PassEnds :
    (∀ p ∈ [pk, { pk with spec := .confirmed }, { pk with pass := 3 }], ∀ e ∈ [(xw 0x6B 0 0#6 2#6 3#6, 0#32), (xw 0x6B 1 0#6 2#6 0#6, 1#32),
      (xw 0x6C 0 0#6 2#6 0#6, 0#32), (xw 0x6C 1 0#6 2#6 0#6, 0x40#32), (xw 0x6C 2 0#6 2#6 3#6, 7#32), (xw 0x6C 3 0#6 0#6 0#6, 0#32)],
      XReady (withThread State.reset (thOf p)) 0 e.1 e.2 p) ∧
    zoneAllowed sT pk 0 = true ∧
    (let p := { pk with handle := hOwn }
     let s := withThread (onChain (fun c => { c with owner := 0 }) sOwn) (thOf p)
     (match ownFree (setChain s (handleCell hOwn) ((getChain s (handleCell hOwn)).map fun x => { x with owner := 0x401 })) 0x401 hOwn with | .ok _ => true | _ => false) = true) ∧
    (∀ f ∈ [id, onChain fun c => { c with pending := true }, onChain fun c => { c with owner := 9 }],
      XReady (f (withThread sOwn { thOf pk with w := [(3, BitVec.ofNat 64 hOwn)] })) 0 (xw 0x6B 0 0#6 2#6 3#6) (setField 15 1 1 0#32) pk) ∧
    ((takeDesc (slotsTaken sOwn 0 2)).isSome = true ∧ blockRefuses sOwn 0 = false ∧ (pk.spec ≠ .confirmed ∧ pk.pass ≠ 3)) := by
  refine ⟨fun p hp e he => ?_, by decide +kernel, by decide +kernel, fun f hf => ?_, by decide +kernel⟩
  · have h : [pk, { pk with spec := .confirmed }, { pk with pass := 3 }].all (fun p => [(xw 0x6B 0 0#6 2#6 3#6, 0#32), (xw 0x6B 1 0#6 2#6 0#6, 1#32),
      (xw 0x6C 0 0#6 2#6 0#6, 0#32), (xw 0x6C 1 0#6 2#6 0#6, 0x40#32), (xw 0x6C 2 0#6 2#6 3#6, 7#32), (xw 0x6C 3 0#6 0#6 0#6, 0#32)].all (fun e =>
      xChk (withThread State.reset (thOf p)) 0 e.1 e.2 p)) = true := by decide +kernel
    exact xReady_of (List.all_eq_true.1 (List.all_eq_true.1 h p hp) e he)
  · have h : [id, onChain fun c => { c with pending := true }, onChain fun c => { c with owner := 9 }].all (fun f =>
      xChk (f (withThread sOwn { thOf pk with w := [(3, BitVec.ofNat 64 hOwn)] })) 0 (xw 0x6B 0 0#6 2#6 3#6) (setField 15 1 1 0#32) pk) = true := by decide +kernel
    exact xReady_of (List.all_eq_true.1 h f hf)

/-! ### Witnesses: plane X instructions, commits and the Vault -/

/-- Every Triad core at Vault level with addresses in w2 and w3. -/
def sV (a b : Word) : State :=
  let c : SCore := { SCore.triadReset with w := if a = 0#64 then (if b = 0#64 then [] else [(3, b)]) else if b = 0#64 then [(2, a)] else [(2, a), (3, b)] }
  { State.reset with cores := [(0, c), (1, c), (2, c)] }

/-- Whether all cores of the Triad in s present one plane X request, and which. -/
def planeChk (s : State) (op unit : Nat) (y : BitVec 32) (f : FmtX) (level : Nat) (image : State → Nat → SCore → Nat → Nat → Except Nat (List Byte))
    (a b : Word) (img : List Byte) : Bool :=
  (agentCores s .triad).all (fun k => coreChk s .triad k (encX op f unit) (some y) && guardChk (getCore s k).regs (encX op f unit) &&
    decide (planeAsk (encX op f unit) y f level image s k (getCore s k) = some (.plane (encX op f unit).toNat y.toNat [a, b] img)))

theorem plane_asks {s : State} {op unit : Nat} {y : BitVec 32} {f : FmtX} {level : Nat} {image : State → Nat → SCore → Nat → Nat → Except Nat (List Byte)}
    {a b : Word} {img : List Byte} (h : planeChk s op unit y f level image a b img = true)
    (hv : agentCores s .triad ≠ [] ∧ s.triad.excluded = 0#3 ∧ s.triad.voter = .sound) :
    AllAsk s .triad (encX op f unit) (some y) (planeAsk (encX op f unit) y f level image s) (.plane (encX op f unit).toNat y.toNat [a, b] img) := by
  refine ⟨hv.1, fun k hk => ?_, fun _ => hv.2⟩
  have := List.all_eq_true.1 h k hk
  simp only [Bool.and_eq_true, decide_eq_true_eq] at this
  exact ⟨coreIssues_of this.1.1, guard_of this.1.2, this.2⟩

/-- A plane X form with no d and no b. -/
def fP (y : BitVec 32) : FmtX := ⟨0#6, 2#6, 0#6, 0#3, y⟩

/-- Core-local memory at offset 0x100. -/
def ea : Word := 0x8000000000000100#64

def z (n : Nat) : List Byte := List.replicate n 0#8

/-- Every plane X instruction of R107, with the image that it streams; COMMIT of no group freezes nothing. A COMMIT word of a Tally core at
User and at Supervisor level. -/
theorem witness_PlaneInstructions :
    (∀ e ∈ [((0x70, 0, fX 0x38180000#32), sizedImage, 16#64, z 16), ((0x71, 0, fX 9#32), noImage, 16#64, []), ((0x72, 0, fX 0#32), noImage, 16#64, []),
        ((0x72, 1, ⟨0#6, 0#6, 3#6, 0#3, 0#32⟩), noImage, 16#64, []), ((0x73, 0, fX 0#32), noImage, 16#64, []), ((0x73, 1, fX 0#32), noImage, 16#64, []),
        ((0x75, 0, fX 0#32), sizedImage, 16#64, z 16), ((0x75, 1, fX 1#32), noImage, 16#64, []), ((0x76, 0, fP 0#32), noImage, 16#64, []),
        ((0x76, 1, ⟨0#6, 0#6, 0#6, 0#3, 0#32⟩), noImage, 16#64, [])],
      planeChk (sV ea e.2.2.1) e.1.1 e.1.2.1 e.1.2.2.desc e.1.2.2 1 e.2.1 (rget (getCore (sV ea e.2.2.1) 0).regs e.1.2.2.a.toNat)
        (rget (getCore (sV ea e.2.2.1) 0).regs e.1.2.2.b.toNat) e.2.2.2 = true) ∧
    AllAsk (sV ea 0#64) .triad (encX 0x71 (fX 9#32) 0) (some 9#32) (planeAsk (encX 0x71 (fX 9#32) 0) 9#32 (fX 9#32) 1 noImage (sV ea 0#64))
      (.plane (encX 0x71 (fX 9#32) 0).toNat 9 [ea, 0#64] []) ∧
    ((agentCores (sV ea 0#64) .triad).head? = some 0 ∧ (commit (sV ea 0#64) 9).2.froze = false ∧
      (commit (sV ea 0#64) 9).1.cores.Pairwise (fun a b => a.1 < b.1)) ∧
    (planeChk (sV 5#64 ea) 0x74 0 1#32 (fX 1#32) 1 (recordImage (gatelistSize 1)) 5#64 ea (z 24) = true ∧
      planeChk (sV 5#64 ea) 0x74 1 0#32 (fX 0#32) 1 (recordImage 16) 5#64 ea (z 16) = true) ∧
    CoreReady sT (.tally 0) 3 (encX 0x71 (fX 0#32) 0) (some 0#32) ∧
    CoreReady (withCore 3 cUser) (.tally 0) 3 (encX 0x71 (fX 0#32) 0) (some 0#32) := by
  refine ⟨fun e he => ?_, plane_asks (by decide +kernel) (by decide +kernel), by decide +kernel, by decide +kernel, coreReady_of (by decide +kernel),
    coreReady_of (by decide +kernel)⟩
  have h : [((0x70, 0, fX 0x38180000#32), sizedImage, 16#64, z 16), ((0x71, 0, fX 9#32), noImage, 16#64, []), ((0x72, 0, fX 0#32), noImage, 16#64, []),
        ((0x72, 1, ⟨0#6, 0#6, 3#6, 0#3, 0#32⟩), noImage, 16#64, []), ((0x73, 0, fX 0#32), noImage, 16#64, []), ((0x73, 1, fX 0#32), noImage, 16#64, []),
        ((0x75, 0, fX 0#32), sizedImage, 16#64, z 16), ((0x75, 1, fX 1#32), noImage, 16#64, []), ((0x76, 0, fP 0#32), noImage, 16#64, []),
        ((0x76, 1, ⟨0#6, 0#6, 0#6, 0#3, 0#32⟩), noImage, 16#64, [])].all (fun e =>
      planeChk (sV ea e.2.2.1) e.1.1 e.1.2.1 e.1.2.2.desc e.1.2.2 1 e.2.1 (rget (getCore (sV ea e.2.2.1) 0).regs e.1.2.2.a.toNat)
        (rget (getCore (sV ea e.2.2.1) 0).regs e.1.2.2.b.toNat) e.2.2.2) = true := by decide +kernel
  exact List.all_eq_true.1 h e he

/-- An STK_PARAMS image of HS_HIGH h and HS_LOW l. -/
def stk (h l : Byte) : List Byte := [0#8, l, h, 8#8, 0#8, 0#8, 0#8, 0#8]

/-- s with an open group of one object. -/
def sGroup (img : List Byte) : State := { State.reset with gate := { CommitGate.reset with group := some [{ sub := 7, typ := 3, img := img, arg := 0 }] } }

/-- The same committed under number 0 for tick 9. -/
def sCommitted : State := { State.reset with gate :=
  { CommitGate.reset with committed := [{ num := 0, target := 9, objs := [], moves := [], frames := [], sas := [] }], nextNum := 1 } }

theorem witness_CommitGateOutcomes :
    (stageTypes 0 = [] ∧ 18 < 19 ∧ 3 ∈ stageTypes 7 ∧ blockRefuses State.reset 7 = false ∧ stageCheck State.reset 7 3 (stk 90#8 75#8) = none ∧
      State.reset.gate.group = none) ∧
    (prepare (sGroup (stk 75#8 90#8)) 9 0 [{ sub := 7, typ := 3, img := stk 75#8 90#8, arg := 0 }] [] []).toOption.isNone = true ∧
    (match prepare (sGroup (stk 90#8 75#8)) 9 0 [{ sub := 7, typ := 3, img := stk 90#8 75#8, arg := 0 }] [] [] with
      | .ok p => decide (p.s.gate.committed = []) | .error _ => false) = true ∧
    (sGroup (stk 90#8 75#8)).gate.committed = [] ∧ (∀ c ∈ sCommitted.gate.committed, c.num ≠ 1) ∧ (∃ c ∈ sCommitted.gate.committed, c.num = 0) ∧
    sCommitted.lookup.tags = [] :=
  ⟨by decide +kernel, by decide +kernel, by decide +kernel, by decide +kernel, by decide +kernel, by decide +kernel, by decide +kernel⟩

/-- Masters 0 and 0x23F and partner 4,095 frozen. -/
def sFrozen : State := { State.reset with fence := { Fence.reset with frozen := [0, 0x23F], partners := [4095] } }

/-- The Pair unit on, with a role and the link up or not. -/
def sPair (r : Role) (up : Bool) : State := { State.reset with pair := { Pair.reset with en := true, role := r, lane0 := up } }

theorem witness_ThawAndLease :
    ((0x23F ∈ sFrozen.fence.frozen ∧ 0x220 ≤ 0x23F ∧ 0 ∈ sFrozen.fence.frozen ∧ 1 ∉ sFrozen.fence.frozen ∧ 4095 ∈ sFrozen.fence.partners ∧ 0 ∉ sFrozen.fence.partners) ∧
    ({ State.reset with pair := { Pair.reset with lost := true } } : State).pair.lost = true) ∧
    (State.reset.pair.en = false ∧ (sPair .lead false).pair.role = .lead ∧ (sPair .active false).pair.role ≠ .lead ∧ pairUp (sPair .active true) = true) ∧
    ((∀ o < 2, leaseDenied (sPair .active true) o o = false ∧ groupFull (sPair .active true) 0 = false) ∧ leaseDenied (sPair .active false) 2 2 = false ∧
      leaseDenied (sPair .lead false) 3 0 = false) :=
  ⟨by decide +kernel, by decide +kernel, by decide +kernel⟩

/-- A root slot of value 5 in a device of lifecycle Provisioned. -/
def sRoot : State := { State.reset with vault := { Vault.reset with fuses := 1, slots := [(0, { header := 1, value := 5, check := slotCheck 1 5 0 })] } }

theorem root_in_force : inForce sRoot 1 = some (0, 5) := by
  have h0 : slotState sRoot 0 = 1 := by
    have : getOtp sRoot 0 = { header := 1, value := 5, check := slotCheck 1 5 0 } := rfl
    simp [slotState, this, blankSlot]
  have hn : ∀ i, i ≠ 0 → slotState sRoot i = 0 := by
    intro i hi
    have : getOtp sRoot i = blankSlot := by simp [getOtp, sRoot, tblGet, Ne.symm hi]
    simp [slotState, this]
  have hf : (List.range 64).filter (fun i => slotState sRoot i == 1 && (getOtp sRoot i).header % 16 == 1) = [0] := by
    rw [show List.range 64 = 0 :: (List.range 63).map (· + 1) from by decide +kernel, List.filter_cons, if_pos (by rw [h0]; decide +kernel)]
    rw [List.filter_eq_nil_iff.2]
    intro i hi
    obtain ⟨j, -, rfl⟩ := List.mem_map.1 hi
    simp [hn (j + 1) (by omega)]
  simp [inForce, hf]
  rfl

/-- A device of lifecycle n with the keys given. -/
def sKeys (fuses : Nat) (keys : Tbl (Option VKey)) : State := { State.reset with vault := { Vault.reset with fuses := fuses, keys := keys } }

def vk (parent depth : Nat) (stale : Bool) : VKey := { masked := 3, mask := 5, wide := true, exportable := false, parent := parent, depth := depth, stale := stale }

/-- A derivation block of a label of 1 byte and no context. -/
def dBlock : List Byte := [1#8, 0#8, 0#8, 0#8, 0x41#8]

theorem witness_VaultCalls :
    (∀ e ∈ [((0x77, 0, (⟨0#6, 0#6, 0#6, 0#3, 0#32⟩ : FmtX)), kloadDesc ⟨0#6, 0#6, 0#6, 0#3, 0#32⟩ 0, 2, noImage, ([] : List Byte)),
        ((0x77, 0, fP 0#32), kloadDesc (fP 0#32) 3, 2, noImage, []), ((0x77, 0, fP 0#32), kloadDesc (fP 0#32) 4, 2, noImage, []),
        ((0x77, 3, fP 0#32), 0#32, 2, (fun _ k c a _ => .ok (vaultImage k c a 64)), z 64), ((0x77, 4, fP 0#32), 0#32, 1, (fun _ k c a _ => .ok (vaultImage k c a 64)), z 64)],
      planeChk (sV ea 0#64) e.1.1 e.1.2.1 e.2.1 e.1.2.2 e.2.2.1 e.2.2.2.1 (rget (getCore (sV ea 0#64) 0).regs e.1.2.2.a.toNat) 0#64 e.2.2.2.2 = true) ∧
    (planeChk (sV 1#64 ea) 0x77 1 0#32 (fX 0#32) 2 (fun _ k c _ b => .ok (vaultImage k c b (deriveLen (im32 (vaultImage k c b 4) 0)))) 1#64 ea (z 4) = true ∧
      planeChk (sV 1#64 ea) 0x77 2 (setField 31 1 0 0#32) ⟨0#6, 2#6, 3#6, 0#3, 0#32⟩ 2 (fun _ _ _ _ _ => .ok []) 1#64 ea [] = true) ∧
    (lifecycle State.reset = 0 ∧ lifecycle (sKeys 1 []) = 1 ∧ lifecycle (sKeys 4 []) = 2 ∧ lifecycle (sKeys 16 []) = 3 ∧ inForce (sKeys 1 []) 1 = none ∧
      moveAllowed (sKeys 1 []) 3 = true ∧ moveAllowed (sKeys 1 []) 2 = false) ∧
    (lifecycle sRoot = 1 ∧ inForce sRoot 1 = some (0, 5)) ∧
    (getKey State.reset 1 = none ∧ getKey (sKeys 1 [(1, some (vk 0xFF 0 false))]) 1 = some (vk 0xFF 0 false) ∧ freeDerived (sKeys 1 []) = some 16 ∧
      im32 dBlock 0 % 65536 = 1 ∧ im32 dBlock 0 / 65536 ≤ 128 ∧
      (let s := sKeys 1 [(1, some (vk 0xFF 0 false)), (16, some (vk 1 1 false))]
       s.vault.keys.Pairwise (fun a b => a.1 < b.1) ∧ getKey s 1 = some (vk 0xFF 0 false) ∧ getKey s 16 = some (vk 1 1 false) ∧ deviceRuns s = true ∧
         s.vault.trngFail = false ∧ inReset s = false)) := by
  refine ⟨fun e he => ?_, by decide +kernel, by decide +kernel, ⟨by decide +kernel, root_in_force⟩, by decide +kernel⟩
  have h : [((0x77, 0, (⟨0#6, 0#6, 0#6, 0#3, 0#32⟩ : FmtX)), kloadDesc ⟨0#6, 0#6, 0#6, 0#3, 0#32⟩ 0, 2, noImage, ([] : List Byte)),
        ((0x77, 0, fP 0#32), kloadDesc (fP 0#32) 3, 2, noImage, []), ((0x77, 0, fP 0#32), kloadDesc (fP 0#32) 4, 2, noImage, []),
        ((0x77, 3, fP 0#32), 0#32, 2, (fun _ k c a _ => .ok (vaultImage k c a 64)), z 64), ((0x77, 4, fP 0#32), 0#32, 1, (fun _ k c a _ => .ok (vaultImage k c a 64)), z 64)].all
      (fun e => planeChk (sV ea 0#64) e.1.1 e.1.2.1 e.2.1 e.1.2.2 e.2.2.1 e.2.2.2.1 (rget (getCore (sV ea 0#64) 0).regs e.1.2.2.a.toNat) 0#64 e.2.2.2.2) = true := by
    decide +kernel
  exact List.all_eq_true.1 h e he

/-- A signature request of core 0. -/
def sigOp : SigOp := { ea := 2 ^ 63, agent := 0, msgEa := 2 ^ 63, msgLen := 16, mode := 0, role := 0xFF, sigEa := 2 ^ 63 + 0x100, keyEa := 2 ^ 63, key := 0 }

theorem witness_SignatureOperations :
    (let s : State := { State.reset with vault := { Vault.reset with sign := some sigOp, verify := some { sigOp with agent := 2 } } }
     s.vault.sign = some sigOp ∧ s.vault.verify.isSome = true ∧ deviceRuns s = true ∧ s.vault.clearAfter = false ∧ sigOp.mode = 0 ∧
       s.cores.Pairwise (fun a b => a.1 < b.1) ∧ 0 ∈ vaultCores s 0 ∧ 2 ∈ vaultCores s 2 ∧ memWf (getCore s 0).lmem = true ∧ 2 ^ 63 ≤ sigOp.ea ∧ 2 ^ 63 ≤ sigOp.sigEa ∧
       s.vault.trngFail = false ∧ sigOp.sigEa + 511 ≠ sigOp.ea + 0x20) ∧
    State.reset.vault.sign = none ∧ getKey State.reset 9 = none := ⟨by decide +kernel, by decide +kernel, by decide +kernel⟩

/-! ### Witnesses: Face, Screen, Haul and the stores -/

/-- The reset state with port node m changed. -/
def sFp (m : Nat) (f : FacePort → FacePort) : State := setFp State.reset m (f (getFp State.reset m))

/-- The reset state with the transceiver c changed. -/
def sPhy (c : Nat) (f : BusPhy → BusPhy) : State := setPhy State.reset c (f (getPhy State.reset c))

/-- Fabric lane k alone. -/
def sLane (k : Nat) : State := { State.reset with fabric := { Fabric.reset with laneMask := 2 ^ k } }

/-- The bytes of a frame that a loss of the link cut. -/
def cutFrame : List Byte := z 20

/-- Enabled down ports at both ends of each range; a fabric lane; an up and a kept one; segments with PLCA. -/
theorem witness_LinkEvents :
    (∀ m ∈ [0, 31, 32, 47, 48, 55], let x := getFp (sFp m fun x => { x with enable := true }) m
      x.enable = true ∧ x.link = false ∧ x.tc10 ≠ 2 ∧ pairOdd (sFp m fun x => { x with enable := true }) m = false ∧
      (48 ≤ m → bitOf (sFp m fun x => { x with enable := true }).fabric.laneMask (m - 48) = false)) ∧
    (bitOf (sLane 7).fabric.laneMask (55 - 48) = true ∧ tblWf LaneVc.reset (sLane 7).fabric.lanes = true) ∧
    (let s := sFp 55 fun x => { x with enable := true, link := true }
     let x := getFp s 55
     x.enable = true ∧ x.link = true ∧ x.up = false ∧ portsSlept s = false ∧ x.kept = false) ∧
    (∀ r ∈ [0, 2], let x := getFp (sFp 55 fun x => { x with link := true, up := true, recal := r }) 55
     x.link = true ∧ x.up = true ∧ x.recal = r ∧ cutFrame ≠ []) ∧
    (let x := getFp (sFp 0 fun x => { x with link := true, kept := true }) 0
     x.link = true ∧ x.up = false ∧ x.kept = true) ∧
    (let s := setPort (sFp 31 fun x => { x with up := true }) 31 { getPort State.reset 31 with verify := true, preempt := 1 }
     (getPort s 31).verify = true ∧ (getPort s 31).preempt ≠ 0 ∧ (getFp s 31).up = true) ∧
    (let s := setPlca State.reset 15 { getPlca State.reset 15 with en := true, active := true, nodeId := 1 }
     (getPlca s 15).active = true ∧ (getPlca s 15).nodeId ≠ 0 ∧ (getPlca s 15).en = true) := by decide +kernel

/-- One port waits for recalibration, for a cable test, or is served with either; a TC10 port in each of its states. -/
theorem witness_FaceMaintenance :
    (NextServed (sFp 55 fun x => { x with link := true, recal := 1 }) (fun x => decide (x.recal = 1) && x.link) 55 ∧
      (getFp (sFp 55 fun x => { x with recal := 2 }) 55).recal = 2 ∧
      (∀ j, j < 56 → (getFp (sFp 47 fun x => { x with test := 1 }) j).recal = 1 → (getFp (sFp 47 fun x => { x with test := 1 }) j).link = false) ∧
      NextServed (sFp 47 fun x => { x with test := 1 }) (fun x => decide (x.test = 1)) 47 ∧
      (getFp (sFp 47 fun x => { x with test := 2 }) 47).test = 2 ∧
      ∀ m ∈ [0, 31, 48, 55], (getFp (sFp m fun x => { x with link := true }) m).link = true ∧ (m < 32 ∨ 48 ≤ m)) ∧
    (∀ v ∈ [0, 1, 2], let s := sFp 31 fun x => { x with tc10En := true, link := true, tc10 := v }
      (getFp s 31).tc10 = v ∧ (getFp s 31).tc10En = true ∧ (getFp s 31).link = true ∧ wakeReturns s (getFp s 31) = false ∧ s.gh.sleepState = .none ∧ s.localNs ≤ (getFp s 31).tc10At + 16000000) ∧
    (let s := sFp 31 fun x => { x with fwdAt := some 0 }
     wakeReturns s (getFp s 31) = true) := by
  refine ⟨⟨by unfold NextServed; decide +kernel, by decide +kernel, by decide +kernel, by unfold NextServed; decide +kernel, by decide +kernel, by decide +kernel⟩,
    by decide +kernel, by decide +kernel⟩

/-- A halt frame of 64 bytes of EtherType 0x88B5 and the magic 0x11223344. -/
def haltFrame : List Byte := withFcs (List.replicate 6 1#8 ++ List.replicate 6 2#8 ++ [0x88#8, 0xB5#8, 0x11#8, 0x22#8, 0x33#8, 0x44#8] ++ z 42)

/-- Node 55 up, which recognises haltFrame, the last one forwarded at t. -/
def sHalt (t : Option Nat) : State :=
  let s := sFp 55 fun x => { x with up := true }
  { s with haul := { s.haul with haltEn := true, haltIn := 2 ^ 55, haltDa := 0x010101010101, haltEtype := 0x88B5, haltMagic := 0x11223344, haltGap := 5, haltAt := t } }

theorem witness_BusFaultsAndHalt :
    (∀ c ∈ [0, 15, 16, 23], (getPhy (sPhy c fun x => { x with mode := 1 }) c).mode = 1 ∧ (getPhy (sPhy c fun x => { x with mode := 1 }) c).held = false) ∧
    (∀ c ∈ [0, 15], (getPhy (sPhy c fun x => { x with mode := 3, wakeEn := true }) c).mode = 3 ∧ (getPhy (sPhy c fun x => { x with mode := 3, wakeEn := true }) c).wakeEn = true) ∧
    (∀ c ∈ [16, 23], (getPhy (sPhy c fun x => { x with mode := 2 }) c).mode = 2) ∧
    (SecMark.clear = .clear ∧ ∀ t ∈ [none, some 0], (getFp (sHalt t) 55).up = true ∧ (sHalt t).haul.haltEn = true ∧ bitOf (sHalt t).haul.haltIn 55 = true ∧ fcsOk haltFrame = true ∧
      64 ≤ haltFrame.length ∧ haltFrame.length ≤ 128 ∧ beAt haltFrame 0 6 = (sHalt t).haul.haltDa ∧ beAt haltFrame 12 2 = (sHalt t).haul.haltEtype ∧
      beAt haltFrame 14 4 = (sHalt t).haul.haltMagic) ∧
    (sHalt (some 0)).localNs < 0 + (sHalt (some 0)).haul.haltGap * 1000 := by decide +kernel

def frame64 : List Byte := withFcs (z 60)

/-- Node 3 up, bank A in service with program 0 under entry 0 at 1,000 packets a second, and the empty rule set 5 in force. -/
def sScreen : State :=
  let s := sFp 3 fun x => { x with up := true }
  { s with
      engine := { s.engine with service := some false, bankA := { ProgBank.reset with
        progs := [{ base := 0, len := 100, c := 1000, u := 1000, wc := 1000 }], entries := [(0, { start := 0, rate := 1, u := 1000, c := 1000, wns := 1000 })] } }
      screen := { s.screen with current := some { num := 5, img := [] } } }

/-- A reception that the PHY and the PCS report as clean, and an errored one. -/
def clean : RxLine := { errored := false, corrected := 0#16, uncorrected := 0#16 }
def noisy : RxLine := { errored := true, corrected := 3#16, uncorrected := 0#16 }

/-- What ScreenFrames asks of frame64 on node 3. -/
def screenChk (s0 : State) (r : RuleSet) : Bool :=
  let s := countFec s0 3 clean
  match storeFrame s 3 (ingressClass s 3 frame64) frame64 with
  | (s1, .ok _ _) =>
    let prof := selectProfile r 3 frame64
    let e := extract r prof frame64
    let partner := mapPartner s1 r 3 (portIdent s 3 frame64 0#8)
    let entry := match winningRule r e (ruleKey r prof 3 partner e) with
      | some i => rsField r (0x4100 + 32 * i + 0x1C) 1
      | none => profileWord r prof 0 / 2 ^ 16 % 256
    decide (s1.pair.recovery = []) && !s1.triad.safe && decide (s1.screen.current = some r) && !partnerFrozen s1 partner && (getContract s1 partner).isNone &&
      decide (profileWord r prof 0 / 2 ^ 31 % 2 = 1 ∨ shapeFlags r prof frame64.length e = (false, false)) &&
      (match serviceEntry s1 entry with | some x => decide (0 < x.rate) && decide (1000000000 ≤ (refillEntry s1 entry x.rate).tokens) | none => false)
  | _ => false

/-- A good frame; the same with an error, without a rule set, and of a frozen partner. -/
theorem witness_ScreenFrames :
    ((getFp sScreen 3).up = true ∧ lineBad sScreen 3 clean = false ∧ fcsOk frame64 = true ∧ sScreen.haul.haltEn = false ∧ 64 ≤ frame64.length ∧ frame64.length ≤ 16383 ∧
      screenChk sScreen { num := 5, img := [] } = true) ∧
    (let s := bump (countFec sScreen 3 noisy) .rxErr 3 1
     lineBad sScreen 3 noisy && (match storeFrame s 3 (ingressClass s 3 frame64) frame64 with
      | (s1, .ok _ _) => !s1.triad.safe | _ => false)) = true ∧
    (let s : State := countFec { sScreen with screen := { sScreen.screen with current := none } } 3 clean
     match storeFrame s 3 (ingressClass s 3 frame64) frame64 with
      | (s1, .ok _ _) => decide (s1.screen.current = none ∧ s1.pair.recovery = [] ∧ s1.triad.safe = false) | _ => false) = true ∧
    (let s : State := countFec { sScreen with fence := { Fence.reset with partners := [0] } } 3 clean
     match storeFrame s 3 (ingressClass s 3 frame64) frame64 with
      | (s1, .ok _ _) => partnerFrozen s1 (mapPartner s1 { num := 5, img := [] } 3 (portIdent s 3 frame64 0#8)) | _ => false) = true := by decide +kernel

/-- A packet that waits for dispatch, and thread 511 reserved for a recirculated pass. -/
def sDispatch : State :=
  let s : State := { sScreen with screen := { sScreen.screen with dispatchQ := [{ pk with dispatched := false }] } }
  { s with engine := { s.engine with threads := [(511, { Thread.reset with reserved := some { pk with epoch := 5 } })] } }

theorem witness_DispatchEvents :
    (sDispatch.screen.dispatchQ = { pk with dispatched := false } :: [] ∧ sDispatch.localNs < 0 + sDispatch.bench.period * 1000 / 2 ∧
      (∀ g ∈ [0, 7], (groupThread sDispatch g).isSome = true) ∧ sDispatch.engine.service = some false ∧ entryStart sDispatch false 0 = some 0) ∧
    ((getThread sDispatch 511).reserved = some { pk with epoch := 5 } ∧ sDispatch.localNs < 0 + sDispatch.bench.period * 1000 ∧
      ruleSetOf sDispatch 5 = some { num := 5, img := [] } ∧
      (let r : RuleSet := { num := 5, img := [] }
       let b := frameBytes sDispatch 0 64
       profileWord r (selectProfile r 0 b) 0 / 2 ^ 31 % 2 = 1 ∨ shapeFlags r (selectProfile r 0 b) b.length (extract r (selectProfile r 0 b) b) = (false, false)) ∧
      entryStart sDispatch pk.bank pk.entry = some 0) := by decide +kernel

/-- Source 63 with a waiting frame, 2,047 numbers out, and a filled number before a ready one. -/
def sWait : State :=
  { State.reset with screen := { State.reset.screen with
      waiting := [{ pk with src := 63 }], seqCtr := [(63, 2047)], reorder := [(63, [{ num := 0, filled := true, ready := none }, { num := 1, filled := false, ready := some 0 }])] } }

theorem witness_ScreenTimers :
    sWait.screen.waiting.find? (fun p => decide (p.src = 63)) = some { pk with src := 63 } ∧
    (match getReorder sWait 63 with | e :: _ => decide ((tblGet 0 sWait.screen.seqCtr 63 + 65536 - e.num) % 65536 < 2048) | [] => false) = true ∧
    (sWait.screen.dispatchQ ++ sWait.screen.waiting).find? (fun p => decide (p.src = 63)) = some { pk with src := 63 } ∧
    (getThread sT 0).pkt = some pk ∧
    getReorder sWait 63 = [{ num := 0, filled := true, ready := none }] ++ { num := 1, filled := false, ready := some 0 } :: [] := by decide +kernel

/-- A descriptor on queue 5. -/
def dsc : Desc :=
  { idx := 0, handle := 0, spec := false, cut := false, len := 64, dp := 0, copy := false, template := 0, queue := 5, seq := 0, src := 0, rxTime := 0, cells := 1,
    order := none, partner := 0, arrVc := none, mark := none, cbSeq := none, since := 0, lastBit := 0, info := 0 }

/-- Queue 5 attached to node 3, which is up. -/
def sQ0 : State :=
  let s := sFp 3 fun x => { x with up := true }
  let s := setNode s 2 0 { attached := true, cls := 0, parent := 3, weight := 1 }
  let s := setNode s 1 0 { attached := true, cls := 0, parent := 0, weight := 1 }
  let s := setQueue s 5 { QueueRec.reset with attached := true, cls := 0, tc := 0, parent := 0, weight := 1 }
  { s with stock := { s.stock with qadmit := [(5, { QAdmit.reset with maxCells := 100, spillCells := 100 })] } }

/-- The same with a frame on it. -/
def sQ : State := (enqueue sQ0 dsc).1

/-- A frame in transmission. -/
def txr (d : Desc) : TxRec :=
  { desc := d, bytes := frame64, start := 0, done := 0, express := false, path := [], tc := 0, reads := [], stomp := none, halt := false, sa := none, first := 0, cap := none,
    parked := false, skips := 0, released := false }

/-- A longer one, of 500 bytes. -/
def long : TxRec := { txr dsc with bytes := z 500 }

/-- s with port node m changed. -/
def onPort (s : State) (m : Nat) (f : PortRec → PortRec) : State := setPort s m (f (getPort s m))

/-- A waiting halt frame; a decided one; a queued frame; nothing; a halt frame that preempts. -/
def decided3 (s : State) : State :=
  let a := advance s ((getPort s 3).freeAt - 128 - s.localNs)
  let b := advance a (max a.localNs (getPort s 3).freeAt - a.localNs)
  (portQueues b 3).foldl (fun s q => purgeQueue 3 q (getQueue s q).frames.length s) b

theorem witness_HaulDecisions :
    (sQ.triad.safe = false ∧ txSa sQ 3 = none ∧ (getPort sQ 3).tx = none ∧ (getPort sQ 3).haltQ = [] ∧ (getPort sQ 3).preempted = none ∧ (getPort sQ 3).decided = none ∧ plcaWaits sQ 3 = false) ∧
    (let s := onPort State.reset 3 fun x => { x with decided := some (txr dsc) }
     (getPort s 3).decided = some (txr dsc) ∧ (getPort s 3).tx = none ∧ (getPort s 3).haltQ = [] ∧ plcaWaits s 3 = false ∧ txSa s 3 = none) ∧
    (let s := onPort State.reset 63 fun x => { x with haltQ := [haltFrame] }
     s.triad.safe = false ∧ txSa s 63 = none ∧ (getPort s 63).tx = none ∧ (getPort s 63).haltQ = haltFrame :: [] ∧ plcaWaits s 63 = false) ∧
    (let s1 := decided3 sQ
     match walk s1 3 with
     | (s2, some (_, _, q)) => decide (q.1 = 5 ∧ (getQueue s2 q.1).attached = true ∧ (getQueue s2 q.1).frames = dsc :: [] ∧ txSa s2 3 = none)
     | _ => false) = true ∧
    (let s1 := decided3 sQ0
     (walk s1 3).2 = none) ∧
    (let s := onPort State.reset 31 fun x => { x with tx := some long, preempt := 1, verify := true, verified := true, haltQ := [haltFrame] }
     (getPort s 31).tx = some long ∧ long.start ≤ s.localNs ∧ long.express = false ∧ long.stomp = none ∧
       max (txSent s 31 long) (long.done + 64 * (1 + (getPort s 31).addFrag)) + 64 ≤ long.bytes.length ∧ (getPort s 31).preempted = none ∧ (getPort s 31).preempt ≠ 0 ∧ (getPort s 31).verified = true ∧
       (getPort s 31).haltQ = haltFrame :: [] ∧ s.triad.safe = false ∧ txSa s 31 = none) := by decide +kernel

/-- A gate list of one entry of 1,000 ns on T0. -/
def gl : GateList := { tb := 0, base := 0, cycle := 1000, ents := [{ v := 0xFF, op := 0, ivl := 1000 }] }

/-- T0 running from 0. -/
def sTime : State := { State.reset with time := { State.reset.time with t0 := { running := true, value := 0, rate := 0, slew := none, stepSeq := 0 } } }

theorem witness_TransmissionAndGates :
    (∀ m ∈ [0, 56, 58], let s := onPort State.reset m fun x => { x with tx := some (txr dsc) }
      (getPort s m).tx = some (txr dsc) ∧ m ≠ 57 ∧ m < 59 ∧ dsc.queue < 524288 ∧ tblWf 0 s.counters = true ∧ (txr dsc).start ≤ s.localNs ∧
      (txr dsc).halt = false ∧ (txr dsc).stomp = none ∧ dsc.spec = false ∧ s.haul.queues = [] ∧ tblWf QueueRec.reset s.haul.queues = true ∧
      s.stock.spoil = [] ∧ tblWf [] s.stock.spoil = true ∧ [0, 56, 58, 63].all (fun n => (getPort s n).decided.isNone) = true) ∧
    (let s := onPort (withThread State.reset (thOf { pk with spec := .standing })) 58 fun x => { x with tx := some (txr { dsc with spec := true }) }
     (getPort s 58).tx = some (txr { dsc with spec := true }) ∧
       ((packets s).find? (fun p => decide (p.desc = dsc.idx) && decide (p.spec = .standing))) = some { pk with spec := .standing }) ∧
    (let s := setGates sTime 55 { GateState.none with active := some (gl, 0) }
     (gateAt s (getGates s 55) 0).2 = some 1000 ∧ (getPort s 55).tx = none) ∧
    (let s := setGates sTime 55 { GateState.none with pending := some (gl, 500) }
     (getGates s 55).pending = some (gl, 500) ∧ (tbGet s.time 0).running = true ∧ (tbGet s.time 0).slew = none ∧ -2147483 ≤ (tbGet s.time 0).rate ∧
       cyclesTo (tbGet s.time 0) (500 * 2 ^ 32) = some 500 ∧ 0 ≤ (tbGet s.time 0).value ∧
       (tbGet s.time 0).value + 500 * (2 ^ 32 + (tbGet s.time 0).rate) < 2 ^ 80 * 1000000000 ∧ (getPort s 55).tx = none ∧ tblWf GateState.none s.haul.gates = true) ∧
    (let s := setSgate sTime 255 { GateState.none with active := some (gl, 0) }
     (getSgate s 255).active = some (gl, 0) ∧ (getSgate s 255).pending = none ∧ (gateAt s (getSgate s 255) 0).2 = some 1000 ∧
       tblWf GateState.none s.haul.sgates = true) := by decide +kernel

/-- A pending write of cell 9; cell 9 in bank 4 and on the spill list; a spoiled copy; a hold queue with an old frame. -/
theorem witness_CellsAndHolds :
    ((let s : State := { State.reset with stock := { State.reset.stock with pend := [{ req := 7, cell := 9, write := true, age := 0 }] } }
     s.stock.pend = [{ req := 7, cell := 9, write := true, age := 0 }] ∧ 7 < 8 ∧ (∀ m < 64, (getPort s m).tx = none) ∧ s.stock.spill = [] ∧
       s.stock.bankUsed = [] ∧ s.stock.spilling = false ∧ 0 < s.stock.hsHigh ∧ s.stock.gp = []) ∧
    (let s := setCell { State.reset with stock := { State.reset.stock with spill := [9], moved := [(3, 9)] } } 9 { getCell State.reset 9 with bank := some 4 }
     s.stock.moved.find? (fun e => decide (e.1 = 3)) = some (3, 9) ∧ (getCell s 9).bank = some 4 ∧ ∀ e ∈ s.stock.moved, e.1 ≠ 2) ∧
    (let s := setPool State.reset 31 { getPool State.reset 31 with ring := [(0, 40), (100, 40)], cache := [(200, 255)] }
     runsLen (getPool s 31).cache < 256 ∧ 0 < runsLen (getPool s 31).ring) ∧
    (let s := setPool State.reset 31 { getPool State.reset 31 with cache := [(200, 961)] }
     960 < runsLen (getPool s 31).cache) ∧
    (let e : SpoilEnt := { desc := { dsc with copy := true }, deadline := 1 }
     let s := setSpoil sQ0 3 [e]
     getSpoil s 3 = [e] ∧ s.bench.tickCount < e.deadline ∧ queuePort s e.desc.queue ≠ none ∧ descends s e.desc.queue e.desc.arrVc = false ∧ copyGate s e.desc.queue = true ∧ wouldAdmit s e.desc.queue e.desc.cells e.desc.dp = true ∧
       (enqueue s { e.desc with since := s.localNs }).2 = true ∧ tblWf [] s.stock.spoil = true ∧ tblWf 0 s.counters = true) ∧
    (let e : SpoilEnt := { desc := dsc, deadline := 1 }
     let s := setSpoil State.reset 63 [e]
     getSpoil s 63 = [e] ∧ queuePort s e.desc.queue = none) ∧
    (let e : SpoilEnt := { desc := { dsc with arrVc := some 4 }, deadline := 1 }
     let s := setSpoil { sQ0 with fabric := { Fabric.reset with losslessVc := 0x1E, binds := [(5, some { dev := 3, vc := 4, direct := false, rxLport := 0, remoteQueue := 9 })] } } 3 [e]
     getSpoil s 3 = [e] ∧ queuePort s e.desc.queue ≠ none ∧ descends s e.desc.queue e.desc.arrVc = true) ∧
    (let e : SpoilEnt := { desc := { dsc with cells := 200 }, deadline := 1 }
     let s := setSpoil sQ0 3 [e]
     getSpoil s 3 = [e] ∧ queuePort s e.desc.queue ≠ none ∧ descends s e.desc.queue e.desc.arrVc = false ∧ wouldAdmit s e.desc.queue e.desc.cells e.desc.dp = false) ∧
    (let s := setQueue sQ 5 { getQueue sQ 5 with hold := .holding }
     let s : State := { s with stock := { s.stock with qadmit := [(5, { QAdmit.reset with hold := true, holdLife := 1 })] } }
     queuePort s 5 = some 3 ∧ (getQueue s 5).hold = .holding ∧ (getQAdmit s 5).holdLife ≠ 0 ∧ (getQueue s 5).frames = [dsc] ∧ dsc.spec = false ∧
       tblWf 0 s.counters = true)) ∧ ∀ k v, (getLane State.reset k v).waits = [] := ⟨by decide +kernel, fun _ _ => rfl⟩

/-- Conveyor port 55 up, with a pause of class 7. -/
def sPfc (x : Option PfcRx) : State :=
  let s := sFp 55 fun x => { x with up := true }
  { s with stock := { s.stock with pfcRx := match x with | some x => [(63, some x)] | none => [] } }

/-- The device's own PFC frame of class 7 there, sent at 4, in the safe output state or not. -/
def sRepeat (safe : Bool) : State :=
  let s := sPfc none
  { s with stock := { s.stock with pfcTx := [(63, some 4)] }, triad := { s.triad with safe := safe } }

/-- Queue 5 on node 48 in class 0, which has been paused since tick 0; tick 17. -/
def sPaused : State :=
  let s := setNode sQ 2 0 { attached := true, cls := 0, parent := 48, weight := 1 }
  { s with bench := { s.bench with tickCount := 17 }, stock := { s.stock with pfcRx := [(0, some { ends := 5, since := 0, sinceTick := 0 })] } }

/-- Device 2 with lane 7 to device 3. -/
def sLanes : State :=
  { State.reset with fabric := { State.reset.fabric with devId := 2, laneMask := 128, neigh := [(7, 3)], binds := [(5, some { dev := 3, vc := 4, direct := false, rxLport := 0, remoteQueue := 9 })] } }

def hdr (dst typ vc seq : Nat) : List Byte := cellHeader { zeroHdr with typ := typ, dst := dst, vc := vc, seq := seq, bytes := 240, credits := 5, src := 3 } ++ z 240

/-- Pauses that begin, go on, end and last; a lane of the fabric that sends credit and data; cells with a wrong HCRC, of another device, of
credit, and in the middle of a frame. -/
theorem witness_PauseAndFabric :
    (∀ x ∈ [none, some { ends := 5, since := 0, sinceTick := 0 }], bitOf (sPfc x).fabric.laneMask 7 = false ∧ (getFp (sPfc x) 55).up = true) ∧
    tblGet none (sPfc (some { ends := 5, since := 0, sinceTick := 0 })).stock.pfcRx 63 = some { ends := 5, since := 0, sinceTick := 0 } ∧
    (stalledLong sPaused 48 0 = true ∧ 5 ∈ pausedQueues sPaused 48 0 ∧ (getQueue sPaused 5).frames ≠ []) ∧
    (∀ safe ∈ [true, false], tblGet none (sRepeat safe).stock.pfcTx 63 = some 4 ∧ bitOf (sRepeat safe).fabric.laneMask 7 = false ∧
      (getFp (sRepeat safe) 55).up = true ∧ (sRepeat safe).triad.safe = safe) ∧
    (bitOf sLanes.fabric.laneMask 7 = true ∧ sLanes.triad.safe = false ∧ (∀ v < 8, (getLane sLanes 7 v).waits = []) ∧ tblWf 0 sLanes.fabric.credRot = true) ∧
    (let t : TxRec := { txr dsc with bytes := z 600 }
     let s := onPort (setLane sLanes 7 4 { LaneVc.reset with kPeer := 10 }) 60 fun x => { x with tx := some t }
     let s1 := (List.range 8).foldl (fun s v => markStall s 7 v) s
     bitOf s.fabric.laneMask 7 = true ∧ s.triad.safe = false ∧ hasCredit s1 7 4 = true ∧ laneTx s1 7 4 = some (60, t) ∧
       (∀ j, j < 8 → (j + 8 - s1.bench.arbTick % 8) % 8 < (4 + 8 - s1.bench.arbTick % 8) % 8 → hasCredit s1 7 j = false ∨ laneTx s1 7 j = none) ∧
       t.desc.spec = false ∧ t.stomp = none ∧ t.done + 240 < t.bytes.length ∧ tblWf LaneVc.reset s1.fabric.lanes = true) ∧
    headerOk (z 256) = false ∧
    (headerOk (hdr 9 0 4 6) = true ∧ (readHeader (hdr 9 0 4 6)).dst ≠ sLanes.fabric.devId) ∧
    (headerOk (hdr 2 1 0 0) = true ∧ (readHeader (hdr 2 1 0 0)).dst = sLanes.fabric.devId ∧ (readHeader (hdr 2 1 0 0)).typ = 1) ∧
    (let f : RxFrame := { bytes := z 240, len := 1000, direct := false, queue := 5, dp := 0, lport := 0, rxTime := 0, stamp := [], cells := [1, 2, 3, 4], lost := false }
     let s := setLane sLanes 7 4 { LaneVc.reset with rxSeq := 65535, rxFrame := some f }
     let h := readHeader (hdr 2 0 4 0)
     headerOk (hdr 2 0 4 0) = true ∧ h.dst = s.fabric.devId ∧ h.typ = 0 ∧ h.sof = false ∧ h.eof = false ∧ h.abort = false ∧ (getLane s 7 h.vc).rxFrame = some f ∧
       (getLane s 7 h.vc).waits = [] ∧ cellsFor (f.bytes ++ z h.bytes).length ≤ f.cells.length ∧ (getLane s 7 h.vc).rxBad = false ∧ h.seq = ((getLane s 7 h.vc).rxSeq + 1) % 65536 ∧ tblWf LaneVc.reset s.fabric.lanes = true) :=
  ⟨by decide +kernel, by decide +kernel, by decide +kernel, by decide +kernel, by decide +kernel, by decide +kernel⟩

/-- A table entry of table 3 as the sweep meets it. -/
def ent (hit strike : Bool) : LSlot := { LSlot.empty with keyw := 9, used := true, vis := true, hit := hit, strike := strike, table := 3, swept := true }

/-- Table 3 with the entry in slot 2 of bucket 5, or as overflow entry 5. -/
def sAged (o hit strike : Bool) : State := if o then setOvf sTab false 5 (ent hit strike) else setSlot sTab false 22 (ent hit strike)

/-- What a visit of bucket 5 or overflow entry 5 asks. -/
def agedChk (s : State) (o : Bool) (l : Loc) : Bool :=
  match getTable s 3 with
  | some x =>
    let y := getEntry s false l
    x.defn.age && decide (y.table = 3 ∧ y.part = 0 ∧ y.tag = 0 ∧ y.swept = !x.ph ∧ y.static = false) && slotVisible s y && !pairPassive s &&
    (o || (decide ((getSlot s false 22).width = 0) && [20, 21, 23].all (fun k => !(getSlot s false k).used) && !underReloc s false 22))
  | none => false

/-- A relocation that ends for the LRN of thread 0. -/
def rl : Reloc := { dram := false, old := 8, new := 12, ctx := { thread := 0, d := 5, table := 3, key := 9, data := 7, partner := 0 } }

theorem witness_TableSweeps :
    (getTable sTab 3).any (fun x => x.defn.age) = true ∧
    ([(true, false), (false, false), (false, true)].all fun e => agedChk (sAged true e.1 e.2) true (.ovf 5) && agedChk (sAged false e.1 e.2) false (.slot 22)) = true ∧
    (let s : State := { sTab with lookup := { sTab.lookup with relocs := [rl] } }
     s.lookup.relocs.find? (fun r => decide (r.dram = false)) = some rl ∧ (getTable s rl.ctx.table).isSome = true ∧ pairPassive s = false ∧ (getTier s false).waiting = [] ∧ (getTier s true).waiting = []) ∧
    (let s : State := { State.reset with lookup := { State.reset.lookup with tags := [(15, .applied)] } }
     let s := [1, 2, 3].foldl (fun s i => setOvf s false i { ent false false with tag := i, ctag := 15 }) s
     tblGet TagState.free s.lookup.tags 15 = .applied ∧ s.lookup.relocs = [] ∧ tblWf TagState.free s.lookup.tags = true ∧ tblWf LSlot.empty s.lookup.onDie.ovf = true ∧
       tblWf LSlot.empty s.lookup.dram.ovf = true) ∧
    (let c : Conn := { key := 1, state := 2, hs := false, rSeen := false, finI := false, finR := false, zsrc := 1, zdst := 2, tclass := 0, cachedI := none, cachedR := none,
                       idle := 65535, addIdle := 3, visited := 0, cleared := false }
     let s := setConn State.reset 4194303 (some c)
     getConn s 4194303 = some c ∧ c.cleared = false ∧ pairPassive s = false ∧ tblWf none (setConn s 4 (some { c with cleared := true })).berm.conns = true) ∧
    (let s : State := { State.reset with berm := { State.reset.berm with scrub := [7, 6] } }
     s.berm.scrub = 7 :: [6] ∧ tblWf none s.berm.cache = true) := by decide +kernel

/-- A CAN frame, and channel 15 and LIN channel 7 in use. -/
def can (id n : Nat) : CanMsg := classicalFrame false id (z n)

def sBus (off : Bool) (routes : List SpallRoute) : State :=
  let s := setPhy (setPhy State.reset 15 { BusPhy.reset with mode := 1 }) 23 { BusPhy.reset with mode := 1 }
  let s := setLin (setCan s 15 { CanChan.reset with en := true, state := 0 }) 7 { LinChan.reset with en := true, ids := [(63, { dir := 2, enhanced := false, len := 2, buf := none })] }
  { s with relay := { s.relay with spallOff := off, routes := routes } }

def rt : SpallRoute := { valid := true, kind := 0, ide := false, srcCh := 15, linMask := 0, canMask := 1, idLow := 5, idHigh := 5, outId := 0 }

theorem witness_BusReceive :
    (∀ off ∈ [true, false], let s := sBus off [rt]
      (getCan s 15).en = true ∧ (getCan s 15).state ≠ 2 ∧ (getPhy s 15).mode = 1 ∧ (can 5 8).fmt ≠ .fd ∧ (can 5 8).fmt ≠ .xl ∧ tblWf 0 s.counters = true ∧ s.relay.spallOff = off ∧
      canRoute s 15 (can 5 8) = some rt ∧ canRoute s 15 (can 6 8) = none ∧ s.screen.current = none ∧ rt.kind = 0 ∧ bitOf rt.canMask 0 = true ∧
      (getCan s 0).bufs.length < 32 ∧ (∀ y ∈ (getCan s 0).bufs, s.localNs < y.2 + s.relay.txLife * 1000000)) ∧
    (let s := sBus false [{ rt with kind := 1, linMask := 2 ^ 7 }]
     (canRoute s 15 (can 5 8)).any (fun r => decide (r.kind ≠ 0) && bitOf r.linMask 7) = true) ∧
    (let s := sBus false [{ rt with kind := 2, srcCh := 7, idLow := 0, idHigh := 63 }]
     (linRoute s 7 63).any (fun r => bitOf r.canMask 0) = true) ∧
    (∀ off ∈ [true, false], let s := sBus off []
      (getLin s 7).en = true ∧ (getPhy s 23).mode = 1 ∧ (tblGet LinId.reset (getLin s 7).ids 63).dir = 2 ∧ (z 2).length = (tblGet LinId.reset (getLin s 7).ids 63).len ∧
      s.relay.spallOff = off ∧ linRoute s 7 63 = none ∧ s.screen.current = none) := by decide +kernel

theorem witness_BusTransmit :
    (getPort (onPort State.reset 57 fun x => { x with tx := some (txr dsc) }) 57).tx = some (txr dsc) ∧
    (let s := setCan (sBus false []) 15 { CanChan.reset with en := true, state := 0, bufs := [(can 6 1, 0), (can 5 1, 0)] }
     (getCan s 15).en = true ∧ (getCan s 15).state = 0 ∧ (getPhy s 15).mode = 1 ∧ (getPhy s 15).held = false ∧ s.triad.safe = false ∧ s.pair.busHeld = false ∧
       (getCan s 15).bufs = (can 6 1, 0) :: [(can 5 1, 0)] ∧ (∀ y ∈ (getCan s 15).bufs, s.localNs < y.2 + s.relay.txLife * 1000000) ∧
       (∃ y ∈ (getCan s 15).bufs, canFormat (getCan s 15) y.1.fmt = true) ∧ tblWf (classicalFrame false 0 []) s.relay.busOut = true) ∧
    (let s := setCan State.reset 15 { CanChan.reset with en := true, state := 1 }
     (getCan s 15).en = true ∧ (getCan s 15).state = 1) ∧
    (let s := setCan State.reset 15 { CanChan.reset with state := 2, recovering := true }
     (getCan s 15).state = 2 ∧ (getCan s 15).recovering = true) := by decide +kernel

/-- LIN channel 7 with a schedule of one slot, whose response is b, as commander or as responder. -/
def sLin (commander running : Bool) (b : Option (List Byte)) : State :=
  setLin (setPhy State.reset 23 { BusPhy.reset with mode := 1, commander := commander }) 7 { LinChan.reset with
    en := true, slots := [(63, 10)], running := running, ids := [(63, { dir := 1, enhanced := false, len := 2, buf := b })] }

/-- A Spall set without records. -/
def spall0 : List Byte := leBytes 4 0x00010000 ++ z 24

/-- Waking from an image that has passed and holds a Spall set. -/
def sSpall : State := { State.reset with vault := { Vault.reset with boot := { Vault.reset.boot with spall := true, headerOk := true } } }

theorem witness_LinAndSpall :
    (∀ r ∈ [true, false], let s := sLin true r (some (z 2))
      (getLin s 7).en = true ∧ (getPhy s 23).commander = true ∧ (getPhy s 23).mode = 1 ∧ (getPhy s 23).held = false ∧ (getLin s 7).slots ≠ [] ∧ s.triad.safe = false ∧
      s.pair.busHeld = false ∧ (tblGet LinId.reset (getLin s 7).ids 63).dir = 1 ∧ (tblGet LinId.reset (getLin s 7).ids 63).buf = some (z 2) ∧ z 2 ≠ []) ∧
    (∀ b ∈ [none, some (z 2)], let s := sLin false false b
      (getLin s 7).en = true ∧ (getPhy s 23).commander = false ∧ (getPhy s 23).mode = 1 ∧ (getPhy s 23).held = false ∧
      (tblGet LinId.reset (getLin s 7).ids 63).dir = 1 ∧ s.triad.safe = false ∧ s.pair.busHeld = false) ∧
    (sSpall.gh.mode = .waking ∧ sSpall.gh.relStep = 0 ∧ sSpall.gh.asserted = 0 ∧ sSpall.triad.lockstepBroken = false ∧ sSpall.vault.boot.spall = true ∧ sSpall.vault.boot.headerOk = true ∧ sSpall.relay.spallLoaded = false ∧
      sSpall.relay.spallBad = false ∧ spallOk spall0 = true) := by decide +kernel

/-! ### Witnesses: the Triad, the pair link, time and boundaries -/

/-- The reset state with the Triad unit changed. -/
def sTri (f : Triad → Triad) : State := { State.reset with triad := f State.reset.triad }

theorem witness_TriadEvents :
    (deviceRuns State.reset = true ∧ State.reset.triad.fault = false ∧ State.reset.triad.split = false ∧ State.reset.triad.lockstepBroken = false ∧
      (⟨1#8, 0#8⟩ : Voter).a ≠ 0#8 ∧ State.reset.triad.excluded = 0#3 ∧ State.reset.triad.votedOut = none ∧
      hashSame (getCore State.reset 0) (getCore State.reset 1) = true) ∧
    (∀ i ∈ [0, 1, 2], let s := sTri fun t => { t with excluded := 1#3 <<< i, exclBounds := [(i, 64)] }
      s.triad.excluded = 1#3 <<< i ∧ s.triad.rejoinFail.getLsbD i = false ∧ s.triad.reloading = false ∧ 64 ≤ tblGet 0 s.triad.exclBounds i ∧
      isFrozen s 0x200 = false ∧ (getCore s i).lmem = (getCore s (if i = 0 then 1 else 0)).lmem ∧ s.cores.Pairwise (fun a b => a.1 < b.1) ∧
      s.triad.excluded.getLsbD i = true ∧ deviceRuns s = true) ∧
    (let s : State := { sTri fun t => { t with coasting := true } with fence := { Fence.reset with noTick := 2 } }
     deviceRuns s = true ∧ s.gh.wdtEn = true ∧ s.triad.coasting = true ∧ s.gh.mode ≠ .maintenance ∧ s.gh.restartTicks < s.fence.noTick ∧ s.triad.voter = .sound ∧
       s.cores.Pairwise (fun a b => a.1 < b.1)) ∧
    (let s : State := { sTri fun t => { t with safe := true } with gh := { Gatehouse.reset with safeAt := some 0, escalate := true } }
     s.gh.safeAt = some 0 ∧ s.triad.safe = true ∧ s.gh.escalate = true ∧ inReset s = false) := by decide +kernel

/-- The reset state with the Pair unit changed. -/
def sPr (f : Pair → Pair) : State := { State.reset with pair := f { Pair.reset with en := true, lane0 := true } }

def chunk (last : Bool) : Chunk := { index := 0, last := last, recs := [], sealed := if last then some { tick := 4, renew := true, lag := false, records := 0, bytes := 0, check := 0 } else none }

theorem witness_PairLink :
    (let s := sPr id
     s.pair.en = true ∧ deviceRuns s = true ∧ s.triad.safe = false ∧ (tblGet Block.reset s.gh.blocks 15).power = true ∧ s.gh.mode = .waking) ∧
    (∀ r ∈ [Role.active, .follow, .rejoin], (sPr fun p => { p with lane1 := true, role := r }).pair.lane0 = true ∧
      (sPr fun p => { p with lane1 := true, role := r }).pair.lane1 = true ∧ (sPr fun p => { p with lane1 := true, role := r }).pair.role = r ∧
      (sPr fun p => { p with lane1 := true, role := r }).pair.rx = none ∧ (sPr fun p => { p with lane1 := true, role := r }).pair.lagDue = false ∧
      ({ sPr id with gh := { Gatehouse.reset with mode := .active } } : State).gh.mode ≠ .waking ∧
      deviceRuns { sPr id with gh := { Gatehouse.reset with mode := .active } } = true) ∧
    (let s := sPr fun p => { p with role := .active }
     s.pair.lane0 = true ∧ s.pair.lane1 = false ∧ s.pair.rx = none ∧ s.pair.role ≠ .rejoin ∧ s.pair.role = .active ∧ s.pair.sync = false) ∧
    (let s := sPr fun p => { p with role := .lead }
     s.pair.lane0 = true ∧ s.pair.role = .lead) ∧
    (let s := sPr fun p => { p with role := .active, sync := true, reqTick := some 5 }
     s.pair.role ≠ .lead ∧ s.pair.sync = true ∧ s.pair.reqTick ≠ some (4#32).toNat ∧ s.pair.reqTick = some (5#32).toNat) ∧
    (let s := sPr fun p => { p with role := .follow, txSent := [chunk false], txChunks := [chunk true] }
     s.pair.lane0 = true ∧ s.pair.role = .follow ∧ s.pair.txSent.find? (fun c => decide (c.index = (0#16).toNat)) = some (chunk false) ∧
       s.pair.txChunks = chunk true :: [] ∧ (∀ x ∈ s.pair.txSent, x.sealed = none) ∧ s.pair.rx = none ∧ (chunk false).last = false ∧ s.triad.coasting = false) ∧
    ((chunk true).last = true ∧ (chunk true).index = 0 ∧ (chunk true).sealed = some { tick := 4, renew := true, lag := false, records := 0, bytes := 0, check := 0 }) ∧
    ((prepDelta (sPr fun p => { p with role := .follow }) (chunk true).recs).isSome = true) ∧
    (sPr fun p => { p with role := .rejoin }).pair.role = .rejoin ∧
    (let s : State := { sPr id with triad := { Triad.reset with coasting := true } }
     s.pair.lane0 = true ∧ s.triad.coasting = true) ∧
    (let x : Recovery := { strip := true, takeNoSeq := false, history := 8, vid := 1, da := 2, resetTicks := 7, last := some 3, seen := 1, idle := 7 }
     tblGet none (sPr fun p => { p with recovery := [(1023, some x)] }).pair.recovery 1023 = some x ∧ x.resetTicks ≤ x.idle) :=
  ⟨by decide +kernel, by decide +kernel, by decide +kernel, by decide +kernel, by decide +kernel, by decide +kernel, by decide +kernel, rfl,
   by decide +kernel, by decide +kernel, by decide +kernel⟩

/-- T0 with a slew of 500 cycles; a PPS input on T0 or on the stopped T1, captured at 0 or never; a PPS output. -/
theorem witness_TimeEdges :
    (let s : State := { State.reset with time := { State.reset.time with t0 := { running := true, value := 0, rate := 0, slew := some { inc := 5, left := 500, rem := 3 }, stepSeq := 0 } } }
     (tbGet s.time 0).running = true ∧ (tbGet s.time 0).slew = some { inc := 5, left := 500, rem := 3 }) ∧
    (∀ tb ∈ [0, 1], ∀ c ∈ [none, some 0], ∀ en ∈ [true, false],
      let x : PpsIn := { en := en, edge := 2, tb := tb, level := false, lastCap := c }
      let s : State := { State.reset with time := { State.reset.time with ppsIn := [(1, x)] } }
      tblGet PpsIn.reset s.time.ppsIn 1 = x ∧ x.level ≠ true ∧ tblWf PpsIn.reset s.time.ppsIn = true ∧ (tbGet s.time x.tb).running = decide (tb = 0)) ∧
    (∀ safe ∈ [true, false], let x : PpsOut := { en := true, tb := 0, start := 0, period := 1000, width := 100, level := false, next := some 2000, fallAt := none, lastFall := none }
      let s : State := { sTri fun t => { t with safe := safe } with time := { State.reset.time with ppsOut := [(3, x)] } }
      getPpsOut s 3 = x ∧ x.next = some 2000 ∧ (tbGet s.time x.tb).running = true ∧ cyclesTo (tbGet s.time x.tb) (2000 * 2 ^ 32) = some 2000 ∧ s.triad.safe = safe) ∧
    (let x : PpsOut := { en := true, tb := 0, start := 0, period := 1000, width := 100, level := true, next := some 2000, fallAt := some 50, lastFall := none }
     let s : State := { State.reset with time := { State.reset.time with ppsOut := [(3, x)] } }
     getPpsOut s 3 = x ∧ x.fallAt = some 50 ∧ s.localNs ≤ 50) := by decide +kernel

theorem plain_of {s : State} (h : s.gate.committed = [] ∧ s.gh.relStep = 0 ∧ s.screen.deferred = none ∧ s.engine.armed = none ∧ (s.pair.rx = none ∧ s.pair.rxMiss = []) ∧
    (s.pair.role = .follow → s.pair.peerRole = 1 ∨ s.pair.peerRole = 4 → s.pair.lane0 = false ∧ s.pair.lane1 = false) ∧ (tierBusy s false = false ∧ tierBusy s true = false) ∧
    s.pair.role ≠ .rejoin ∧ (s.pair.en = false → s.pair.role = .off)) : PlainBoundary s :=
  ⟨h.1, h.2.1, h.2.2.1, h.2.2.2.1, h.2.2.2.2.1, h.2.2.2.2.2.1, h.2.2.2.2.2.2.1, h.2.2.2.2.2.2.2.1, h.2.2.2.2.2.2.2.2⟩

theorem witness_TickBoundary :
    PlainBoundary State.reset ∧ (boundaryDue State.reset = some (125000, 125000) ∧ State.reset.pair.en = false ∧ State.reset.triad.coasting = false ∧
      State.reset.triad.tickProg ≠ .raised ∧ State.reset.triad.tickProg ≠ .entered ∧ State.reset.triad.fault = false ∧ isFrozen State.reset 0x200 = false) ∧
    ({ State.reset with bench := { Bench.reset with running := false } } : State).bench.running = false :=
  ⟨plain_of (by decide +kernel), by decide +kernel, by decide +kernel⟩

/-- Tick 5 on a device of the pair. -/
def sTick (f : Pair → Pair) : State := { sPr f with bench := { Bench.reset with tickCount := 5 } }

theorem witness_BoundaryEvents :
    (∀ q ∈ [TickProg.raised, .entered], PlainBoundary (sTri fun t => { t with tickProg := q }) ∧ (boundaryDue (sTri fun t => { t with tickProg := q })).isSome = true ∧
      isFrozen (sTri fun t => { t with tickProg := q }) 0x200 = false) ∧
    (let s := sTri fun t => { t with coasting := true, limit := 7, coastBounds := 6 }
     PlainBoundary s ∧ (boundaryDue s).isSome = true ∧ s.pair.en = false ∧ s.triad.coasting = true ∧ s.triad.safe = false ∧ s.triad.coastBounds + 1 = s.triad.limit) ∧
    (let s := sTick fun p => { p with role := .follow, lane0 := false }
     PlainBoundary s ∧ (boundaryDue s).isSome = true ∧ s.pair.orders = [] ∧ s.triad.coasting = false ∧ s.triad.tickProg = .none ∧ s.pair.released = false ∧ s.pair.lagDue = false ∧
       tickGap 6 s.pair.lastRenew ≥ s.pair.leaseLen) ∧
    (let s := sTick fun p => { p with role := .lead, acked := true, lastAck := 4 }
     PlainBoundary s ∧ (boundaryDue s).isSome = true ∧ s.pair.yieldOnLoss = true ∧ s.pair.acked = true ∧ tickGap 6 (s.pair.heir.getD s.pair.lastAck) ≥ (s.pair.leaseLen : Int) - 1) ∧
    (let s := sTick fun p => { p with role := .active, reqTick := some 5 }
     PlainBoundary s ∧ (boundaryDue s).isSome = true ∧ s.pair.reqTick.isSome = true ∧ s.pair.granted = false ∧ s.pair.joinPending = false) := by
  refine ⟨fun q hq => ?_, ⟨plain_of (by decide +kernel), by decide +kernel⟩, ⟨plain_of (by decide +kernel), by decide +kernel⟩,
    ⟨plain_of (by decide +kernel), by decide +kernel⟩, ⟨plain_of (by decide +kernel), by decide +kernel⟩⟩
  simp only [List.mem_cons, List.not_mem_nil, or_false] at hq
  rcases hq with rfl | rfl <;> exact ⟨plain_of (by decide +kernel), by decide +kernel, by decide +kernel⟩

/-! ### Witnesses: the host and the registers -/

/-- The host link up, credits withheld or not. -/
def sHost (stall : Bool) : State :=
  { State.reset with host := { State.reset.host with linkUp := true, tallyWait := false }, fence := { Fence.reset with hostStall := stall } }

theorem witness_HostLink :
    (deviceRuns State.reset = true ∧ State.reset.host.linkUp = false) ∧ (deviceRuns (sHost false) = true ∧ (sHost false).host.linkUp = true ∧ (sHost false).fence.hostStall = false) ∧
    (deviceRuns (sHost true) = true ∧ (sHost true).fence.hostStall = true ∧ (sHost true).cores.Pairwise (fun a b => a.1 < b.1)) ∧
    (let s : State := { sHost false with fence := { Fence.reset with frozen := [0x220] } }
     deviceRuns s = true ∧ s.host.linkUp = true ∧ isFrozen s 0x220 = true) := by decide +kernel

/-- A TX entry of type t for n bytes at offset o. -/
def txe (t n o : Nat) : List Byte := z 8 ++ leBytes 4 (2 ^ 30 * t + n) ++ z 4 ++ leBytes 4 o ++ z 12

/-- Pair 63 enabled with that entry at its head. -/
def sTx (t n o : Nat) : State :=
  let s := sHost false
  setPair' { s with host := { s.host with hostMem := memPut [] 0 (txe t n o) } } 63 { QPair.reset 63 with en := true, txTail := 1 }

theorem witness_HostQueues :
    (readerRuns (sHost false) .host = true ∧ (getPair (sHost false) 63).en = false ∧ memWf (sHost false).host.hostMem = true ∧ (z 64).length = 64 ∧ (z 32).length = 32) ∧
    (readerRuns (sTx 1 8 0) .host = true ∧ (getPair (sTx 1 8 0) 63).en = true) ∧
    (∀ e ∈ [(1, 8, 0), (1, 4194304, 2 ^ 28 - 4194304), (1, 8, 2 ^ 28), (0, 64, 0), (0, 16383, 0)], let s := sTx e.1 e.2.1 e.2.2
      let x := getPair s 63
      deviceRuns s = true ∧ s.host.linkUp = true ∧ s.fence.hostStall = false ∧ x.en = true ∧ x.stopped = false ∧ isFrozen s (0x221 + x.group) = false ∧ x.txHead ≠ x.txTail ∧
      im32 (txEntry s x) 8 / 2 ^ 30 = e.1 ∧ im32 (txEntry s x) 8 % 2 ^ 23 = e.2.1 ∧ im32 (txEntry s x) 0x10 = e.2.2) ∧
    (let s := hostWrite (sTx 0 64 0) 0 (List.replicate 64 7#8)
     let f := withFcs (memBytes s.host.hostMem 0 64)
     match takeCells (poolOf s 56 (ingressClass s 56 f)) (cellsFor f.length) s with
      | (s2, some _) => (takeDesc s2).isSome | _ => false) = true := by decide +kernel

/-- Ring r with n messages, after k sends in this tick. -/
def sRing (r n k : Nat) : State :=
  setRing (sHost false) r { MailRing.reset with msgs := List.replicate n { word0 := 0, bytes := z 4 }, sends := k }

theorem witness_Mailboxes :
    (∀ e ∈ [(Reader.tally 3, 3), (.host, 4), (.triad, 8), (.triad, 12)], ∀ n ∈ [0, 15, 16], ∀ k ∈ [63, 64], let s := sRing e.2 n k
      readerRuns s e.1 = true ∧ (ringEnds e.2).any (fun p => decide (p.1 = readerMaster e.1 ∧ p.1 ≠ p.2)) = true ∧ (getRing s e.2).msgs.length = n ∧ (getRing s e.2).sends = k) ∧
    (∀ e ∈ [(Reader.triad, 3), (.triad, 4), (.tally 0, 8), (.host, 12)], ∀ n ∈ [0, 1], let s := sRing e.2 n 0
      readerRuns s e.1 = true ∧ (ringEnds e.2).any (fun p => decide (p.2 = readerMaster e.1 ∧ p.1 ≠ p.2)) = true ∧ (getRing s e.2).msgs.length = n) ∧
    (readerRuns (sHost false) .host = true ∧ (ringEnds 3).any (fun p => decide (p.1 ≠ readerMaster .host ∧ p.2 ≠ readerMaster .host ∧ p.1 ≠ p.2)) = true) := by decide +kernel

theorem witness_RegisterAccess :
    (∀ who ∈ [Reader.triad, .tally 3, .host], readerRuns (sHost false) who = true) ∧
    ((getCore (sHost false) 0).pl = 2#2 ∧ tblWf 0 (sHost false).bench.hiLatch = true ∧ tblWf TbLatch.zero (sHost false).time.latches = true ∧
      tblWf 0 (sHost false).host.evqAck = true) ∧
    ((0x3001FFFFF8#40).toNat % 8 = 0 ∧ 0x3000000000 ≤ (0x3001FFFFF8#40).toNat ∧ (0x3001FFFFF8#40).toNat < 0x3002000000 ∧ (0x3001FFFFFC#40).toNat % 8 ≠ 0) ∧
    (∀ who ∈ [Reader.triad, .tally 0], ∀ k ∈ readerCores (sHost false) who, accessTrap k (getCore (sHost false) k) ((0x3000000000#40).zeroExtend 64) 8 1 false = none) ∧
    (accessTrap 3 (getCore (sHost false) 3) ((0x3000000004#40).zeroExtend 64) 8 1 false).isSome = true := by decide +kernel

/-- Each block idle, in reset, without power and coming up; Face with an enabled port. -/
theorem witness_BlockControl :
    readerRuns State.reset .triad = true ∧
    (∀ i < 12, let n := if i < 11 then i + 1 else 15
      (getBlock State.reset n).busy = false ∧ (getBlock State.reset n).power = true ∧ (getBlock State.reset n).rising = false ∧ blockIdle State.reset n = true ∧
      readerRuns (setBlock State.reset n { Block.reset with power := false }) .triad = true ∧
      (getBlock (setBlock State.reset n { Block.reset with power := false }) n).power = false ∧
      (getBlock (setBlock State.reset n { Block.reset with busy := true }) n).busy = true ∧
      (getBlock (setBlock State.reset n { Block.reset with rising := true }) n).rising = true) ∧
    (blockIdle (sFp 55 fun x => { x with enable := true }) 1 = false ∧ State.reset.face.ports.Pairwise (fun a b => a.1 < b.1)) := by decide +kernel

theorem witness_HostCommands :
    (readerRuns (sHost false) .host = true ∧ readerRuns (sHost false) (.tally 3) = true ∧ (sHost false).host.xspiOwner = 0x3FF ∧ (sHost false).host.cmdLive = none ∧
      (z 1088).length = 1088 ∧ memWf (sHost false).host.cmdBlock = true) ∧
    (let s : State := { State.reset with host := { State.reset.host with xspiOwner := 0x213, tallyWait := false, cmdLive := some { bytes := z 1088 } } }
     deviceRuns s = true ∧ s.host.cmdLive = some { bytes := z 1088 } ∧ s.host.xspiOwner = 0x213) := by decide +kernel

/-- Active, with a token of 1,872 bytes in verification. -/
def sToken : State := { State.reset with host := { State.reset.host with dbgLive := some { bytes := z 1872 } }, gh := { Gatehouse.reset with mode := .active } }

theorem witness_DebugPort :
    (tapLive State.reset = true ∧ ([] : List (BitVec 32)).length ≤ 1024 ∧ memWf State.reset.host.dbgWindow = true ∧ deviceRuns State.reset = true) ∧
    ((sHost false).host.dbgLive = none ∧ readerRuns (sHost false) .host = true ∧ State.reset.host.dbgLive = none) ∧
    (deviceRuns sToken = true ∧ sToken.host.dbgLive = some { bytes := z 1872 } ∧ sToken.pair.role ≠ .lead ∧ sToken.gh.mode = .active) := by decide +kernel

/-- The reset state with the Gatehouse changed. -/
def sGh (f : Gatehouse → Gatehouse) : State := { State.reset with gh := f Gatehouse.reset }

theorem witness_Resets :
    (∀ m ∈ [Mode.dormant, .waking, .retained], (sGh fun g => { g with mode := m }).gh.relStep = 0 ∧ (sGh fun g => { g with mode := m }).gh.mode ≠ .off ∧
      (sGh fun g => { g with mode := m }).gh.sleepState ≠ .committed ∧
      inReset (sGh fun g => { g with mode := m }) = false) ∧
    (∀ e ∈ [(2, 2), (3, 2), (4, 2), (3, 16)], let s := sGh fun g => { g with relStep := 1, effReach := e.1, asserted := e.2 }
      s.gh.relStep ≠ 0 ∧ s.gh.effReach = e.1) ∧
    (let s := sGh fun g => { g with relStep := 1, asserted := 16 }
     s.gh.asserted &&& 7 = 0 ∧ s.gh.asserted &&& (2 ^ 21 - 4) ≠ 0 ∧ s.gh.asserted &&& (2 ^ 21 - 5) ≠ 0) ∧
    (let s := sGh fun g => { g with relStep := 1, asserted := 2 }
     s.gh.asserted &&& 7 ≠ 0 ∧ s.gh.asserted &&& (2 ^ 21 - 4) = 0) ∧
    (let s := sGh fun g => { g with relStep := 1, asserted := 4 }
     s.gh.asserted &&& (2 ^ 21 - 5) = 0) := by decide +kernel

theorem witness_RailEvents :
    (∀ i < 6, bitOf State.reset.gh.pen i = true) ∧ (State.reset.gh.mode ≠ .off ∧ State.reset.gh.mode ≠ .dormant ∧ State.reset.gh.sleepState ≠ .committed ∧
      State.reset.gh.relStep = 0) ∧
    (let s := sGh fun g => { g with relStep := 2, pen := 1, pgFails := 2 }
     bitOf s.gh.pen 0 = true ∧ s.gh.relStep ≠ 0 ∧ s.gh.pgFails = 2) ∧
    (∀ e ∈ [(63, 5), (1, 0)], let s := sGh fun g => { g with sleepState := .committed, pen := e.1 }
      s.gh.sleepState = .committed ∧ s.gh.target = .dormant ∧ s.gh.entryDone = false ∧ bitOf s.gh.pen e.2 = true ∧ s.gh.pen < 2 ^ (e.2 + 1)) ∧
    (sGh fun g => { g with sleepState := .committed, pen := 0 }).gh.pen = 0 := by decide +kernel

/-- A header without sections. -/
theorem witness_StartEvents :
    (let s := sGh fun g => { g with relStep := 4 }
     s.gh.asserted = 0 ∧ s.gh.relStep = 4 ∧ 0#2 ≠ 3#2) ∧
    (let s := sGh fun g => { g with relStep := 5 }
     s.gh.relStep = 5 ∧ s.gh.asserted = 0 ∧ bitOf s.gh.pgood 5 = true ∧ s.triad.voter = .sound ∧ s.vault.boot.tries = 0 ∧ s.cores.Pairwise (fun a b => a.1 < b.1)) ∧
    (State.reset.gh.bootPending = true ∧ State.reset.gh.asserted = 0 ∧ State.reset.gh.relStep = 0 ∧ State.reset.gh.mode = .waking ∧ State.reset.gh.sleepState ≠ .committed) ∧
    (∀ n ∈ [0, 1], let s : State := { State.reset with vault := { Vault.reset with boot := { Vault.reset.boot with tries := n } } }
      s.gh.resuming = false ∧ s.gh.bootsel = 0 ∧ s.vault.boot.headerOk = false ∧ s.vault.boot.tries = n ∧ n < 2 ∧ suhildSections (z 1872) = 0 ∧ s.gh.relStep = 0) := by decide +kernel

/-- Each kind of wake event in a state that has it enabled; each mode of the device that takes one. -/
theorem witness_SleepAndWake :
    (∀ m ∈ [(Mode.retained, SleepState.none), (.active, .committed), (.dormant, .none), (.active, .agreed), (.active, .none)],
      let s := sGh fun g => { g with mode := m.1, sleepState := m.2, wakeEn := 1, edge := 2 }
      WakeCommand s (.wakePinEdge 0 true) 1 0 ∧ wakeArmed s 1 = (m.2 != .none || m.1 != .active) ∧ wakeHandled s = false ∧ s.gh.asserted = 0 ∧ s.gh.relStep = 0) ∧
    (let s := sGh fun g => { g with resuming := true, wakeEn := 1, edge := 2 }
     WakeCommand s (.wakePinEdge 0 true) 1 0 ∧ wakeArmed s 1 = true ∧ wakeHandled s = true) ∧
    (let s := sGh fun g => { g with mode := .dormant, canEn := 8, seen := 1 }
     WakeCommand s (.gatehouseBusWake false 3) 6 3 ∧ wakeArmed s 6 = true ∧ s.gh.lockout = false ∧ s.gh.seen ≠ 0 ∧ s.gh.asserted = 0 ∧ s.gh.relStep = 0) ∧
    (∀ e ∈ [(none, 5), (some 9, 0), (some 9, 5)], let s := sGh fun g => { g with mode := .active, timerAt := e.1, timerS := e.2 }
      s.gh.timerAt = none ∨ s.gh.timerS = 0 ∨ wakeArmed s 5 = false) ∧
    (∀ m ∈ [Mode.retained, .dormant], let s := sGh fun g => { g with mode := m, timerAt := some 9, timerS := 5 }
      s.gh.timerAt = some 9 ∧ s.gh.timerS ≠ 0 ∧ wakeArmed s 5 = true ∧ wakeHandled s = false ∧ s.gh.mode = m ∧ s.gh.asserted = 0 ∧ s.gh.relStep = 0) ∧
    (let s : State := { sGh fun g => { g with mode := .active, sleepState := .agreed, target := .retained, tc10Mask := 8 } with
        face := { Face.reset with ports := [(3, { FacePort.reset 3 with tc10 := 2 }), (4, { FacePort.reset 4 with up := true, link := true })] } }
     s.gh.sleepState = .agreed ∧ sleepLeaves s = true ∧ (∀ m < 32, bitOf s.gh.tc10Mask m = true → (getFp s m).tc10 = 2) ∧ s.face.ports.Pairwise (fun a b => a.1 < b.1) ∧
       s.gh.target = .retained ∧ (getFp s 4).link = true) ∧
    (∀ n ∈ [0, 1], let s := sGh fun g => { g with mode := .active, sleepState := .committed, target := .retained, seen := n }
      s.gh.target = .retained ∧ s.gh.entryDone = false ∧ s.pair.role = .off ∧ s.gh.seen = n) ∧
    (sGh fun g => { g with resuming := true }).gh.mode = .waking ∧ State.reset.triad.lockstepBroken = false ∧ (sGh fun g => { g with resuming := true }).gh.resuming = true := by
  refine ⟨fun m hm => ?_, ⟨.inl ⟨0, true, rfl, rfl, rfl, by show bitOf 1 0 = true; decide +kernel, .inl (by show 2 / 4 ^ 0 % 4 = 2; decide)⟩, by decide +kernel⟩,
    ⟨.inr ⟨false, 3, by decide +kernel⟩, by decide +kernel⟩, by decide +kernel, by decide +kernel, by decide +kernel, by decide +kernel, by decide +kernel, by decide +kernel⟩
  have h : ∀ m ∈ [(Mode.retained, SleepState.none), (.active, .committed), (.dormant, .none), (.active, .agreed), (.active, .none)],
      let s := sGh fun g => { g with mode := m.1, sleepState := m.2, wakeEn := 1, edge := 2 }
      wakeArmed s 1 = (m.2 != .none || m.1 != .active) ∧ wakeHandled s = false ∧ s.gh.asserted = 0 ∧ s.gh.relStep = 0 := by decide +kernel
  exact ⟨.inl ⟨0, true, rfl, rfl, rfl, by show bitOf 1 0 = true; decide +kernel, .inl (by show 2 / 4 ^ 0 % 4 = 2; decide)⟩, h m hm⟩

/-! ### Witnesses: the whole machine -/

theorem witness_EventQueue :
    State.reset.bench.running = true ∧ State.reset.events.recs = [] ∧ State.reset.events.count = 0 ∧ State.reset.events.lost = 0 ∧
    State.reset.events.nextSeq + (List.replicate 65537 (1, [0, 0, 0, 0])).length < 2 ^ 64 :=
  ⟨by decide +kernel, by decide +kernel, by decide +kernel, by decide +kernel, by rw [List.length_replicate]; decide +kernel⟩

theorem witness_DecodeOfEncode :
    (agentOf (.add (.thread 511) fA) = some (.thread 511) ∧ words (.add (.thread 511) fA) = some (encA 0 fA 0, none) ∧ canonical (.add (.thread 511) fA) = true) ∧
    (agentOf (.commit .triad (fX 9#32)) = some .triad ∧ words (.commit .triad (fX 9#32)) = some (encX 0x71 (fX 9#32) 0, some 9#32) ∧ canonical (.commit .triad (fX 9#32)) = true) := by
  decide +kernel

theorem next_of {i : Instr} {s : State} (h : (match exec i s with | .next _ => true | _ => false) = true) : exec i s = .next (after i s) := by
  unfold after
  split at h <;> simp_all

theorem witness_PacketIsolation : agentOf (.add (.thread 0) fA) = some (.thread 0) ∧ exec (.add (.thread 0) fA) sT = .next (after (.add (.thread 0) fA) sT) :=
  ⟨by decide +kernel, next_of (by decide +kernel)⟩

/-- The state after one step. -/
def stepped (s : State) : State := match step s with | .next t => t | _ => s

theorem stepped_of {s : State} (h : (match step s with | .next _ => true | _ => false) = true) : step s = .next (stepped s) := by
  unfold stepped
  split at h <;> simp_all

theorem witness_OtpWriteOnce : (let s : State := { sRoot with pending := [.bootGo] }
    step s = .next (stepped s)) ∧ getOtp sRoot 0 ≠ blankSlot ∧ stepTaken sRoot 1 = true := by
  refine ⟨stepped_of (by decide +kernel), ?_, by decide +kernel⟩
  have : getOtp sRoot 0 = { header := 1, value := 5, check := slotCheck 1 5 0 } := rfl
  simp [this, blankSlot]

theorem witness_LevelsStayLegal : (let s : State := { State.reset with pending := [.bootGo] }
    step s = .next (stepped s)) ∧ LevelInv State.reset := by
  refine ⟨stepped_of (by decide +kernel), by decide +kernel, fun k => ?_, fun k hk => ?_, fun op h => (by cases h), fun op h => (by cases h)⟩
  · show (SCore.reset k).pl ≠ 3#2
    unfold SCore.reset; split <;> decide +kernel
  · show (SCore.reset k).pl ≠ 2#2 ∧ (SCore.reset k).latched.getLsbD 5 = false
    unfold SCore.reset; rw [if_neg (by omega)]; decide +kernel

/-! ### WellFormed: a term of each kind that its check refuses -/

/-- On an engine thread: a field that must be 0 (R50), an opcode of the cores (R42), a loop of no pass and one of no word (R64), a LOOPR over its
cap, a key that runs past w63, a share with a master that does not exist, a terminal with a field set, and a plane X word. -/
theorem test_refused_on_threads :
    [Instr.bswap (.thread 0) ⟨5#6, 2#6, 3#6, 0#3⟩, .divu (.thread 0) fA, .loop (.thread 0) ⟨0#6, 0#6, 5#10, 0#3⟩, .loop (.thread 0) ⟨0#6, 2#6, 0#10, 0#3⟩,
      .loopr (.thread 0) ⟨13#6, 2#6, 5#10, 0#3⟩, .lkpExact (.thread 0) ⟨5#6, 61#6, 0#6, 0#3, 0x08000000#32⟩, .share (.thread 0) ⟨0#6, 2#6, 0#6, 0#3, 0x250#32⟩,
      .punt (.thread 0) ⟨0#6, 2#6, 0#6, 0#3, 0x80#32⟩, .commit (.thread 0) (fX 0#32)].all (fun i => !wellFormed i) = true := by decide +kernel

/-- On the cores: a field that must be 0, a packet X word, a program-store word of the engines, and a plane X word with a reserved bit. -/
theorem test_refused_on_cores :
    [Instr.csrr (.tally 0) ⟨5#6, 2#6, 0#10, 0#3⟩, .xtr (.tally 0) (fX 0#32), .loop (.tally 0) ⟨0#6, 3#6, 5#10, 0#3⟩, .stage .triad (fX 1#32),
      .leaseTake .triad ⟨5#6, 2#6, 0#6, 0#3, 0#32⟩].all (fun i => !wellFormed i) = true := by decide +kernel

theorem test_accepted : [Instr.add (.thread 0) fA, .divu (.tally 0) fA, .loop (.thread 0) ⟨0#6, 3#6, 5#10, 0#3⟩, .commit .triad (fX 9#32), .bootGo].all wellFormed = true := by decide +kernel

/-! ### Words that the spec works out (R50 and the worked examples of chapters 2 and 3) -/

theorem test_decode_chapter_2 :
    decodeWords (.thread 7) 0x50304468#32 none = some (.extu (.thread 7) ⟨6#6, 2#6, 141#10, 0#3⟩) ∧
    decodeWords (.thread 7) 0x5688C038#32 none = some (.cmpeqi (.thread 7) ⟨17#6, 6#6, 7#10, 0#3⟩) ∧
    decodeWords (.thread 7) 0xA1200005#32 none = some (.br (.thread 7) ⟨true, 1#3, 5#21⟩) := by decide +kernel

/-- LOOP's word as the derivation under the table gives it (log entry 171). -/
theorem test_decode_chapter_3 :
    decodeWords (.thread 7) 0xA6006028#32 none = some (.loop (.thread 7) ⟨0#6, 3#6, 5#10, 0#3⟩) ∧
    decodeWords (.thread 7) 0xC4AAC000#32 (some 0x000F0000#32) = some (.xtr (.thread 7) ⟨21#6, 22#6, 0#6, 0#3, 0x000F0000#32⟩) ∧
    decodeWords (.thread 7) 0x48A28080#32 none = some (.slli (.thread 7) ⟨20#6, 20#6, 16#10, 0#3⟩) ∧
    decodeWords (.thread 7) 0x02A28A88#32 none = some (.or (.thread 7) ⟨20#6, 20#6, 21#6, 0#3⟩) ∧
    decodeWords (.thread 7) 0x40B2C080#32 none = some (.addi (.thread 7) ⟨22#6, 22#6, 16#10, 0#3⟩) ∧
    decodeWords (.thread 7) 0xCA528000#32 (some 5#32) = some (.lkpExact (.thread 7) ⟨10#6, 20#6, 0#6, 0#3, 5#32⟩) ∧
    decodeWords (.thread 7) 0xA0E00003#32 none = some (.br (.thread 7) ⟨false, 7#3, 3#21⟩) ∧
    decodeWords (.thread 7) 0xD6014000#32 (some 0x1000#32) = some (.enq (.thread 7) ⟨0#6, 10#6, 0#6, 0#3, 0x1000#32⟩) ∧
    decodeWords (.thread 7) 0xD8000008#32 (some 0#32) = some (.punt (.thread 7) ⟨0#6, 0#6, 0#6, 0#3, 0#32⟩) := by decide +kernel

/-- A reserved opcode names no command, and no command has bits of its own (the table gives none). -/
theorem test_decode_refuses : decodeWords (.thread 7) 0xFE000000#32 none = none ∧ decodeTableWord 32 0x50304468 = none := by decide +kernel

/-! ### Figures that the spec works out -/

/-- The program of chapter 3's worked example costs C = 21, U = 95 and W_C = 207. -/
theorem test_program_figures :
    progFig [0xA6006028, 0xC4AAC000, 0x000F0000, 0x48A28080, 0x02A28A88, 0x40B2C080, 0xCA528000, 5, 0xA0E00003, 0xD6014000, 0x1000, 0xD8000008, 0]
      = { c := 21, u := 95, wc := 207 } := by decide +kernel

/-- The fabric cell header of chapter 7's worked example. -/
theorem test_cell_header :
    (cellHeader { zeroHdr with src := 1, dst := 2, vc := 3, sof := true, bytes := 240, seq := 0x123, queue := 1234, credVc := 5, credits := 0x3A0, len := 1500, direct := true }).take 12
      = [0x01#8, 0x27#8, 0x3C#8, 0x00#8, 0x48#8, 0xC0#8, 0x26#8, 0x91#8, 0x4E#8, 0x80#8, 0x5D#8, 0xC8#8] := by decide +kernel

/-- HALT_BOUND_NS of B0 at 25 Gb/s (694) and of E4 at 1 Gb/s with preemption (1,384), as chapter 8 works them out. -/
theorem test_halt_bound :
    (let s := setFp State.reset 0 { getFp State.reset 0 with up := true, speed := 6 }
     let s := onPort s 0 fun x => { x with maxExpress := 1522 }
     haltBound { s with haul := { s.haul with haltOut := 1 } } 0 = 694) ∧
    (let s := setFp State.reset 12 { getFp State.reset 12 with up := true, speed := 2 }
     let s := onPort s 12 fun x => { x with maxExpress := 128, preempt := 0x7F, addFrag := 0 }
     haltBound { s with haul := { s.haul with haltOut := 2 ^ 12 } } 12 = 1384) := by decide +kernel

/-- The Relay frame of a CAN FD frame of 24 bytes is 70 bytes long, with an ntscf_data_length of 40 (chapter 11). -/
theorem test_relay_frame :
    let m : CanMsg := { classicalFrame true 0x0CF00403 (z 24) with fmt := .fd }
    (acfCan m 5 0).length = 40 ∧ (acfCan m 5 0).take 2 = [0x02#8, 0x0A#8] ∧ (relayFrame State.reset false 0x85 0 (acfCan m 5 0)).length = 70 := by decide +kernel

/-- The check words of the ASCII digits 1 to 9: CRC-32 and CRC-32C. -/
theorem test_crc :
    let m := [0x31#8, 0x32#8, 0x33#8, 0x34#8, 0x35#8, 0x36#8, 0x37#8, 0x38#8, 0x39#8]
    crc32 m = 0xCBF43926 ∧ crc32c m 0xFFFFFFFF#32 = 0xE3069283#32 := by decide +kernel

/-- w0 reads zero after a write, and p0 reads 1 (R43). -/
theorem test_registers :
    rget (rset (getThread sT 0).regs 0 5#64) 0 = 0#64 ∧ pget (getThread sT 0).regs 0 = true := by decide +kernel


/-! ### Witnesses of the clauses on faults, refusals and boundaries -/

/-- Thread 0 with both stacks full, or empty; w2 holds 5. -/
def sFull (full : Bool) : State := withThread State.reset { thOf pk with
  w := [(2, 5#64)]
  rstack := if full then List.replicate 4 8#64 else [], lstack := if full then List.replicate 4 { start := 0#64, stop := 0x100#64, remaining := 2 } else [] }

/-- CALL, LOOP and LOOPR on full stacks and RET on an empty one; RET, JR and CALLR of a core to addresses that are no multiples of 4. -/
theorem witness_ControlFaults :
    (ThreadReady (sFull true) 0 (encB 0x51 fB) none pk ∧ pget (getThread (sFull true) 0).regs fB.p.toNat = fB.t ∧ 4 ≤ (getThread (sFull true) 0).rstack.length) ∧
    (ThreadReady (sFull false) 0 (encA 0x52 ⟨0#6, 0#6, 0#6, 0#3⟩ 0) none pk ∧ (getThread (sFull false) 0).rstack = []) ∧
    (ThreadReady (sFull true) 0 (encI 0x53 ⟨0#6, 2#6, 5#10, 0#3⟩) none pk ∧ 4 ≤ (getThread (sFull true) 0).lstack.length) ∧
    (ThreadReady (sFull true) 0 (encI 0x54 ⟨12#6, 2#6, 5#10, 0#3⟩) none pk ∧ rget (getThread (sFull true) 0).regs 2 ≠ 0#64) ∧
    (let s := withCore 3 { SCore.tallyReset with w := [(2, 6#64), (63, 5#64)] }
     CoreReady s (.tally 0) 3 (encA 0x52 ⟨0#6, 0#6, 0#6, 0#3⟩ 0) none ∧ CoreReady s (.tally 0) 3 (encA 0x55 ⟨0#6, 2#6, 0#6, 0#3⟩ 0) none ∧
     CoreReady s (.tally 0) 3 (encA 0x55 ⟨0#6, 2#6, 0#6, 0#3⟩ 1) none ∧ (rget (getCore s 3).regs 63).toNat % 4 ≠ 0 ∧ (rget (getCore s 3).regs 2).toNat % 4 ≠ 0) :=
  ⟨⟨threadReady_of (by decide +kernel), by decide +kernel⟩, ⟨threadReady_of (by decide +kernel), by decide +kernel⟩,
   ⟨threadReady_of (by decide +kernel), by decide +kernel⟩, ⟨threadReady_of (by decide +kernel), by decide +kernel⟩,
   coreReady_of (by decide +kernel), coreReady_of (by decide +kernel), coreReady_of (by decide +kernel), by decide +kernel⟩

/-- The three cores of the lockstep Triad at both ends of their memories, and misaligned by one. -/
theorem witness_LockstepMemory :
    (∀ a ∈ [lm 0, lm 0x3FFFF8], ∀ k ∈ agentCores (sV (BitVec.ofNat 64 a) 0#64) .triad,
      CoreReady (sV (BitVec.ofNat 64 a) 0#64) .triad k (encI 0x43 fI) none ∧
      (let c := getCore (sV (BitVec.ofNat 64 a) 0#64) k
       let ea := eaOf c.regs fI
       ea.toNat % 8 = 0 ∧ userDenied c ea 8 2 = false ∧ userDenied c ea 8 1 = false ∧ 2 ^ 63 ≤ ea.toNat ∧ ea.toNat - 2 ^ 63 < localExtent k)) ∧
    agentCores (sV (BitVec.ofNat 64 (lm 1)) 0#64) .triad = [0, 1, 2] ∧
    ∀ k ∈ [0, 1, 2], (eaOf (getCore (sV (BitVec.ofNat 64 (lm 1)) 0#64) k).regs fI).toNat % 8 ≠ 0 := by
  refine ⟨fun a ha k hk => ?_, by decide +kernel, by decide +kernel⟩
  have h : ∀ a ∈ [lm 0, lm 0x3FFFF8], ∀ k ∈ agentCores (sV (BitVec.ofNat 64 a) 0#64) .triad,
      (coreChk (sV (BitVec.ofNat 64 a) 0#64) .triad k (encI 0x43 fI) none = true ∧ guardChk (getCore (sV (BitVec.ofNat 64 a) 0#64) k).regs (encI 0x43 fI) = true ∧
        (sV (BitVec.ofNat 64 a) 0#64).cores.Pairwise (fun a b => a.1 < b.1) ∧ tblWf 0#64 (getCore (sV (BitVec.ofNat 64 a) 0#64) k).w = true) ∧
      (let c := getCore (sV (BitVec.ofNat 64 a) 0#64) k
       let ea := eaOf c.regs fI
       ea.toNat % 8 = 0 ∧ userDenied c ea 8 2 = false ∧ userDenied c ea 8 1 = false ∧ 2 ^ 63 ≤ ea.toNat ∧ ea.toNat - 2 ^ 63 < localExtent k) := by decide +kernel
  exact ⟨coreReady_of (h a ha k hk).1, (h a ha k hk).2⟩

/-- Thread 0 names the chain of sOwn, which thread 1's packet holds as a standing speculation. -/
def sStanding : State :=
  let s := withThread sOwn { thOf pk with w := [(2, BitVec.ofNat 64 hOwn)] }
  { s with engine := { s.engine with threads := s.engine.threads ++ [(1, thOf { pk with handle := hOwn, spec := .standing })] } }

theorem witness_StandingChain :
    XReady sStanding 0 (xw 0x61 8 0#6 2#6 3#6) 0#32 pk ∧ handleState sStanding hOwn = .live (handleCell hOwn) ∧
    ∃ q ∈ packets sStanding, q.spec = .standing ∧ handleCell q.handle = handleCell hOwn :=
  ⟨xReady_of (by decide +kernel), by decide +kernel, by decide +kernel⟩

/-- Policer 0 with a stream gate that is closed. -/
def sPol (x : Policer) : State :=
  setSgate (setPolicer { sT with time := sTime.time } 0 x) 1 { GateState.none with active := some ({ gl with ents := [{ v := 0, op := 0, ivl := 1000 }] }, 0) }

/-- A policer of each case of the METER law: not configured, BLOCKED, oversize, gate closed; red, yellow and green of either marker. -/
def polOf (n : Nat) : Policer :=
  let x : Policer := { Policer.reset with mode := if n < 7 then 1 else 2, cbs := 100, pbs := 100 }
  match n with
  | 0 => Policer.reset
  | 1 => { x with blocked := true }
  | 2 => { x with maxSdu := 63 }
  | 3 => { x with sgEn := true, sg := 1 }
  | 4 => x
  | 5 => { x with pt := 64 * 65536 }
  | 6 => { x with pt := 64 * 65536, ct := 64 * 65536 }
  | 7 => { x with ct := 64 * 65536 }
  | 8 => { x with pt := 64 * 65536 }
  | _ => x

theorem witness_MeterCases :
    (∀ n < 10, XReady (sPol (polOf n)) 0 (xw 0x69 0 5#6 2#6 3#6) 0#32 pk) ∧
    (∀ n < 10, (bits (0#32).toNat 16 0 + xa (sPol (polOf n)) 0 (fX 0#32) % 2 ^ 17) % 2 ^ 17 = 0 ∧ xb (sPol (polOf n)) 0 (fX 0#32) % 4 = 0 ∧
      getPolicer (sPol (polOf n)) 0 = polOf n ∧ (polOf n).cu ≤ (sPol (polOf n)).localNs ∧ (polOf n).pu ≤ (sPol (polOf n)).localNs) ∧
    (∀ n < 10, let x := polOf n
      (x.mode = 0 ↔ n = 0) ∧ (x.blocked = true ↔ n = 1) ∧ (0 < x.maxSdu ∧ x.maxSdu < pk.len ↔ n = 2) ∧
      ((x.sgEn && (gateAt (sPol x) (getSgate (sPol x) x.sg) 0).1.any fun v => !v.v.testBit 4) = true ↔ n = 3)) ∧
    ((polOf 4).mode = 1 ∧ (polOf 4).pt < 64 * 65536 ∧ (polOf 5).mode = 1 ∧ 64 * 65536 ≤ (polOf 5).pt ∧ (polOf 5).ct < 64 * 65536 ∧
      (polOf 6).mode = 1 ∧ 64 * 65536 ≤ (polOf 6).pt ∧ 64 * 65536 ≤ (polOf 6).ct) ∧
    ((polOf 7).mode = 2 ∧ 64 * 65536 ≤ (polOf 7).ct ∧ (polOf 8).mode = 2 ∧ (polOf 8).ct < 64 * 65536 ∧ 64 * 65536 ≤ (polOf 8).pt ∧
      (polOf 9).mode = 2 ∧ (polOf 9).ct < 64 * 65536 ∧ (polOf 9).pt < 64 * 65536) := by
  refine ⟨fun n hn => ?_, by decide +kernel, by decide +kernel, by decide +kernel, by decide +kernel⟩
  have h : ∀ n < 10, xChk (sPol (polOf n)) 0 (xw 0x69 0 5#6 2#6 3#6) 0#32 pk = true := by decide +kernel
  exact xReady_of (h n hn)

/-- The cores of the Triad at a level, whose region 0 lets them fetch from the Boot ROM. -/
def sLevel (l : BitVec 2) : State :=
  let c : SCore := { SCore.triadReset with pl := l, regionBase := cUser.regionBase, regionLast := cUser.regionLast }
  { sT with cores := [(0, c), (1, c), (2, c)] }

def planeReady (s : State) (who : Agent) (k : Nat) (w y : BitVec 32) : Bool :=
  coreChk s who k w (some y) && guardChk (getCore s k).regs w && decide (s.cores.Pairwise fun a b => a.1 < b.1) && tblWf 0#64 (getCore s k).w

theorem coreReady_plane {s : State} {who : Agent} {k : Nat} {w y : BitVec 32} (h : planeReady s who k w y = true) : CoreReady s who k w (some y) := by
  simp only [planeReady, Bool.and_eq_true, decide_eq_true_eq] at h
  exact coreReady_of ⟨h.1.1.1, h.1.1.2, h.1.2, h.2⟩

/-- A STAGE, a KVERIFY and a KLOAD word: below their level on the Triad and a Tally core, and of a Tally core at their level. -/
theorem witness_PlaneRefusals :
    (((fun x => .stage x (fX 0#32), encX 0x70 (fX 0#32) 0, 0#32, 1) ∈ planeForms (fX 0#32)) ∧
      PlaneForm (fP 0#32) (fun x => .kloadLifecycle x (fP 0#32) true) (encX 0x77 (fP 0#32) 0) (kloadDesc (fP 0#32) 3) 2) ∧
    (∀ k ∈ agentCores (sLevel 0#2) .triad, CoreReady (sLevel 0#2) .triad k (encX 0x70 (fX 0#32) 0) (some 0#32) ∧ (getCore (sLevel 0#2) k).pl.toNat < 1) ∧
    (∀ k ∈ agentCores (sLevel 1#2) .triad, CoreReady (sLevel 1#2) .triad k (encX 0x77 (fP 0#32) 0) (some (kloadDesc (fP 0#32) 3)) ∧ (getCore (sLevel 1#2) k).pl.toNat < 2) ∧
    (CoreReady (withCore 3 cUser) (.tally 0) 3 (encX 0x70 (fX 0#32) 0) (some 0#32) ∧ (getCore (withCore 3 cUser) 3).pl.toNat < 1) ∧
    (CoreReady sT (.tally 0) 3 (encX 0x70 (fX 0#32) 0) (some 0#32) ∧ 1 ≤ (getCore sT 3).pl.toNat) ∧
    (CoreReady (withCore 3 { SCore.tallyReset with pl := 2#2 }) (.tally 0) 3 (encX 0x77 (fP 0#32) 0) (some (kloadDesc (fP 0#32) 3)) ∧
      2 ≤ (getCore (withCore 3 { SCore.tallyReset with pl := 2#2 }) 3).pl.toNat) := by
  refine ⟨⟨.head _, .inr (.inr ⟨true, rfl, rfl, rfl, rfl⟩)⟩, fun k hk => ?_, fun k hk => ?_, ⟨coreReady_plane (by decide +kernel), by decide +kernel⟩,
    ⟨coreReady_plane (by decide +kernel), by decide +kernel⟩, coreReady_plane (by decide +kernel), by decide +kernel⟩
  · have h : ∀ k ∈ agentCores (sLevel 0#2) .triad, planeReady (sLevel 0#2) .triad k (encX 0x70 (fX 0#32) 0) 0#32 = true ∧ (getCore (sLevel 0#2) k).pl.toNat < 1 := by decide +kernel
    exact ⟨coreReady_plane (h k hk).1, (h k hk).2⟩
  · have h : ∀ k ∈ agentCores (sLevel 1#2) .triad, planeReady (sLevel 1#2) .triad k (encX 0x77 (fP 0#32) 0) (kloadDesc (fP 0#32) 3) = true ∧ (getCore (sLevel 1#2) k).pl.toNat < 2 := by decide +kernel
    exact ⟨coreReady_plane (h k hk).1, (h k hk).2⟩

/-- The reset state with an open group. -/
def sOpen (g : List Obj) : State := { State.reset with gate := { CommitGate.reset with group := some g } }

/-- s with block n in reset. -/
def inBlockReset (s : State) (n : Nat) : State := setBlock s n { Block.reset with busy := true }

/-- A gate list image of one entry, and a SHAPER record. -/
def gatesImg : List Byte := z 12 ++ leBytes 4 1000 ++ z 4 ++ leBytes 4 64
def shaperImg : List Byte := leBytes 4 1000 ++ leBytes 4 2000 ++ leBytes 4 64 ++ leBytes 4 64

def obj (n t : Nat) (img : List Byte) (a : Nat) : Obj := { sub := n, typ := t, img := img, arg := a }

/-- Each refusal of STAGE, a group past each of its limits, and what GATELIST, SHAPER, EPOCH and BANK stage or refuse. -/
theorem witness_StagingCases :
    (blockRefuses (inBlockReset State.reset 7) 7 = true ∧ blockRefuses State.reset 7 = false ∧ (stageCheck State.reset 7 3 (z 4)).isSome = true ∧
      stageCheck State.reset 7 3 (stk 90#8 75#8) = none) ∧
    (4096 ≤ (List.replicate 4096 (obj 7 3 [] 0)).length ∧ ∃ n, 16 * 2 ^ 20 < ([obj 7 3 (List.replicate n 0#8) 0].map fun o => o.img.length).sum + 8) ∧
    (∀ n ∈ [9, 3, 4], blockRefuses (inBlockReset State.reset n) n = true ∧ blockRefuses State.reset n = false) ∧
    (¬ (55 < 55 ∨ 1024 < 1 ∨ 1 / 2048 ≠ 0 ∨ im32 gatesImg 0 / 2 ^ 16 % 2 ^ 14 ≠ 0 ∨ 1000000000 ≤ im32 gatesImg 8 ∨ im32 gatesImg 12 < 64 ∨ 1000000000 < im32 gatesImg 12) ∧
      (∀ j < 1, im32 gatesImg (0x10 + 8 * j) / 2 ^ 10 % 2 ^ 22 = 0 ∧ im32 gatesImg (0x10 + 8 * j) / 2 ^ 8 % 4 ≠ 3 ∧ 64 ≤ im32 gatesImg (0x14 + 8 * j)) ∧ im32 (z 24) 12 < 64) ∧
    (im32 shaperImg 0 / 2 ^ 26 % 64 = 0 ∧ im32 shaperImg 4 / 2 ^ 26 % 64 = 0 ∧ im32 shaperImg 8 / 2 ^ 24 % 256 = 0 ∧ im32 shaperImg 12 / 2 ^ 24 % 256 = 0 ∧
      im32 shaperImg 0 ≤ 50000000 ∧ im32 shaperImg 4 ≤ 50000000 ∧ 2 ^ 31 % 2 ^ 31 = 0 ∧ (3 * 2 ^ 20 + 63) / 2 ^ 22 = 0 ∧ (3 * 2 ^ 20 + 63) / 2 ^ 19 % 2 = 0 ∧ 64 ≤ (3 * 2 ^ 20 + 64) % 2 ^ 19) ∧
    (State.reset.screen.older = none ∧ State.reset.screen.deferred = none ∧ State.reset.gate.committed = [] ∧ ∃ o ∈ ((sOpen [obj 3 17 [] 0]).gate.group.getD []), o.sub = 3 ∧ o.typ = 17) :=
  ⟨by decide +kernel, ⟨by rw [List.length_replicate], 16 * 2 ^ 20, by simp only [obj, List.map_cons, List.map_nil, List.sum_cons, List.sum_nil, List.length_replicate]; omega⟩, by decide +kernel, by decide +kernel, by decide +kernel, by decide +kernel⟩

/-- A group whose routes name a domain that is not defined; one that only an STK_PARAMS object fails; a commit without objects; frozen Tally core 3, and a link
that is up and down. -/
theorem witness_CommitCases :
    (prepLookup (sOpen [obj 5 4 (leBytes 4 1 ++ leBytes 4 1 ++ z 32) 0]) [] [obj 5 4 (leBytes 4 1 ++ leBytes 4 1 ++ z 32) 0] [] 0).2.isSome = true ∧
    (plainFault (sGroup (stk 75#8 90#8)) 9 [obj 7 3 (stk 75#8 90#8) 0] [] 7).isSome = true ∧
    (∀ o ∈ [obj 7 3 (stk 75#8 90#8) 0], o.sub ≠ 5) ∧ (sGroup (stk 75#8 90#8)).lookup.tags = [] ∧
    (∃ c ∈ sCommitted.gate.committed, c.num = 0 ∧ c.frames = [] ∧ c.moves = [] ∧ c.objs = []) ∧
    (let s : State := { State.reset with fence := { Fence.reset with frozen := [0x213], heldInfo := [(0x213, 5)], heldPc := [(0x213, 9)] } }
     0x213 = 0x210 + 3 ∧ 0x213 ∈ s.fence.frozen ∧ s.cores.Pairwise (fun a b => a.1 < b.1)) ∧
    ((sPair .active true).pair.lane0 = true ∧ (sPair .active false).pair.lane0 = false ∧ (sPair .active false).pair.lane1 = false) := by decide +kernel

/-- Messages, keys and signatures that the three cores hold alike; a pending KSIGN with the IDK present as a re-mask pass comes. -/
theorem witness_VaultCases :
    (let s : State := { State.reset with vault := { Vault.reset with sign := some sigOp, verify := some sigOp } }
     s.triad.excluded = 0#3 ∧ s.triad.voter = .sound ∧ sigOp.mode = 0 ∧
     ∀ j ∈ vaultCores s sigOp.agent, Machine.localBytes (getCore s j) sigOp.msgEa sigOp.msgLen = z 16 ∧ Machine.localBytes (getCore s j) sigOp.keyEa 512 = z 512 ∧
       Machine.localBytes (getCore s j) sigOp.sigEa 512 = z 512) ∧
    (let s := sKeys 1 [(9, some (vk 0x100 0 false)), (16, some (vk 9 1 false))]
     let s : State := { s with vault := { s.vault with sign := some sigOp } }
     s.vault.keys.Pairwise (fun a b => a.1 < b.1) ∧ deviceRuns s = true ∧ s.vault.trngFail = false ∧ s.vault.sign.isSome = true ∧ (getKey s 9).isSome = true ∧
       (∀ t ∈ [{ s with vault := { s.vault with trngFail := true } }], t.vault.trngFail = true)) := by decide +kernel

/-- Queue 5's frame decided on node 3 and free to begin; a transmission that ends before it; one that has begun. -/
theorem witness_DecidedFrames :
    (let s := onPort sQ 3 fun x => { x with decided := some (txr dsc) }
     s.triad.safe = false ∧ txSa s 3 = none ∧ (getPort s 3).tx = none ∧ plcaWaits s 3 = false ∧ (getPort s 3).haltQ = [] ∧ (getPort s 3).decided = some (txr dsc) ∧
       mayBegin (advance s ((getPort s 3).freeAt - 128 - s.localNs)) 3 (txr dsc) (max s.localNs (getPort s 3).freeAt) = true) ∧
    (let s := onPort sQ 3 fun x => { x with tx := some (txr dsc), decided := some (txr dsc) }
     (getPort s 3).tx = some (txr dsc) ∧ dsc.spec = false ∧ (txr dsc).stomp = none ∧ (txr dsc).halt = false ∧ tblWf 0 s.counters = true ∧ (getPort s 3).haltQ = [] ∧
       portUp s 3 = true ∧ pfcPaused s 3 (txr dsc).tc = false ∧ (getQueue s dsc.queue).hold ≠ .holding ∧ (getPort s 3).preempted = none ∧ getGates s 3 = GateState.none) ∧
    (let s : State := { onPort sQ0 3 fun x => { x with tx := some (txr dsc) } with localNs := 1 }
     (getPort s 3).tx = some (txr dsc) ∧ txBegun s 3 (txr dsc) = true ∧ (∀ e ∈ s.haul.queues, (getQueue s e.1).frames = []) ∧
       (∀ n < 64, n ≠ 3 → (getPort s n).tx = none ∧ (getPort s n).decided = none) ∧ s.stock.spoil = [] ∧ tblWf QueueRec.reset s.haul.queues = true) ∧
    (let d : TxRec := { txr dsc with tc := 7 }
     let s := onPort (sPfc none) 55 fun x => { x with decided := some d }
     bitOf s.fabric.laneMask 7 = false ∧ (getFp s 55).up = true ∧ (getPort s 55).decided = some d ∧ d.halt = false ∧ d.tc = 7 ∧ (getPort s 55).tx = none ∧
       tblWf QueueRec.reset s.haul.queues = true ∧ s.haul.ports.Pairwise (fun a b => a.1 < b.1)) ∧
    (let e : SpoilEnt := { desc := { dsc with copy := true }, deadline := 1 }
     let s := setSpoil (setFp sQ0 3 { getFp sQ0 3 with up := false }) 3 [e]
     getSpoil s 3 = [e] ∧ queuePort s e.desc.queue ≠ none ∧ descends s e.desc.queue e.desc.arrVc = false ∧ copyGate s e.desc.queue = false) := by decide +kernel

/-- A header of two sections, of the Triad's and the Tally cores' images, with their TARGETs. -/
def hdr2 : List Byte := z 4 ++ [2#8] ++ z 62 ++ [1#8] ++ z 12 ++ leBytes 8 0x1000 ++ z 75 ++ [2#8] ++ z 12 ++ leBytes 8 0x2000 ++ z 1700

/-- An image that has passed, whose sections the Boot ROM has not entered yet, or has. -/
def sBoot (entered : Bool) (step : Nat) : State :=
  { State.reset with
      vault := { Vault.reset with boot := { Vault.reset.boot with headerOk := true, sound := true, header := hdr2, secs := [z 8, z 8], booted := entered } }
      gh := { Gatehouse.reset with relStep := step } }

theorem witness_BootCases :
    (let s := sBoot false 5
     s.gh.relStep = 5 ∧ s.gh.asserted = 0 ∧ bitOf s.gh.pgood 5 = true ∧ s.triad.voter = .sound ∧ s.triad.fault = false ∧ s.vault.boot.headerOk = true ∧
       s.vault.boot.sound = true ∧ s.vault.boot.booted = false ∧ s.cores.Pairwise (fun a b => a.1 < b.1) ∧ bootSection s 1 = some (0, z 8) ∧ bootSection s 2 = some (1, z 8) ∧
       im64 s.vault.boot.header 0x50 = 0x1000 ∧ im64 s.vault.boot.header 0xB0 = 0x2000) ∧
    (let s : State := { sBoot true 0 with triad := { Triad.reset with coasting := true }, fence := { Fence.reset with noTick := 2 } }
     deviceRuns s = true ∧ s.gh.wdtEn = true ∧ s.triad.coasting = true ∧ s.gh.mode ≠ .maintenance ∧ s.gh.restartTicks < s.fence.noTick ∧ s.triad.voter = .sound ∧
       s.vault.boot.booted = true ∧ bootSection s 1 = some (0, z 8)) ∧
    (∀ h ∈ [z 1872, hdr2], ∀ i < suhildSections h, secType h i ≠ 4) ∧
    (let s : State := { sSpall with vault := { sSpall.vault with boot := { sSpall.vault.boot with
        header := z 4 ++ [1#8] ++ z 62 ++ [3#8] ++ leBytes 4 28 ++ z 24 ++ shaBytes spall0 ++ z 1700 } } }
     s.gh.mode = .waking ∧ spallRead s spall0 = true ∧ spallRead s (z 27) = false ∧ s.vault.boot.spall = true) :=
  ⟨by decide +kernel, by decide +kernel, by decide +kernel, by decide +kernel⟩

/-- What PlainBoundary asks, as data. -/
abbrev PlainData (s : State) : Prop :=
  s.gate.committed = [] ∧ s.gh.relStep = 0 ∧ s.screen.deferred = none ∧ s.engine.armed = none ∧ (s.pair.rx = none ∧ s.pair.rxMiss = []) ∧
    (s.pair.role = .follow → s.pair.peerRole = 1 ∨ s.pair.peerRole = 4 → s.pair.lane0 = false ∧ s.pair.lane1 = false) ∧ (tierBusy s false = false ∧ tierBusy s true = false) ∧
    s.pair.role ≠ .rejoin ∧ (s.pair.en = false → s.pair.role = .off)

abbrev BoundaryData (s : State) : Prop :=
  boundaryDue s = some (125000, 125000) ∧ PlainData (calmed s) ∧ (s.pair.en = false ∧ s.pair.rx = none) ∧ s.triad.coasting = false ∧ s.triad.tickProg = .none

theorem boundary_of {s : State} (h : BoundaryData s) : AtBoundary s 125000 := ⟨⟨_, h.1⟩, plain_of h.2.1, h.2.2.1, h.2.2.2⟩

/-- A commit of objects for the next boundary. -/
def cmt (os : List Obj) : Commit := { num := 0, target := 1, objs := os, moves := [], frames := [], sas := [] }

/-- s with that commit alone. -/
def sDue (s : State) (os : List Obj) : State := { s with gate := { CommitGate.reset with committed := [cmt os], nextNum := 1 } }

theorem applies_of {s : State} {os : List Obj} (h : BoundaryData (sDue s os)) (h1 : 1 ≤ (s.bench.tickCount + 1) % 2 ^ 64) : Applies (sDue s os) 125000 (cmt os) os :=
  ⟨boundary_of h, rfl, h1, rfl, rfl, rfl⟩

/-- A commit for the tick after the next one; no commit. -/
theorem witness_BoundaryWaits :
    (let s : State := { State.reset with gate := { CommitGate.reset with committed := [{ cmt [obj 9 16 shaperImg 5] with target := 2 }] } }
     AtBoundary s 125000 ∧ s.screen.deferred = none ∧ s.engine.armed = none ∧ (∀ c ∈ s.gate.committed, (s.bench.tickCount + 1) % 2 ^ 64 < c.target)) ∧
    AtBoundary State.reset 125000 :=
  ⟨⟨boundary_of (by decide +kernel), by decide +kernel⟩, boundary_of (by decide +kernel)⟩

/-- An object of each kind that BoundaryObjects names: the TICK object changes P and sets the count to 7. -/
def applied : List Obj := [obj 9 16 shaperImg (3 * 2 ^ 20 + 5), obj 9 17 gatesImg (55 + 64), obj 9 1 (leBytes 4 5 ++ leBytes 4 1 ++ leBytes 4 (2 ^ 31) ++ leBytes 4 1) 0,
  obj 1 1 (leBytes 4 1 ++ leBytes 4 (55 * 2 ^ 26 + 2 ^ 25) ++ z 8) 0, obj 5 1 (leBytes 4 (2 ^ 31 + 3) ++ z 60) 0, obj 5 4 (leBytes 4 2 ++ leBytes 4 1 ++ z 32) 0,
  obj 10 5 (leBytes 4 (2 ^ 31 + 2 ^ 30 + 250) ++ z 4 ++ leBytes 8 7) 0, obj 5 2 (z 8) 0]

/-- Domain 2 defined, and tag 15 held by the commit. -/
def sApply : State := { sRoute with lookup := { sRoute.lookup with tags := [(15, .prepared 0)] } }

theorem witness_BoundaryObjects :
    (∀ o ∈ applied, Applies (sDue sApply [o]) 125000 (cmt [o]) [o] ∧ sApply.screen.deferred = none ∧ sApply.engine.armed = none ∧ o.sub ≠ 16) ∧
    (applied.map fun o => (o.sub, o.typ)) = [(9, 16), (9, 17), (9, 1), (1, 1), (5, 1), (5, 4), (10, 5), (5, 2)] ∧
    (tblWf Shaper.absent sApply.haul.shapers = true ∧ tblWf QueueRec.reset sApply.haul.queues = true ∧ sApply.face.ports.Pairwise (fun a b => a.1 < b.1) ∧
      tblWf none sApply.lookup.tables = true ∧ tblGet TagState.free sApply.lookup.tags 15 = .prepared (cmt []).num ∧ (tblGet none sApply.lookup.domains 2).isSome = true) ∧
    (∀ n ∈ [1, 2, 3], let x : LSlot := { ent false false with tag := n, ctag := 15 }
      x.ctag = 15 ∧ x.used = true ∧ x.vis = true ∧ x.tag = n) := by
  refine ⟨fun o ho => ?_, by decide +kernel, by decide +kernel, by decide +kernel⟩
  have h : ∀ o ∈ applied, BoundaryData (sDue sApply [o]) ∧ o.sub ≠ 16 := by decide +kernel
  exact ⟨applies_of (h o ho).1 (by decide +kernel), by decide +kernel, by decide +kernel, (h o ho).2⟩

/-- A TICK object that changes P. -/
def oTick : Obj := obj 10 5 (leBytes 4 (2 ^ 31 + 250) ++ z 12) 0

/-- Bank B armed and free, or not yet free; a deferred switch; the old bank with and without packets in flight under it. -/
def sBank (free : Bool) : State := { State.reset with engine := { State.reset.engine with
  service := some false, armed := some true, bankB := { ProgBank.reset with free := free }, bankA := { ProgBank.reset with free := false } } }

theorem witness_BoundarySwitches :
    (Applies (sDue sScreen [obj 3 17 (z 16) 0]) 125000 (cmt [obj 3 17 (z 16) 0]) [obj 3 17 (z 16) 0] ∧ sScreen.screen.deferred = none ∧ sScreen.engine.armed = none) ∧
    (Applies (sDue sScreen [oTick, obj 3 17 (z 16) 0]) 125000 (cmt [oTick, obj 3 17 (z 16) 0]) [oTick, obj 3 17 (z 16) 0] ∧
      bitOf (im32 oTick.img 0) 31 = true ∧ im32 oTick.img 0 % 2 ^ 11 ≠ sScreen.bench.period) ∧
    (Applies (sDue (sBank true) [oTick, obj 4 16 [] 1]) 125000 (cmt [oTick, obj 4 16 [] 1]) [oTick, obj 4 16 [] 1] ∧ (sBank true).engine.armed = some true) ∧
    (let s : State := { State.reset with screen := { State.reset.screen with deferred := some { num := 5, img := [] } } }
     AtBoundary s 125000 ∧ s.gate.committed = [] ∧ s.engine.armed = none ∧ s.screen.deferred = some { num := 5, img := [] }) ∧
    (Applies (sDue (sBank true) [obj 4 16 [] 1]) 125000 (cmt [obj 4 16 [] 1]) [obj 4 16 [] 1] ∧ (getBank (sBank true) true).free = true ∧ (sBank true).engine.service = some false) ∧
    (let s : State := { sBank true with engine := { (sBank true).engine with deferred := true } }
     AtBoundary s 125000 ∧ s.gate.committed = [] ∧ s.engine.deferred = true ∧ s.engine.armed = some true) ∧
    (∀ n ∈ [0, 1], let s : State := { sT with engine := { sT.engine with bankB := { ProgBank.reset with free := false }, threads := List.replicate n (0, thOf { pk with bank := true }) } }
      BoundaryData s ∧ s.gate.committed = [] ∧ s.engine.armed = none ∧ s.engine.service = some false ∧ (getBank s true).free = false ∧ inFlight s true = n) :=
  ⟨⟨applies_of (by decide +kernel) (by decide +kernel), by decide +kernel⟩, ⟨applies_of (by decide +kernel) (by decide +kernel), by decide +kernel⟩,
   ⟨applies_of (by decide +kernel) (by decide +kernel), by decide +kernel⟩, ⟨boundary_of (by decide +kernel), by decide +kernel⟩,
   ⟨applies_of (by decide +kernel) (by decide +kernel), by decide +kernel⟩, ⟨boundary_of (by decide +kernel), by decide +kernel⟩, by decide +kernel⟩

/-- What BoundaryDeltas asks of every role. -/
abbrev DeltaData (s : State) : Prop :=
  (boundaryDue s).isSome = true ∧ PlainData { calmed s with pair := { s.pair with rx := none, rxMiss := [], lane0 := false, lane1 := false } } ∧
    s.gate.committed = [] ∧ (s.screen.deferred = none ∧ s.engine.armed = none) ∧ s.pair.en = true ∧ (s.pair.orders = [] ∧ s.pair.reqTick = none) ∧
    (s.triad.coasting = false ∧ s.triad.tickProg = .none) ∧ tblWf 0 s.counters = true

/-- A Lead with a changed generation counter and more changes than D_MAX holds, or fewer; a Follow with a whole delta, a part of one, and none. -/
theorem witness_BoundaryDeltas :
    (∀ n ∈ [0, 5000], let s := sTick fun p => { p with role := .lead, yieldOnLoss := false, genCtr := [(1023, 5)], changes := List.replicate n (.freeze 4095) }
      let s : State := { s with bench := { s.bench with period := 8 } }
      DeltaData s ∧ s.pair.role = .lead ∧ s.pair.yieldOnLoss = false ∧ pairUp s = true ∧ s.pair.rx = none ∧ s.pair.rxMiss = [] ∧
      (deltaSize s.pair.changes > deltaMax s ↔ n = 5000)) ∧
    (let r : RxDelta := { tick := 6, chunks := [chunk true], ready := true }
     let s := sTick fun p => { p with role := .follow, rx := some r }
     DeltaData s ∧ s.pair.role = .follow ∧ s.pair.lagDue = false ∧ s.pair.rx = some r ∧ r.ready = true ∧ (deltaRecords r.chunks).all isEntryRec = true) ∧
    (∀ x ∈ [none, some ({ tick := 6, chunks := [], ready := false } : RxDelta)], let s := sTick fun p => { p with role := .follow, peerRole := 1, rx := x }
      DeltaData s ∧ s.pair.role = .follow ∧ s.pair.lagDue = false ∧ s.pair.released = false ∧ pairUp s = true ∧ s.pair.rx = x ∧ s.pair.peerRole = 1) :=
  ⟨by decide +kernel, by decide +kernel, by decide +kernel⟩

/-- Windows and offsets that Table 1.5 closes to each reader, and the registers of each part of MapRegisters in tables that are well-formed. -/
theorem witness_MapRegisters :
    (∀ e ∈ [(Reader.host, 0, 0), (.host, 18, 0xFFFFC), (.tally 3, 12, 0), (.tally 0, 18, 0), (.triad, 0, 0), (.triadCore 2, 13, 0), (.triad, 16, 0), (.triad, 18, 0), (.triad, 1, 0),
        (.triad, 11, 0xFFEFC)], e.2.1 < 19 ∧ e.2.2 < 0x100000 ∧ (match e.1 with
        | .host => decide (e.2.1 ≠ 13 ∧ e.2.1 ≠ 17)
        | .tally _ => decide (e.2.1 ≠ 13 ∧ e.2.1 ≠ 16 ∧ e.2.1 ≠ 17)
        | _ => decide (e.2.1 = 0 ∨ e.2.1 = 13 ∨ 16 ≤ e.2.1 ∨ (e.2.1 ≠ 12 ∧ e.2.1 ≠ 14 ∧ e.2.2 / 4 ≠ 0x3FFC0))) = true) ∧
    (readerMaster .triad = 0x200 ∧ readerMaster (.triadCore 1) = 0x200 ∧ readerMaster .host ≠ 0x200 ∧ readerMaster (.tally 2) ≠ 0x200) ∧
    (tblWf 0 State.reset.gh.bkp = true ∧ memWf State.reset.gh.retmem = true ∧ memWf State.reset.host.cmdBlock = true ∧ memWf State.reset.host.dbgWindow = true) := by decide +kernel

/-- Every reader with the Triad split or not, its cores within and beyond the traps of their level. -/
theorem witness_ReaderCases :
    (readerVoted (sHost false) .triad = true ∧ (sHost false).triad.voter = .sound ∧ (sHost false).triad.excluded = 0#3 ∧ triadRuns (sHost false) = true) ∧
    (let s : State := { sHost false with triad := { (sHost false).triad with split := true } }
     readerRuns s (.triadCore 2) = true ∧ readerVoted s (.triadCore 2) = false ∧ readerCores s (.triadCore 2) = [2] ∧ readerMaster (.triadCore 2) = 0x200 ∧
       (getCore s 2).pl = 2#2 ∧
       (let t : State := { s with cores := [(2, { SCore.triadReset with pl := 1#2 })] }
        readerRuns t (.triadCore 2) = true ∧ readerCores t (.triadCore 2) = [2] ∧ (getCore t 2).pl ≠ 2#2)) ∧
    (let s : State := { sHost false with triad := { (sHost false).triad with lockstepBroken := true, debugCore := some 1 } }
     readerVoted s .triad = false ∧ readerCores s .triad = [1]) ∧
    (readerCores (sHost false) (.tally 0) = [3] ∧ accessTrap 3 (getCore (sHost false) 3) ((0x3000000002#40).zeroExtend 64) 4 1 false = some cALIGN) ∧
    (((0x3002000000#40).toNat % 4 = 0 ∧ 0x3002000000 ≤ (0x3002000000#40).toNat) ∧ (0x2FFFFFFFFC#40).toNat < 0x3000000000) := by decide +kernel

/-! ### The published examples of the algorithms that the Vault and MACsec use -/

/-- The bytes 0, 1, … n - 1. -/
def countUp (n : Nat) : List Byte := (List.range n).map (BitVec.ofNat 8)

/-- FIPS 180-4: SHA-512 of "abc". -/
theorem test_sha512 : sha512 [0x61#8, 0x62#8, 0x63#8] =
    0xddaf35a193617abacc417349ae20413112e6fa4e89a97ea20a9eeee64b55d39a2192992a274fc1a836ba3c23a3feebbd454d4423643ce80e2a9ac94fa54ca49f#512 := by decide +kernel

/-- RFC 4231, case 1: HMAC-SHA-512. -/
theorem test_hmac : hmacSha512 (List.replicate 20 0x0b#8) [0x48#8, 0x69#8, 0x20#8, 0x54#8, 0x68#8, 0x65#8, 0x72#8, 0x65#8] =
    0x87aa7cdea5ef619d4ff0b4241a1d6cb02379f4e2ce4ec2787ad0b30545e17cdedaa833b7d6b8a702038b274eaea3f4e4be9d914eeb61f1702e696c203a126854#512 := by decide +kernel

/-- FIPS 197, C.3: AES-256, and back. -/
theorem test_aes256 : aesEnc (aesKeys (countUp 32)) (beBytes 16 0x00112233445566778899aabbccddeeff) = beBytes 16 0x8ea2b7ca516745bfeafc49904b496089 ∧
    aesDec (aesKeys (countUp 32)) (beBytes 16 0x8ea2b7ca516745bfeafc49904b496089) = beBytes 16 0x00112233445566778899aabbccddeeff := by decide +kernel

/-- The GCM specification, case 13: the tag of nothing under a 256-bit key of zeros. -/
theorem test_gcm : gcmTag (aesKeys (z 32)) (z 12) [] [] = beBytes 16 0x530f8afbc74536b9a963b4f1c4cb738b := by decide +kernel

end Sys2Proof.Tests
end

section
/-! PROOFS. Compares, immediate, field and constant operations: what a write to a predicate leaves readable, the law of each shape of
instruction that only changes registers, and the values that the operations write (R43, R47, R53 to R55). -/

namespace Sys2Proof.Machine

/-! ### Predicates after a write (R43, R47) -/

@[simp] theorem pset_w (r : Regs) (i : Nat) (b : Bool) : (pset r i b).w = r.w := by
  unfold pset; split <;> rfl

/-- A write to a predicate reads back there and nowhere else; a write to p0 is discarded (R43). -/
theorem pget_pset (r : Regs) (i : Nat) (b : Bool) {j : Nat} (hj : j < 8) :
    pget (pset r i b) j = if j = i ∧ j ≠ 0 then b else pget r j := by
  by_cases h0 : j = 0
  · simp [pget, h0]
  by_cases hi : i = 0
  · simp [pset, hi, h0]
  have hbit : (1#8 <<< i).getLsbD j = decide (i = j) := by
    rw [← BitVec.twoPow_eq, BitVec.getLsbD_twoPow]
    by_cases hij : i = j <;> simp [hij, hj]
  simp only [pget, pset, if_neg h0, if_neg hi]
  cases b with
  | false =>
    rw [if_neg Bool.false_ne_true, BitVec.getLsbD_and, BitVec.getLsbD_not, hbit]
    by_cases hij : i = j <;> simp [h0, hj, hij, eq_comm (a := j)]
  | true =>
    rw [if_pos rfl, BitVec.getLsbD_or, hbit]
    by_cases hij : i = j <;> simp [h0, hij, eq_comm (a := j)]

/-- A compare writes its result and the complement as R47 says, whatever Bool carries the result. -/
theorem cmpIs_setPair {d : BitVec 6} {c : Regs → Prop} {r : Regs} {b : Bool} (hb : b = true ↔ c r) :
    CmpIs d c r (setPair r d.toNat b) := by
  have hlo : d.toNat % 8 < 8 := by omega
  have hhi : d.toNat / 8 < 8 := by omega
  refine ⟨by simp [setPair], rfl, fun h0 hne => ?_, fun h0 _ => ?_, fun i hi hne1 hne2 => ?_⟩
  · rw [setPair, pget_pset _ _ _ hlo, if_neg (fun h => hne h.1.symm), pget_pset _ _ _ hlo, if_pos ⟨rfl, h0⟩, hb]
  · rw [setPair, pget_pset _ _ _ hhi, if_pos ⟨rfl, h0⟩, ← hb, Bool.not_eq_true', Bool.not_eq_true]
  · rw [setPair, pget_pset _ _ _ hi, if_neg (fun h => hne2 h.1), pget_pset _ _ _ hi, if_neg (fun h => hne1 h.1)]

/-! ### Laws by the shape of an instruction -/

/-- An instruction that writes w[d] with a value. -/
theorem regLaw_rset {i : Agent → Instr} {w : BitVec 32} {d : BitVec 6} {v : Regs → Word} (g : Regs → Word)
    (hi : ∀ who s, exec (i who) s = .next (regsOp who w (fun r => rset r d.toNat (g r)) s)) (hv : ∀ r, g r = v r) :
    RegLaw i w (RegIs d v) := by
  obtain rfl : g = v := funext hv
  exact regLaw_of _ hi fun _ => regIs_rset

/-- An instruction that writes w[d] with a value that is known by its bits. -/
theorem regLaw_rset_bits {i : Agent → Instr} {w : BitVec 32} {d : BitVec 6} {bit : Regs → Nat → Bool} (g : Regs → Word)
    (hi : ∀ who s, exec (i who) s = .next (regsOp who w (fun r => rset r d.toNat (g r)) s))
    (hbit : ∀ r k, k < 64 → (g r).getLsbD k = bit r k) :
    RegLaw i w (fun r r' => ∃ v : Word, RegIs d (fun _ => v) r r' ∧ ∀ k, k < 64 → v.getLsbD k = bit r k) :=
  regLaw_of _ hi fun r hr => ⟨g r, regIs_rset hr, hbit r⟩

/-- A compare (R47). -/
theorem regLaw_setPair {i : Agent → Instr} {w : BitVec 32} {d : BitVec 6} {c : Regs → Prop} (g : Regs → Bool)
    (hi : ∀ who s, exec (i who) s = .next (regsOp who w (fun r => setPair r d.toNat (g r)) s)) (hc : ∀ r, g r = true ↔ c r) :
    RegLaw i w (CmpIs d c) :=
  regLaw_of _ hi fun r _ => cmpIs_setPair (hc r)

/-- A compare of two registers. -/
theorem regLaw_cmpOp {i : Agent → Instr} {fn : Nat} {f : FmtA} {c : Regs → Prop} (g : Word → Word → Bool)
    (hi : ∀ who s, exec (i who) s = .next (cmpOp who fn f g s)) (hc : ∀ r, g (rget r f.a.toNat) (rget r f.b.toNat) = true ↔ c r) :
    RegLaw i (encA 0x04 f fn) (CmpIs f.d c) :=
  regLaw_setPair _ hi hc

/-- A compare of a register with an immediate. -/
theorem regLaw_cmpImmOp {i : Agent → Instr} {op : Nat} {f : FmtI} {c : Regs → Prop} (g : Word → BitVec 10 → Bool)
    (hi : ∀ who s, exec (i who) s = .next (cmpImmOp who op f g s)) (hc : ∀ r, g (rget r f.a.toNat) f.imm = true ↔ c r) :
    RegLaw i (encI op f) (CmpIs f.d c) :=
  regLaw_setPair _ hi hc

/-- An operation on a register and an immediate. -/
theorem regLaw_immOp {i : Agent → Instr} {op : Nat} {f : FmtI} {v : Regs → Word} (g : Word → BitVec 10 → Word)
    (hi : ∀ who s, exec (i who) s = .next (immOp who op f g s)) (hv : ∀ r, g (rget r f.a.toNat) f.imm = v r) :
    RegLaw i (encI op f) (RegIs f.d v) :=
  regLaw_rset _ hi hv

/-- A constant operation whose value is named. -/
theorem regLaw_constOp {i : Agent → Instr} {op : Nat} {f : FmtL} {v : Regs → Word} (g : Word → BitVec 16 → Word)
    (hi : ∀ who s, exec (i who) s = .next (constOp who op f g s)) (hv : ∀ r, g (rget r f.d.toNat) f.imm = v r) :
    RegLaw i (encL op f) (RegIs f.d v) :=
  regLaw_rset _ hi hv

/-! ### What the compares decide (Table 2.4) -/

theorem cmpEq_iff (x y : Word) : cmpEq x y = true ↔ x.toNat = y.toNat := by
  rw [cmpEq, beq_iff_eq, BitVec.toNat_eq]

theorem cmpEq_iff_toInt (x y : Word) : cmpEq x y = true ↔ x.toInt = y.toInt := by
  rw [cmpEq, beq_iff_eq, BitVec.toInt_inj]

theorem cmpNe_iff (x y : Word) : cmpNe x y = true ↔ x.toNat ≠ y.toNat := by
  rw [cmpNe, bne_iff_ne, ne_eq, BitVec.toNat_eq]

theorem cmpLt_iff (x y : Word) : cmpLt x y = true ↔ x.toInt < y.toInt := decide_eq_true_iff

theorem cmpLtu_iff (x y : Word) : cmpLtu x y = true ↔ x.toNat < y.toNat := decide_eq_true_iff

theorem cmpLe_iff (x y : Word) : cmpLe x y = true ↔ x.toInt ≤ y.toInt := decide_eq_true_iff

theorem cmpLeu_iff (x y : Word) : cmpLeu x y = true ↔ x.toNat ≤ y.toNat := decide_eq_true_iff

theorem cmpTstz_iff (x y : Word) : cmpTstz x y = true ↔ x.toNat &&& y.toNat = 0 := by
  rw [cmpTstz, beq_iff_eq, BitVec.toNat_eq, BitVec.toNat_and, BitVec.toNat_ofNat, Nat.zero_mod]

theorem cmpTstnz_iff (x y : Word) : cmpTstnz x y = true ↔ x.toNat &&& y.toNat ≠ 0 := by
  rw [cmpTstnz, bne_iff_ne, ne_eq, BitVec.toNat_eq, BitVec.toNat_and, BitVec.toNat_ofNat, Nat.zero_mod]

/-! ### A compare that names one predicate twice is illegal (R47) -/

theorem fOp_encA (op fn : Nat) (f : FmtA) : fOp (encA op f fn).toNat = op % 128 := by
  have := encFields_toNat op f.d f.a f.b fn f.g
  simp only [fOp, bits, encA]; omega

theorem fD_encA (op fn : Nat) (f : FmtA) : fD (encA op f fn).toNat = f.d.toNat := by
  have := encFields_toNat op f.d f.a f.b fn f.g
  simp only [fD, bits, encA]; omega

theorem fOp_encI (op : Nat) (f : FmtI) : fOp (encI op f).toNat = op % 128 := by
  have := encI_toNat op f
  simp only [fOp, bits]; omega

theorem fD_encI (op : Nat) (f : FmtI) : fD (encI op f).toNat = f.d.toNat := by
  have := encI_toNat op f
  simp only [fD, bits]; omega

theorem pairOk_of_same {d : Nat} (h : d % 8 = d / 8) (h0 : d % 8 ≠ 0) : pairOk d = false := by
  have : d ≠ 0 := by rintro rfl; exact h0 rfl
  simp [pairOk, h, this]

/-- Neither profile decodes a word with the operation code of a compare and a pair of destinations that R47 forbids. -/
theorem compare_illegal {w : Nat} (y : Nat) (hop : fOp w = 0x04 ∨ fOp w = 0x2b ∨ fOp w = 0x2c ∨ fOp w = 0x2d ∨ fOp w = 0x2e)
    (hd : pairOk (fD w) = false) : legalP w y = false ∧ legalS w y = false := by
  rcases hop with h | h | h | h | h <;>
    simp [legalP, legalS, legalCommon, legalPacketX, legalPlaneX, h, hd]

/-- Settles O5: each compare is the law of setPair (cmpIs_setPair) with what its Bool decides; the forbidden pairs are no legal encoding. -/
theorem compareResults : Obligations.CompareResults := by
  refine ⟨fun f => ?registers, fun f => ?immediates, fun n f hd h0 => ?illegalA, fun n f hd h0 => ?illegalI⟩
  case registers =>
    exact ⟨regLaw_cmpOp cmpEq (fun _ _ => rfl) fun _ => cmpEq_iff _ _,
      regLaw_cmpOp cmpNe (fun _ _ => rfl) fun _ => cmpNe_iff _ _,
      regLaw_cmpOp cmpLt (fun _ _ => rfl) fun _ => cmpLt_iff _ _,
      regLaw_cmpOp cmpLtu (fun _ _ => rfl) fun _ => cmpLtu_iff _ _,
      regLaw_cmpOp cmpLe (fun _ _ => rfl) fun _ => cmpLe_iff _ _,
      regLaw_cmpOp cmpLeu (fun _ _ => rfl) fun _ => cmpLeu_iff _ _,
      regLaw_cmpOp cmpTstz (fun _ _ => rfl) fun _ => cmpTstz_iff _ _,
      regLaw_cmpOp cmpTstnz (fun _ _ => rfl) fun _ => cmpTstnz_iff _ _⟩
  case immediates =>
    exact ⟨regLaw_cmpImmOp _ (fun _ _ => rfl) fun _ => by rw [cmpEq_iff_toInt, BitVec.toInt_signExtend_of_le (by decide)],
      regLaw_cmpImmOp _ (fun _ _ => rfl) fun _ => by rw [cmpLt_iff, BitVec.toInt_signExtend_of_le (by decide)],
      regLaw_cmpImmOp _ (fun _ _ => rfl) fun _ => by rw [cmpLtu_iff, BitVec.toNat_setWidth_of_le (by decide)],
      regLaw_cmpImmOp _ (fun _ _ => rfl) fun _ => by rw [cmpTstnz_iff, BitVec.toNat_setWidth_of_le (by decide)]⟩
  case illegalA =>
    exact compare_illegal 0 (.inl (fOp_encA 0x04 n f)) (by rw [fD_encA]; exact pairOk_of_same hd h0)
  case illegalI =>
    refine compare_illegal 0 (.inr ?_) (by rw [fD_encI]; exact pairOk_of_same hd h0)
    rw [fOp_encI]; omega

/-! ### Values of the immediate and field operations (R53) -/

theorem add_signExtend_eq_ofInt (x : Word) (i : BitVec 10) : x + i.signExtend 64 = BitVec.ofInt 64 (x.toInt + i.toInt) := by
  rw [BitVec.ofInt_add, BitVec.ofInt_toInt, ← BitVec.toInt_signExtend_of_le (v := 64) (x := i) (by decide), BitVec.ofInt_toInt]

theorem and_zeroExtend_eq_ofNat (x : Word) (i : BitVec 10) : x &&& i.zeroExtend 64 = BitVec.ofNat 64 (x.toNat &&& i.toNat) := by
  simp [BitVec.ofNat_and]

theorem or_zeroExtend_eq_ofNat (x : Word) (i : BitVec 10) : x ||| i.zeroExtend 64 = BitVec.ofNat 64 (x.toNat ||| i.toNat) := by
  simp [BitVec.ofNat_or]

theorem xor_zeroExtend_eq_ofNat (x : Word) (i : BitVec 10) : x ^^^ i.zeroExtend 64 = BitVec.ofNat 64 (x.toNat ^^^ i.toNat) := by
  simp [BitVec.ofNat_xor]

theorem shiftLeft_eq_ofNat (x : Word) (n : Nat) : x <<< n = BitVec.ofNat 64 (x.toNat * 2 ^ n) := by
  apply BitVec.eq_of_toNat_eq
  rw [BitVec.toNat_shiftLeft, BitVec.toNat_ofNat, Nat.shiftLeft_eq]

theorem ushiftRight_eq_ofNat (x : Word) (n : Nat) : x >>> n = BitVec.ofNat 64 (x.toNat / 2 ^ n) := by
  rw [← Nat.shiftRight_eq_div_pow, ← BitVec.toNat_ushiftRight, BitVec.ofNat_toNat, BitVec.setWidth_eq]

theorem sshiftRight_eq_ofInt (x : Word) (n : Nat) : x.sshiftRight n = BitVec.ofInt 64 (x.toInt / 2 ^ n) := by
  rw [BitVec.sshiftRight, Int.shiftRight_eq_div_pow]; rfl

/-! ### A field replaced (R54, R55) -/

/-- The bits of the mask of a field. -/
theorem getLsbD_mask (pos len : Nat) {k : Nat} (hk : k < 64) :
    (BitVec.ofNat 64 ((2 ^ len - 1) * 2 ^ pos)).getLsbD k = decide (pos ≤ k ∧ k < pos + len) := by
  have : (pos ≤ k ∧ k - pos < len) ↔ (pos ≤ k ∧ k < pos + len) := by omega
  rw [BitVec.getLsbD_ofNat, Nat.testBit_mul_two_pow, Nat.testBit_two_pow_sub_one, decide_eq_true hk, Bool.true_and, ← Bool.decide_and,
    decide_eq_decide.2 this]

/-- A word with its field masked out and joined with one that is zero outside the field: the one inside, the other outside. -/
theorem getLsbD_replace {old y : Word} {pos len k : Nat} {b : Bool} (hk : k < 64)
    (hy : y.getLsbD k = (decide (pos ≤ k ∧ k < pos + len) && b)) :
    ((old &&& ~~~(BitVec.ofNat 64 ((2 ^ len - 1) * 2 ^ pos))) ||| y).getLsbD k =
      if pos ≤ k ∧ k < pos + len then b else old.getLsbD k := by
  rw [BitVec.getLsbD_or, BitVec.getLsbD_and, BitVec.getLsbD_not, getLsbD_mask _ _ hk, hy]
  by_cases hin : pos ≤ k ∧ k < pos + len <;> simp [hin, hk]

/-- INS replaces the bits of its field and keeps the others (R54). -/
theorem getLsbD_opIns (old x : Word) (i : BitVec 10) {k : Nat} (hk : k < 64) : (opIns old x i).getLsbD k =
    if fieldPos i ≤ k ∧ k < fieldPos i + fieldLen i then x.getLsbD (k - fieldPos i) else old.getLsbD k := by
  refine getLsbD_replace hk ?_
  rw [BitVec.getLsbD_and, BitVec.getLsbD_shiftLeft, getLsbD_mask _ _ hk]
  by_cases hin : fieldPos i ≤ k ∧ k < fieldPos i + fieldLen i <;> simp [hin, hk]

/-- MK16, MK32 and MK48 replace one lane of 16 bits and keep the others (R55). -/
theorem getLsbD_opLane (old : Word) (pos : Nat) (i : BitVec 16) {k : Nat} (hk : k < 64) : (opLane old pos i).getLsbD k =
    if pos ≤ k ∧ k < pos + 16 then i.getLsbD (k - pos) else old.getLsbD k := by
  refine getLsbD_replace (len := 16) hk ?_
  rw [BitVec.getLsbD_ofNat, Nat.testBit_mul_two_pow, BitVec.testBit_toNat, decide_eq_true hk, Bool.true_and]
  by_cases hpos : pos ≤ k
  · by_cases hlen : k < pos + 16
    · simp [hpos, hlen]
    · have : i.getLsbD (k - pos) = false := BitVec.getLsbD_of_ge _ _ (by omega)
      simp [hlen, this]
  · simp [hpos]

/-- Settles O6: each operation writes w[d] (regIs_rset) with the value, or the bits, that its own lemma gives. -/
theorem immediateResults : Obligations.ImmediateResults := by
  refine ⟨fun f => ?immediate, fun f => ?constant⟩
  case immediate =>
    exact ⟨regLaw_immOp _ (fun _ _ => rfl) fun _ => add_signExtend_eq_ofInt _ _,
      regLaw_immOp _ (fun _ _ => rfl) fun _ => and_zeroExtend_eq_ofNat _ _,
      regLaw_immOp _ (fun _ _ => rfl) fun _ => or_zeroExtend_eq_ofNat _ _,
      regLaw_immOp _ (fun _ _ => rfl) fun _ => xor_zeroExtend_eq_ofNat _ _,
      regLaw_immOp _ (fun _ _ => rfl) fun _ => shiftLeft_eq_ofNat _ _,
      regLaw_immOp _ (fun _ _ => rfl) fun _ => ushiftRight_eq_ofNat _ _,
      regLaw_immOp _ (fun _ _ => rfl) fun _ => sshiftRight_eq_ofInt _ _,
      regLaw_immOp _ (fun _ _ => rfl) fun _ => rfl,
      regLaw_immOp opExtu (fun _ _ => rfl) fun _ => rfl,
      regLaw_immOp opExts (fun _ _ => rfl) fun _ => rfl,
      regLaw_rset_bits _ (fun _ _ => rfl) fun _ _ hk => getLsbD_opIns _ _ _ hk⟩
  case constant =>
    exact ⟨regLaw_constOp _ (fun _ _ => rfl) fun _ => rfl,
      regLaw_constOp _ (fun _ _ => rfl) fun _ => (BitVec.ofNat_toNat _ _).symm,
      regLaw_rset_bits _ (fun _ _ => rfl) fun _ _ hk => getLsbD_opLane _ 16 _ hk,
      regLaw_rset_bits _ (fun _ _ => rfl) fun _ _ hk => getLsbD_opLane _ 32 _ hk,
      regLaw_rset_bits _ (fun _ _ => rfl) fun _ k hk => by
        have : (48 ≤ k ∧ k < 48 + 16) ↔ 48 ≤ k := by omega
        rw [getLsbD_opLane _ 48 _ hk, if_congr this rfl rfl]⟩

end Sys2Proof.Machine
end

section
/-! PROOFS. The event queue of a tick in progress: what one post does while boundaries run, and the section that a list of posts leaves. -/

namespace Sys2Proof.Machine

/-! ### One post (R494, R495) -/

/-- The record that a post of e, as subsystem and payload, leaves with the number seq. -/
def eventRec (s : State) (seq : Nat) (e : Nat × List Nat) : EvRec :=
  { seq := seq, time := nowShort s, sub := e.1, payload := e.2, turn := s.bench.arbTick % 18 }

/-- While the section has room, a post adds its record and advances SEQ. -/
theorem postEvent_of_room {s : State} (hrun : s.bench.running = true) (hroom : s.events.count < 65536) (e : Nat × List Nat) :
    postEvent s e.1 e.2 = { s with events := { s.events with
      recs := s.events.recs ++ [eventRec s s.events.nextSeq e], nextSeq := (s.events.nextSeq + 1) % 2 ^ 64,
      count := s.events.count + 1 } } := by
  simp [postEvent, eventRec, hrun, hroom]

/-- Once the section is full, a post is counted as lost and still advances SEQ. -/
theorem postEvent_of_full {s : State} (hrun : s.bench.running = true) (hfull : 65536 ≤ s.events.count) (e : Nat × List Nat) :
    postEvent s e.1 e.2 = { s with events := { s.events with
      nextSeq := (s.events.nextSeq + 1) % 2 ^ 64, count := s.events.count + 1, lost := s.events.lost + 1 } } := by
  simp [postEvent, hrun, Nat.not_lt.2 hfull]

/-! ### A list of posts (R495) -/

/-- The records of the posts l, kept or lost, with consecutive numbers from the SEQ of s on. -/
def postedRecs (s : State) (l : List (Nat × List Nat)) : List EvRec := l.mapIdx fun i e => eventRec s (s.events.nextSeq + i) e

/-- The section that the posts l leave: their first 65,536 records, and the count of the rest. -/
def postedSection (s : State) (l : List (Nat × List Nat)) : EventQ :=
  { recs := (postedRecs s l).take 65536, nextSeq := s.events.nextSeq + l.length, count := l.length, lost := l.length - 65536 }

@[simp] theorem length_postedRecs (s : State) (l : List (Nat × List Nat)) : (postedRecs s l).length = l.length := List.length_mapIdx

theorem postedRecs_concat (s : State) (l : List (Nat × List Nat)) (e : Nat × List Nat) :
    postedRecs s (l ++ [e]) = postedRecs s l ++ [eventRec s (s.events.nextSeq + l.length) e] := List.mapIdx_concat

theorem postedSection_concat_of_room (s : State) {l : List (Nat × List Nat)} (h : l.length < 65536) (e : Nat × List Nat) :
    postedSection s (l ++ [e]) = { postedSection s l with
      recs := (postedSection s l).recs ++ [eventRec s (s.events.nextSeq + l.length) e],
      nextSeq := s.events.nextSeq + l.length + 1, count := l.length + 1 } := by
  have hkept : (postedRecs s (l ++ [e])).take 65536 =
      (postedRecs s l).take 65536 ++ [eventRec s (s.events.nextSeq + l.length) e] := by
    rw [List.take_of_length_le (by simpa using h), List.take_of_length_le (by simpa using h.le), postedRecs_concat]
  have hlost : l.length + 1 - 65536 = l.length - 65536 := by omega
  simp [postedSection, hkept, hlost, Nat.add_assoc]

theorem postedSection_concat_of_full (s : State) {l : List (Nat × List Nat)} (h : 65536 ≤ l.length) (e : Nat × List Nat) :
    postedSection s (l ++ [e]) = { postedSection s l with
      nextSeq := s.events.nextSeq + l.length + 1, count := l.length + 1, lost := (postedSection s l).lost + 1 } := by
  have hkept : (postedRecs s (l ++ [e])).take 65536 = (postedRecs s l).take 65536 := by
    rw [postedRecs_concat, List.take_append_of_le_length (by simpa using h)]
  have hlost : l.length + 1 - 65536 = l.length - 65536 + 1 := by omega
  simp [postedSection, hkept, hlost, Nat.add_assoc]

/-- A post after the posts l, while SEQ does not wrap. -/
theorem postEvent_postedSection {s : State} (hrun : s.bench.running = true) {l : List (Nat × List Nat)}
    (hseq : s.events.nextSeq + l.length + 1 < 2 ^ 64) (e : Nat × List Nat) :
    postEvent { s with events := postedSection s l } e.1 e.2 = { s with events := postedSection s (l ++ [e]) } := by
  have hnext : ((postedSection s l).nextSeq + 1) % 2 ^ 64 = s.events.nextSeq + l.length + 1 := Nat.mod_eq_of_lt hseq
  rcases Nat.lt_or_ge l.length 65536 with hroom | hfull
  · rw [postedSection_concat_of_room s hroom, postEvent_of_room (s := { s with events := postedSection s l }) hrun hroom, hnext]
    rfl
  · rw [postedSection_concat_of_full s hfull, postEvent_of_full (s := { s with events := postedSection s l }) hrun hfull, hnext]
    rfl

/-- Posting to an empty section changes the event queue only, and leaves there the section of the posts. -/
theorem foldl_postEvent {s : State} (hrun : s.bench.running = true) (hrecs : s.events.recs = []) (hcount : s.events.count = 0)
    (hlost : s.events.lost = 0) (l : List (Nat × List Nat)) (hseq : s.events.nextSeq + l.length < 2 ^ 64) :
    l.foldl (fun s e => postEvent s e.1 e.2) s = { s with events := postedSection s l } := by
  induction l using List.reverseRecOn with
  | nil =>
    have hempty : postedSection s [] = s.events := by
      show _ = (⟨s.events.recs, s.events.nextSeq, s.events.count, s.events.lost⟩ : EventQ)
      rw [hrecs, hcount, hlost]
      rfl
    rw [hempty]
    rfl
  | append_singleton l e ih =>
    rw [List.length_append, List.length_singleton, ← Nat.add_assoc] at hseq
    rw [List.foldl_append, ih (Nat.lt_of_succ_lt hseq)]
    exact postEvent_postedSection hrun hseq e

/-- Settles O56: the posts leave postedSection (foldl_postEvent), whose records are a prefix of the numbered posts. -/
theorem eventQueue : Obligations.EventQueue := by
  intro s l hrun hrecs hcount hlost hseq t
  have ht : t = { s with events := postedSection s l } := foldl_postEvent hrun hrecs hcount hlost l hseq
  clear_value t
  subst ht
  refine ⟨?_, rfl, rfl, fun i hi => ?_, rfl⟩
  · simp [postedSection, Nat.min_comm]
  · have hil : i < l.length := hi.trans_le (by simp [postedSection])
    simp [postedSection, postedRecs, eventRec, hil]

end Sys2Proof.Machine
end

section
/-! PROOFS. Decoding: the operands that stand in the fn or unit field of a word read back, and each decoder answers the row that an
instruction's words spell (R48 to R50). -/

namespace Sys2Proof

/-- The low bits of the fn field read back as the operand that was put there. -/
@[simp] theorem fn3_encA (op : Nat) (n : BitVec 3) (f : FmtA) : (encA op f n.toNat).extractLsb' 3 3 = n := by
  rw [fn_encA _ _ _ _ (by decide), BitVec.ofNat_toNat, BitVec.setWidth_eq]

@[simp] theorem fn4_encA (op : Nat) (n : BitVec 4) (f : FmtA) : (encA op f n.toNat).extractLsb' 3 4 = n := by
  rw [fn_encA _ _ _ _ (by decide), BitVec.ofNat_toNat, BitVec.setWidth_eq]

@[simp] theorem unit3_encX (op : Nat) (n : BitVec 3) (f : FmtX) : (encX op f n.toNat).extractLsb' 3 3 = n := by
  rw [fn_encX _ _ _ _ (by decide), BitVec.ofNat_toNat, BitVec.setWidth_eq]

@[simp] theorem unit3_encX_above (op : Nat) (n : BitVec 3) (f : FmtX) : (encX op f (8 + n.toNat)).extractLsb' 3 3 = n := by
  rw [fn_encX _ _ _ _ (by decide)]
  apply BitVec.eq_of_toNat_eq
  rw [BitVec.toNat_ofNat]; omega

/-- The two low bits of a unit field that carries a two-bit operand above a multiple of 4. -/
theorem unit2_encX (op base : Nat) (hb : base % 4 = 0) (n : BitVec 2) (f : FmtX) : (encX op f (base + n.toNat)).extractLsb' 3 2 = n := by
  rw [fn_encX _ _ _ _ (by decide)]
  apply BitVec.eq_of_toNat_eq
  rw [BitVec.toNat_ofNat]; omega

/-- The word of an instruction without a descriptor spells it (Tables 2.4 to 2.9). -/
theorem decodeOne_words {i : Instr} {who : Agent} {w : BitVec 32} (ha : agentOf i = some who) (hw : words i = some (w, none)) :
    decodeOne who w = some i := by
  cases i <;> simp only [agentOf, words, reduceCtorEq, Option.some.injEq, Prod.mk.injEq, and_false, and_true] at ha hw
  case kloadOtpWrite cut => cases cut <;> simp at hw
  all_goals subst ha hw
  case sel n f =>
    have hunit : unitOf (encA 0x05 f n.toNat) < 8 := by rw [unitOf_encA]; omega
    unfold decodeOne
    rw [opOf_encA, fieldsA_encA, fn3_encA]
    exact if_pos hunit
  case amoadd | ret =>
    unfold decodeOne
    rw [opOf_encA, fieldsA_encA, fn4_encA]
    rfl
  case add | sub | mul | mulhu | min | max | minu | maxu | and | or | xor | andn | orn | xnor | sll | srl | sra
       | rol | ror | clz | ctz | popc | bswap | bswap32 | bswap16 | cmpeq | cmpne | cmplt | cmpltu | cmple
       | cmpleu | tstz | tstnz | pand | por | pxor | pandn | ptow | wtop | divu | remu | divs | rems | jr
       | callr =>
    unfold decodeOne
    rw [opOf_encA, unitOf_encA, fieldsA_encA]
    rfl
  case addi | andi | ori | xori | slli | srli | srai | mov | extu | exts | ins | cmpeqi | cmplti | cmpltui
       | tsti | ld8u | ld16u | ld32u | ld64 | ld8s | ld16s | ld32s | st8 | st16 | st32 | st64 | ldk | loop
       | loopr | csrr | csrw | csrs | csrc | trap | tret | wfi | fence =>
    unfold decodeOne
    rw [opOf_encI, fieldsI_encI]
    rfl
  case li | liz | mk16 | mk32 | mk48 =>
    unfold decodeOne
    rw [opOf_encL, fieldsL_encL]
    rfl
  case br | call =>
    unfold decodeOne
    rw [opOf_encB, fieldsB_encB]
    rfl

/-- A descriptor that carries the field of its row reads that field. -/
theorem slice_of_setField_eq {pos n v : Nat} {y : BitVec 32} (hpos : pos + n ≤ 32) (h : setField pos n v y = y) :
    y.extractLsb' pos n = BitVec.ofNat n v := by
  rw [← h]; exact slice_setField pos n v y hpos

/-- The words of an instruction with a descriptor spell it, where it is the row that they name (Tables 3.5 to 3.7 and 16.4). -/
theorem decodeTwo_words {i : Instr} {who : Agent} {w y : BitVec 32} (ha : agentOf i = some who) (hw : words i = some (w, some y))
    (hc : canonical i = true) : decodeTwo who w y = some i := by
  cases i <;> simp only [agentOf, words, canonical, reduceCtorEq, Option.some.injEq, Prod.mk.injEq, and_false, beq_iff_eq,
    Bool.false_eq_true] at ha hw hc
  case kloadOtpWrite cut => cases cut <;> simp at hc ha
  all_goals obtain ⟨rfl, rfl⟩ := hw; subst ha
  case conLookup | conOpen | conUpdate | conClose | enq | enqBuf | kloadRoot | kloadFallback | kloadClear
       | kwrapWrap | kwrapUnwrap =>
    have hfield := slice_of_setField_eq (by decide) hc
    unfold decodeTwo
    rw [opOf_encX, unitOf_encX, fieldsX_encX, hc, hfield]
    rfl
  case frd n f | fwr n f =>
    have hunit : n.toNat % 16 < 8 := by omega
    unfold decodeTwo
    rw [opOf_encX, unitOf_encX, fieldsX_encX, unit3_encX]
    exact if_pos hunit
  case fwrBuffer n f =>
    have hunit : ¬ (8 + n.toNat) % 16 < 8 := by omega
    unfold decodeTwo
    rw [opOf_encX, unitOf_encX, fieldsX_encX, unit3_encX_above]
    exact if_neg hunit
  case tstampShort n f =>
    have hunit : (0 + n.toNat) % 16 < 4 := by omega
    unfold decodeTwo
    rw [opOf_encX, unitOf_encX, fieldsX_encX, ← Nat.zero_add n.toNat, unit2_encX _ 0 (by decide)]
    exact if_pos hunit
  case tstampSeconds n f =>
    have hunit : ¬ (4 + n.toNat) % 16 < 4 ∧ (4 + n.toNat) % 16 < 8 := by omega
    unfold decodeTwo
    rw [opOf_encX, unitOf_encX, fieldsX_encX, unit2_encX _ 4 (by decide)]
    exact (if_neg hunit.1).trans (if_pos hunit.2)
  case tstampMark n f =>
    have hunit : ¬ (8 + n.toNat) % 16 < 4 ∧ ¬ (8 + n.toNat) % 16 < 8 ∧ (8 + n.toNat) % 16 < 12 := by omega
    unfold decodeTwo
    rw [opOf_encX, unitOf_encX, fieldsX_encX, unit2_encX _ 8 (by decide)]
    exact (if_neg hunit.1).trans ((if_neg hunit.2.1).trans (if_pos hunit.2.2))
  case xtr | csum | lkpExact | lkpLpm | lrn | del | alloc | share | release | free | meter | verdictConfirm
       | verdictWithdraw | mcast | drop | punt | recirc | done | stage | commit | abortCommit | abortGroup
       | thawMaster | thawPartner | gatelist | shaper | epoch | bank | leaseTake | leaseRelease | kderive
       | ksign | kverify =>
    unfold decodeTwo
    rw [opOf_encX, unitOf_encX, fieldsX_encX]
    rfl

/-- Settles O57: an instruction's words are one or two, and each decoder answers the row whose words they are. -/
theorem decodeOfEncode : Obligations.DecodeOfEncode := by
  intro i who w y ha hw hc
  cases y with
  | none => exact decodeOne_words ha hw
  | some y => exact decodeTwo_words ha hw hc

end Sys2Proof
end

section
/-! PROOFS. Register operations and divisions of Table 2.4: what each operation writes, as a number (R51, R52). -/

namespace Sys2Proof.Machine

/-! ### Laws by the shape of an instruction -/

/-- An operation on two registers. -/
theorem regLaw_aluOp {i : Agent → Instr} {op fn : Nat} {f : FmtA} {v : Regs → Word} (g : Word → Word → Word)
    (hi : ∀ who s, exec (i who) s = .next (aluOp who op fn f g s)) (hv : ∀ r, g (rget r f.a.toNat) (rget r f.b.toNat) = v r) :
    RegLaw i (encA op f fn) (RegIs f.d v) :=
  regLaw_rset _ hi hv

/-- An operation on one register. -/
theorem regLaw_unaryOp {i : Agent → Instr} {op fn : Nat} {f : FmtA} {v : Regs → Word} (g : Word → Word)
    (hi : ∀ who s, exec (i who) s = .next (unaryOp who op fn f g s)) (hv : ∀ r, g (rget r f.a.toNat) = v r) :
    RegLaw i (encA op f fn) (RegIs f.d v) :=
  regLaw_rset _ hi hv

/-- A write to a predicate as R43 states it. -/
theorem predsAre_pset {d : Nat} {b : Bool} {v : Regs → Nat → Bool} {r : Regs} (hv : ∀ i, v r i = if i = d then b else pget r i) :
    PredsAre v r (pset r d b) := by
  refine ⟨fun i hi => ?_, pset_w r d b⟩
  rw [pget_pset _ _ _ hi, hv]
  by_cases h0 : i = 0
  · simp [h0, pget]
  · simp [h0]

/-- An operation on two predicates whose numbers are below 8. -/
theorem regLaw_predOp {i : Agent → Instr} {fn : Nat} {f : FmtA} (g : Bool → Bool → Bool) (hd : f.d.toNat < 8) (ha : f.a.toNat < 8)
    (hb : f.b.toNat < 8) (hi : ∀ who s, exec (i who) s = .next (predOp who fn f g s)) :
    RegLaw i (encA 0x07 f fn) (PredsAre fun r j => if j = f.d.toNat then g (pget r f.a.toNat) (pget r f.b.toNat) else pget r j) := by
  refine regLaw_of _ hi fun r _ => ?_
  rw [Nat.mod_eq_of_lt hd, Nat.mod_eq_of_lt ha, Nat.mod_eq_of_lt hb]
  exact predsAre_pset fun _ => rfl

/-! ### Values of the arithmetic and logic operations (R51) -/

theorem sub_eq_ofNat (x y : Word) : x - y = BitVec.ofNat 64 (x.toNat + (2 ^ 64 - y.toNat)) := by
  apply BitVec.eq_of_toNat_eq
  rw [BitVec.toNat_sub, BitVec.toNat_ofNat, Nat.add_comm]

theorem not_eq_ofNat (x : Word) : ~~~x = BitVec.ofNat 64 (2 ^ 64 - 1 - x.toNat) := by
  apply BitVec.eq_of_toNat_eq
  rw [BitVec.toNat_not, BitVec.toNat_ofNat]; omega

theorem opMin_eq_ofInt (x y : Word) : opMin x y = BitVec.ofInt 64 (min x.toInt y.toInt) := by
  unfold opMin
  rw [Int.min_def, apply_ite (BitVec.ofInt 64), BitVec.ofInt_toInt, BitVec.ofInt_toInt]

theorem opMax_eq_ofInt (x y : Word) : opMax x y = BitVec.ofInt 64 (max x.toInt y.toInt) := by
  unfold opMax
  rw [Int.max_def, apply_ite (BitVec.ofInt 64), BitVec.ofInt_toInt, BitVec.ofInt_toInt]

theorem opMinu_eq_ofNat (x y : Word) : opMinu x y = BitVec.ofNat 64 (min x.toNat y.toNat) := by
  unfold opMinu
  rw [Nat.min_def, apply_ite (BitVec.ofNat 64)]
  simp only [BitVec.ofNat_toNat, BitVec.setWidth_eq]

theorem opMaxu_eq_ofNat (x y : Word) : opMaxu x y = BitVec.ofNat 64 (max x.toNat y.toNat) := by
  unfold opMaxu
  rw [Nat.max_def, apply_ite (BitVec.ofNat 64)]
  simp only [BitVec.ofNat_toNat, BitVec.setWidth_eq]

/-- The halves of a rotated word do not overlap: joined they are their sum. -/
theorem shiftLeft_or_ushiftRight_toNat (x : Word) {n : Nat} (hn : n < 64) :
    (x <<< n ||| x >>> (64 - n)).toNat = (x.toNat * 2 ^ n + x.toNat / 2 ^ (64 - n)) % 2 ^ 64 := by
  have hx := x.isLt
  have hsplit : 2 ^ 64 = 2 ^ (64 - n) * 2 ^ n := by rw [← Nat.pow_add]; congr 1; omega
  have hhigh : x.toNat / 2 ^ (64 - n) < 2 ^ n := by
    rw [Nat.div_lt_iff_lt_mul (Nat.two_pow_pos _), Nat.mul_comm, ← hsplit]; exact hx
  have hlow : x.toNat * 2 ^ n % 2 ^ 64 = x.toNat % 2 ^ (64 - n) * 2 ^ n := by rw [hsplit, Nat.mul_mod_mul_right]
  have hfit : x.toNat % 2 ^ (64 - n) * 2 ^ n + x.toNat / 2 ^ (64 - n) < 2 ^ 64 := by
    have : x.toNat % 2 ^ (64 - n) + 1 ≤ 2 ^ (64 - n) := Nat.mod_lt _ (Nat.two_pow_pos _)
    calc _ < x.toNat % 2 ^ (64 - n) * 2 ^ n + 2 ^ n := by omega
      _ = (x.toNat % 2 ^ (64 - n) + 1) * 2 ^ n := by rw [Nat.succ_mul]
      _ ≤ 2 ^ 64 := by rw [hsplit]; exact Nat.mul_le_mul_right _ this
  rw [BitVec.toNat_or, BitVec.toNat_shiftLeft, BitVec.toNat_ushiftRight, Nat.shiftLeft_eq, Nat.shiftRight_eq_div_pow, hlow,
    ← Nat.shiftLeft_eq, ← Nat.shiftLeft_add_eq_or_of_lt hhigh, Nat.shiftLeft_eq, Nat.add_mod, hlow,
    Nat.mod_eq_of_lt (a := x.toNat / _) (lt_of_lt_of_le hhigh (Nat.pow_le_pow_right (by decide) hn.le)), Nat.mod_eq_of_lt hfit]

theorem opRol_eq_ofNat (x y : Word) :
    opRol x y = BitVec.ofNat 64 (x.toNat * 2 ^ (y.toNat % 64) + x.toNat / 2 ^ (64 - y.toNat % 64)) := by
  apply BitVec.eq_of_toNat_eq
  have hn : y.toNat % 64 < 64 := Nat.mod_lt _ (by decide)
  rw [opRol, shamt, BitVec.rotateLeft_def, Nat.mod_mod, shiftLeft_or_ushiftRight_toNat x hn, BitVec.toNat_ofNat]

theorem opRor_eq_ofNat (x y : Word) :
    opRor x y = BitVec.ofNat 64 (x.toNat / 2 ^ (y.toNat % 64) + x.toNat * 2 ^ (64 - y.toNat % 64)) := by
  apply BitVec.eq_of_toNat_eq
  have hn : y.toNat % 64 < 64 := Nat.mod_lt _ (by decide)
  rw [opRor, shamt, BitVec.rotateRight_def, Nat.mod_mod, BitVec.toNat_ofNat]
  obtain h0 | h0 := Nat.eq_zero_or_pos (y.toNat % 64)
  · simp [h0, BitVec.shiftLeft_eq_zero]; omega
  · have hm : 64 - (64 - y.toNat % 64) = y.toNat % 64 := by omega
    have := shiftLeft_or_ushiftRight_toNat x (n := 64 - y.toNat % 64) (by omega)
    rw [hm] at this
    rw [BitVec.or_comm, this, Nat.add_comm]

/-! ### Counts and byte reversals (R51) -/

/-- The leading zeros of the n low bits of a number below 2^n. -/
theorem leadingZeros_eq (x : Nat) : ∀ n : Nat, x < 2 ^ n →
    ((((List.range n).map x.testBit).reverse.takeWhile (! ·)).length = if x = 0 then n else n - 1 - Nat.log2 x)
  | 0, h => by have : x = 0 := by simpa using h
               simp [this]
  | n + 1, h => by
    rw [List.range_succ, List.map_append, List.reverse_append, List.map_singleton, List.reverse_singleton, List.singleton_append,
      List.takeWhile_cons]
    cases hb : x.testBit n with
    | true =>
      have hge : 2 ^ n ≤ x := Nat.ge_two_pow_of_testBit hb
      have h0 : x ≠ 0 := by have := Nat.two_pow_pos n; omega
      have hlog : Nat.log2 x = n := (Nat.log2_eq_iff h0).2 ⟨hge, h⟩
      simp [h0, hlog]
    | false =>
      have hlt : x < 2 ^ n := by
        refine Nat.lt_pow_two_of_testBit x fun i hi => ?_
        obtain rfl | hi := Nat.eq_or_lt_of_le hi
        · exact hb
        · exact Nat.testBit_lt_two_pow (Nat.lt_of_lt_of_le h (Nat.pow_le_pow_right (by decide) hi))
      rw [if_pos (by decide), List.length_cons, leadingZeros_eq x n hlt]
      by_cases h0 : x = 0
      · simp [h0]
      · have : Nat.log2 x < n := (Nat.log2_lt h0).2 hlt
        simp only [if_neg h0]; omega

/-- The zeros before the first set bit of n bits from bit k on. -/
theorem trailingZeros_eq (x : Nat) : ∀ n k : Nat,
    k + (((List.range' k n).map x.testBit).takeWhile (! ·)).length = ((List.range' k n).find? (x.testBit ·)).getD (k + n)
  | 0, k => by simp
  | n + 1, k => by
    rw [List.range'_succ, List.map_cons, List.takeWhile_cons, List.find?_cons]
    cases hb : x.testBit k with
    | true => simp
    | false =>
      have := trailingZeros_eq x n (k + 1)
      simp only [Bool.not_false, if_true, List.length_cons]
      rw [← Nat.add_assoc k n 1, Nat.add_right_comm, ← this]; omega

theorem length_filter_map_testBit (x : Nat) (l : List Nat) :
    ((l.map x.testBit).filter id).length = (l.map (fun i => x / 2 ^ i % 2)).sum := by
  induction l with
  | nil => rfl
  | cons i l ih =>
    rw [List.map_cons, List.map_cons, List.sum_cons, ← ih, ← Nat.toNat_testBit, List.filter_cons]
    cases x.testBit i <;> simp [Nat.add_comm]

theorem wordBits_eq (x : Word) : wordBits x = (List.range 64).map x.toNat.testBit := rfl

theorem opClz_eq (x : Word) : opClz x = BitVec.ofNat 64 (if x.toNat = 0 then 64 else 63 - Nat.log2 x.toNat) := by
  rw [opClz, wordBits_eq, leadingZeros_eq _ 64 x.isLt]

theorem opCtz_eq (x : Word) : opCtz x = BitVec.ofNat 64 (((List.range 64).find? (fun i => x.toNat.testBit i)).getD 64) := by
  have := trailingZeros_eq x.toNat 64 0
  rw [← List.range_eq_range', Nat.zero_add, Nat.zero_add] at this
  rw [opCtz, wordBits_eq, this]

theorem opPopc_eq (x : Word) : opPopc x = BitVec.ofNat 64 ((List.range 64).map (fun i => x.toNat / 2 ^ i % 2)).sum := by
  rw [opPopc, wordBits_eq, length_filter_map_testBit]

/-- The bytes of a number. -/
theorem leBytes_eq_map : ∀ n v : Nat, leBytes n v = (List.range n).map (fun i => BitVec.ofNat 8 (v / 256 ^ i))
  | 0, _ => rfl
  | n + 1, v => by
    rw [leBytes, leBytes_eq_map n, List.range_succ_eq_map, List.map_cons, List.map_map]
    simp [Function.comp_def, Nat.div_div_eq_div_mul, Nat.pow_succ']

theorem leNat_append : ∀ a b : List Byte, leNat (a ++ b) = leNat a + 256 ^ a.length * leNat b
  | [], b => by simp [leNat]
  | x :: a, b => by
    rw [List.cons_append, leNat, leNat_append a b, leNat, List.length_cons, Nat.pow_succ']; ring

theorem opBswap_eq (n : Nat) (x : Word) : opBswap n x =
    BitVec.ofNat 64 ((List.range n).map (fun i => x.toNat / 256 ^ i % 256 * 256 ^ (n - 1 - i))).sum := by
  have reversed (f : Nat → Byte) : ∀ m : Nat, leNat ((List.range m).map f).reverse =
      ((List.range m).map (fun i => (f i).toNat * 256 ^ (m - 1 - i))).sum := by
    intro m
    induction m with
    | zero => rfl
    | succ m ih =>
      have hshift : (List.range m).map (fun i => (f i).toNat * 256 ^ (m + 1 - 1 - i)) =
          (List.range m).map (fun i => 256 * ((f i).toNat * 256 ^ (m - 1 - i))) := by
        refine List.map_congr_left fun i hi => ?_
        have hi := List.mem_range.1 hi
        rw [show m + 1 - 1 - i = m - 1 - i + 1 by omega, Nat.pow_succ]; ring
      rw [List.range_succ, List.map_append, List.reverse_append, List.map_append, List.sum_append, hshift, List.sum_map_mul_left, ← ih]
      simp [leNat, Nat.add_comm]
  rw [opBswap, leBytes_eq_map, reversed]
  simp

/-! ### Predicates as a word (R51) -/

theorem predWord_eq (r : Regs) : predWord r = BitVec.ofNat 64 ((List.range 8).map (fun i => if pget r i then 2 ^ i else 0)).sum := by
  obtain ⟨w, p⟩ := r
  have h : ∀ p : BitVec 8, (p ||| 1#8).zeroExtend 64 =
      BitVec.ofNat 64 ((List.range 8).map (fun i => if (if i = 0 then true else p.getLsbD i) then 2 ^ i else 0)).sum := by decide
  exact h p

theorem pget_predLoad (r : Regs) (x : Word) {i : Nat} (hi : i < 8) :
    pget (predLoad r x) i = if i = 0 then true else x.toNat.testBit i := by
  by_cases h0 : i = 0
  · simp [h0, pget]
  · have hmask : (0xFE#8).getLsbD i = true ∧ (1#8).getLsbD i = false := by interval_cases i <;> simp_all
    simp [pget, predLoad, h0, hi, hmask, BitVec.testBit_toNat]

/-- Settles O3: each operation writes w[d] (regLaw_aluOp, regLaw_unaryOp) or predicates (predsAre_pset) with the value of its lemma. -/
theorem registerResults : Obligations.RegisterResults := by
  refine ⟨fun f => ?arithmetic, fun f => ?counts, fun n f => ?select, fun f => ⟨fun hd ha hb => ?predicates, ?toWord, ?fromWord⟩⟩
  case arithmetic =>
    exact ⟨regLaw_aluOp _ (fun _ _ => rfl) fun _ => by simp [opA, opB, BitVec.ofNat_add],
      regLaw_aluOp _ (fun _ _ => rfl) fun _ => sub_eq_ofNat _ _,
      regLaw_aluOp _ (fun _ _ => rfl) fun _ => by simp [opA, opB, BitVec.ofNat_mul],
      regLaw_aluOp _ (fun _ _ => rfl) fun _ => rfl,
      regLaw_aluOp _ (fun _ _ => rfl) fun _ => opMin_eq_ofInt _ _,
      regLaw_aluOp _ (fun _ _ => rfl) fun _ => opMax_eq_ofInt _ _,
      regLaw_aluOp _ (fun _ _ => rfl) fun _ => opMinu_eq_ofNat _ _,
      regLaw_aluOp _ (fun _ _ => rfl) fun _ => opMaxu_eq_ofNat _ _,
      regLaw_aluOp _ (fun _ _ => rfl) fun _ => by simp [opA, opB, BitVec.ofNat_and],
      regLaw_aluOp _ (fun _ _ => rfl) fun _ => by simp [opA, opB, BitVec.ofNat_or],
      regLaw_aluOp _ (fun _ _ => rfl) fun _ => by simp [opA, opB, BitVec.ofNat_xor],
      regLaw_aluOp _ (fun _ _ => rfl) fun _ => by rw [not_eq_ofNat, BitVec.ofNat_and]; simp [opA, opB],
      regLaw_aluOp _ (fun _ _ => rfl) fun _ => by rw [not_eq_ofNat, BitVec.ofNat_or]; simp [opA, opB],
      regLaw_aluOp _ (fun _ _ => rfl) fun _ => by rw [not_eq_ofNat, BitVec.toNat_xor]; rfl,
      regLaw_aluOp _ (fun _ _ => rfl) fun _ => shiftLeft_eq_ofNat _ _,
      regLaw_aluOp _ (fun _ _ => rfl) fun _ => ushiftRight_eq_ofNat _ _,
      regLaw_aluOp _ (fun _ _ => rfl) fun _ => sshiftRight_eq_ofInt _ _,
      regLaw_aluOp _ (fun _ _ => rfl) fun _ => opRol_eq_ofNat _ _,
      regLaw_aluOp _ (fun _ _ => rfl) fun _ => opRor_eq_ofNat _ _⟩
  case counts =>
    exact ⟨regLaw_unaryOp _ (fun _ _ => rfl) fun _ => opClz_eq _,
      regLaw_unaryOp _ (fun _ _ => rfl) fun _ => opCtz_eq _,
      regLaw_unaryOp _ (fun _ _ => rfl) fun _ => opPopc_eq _,
      regLaw_unaryOp _ (fun _ _ => rfl) fun _ => opBswap_eq 8 _,
      regLaw_unaryOp _ (fun _ _ => rfl) fun _ => opBswap_eq 4 _,
      regLaw_unaryOp _ (fun _ _ => rfl) fun _ => by
        rw [opBswap_eq]; simp [opA, List.range_succ, Nat.add_comm]⟩
  case select =>
    refine regLaw_rset _ (fun _ _ => rfl) fun r => ?_
    simp only [apply_ite (BitVec.ofNat 64), opA, opB, BitVec.ofNat_toNat, BitVec.setWidth_eq]
  case predicates =>
    exact ⟨regLaw_predOp _ hd ha hb fun _ _ => rfl, regLaw_predOp _ hd ha hb fun _ _ => rfl, regLaw_predOp _ hd ha hb fun _ _ => rfl,
      regLaw_predOp (fun x y => x && !y) hd ha hb fun _ _ => rfl⟩
  case toWord => exact regLaw_rset _ (fun _ _ => rfl) predWord_eq
  case fromWord => exact regLaw_of _ (fun _ _ => rfl) fun r _ => ⟨fun i hi => pget_predLoad r _ hi, rfl⟩

/-! ### Divisions (R52) -/

theorem eq_zero_iff_toNat (y : Word) : y = 0#64 ↔ y.toNat = 0 := by
  rw [BitVec.toNat_eq]; rfl

theorem opDivu_eq_ofNat (x y : Word) : opDivu x y = BitVec.ofNat 64 (if y.toNat = 0 then 2 ^ 64 - 1 else x.toNat / y.toNat) := by
  unfold opDivu
  by_cases h : y = 0#64
  · simp [h]
  · rw [if_neg h, if_neg (mt (eq_zero_iff_toNat y).2 h), ← BitVec.toNat_udiv, BitVec.ofNat_toNat, BitVec.setWidth_eq]

theorem opRemu_eq_ofNat (x y : Word) : opRemu x y = BitVec.ofNat 64 (if y.toNat = 0 then x.toNat else x.toNat % y.toNat) := by
  unfold opRemu
  by_cases h : y = 0#64
  · simp [h]
  · rw [if_neg h, if_neg (mt (eq_zero_iff_toNat y).2 h), ← BitVec.toNat_umod, BitVec.ofNat_toNat, BitVec.setWidth_eq]

theorem opDivs_eq_ofInt (x y : Word) : opDivs x y = BitVec.ofInt 64 (if y.toNat = 0 then -1
    else if x.toInt = -2 ^ 63 ∧ y.toInt = -1 then -2 ^ 63 else x.toInt.tdiv y.toInt) := by
  unfold opDivs
  by_cases h : y = 0#64
  · simp [h]
  · rw [if_neg h, if_neg (mt (eq_zero_iff_toNat y).2 h)]
    split
    · rename_i hc
      obtain ⟨hx, hy⟩ := hc
      rw [hx, hy]; decide
    · rfl

theorem opRems_eq_ofInt (x y : Word) : opRems x y = BitVec.ofInt 64 (if y.toNat = 0 then x.toInt
    else if x.toInt = -2 ^ 63 ∧ y.toInt = -1 then 0 else x.toInt.tmod y.toInt) := by
  unfold opRems
  by_cases h : y = 0#64
  · simp [h]
  · rw [if_neg h, if_neg (mt (eq_zero_iff_toNat y).2 h)]
    split
    · rename_i hc
      obtain ⟨hx, hy⟩ := hc
      rw [hx, hy]; decide
    · rfl

/-- Settles O4: each division writes w[d] with the value that its lemma gives, corners included. -/
theorem divisionResults : Obligations.DivisionResults := fun f =>
  ⟨regLaw_aluOp _ (fun _ _ => rfl) fun _ => opDivu_eq_ofNat _ _,
    regLaw_aluOp _ (fun _ _ => rfl) fun _ => by rw [opRemu_eq_ofNat]; rfl,
    regLaw_aluOp _ (fun _ _ => rfl) fun _ => opDivs_eq_ofInt _ _,
    regLaw_aluOp _ (fun _ _ => rfl) fun _ => opRems_eq_ofInt _ _⟩

end Sys2Proof.Machine
end

section
/-! PROOFS. Issue: the step that each instruction of an agent is, what becomes of the issuing thread by the way its meaning ends, and what
becomes of an agent's cores whose instruction sends nothing out (R46, R50, R61 to R64, R69, R70, R362). -/

namespace Sys2Proof.Machine

/-! ### Every instruction is one step of its agent -/

/-- What a thread's instruction does when its guard reads 0: LOOP and LOOPR go on after their body, the others at the next word (R46). -/
def guardSkip (t : Nat) (w : BitVec 32) : State → TRes :=
  if fOp w.toNat = 0x53 ∨ fOp w.toNat = 0x54 then loopSkip t (fImm10 w.toNat) else TRes.fall

theorem fOp_encX (op u : Nat) (f : FmtX) : fOp (encX op f u).toNat = op % 128 := by
  have := encFields_toNat op f.d f.a f.b u f.g
  simp only [fOp, bits, encX]; omega

theorem fOp_encL (op : Nat) (f : FmtL) : fOp (encL op f).toNat = op % 128 := by
  have := encL_toNat op f
  simp only [fOp, bits]; omega

theorem fOp_encB (op : Nat) (f : FmtB) : fOp (encB op f).toNat = op % 128 := by
  have := encB_toNat op f
  have : f.t.toNat < 2 := by cases f.t <;> decide
  simp only [fOp, bits]; omega

theorem fImm10_encI (op : Nat) (f : FmtI) : fImm10 (encI op f).toNat = f.imm.toNat := by
  have := encI_toNat op f
  simp only [fImm10, bits]; omega

theorem guardSkip_loop (t op : Nat) (f : FmtI) (h : op % 128 = 0x53 ∨ op % 128 = 0x54) :
    guardSkip t (encI op f) = loopSkip t f.imm.toNat := by
  rw [guardSkip, fOp_encI, if_pos h, fImm10_encI]

/-- What a packet X instruction of a thread does once it has issued: its unit refuses it, or its meaning runs (R92, R442). -/
def packetRun (t : Nat) (w : BitVec 32) (run : Nat → State → Thread → Packet → TRes) (s : State) : TRes :=
  let th := getThread s t
  match th.pkt with
  | some p =>
    if blockRefuses s (xBlock (fOp w.toNat)) then .fall (setThread s t (th.setRegs (setStatus (refusedRegs w th.regs) stDENIED 0 0)))
    else run t s th p
  | none => .fall s

theorem packetX_thread (t : Fin 512) (w y : BitVec 32) (run : Nat → State → Thread → Packet → TRes) (s : State) :
    packetX (.thread t) w y run s = threadStep t w (some y) TRes.fall (packetRun t w run) s := rfl

/-- What core k presents for a plane X instruction (R72, R107). -/
def planeIssue (w y : BitVec 32) (f : FmtX) (level : Nat) (image : State → Nat → SCore → Nat → Nat → Except Nat (List Byte))
    (s : State) (k : Nat) (c : SCore) : CRes :=
  let a := rget c.regs f.a.toNat
  let b := rget c.regs f.b.toNat
  if c.pl.toNat < level then .trap cPRIV (w.zeroExtend 64)
  else if k ≥ 3 then .ask (.plane w.toNat y.toNat [a, b] []) (fun c _ => c)
  else match image s k c a.toNat b.toNat with
    | .ok img => .ask (.plane w.toNat y.toNat [a, b] img) (planeFin f)
    | .error ea => .trap cACCESS (BitVec.ofNat 64 ea)

/-- How the Fence and the unit perform a plane X request of core m (R13, R72). -/
def planePerform (run : State → Nat → Nat → Nat → List Byte → State × PlaneRes) (s : State) (m : Nat) (q : Req) : State × Reply :=
  match q with
  | .plane _ _ (a :: b :: _) img =>
    if m ≥ 3 then
      let pc := (getCore s m).pc.toNat
      (violate s (coreMaster m) vUNAUTH pc pc, .refused)
    else
      let (s, r) := run s m a.toNat b.toNat img
      if r.froze then (s, .refused) else (s, .data r.toList)
  | _ => (s, .refused)

/-- An agent that names a core is no thread. -/
theorem coreAgent_cases {s : State} {who : Agent} {k : Nat} {P : Agent → Prop} (h : k ∈ agentCores s who) (triad : P .triad)
    (triadCore : ∀ i, P (.triadCore i)) (tally : ∀ c, P (.tally c)) : P who := by
  cases who with
  | thread t => simp [agentCores] at h
  | triad => exact triad
  | triadCore i => exact triadCore i
  | tally c => exact tally c

theorem planeX_core {s : State} {who : Agent} {k : Nat} (hk : k ∈ agentCores s who) (w y : BitVec 32) (f : FmtX) (level : Nat)
    (image : State → Nat → SCore → Nat → Nat → Except Nat (List Byte)) (run : State → Nat → Nat → Nat → List Byte → State × PlaneRes) :
    planeX who w y f level image run s = coreStep who w (some y) (planeIssue w y f level image) (planePerform run) s :=
  coreAgent_cases (P := fun who => planeX who w y f level image run s = coreStep who w (some y) _ _ s) hk rfl (fun _ => rfl) fun _ => rfl

/-- Each instruction of a thread is one threadStep of its words. -/
theorem exec_thread {i : Instr} {t : Fin 512} {w : BitVec 32} {y : Option (BitVec 32)} (ha : agentOf i = some (.thread t))
    (hw : words i = some (w, y)) : ∃ run, ∀ s, exec i s = .next (threadStep t w y (guardSkip t w) run s) := by
  cases i <;> simp only [agentOf, words, reduceCtorEq, Option.some.injEq, Prod.mk.injEq] at ha hw
  case kloadOtpWrite cut =>
    cases cut <;> simp only [reduceCtorEq, Option.some.injEq, Prod.mk.injEq] at ha hw
    obtain ⟨rfl, rfl⟩ := hw; subst ha
    simp only [guardSkip, fOp_encX, Nat.reduceMod, Nat.reduceEqDiff, or_self, if_false]
    exact ⟨_, fun _ => rfl⟩
  all_goals obtain ⟨rfl, rfl⟩ := hw; subst ha
  case loop | loopr => rw [guardSkip_loop _ _ _ (by decide)]; exact ⟨_, fun _ => rfl⟩
  all_goals simp only [guardSkip, fOp_encA, fOp_encI, fOp_encL, fOp_encB, fOp_encX, Nat.reduceMod, Nat.reduceEqDiff, or_self, if_false]
  case frd | fwr | fwrBuffer | xtr | csum | tstampShort | tstampSeconds | tstampMark | lkpExact | lkpLpm | lrn | del | conLookup | conOpen
      | conUpdate | conClose | alloc | share | release | free | meter | verdictConfirm | verdictWithdraw | enq | enqBuf | mcast | drop
      | punt | recirc | done =>
    exact ⟨_, fun s => congrArg Host.Outcome.next (packetX_thread t _ _ _ s)⟩
  all_goals exact ⟨_, fun _ => rfl⟩

/-- Each instruction of cores is one coreStep of its words, but for the tick program that a WFI completes (R40). -/
theorem exec_core {i : Instr} {who : Agent} {w : BitVec 32} {y : Option (BitVec 32)} {s : State} {k : Nat} (hk : k ∈ agentCores s who)
    (ha : agentOf i = some who) (hw : words i = some (w, y)) (hlead : y = none → leadExecutes s who w = false) :
    ∃ run perform, exec i s = .next (coreStep who w y run perform s) := by
  cases i <;> simp only [agentOf, words, reduceCtorEq, Option.some.injEq, Prod.mk.injEq] at ha hw
  case kloadOtpWrite cut =>
    cases cut <;> simp only [reduceCtorEq, Option.some.injEq, Prod.mk.injEq] at ha hw
    obtain ⟨rfl, rfl⟩ := hw; subst ha
    exact ⟨_, _, congrArg Host.Outcome.next (planeX_core hk _ _ _ _ _ _)⟩
  all_goals obtain ⟨rfl, rfl⟩ := hw; subst ha
  case stage | commit | abortCommit | abortGroup | thawMaster | thawPartner | gatelist | shaper | epoch | bank | leaseTake | leaseJoin
      | leaseForce | leaseRelease | kloadRoot | kloadFallback | kloadLifecycle | kloadClear | kderive | kwrapWrap | kwrapUnwrap | ksign
      | kverify =>
    exact ⟨_, _, congrArg Host.Outcome.next (planeX_core hk _ _ _ _ _ _)⟩
  case ld8u | ld16u | ld32u | ld64 | ld8s | ld16s | ld32s | st8 | st16 | st32 | st64 | amoadd =>
    cases ‹Agent› with
    | thread t => simp [agentCores] at hk
    | _ => exact ⟨_, mapAccess, rfl⟩
  case wfi =>
    simp only [exec, execWfi, hlead rfl, Bool.false_eq_true, if_false]
    cases ‹Agent› with
    | thread t => simp [agentCores] at hk
    | _ => exact ⟨_, noRequest, rfl⟩
  all_goals
    cases ‹Agent› with
    | thread t => simp [agentCores] at hk
    | _ => exact ⟨_, noRequest, rfl⟩

/-! ### How the instruction of a thread ends -/

/-- A thread's step that leaves the thread x with its slots taken: only the thread changed. -/
theorem onlyThread_setThread {s : State} {t : Nat} {p : Packet} {x : Thread} (hx : x.pkt = some p) :
    OnlyThread s (setThread (issued s t) t x) t ∧ getThread (setThread (issued s t) t x) t = x :=
  ⟨setThread_only _ _ _, getThread_setThread _ _ (Thread.ne_reset hx)⟩

/-- The thread that an instruction's meaning finds, its slots taken. -/
theorem threadTaken_setThread {s : State} {t n : Nat} {p : Packet} (h : (getThread s t).pkt = some p) (x : Thread) :
    setThread (threadTaken s t n) t x = setThread (issued s t) t x :=
  setThread_setThread (issued s t) t (x := { getThread s t with slots := (getThread s t).slots + n }) (Thread.ne_reset (p := p) h) x

/-- An instruction that issues with its guard 0 takes one slot and does what the guard leaves of it (R46, R70). -/
theorem threadStep_skip {s : State} {t : Nat} {w : BitVec 32} {y : Option (BitVec 32)} {p : Packet} {skip : State → TRes}
    (run : State → TRes) (h : ThreadIssues s t w y p) (hg : ¬ guardHolds (getThread s t).regs w) :
    threadStep t w y skip run s = threadEnd (threadTaken s t 1) t (getThread s t).pc y (skip (threadTaken s t 1)) := by
  obtain ⟨g, hprog, hslots⟩ := h.budget
  have hno : (decide (fOp w.toNat = 0x50 ∨ fOp w.toNat = 0x51) || pget (getThread s t).regs (fG w.toNat)) = false := by
    simp only [guardHolds, not_or] at hg; simp [hg]
  have hplane : ¬ (0x70 ≤ fOp w.toNat ∧ fOp w.toNat ≤ 0x77) := by have := h.noPlane; omega
  have hlegal : ¬ (legalP w.toNat ((y.getD 0#32).toNat) = false ∨ (y.isSome && loopEndsAt (getThread s t) ((getThread s t).pc + 4#64)) = true) := by
    rw [h.legal]
    cases hy : y.isSome
    · simp
    · simp [h.oneWord hy]
  have hbudget : ¬ g.c < (getThread s t).slots + 1 := by
    have : 1 ≤ wordsOf y := by unfold wordsOf; split <;> decide
    omega
  simp only [threadStep, h.packet, h.thawed, h.notWaiting, Bool.or_self, Bool.false_eq_true, if_false, hplane, hlegal, hno,
    Bool.and_false, passProg_issued, hprog, gt_iff_lt, hbudget, decide_false, threadTaken]
  split <;> rename_i hr <;> simp only [hr, threadEnd]

/-- An instruction whose meaning leaves the thread x and transfers control to a. -/
theorem threadStep_jump {s : State} {t : Nat} {w : BitVec 32} {y : Option (BitVec 32)} {p : Packet} {skip run : State → TRes} {x : Thread}
    {a : Word} (h : ThreadIssues s t w y p) (hg : guardHolds (getThread s t).regs w)
    (hrun : run (threadTaken s t (wordsOf y)) = .jump (setThread (issued s t) t x) a) (hx : x.pkt = some p) :
    OnlyThread s (threadStep t w y skip run s) t ∧ getThread (threadStep t w y skip run s) t = { x with pc := a } := by
  have hne := Thread.ne_reset hx
  rw [threadStep_issues skip run h hg, hrun, threadEnd, getThread_setThread _ _ hne, setThread_setThread _ _ hne]
  exact onlyThread_setThread (p := p) hx

/-- An instruction whose meaning leaves the thread x and falls through. -/
theorem threadStep_fall {s : State} {t : Nat} {w : BitVec 32} {y : Option (BitVec 32)} {p : Packet} {skip run : State → TRes} {x : Thread}
    (h : ThreadIssues s t w y p) (hg : guardHolds (getThread s t).regs w)
    (hrun : run (threadTaken s t (wordsOf y)) = .fall (setThread (issued s t) t x)) (hx : x.pkt = some p) :
    OnlyThread s (threadStep t w y skip run s) t ∧ getThread (threadStep t w y skip run s) t =
      afterInstr x (getThread s t).pc ((getThread s t).pc + if y.isSome then 8#64 else 4#64) := by
  have hne := Thread.ne_reset hx
  rw [threadStep_issues skip run h hg, hrun, threadEnd, getThread_setThread _ _ hne, setThread_setThread _ _ hne]
  exact onlyThread_setThread (p := p) (by rw [afterInstr_pkt, hx])

/-- An instruction whose meaning faults: its slots are taken. -/
theorem threadStep_fault {s : State} {t : Nat} {w : BitVec 32} {y : Option (BitVec 32)} {p : Packet} {skip run : State → TRes}
    {code info : Nat} (h : ThreadIssues s t w y p) (hg : guardHolds (getThread s t).regs w)
    (hrun : run (threadTaken s t (wordsOf y)) = .fault code info) :
    threadStep t w y skip run s = threadFault (threadTaken s t (wordsOf y)) t code info := by
  rw [threadStep_issues skip run h hg, hrun, threadEnd]

/-! ### How the instruction of a core ends -/

theorem wordsOf_bytes (y : Option (BitVec 32)) : (if y.isSome then 8 else 4) = 4 * wordsOf y := by
  unfold wordsOf; split <;> rfl

/-- A core that issues with its guard 1 runs the meaning. -/
theorem coreIssue_run {s : State} {who : Agent} {k : Nat} {w : BitVec 32} {y : Option (BitVec 32)} (run : State → Nat → SCore → CRes)
    (h : CoreIssues s who k w y) (hg : guardHolds (getCore s k).regs w) : coreIssue s k w y run = run s k (getCore s k) := by
  have hgo : (decide (fOp w.toNat = 0x50 ∨ fOp w.toNat = 0x51) || pget (getCore s k).regs (fG w.toNat)) = true := by
    rcases hg with h | h | h <;> simp [h]
  simp only [coreIssue, wordsOf_bytes, h.fetch, h.legal, hgo, Bool.true_eq_false, if_false, if_true]

/-- A core that issues with its guard 0 goes on. -/
theorem coreIssue_skip {s : State} {who : Agent} {k : Nat} {w : BitVec 32} {y : Option (BitVec 32)} (run : State → Nat → SCore → CRes)
    (h : CoreIssues s who k w y) (hg : ¬ guardHolds (getCore s k).regs w) : coreIssue s k w y run = .fall (getCore s k) := by
  have hno : (decide (fOp w.toNat = 0x50 ∨ fOp w.toNat = 0x51) || pget (getCore s k).regs (fG w.toNat)) = false := by
    simp only [guardHolds, not_or] at hg; simp [hg]
  simp only [coreIssue, wordsOf_bytes, h.fetch, h.legal, hno, Bool.true_eq_false, Bool.false_eq_true, if_false]

/-- A step of cores depends on its meaning through what each free core issues. -/
theorem coreStep_congr {s : State} {who : Agent} {w : BitVec 32} {y : Option (BitVec 32)} {run run' : State → Nat → SCore → CRes}
    (perform : State → Nat → Req → State × Reply)
    (h : ∀ k ∈ agentCores s who, coreIdle s k = false → coreIssue s k w y run = coreIssue s k w y run') :
    coreStep who w y run perform s = coreStep who w y run' perform s := by
  have hrs : ((agentCores s who).filter (fun k => !coreIdle s k)).map (fun k => (k, coreIssue s k w y run)) =
      ((agentCores s who).filter (fun k => !coreIdle s k)).map (fun k => (k, coreIssue s k w y run')) :=
    List.map_congr_left fun k hk => by
      obtain ⟨hk, hfree⟩ := List.mem_filter.1 hk
      rw [h k hk (by simpa using hfree)]
  simp only [coreStep, hrs]

/-- A meaning with the requests that it would make left out. -/
def quieted (run : State → Nat → SCore → CRes) (s : State) (k : Nat) (c : SCore) : CRes := match run s k c with
  | .ask _ _ => .fall c
  | r => r

theorem askOf_quieted (run : State → Nat → SCore → CRes) (s : State) (k : Nat) (c : SCore) : askOf (quieted run s k c) = none := by
  unfold quieted; cases run s k c <;> rfl

theorem quieted_eq {run : State → Nat → SCore → CRes} {s : State} {k : Nat} {c : SCore} (h : askOf (run s k c) = none) :
    quieted run s k c = run s k c := by
  unfold quieted
  cases hr : run s k c with
  | ask q fin => rw [hr] at h; cases h
  | _ => rfl

theorem coreIssue_quieted {s : State} {k : Nat} {w : BitVec 32} {y : Option (BitVec 32)} {run : State → Nat → SCore → CRes}
    (h : askOf (coreIssue s k w y run) = none) : coreIssue s k w y run = coreIssue s k w y (quieted run) := by
  simp only [coreIssue, wordsOf_bytes] at h ⊢
  split_ifs at h ⊢ with hfetch hlegal hgo
  · rfl
  · rfl
  · exact (quieted_eq h).symm
  · rfl

/-- A step in which no free core of the agent asks for anything: each does its own part. -/
theorem coreStep_local {s : State} {who : Agent} {w : BitVec 32} {y : Option (BitVec 32)} {run : State → Nat → SCore → CRes}
    (perform : State → Nat → Req → State × Reply)
    (hq : ∀ k ∈ agentCores s who, coreIdle s k = false → askOf (coreIssue s k w y run) = none) :
    coreStep who w y run perform s = (issuedCores s who w y run).foldl (coreLocal (4 * wordsOf y)) s := by
  have hsame : ∀ k ∈ agentCores s who, coreIdle s k = false → coreIssue s k w y run = coreIssue s k w y (quieted run) :=
    fun k hk hfree => coreIssue_quieted (hq k hk hfree)
  have hissued : issuedCores s who w y run = issuedCores s who w y (quieted run) :=
    List.map_congr_left fun k hk => by
      obtain ⟨hk, hfree⟩ := List.mem_filter.1 hk
      rw [hsame k hk (by simpa using hfree)]
  rw [coreStep_congr perform hsame, coreStep_quiet perform (fun k c => askOf_quieted run s k c), hissued, wordsOf_bytes]

/-- The part of one free core of the agent, where none asks for anything; cores of others stay. -/
theorem coreStep_at {s : State} {who : Agent} {k : Nat} {w : BitVec 32} {y : Option (BitVec 32)} {run : State → Nat → SCore → CRes}
    (perform : State → Nat → Req → State × Reply)
    (hq : ∀ k ∈ agentCores s who, coreIdle s k = false → askOf (coreIssue s k w y run) = none) (hk : k ∈ agentCores s who)
    (hfree : coreIdle s k = false) (hr : Rising s.cores) :
    getCore (coreStep who w y run perform s) k = getCore (coreLocal (4 * wordsOf y) s (k, coreIssue s k w y run)) k ∧
      ∀ j, j ∉ agentCores s who → getCore (coreStep who w y run perform s) j = getCore s j := by
  have hn : (issuedCores s who w y run).map (·.1) = (agentCores s who).filter (fun k => !coreIdle s k) := by
    simp [issuedCores, List.map_map, Function.comp_def]
  have hnd : ((issuedCores s who w y run).map (·.1)).Nodup := by rw [hn]; exact (agentCores_nodup s who).filter _
  rw [coreStep_local perform hq]
  obtain ⟨_, hothers, hmine, _⟩ := foldl_coreLocal (4 * wordsOf y) _ s hnd hr
  refine ⟨hmine k _ (List.mem_map.2 ⟨k, List.mem_filter.2 ⟨hk, by simp [hfree]⟩, rfl⟩), fun j hj => hothers j ?_⟩
  rw [hn]
  exact fun hx => hj (List.mem_of_mem_filter hx)

/-- Such a step changes the agent's cores only, unless it stops a Tally core (R502). -/
theorem coreStep_onlyCores {s : State} {who : Agent} {k : Nat} {w : BitVec 32} {y : Option (BitVec 32)} {run : State → Nat → SCore → CRes}
    (perform : State → Nat → Req → State × Reply)
    (hq : ∀ k ∈ agentCores s who, coreIdle s k = false → askOf (coreIssue s k w y run) = none) (hk : k ∈ agentCores s who)
    (hfree : coreIdle s k = false) (hr : Rising s.cores)
    (hin : k < 3 ∨ coreLocal (4 * wordsOf y) s (k, coreIssue s k w y run) =
      { s with cores := (coreLocal (4 * wordsOf y) s (k, coreIssue s k w y run)).cores }) :
    OnlyCores s (coreStep who w y run perform s) who := by
  refine ⟨(coreStep_at perform hq hk hfree hr).2, ?_⟩
  have triad (hall : ∀ j ∈ agentCores s who, j < 3) :
      coreStep who w y run perform s = { s with cores := (coreStep who w y run perform s).cores } := by
    have hn : (issuedCores s who w y run).map (·.1) = (agentCores s who).filter (fun k => !coreIdle s k) := by
      simp [issuedCores, List.map_map, Function.comp_def]
    have hnd : ((issuedCores s who w y run).map (·.1)).Nodup := by rw [hn]; exact (agentCores_nodup s who).filter _
    rw [coreStep_local perform hq]
    refine (foldl_coreLocal (4 * wordsOf y) _ s hnd hr).2.2.2 fun e he => .inl ?_
    obtain ⟨j, hj, rfl⟩ := List.mem_map.1 he
    exact hall j (List.mem_of_mem_filter hj)
  rcases agentCores_cases hk with hone | hall
  · rcases hin with hk3 | hin
    · exact triad (by rw [hone]; simpa using hk3)
    · have : issuedCores s who w y run = [(k, coreIssue s k w y run)] := by simp [issuedCores, hone, hfree]
      rw [coreStep_local perform hq, this]
      exact hin
  · exact triad hall

theorem getCore_takeException {s : State} {k code : Nat} {tval epc : Word} (hr : Rising s.cores) :
    getCore (takeException s k code tval epc) k = exception k (getCore s k) code tval epc := by
  unfold takeException
  simp only
  split
  · exact getCore_setCore _ _ _ hr
  · exact getCore_setCore _ _ _ hr

/-- An exception that does not stop its core changes that core only. -/
theorem takeException_inside {s : State} {k code : Nat} {tval epc : Word} (h : (exception k (getCore s k) code tval epc).stopped = false) :
    takeException s k code tval epc = { s with cores := (takeException s k code tval epc).cores } := by
  simp only [takeException, h, Bool.false_eq_true, false_and, if_false]
  rfl

/-- What an agent's cores do with an instruction that sends nothing out, one way of ending for each: fall through. -/
theorem coreStep_fall {s : State} {who : Agent} {k : Nat} {w : BitVec 32} {y : Option (BitVec 32)} {run : State → Nat → SCore → CRes}
    {c : SCore} (perform : State → Nat → Req → State × Reply)
    (hq : ∀ k ∈ agentCores s who, coreIdle s k = false → askOf (coreIssue s k w y run) = none) (hk : k ∈ agentCores s who)
    (hfree : coreIdle s k = false) (hr : Rising s.cores) (hrun : coreIssue s k w y run = .fall c) :
    OnlyCores s (coreStep who w y run perform s) who ∧ getCore (coreStep who w y run perform s) k =
      { c with pc := c.pc + BitVec.ofNat 64 (4 * wordsOf y), retired := (c.retired + 1) % 2 ^ 64 } := by
  refine ⟨coreStep_onlyCores perform hq hk hfree hr (.inr (by rw [hrun]; rfl)), ?_⟩
  rw [(coreStep_at perform hq hk hfree hr).1, hrun]
  exact getCore_setCore _ _ _ hr

/-- Control goes to a. -/
theorem coreStep_jump {s : State} {who : Agent} {k : Nat} {w : BitVec 32} {y : Option (BitVec 32)} {run : State → Nat → SCore → CRes}
    {c : SCore} {a : Word} (perform : State → Nat → Req → State × Reply)
    (hq : ∀ k ∈ agentCores s who, coreIdle s k = false → askOf (coreIssue s k w y run) = none) (hk : k ∈ agentCores s who)
    (hfree : coreIdle s k = false) (hr : Rising s.cores) (hrun : coreIssue s k w y run = .jump c a) :
    OnlyCores s (coreStep who w y run perform s) who ∧ getCore (coreStep who w y run perform s) k =
      { c with pc := a, retired := (c.retired + 1) % 2 ^ 64 } := by
  refine ⟨coreStep_onlyCores perform hq hk hfree hr (.inr (by rw [hrun]; rfl)), ?_⟩
  rw [(coreStep_at perform hq hk hfree hr).1, hrun]
  exact getCore_setCore _ _ _ hr

/-- The core traps at its own instruction. -/
theorem coreStep_trap {s : State} {who : Agent} {k : Nat} {w : BitVec 32} {y : Option (BitVec 32)} {run : State → Nat → SCore → CRes}
    {code : Nat} {tval : Word} (perform : State → Nat → Req → State × Reply)
    (hq : ∀ k ∈ agentCores s who, coreIdle s k = false → askOf (coreIssue s k w y run) = none) (hk : k ∈ agentCores s who)
    (hfree : coreIdle s k = false) (hr : Rising s.cores) (hrun : coreIssue s k w y run = .trap code tval) :
    getCore (coreStep who w y run perform s) k = exception k (getCore s k) code tval (getCore s k).pc ∧
      (∀ j, j ∉ agentCores s who → getCore (coreStep who w y run perform s) j = getCore s j) ∧
      (k < 3 ∨ (exception k (getCore s k) code tval (getCore s k).pc).stopped = false → OnlyCores s (coreStep who w y run perform s) who) := by
  obtain ⟨hmine, hothers⟩ := coreStep_at perform hq hk hfree hr
  rw [hrun] at hmine
  refine ⟨hmine.trans (getCore_takeException hr), hothers, fun hin => coreStep_onlyCores perform hq hk hfree hr ?_⟩
  exact hin.imp_right fun h => by rw [hrun]; exact takeException_inside h

/-- The core takes a service trap, which resumes at the next instruction. -/
theorem coreStep_service {s : State} {who : Agent} {k : Nat} {w : BitVec 32} {y : Option (BitVec 32)} {run : State → Nat → SCore → CRes}
    {code : Nat} {tval : Word} (perform : State → Nat → Req → State × Reply)
    (hq : ∀ k ∈ agentCores s who, coreIdle s k = false → askOf (coreIssue s k w y run) = none) (hk : k ∈ agentCores s who)
    (hfree : coreIdle s k = false) (hr : Rising s.cores) (hrun : coreIssue s k w y run = .service code tval)
    (hin : k < 3 ∨ (exception k (getCore s k) code tval ((getCore s k).pc + BitVec.ofNat 64 (4 * wordsOf y))).stopped = false) :
    OnlyCores s (coreStep who w y run perform s) who ∧ getCore (coreStep who w y run perform s) k =
      exception k (getCore s k) code tval ((getCore s k).pc + BitVec.ofNat 64 (4 * wordsOf y)) := by
  refine ⟨coreStep_onlyCores perform hq hk hfree hr (hin.imp_right fun h => by rw [hrun]; exact takeException_inside h), ?_⟩
  rw [(coreStep_at perform hq hk hfree hr).1, hrun]
  exact getCore_takeException hr

end Sys2Proof.Machine
end

section
/-! PROOFS. Control: branches, calls, returns and loops of both profiles, and instructions whose guard reads 0 (R46, R62 to R64). -/

namespace Sys2Proof.Machine

/-! ### Targets and stacks -/

/-- The signed value of the low bits of a bit vector's number. -/
theorem sgn_toNat {n : Nat} (x : BitVec n) (hn : 0 < n) : sgn n x.toNat = x.toInt := by
  have hx := x.isLt
  have hpow : 2 ^ n = 2 * 2 ^ (n - 1) := by rw [← Nat.pow_succ']; congr 1; omega
  unfold sgn
  rw [Nat.mod_eq_of_lt hx, BitVec.toInt_eq_toNat_cond]
  by_cases h : x.toNat < 2 ^ (n - 1)
  · rw [if_pos h, if_pos (by omega)]
  · rw [if_neg h, if_neg (by omega)]; norm_cast

theorem sx_toNat {n : Nat} (x : BitVec n) (hn : 0 < n) : sx n x.toNat = BitVec.ofInt 64 x.toInt := by
  rw [sx, sgn_toNat x hn]

theorem dispTarget_eq (pc : Word) (f : FmtB) : dispTarget pc f = pc + BitVec.ofInt 64 (f.disp.toInt * 4) := by
  rw [dispTarget, sx_toNat _ (by decide), BitVec.ofInt_mul]; rfl

theorem popLoops_eq (a : Word) : ∀ l : List LoopEnt,
    popLoops a l = l.dropWhile (fun e => decide (a.toNat < e.start.toNat ∨ e.stop.toNat < a.toNat))
  | [] => rfl
  | e :: l => by
    rw [popLoops, List.dropWhile_cons, popLoops_eq a l]
    by_cases h : e.start.toNat ≤ a.toNat ∧ a.toNat ≤ e.stop.toNat
    · rw [if_pos h, if_neg (by simp; omega)]
    · rw [if_neg h, if_pos (by simp; omega)]

theorem loopExit_eq (pc : Word) (len : Nat) : loopExit pc len = pc + BitVec.ofNat 64 (4 + 4 * len) := by
  rw [loopExit, BitVec.add_assoc, BitVec.ofNat_add]

/-- BR and CALL carry no guard (R46). -/
theorem guardHolds_encB (r : Regs) {op : Nat} (f : FmtB) (h : op = 0x50 ∨ op = 0x51) : guardHolds r (encB op f) := by
  rcases h with rfl | rfl
  · exact .inl (fOp_encB _ f)
  · exact .inr (.inl (fOp_encB _ f))

/-! ### Threads -/

section Thread
variable {s : State} {t : Fin 512} {p : Packet}

theorem br_thread {f : FmtB} (h : ThreadIssues s t (encB 0x50 f) none p) :
    ∃ s', exec (.br (.thread t) f) s = .next s' ∧ OnlyThread s s' t ∧ getThread s' t =
      let th := getThread s t
      let a := th.pc + BitVec.ofInt 64 (f.disp.toInt * 4)
      if pget th.regs f.p.toNat = f.t then
        { th with slots := th.slots + 1, pc := a
                  lstack := th.lstack.dropWhile (fun e => decide (a.toNat < e.start.toNat ∨ e.stop.toNat < a.toNat)) }
      else afterInstr { th with slots := th.slots + 1 } th.pc (th.pc + 4#64) := by
  have hg := guardHolds_encB (getThread s t).regs f (.inl rfl)
  have hth := threadTaken_thread 1 h.packet
  refine ⟨_, rfl, ?_⟩
  by_cases htaken : pget (getThread s t).regs f.p.toNat = f.t
  · simp only [if_pos htaken]
    rw [← dispTarget_eq, ← popLoops_eq]
    refine threadStep_jump (p := p) (x := { getThread s t with
      slots := (getThread s t).slots + 1, lstack := popLoops (dispTarget (getThread s t).pc f) (getThread s t).lstack }) h hg ?_ h.packet
    simp only [wordsOf, Option.isSome_none, Bool.false_eq_true, if_false, hth]
    rw [if_pos (by exact htaken), threadTaken_setThread h.packet]
  · simp only [if_neg htaken]
    refine threadStep_fall (p := p) (x := { getThread s t with slots := (getThread s t).slots + 1 }) h hg ?_ h.packet
    simp only [wordsOf, Option.isSome_none, Bool.false_eq_true, if_false, hth]
    rw [if_neg (by exact htaken)]
    rfl

theorem call_thread {f : FmtB} (h : ThreadIssues s t (encB 0x51 f) none p) (hroom : (getThread s t).rstack.length < 4) :
    ∃ s', exec (.call (.thread t) f) s = .next s' ∧ OnlyThread s s' t ∧ getThread s' t =
      let th := getThread s t
      if pget th.regs f.p.toNat = f.t then
        { th with slots := th.slots + 1, pc := th.pc + BitVec.ofInt 64 (f.disp.toInt * 4), rstack := (th.pc + 4#64) :: th.rstack }
      else afterInstr { th with slots := th.slots + 1 } th.pc (th.pc + 4#64) := by
  have hg := guardHolds_encB (getThread s t).regs f (.inr rfl)
  have hth := threadTaken_thread 1 h.packet
  refine ⟨_, rfl, ?_⟩
  by_cases htaken : pget (getThread s t).regs f.p.toNat = f.t
  · simp only [if_pos htaken]
    rw [← dispTarget_eq]
    refine threadStep_jump (p := p) (x := { getThread s t with
      slots := (getThread s t).slots + 1, rstack := ((getThread s t).pc + 4#64) :: (getThread s t).rstack }) h hg ?_ h.packet
    simp only [wordsOf, Option.isSome_none, Bool.false_eq_true, if_false, hth]
    rw [if_pos (by exact htaken), if_neg (by omega), threadTaken_setThread h.packet]
  · simp only [if_neg htaken]
    refine threadStep_fall (p := p) (x := { getThread s t with slots := (getThread s t).slots + 1 }) h hg ?_ h.packet
    simp only [wordsOf, Option.isSome_none, Bool.false_eq_true, if_false, hth]
    rw [if_neg (by exact htaken)]
    rfl

theorem ret_thread {fn : BitVec 4} {f : FmtA} {a : Word} {l : List Word} (h : ThreadIssues s t (encA 0x52 f fn.toNat) none p)
    (hg : guardHolds (getThread s t).regs (encA 0x52 f fn.toNat)) (hstack : (getThread s t).rstack = a :: l) :
    ∃ s', exec (.ret (.thread t) fn f) s = .next s' ∧ OnlyThread s s' t ∧
      getThread s' t = { getThread s t with slots := (getThread s t).slots + 1, pc := a, rstack := l } := by
  refine ⟨_, rfl, threadStep_jump (p := p) (x := { getThread s t with slots := (getThread s t).slots + 1, rstack := l }) h hg ?_ h.packet⟩
  simp only [wordsOf, Option.isSome_none, Bool.false_eq_true, if_false, threadTaken_thread 1 h.packet, hstack]
  rw [threadTaken_setThread h.packet]

/-- The set-up of a loop of n rounds, where the stack has room (R64). -/
theorem loopEnter_thread {w : BitVec 32} {n len : Nat} {skip : State → TRes} {run : State → TRes} (h : ThreadIssues s t w none p)
    (hg : guardHolds (getThread s t).regs w) (hroom : (getThread s t).lstack.length < 4)
    (hrun : run (threadTaken s t 1) = loopEnter t n len (threadTaken s t 1)) :
    OnlyThread s (threadStep t w none skip run s) t ∧ getThread (threadStep t w none skip run s) t =
      let th := getThread s t
      if n = 0 then { th with slots := th.slots + 1, pc := th.pc + BitVec.ofNat 64 (4 + 4 * len) }
      else
        { th with slots := th.slots + 1, pc := th.pc + 4#64
                  lstack := { start := th.pc + 4#64, stop := th.pc + BitVec.ofNat 64 (4 * len), remaining := n } :: th.lstack } := by
  have hth := threadTaken_thread 1 h.packet
  by_cases hn : n = 0
  · simp only [if_pos hn]
    refine threadStep_jump (p := p) (x := { getThread s t with slots := (getThread s t).slots + 1 }) h hg ?_ h.packet
    simp only [wordsOf, Option.isSome_none, Bool.false_eq_true, if_false, hrun, loopEnter, hth, if_pos hn, loopExit_eq]
    rfl
  · simp only [if_neg hn]
    refine threadStep_jump (p := p) (x := { getThread s t with
      slots := (getThread s t).slots + 1
      lstack := { start := (getThread s t).pc + 4#64, stop := (getThread s t).pc + BitVec.ofNat 64 (4 * len), remaining := n }
        :: (getThread s t).lstack }) h hg ?_ h.packet
    simp only [wordsOf, Option.isSome_none, Bool.false_eq_true, if_false, hrun, loopEnter, hth, if_neg hn]
    rw [if_neg (by omega), threadTaken_setThread h.packet]

/-- A legal LOOP runs one round or more (R64). -/
theorem loop_rounds_ne_zero {f : FmtI} (h : ThreadIssues s t (encI 0x53 f) none p) : f.d.toNat * 64 + f.a.toNat ≠ 0 := by
  have hlegal := h.legal
  simp only [legalP, fOp_encI] at hlegal
  have hD : fD (encI 0x53 f).toNat * 64 + fA (encI 0x53 f).toNat = f.d.toNat * 64 + f.a.toNat := by
    have := encI_toNat 0x53 f
    simp only [fD, fA, bits]; omega
  rw [← hD]
  exact of_decide_eq_true (Bool.and_eq_true _ _ ▸ hlegal).2

/-- A full or an empty stack freezes the thread (R63, R64). -/
theorem control_fault {i : Instr} {w : BitVec 32} (h : ThreadIssues s t w none p) (hg : guardHolds (getThread s t).regs w)
    (hcase : (∃ f : FmtB, i = .call (.thread t) f ∧ w = encB 0x51 f ∧ pget (getThread s t).regs f.p.toNat = f.t ∧
        4 ≤ (getThread s t).rstack.length)
      ∨ (∃ (fn : BitVec 4) (f : FmtA), i = .ret (.thread t) fn f ∧ w = encA 0x52 f fn.toNat ∧ (getThread s t).rstack = [])
      ∨ (∃ f : FmtI, i = .loop (.thread t) f ∧ w = encI 0x53 f ∧ 4 ≤ (getThread s t).lstack.length)
      ∨ (∃ f : FmtI, i = .loopr (.thread t) f ∧ w = encI 0x54 f ∧ rget (getThread s t).regs f.a.toNat ≠ 0#64 ∧
        4 ≤ (getThread s t).lstack.length)) :
    exec i s = .next (threadFault (slotsTaken s t 1) t vADDR (getThread s t).pc.toNat) := by
  have hth := threadTaken_thread 1 h.packet
  have loopFault {n len : Nat} (hn : n ≠ 0) (hfull : 4 ≤ (getThread s t).lstack.length) :
      loopEnter t n len (threadTaken s t 1) = .fault vADDR (getThread s t).pc.toNat := by
    simp only [loopEnter, hth, if_neg hn, ge_iff_le, if_pos hfull]
  rcases hcase with ⟨f, rfl, rfl, htaken, hfull⟩ | ⟨fn, f, rfl, rfl, hempty⟩ | ⟨f, rfl, rfl, hfull⟩ | ⟨f, rfl, rfl, hne, hfull⟩
  · refine congrArg Host.Outcome.next (threadStep_fault h hg ?_)
    simp only [wordsOf, Option.isSome_none, Bool.false_eq_true, if_false, hth]
    rw [if_pos (by exact htaken), if_pos hfull]
  · refine congrArg Host.Outcome.next (threadStep_fault h hg ?_)
    simp only [wordsOf, Option.isSome_none, Bool.false_eq_true, if_false, hth, hempty]
  · exact congrArg Host.Outcome.next (threadStep_fault h hg (loopFault (loop_rounds_ne_zero h) hfull))
  · refine congrArg Host.Outcome.next (threadStep_fault h hg ?_)
    have hpos : 0 < (rget (getThread s t).regs f.a.toNat).toNat := Nat.pos_of_ne_zero fun h0 => hne (BitVec.eq_of_toNat_eq h0)
    show loopEnter t (min (rget (getThread (threadTaken s t 1) t).regs f.a.toNat).toNat (2 ^ f.d.toNat)) f.imm.toNat (threadTaken s t 1) = _
    rw [hth]
    exact loopFault (by have := Nat.two_pow_pos f.d.toNat; show min _ _ ≠ 0; exact (Nat.lt_min.2 ⟨hpos, this⟩).ne') hfull

end Thread

/-! ### Cores -/

section Core
variable {s : State} {who : Agent} {k : Nat}

/-- A control instruction of cores: what core k does with it. -/
theorem exec_coreStep {i : Agent → Instr} {w : BitVec 32} {run : State → Nat → SCore → CRes}
    (hk : k ∈ agentCores s who) (htriad : exec (i .triad) s = .next (coreStep .triad w none run noRequest s))
    (hcore : ∀ j, exec (i (.triadCore j)) s = .next (coreStep (.triadCore j) w none run noRequest s))
    (htally : ∀ c, exec (i (.tally c)) s = .next (coreStep (.tally c) w none run noRequest s)) :
    exec (i who) s = .next (coreStep who w none run noRequest s) :=
  coreAgent_cases (P := fun who => exec (i who) s = .next (coreStep who w none run noRequest s)) hk htriad hcore htally

/-- A meaning that asks for nothing presents nothing. -/
theorem issue_quiet {w : BitVec 32} {y : Option (BitVec 32)} {run : State → Nat → SCore → CRes} (h : ∀ k c, askOf (run s k c) = none) :
    ∀ k ∈ agentCores s who, coreIdle s k = false → askOf (coreIssue s k w y run) = none :=
  fun _ _ _ => askOf_coreIssue (h _)

theorem askOf_jumpTo (c : SCore) (a : Word) : askOf (jumpTo c a) = none := by
  unfold jumpTo; split <;> rfl

theorem br_core {f : FmtB} (h : CoreIssues s who k (encB 0x50 f) none) (hr : Rising s.cores) :
    ∃ s', exec (.br who f) s = .next s' ∧ OnlyCores s s' who ∧ getCore s' k =
      let c := getCore s k
      { c with pc := if pget c.regs f.p.toNat = f.t then c.pc + BitVec.ofInt 64 (f.disp.toInt * 4) else c.pc + 4#64
               retired := (c.retired + 1) % 2 ^ 64 } := by
  have hrun := coreIssue_run (fun _ _ c => if pget c.regs f.p.toNat = f.t then CRes.jump c (dispTarget c.pc f) else .fall c) h
    (guardHolds_encB _ f (.inl rfl))
  have hq := issue_quiet (s := s) (who := who) (w := encB 0x50 f) (y := none)
    (run := fun _ _ c => if pget c.regs f.p.toNat = f.t then CRes.jump c (dispTarget c.pc f) else .fall c) fun _ c => by
      split <;> rfl
  refine ⟨_, exec_coreStep (i := (.br · f)) h.mine rfl (fun _ => rfl) fun _ => rfl, ?_⟩
  by_cases htaken : pget (getCore s k).regs f.p.toNat = f.t
  · simp only [if_pos htaken] at hrun ⊢
    rw [← dispTarget_eq]
    exact coreStep_jump noRequest hq h.mine h.free hr hrun
  · simp only [if_neg htaken] at hrun ⊢
    exact coreStep_fall noRequest hq h.mine h.free hr hrun

theorem call_core {f : FmtB} (h : CoreIssues s who k (encB 0x51 f) none) (hr : Rising s.cores) (hw : tblWf 0#64 (getCore s k).w = true) :
    ∃ s', exec (.call who f) s = .next s' ∧ OnlyCores s s' who ∧
      if pget (getCore s k).regs f.p.toNat = f.t then
        RegIs 63#6 (fun _ => (getCore s k).pc + 4#64) (getCore s k).regs (getCore s' k).regs ∧
        getCore s' k = { getCore s k with w := (getCore s' k).w, pc := (getCore s k).pc + BitVec.ofInt 64 (f.disp.toInt * 4),
                                          retired := ((getCore s k).retired + 1) % 2 ^ 64 }
      else getCore s' k = { getCore s k with pc := (getCore s k).pc + 4#64, retired := ((getCore s k).retired + 1) % 2 ^ 64 } := by
  have hrun := coreIssue_run (fun _ _ c => if pget c.regs f.p.toNat = f.t then
      CRes.jump (c.setRegs (rset c.regs 63 (c.pc + 4#64))) (dispTarget c.pc f) else .fall c) h (guardHolds_encB _ f (.inr rfl))
  have hq := issue_quiet (s := s) (who := who) (w := encB 0x51 f) (y := none)
    (run := fun _ _ c => if pget c.regs f.p.toNat = f.t then
      CRes.jump (c.setRegs (rset c.regs 63 (c.pc + 4#64))) (dispTarget c.pc f) else .fall c) fun _ c => by split <;> rfl
  refine ⟨_, exec_coreStep (i := (.call · f)) h.mine rfl (fun _ => rfl) fun _ => rfl, ?_⟩
  by_cases htaken : pget (getCore s k).regs f.p.toNat = f.t
  · simp only [if_pos htaken] at hrun ⊢
    obtain ⟨honly, hcore⟩ := coreStep_jump noRequest hq h.mine h.free hr hrun
    refine ⟨honly, ?_⟩
    rw [hcore, ← dispTarget_eq]
    exact ⟨regIs_rset (d := 63#6) (v := fun _ => (getCore s k).pc + 4#64) hw, rfl⟩
  · simp only [if_neg htaken] at hrun ⊢
    exact coreStep_fall noRequest hq h.mine h.free hr hrun

/-- A jump of core k to an aligned address that it reads. -/
theorem jumpTo_core {w : BitVec 32} {a : SCore → Word} (h : CoreIssues s who k w none) (hg : guardHolds (getCore s k).regs w)
    (hr : Rising s.cores) (ha : (a (getCore s k)).toNat % 4 = 0) :
    OnlyCores s (coreStep who w none (fun _ _ c => jumpTo c (a c)) noRequest s) who ∧
      getCore (coreStep who w none (fun _ _ c => jumpTo c (a c)) noRequest s) k =
        { getCore s k with pc := a (getCore s k), retired := ((getCore s k).retired + 1) % 2 ^ 64 } :=
  coreStep_jump noRequest (issue_quiet fun _ _ => askOf_jumpTo _ _) h.mine h.free hr
    ((coreIssue_run (fun _ _ c => jumpTo c (a c)) h hg).trans (if_pos ha))

/-- The meaning of CALLR (R63). -/
def callrRun (f : FmtA) (c : SCore) : CRes :=
  let a := rget c.regs f.a.toNat
  if a.toNat % 4 = 0 then .jump (c.setRegs (rset c.regs 63 (c.pc + 4#64))) a else .trap cALIGN a

theorem askOf_callrRun (f : FmtA) (c : SCore) : askOf (callrRun f c) = none := by
  simp only [callrRun]; split <;> rfl

theorem exec_callr (f : FmtA) (hk : k ∈ agentCores s who) :
    exec (.callr who f) s = .next (coreStep who (encA 0x55 f 1) none (fun _ _ c => callrRun f c) noRequest s) :=
  exec_coreStep (i := (.callr · f)) hk rfl (fun _ => rfl) fun _ => rfl

/-- RET, JR and CALLR of a core to an address that is no multiple of 4 (R63). -/
theorem jump_misaligned {i : Instr} {w : BitVec 32} {a : Word} (hr : Rising s.cores) (h : CoreIssues s who k w none)
    (hg : guardHolds (getCore s k).regs w) (ha : a.toNat % 4 ≠ 0)
    (hcase : (∃ (fn : BitVec 4) (f : FmtA), i = .ret who fn f ∧ w = encA 0x52 f fn.toNat ∧ a = rget (getCore s k).regs 63)
      ∨ (∃ f : FmtA, i = .jr who f ∧ w = encA 0x55 f 0 ∧ a = rget (getCore s k).regs f.a.toNat)
      ∨ (∃ f : FmtA, i = .callr who f ∧ w = encA 0x55 f 1 ∧ a = rget (getCore s k).regs f.a.toNat)) :
    ∃ s', exec i s = .next s' ∧ getCore s' k = exception k (getCore s k) cALIGN a (getCore s k).pc ∧
      ∀ j, j ∉ agentCores s who → getCore s' j = getCore s j := by
  have trapped {run : State → Nat → SCore → CRes} (hq : ∀ k c, askOf (run s k c) = none)
      (hrun : run s k (getCore s k) = .trap cALIGN a) :
      getCore (coreStep who w none run noRequest s) k = exception k (getCore s k) cALIGN a (getCore s k).pc ∧
        ∀ j, j ∉ agentCores s who → getCore (coreStep who w none run noRequest s) j = getCore s j := by
    obtain ⟨hmine, hothers, _⟩ := coreStep_trap noRequest (issue_quiet hq) h.mine h.free hr ((coreIssue_run run h hg).trans hrun)
    exact ⟨hmine, hothers⟩
  rcases hcase with ⟨fn, f, rfl, rfl, rfl⟩ | ⟨f, rfl, rfl, rfl⟩ | ⟨f, rfl, rfl, rfl⟩
  · exact ⟨_, exec_coreStep (i := (.ret · fn f)) h.mine rfl (fun _ => rfl) fun _ => rfl, trapped (fun _ _ => askOf_jumpTo _ _) (if_neg ha)⟩
  · exact ⟨_, exec_coreStep (i := (.jr · f)) h.mine rfl (fun _ => rfl) fun _ => rfl, trapped (fun _ _ => askOf_jumpTo _ _) (if_neg ha)⟩
  · exact ⟨_, exec_callr f h.mine, trapped (fun _ _ => askOf_callrRun _ _) (if_neg ha)⟩

end Core

/-- Settles O7: each instruction's meaning ends in one of the ways of Issue (threadStep_jump, threadStep_fall, threadStep_fault and their
counterparts of cores), with the target and stacks of its lemma. -/
theorem controlFlow : Obligations.ControlFlow := by
  refine ⟨⟨fun s t p f => br_thread, fun s t p f => call_thread, fun s t p fn f a l => ret_thread, fun s t p f h hg hroom => ?loop,
    fun s t p f h hg hroom => ?loopr⟩, fun s who k hr hw => ⟨fun f h => br_core h hr, fun f h => call_core h hr hw,
    fun fn f h hg ha => ?ret, fun f h hg ha => ?jr, fun f h hg ha => ?callr⟩, fun s t p i w => control_fault,
    fun s who k i w a => jump_misaligned⟩
  case loop =>
    have hn : f.d.toNat * 64 + f.a.toNat ≠ 0 := loop_rounds_ne_zero h
    obtain ⟨honly, hthread⟩ := loopEnter_thread (n := f.d.toNat * 64 + f.a.toNat) (len := f.imm.toNat) (skip := loopSkip t f.imm.toNat)
      h hg hroom rfl
    refine ⟨_, rfl, honly, hthread.trans ?_⟩
    simp only [if_neg hn, Nat.mul_comm]
  case loopr =>
    refine ⟨_, rfl, loopEnter_thread (len := f.imm.toNat) (skip := loopSkip t f.imm.toNat) h hg hroom ?_⟩
    simp only [threadTaken_thread 1 h.packet]
    rfl
  case ret =>
    exact ⟨_, exec_coreStep (i := (.ret · fn f)) h.mine rfl (fun _ => rfl) fun _ => rfl, jumpTo_core h hg hr (ha k h.mine)⟩
  case jr =>
    exact ⟨_, exec_coreStep (i := (.jr · f)) h.mine rfl (fun _ => rfl) fun _ => rfl, jumpTo_core h hg hr (ha k h.mine)⟩
  case callr =>
    have hrun : callrRun f (getCore s k) = _ := if_pos (ha k h.mine)
    obtain ⟨honly, hcore⟩ := coreStep_jump noRequest (issue_quiet fun _ _ => askOf_callrRun _ _) h.mine h.free hr
      ((coreIssue_run (fun _ _ c => callrRun f c) h hg).trans hrun)
    refine ⟨_, exec_callr f h.mine, honly, ?_⟩
    rw [hcore]
    exact ⟨regIs_rset (d := 63#6) (v := fun _ => (getCore s k).pc + 4#64) hw, rfl⟩

/-! ### Guards that read 0 (R46) -/

/-- No core of an agent whose guards read 0 executes the instruction. -/
theorem leadExecutes_guardOff {s : State} {who : Agent} {w : BitVec 32}
    (h : ∀ k ∈ agentCores s who, CoreIssues s who k w none ∧ ¬ guardHolds (getCore s k).regs w) : leadExecutes s who w = false := by
  unfold leadExecutes
  cases hl : leadCore s who with
  | none => rfl
  | some k =>
    have hk : k ∈ agentCores s who := List.mem_of_mem_filter (List.mem_of_mem_head? hl)
    obtain ⟨hi, hg⟩ := h k hk
    simp only [coreIssue_skip _ hi hg, ite_self]

theorem guardOff_thread {s : State} {i : Instr} {t : Fin 512} {w : BitVec 32} {y : Option (BitVec 32)} {p : Packet}
    (ha : agentOf i = some (.thread t)) (hw : words i = some (w, y)) (h : ThreadIssues s t w y p) (hg : ¬ guardHolds (getThread s t).regs w) :
    ∃ s', exec i s = .next s' ∧ OnlyThread s s' t ∧ getThread s' t =
      let th := { getThread s t with slots := (getThread s t).slots + 1 }
      if fOp w.toNat = 0x53 ∨ fOp w.toNat = 0x54 then { th with pc := th.pc + 4#64 + BitVec.ofNat 64 (4 * fImm10 w.toNat) }
      else afterInstr th th.pc (th.pc + BitVec.ofNat 64 (4 * wordsOf y)) := by
  obtain ⟨run, hrun⟩ := exec_thread ha hw
  refine ⟨_, hrun s, ?_⟩
  rw [threadStep_skip run h hg]
  have hth := threadTaken_thread 1 h.packet
  have hne := Thread.ne_reset (x := { getThread s t with slots := (getThread s t).slots + 1 }) h.packet
  by_cases hloop : fOp w.toNat = 0x53 ∨ fOp w.toNat = 0x54
  · simp only [guardSkip, if_pos hloop, loopSkip, threadEnd, hth, threadTaken_setThread h.packet]
    exact onlyThread_setThread (p := p) h.packet
  · have hbytes : (if y.isSome then 8#64 else 4#64) = BitVec.ofNat 64 (4 * wordsOf y) := by unfold wordsOf; split <;> rfl
    simp only [guardSkip, if_neg hloop, threadEnd, hth, threadTaken_setThread h.packet, hbytes]
    exact onlyThread_setThread (p := p) (by rw [afterInstr_pkt]; exact h.packet)

theorem guardOff_core {s : State} {i : Instr} {who : Agent} {w : BitVec 32} {y : Option (BitVec 32)} (ha : agentOf i = some who)
    (hw : words i = some (w, y)) (hr : Rising s.cores) (hne : agentCores s who ≠ [])
    (h : ∀ k ∈ agentCores s who, CoreIssues s who k w y ∧ ¬ guardHolds (getCore s k).regs w) :
    ∃ s', exec i s = .next s' ∧ OnlyCores s s' who ∧ ∀ k ∈ agentCores s who,
      getCore s' k = { getCore s k with pc := (getCore s k).pc + BitVec.ofNat 64 (4 * wordsOf y), retired := ((getCore s k).retired + 1) % 2 ^ 64 } := by
  have hskip : ∀ run, ∀ k ∈ agentCores s who, coreIssue s k w y run = .fall (getCore s k) := fun run k hk =>
    coreIssue_skip run (h k hk).1 (h k hk).2
  obtain ⟨m, hm⟩ := List.exists_mem_of_ne_nil _ hne
  obtain ⟨run, perform, hexec⟩ := exec_core hm ha hw fun hy => leadExecutes_guardOff (by rw [← hy]; exact h)
  have hq : ∀ k ∈ agentCores s who, coreIdle s k = false → askOf (coreIssue s k w y run) = none := fun k hk _ => by
    rw [hskip run k hk]; rfl
  refine ⟨_, hexec, (coreStep_fall perform hq hm (h m hm).1.free hr (hskip run m hm)).1, fun k hk => ?_⟩
  exact (coreStep_fall perform hq hk (h k hk).1.free hr (hskip run k hk)).2

/-- Settles O8: every instruction is one step of its agent (exec_thread, exec_core), which the guard cuts short. -/
theorem guardOff : Obligations.GuardOff :=
  ⟨fun _ _ _ _ _ _ => guardOff_thread, fun _ _ _ _ _ => guardOff_core⟩

end Sys2Proof.Machine
end

section
/-! PROOFS. Memory: addresses and the bytes of memories as numbers, the loads and stores of threads in their scratch, and what an
instruction that may not execute raises (R50, R56 to R58, R61, R69, R70). -/

namespace Sys2Proof.Machine

/-! ### Addresses and bytes -/

theorem effAddr_eq (r : Regs) (f : FmtI) : effAddr r f = eaOf r f := by
  rw [effAddr, sx_toNat _ (by decide)]; rfl

/-- The number that n bytes of a memory hold, by their places. -/
theorem leNat_memBytes (m : Mem) (a n : Nat) : leNat (memBytes m a n) = leAt m a n := by
  have spelled (g : Nat → Byte) : ∀ n, leNat ((List.range n).map g) = ((List.range n).map (fun i => (g i).toNat * 256 ^ i)).sum := by
    intro n
    induction n with
    | zero => rfl
    | succ n ih =>
      rw [List.range_succ, List.map_append, leNat_append, ih, List.map_append, List.sum_append]
      simp [leNat, Nat.mul_comm]
  exact spelled _ n

theorem leBytes_length (n v : Nat) : (leBytes n v).length = n := by
  rw [leBytes_eq_map, List.length_map, List.length_range]

/-- Bytes written to a canonical memory read back, and no other byte changes. -/
theorem stored_memPut {m : Mem} (h : memWf m = true) (a n v : Nat) : Stored m (memPut m a (leBytes n v)) a n v := by
  refine ⟨fun b => ?_, memPut_wf _ a h⟩
  by_cases hb : a ≤ b ∧ b < a + n
  · obtain ⟨i, rfl⟩ := Nat.exists_eq_add_of_le hb.1
    have hi : i < n := by omega
    rw [if_pos hb, memGet_memPut_in _ a i h (by rw [leBytes_length]; exact hi), leBytes_eq_map, Nat.add_sub_cancel_left]
    simp [hi]
  · rw [if_neg hb, memGet_memPut_out _ _ a b (by rw [leBytes_length]; omega)]

/-- Sign extension of a number's low bits. -/
theorem sx_eq_ofInt {n : Nat} (hn : 0 < n) (v : Nat) : sx n v = BitVec.ofInt 64 (BitVec.ofNat n v).toInt := by
  rw [← sx_toNat _ hn, BitVec.toNat_ofNat, sx, sx]
  unfold sgn
  rw [Nat.mod_mod]

/-! ### Loads and stores of threads -/

/-- A thread's instruction that changes its registers as R says and falls through. -/
theorem threadWent_fall {s : State} {t : Nat} {w : BitVec 32} {y : Option (BitVec 32)} {p : Packet} {skip run : State → TRes} {r : Regs}
    {R : Regs → Regs → Prop} (h : ThreadIssues s t w y p) (hg : guardHolds (getThread s t).regs w)
    (hrun : run (threadTaken s t (wordsOf y)) = .fall (setThread (threadTaken s t (wordsOf y)) t
      (({ getThread s t with slots := (getThread s t).slots + wordsOf y } : Thread).setRegs r))) (hR : R (getThread s t).regs r) :
    ThreadWent s (threadStep t w y skip run s) t (wordsOf y) R := by
  have hbytes : (if y.isSome then 8#64 else 4#64) = BitVec.ofNat 64 (4 * wordsOf y) := by unfold wordsOf; split <;> rfl
  rw [threadTaken_setThread h.packet] at hrun
  obtain ⟨honly, hthread⟩ := threadStep_fall (skip := skip) h hg hrun h.packet
  refine ⟨honly, ⟨?_, ?_⟩⟩
  · rw [hthread]
    simpa [Thread.regs, Thread.setRegs] using hR
  · rw [hthread, hbytes]
    simp [Thread.setRegs]

theorem scratchOk_of {ea : Word} {n : Nat} (halign : ea.toNat % n = 0) (hrange : ea.toNat + n ≤ 2048) : scratchOk ea n = true := by
  simp [scratchOk, halign, hrange]

theorem threadLoadLaw_of {i : Agent → FmtI → Instr} {op n : Nat} (conv : Nat → Word) {conv' : Nat → Word} (hconv : ∀ v, conv v = conv' v)
    (hi : ∀ (t : Fin 512) f s, exec (i (.thread t) f) s = .next (threadStep t (encI op f) none TRes.fall (threadLoad t f n conv) s)) :
    ThreadLoadLaw i op n conv' := by
  intro s t p f h hg hw a halign hrange
  obtain rfl : conv = conv' := funext hconv
  have hth := threadTaken_thread 1 h.packet
  refine ⟨_, hi t f s, threadWent_fall h hg ?_ (regIs_rset (v := fun _ => conv (leAt (getThread s t).scratch a n)) hw)⟩
  have hregs : ({ getThread s t with slots := (getThread s t).slots + 1 } : Thread).regs = (getThread s t).regs := rfl
  simp only [wordsOf, Option.isSome_none, Bool.false_eq_true, if_false, threadLoad, hth, hregs, effAddr_eq, leNat_memBytes,
    scratchOk_of halign hrange, if_true]
  rfl

theorem threadStoreLaw_of {i : Agent → FmtI → Instr} {op n : Nat}
    (hi : ∀ (t : Fin 512) f s, exec (i (.thread t) f) s = .next (threadStep t (encI op f) none TRes.fall (threadStore t f n) s)) :
    ThreadStoreLaw i op n := by
  intro s t p f h hg hm th a halign hrange
  have hth := threadTaken_thread 1 h.packet
  have hregs : ({ getThread s t with slots := (getThread s t).slots + 1 } : Thread).regs = (getThread s t).regs := rfl
  have hstep := threadStep_fall (skip := TRes.fall) (run := threadStore t f n) (p := p) (x := { th with
    slots := th.slots + 1, scratch := memPut th.scratch a (leBytes n (rget th.regs f.d.toNat).toNat) }) h hg (by
      simp only [wordsOf, Option.isSome_none, Bool.false_eq_true, if_false, threadStore, hth, hregs, effAddr_eq,
        threadTaken_setThread h.packet]
      exact if_pos (scratchOk_of halign hrange)) h.packet
  exact ⟨_, _, hi t f s, hstep.1, hstep.2, stored_memPut hm a n _⟩

theorem threadConst_ok {s : State} {t : Nat} {f : FmtI} {p : Packet} (hp : (getThread s t).pkt = some p)
    (halign : (eaOf (getThread s t).regs f).toNat % 8 = 0) (hrange : (eaOf (getThread s t).regs f).toNat < 65536) :
    threadConst t f s = .fall (setThread s t ((getThread s t).setRegs (rset (getThread s t).regs f.d.toNat
      (BitVec.ofNat 64 (leAt (getBank s p.bank).consts (eaOf (getThread s t).regs f).toNat 8))))) := by
  simp only [threadConst, hp, effAddr_eq, leNat_memBytes]
  exact if_pos ⟨halign, hrange⟩

/-- LDK reads the constants of the bank stamped on the packet (R57). -/
theorem ldk_thread {s : State} {t : Fin 512} {p : Packet} {f : FmtI} (h : ThreadIssues s t (encI 0x4C f) none p)
    (hg : guardHolds (getThread s t).regs (encI 0x4C f)) (hw : tblWf 0#64 (getThread s t).w = true)
    (halign : (eaOf (getThread s t).regs f).toNat % 8 = 0) (hrange : (eaOf (getThread s t).regs f).toNat < 65536) :
    ∃ s', exec (.ldk (.thread t) f) s = .next s' ∧ ThreadWent s s' t 1
      (RegIs f.d fun _ => BitVec.ofNat 64 (leAt (getBank s p.bank).consts (eaOf (getThread s t).regs f).toNat 8)) := by
  have hth := threadTaken_thread 1 h.packet
  refine ⟨_, rfl, threadWent_fall h hg ?_
    (regIs_rset (v := fun _ => BitVec.ofNat 64 (leAt (getBank s p.bank).consts (eaOf (getThread s t).regs f).toNat 8)) hw)⟩
  have hconst := threadConst_ok (s := threadTaken s t 1) (t := t) (f := f) (p := p) (by rw [hth]; exact h.packet)
    (by rw [hth]; exact halign) (by rw [hth]; exact hrange)
  rw [hth] at hconst
  exact hconst

/-- Settles O10: each load and store is the law of threadLoad or threadStore with its width and conversion. -/
theorem threadMemory : Obligations.ThreadMemory :=
  ⟨⟨threadLoadLaw_of _ (fun _ => rfl) fun _ _ _ => rfl, threadLoadLaw_of _ (fun _ => rfl) fun _ _ _ => rfl,
      threadLoadLaw_of _ (fun _ => rfl) fun _ _ _ => rfl, threadLoadLaw_of _ (fun _ => rfl) fun _ _ _ => rfl,
      threadLoadLaw_of (sx 8) (sx_eq_ofInt (by decide)) fun _ _ _ => rfl, threadLoadLaw_of (sx 16) (sx_eq_ofInt (by decide)) fun _ _ _ => rfl,
      threadLoadLaw_of (sx 32) (sx_eq_ofInt (by decide)) fun _ _ _ => rfl, fun _ _ _ _ => ldk_thread⟩,
    threadStoreLaw_of fun _ _ _ => rfl, threadStoreLaw_of fun _ _ _ => rfl, threadStoreLaw_of fun _ _ _ => rfl,
    threadStoreLaw_of fun _ _ _ => rfl⟩

/-! ### What may not issue (R50, R61, R69, R70) -/

section Thread
variable {s : State} {t : Nat} {w : BitVec 32} {y : Option (BitVec 32)} {p : Packet} {skip run : State → TRes}

/-- A plane X word of a packet program. -/
theorem threadStep_plane (hp : (getThread s t).pkt = some p) (hthawed : isFrozen s t = false) (hwaits : waitsReloc s t = false)
    (hplane : 0x70 ≤ fOp w.toNat ∧ fOp w.toNat ≤ 0x77) :
    threadStep t w y skip run s = threadFault (issued s t) t vUNAUTH (getThread s t).pc.toNat := by
  simp only [threadStep, hp, hthawed, hwaits, Bool.or_self, Bool.false_eq_true, if_false, if_pos hplane]

/-- A word that Uarra-P does not decode. -/
theorem threadStep_illegal (hp : (getThread s t).pkt = some p) (hthawed : isFrozen s t = false) (hwaits : waitsReloc s t = false)
    (hplane : ¬ (0x70 ≤ fOp w.toNat ∧ fOp w.toNat ≤ 0x77)) (hillegal : legalP w.toNat ((y.getD 0#32).toNat) = false) :
    threadStep t w y skip run s = threadFault (issued s t) t vADDR (getThread s t).pc.toNat := by
  simp only [threadStep, hp, hthawed, hwaits, Bool.or_self, Bool.false_eq_true, if_false, if_neg hplane, hillegal, true_or, if_true]

/-- A word that passes the issue slots of its program: what it would take is n. -/
theorem threadStep_overBudget {g : Prog} {n : Nat} (hp : (getThread s t).pkt = some p) (hthawed : isFrozen s t = false)
    (hwaits : waitsReloc s t = false) (hplane : ¬ (0x70 ≤ fOp w.toNat ∧ fOp w.toNat ≤ 0x77))
    (hlegal : legalP w.toNat ((y.getD 0#32).toNat) = true)
    (hloop : y.isSome = true → loopEndsAt (getThread s t) ((getThread s t).pc + 4#64) = false) (hprog : passProg s p = some g)
    (hn : (if y.isSome && (decide (fOp w.toNat = 0x50 ∨ fOp w.toNat = 0x51) || pget (getThread s t).regs (fG w.toNat)) then 2 else 1) = n)
    (hover : g.c < (getThread s t).slots + n) :
    threadStep t w y skip run s = threadFault (issued s t) t vBUDGET (getThread s t).pc.toNat := by
  have hdecodes : ¬ (legalP w.toNat ((y.getD 0#32).toNat) = false ∨ (y.isSome && loopEndsAt (getThread s t) ((getThread s t).pc + 4#64)) = true) := by
    rw [hlegal]
    cases hy : y.isSome
    · simp
    · simp [hloop hy]
  simp only [threadStep, hp, hthawed, hwaits, Bool.or_self, Bool.false_eq_true, if_false, if_neg hplane, hdecodes, hn, passProg_issued,
    hprog, gt_iff_lt, hover, decide_true, if_true]

end Thread

/-- What a thread's instruction raises that may not issue. -/
theorem thread_issueFailures {s : State} {i : Instr} {t : Fin 512} {w : BitVec 32} {y : Option (BitVec 32)} {p : Packet}
    (ha : agentOf i = some (.thread t)) (hw : words i = some (w, y)) (hp : (getThread s t).pkt = some p) (hthawed : isFrozen s t = false)
    (hwaits : waitsReloc s t = false) :
    (0x70 ≤ fOp w.toNat ∧ fOp w.toNat ≤ 0x77 → exec i s = .next (threadFault (issued s t) t vUNAUTH (getThread s t).pc.toNat))
    ∧ (¬ (0x70 ≤ fOp w.toNat ∧ fOp w.toNat ≤ 0x77) → legalP w.toNat ((y.getD 0#32).toNat) = false →
      exec i s = .next (threadFault (issued s t) t vADDR (getThread s t).pc.toNat))
    ∧ (∀ g : Prog, ¬ (0x70 ≤ fOp w.toNat ∧ fOp w.toNat ≤ 0x77) → legalP w.toNat ((y.getD 0#32).toNat) = true →
      (y.isSome = true → loopEndsAt (getThread s t) ((getThread s t).pc + 4#64) = false) → passProg s p = some g →
      (guardHolds (getThread s t).regs w → g.c < (getThread s t).slots + wordsOf y →
        exec i s = .next (threadFault (issued s t) t vBUDGET (getThread s t).pc.toNat))
      ∧ (¬ guardHolds (getThread s t).regs w → g.c < (getThread s t).slots + 1 →
        exec i s = .next (threadFault (issued s t) t vBUDGET (getThread s t).pc.toNat))) := by
  obtain ⟨run, hrun⟩ := exec_thread ha hw
  rw [hrun s]
  refine ⟨fun hplane => congrArg _ (threadStep_plane hp hthawed hwaits hplane),
    fun hplane hillegal => congrArg _ (threadStep_illegal hp hthawed hwaits hplane hillegal),
    fun g hplane hlegal hloop hprog => ⟨fun hg hover => ?_, fun hg hover => ?_⟩⟩
  · refine congrArg _ (threadStep_overBudget hp hthawed hwaits hplane hlegal hloop hprog ?_ hover)
    have hgo : (decide (fOp w.toNat = 0x50 ∨ fOp w.toNat = 0x51) || pget (getThread s t).regs (fG w.toNat)) = true := by
      rcases hg with h | h | h <;> simp [h]
    rw [hgo, Bool.and_true, wordsOf]
  · refine congrArg _ (threadStep_overBudget hp hthawed hwaits hplane hlegal hloop hprog ?_ hover)
    have hno : (decide (fOp w.toNat = 0x50 ∨ fOp w.toNat = 0x51) || pget (getThread s t).regs (fG w.toNat)) = false := by
      simp only [guardHolds, not_or] at hg; simp [hg]
    rw [hno, Bool.and_false, if_neg Bool.false_ne_true]

/-- A Tally core leads no tick program (R40). -/
theorem leadExecutes_tally (s : State) (c : Fin 4) (w : BitVec 32) : leadExecutes s (.tally c) w = false := by
  unfold leadExecutes
  cases hl : leadCore s (.tally c) with
  | none => rfl
  | some k =>
    have hk : k ∈ agentCores s (.tally c) := List.mem_of_mem_filter (List.mem_of_mem_head? hl)
    have hk : k = 3 + c.val := by simpa [agentCores] using hk
    exact if_neg (by omega)

/-- What a Tally core raises whose word it may not fetch or does not decode. -/
theorem tally_issueFailures {s : State} {i : Instr} {c : Fin 4} {w : BitVec 32} {y : Option (BitVec 32)} (ha : agentOf i = some (.tally c))
    (hw : words i = some (w, y)) (hr : Rising s.cores) (hfree : coreIdle s (3 + c.val) = false) :
    let x := getCore s (3 + c.val)
    (fetchOk (3 + c.val) x (4 * wordsOf y) = false →
      ∃ s', exec i s = .next s' ∧ getCore s' (3 + c.val) = exception (3 + c.val) x cACCESS x.pc x.pc)
    ∧ (fetchOk (3 + c.val) x (4 * wordsOf y) = true → legalS w.toNat ((y.getD 0#32).toNat) = false →
      ∃ s', exec i s = .next s' ∧ getCore s' (3 + c.val) = exception (3 + c.val) x cILLEGAL (w.zeroExtend 64) x.pc) := by
  have hmine : 3 + c.val ∈ agentCores s (.tally c) := by simp [agentCores]
  obtain ⟨run, perform, hexec⟩ := exec_core hmine ha hw fun _ => leadExecutes_tally s c w
  have trapped {code : Nat} {tval : Word} (h : coreIssue s (3 + c.val) w y run = .trap code tval) :
      getCore (coreStep (.tally c) w y run perform s) (3 + c.val) =
        exception (3 + c.val) (getCore s (3 + c.val)) code tval (getCore s (3 + c.val)).pc := by
    refine (coreStep_trap perform (fun k hk _ => ?_) hmine hfree hr h).1
    obtain rfl : k = 3 + c.val := by simpa [agentCores] using hk
    rw [h]; rfl
  refine ⟨fun hfetch => ⟨_, hexec, trapped ?_⟩, fun hfetch hillegal => ⟨_, hexec, trapped ?_⟩⟩
  · simp only [coreIssue, wordsOf_bytes, hfetch, if_true]
  · simp only [coreIssue, wordsOf_bytes, hfetch, hillegal, Bool.true_eq_false, if_false, if_true]

/-! ### Misaligned accesses and accesses out of range (R57, R58) -/

/-- The loads and the stores of both profiles, each with its opcode and width. -/
theorem loadStore_cases {i : Agent → FmtI → Instr} {op n : Nat} (h : (i, op, n) ∈
      [(Instr.ld8u, 0x40, 1), (Instr.ld16u, 0x41, 2), (Instr.ld32u, 0x42, 4), (Instr.ld64, 0x43, 8), (Instr.ld8s, 0x44, 1),
        (Instr.ld16s, 0x45, 2), (Instr.ld32s, 0x46, 4), (Instr.st8, 0x48, 1), (Instr.st16, 0x49, 2), (Instr.st32, 0x4A, 4),
        (Instr.st64, 0x4B, 8)]) :
    (∃ conv, ∀ who f s, exec (i who f) s = .next (loadOp who op n conv f s)) ∨ ∀ who f s, exec (i who f) s = .next (storeOp who op n f s) := by
  simp only [List.mem_cons, List.not_mem_nil, or_false, Prod.mk.injEq] at h
  rcases h with h | h | h | h | h | h | h | h | h | h | h <;> obtain ⟨rfl, rfl, rfl⟩ := h
  iterate 7 exact .inl ⟨_, fun _ _ _ => rfl⟩
  all_goals exact .inr fun _ _ _ => rfl

theorem loadOp_thread (t : Fin 512) (op n : Nat) (conv : Nat → Word) (f : FmtI) (s : State) :
    loadOp (.thread t) op n conv f s = threadStep t (encI op f) none TRes.fall (threadLoad t f n conv) s := rfl

theorem storeOp_thread (t : Fin 512) (op n : Nat) (f : FmtI) (s : State) :
    storeOp (.thread t) op n f s = threadStep t (encI op f) none TRes.fall (threadStore t f n) s := rfl

theorem loadOp_core {s : State} {who : Agent} {k : Nat} (hk : k ∈ agentCores s who) (op n : Nat) (conv : Nat → Word) (f : FmtI) :
    loadOp who op n conv f s = coreStep who (encI op f) none (fun _ k c => coreLoad f n conv k c) mapAccess s :=
  coreAgent_cases (P := fun who => loadOp who op n conv f s = coreStep who _ none _ mapAccess s) hk rfl (fun _ => rfl) fun _ => rfl

theorem storeOp_core {s : State} {who : Agent} {k : Nat} (hk : k ∈ agentCores s who) (op n : Nat) (f : FmtI) :
    storeOp who op n f s = coreStep who (encI op f) none (fun _ k c => coreStore f n k c) mapAccess s :=
  coreAgent_cases (P := fun who => storeOp who op n f s = coreStep who _ none _ mapAccess s) hk rfl (fun _ => rfl) fun _ => rfl

theorem scratch_fault {i : Agent → FmtI → Instr} {op n : Nat}
    (hi : (∃ conv, ∀ who f s, exec (i who f) s = .next (loadOp who op n conv f s)) ∨ ∀ who f s, exec (i who f) s = .next (storeOp who op n f s))
    {s : State} {t : Fin 512} {p : Packet} {f : FmtI} (h : ThreadIssues s t (encI op f) none p)
    (hg : guardHolds (getThread s t).regs (encI op f))
    (hbad : (eaOf (getThread s t).regs f).toNat % n ≠ 0 ∨ 2048 < (eaOf (getThread s t).regs f).toNat + n) :
    exec (i (.thread t) f) s = .next (threadFault (setThread (issued s t) t { getThread s t with slots := (getThread s t).slots + 1 }) t vADDR
      (eaOf (getThread s t).regs f).toNat) := by
  have hth := threadTaken_thread 1 h.packet
  have hregs : ({ getThread s t with slots := (getThread s t).slots + 1 } : Thread).regs = (getThread s t).regs := rfl
  have hno : ¬ scratchOk (eaOf (getThread s t).regs f) n = true := by
    simp only [scratchOk, Bool.and_eq_true, beq_iff_eq, decide_eq_true_eq]; omega
  rcases hi with ⟨conv, hi⟩ | hi
  · rw [hi, loadOp_thread]
    refine congrArg _ (threadStep_fault h hg ?_)
    simp only [wordsOf, Option.isSome_none, Bool.false_eq_true, if_false, threadLoad, hth, hregs, effAddr_eq, if_neg hno]
  · rw [hi, storeOp_thread]
    refine congrArg _ (threadStep_fault h hg ?_)
    simp only [wordsOf, Option.isSome_none, Bool.false_eq_true, if_false, threadStore, hth, hregs, effAddr_eq, if_neg hno]

/-- A core's access that its own checks trap (R58): what it does, where every core of the agent traps alike. -/
theorem access_trap {i : Agent → FmtI → Instr} {op n : Nat}
    (hi : (∃ conv, ∀ who f s, exec (i who f) s = .next (loadOp who op n conv f s)) ∨ ∀ who f s, exec (i who f) s = .next (storeOp who op n f s))
    {s : State} {who : Agent} {k code : Nat} {f : FmtI} (h : CoreIssues s who k (encI op f) none)
    (hg : guardHolds (getCore s k).regs (encI op f)) (hr : Rising s.cores)
    (htrap : ∀ j ∈ agentCores s who, ∀ bit, accessTrap j (getCore s j) (eaOf (getCore s j).regs f) n bit false = some code) :
    ∃ s', exec (i who f) s = .next s' ∧ getCore s' k = exception k (getCore s k) code (eaOf (getCore s k).regs f) (getCore s k).pc ∧
      ∀ j, j ∉ agentCores s who → getCore s' j = getCore s j := by
  have trapped {run : State → Nat → SCore → CRes}
      (hrun : ∀ j ∈ agentCores s who, run s j (getCore s j) = .trap code (eaOf (getCore s j).regs f)) :
      getCore (coreStep who (encI op f) none run mapAccess s) k = exception k (getCore s k) code (eaOf (getCore s k).regs f) (getCore s k).pc ∧
        ∀ j, j ∉ agentCores s who → getCore (coreStep who (encI op f) none run mapAccess s) j = getCore s j := by
    have hq : ∀ j ∈ agentCores s who, coreIdle s j = false → askOf (coreIssue s j (encI op f) none run) = none := fun j hj _ => by
      simp only [coreIssue, hrun j hj]
      split_ifs <;> rfl
    obtain ⟨hmine, hothers, _⟩ := coreStep_trap mapAccess hq h.mine h.free hr ((coreIssue_run run h hg).trans (hrun k h.mine))
    exact ⟨hmine, hothers⟩
  rcases hi with ⟨conv, hi⟩ | hi
  · refine ⟨_, (hi who f s).trans (congrArg _ (loadOp_core h.mine op n conv f)), trapped fun j hj => ?_⟩
    simp only [coreLoad, effAddr_eq, htrap j hj]
  · refine ⟨_, (hi who f s).trans (congrArg _ (storeOp_core h.mine op n f)), trapped fun j hj => ?_⟩
    simp only [coreStore, effAddr_eq, htrap j hj]

theorem accessTrap_misaligned {k n : Nat} {c : SCore} {ea : Word} (bit : Nat) (h : ea.toNat % n ≠ 0) :
    accessTrap k c ea n bit false = some cALIGN := if_pos h

/-- Past the core's own memory, or past the internal map and below the own memory. -/
theorem accessTrap_outside {k n : Nat} {c : SCore} {ea : Word} (bit : Nat) (hn : 0 < n) (halign : ea.toNat % n = 0)
    (h : 2 ^ 63 + localExtent k ≤ ea.toNat ∨ (2 ^ 40 ≤ ea.toNat ∧ ea.toNat < 2 ^ 63)) : accessTrap k c ea n bit false = some cACCESS := by
  have hsize : localSize k = localExtent k := rfl
  simp only [accessTrap, halign, ne_eq, not_true_eq_false, if_false, Bool.false_eq_true, false_or, hsize]
  rcases h with hown | ⟨hmap, hbelow⟩
  · simp only [if_pos (show ea.toNat ≥ 2 ^ 63 by omega), if_pos (show ea.toNat - 2 ^ 63 + n > localExtent k by omega), ite_self]
  · simp only [if_neg (show ¬ ea.toNat ≥ 2 ^ 63 by omega), if_pos (show ea.toNat ≥ 2 ^ 40 from hmap), ite_self]

/-- A load whose address the Fence refuses (R24). -/
theorem ld64_refused {s : State} {who : Agent} {f : FmtI} {a m : Nat}
    (h : AllAsk s who (encI 0x43 f) none (mapAsk f 8 2 fun _ a => .load a 8) (.load a 8)) (hm : (agentCores s who).head? = some m)
    (hread : mayRead (coreReader m) a = false) : exec (.ld64 who f) s = .next (readerFault s (coreReader m) vADDR a) := by
  have hm' : m ∈ agentCores s who := List.mem_of_mem_head? hm
  refine congrArg _ ((loadOp_core hm' 0x43 8 _ f).trans ?_)
  rw [coreStep_asks (fin := fun c l => c.setRegs (rset c.regs f.d.toNat (BitVec.ofNat 64 (l.headD 0)))) h (fun k _ hk => ?_) hm]
  · simp only [mapAccess, hread, Bool.false_eq_true, if_false]
  · simp only [mapAsk] at hk
    split at hk
    · rename_i hok
      simp only [Option.some.injEq] at hk
      simp only [coreLoad, effAddr_eq, hok.1, ge_iff_le, if_neg (Nat.not_le.2 hok.2), hk]
    · cases hk

/-- Settles O9: what stops an instruction before its meaning, then what stops its access. -/
theorem issueFailures : Obligations.IssueFailures := by
  refine ⟨fun _ _ _ _ _ _ => thread_issueFailures, fun _ _ _ _ _ => tally_issueFailures, fun i op n hi => ⟨fun s t p f h hg =>
    scratch_fault (loadStore_cases hi) h hg, fun s who k f h hg hr => ⟨fun hbad => ?misaligned, fun hbad => ?outside⟩⟩,
    fun _ _ _ _ _ => ld64_refused⟩
  case misaligned =>
    exact access_trap (loadStore_cases hi) h hg hr fun j hj bit => accessTrap_misaligned bit (hbad j hj)
  case outside =>
    have hn : 0 < n := by
      simp only [List.mem_cons, List.not_mem_nil, or_false, Prod.mk.injEq] at hi
      omega
    exact access_trap (loadStore_cases hi) h hg hr fun j hj bit => accessTrap_outside bit hn (hbad j hj).1 (hbad j hj).2

end Sys2Proof.Machine
end

section
/-! PROOFS. A debug core beyond the Triad's: the model's reader of core 7 is not its master, which refutes the law of stores to the
internal address map (R24, R58, R505). -/

namespace Sys2Proof.Machine

/-- The Triad's lockstep broken for a debug core 7, which is no core of the device, and Tally core 0 frozen. -/
def strayDebugCore : State :=
  { State.reset with
    triad := { State.reset.triad with lockstepBroken := true, debugCore := some 7 }
    cores := [(7, { SCore.reset 7 with w := [(1, 0x3000D00010#64)] })]
    host := { State.reset.host with tallyWait := false }
    fence := { State.reset.fence with frozen := [mTALLY] } }

/-- ST32 of w0 to the address in w1. -/
def strayStore : FmtI := { d := 0#6, a := 1#6, imm := 0#10, g := 0#3 }

/-- Core 7 asks for the store of a word at an address that Tally core 0 may write. -/
theorem strayStore_asked : AllAsk strayDebugCore .triad (encI 0x4A strayStore) none
    (mapAsk strayStore 4 1 fun c a => .store a 4 (BitVec.ofNat 64 ((rget c.regs strayStore.d.toNat).toNat % 256 ^ 4)))
    (.store 0x3000D00010 4 0#64) := by
  have hcores : agentCores strayDebugCore .triad = [7] := rfl
  refine ⟨by rw [hcores]; exact List.cons_ne_nil _ _, fun k hk => ?_, fun hv => by cases hv⟩
  obtain rfl : k = 7 := by simpa [hcores] using hk
  exact ⟨⟨by simp [hcores], by decide +kernel, by decide +kernel, by decide +kernel⟩, .inr (.inr (by decide +kernel)), by decide +kernel⟩

/-- The Fence leaves the store unanswered: the reader that it takes core 7 for is frozen, and core 7 does not go on. -/
theorem strayStore_unanswered {s' : State} (h : exec (.st32 .triad strayStore) strayDebugCore = .next s') :
    (getCore s' 7).pc = (getCore strayDebugCore 7).pc := by
  have hstuck : (match exec (.st32 .triad strayStore) strayDebugCore with
    | .next t => decide ((getCore t 7).pc = (getCore strayDebugCore 7).pc)
    | _ => false) = true := by decide +kernel
  rw [h] at hstuck
  exact of_decide_eq_true hstuck

/-- Refutes O11: a store of a debug core 7, a number that no core of the device has, is not answered, though its own master, 0x214, is not
frozen: the reader of core 7 is Tally core 0. -/
theorem not_coreMemory : ¬ Obligations.CoreMemory := by
  rintro ⟨-, -, -, -, -, -, -, -, -, -, hst32, -⟩
  obtain ⟨s', hexec, hanswered⟩ := hst32 strayDebugCore .triad strayStore 0x3000D00010 7 0#64 strayStore_asked rfl (by decide +kernel)
    (by decide +kernel) (by decide +kernel)
  have hcores : agentCores strayDebugCore .triad = [7] := rfl
  have hwent := (hanswered.cores 7 (by rw [hcores]; exact List.mem_singleton_self 7)).rest
  have hpc : (getCore s' 7).pc = (getCore (mapWrite strayDebugCore (coreReader 7) 0x3000D00010 4 (0#64).toNat) 7).pc + BitVec.ofNat 64 (4 * 1) :=
    congrArg SCore.pc hwent
  rw [strayStore_unanswered hexec] at hpc
  exact absurd hpc (by decide +kernel)

end Sys2Proof.Machine
end

section
/-! PROOFS. System instructions of the cores: CSR accesses, traps and returns, waits and interrupts (R60, R65, R66, R73, R75 to R78). -/

namespace Sys2Proof.Machine

section Core
variable {s : State} {who : Agent} {k : Nat} {f : FmtI} {w : BitVec 32} {run : State → Nat → SCore → CRes}

theorem systemOp_core (hk : k ∈ agentCores s who) (w : BitVec 32) (run : State → Nat → SCore → CRes) :
    systemOp who w run s = coreStep who w none run noRequest s :=
  coreAgent_cases (P := fun who => systemOp who w run s = coreStep who w none run noRequest s) hk rfl (fun _ => rfl) fun _ => rfl

/-- A system instruction whose meaning leaves core k as c. -/
theorem systemOp_fall {c : SCore} (h : CoreIssues s who k w none) (hg : guardHolds (getCore s k).regs w) (hr : Rising s.cores)
    (hq : ∀ k c, askOf (run s k c) = none) (hrun : run s k (getCore s k) = .fall c) :
    OnlyCores s (systemOp who w run s) who ∧
      getCore (systemOp who w run s) k = { c with pc := c.pc + 4#64, retired := (c.retired + 1) % 2 ^ 64 } := by
  rw [systemOp_core h.mine]
  exact coreStep_fall noRequest (issue_quiet hq) h.mine h.free hr ((coreIssue_run run h hg).trans hrun)

/-- A system instruction that traps core k. -/
theorem systemOp_trap {code : Nat} {tval : Word} (h : CoreIssues s who k w none) (hg : guardHolds (getCore s k).regs w)
    (hr : Rising s.cores) (hq : ∀ k c, askOf (run s k c) = none) (hrun : run s k (getCore s k) = .trap code tval) :
    (∀ j, j ∉ agentCores s who → getCore (systemOp who w run s) j = getCore s j) ∧
      getCore (systemOp who w run s) k = exception k (getCore s k) code tval (getCore s k).pc := by
  rw [systemOp_core h.mine]
  obtain ⟨hmine, hothers, _⟩ := coreStep_trap noRequest (issue_quiet hq) h.mine h.free hr ((coreIssue_run run h hg).trans hrun)
  exact ⟨hothers, hmine⟩

/-! ### CSRs (R73) -/

theorem askOf_csrAccess (w : BitVec 32) (f : FmtI) (ret wr : Bool) (new : Word → Word → Word) (k : Nat) (c : SCore) :
    askOf (csrAccess w f ret wr new s k c) = none := by
  simp only [csrAccess]
  split_ifs <;> rfl

/-- An access that the core may make: what it leaves. -/
theorem csrAccess_ok {ret wr : Bool} {new : Word → Word → Word} {c : SCore} (hknown : csrKnown f.imm.toNat = true)
    (hvault : k < 3 ∨ f.imm.toNat / 256 ≠ 2) (hlevel : f.imm.toNat / 256 ≤ c.pl.toNat)
    (hwritable : wr = true → csrReadOnly f.imm.toNat = false) :
    csrAccess w f ret wr new s k c = .fall
      (let old := csrRead s k f.imm.toNat c
       let c := if wr then csrWrite f.imm.toNat (new old (rget c.regs f.a.toNat)) c else c
       if ret then c.setRegs (rset c.regs f.d.toNat old) else c) := by
  have hlegal : ¬ (csrKnown f.imm.toNat = false ∨ ((wr : Prop) ∧ csrReadOnly f.imm.toNat) ∨ (k ≥ 3 ∧ f.imm.toNat / 256 = 2)) := by
    rintro (h | ⟨hwr, hro⟩ | ⟨hk, hn⟩)
    · rw [hknown] at h; cases h
    · rw [hwritable hwr] at hro; cases hro
    · omega
  simp only [csrAccess]
  rw [if_neg hlegal, if_neg (Nat.not_lt.2 hlevel)]

@[simp] theorem csrWrite_regs (n : Nat) (v : Word) (c : SCore) : (csrWrite n v c).regs = c.regs := by
  unfold csrWrite; split <;> (try split) <;> rfl

@[simp] theorem csrWrite_pc (n : Nat) (v : Word) (c : SCore) : (csrWrite n v c).pc = c.pc := by
  unfold csrWrite; split <;> (try split) <;> rfl

@[simp] theorem csrWrite_retired (n : Nat) (v : Word) (c : SCore) : (csrWrite n v c).retired = c.retired := by
  unfold csrWrite; split <;> (try split) <;> rfl

/-- Registers replaced by such that keep the predicates. -/
theorem setRegs_of_preds {x : SCore} {r : Regs} (hp : r.p = x.p) : x.setRegs r = { x with w := r.w } := by
  rw [SCore.setRegs, hp]

theorem rset_p (r : Regs) (i : Nat) (v : Word) : (rset r i v).p = r.p := by
  unfold rset; split <;> rfl

/-- A set or clear of a writable CSR: the old value to w[d] and the new one to the CSR. -/
theorem csr_readWrite {new : Word → Word → Word} {c : SCore} (hc : getCore s k = c) (h : CoreIssues s who k w none)
    (hg : guardHolds c.regs w) (hr : Rising s.cores) (hw : tblWf 0#64 c.w = true) (hknown : csrKnown f.imm.toNat = true)
    (hvault : k < 3 ∨ f.imm.toNat / 256 ≠ 2) (hlevel : f.imm.toNat / 256 ≤ c.pl.toNat) (hwritable : csrReadOnly f.imm.toNat = false) :
    let s' := systemOp who w (fun s k c => csrAccess w f true true new s k c) s
    OnlyCores s s' who ∧ RegIs f.d (fun _ => csrRead s k f.imm.toNat c) c.regs (getCore s' k).regs ∧
      getCore s' k = { csrWrite f.imm.toNat (new (csrRead s k f.imm.toNat c) (rget c.regs f.a.toNat)) c with
        w := (getCore s' k).w, pc := c.pc + 4#64, retired := (c.retired + 1) % 2 ^ 64 } := by
  intro s'
  subst hc
  have hacc := csrAccess_ok (s := s) (w := w) (ret := true) (wr := true) (new := new) hknown hvault hlevel fun _ => hwritable
  simp only [if_true, csrWrite_regs] at hacc
  rw [setRegs_of_preds ((rset_p _ _ _).trans (congrArg Regs.p (csrWrite_regs _ _ _)).symm)] at hacc
  obtain ⟨honly, hcore⟩ := systemOp_fall h hg hr (fun k c => askOf_csrAccess w f true true new k c) hacc
  simp only [csrWrite_pc, csrWrite_retired] at hcore
  refine ⟨honly, ?_⟩
  generalize hx : getCore s' k = x
  obtain rfl : _ = x := hcore.symm.trans hx
  refine ⟨?_, rfl⟩
  have hregs : Regs.mk (rset (getCore s k).regs f.d.toNat (csrRead s k f.imm.toNat (getCore s k))).w (csrWrite f.imm.toNat
      (new (csrRead s k f.imm.toNat (getCore s k)) (rget (getCore s k).regs f.a.toNat)) (getCore s k)).p =
      rset (getCore s k).regs f.d.toNat (csrRead s k f.imm.toNat (getCore s k)) :=
    congrArg (Regs.mk _) ((congrArg Regs.p (csrWrite_regs _ _ _)).trans (rset_p _ _ _).symm)
  show RegIs f.d _ _ (Regs.mk _ _)
  rw [hregs]
  exact regIs_rset (r := (getCore s k).regs) (v := fun _ => csrRead s k f.imm.toNat (getCore s k)) hw

/-- A read of a CSR, or a set or clear by w0 of one that may be read only. -/
theorem csr_read {new : Word → Word → Word} {c : SCore} (hc : getCore s k = c) (h : CoreIssues s who k w none)
    (hg : guardHolds c.regs w) (hr : Rising s.cores) (hw : tblWf 0#64 c.w = true) (hknown : csrKnown f.imm.toNat = true)
    (hvault : k < 3 ∨ f.imm.toNat / 256 ≠ 2) (hlevel : f.imm.toNat / 256 ≤ c.pl.toNat) :
    let s' := systemOp who w (fun s k c => csrAccess w f true false new s k c) s
    OnlyCores s s' who ∧ CoreWent s s' k 1 (RegIs f.d fun _ => csrRead s k f.imm.toNat c) := by
  intro s'
  subst hc
  have hacc := csrAccess_ok (s := s) (w := w) (ret := true) (wr := false) (new := new) hknown hvault hlevel (fun h => by cases h)
  simp only [if_true, Bool.false_eq_true, if_false] at hacc
  obtain ⟨honly, hcore⟩ := systemOp_fall h hg hr (fun k c => askOf_csrAccess w f true false new k c) hacc
  refine ⟨honly, ?_, ?_⟩
  · show RegIs _ _ _ (getCore s' k).regs
    rw [show getCore s' k = _ from hcore]
    exact regIs_rset (r := (getCore s k).regs) (v := fun _ => csrRead s k f.imm.toNat (getCore s k)) hw
  · rw [show getCore s' k = _ from hcore]
    rfl

theorem csrReadOnly_eq (n : Nat) : csrReadOnly n = bitOf n 7 := rfl

/-- A set or clear by w0 of a read-only CSR writes nothing, any other writes (R73). -/
theorem setClear_writes (n : Nat) (a : BitVec 6) : (!(csrReadOnly n && a == 0#6)) = if a = 0#6 ∧ bitOf n 7 = true then false else true := by
  rw [csrReadOnly_eq]
  by_cases ha : a = 0#6 <;> cases hb : bitOf n 7 <;> simp [ha]

end Core

theorem csr_accesses (s : State) (who : Agent) (k : Nat) (f : FmtI) (hr : Rising s.cores) (hw : tblWf 0#64 (getCore s k).w = true) :
    let c := getCore s k
    let n := f.imm.toNat
    let a := rget c.regs f.a.toNat
    let old := csrRead s k n c
    csrKnown n = true → (k < 3 ∨ n / 256 ≠ 2) → n / 256 ≤ c.pl.toNat →
    (CoreIssues s who k (encI 0x58 f) none → guardHolds c.regs (encI 0x58 f) →
      ∃ s', exec (.csrr who f) s = .next s' ∧ OnlyCores s s' who ∧ CoreWent s s' k 1 (RegIs f.d fun _ => old))
    ∧ (CoreIssues s who k (encI 0x59 f) none → guardHolds c.regs (encI 0x59 f) → bitOf n 7 = false →
      ∃ s', exec (.csrw who f) s = .next s' ∧ OnlyCores s s' who ∧
        getCore s' k = { csrWrite n a c with pc := c.pc + 4#64, retired := (c.retired + 1) % 2 ^ 64 })
    ∧ (CoreIssues s who k (encI 0x5A f) none → guardHolds c.regs (encI 0x5A f) → bitOf n 7 = false →
      ∃ s', exec (.csrs who f) s = .next s' ∧ OnlyCores s s' who ∧ RegIs f.d (fun _ => old) c.regs (getCore s' k).regs ∧
        getCore s' k = { csrWrite n (old ||| a) c with w := (getCore s' k).w, pc := c.pc + 4#64, retired := (c.retired + 1) % 2 ^ 64 })
    ∧ (CoreIssues s who k (encI 0x5B f) none → guardHolds c.regs (encI 0x5B f) → bitOf n 7 = false →
      ∃ s', exec (.csrc who f) s = .next s' ∧ OnlyCores s s' who ∧ RegIs f.d (fun _ => old) c.regs (getCore s' k).regs ∧
        getCore s' k = { csrWrite n (old &&& ~~~a) c with w := (getCore s' k).w, pc := c.pc + 4#64, retired := (c.retired + 1) % 2 ^ 64 })
    ∧ (f.a = 0#6 → bitOf n 7 = true →
      (CoreIssues s who k (encI 0x5A f) none → guardHolds c.regs (encI 0x5A f) →
        ∃ s', exec (.csrs who f) s = .next s' ∧ OnlyCores s s' who ∧ CoreWent s s' k 1 (RegIs f.d fun _ => old))
      ∧ (CoreIssues s who k (encI 0x5B f) none → guardHolds c.regs (encI 0x5B f) →
        ∃ s', exec (.csrc who f) s = .next s' ∧ OnlyCores s s' who ∧ CoreWent s s' k 1 (RegIs f.d fun _ => old))) := by
  intro c n a old hknown hvault hlevel
  refine ⟨fun h hg => ⟨_, rfl, csr_read rfl h hg hr hw hknown hvault hlevel⟩, fun h hg hb => ⟨_, rfl, ?write⟩, fun h hg hb => ?set,
    fun h hg hb => ?clear, fun ha hb => ⟨fun h hg => ?setNone, fun h hg => ?clearNone⟩⟩
  case write =>
    have hacc := csrAccess_ok (s := s) (w := encI 0x59 f) (ret := false) (wr := true) (new := fun _ x => x) hknown hvault hlevel fun _ => hb
    simp only [if_true, Bool.false_eq_true, if_false] at hacc
    obtain ⟨honly, hcore⟩ := systemOp_fall h hg hr (fun k c => askOf_csrAccess (encI 0x59 f) f false true (fun _ x => x) k c) hacc
    simp only [csrWrite_pc, csrWrite_retired] at hcore
    exact ⟨honly, hcore⟩
  case set =>
    refine ⟨_, rfl, ?_⟩
    rw [setClear_writes, if_neg (fun h => by rw [hb] at h; cases h.2)]
    exact csr_readWrite rfl h hg hr hw hknown hvault hlevel hb
  case clear =>
    refine ⟨_, rfl, ?_⟩
    rw [setClear_writes, if_neg (fun h => by rw [hb] at h; cases h.2)]
    exact csr_readWrite rfl h hg hr hw hknown hvault hlevel hb
  case setNone =>
    refine ⟨_, rfl, ?_⟩
    rw [setClear_writes, if_pos ⟨ha, hb⟩]
    exact csr_read rfl h hg hr hw hknown hvault hlevel
  case clearNone =>
    refine ⟨_, rfl, ?_⟩
    rw [setClear_writes, if_pos ⟨ha, hb⟩]
    exact csr_read rfl h hg hr hw hknown hvault hlevel

/-- What raises ILLEGAL and PRIV instead of an access (R73). -/
theorem csr_refused (s : State) (who : Agent) (k : Nat) (f : FmtI) (hr : Rising s.cores) :
    let c := getCore s k
    let n := f.imm.toNat
    (CoreIssues s who k (encI 0x58 f) none → guardHolds c.regs (encI 0x58 f) → csrKnown n = false ∨ (3 ≤ k ∧ n / 256 = 2) →
      ∃ s', exec (.csrr who f) s = .next s' ∧ (∀ j, j ∉ agentCores s who → getCore s' j = getCore s j) ∧ getCore s' k = exception k c cILLEGAL ((encI 0x58 f).zeroExtend 64) c.pc)
    ∧ (CoreIssues s who k (encI 0x58 f) none → guardHolds c.regs (encI 0x58 f) → csrKnown n = true → k < 3 ∨ n / 256 ≠ 2 → c.pl.toNat < n / 256 →
      ∃ s', exec (.csrr who f) s = .next s' ∧ (∀ j, j ∉ agentCores s who → getCore s' j = getCore s j) ∧ getCore s' k = exception k c cPRIV ((encI 0x58 f).zeroExtend 64) c.pc)
    ∧ (CoreIssues s who k (encI 0x59 f) none → guardHolds c.regs (encI 0x59 f) → bitOf n 7 = true →
      ∃ s', exec (.csrw who f) s = .next s' ∧ (∀ j, j ∉ agentCores s who → getCore s' j = getCore s j) ∧ getCore s' k = exception k c cILLEGAL ((encI 0x59 f).zeroExtend 64) c.pc) := by
  intro c n
  refine ⟨fun h hg hbad => ⟨_, rfl, systemOp_trap h hg hr (fun k c => askOf_csrAccess _ _ _ _ _ k c) (if_pos ?_)⟩,
    fun h hg hknown hvault hlow => ⟨_, rfl, systemOp_trap h hg hr (fun k c => askOf_csrAccess _ _ _ _ _ k c) ((if_neg ?_).trans (if_pos hlow))⟩,
    fun h hg hro => ⟨_, rfl, systemOp_trap h hg hr (fun k c => askOf_csrAccess _ _ _ _ _ k c) (if_pos (.inr (.inl ⟨rfl, hro⟩)))⟩⟩
  · exact hbad.imp_right .inr
  · rintro (h | ⟨h, _⟩ | ⟨hk, hn⟩)
    · rw [hknown] at h; cases h
    · cases h
    · omega

/-- Settles O12: the accesses that a core may make, those that trap, and what the written CSRs read back. -/
theorem csrAccess' : Obligations.CsrAccess := by
  refine ⟨csr_accesses, csr_refused, fun s k c v => ⟨rfl, rfl, rfl, rfl, rfl, rfl, rfl, rfl, fun n hn => ?plain, fun i hi hb => ?base,
    fun i hi hl => ?last⟩⟩
  case plain =>
    simp only [List.mem_cons, List.not_mem_nil, or_false] at hn
    rcases hn with rfl | rfl | rfl | rfl | rfl | rfl <;> rfl
  case base => interval_cases i <;> exact tblGet_tblSet_self _ _ _ _ hb
  case last => interval_cases i <;> exact tblGet_tblSet_self _ _ _ _ hl
end Sys2Proof.Machine
end

section
/-! PROOFS. Traps, returns, waits and interrupts of the cores (R40, R60, R65, R66, R75 to R78). -/

namespace Sys2Proof.Machine

/-! ### What an exception saves (R76) -/

/-- STATUS after a trap entry: the level and the interrupt enable of before, interrupts off, a trap taken. -/
theorem statusEntry_bits (st : Word) (pl : BitVec 2) : (statusEntry st pl).getLsbD 10 = pl.getLsbD 0 ∧
    (statusEntry st pl).getLsbD 11 = pl.getLsbD 1 ∧ (statusEntry st pl).getLsbD 3 = st.getLsbD 2 ∧
    (statusEntry st pl).getLsbD 2 = false ∧ (statusEntry st pl).getLsbD 4 = true := by
  unfold statusEntry
  cases h : st.getLsbD 2 <;> simp

/-- STATUS after a return: the interrupt enable that was saved, no trap taken. -/
theorem statusReturn_bits (st : Word) : (statusReturn st).getLsbD 2 = st.getLsbD 3 ∧ (statusReturn st).getLsbD 4 = false := by
  unfold statusReturn
  cases h : st.getLsbD 3 <;> simp

theorem causeWord_false (code : Nat) : causeWord false code = BitVec.ofNat 64 code := by
  simp [causeWord, b2n]

/-- An exception taken at Supervisor level. -/
theorem exception_supervisor (k : Nat) {c : SCore} {code : Nat} (tval epc : Word) (hcode : code ≠ cTRAPV)
    (h : c.pl = 0#2 ∨ (c.pl = 1#2 ∧ c.status.getLsbD 4 = false)) : exception k c code tval epc = enterS c false code tval epc := by
  have hpl : c.pl ≠ 2#2 := by rcases h with h | ⟨h, _⟩ <;> rw [h] <;> decide
  have hfirst : ¬ (c.pl = 1#2 ∧ c.status.getLsbD 4 = true) := by
    rcases h with h | ⟨_, h⟩
    · rw [h]; exact fun hc => absurd hc.1 (by decide)
    · rw [h]; exact fun hc => Bool.false_ne_true hc.2
  rw [exception, if_neg (not_or.2 ⟨hcode, hpl⟩), if_neg hfirst]

/-- An exception taken at Vault level: the first there, or a service trap into it. -/
theorem exception_vault (k : Nat) {c : SCore} {code : Nat} (tval epc : Word) (hv : code = cTRAPV ∨ c.pl = 2#2)
    (h : c.pl ≠ 2#2 ∨ c.vstatus.getLsbD 4 = false) : exception k c code tval epc = enterV c false code tval epc := by
  have hfirst : ¬ (c.pl = 2#2 ∧ c.vstatus.getLsbD 4 = true) := by
    rintro ⟨hpl, htd⟩
    rcases h with h | h
    · exact h hpl
    · rw [h] at htd; cases htd
  rw [exception, if_pos hv, if_neg hfirst]

theorem exception_cases (k : Nat) (c : SCore) (code : Nat) (tval epc : Word) (hcode : code ≠ cTRAPV) :
    (c.pl = 0#2 ∨ (c.pl = 1#2 ∧ c.status.getLsbD 4 = false) → ∃ st, exception k c code tval epc =
       { c with pl := 1#2, pc := c.tvec, epc := epc, cause := BitVec.ofNat 64 code, tval := tval, status := st } ∧
     st.getLsbD 10 = c.pl.getLsbD 0 ∧ st.getLsbD 11 = c.pl.getLsbD 1 ∧ st.getLsbD 3 = c.status.getLsbD 2 ∧ st.getLsbD 2 = false ∧
     st.getLsbD 4 = true)
   ∧ (c.pl = 2#2 ∧ c.vstatus.getLsbD 4 = false → ∃ st, exception k c code tval epc =
       { c with pc := c.vtvec, vepc := epc, vcause := BitVec.ofNat 64 code, vtval := tval, vstatus := st } ∧
     st.getLsbD 10 = false ∧ st.getLsbD 11 = true ∧ st.getLsbD 3 = c.vstatus.getLsbD 2 ∧ st.getLsbD 2 = false ∧ st.getLsbD 4 = true)
   ∧ (c.pl = 1#2 ∧ c.status.getLsbD 4 = true → k < 3 → ∃ st, exception k c code tval epc =
       { c with pl := 2#2, pc := c.vtvec, vepc := c.epc, vcause := BitVec.ofNat 64 cDOUBLE, vtval := BitVec.ofNat 64 code, vstatus := st })
   ∧ (c.pl = 1#2 ∧ c.status.getLsbD 4 = true → 3 ≤ k → exception k c code tval epc = { c with stopped := true })
   ∧ (c.pl = 2#2 ∧ c.vstatus.getLsbD 4 = true → exception k c code tval epc = { c with stopped := true }) := by
  refine ⟨fun h => ⟨_, ?supervisor, statusEntry_bits _ _⟩, fun ⟨hpl, htd⟩ => ?vault, fun ⟨hpl, htd⟩ hk => ⟨statusEntry c.vstatus c.pl, ?double⟩,
    fun ⟨hpl, htd⟩ hk => ?stopTally, fun ⟨hpl, htd⟩ => ?stop⟩
  case supervisor => rw [exception_supervisor k tval epc hcode h, enterS, causeWord_false]
  case vault =>
    obtain ⟨h10, h11, hrest⟩ := statusEntry_bits c.vstatus c.pl
    refine ⟨statusEntry c.vstatus c.pl, ?_, h10.trans (by rw [hpl]; rfl), h11.trans (by rw [hpl]; rfl), hrest⟩
    rw [exception_vault k tval epc (.inr hpl) (.inr htd), enterV, causeWord_false, hpl]
  case double =>
    rw [exception, if_neg (not_or.2 ⟨hcode, by rw [hpl]; decide⟩), if_pos ⟨hpl, htd⟩, if_pos hk, enterV, causeWord_false]
  case stopTally =>
    rw [exception, if_neg (not_or.2 ⟨hcode, by rw [hpl]; decide⟩), if_pos ⟨hpl, htd⟩, if_neg (by omega)]
  case stop => rw [exception, if_pos (.inr hpl), if_pos ⟨hpl, htd⟩]

/-! ### Service traps and returns (R65, R66, R76) -/

section Core
variable {s : State} {who : Agent} {k : Nat} {f : FmtI}

/-- A core that may issue is not stopped. -/
theorem not_stopped_of_free (h : coreIdle s k = false) : (getCore s k).stopped = false := by
  simp only [coreIdle, coreHeld, Bool.or_eq_false_iff] at h
  exact h.1.1.1.2

/-- The meaning of TRAP (R65, R66). -/
def trapRun (f : FmtI) (k : Nat) : CRes :=
  let code := BitVec.ofNat 64 (f.imm.toNat % 512)
  if f.imm.getLsbD 9 then (if k ≥ 3 then .trap cILLEGAL ((encI 0x5c f).zeroExtend 64) else .service cTRAPV code)
  else .service cTRAPS code

theorem exec_trap (who : Agent) (f : FmtI) (s : State) :
    exec (.trap who f) s = .next (systemOp who (encI 0x5c f) (fun _ k _ => trapRun f k) s) := rfl

theorem askOf_trapRun (f : FmtI) (k : Nat) : askOf (trapRun f k) = none := by
  simp only [trapRun]; split_ifs <;> rfl

/-- A service trap that the core takes, at whichever level. -/
theorem trap_service {code : Nat} {tval : Word} {c : SCore} (h : CoreIssues s who k (encI 0x5C f) none)
    (hg : guardHolds (getCore s k).regs (encI 0x5C f)) (hr : Rising s.cores) (hrun : trapRun f k = .service code tval)
    (hexc : exception k (getCore s k) code tval ((getCore s k).pc + 4#64) = c) (hstop : c.stopped = (getCore s k).stopped) :
    ∃ s', exec (.trap who f) s = .next s' ∧ OnlyCores s s' who ∧ getCore s' k = c := by
  subst hexc
  refine ⟨_, exec_trap who f s, ?_⟩
  rw [systemOp_core h.mine]
  exact coreStep_service noRequest (issue_quiet fun k _ => askOf_trapRun f k) h.mine h.free hr
    ((coreIssue_run (fun _ k _ => trapRun f k) h hg).trans hrun) (.inr (hstop.trans (not_stopped_of_free h.free)))

theorem trap_cases (hr : Rising s.cores) (h : CoreIssues s who k (encI 0x5C f) none) (hg : guardHolds (getCore s k).regs (encI 0x5C f)) :
    let c := getCore s k
    let code := BitVec.ofNat 64 (f.imm.toNat % 512)
    (f.imm.getLsbD 9 = false → c.pl.toNat < 2 → (c.pl = 0#2 ∨ c.status.getLsbD 4 = false) →
       ∃ s', exec (.trap who f) s = .next s' ∧ OnlyCores s s' who ∧ getCore s' k = enterS c false cTRAPS code (c.pc + 4#64))
     ∧ (f.imm.getLsbD 9 = false → c.pl = 2#2 → c.vstatus.getLsbD 4 = false →
       ∃ s', exec (.trap who f) s = .next s' ∧ OnlyCores s s' who ∧ getCore s' k = enterV c false cTRAPS code (c.pc + 4#64))
     ∧ (f.imm.getLsbD 9 = true → k < 3 → (c.pl ≠ 2#2 ∨ c.vstatus.getLsbD 4 = false) →
       ∃ s', exec (.trap who f) s = .next s' ∧ OnlyCores s s' who ∧ getCore s' k = enterV c false cTRAPV code (c.pc + 4#64))
     ∧ (f.imm.getLsbD 9 = true → 3 ≤ k →
       ∃ s', exec (.trap who f) s = .next s' ∧ (∀ j, j ∉ agentCores s who → getCore s' j = getCore s j) ∧
         getCore s' k = exception k c cILLEGAL ((encI 0x5C f).zeroExtend 64) c.pc) := by
  intro c code
  have toSupervisor (hbit : f.imm.getLsbD 9 = false) : trapRun f k = .service cTRAPS code := if_neg (by rw [hbit]; decide)
  refine ⟨fun hbit hlow htd => ?_, fun hbit hpl htd => ?_, fun hbit hk htd => ?_, fun hbit hk => ?_⟩
  · have hlevel : c.pl = 0#2 ∨ (c.pl = 1#2 ∧ c.status.getLsbD 4 = false) := by
      have h01 : c.pl = 0#2 ∨ c.pl = 1#2 := by
        have : c.pl.toNat = 0 ∨ c.pl.toNat = 1 := by omega
        exact this.imp (fun h => BitVec.eq_of_toNat_eq h) fun h => BitVec.eq_of_toNat_eq h
      rcases h01 with h0 | h1
      · exact .inl h0
      · exact htd.imp_right fun h => ⟨h1, h⟩
    exact trap_service h hg hr (toSupervisor hbit) (exception_supervisor k _ _ (by decide) hlevel) rfl
  · exact trap_service h hg hr (toSupervisor hbit) (exception_vault k _ _ (.inr hpl) (.inr htd)) rfl
  · have hrun : trapRun f k = .service cTRAPV code := (if_pos hbit).trans (if_neg (by omega))
    exact trap_service h hg hr hrun (exception_vault k _ _ (.inl rfl) htd) rfl
  · have hrun : trapRun f k = .trap cILLEGAL ((encI 0x5C f).zeroExtend 64) := (if_pos hbit).trans (if_pos hk)
    exact ⟨_, exec_trap who f s, systemOp_trap h hg hr (fun k _ => askOf_trapRun f k) hrun⟩

/-- The meaning of TRET (R76). -/
def tretRun (f : FmtI) (k : Nat) (c : SCore) : CRes :=
  if c.pl = 0#2 then .trap cPRIV ((encI 0x5d f).zeroExtend 64) else .jump (trapReturn k c) (trapReturn k c).pc

theorem exec_tret (who : Agent) (f : FmtI) (s : State) :
    exec (.tret who f) s = .next (systemOp who (encI 0x5d f) (fun _ k c => tretRun f k c) s) := rfl

theorem askOf_tretRun (f : FmtI) (k : Nat) (c : SCore) : askOf (tretRun f k c) = none := by
  unfold tretRun; split <;> rfl

/-- A return from a level above User. -/
theorem tret_return (hr : Rising s.cores) (h : CoreIssues s who k (encI 0x5D f) none) (hg : guardHolds (getCore s k).regs (encI 0x5D f))
    (hpl : (getCore s k).pl ≠ 0#2) :
    ∃ s', exec (.tret who f) s = .next s' ∧ OnlyCores s s' who ∧
      getCore s' k = { trapReturn k (getCore s k) with retired := ((trapReturn k (getCore s k)).retired + 1) % 2 ^ 64 } := by
  refine ⟨_, exec_tret who f s, ?_⟩
  rw [systemOp_core h.mine]
  exact coreStep_jump noRequest (issue_quiet fun k c => askOf_tretRun f k c) h.mine h.free hr
    ((coreIssue_run (fun _ k c => tretRun f k c) h hg).trans (if_neg hpl))

theorem tret_cases (hr : Rising s.cores) (h : CoreIssues s who k (encI 0x5D f) none) (hg : guardHolds (getCore s k).regs (encI 0x5D f)) :
    let c := getCore s k
    (c.pl = 1#2 → (c.status >>> 10).truncate 2 = 0#2 ∨ (c.status >>> 10).truncate 2 = 1#2 →
       ∃ s' st, exec (.tret who f) s = .next s' ∧ OnlyCores s s' who ∧ getCore s' k =
         { c with pc := c.epc &&& ~~~3#64, pl := (c.status >>> 10).truncate 2, status := st, retired := (c.retired + 1) % 2 ^ 64 } ∧
         st.getLsbD 2 = c.status.getLsbD 3 ∧ st.getLsbD 4 = false)
     ∧ (c.pl = 2#2 → k < 3 → (c.vstatus >>> 10).truncate 2 ≠ 3#2 →
       ∃ s' st, exec (.tret who f) s = .next s' ∧ OnlyCores s s' who ∧ getCore s' k =
         { c with pc := c.vepc &&& ~~~3#64, pl := (c.vstatus >>> 10).truncate 2, vstatus := st, retired := (c.retired + 1) % 2 ^ 64 } ∧
         st.getLsbD 2 = c.vstatus.getLsbD 3 ∧ st.getLsbD 4 = false)
     ∧ (c.pl = 0#2 → ∃ s', exec (.tret who f) s = .next s' ∧ OnlyCores s s' who ∧
         getCore s' k = exception k c cPRIV ((encI 0x5D f).zeroExtend 64) c.pc) := by
  intro c
  refine ⟨fun hpl hsaved => ?_, fun hpl hk hsaved => ?_, fun hpl => ?_⟩
  · obtain ⟨s', hexec, honly, hcore⟩ := tret_return hr h hg (by rw [show (getCore s k).pl = 1#2 from hpl]; decide)
    have hlevel : levelOf k c.pl ((c.status >>> 10).truncate 2) = (c.status >>> 10).truncate 2 := if_neg (by
      rintro (h3 | ⟨h2, _⟩)
      · rw [h3] at hsaved; exact absurd hsaved (by decide)
      · rw [h2] at hsaved; exact absurd hsaved (by decide))
    have hback : trapReturn k c = _ := if_neg (by rw [hpl]; decide)
    rw [show trapReturn k (getCore s k) = _ from hback, hlevel] at hcore
    exact ⟨s', _, hexec, honly, hcore, statusReturn_bits _⟩
  · obtain ⟨s', hexec, honly, hcore⟩ := tret_return hr h hg (by rw [show (getCore s k).pl = 2#2 from hpl]; decide)
    have hlevel : levelOf k c.pl ((c.vstatus >>> 10).truncate 2) = (c.vstatus >>> 10).truncate 2 := if_neg (by
      rintro (h3 | ⟨_, hk3⟩)
      · exact hsaved h3
      · omega)
    have hback : trapReturn k c = _ := if_pos hpl
    rw [show trapReturn k (getCore s k) = _ from hback, hlevel] at hcore
    exact ⟨s', _, hexec, honly, hcore, statusReturn_bits _⟩
  · have hrun := (coreIssue_run (fun _ k c => tretRun f k c) h hg).trans (if_pos hpl)
    obtain ⟨hmine, _, honly⟩ := coreStep_trap noRequest (issue_quiet fun k c => askOf_tretRun f k c) h.mine h.free hr hrun
    refine ⟨_, exec_tret who f s, ?_⟩
    rw [systemOp_core h.mine]
    refine ⟨honly (.inr ?_), hmine⟩
    rw [exception_supervisor k _ _ (by decide) (.inl hpl)]
    exact not_stopped_of_free h.free

end Core

/-- Settles O13: where an exception goes (exception_cases), and the service traps and returns that reach it. -/
theorem trapsAndReturns : Obligations.TrapsAndReturns :=
  ⟨exception_cases, fun _ _ _ _ hr => ⟨fun h hg _ => trap_cases hr h hg, fun h hg => tret_cases hr h hg⟩⟩

/-! ### Updates of the cores one after another -/

/-- What a unit does to core k when g has something for it. -/
def updateCore (g : State → Nat → Option SCore) (s : State) (k : Nat) : State := match g s k with
  | some c => setCore s k c
  | none => s

/-- What g has for a core does not depend on the other cores. -/
def PerCore (g : State → Nat → Option SCore) : Prop := ∀ s j k x, k ≠ j → g (setCore s j x) k = g s k

theorem getCore_updateCore_ne (g : State → Nat → Option SCore) (s : State) {j k : Nat} (h : k ≠ j) :
    getCore (updateCore g s j) k = getCore s k := by
  unfold updateCore
  split
  · exact getCore_setCore_ne _ _ _ _ h
  · rfl

theorem updateCore_self (g : State → Nat → Option SCore) {s : State} (k : Nat) (hr : Rising s.cores) :
    getCore (updateCore g s k) k = (g s k).getD (getCore s k) := by
  unfold updateCore
  cases g s k with
  | some c => exact getCore_setCore _ _ _ hr
  | none => rfl

theorem updateCore_rising (g : State → Nat → Option SCore) {s : State} (k : Nat) (hr : Rising s.cores) : Rising (updateCore g s k).cores := by
  unfold updateCore
  split
  · exact setCore_rising _ _ hr
  · exact hr

theorem updateCore_rest (g : State → Nat → Option SCore) (s : State) (k : Nat) :
    updateCore g s k = { s with cores := (updateCore g s k).cores } := by
  unfold updateCore
  split <;> rfl

theorem PerCore.updateCore {g : State → Nat → Option SCore} (hg : PerCore g) (s : State) {j k : Nat} (h : k ≠ j) :
    g (updateCore g s j) k = g s k := by
  unfold Machine.updateCore
  split
  · exact hg _ _ _ _ h
  · rfl

/-- Each core of a list is updated by what g had for it at first; nothing else changes. -/
theorem foldl_updateCore {g : State → Nat → Option SCore} (hg : PerCore g) : ∀ (l : List Nat) (s : State), l.Nodup → Rising s.cores →
    let s' := l.foldl (updateCore g) s
    (∀ k ∈ l, getCore s' k = (g s k).getD (getCore s k)) ∧ (∀ j, j ∉ l → getCore s' j = getCore s j) ∧ s' = { s with cores := s'.cores }
  | [], _, _, _ => ⟨fun _ h => (List.not_mem_nil h).elim, fun _ _ => rfl, rfl⟩
  | k :: l, s, hn, hr => by
    obtain ⟨hk, hn⟩ := List.nodup_cons.1 hn
    obtain ⟨hmine, hothers, hrest⟩ := foldl_updateCore hg l (updateCore g s k) hn (updateCore_rising g k hr)
    rw [List.foldl_cons]
    refine ⟨fun j hj => ?_, fun j hj => ?_, ?_⟩
    · rcases List.mem_cons.1 hj with rfl | hj
      · rw [hothers _ hk, updateCore_self g _ hr]
      · have hne : j ≠ k := fun h => hk (h ▸ hj)
        rw [hmine j hj, hg.updateCore s hne, getCore_updateCore_ne g s hne]
    · simp only [List.mem_cons, not_or] at hj
      rw [hothers j hj.2, getCore_updateCore_ne g s hj.1]
    · have hfirst := updateCore_rest g s k
      generalize l.foldl (updateCore g) (updateCore g s k) = s' at hrest ⊢
      rw [hrest, hfirst]

/-! ### What is pending on a core -/

section Pending
variable (s : State) {j k : Nat} (x : SCore)

theorem irqPending_setCore (h : k ≠ j) (c : Nat) : irqPending (setCore s j x) k c = irqPending s k c := by
  unfold irqPending
  rw [getCore_setCore_ne _ _ _ _ h]
  rfl

theorem anyPending_setCore (h : k ≠ j) : anyPending (setCore s j x) k = anyPending s k := by
  unfold anyPending
  rw [funext (irqPending_setCore s x h)]

theorem coreHeld_setCore (h : k ≠ j) : coreHeld (setCore s j x) k = coreHeld s k := by
  unfold coreHeld
  rw [getCore_setCore_ne _ _ _ _ h]
  rfl

theorem coreIdle_setCore (h : k ≠ j) : coreIdle (setCore s j x) k = coreIdle s k := by
  unfold coreIdle
  rw [getCore_setCore_ne _ _ _ _ h, coreHeld_setCore s x h]

theorem irqEligible_setCore (h : k ≠ j) (c : Nat) : irqEligible (setCore s j x) k c = irqEligible s k c := by
  unfold irqEligible
  rw [getCore_setCore_ne _ _ _ _ h, irqPending_setCore s x h]

theorem irqChoice_setCore (h : k ≠ j) : irqChoice (setCore s j x) k = irqChoice s k := by
  unfold irqChoice
  rw [irqEligible_setCore s x h, funext (irqEligible_setCore s x h)]
  rfl

theorem irqTval_setCore (h : k ≠ j) (c : Nat) : irqTval (setCore s j x) k c = irqTval s k c := by
  unfold irqTval
  rw [getCore_setCore_ne _ _ _ _ h]
  rfl

end Pending

/-- An interrupt that is chosen is pending and enabled, and its level is not below the core's (R77). -/
theorem irqEligible_of_choice {s : State} {k n : Nat} (h : irqChoice s k = some n) : irqEligible s k n = true := by
  unfold irqChoice at h
  split at h
  · rename_i h5
    obtain rfl : 5 = n := Option.some.inj h
    exact h5
  · exact List.find?_some h

theorem irqChoice_sound {s : State} {k n : Nat} (h : irqChoice s k = some n) : irqPending s k n = true ∧ (getCore s k).ie.getLsbD n = true ∧
    (n ≠ 5 → (getCore s k).pl = 0#2 ∨ ((getCore s k).pl = 1#2 ∧ (getCore s k).status.getLsbD 2 = true)) ∧
    (n = 5 → (getCore s k).pl ≠ 2#2 ∨ (getCore s k).vstatus.getLsbD 2 = true) := by
  have hel := irqEligible_of_choice h
  simp only [irqEligible, Bool.and_eq_true] at hel
  obtain ⟨⟨hpending, henabled⟩, hlevel⟩ := hel
  refine ⟨hpending, henabled, fun hn => ?_, fun hn => ?_⟩
  · simpa [hn] using hlevel
  · simpa [hn] using hlevel

/-! ### WFI and its end (R40, R65) -/

/-- What WFI does to its core. -/
def wfiRun (s : State) (k : Nat) (c : SCore) : CRes := .fall { c with waiting := !anyPending s k }

theorem exec_wfi (who : Agent) (f : FmtI) (s : State) : exec (.wfi who f) s = .next
    (if leadExecutes s who (encI 0x5e f) then tickDone (systemOp who (encI 0x5e f) wfiRun s) else systemOp who (encI 0x5e f) wfiRun s) := rfl

theorem tickDone_eq (s : State) : tickDone s =
    { s with triad := { s.triad with tickProg := if s.triad.tickProg = .entered then .complete else s.triad.tickProg } } := by
  unfold tickDone
  split <;> rfl

/-- The leading core that issues an instruction with its guard 1 executes it, if it is one of the Triad. -/
theorem leadExecutes_issues {s : State} {who : Agent} {k : Nat} {w : BitVec 32} (hlead : leadCore s who = some k) (h : CoreIssues s who k w none)
    (hg : guardHolds (getCore s k).regs w) : leadExecutes s who w = decide (k < 3) := by
  unfold leadExecutes
  simp only [hlead, coreIssue_run _ h hg]
  by_cases hk : k < 3 <;> simp [hk]

section Core
variable {s : State} {who : Agent} {k : Nat} {f : FmtI}

theorem wfi_waits (hr : Rising s.cores) (h : CoreIssues s who k (encI 0x5E f) none) (hg : guardHolds (getCore s k).regs (encI 0x5E f)) :
    ∃ s', exec (.wfi who f) s = .next s' ∧
       getCore s' k = { getCore s k with waiting := !anyPending s k, pc := (getCore s k).pc + 4#64, retired := ((getCore s k).retired + 1) % 2 ^ 64 } ∧
       (∀ j, j ∉ agentCores s who → getCore s' j = getCore s j) ∧
       s' = { s with cores := s'.cores, triad := { s.triad with tickProg := s'.triad.tickProg } } ∧
       (leadCore s who = some k → s'.triad.tickProg = if k < 3 ∧ s.triad.tickProg = .entered then .complete else s.triad.tickProg) := by
  obtain ⟨honly, hcore⟩ := systemOp_fall (run := wfiRun) h hg hr (fun _ _ => rfl) rfl
  obtain ⟨hothers, hrest⟩ := honly
  refine ⟨_, exec_wfi who f s, ?_⟩
  generalize hx : systemOp who (encI 0x5e f) wfiRun s = x at hcore hothers hrest
  clear hx
  cases hl : leadExecutes s who (encI 0x5e f) with
  | false =>
    simp only [Bool.false_eq_true, if_false]
    refine ⟨hcore, hothers, by rw [hrest], fun hlead => ?_⟩
    have hk : ¬ k < 3 := by
      rw [leadExecutes_issues hlead h hg] at hl; exact of_decide_eq_false hl
    rw [if_neg (fun hc => hk hc.1), hrest]
  | true =>
    simp only [if_true, tickDone_eq]
    refine ⟨hcore, hothers, by rw [hrest], fun hlead => ?_⟩
    have hk : k < 3 := by
      rw [leadExecutes_issues hlead h hg] at hl; exact of_decide_eq_true hl
    rw [hrest]
    simp only [hk, true_and]

theorem fence_goesOn (hr : Rising s.cores) (h : CoreIssues s who k (encI 0x5F f) none) (hg : guardHolds (getCore s k).regs (encI 0x5F f)) :
    ∃ s', exec (.fence who f) s = .next s' ∧ OnlyCores s s' who ∧
      getCore s' k = { getCore s k with pc := (getCore s k).pc + 4#64, retired := ((getCore s k).retired + 1) % 2 ^ 64 } :=
  ⟨_, rfl, systemOp_fall (run := fun _ _ c => .fall c) h hg hr (fun _ _ => rfl) rfl⟩

end Core

/-- A waiting core that is not held and has an interrupt pending stops waiting. -/
def resumed (s : State) (k : Nat) : Option SCore :=
  if (getCore s k).waiting && !coreHeld s k && anyPending s k then some { getCore s k with waiting := false } else none

theorem perCore_resumed : PerCore resumed := by
  intro s j k x h
  unfold resumed
  rw [getCore_setCore_ne _ _ _ _ h, coreHeld_setCore s x h, anyPending_setCore s x h]

theorem exec_wfiResume (who : Agent) (s : State) : exec (.wfiResume who) s = .next ((agentCores s who).foldl (updateCore resumed) s) := by
  have hstep : (fun (s : State) k => let c := getCore s k
      if c.waiting && !coreHeld s k && anyPending s k then setCore s k { c with waiting := false } else s) = updateCore resumed := by
    funext s k
    unfold updateCore resumed
    simp only
    split_ifs <;> rfl
  rw [← hstep]
  rfl

theorem wfiResume_resumes {s : State} {who : Agent} (hr : Rising s.cores) :
    ∃ s', exec (.wfiResume who) s = .next s' ∧ OnlyCores s s' who ∧ ∀ k ∈ agentCores s who,
      getCore s' k = { getCore s k with waiting := (getCore s k).waiting && !(!coreHeld s k && anyPending s k) } := by
  obtain ⟨hmine, hothers, hrest⟩ := foldl_updateCore perCore_resumed (agentCores s who) s (agentCores_nodup s who) hr
  refine ⟨_, exec_wfiResume who s, ⟨hothers, hrest⟩, fun k hk => (hmine k hk).trans ?_⟩
  unfold resumed
  by_cases hdue : ((getCore s k).waiting && !coreHeld s k && anyPending s k) = true
  · rw [if_pos hdue]
    simp only [Bool.and_assoc, Bool.and_eq_true (getCore s k).waiting] at hdue
    simp only [Option.getD_some, hdue, Bool.not_true, Bool.and_false]
  · rw [if_neg hdue]
    have hsame : ((getCore s k).waiting && !(!coreHeld s k && anyPending s k)) = (getCore s k).waiting := by
      revert hdue
      cases (getCore s k).waiting <;> cases coreHeld s k <;> cases anyPending s k <;> decide
    rw [hsame]
    rfl

/-! ### Interrupts (R40, R75 to R78) -/

/-- The core after it has taken interrupt n: TICK, VAULT_DONE and WB_READY clear. -/
def irqEntered (s : State) (k n : Nat) : SCore :=
  let x := getCore s k
  let y := if n = 5 then enterV x true n (irqTval s k n) x.pc else enterS x true n (irqTval s k n) x.pc
  { y with latched := if n = 1 ∨ n = 5 ∨ n = 6 then y.latched &&& ~~~(1#8 <<< n) else y.latched }

/-- What a core takes that is neither held nor waiting. -/
def interrupted (s : State) (k : Nat) : Option SCore := if coreIdle s k then none else (irqChoice s k).map (irqEntered s k)

theorem perCore_interrupted : PerCore interrupted := by
  intro s j k x h
  have hentered : irqEntered (setCore s j x) k = irqEntered s k := by
    funext n
    unfold irqEntered
    rw [getCore_setCore_ne _ _ _ _ h, irqTval_setCore s x h]
  unfold interrupted
  rw [coreIdle_setCore s x h, irqChoice_setCore s x h, hentered]

/-- Whether the leading core of the Triad takes TICK. -/
def tickTaken (s : State) (who : Agent) : Bool := match leadCore s who with
  | some k => decide (k < 3) && irqChoice s k == some cTICK
  | none => false

theorem exec_interruptTake (who : Agent) (s : State) : exec (.interruptTake who) s = .next
    (if tickTaken s who then tickEntered ((agentCores s who).foldl (updateCore interrupted) s)
      else (agentCores s who).foldl (updateCore interrupted) s) := by
  have hstep : (fun (s : State) k => if coreIdle s k then s else match irqChoice s k with
      | some c => takeIrq s k c
      | none => s) = updateCore interrupted := by
    funext s k
    unfold updateCore interrupted
    by_cases hidle : coreIdle s k = true
    · simp [hidle]
    · simp only [hidle, Bool.false_eq_true, if_false]
      cases irqChoice s k <;> rfl
  rw [← hstep]
  rfl

theorem tickTaken_iff (s : State) (who : Agent) : tickTaken s who = true ↔ ∃ k, leadCore s who = some k ∧ k < 3 ∧ irqChoice s k = some cTICK := by
  unfold tickTaken
  cases leadCore s who with
  | none => simp
  | some k => simp

theorem tickEntered_eq (s : State) : tickEntered s = { s with
    fence := { s.fence with noTick := 0 }
    triad := { s.triad with
      tickProg := .entered
      coasting := s.triad.coasting && s.triad.fault
      coastCause := if s.triad.coasting && !s.triad.fault then 0 else s.triad.coastCause } } := by
  unfold tickEntered
  cases hc : s.triad.coasting <;> cases hf : s.triad.fault <;> simp [hc, hf]

theorem interrupted_idle {s : State} {k : Nat} (h : coreIdle s k = true ∨ irqChoice s k = none) : interrupted s k = none := by
  unfold interrupted
  rcases h with h | h
  · rw [if_pos h]
  · rw [h, Option.map_none, ite_self]

theorem interrupted_free {s : State} {k n : Nat} (hfree : coreIdle s k = false) (h : irqChoice s k = some n) :
    interrupted s k = some (irqEntered s k n) := by
  rw [interrupted, hfree, h, if_neg Bool.false_ne_true, Option.map_some]

theorem irqEntered_supervisor (s : State) (k : Nat) {n : Nat} (hn : n ≠ 5) : irqEntered s k n =
    { enterS (getCore s k) true n (irqTval s k n) (getCore s k).pc with
      latched := if n = 1 ∨ n = 6 then (getCore s k).latched &&& ~~~(1#8 <<< n) else (getCore s k).latched } := by
  simp only [irqEntered, if_neg hn, hn, false_or]
  rfl

theorem interruptTake_takes {s : State} {who : Agent} (hr : Rising s.cores) :
    let entered := ∃ k, leadCore s who = some k ∧ k < 3 ∧ irqChoice s k = some cTICK
    ∃ s', exec (.interruptTake who) s = .next s' ∧
     (∀ j, j ∉ agentCores s who → getCore s' j = getCore s j) ∧
     (∀ k ∈ agentCores s who, let x := getCore s k
       (coreIdle s k = true ∨ irqChoice s k = none → getCore s' k = x)
       ∧ (∀ n, coreIdle s k = false → irqChoice s k = some n → n ≠ 5 → getCore s' k = { enterS x true n (irqTval s k n) x.pc with
           latched := if n = 1 ∨ n = 6 then x.latched &&& ~~~(1#8 <<< n) else x.latched })
       ∧ (coreIdle s k = false → irqChoice s k = some 5 →
           getCore s' k = { enterV x true 5 0#64 x.pc with latched := x.latched &&& ~~~(1#8 <<< 5) }))
     ∧ (¬ entered → s' = { s with cores := s'.cores })
     ∧ (entered → s' = { s with
         cores := s'.cores, fence := { s.fence with noTick := 0 }
         triad := { s.triad with
           tickProg := .entered
           coasting := s.triad.coasting && s.triad.fault
           coastCause := if s.triad.coasting && !s.triad.fault then 0 else s.triad.coastCause } }) := by
  intro entered
  obtain ⟨hmine, hothers, hrest⟩ := foldl_updateCore perCore_interrupted (agentCores s who) s (agentCores_nodup s who) hr
  refine ⟨_, exec_interruptTake who s, ?_⟩
  generalize (agentCores s who).foldl (updateCore interrupted) s = x at hmine hothers hrest
  have hcores (j : Nat) : getCore (if tickTaken s who then tickEntered x else x) j = getCore x j := by
    split
    · rw [tickEntered_eq]; rfl
    · rfl
  refine ⟨fun j hj => (hcores j).trans (hothers j hj), fun k hk => ⟨fun hidle => ?_, fun n hfree hn hn5 => ?_, fun hfree h5 => ?_⟩,
    fun hno => ?_, fun hyes => ?_⟩
  · rw [hcores, hmine k hk, interrupted_idle hidle, Option.getD_none]
  · rw [hcores, hmine k hk, interrupted_free hfree hn, Option.getD_some, irqEntered_supervisor s k hn5]
  · rw [hcores, hmine k hk, interrupted_free hfree h5, Option.getD_some]
    rfl
  · rw [if_neg (mt (tickTaken_iff s who).1 hno)]
    exact hrest
  · rw [if_pos ((tickTaken_iff s who).2 hyes), tickEntered_eq, hrest]

/-- Settles O14: WFI and FENCE are system instructions that fall through; resuming and taking interrupts update each core by itself. -/
theorem waitsAndInterrupts : Obligations.WaitsAndInterrupts :=
  ⟨fun _ _ hr => ⟨fun _ _ h hg => wfi_waits hr h hg, fun _ _ h hg => fence_goesOn hr h hg, wfiResume_resumes hr⟩,
    fun _ _ hr => ⟨fun _ _ => irqChoice_sound, interruptTake_takes hr⟩⟩

end Sys2Proof.Machine
end

section
/-! PROOFS. A step of the machine and the state that a reset leaves. -/

namespace Sys2Proof.Machine

theorem tbAdvance_stopped {b : TimeBase} (h : b.running = false) (n : Nat) : tbAdvance b n = b := by rw [tbAdvance, if_pos h]

/-- Settles O1: an empty queue lets one nanosecond pass, which moves the running time bases only. -/
theorem stepRunsFront : Obligations.StepRunsFront := by
  refine ⟨fun s c rest h => by rw [step, h], fun s h => ⟨advance s 1, by rw [step, h], rfl, rfl, fun n hn => ?_⟩⟩
  match n with
  | 0 | 1 | 2 | 3 => exact tbAdvance_stopped hn 1

theorem getCore_reset (k : Nat) : getCore State.reset k = if k < 3 then SCore.triadReset else SCore.tallyReset := rfl

theorem levelInv_reset : LevelInv State.reset := by
  have hlegal : ∀ k, (getCore State.reset k).pl ≠ 3#2 := fun k => by
    rw [getCore_reset]
    split <;> decide
  have htally : ∀ k, 3 ≤ k → (getCore State.reset k).pl ≠ 2#2 ∧ (getCore State.reset k).latched.getLsbD 5 = false := fun k hk => by
    rw [getCore_reset, if_neg (by omega)]
    decide
  have hidle : State.reset.vault.sign = none ∧ State.reset.vault.verify = none := ⟨rfl, rfl⟩
  exact ⟨.nil, hlegal, htally, by simp [hidle], by simp [hidle]⟩

/-- Settles O2: every table of the reset state is empty, so that each of its elements is at its default. -/
theorem resetValues : Obligations.ResetValues := by
  have hthawed : ∀ m, isFrozen State.reset m = false := fun _ => rfl
  have hpartners : ∀ p, partnerFrozen State.reset p = false := fun _ => rfl
  have hconns : ∀ k, findConn State.reset k = none := fun _ => rfl
  exact ⟨rfl, rfl, rfl, rfl, by decide +kernel, rfl, by decide, by decide, fun _ _ => rfl, by decide, rfl, rfl, fun _ => rfl, rfl,
    fun _ => rfl, hconns, fun _ => ⟨rfl, rfl⟩, hthawed, hpartners, rfl, rfl, rfl, rfl, rfl, rfl, rfl, rfl, rfl, fun _ => rfl, rfl, rfl,
    levelInv_reset⟩

end Sys2Proof.Machine
end

section
/-! PROOFS. The host link and the reset of the management domain. -/

namespace Sys2Proof.Machine

theorem deviceRuns_iff (s : State) : deviceRuns s = true ↔
    s.gh.relStep = 0 ∧ s.gh.resuming = false ∧ s.gh.mode ≠ .off ∧ s.gh.mode ≠ .dormant ∧ s.gh.mode ≠ .retained := by
  unfold deviceRuns inReset
  cases s.gh.mode <;> simp

theorem pcieLinkUp_up {s : State} (w : Fin 3) (g : Fin 4) (hruns : deviceRuns s = true) (hdown : s.host.linkUp = false) :
    exec (.pcieLinkUp w g) s = .next { s with host := { s.host with linkUp := true, width := 2 ^ w.val, gen := g.val + 1 } } := by
  obtain ⟨hrel, _, hoff, hdormant, hretained⟩ := (deviceRuns_iff s).1 hruns
  change execPcieLinkUp w g s = _
  unfold execPcieLinkUp
  rw [hrel, hdown]
  cases hm : s.gh.mode <;> simp_all

/-- What a core's reset gives does not depend on another core. -/
def coreReset (s : State) (k : Nat) : Option SCore := some { SCore.reset k with startNs := s.localNs }

theorem perCore_coreReset : PerCore coreReset := fun _ _ _ _ _ => rfl

theorem foldl_resetCore (l : List Nat) {s : State} (hl : l.Nodup) (hr : Rising s.cores) :
    let s' := l.foldl resetCore s
    (∀ k ∈ l, getCore s' k = { SCore.reset k with startNs := s.localNs }) ∧ (∀ j, j ∉ l → getCore s' j = getCore s j) ∧
      s' = { s with cores := s'.cores } :=
  foldl_updateCore perCore_coreReset l s hl hr

theorem isFrozen_thawRange (s : State) (lo hi m : Nat) :
    isFrozen (thawRange s lo hi) m = (isFrozen s m && !(decide (lo ≤ m) && decide (m ≤ hi))) := by
  have hthaw : isFrozen (thawRange s lo hi) m = (s.fence.frozen.filter (fun m => m < lo || hi < m)).contains m := rfl
  rw [hthaw, Bool.eq_iff_iff]
  simp only [isFrozen, List.contains_iff_mem, List.mem_filter, Bool.and_eq_true, Bool.not_eq_true', Bool.or_eq_true, decide_eq_true_eq,
    Bool.and_eq_false_iff, decide_eq_false_iff_not, Nat.not_le]

theorem functionLevelReset_resets {s : State} (hruns : deviceRuns s = true) (hup : s.host.linkUp = true) (hboot : s.vault.boot.booted = false)
    (hr : Rising s.cores) :
    ∃ s', exec .functionLevelReset s = .next s' ∧ s'.gh = { s.gh with reach := 1 } ∧ s'.host.linkUp = true ∧ s'.host.xspiOwner = 0x3FF ∧
      s'.host.pairs = [] ∧ s'.host.rings = [] ∧ (∀ k, 3 ≤ k → k < 7 → getCore s' k = { SCore.reset k with startNs := s.localNs }) ∧
      (∀ k, k < 3 → getCore s' k = getCore s k) ∧ (∀ m, isFrozen s' m = (isFrozen s m && !(decide (0x210 ≤ m) && decide (m ≤ 0x23F)))) ∧
      s'.engine = s.engine ∧ s'.stock = s.stock ∧ s'.haul = s.haul ∧ s'.triad = s.triad := by
  have hexec : exec .functionLevelReset s = .next (managementReset { s with gh := { s.gh with reach := 1 } }) :=
    congrArg Host.Outcome.next (if_pos ⟨hup, hruns⟩)
  obtain ⟨hmine, hothers, hrest⟩ :=
    foldl_resetCore [3, 4, 5, 6] (s := { s with gh := { s.gh with reach := 1 } }) (by decide) hr
  refine ⟨_, hexec, ?_⟩
  unfold managementReset
  generalize [3, 4, 5, 6].foldl resetCore { s with gh := { s.gh with reach := 1 } } = s1 at hmine hothers hrest
  rw [hrest]
  refine ⟨?_, ?_, ?_, ?_, ?_, fun k h3 h7 => ?_, fun k h3 => ?_, fun m => ?_, ?_, ?_, ?_, ?_⟩
  all_goals simp only [thawRange, hboot, Bool.false_eq_true, if_false]
  · exact hup
  · rfl
  · rfl
  · rfl
  · exact hmine k (by simp; omega)
  · exact hothers k (by simp; omega)
  · exact isFrozen_thawRange s _ _ m

theorem refusedRead_host {s : State} (hruns : deviceRuns s = true) (hup : s.host.linkUp = true) (hfrozen : isFrozen s 0x220 = true) :
    readerRuns s .host = false ∧ refusedRead s .host = { s with host := { s.host with completerAbort := true } } := by
  have hhost : isFrozen s (readerMaster .host) = true := hfrozen
  constructor
  · simp [readerRuns, hhost]
  · exact if_pos ⟨rfl, hruns, hup, hfrozen⟩

/-- Settles O45, event by event: each command is the branch of the model that its conditions choose. -/
theorem hostLink : Obligations.HostLink := by
  refine ⟨fun s w g => pcieLinkUp_up w g, fun s hruns hup hclear posted nonPosted hheld => ?_, fun s hruns hstall => ?_,
    fun s => functionLevelReset_resets, fun s hruns hup hfrozen => ?_⟩
  · refine congrArg Host.Outcome.next ((if_neg ?_).trans ?_)
    · simp only [hup, hclear, hruns, Bool.true_eq_false, Bool.false_eq_true, false_or]
      rcases hheld with rfl | rfl <;> simp
    · cases posted <;> cases nonPosted <;> rfl
  · exact congrArg Host.Outcome.next (if_neg (by simp [hstall, hruns]))
  · obtain ⟨hstops, hrefused⟩ := refusedRead_host hruns hup hfrozen
    simp only [← hrefused]
    refine ⟨?_, ?_, fun n => ?_⟩
    · exact congrArg Host.Outcome.next (if_neg (by simp [hstops]))
    · exact congrArg Host.Outcome.next (if_pos hstops)
    · exact congrArg Host.Outcome.next (if_neg (by simp [hstops]))

end Sys2Proof.Machine
end

section
/-! PROOFS. Host commands, XSPI_OWNER and BOOT_GO. -/

namespace Sys2Proof.Machine

theorem imgBytes_self {b : List Byte} {n : Nat} (h : b.length = n) : imgBytes b 0 n = b := by
  unfold imgBytes
  dsimp only
  rw [List.drop_zero, List.take_of_length_le h.le, h, Nat.sub_self]
  exact List.append_nil b

/-- What the host wrote into CMD_BLOCK, under the CMD of the command. -/
theorem memBytes_block {m : Mem} (hm : memWf m = true) {b : List Byte} {n : Nat} (h : b.length = n + 1) (c : Byte) :
    memBytes (memSet (memPut m 0 b) 0 c) 0 (n + 1) = c :: b.drop 1 := by
  have hput : memWf (memPut m 0 b) = true := memPut_wf b 0 hm
  refine List.ext_getElem (by simp [memBytes, h]) fun i hi _ => ?_
  simp only [memBytes, List.length_map, List.length_range] at hi
  simp only [memBytes, List.getElem_map, List.getElem_range, Nat.zero_add]
  cases i with
  | zero => simp [memGet_memSet hput]
  | succ i =>
    have hget := memGet_memPut_in b 0 (i + 1) hm (by omega)
    rw [Nat.zero_add] at hget
    simp only [List.getElem_cons_succ, List.getElem_drop]
    rw [memGet_memSet hput, if_neg (by omega), hget, List.getD_eq_getElem b 0#8 (h ▸ hi)]
    simp [Nat.add_comm 1 i]

theorem hostCommand_waits {s : State} {b : List Byte} (c : Byte) (hruns : readerRuns s .host = true) (hfree : s.host.cmdLive = none)
    (hlen : b.length = 1088) (hwf : memWf s.host.cmdBlock = true) :
    ∃ x, (hostCommand s c b).host.cmdLive = some x ∧ x.bytes = c :: b.drop 1 ∧
      hostCommand s c b = { s with host := { s.host with
        cmdBlock := (hostCommand s c b).host.cmdBlock, cmdLive := (hostCommand s c b).host.cmdLive } } := by
  have hgo : hostCommand s c b = { s with host := { s.host with
      cmdBlock := memSet (memPut s.host.cmdBlock 0 b) 0 c
      cmdLive := some { bytes := memBytes (memSet (memPut s.host.cmdBlock 0 b) 0 c) 0 1088 } } } := by
    unfold hostCommand hostGo
    rw [if_neg (by simp [hruns]), if_neg (by simp [hfree]), imgBytes_self hlen]
  have hblock : memBytes (memSet (memPut s.host.cmdBlock 0 b) 0 c) 0 1088 = c :: b.drop 1 := memBytes_block (n := 1087) hwf hlen c
  rw [hblock] at hgo
  rw [hgo]
  exact ⟨_, rfl, rfl, rfl⟩

/-- The completion of a verification, outcome by outcome. -/
theorem hostComplete_eq {s : State} {x : HostCmd} (h : s.host.cmdLive = some x) :
    let s1 := fireMsix { s with freeIdx := s.freeIdx + 1, host := { s.host with
      nonce := Config.free s.freeIdx % 2 ^ 64, cmdLive := none, cmdStatus := 0 } } 3
    let cmd := im8 x.bytes 0
    hostComplete s =
      if cmdGood s x.bytes = false then { s1 with host := { s1.host with cmdStatus := stBADSIG } }
      else if cmd = 1 ∧ s.triad.coasting = false ∧ s.gh.mode ≠ .maintenance then { s1 with host := { s1.host with cmdStatus := stDENIED } }
      else if cmd = 1 then controlReset s1 17 else if cmd = 2 then raiseReset s1 12 else if cmd = 3 then raiseReset s1 13
      else managementSource s1 20 := by
  unfold hostComplete
  rw [h]
  simp only
  by_cases hbad : cmdGood s x.bytes = false
  · simp only [hbad, if_true]
    rfl
  · simp only [hbad]
    by_cases hdenied : im8 x.bytes 0 = 1 ∧ s.triad.coasting = false ∧ s.gh.mode ≠ .maintenance
    · simp only [if_pos hdenied]
      rfl
    · simp only [if_neg hdenied, Bool.true_eq_false, if_false, ne_eq, not_true_eq_false]
      split
      case h_1 h1 => rw [h1]; rfl
      case h_2 h2 => rw [h2]; rfl
      case h_3 h3 => rw [h3]; rfl
      case h_4 h1 h2 h3 => rw [if_neg h1, if_neg h2, if_neg h3]; rfl

/-- Settles O50: the writes by their conditions, the four command blocks as one command, and the completion's outcomes. -/
theorem hostCommands : Obligations.HostCommands := by
  refine ⟨fun s o hruns => ?_, fun s c o hruns => ?_, fun s hruns => ?_, fun s b i c hruns hfree hlen hwf hi => ?_, fun s x hruns hlive => ?_⟩
  · exact congrArg Host.Outcome.next ((if_neg (by simp [hruns])).trans (if_neg (by simp [readerMaster, mHOST, mTRIAD])))
  · exact congrArg Host.Outcome.next ((if_neg (by simp [hruns])).trans (if_neg (by simp [readerMaster, mTALLY, mTRIAD]; omega)))
  · exact congrArg Host.Outcome.next (if_pos hruns)
  · obtain ⟨x, hx⟩ := hostCommand_waits c hruns hfree hlen hwf
    refine ⟨hostCommand s c b, x, ?_, hx⟩
    simp only [List.mem_cons, Prod.mk.injEq, List.not_mem_nil, or_false] at hi
    rcases hi with ⟨rfl, rfl⟩ | ⟨rfl, rfl⟩ | ⟨rfl, rfl⟩ | ⟨rfl, rfl⟩ <;> rfl
  · exact congrArg Host.Outcome.next ((if_pos hruns).trans (hostComplete_eq hlive))

end Sys2Proof.Machine
end

section
/-! PROOFS. Reset sources, their release, and the rails. -/

namespace Sys2Proof.Machine

theorem testBit_eq_bitOf (n i : Nat) : bitOf n i = n.testBit i := by
  simp [bitOf, Nat.testBit_eq_decide_div_mod_eq]

/-! ### Sources (R436 to R438) -/

theorem assertReset_held {s : State} {i reach : Nat} (hreach : sourceReach i = reach) (hfull : reach = 3 ∨ reach = 4) (hrel : s.gh.relStep = 0) :
    ResetHeld s (assertReset s i) reach := by
  have heff : max reach 0 = reach := Nat.max_eq_left (Nat.zero_le _)
  rcases hfull with rfl | rfl <;>
    constructor <;> simp [assertReset, hreach, hrel, resetAll, drawFree, State.reset, Bench.reset, TimeBase.stopped]

/-- What a source of reach 3 leaves of the Gatehouse's records. -/
theorem assertReset_records {s : State} {i : Nat} (hreach : sourceReach i = 3) (hi : i ≠ 0) (hrel : s.gh.relStep = 0) :
    let s' := assertReset s i
    s'.gh.asserted = s.gh.asserted ||| 2 ^ i ∧ s'.gh.rstCause = s.gh.rstCause ||| 2 ^ i ∧ s'.gh.pen = 0 ∧ s'.gh.pgood = 0 ∧
      s'.gh.inh = (!bitOf s.gh.asserted 0) ∧ s'.gh.bkp = s.gh.bkp ∧ s'.gh.retmem = s.gh.retmem ∧ s'.gh.failStarts = s.gh.failStarts := by
  simp [assertReset, hreach, hrel, resetAll, drawFree, ghAtReset, hi]

/-- A source of the device's start waits in Dormant and resets the device else, unless an entry to Dormant is under way (R449, R451). -/
theorem raiseReset_running {s : State} (i : Nat) (hoff : s.gh.mode ≠ .off) (hdormant : s.gh.mode ≠ .dormant)
    (hsleep : s.gh.sleepState ≠ .committed) : raiseReset s i = assertReset s i := by
  unfold raiseReset
  rw [if_neg hoff, if_neg hdormant, if_neg (fun h => hsleep h.1)]

theorem raiseReset_dormant {s : State} (i : Nat) (hdormant : s.gh.mode = .dormant) : raiseReset s i =
    { s with gh := { s.gh with asserted := s.gh.asserted ||| 2 ^ i, rstCause := s.gh.rstCause ||| 2 ^ i } } := by
  unfold raiseReset
  rw [if_neg (by simp [hdormant]), if_pos hdormant]

theorem raiseReset_held {s : State} {i : Nat} (hreach : sourceReach i = 3) (hi : i ≠ 0) (hrel : s.gh.relStep = 0) (hoff : s.gh.mode ≠ .off)
    (hdormant : s.gh.mode ≠ .dormant) (hsleep : s.gh.sleepState ≠ .committed) :
    ResetHeld s (raiseReset s i) 3 ∧ (raiseReset s i).gh.asserted = s.gh.asserted ||| 2 ^ i ∧
      (raiseReset s i).gh.rstCause = s.gh.rstCause ||| 2 ^ i ∧ (raiseReset s i).gh.pen = 0 ∧ (raiseReset s i).gh.pgood = 0 ∧
      (raiseReset s i).gh.inh = (!bitOf s.gh.asserted 0) ∧ (raiseReset s i).gh.bkp = s.gh.bkp ∧
      (raiseReset s i).gh.retmem = s.gh.retmem ∧ (raiseReset s i).gh.failStarts = s.gh.failStarts := by
  rw [raiseReset_running i hoff hdormant hsleep]
  exact ⟨assertReset_held hreach (.inl rfl) hrel, assertReset_records hreach hi hrel⟩

/-- A command that only asserts a source. -/
theorem source_cases {s : State} {i : Nat} {c : Instr} (hexec : exec c s = .next (raiseReset s i)) (hreach : sourceReach i = 3) (hi : i ≠ 0)
    (hrel : s.gh.relStep = 0) (hoff : s.gh.mode ≠ .off) :
    (s.gh.mode = .dormant → exec c s = .next { s with gh := { s.gh with
      asserted := s.gh.asserted ||| 2 ^ i, rstCause := s.gh.rstCause ||| 2 ^ i } })
    ∧ (s.gh.mode ≠ .dormant → s.gh.sleepState ≠ .committed → ∃ s', exec c s = .next s' ∧ ResetHeld s s' 3 ∧
      s'.gh.asserted = s.gh.asserted ||| 2 ^ i ∧ s'.gh.rstCause = s.gh.rstCause ||| 2 ^ i ∧ s'.gh.pen = 0 ∧ s'.gh.pgood = 0 ∧
      s'.gh.inh = (!bitOf s.gh.asserted 0) ∧ s'.gh.bkp = s.gh.bkp ∧ s'.gh.retmem = s.gh.retmem ∧ s'.gh.failStarts = s.gh.failStarts) :=
  ⟨fun hdormant => hexec.trans (congrArg _ (raiseReset_dormant i hdormant)),
    fun hdormant hsleep => ⟨_, hexec, raiseReset_held hreach hi hrel hoff hdormant hsleep⟩⟩

theorem ext_refused {s : State} (h : s.gh.mode = .dormant) : exec .ext s = .next s :=
  congrArg Host.Outcome.next (if_pos (by simp [resetLow, h]))

theorem exec_ext {s : State} (hrel : s.gh.relStep = 0) (hoff : s.gh.mode ≠ .off) (hdormant : s.gh.mode ≠ .dormant) :
    exec .ext s = .next (raiseReset s 4) :=
  congrArg Host.Outcome.next (if_neg (by simp [resetLow, inReset, hrel, hoff, hdormant]))

theorem reach3_source {s : State} {i : Nat} {c : Instr}
    (hc : (c, i) ∈ [(Instr.vbatUvFall, 1), (.vbatOvRise, 2), (.ext, 4), (.therm, 5), (.clk, 6)]) (hrel : s.gh.relStep = 0)
    (hoff : s.gh.mode ≠ .off) :
    (s.gh.mode = .dormant → c = .ext → exec c s = .next s)
     ∧ (s.gh.mode = .dormant → c ≠ .ext → exec c s = .next { s with gh := { s.gh with
       asserted := s.gh.asserted ||| 2 ^ i, rstCause := s.gh.rstCause ||| 2 ^ i } })
     ∧ (s.gh.mode ≠ .dormant → s.gh.sleepState ≠ .committed → ∃ s', exec c s = .next s' ∧ ResetHeld s s' 3 ∧
       s'.gh.asserted = s.gh.asserted ||| 2 ^ i ∧ s'.gh.rstCause = s.gh.rstCause ||| 2 ^ i ∧ s'.gh.pen = 0 ∧ s'.gh.pgood = 0 ∧
       s'.gh.inh = (!bitOf s.gh.asserted 0) ∧ s'.gh.bkp = s.gh.bkp ∧ s'.gh.retmem = s.gh.retmem ∧ s'.gh.failStarts = s.gh.failStarts) := by
  by_cases hext : c = .ext
  · obtain rfl : i = 4 := by
      subst hext
      simpa using hc
    subst hext
    exact ⟨fun h _ => ext_refused h, fun _ h => absurd rfl h, fun hdormant hsleep =>
      ⟨_, exec_ext hrel hoff hdormant, raiseReset_held rfl (by decide) hrel hoff hdormant hsleep⟩⟩
  · obtain ⟨hexec, hreach, hi⟩ : exec c s = .next (raiseReset s i) ∧ sourceReach i = 3 ∧ i ≠ 0 := by
      simp only [List.mem_cons, Prod.mk.injEq, List.not_mem_nil, or_false, hext, false_and, false_or] at hc
      rcases hc with ⟨rfl, rfl⟩ | ⟨rfl, rfl⟩ | ⟨rfl, rfl⟩ | ⟨rfl, rfl⟩ <;> exact ⟨rfl, rfl, by decide⟩
    obtain ⟨hwaits, hresets⟩ := source_cases hexec hreach hi hrel hoff
    exact ⟨fun _ h => absurd h hext, fun h _ => hwaits h, hresets⟩

theorem vbatPorFall_clears (s : State) : ∃ s', exec .vbatPorFall s = .next s' ∧ ResetHeld s s' 4 ∧ s'.gh.mode = .off ∧ s'.gh.asserted = 1 ∧
    s'.gh.rstCause = 1 ∧ s'.gh.pen = 0 ∧ s'.gh.inh = false ∧ s'.gh.bkp = [] ∧ s'.gh.retmem = [] ∧ s'.gh.rstCount = 0 ∧
    s'.gh.failStarts = 0 ∧ s'.gh.src = 0 ∧ s'.gh.backupAt = s.localNs := by
  refine ⟨_, rfl, ?_, ?_⟩
  · obtain ⟨hheld, hticks, hcores, hplanes, hgate, hcounters, hotp, hclock⟩ :=
      assertReset_held (s := { s with gh := { s.gh with asserted := 0, relStep := 0 } }) (i := 0) rfl (.inr rfl) rfl
    exact ⟨hheld, hticks, hcores, hplanes, hgate, hcounters, hotp, hclock⟩
  · simp [assertReset, sourceReach, resetAll, drawFree, ghAtReset]

/-! ### Release (R437, R438) -/

theorem releaseSources_eq {s : State} {set held : Nat} (hset : (2 ^ 21 - 1) ^^^ set = held) (hrel : s.gh.relStep ≠ 0) :
    (s.gh.asserted &&& held = 0 → releaseSources s set = { s with gh := (
      if 3 ≤ s.gh.effReach then { s.gh with asserted := 0, mode := .waking, inh := true, wakingAt := s.localNs, relStep := 2, pen := if s.gh.pen = 0 then 1 else s.gh.pen }
      else { s.gh with asserted := 0, mode := .waking, inh := true, wakingAt := s.localNs, relStep := 4 }) })
    ∧ (s.gh.asserted &&& held ≠ 0 → releaseSources s set = { s with gh := { s.gh with asserted := s.gh.asserted &&& held } }) := by
  subst hset
  unfold releaseSources beginRelease
  refine ⟨fun hnone => ?_, fun hleft => if_neg fun h => hleft h.1⟩
  rw [if_pos ⟨hnone, hrel⟩]
  simp only [hnone]
  split <;> rfl

theorem release_cases {s : State} {c : Instr} {held : Nat}
    (hc : (c, held) ∈ [(Instr.resetRelease, 7), (.vbatOnRise, 2 ^ 21 - 4), (.vbatOvRelease, 2 ^ 21 - 5)]) (hrel : s.gh.relStep ≠ 0) :
    (s.gh.asserted &&& held = 0 → exec c s = .next { s with gh := (
     let since := if c = .vbatOnRise ∧ bitOf s.gh.asserted 0 = true then s.localNs else s.gh.backupAt
     if 3 ≤ s.gh.effReach then { s.gh with backupAt := since, asserted := 0, mode := .waking, inh := true, wakingAt := s.localNs, relStep := 2, pen := if s.gh.pen = 0 then 1 else s.gh.pen }
     else { s.gh with backupAt := since, asserted := 0, mode := .waking, inh := true, wakingAt := s.localNs, relStep := 4 }) })
   ∧ (s.gh.asserted &&& held ≠ 0 → exec c s = .next { s with gh := { s.gh with
     backupAt := if c = .vbatOnRise ∧ bitOf s.gh.asserted 0 = true then s.localNs else s.gh.backupAt, asserted := s.gh.asserted &&& held } }) := by
  simp only [List.mem_cons, Prod.mk.injEq, List.not_mem_nil, or_false] at hc
  rcases hc with ⟨rfl, rfl⟩ | ⟨rfl, rfl⟩ | ⟨rfl, rfl⟩
  · obtain ⟨hnone, hleft⟩ := releaseSources_eq (s := s) (set := (2 ^ 21 - 1) ^^^ 0b111) (held := 7) (by decide) hrel
    simp only [reduceCtorEq, false_and, if_false]
    exact ⟨fun h => congrArg Host.Outcome.next (hnone h), fun h => congrArg Host.Outcome.next (hleft h)⟩
  · have hexec : exec .vbatOnRise s = .next (releaseSources { s with gh := { s.gh with
        backupAt := if bitOf s.gh.asserted 0 = true then s.localNs else s.gh.backupAt } } 0b11) := by
      change execVbatOnRise s = _
      unfold execVbatOnRise
      split <;> rfl
    obtain ⟨hnone, hleft⟩ := releaseSources_eq (s := { s with gh := { s.gh with
        backupAt := if bitOf s.gh.asserted 0 = true then s.localNs else s.gh.backupAt } }) (set := 0b11) (held := 2 ^ 21 - 4) (by decide) hrel
    simp only [true_and]
    exact ⟨fun h => hexec.trans (congrArg Host.Outcome.next (hnone h)), fun h => hexec.trans (congrArg Host.Outcome.next (hleft h))⟩
  · obtain ⟨hnone, hleft⟩ := releaseSources_eq (s := s) (set := 0b100) (held := 2 ^ 21 - 5) (by decide) hrel
    simp only [reduceCtorEq, false_and, if_false]
    exact ⟨fun h => congrArg Host.Outcome.next (hnone h), fun h => congrArg Host.Outcome.next (hleft h)⟩

/-- Settles O52: the sources of reach 3 as one command each over `assertReset`, and their ends over `releaseSources`. -/
theorem resets : Obligations.Resets :=
  ⟨⟨fun _ _ _ => reach3_source, vbatPorFall_clears⟩, fun _ _ _ => release_cases⟩

/-! ### Rails (R427, R428) -/

theorem pgoodRise_enables (s : State) (i : Fin 6) (v : Bool) (h : bitOf s.gh.pen i = true) :
    exec (.pgoodRise i v) s = .next { s with gh := { s.gh with
      pgood := s.gh.pgood ||| 2 ^ i.val
      vio33 := if i.val = 3 ∧ bitOf s.gh.pgood 3 = false then v else s.gh.vio33
      pen := if s.gh.relStep ≥ 2 ∧ i.val < 5 then s.gh.pen ||| 2 ^ (i.val + 1) else s.gh.pen } } := by
  have hstep : i = 3 ↔ i.val = 3 := Fin.ext_iff
  refine congrArg Host.Outcome.next ((if_neg (by simp [h])).trans ?_)
  simp only [hstep]
  split <;> rfl

/-- A rail that fails: the source PG, and the power lockout at the third failed start in a row. -/
theorem exec_pgFail {s : State} {i : Fin 6} (h : bitOf s.gh.pen i = true) :
    exec (.pgFail i) s = .next (
      let t := { raiseReset s 3 with gh := { (raiseReset s 3).gh with pgFails := if inReset s then (raiseReset s 3).gh.pgFails + 1 else 0 } }
      if t.gh.pgFails ≥ 3 then lockOut t else t) :=
  congrArg Host.Outcome.next (if_neg (by simp [h]))

theorem ghAtReset_power (s : State) (reach : Nat) :
    (ghAtReset s reach).pgFails = s.gh.pgFails ∧ (ghAtReset s reach).lockout = s.gh.lockout := by
  unfold ghAtReset
  split <;> exact ⟨rfl, rfl⟩

theorem pgRecords_kept (s : State) :
    (assertReset s 3).gh.pgFails = s.gh.pgFails ∧ (assertReset s 3).gh.lockout = s.gh.lockout :=
  ghAtReset_power { s with freeIdx := s.freeIdx + 1 } _

theorem pgFail_running {s : State} {i : Fin 6} (h : bitOf s.gh.pen i = true) (hoff : s.gh.mode ≠ .off) (hdormant : s.gh.mode ≠ .dormant)
    (hsleep : s.gh.sleepState ≠ .committed) (hrel : s.gh.relStep = 0) :
    ∃ s', exec (.pgFail i) s = .next s' ∧ ResetHeld s s' 3 ∧ s'.gh.asserted = s.gh.asserted ||| 8 ∧
      s'.gh.rstCause = s.gh.rstCause ||| 8 ∧ s'.gh.pen = 0 ∧ s'.gh.pgFails = 0 ∧ s'.gh.lockout = s.gh.lockout := by
  have hidle : inReset s = false := by simp [inReset, hrel]
  obtain ⟨hheld, hticks, hcores, hplanes, hgate, hcounters, hotp, hclock⟩ := assertReset_held (s := s) (i := 3) rfl (.inl rfl) hrel
  obtain ⟨hasserted, hcause, hpen, _⟩ := assertReset_records (s := s) (i := 3) rfl (by decide) hrel
  refine ⟨_, exec_pgFail h, ?_⟩
  rw [raiseReset_running 3 hoff hdormant hsleep]
  simp only [hidle, Bool.false_eq_true, if_false, ge_iff_le, Nat.reduceLeDiff]
  exact ⟨⟨hheld, hticks, hcores, hplanes, hgate, hcounters, hotp, hclock⟩, hasserted, hcause, hpen, trivial, (pgRecords_kept s).2⟩

theorem pgFail_lockout {s : State} {i : Fin 6} (h : bitOf s.gh.pen i = true) (hoff : s.gh.mode ≠ .off) (hdormant : s.gh.mode ≠ .dormant)
    (hsleep : s.gh.sleepState ≠ .committed) (hrel : s.gh.relStep ≠ 0) (hfails : s.gh.pgFails = 2) :
    ∃ s', exec (.pgFail i) s = .next s' ∧ s'.gh.mode = .dormant ∧ s'.gh.lockout = true ∧
      s'.gh.pen = 0 ∧ s'.gh.inh = false ∧ s'.gh.relStep = 0 ∧ s'.gh.pgFails = 0 ∧ bitOf s'.gh.faultSrc 6 = true := by
  have hreset : inReset s = true := by simp [inReset, hrel]
  have hkept : (assertReset s 3).gh.pgFails = 2 := (pgRecords_kept s).1.trans hfails
  refine ⟨_, exec_pgFail h, ?_⟩
  rw [raiseReset_running 3 hoff hdormant hsleep]
  simp [hreset, hkept, lockOut, setFaultSrc, testBit_eq_bitOf, show Nat.testBit 64 6 = true from rfl]

/-! ### The power-down of an entry to Dormant (R427) -/

/-- Step i is the last that is enabled. -/
theorem log2_of_top {pen : Nat} {i : Fin 6} (h : bitOf pen i = true) (htop : ∀ j, i.val < j → bitOf pen j = false) :
    Nat.log2 pen = i.val := by
  simp only [testBit_eq_bitOf] at h htop
  have hne : pen ≠ 0 := by
    rintro rfl
    simp at h
  refine Nat.le_antisymm (Nat.le_of_not_lt fun hlt => ?_) ((Nat.le_log2 hne).2 (Nat.ge_two_pow_of_testBit h))
  have hbit := htop _ hlt
  rw [Nat.testBit_log2 hne] at hbit
  exact absurd hbit (by decide)

theorem bitOf_sub_top {pen : Nat} {i : Fin 6} (h : bitOf pen i = true) (htop : ∀ j, i.val < j → bitOf pen j = false) (j : Nat) :
    bitOf (pen - 2 ^ i.val) j = (bitOf pen j && decide (j ≠ i.val)) := by
  have hge : 2 ^ i.val ≤ pen := Nat.ge_two_pow_of_testBit (testBit_eq_bitOf .. ▸ h)
  have hlt : pen < 2 ^ (i.val + 1) := log2_of_top h htop ▸ Nat.lt_log2_self
  have hmod : pen - 2 ^ i.val = pen % 2 ^ i.val := by
    rw [Nat.mod_eq_sub_mod hge, Nat.mod_eq_of_lt (by rw [Nat.pow_succ] at hlt; omega)]
  rw [hmod, testBit_eq_bitOf, Nat.testBit_mod_two_pow, ← testBit_eq_bitOf]
  rcases Nat.lt_trichotomy j i.val with hj | rfl | hj
  · simp [hj, hj.ne]
  · simp
  · simp [htop j hj]

theorem railStepDown_drops {s : State} (hcommitted : s.gh.sleepState = .committed) (htarget : s.gh.target = .dormant)
    (hentry : s.gh.entryDone = false) {i : Fin 6} (h : bitOf s.gh.pen i = true) (htop : ∀ j, i.val < j → bitOf s.gh.pen j = false) :
    ∃ s', exec .railStepDown s = .next s' ∧ s' = { s with gh := { s.gh with pen := s'.gh.pen, pgood := s'.gh.pgood } } ∧
      ∀ j < 6, bitOf s'.gh.pen j = (bitOf s.gh.pen j && decide (j ≠ i.val)) ∧
        bitOf s'.gh.pgood j = (bitOf s.gh.pgood j && decide (j ≠ i.val)) := by
  have hne : s.gh.pen ≠ 0 := by
    intro h0
    simp [h0, testBit_eq_bitOf] at h
  have hstep : exec .railStepDown s = .next { s with gh := { s.gh with
      pen := s.gh.pen - 2 ^ i.val, pgood := s.gh.pgood &&& (63 ^^^ 2 ^ i.val) } } := by
    refine congrArg Host.Outcome.next ((if_neg (by simp [hcommitted, htarget, hentry])).trans ((if_neg hne).trans ?_))
    rw [log2_of_top h htop]
  refine ⟨_, hstep, rfl, fun j hj => ⟨?_, ?_⟩⟩
  · exact bitOf_sub_top h htop j
  · rw [testBit_eq_bitOf, testBit_eq_bitOf, Nat.testBit_and, Nat.testBit_xor, Nat.testBit_two_pow, show (63 : Nat) = 2 ^ 6 - 1 from rfl,
      Nat.testBit_two_pow_sub_one]
    simp [hj, eq_comm]

theorem railStepDown_ends {s : State} (hcommitted : s.gh.sleepState = .committed) (htarget : s.gh.target = .dormant)
    (hentry : s.gh.entryDone = false) (h : s.gh.pen = 0) :
    ∃ s', exec .railStepDown s = .next s' ∧ s'.gh.mode = .dormant ∧ s'.gh.lastMode = s.gh.mode ∧ s'.gh.inh = false ∧
      s'.gh.entryDone = true ∧ s'.gh.faultSrc = s.gh.faultSrc &&& 0b1101111 ∧ s'.gh.commitAt = s.localNs ∧ s'.gh.bkp = s.gh.bkp ∧
      s'.engine = EngineArray.reset ∧ s'.cores = [] := by
  have hstep : exec .railStepDown s = .next (enterDormant s) :=
    congrArg Host.Outcome.next ((if_neg (by simp [hcommitted, htarget, hentry])).trans (if_pos h))
  exact ⟨_, hstep, rfl, rfl, rfl, rfl, rfl, rfl, rfl, rfl, rfl⟩

/-- Settles O53, event by event. -/
theorem railEvents : Obligations.RailEvents :=
  ⟨pgoodRise_enables,
    fun _ _ h hoff hdormant hsleep => ⟨pgFail_running h hoff hdormant hsleep, pgFail_lockout h hoff hdormant hsleep⟩,
    fun _ hcommitted htarget hentry => ⟨fun _ => railStepDown_drops hcommitted htarget hentry, railStepDown_ends hcommitted htarget hentry⟩⟩

end Sys2Proof.Machine
end

section
/-! PROOFS. What the operations that a packet program reaches leave unchanged: one lemma an operation, in the order of the model. -/

namespace Sys2Proof.Machine

/-- The state that each kind of result leaves; s where it names none. -/
def OwnRes.left (s : State) : OwnRes → State
  | .ok s' => s'
  | .viol _ => s
  | .full => s

def LrnOut.left : LrnOut → State
  | .done s _ _ _ => s
  | .wait s => s

def TRes.left (s : State) : TRes → State
  | .fall s' => s'
  | .jump s' _ => s'
  | .ended s' => s'
  | .fault _ _ => s

@[simp] theorem OwnRes.left_ok (s s' : State) : (OwnRes.ok s').left s = s' := rfl
@[simp] theorem OwnRes.left_viol (s : State) (c : Nat) : (OwnRes.viol c).left s = s := rfl
@[simp] theorem OwnRes.left_full (s : State) : OwnRes.full.left s = s := rfl
@[simp] theorem LrnOut.left_done (s : State) (st de wo : Nat) : (LrnOut.done s st de wo).left = s := rfl
@[simp] theorem LrnOut.left_wait (s : State) : (LrnOut.wait s).left = s := rfl
@[simp] theorem TRes.left_fall (s s' : State) : (TRes.fall s').left s = s' := rfl
@[simp] theorem TRes.left_jump (s s' : State) (a : Word) : (TRes.jump s' a).left s = s' := rfl
@[simp] theorem TRes.left_ended (s s' : State) : (TRes.ended s').left s = s' := rfl
@[simp] theorem TRes.left_fault (s : State) (c i : Nat) : (TRes.fault c i).left s = s := rfl

/-- Face but for its security associations. -/
def faceRest (f : Face) : Face := { f with sas := [] }

/-- Nothing changed but what packet programs reach: the data plane, its counters, the events and the host's rings (R12, R26). -/
abbrev DataOnly (s s' : State) : Prop :=
  s'.cores = s.cores ∧ s'.vault = s.vault ∧ s'.gate = s.gate ∧ s'.time = s.time ∧ s'.bench = s.bench ∧ s'.localNs = s.localNs ∧
  s'.triad = s.triad ∧ s'.gh = s.gh ∧ s'.relay = s.relay ∧ s'.pending = s.pending ∧ faceRest s'.face = faceRest s.face ∧
  s'.screen.current = s.screen.current ∧ s'.engine.service = s.engine.service ∧ s'.engine.armed = s.engine.armed

theorem DataOnly.refl (s : State) : DataOnly s s := ⟨rfl, rfl, rfl, rfl, rfl, rfl, rfl, rfl, rfl, rfl, rfl, rfl, rfl, rfl⟩

theorem DataOnly.trans {a b c : State} (hab : DataOnly a b) (hbc : DataOnly b c) : DataOnly a c := by
  unfold DataOnly at *
  simp [hab, hbc]

@[simp] theorem DataOnly.foldl {β : Type} {f : State → β → State} (hf : ∀ s x, DataOnly s (f s x)) : ∀ (l : List β) (s : State), DataOnly s (l.foldl f s)
  | [], s => DataOnly.refl s
  | x :: l, s => (hf s x).trans (DataOnly.foldl hf l (f s x))

theorem DataOnly.ite {s a b : State} {c : Prop} [Decidable c] (ha : DataOnly s a) (hb : DataOnly s b) : DataOnly s (if c then a else b) := by
  split
  · exact ha
  · exact hb

theorem DataOnly.of_ok {s s' : State} {r : OwnRes} (hr : DataOnly s (r.left s)) (h : r = .ok s') : DataOnly s s' := by
  subst h
  exact hr

theorem DataOnly.of_done {s s' : State} {r : LrnOut} {st de wo : Nat} (hr : DataOnly s r.left) (h : r = .done s' st de wo) : DataOnly s s' := by
  subst h
  exact hr

theorem DataOnly.of_wait {s s' : State} {r : LrnOut} (hr : DataOnly s r.left) (h : r = .wait s') : DataOnly s s' := by
  subst h
  exact hr

@[simp] theorem bump_data (s : State) (c : Ctr) (i n : Nat) : DataOnly s (bump s c i n) := by
  simp [DataOnly, bump]

@[simp] theorem postEvent_data (s : State) (n : Nat) (payload : List Nat) : DataOnly s (postEvent s n payload) := by
  unfold postEvent
  dsimp only
  repeat' split
  all_goals simp [DataOnly]

@[simp] theorem setThread_data (s : State) (t : Nat) (x : Thread) : DataOnly s (setThread s t x) := by
  simp [DataOnly, setThread]

@[simp] theorem setQueue_data (s : State) (q : Nat) (x : QueueRec) : DataOnly s (setQueue s q x) := by
  simp [DataOnly, setQueue]

@[simp] theorem setPort_data (s : State) (m : Nat) (x : PortRec) : DataOnly s (setPort s m x) := by
  simp [DataOnly, setPort]

@[simp] theorem setPool_data (s : State) (p : Nat) (x : Pool) : DataOnly s (setPool s p x) := by
  simp [DataOnly, setPool]

@[simp] theorem setCell_data (s : State) (c : Nat) (x : CellRec) : DataOnly s (setCell s c x) := by
  simp [DataOnly, setCell]

@[simp] theorem setChain_data (s : State) (c : Nat) (x : Option Chain) : DataOnly s (setChain s c x) := by
  simp [DataOnly, setChain]

@[simp] theorem sendPfc_data (s : State) (k quanta : Nat) : DataOnly s (sendPfc s k quanta) := by
  simp [DataOnly, sendPfc]

@[simp] theorem pfcLevel_data (s : State) (p : Nat) : DataOnly s (pfcLevel s p) := by
  unfold pfcLevel
  dsimp only
  split
  · simp [DataOnly]
  · refine DataOnly.foldl (fun s k => ?_) _ s
    repeat' split
    all_goals simp [DataOnly]

@[simp] theorem takeCell_data (p : Nat) (b : Option Nat) (s : State) (c : Nat) : DataOnly s (takeCell p b s c) := by
  simp [DataOnly, takeCell]

@[simp] theorem allocCells_data (s : State) (p n : Nat) : DataOnly s (allocCells s p n).1 := by
  unfold allocCells
  dsimp only
  repeat' split
  all_goals simp [DataOnly]

@[simp] theorem freeCell_data (s : State) (c : Nat) : DataOnly s (freeCell s c) := by
  unfold freeCell
  dsimp only
  repeat' split
  all_goals simp [DataOnly]

@[simp] theorem freeCells_data (s : State) (cells : List Nat) : DataOnly s (freeCells s cells) := by
  simp [DataOnly, freeCells]

@[simp] theorem freeChain_data (s : State) (first : Nat) : DataOnly s (freeChain s first) := by
  unfold freeChain
  repeat' split
  all_goals simp [DataOnly]

@[simp] theorem ownShare_data (s : State) (h n x : Nat) : DataOnly s ((ownShare s h n x).left s) := by
  unfold ownShare
  repeat' split
  all_goals simp [DataOnly]

@[simp] theorem ownRelease_data (s : State) (h : Nat) : DataOnly s ((ownRelease s h).left s) := by
  unfold ownRelease
  repeat' split
  all_goals simp [DataOnly]

@[simp] theorem ownFree_data (s : State) (m h : Nat) : DataOnly s ((ownFree s m h).left s) := by
  unfold ownFree
  repeat' split
  all_goals simp [DataOnly]

@[simp] theorem dropHold_data (s : State) (h : Nat) : DataOnly s (dropHold s h) := by
  unfold dropHold
  split
  · exact DataOnly.of_ok (ownFree_data ..) ‹_›
  · split
    · exact DataOnly.of_ok (ownRelease_data ..) ‹_›
    · exact DataOnly.refl s

@[simp] theorem setLedger_data (s : State) (t : Nat) (l : List (Nat × Nat)) : DataOnly s (setLedger s t l) := by
  simp [DataOnly, setLedger]

@[simp] theorem ledgerAdd_data (s : State) (t h n : Nat) : DataOnly s (ledgerAdd s t h n) := by
  simp [DataOnly, ledgerAdd]

@[simp] theorem ledgerSub_data (s : State) (t h : Nat) : DataOnly s (ledgerSub s t h) := by
  simp [DataOnly, ledgerSub]

@[simp] theorem releaseHolds_data (s : State) (h n : Nat) : DataOnly s (releaseHolds s h n).1 := by
  induction n generalizing s with
  | zero => exact DataOnly.refl s
  | succ n ih =>
    unfold releaseHolds
    split
    · exact (DataOnly.of_ok (ownRelease_data ..) ‹_›).trans (ih _)
    · exact DataOnly.refl s

@[simp] theorem reclaimChain_data (t : Nat) (s : State) (e : Nat × Nat) : DataOnly s (reclaimChain t s e) := by
  unfold reclaimChain
  split
  · dsimp only
    split
    · exact ((DataOnly.of_ok (ownFree_data ..) ‹_›).trans (releaseHolds_data ..)).trans (bump_data ..)
    · split
      · exact (releaseHolds_data ..).trans (bump_data ..)
      · exact DataOnly.refl s
  · exact DataOnly.refl s

@[simp] theorem passEndReclaim_data (s : State) (t : Nat) : DataOnly s (passEndReclaim s t) := by
  simp [DataOnly, passEndReclaim]

theorem takeDesc_data {s s' : State} {i : Nat} (h : takeDesc s = some (i, s')) : DataOnly s s' := by
  unfold takeDesc at h
  split at h
  · cases h
  · obtain ⟨_, rfl⟩ : _ ∧ _ = s' := by simpa using h
    simp [DataOnly]

@[simp] theorem freeDesc_data (s : State) (i : Nat) : DataOnly s (freeDesc s i) := by
  simp [DataOnly, freeDesc]

@[simp] theorem frameWrite_data (s : State) (h o : Nat) (b : List Byte) : DataOnly s (frameWrite s h o b) := by
  unfold frameWrite
  repeat' split
  all_goals simp [DataOnly]

@[simp] theorem discardStored_data (s : State) (h d : Nat) : DataOnly s (discardStored s h d) := by
  simp [DataOnly, discardStored]

@[simp] theorem markSpill_data (s : State) (h : Nat) : DataOnly s (markSpill s h) := by
  unfold markSpill
  repeat' split
  all_goals simp [DataOnly]

@[simp] theorem setList_data (s : State) (level parent cls : Nat) (l : List (Nat × Int)) : DataOnly s (setList s level parent cls l) := by
  simp [DataOnly, setList]

@[simp] theorem joinList_data (s : State) (level i : Nat) : DataOnly s (joinList s level i) := by
  unfold joinList
  dsimp only
  repeat' split
  all_goals simp [DataOnly]

@[simp] theorem leaveList_data (s : State) (level i : Nat) : DataOnly s (leaveList s level i) := by
  simp [DataOnly, leaveList]

@[simp] theorem joinUp_data (s : State) (q : Nat) : DataOnly s (joinUp s q) := by
  simp [DataOnly, joinUp]

@[simp] theorem leaveUp_data (s : State) (q : Nat) : DataOnly s (leaveUp s q) := by
  unfold leaveUp
  dsimp only
  repeat' split
  all_goals simp [DataOnly]

@[simp] theorem setFrames_data (s : State) (q : Nat) (l : List Desc) : DataOnly s (setFrames s q l) := by
  unfold setFrames
  dsimp only
  repeat' split
  all_goals simp [DataOnly]

@[simp] theorem discardDesc_data (s : State) (m : Nat) (d : Desc) : DataOnly s (discardDesc s m d) := by
  unfold discardDesc
  repeat' split
  all_goals simp [DataOnly]

@[simp] theorem notSent_data (s : State) (q : Nat) (marked : Bool) : DataOnly s (notSent s q marked) := by
  unfold notSent
  repeat' split
  all_goals simp [DataOnly]

@[simp] theorem mapDescs_data (f : Desc → Desc) (s : State) : DataOnly s (mapDescs f s) := by
  simp [DataOnly, mapDescs]

@[simp] theorem assignGen_data (s : State) (src num : Nat) : DataOnly s (assignGen s src num) := by
  simp [DataOnly, assignGen]

@[simp] theorem setReorder_data (s : State) (src : Nat) (l : List SeqEnt) : DataOnly s (setReorder s src l) := by
  simp [DataOnly, setReorder]

@[simp] theorem releaseFront_data (src : Nat) (l : List SeqEnt) (s : State) : DataOnly s (releaseFront src l s) := by
  induction l generalizing s with
  | nil => exact setReorder_data ..
  | cons e l ih =>
    unfold releaseFront
    split
    · exact ih s
    · split
      · exact (assignGen_data ..).trans (ih _)
      · exact (setReorder_data ..).trans (assignGen_data ..)

@[simp] theorem seqFill_data (s : State) (src num : Nat) : DataOnly s (seqFill s src num) := by
  simp [DataOnly, seqFill]

@[simp] theorem seqReady_data (s : State) (src num : Nat) : DataOnly s (seqReady s src num) := by
  unfold seqReady
  dsimp only
  repeat' split
  all_goals simp [DataOnly]

@[simp] theorem displace_data (q m k lim : Nat) (l : List Desc) (s : State) : DataOnly s (displace q m k lim l s) := by
  induction l generalizing s with
  | nil => exact DataOnly.refl s
  | cons d l ih =>
    unfold displace
    split
    · exact DataOnly.refl s
    · split
      · exact ih s
      · exact (((setFrames_data ..).trans (discardDesc_data ..)).trans (bump_data ..)).trans (ih _)

@[simp] theorem admitTo_data (s : State) (q k dp : Nat) (arrVc : Option Nat) : DataOnly s (admitTo s q k dp arrVc).1 := by
  unfold admitTo
  dsimp only
  repeat' split
  all_goals simp [DataOnly]

@[simp] theorem appendDesc_data (s : State) (d : Desc) : DataOnly s (appendDesc s d) := by
  unfold appendDesc
  dsimp only
  repeat' split
  all_goals simp [DataOnly]

@[simp] theorem enqueue_data (s : State) (d : Desc) : DataOnly s (enqueue s d).1 := by
  unfold enqueue
  dsimp only
  repeat' split
  all_goals simp [DataOnly]

@[simp] theorem setShaper_data (s : State) (level i : Nat) (x : Shaper) : DataOnly s (setShaper s level i x) := by
  simp [DataOnly, setShaper]

@[simp] theorem chargeNode_data (s : State) (level i : Nat) (green : Bool) (n : Int) : DataOnly s (chargeNode s level i green n) := by
  simp [DataOnly, chargeNode]

@[simp] theorem chargeRelease_data (s : State) (q : Nat) (n : Int) : DataOnly s (chargeRelease s q n) := by
  simp [DataOnly, chargeRelease]

@[simp] theorem refundTx_data (s : State) (tx : TxRec) (n : Int) : DataOnly s (refundTx s tx n) := by
  unfold refundTx
  repeat' split
  all_goals simp [DataOnly]

@[simp] theorem stompTx_data (s : State) (sent : Nat) (tx : TxRec) : DataOnly s (stompTx s sent tx).1 := by
  simp [DataOnly, stompTx]

@[simp] theorem restorePn_data (s : State) (m : Nat) (t : TxRec) : DataOnly s (restorePn s m t) := by
  simp [DataOnly, restorePn, faceRest]

@[simp] theorem putBack_data (s : State) (m : Nat) (t : TxRec) : DataOnly s (putBack s m t) := by
  unfold putBack
  repeat' split
  all_goals simp [DataOnly]

@[simp] theorem unstart_data (s : State) (m : Nat) (f : TxRec → Bool) : DataOnly s (unstart s m f) := by
  unfold unstart
  dsimp only
  repeat' split
  all_goals simp [DataOnly]

@[simp] theorem stompSpec_data (s : State) (m d : Nat) : DataOnly s (stompSpec s m d) := by
  unfold stompSpec
  dsimp only
  repeat' split
  all_goals simp [DataOnly]

@[simp] theorem withdrawSpec_data (s : State) (p : Packet) : DataOnly s (withdrawSpec s p) := by
  unfold withdrawSpec
  dsimp only
  repeat' split
  all_goals simp [DataOnly]

@[simp] theorem endSpec_data (s : State) (p : Packet) : DataOnly s (endSpec s p).1 := by
  unfold endSpec
  repeat' split
  all_goals simp [DataOnly]

@[simp] theorem dropPacket_data (s : State) (p : Packet) : DataOnly s (dropPacket s p) := by
  unfold dropPacket
  repeat' split
  all_goals simp [DataOnly]

@[simp] theorem clearThread_data (s : State) (t : Nat) : DataOnly s (clearThread s t) := by
  simp [DataOnly, clearThread]

@[simp] theorem detachLrn_data (s : State) (t : Nat) : DataOnly s (detachLrn s t) := by
  simp [DataOnly, detachLrn]

@[simp] theorem logChange_data (s : State) (r : DeltaRec) : DataOnly s (logChange s r) := by
  unfold logChange
  repeat' split
  all_goals simp [DataOnly]

@[simp] theorem freezeThread_data (s : State) (t : Nat) : DataOnly s (freezeThread s t) := by
  unfold freezeThread
  repeat' split
  all_goals simp [DataOnly]

@[simp] theorem violatePartner_data (s : State) (p : Nat) : DataOnly s (violatePartner s p) := by
  unfold violatePartner
  dsimp only
  repeat' split
  all_goals simp [DataOnly]

@[simp] theorem setWay_data (s : State) (v : Nat) (x : Option VEntry) : DataOnly s (setWay s v x) := by
  simp [DataOnly, setWay]

@[simp] theorem setConn_data (s : State) (c : Nat) (x : Option Conn) : DataOnly s (setConn s c x) := by
  simp [DataOnly, setConn]

@[simp] theorem setBackPtr_data (s : State) (i : Nat) (dir : Bool) (v : Option Nat) : DataOnly s (setBackPtr s i dir v) := by
  unfold setBackPtr
  repeat' split
  all_goals simp [DataOnly]

@[simp] theorem chooseWay_data (s : State) (key : Nat) : DataOnly s (chooseWay s key).1 := by
  have hclear : ∀ l : List Nat, DataOnly s (l.foldl (fun s v => match getWay s v with
      | some x => setWay s v (some { x with hit := false })
      | none => s) s) := fun l => DataOnly.foldl (fun s v => by split <;> simp [DataOnly]) l s
  unfold chooseWay
  dsimp only
  repeat' split
  · exact DataOnly.refl s
  · exact DataOnly.refl s
  · exact DataOnly.refl s
  · exact hclear _

@[simp] theorem installVerdict_data (s : State) (x : VEntry) : DataOnly s (installVerdict s x) := by
  unfold installVerdict
  dsimp only
  repeat' split
  all_goals simp [DataOnly]

@[simp] theorem installAtEnq_data (s : State) (p : Packet) (q template dp : Nat) (cut : Bool) : DataOnly s (installAtEnq s p q template dp cut) := by
  unfold installAtEnq
  dsimp only
  repeat' split
  all_goals simp [DataOnly]

@[simp] theorem setHit_data (s : State) (p : Packet) : DataOnly s (setHit s p) := by
  unfold setHit
  repeat' split
  all_goals simp [DataOnly]

@[simp] theorem setPairCount_data (s : State) (x y n : Nat) : DataOnly s (setPairCount s x y n) := by
  simp [DataOnly, setPairCount]

@[simp] theorem clearCached_data (s : State) (i : Nat) (c : Conn) : DataOnly s (clearCached s i c) := by
  unfold clearCached
  repeat' split
  all_goals simp [DataOnly]

@[simp] theorem removeConn_data (s : State) (i : Nat) (c : Conn) : DataOnly s (removeConn s i c) := by
  simp [DataOnly, removeConn]

@[simp] theorem connEvent_data (s : State) (e typ i : Nat) (c : Conn) : DataOnly s (connEvent s e typ i c) := by
  unfold connEvent
  repeat' split
  all_goals simp [DataOnly]

@[simp] theorem conFail_data (s : State) (status detail : Nat) : DataOnly s (conFail s status detail).st := by
  simp [DataOnly, conFail]

@[simp] theorem conOk_data (s : State) (i : Nat) (c : Conn) (detail : Nat) (ev : Nat) : DataOnly s (conOk s i c detail ev).st := by
  simp [DataOnly, conOk]

theorem unlessPassive_data {s : State} {r : ConRes} (h : DataOnly s r.st) : DataOnly s (unlessPassive s r).st := by
  unfold unlessPassive
  split
  · exact DataOnly.refl s
  · exact h

@[simp] theorem conLookupOp_data (s : State) (e key ev : Nat) : DataOnly s (conLookupOp s e key ev).st := by
  unfold conLookupOp
  repeat' split
  all_goals simp [DataOnly]

@[simp] theorem conUpdateFound_data (s : State) (e i : Nat) (c : Conn) (ev det : Nat) : DataOnly s (conUpdateFound s e i c ev det).st := by
  unfold conUpdateFound
  repeat' split
  all_goals simp [DataOnly]

@[simp] theorem conUpdateOp_data (s : State) (e key ev : Nat) : DataOnly s (conUpdateOp s e key ev).st := by
  unfold conUpdateOp
  split
  · exact conFail_data ..
  · exact unlessPassive_data (conUpdateFound_data ..)

@[simp] theorem conCloseOp_data (s : State) (key ev : Nat) : DataOnly s (conCloseOp s key ev).st := by
  unfold conCloseOp
  split
  · exact conFail_data ..
  · exact unlessPassive_data (by simp [DataOnly])

@[simp] theorem conCreate_data (s : State) (e partner key x y ev : Nat) : DataOnly s (conCreate s e partner key x y ev).st := by
  unfold conCreate
  dsimp only
  repeat' split
  all_goals simp [DataOnly]

@[simp] theorem conOpenOp_data (s : State) (e partner key x y ev : Nat) : DataOnly s (conOpenOp s e partner key x y ev).st := by
  unfold conOpenOp
  split
  · refine unlessPassive_data ?_
    split
    · exact (conUpdateFound_data ..).trans (bump_data ..)
    · exact conUpdateFound_data ..
  · exact unlessPassive_data (conCreate_data ..)

@[simp] theorem setPolicer_data (s : State) (i : Nat) (x : Policer) : DataOnly s (setPolicer s i x) := by
  simp [DataOnly, setPolicer]

@[simp] theorem countMeter_data (s : State) (i n colour detail : Nat) : DataOnly s (countMeter s i n colour detail) := by
  unfold countMeter
  repeat' split
  all_goals simp [DataOnly]

@[simp] theorem meter_data (s : State) (i n inp : Nat) : DataOnly s (meter s i n inp).1 := by
  unfold meter
  dsimp only
  repeat' split
  all_goals simp [DataOnly]

@[simp] theorem addDelay_data (s : State) (m tc d : Nat) : DataOnly s (addDelay s m tc d) := by
  simp [DataOnly, addDelay]

@[simp] theorem settleTx_data (s : State) (m : Nat) (t : TxRec) : DataOnly s (settleTx s m t) := by
  unfold settleTx
  dsimp only
  repeat' split
  all_goals simp [DataOnly]

@[simp] theorem threadRegs_data (t : Nat) (f : Regs → Regs) (s : State) : DataOnly s ((threadRegs t f s).left s) := by
  simp [DataOnly, threadRegs]

@[simp] theorem hostWrite_data (s : State) (a : Nat) (b : List Byte) : DataOnly s (hostWrite s a b) := by
  simp [DataOnly, hostWrite]

@[simp] theorem fireMsix_data (s : State) (v : Nat) : DataOnly s (fireMsix s v) := by
  simp [DataOnly, fireMsix]

@[simp] theorem setPair_p_data (s : State) (q : Nat) (x : QPair) : DataOnly s (setPair' s q x) := by
  simp [DataOnly, setPair']

@[simp] theorem puntHost_data (s : State) (q reason : Nat) (p : Packet) : DataOnly s (puntHost s q reason p) := by
  unfold puntHost
  dsimp only
  repeat' split
  all_goals simp [DataOnly]

@[simp] theorem puntTriad_data (s : State) (reason : Nat) (p : Packet) : DataOnly s (puntTriad s reason p) := by
  unfold puntTriad
  dsimp only
  repeat' split
  all_goals simp [DataOnly]

@[simp] theorem breach_data (s : State) (partner code node : Nat) : DataOnly s (breach s partner code node) := by
  simp [DataOnly, breach]

@[simp] theorem setSpoil_data (s : State) (m : Nat) (l : List SpoilEnt) : DataOnly s (setSpoil s m l) := by
  simp [DataOnly, setSpoil]

@[simp] theorem xEnd_data (t : Nat) (f : FmtX) (s s0 : State) (v : Option Word) (status detail high : Nat) :
    DataOnly s ((xEnd t f s v status detail high).left s0) := by
  simp [DataOnly, xEnd]

@[simp] theorem setPkt_data (s : State) (t : Nat) (p : Packet) : DataOnly s (setPkt s t p) := by
  simp [DataOnly, setPkt]

@[simp] theorem writeFrame_data (s : State) (t : Nat) (p : Packet) (ea : Nat) (b : List Byte) : DataOnly s (writeFrame s t p ea b) := by
  unfold writeFrame
  repeat' split
  all_goals simp [DataOnly]

@[simp] theorem bankCells_data (e : Nat) (cells : List Nat) (s : State) : DataOnly s (bankCells e cells s) := by
  simp [DataOnly, bankCells]

@[simp] theorem confirmPort_data (s : State) (m i : Nat) (mark : Option (Nat × Nat)) : DataOnly s (confirmPort s m i mark) := by
  have hlanes : ∀ (l : List TxRec) (s : State), DataOnly s (l.foldl (fun s u =>
      let s := if u.parked then bump s .preempted m 1 else s
      match txLane s u with
      | some e => if m ≥ 59 then bump s .cellsTx (8 * e.1 + e.2) (ceilDiv u.done 240) else s
      | none => s) s) := fun l => DataOnly.foldl (fun s u => by
    dsimp only
    repeat' split
    all_goals simp [DataOnly]) l
  unfold confirmPort
  exact ((setPort_data ..).trans (hlanes ..)).trans (DataOnly.foldl (fun s u => settleTx_data s m _) _ _)

@[simp] theorem confirmSpec_data (s : State) (t : Nat) (p : Packet) : DataOnly s (confirmSpec s t p) := by
  unfold confirmSpec
  dsimp only
  repeat' split
  all_goals simp [DataOnly]

@[simp] theorem passOver_data (s s0 : State) (t : Nat) : DataOnly s ((passOver s t).left s0) := by
  simp [DataOnly, passOver]

@[simp] theorem writeBack_data (s : State) (t : Nat) (p : Packet) : DataOnly s (writeBack s t p) := by
  simp [DataOnly, writeBack]

@[simp] theorem readySeq_data (s : State) (p : Packet) : DataOnly s (readySeq s p) := by
  unfold readySeq
  repeat' split
  all_goals simp [DataOnly]

@[simp] theorem fillSeq_data (s : State) (p : Packet) : DataOnly s (fillSeq s p) := by
  unfold fillSeq
  repeat' split
  all_goals simp [DataOnly]

@[simp] theorem mcastCopy_data (p : Packet) (noSelf : Bool) (s : State) (e : Nat × Nat) : DataOnly s (mcastCopy p noSelf s e) := by
  unfold mcastCopy
  dsimp only
  split
  · exact bump_data ..
  split
  · exact DataOnly.refl s
  split
  · exact breach_data ..
  split
  · exact bump_data ..
  split
  · exact bump_data ..
  case h_2 i s1 hdesc =>
    have hrefused : ∀ s2, DataOnly s1 s2 → DataOnly s s2 := fun _ h => (takeDesc_data hdesc).trans h
    repeat' split
    all_goals exact hrefused _ (by simp [DataOnly])

@[simp] theorem setTable_data (s : State) (t : Nat) (x : Option LTable) : DataOnly s (setTable s t x) := by
  simp [DataOnly, setTable]

@[simp] theorem setTier_data (s : State) (dram : Bool) (x : LTier) : DataOnly s (setTier s dram x) := by
  unfold setTier
  repeat' split
  all_goals simp [DataOnly]

@[simp] theorem setSlot_data (s : State) (dram : Bool) (i : Nat) (x : LSlot) : DataOnly s (setSlot s dram i x) := by
  simp [DataOnly, setSlot]

@[simp] theorem setOvf_data (s : State) (dram : Bool) (i : Nat) (x : LSlot) : DataOnly s (setOvf s dram i x) := by
  simp [DataOnly, setOvf]

@[simp] theorem modEntry_data (s : State) (dram : Bool) (l : Loc) (f : LSlot → LSlot) : DataOnly s (modEntry s dram l f) := by
  unfold modEntry
  repeat' split
  all_goals simp [DataOnly]

@[simp] theorem modParts_data (s : State) (dram : Bool) (l : Loc) (f : LSlot → LSlot) : DataOnly s (modParts s dram l f) := by
  unfold modParts
  repeat' split
  all_goals simp [DataOnly]

@[simp] theorem placeEntry_data (s : State) (d : TableDef) (l : Loc) (e : NewEntry) : DataOnly s (placeEntry s d l e) := by
  unfold placeEntry
  repeat' split
  all_goals simp [DataOnly]

@[simp] theorem copyEntry_data (s : State) (dram : Bool) (i g : Nat) : DataOnly s (copyEntry s dram i g) := by
  simp [DataOnly, copyEntry]

@[simp] theorem mergeEntry_data (s : State) (dram : Bool) (i g : Nat) : DataOnly s (mergeEntry s dram i g) := by
  simp [DataOnly, mergeEntry]

@[simp] theorem lookupEvent_data (s : State) (d : TableDef) (typ partner t key : Nat) : DataOnly s (lookupEvent s d typ partner t key) := by
  unfold lookupEvent
  repeat' split
  all_goals simp [DataOnly]

theorem evictEntry_data {s s' : State} {d : TableDef} {e : NewEntry} {partner k : Nat} (h : evictEntry s d e partner = some (s', k)) :
    DataOnly s s' := by
  unfold evictEntry at h
  dsimp only at h
  split at h
  · cases h
  · obtain ⟨rfl, _⟩ : _ = s' ∧ _ := by simpa using h
    split <;> simp [DataOnly]

@[simp] theorem learnedKey_data (s : State) (c : LrnCtx) : DataOnly s (learnedKey s c) := by
  unfold learnedKey
  repeat' split
  all_goals simp [DataOnly]

@[simp] theorem lrnApply_data (s : State) (c : LrnCtx) : DataOnly s (lrnApply s c).left := by
  unfold lrnApply
  dsimp only
  repeat' split
  on_goal -1 => exact (evictEntry_data ‹_›).trans (learnedKey_data ..)
  all_goals simp [DataOnly]

@[simp] theorem relocFinish_data (s : State) (r : Reloc) : DataOnly s (relocFinish s r).left := by
  unfold relocFinish
  dsimp only
  repeat' split
  all_goals simp [DataOnly]

@[simp] theorem lrnReturn_data (s : State) (c : LrnCtx) (status detail word : Nat) : DataOnly s (lrnReturn s c status detail word) := by
  unfold lrnReturn
  dsimp only
  repeat' split
  all_goals simp [DataOnly]

@[simp] theorem lrnPassive_data (s : State) (c : LrnCtx) : DataOnly s (lrnPassive s c).left := by
  unfold lrnPassive
  repeat' split
  all_goals simp [DataOnly]

@[simp] theorem lrnServe_data (s : State) (c : LrnCtx) : DataOnly s (lrnServe s c).left := by
  unfold lrnServe
  split
  · unfold lrnPassive
    split <;> exact DataOnly.refl s
  · exact lrnApply_data s c

@[simp] theorem serveWaiting_data (dram : Bool) (n : Nat) (s : State) : DataOnly s (serveWaiting dram n s) := by
  induction n generalizing s with
  | zero => exact DataOnly.refl s
  | succ n ih =>
    unfold serveWaiting
    dsimp only
    split
    · exact DataOnly.refl s
    · have hserved := fun t c => (setTier_data s dram t).trans (lrnServe_data _ c)
      split
      · exact ((DataOnly.of_done (hserved _ _) ‹_›).trans (lrnReturn_data ..)).trans (ih _)
      · exact DataOnly.of_wait (hserved _ _) ‹_›

@[simp] theorem relocDone_data (s : State) (dram : Bool) : DataOnly s (relocDone s dram) := by
  unfold relocDone
  split
  · exact DataOnly.refl s
  · split
    · exact (DataOnly.of_done (relocFinish_data ..) ‹_›).trans (lrnReturn_data ..)
    · exact DataOnly.of_wait (relocFinish_data ..) ‹_›

@[simp] theorem lrnIssue_data (s : State) (c : LrnCtx) : DataOnly s (lrnIssue s c).left := by
  unfold lrnIssue
  dsimp only
  repeat' split
  all_goals simp [DataOnly]

@[simp] theorem delApply_data (s : State) (t : Nat) (d : TableDef) (key : Nat) : DataOnly s (delApply s t d key).1 := by
  unfold delApply
  repeat' split
  all_goals simp [DataOnly]

@[simp] theorem delKey_data (s : State) (t key : Nat) : DataOnly s (delKey s t key).1 := by
  unfold delKey
  dsimp only
  repeat' split
  all_goals simp [DataOnly]

@[simp] theorem lkpExact_data (s : State) (t key : Nat) : DataOnly s (lkpExact s t key).1 := by
  unfold lkpExact
  dsimp only
  repeat' split
  all_goals simp [DataOnly]

@[simp] theorem loopEnter_data (t n len : Nat) (s : State) : DataOnly s ((loopEnter t n len s).left s) := by
  unfold loopEnter
  dsimp only
  repeat' split
  all_goals simp [DataOnly]

@[simp] theorem loopSkip_data (t len : Nat) (s : State) : DataOnly s ((loopSkip t len s).left s) := by
  simp [DataOnly, loopSkip]

@[simp] theorem threadLoad_data (t : Nat) (f : FmtI) (n : Nat) (conv : Nat → Word) (s : State) : DataOnly s ((threadLoad t f n conv s).left s) := by
  unfold threadLoad
  dsimp only
  repeat' split
  all_goals simp [DataOnly]

@[simp] theorem threadStore_data (t : Nat) (f : FmtI) (n : Nat) (s : State) : DataOnly s ((threadStore t f n s).left s) := by
  unfold threadStore
  dsimp only
  repeat' split
  all_goals simp [DataOnly]

@[simp] theorem threadConst_data (t : Nat) (f : FmtI) (s : State) : DataOnly s ((threadConst t f s).left s) := by
  unfold threadConst
  dsimp only
  repeat' split
  all_goals simp [DataOnly]

end Sys2Proof.Machine
end

section
/-! PROOFS. The isolation of packet programs: an engine thread's instruction is built of operations of the data plane. -/

namespace Sys2Proof.Machine

/-! ### The issue of a thread -/

theorem masterRange_thread {t : Nat} (h : t < 512) : masterRange t = 0 := by
  simp [masterRange, h]

theorem threadFault_data {t : Nat} (ht : t < 512) (s : State) (c i : Nat) : DataOnly s (threadFault s t c i) := by
  unfold threadFault violate
  simp [masterRange_thread ht, DataOnly]

theorem issued_data (s : State) (t : Nat) : DataOnly s (issued s t) := by simp [DataOnly, issued]

theorem threadStep_data {t : Nat} (ht : t < 512) {w : BitVec 32} {y : Option (BitVec 32)} {skip run : State → TRes}
    (hskip : ∀ s, DataOnly s ((skip s).left s)) (hrun : ∀ s, DataOnly s ((run s).left s)) (s : State) :
    DataOnly s (threadStep t w y skip run s) := by
  have hfault := threadFault_data ht
  unfold threadStep
  dsimp only
  split
  · exact DataOnly.refl s
  split
  · exact DataOnly.refl s
  refine (issued_data s t).trans (DataOnly.ite (hfault ..) (DataOnly.ite (hfault ..) (DataOnly.ite (hfault ..) ?_)))
  generalize hs1 : setThread (issued s t) t _ = s1
  have htaken : DataOnly (issued s t) s1 := hs1 ▸ setThread_data ..
  refine htaken.trans ?_
  have hran : ∀ go : Bool, DataOnly s1 ((if go then run s1 else skip s1).left s1) := fun go => by
    cases go
    · exact hskip s1
    · exact hrun s1
  split
  · next h => exact (h ▸ hran _ : DataOnly s1 (TRes.left s1 (.fall _))).trans (setThread_data ..)
  · next h => exact (h ▸ hran _ : DataOnly s1 (TRes.left s1 (.jump _ _))).trans (setThread_data ..)
  · next h => exact (h ▸ hran _ : DataOnly s1 (TRes.left s1 (.ended _)))
  · exact hfault ..

theorem fall_data (s : State) : DataOnly s ((TRes.fall s).left s) := DataOnly.refl s

theorem packetX_data {t : Fin 512} {w y : BitVec 32} {run : Nat → State → Thread → Packet → TRes}
    (hrun : ∀ s th p, DataOnly s ((run t s th p).left s)) (s : State) : DataOnly s (packetX (.thread t) w y run s) := by
  refine threadStep_data t.isLt fall_data (fun s => ?_) s
  dsimp only
  split
  · split
    · exact setThread_data ..
    · exact hrun ..
  · exact DataOnly.refl s

theorem terminal_data {t : Fin 512} {w y : BitVec 32} {run : Nat → State → Thread → Packet → State}
    (hrun : ∀ s th p, DataOnly s (run t s th p)) (s : State) : DataOnly s (terminal (.thread t) w y run s) := by
  refine packetX_data (fun s th p => ?_) s
  dsimp only
  split
  · exact (bump_data ..).trans (passOver_data ..)
  · exact ((endSpec_data ..).trans (hrun ..)).trans (passOver_data ..)

theorem regsOp_data (t : Fin 512) (w : BitVec 32) (f : Regs → Regs) (s : State) : DataOnly s (regsOp (.thread t) w f s) :=
  threadStep_data t.isLt fall_data (fun s => threadRegs_data ..) s

theorem systemOp_data (t : Fin 512) (w : BitVec 32) (run : State → Nat → SCore → CRes) (s : State) :
    DataOnly s (systemOp (.thread t) w run s) :=
  threadStep_data t.isLt fall_data fall_data s

theorem planeX_data (t : Fin 512) (w y : BitVec 32) (f : FmtX) (level : Nat) (image : State → Nat → SCore → Nat → Nat → Except Nat (List Byte))
    (run : State → Nat → Nat → Nat → List Byte → State × PlaneRes) (s : State) : DataOnly s (planeX (.thread t) w y f level image run s) :=
  threadStep_data t.isLt fall_data fall_data s

/-! ### Instructions that take chains, descriptors or places of a table -/

theorem fault_data (s : State) (c i : Nat) : DataOnly s ((TRes.fault c i).left s) := DataOnly.refl s


theorem alloc_data (t : Fin 512) (f : FmtX) {s s' : State} (h : exec (.alloc (.thread t) f) s = .next s') : DataOnly s s' := by
  cases h
  refine packetX_data (fun s th p => ?_) s
  dsimp only
  have hcells := allocCells_data s (bits f.desc.toNat 4 0) ((rget th.regs f.a.toNat).toNat % 256)
  repeat' split
  · exact xEnd_data ..
  · exact (bump_data ..).trans (xEnd_data ..)
  · next hgot =>
    rw [hgot] at hcells
    exact DataOnly.trans hcells (xEnd_data ..)
  · next hgot =>
    rw [hgot] at hcells
    exact DataOnly.trans hcells (((bankCells_data ..).trans ((setChain_data ..).trans (setLedger_data ..))).trans (xEnd_data ..))

theorem share_data (t : Fin 512) (f : FmtX) {s s' : State} (h : exec (.share (.thread t) f) s = .next s') : DataOnly s s' := by
  cases h
  refine packetX_data (fun s th p => ?_) s
  dsimp only
  split
  · exact (DataOnly.of_ok (ownShare_data ..) ‹_›).trans ((DataOnly.ite (ledgerAdd_data ..) (DataOnly.refl _)).trans (xEnd_data ..))
  · exact xEnd_data ..
  · exact fault_data ..

theorem release_data (t : Fin 512) (f : FmtX) {s s' : State} (h : exec (.release (.thread t) f) s = .next s') : DataOnly s s' := by
  cases h
  refine packetX_data (fun s th p => ?_) s
  dsimp only
  split
  · exact ((DataOnly.of_ok (ownRelease_data ..) ‹_›).trans (ledgerSub_data ..)).trans (xEnd_data ..)
  · exact xEnd_data ..
  · exact fault_data ..

theorem free_data (t : Fin 512) (f : FmtX) {s s' : State} (h : exec (.free (.thread t) f) s = .next s') : DataOnly s s' := by
  cases h
  refine packetX_data (fun s th p => ?_) s
  dsimp only
  split
  · exact ((DataOnly.of_ok (ownFree_data ..) ‹_›).trans (ledgerSub_data ..)).trans (xEnd_data ..)
  · exact xEnd_data ..
  · exact fault_data ..

theorem lrn_data (t : Fin 512) (f : FmtX) {s s' : State} (h : exec (.lrn (.thread t) f) s = .next s') : DataOnly s s' := by
  cases h
  refine packetX_data (fun s th p => ?_) s
  dsimp only
  split
  · exact (DataOnly.of_done (lrnIssue_data ..) ‹_›).trans (xEnd_data ..)
  · exact DataOnly.of_wait (lrnIssue_data ..) ‹_›

theorem enqBuf_data (t : Fin 512) (f : FmtX) {s s' : State} (h : exec (.enqBuf (.thread t) f) s = .next s') : DataOnly s s' := by
  cases h
  refine packetX_data (fun s th p => ?_) s
  dsimp only
  repeat' split
  · exact fault_data ..
  · exact fault_data ..
  · exact fault_data ..
  · exact (bump_data ..).trans (xEnd_data ..)
  · exact (takeDesc_data ‹_›).trans ((enqueue_data ..).trans (((setChain_data ..).trans (ledgerSub_data ..)).trans (xEnd_data ..)))
  · exact (takeDesc_data ‹_›).trans ((enqueue_data ..).trans ((freeDesc_data ..).trans (xEnd_data ..)))
  · exact fault_data ..

theorem mcast_data (t : Fin 512) (f : FmtX) {s s' : State} (h : exec (.mcast (.thread t) f) s = .next s') : DataOnly s s' := by
  cases h
  refine terminal_data (fun s th p => ?_) s
  have hfreed : ∀ s1, DataOnly s1 (match ownFree s1 0x401 p.handle with
      | .ok s => s
      | _ => s1) := fun s1 => by
    split
    · exact DataOnly.of_ok (ownFree_data ..) ‹_›
    · exact DataOnly.refl s1
  exact ((writeBack_data s t p).trans (setChain_data ..)).trans
    ((DataOnly.foldl (fun s e => mcastCopy_data p _ s e) _ _).trans ((hfreed _).trans ((freeDesc_data ..).trans (readySeq_data ..))))

/-- An instruction of an engine thread, whatever it is, reaches the data plane only. -/
theorem exec_data {i : Instr} {t : Fin 512} {s s' : State} (ha : agentOf i = some (.thread t)) (h : exec i s = .next s') : DataOnly s s' := by
  cases i <;> simp only [agentOf, reduceCtorEq, Option.some.injEq] at ha
  case kloadOtpWrite cut => 
    cases cut <;> simp only [reduceCtorEq, Option.some.injEq] at ha
    subst ha
    cases h
    exact planeX_data ..
  all_goals subst ha
  case alloc => exact alloc_data t _ h
  case share => exact share_data t _ h
  case release => exact release_data t _ h
  case free => exact free_data t _ h
  case lrn => exact lrn_data t _ h
  case enqBuf => exact enqBuf_data t _ h
  case mcast => exact mcast_data t _ h
  all_goals cases h
  case add | sub | mul | mulhu | min | max | minu | maxu | and | or | xor | andn | orn | xnor | sll | srl | sra | rol | ror | clz | ctz | popc
      | bswap | bswap32 | bswap16 | cmpeq | cmpne | cmplt | cmpltu | cmple | cmpleu | tstz | tstnz | sel | ptow | wtop | pand | por | pxor | pandn
      | divu | remu | divs | rems | addi | andi | ori | xori | slli | srli | srai | mov | extu | exts | ins | cmpeqi | cmplti | cmpltui | tsti
      | li | liz | mk16 | mk32 | mk48 => exact regsOp_data ..
  case stage | commit | abortCommit | abortGroup | thawMaster | thawPartner | gatelist | shaper | epoch | bank | leaseTake | leaseJoin
      | leaseForce | leaseRelease | kloadRoot | kloadFallback | kloadLifecycle | kloadClear | kderive | kwrapWrap | kwrapUnwrap | ksign
      | kverify => exact planeX_data ..
  case csrr | csrw | csrs | csrc | trap | tret | fence => exact systemOp_data ..
  case frd | fwr | fwrBuffer | xtr | csum | tstampShort | tstampSeconds | tstampMark | conLookup | conOpen | conUpdate | conClose | meter
      | verdictConfirm | recirc | done | lkpExact | lkpLpm | del =>
    refine packetX_data (fun s th p => ?_) s
    dsimp only
    repeat' split
    all_goals simp [DataOnly]
  case verdictWithdraw =>
    refine packetX_data (fun s th p => ?_) s
    split <;> simp [DataOnly]
  case enq | punt =>
    refine terminal_data (fun s th p => ?_) s
    dsimp only
    repeat' split
    all_goals simp [DataOnly]
  case drop => exact terminal_data (fun s th p => (bump_data ..).trans (dropPacket_data ..)) s
  case ld8u | ld16u | ld32u | ld64 | ld8s | ld16s | ld32s => exact threadStep_data t.isLt fall_data (fun s => threadLoad_data ..) s
  case st8 | st16 | st32 | st64 => exact threadStep_data t.isLt fall_data (fun s => threadStore_data ..) s
  case ldk => exact threadStep_data t.isLt fall_data (fun s => threadConst_data ..) s
  case amoadd => exact threadStep_data t.isLt fall_data fall_data s
  case loop | loopr => exact threadStep_data t.isLt (fun s => loopSkip_data ..) (fun s => loopEnter_data ..) s
  case br | call | ret =>
    refine threadStep_data t.isLt fall_data (fun s => ?_) s
    dsimp only
    repeat' split
    all_goals simp [DataOnly]
  case jr | callr => exact threadStep_data t.isLt fall_data fall_data s
  case wfi => exact systemOp_data t _ (fun s k c => .fall { c with waiting := !anyPending s k }) s

theorem face_of_rest {a b : Face} (h : faceRest b = faceRest a) : b = { a with sas := b.sas } := by
  cases a
  cases b
  simp_all [faceRest]

/-- Settles O58: each instruction of a thread is built of operations that reach the data plane only. -/
theorem packetIsolation : Obligations.PacketIsolation := by
  intro i t s s' ha h
  obtain ⟨hcores, hvault, hgate, htime, hbench, hlocal, htriad, hgh, hrelay, hpending, hface, hcurrent, hservice, harmed⟩ := exec_data ha h
  exact ⟨hcores, hgate, hvault, htime, hbench, hlocal, htriad, hgh, face_of_rest hface, hrelay, hpending, hcurrent, hservice, harmed⟩

end Sys2Proof.Machine
end

section
/-! PROOFS. What no operation outside the cores, the OTP and the Vault's signatures touches: one lemma for each function
that gives a state. -/

namespace Sys2Proof.Machine

/-- What the levels of the cores, the OTP and the operations of the Vault rest on is as it was. -/
abbrev Apart (s s' : State) : Prop :=
  s'.cores = s.cores ∧ s'.vault.slots = s.vault.slots ∧ s'.vault.fuses = s.vault.fuses ∧ s'.vault.sign = s.vault.sign ∧
  s'.vault.verify = s.vault.verify

theorem Apart.refl (s : State) : Apart s s := ⟨rfl, rfl, rfl, rfl, rfl⟩

theorem Apart.trans {a b c : State} (hab : Apart a b) (hbc : Apart b c) : Apart a c := by
  unfold Apart at *
  simp [hab, hbc]

@[simp] theorem Apart.foldl {β : Type} {f : State → β → State} (hf : ∀ s x, Apart s (f s x)) : ∀ (l : List β) (s : State), Apart s (l.foldl f s)
  | [], s => Apart.refl s
  | x :: l, s => (hf s x).trans (Apart.foldl hf l (f s x))

theorem Apart.ite {s a b : State} {c : Prop} [Decidable c] (ha : Apart s a) (hb : Apart s b) : Apart s (if c then a else b) := by
  split
  · exact ha
  · exact hb

theorem DataOnly.apart {s s' : State} (h : DataOnly s s') : Apart s s' := by
  simp [Apart, h]

/-- The state of a pair that a function was found to give. -/
theorem Apart.of_fst {β : Type} {s s1 : State} {r : State × β} {b : β} (h : Apart s r.1) (e : r = (s1, b)) : Apart s s1 := by
  subst e
  exact h

theorem Apart.of_snd {β : Type} {s s1 : State} {r : β × State} {b : β} (h : Apart s r.2) (e : r = (b, s1)) : Apart s s1 := by
  subst e
  exact h

/-- The state that a step of the lookup's prepare leaves; s where it fails. -/
def LkRes.left (s : State) : LkRes → State
  | .ok c => c.s
  | .error _ => s

@[simp] theorem LkRes.left_ok (s : State) (c : LkPrep) : LkRes.left s (.ok c) = c.s := rfl
@[simp] theorem LkRes.left_error (s : State) (f : Nat × Nat) : LkRes.left s (.error f) = s := rfl

theorem LkRes.walk_left (c : LkPrep) (r : LkRes) : (r.walk c).1.s = r.left c.s := by cases r <;> rfl

/-! ### Time (R296 to R301, R528) -/

@[simp] theorem advance_apart (s : State) (n : Nat) : Apart s (advance s n) := by
  simp [Apart, advance]

/-! ### Captures (R299, R304, R528) -/

@[simp] theorem logTime_apart (old s : State) : Apart s (logTime old s) := by
  simp [Apart, logTime]

/-! ### Events (R494, R495) -/

@[simp] theorem drawFree_apart (s : State) : Apart s (drawFree s).2 := by
  simp [Apart, drawFree]

/-! ### Accessors -/

@[simp] theorem setBank_apart (s : State) (b : Bool) (x : ProgBank) : Apart s (setBank s b x) := by
  unfold setBank
  repeat' split
  all_goals simp [Apart]

/-! ### The bank matcher (R225 to R228) -/

@[simp] theorem spillCell_apart (s : State) (c : Nat) : Apart s (spillCell s c) := by
  unfold spillCell
  dsimp only
  repeat' split
  all_goals simp [Apart]

@[simp] theorem matchedAccess_apart (s : State) (b : Nat) (x : PendCell) : Apart s (matchedAccess s b x) := by
  unfold matchedAccess
  repeat' split
  all_goals simp [Apart]

@[simp] theorem feedMatcher_apart (s : State) : Apart s (feedMatcher s) := by
  unfold feedMatcher
  refine Apart.trans (Apart.foldl (fun s x => ?_) _ _) (Apart.foldl (fun s x => ?_) _ _)
  · dsimp only
    split <;> simp [Apart]
  · simp [Apart]

@[simp] theorem bypassCell_apart (s : State) (c : Nat) : Apart s (bypassCell s c) := by
  simp [Apart, bypassCell]

@[simp] theorem bypassPending_apart (s : State) : Apart s (bypassPending s) := by
  unfold bypassPending
  repeat' split
  all_goals simp [Apart]

@[simp] theorem matchCellTime_apart (s0 : State) : Apart s0 (matchCellTime s0) := by
  simp [Apart, matchCellTime]

@[simp] theorem makeRoom_apart (k n : Nat) (s : State) : Apart s (makeRoom k n s) := by
  induction n generalizing s with
  | zero => exact Apart.refl s
  | succ n ih =>
    unfold makeRoom
    exact Apart.ite (Apart.refl s) ((matchCellTime_apart s).trans (ih _))

@[simp] theorem writeCell_apart (m : Nat) (s : State) (c : Nat) : Apart s (writeCell m s c) := by
  unfold writeCell
  dsimp only
  repeat' split
  all_goals simp [Apart]

/-! ### Frame descriptors and stored frames -/

@[simp] theorem takeCells_apart (p n : Nat) (s : State) : Apart s (takeCells p n s).1 := by
  induction n generalizing s with
  | zero => exact Apart.refl s
  | succ n ih =>
    unfold takeCells
    split
    · next hgot =>
      have hcells := Apart.of_fst (allocCells_data s p 1).apart hgot
      split
      · next hrest => exact hcells.trans (Apart.of_fst (ih _) hrest)
      · next hrest => exact (hcells.trans (Apart.of_fst (ih _) hrest)).trans (freeCells_data ..).apart
    · next hgot => exact Apart.of_fst (allocCells_data s p 1).apart hgot

@[simp] theorem storeFrame_apart (s : State) (m c : Nat) (bytes : List Byte) : Apart s (storeFrame s m c bytes).1 := by
  unfold storeFrame
  dsimp only
  split
  · next hgot => exact (Apart.of_fst (takeCells_apart ..) hgot).trans (by split <;> simp [Apart])
  · next hgot =>
    refine (Apart.of_fst (takeCells_apart ..) hgot).trans ?_
    split
    · exact (freeCells_data ..).apart.trans (bump_data ..).apart
    · next hdesc =>
      exact (takeDesc_data hdesc).apart.trans ((setChain_data ..).apart.trans (Apart.foldl (fun s x => writeCell_apart m s x) _ _))

@[simp] theorem unmarkSpill_apart (s : State) (h : Nat) : Apart s (unmarkSpill s h) := by
  unfold unmarkSpill
  repeat' split
  all_goals simp [Apart]

/-! ### Hopper bursts (R232) -/

@[simp] theorem refillBurst_apart (s : State) (p : Nat) : Apart s (refillBurst s p) := by
  unfold refillBurst
  dsimp only
  repeat' split
  all_goals simp [Apart]

@[simp] theorem drainBurst_apart (s : State) (p : Nat) : Apart s (drainBurst s p) := by
  unfold drainBurst
  dsimp only
  repeat' split
  all_goals simp [Apart]

/-! ### The hierarchy (R258, R265) -/

@[simp] theorem setNode_apart (s : State) (level i : Nat) (x : NodeRec) : Apart s (setNode s level i x) := by
  unfold setNode
  repeat' split
  all_goals simp [Apart]

@[simp] theorem joinAll_apart (s : State) (qs : List Nat) : Apart s (joinAll s qs) := by
  simp [Apart, joinAll]

@[simp] theorem joinNodes_apart (s : State) (level : Nat) (l : List Nat) : Apart s (joinNodes s level l) := by
  unfold joinNodes
  repeat' split
  all_goals simp [Apart]

/-! ### The reorder stage (R158 to R160) -/

@[simp] theorem seqGap_apart (s : State) (src : Nat) : Apart s (seqGap s src) := by
  unfold seqGap
  dsimp only
  repeat' split
  all_goals simp [Apart]

/-! ### Withdrawal of a speculation (R206) -/

@[simp] theorem remarkSpill_apart (s : State) (h : Nat) : Apart s (remarkSpill s h) := by
  unfold remarkSpill
  repeat' split
  all_goals simp [Apart]

@[simp] theorem putSa_apart (s : State) (i : Nat) (x : Option Sa) : Apart s (putSa s i x) := by
  simp [Apart, putSa]

/-! ### Port flush (R244) -/

@[simp] theorem markWithdrawn_apart (s : State) (d : Nat) : Apart s (markWithdrawn s d) := by
  simp [Apart, markWithdrawn]

@[simp] theorem withdrawDesc_apart (s : State) (d : Nat) : Apart s (withdrawDesc s d) := by
  unfold withdrawDesc
  repeat' split
  all_goals simp [Apart]

@[simp] theorem flushQueue_apart (s : State) (q m : Nat) : Apart s (flushQueue s q m).1 := by
  simp [Apart, flushQueue]

@[simp] theorem toHolding_apart (s : State) (q : Nat) : Apart s (toHolding s q) := by
  simp [Apart, toHolding]

@[simp] theorem withdrawQueues_apart (s : State) (m : Nat) (qs : List Nat) : Apart s (withdrawQueues s m qs) := by
  simp [Apart, withdrawQueues]

@[simp] theorem flushQueues_apart (s : State) (m : Nat) (qs : List Nat) : Apart s (flushQueues s m qs).1 := by
  have hfold : ∀ (l : List Nat) (a : State × Nat × Nat), Apart a.1 (l.foldl (fun (a : State × Nat × Nat) q =>
      if (getQAdmit a.1 q).hold then a
      else let f := flushQueue a.1 q m; (f.1, a.2.1 + f.2.1, a.2.2 + f.2.2)) a).1 := fun l => by
    induction l with
    | nil => exact fun a => Apart.refl a.1
    | cons q l ih =>
      intro a
      rw [List.foldl_cons]
      refine Apart.trans ?_ (ih _)
      split
      · exact Apart.refl a.1
      · exact flushQueue_apart ..
  exact (withdrawQueues_apart s m qs).trans (hfold qs (withdrawQueues s m qs, 0, 0))

@[simp] theorem flushSpoil_apart (s : State) (m : Nat) (qs : List Nat) : Apart s (flushSpoil s m qs) := by
  simp [Apart, flushSpoil]

@[simp] theorem portFlush_apart (s : State) (m : Nat) : Apart s (portFlush s m) := by
  unfold portFlush
  refine (((flushQueues_apart ..).trans (Apart.foldl (fun s q => ?_) _ _)).trans (flushSpoil_apart ..)).trans (postEvent_data ..).apart
  exact Apart.ite (toHolding_apart ..) (Apart.refl s)

/-! ### Keys -/

@[simp] theorem setKey_apart (s : State) (h : Nat) (k : Option VKey) : Apart s (setKey s h k) := by
  simp [Apart, setKey]

@[simp] theorem storeKey_apart (s : State) (h v : Nat) (wide exportable : Bool) (parent depth : Nat) : Apart s (storeKey s h v wide exportable parent depth) := by
  simp [Apart, storeKey]

@[simp] theorem staleSa_apart (s : State) (i : Nat) (a : Sa) : Apart s (staleSa s i a) := by
  simp [Apart, staleSa]

@[simp] theorem staleSas_apart (s : State) (l : List Nat) : Apart s (staleSas s l) := by
  unfold staleSas
  refine Apart.foldl (fun s x => ?_) _ _
  repeat' split
  all_goals simp [Apart]

@[simp] theorem invalidateKey_apart (s : State) (h : Nat) : Apart s (invalidateKey s h) := by
  unfold invalidateKey
  refine ((Apart.foldl (fun s i => ?_) _ s).trans (staleSas_apart ..)).trans (setKey_apart ..)
  split
  · exact setKey_apart ..
  · exact Apart.refl s

@[simp] theorem reload_p_apart (s : State) (h v : Nat) (wide exportable : Bool) (parent depth : Nat) : Apart s (reload' s h v wide exportable parent depth) := by
  unfold reload'
  repeat' split
  all_goals simp [Apart]

@[simp] theorem remaskKey_apart (s : State) (h : Nat) : Apart s (remaskKey s h) := by
  unfold remaskKey
  dsimp only
  repeat' split
  all_goals simp [Apart]

@[simp] theorem remaskAfter_apart (s : State) : Apart s (remaskAfter s) := by
  unfold remaskAfter
  repeat' split
  all_goals simp [Apart]

@[simp] theorem clearRootKeys_apart (s : State) : Apart s (clearRootKeys s) := by
  simp [Apart, clearRootKeys]

@[simp] theorem orphanSas_apart (s : State) : Apart s (orphanSas s) := by
  simp [Apart, orphanSas]

@[simp] theorem remaskAll_apart (s : State) : Apart s (remaskAll s) := by
  simp [Apart, remaskAll]

/-! ### BootRom -/

@[simp] theorem romRoot_apart (s : State) : Apart s (romRoot s) := by
  unfold romRoot
  repeat' split
  all_goals simp [Apart]

@[simp] theorem romIdk_apart (s : State) : Apart s (romIdk s) := by
  unfold romIdk
  repeat' split
  all_goals simp [Apart]

/-! ### Pair unit: role and records -/

@[simp] theorem setRole_apart (s : State) (r : Role) : Apart s (setRole s r) := by
  simp [Apart, setRole]

@[simp] theorem setFaultSrc_apart (s : State) (i : Nat) (on : Bool) : Apart s (setFaultSrc s i on) := by
  simp [Apart, setFaultSrc]

@[simp] theorem enterMode_apart (s : State) (m : Mode) : Apart s (enterMode s m) := by
  simp [Apart, enterMode]

@[simp] theorem pairEvent_apart (s : State) (typ code detail : Nat) : Apart s (pairEvent s typ code detail) := by
  simp [Apart, pairEvent]

@[simp] theorem pairSend_apart (s : State) (typ : Nat) (chunk : Nat) : Apart s (pairSend s typ chunk) := by
  unfold pairSend
  repeat' split
  all_goals simp [Apart]

@[simp] theorem dropLease_apart (s : State) (code : Nat) : Apart s (dropLease s code) := by
  unfold dropLease
  repeat' split
  all_goals simp [Apart]

/-! ### Coasting and TRIAD_FAULT -/

@[simp] theorem beginCoast_apart (s : State) (cause : Nat) : Apart s (beginCoast s cause) := by
  unfold beginCoast
  repeat' split
  all_goals simp [Apart]

/-! ### Violations (R414 to R416) -/

@[simp] theorem violate_apart (s : State) (m code info pc : Nat) : Apart s (violate s m code info pc) := by
  unfold violate
  repeat' split
  all_goals simp [Apart]

@[simp] theorem threadFault_apart (s : State) (t code info : Nat) : Apart s (threadFault s t code info) := by
  simp [Apart, threadFault]

/-! ### The verdict cache -/

@[simp] theorem clearWay_apart (s : State) (v : Nat) : Apart s (clearWay s v) := by
  unfold clearWay
  repeat' split
  all_goals simp [Apart]

/-! ### Connections (R211 to R217) -/

@[simp] theorem connClear_apart (s : State) (all : Bool) (x y : Nat) : Apart s (connClear s all x y) := by
  unfold connClear
  refine Apart.foldl (fun s x => ?_) _ _
  repeat' split
  all_goals simp [Apart]

@[simp] theorem connClearFree_apart (s : State) : Apart s (connClearFree s) := by
  unfold connClearFree
  refine Apart.foldl (fun s x => ?_) _ _
  repeat' split
  all_goals simp [Apart]

@[simp] theorem connVisit_apart (s : State) (i : Nat) : Apart s (connVisit s i) := by
  unfold connVisit
  dsimp only
  repeat' split
  all_goals simp [Apart]

@[simp] theorem clearEpoch_apart (s : State) (e : Nat) : Apart s (clearEpoch s e) := by
  unfold clearEpoch
  refine Apart.foldl (fun s x => ?_) _ _
  repeat' split
  all_goals simp [Apart]

@[simp] theorem epochScrub_apart (s : State) : Apart s (epochScrub s) := by
  unfold epochScrub
  repeat' split
  all_goals simp [Apart]

/-! ### Gate lists (R277 to R280) -/

@[simp] theorem setGates_apart (s : State) (m : Nat) (g : GateState) : Apart s (setGates s m g) := by
  simp [Apart, setGates]

@[simp] theorem setSgate_apart (s : State) (i : Nat) (g : GateState) : Apart s (setSgate s i g) := by
  simp [Apart, setSgate]

/-! ### Colours and eligibility (R264, R267) -/

@[simp] theorem setLane_apart (s : State) (k vc : Nat) (x : LaneVc) : Apart s (setLane s k vc x) := by
  simp [Apart, setLane]

@[simp] theorem freeRx_apart (s : State) : Apart s (freeRx s) := by
  unfold freeRx
  refine Apart.foldl (fun s x => ?_) _ _
  repeat' split
  all_goals simp [Apart]

@[simp] theorem laneLinkUp_apart (s : State) (k : Nat) : Apart s (laneLinkUp s k) := by
  unfold laneLinkUp
  refine Apart.foldl (fun s x => ?_) _ _
  repeat' split
  all_goals simp [Apart]

theorem headDrop_apart {s : State} {m q : Nat} {d : Desc} {f : State → State} (h : headDrop s m q d = some f) (s1 : State) : Apart s1 (f s1) := by
  unfold headDrop at h
  rcases txSa s m with _ | e
  all_goals
    dsimp only [Option.map] at h
    repeat' split at h
  all_goals cases h
  all_goals exact (bump_data ..).apart

/-! ### The walk (R265, R266) -/

@[simp] theorem pickPass_apart (m level parent : Nat) (green : Bool) (l : List Nat) (s : State) :
    Apart s (pickPass m level parent green l s).1 := by
  induction l generalizing s with
  | nil => exact Apart.refl s
  | cons c l ih =>
    unfold pickPass
    dsimp only
    split
    · exact (setList_data ..).apart
    · exact (setList_data ..).apart.trans (ih _)

@[simp] theorem pick_apart (s : State) (m level parent : Nat) : Apart s (pick s m level parent).1 := by
  unfold pick
  dsimp only
  repeat' split
  all_goals simp [Apart]

@[simp] theorem walk_apart (s : State) (m : Nat) : Apart s (walk s m).1 := by
  have hpick := fun s level i => pick_apart s m level i
  unfold walk
  split
  · exact Apart.refl s
  split
  · next h3 => exact Apart.of_fst (hpick ..) h3
  · next h3 =>
    have h3 := Apart.of_fst (hpick ..) h3
    split
    · next h2 => exact h3.trans (Apart.of_fst (hpick ..) h2)
    · next h2 =>
      have h2 := h3.trans (Apart.of_fst (hpick ..) h2)
      split
      · next h1 => exact h2.trans (Apart.of_fst (hpick ..) h1)
      · next h1 => exact h2.trans (Apart.of_fst (hpick ..) h1)

@[simp] theorem chargeDef_apart (s : State) (level i : Nat) (n : Int) : Apart s (chargeDef s level i n) := by
  unfold chargeDef
  dsimp only
  repeat' split
  all_goals simp [Apart]

/-! ### Decisions and transmissions -/

@[simp] theorem takePn_apart (s : State) (m : Nat) : Apart s (takePn s m).1 := by
  unfold takePn
  repeat' split
  all_goals simp [Apart]

@[simp] theorem dropHead_apart (s : State) (m q : Nat) (d : Desc) : Apart s (dropHead s m q d) := by
  simp [Apart, dropHead]

@[simp] theorem purgeQueue_apart (m q n : Nat) (s : State) : Apart s (purgeQueue m q n s) := by
  induction n generalizing s with
  | zero => exact Apart.refl s
  | succ n ih =>
    unfold purgeQueue
    split
    · exact Apart.refl s
    split
    · split
      · next hdrop => exact ((headDrop_apart hdrop s).trans (dropHead_apart ..)).trans (ih _)
      · exact Apart.refl s
    · exact Apart.refl s

@[simp] theorem startFrame_apart (s : State) (m : Nat) (v u q : Nat × Bool) : Apart s (startFrame s m v u q) := by
  unfold startFrame
  dsimp only
  repeat' split
  all_goals simp [Apart]

@[simp] theorem startHalt_apart (s : State) (m start : Nat) (b : List Byte) (rest : List (List Byte)) : Apart s (startHalt s m start b rest) := by
  unfold startHalt
  dsimp only
  repeat' split
  all_goals simp [Apart]

@[simp] theorem beginDecided_apart (s : State) (m start : Nat) : Apart s (beginDecided s m start) := by
  unfold beginDecided
  dsimp only
  repeat' split
  all_goals simp [Apart]

@[simp] theorem recheckPort_apart (s : State) (m : Nat) : Apart s (recheckPort s m) := by
  simp [Apart, recheckPort]

@[simp] theorem resumeFrame_apart (s : State) (m start : Nat) : Apart s (resumeFrame s m start) := by
  unfold resumeFrame
  repeat' split
  all_goals simp [Apart]

@[simp] theorem preemptFrame_apart (s : State) (m k : Nat) : Apart s (preemptFrame s m k) := by
  unfold preemptFrame
  repeat' split
  all_goals simp [Apart]

@[simp] theorem decideFree_apart (s : State) (m : Nat) (onlyExpress : Bool) : Apart s (decideFree s m onlyExpress).1 := by
  have hpurged : Apart s ((portQueues s m).foldl (fun s q => purgeQueue m q (getQueue s q).frames.length s) s) :=
    Apart.foldl (fun s q => purgeQueue_apart ..) _ _
  unfold decideFree
  dsimp only
  generalize (portQueues s m).foldl _ s = s1 at hpurged ⊢
  refine hpurged.trans ?_
  split
  · next hgot =>
    split
    · exact Apart.refl _
    · exact (Apart.of_fst (walk_apart ..) hgot).trans (startFrame_apart ..)
  · next hgot => exact Apart.of_fst (walk_apart ..) hgot

@[simp] theorem decideAt_apart (s : State) (m : Nat) (onlyExpress : Bool) (start : Nat) : Apart s (decideAt s m onlyExpress start).1 := by
  simp [Apart, decideAt]

@[simp] theorem decideNext_apart (s : State) (m : Nat) (t : TxRec) : Apart s (decideNext s m t) := by
  unfold decideNext
  dsimp only
  repeat' split
  all_goals simp [Apart]

@[simp] theorem plcaSpend_apart (s : State) (m : Nat) : Apart s (plcaSpend s m) := by
  unfold plcaSpend
  dsimp only
  repeat' split
  all_goals simp [Apart]

@[simp] theorem overtaken_apart (s : State) (m : Nat) (t : TxRec) : Apart s (overtaken s m t) := by
  unfold overtaken
  repeat' split
  all_goals simp [Apart]

@[simp] theorem haulDecision_apart (s : State) (m : Nat) : Apart s (haulDecision s m) := by
  unfold haulDecision
  dsimp only
  repeat' split
  all_goals simp [Apart]

@[simp] theorem specTail_apart (s : State) (t : TxRec) : Apart s (specTail s t) := by
  unfold specTail
  repeat' split
  all_goals simp [Apart]

@[simp] theorem finishTx_apart (s : State) (m : Nat) (t : TxRec) : Apart s (finishTx s m t) := by
  unfold finishTx
  dsimp only
  repeat' split
  all_goals simp [Apart]

@[simp] theorem frameTxEnd_apart (s : State) (m : Nat) : Apart s (frameTxEnd s m) := by
  unfold frameTxEnd
  dsimp only
  repeat' split
  all_goals simp [Apart]

@[simp] theorem specTailPoint_apart (s : State) (m : Nat) : Apart s (specTailPoint s m) := by
  unfold specTailPoint
  repeat' split
  all_goals simp [Apart]

@[simp] theorem dropCopies_apart (s : State) (h : Nat) : Apart s (dropCopies s h) := by
  unfold dropCopies
  dsimp only
  refine Apart.trans (Apart.trans (Apart.foldl (fun s m => ?_) _ _) (Apart.foldl (fun s q => ?_) _ _)) (Apart.foldl (fun s m => ?_) _ _)
  · exact (unstart_data ..).apart
  · split
    · exact Apart.foldl (fun s d => by simp [Apart]) _ _
    · exact Apart.refl s
  · refine Apart.trans ?_ (Apart.foldl (fun s e => ?_) _ _)
    · exact ⟨rfl, rfl, rfl, rfl, rfl⟩
    · simp [Apart]

@[simp] theorem stompEccAt_apart (s : State) (m : Nat) : Apart s (stompEccAt s m) := by
  unfold stompEccAt
  repeat' split
  all_goals simp [Apart]

/-! ### Face -/

@[simp] theorem setFp_apart (s : State) (m : Nat) (x : FacePort) : Apart s (setFp s m x) := by
  simp [Apart, setFp]

@[simp] theorem setPlca_apart (s : State) (g : Nat) (x : Plca) : Apart s (setPlca s g x) := by
  simp [Apart, setPlca]

@[simp] theorem setPhy_apart (s : State) (c : Nat) (x : BusPhy) : Apart s (setPhy s c x) := by
  simp [Apart, setPhy]

@[simp] theorem faceEvent_apart (s : State) (typ code port detail : Nat) : Apart s (faceEvent s typ code port detail) := by
  simp [Apart, faceEvent]

/-! ### Hold queues and their watched links (R241) -/

@[simp] theorem holdUpdate_apart (s : State) (q : Nat) : Apart s (holdUpdate s q) := by
  unfold holdUpdate
  dsimp only
  repeat' split
  all_goals simp [Apart]

@[simp] theorem holdUpdateAll_apart (s : State) : Apart s (holdUpdateAll s) := by
  simp [Apart, holdUpdateAll]

/-! ### Links and port nodes (R319 to R323) -/

@[simp] theorem loadLatency_apart (s : State) (m sp : Nat) : Apart s (loadLatency s m sp) := by
  unfold loadLatency
  dsimp only
  repeat' split
  all_goals simp [Apart]

@[simp] theorem linkOk_apart (s : State) (m speed : Nat) (leader eee : Bool) (fec : Nat) : Apart s (linkOk s m speed leader eee fec) := by
  unfold linkOk
  dsimp only
  repeat' split
  all_goals simp [Apart]

@[simp] theorem nodeUp_apart (s : State) (m : Nat) : Apart s (nodeUp s m) := by
  unfold nodeUp
  dsimp only
  repeat' split
  all_goals simp [Apart]

@[simp] theorem abandonTx_apart (s : State) (m : Nat) (t : TxRec) : Apart s (abandonTx s m t) := by
  unfold abandonTx
  repeat' split
  all_goals simp [Apart]

@[simp] theorem abandonPort_apart (s : State) (m : Nat) : Apart s (abandonPort s m) := by
  unfold abandonPort
  dsimp only
  repeat' split
  all_goals simp [Apart]

@[simp] theorem nodeDown_apart (s : State) (m : Nat) : Apart s (nodeDown s m) := by
  simp [Apart, nodeDown]

@[simp] theorem linkDown_apart (s : State) (m code : Nat) : Apart s (linkDown s m code) := by
  unfold linkDown
  dsimp only
  repeat' split
  all_goals simp [Apart]

@[simp] theorem applyPortCfg_apart (s : State) (r : List Byte) : Apart s (applyPortCfg s r) := by
  unfold applyPortCfg
  dsimp only
  repeat' split
  all_goals simp [Apart]

@[simp] theorem applyPlca_apart (s : State) (r : List Byte) : Apart s (applyPlca s r) := by
  simp [Apart, applyPlca]

/-! ### Halt frames (R286 to R288) -/

@[simp] theorem haltRecognised_apart (s : State) (m : Nat) (b : List Byte) : Apart s (haltRecognised s m b) := by
  have hports : ∀ (l : List Nat) (s : State), Apart s (l.foldl (fun s n =>
      if bitOf s.haul.haltOut n ∧ n ≠ m then
        if lineUp s n then setPort s n { getPort s n with haltQ := (getPort s n).haltQ ++ [b] }
        else bump s .haltPortDown n 1
      else s) s) := Apart.foldl fun s n => by
    repeat' split
    all_goals simp [Apart]
  unfold haltRecognised
  refine Apart.trans ?_ (postEvent_data ..).apart
  refine Apart.trans (b := { bump s .haltRx 0 1 with haul := _ }) (bump_data ..).apart (Apart.ite (bump_data ..).apart ?_)
  exact Apart.trans (b := { bump s .haltRx 0 1 with haul := _ }) (Apart.refl _) (hports ..)

/-! ### TC10 (R337, R338, R446 to R448) -/

@[simp] theorem tc10Sleep_apart (s : State) (m code : Nat) : Apart s (tc10Sleep s m code) := by
  simp [Apart, tc10Sleep]

@[simp] theorem tc10Train_apart (s : State) (m : Nat) : Apart s (tc10Train s m) := by
  simp [Apart, tc10Train]

@[simp] theorem tc10CmdSleep_apart (s : State) (m : Nat) : Apart s (tc10CmdSleep s m) := by
  unfold tc10CmdSleep
  dsimp only
  repeat' split
  all_goals simp [Apart]

@[simp] theorem tc10CmdWake_apart (s : State) (m : Nat) : Apart s (tc10CmdWake s m) := by
  unfold tc10CmdWake
  dsimp only
  repeat' split
  all_goals simp [Apart]

@[simp] theorem tc10Forward_apart (s : State) (m : Nat) : Apart s (tc10Forward s m) := by
  unfold tc10Forward
  exact Apart.ite ((setFp_apart ..).trans (Apart.foldl (fun s n => Apart.ite (tc10CmdWake_apart ..) (Apart.refl s)) _ _)) (Apart.refl s)

/-! ### Gatehouse -/

@[simp] theorem ghEvent_apart (s : State) (typ first detail src late : Nat) : Apart s (ghEvent s typ first detail src late) := by
  simp [Apart, ghEvent]

@[simp] theorem wakeEvent_apart (s : State) (typ : Nat) : Apart s (wakeEvent s typ) := by
  simp [Apart, wakeEvent]

/-! ### Transceivers in Standby (R361, R446, R448) -/

@[simp] theorem toStandby_apart (detect : Bool) (s : State) (c : Nat) : Apart s (toStandby detect s c) := by
  simp [Apart, toStandby]

@[simp] theorem restorePhys_apart (s : State) : Apart s (restorePhys s) := by
  unfold restorePhys
  refine Apart.foldl (fun s x => ?_) _ _
  repeat' split
  all_goals simp [Apart]

/-! ### Sleep (R446 to R449) -/

@[simp] theorem sleepAbandon_apart (s : State) (byWake : Bool) : Apart s (sleepAbandon s byWake) := by
  simp [Apart, sleepAbandon]

@[simp] theorem sleepReplace_apart (s : State) (mask : Nat) : Apart s (sleepReplace s mask) := by
  unfold sleepReplace
  exact (restorePhys_apart s).trans (Apart.foldl (fun s n => Apart.ite (setFp_apart ..) (Apart.refl s)) _ _)

@[simp] theorem sleepAgree_apart (s : State) (t : SleepTarget) (mask can lin : Nat) : Apart s (sleepAgree s t mask can lin) := by
  unfold sleepAgree
  repeat' split
  all_goals simp [Apart]

@[simp] theorem sleepHeld_apart (s : State) (m : Nat) : Apart s (sleepHeld s m) := by
  unfold sleepHeld
  repeat' split
  all_goals simp [Apart]

@[simp] theorem sleepNode_apart (s : State) (m : Nat) : Apart s (sleepNode s m) := by
  unfold sleepNode
  dsimp only
  repeat' split
  all_goals simp [Apart]

@[simp] theorem sleepCommit_apart (s : State) : Apart s (sleepCommit s) := by
  unfold sleepCommit
  repeat' split
  all_goals simp [Apart]

/-! ### Wake events (R449, R450) -/

@[simp] theorem startResume_apart (s : State) : Apart s (startResume s) := by
  simp [Apart, startResume]

@[simp] theorem recordWake_apart (s : State) (code detail : Nat) : Apart s (recordWake s code detail) := by
  simp [Apart, recordWake]

/-! ### Resets (R436 to R441) -/

@[simp] theorem beginRelease_apart (s : State) : Apart s (beginRelease s) := by
  unfold beginRelease
  dsimp only
  repeat' split
  all_goals simp [Apart]

@[simp] theorem releaseSources_apart (s : State) (set : Nat) : Apart s (releaseSources s set) := by
  simp [Apart, releaseSources]

/-! ### Plane resets (R419, R423, R440) -/

@[simp] theorem thawRange_apart (s : State) (lo hi : Nat) : Apart s (thawRange s lo hi) := by
  simp [Apart, thawRange]

@[simp] theorem endMaintenance_apart (s : State) : Apart s (endMaintenance s) := by
  unfold endMaintenance
  dsimp only
  repeat' split
  all_goals simp [Apart]

/-! ### Requests and the vote (R364, R365) -/

@[simp] theorem exclude_apart (s : State) (i : Nat) : Apart s (exclude s i) := by
  simp [Apart, exclude]

@[simp] theorem maskCore_apart (s : State) (i : Nat) : Apart s (maskCore s i) := by
  simp [Apart, maskCore]

@[simp] theorem noRequest_apart (s : State) (x0 : Nat) (x1 : Req) : Apart s (noRequest s x0 x1).1 := by
  simp [Apart, noRequest]

/-! ### Interrupts (R75, R77, R78) -/

@[simp] theorem tickEntered_apart (s : State) : Apart s (tickEntered s) := by
  unfold tickEntered
  dsimp only
  repeat' split
  all_goals simp [Apart]

@[simp] theorem tickDone_apart (s : State) : Apart s (tickDone s) := by
  unfold tickDone
  repeat' split
  all_goals simp [Apart]

/-! ### Engine -/

@[simp] theorem issued_apart (s : State) (t : Nat) : Apart s (issued s t) := by
  simp [Apart, issued]

/-! ### Prepare of the engine array -/

@[simp] theorem settleBuckets_apart (s : State) : Apart s (settleBuckets s) := by
  unfold settleBuckets
  repeat' split
  all_goals simp [Apart]

@[simp] theorem applyEngine_apart (s : State) (o : Obj) : Apart s (applyEngine s o) := by
  unfold applyEngine
  repeat' split
  all_goals simp [Apart]

@[simp] theorem loaderWrites_apart (s : State) (group objs : List Obj) : Apart s (loaderWrites s group objs) := by
  simp [Apart, loaderWrites]

@[simp] theorem loaderClears_apart (s : State) (group : List Obj) : Apart s (loaderClears s group) := by
  simp [Apart, loaderClears]

/-! ### The bank switch (R37, R123, R124) -/

@[simp] theorem releaseOld_apart (s : State) : Apart s (releaseOld s) := by
  unfold releaseOld
  dsimp only
  repeat' split
  all_goals simp [Apart]

@[simp] theorem switchBank_apart (s : State) (b : Bool) : Apart s (switchBank s b) := by
  unfold switchBank
  dsimp only
  repeat' split
  all_goals simp [Apart]

/-! ### FaceEvents -/

@[simp] theorem recalRequest_apart (s : State) (m : Nat) : Apart s (recalRequest s m) := by
  unfold recalRequest
  dsimp only
  repeat' split
  all_goals simp [Apart]

/-! ### CAN and LIN transceivers (R327 to R329) -/

@[simp] theorem applyCanPhy_apart (s : State) (r : List Byte) : Apart s (applyCanPhy s r) := by
  simp [Apart, applyCanPhy]

@[simp] theorem applyLinPhy_apart (s : State) (r : List Byte) : Apart s (applyLinPhy s r) := by
  simp [Apart, applyLinPhy]

/-! ### Partners and contracts (R139, R346 to R348) -/

@[simp] theorem countPartner_apart (s : State) (p : Nat) : Apart s (countPartner s p) := by
  simp [Apart, countPartner]

@[simp] theorem contractCheck_apart (s : State) (p m n : Nat) : Apart s (contractCheck s p m n).1 := by
  unfold contractCheck
  dsimp only
  repeat' split
  all_goals simp [Apart]

/-! ### 802.1CB recovery (R395) -/

@[simp] theorem recoverFrame_apart (s : State) (m : Nat) (b : List Byte) : Apart s (recoverFrame s m b).1 := by
  unfold recoverFrame
  dsimp only
  repeat' split
  all_goals simp [Apart]

/-! ### Metering of entries (R84, R85) -/

@[simp] theorem setBucket_apart (s : State) (e : Nat) (b : Bucket) : Apart s (setBucket s e b) := by
  simp [Apart, setBucket]

@[simp] theorem meterEntry_apart (s : State) (e : Nat) : Apart s (meterEntry s e).1 := by
  unfold meterEntry
  dsimp only
  repeat' split
  all_goals simp [Apart]

/-! ### Stages 8 and 9 (R153, R157, R200) -/

@[simp] theorem offerProbe_apart (s : State) (p : Packet) : Apart s (offerProbe s p).1 := by
  unfold offerProbe
  dsimp only
  repeat' split
  all_goals simp [Apart]

@[simp] theorem assignWaiting_apart (m n : Nat) (s : State) : Apart s (assignWaiting m n s) := by
  induction n generalizing s with
  | zero => exact Apart.refl s
  | succ n ih =>
    unfold assignWaiting
    split
    · exact Apart.refl s
    · exact Apart.ite (Apart.trans (by simp [Apart]) (ih _)) (Apart.refl s)

/-! ### Stages 2 to 7 -/

@[simp] theorem screenFrame_apart (s : State) (a : Arrival) : Apart s (screenFrame s a) := by
  have hgone : ∀ s1, Apart s s1 → Apart s (discardStored s1 a.handle a.desc) := fun s1 h => h.trans (discardStored_data ..).apart
  have hbumped : ∀ s1 c i, Apart s s1 → Apart s (bump s1 c i 1) := fun s1 c i h => h.trans (bump_data ..).apart
  unfold screenFrame
  dsimp only
  split
  · exact hgone _ (Apart.refl s)
  split
  · exact hgone _ (hbumped _ _ _ (Apart.refl s))
  split
  · exact hgone _ (hbumped _ _ _ (Apart.refl s))
  split
  · next hrec => exact hgone _ (Apart.of_fst (recoverFrame_apart ..) hrec)
  next s1 b hrec =>
  have hrec : Apart s (if b.length = a.bytes.length then s1 else frameWrite s1 a.handle 0 b) :=
    Apart.trans (Apart.of_fst (recoverFrame_apart ..) hrec) (Apart.ite (Apart.refl s1) (frameWrite_data ..).apart)
  generalize (if b.length = a.bytes.length then s1 else frameWrite s1 a.handle 0 b) = s2 at hrec ⊢
  split
  · exact hgone _ (hbumped _ _ _ (hbumped _ _ _ (hbumped _ _ _ hrec)))
  split
  · next hcon => exact hgone _ ((hbumped _ _ _ (hbumped _ _ _ hrec)).trans (Apart.of_fst (contractCheck_apart ..) hcon))
  next hcon =>
  have hcon := (hbumped _ _ _ (hbumped _ _ _ hrec)).trans (Apart.of_fst (contractCheck_apart ..) hcon)
  split
  · exact hgone _ (hbumped _ _ _ hcon)
  split
  · next hmeter =>
    refine hgone _ (Apart.trans ?_ (Apart.of_fst (meterEntry_apart ..) hmeter))
    split
    · exact hbumped _ _ _ hcon
    · exact hcon
  · next hmeter =>
    refine Apart.trans (Apart.trans (Apart.trans ?_ (Apart.of_fst (meterEntry_apart ..) hmeter)) ?_) (assignWaiting_apart ..)
    · split
      · exact hbumped _ _ _ hcon
      · exact hcon
    · exact Apart.refl _

/-! ### Dispatch (R154 to R156) -/

@[simp] theorem startPass_apart (s : State) (t : Nat) (p : Packet) : Apart s (startPass s t p) := by
  unfold startPass
  dsimp only
  repeat' split
  all_goals simp [Apart]

@[simp] theorem waitDrop_apart (s : State) (p : Packet) : Apart s (Machine.waitDrop s p) := by
  simp [Apart, Machine.waitDrop]

/-! ### Arrival on a port of Face (R248, R286, R322, R325, R330) -/

@[simp] theorem macsecCheck_apart (s : State) (m t : Nat) (sec : SecMark) (b : List Byte) : Apart s (macsecCheck s m t sec b).st := by
  unfold macsecCheck
  repeat' split
  all_goals simp [Apart]

@[simp] theorem countFec_apart (s : State) (m : Nat) (line : RxLine) : Apart s (countFec s m line) := by
  unfold countFec
  repeat' split
  all_goals simp [Apart]

/-! ### Head store (R226, R230, R231) -/

@[simp] theorem markOccupancy_apart (l : List Desc) (s : State) : Apart s (markOccupancy l s) := by
  induction l generalizing s with
  | nil => exact Apart.refl s
  | cons d l ih =>
    unfold markOccupancy
    exact Apart.ite (Apart.refl s) ((markSpill_data ..).apart.trans (ih _))

@[simp] theorem spillCheck_apart (s : State) : Apart s (spillCheck s) := by
  unfold spillCheck
  dsimp only
  repeat' split
  all_goals simp [Apart]

/-! ### Multicast copies and spoil lists (R242, R243) -/

@[simp] theorem retrySpoil_apart (m : Nat) (l : List SpoilEnt) (blocked : List Nat) (s : State) : Apart s (retrySpoil m l blocked s) := by
  induction l generalizing s blocked with
  | nil => exact Apart.refl s
  | cons e l ih =>
    unfold retrySpoil
    dsimp only
    repeat' split
    · exact ih ..
    · exact Apart.trans (by simp [Apart]) (ih ..)
    · exact Apart.trans (by simp [Apart]) (ih ..)
    · exact Apart.trans (by simp [Apart]) (ih ..)
    · exact Apart.trans (by simp [Apart]) (ih ..)
    · exact ih ..

/-! ### Hold queues (R241) -/

@[simp] theorem expireHeads_apart (q m life : Nat) (l : List Desc) (s : State) : Apart s (expireHeads q m life l s) := by
  induction l generalizing s with
  | nil => exact Apart.refl s
  | cons d l ih =>
    unfold expireHeads
    exact Apart.ite (Apart.trans (by simp [Apart]) (ih _)) (Apart.refl s)

/-! ### Pause (R245 to R247) -/

@[simp] theorem unblock_apart (s : State) (i : Nat) : Apart s (unblock s i) := by
  simp [Apart, unblock]

/-! ### The Conveyor fabric (R249 to R253) -/

@[simp] theorem sendCell_apart (s : State) (k : Nat) (h : CellHdr) (payload : List Byte) : Apart s (sendCell s k h payload) := by
  simp [Apart, sendCell]

@[simp] theorem markStall_apart (s : State) (k vc : Nat) : Apart s (markStall s k vc) := by
  unfold markStall
  dsimp only
  repeat' split
  all_goals simp [Apart]

@[simp] theorem dataCell_apart (s : State) (k vc m : Nat) (t : TxRec) : Apart s (dataCell s k vc m t) := by
  unfold dataCell
  dsimp only
  repeat' split
  all_goals simp [Apart]

@[simp] theorem readyTx_apart (s : State) (k vc : Nat) : Apart s (readyTx s k vc).1 := by
  unfold readyTx
  repeat' split
  all_goals simp [Apart]

@[simp] theorem giveCredit_apart (s : State) (k vc n : Nat) : Apart s (giveCredit s k vc n) := by
  simp [Apart, giveCredit]

@[simp] theorem dropRx_apart (s : State) (k vc : Nat) : Apart s (dropRx s k vc) := by
  unfold dropRx
  dsimp only
  repeat' split
  all_goals simp [Apart]

@[simp] theorem fabricFrame_apart (s : State) (k vc : Nat) (f : RxFrame) : Apart s (fabricFrame s k vc f) := by
  unfold fabricFrame
  dsimp only
  split
  · exact dropRx_apart ..
  split
  · exact (dropRx_apart ..).trans (bump_data ..).apart
  split
  · exact (dropRx_apart ..).trans (bump_data ..).apart
  next hdesc =>
  refine (takeDesc_data hdesc).apart.trans ?_
  repeat' split
  all_goals simp [Apart]

@[simp] theorem rxPlace_apart (s : State) (vc : Nat) (f : RxFrame) : Apart s (rxPlace s vc f).1 := by
  unfold rxPlace
  split
  · exact Apart.refl s
  split
  · next hgot => exact (Apart.of_fst (allocCells_data ..).apart hgot).trans (Apart.foldl (fun s x => writeCell_apart _ s x) _ _)
  · next hgot => exact Apart.of_fst (allocCells_data ..).apart hgot

@[simp] theorem rxFaults_apart (s : State) (k : Nat) (h : CellHdr) (payload : List Byte) (c : RxCell) : Apart s (rxFaults s k h payload c).1 := by
  unfold rxFaults
  dsimp only
  repeat' split
  all_goals simp [Apart]

@[simp] theorem rxCell_apart (s0 : State) (k vc : Nat) (c : RxCell) : Apart s0 (rxCell s0 k vc c).1 := by
  have hleave : ∀ s, Apart s0 s → Apart s0 (if bitOf s.fabric.losslessVc vc then giveCredit s k vc 1 else s) := fun s h =>
    h.trans (Apart.ite (giveCredit_apart ..) (Apart.refl s))
  unfold rxCell
  dsimp only
  split
  · exact hleave _ (setLane_apart ..)
  have hfaults := rxFaults_apart s0 k (readHeader c.cell) ((c.cell.drop 16).take 240) c
  split
  · exact hleave _ hfaults
  split
  · next s1 f hplaced =>
    have hplaced : Apart s0 (setLane s1 k vc { getLane s1 k vc with rxFrame := some f }) :=
      (hfaults.trans (Apart.of_fst (rxPlace_apart ..) hplaced)).trans (setLane_apart ..)
    exact Apart.ite ((hleave _ hplaced).trans (fabricFrame_apart ..)) (hleave _ hplaced)
  · next s1 hfull =>
    have hfull := hfaults.trans (Apart.of_fst (rxPlace_apart ..) hfull)
    split
    · exact Apart.refl s0
    · refine hfull.trans ?_
      repeat' split
      all_goals simp [Apart]

@[simp] theorem drainRx_apart (k vc n : Nat) (s : State) : Apart s (drainRx k vc n s) := by
  induction n generalizing s with
  | zero => exact Apart.refl s
  | succ n ih =>
    unfold drainRx
    split
    · exact Apart.refl s
    · exact Apart.ite (((rxCell_apart ..).trans (setLane_apart ..)).trans (ih _)) (rxCell_apart ..)

@[simp] theorem serveRound_apart (ok : Nat → Bool) (s : State) : Apart s (serveRound ok s) := by
  unfold serveRound
  refine Apart.foldl (fun s x => ?_) _ _
  repeat' split
  all_goals simp [Apart]

@[simp] theorem serveWaits_apart (ok : Nat → Bool) (n : Nat) (s : State) : Apart s (serveWaits ok n s) := by
  induction n generalizing s with
  | zero => exact Apart.refl s
  | succ n ih =>
    unfold serveWaits
    exact Apart.ite ((serveRound_apart ok s).trans (ih _)) (serveRound_apart ok s)

@[simp] theorem drainAllRx_apart (s : State) : Apart s (drainAllRx s) := by
  simp [Apart, drainAllRx]

/-! ### Learning (R176, R177) -/

@[simp] theorem relocDrain_apart (s : State) (dram : Bool) : Apart s (relocDrain s dram) := by
  unfold relocDrain
  repeat' split
  all_goals simp [Apart]

@[simp] theorem drainTier_apart (dram : Bool) (n : Nat) (s : State) : Apart s (drainTier dram n s) := by
  induction n generalizing s with
  | zero => exact Apart.refl s
  | succ n ih =>
    unfold drainTier
    exact Apart.ite ((relocDrain_apart ..).trans (ih _)) (Apart.refl s)

@[simp] theorem drainAll_apart (s : State) : Apart s (drainAll s) := by
  simp [Apart, drainAll]

/-! ### Lookups (R172, R187) -/

@[simp] theorem setDomain_apart (s : State) (d : Nat) (x : Option Domain) : Apart s (setDomain s d x) := by
  simp [Apart, setDomain]

/-! ### Ageing (R188) -/

@[simp] theorem agePass_apart (s : State) (t : Nat) : Apart s (agePass s t) := by
  unfold agePass
  repeat' split
  all_goals simp [Apart]

@[simp] theorem ageEntry_apart (t : Nat) (x : LTable) (s : State) (l : Loc) : Apart s (ageEntry t x s l) := by
  unfold ageEntry
  dsimp only
  repeat' split
  all_goals simp [Apart]

@[simp] theorem ageVisit_apart (s : State) (t : Nat) (ovf : Bool) (j : Nat) : Apart s (ageVisit s t ovf j) := by
  unfold ageVisit
  dsimp only
  repeat' split
  all_goals simp [Apart]

/-! ### Normalisation (R184) -/

@[simp] theorem normEntry_apart (applied : Bool) (dram : Bool) (s : State) (l : Loc) : Apart s (normEntry applied dram s l) := by
  unfold normEntry
  repeat' split
  all_goals simp [Apart]

@[simp] theorem normalise_apart (s : State) (c : Nat) : Apart s (normalise s c) := by
  unfold normalise
  repeat' split
  all_goals simp [Apart]

/-! ### Prepare (R167, R182 to R186) -/

theorem prepTableDef_apart (c : LkPrep) (objs : List Obj) (img : List Byte) : Apart c.s ((prepTableDef c objs img).left c.s) := by
  unfold prepTableDef
  dsimp only
  repeat' split
  all_goals exact Apart.refl c.s

theorem takeTag_apart {c c' : LkPrep} {num g : Nat} (h : takeTag c num = some (c', g)) : Apart c.s c'.s := by
  unfold takeTag at h
  repeat' split at h
  all_goals cases h
  all_goals exact Apart.refl c.s

@[simp] theorem clearOther_apart (s : State) (t : Nat) (d : TableDef) (key own : Nat) : Apart s (clearOther s t d key own).1 := by
  unfold clearOther
  repeat' split
  all_goals simp [Apart]

theorem addEntry_apart {s s' : State} {d : TableDef} {e : NewEntry} (h : addEntry s d e = some s') : Apart s s' := by
  unfold addEntry at h
  split at h
  · cases h; exact (placeEntry_data ..).apart
  · cases h; exact (((copyEntry_data ..).apart.trans (mergeEntry_data ..).apart).trans (placeEntry_data ..).apart)
  · cases h

theorem entryPath_apart (t : Nat) (d : TableDef) (g o : Nat) (c : LkPrep) (r : EntryRecord) :
    Apart c.s ((entryPath t d g o c r).left c.s) := by
  unfold entryPath
  dsimp only
  repeat' split
  on_goal 4 => exact addEntry_apart ‹_›
  all_goals simp [Apart]

theorem prepEntry_apart (t : Nat) (d : TableDef) (g o : Nat) (c : LkPrep) (r : EntryRecord) :
    Apart c.s ((prepEntry t d g o c r).left c.s) := by
  unfold prepEntry
  dsimp only
  split
  · exact Apart.refl c.s
  split
  · exact Apart.refl c.s
  split
  · exact Apart.refl c.s
  have hcleared := clearOther_apart c.s t d (r.key % 2 ^ d.bits) g
  split
  · next hpath =>
    have hpath : Apart c.s (LkRes.left _ (.ok _)) := hcleared.trans (hpath ▸ entryPath_apart t d g o { c with s := _, keys := _ } _)
    split
    · exact hpath
    · exact Apart.refl c.s
  · exact Apart.refl c.s

theorem prepEntryList_apart (t : Nat) (d : TableDef) (g o : Nat) (l : List EntryRecord) (c : LkPrep) :
    Apart c.s (prepEntryList t d g o l c).1.s := by
  induction l generalizing o c with
  | nil => exact Apart.refl c.s
  | cons r l ih =>
    have hstep : Apart c.s ((prepEntry t d g o c r).walk c).1.s := LkRes.walk_left c _ ▸ prepEntry_apart ..
    unfold prepEntryList
    split
    · next hwalk =>
      rw [hwalk] at hstep
      exact Apart.trans hstep (ih ..)
    · exact hstep

theorem prepEntries_apart (c : LkPrep) (num : Nat) (img : List Byte) : Apart c.s (prepEntries c num img).1.s := by
  unfold prepEntries
  dsimp only
  split
  · exact Apart.refl c.s
  split
  · exact Apart.refl c.s
  · next htag => exact (takeTag_apart htag).trans (prepEntryList_apart ..)

/-! ### Routing domains (R185, R186) -/

theorem prepDomainDef_apart (states : List (Tbl (Option Domain))) (later : List (List Obj)) (c : LkPrep) (prev objs : List Obj) (o : Obj) :
    Apart c.s ((prepDomainDef states later c prev objs o).left c.s) := by
  unfold prepDomainDef
  dsimp only
  repeat' split
  all_goals exact Apart.refl c.s

theorem prepRoute_apart (n o : Nat) (c : LkPrep) (e : Bool × Route) : Apart c.s ((prepRoute n o c e).left c.s) := by
  unfold prepRoute
  dsimp only
  repeat' split
  all_goals exact Apart.refl c.s

theorem prepRouteList_apart (n o : Nat) (l : List (Bool × Route)) (c : LkPrep) (s : State) (h : Apart s c.s) :
    Apart s ((prepRouteList n o l c).left s) := by
  induction l generalizing o c with
  | nil => exact h
  | cons e l ih =>
    unfold prepRouteList
    split
    · next hroute => exact ih _ _ (h.trans (by simpa [hroute] using prepRoute_apart n o c e))
    · exact Apart.refl s

/-! ### The lookup complex in a commit -/

theorem prepRoutes_apart (states : List (Tbl (Option Domain))) (c : LkPrep) (prev : List Obj) (o : Obj) :
    Apart c.s ((prepRoutes states c prev o).left c.s) := by
  unfold prepRoutes
  dsimp only
  repeat' split
  · exact Apart.refl c.s
  · exact Apart.refl c.s
  · exact prepRouteList_apart _ _ _ c c.s (Apart.refl c.s)

theorem prepLookupObj_apart (x : LkAround) (c : LkPrep) (prev : List Obj) (num : Nat) (o : Obj) : Apart c.s (prepLookupObj x c prev num o).1.s := by
  unfold prepLookupObj
  split
  · exact LkRes.walk_left c _ ▸ prepTableDef_apart ..
  · exact prepEntries_apart ..
  · exact LkRes.walk_left c _ ▸ prepDomainDef_apart ..
  · exact LkRes.walk_left c _ ▸ prepRoutes_apart ..

theorem prepLookupList_apart (x : LkAround) (num : Nat) (prev l : List Obj) (c : LkPrep) : Apart c.s (prepLookupList x num prev l c).1.s := by
  induction l generalizing prev c with
  | nil => exact Apart.refl c.s
  | cons o l ih =>
    have hobj := prepLookupObj_apart x c prev num o
    unfold prepLookupList
    split
    · split
      · next hwalk =>
        rw [hwalk] at hobj
        exact Apart.trans hobj (ih ..)
      · exact hobj
    · exact ih ..

@[simp] theorem settleTags_apart (s : State) (num : Nat) (applied : Bool) : Apart s (settleTags s num applied) := by
  simp [Apart, settleTags]

@[simp] theorem prepLookup_apart (s : State) (before group : List Obj) (later : List (List Obj)) (num : Nat) :
    Apart s (prepLookup s before group later num).1 := by
  unfold prepLookup
  split
  · dsimp only
    generalize hwalk : prepLookupList _ num [] group _ = w
    have hlist : Apart (drainAll s) w.1.s := hwalk ▸ prepLookupList_apart ..
    split
    · exact (drainAll_apart s).trans hlist
    · exact ((drainAll_apart s).trans hlist).trans (settleTags_apart ..)
  · exact Apart.refl s

@[simp] theorem applyTableDef_apart (s : State) (img : List Byte) : Apart s (applyTableDef s img) := by
  unfold applyTableDef
  repeat' split
  all_goals simp [Apart]

@[simp] theorem applyLookup_apart (s : State) (o : Obj) : Apart s (applyLookup s o) := by
  unfold applyLookup
  repeat' split
  all_goals simp [Apart]

/-! ### HaulEvents -/

@[simp] theorem settleNode_apart (s : State) (m : Nat) : Apart s (settleNode s m) := by
  unfold settleNode
  dsimp only
  repeat' split
  all_goals simp [Apart]

/-! ### The Stockpile (Tables 7.9 and 7.16) -/

@[simp] theorem applyStock_apart (s : State) (o : Obj) : Apart s (applyStock s o) := by
  unfold applyStock
  repeat' split
  all_goals simp [Apart]

/-! ### The Hopper (Tables 7.6 and 7.7) -/

@[simp] theorem poolGive_apart (s : State) (p n : Nat) : Apart s (poolGive s p n).1 := by
  simp [Apart, poolGive]

theorem prepPool_apart (objs : List Obj) (o : Nat) (d : PoolDef) (s : State) (size : Nat) : Apart s (prepPool objs o d s size).2.1 := by
  unfold prepPool
  dsimp only
  repeat' split
  all_goals simp [Apart]

theorem prepPools_apart (objs : List Obj) (o : Nat) (seen l : List PoolDef) (s : State) (m : List PoolMove) :
    Apart s (prepPools objs o seen l s m).2.1 := by
  induction l generalizing o seen s m with
  | nil => exact Apart.refl s
  | cons d l ih =>
    unfold prepPools
    dsimp only
    generalize hgot : prepPool objs o d s _ = w
    have hpool : Apart s w.2.1 := hgot ▸ prepPool_apart ..
    split
    · exact Apart.trans hpool (ih ..)
    · exact hpool

theorem prepPoolDef_apart (s : State) (prev objs : List Obj) (o : Obj) : Apart s (prepPoolDef s prev objs o).2.1 :=
  prepPools_apart ..

@[simp] theorem applyPool_apart (s : State) (d : PoolDef) : Apart s (applyPool s d) := by
  simp [Apart, applyPool]

@[simp] theorem settlePoolZero_apart (s : State) : Apart s (settlePoolZero s) := by
  simp [Apart, settlePoolZero]

@[simp] theorem poolMoves_apart (applied : Bool) (s : State) (m : PoolMove) : Apart s (poolMoves applied s m) := by
  simp [Apart, poolMoves]

@[simp] theorem applyHopper_apart (s : State) (o : Obj) : Apart s (applyHopper s o) := by
  unfold applyHopper
  repeat' split
  all_goals simp [Apart]

/-! ### The Conveyor (Table 7.17) -/

@[simp] theorem applyConveyor_apart (s : State) (o : Obj) : Apart s (applyConveyor s o) := by
  unfold applyConveyor
  repeat' split
  all_goals simp [Apart]

/-! ### Prepare -/

@[simp] theorem mapShape_apart (s : State) (o : Obj) : Apart s (mapShape s o) := by
  unfold mapShape
  repeat' split
  all_goals simp [Apart]

theorem prepHaul_apart (s : State) (prev objs : List Obj) (o : Obj) : Apart s (prepHaul s prev objs o).2.1 := by
  unfold prepHaul
  dsimp only
  split
  · exact Apart.refl s
  split
  · split
    · next hgot => exact (Apart.of_fst (allocCells_data ..).apart hgot).trans (setChain_data ..).apart
    · next hgot => exact Apart.of_fst (allocCells_data ..).apart hgot
  · exact Apart.refl s

/-! ### Apply -/

@[simp] theorem flushMoved_apart (s : State) (after : State) : Apart s (flushMoved s after) := by
  unfold flushMoved
  refine Apart.foldl (fun s x => ?_) _ _
  repeat' split
  all_goals simp [Apart]

@[simp] theorem applyQueueMap_apart (s : State) (o : Obj) : Apart s (applyQueueMap s o) := by
  simp [Apart, applyQueueMap]

@[simp] theorem applyNodeMap_apart (s : State) (o : Obj) : Apart s (applyNodeMap s o) := by
  unfold applyNodeMap
  refine Apart.trans (Apart.trans (Apart.trans (flushMoved_apart ..) (Apart.foldl (fun s i => ?_) _ _)) ((mapShape_apart ..).trans (joinNodes_apart ..)))
    (holdUpdateAll_apart _)
  exact (leaveList_data ..).apart.trans (Apart.ite (leaveList_data ..).apart (Apart.refl _))

@[simp] theorem applyPortSched_apart (s : State) (o : Obj) : Apart s (applyPortSched s o) := by
  simp [Apart, applyPortSched]

@[simp] theorem applyPolicer_apart (s : State) (o : Obj) : Apart s (applyPolicer s o) := by
  simp [Apart, applyPolicer]

@[simp] theorem applyShaper_apart (s : State) (o : Obj) : Apart s (applyShaper s o) := by
  simp [Apart, applyShaper]

@[simp] theorem applyHaltObj_apart (s : State) (o : Obj) : Apart s (applyHaltObj s o) := by
  simp [Apart, applyHaltObj]

@[simp] theorem applyTemplates_apart (s : State) (o : Obj) : Apart s (applyTemplates s o) := by
  simp [Apart, applyTemplates]

@[simp] theorem applyInject_apart (s : State) (o : Obj) (h : Nat) : Apart s (applyInject s o h) := by
  unfold applyInject
  dsimp only
  split
  · simp [Apart]
  · next hdesc =>
    refine (Apart.trans (setChain_data ..).apart (takeDesc_data hdesc).apart).trans ?_
    repeat' split
    all_goals simp [Apart]

@[simp] theorem applyHaul_apart (s : State) (o : Obj) : Apart s (applyHaul s o) := by
  unfold applyHaul
  repeat' split
  all_goals simp [Apart]

/-! ### Effects of a jump of a base (R279, R303, R313) -/

@[simp] theorem setPpsOut_apart (s : State) (k : Nat) (x : PpsOut) : Apart s (setPpsOut s k x) := by
  simp [Apart, setPpsOut]

@[simp] theorem gatesEach_apart (s : State) (f : GateState → GateState) : Apart s (gatesEach s f) := by
  simp [Apart, gatesEach]

@[simp] theorem tbStepped_apart (s : State) (n : Nat) : Apart s (tbStepped s n) := by
  have houts : ∀ (l : List Nat) (s : State), Apart s (l.foldl (fun s k =>
      let x := getPpsOut s k
      if x.en ∧ x.tb = n then setPpsOut s k { x with next := ppsNext s x } else s) s) :=
    Apart.foldl fun s k => Apart.ite (setPpsOut_apart ..) (Apart.refl s)
  unfold tbStepped
  dsimp only
  refine Apart.trans ((gatesEach_apart ..).trans ((houts ..).trans (bump_data ..).apart)) (Apart.ite ?_ (Apart.refl _))
  exact Apart.refl _

/-! ### Apply -/

@[simp] theorem setTb_apart (s : State) (n : Nat) (b : TimeBase) : Apart s (setTb s n b) := by
  simp [Apart, setTb]

@[simp] theorem applyAdj_apart (s : State) (img : List Byte) : Apart s (applyAdj s img) := by
  unfold applyAdj
  repeat' split
  all_goals simp [Apart]

@[simp] theorem applyTsPort_apart (s : State) (img : List Byte) : Apart s (applyTsPort s img) := by
  simp [Apart, applyTsPort]

@[simp] theorem applyPpsIn_apart (s : State) (img : List Byte) : Apart s (applyPpsIn s img) := by
  simp [Apart, applyPpsIn]

@[simp] theorem applyPpsRec_apart (s : State) (img : List Byte) (o : Nat) : Apart s (applyPpsRec s img o) := by
  simp [Apart, applyPpsRec]

@[simp] theorem applyTick_apart (s : State) (img : List Byte) : Apart s (applyTick s img) := by
  unfold applyTick
  repeat' split
  all_goals simp [Apart]

@[simp] theorem applyTime_apart (s : State) (o : Obj) : Apart s (applyTime s o) := by
  unfold applyTime
  repeat' split
  all_goals simp [Apart]

/-! ### Reason codes (Table 10.13) -/

@[simp] theorem applyCableTest_apart (s : State) (r : List Byte) : Apart s (applyCableTest s r) := by
  unfold applyCableTest
  dsimp only
  repeat' split
  all_goals simp [Apart]

@[simp] theorem applyFaceRec_apart (s : State) (typ : Nat) (r : List Byte) : Apart s (applyFaceRec s typ r) := by
  unfold applyFaceRec
  dsimp only
  repeat' split
  all_goals simp [Apart]

@[simp] theorem applyFace_apart (s : State) (o : Obj) : Apart s (applyFace s o) := by
  simp [Apart, applyFace]

/-! ### Reason codes (Table 11.10) -/

@[simp] theorem setCan_apart (s : State) (c : Nat) (x : CanChan) : Apart s (setCan s c x) := by
  simp [Apart, setCan]

@[simp] theorem setLin_apart (s : State) (l : Nat) (x : LinChan) : Apart s (setLin s l x) := by
  simp [Apart, setLin]

/-! ### Apply -/

@[simp] theorem applyContract_apart (s : State) (img : List Byte) : Apart s (applyContract s img) := by
  unfold applyContract
  simp [Apart]

@[simp] theorem applyCanCtl_apart (s : State) (r : List Byte) : Apart s (applyCanCtl s r) := by
  unfold applyCanCtl
  simp [Apart]

@[simp] theorem applyLinCtl_apart (s : State) (img : List Byte) : Apart s (applyLinCtl s img) := by
  unfold applyLinCtl
  simp [Apart]

@[simp] theorem applyRelayParams_apart (s : State) (img : List Byte) (o : Nat) : Apart s (applyRelayParams s img o) := by
  unfold applyRelayParams
  simp [Apart]

@[simp] theorem applyRoutes_apart (s : State) (img : List Byte) (o n : Nat) : Apart s (applyRoutes s img o n) := by
  unfold applyRoutes
  simp [Apart]

@[simp] theorem applyRelay_apart (s : State) (o : Obj) : Apart s (applyRelay s o) := by
  unfold applyRelay
  repeat' split
  all_goals simp [Apart]

/-! ### The Spall set (R356) -/

@[simp] theorem spallApply_apart (s : State) (img : List Byte) (good : Bool) : Apart s (spallApply s img good) := by
  unfold spallApply
  repeat' split
  all_goals simp [Apart]

/-! ### Roles (R387, R391, R400) -/

@[simp] theorem roleEvent_apart (s : State) : Apart s (roleEvent s) := by
  unfold roleEvent
  simp [Apart]

@[simp] theorem enterRejoin_apart (s : State) : Apart s (enterRejoin s) := by
  unfold enterRejoin
  simp [Apart]

@[simp] theorem enterLead_apart (s : State) (code : Nat) : Apart s (enterLead s code) := by
  unfold enterLead
  generalize (List.range 16).foldl _ _ = can
  generalize (List.range 8).foldl _ _ = lin
  generalize (if code = 3 ∧ s.pair.peerRole ≠ 0 then _ else none : Option Nat) = heir
  generalize hs : (State.mk ..) = s1
  have h1 : Apart s s1 := hs ▸ ⟨rfl, rfl, rfl, rfl, rfl⟩
  exact h1.trans ((setRole_apart ..).trans (pairEvent_apart ..))

@[simp] theorem enterFollow_apart (s : State) : Apart s (enterFollow s) := by
  unfold enterFollow
  simp [Apart]

@[simp] theorem toActive_apart (s : State) : Apart s (toActive s) := by
  unfold toActive
  simp [Apart]

@[simp] theorem dropDelta_apart (s : State) : Apart s (dropDelta s) := by
  simp [Apart, dropDelta]

@[simp] theorem lag_apart (s : State) (code : Nat) : Apart s (lag s code) := by
  unfold lag
  dsimp only
  repeat' split
  all_goals simp [Apart]

@[simp] theorem nak_apart (s : State) (i : Nat) : Apart s (nak s i) := by
  simp [Apart, nak]

@[simp] theorem nakGaps_apart (s : State) (n : Nat) : Apart s (nakGaps s n) := by
  unfold nakGaps
  repeat' split
  all_goals simp [Apart]

@[simp] theorem laneDown_apart (s : State) (n : Nat) : Apart s (laneDown s n) := by
  unfold laneDown
  dsimp only
  repeat' split
  all_goals simp [Apart]

@[simp] theorem pairRetained_apart (s : State) : Apart s (pairRetained s) := by
  unfold pairRetained
  repeat' split
  all_goals simp [Apart]

/-! ### Records (Table 13.6) -/

theorem applyRecord_apart {s s' : State} {r : DeltaRec} (h : applyRecord s r = some s') : Apart s s' := by
  cases r <;> unfold applyRecord at h <;> dsimp only at h
  case entrySet =>
    repeat' split at h
    on_goal -1 => exact addEntry_apart h
    all_goals cases h
    all_goals simp [Apart]
  all_goals
    repeat' split at h
  all_goals cases h
  all_goals
    repeat' split
  all_goals simp [Apart]

theorem applyRecords_apart {l : List DeltaRec} {s s' : State} (h : applyRecords s l = some s') : Apart s s' := by
  induction l generalizing s with
  | nil =>
    cases h
    exact Apart.refl _
  | cons r l ih =>
    unfold applyRecords at h
    split at h
    · next hrec => exact (applyRecord_apart hrec).trans (ih h)
    · cases h

theorem prepRecord_apart {g : Nat} {c c' : LkPrep} {r : DeltaRec} (h : prepRecord g c r = some c') : Apart c.s c'.s := by
  have hentry : ∀ {t d e}, prepEntry t d g 0 c e = .ok c' → Apart c.s c'.s := fun {t d e} he => by
    simpa [he] using prepEntry_apart t d g 0 c e
  unfold prepRecord at h
  dsimp only at h
  repeat' split at h
  all_goals cases h
  · exact hentry ‹_›
  · exact hentry ‹_›
  · exact Apart.refl c.s

theorem prepRecords_apart {g : Nat} {l : List DeltaRec} {c c' : LkPrep} (h : prepRecords g c l = some c') : Apart c.s c'.s := by
  induction l generalizing c with
  | nil =>
    cases h
    exact Apart.refl _
  | cons r l ih =>
    unfold prepRecords at h
    split at h
    · next hrec => exact (prepRecord_apart hrec).trans (ih h)
    · cases h

theorem prepDelta_apart {s s' : State} {l : List DeltaRec} (h : prepDelta s l = some s') : Apart s s' := by
  unfold prepDelta at h
  dsimp only at h
  repeat' split at h
  · cases h
  · cases h
    exact Apart.refl s
  · cases h
  · next htag =>
    obtain ⟨c, hc, rfl⟩ := Option.map_eq_some_iff.1 h
    exact ((drainAll_apart s).trans (takeTag_apart htag)).trans (prepRecords_apart hc)

/-! ### Step 2 on the Follow (R398, R400) -/

@[simp] theorem applyDelta_apart (s : State) : Apart s (applyDelta s) := by
  unfold applyDelta
  dsimp only
  split
  · exact Apart.ite (lag_apart ..) (Apart.refl s)
  split
  · exact dropDelta_apart s
  split
  · exact lag_apart ..
  split
  · simp [Apart]
  · next t hrec =>
    have hrec : Apart s t := Apart.trans (by simp [Apart]) (applyRecords_apart hrec)
    refine hrec.trans ?_
    repeat' split
    all_goals simp [Apart]

theorem applyBulkRecords_apart {l : List DeltaRec} {s s' : State} (h : applyBulkRecords s l = some s') : Apart s s' := by
  induction l generalizing s with
  | nil =>
    cases h
    exact Apart.refl _
  | cons r l ih =>
    unfold applyBulkRecords at h
    dsimp only at h
    split at h
    · next hrec =>
      refine Apart.trans ?_ ((applyRecord_apart hrec).trans (ih h))
      split <;> exact ⟨rfl, rfl, rfl, rfl, rfl⟩
    · cases h

@[simp] theorem applyBulk_apart (s : State) : Apart s (applyBulk s) := by
  have hlag : ∀ (s : State) n, Apart s (lag s n) := lag_apart
  unfold applyBulk
  dsimp only
  split
  · exact ⟨rfl, rfl, rfl, rfl, rfl⟩
  split
  · split <;> simp [Apart]
  split
  · simp [Apart]
  · next hrec =>
    have hbulk := applyBulkRecords_apart hrec
    refine Apart.trans (a := s) hbulk ?_
    split <;> simp [Apart]

/-! ### Step 5 -/

@[simp] theorem takeFail_apart (s : State) : Apart s (takeFail s) := by
  simp [Apart, takeFail]

@[simp] theorem leaseEvents_apart (s : State) : Apart s (leaseEvents s) := by
  unfold leaseEvents
  dsimp only
  generalize hs1 : (if s.pair.reqTick.isSome ∧ s.pair.granted = false then takeFail s
    else if s.pair.role = .active then s
    else { s with pair := { s.pair with reqTick := none, granted := false } }) = s1
  have htake : Apart s s1 := hs1 ▸ Apart.ite (takeFail_apart s) (Apart.ite (Apart.refl s) ⟨rfl, rfl, rfl, rfl, rfl⟩)
  refine htake.trans ?_
  repeat' split
  all_goals simp [Apart]

@[simp] theorem leaseOrder_apart (s : State) (o : LeaseOrder) : Apart s (leaseOrder s o) := by
  unfold leaseOrder
  dsimp only
  repeat' split
  all_goals simp [Apart]

@[simp] theorem leaseOrders_apart (s : State) : Apart s (leaseOrders s) := by
  simp [Apart, leaseOrders]

@[simp] theorem sealDelta_apart (s : State) : Apart s (sealDelta s) := by
  unfold sealDelta
  dsimp only
  repeat' split
  all_goals simp [Apart]

@[simp] theorem recoveryIdle_apart (s : State) : Apart s (recoveryIdle s) := by
  simp [Apart, recoveryIdle]

@[simp] theorem commitDigest_apart (s : State) : Apart s (commitDigest s) := by
  simp [Apart, commitDigest]

@[simp] theorem pairStep5_apart (s : State) : Apart s (pairStep5 s) := by
  unfold pairStep5
  dsimp only
  repeat' split
  all_goals simp [Apart]

/-! ### Readers (Table 1.5) -/

@[simp] theorem readerFault_apart (s : State) (who : Reader) (code info : Nat) : Apart s (readerFault s who code info) := by
  simp [Apart, readerFault]

/-! ### IDLE (R442) -/

@[simp] theorem setBlock_apart (s : State) (n : Nat) (x : Block) : Apart s (setBlock s n x) := by
  simp [Apart, setBlock]

/-! ### Reset states -/

@[simp] theorem resetTime_apart (s : State) : Apart s (resetTime s) := by
  have hbases : ∀ (l : List Nat) (s : State),
      Apart s (l.foldl (fun s n => if (tbGet s.time n).running then gatesEach s (gateStop s n) else s) s) :=
    Apart.foldl fun s n => Apart.ite (gatesEach_apart ..) (Apart.refl s)
  unfold resetTime
  exact Apart.trans (hbases [1, 2, 3] s) (by simp [Apart])

@[simp] theorem resetBlock_apart (s : State) (n : Nat) : Apart s (resetBlock s n) := by
  unfold resetBlock
  repeat' split
  all_goals simp [Apart]

/-! ### Commands -/

@[simp] theorem resetReq_apart (s : State) (n : Nat) : Apart s (resetReq s n) := by
  unfold resetReq
  dsimp only
  repeat' split
  all_goals simp [Apart]

@[simp] theorem powerWrite_apart (s : State) (n : Nat) (on : Bool) : Apart s (powerWrite s n on) := by
  unfold powerWrite
  dsimp only
  repeat' split
  all_goals simp [Apart]

/-! ### Effects -/

@[simp] theorem applySleep_apart (s : State) (img : List Byte) : Apart s (applySleep s img) := by
  unfold applySleep
  repeat' split
  all_goals simp [Apart]

@[simp] theorem physLater_apart (s : State) : Apart s (physLater s) := by
  unfold physLater
  refine Apart.foldl (fun s x => ?_) _ _
  repeat' split
  all_goals simp [Apart]

@[simp] theorem applyBootDone_apart (s : State) : Apart s (applyBootDone s) := by
  unfold applyBootDone
  dsimp only
  repeat' split
  all_goals simp [Apart]

@[simp] theorem applyGpio_apart (s : State) (w : Nat) : Apart s (applyGpio s w) := by
  simp [Apart, applyGpio]

/-! ### Reason codes (Table 13.9) -/

@[simp] theorem applyRecovery_apart (s : State) (img : List Byte) : Apart s (applyRecovery s img) := by
  simp [Apart, applyRecovery]

@[simp] theorem applyPair_apart (s : State) (o : Obj) : Apart s (applyPair s o) := by
  unfold applyPair
  repeat' split
  all_goals simp [Apart]

/-! ### Apply (R140, R150, R217) -/

@[simp] theorem finishScrubs_apart (s : State) (n : Nat) : Apart s (finishScrubs s n) := by
  unfold finishScrubs
  repeat' split
  all_goals simp [Apart]

@[simp] theorem swapEpoch_apart (s : State) (r : RuleSet) : Apart s (swapEpoch s r) := by
  simp [Apart, swapEpoch]

@[simp] theorem applyEpoch_apart (s : State) (o : Obj) (disturbed : Bool) : Apart s (applyEpoch s o disturbed) := by
  unfold applyEpoch
  repeat' split
  all_goals simp [Apart]

@[simp] theorem applyScreen_apart (s : State) (o : Obj) (disturbed : Bool) : Apart s (applyScreen s o disturbed) := by
  unfold applyScreen
  repeat' split
  all_goals simp [Apart]

@[simp] theorem applyBerm_apart (s : State) (o : Obj) : Apart s (applyBerm s o) := by
  simp [Apart, applyBerm]

@[simp] theorem retireEpoch_apart (s : State) : Apart s (retireEpoch s) := by
  unfold retireEpoch
  repeat' split
  all_goals simp [Apart]

/-! ### VaultObjects -/

@[simp] theorem applySas_apart (img : List Byte) (l : List Nat) (ks : List SaKey) (s : State) : Apart s (applySas s img l ks) := by
  induction l generalizing ks s with
  | nil => exact Apart.refl s
  | cons r l ih =>
    cases ks with
    | nil => exact Apart.refl s
    | cons k ks =>
      unfold applySas
      refine Apart.trans ?_ (ih ..)
      split <;> simp [Apart]

@[simp] theorem applyVault_apart (s : State) (o : Obj) (keys : List SaKey) : Apart s (applyVault s o keys).1 := by
  simp [Apart, applyVault]

/-! ### Staging (R108, R529) -/

@[simp] theorem stageObj_apart (s : State) (o : Obj) (v : Option Nat) : Apart s (stageObj s o v).1 := by
  unfold stageObj
  repeat' split
  all_goals simp [Apart]

@[simp] theorem stage_apart (s : State) (y : Nat) (img : List Byte) : Apart s (stage s y img).1 := by
  unfold stage
  dsimp only
  repeat' split
  all_goals simp [Apart]

@[simp] theorem stageGates_apart (s : State) (a y : Nat) (img : List Byte) : Apart s (stageGates s a y img).1 := by
  unfold stageGates
  repeat' split
  all_goals simp [Apart]

@[simp] theorem stageShaper_apart (s : State) (a y : Nat) (img : List Byte) : Apart s (stageShaper s a y img).1 := by
  unfold stageShaper
  repeat' split
  all_goals simp [Apart]

@[simp] theorem stageEpoch_apart (s : State) (img : List Byte) : Apart s (stageEpoch s img).1 := by
  unfold stageEpoch
  repeat' split
  all_goals simp [Apart]

@[simp] theorem stageBank_apart (s : State) (b : Nat) : Apart s (stageBank s b).1 := by
  unfold stageBank
  repeat' split
  all_goals simp [Apart]

@[simp] theorem stageLease_apart (s : State) (order a : Nat) : Apart s (stageLease s order a).1 := by
  unfold stageLease
  repeat' split
  all_goals simp [Apart]

/-! ### Prepare (R14, R15, R33) -/

theorem prepHopper_apart (objs prev l : List Obj) (s : State) (m : List PoolMove) {x : State × List PoolMove}
    (h : prepHopper objs prev l s m = .ok x) : Apart s x.1 := by
  induction l generalizing prev s m with
  | nil =>
    cases h
    exact Apart.refl _
  | cons o l ih =>
    unfold prepHopper at h
    split at h
    · dsimp only at h
      generalize hw : (if o.typ = 1 ∧ (hopperImage o.typ o.img).contains (0, hFORMAT) = false then prepPoolDef s prev objs o
        else ([], s, [])) = w at h
      have hpool : Apart s w.2.1 := by
        subst hw
        split
        · exact prepPoolDef_apart ..
        · exact Apart.refl s
      split at h
      · cases h
      · exact hpool.trans (ih _ _ _ h)
    · exact ih _ _ _ h

theorem prepHauls_apart (objs prev l : List Obj) (s : State) (m : List Nat) {x : State × List Nat}
    (h : prepHauls objs prev l s m = .ok x) : Apart s x.1 := by
  induction l generalizing prev s m with
  | nil =>
    cases h
    exact Apart.refl _
  | cons o l ih =>
    unfold prepHauls at h
    split at h
    · dsimp only at h
      have hhaul := prepHaul_apart s prev objs o
      split at h
      · cases h
      · exact hhaul.trans (ih _ _ _ h)
    · exact ih _ _ _ h

/-- The state that prepare leaves, whether it prepares or refuses. -/
def prepareLeft : Except (Nat × Nat × State) Prep → State
  | .ok p => p.s
  | .error e => e.2.2

theorem prepare_apart (s : State) (natural num : Nat) (group before : List Obj) (later : List (List Obj)) :
    Apart s (prepareLeft (prepare s natural num group before later)) := by
  unfold prepare
  dsimp only
  have hlookup := prepLookup_apart s before group later num
  generalize (prepLookup s before group later num) = lk at hlookup ⊢
  rcases hhp : prepHopper (before ++ group) [] group lk.1 [] with _ | x
  · rcases hhl : prepHauls (before ++ group) [] group lk.1 [] with _ | y <;> dsimp only <;> split
    · exact hlookup.trans (loaderWrites_apart ..)
    · exact hlookup.trans (settleTags_apart ..)
    · exact (hlookup.trans (prepHauls_apart _ _ _ _ _ hhl)).trans (loaderWrites_apart ..)
    · exact hlookup.trans (settleTags_apart ..)
  · have hhopper := hlookup.trans (prepHopper_apart _ _ _ _ _ hhp)
    rcases hhl : prepHauls (before ++ group) [] group x.1 [] with _ | y <;> dsimp only <;> split
    · exact hhopper.trans (loaderWrites_apart ..)
    · exact hlookup.trans (settleTags_apart ..)
    · exact (hhopper.trans (prepHauls_apart _ _ _ _ _ hhl)).trans (loaderWrites_apart ..)
    · exact hlookup.trans (settleTags_apart ..)

@[simp] theorem commit_apart (s : State) (target : Nat) : Apart s (commit s target).1 := by
  unfold commit
  dsimp only
  split
  · exact Apart.refl s
  · generalize hr : prepare s _ _ _ _ _ = r
    have hleft : Apart s (prepareLeft r) := hr ▸ prepare_apart ..
    cases r with
    | ok p => exact hleft.trans ⟨rfl, rfl, rfl, rfl, rfl⟩
    | error e => exact hleft.trans ⟨rfl, rfl, rfl, rfl, rfl⟩

/-! ### Abort (R18) -/

@[simp] theorem releaseCommit_apart (s : State) (c : Commit) : Apart s (releaseCommit s c) := by
  unfold releaseCommit
  dsimp only
  split <;> simp [Apart, -List.foldl_reverse]

@[simp] theorem abortCommit_apart (s : State) (num : Nat) : Apart s (abortCommit s num).1 := by
  unfold abortCommit
  repeat' split
  all_goals simp [Apart]

@[simp] theorem abortGroup_apart (s : State) : Apart s (abortGroup s).1 := by
  unfold abortGroup
  repeat' split
  all_goals simp [Apart]

/-! ### THAW (R417, R418, R420) -/

@[simp] theorem thawPartner_apart (s : State) (a : Nat) : Apart s (thawPartner s a).1 := by
  unfold thawPartner
  repeat' split
  all_goals simp [Apart]

/-! ### Rails (R427, R428) -/

@[simp] theorem lockOut_apart (s : State) : Apart s (lockOut s) := by
  simp [Apart, lockOut]

/-! ### The release sequence (R434, R435, R438, R439, Table 15.6) -/

@[simp] theorem accountStart_apart (s : State) : Apart s (accountStart s) := by
  simp [Apart, accountStart]

@[simp] theorem postTrims_apart (s : State) : Apart s (postTrims s) := by
  simp [Apart, postTrims]

@[simp] theorem optionLoading_apart (s : State) (bootsel : Nat) (split pairEn : Bool) : Apart s (optionLoading s bootsel split pairEn) := by
  simp [Apart, optionLoading]

/-! ### The boot image (R450, R476 to R479) -/

@[simp] theorem applyPreset_apart (s : State) (header : List Byte) (sections : List (List Byte)) : Apart s (applyPreset s header sections) := by
  unfold applyPreset
  dsimp only
  repeat' split
  all_goals simp [Apart]

/-! ### Sleep and wake (R446 to R454) -/

@[simp] theorem standbyAll_apart (s : State) : Apart s (standbyAll s) := by
  simp [Apart, standbyAll]

@[simp] theorem unitsReturn_apart (s : State) : Apart s (unitsReturn s) := by
  simp [Apart, unitsReturn]

@[simp] theorem keptUp_apart (s : State) : Apart s (keptUp s) := by
  unfold keptUp
  refine Apart.foldl (fun s x => ?_) _ _
  dsimp only
  repeat' split
  all_goals simp [Apart]

/-! ### Link and credits (R408, R484) -/

@[simp] theorem hostNodeDown_apart (s : State) : Apart s (hostNodeDown s) := by
  simp [Apart, hostNodeDown]

/-! ### Queue pairs (R486 to R489) -/

@[simp] theorem pairControl_apart (s : State) (q : Nat) (en : Bool) (group rxSize txSize : Nat) : Apart s (pairControl s q en group rxSize txSize) := by
  unfold pairControl
  dsimp only
  repeat' split
  all_goals simp [Apart]

@[simp] theorem rxTailWrite_apart (s : State) (q v : Nat) : Apart s (rxTailWrite s q v) := by
  simp [Apart, rxTailWrite]

@[simp] theorem txTailWrite_apart (s : State) (q v : Nat) : Apart s (txTailWrite s q v) := by
  simp [Apart, txTailWrite]

@[simp] theorem completeTx_apart (s : State) (q st : Nat) : Apart s (completeTx s q st) := by
  unfold completeTx
  dsimp only
  repeat' split
  all_goals simp [Apart]

theorem serveTx_apart (s : State) (q op : Nat) {run : List Byte → QPair → State → State} (hrun : ∀ e x s, Apart s (run e x s)) :
    Apart s (serveTx s q op run) := by
  unfold serveTx
  exact Apart.ite (Apart.refl s) (Apart.ite (completeTx_apart ..) (hrun ..))

@[simp] theorem txFrame_apart (q : Nat) (bytes e : List Byte) (x : QPair) (s : State) : Apart s (txFrame q bytes e x s) := by
  unfold txFrame
  dsimp only
  generalize hs1 : hostWrite s _ _ = s1
  have hwritten : Apart s s1 := hs1 ▸ (hostWrite_data ..).apart
  refine hwritten.trans ?_
  split
  · exact completeTx_apart ..
  split
  · next hcells => exact (Apart.of_fst (takeCells_apart ..) hcells).trans (completeTx_apart ..)
  · next hcells =>
    refine (Apart.of_fst (takeCells_apart ..) hcells).trans ?_
    split
    · simp [Apart]
    · next hdesc => exact (takeDesc_data hdesc).apart.trans (by simp [Apart])

@[simp] theorem wbCopy_apart (q : Nat) (overtaken : Bool) (e : List Byte) (x : QPair) (s : State) : Apart s (wbCopy q overtaken e x s) := by
  unfold wbCopy
  dsimp only
  repeat' split
  all_goals simp [Apart]

/-! ### Mailbox rings (R497, R498, Table 17.6) -/

@[simp] theorem setRing_apart (s : State) (r : Nat) (x : MailRing) : Apart s (setRing s r x) := by
  simp [Apart, setRing]

@[simp] theorem mailSend_apart (s : State) (who : Reader) (r len : Nat) : Apart s (mailSend s who r len) := by
  unfold mailSend
  dsimp only
  repeat' split
  all_goals simp [Apart]

@[simp] theorem mailPop_apart (s : State) (who : Reader) (r : Nat) : Apart s (mailPop s who r) := by
  unfold mailPop
  dsimp only
  repeat' split
  all_goals simp [Apart]

@[simp] theorem evqAck_apart (s : State) (i v : Nat) : Apart s (Machine.evqAck s i v) := ⟨rfl, rfl, rfl, rfl, rfl⟩

/-! ### Reads that do something (R28, R296, R475) -/

@[simp] theorem readTickLo_apart (s : State) (r : Nat) : Apart s (readTickLo s r).1 := by
  simp [Apart, readTickLo]

@[simp] theorem readTbNs_apart (s : State) (r n : Nat) : Apart s (readTbNs s r n).1 := by
  simp [Apart, readTbNs]

@[simp] theorem readTrng_apart (s : State) : Apart s (readTrng s).1 := by
  unfold readTrng
  dsimp only
  repeat' split
  all_goals simp [Apart]

@[simp] theorem readBack_apart (r : State × Nat) : Apart r.1 (readBack r) := ⟨rfl, rfl, rfl, rfl, rfl⟩

@[simp] theorem refusedRead_apart (s : State) (who : Reader) : Apart s (refusedRead s who) := by
  unfold refusedRead
  repeat' split
  all_goals simp [Apart]

/-! ### Write-one-to-clear registers of the Gatehouse (R450, R456) -/

@[simp] theorem rstCauseClear_apart (s : State) (v : Nat) : Apart s (rstCauseClear s v) := by
  simp [Apart, rstCauseClear]

@[simp] theorem wakeSrcClear_apart (s : State) (v : Nat) : Apart s (wakeSrcClear s v) := by
  simp [Apart, wakeSrcClear]

/-! ### Host commands and boot (R499 to R501) -/

@[simp] theorem xspiWrite_apart (s : State) (m v : Nat) : Apart s (xspiWrite s m v) := by
  unfold xspiWrite
  dsimp only
  repeat' split
  all_goals simp [Apart]

@[simp] theorem hostGo_apart (s : State) : Apart s (hostGo s) := by
  unfold hostGo
  repeat' split
  all_goals simp [Apart]

@[simp] theorem hostCommand_apart (s : State) (cmd : Byte) (block : List Byte) : Apart s (hostCommand s cmd block) := by
  unfold hostCommand
  repeat' split
  all_goals simp [Apart]

@[simp] theorem newNonce_apart (s : State) : Apart s (newNonce s) := by
  simp [Apart, newNonce]

/-! ### Debug (R379, R380, R504, R505) -/

@[simp] theorem dbgStart_apart (s : State) (len : Nat) : Apart s (dbgStart s len) := by
  unfold dbgStart
  repeat' split
  all_goals simp [Apart]

@[simp] theorem dbgAttach_apart (s : State) : Apart s (dbgAttach s) := by
  unfold dbgAttach
  dsimp only
  repeat' split
  all_goals simp [Apart]

@[simp] theorem dbgComplete_apart (s : State) : Apart s (dbgComplete s) := by
  unfold dbgComplete
  dsimp only
  repeat' split
  all_goals simp [Apart]

@[simp] theorem dbgDetach_apart (s : State) : Apart s (dbgDetach s) := by
  simp [Apart, dbgDetach]

/-! ### The TAP (R503, R505, Table 17.10) -/

@[simp] theorem tapSelect_apart (s : State) (i : Nat) : Apart s (tapSelect s i) := by
  unfold tapSelect
  repeat' split
  all_goals simp [Apart]

@[simp] theorem tokenWord_apart (s : State) (w : BitVec 32) : Apart s (tokenWord s w) := by
  unfold tokenWord
  repeat' split
  all_goals simp [Apart]

@[simp] theorem dbgCtrl_apart (s : State) (start detach : Bool) (len : Nat) : Apart s (dbgCtrl s start detach len) := by
  unfold dbgCtrl
  dsimp only
  repeat' split
  all_goals simp [Apart]

/-! ### A window's word -/

@[simp] theorem windowRead_apart (s : State) (r n o : Nat) : Apart s (windowRead s r n o).1 := by
  unfold windowRead
  repeat' split
  all_goals simp [Apart]

/-! ### Reads -/

@[simp] theorem mapRead_apart (s : State) (who : Reader) (a n : Nat) : Apart s (mapRead s who a n).1 := by
  unfold mapRead
  dsimp only
  repeat' split
  all_goals simp [Apart]

/-! ### Writes -/

@[simp] theorem mailStore_apart (s : State) (who : Reader) (o v : Nat) : Apart s (mailStore s who o v) := by
  have hpopped (r : Nat) : Apart s (if bitOf v 30 then mailPop s who r else s) := Apart.ite (mailPop_apart ..) (Apart.refl s)
  unfold mailStore
  dsimp only
  split
  · refine Apart.ite (readerFault_apart ..) (Apart.ite (Apart.refl s) (Apart.trans (hpopped ((o - 0x200) / 16)) ?_))
    exact Apart.ite (mailSend_apart ..) (Apart.ite (setRing_apart ..) (Apart.refl _))
  · exact Apart.ite (Apart.ite (readerFault_apart ..) (Apart.ite (setRing_apart ..) (Apart.refl s))) (Apart.refl s)

@[simp] theorem blockStore_apart (s : State) (n v : Nat) : Apart s (blockStore s n v) := by
  unfold blockStore
  repeat' split
  all_goals simp [Apart]

@[simp] theorem controlStore_apart (s : State) (who : Reader) (o v : Nat) : Apart s (controlStore s who o v) := by
  unfold controlStore
  repeat' split
  all_goals simp [Apart]

@[simp] theorem vaultStore_apart (s : State) (o v : Nat) : Apart s (vaultStore s o v) := by
  unfold vaultStore
  repeat' split
  all_goals simp [Apart]

@[simp] theorem tallyStore_apart (s : State) (who : Reader) (o v : Nat) : Apart s (tallyStore s who o v) := by
  unfold tallyStore
  repeat' split
  all_goals simp [Apart]

@[simp] theorem gateStore_apart (s : State) (o v : Nat) : Apart s (gateStore s o v) := by
  unfold gateStore
  repeat' split
  all_goals simp [Apart]

@[simp] theorem qpairStore_apart (s : State) (q o v : Nat) : Apart s (qpairStore s q o v) := by
  unfold qpairStore
  dsimp only
  repeat' split
  all_goals simp [Apart]

@[simp] theorem hostStore_apart (s : State) (who : Reader) (o v : Nat) : Apart s (hostStore s who o v) := by
  unfold hostStore
  repeat' split
  all_goals simp [Apart]

@[simp] theorem windowStore_apart (s : State) (who : Reader) (n o v : Nat) : Apart s (windowStore s who n o v) := by
  unfold windowStore
  repeat' split
  all_goals simp [Apart]

@[simp] theorem mapWrite_apart (s : State) (who : Reader) (a n v : Nat) : Apart s (mapWrite s who a n v) := by
  unfold mapWrite
  dsimp only
  repeat' split
  all_goals simp [Apart]

@[simp] theorem fenceWrite_apart (s : State) (who : Reader) (a n v : Nat) : Apart s (fenceWrite s who a n v) := by
  unfold fenceWrite
  repeat' split
  all_goals simp [Apart]

/-! ### Uarra-S (R58, R61, R80) -/

@[simp] theorem storeReply_apart (who : Reader) (s : State) (l : List Nat) : Apart s (storeReply who s l).1 := by
  unfold storeReply
  repeat' split
  all_goals simp [Apart]

@[simp] theorem mapAccess_apart (s : State) (m : Nat) (q : Req) : Apart s (mapAccess s m q).1 := by
  unfold mapAccess
  dsimp only
  repeat' split
  all_goals simp [Apart]

/-! ### PairEvents -/

@[simp] theorem laneUp_apart (s : State) (n : Nat) : Apart s (laneUp s n) := by
  simp [Apart, laneUp]

@[simp] theorem beatReceive_apart (s : State) (b : Beat) : Apart s (beatReceive s b) := by
  unfold beatReceive
  dsimp only
  repeat' split
  all_goals simp [Apart]

@[simp] theorem reqReceive_apart (s : State) (tick : Nat) : Apart s (reqReceive s tick) := by
  unfold reqReceive
  repeat' split
  all_goals simp [Apart]

@[simp] theorem badChunk_apart (s : State) (lane index : Nat) : Apart s (badChunk s lane index) := by
  simp [Apart, badChunk]

@[simp] theorem seeChunk_apart (s : State) (index : Nat) : Apart s (seeChunk s index) := by
  simp [Apart, seeChunk]

@[simp] theorem deltaComplete_apart (s : State) (tick : Nat) (chunks : List Chunk) : Apart s (deltaComplete s tick chunks) := by
  unfold deltaComplete
  dsimp only
  split
  · exact Apart.refl s
  · next x _ =>
    generalize hs1 : (if x.renew = true then _ else _ : State) = s1
    have hrenewed : Apart s s1 := by
      subst hs1
      split <;> simp [Apart]
    refine hrenewed.trans (Apart.ite (lag_apart ..) ?_)
    split
    · next s2 hprep => exact Apart.trans (b := s2) (prepDelta_apart hprep) ⟨rfl, rfl, rfl, rfl, rfl⟩
    · exact lag_apart ..

@[simp] theorem deltaReceive_apart (s : State) (lane tick : Nat) (c : Chunk) (good : Bool) : Apart s (deltaReceive s lane tick c good) := by
  unfold deltaReceive
  dsimp only
  repeat' split
  all_goals simp [Apart]

/-! ### The Lead's chunks (R397, R400) -/

@[simp] theorem bulkChunk_apart (s : State) (pos : Nat) : Apart s (bulkChunk s pos) := by
  unfold bulkChunk
  dsimp only
  repeat' split
  all_goals simp [Apart]

/-! ### Transmit buffers and response buffers (R353, R355) -/

@[simp] theorem canAged_apart (s : State) (c : Nat) : Apart s (canAged s c) := by
  unfold canAged
  dsimp only
  repeat' split
  all_goals simp [Apart]

@[simp] theorem canBuffer_apart (s : State) (c : Nat) (m : CanMsg) : Apart s (canBuffer s c m) := by
  unfold canBuffer
  dsimp only
  repeat' split
  all_goals simp [Apart]

@[simp] theorem linWrite_apart (s : State) (l i : Nat) (payload : List Byte) : Apart s (linWrite s l i payload) := by
  simp [Apart, linWrite]

/-! ### Frames of the Relay (R343, R351, Table 11.5) -/

@[simp] theorem relayIngress_apart (s : State) (ch ident : Nat) (xl : Bool) (msg : List Byte) : Apart s (relayIngress s ch ident xl msg) := by
  unfold relayIngress
  dsimp only
  split
  · next hcells => exact (Apart.of_fst (allocCells_data ..).apart hcells).trans (bump_data ..).apart
  · next hcells =>
    refine (Apart.of_fst (allocCells_data ..).apart hcells).trans ?_
    split
    · simp [Apart]
    · next d s2 hdesc =>
      have htaken := (takeDesc_data hdesc).apart
      exact Apart.trans (b := s2) htaken (by simp [Apart])

/-! ### Direct forwarding (R357) -/

@[simp] theorem forwardCan_apart (s : State) (c : Nat) (m : CanMsg) (r : SpallRoute) : Apart s (forwardCan s c m r) := by
  unfold forwardCan
  repeat' split
  all_goals simp [Apart]

@[simp] theorem forwardLin_apart (s : State) (l : Nat) (payload : List Byte) (r : SpallRoute) : Apart s (forwardLin s l payload r) := by
  simp [Apart, forwardLin]

/-! ### From the buses (R350, R351, R354) -/

@[simp] theorem recLess_apart (s : State) (c : Nat) : Apart s (recLess s c) := by
  unfold recLess
  dsimp only
  repeat' split
  all_goals simp [Apart]

@[simp] theorem canReceive_apart (s : State) (c : Nat) (m : CanMsg) (back : Nat) : Apart s (canReceive s c m back) := by
  unfold canReceive
  dsimp only
  repeat' split
  all_goals simp [Apart]

@[simp] theorem linReceive_apart (s : State) (l i : Nat) (payload : List Byte) (good : Bool) (back : Nat) : Apart s (linReceive s l i payload good back) := by
  unfold linReceive
  dsimp only
  repeat' split
  all_goals simp [Apart]

/-! ### From Screen to the buses (R352, R353) -/

@[simp] theorem egressCan_apart (s : State) (c : Nat) (m : CanMsg) : Apart s (egressCan s c m) := by
  unfold egressCan
  dsimp only
  repeat' split
  all_goals simp [Apart]

@[simp] theorem egressLin_apart (s : State) (l i : Nat) (payload : List Byte) : Apart s (egressLin s l i payload) := by
  unfold egressLin
  repeat' split
  all_goals simp [Apart]

@[simp] theorem acfMessage_apart (s : State) (d : List Byte) (n : Nat) : Apart s (acfMessage s d n) := by
  unfold acfMessage
  dsimp only
  repeat' split
  all_goals simp [Apart]

@[simp] theorem acfWalk_apart (fuel k : Nat) (d : List Byte) (s : State) : Apart s (acfWalk fuel k d s) := by
  induction fuel generalizing k d s with
  | zero => exact Apart.refl s
  | succ fuel ih =>
    unfold acfWalk
    dsimp only
    refine Apart.ite (Apart.refl s) (Apart.ite (bump_data ..).apart (Apart.trans ?_ (ih ..)))
    exact Apart.ite (bump_data ..).apart (acfMessage_apart ..)

@[simp] theorem relayParse_apart (s : State) (b : List Byte) : Apart s (relayParse s b) := by
  unfold relayParse
  dsimp only
  repeat' split
  all_goals simp [Apart]

@[simp] theorem relayEgress_apart (s : State) : Apart s (relayEgress s) := by
  unfold relayEgress
  repeat' split
  all_goals simp [Apart]

@[simp] theorem canSend_apart (s : State) (c : Nat) : Apart s (canSend s c) := by
  unfold canSend
  dsimp only
  repeat' split
  all_goals simp [Apart]

@[simp] theorem canExpire_apart (s : State) (c : Nat) : Apart s (canExpire s c) := by
  unfold canExpire
  repeat' split
  all_goals simp [Apart]

/-! ### Fault confinement (R350) -/

@[simp] theorem canState_apart (s : State) (c st : Nat) : Apart s (canState s c st) := by
  simp [Apart, canState]

/-! ### LIN (R354, R355) -/

@[simp] theorem linAnswer_apart (s : State) (l : Nat) (b : List Byte) : Apart s (linAnswer s l b) := by
  simp [Apart, linAnswer]

@[simp] theorem linSlot_apart (s : State) (l : Nat) : Apart s (linSlot s l) := by
  unfold linSlot
  dsimp only
  repeat' split
  all_goals simp [Apart]

/-! ### Comparison and reload (R368 to R370, Table 12.3) -/

@[simp] theorem latent_apart (s : State) (i : Nat) : Apart s (latent s i) := by
  simp [Apart, latent]

/-! ### The safe output state (R374, R375) -/

@[simp] theorem ppsLow_apart (s : State) : Apart s (ppsLow s) := by
  simp [Apart, ppsLow]

@[simp] theorem enterSafe_apart (s : State) : Apart s (enterSafe s) := by
  unfold enterSafe
  repeat' split
  all_goals simp [Apart]

/-! ### The instant (R29 to R31, R33) -/

@[simp] theorem countStalls_apart (s : State) : Apart s (countStalls s) := by
  unfold countStalls
  refine Apart.foldl (fun s x => ?_) _ _
  dsimp only
  repeat' split
  all_goals simp [Apart]

@[simp] theorem instant_apart (s : State) (n m : Nat) : Apart s (instant s n m) := by
  unfold instant
  simp [Apart]

/-! ### What the instant decides about the Triad (R40, R370, R373, R374) -/

@[simp] theorem triadInstant_apart (s : State) : Apart s (triadInstant s) := by
  unfold triadInstant
  dsimp only
  repeat' split
  all_goals simp [Apart]

/-! ### Step 2 (R16, R17, R150, R398, R400) -/

@[simp] theorem swapRules_apart (s : State) (e : Option Obj) : Apart s (swapRules s e) := by
  unfold swapRules
  repeat' split
  all_goals simp [Apart]

@[simp] theorem pairStep2_apart (s : State) : Apart s (pairStep2 s) := by
  simp [Apart, pairStep2]

/-! ### Steps 3, 6 and 7 -/

@[simp] theorem switchEvent_apart (s : State) : Apart s (switchEvent s) := by
  simp [Apart, switchEvent]

@[simp] theorem step3_apart (s : State) : Apart s (step3 s) := by
  unfold step3
  dsimp only
  repeat' split
  all_goals simp [Apart]

@[simp] theorem step6_apart (s : State) : Apart s (step6 s) := by
  simp [Apart, step6]

/-! ### TimeEvents -/

@[simp] theorem ppsEdge_apart (s : State) (k : Nat) (level : Bool) : Apart s (ppsEdge s k level) := by
  unfold ppsEdge
  dsimp only
  repeat' split
  all_goals simp [Apart]

@[simp] theorem ppsRise_apart (s : State) (k : Nat) : Apart s (ppsRise s k) := by
  unfold ppsRise
  dsimp only
  repeat' split
  all_goals simp [Apart]

@[simp] theorem ppsFall_apart (s : State) (k : Nat) : Apart s (ppsFall s k) := by
  unfold ppsFall
  dsimp only
  repeat' split
  all_goals simp [Apart]

/-! ### VaultCalls -/

@[simp] theorem openStatus_apart (s : State) : Apart s (openStatus s).1 := by
  simp [Apart, openStatus]

@[simp] theorem vaultViolation_apart (s : State) (info : Nat) : Apart s (vaultViolation s info).1 := by
  simp [Apart, vaultViolation]

/-! ### KLOAD (R460 to R462, R467) -/

@[simp] theorem kloadRoot_apart (s : State) : Apart s (kloadRoot s).1 := by
  unfold kloadRoot
  repeat' split
  all_goals simp [Apart]

@[simp] theorem kloadFallback_apart (s : State) (n a b : Nat) (k : Nat) (img : List Byte) : Apart s (kloadFallback s n a b k img).1 := by
  unfold kloadFallback
  repeat' split
  all_goals simp [Apart]

/-! ### KDERIVE (R468) -/

@[simp] theorem kderive_apart (s : State) (h : Nat) (wide exportable : Bool) (img : List Byte) : Apart s (kderive s h wide exportable img).1 := by
  unfold kderive
  dsimp only
  repeat' split
  all_goals simp [Apart]

/-! ### KWRAP (R469, R471) -/

@[simp] theorem wrapOut_apart (s : State) (h : Nat) (k : VKey) (b : Nat) (p : List Byte) : Apart s (wrapOut s h k b p).1 := by
  simp [Apart, wrapOut]

@[simp] theorem kwrapWrap_apart (s : State) (h b n sub : Nat) (mem inside : Bool) (img : List Byte) : Apart s (kwrapWrap s h b n sub mem inside img).1 := by
  unfold kwrapWrap
  repeat' split
  all_goals simp [Apart]

@[simp] theorem kwrapUnwrap_apart (s : State) (h n : Nat) (toIdk exportable : Bool) (img : List Byte) : Apart s (kwrapUnwrap s h n toIdk exportable img).1 := by
  unfold kwrapUnwrap
  repeat' split
  all_goals simp [Apart]

end Sys2Proof.Machine
end

section
/-! PROOFS. What every step keeps: the written OTP slots, the steps of the lifecycle and the legal levels of the cores. -/

namespace Sys2Proof.Machine

/-! ### What is kept -/

/-- The part of the state that the levels of the cores, the OTP and the operations of the Vault rest on. -/
structure Essence where
  cores : Tbl SCore
  slots : Tbl OtpSlot
  fuses : Nat
  sign : Option SigOp
  verify : Option SigOp

@[simp] abbrev essence (s : State) : Essence := ⟨s.cores, s.vault.slots, s.vault.fuses, s.vault.sign, s.vault.verify⟩

/-- Core k may hold the registers c: its level is one that it has, and VAULT_DONE is not raised on a Tally core. -/
abbrev CoreLegal (k : Nat) (c : SCore) : Prop := c.pl ≠ 3#2 ∧ (3 ≤ k → c.pl ≠ 2#2 ∧ c.latched.getLsbD 5 = false)

structure Essence.Legal (e : Essence) : Prop where
  sorted : Rising e.cores
  core : ∀ k, CoreLegal k (tblGet (SCore.reset k) e.cores k)
  sign : ∀ op, e.sign = some op → op.agent < 3
  verify : ∀ op, e.verify = some op → op.agent < 3

/-- From a to b no written slot is rewritten, no fuse is undone, and legal levels stay legal. -/
structure Essence.Keeps (a b : Essence) : Prop where
  slots : ∀ i, tblGet blankSlot a.slots i ≠ blankSlot → tblGet blankSlot b.slots i = tblGet blankSlot a.slots i
  fuses : ∃ f, b.fuses = a.fuses ||| f
  levels : a.Legal → b.Legal

@[simp] abbrev Kept (s s' : State) : Prop := (essence s).Keeps (essence s')

theorem levelInv_iff (s : State) : LevelInv s ↔ (essence s).Legal := by
  constructor
  · intro h
    exact ⟨h.sorted, fun k => ⟨h.legal k, h.tally k⟩, h.sign, h.verify⟩
  · intro h
    exact ⟨h.sorted, fun k => (h.core k).1, fun k => (h.core k).2, h.sign, h.verify⟩

@[simp] theorem Essence.Keeps.refl (e : Essence) : e.Keeps e := ⟨fun _ _ => rfl, ⟨0, by simp⟩, id⟩

theorem Essence.Keeps.trans {a b c : Essence} (hab : a.Keeps b) (hbc : b.Keeps c) : a.Keeps c := by
  obtain ⟨f, hf⟩ := hab.fuses
  obtain ⟨g, hg⟩ := hbc.fuses
  refine ⟨fun i hi => ?_, ⟨f ||| g, by rw [hg, hf, Nat.or_assoc]⟩, hbc.levels ∘ hab.levels⟩
  have hb := hab.slots i hi
  exact (hbc.slots i (hb ▸ hi)).trans hb

theorem Kept.trans {a b c : State} (hab : Kept a b) (hbc : Kept b c) : Kept a c := Essence.Keeps.trans hab hbc

theorem Apart.kept {s s' : State} (h : Apart s s') : Kept s s' := by
  obtain ⟨hcores, hslots, hfuses, hsign, hverify⟩ := h
  simp [hcores, hslots, hfuses, hsign, hverify]

theorem Kept.foldl {β : Type} {f : State → β → State} {s0 : State} (hf : ∀ s x, Kept s0 s → Kept s0 (f s x)) :
    ∀ (l : List β) {s : State}, Kept s0 s → Kept s0 (l.foldl f s)
  | [], _, h => h
  | x :: l, _, h => Kept.foldl hf l (hf _ x h)

/-- The state of a pair that a function was found to give. -/
theorem Kept.of_fst {β : Type} {s t : State} {r : State × β} {b : β} (h : Kept s r.1) (e : r = (t, b)) : Kept s t := by
  subst e
  exact h

theorem Kept.ite {s a b : State} {c : Prop} [Decidable c] (ha : Kept s a) (hb : Kept s b) : Kept s (if c then a else b) := by
  split
  · exact ha
  · exact hb

/-! ### The cores -/

theorem coreLegal_reset (k : Nat) : CoreLegal k (SCore.reset k) := by
  unfold SCore.reset
  split
  · exact ⟨by decide, fun h => absurd h (by omega)⟩
  · exact ⟨by decide, fun _ => ⟨by decide, by decide⟩⟩

theorem coreLegal_getCore {s : State} (h : LevelInv s) (k : Nat) : CoreLegal k (getCore s k) := ⟨h.legal k, h.tally k⟩

/-- A core is written with registers that it may hold. -/
theorem Kept.setCore {s0 s : State} {k : Nat} {c : SCore} (h : Kept s0 s) (hc : LevelInv s0 → LevelInv s → CoreLegal k c) :
    Kept s0 (setCore s k c) := by
  refine ⟨h.slots, h.fuses, fun hl => ?_⟩
  have hs := h.levels hl
  refine ⟨setCore_rising k c hs.sorted, fun j => ?_, hs.sign, hs.verify⟩
  by_cases hj : j = k
  · subst hj
    have hself := getCore_setCore s j c hs.sorted
    unfold getCore at hself
    rw [hself]
    exact hc ((levelInv_iff s0).2 hl) ((levelInv_iff s).2 hs)
  · have hother := getCore_setCore_ne s k j c hj
    unfold getCore at hother
    rw [hother]
    exact hs.core j

/-- A core is written with its level and its latched interrupts as they were. -/
@[simp] theorem setCore_kept {s0 s : State} {k : Nat} {c : SCore} (h : Kept s0 s) (hc : CoreLegal k (getCore s k) → CoreLegal k c) :
    Kept s0 (setCore s k c) := h.setCore fun _ hs => hc (coreLegal_getCore hs k)

/-! ### The OTP and the pending operations -/

theorem setOtp_kept {s0 s : State} {i : Nat} {x : OtpSlot} (h : Kept s0 s) (hi : getOtp s0 i = blankSlot) : Kept s0 (setOtp s i x) := by
  refine ⟨fun j hj => ?_, h.fuses, fun hl => ?_⟩
  · have hij : j ≠ i := by
      rintro rfl
      exact hj hi
    exact (tblGet_tblSet_ne blankSlot x s.vault.slots hij).trans (h.slots j hj)
  · have hs := h.levels hl
    exact ⟨hs.sorted, hs.core, hs.sign, hs.verify⟩

/-- The pending KSIGN may end. -/
theorem Essence.Keeps.signEnded {e : Essence} {cores : Tbl SCore} {slots : Tbl OtpSlot} {fuses : Nat} {sign verify : Option SigOp}
    (h : e.Keeps ⟨cores, slots, fuses, sign, verify⟩) : e.Keeps ⟨cores, slots, fuses, none, verify⟩ := by
  refine ⟨h.slots, h.fuses, fun hl => ?_⟩
  have hs := h.levels hl
  exact ⟨hs.sorted, hs.core, by simp, hs.verify⟩

/-- The pending KVERIFY may end. -/
theorem Essence.Keeps.verifyEnded {e : Essence} {cores : Tbl SCore} {slots : Tbl OtpSlot} {fuses : Nat} {sign verify : Option SigOp}
    (h : e.Keeps ⟨cores, slots, fuses, sign, verify⟩) : e.Keeps ⟨cores, slots, fuses, sign, none⟩ := by
  refine ⟨h.slots, h.fuses, fun hl => ?_⟩
  have hs := h.levels hl
  exact ⟨hs.sorted, hs.core, hs.sign, by simp⟩

/-! ### Resets of cores and the Boot ROM -/

@[simp] theorem abandonSig_kept {s0 s : State} (h : Kept s0 s) : Kept s0 (abandonSig s) := by
  have hend : (essence s0).Keeps ⟨s.cores, s.vault.slots, s.vault.fuses, none, none⟩ := h.signEnded.verifyEnded
  unfold abandonSig
  dsimp only
  split
  all_goals simpa using hend

@[simp] theorem resetCore_kept {s0 s : State} (h : Kept s0 s) (k : Nat) : Kept s0 (resetCore s k) :=
  h.setCore fun _ _ => coreLegal_reset k

theorem enterSection_kept {s0 s : State} (h : Kept s0 s) {cores : List Nat} (typ : Nat) {pl : BitVec 2} (hpl : pl ≠ 3#2)
    (htally : pl ≠ 2#2 ∨ ∀ k ∈ cores, k < 3) : Kept s0 (enterSection s cores typ pl) := by
  unfold enterSection
  split
  · rename_i i b _
    dsimp only
    clear * - h hpl htally
    induction cores generalizing s with
    | nil => exact h
    | cons k l ih =>
      rw [List.foldl_cons]
      refine ih (setCore_kept h ?_) (htally.imp_right fun hc j hj => hc j (by simp [hj]))
      refine fun hc => ⟨hpl, fun hk => ⟨?_, (hc.2 hk).2⟩⟩
      exact htally.resolve_right fun hc => absurd (hc k (by simp)) (by omega)
  · exact h

@[simp] theorem romControl_kept {s0 s : State} (h : Kept s0 s) : Kept s0 (romControl s) := by
  have hkeys : Apart s (romIdk (romRoot s)) := by simp [Apart]
  unfold romControl
  exact enterSection_kept (h.trans hkeys.kept) 1 (by decide) (.inr (by decide))

@[simp] theorem romTally_kept {s0 s : State} (h : Kept s0 s) : Kept s0 (romTally s) := by
  have hall : Kept s0 (enterSection s [3, 4, 5, 6] 2 1#2) := enterSection_kept h 2 (by decide) (.inl (by decide))
  unfold romTally
  split
  · simpa using hall
  · exact h

@[simp] theorem bootRomRun_kept {s0 s : State} (h : Kept s0 s) : Kept s0 (bootRomRun s) := by
  have hrun := romTally_kept (romControl_kept h)
  simpa [bootRomRun] using hrun

@[simp] theorem triadFault_kept {s0 s : State} (h : Kept s0 s) (cause : Nat) : Kept s0 (triadFault s cause) := by
  unfold triadFault
  dsimp only
  split
  · exact h
  · simp [h]

/-! ### Reset sources -/

theorem essence_resetAll (s : State) (reach : Nat) : essence (resetAll s reach) = ⟨[], s.vault.slots, s.vault.fuses, none, none⟩ := by
  simp [resetAll, State.reset, Vault.reset]

@[simp] theorem resetAll_kept {s0 s : State} (h : Kept s0 s) (reach : Nat) : Kept s0 (resetAll s reach) := by
  unfold Kept
  rw [essence_resetAll]
  refine ⟨h.slots, h.fuses, fun _ => ⟨?_, coreLegal_reset, by simp, by simp⟩⟩
  exact List.Pairwise.nil

@[simp] theorem assertReset_kept {s0 s : State} (h : Kept s0 s) (i : Nat) : Kept s0 (assertReset s i) := by
  unfold assertReset
  simp only [resetAll_kept h]

@[simp] theorem raiseReset_kept {s0 s : State} (h : Kept s0 s) (i : Nat) : Kept s0 (raiseReset s i) := by
  unfold raiseReset
  repeat' split
  all_goals simp [h]

@[simp] theorem wakeDormant_kept {s0 s : State} (h : Kept s0 s) : Kept s0 (wakeDormant s) := by
  simp [wakeDormant, h]

@[simp] theorem wake_kept {s0 s : State} (h : Kept s0 s) (code detail : Nat) : Kept s0 (wake s code detail) := by
  unfold wake
  dsimp only
  repeat' split
  all_goals simp [h]

theorem resetCores_kept {s0 s : State} (h : Kept s0 s) (l : List Nat) : Kept s0 (l.foldl resetCore s) :=
  Kept.foldl (fun _ k h => resetCore_kept h k) l h

@[simp] theorem controlReset_kept {s0 s : State} (h : Kept s0 s) (i : Nat) : Kept s0 (controlReset s i) := by
  have hended : Kept s0 (abandonSig { s with gate := { s.gate with group := none } }) := by simp [h]
  unfold controlReset
  dsimp only
  repeat' split
  all_goals simp [hended, resetCores_kept, -List.foldl_cons]

@[simp] theorem managementReset_kept {s0 s : State} (h : Kept s0 s) : Kept s0 (managementReset s) := by
  unfold managementReset
  dsimp only
  split
  all_goals simp [h, -List.foldl_cons, resetCores_kept]

@[simp] theorem managementSource_kept {s0 s : State} (h : Kept s0 s) (i : Nat) : Kept s0 (managementSource s i) := by
  simp [managementSource, h]

/-! ### Traps and interrupts -/

theorem coreLegal_enterS {k : Nat} {c : SCore} (h : CoreLegal k c) (intr : Bool) (code : Nat) (tval epc : Word) :
    CoreLegal k (enterS c intr code tval epc) := ⟨by simp [enterS], fun hk => ⟨by simp [enterS], (h.2 hk).2⟩⟩

theorem coreLegal_enterV {k : Nat} (hk : k < 3) (c : SCore) (intr : Bool) (code : Nat) (tval epc : Word) :
    CoreLegal k (enterV c intr code tval epc) := ⟨by simp [enterV], fun h => absurd h (by omega)⟩

theorem coreLegal_exception {k code : Nat} {c : SCore} (h : CoreLegal k c) (hcode : code = cTRAPV → k < 3) (tval epc : Word) :
    CoreLegal k (exception k c code tval epc) := by
  have hvault : code = cTRAPV ∨ c.pl = 2#2 → k < 3 := by
    rintro (hc | hc)
    · exact hcode hc
    · by_contra hk
      exact (h.2 (by omega)).1 hc
  unfold exception
  split
  · rename_i hv
    split
    · exact h
    · exact coreLegal_enterV (hvault hv) ..
  · split
    · split
      · exact coreLegal_enterV (by assumption) ..
      · exact h
    · exact coreLegal_enterS h ..

theorem takeException_kept {s0 s : State} (h : Kept s0 s) {k code : Nat} (hcode : LevelInv s0 → code = cTRAPV → k < 3) (tval epc : Word) :
    Kept s0 (takeException s k code tval epc) := by
  have hset : Kept s0 (setCore s k (exception k (getCore s k) code tval epc)) :=
    h.setCore fun h0 hs => coreLegal_exception (coreLegal_getCore hs k) (hcode h0) tval epc
  unfold takeException
  dsimp only
  split
  all_goals simpa using hset

/-- VAULT_DONE is due to a core that has it latched, which no Tally core has. -/
theorem lt_of_irqChoice_vault {s : State} {k : Nat} (hc : CoreLegal k (getCore s k)) (h : irqChoice s k = some 5) : k < 3 := by
  have helig : irqEligible s k 5 = true := by
    unfold irqChoice at h
    split at h
    · assumption
    · exact List.find?_some h
  have hlatched : (getCore s k).latched.getLsbD 5 = true := by
    unfold irqEligible at helig
    exact (Bool.and_eq_true_iff.1 (Bool.and_eq_true_iff.1 helig).1).1
  by_contra hk
  exact Bool.false_ne_true ((hc.2 (by omega)).2.symm.trans hlatched)

theorem coreLegal_latched {k : Nat} {c : SCore} (h : CoreLegal k c) (m : BitVec 8) : CoreLegal k { c with latched := c.latched &&& m } :=
  ⟨h.1, fun hk => ⟨(h.2 hk).1, by rw [BitVec.getLsbD_and, (h.2 hk).2, Bool.false_and]⟩⟩

theorem takeIrq_kept {s0 s : State} (h : Kept s0 s) {k c : Nat} (hc : irqChoice s k = some c) : Kept s0 (takeIrq s k c) := by
  have hentry (hl : CoreLegal k (getCore s k)) : CoreLegal k (if c = 5 then enterV (getCore s k) true c (irqTval s k c) (getCore s k).pc
      else enterS (getCore s k) true c (irqTval s k c) (getCore s k).pc) := by
    split
    · rename_i h5
      exact coreLegal_enterV (lt_of_irqChoice_vault hl (h5 ▸ hc)) ..
    · exact coreLegal_enterS hl ..
  have hmasked (x : SCore) (hx : CoreLegal k x) : CoreLegal k
      { x with latched := if c = 1 ∨ c = 5 ∨ c = 6 then x.latched &&& ~~~(1#8 <<< c) else x.latched } := by
    split
    · exact coreLegal_latched hx _
    · exact hx
  unfold takeIrq
  exact setCore_kept h fun hl => hmasked _ (hentry hl)

theorem levelOf_legal {k : Nat} {now : BitVec 2} (hnow : now ≠ 3#2 ∧ (3 ≤ k → now ≠ 2#2)) (ppl : BitVec 2) :
    levelOf k now ppl ≠ 3#2 ∧ (3 ≤ k → levelOf k now ppl ≠ 2#2) := by
  unfold levelOf
  split
  · exact hnow
  · rename_i h
    obtain ⟨h3, h2⟩ := not_or.1 h
    exact ⟨h3, fun hk h => h2 ⟨h, hk⟩⟩

theorem coreLegal_trapReturn {k : Nat} {c : SCore} (h : CoreLegal k c) : CoreLegal k (trapReturn k c) := by
  have hlevel := levelOf_legal (k := k) (now := c.pl) ⟨h.1, fun hk => (h.2 hk).1⟩
  unfold trapReturn
  split
  · exact ⟨(hlevel _).1, fun hk => ⟨(hlevel _).2 hk, (h.2 hk).2⟩⟩
  · exact ⟨(hlevel _).1, fun hk => ⟨(hlevel _).2 hk, (h.2 hk).2⟩⟩

/-! ### Votes -/

@[simp] theorem vote_kept {α : Type} [DecidableEq α] {s0 s : State} (h : Kept s0 s) (copies : List (Nat × Option α)) :
    Kept s0 (vote s copies).1 := by
  unfold vote
  repeat' split
  all_goals simp [h]

@[simp] theorem voteAll_kept {α : Type} [DecidableEq α] {s0 s : State} (h : Kept s0 s) (voted : Bool) (copies : List (Nat × Option α)) :
    Kept s0 (voteAll s voted copies).1 := by
  unfold voteAll
  repeat' split
  all_goals simp [h]

/-! ### The issue of a core -/

/-- What an instruction leaves in a core that it legally entered is legal. -/
def ResLegal (k : Nat) : CRes → Prop
  | .fall c => CoreLegal k c
  | .jump c _ => CoreLegal k c
  | .trap code _ => code ≠ cTRAPV
  | .service code _ => code = cTRAPV → k < 3
  | .ask _ fin => ∀ c l, CoreLegal k c → CoreLegal k (fin c l)

def RunLegal (run : State → Nat → SCore → CRes) : Prop := ∀ s k c, CoreLegal k c → ResLegal k (run s k c)

theorem ResLegal.ite {k : Nat} {a b : CRes} {c : Prop} [Decidable c] (ha : ResLegal k a) (hb : ResLegal k b) :
    ResLegal k (if c then a else b) := by
  split
  · exact ha
  · exact hb

theorem resLegal_trap (k : Nat) {code : Nat} (h : code ≠ cTRAPV) (tval : Word) : ResLegal k (.trap code tval) := h

theorem coreIssue_legal {run : State → Nat → SCore → CRes} (hrun : RunLegal run) {s : State} (hs : LevelInv s) (k : Nat) (w : BitVec 32)
    (y : Option (BitVec 32)) : ResLegal k (coreIssue s k w y run) := by
  have hc := coreLegal_getCore hs k
  unfold coreIssue
  exact .ite (resLegal_trap k (by decide) _) (.ite (resLegal_trap k (by decide) _) (.ite (hrun s k _ hc) hc))

theorem retire_kept {s0 s : State} (h : Kept s0 s) {k : Nat} {c : SCore} (pc : Word) (hc : LevelInv s0 → LevelInv s → CoreLegal k c) :
    Kept s0 (retire s k c pc) := h.setCore hc

theorem coreLocal_kept {s0 s : State} (h : Kept s0 s) (n : Nat) {e : Nat × CRes} (he : LevelInv s0 → ResLegal e.1 e.2) :
    Kept s0 (coreLocal n s e) := by
  obtain ⟨k, r⟩ := e
  unfold coreLocal
  cases r with
  | fall c => exact retire_kept h _ fun h0 _ => he h0
  | jump c a => exact retire_kept h _ fun h0 _ => he h0
  | trap code tval => exact takeException_kept h (fun h0 hc => absurd hc (he h0)) ..
  | service code tval => exact takeException_kept h he ..
  | ask q fin => exact h

theorem coreAnswer_kept {s0 s : State} (h : Kept s0 s) (n : Nat) (l : List Nat) {e : Nat × CRes} (he : LevelInv s0 → ResLegal e.1 e.2) :
    Kept s0 (coreAnswer n l s e) := by
  obtain ⟨k, r⟩ := e
  unfold coreAnswer
  cases r with
  | ask q fin => exact retire_kept h _ fun h0 hs => he h0 _ l (coreLegal_getCore hs k)
  | fall c => exact h
  | jump c a => exact h
  | trap code tval => exact h
  | service code tval => exact h

/-- A core instruction keeps what its request keeps. -/
theorem coreStep_kept (who : Agent) (w : BitVec 32) (y : Option (BitVec 32)) {run : State → Nat → SCore → CRes}
    {perform : State → Nat → Req → State × Reply} (hrun : RunLegal run) (hperform : ∀ s m q, Kept s (perform s m q).1) (s : State) :
    Kept s (coreStep who w y run perform s) := by
  have hfold {f : State → Nat × CRes → State} (hf : ∀ t e, Kept s t → (LevelInv s → ResLegal e.1 e.2) → Kept s (f t e)) (l : List Nat) (t : State)
      (ht : Kept s t) : Kept s ((l.map (fun k => (k, coreIssue s k w y run))).foldl f t) := by
    induction l generalizing t with
    | nil => exact ht
    | cons k l ih => exact ih _ (hf t _ ht fun hs => coreIssue_legal hrun hs k w y)
  have hlocal := hfold (fun t e ht he => coreLocal_kept ht (if y.isSome then 8 else 4) he)
    ((agentCores s who).filter (fun k => !coreIdle s k)) s (.refl _)
  unfold coreStep
  dsimp only
  split
  · exact voteAll_kept hlocal ..
  · rename_i q _
    split
    · rename_i t hp
      exact (voteAll_kept hlocal ..).trans (Kept.of_fst (hperform _ _ q) hp)
    · rename_i t l hp
      exact hfold (fun t e ht he => coreAnswer_kept ht _ l he) _ t ((voteAll_kept hlocal ..).trans (Kept.of_fst (hperform _ _ q) hp))

end Sys2Proof.Machine
end

section
/-! PROOFS. What the Triad, the Gatehouse, the Vault and the boundary of a tick keep of the levels and of the OTP. -/

namespace Sys2Proof.Machine

/-! ### Plane X instructions -/

theorem coreLegal_planeFin {k : Nat} (f : FmtX) {c : SCore} (l : List Nat) (h : CoreLegal k c) : CoreLegal k (planeFin f c l) := by
  unfold planeFin
  dsimp only
  split
  · split <;> exact h
  · exact h

theorem planeX_kept {who : Agent} (hwho : ∀ t, who ≠ .thread t) (w y : BitVec 32) (f : FmtX) (level : Nat)
    (image : State → Nat → SCore → Nat → Nat → Except Nat (List Byte)) {run : State → Nat → Nat → Nat → List Byte → State × PlaneRes}
    (hrun : ∀ s m a b img, m < 3 → Kept s (run s m a b img).1) (s : State) : Kept s (planeX who w y f level image run s) := by
  unfold planeX
  split
  · exact absurd rfl (hwho _)
  · refine coreStep_kept who w (some y) (fun s k c hc => ?_) (fun s m q => ?_) s
    · dsimp only
      refine .ite (resLegal_trap k (by decide) _) (.ite (fun _ _ h => h) ?_)
      split
      · exact fun c l h => coreLegal_planeFin f l h
      · exact resLegal_trap k (by decide) _
    · dsimp only
      split
      · split
        · exact (violate_apart ..).kept
        · rename_i a b _ img hm
          have hdone := hrun s m a.toNat b.toNat img (by omega)
          split <;> exact hdone
      · exact .refl _

theorem vaultX_kept {who : Agent} (hwho : ∀ t, who ≠ .thread t) (unit level : Nat) (desc : BitVec 32) (f : FmtX)
    (image : State → Nat → SCore → Nat → Nat → Except Nat (List Byte)) {run : State → Nat → Nat → Nat → List Byte → State × PlaneRes}
    (hrun : ∀ s m a b img, m < 3 → Kept s (run s m a b img).1) (s : State) : Kept s (vaultX who unit level desc f image run s) :=
  planeX_kept hwho _ _ _ _ _ hrun s

theorem thawMaster_kept (s : State) (a : Nat) : Kept s (thawMaster s a).1 := by
  have hheld (t : State) (k : Nat) (tval epc : Word) (ht : Apart s t) : Kept s (takeException t k cACCESS tval epc) :=
    takeException_kept ht.kept (fun _ h => absurd h (by decide)) tval epc
  unfold thawMaster
  dsimp only
  split
  · exact .refl _
  · split
    · split <;> simp
    · split
      · exact .refl _
      · split
        · exact hheld _ _ _ _ (by simp [Apart])
        · simp

/-! ### The OTP and the lifecycle (R460, R462) -/

theorem slot_blank_of_state {s : State} {i : Nat} (h : slotState s i = 0) : getOtp s i = blankSlot := by
  unfold slotState at h
  dsimp only at h
  split at h
  · assumption
  · split at h <;> omega

/-- The slots behind the last one written are blank. -/
theorem nextSlot_blank {s : State} (h : nextSlot s < 64) : getOtp s (nextSlot s) = blankSlot := by
  refine slot_blank_of_state ?_
  by_contra hstate
  have hmem : nextSlot s ∈ (List.range 64).filter (fun i => slotState s i != 0) := by simp [h, hstate]
  have hsorted : ((List.range 64).filter (fun i => slotState s i != 0)).Pairwise (· ≤ ·) := List.Pairwise.filter _ List.pairwise_le_range
  unfold nextSlot at hmem
  split at hmem
  · rename_i i hi
    have hle := hsorted.rel_getLast hmem
    rw [List.getLast_eq_iff_getLast?_eq_some (List.ne_nil_of_mem hmem) |>.2 hi] at hle
    omega
  · rename_i hnone
    simp [List.getLast?_eq_none_iff.1 hnone] at hmem

theorem otpWrite_kept (s : State) (role v : Nat) (vbatA vbatB good : Bool) (cut : Option Bool) :
    Kept s (otpWrite s role v vbatA vbatB good cut).1 := by
  unfold otpWrite
  dsimp only
  split
  · exact .refl _
  · split
    · exact .refl _
    · rename_i hfree
      have hblank := nextSlot_blank (Nat.lt_of_not_le hfree)
      have hfirst (x : OtpSlot) : Kept s (setOtp s (nextSlot s) x) := setOtp_kept (.refl _) hblank
      have hsecond (x y : OtpSlot) : Kept s (setOtp (drawFree (setOtp s (nextSlot s) x)).2 (nextSlot s) y) :=
        setOtp_kept ((hfirst x).trans (drawFree_apart _).kept) hblank
      split
      · exact (drawFree_apart s).kept
      · split
        · exact hfirst _
        · split
          · exact hfirst _
          · repeat' split
            all_goals exact hsecond _ _

theorem moveLifecycle_kept (s : State) (t : Nat) (vbat : Bool) : Kept s (moveLifecycle s t vbat).1 := by
  have hfuse (f : Nat) : Kept s { s with vault := { s.vault with fuses := s.vault.fuses ||| f } } :=
    ⟨fun _ _ => rfl, ⟨f, rfl⟩, fun h => ⟨h.sorted, h.core, h.sign, h.verify⟩⟩
  unfold moveLifecycle
  dsimp only
  repeat' split
  all_goals simp [hfuse, vaultViolation, openStatus]

/-! ### KSIGN and KVERIFY -/

theorem ksign_kept (s : State) {k : Nat} (hk : k < 3) (a : Nat) (img : List Byte) : Kept s (ksign s k a img).1 := by
  have hput (x : Nat) : Kept s { s with vault := { s.vault with sign := some (sigOf a k img x) } } :=
    ⟨fun _ _ => rfl, ⟨0, by simp⟩, fun h => ⟨h.sorted, h.core, by simp [sigOf, hk], h.verify⟩⟩
  unfold ksign
  dsimp only
  repeat' split
  all_goals simp [hput]

theorem kverify_kept (s : State) {k : Nat} (hk : k < 3) (a : Nat) (img : List Byte) : Kept s (kverify s k a img).1 := by
  have hput : Kept s { s with vault := { s.vault with verify := some (sigOf a k img 0) } } :=
    ⟨fun _ _ => rfl, ⟨0, by simp⟩, fun h => ⟨h.sorted, h.core, h.sign, by simp [sigOf, hk]⟩⟩
  unfold kverify
  dsimp only
  repeat' split
  all_goals simp [hput]

@[simp] theorem vaultRead_kept {s0 s : State} (h : Kept s0 s) (k : Nat) (l : List (Nat × Nat)) : Kept s0 (vaultRead s k l).1 :=
  voteAll_kept h ..

@[simp] theorem vaultWrite_kept {s0 s : State} (h : Kept s0 s) (k a : Nat) (b : List Byte) : Kept s0 (vaultWrite s k a b) := by
  unfold vaultWrite
  refine Kept.foldl (fun _ _ h => setCore_kept h ?_) _ h
  exact id

theorem mem_vaultCores_lt {s : State} {k i : Nat} (hk : k < 3) (hi : i ∈ vaultCores s k) : i < 3 := by
  unfold vaultCores at hi
  split at hi <;> simp at hi <;> omega

theorem sigDone_kept {s0 s : State} (h : Kept s0 s) {op : SigOp} (hop : LevelInv s0 → op.agent < 3) (status detail : Nat) :
    Kept s0 (sigDone s op status detail) := by
  have hraise (t : State) (l : List Nat) (ht : Kept s0 t) (hl : LevelInv s0 → ∀ i ∈ l, i < 3) : Kept s0 (l.foldl (fun s i =>
      setCore s i { getCore s i with latched := (getCore s i).latched ||| 0x20#8 }) t) := by
    induction l generalizing t with
    | nil => exact ht
    | cons i l ih =>
      refine ih _ (ht.setCore fun h0 hs => ⟨(coreLegal_getCore hs i).1, fun hi => ?_⟩) fun h0 j hj => hl h0 j (List.mem_cons_of_mem _ hj)
      exact absurd (hl h0 i List.mem_cons_self) (by omega)
  unfold sigDone
  exact hraise _ _ (vaultWrite_kept h ..) fun h0 _ hi => mem_vaultCores_lt (hop h0) hi

theorem ksignComplete_kept {s : State} {op : SigOp} (h : s.vault.sign = some op) : Kept s (ksignComplete s op) := by
  have hop (h0 : LevelInv s) : op.agent < 3 := h0.sign op h
  have hend : Kept s { s with vault := { s.vault with sign := none } } := (Essence.Keeps.refl (essence s)).signEnded
  have hattest (b : List Byte) (c : Prop) [Decidable c] (t : State) (ht : Kept s t) :
      Kept s (drawFree (if c then vaultWrite t op.agent op.msgEa b else t)).2 :=
    (Kept.ite (vaultWrite_kept ht ..) ht).trans (drawFree_apart _).kept
  have hafter (t : State) (ht : Kept s t) : Kept s (if (remaskAfter t).vault.clearAfter then
      clearRootKeys { remaskAfter t with vault := { (remaskAfter t).vault with clearAfter := false } } else remaskAfter t) := by
    split
    all_goals simpa using ht
  unfold ksignComplete
  refine hafter _ ?_
  split
  · exact sigDone_kept hend hop ..
  · dsimp only
    split
    · rename_i t msg hv
      exact sigDone_kept (vaultWrite_kept ((vaultRead_kept (hattest _ _ _ hend) ..).of_fst hv) ..) hop ..
    · rename_i t hv
      exact (vaultRead_kept (hattest _ _ _ hend) ..).of_fst hv

theorem kverifyComplete_kept {s : State} {op : SigOp} (h : s.vault.verify = some op) : Kept s (kverifyComplete s op) := by
  have hop (h0 : LevelInv s) : op.agent < 3 := h0.verify op h
  have hend : Kept s { s with vault := { s.vault with verify := none } } := (Essence.Keeps.refl (essence s)).verifyEnded
  have hread (l : List (Nat × Nat)) := vaultRead_kept hend op.agent l
  unfold kverifyComplete
  dsimp only
  split
  · rename_i t hv
    exact (hread _).of_fst hv
  · rename_i t b hv
    split
    all_goals exact sigDone_kept ((hread _).of_fst hv) hop ..

/-! ### The Triad -/

@[simp] theorem voterIssue_kept {s : State} (who : Reader) {f : State → State} (hf : Kept s (f s)) : Kept s (voterIssue s who f) :=
  Kept.ite (triadFault_kept (.refl _) 4) hf

@[simp] theorem triadIssued_kept {s : State} {f : State → State} (hf : Kept s (f s)) : Kept s (triadIssued s f) := by
  unfold triadIssued
  split
  · exact voterIssue_kept _ hf
  · exact .refl _

theorem coresAccess_kept (s : State) (who : Reader) {trap : Nat → SCore → Option Nat} (htrap : ∀ k c code, trap k c = some code → code ≠ cTRAPV)
    (tval : Word) {f : State → State} (hf : ∀ s, Kept s (f s)) : Kept s (coresAccess s who trap tval f) := by
  have htraps (l : List Nat) : Kept s (l.foldl (fun s k => match trap k (getCore s k) with
      | some code => takeException s k code tval (getCore s k).pc
      | none => s) s) := by
    refine Kept.foldl (fun t k ht => ?_) l (.refl _)
    split
    · rename_i code hcode
      exact takeException_kept ht (fun _ h => absurd h (htrap _ _ _ hcode)) ..
    · exact ht
  unfold coresAccess
  dsimp only
  split
  · rename_i t _ hv
    exact ((voteAll_kept (htraps _) ..).of_fst hv).trans (hf t)
  · rename_i t hv
    exact (voteAll_kept (htraps _) ..).of_fst hv

@[simp] theorem hashOdd_kept (s : State) (i : Nat) : Kept s (hashOdd s i) := by
  unfold hashOdd
  repeat' split
  all_goals simp

@[simp] theorem hashOutcome_kept (s : State) : Kept s (hashOutcome s) := by
  unfold hashOutcome
  dsimp only
  repeat' split
  all_goals simp

theorem hashCompare_kept (s : State) : Kept s (hashCompare s) := by
  have hout := hashOutcome_kept s
  unfold hashCompare
  dsimp only
  repeat' split
  all_goals simp [hout]

theorem copyPages_level (src : SCore) : ∀ (l : List Nat) (d : SCore), (l.foldl (copyPage src) d).pl = d.pl
  | [], _ => rfl
  | n :: l, d => copyPages_level src l (copyPage src d n)

theorem reload_kept (s : State) {i : Nat} (hi : i < 3) (j : Nat) : Kept s (reload s i j) := by
  have hset (l : List Nat) : Kept s (setCore s i (l.foldl (copyPage (getCore s j)) { getCore s j with lmem := (getCore s i).lmem })) := by
    refine (Kept.setCore (.refl _)) fun h0 _ => ⟨?_, fun h => absurd h (by omega)⟩
    rw [copyPages_level]
    exact h0.legal j
  unfold reload
  dsimp only
  split
  · simpa using hset _
  · simpa using hset _

theorem coreReload_kept (s : State) (i : Fin 3) : Kept s (coreReload s i) := by
  unfold coreReload
  repeat' split
  · exact .refl _
  · exact reload_kept s i.isLt _
  · exact .refl _

theorem voteWindow_kept (s : State) (i : Nat) : Kept s (voteWindow s i) := by
  unfold voteWindow
  repeat' split
  all_goals simp

/-! ### The Gatehouse -/

@[simp] theorem applySysReset_kept {s0 s : State} (h : Kept s0 s) (reach : Nat) : Kept s0 (applySysReset s reach) := by
  unfold applySysReset
  split
  all_goals simp [h]

@[simp] theorem applyGate_kept {s0 s : State} (h : Kept s0 s) (o : Obj) : Kept s0 (applyGate s o) := by
  have hpins (l : List Nat) : Apart s (holdUpdateAll (l.foldl (fun s i => applyGpio s (im32 o.img (4 + 4 * i))) s)) :=
    (Apart.foldl (fun s i => applyGpio_apart ..) _ _).trans (holdUpdateAll_apart _)
  unfold applyGate
  dsimp only
  split
  case h_6 => exact h.trans (hpins _).kept
  all_goals simp [h]

@[simp] theorem enterDormant_kept {s0 s : State} (h : Kept s0 s) : Kept s0 (enterDormant s) := by
  unfold enterDormant
  simp only [resetAll_kept h]

@[simp] theorem romCheck_kept {s0 s : State} (h : Kept s0 s) : Kept s0 (romCheck s) := by
  unfold romCheck
  dsimp only
  repeat' split
  all_goals simp [h]

theorem bootHeader_kept (s : State) (header : List Byte) (sections : List (List Byte)) : Kept s (bootHeader s header sections) := by
  unfold bootHeader
  refine romCheck_kept (Apart.kept (Apart.ite (Apart.trans ?_ (applyPreset_apart ..)) ?_))
  · exact ⟨rfl, rfl, rfl, rfl, rfl⟩
  · exact ⟨rfl, rfl, rfl, rfl, rfl⟩

theorem hostComplete_kept (s : State) : Kept s (hostComplete s) := by
  unfold hostComplete
  dsimp only
  repeat' split
  all_goals simp

/-! ### The boundary of a tick -/

@[simp] theorem applyObj_kept {s0 : State} {c : ApplyCtx} (h : Kept s0 c.s) (o : Obj) : Kept s0 (applyObj c o).s := by
  unfold applyObj
  dsimp only
  repeat' split
  all_goals simp [h]

theorem applyObjs_kept {s0 : State} : ∀ (l : List Obj) {c : ApplyCtx}, Kept s0 c.s → Kept s0 (applyObjs l c).s
  | [], _, h => h
  | o :: l, c, h => by
    unfold applyObjs
    split
    · exact h
    · exact applyObjs_kept l (applyObj_kept h o)

theorem applyCommit_kept {s0 s : State} (h : Kept s0 s) (c : Commit) : Kept s0 (applyCommit s c).1 := by
  have hobjs : Kept s0 (applyObjs c.objs { s := c.moves.foldl (poolMoves true) { s with gate := { s.gate with
      committed := s.gate.committed.filter (fun x => x.num != c.num) } }, frames := c.frames, sas := c.sas, epoch := none }).s :=
    applyObjs_kept c.objs (h.trans (Apart.kept (by simp [Apart])))
  unfold applyCommit
  dsimp only
  split
  · exact hobjs
  · simpa using hobjs

theorem applyCommits_kept {s0 : State} : ∀ (l : List Commit) {s : State}, Kept s0 s → ∀ e, Kept s0 (applyCommits l s e).1
  | [], _, h, _ => h
  | c :: l, s, h, e => by
    unfold applyCommits
    split
    · exact h
    · exact applyCommits_kept l (applyCommit_kept h c) _

theorem coreLegal_raise {k : Nat} {c : SCore} (h : CoreLegal k c) {m : BitVec 8} (hm : m.getLsbD 5 = false) :
    CoreLegal k { c with latched := c.latched ||| m } :=
  ⟨h.1, fun hk => ⟨(h.2 hk).1, by rw [BitVec.getLsbD_or, (h.2 hk).2, hm, Bool.false_or]⟩⟩

theorem step1_kept {s0 s : State} (h : Kept s0 s) : Kept s0 (step1 s) := by
  have hready (t : State) (n : Nat) (ht : Kept s0 t) : Kept s0 (fireMsix ([3, 4, 5, 6].foldl (fun s k =>
      setCore s k { getCore s k with latched := (getCore s k).latched ||| 0x40#8, wbTick := n }) t) 0) := by
    refine (Kept.foldl (fun u k hu => setCore_kept hu ?_) _ ht).trans (fireMsix_data ..).apart.kept
    exact fun hc => coreLegal_raise hc (by decide)
  have hsnap (t : State) (n : Nat) (ht : Apart s t) := hready t n (h.trans ht.kept)
  unfold step1
  dsimp only
  split
  · refine hsnap _ _ ?_
    simp [Apart]
  · refine (hsnap _ _ ?_).trans (fireMsix_data ..).apart.kept
    simp [Apart]

theorem step2_kept {s0 s : State} (h : Kept s0 s) (l : List Commit) : Kept s0 (step2 s l) := by
  have hswap (t : State) (ht : Kept s0 t) (e : Option Obj) : Kept s0 (swapRules t e) := ht.trans (swapRules_apart ..).kept
  unfold step2
  dsimp only
  split
  · have hl := applyCommits_kept l h none
    split
    · exact hl
    · exact hswap _ (hl.trans (pairStep2_apart _).kept) _
  · have hl := applyCommits_kept l (h.trans (pairStep2_apart s).kept) none
    split
    · exact hl
    · exact hswap _ hl _

theorem step7_kept {s0 s : State} (h : Kept s0 s) : Kept s0 (step7 s) := by
  have htick (t : State) (ht : Kept s0 t) : Kept s0 ([0, 1, 2].foldl (fun s k =>
      setCore s k { getCore s k with latched := (getCore s k).latched ||| 0x02#8 }) t) := by
    refine Kept.foldl (fun u k hu => setCore_kept hu ?_) _ ht
    exact fun hc => coreLegal_raise hc (by decide)
  have hcount (c : Prop) [Decidable c] : Kept s0 (if c then { s with fence := { s.fence with noTick := s.fence.noTick + 1 } } else s) :=
    Kept.ite h h
  unfold step7
  exact Kept.ite (hcount _) (htick _ (hcount _))

theorem boundary_kept (s : State) : Kept s (boundary s) := by
  unfold boundary
  split
  · exact .refl _
  · rename_i n m _
    have happlied := step2_kept ((step1_kept (instant_apart s n m).kept).trans (triadInstant_apart _).kept)
      (dueCommits ((s.bench.tickCount + 1) % 2 ^ 64) s.gate.committed)
    dsimp only
    split
    · exact happlied
    · refine step7_kept (happlied.trans (Apart.kept ?_))
      simp [Apart]

theorem boundaryIf_kept (c : Bool) (s : State) : Kept s (boundaryIf c s) := Kept.ite (boundary_kept s) (.refl _)

end Sys2Proof.Machine
end

section
/-! PROOFS. The invariants of every step: written OTP slots and lifecycle steps stay, and the levels of the cores stay legal. -/

namespace Sys2Proof.Machine

/-! ### Instructions of the cores -/

section
variable {who : Agent} (hwho : ∀ t, who ≠ .thread t)
include hwho

theorem regsOp_kept (w : BitVec 32) (f : Regs → Regs) (s : State) : Kept s (regsOp who w f s) := by
  unfold regsOp
  split
  · exact absurd rfl (hwho _)
  · refine coreStep_kept who w none (fun s k c hc => ?_) (fun s _ _ => .refl _) s
    exact hc

theorem systemOp_kept (w : BitVec 32) {run : State → Nat → SCore → CRes} (hrun : RunLegal run) (s : State) : Kept s (systemOp who w run s) := by
  unfold systemOp
  split
  · exact absurd rfl (hwho _)
  · exact coreStep_kept who w none hrun (fun s _ _ => .refl _) s

theorem packetX_kept (w y : BitVec 32) (run : Nat → State → Thread → Packet → TRes) (s : State) : Kept s (packetX who w y run s) := by
  unfold packetX
  split
  · exact absurd rfl (hwho _)
  · refine coreStep_kept who w (some y) (fun s k c hc => ?_) (fun s _ _ => .refl _) s
    exact hc

end

theorem coreLegal_csrWrite {k : Nat} {c : SCore} (h : CoreLegal k c) (n : Nat) (v : Word) : CoreLegal k (csrWrite n v c) := by
  unfold csrWrite
  split
  case h_15 => split <;> exact h
  all_goals exact h

theorem csrAccess_legal (w : BitVec 32) (f : FmtI) (ret wr : Bool) (new : Word → Word → Word) : RunLegal (csrAccess w f ret wr new) := by
  intro s k c hc
  have hwritten : CoreLegal k (if wr then csrWrite f.imm.toNat (new (csrRead s k f.imm.toNat c) (rget c.regs f.a.toNat)) c else c) := by
    split
    · exact coreLegal_csrWrite hc ..
    · exact hc
  unfold csrAccess
  refine .ite (resLegal_trap k (by decide) _) (.ite (resLegal_trap k (by decide) _) ?_)
  show CoreLegal k (ite _ _ _)
  split
  · exact hwritten
  · exact hwritten

theorem accessTrap_code {k : Nat} {c : SCore} {ea : Word} {n bit : Nat} {amo : Bool} {code : Nat} (h : accessTrap k c ea n bit amo = some code) :
    code ≠ cTRAPV := by
  unfold accessTrap at h
  dsimp only at h
  repeat' split at h
  all_goals simp at h
  all_goals subst h; decide

theorem coreLoad_legal (f : FmtI) (n : Nat) (conv : Nat → Word) : RunLegal (fun _ k c => coreLoad f n conv k c) := by
  intro s k c hc
  unfold coreLoad
  dsimp only
  split
  · rename_i h
    exact resLegal_trap k (accessTrap_code h) _
  · exact .ite hc fun _ _ h => h

theorem coreStore_legal (f : FmtI) (n : Nat) : RunLegal (fun _ k c => coreStore f n k c) := by
  intro s k c hc
  unfold coreStore
  dsimp only
  split
  · rename_i h
    exact resLegal_trap k (accessTrap_code h) _
  · exact .ite hc fun _ _ h => h

theorem coreAmo_legal (f : FmtA) : RunLegal (fun _ k c => coreAmo f k c) := by
  intro s k c hc
  unfold coreAmo
  dsimp only
  split
  · rename_i h
    exact resLegal_trap k (accessTrap_code h) _
  · exact .ite (resLegal_trap k (by decide) _) fun _ _ h => h

theorem jumpTo_legal {k : Nat} {c : SCore} (h : CoreLegal k c) (a : Word) : ResLegal k (jumpTo c a) :=
  .ite h (resLegal_trap k (by decide) _)

theorem trap_legal (f : FmtI) (w : BitVec 32) : RunLegal (fun _ k _ => if f.imm.getLsbD 9 then (if k ≥ 3 then .trap cILLEGAL (w.zeroExtend 64)
    else .service cTRAPV (BitVec.ofNat 64 (f.imm.toNat % 512))) else .service cTRAPS (BitVec.ofNat 64 (f.imm.toNat % 512))) := by
  intro s k c _
  dsimp only
  repeat' split
  · exact resLegal_trap k (by decide) _
  · exact fun _ => by omega
  · exact fun h => absurd h (by decide)

theorem fall_legal : RunLegal (fun _ _ c => .fall c) := fun _ _ _ h => h

theorem mapAccess_kept (s : State) (m : Nat) (q : Req) : Kept s (mapAccess s m q).1 := (mapAccess_apart s m q).kept

theorem kloadOtpWrite_kept (who : Agent) (f : FmtX) (vbatA vbatB good : Bool) (cut : Option Bool) {s s' : State}
    (h : exec (.kloadOtpWrite who f vbatA vbatB good cut) s = .next s') : Kept s s' := by
  cases h
  by_cases hwho : ∃ t, who = .thread t
  · obtain ⟨t, rfl⟩ := hwho
    exact (planeX_data ..).apart.kept
  · refine vaultX_kept (not_exists.1 hwho) _ _ _ _ _ (fun s m a b img _ => ?_) s
    split
    · exact otpWrite_kept ..
    · exact .refl _

/-- A core's instruction, whatever it is, keeps the slots, the fuses and the legal levels. -/
theorem exec_core_kept {i : Instr} {who : Agent} {s s' : State} (ha : agentOf i = some who) (hwho : ∀ t, who ≠ .thread t)
    (h : exec i s = .next s') : Kept s s' := by
  cases i <;> simp only [agentOf, reduceCtorEq, Option.some.injEq] at ha
  case kloadOtpWrite => exact kloadOtpWrite_kept _ _ _ _ _ _ h
  all_goals subst ha
  all_goals cases h
  case add | sub | mul | mulhu | min | max | minu | maxu | and | or | xor | andn | orn | xnor | sll | srl | sra | rol | ror | clz | ctz | popc
      | bswap | bswap32 | bswap16 | cmpeq | cmpne | cmplt | cmpltu | cmple | cmpleu | tstz | tstnz | sel | ptow | wtop | pand | por | pxor | pandn
      | divu | remu | divs | rems | addi | andi | ori | xori | slli | srli | srai | mov | extu | exts | ins | cmpeqi | cmplti | cmpltui | tsti
      | li | liz | mk16 | mk32 | mk48 => exact regsOp_kept hwho ..
  case stage | commit | abortCommit | abortGroup | thawPartner | gatelist | shaper | epoch | bank | leaseTake | leaseJoin | leaseForce
      | leaseRelease | kloadRoot =>
    refine planeX_kept hwho _ _ _ _ _ (fun s m a b img _ => Apart.kept ?_) s
    simp [Apart]
  case kloadFallback | kloadClear | kderive | kwrapWrap | kwrapUnwrap =>
    refine vaultX_kept hwho _ _ _ _ _ (fun s m a b img _ => Apart.kept ?_) s
    repeat' split
    all_goals simp [Apart]
  case thawMaster => exact planeX_kept hwho _ _ _ _ _ (fun s m a b img _ => thawMaster_kept s a) s
  case kloadLifecycle => exact planeX_kept hwho _ _ _ _ _ (fun s m a b img _ => moveLifecycle_kept s _ _) s
  case ksign => exact planeX_kept hwho _ _ _ _ _ (fun s m a b img hm => ksign_kept s hm a img) s
  case kverify => exact planeX_kept hwho _ _ _ _ _ (fun s m a b img hm => kverify_kept s hm a img) s
  case csrr | csrw | csrs | csrc => exact systemOp_kept hwho _ (fun s k c hc => csrAccess_legal _ _ _ _ _ s k c hc) s
  case trap f => exact systemOp_kept hwho _ (trap_legal f _) s
  case tret =>
    refine systemOp_kept hwho _ (fun s k c hc => .ite (resLegal_trap k (by decide) _) ?_) s
    exact coreLegal_trapReturn hc
  case fence => 
    refine systemOp_kept hwho _ (fun s k c hc => ?_) s
    exact hc
  case wfi =>
    have hwait (w : BitVec 32) := systemOp_kept hwho w (run := fun s k c => .fall { c with waiting := !anyPending s k }) (fun s k c hc => hc) s
    exact Kept.ite ((hwait _).trans (tickDone_apart _).kept) (hwait _)
  case frd | fwr | fwrBuffer | xtr | csum | tstampShort | tstampSeconds | tstampMark | conLookup | conOpen | conUpdate | conClose | meter
      | verdictConfirm | verdictWithdraw | recirc | done | lkpExact | lkpLpm | del | enq | punt | drop
      | alloc | share | release | free | lrn | enqBuf | mcast => exact packetX_kept hwho ..
  case ld8u who f | ld16u who f | ld32u who f | ld64 who f | ld8s who f | ld16s who f | ld32s who f =>
    cases who
    case thread t => exact absurd rfl (hwho t)
    all_goals exact coreStep_kept _ _ _ (coreLoad_legal f _ _) mapAccess_kept s
  case st8 who f | st16 who f | st32 who f | st64 who f =>
    cases who
    case thread t => exact absurd rfl (hwho t)
    all_goals exact coreStep_kept _ _ _ (coreStore_legal f _) mapAccess_kept s
  case ldk who f | loop who f | loopr who f =>
    cases who
    case thread t => exact absurd rfl (hwho t)
    all_goals exact coreStep_kept _ _ _ fall_legal (fun _ _ _ => .refl _) s
  case amoadd who fn f =>
    cases who
    case thread t => exact absurd rfl (hwho t)
    all_goals exact coreStep_kept _ _ _ (coreAmo_legal f) mapAccess_kept s
  case br who f | call who f =>
    cases who
    case thread t => exact absurd rfl (hwho t)
    all_goals
      refine coreStep_kept _ _ _ (fun s k c hc => .ite ?_ ?_) (fun _ _ _ => .refl _) s
      · exact hc
      · exact hc
  case ret who fn f =>
    cases who
    case thread t => exact absurd rfl (hwho t)
    all_goals exact coreStep_kept _ _ _ (fun s k c hc => jumpTo_legal hc _) (fun _ _ _ => .refl _) s
  case jr who f =>
    cases who
    case thread t => exact absurd rfl (hwho t)
    all_goals exact coreStep_kept _ _ _ (fun s k c hc => jumpTo_legal hc _) (fun _ _ _ => .refl _) s
  case callr who f =>
    cases who
    case thread t => exact absurd rfl (hwho t)
    all_goals
      refine coreStep_kept _ _ _ (fun s k c hc => .ite ?_ (resLegal_trap k (by decide) _)) (fun _ _ _ => .refl _) s
      exact hc

/-! ### Events -/

@[simp] theorem frameArrives_apart (s : State) (m : Nat) (raw : List Byte) (line : RxLine) (sec : SecMark) (plca : Byte) :
    Apart s (frameArrives s m raw line sec plca) := by
  unfold frameArrives
  extract_lets err sFec sSeg ps x bytes sRx err2 sErr halt sHalt cap
  have hseg : Apart s sSeg := (countFec_apart s m line).trans (Apart.ite (bump_data ..).apart (Apart.refl sFec))
  have hrx : Apart s sRx := hseg.trans (macsecCheck_apart ..)
  have herr : Apart s sErr := hrx.trans (Apart.ite (bump_data ..).apart (Apart.refl sRx))
  have hhalt : Apart s sHalt := herr.trans (Apart.ite (haltRecognised_apart ..) (Apart.refl sErr))
  split
  · exact hhalt
  · split
    · rename_i hstore
      have hstored := hhalt.trans (Apart.of_fst (storeFrame_apart ..) hstore)
      exact Apart.ite (hstored.trans (discardStored_data ..).apart) (hstored.trans (screenFrame_apart ..))
    · rename_i hstore
      exact hhalt.trans (Apart.of_fst (storeFrame_apart ..) hstore)

theorem exec_wfiResume_kept (who : Agent) {s s' : State} (h : exec (.wfiResume who) s = .next s') : Kept s s' := by
  cases h
  refine Kept.foldl (fun t k ht => ?_) _ (.refl _)
  dsimp only
  split
  · exact setCore_kept ht id
  · exact ht

theorem exec_interruptTake_kept (who : Agent) {s s' : State} (h : exec (.interruptTake who) s = .next s') : Kept s s' := by
  cases h
  have htaken : Kept s ((agentCores s who).foldl (fun s k => if coreIdle s k then s else match irqChoice s k with
      | some c => takeIrq s k c
      | none => s) s) := by
    refine Kept.foldl (fun t k ht => ?_) _ (.refl _)
    split
    · exact ht
    · split
      · rename_i c hc
        exact takeIrq_kept ht hc
      · exact ht
  exact Kept.ite (htaken.trans (tickEntered_apart _).kept) htaken

theorem exec_ksignComplete_kept {s s' : State} (h : exec .ksignComplete s = .next s') : Kept s s' := by
  cases h
  split
  · rename_i op hop
    exact Kept.ite (ksignComplete_kept hop) (.refl _)
  · exact .refl _

theorem exec_kverifyComplete_kept {s s' : State} (h : exec .kverifyComplete s = .next s') : Kept s s' := by
  cases h
  split
  · rename_i op hop
    exact Kept.ite (kverifyComplete_kept hop) (.refl _)
  · exact .refl _

theorem exec_benchTickBoundary_kept {s s' : State} (h : exec .benchTickBoundary s = .next s') : Kept s s' := by
  cases h
  exact boundary_kept s

theorem exec_frameReceive_kept (node : Fin 56) (bytes : List Byte) (line : RxLine) (sec : SecMark) (plca : Byte) {s s' : State}
    (h : exec (.frameReceive node bytes line sec plca) s = .next s') : Kept s s' := by
  cases h
  exact Kept.ite (.refl _) (frameArrives_apart ..).kept

theorem exec_haltFrameReceive_kept (node : Fin 56) (bytes : List Byte) (sec : SecMark) (plca : Byte) {s s' : State}
    (h : exec (.haltFrameReceive node bytes sec plca) s = .next s') : Kept s s' := by
  cases h
  exact Kept.ite (frameArrives_apart ..).kept (.refl _)

theorem exec_headStoreMatch_kept {s s' : State} (h : exec .headStoreMatch s = .next s') : Kept s s' := by
  obtain rfl := Host.Outcome.next.inj h
  exact ((spillCheck_apart s).trans (matchCellTime_apart _)).kept

theorem exec_fabricCellSend_kept (lane : Fin 8) {s s' : State} (h : exec (.fabricCellSend lane) s = .next s') : Kept s s' := by
  cases h
  have hmarked (l : List Nat) (t : State) : Apart t (l.foldl (fun t v => markStall t lane.val v) t) :=
    Apart.foldl (fun t v => markStall_apart t lane.val v) l t
  have hdrained := (drainAllRx_apart s).trans (hmarked (List.range 8) _)
  split
  · exact .refl _
  · dsimp only
    split
    · exact hdrained.kept
    · split
      · rename_i hready
        exact (hdrained.trans ((Apart.of_fst (readyTx_apart ..) hready).trans (dataCell_apart ..))).kept
      · rename_i hready
        exact (hdrained.trans (Apart.of_fst (readyTx_apart ..) hready)).kept

theorem exec_phyLinkLoss_kept (node : Fin 56) (cut : List Byte) {s s' : State} (h : exec (.phyLinkLoss node cut) s = .next s') : Kept s s' := by
  cases h
  exact ((Apart.ite (frameArrives_apart ..) (Apart.refl s)).trans (linkDown_apart ..)).kept

theorem exec_tempSample_kept (t0 t1 t2 t3 : Byte) {s s' : State} (h : exec (.tempSample t0 t1 t2 t3) s = .next s') : Kept s s' := by
  have hall (l : List Nat) (t : State) (ht : Apart s t) : Apart s (l.foldl recalRequest t) := ht.trans (Apart.foldl recalRequest_apart l t)
  change execTempSample t0 t1 t2 t3 s = _ at h
  unfold execTempSample at h
  injection h with h
  rw [← h]
  refine Apart.kept (hall _ _ ?_)
  exact ⟨rfl, rfl, rfl, rfl, rfl⟩

theorem exec_voteWindowExpire_kept (core : Fin 3) (voter : Voter) {s s' : State}
    (h : exec (.voteWindowExpire core voter) s = .next s') : Kept s s' := by
  cases h
  have happ : Apart s { s with triad := { s.triad with voter := voter } } := ⟨rfl, rfl, rfl, rfl, rfl⟩
  exact happ.kept.trans (voteWindow_kept _ _)

theorem exec_hashCompare_kept (voter : Voter) {s s' : State} (h : exec (.hashCompare voter) s = .next s') : Kept s s' := by
  cases h
  have happ : Apart s { s with triad := { s.triad with voter := voter } } := ⟨rfl, rfl, rfl, rfl, rfl⟩
  exact happ.kept.trans (hashCompare_kept _)

theorem exec_coreReload_kept (core : Fin 3) {s s' : State} (h : exec (.coreReload core) s = .next s') : Kept s s' := by
  cases h
  exact coreReload_kept s core

theorem exec_txFrameEntry_kept (q : Fin 64) (bytes : List Byte) {s s' : State} (h : exec (.txFrameEntry q bytes) s = .next s') : Kept s s' := by
  cases h
  exact (serveTx_apart s _ _ fun e x s => txFrame_apart ..).kept

theorem exec_wbCopyEntry_kept (q : Fin 64) (overtaken : Bool) {s s' : State} (h : exec (.wbCopyEntry q overtaken) s = .next s') : Kept s s' := by
  cases h
  exact (serveTx_apart s _ _ fun e x s => wbCopy_apart ..).kept

theorem exec_trngRead_kept (who : Reader) {s s' : State} (h : exec (.trngRead who) s = .next s') : Kept s s' := by
  cases h
  refine Kept.ite (Apart.kept (by simp [Apart])) (Kept.ite (coresAccess_kept s _ (fun k c code hcode => ?_) _ fun t => Apart.kept (by simp [Apart]))
    (Apart.kept (by simp [Apart])))
  split at hcode
  · simp at hcode
  · exact Option.some.inj hcode ▸ by decide

theorem exec_registerWrite_kept (who : Reader) (addr : BitVec 40) (wide : Bool) (value : BitVec 64) {s s' : State}
    (h : exec (.registerWrite who addr wide value) s = .next s') : Kept s s' := by
  cases h
  refine Kept.ite (.refl _) (Kept.ite (Kept.ite ?_ (Apart.kept (Apart.trans ?_ (fenceWrite_apart ..))))
    (coresAccess_kept s _ (fun k c code hcode => accessTrap_code hcode) _ fun t => (fenceWrite_apart ..).kept))
  · exact Apart.kept ⟨rfl, rfl, rfl, rfl, rfl⟩
  · exact ⟨rfl, rfl, rfl, rfl, rfl⟩

theorem exec_hostCmdComplete_kept {s s' : State} (h : exec .hostCmdComplete s = .next s') : Kept s s' := by
  cases h
  exact Kept.ite (hostComplete_kept s) (.refl _)

theorem exec_dramInitDone_kept {s s' : State} (h : exec .dramInitDone s = .next s') : Kept s s' := by
  cases h
  dsimp only
  split
  · exact .refl _
  · have hcores (t : State) (ht : Apart s t) : Kept s (postTrims ((List.range 7).foldl resetCore t)) :=
      (resetCores_kept ht.kept _).trans (postTrims_apart _).kept
    refine romCheck_kept (Kept.ite (triadFault_kept (hcores _ ?_) 5) (hcores _ ?_))
    · exact ⟨rfl, rfl, rfl, rfl, rfl⟩
    · exact ⟨rfl, rfl, rfl, rfl, rfl⟩

theorem exec_bootHeaderVerified_kept (header : List Byte) (sections : List (List Byte)) {s s' : State}
    (h : exec (.bootHeaderVerified header sections) s = .next s') : Kept s s' := by
  cases h
  exact Kept.ite (bootHeader_kept s _ _) (.refl _)

/-- A command of another source than an instruction. -/
theorem exec_event_kept {i : Instr} {s s' : State} (ha : agentOf i = none) (h : exec i s = .next s') : Kept s s' := by
  cases i <;> simp only [agentOf, reduceCtorEq] at ha
  case kloadOtpWrite => exact kloadOtpWrite_kept _ _ _ _ _ _ h
  case sequenceAssign | reorderGap | haulDecision | frameTxEnd | specTailPoint | stompEcc | hopperRefillBurst | hopperDrainBurst
      | spoilRetry | spoilExpire | holdWatchChange | ageSweepPass | ageSweepVisit | relocationDrain | normalise | connSweepVisit
      | connClearFree | epochScrub | ppsInEdge | ppsOutEdge | ppsOutFall | portNodeUp | canFrameReceive | linResponseReceive | relayEgress
      | canTxExpire | canTxComplete | linScheduleSlot | pairLaneDown | beatReceive | deltaReceive | reqReceive | hostRestartCmd
      | hostColdCmd | hostWarmCmd | mgmtHostCmd | extest | clamp | dbgCtrlStart | dbgCtrlDetach | vbatOvRelease | resetRelease
      | sleepCommit | testLogicReset =>
    cases h
    exact Apart.kept (by simp [Apart])
  case dispatch | recircReentry | waitDrop | packetTickOverrun | spillCell | pauseFlush | pfcReceive | pfcPauseExpire | pfcRepeat
      | creditCellSend | fabricCellReceive | streamGateChange | plcaBeaconRx | recalStart | recalDone | cableTestStart | cableResult
      | tc10SleepTimeout | canBusOff | spallLoad | rejoinFail | deltaChunkSend | ackReceive | grantReceive | releaseReceive | bulkReceive
      | nakReceive | recoveryFunctionReset | hostCreditStall | hostCreditRecover | pcieLinkUp | rxTailWrite | txTailWrite | bootGo | dbgGo
      | samplePreload | dbgToken | vbatOnRise | pgoodRise | retainedEntryDone | resumeComplete | trngHealthFail | trngHealthRecover
      | blockResetComplete | blockPowerUpComplete =>
    cases h
    dsimp only
    repeat' split
    all_goals exact Apart.kept (by simp [Apart])
  case tc10WakePulseRx | tc10WakeRequestRx | busWakePattern | delayEccScrub | tpHeadWrite | vbatPorFall | pgFail | railStepDown
      | wakePinEdge | wakeTimer | functionLevelReset =>
    cases h
    dsimp only
    repeat' split
    all_goals simp
  case gateChange | slewComplete | phyLinkOk | preemptVerifyDone | plcaBeaconLost | sqiMeasure | tc10PartnerAck | tc10PartnerRefuse
      | thermalShutdown | canErrorPassive | canBusOffRecovered | ctrlWdt | pairLaneUp | queuePairEnable | queuePairDisable | evqAckWrite
      | mailboxSend | mailboxPop | tickCountLoRead | tbnNsRead | rstCauseClear | wakeSrcClear | dbgDetach | dbgVerifyComplete | idcode
      | bypass | ext | optionLoading | bootWdt | dormantWakeStart | remaskPass =>
    cases h
    split
    all_goals simp
  case holdExpired | gateListTakeover | tc10PartnerSleepReq | txdTimeout | busShort | linHeaderReceive | wdtEsc | restartFrameReceive
      | resetReq | powerOff | powerOn | xspiOwnerWrite | vbatUvFall | vbatOvRise | therm | clk | gatehouseBusWake =>
    cases h
    repeat' split
    all_goals simp
  case leaseExpiry | leadYield | takeTimeout | triadTickOverrun | coastLimitReached =>
    cases h
    exact boundaryIf_kept _ s
  case wfiResume => exact exec_wfiResume_kept _ h
  case interruptTake => exact exec_interruptTake_kept _ h
  case ksignComplete => exact exec_ksignComplete_kept h
  case kverifyComplete => exact exec_kverifyComplete_kept h
  case benchTickBoundary => exact exec_benchTickBoundary_kept h
  case frameReceive => exact exec_frameReceive_kept _ _ _ _ _ h
  case haltFrameReceive => exact exec_haltFrameReceive_kept _ _ _ _ h
  case headStoreMatch => exact exec_headStoreMatch_kept h
  case fabricCellSend => exact exec_fabricCellSend_kept _ h
  case phyLinkLoss => exact exec_phyLinkLoss_kept _ _ h
  case tempSample => exact exec_tempSample_kept _ _ _ _ h
  case voteWindowExpire => exact exec_voteWindowExpire_kept _ _ h
  case hashCompare => exact exec_hashCompare_kept _ h
  case coreReload => exact exec_coreReload_kept _ h
  case txFrameEntry => exact exec_txFrameEntry_kept _ _ h
  case wbCopyEntry => exact exec_wbCopyEntry_kept _ _ h
  case trngRead => exact exec_trngRead_kept _ h
  case registerWrite => exact exec_registerWrite_kept _ _ _ _ h
  case hostCmdComplete => exact exec_hostCmdComplete_kept h
  case dramInitDone => exact exec_dramInitDone_kept h
  case bootHeaderVerified => exact exec_bootHeaderVerified_kept _ _ h

/-! ### Every step -/

/-- Every command keeps the slots, the fuses and the legal levels. -/
theorem exec_kept {i : Instr} {s s' : State} (h : exec i s = .next s') : Kept s s' := by
  cases ha : agentOf i with
  | none => exact exec_event_kept ha h
  | some who =>
    by_cases hwho : ∃ t, who = .thread t
    · obtain ⟨t, rfl⟩ := hwho
      exact (exec_data ha h).apart.kept
    · exact exec_core_kept ha (not_exists.1 hwho) h

theorem step_kept {s s' : State} (h : step s = .next s') : Kept s s' := by
  unfold step at h
  split at h
  · cases h
    exact (advance_apart s 1).kept
  · rename_i c rest _
    have happ : Apart s { s with pending := rest } := ⟨rfl, rfl, rfl, rfl, rfl⟩
    exact happ.kept.trans (exec_kept h)

theorem stepTaken_of_fuses {s s' : State} {f : Nat} (hf : s'.vault.fuses = s.vault.fuses ||| f) {k : Nat} (h : stepTaken s k = true) :
    stepTaken s' k = true := by
  simp only [stepTaken, bits, bne_iff_ne, ← Nat.shiftRight_eq_div_pow, ne_eq] at h ⊢
  rw [hf, Nat.shiftRight_or_distrib, Nat.or_mod_two_pow]
  exact fun h0 => h (Nat.or_eq_zero_iff.1 h0).1

/-- Settles O59: every step keeps the slots that are not blank and only adds to the fuses. -/
theorem otpWriteOnce : Obligations.OtpWriteOnce := by
  intro s s' h
  obtain ⟨hslots, ⟨f, hf⟩, _⟩ := step_kept h
  exact ⟨hslots, fun k => stepTaken_of_fuses hf⟩

/-- Settles O60: the invariant of the levels is part of what every step keeps. -/
theorem levelsStayLegal : Obligations.LevelsStayLegal := by
  intro s s' h hs
  exact (levelInv_iff s').2 ((step_kept h).levels ((levelInv_iff s).1 hs))

end Sys2Proof.Machine
end

section
/-! PROOFS. THAW and LEASE (R383, R388, R417, R418, R420). -/

namespace Sys2Proof.Machine

theorem getCore_takeException_ne (s : State) {k j : Nat} (hj : j ≠ k) (code : Nat) (tval epc : Word) :
    getCore (takeException s k code tval epc) j = getCore s j := by
  have hset := getCore_setCore_ne s k j (exception k (getCore s k) code tval epc) hj
  unfold takeException
  dsimp only
  split
  · exact hset
  · exact hset

theorem isFrozen_iff (s : State) (a : Nat) : isFrozen s a = true ↔ a ∈ s.fence.frozen := by simp [isFrozen]

/-! ### THAW of a master -/

theorem thawMaster_none {a : Nat} (h : 1024 ≤ a) (s : State) : thawMaster s a = (s, PlaneRes.why stDENIED 0) := by
  unfold thawMaster
  rw [if_pos h]

theorem thawMaster_miss {s : State} {a : Nat} (hlt : a < 1024) (htriad : a ≠ mTRIAD) (h : a ∉ s.fence.frozen) :
    thawMaster s a = (s, PlaneRes.only stMISS) := by
  unfold thawMaster
  have hfree : isFrozen s a = false := by simpa [← isFrozen_iff] using h
  rw [if_neg (by omega), if_neg htriad, if_pos hfree]

/-- A frozen master but the Triad: it is thawed and counted, and a Tally core takes ACCESS. -/
theorem thawMaster_frozen {s : State} {a : Nat} (hlt : a < 1024) (htriad : a ≠ mTRIAD) (h : a ∈ s.fence.frozen) :
    thawMaster s a =
      (let t := bump { s with fence := { s.fence with frozen := s.fence.frozen.filter (· != a) } } .thaws (masterRange a) 1
       (if 0x210 ≤ a ∧ a < 0x214 then takeException t (a - 0x210 + 3) cACCESS (BitVec.ofNat 64 (tblGet 0 s.fence.heldInfo a))
          (BitVec.ofNat 64 (tblGet 0 s.fence.heldPc a)) else t, PlaneRes.only stOK)) := by
  unfold thawMaster
  have hfrozen : ¬ isFrozen s a = false := by simpa [← isFrozen_iff] using h
  rw [if_neg (by omega), if_neg htriad, if_neg hfrozen]
  rfl

theorem thawMaster_triad (s : State) : thawMaster s 0x200 =
    if s.pair.lane0 = true ∨ s.pair.lane1 = true then
      (bump { s with pair := { s.pair with sent := s.pair.sent ++ [{ typ := 9, tick := tick32 s, chunk := 0 }] } } .thaws 1 1, PlaneRes.only stOK)
    else (s, PlaneRes.only stMISS) := by
  unfold thawMaster
  rw [if_neg (by decide), if_pos (by decide)]
  by_cases hup : s.pair.lane0 = true ∨ s.pair.lane1 = true
  · have hpair : pairUp s = true := by simpa [pairUp] using hup
    rw [if_pos hup, if_pos hpair, pairSend, if_pos hpair]
    rfl
  · have hpair : ¬ pairUp s = true := by simpa [pairUp] using hup
    rw [if_neg hup, if_neg hpair]

/-- What a thawed Tally core finds. -/
theorem thawMaster_tally {s : State} (hr : Rising s.cores) (c : Fin 4) (h : 0x210 + c.val ∈ s.fence.frozen) :
    (thawMaster s (0x210 + c.val)).2 = PlaneRes.only stOK ∧
    (thawMaster s (0x210 + c.val)).1.fence.frozen = s.fence.frozen.filter (· != 0x210 + c.val) ∧
    getCore (thawMaster s (0x210 + c.val)).1 (3 + c.val) = exception (3 + c.val) (getCore s (3 + c.val)) cACCESS
      (BitVec.ofNat 64 (tblGet 0 s.fence.heldInfo (0x210 + c.val))) (BitVec.ofNat 64 (tblGet 0 s.fence.heldPc (0x210 + c.val))) ∧
    ∀ j, j ≠ 3 + c.val → getCore (thawMaster s (0x210 + c.val)).1 j = getCore s j := by
  have hcore : 0x210 + c.val - 0x210 + 3 = 3 + c.val := by omega
  rw [thawMaster_frozen (by omega) (by simp [mTRIAD]; omega) h]
  dsimp only
  rw [if_pos (by omega), hcore]
  refine ⟨rfl, ?_, getCore_takeException hr, fun j hj => getCore_takeException_ne _ hj ..⟩
  unfold takeException
  dsimp only
  split <;> rfl

/-! ### THAW of a partner -/

theorem thawPartner_none {a : Nat} (h : 4096 ≤ a) (s : State) : thawPartner s a = (s, PlaneRes.why stDENIED 0) := by
  unfold thawPartner
  rw [if_pos h]

theorem thawPartner_miss {s : State} {a : Nat} (hlt : a < 4096) (h : a ∉ s.fence.partners) :
    thawPartner s a = (s, PlaneRes.only stMISS) := by
  unfold thawPartner
  have hfree : partnerFrozen s a = false := by simpa [partnerFrozen] using h
  rw [if_neg (by omega), if_pos hfree]

theorem thawPartner_frozen {s : State} {a : Nat} (hlt : a < 4096) (h : a ∈ s.fence.partners) :
    (thawPartner s a).2 = PlaneRes.only stOK ∧ (thawPartner s a).1.fence.partners = s.fence.partners.filter (· != a) := by
  unfold thawPartner
  have hfrozen : ¬ partnerFrozen s a = false := by simpa [partnerFrozen] using h
  rw [if_neg (by omega), if_neg hfrozen]
  refine ⟨rfl, ?_⟩
  dsimp only
  unfold logChange
  split <;> rfl

/-! ### LEASE -/

theorem stageLease_lost {s : State} (h : s.pair.lost = true) (order a : Nat) :
    stageLease s order a = ({ s with pair := { s.pair with lost := false } }, PlaneRes.only stLEASELOST) := by
  unfold stageLease
  rw [if_pos h]

theorem stageLease_denied {s : State} {order a : Nat} (hlost : s.pair.lost = false) (h : leaseDenied s order a = true) :
    stageLease s order a = (s, PlaneRes.why stDENIED 0) := by
  unfold stageLease
  rw [if_neg (by simp [hlost]), if_pos h]

theorem leaseDenied_of {s : State} {order a : Nat} (h : s.pair.en = false ∨ (order < 3 ∧ a % 4 ≤ 1 ∧ s.pair.role = .lead) ∨
    (order = 3 ∧ s.pair.role ≠ .lead) ∨ (order < 3 ∧ a % 4 = 2 ∧ pairUp s = true)) : leaseDenied s order a = true := by
  unfold leaseDenied
  rcases h with hen | ⟨ho, ha, hlead⟩ | ⟨rfl, hlead⟩ | ⟨ho, ha, hup⟩
  · simp [hen]
  · simp [Nat.ne_of_lt ho, ha, hlead]
  · simp [hlead]
  · simp [Nat.ne_of_lt ho, ha, hup]

theorem stageLease_staged {s : State} {order a : Nat} (hlost : s.pair.lost = false) (hok : leaseDenied s order a = false)
    (hroom : groupFull s 0 = false) :
    stageLease s order a = ({ s with gate := { s.gate with group := some (s.gate.group.getD [] ++
      [{ sub := 15, typ := tLEASE, img := [], arg := if order = 3 then 3 else a % 4 }]) } }, PlaneRes.only stOK) := by
  unfold stageLease stageObj
  rw [if_neg (by simp [hlost]), if_neg (by simp [hok]), if_neg (by simpa using hroom)]
  rfl

/-- Settles O23: each answer of THAW and of LEASE by its own rule. -/
theorem thawAndLease : Obligations.ThawAndLease := by
  refine ⟨fun s a => ⟨fun h => thawMaster_none h s, fun hlt ht h => thawMaster_miss hlt ht h, fun h ha => ?_, ?_, ?_,
    fun h => thawPartner_none h s, fun hlt h => thawPartner_miss hlt h, fun h hlt => thawPartner_frozen hlt h⟩,
    fun s order a _ => ⟨fun h => stageLease_lost h order a, fun hlost => ⟨fun h => stageLease_denied hlost (leaseDenied_of h),
      fun hok hroom => stageLease_staged hlost hok hroom⟩⟩⟩
  · rw [thawMaster_frozen (by omega) (by simp [mTRIAD]; omega) h]
    dsimp only
    rw [if_neg (by omega)]
  · rintro c rfl h hr
    exact thawMaster_tally hr c h
  · rintro rfl
    exact thawMaster_triad s

end Sys2Proof.Machine
end

section
/-! PROOFS. Mailbox rings (R496 to R498). -/

namespace Sys2Proof.Machine

theorem voterIssue_sound {s : State} {who : Reader} (h : readerVoted s who = true → s.triad.voter = .sound) (f : State → State) :
    voterIssue s who f = f s := by
  unfold voterIssue
  rw [if_neg]
  rw [Bool.and_eq_true]
  rintro ⟨hvoted, hdiffer⟩
  simp [h hvoted, votersDiffer, Voter.sound] at hdiffer

theorem getRing_setRing {x : MailRing} (hx : x ≠ MailRing.reset) (s : State) (r : Nat) : getRing (setRing s r x) r = x :=
  tblGet_tblSet_self' _ hx _ _

theorem getRing_setRing_ne {r j : Nat} (h : j ≠ r) (s : State) (x : MailRing) : getRing (setRing s r x) j = getRing s j :=
  tblGet_tblSet_ne _ _ _ h

theorem fireMsix_vector (s : State) (n v : Nat) : tblGet 0 (fireMsix s n).host.msix v = tblGet 0 s.host.msix v + (if v = n then 1 else 0) := by
  by_cases h : v = n
  · subst h
    rw [if_pos rfl]
    exact tblGet_tblSet_self' 0 (Nat.succ_ne_zero _) _ _
  · rw [if_neg h]
    exact tblGet_tblSet_ne 0 _ _ h

section
variable {s : State} {who : Reader} {r a b : Nat} (hends : ringEnds r = some (a, b))
include hends

/-- The ring after its sender appends a message of n bytes. -/
theorem mailSend_appends (hm : readerMaster who = a) {n : Nat} (hn : 4 ≤ n ∧ n ≤ 252) (hsends : (getRing s r).sends < 64)
    (hroom : (getRing s r).msgs.length < 16) :
    mailSend s who r n = (let t := setRing s r { getRing s r with
        sends := (getRing s r).sends + 1, len := n, result := stOK, seq := ((getRing s r).seq + 1) % 256
        msgs := (getRing s r).msgs ++ [⟨a * 2 ^ 22 + n * 256 + (getRing s r).seq, memBytes (getRing s r).staging 0 n⟩] }
      if r = 12 then fireMsix t 2 else t) := by
  unfold mailSend
  simp only [hends, hm, ne_eq, not_true, if_false]
  rw [if_neg (by omega), if_neg (by omega), if_neg (by omega)]

theorem mailSend_full (hm : readerMaster who = a) {n : Nat} (hn : 4 ≤ n ∧ n ≤ 252) (hsends : (getRing s r).sends < 64)
    (hfull : 16 ≤ (getRing s r).msgs.length) :
    mailSend s who r n = setRing s r { getRing s r with sends := (getRing s r).sends + 1, len := n, result := stFULL } := by
  unfold mailSend
  simp only [hends, hm, ne_eq, not_true, if_false]
  rw [if_neg (by omega), if_neg (by omega), if_pos hfull]

theorem mailSend_budget (hm : readerMaster who = a) {n : Nat} (hn : 4 ≤ n ∧ n ≤ 252) (hsends : 64 ≤ (getRing s r).sends) :
    mailSend s who r n = readerFault s who vBUDGET r := by
  unfold mailSend
  simp only [hends, hm, ne_eq, not_true, if_false]
  rw [if_neg (by omega), if_pos hsends]

theorem mailSend_badLen (hm : readerMaster who = a) {n : Nat} (hn : n < 4 ∨ 252 < n) : mailSend s who r n = readerFault s who vADDR r := by
  unfold mailSend
  simp only [hends, hm, ne_eq, not_true, if_false]
  rw [if_pos (by omega)]

theorem mailSend_stranger (ha : readerMaster who ≠ a) (hb : readerMaster who ≠ b) (n : Nat) :
    mailSend s who r n = readerFault s who vADDR r := by
  unfold mailSend
  simp only [hends]
  rw [if_pos ha, if_neg hb]

theorem mailPop_head (hm : readerMaster who = b) {x : MailMsg} {l : List MailMsg} (hmsgs : (getRing s r).msgs = x :: l) :
    mailPop s who r = setRing s r { getRing s r with msgs := l } := by
  unfold mailPop
  simp only [hends, hm, ne_eq, not_true, if_false, hmsgs]

theorem mailPop_empty (hm : readerMaster who = b) (hmsgs : (getRing s r).msgs = []) : mailPop s who r = readerFault s who vADDR r := by
  unfold mailPop
  simp only [hends, hm, ne_eq, not_true, if_false, hmsgs]

theorem mailPop_stranger (ha : readerMaster who ≠ a) (hb : readerMaster who ≠ b) : mailPop s who r = readerFault s who vADDR r := by
  unfold mailPop
  simp only [hends]
  rw [if_pos hb, if_neg ha]

end

theorem exec_mailboxSend {s : State} {who : Reader} (hruns : readerRuns s who = true) (hsound : readerVoted s who = true → s.triad.voter = .sound)
    (r : Fin 16) (n : Byte) : exec (.mailboxSend who r n) s = .next (mailSend s who r n.toNat) := by
  show execMailboxSend who r n s = _
  rw [execMailboxSend, if_pos hruns, voterIssue_sound hsound]

theorem exec_mailboxPop {s : State} {who : Reader} (hruns : readerRuns s who = true) (hsound : readerVoted s who = true → s.triad.voter = .sound)
    (r : Fin 16) : exec (.mailboxPop who r) s = .next (mailPop s who r) := by
  show execMailboxPop who r s = _
  rw [execMailboxPop, if_pos hruns, voterIssue_sound hsound]

/-- What a message that was appended leaves. -/
theorem appended_ring (s : State) (r : Nat) {x : MailRing} (hx : x.msgs ≠ []) :
    let t := setRing s r x
    let s' := if r = 12 then fireMsix t 2 else t
    getRing s' r = x ∧ (∀ j, j ≠ r → getRing s' j = getRing s j) ∧ s' = { s with host := { s.host with rings := s'.host.rings, msix := s'.host.msix } } ∧
    (∀ v, tblGet 0 s'.host.msix v = tblGet 0 s.host.msix v + (if r = 12 ∧ v = 2 then 1 else 0)) := by
  have hne : x ≠ MailRing.reset := by
    rintro rfl
    exact hx rfl
  dsimp only
  by_cases h : r = 12
  · subst h
    refine ⟨getRing_setRing hne s 12, fun j hj => getRing_setRing_ne hj s x, rfl, fun v => ?_⟩
    simpa [setRing] using fireMsix_vector (setRing s 12 x) 2 v
  · simp only [h, if_false, false_and]
    exact ⟨getRing_setRing hne s r, fun j hj => getRing_setRing_ne hj s x, rfl, fun v => rfl⟩

/-- Settles O47: each answer of a ring by its own rule. -/
theorem mailboxes : Obligations.Mailboxes := by
  intro s who r a b hruns hends _ hsound
  simp only [exec_mailboxSend hruns hsound, exec_mailboxPop hruns hsound, Host.Outcome.next.injEq]
  refine ⟨fun n hm h4 h252 hsends hroom => ⟨_, rfl, ?_⟩, fun n hm h4 h252 hsends hfull => mailSend_full hends hm ⟨h4, h252⟩ hsends hfull,
    fun n hm h4 h252 hsends => mailSend_budget hends hm ⟨h4, h252⟩ hsends, fun x l hm hmsgs => mailPop_head hends hm hmsgs,
    fun n hm hn => mailSend_badLen hends hm hn, fun hm hmsgs => mailPop_empty hends hm hmsgs,
    fun n ha hb => ⟨mailSend_stranger hends ha hb n.toNat, mailPop_stranger hends ha hb⟩⟩
  rw [mailSend_appends hends hm ⟨h4, h252⟩ hsends hroom]
  obtain ⟨hring, hothers, hrest, hvectors⟩ := appended_ring s r.val (x := { getRing s r with
        sends := (getRing s r).sends + 1, len := n.toNat, result := stOK, seq := ((getRing s r).seq + 1) % 256
        msgs := (getRing s r).msgs ++ [⟨a * 2 ^ 22 + n.toNat * 256 + (getRing s r).seq, memBytes (getRing s r).staging 0 n.toNat⟩] }) (by simp)
  dsimp only at hring hothers hrest hvectors ⊢
  rw [hring]
  exact ⟨rfl, rfl, rfl, hothers, hrest, hvectors⟩

end Sys2Proof.Machine
end

section
/-! PROOFS. The end of a slew, PPS inputs and PPS outputs (R301, R312, R313). -/

namespace Sys2Proof.Machine

/-! ### Time bases -/

theorem tbGet_advance (s : State) (n : Fin 4) (k : Nat) : tbGet (advance s k).time n = tbAdvance (tbGet s.time n) k := by
  match n with
  | 0 | 1 | 2 | 3 => rfl

/-- A slew that ends: exactly its offset is added. -/
theorem tbAdvance_slewEnd {b : TimeBase} {sl : Slew} (hrun : b.running = true) (hslew : b.slew = some sl) :
    tbAdvance b sl.left = { b with
      slew := none, value := (b.value + sl.left * (2 ^ 32 + b.rate) + (sl.left * sl.inc + sl.rem)) % (2 ^ 80 * 1000000000) } := by
  unfold tbAdvance
  rw [if_neg (by simp [hrun])]
  simp only [hslew, Nat.lt_irrefl, if_false, tbWrap, Int.add_assoc]

theorem exec_slewComplete {s : State} {n : Fin 4} {sl : Slew} (hslew : (tbGet s.time n).slew = some sl) :
    exec (.slewComplete n) s = .next (advance s sl.left) := by
  show execSlewComplete n s = _
  rw [execSlewComplete, hslew]

/-! ### PPS inputs -/

/-- The input k as x. -/
def putPpsIn (s : State) (k : Nat) (x : PpsIn) : State := { s with time := { s.time with ppsIn := tblSet PpsIn.reset s.time.ppsIn k x } }

theorem putPpsIn_same {s : State} (h : tblWf PpsIn.reset s.time.ppsIn = true) (k : Nat) (x : PpsIn) :
    tblGet PpsIn.reset (putPpsIn s k x).time.ppsIn k = x := tblGet_tblSet_self _ _ _ _ h

theorem edgeSelected_iff (edge : Nat) (v : Bool) : edgeSelected edge (!v) = true ↔ edge = 2 ∨ edge = if v then 0 else 1 := by
  cases v <;> simp [edgeSelected, b2n]

/-- Whether a capture came less than 100 ns ago. -/
def capturedEarly (s : State) (x : PpsIn) : Prop := ∃ t, x.lastCap = some t ∧ s.localNs < t + 100

theorem capturedEarly_iff (s : State) (x : PpsIn) :
    (match x.lastCap with | some t => decide (s.localNs < t + 100) | none => false) = true ↔ capturedEarly s x := by
  unfold capturedEarly
  cases x.lastCap <;> simp

section
variable {s : State} {k : Nat} {v : Bool} {x : PpsIn} (hx : tblGet PpsIn.reset s.time.ppsIn k = x) (hlevel : x.level ≠ v)
include hx hlevel

theorem ppsEdge_idle (h : ¬ (x.en = true ∧ edgeSelected x.edge (!v) = true)) : ppsEdge s k v = putPpsIn s k { x with level := v } := by
  have hidle : x.en = false ∨ edgeSelected x.edge (!v) = false := by
    rcases Decidable.not_and_iff_or_not.1 h with hen | hsel
    · exact .inl (by simpa using hen)
    · exact .inr (by simpa using hsel)
  unfold ppsEdge
  dsimp only
  rw [hx, if_neg hlevel, if_pos hidle]
  rfl

variable (h : x.en = true ∧ edgeSelected x.edge (!v) = true)
include h

theorem ppsEdge_chosen : ppsEdge s k v =
    if (match x.lastCap with | some t => decide (s.localNs < t + 100) | none => false) = true then
      bump (putPpsIn s k { x with level := v }) .ppsOverrun k 1
    else if (tbGet s.time x.tb).running = false then bump (putPpsIn s k { x with level := v }) .ppsNoBase k 1
    else postEvent (bump (putPpsIn s k { x with level := v, lastCap := some s.localNs }) .ppsCaptures k 1) 10
      (ppsPayload (tbGet s.time x.tb) k x.tb (!v)) := by
  have hchosen : ¬ (x.en = false ∨ edgeSelected x.edge (!v) = false) := by simp [h]
  unfold ppsEdge
  dsimp only
  rw [hx, if_neg hlevel, if_neg hchosen]
  rfl

theorem ppsEdge_early (he : capturedEarly s x) : ppsEdge s k v = bump (putPpsIn s k { x with level := v }) .ppsOverrun k 1 := by
  rw [ppsEdge_chosen hx hlevel h, if_pos ((capturedEarly_iff s x).2 he)]

theorem ppsEdge_noBase (he : ¬ capturedEarly s x) (hrun : ¬ (tbGet s.time x.tb).running = true) :
    ppsEdge s k v = bump (putPpsIn s k { x with level := v }) .ppsNoBase k 1 := by
  rw [ppsEdge_chosen hx hlevel h, if_neg (mt (capturedEarly_iff s x).1 he), if_pos (by simpa using hrun)]

theorem ppsEdge_captures (he : ¬ capturedEarly s x) (hrun : (tbGet s.time x.tb).running = true) :
    ppsEdge s k v = postEvent (bump (putPpsIn s k { x with level := v, lastCap := some s.localNs }) .ppsCaptures k 1) 10
      (ppsPayload (tbGet s.time x.tb) k x.tb (!v)) := by
  rw [ppsEdge_chosen hx hlevel h, if_neg (mt (capturedEarly_iff s x).1 he), if_neg (by simp [hrun])]

end

/-- The four outcomes of an edge of an input. -/
theorem ppsEdge_outcome {s : State} {k : Nat} {v : Bool} {x : PpsIn} (hx : tblGet PpsIn.reset s.time.ppsIn k = x) (hlevel : x.level ≠ v)
    (hwf : tblWf PpsIn.reset s.time.ppsIn = true) :
    let y := { x with level := v }
    let chosen := x.en = true ∧ (x.edge = 2 ∨ x.edge = if v then 0 else 1)
    let early := ∃ t, x.lastCap = some t ∧ s.localNs < t + 100
    let run := (tbGet s.time x.tb).running = true
    let s' := ppsEdge s k v
    s'.localNs = s.localNs ∧
      tblGet PpsIn.reset s'.time.ppsIn k = (if chosen ∧ ¬ early ∧ run then { y with lastCap := some s.localNs } else y) ∧
      (chosen → early → s'.counters = (bump s .ppsOverrun k 1).counters) ∧
      (chosen → ¬ early → ¬ run → s'.counters = (bump s .ppsNoBase k 1).counters) ∧
      (¬ chosen → s' = { s with time := s'.time }) ∧
      (chosen → ¬ early → run → s' = postEvent (bump { s with time := s'.time } .ppsCaptures k 1) 10 (ppsPayload (tbGet s.time x.tb) k x.tb (!v))) := by
  dsimp only
  have hiff : x.en = true ∧ edgeSelected x.edge (!v) = true ↔ x.en = true ∧ (x.edge = 2 ∨ x.edge = if v then 0 else 1) :=
    and_congr_right' (edgeSelected_iff x.edge v)
  by_cases hchosen : x.en = true ∧ (x.edge = 2 ∨ x.edge = if v then 0 else 1)
  · by_cases hearly : capturedEarly s x
    · rw [ppsEdge_early hx hlevel (hiff.2 hchosen) hearly, if_neg fun h => h.2.1 hearly]
      exact ⟨rfl, putPpsIn_same hwf k _, fun _ _ => rfl, fun _ h => absurd hearly h, fun h => absurd hchosen h, fun _ h => absurd hearly h⟩
    · by_cases hrun : (tbGet s.time x.tb).running = true
      · rw [ppsEdge_captures hx hlevel (hiff.2 hchosen) hearly hrun, if_pos ⟨hchosen, hearly, hrun⟩]
        have hpost (t : State) (p : List Nat) : (postEvent t 10 p).localNs = t.localNs ∧ (postEvent t 10 p).time = t.time := by simp
        refine ⟨(hpost _ _).1, ?_, fun _ h => absurd h hearly, fun _ _ h => absurd hrun h, fun h => absurd hchosen h, fun _ _ _ => ?_⟩
        · rw [(hpost _ _).2]
          exact putPpsIn_same hwf k _
        · rw [(hpost _ _).2]
          rfl
      · rw [ppsEdge_noBase hx hlevel (hiff.2 hchosen) hearly hrun, if_neg fun h => hrun h.2.2]
        exact ⟨rfl, putPpsIn_same hwf k _, fun _ h => absurd h hearly, fun _ _ _ => rfl, fun h => absurd hchosen h, fun _ _ h => absurd h hrun⟩
  · rw [ppsEdge_idle hx hlevel (mt hiff.1 hchosen), if_neg fun h => hchosen h.1]
    exact ⟨rfl, putPpsIn_same hwf k _, fun h => absurd h hchosen, fun h => absurd h hchosen, fun _ => rfl, fun h => absurd h hchosen⟩

/-! ### PPS outputs -/

theorem getPpsOut_setPpsOut {x : PpsOut} (hx : x ≠ PpsOut.reset) (s : State) (k : Nat) : getPpsOut (setPpsOut s k x) k = x :=
  tblGet_tblSet_self' _ hx _ _

theorem getPpsOut_setPpsOut_ne {j k : Nat} (h : j ≠ k) (s : State) (x : PpsOut) : getPpsOut (setPpsOut s k x) j = getPpsOut s j :=
  tblGet_tblSet_ne _ _ _ h

/-- The output k after the rise at instant n. -/
def ppsRisen (s : State) (x : PpsOut) (e n : Nat) : PpsOut :=
  if s.triad.safe then { x with next := some (e + x.period) }
  else { x with level := true, next := some (e + x.period), fallAt := some (max (x.fallAt.getD 0) (s.localNs + n + x.width)) }

theorem ppsRisen_next (s : State) (x : PpsOut) (e n : Nat) : (ppsRisen s x e n).next = some (e + x.period) := by
  unfold ppsRisen
  split <;> rfl

theorem ppsRisen_ne_reset (s : State) (x : PpsOut) (e n : Nat) : ppsRisen s x e n ≠ PpsOut.reset := by
  intro h
  have hnext := ppsRisen_next s x e n
  simp [h, PpsOut.reset] at hnext

theorem ppsRise_eq {s : State} {k : Nat} {x : PpsOut} {e n : Nat} (hx : getPpsOut s k = x) (hnext : x.next = some e) (hen : x.en = true)
    (hrun : (tbGet s.time x.tb).running = true) (hn : cyclesTo (tbGet s.time x.tb) (e * 2 ^ 32) = some n) :
    ppsRise s k = setPpsOut (advance s n) k (ppsRisen s x e n) := by
  have hok : ¬ (x.en = false ∨ (tbGet s.time x.tb).running = false) := by simp [hen, hrun]
  unfold ppsRise ppsRisen
  simp only [hx, hnext]
  rw [if_neg hok]
  simp only [hn]
  show (if s.triad.safe = true then _ else _) = _
  split <;> rfl

theorem ppsFall_eq {s : State} {k : Nat} {x : PpsOut} {t : Nat} (hx : getPpsOut s k = x) (hfall : x.fallAt = some t) (ht : s.localNs ≤ t) :
    ppsFall s k = setPpsOut (advance s (t - s.localNs)) k { x with level := false, fallAt := none, lastFall := some t } := by
  have hnow : s.localNs + (t - s.localNs) = t := by omega
  unfold ppsFall
  simp only [hx, hfall]
  rw [show (advance s (t - s.localNs)).localNs = t from hnow]

/-- Settles O42: the equations of the slew's end, of an input's edge by its case, and of an output's edges. -/
theorem timeEdges : Obligations.TimeEdges := by
  refine ⟨fun s n sl hrun hslew => ⟨exec_slewComplete hslew, ?_⟩, fun s k v x hx hlevel hwf => ⟨_, rfl, ?_⟩,
    fun s k x e n hx hnext hen hrun hn => ⟨_, rfl, ?_⟩, fun s k x t hx hfall ht => ⟨_, rfl, ?_⟩⟩
  · rw [tbGet_advance, tbAdvance_slewEnd hrun hslew]
  · exact ppsEdge_outcome hx hlevel hwf
  · rw [ppsRise_eq hx hnext hen hrun hn, getPpsOut_setPpsOut (ppsRisen_ne_reset s x e n)]
    refine ⟨rfl, ppsRisen_next s x e n, fun hsafe => ?_, fun hsafe => ?_, fun j hj => getPpsOut_setPpsOut_ne (fun h => hj (Fin.ext h)) _ _⟩
    · exact ⟨by simp [ppsRisen, hsafe], fun hfall => by simp [ppsRisen, hsafe, hfall]⟩
    · simp [ppsRisen, hsafe]
  · rw [ppsFall_eq hx hfall ht, getPpsOut_setPpsOut (by simp [PpsOut.reset])]
    exact ⟨by simp [setPpsOut, advance]; omega, rfl, fun j hj => getPpsOut_setPpsOut_ne (fun h => hj (Fin.ext h)) _ _⟩

end Sys2Proof.Machine
end

section
/-! PROOFS. Reset and power of the blocks (R442). -/

namespace Sys2Proof.Machine

/-! ### What reaches the store of frames only -/

/-- Only the Stockpile and the Hopper change from s to s'. -/
def StoreOnly (s s' : State) : Prop := s' = { s with stock := s'.stock, hopper := s'.hopper }

theorem StoreOnly.refl (s : State) : StoreOnly s s := rfl

theorem StoreOnly.trans {a b c : State} (hab : StoreOnly a b) (hbc : StoreOnly b c) : StoreOnly a c := by
  unfold StoreOnly at *
  rw [hbc, hab]

theorem StoreOnly.foldl {β : Type} {f : State → β → State} (hf : ∀ s x, StoreOnly s (f s x)) : ∀ (l : List β) (s : State), StoreOnly s (l.foldl f s)
  | [], s => .refl s
  | x :: l, s => (hf s x).trans (StoreOnly.foldl hf l (f s x))

theorem pfcLevel_storeOnly (s : State) (p : Nat) : StoreOnly s (pfcLevel s p) := by
  unfold pfcLevel
  dsimp only
  split
  · rfl
  · refine StoreOnly.foldl (fun s k => ?_) _ _
    repeat' split
    all_goals rfl

theorem freeCell_storeOnly (s : State) (c : Nat) : StoreOnly s (freeCell s c) := by
  unfold freeCell
  dsimp only
  repeat' split
  all_goals rfl

theorem freeCells_storeOnly (s : State) (cells : List Nat) : StoreOnly s (freeCells s cells) :=
  (StoreOnly.foldl freeCell_storeOnly _ _).trans (StoreOnly.foldl pfcLevel_storeOnly _ _)

theorem freeRx_storeOnly (s : State) : StoreOnly s (freeRx s) := by
  refine StoreOnly.foldl (fun s i => ?_) _ _
  split
  · exact freeCells_storeOnly ..
  · rfl

/-! ### Sparse arrays -/

theorem tblGet_filter_none {β : Type} {d : β} {t : Tbl β} {p : Nat × β → Bool} {i : Nat} (h : ∀ e, e.1 = i → p e = false) :
    tblGet d (t.filter p) i = d := by
  refine tblGet_none d i fun e he hi => ?_
  have hp := (List.mem_filter.1 he).2
  simp [h e hi] at hp

/-- A write of one index leaves the others, whatever their default. -/
theorem tblGet_tblSet_other {β : Type} [DecidableEq β] (d d' v : β) {i j : Nat} (h : j ≠ i) : ∀ t : Tbl β, tblGet d' (tblSet d t i v) j = tblGet d' t j
  | [] => by
    simp only [tblSet]
    split <;> simp [tblGet, h.symm]
  | (k, x) :: t => by
    simp only [tblSet]
    split
    · split <;> simp [tblGet, h.symm]
    · split
      · rename_i hik
        subst hik
        split <;> simp [tblGet, h.symm]
      · simp only [tblGet, tblGet_tblSet_other d d' v h t]

/-! ### Counters of a block -/

theorem Ctr.place_lt (c : Ctr) : c.place.2.1 < 64 := by cases c <;> decide

theorem ctrKey_subsystem (c : Ctr) {k : Nat} (hk : k < 2 ^ 20) : ctrKey c k / 2 ^ 26 = c.place.1 := by
  have hp := c.place_lt
  unfold ctrKey
  omega

/-! ### Requests -/

theorem triadIssued_sound {s : State} (hruns : triadRuns s = true) (hv : s.triad.voter = .sound) (f : State → State) : triadIssued s f = f s := by
  unfold triadIssued
  rw [if_pos hruns]
  exact voterIssue_sound (fun _ => hv) f

theorem exec_resetReq {s : State} (hruns : triadRuns s = true) (hv : s.triad.voter = .sound) (i : Fin 12) :
    exec (.resetReq i) s = .next (resetReq s (blockIndex i)) := by
  show execResetReq i s = _
  rw [execResetReq, triadIssued_sound hruns hv]

theorem exec_powerOff {s : State} (hruns : triadRuns s = true) (hv : s.triad.voter = .sound) (i : Fin 12) :
    exec (.powerOff i) s = .next (powerWrite s (blockIndex i) false) := by
  show execPowerOff i s = _
  rw [execPowerOff, triadIssued_sound hruns hv]

theorem exec_powerOn {s : State} (hruns : triadRuns s = true) (hv : s.triad.voter = .sound) (i : Fin 12) :
    exec (.powerOn i) s = .next (powerWrite s (blockIndex i) true) := by
  show execPowerOn i s = _
  rw [execPowerOn, triadIssued_sound hruns hv]

section
variable {s : State} {n : Nat} (hpower : (getBlock s n).power = true) (hbusy : (getBlock s n).busy = false) (hrising : (getBlock s n).rising = false)
include hpower hbusy hrising

theorem resetReq_ready : resetReq s n =
    if blockIdle s n then setBlock s n { getBlock s n with busy := true } else setBlock s n { getBlock s n with result := stNOTIDLE } := by
  unfold resetReq
  dsimp only
  rw [if_neg (by simp [hpower, hbusy, hrising])]

theorem powerWrite_off : powerWrite s n false =
    if (n = 2 ∨ n = 11 ∨ n = 15) ∧ blockIdle s n then setBlock s n { getBlock s n with power := false }
    else setBlock s n { getBlock s n with result := stNOTIDLE } := by
  unfold powerWrite
  simp [hpower, hbusy, hrising]

end

theorem powerWrite_on {s : State} {n : Nat} (hpower : (getBlock s n).power = false) :
    powerWrite s n true = setBlock s n { getBlock s n with power := true, rising := true } := by
  unfold powerWrite
  simp [hpower]

/-! ### A block in its reset state -/

theorem gatesEach_rest (s : State) (f : GateState → GateState) : (gatesEach s f).gh = s.gh ∧ (gatesEach s f).counters = s.counters := by
  unfold gatesEach
  generalize List.range 56 = nodes
  generalize List.range 256 = streams
  exact ⟨rfl, rfl⟩

theorem gatesStop_rest (s : State) : ∀ l : List Nat,
    (l.foldl (fun s n => if (tbGet s.time n).running then gatesEach s (gateStop s n) else s) s).gh = s.gh ∧
      (l.foldl (fun s n => if (tbGet s.time n).running then gatesEach s (gateStop s n) else s) s).counters = s.counters
  | [] => ⟨rfl, rfl⟩
  | n :: l => by
    rw [List.foldl_cons]
    split
    · obtain ⟨hgh, hcounters⟩ := gatesStop_rest (gatesEach s (gateStop s n)) l
      exact ⟨hgh.trans (gatesEach_rest ..).1, hcounters.trans (gatesEach_rest ..).2⟩
    · exact gatesStop_rest s l

theorem resetTime_rest (s : State) : (resetTime s).gh = s.gh ∧ (resetTime s).counters = s.counters := by
  have hstop := gatesStop_rest s [1, 2, 3]
  unfold resetTime
  generalize [1, 2, 3].foldl _ s = t at hstop
  obtain ⟨hgh, hcounters⟩ := gatesEach_rest { t with time := TimeUnit.reset } (gateStep { t with time := TimeUnit.reset } 0)
  exact ⟨hgh.trans hstop.1, hcounters.trans hstop.2⟩

/-- What the reset of a block leaves: the counters of the others, and the supply's record of the blocks. -/
theorem resetBlock_rest (s : State) (n : Nat) :
    (resetBlock s n).gh.blocks = s.gh.blocks ∧ (resetBlock s n).counters = s.counters.filter (fun e => e.1 / 2 ^ 26 != n) := by
  unfold resetBlock
  generalize s.counters.filter (fun e => e.1 / 2 ^ 26 != n) = left
  dsimp only
  split
  case h_2 =>
    have hcells := freeRx_storeOnly { s with counters := left }
    rw [hcells]
    exact ⟨rfl, rfl⟩
  case h_10 =>
    obtain ⟨hgh, hcounters⟩ := resetTime_rest { s with counters := left }
    exact ⟨congrArg (·.blocks) hgh, hcounters⟩
  case h_12 => exact ⟨rfl, rfl⟩
  all_goals simp

theorem getCtr_resetBlock (s : State) {c : Ctr} {k : Nat} (hk : k < 2 ^ 20) : getCtr (resetBlock s c.place.1) c k = 0 := by
  unfold getCtr
  rw [(resetBlock_rest s _).2]
  refine tblGet_filter_none fun e he => ?_
  rw [he, ctrKey_subsystem c hk]
  exact bne_self_eq_false _

/-- The ports of Face after its reset keep their calibration. -/
theorem ports_keepCalibration (m : Nat) : ∀ (l t : Tbl FacePort), Rising t → Rising l →
    tblGet (FacePort.reset m) (l.foldl (fun t e => tblSet (FacePort.reset e.1) t e.1 (keepCalibration e.1 e.2)) t) m =
      if m ∈ l.map (·.1) then keepCalibration m (tblGet (FacePort.reset m) l m) else tblGet (FacePort.reset m) t m
  | [], t, _, _ => by simp
  | (k, x) :: l, t, ht, hl => by
    obtain ⟨hlow, hl'⟩ := List.pairwise_cons.1 hl
    rw [List.foldl_cons, ports_keepCalibration m l _ (tblSet_rising _ _ _ ht) hl']
    by_cases hk : m = k
    · subst hk
      have hnot : m ∉ l.map (·.1) := by
        intro hm
        obtain ⟨e, he, hem⟩ := List.mem_map.1 hm
        exact absurd (hlow e he) (by simp [hem])
      rw [if_neg hnot, if_pos (by simp), tblGet_tblSet_rising _ _ _ ht, tblGet, if_pos rfl]
    · simp only [tblGet_tblSet_other _ _ _ hk, tblGet, if_neg (Ne.symm hk), List.map_cons, List.mem_cons, hk, false_or]

/-- A port of Face after the block's reset: its calibration, and else the reset state. -/
theorem getFp_resetBlock {s : State} (hports : Rising s.face.ports) (m : Nat) : getFp (resetBlock s 1) m = keepCalibration m (getFp s m) := by
  have hfold := ports_keepCalibration m s.face.ports [] List.Pairwise.nil hports
  refine hfold.trans ?_
  split
  · rfl
  · rename_i hm
    have hnone : tblGet (FacePort.reset m) s.face.ports m = FacePort.reset m :=
      tblGet_none _ _ fun e he hem => hm (List.mem_map.2 ⟨e, he, hem⟩)
    unfold getFp
    rw [hnone]
    rfl

theorem time_resetBlock (s : State) : (resetBlock s 10).time = TimeUnit.reset ∧ (resetBlock s 10).bench.disturbed = true := by
  unfold resetBlock resetTime
  generalize [1, 2, 3].foldl _ _ = t
  unfold gatesEach
  generalize List.range 56 = nodes
  generalize List.range 256 = streams
  exact ⟨rfl, rfl⟩

theorem pair_resetBlock (s : State) : (resetBlock s 15).pair.lane0 = false ∧ (resetBlock s 15).pair.lane1 = false ∧
    (resetBlock s 15).pair.role = (if s.pair.en then .active else .off) ∧
    (resetBlock s 15).pair.busHeld = (s.pair.busHeld || s.pair.role == .lead || s.pair.role == .follow || s.pair.role == .rejoin) :=
  ⟨rfl, rfl, rfl, by simp [resetBlock, setRole, pairPassive, Bool.or_assoc]⟩

theorem exec_blockResetComplete {s : State} {i : Fin 12} (h : (getBlock s (blockIndex i)).busy = true) : exec (.blockResetComplete i) s =
    .next (setBlock (resetBlock s (blockIndex i)) (blockIndex i) { getBlock s (blockIndex i) with busy := false, result := stOK }) := by
  show execBlockResetComplete i s = _
  have hsame : getBlock (resetBlock s (blockIndex i)) (blockIndex i) = getBlock s (blockIndex i) := by
    rw [getBlock, (resetBlock_rest s _).1, getBlock]
  rw [execBlockResetComplete, if_pos h]
  dsimp only
  rw [hsame]

theorem exec_blockPowerUpComplete {s : State} {i : Fin 12} (h : (getBlock s (blockIndex i)).rising = true) : exec (.blockPowerUpComplete i) s =
    .next (setBlock (resetBlock s (blockIndex i)) (blockIndex i) { getBlock s (blockIndex i) with rising := false }) := by
  show execBlockPowerUpComplete i s = _
  have hsame : getBlock (resetBlock s (blockIndex i)) (blockIndex i) = getBlock s (blockIndex i) := by
    rw [getBlock, (resetBlock_rest s _).1, getBlock]
  rw [execBlockPowerUpComplete, if_pos h]
  dsimp only
  rw [hsame]

theorem blocks_setBlock (s : State) (n : Nat) (x : Block) :
    (setBlock (resetBlock s n) n x).gh.blocks = (setBlock s n x).gh.blocks := by
  simp only [setBlock, (resetBlock_rest s n).1]

/-- Settles O49: a request by the state of its block, and the reset state of each block. -/
theorem blockControl : Obligations.BlockControl := by
  rintro s i n b hn rfl
  have hindex : blockIndex i = n := hn ▸ rfl
  subst hindex
  refine ⟨fun hruns hv hbusy hpower hrising => ?_, fun hruns hv hbusy hpower hrising => ?_, fun hruns hv hpower => ?_, fun hbusy => ?_,
    fun hrising => ?_⟩
  · rw [exec_resetReq hruns hv, resetReq_ready hpower hbusy hrising]
  · rw [exec_powerOff hruns hv, powerWrite_off hpower hbusy hrising]
  · rw [exec_powerOn hruns hv, powerWrite_on hpower]
  · refine ⟨_, exec_blockResetComplete hbusy, blocks_setBlock .., ?_⟩
    generalize blockIndex i = n
    refine ⟨fun c k hc hk => ?_, ?_, ?_, ?_, ?_, ?_, ?_, ?_, ?_, ?_, ?_, ?_, ?_⟩
    case refine_1 =>
      subst hc
      exact getCtr_resetBlock s hk
    case refine_13 =>
      rintro rfl hports m _
      exact ⟨congrArg (·.enable) (getFp_resetBlock hports m), congrArg (·.calTemp) (getFp_resetBlock hports m),
        congrArg (·.calibrated) (getFp_resetBlock hports m)⟩
    case refine_12 =>
      rintro rfl
      exact pair_resetBlock s
    case refine_10 =>
      rintro rfl
      exact time_resetBlock s
    all_goals
      rintro rfl
      rfl
  · refine ⟨_, exec_blockPowerUpComplete hrising, blocks_setBlock .., ?_⟩
    generalize blockIndex i = n
    refine ⟨?_, ?_, ?_⟩
    · rintro rfl
      rfl
    · rintro rfl
      rfl
    · rintro rfl
      exact ⟨rfl, rfl⟩

end Sys2Proof.Machine
end

section
/-! PROOFS. What a two-word instruction of a packet program does that completes (R46, R90). -/

namespace Sys2Proof.Machine

theorem ite_of {c a b : Prop} [Decidable c] (ha : c → a) (hb : ¬ c → b) : if c then a else b := by
  split
  · exact ha ‹c›
  · exact hb ‹¬ c›

/-- The thread t holds a packet at the instruction that it holds in s, with the registers that it has there. -/
structure AtInstr (s : State) (t : Nat) (S : State) : Prop where
  pc : (getThread S t).pc = (getThread s t).pc
  w : (getThread S t).w = (getThread s t).w
  pkt : ∃ q, (getThread S t).pkt = some q

theorem slotsTaken_thread {s : State} {t : Nat} {p : Packet} (n : Nat) (hp : (getThread s t).pkt = some p) :
    getThread (slotsTaken s t n) t = { getThread s t with slots := (getThread s t).slots + n } := threadTaken_thread n hp

theorem atInstr_slotsTaken {s : State} {t : Nat} {p : Packet} (hp : (getThread s t).pkt = some p) : AtInstr s t (slotsTaken s t 2) := by
  have hthread := slotsTaken_thread 2 hp
  exact ⟨by rw [hthread], by rw [hthread], ⟨p, by rw [hthread, hp]⟩⟩

/-- A change that leaves the threads. -/
theorem AtInstr.of_threads {s : State} {t : Nat} {S S' : State} (h : AtInstr s t S) (ht : S'.engine.threads = S.engine.threads) :
    AtInstr s t S' := by
  have hthread : getThread S' t = getThread S t := by
    unfold getThread
    rw [ht]
  exact ⟨by rw [hthread]; exact h.pc, by rw [hthread]; exact h.w, by rw [hthread]; exact h.pkt⟩

theorem AtInstr.setThread {s : State} {t : Nat} {S : State} {x : Thread} (hpc : x.pc = (getThread s t).pc) (hw : x.w = (getThread s t).w)
    {q : Packet} (hq : x.pkt = some q) : AtInstr s t (setThread S t x) := by
  have hthread : getThread (Machine.setThread S t x) t = x := getThread_setThread _ _ (Thread.ne_reset hq)
  exact ⟨by rw [hthread, hpc], by rw [hthread, hw], ⟨q, by rw [hthread, hq]⟩⟩

theorem AtInstr.setPkt {s : State} {t : Nat} {S : State} (h : AtInstr s t S) (q : Packet) : AtInstr s t (setPkt S t q) :=
  AtInstr.setThread h.pc h.w rfl

/-- An instruction that ends on the state s0 with a result and a status completes there. -/
theorem xDone_xEnd {s s0 : State} {t : Nat} (h : AtInstr s t s0) (hw : tblWf 0#64 (getThread s t).w = true) (s1 : State) (y : BitVec 32) (f : FmtX)
    (v : Option Word) (status detail high : Nat) :
    XDone s0 (threadEnd s1 t (getThread s t).pc (some y) (xEnd t f s0 v status detail high)) t f v status detail high := by
  obtain ⟨q, hq⟩ := h.pkt
  have hs := statusIs_set (d := f.d) v status detail high (r := (getThread s0 t).regs) (show tblWf 0#64 (getThread s0 t).w = true by rw [h.w]; exact hw)
  simp only [xEnd, threadEnd, Option.isSome_some, if_true, ← h.pc]
  generalize setStatus _ status detail high = r at hs ⊢
  have hset : (getThread s0 t).setRegs r ≠ Thread.reset := Thread.ne_reset (p := q) hq
  have hafter : afterInstr ((getThread s0 t).setRegs r) (getThread s0 t).pc ((getThread s0 t).pc + 8#64) ≠ Thread.reset :=
    Thread.ne_reset (p := q) (by rw [afterInstr_pkt]; exact hq)
  rw [getThread_setThread _ _ hset, setThread_setThread _ _ hset]
  have hend := getThread_setThread s0 t hafter
  refine ⟨?_, ?_, fun u hu => getThread_setThread_ne _ _ _ _ hu, rfl⟩
  · rw [hend]
    simpa [Thread.regs, Thread.setRegs] using hs
  · rw [hend]
    simp [Thread.setRegs]

/-- The issue of a two-word instruction of a thread. -/
theorem xLaw_of {i : Agent → Instr} {w y : BitVec 32} {R : State → Fin 512 → Packet → State → Prop} {run : Nat → State → Thread → Packet → TRes}
    (hi : ∀ t s, exec (i (.thread t)) s = .next (packetX (.thread t) w y run s))
    (h : ∀ (s : State) (t : Fin 512) (p : Packet), (getThread s t).pkt = some p → tblWf 0#64 (getThread s t).w = true →
      R s t p (threadEnd (slotsTaken s t 2) t (getThread s t).pc (some y)
        (run t (slotsTaken s t 2) { getThread s t with slots := (getThread s t).slots + 2 } p))) : XLaw i w y R := by
  intro s t p hissue hguard hblock hw
  refine ⟨_, hi t s, ?_⟩
  rw [packetX_issues run hissue hguard hblock]
  exact h s t p hissue.packet hw

end Sys2Proof.Machine
end

section
/-! PROOFS. What leaves the threads of the engines as they are: the operations of the data plane, in the order of the model. -/

namespace Sys2Proof.Machine

/-- The engine threads are as they were. -/
abbrev ThreadsKept (s s' : State) : Prop := s'.engine.threads = s.engine.threads

theorem ThreadsKept.refl (s : State) : ThreadsKept s s := rfl

theorem ThreadsKept.trans {a b c : State} (hab : ThreadsKept a b) (hbc : ThreadsKept b c) : ThreadsKept a c := by
  unfold ThreadsKept at *
  simp [hab, hbc]

@[simp] theorem ThreadsKept.foldl {β : Type} {f : State → β → State} (hf : ∀ s x, ThreadsKept s (f s x)) : ∀ (l : List β) (s : State), ThreadsKept s (l.foldl f s)
  | [], s => ThreadsKept.refl s
  | x :: l, s => (hf s x).trans (ThreadsKept.foldl hf l (f s x))

theorem ThreadsKept.ite {s a b : State} {c : Prop} [Decidable c] (ha : ThreadsKept s a) (hb : ThreadsKept s b) : ThreadsKept s (if c then a else b) := by
  split
  · exact ha
  · exact hb

theorem ThreadsKept.of_ok {s s' : State} {r : OwnRes} (hr : ThreadsKept s (r.left s)) (h : r = .ok s') : ThreadsKept s s' := by
  subst h
  exact hr

theorem ThreadsKept.of_done {s s' : State} {r : LrnOut} {st de wo : Nat} (hr : ThreadsKept s r.left) (h : r = .done s' st de wo) : ThreadsKept s s' := by
  subst h
  exact hr

theorem ThreadsKept.of_wait {s s' : State} {r : LrnOut} (hr : ThreadsKept s r.left) (h : r = .wait s') : ThreadsKept s s' := by
  subst h
  exact hr

@[simp] theorem bump_threads (s : State) (c : Ctr) (i n : Nat) : ThreadsKept s (bump s c i n) := by
  simp [ThreadsKept, bump]

@[simp] theorem postEvent_threads (s : State) (n : Nat) (payload : List Nat) : ThreadsKept s (postEvent s n payload) := by
  unfold postEvent
  dsimp only
  repeat' split
  all_goals simp [ThreadsKept]

@[simp] theorem setQueue_threads (s : State) (q : Nat) (x : QueueRec) : ThreadsKept s (setQueue s q x) := by
  simp [ThreadsKept, setQueue]

@[simp] theorem setPort_threads (s : State) (m : Nat) (x : PortRec) : ThreadsKept s (setPort s m x) := by
  simp [ThreadsKept, setPort]

@[simp] theorem setPool_threads (s : State) (p : Nat) (x : Pool) : ThreadsKept s (setPool s p x) := by
  simp [ThreadsKept, setPool]

@[simp] theorem setCell_threads (s : State) (c : Nat) (x : CellRec) : ThreadsKept s (setCell s c x) := by
  simp [ThreadsKept, setCell]

@[simp] theorem setChain_threads (s : State) (c : Nat) (x : Option Chain) : ThreadsKept s (setChain s c x) := by
  simp [ThreadsKept, setChain]

@[simp] theorem sendPfc_threads (s : State) (k quanta : Nat) : ThreadsKept s (sendPfc s k quanta) := by
  simp [ThreadsKept, sendPfc]

@[simp] theorem pfcLevel_threads (s : State) (p : Nat) : ThreadsKept s (pfcLevel s p) := by
  unfold pfcLevel
  dsimp only
  split
  · simp [ThreadsKept]
  · refine ThreadsKept.foldl (fun s k => ?_) _ s
    repeat' split
    all_goals simp [ThreadsKept]

@[simp] theorem takeCell_threads (p : Nat) (b : Option Nat) (s : State) (c : Nat) : ThreadsKept s (takeCell p b s c) := by
  simp [ThreadsKept, takeCell]

@[simp] theorem allocCells_threads (s : State) (p n : Nat) : ThreadsKept s (allocCells s p n).1 := by
  unfold allocCells
  dsimp only
  repeat' split
  all_goals simp [ThreadsKept]

@[simp] theorem freeCell_threads (s : State) (c : Nat) : ThreadsKept s (freeCell s c) := by
  unfold freeCell
  dsimp only
  repeat' split
  all_goals simp [ThreadsKept]

@[simp] theorem freeCells_threads (s : State) (cells : List Nat) : ThreadsKept s (freeCells s cells) := by
  simp [ThreadsKept, freeCells]

@[simp] theorem freeChain_threads (s : State) (first : Nat) : ThreadsKept s (freeChain s first) := by
  unfold freeChain
  repeat' split
  all_goals simp [ThreadsKept]

@[simp] theorem ownShare_threads (s : State) (h n x : Nat) : ThreadsKept s ((ownShare s h n x).left s) := by
  unfold ownShare
  repeat' split
  all_goals simp [ThreadsKept]

@[simp] theorem ownRelease_threads (s : State) (h : Nat) : ThreadsKept s ((ownRelease s h).left s) := by
  unfold ownRelease
  repeat' split
  all_goals simp [ThreadsKept]

@[simp] theorem ownFree_threads (s : State) (m h : Nat) : ThreadsKept s ((ownFree s m h).left s) := by
  unfold ownFree
  repeat' split
  all_goals simp [ThreadsKept]

@[simp] theorem dropHold_threads (s : State) (h : Nat) : ThreadsKept s (dropHold s h) := by
  unfold dropHold
  split
  · exact ThreadsKept.of_ok (ownFree_threads ..) ‹_›
  · split
    · exact ThreadsKept.of_ok (ownRelease_threads ..) ‹_›
    · exact ThreadsKept.refl s

@[simp] theorem setLedger_threads (s : State) (t : Nat) (l : List (Nat × Nat)) : ThreadsKept s (setLedger s t l) := by
  simp [ThreadsKept, setLedger]

@[simp] theorem ledgerAdd_threads (s : State) (t h n : Nat) : ThreadsKept s (ledgerAdd s t h n) := by
  simp [ThreadsKept, ledgerAdd]

@[simp] theorem ledgerSub_threads (s : State) (t h : Nat) : ThreadsKept s (ledgerSub s t h) := by
  simp [ThreadsKept, ledgerSub]

@[simp] theorem releaseHolds_threads (s : State) (h n : Nat) : ThreadsKept s (releaseHolds s h n).1 := by
  induction n generalizing s with
  | zero => exact ThreadsKept.refl s
  | succ n ih =>
    unfold releaseHolds
    split
    · exact (ThreadsKept.of_ok (ownRelease_threads ..) ‹_›).trans (ih _)
    · exact ThreadsKept.refl s

@[simp] theorem reclaimChain_threads (t : Nat) (s : State) (e : Nat × Nat) : ThreadsKept s (reclaimChain t s e) := by
  unfold reclaimChain
  split
  · dsimp only
    split
    · exact ((ThreadsKept.of_ok (ownFree_threads ..) ‹_›).trans (releaseHolds_threads ..)).trans (bump_threads ..)
    · split
      · exact (releaseHolds_threads ..).trans (bump_threads ..)
      · exact ThreadsKept.refl s
  · exact ThreadsKept.refl s

@[simp] theorem passEndReclaim_threads (s : State) (t : Nat) : ThreadsKept s (passEndReclaim s t) := by
  simp [ThreadsKept, passEndReclaim]

theorem takeDesc_threads {s s' : State} {i : Nat} (h : takeDesc s = some (i, s')) : ThreadsKept s s' := by
  unfold takeDesc at h
  split at h
  · cases h
  · obtain ⟨_, rfl⟩ : _ ∧ _ = s' := by simpa using h
    simp [ThreadsKept]

@[simp] theorem freeDesc_threads (s : State) (i : Nat) : ThreadsKept s (freeDesc s i) := by
  simp [ThreadsKept, freeDesc]

@[simp] theorem frameWrite_threads (s : State) (h o : Nat) (b : List Byte) : ThreadsKept s (frameWrite s h o b) := by
  unfold frameWrite
  repeat' split
  all_goals simp [ThreadsKept]

@[simp] theorem discardStored_threads (s : State) (h d : Nat) : ThreadsKept s (discardStored s h d) := by
  simp [ThreadsKept, discardStored]

@[simp] theorem markSpill_threads (s : State) (h : Nat) : ThreadsKept s (markSpill s h) := by
  unfold markSpill
  repeat' split
  all_goals simp [ThreadsKept]

@[simp] theorem setList_threads (s : State) (level parent cls : Nat) (l : List (Nat × Int)) : ThreadsKept s (setList s level parent cls l) := by
  simp [ThreadsKept, setList]

@[simp] theorem joinList_threads (s : State) (level i : Nat) : ThreadsKept s (joinList s level i) := by
  unfold joinList
  dsimp only
  repeat' split
  all_goals simp [ThreadsKept]

@[simp] theorem leaveList_threads (s : State) (level i : Nat) : ThreadsKept s (leaveList s level i) := by
  simp [ThreadsKept, leaveList]

@[simp] theorem joinUp_threads (s : State) (q : Nat) : ThreadsKept s (joinUp s q) := by
  simp [ThreadsKept, joinUp]

@[simp] theorem leaveUp_threads (s : State) (q : Nat) : ThreadsKept s (leaveUp s q) := by
  unfold leaveUp
  dsimp only
  repeat' split
  all_goals simp [ThreadsKept]

@[simp] theorem setFrames_threads (s : State) (q : Nat) (l : List Desc) : ThreadsKept s (setFrames s q l) := by
  unfold setFrames
  dsimp only
  repeat' split
  all_goals simp [ThreadsKept]

@[simp] theorem discardDesc_threads (s : State) (m : Nat) (d : Desc) : ThreadsKept s (discardDesc s m d) := by
  unfold discardDesc
  repeat' split
  all_goals simp [ThreadsKept]

@[simp] theorem notSent_threads (s : State) (q : Nat) (marked : Bool) : ThreadsKept s (notSent s q marked) := by
  unfold notSent
  repeat' split
  all_goals simp [ThreadsKept]

@[simp] theorem mapDescs_threads (f : Desc → Desc) (s : State) : ThreadsKept s (mapDescs f s) := by
  simp [ThreadsKept, mapDescs]

@[simp] theorem assignGen_threads (s : State) (src num : Nat) : ThreadsKept s (assignGen s src num) := by
  simp [ThreadsKept, assignGen]

@[simp] theorem setReorder_threads (s : State) (src : Nat) (l : List SeqEnt) : ThreadsKept s (setReorder s src l) := by
  simp [ThreadsKept, setReorder]

@[simp] theorem releaseFront_threads (src : Nat) (l : List SeqEnt) (s : State) : ThreadsKept s (releaseFront src l s) := by
  induction l generalizing s with
  | nil => exact setReorder_threads ..
  | cons e l ih =>
    unfold releaseFront
    split
    · exact ih s
    · split
      · exact (assignGen_threads ..).trans (ih _)
      · exact (setReorder_threads ..).trans (assignGen_threads ..)

@[simp] theorem seqFill_threads (s : State) (src num : Nat) : ThreadsKept s (seqFill s src num) := by
  simp [ThreadsKept, seqFill]

@[simp] theorem seqReady_threads (s : State) (src num : Nat) : ThreadsKept s (seqReady s src num) := by
  unfold seqReady
  dsimp only
  repeat' split
  all_goals simp [ThreadsKept]

@[simp] theorem displace_threads (q m k lim : Nat) (l : List Desc) (s : State) : ThreadsKept s (displace q m k lim l s) := by
  induction l generalizing s with
  | nil => exact ThreadsKept.refl s
  | cons d l ih =>
    unfold displace
    split
    · exact ThreadsKept.refl s
    · split
      · exact ih s
      · exact (((setFrames_threads ..).trans (discardDesc_threads ..)).trans (bump_threads ..)).trans (ih _)

@[simp] theorem admitTo_threads (s : State) (q k dp : Nat) (arrVc : Option Nat) : ThreadsKept s (admitTo s q k dp arrVc).1 := by
  unfold admitTo
  dsimp only
  repeat' split
  all_goals simp [ThreadsKept]

@[simp] theorem appendDesc_threads (s : State) (d : Desc) : ThreadsKept s (appendDesc s d) := by
  unfold appendDesc
  dsimp only
  repeat' split
  all_goals simp [ThreadsKept]

@[simp] theorem enqueue_threads (s : State) (d : Desc) : ThreadsKept s (enqueue s d).1 := by
  unfold enqueue
  dsimp only
  repeat' split
  all_goals simp [ThreadsKept]

@[simp] theorem setShaper_threads (s : State) (level i : Nat) (x : Shaper) : ThreadsKept s (setShaper s level i x) := by
  simp [ThreadsKept, setShaper]

@[simp] theorem chargeNode_threads (s : State) (level i : Nat) (green : Bool) (n : Int) : ThreadsKept s (chargeNode s level i green n) := by
  simp [ThreadsKept, chargeNode]

@[simp] theorem chargeRelease_threads (s : State) (q : Nat) (n : Int) : ThreadsKept s (chargeRelease s q n) := by
  simp [ThreadsKept, chargeRelease]

@[simp] theorem refundTx_threads (s : State) (tx : TxRec) (n : Int) : ThreadsKept s (refundTx s tx n) := by
  unfold refundTx
  repeat' split
  all_goals simp [ThreadsKept]

@[simp] theorem stompTx_threads (s : State) (sent : Nat) (tx : TxRec) : ThreadsKept s (stompTx s sent tx).1 := by
  simp [ThreadsKept, stompTx]

@[simp] theorem restorePn_threads (s : State) (m : Nat) (t : TxRec) : ThreadsKept s (restorePn s m t) := by
  simp [ThreadsKept, restorePn, faceRest]

@[simp] theorem putBack_threads (s : State) (m : Nat) (t : TxRec) : ThreadsKept s (putBack s m t) := by
  unfold putBack
  repeat' split
  all_goals simp [ThreadsKept]

@[simp] theorem unstart_threads (s : State) (m : Nat) (f : TxRec → Bool) : ThreadsKept s (unstart s m f) := by
  unfold unstart
  dsimp only
  repeat' split
  all_goals simp [ThreadsKept]

@[simp] theorem stompSpec_threads (s : State) (m d : Nat) : ThreadsKept s (stompSpec s m d) := by
  unfold stompSpec
  dsimp only
  repeat' split
  all_goals simp [ThreadsKept]

@[simp] theorem withdrawSpec_threads (s : State) (p : Packet) : ThreadsKept s (withdrawSpec s p) := by
  unfold withdrawSpec
  dsimp only
  repeat' split
  all_goals simp [ThreadsKept]

@[simp] theorem endSpec_threads (s : State) (p : Packet) : ThreadsKept s (endSpec s p).1 := by
  unfold endSpec
  repeat' split
  all_goals simp [ThreadsKept]

@[simp] theorem dropPacket_threads (s : State) (p : Packet) : ThreadsKept s (dropPacket s p) := by
  unfold dropPacket
  repeat' split
  all_goals simp [ThreadsKept]

@[simp] theorem detachLrn_threads (s : State) (t : Nat) : ThreadsKept s (detachLrn s t) := by
  simp [ThreadsKept, detachLrn]

@[simp] theorem logChange_threads (s : State) (r : DeltaRec) : ThreadsKept s (logChange s r) := by
  unfold logChange
  repeat' split
  all_goals simp [ThreadsKept]

@[simp] theorem violatePartner_threads (s : State) (p : Nat) : ThreadsKept s (violatePartner s p) := by
  unfold violatePartner
  dsimp only
  repeat' split
  all_goals simp [ThreadsKept]

@[simp] theorem setWay_threads (s : State) (v : Nat) (x : Option VEntry) : ThreadsKept s (setWay s v x) := by
  simp [ThreadsKept, setWay]

@[simp] theorem setConn_threads (s : State) (c : Nat) (x : Option Conn) : ThreadsKept s (setConn s c x) := by
  simp [ThreadsKept, setConn]

@[simp] theorem setBackPtr_threads (s : State) (i : Nat) (dir : Bool) (v : Option Nat) : ThreadsKept s (setBackPtr s i dir v) := by
  unfold setBackPtr
  repeat' split
  all_goals simp [ThreadsKept]

@[simp] theorem chooseWay_threads (s : State) (key : Nat) : ThreadsKept s (chooseWay s key).1 := by
  have hclear : ∀ l : List Nat, ThreadsKept s (l.foldl (fun s v => match getWay s v with
      | some x => setWay s v (some { x with hit := false })
      | none => s) s) := fun l => ThreadsKept.foldl (fun s v => by split <;> simp [ThreadsKept]) l s
  unfold chooseWay
  dsimp only
  repeat' split
  · exact ThreadsKept.refl s
  · exact ThreadsKept.refl s
  · exact ThreadsKept.refl s
  · exact hclear _

@[simp] theorem installVerdict_threads (s : State) (x : VEntry) : ThreadsKept s (installVerdict s x) := by
  unfold installVerdict
  dsimp only
  repeat' split
  all_goals simp [ThreadsKept]

@[simp] theorem installAtEnq_threads (s : State) (p : Packet) (q template dp : Nat) (cut : Bool) : ThreadsKept s (installAtEnq s p q template dp cut) := by
  unfold installAtEnq
  dsimp only
  repeat' split
  all_goals simp [ThreadsKept]

@[simp] theorem setHit_threads (s : State) (p : Packet) : ThreadsKept s (setHit s p) := by
  unfold setHit
  repeat' split
  all_goals simp [ThreadsKept]

@[simp] theorem setPairCount_threads (s : State) (x y n : Nat) : ThreadsKept s (setPairCount s x y n) := by
  simp [ThreadsKept, setPairCount]

@[simp] theorem clearCached_threads (s : State) (i : Nat) (c : Conn) : ThreadsKept s (clearCached s i c) := by
  unfold clearCached
  repeat' split
  all_goals simp [ThreadsKept]

@[simp] theorem removeConn_threads (s : State) (i : Nat) (c : Conn) : ThreadsKept s (removeConn s i c) := by
  simp [ThreadsKept, removeConn]

@[simp] theorem connEvent_threads (s : State) (e typ i : Nat) (c : Conn) : ThreadsKept s (connEvent s e typ i c) := by
  unfold connEvent
  repeat' split
  all_goals simp [ThreadsKept]

@[simp] theorem conFail_threads (s : State) (status detail : Nat) : ThreadsKept s (conFail s status detail).st := by
  simp [ThreadsKept, conFail]

@[simp] theorem conOk_threads (s : State) (i : Nat) (c : Conn) (detail : Nat) (ev : Nat) : ThreadsKept s (conOk s i c detail ev).st := by
  simp [ThreadsKept, conOk]

theorem unlessPassive_threads {s : State} {r : ConRes} (h : ThreadsKept s r.st) : ThreadsKept s (unlessPassive s r).st := by
  unfold unlessPassive
  split
  · exact ThreadsKept.refl s
  · exact h

@[simp] theorem conLookupOp_threads (s : State) (e key ev : Nat) : ThreadsKept s (conLookupOp s e key ev).st := by
  unfold conLookupOp
  repeat' split
  all_goals simp [ThreadsKept]

@[simp] theorem conUpdateFound_threads (s : State) (e i : Nat) (c : Conn) (ev det : Nat) : ThreadsKept s (conUpdateFound s e i c ev det).st := by
  unfold conUpdateFound
  repeat' split
  all_goals simp [ThreadsKept]

@[simp] theorem conUpdateOp_threads (s : State) (e key ev : Nat) : ThreadsKept s (conUpdateOp s e key ev).st := by
  unfold conUpdateOp
  split
  · exact conFail_threads ..
  · exact unlessPassive_threads (conUpdateFound_threads ..)

@[simp] theorem conCloseOp_threads (s : State) (key ev : Nat) : ThreadsKept s (conCloseOp s key ev).st := by
  unfold conCloseOp
  split
  · exact conFail_threads ..
  · exact unlessPassive_threads (by simp [ThreadsKept])

@[simp] theorem conCreate_threads (s : State) (e partner key x y ev : Nat) : ThreadsKept s (conCreate s e partner key x y ev).st := by
  unfold conCreate
  dsimp only
  repeat' split
  all_goals simp [ThreadsKept]

@[simp] theorem conOpenOp_threads (s : State) (e partner key x y ev : Nat) : ThreadsKept s (conOpenOp s e partner key x y ev).st := by
  unfold conOpenOp
  split
  · refine unlessPassive_threads ?_
    split
    · exact (conUpdateFound_threads ..).trans (bump_threads ..)
    · exact conUpdateFound_threads ..
  · exact unlessPassive_threads (conCreate_threads ..)

@[simp] theorem setPolicer_threads (s : State) (i : Nat) (x : Policer) : ThreadsKept s (setPolicer s i x) := by
  simp [ThreadsKept, setPolicer]

@[simp] theorem countMeter_threads (s : State) (i n colour detail : Nat) : ThreadsKept s (countMeter s i n colour detail) := by
  unfold countMeter
  repeat' split
  all_goals simp [ThreadsKept]

@[simp] theorem meter_threads (s : State) (i n inp : Nat) : ThreadsKept s (meter s i n inp).1 := by
  unfold meter
  dsimp only
  repeat' split
  all_goals simp [ThreadsKept]

@[simp] theorem addDelay_threads (s : State) (m tc d : Nat) : ThreadsKept s (addDelay s m tc d) := by
  simp [ThreadsKept, addDelay]

@[simp] theorem settleTx_threads (s : State) (m : Nat) (t : TxRec) : ThreadsKept s (settleTx s m t) := by
  unfold settleTx
  dsimp only
  repeat' split
  all_goals simp [ThreadsKept]

@[simp] theorem hostWrite_threads (s : State) (a : Nat) (b : List Byte) : ThreadsKept s (hostWrite s a b) := by
  simp [ThreadsKept, hostWrite]

@[simp] theorem fireMsix_threads (s : State) (v : Nat) : ThreadsKept s (fireMsix s v) := by
  simp [ThreadsKept, fireMsix]

@[simp] theorem setPair_p_threads (s : State) (q : Nat) (x : QPair) : ThreadsKept s (setPair' s q x) := by
  simp [ThreadsKept, setPair']

@[simp] theorem puntHost_threads (s : State) (q reason : Nat) (p : Packet) : ThreadsKept s (puntHost s q reason p) := by
  unfold puntHost
  dsimp only
  repeat' split
  all_goals simp [ThreadsKept]

@[simp] theorem puntTriad_threads (s : State) (reason : Nat) (p : Packet) : ThreadsKept s (puntTriad s reason p) := by
  unfold puntTriad
  dsimp only
  repeat' split
  all_goals simp [ThreadsKept]

@[simp] theorem breach_threads (s : State) (partner code node : Nat) : ThreadsKept s (breach s partner code node) := by
  simp [ThreadsKept, breach]

@[simp] theorem setSpoil_threads (s : State) (m : Nat) (l : List SpoilEnt) : ThreadsKept s (setSpoil s m l) := by
  simp [ThreadsKept, setSpoil]

@[simp] theorem bankCells_threads (e : Nat) (cells : List Nat) (s : State) : ThreadsKept s (bankCells e cells s) := by
  simp [ThreadsKept, bankCells]

@[simp] theorem confirmPort_threads (s : State) (m i : Nat) (mark : Option (Nat × Nat)) : ThreadsKept s (confirmPort s m i mark) := by
  have hlanes : ∀ (l : List TxRec) (s : State), ThreadsKept s (l.foldl (fun s u =>
      let s := if u.parked then bump s .preempted m 1 else s
      match txLane s u with
      | some e => if m ≥ 59 then bump s .cellsTx (8 * e.1 + e.2) (ceilDiv u.done 240) else s
      | none => s) s) := fun l => ThreadsKept.foldl (fun s u => by
    dsimp only
    repeat' split
    all_goals simp [ThreadsKept]) l
  unfold confirmPort
  exact ((setPort_threads ..).trans (hlanes ..)).trans (ThreadsKept.foldl (fun s u => settleTx_threads s m _) _ _)

@[simp] theorem writeBack_threads (s : State) (t : Nat) (p : Packet) : ThreadsKept s (writeBack s t p) := by
  simp [ThreadsKept, writeBack]

@[simp] theorem readySeq_threads (s : State) (p : Packet) : ThreadsKept s (readySeq s p) := by
  unfold readySeq
  repeat' split
  all_goals simp [ThreadsKept]

@[simp] theorem fillSeq_threads (s : State) (p : Packet) : ThreadsKept s (fillSeq s p) := by
  unfold fillSeq
  repeat' split
  all_goals simp [ThreadsKept]

@[simp] theorem mcastCopy_threads (p : Packet) (noSelf : Bool) (s : State) (e : Nat × Nat) : ThreadsKept s (mcastCopy p noSelf s e) := by
  unfold mcastCopy
  dsimp only
  split
  · exact bump_threads ..
  split
  · exact ThreadsKept.refl s
  split
  · exact breach_threads ..
  split
  · exact bump_threads ..
  split
  · exact bump_threads ..
  case h_2 i s1 hdesc =>
    have hrefused : ∀ s2, ThreadsKept s1 s2 → ThreadsKept s s2 := fun _ h => (takeDesc_threads hdesc).trans h
    repeat' split
    all_goals exact hrefused _ (by simp [ThreadsKept])

@[simp] theorem setTable_threads (s : State) (t : Nat) (x : Option LTable) : ThreadsKept s (setTable s t x) := by
  simp [ThreadsKept, setTable]

@[simp] theorem setTier_threads (s : State) (dram : Bool) (x : LTier) : ThreadsKept s (setTier s dram x) := by
  unfold setTier
  repeat' split
  all_goals simp [ThreadsKept]

@[simp] theorem setSlot_threads (s : State) (dram : Bool) (i : Nat) (x : LSlot) : ThreadsKept s (setSlot s dram i x) := by
  simp [ThreadsKept, setSlot]

@[simp] theorem setOvf_threads (s : State) (dram : Bool) (i : Nat) (x : LSlot) : ThreadsKept s (setOvf s dram i x) := by
  simp [ThreadsKept, setOvf]

@[simp] theorem modEntry_threads (s : State) (dram : Bool) (l : Loc) (f : LSlot → LSlot) : ThreadsKept s (modEntry s dram l f) := by
  unfold modEntry
  repeat' split
  all_goals simp [ThreadsKept]

@[simp] theorem modParts_threads (s : State) (dram : Bool) (l : Loc) (f : LSlot → LSlot) : ThreadsKept s (modParts s dram l f) := by
  unfold modParts
  repeat' split
  all_goals simp [ThreadsKept]

@[simp] theorem placeEntry_threads (s : State) (d : TableDef) (l : Loc) (e : NewEntry) : ThreadsKept s (placeEntry s d l e) := by
  unfold placeEntry
  repeat' split
  all_goals simp [ThreadsKept]

@[simp] theorem copyEntry_threads (s : State) (dram : Bool) (i g : Nat) : ThreadsKept s (copyEntry s dram i g) := by
  simp [ThreadsKept, copyEntry]

@[simp] theorem mergeEntry_threads (s : State) (dram : Bool) (i g : Nat) : ThreadsKept s (mergeEntry s dram i g) := by
  simp [ThreadsKept, mergeEntry]

@[simp] theorem lookupEvent_threads (s : State) (d : TableDef) (typ partner t key : Nat) : ThreadsKept s (lookupEvent s d typ partner t key) := by
  unfold lookupEvent
  repeat' split
  all_goals simp [ThreadsKept]

theorem evictEntry_threads {s s' : State} {d : TableDef} {e : NewEntry} {partner k : Nat} (h : evictEntry s d e partner = some (s', k)) :
    ThreadsKept s s' := by
  unfold evictEntry at h
  dsimp only at h
  split at h
  · cases h
  · obtain ⟨rfl, _⟩ : _ = s' ∧ _ := by simpa using h
    split <;> simp [ThreadsKept]

@[simp] theorem learnedKey_threads (s : State) (c : LrnCtx) : ThreadsKept s (learnedKey s c) := by
  unfold learnedKey
  repeat' split
  all_goals simp [ThreadsKept]

@[simp] theorem lrnApply_threads (s : State) (c : LrnCtx) : ThreadsKept s (lrnApply s c).left := by
  unfold lrnApply
  dsimp only
  repeat' split
  on_goal -1 => exact (evictEntry_threads ‹_›).trans (learnedKey_threads ..)
  all_goals simp [ThreadsKept]

@[simp] theorem relocFinish_threads (s : State) (r : Reloc) : ThreadsKept s (relocFinish s r).left := by
  unfold relocFinish
  dsimp only
  repeat' split
  all_goals simp [ThreadsKept]

@[simp] theorem lrnPassive_threads (s : State) (c : LrnCtx) : ThreadsKept s (lrnPassive s c).left := by
  unfold lrnPassive
  repeat' split
  all_goals simp [ThreadsKept]

@[simp] theorem lrnServe_threads (s : State) (c : LrnCtx) : ThreadsKept s (lrnServe s c).left := by
  unfold lrnServe
  split
  · unfold lrnPassive
    split <;> exact ThreadsKept.refl s
  · exact lrnApply_threads s c

@[simp] theorem lrnIssue_threads (s : State) (c : LrnCtx) : ThreadsKept s (lrnIssue s c).left := by
  unfold lrnIssue
  dsimp only
  repeat' split
  all_goals simp [ThreadsKept]

@[simp] theorem delApply_threads (s : State) (t : Nat) (d : TableDef) (key : Nat) : ThreadsKept s (delApply s t d key).1 := by
  unfold delApply
  repeat' split
  all_goals simp [ThreadsKept]

@[simp] theorem lkpExact_threads (s : State) (t key : Nat) : ThreadsKept s (lkpExact s t key).1 := by
  unfold lkpExact
  dsimp only
  repeat' split
  all_goals simp [ThreadsKept]

@[simp] theorem loopSkip_threads (t len : Nat) (s : State) : ThreadsKept s ((loopSkip t len s).left s) := by
  simp [ThreadsKept, loopSkip]

end Sys2Proof.Machine
end

section
/-! PROOFS. METER and VERDICT (R102, R103, R268, R274, R347). -/

namespace Sys2Proof.Machine

/-! ### METER -/

/-- Tokens and remainder of a bucket at an instant that does not lie before its last refill. -/
def bucketAt (now rate burst : Nat) (k : Int) (m u : Nat) : Int × Nat :=
  let a := rate * (now - u) * 65536 + m
  if k + (a / 1000000 : Nat) > burst * 65536 then ((burst * 65536 : Nat), 0) else (k + (a / 1000000 : Nat), a % 1000000)

theorem refill_eq {rate burst : Nat} {k : Int} {m u now : Nat} (h : u ≤ now) :
    refill rate burst k m u now = ((bucketAt now rate burst k m u).1, (bucketAt now rate burst k m u).2, now) := by
  unfold refill bucketAt
  rw [if_neg (by omega)]
  dsimp only
  split <;> rfl

/-- A policer with both buckets filled to an instant. -/
def filledPolicer (now : Nat) (x : Policer) : Policer :=
  { x with
    ct := (bucketAt now x.cir x.cbs x.ct x.cRem x.cu).1, cRem := (bucketAt now x.cir x.cbs x.ct x.cRem x.cu).2, cu := now
    pt := (bucketAt now x.pir x.pbs x.pt x.pRem x.pu).1, pRem := (bucketAt now x.pir x.pbs x.pt x.pRem x.pu).2, pu := now }

theorem refillPolicer_eq {x : Policer} {now : Nat} (hc : x.cu ≤ now) (hp : x.pu ≤ now) : refillPolicer x now = filledPolicer now x := by
  unfold refillPolicer filledPolicer
  rw [refill_eq hc, refill_eq hp]

/-- The counts of a coloured frame. -/
def coloured (s : State) (i n : Nat) (y : Policer) (k kb : Ctr) : State := bump (bump (setPolicer s i y) k i 1) kb i n

theorem countMeter_colour (s : State) (i n : Nat) (y : Policer) {colour : Nat} (h : colour ≤ 2) :
    countMeter (setPolicer s i y) i n colour 0 =
      if colour = 0 then coloured s i n y .green .greenBytes else if colour = 1 then coloured s i n y .yellow .yellowBytes
      else coloured s i n y .red .redBytes := by
  interval_cases colour <;> rfl

theorem countMeter_blocked (s : State) (i n : Nat) (y : Policer) :
    countMeter (setPolicer s i y) i n 2 4 = bump (coloured s i n y .red .redBytes) .sfBlocked i 1 := rfl

theorem countMeter_oversize (s : State) (i n : Nat) (y : Policer) :
    countMeter (setPolicer s i y) i n 2 1 = bump (coloured s i n y .red .redBytes) .sfOversize i 1 := rfl

theorem countMeter_closed (s : State) (i n : Nat) (y : Policer) {d : Nat} (hd : d = 0 ∨ d = 8) :
    countMeter (setPolicer s i y) i n 2 (2 + d) = bump (coloured s i n y .red .redBytes) .sfGateClosed i 1 := by
  rcases hd with rfl | rfl <;> rfl

/-- The priority value of a stream gate's entry, and the bit of the detail that says that it has one. -/
def gateIpv (g : Option GateEnt) : Nat := match g with | some v => if v.v.testBit 3 then v.v % 8 else 0 | none => 0
def gateValid (g : Option GateEnt) : Nat := match g with | some v => if v.v.testBit 3 then 8 else 0 | none => 0

theorem gateValid_cases (g : Option GateEnt) : gateValid g = 0 ∨ gateValid g = 8 := by
  unfold gateValid
  split
  · split <;> simp
  · simp

/-- The answer of a configured policer that gives a colour. -/
def meterGives (colour detail ipv : Nat) : MeterRes := { ok := true, colour := colour, detail := detail, ipv := ipv }

section
variable {s : State} {i n inp : Nat} {x : Policer} {g : Option GateEnt} (hx : refillPolicer (getPolicer s i) s.localNs = x)
include hx

theorem meter_absent (hmode : x.mode = 0) : meter s i n inp = (s, { ok := false, colour := 0, detail := 0, ipv := 0 }) := by
  unfold meter
  dsimp only
  rw [hx, if_pos hmode]

variable (hmode : x.mode ≠ 0)
include hmode

theorem meter_blocked (hblocked : x.blocked = true) :
    meter s i n inp = (bump (coloured s i n x .red .redBytes) .sfBlocked i 1, meterGives 2 4 0) := by
  unfold meter
  dsimp only
  rw [hx, if_neg hmode, if_pos hblocked, countMeter_blocked]
  rfl

variable (hfree : ¬ x.blocked = true)
include hfree

theorem meter_oversize (hsize : 0 < x.maxSdu ∧ x.maxSdu < n) :
    meter s i n inp = (bump (coloured s i n { x with blocked := x.blockOversize } .red .redBytes) .sfOversize i 1, meterGives 2 1 0) := by
  have hblock : (if x.blockOversize then { x with blocked := true } else x) = { x with blocked := x.blockOversize } := by
    have hsame : { x with blocked := false } = x := by
      cases x
      simp_all
    have hput (b : Bool) (hb : x.blockOversize = b) : { x with blocked := b } = { x with blocked := x.blockOversize } := by
      subst hb
      rfl
    split
    · exact hput true (by assumption)
    · exact hsame.symm.trans (hput false (by simpa using ‹¬ x.blockOversize = true›))
  unfold meter
  dsimp only
  rw [hx, if_neg hmode, if_neg hfree, if_pos hsize, countMeter_oversize, hblock]
  rfl

variable (hfits : ¬ (0 < x.maxSdu ∧ x.maxSdu < n)) (hg : (if x.sgEn then (gateAt s (getSgate s x.sg) 0).1 else none) = g)
include hfits hg

theorem meter_closed (hclosed : ∃ v, g = some v ∧ v.v.testBit 4 = false) :
    meter s i n inp = (bump (coloured s i n x .red .redBytes) .sfGateClosed i 1, meterGives 2 (2 + gateValid g) (gateIpv g)) := by
  obtain ⟨v, rfl, hv⟩ := hclosed
  rw [← testBit_eq_bitOf] at hv
  unfold meter
  dsimp only
  rw [hx, if_neg hmode, if_neg hfree, if_neg hfits, hg]
  dsimp only
  rw [if_pos (by simp [hv]), countMeter_closed _ _ _ _ (by split <;> simp)]
  simp only [meterGives, gateValid, gateIpv, testBit_eq_bitOf]

theorem meter_open (hopen : ¬ ∃ v, g = some v ∧ v.v.testBit 4 = false) :
    meter s i n inp = (countMeter (setPolicer s i (policerColour x n inp).2) i n (policerColour x n inp).1 0,
      meterGives (policerColour x n inp).1 (gateValid g) (gateIpv g)) := by
  unfold meter
  dsimp only
  rw [hx, if_neg hmode, if_neg hfree, if_neg hfits, hg]
  cases g with
  | none => rfl
  | some v =>
    have hv : bitOf v.v 4 = true := by
      rw [testBit_eq_bitOf]
      by_contra hv
      exact hopen ⟨v, rfl, by simpa using hv⟩
    dsimp only
    rw [if_neg (by simp [hv])]
    simp only [meterGives, gateValid, gateIpv, testBit_eq_bitOf]

end

theorem coloured_threads (s : State) (i n : Nat) (y : Policer) (k kb : Ctr) : ThreadsKept s (coloured s i n y k kb) := rfl

/-- METER's end with the answer of its policer. -/
theorem meter_end {s : State} {t : Fin 512} {p : Packet} (f : FmtX) (hp : (getThread s t).pkt = some p) (hw : tblWf 0#64 (getThread s t).w = true)
    {S : State} (hS : ThreadsKept (slotsTaken s t 2) S) {r : State × MeterRes} {colour detail ipv : Nat} (hr : r = (S, meterGives colour detail ipv))
    (s1 : State) (y : BitVec 32) :
    XDone S (threadEnd s1 t (getThread s t).pc (some y)
      (if r.2.ok then xEnd t f r.1 (some (BitVec.ofNat 64 r.2.colour)) stOK r.2.detail r.2.ipv else xEnd t f r.1 (some 0#64) stDENIED 0 0))
      t f (some (BitVec.ofNat 64 colour)) stOK detail ipv := by
  subst hr
  rw [if_pos (show (S, meterGives colour detail ipv).2.ok = true from rfl)]
  exact xDone_xEnd ((atInstr_slotsTaken hp).of_threads hS) hw s1 y f _ _ _ _

/-- METER's end where the policer is not configured. -/
theorem meter_refused_end {s : State} {t : Fin 512} {p : Packet} (f : FmtX) (hp : (getThread s t).pkt = some p)
    (hw : tblWf 0#64 (getThread s t).w = true) {S : State} (hS : ThreadsKept (slotsTaken s t 2) S) {r : State × MeterRes}
    (hr : r = (S, { ok := false, colour := 0, detail := 0, ipv := 0 })) (s1 : State) (y : BitVec 32) :
    XDone S (threadEnd s1 t (getThread s t).pc (some y)
      (if r.2.ok then xEnd t f r.1 (some (BitVec.ofNat 64 r.2.colour)) stOK r.2.detail r.2.ipv else xEnd t f r.1 (some 0#64) stDENIED 0 0))
      t f (some 0#64) stDENIED 0 0 := by
  subst hr
  rw [if_neg Bool.false_ne_true]
  exact xDone_xEnd ((atInstr_slotsTaken hp).of_threads hS) hw s1 y f _ _ _ _

/-- What a policer decides, in the order of its conditions. -/
theorem meter_decides {s : State} {i n color : Nat} {x : Policer} (hx : getPolicer s i = x) {g : Option GateEnt}
    (hg : (if x.sgEn then (gateAt s (getSgate s x.sg) 0).1 else none) = g) (hcu : x.cu ≤ s.localNs) (hpu : x.pu ≤ s.localNs)
    {b : Int} (hb : b = n * 65536) {full : Policer} (hfull : full = filledPolicer s.localNs x)
    {refused : Prop} (hrefused : meter s i n color = (s, { ok := false, colour := 0, detail := 0, ipv := 0 }) → refused)
    {done : State → Nat → Nat → Nat → Prop}
    (hdone : ∀ {S colour detail ipv}, ThreadsKept s S → meter s i n color = (S, meterGives colour detail ipv) → done S colour detail ipv) :
    if x.mode = 0 then refused
    else if x.blocked = true then done (bump (coloured s i n full .red .redBytes) .sfBlocked i 1) 2 4 0
    else if 0 < x.maxSdu ∧ x.maxSdu < n then
      done (bump (coloured s i n { full with blocked := x.blockOversize } .red .redBytes) .sfOversize i 1) 2 1 0
    else if (∃ v, g = some v ∧ v.v.testBit 4 = false) then
      done (bump (coloured s i n full .red .redBytes) .sfGateClosed i 1) 2 (2 + gateValid g) (gateIpv g)
    else if x.mode = 1 then
      if color = 2 ∨ full.pt < b then done (coloured s i n full .red .redBytes) 2 (gateValid g) (gateIpv g)
      else if color = 1 ∨ full.ct < b then
        done (coloured s i n { full with pt := full.pt - b } .yellow .yellowBytes) 1 (gateValid g) (gateIpv g)
      else done (coloured s i n { full with pt := full.pt - b, ct := full.ct - b } .green .greenBytes) 0 (gateValid g) (gateIpv g)
    else if (color = 0 ∨ color = 3) ∧ b ≤ full.ct then
      done (coloured s i n { full with ct := full.ct - b } .green .greenBytes) 0 (gateValid g) (gateIpv g)
    else if color ≠ 2 ∧ b ≤ full.pt then
      done (coloured s i n { full with pt := full.pt - b } .yellow .yellowBytes) 1 (gateValid g) (gateIpv g)
    else done (coloured s i n full .red .redBytes) 2 (gateValid g) (gateIpv g) := by
  subst hb hfull
  have hfill : refillPolicer (getPolicer s i) s.localNs = filledPolicer s.localNs x := by
    rw [hx]
    exact refillPolicer_eq hcu hpu
  refine ite_of (fun hmode => hrefused (meter_absent hfill hmode)) fun hmode => ?_
  refine ite_of (fun hblocked => hdone rfl (meter_blocked hfill hmode hblocked)) fun hblocked => ?_
  refine ite_of (fun hsize => hdone rfl (meter_oversize hfill hmode hblocked hsize)) fun hsize => ?_
  refine ite_of (fun hclosed => hdone rfl (meter_closed hfill hmode hblocked hsize hg hclosed)) fun hclosed => ?_
  have hcolour : meter s i n color = _ := meter_open hfill hmode hblocked hsize (g := g) hg hclosed
  have hgives {colour : Nat} {y : Policer} (hle : colour ≤ 2) (hy : policerColour (filledPolicer s.localNs x) n color = (colour, y)) :
      meter s i n color =
        (if colour = 0 then coloured s i n y .green .greenBytes else if colour = 1 then coloured s i n y .yellow .yellowBytes
          else coloured s i n y .red .redBytes, meterGives colour (gateValid g) (gateIpv g)) := by
    rw [hcolour, hy, countMeter_colour _ _ _ _ hle]
  unfold policerColour at hgives
  by_cases htwo : x.mode = 1
  · rw [if_pos htwo]
    rw [if_pos (show (filledPolicer s.localNs x).mode = 1 from htwo)] at hgives
    refine ite_of (fun hred => ?_) fun hred => ite_of (fun hyellow => ?_) fun hyellow => ?_
    · rw [if_pos hred] at hgives
      exact hdone rfl (hgives (by decide) rfl)
    · rw [if_neg hred, if_pos hyellow] at hgives
      exact hdone rfl (hgives (by decide) rfl)
    · rw [if_neg hred, if_neg hyellow] at hgives
      exact hdone rfl (hgives (by decide) rfl)
  · rw [if_neg htwo]
    rw [if_neg (show ¬ (filledPolicer s.localNs x).mode = 1 from htwo)] at hgives
    refine ite_of (fun hgreen => ?_) fun hgreen => ite_of (fun hyellow => ?_) fun hyellow => ?_
    · rw [if_pos hgreen] at hgives
      exact hdone rfl (hgives (by decide) rfl)
    · rw [if_neg hgreen, if_pos hyellow] at hgives
      exact hdone rfl (hgives (by decide) rfl)
    · rw [if_neg hgreen, if_neg hyellow] at hgives
      exact hdone rfl (hgives (by decide) rfl)

/-! ### VERDICT -/

theorem confirmSpec_atInstr {s : State} {t : Nat} {S : State} (h : AtInstr s t S) (p : Packet) : AtInstr s t (confirmSpec S t p) := by
  unfold confirmSpec
  dsimp only
  refine AtInstr.setPkt (h.of_threads ?_) _
  repeat' split
  all_goals simp

theorem verdictConfirm_xLaw (f : FmtX) : XLaw (.verdictConfirm · f) (encX 0x6A f 0) f.desc (fun s t p s' =>
    let same := xa s t f % 2 ^ 19 = p.specQueue ∧ xb s t f % 2 ^ 12 = p.specTemplate
    match p.spec with
    | .confirmed => XDone (slotsTaken s t 2) s' t f none (if same then stOK else stMISS) 0 0
    | .refused => XDone (slotsTaken s t 2) s' t f none stFULL 0 0
    | .full => XDone (slotsTaken s t 2) s' t f none stFULL 0 0
    | .none => XDone (slotsTaken s t 2) s' t f none stMISS 0 0
    | .withdrawn => XDone (slotsTaken s t 2) s' t f none stMISS 0 0
    | .standing =>
      (¬ same → XDone (setPkt (withdrawSpec (slotsTaken s t 2) p) t { p with spec := .withdrawn }) s' t f none stMISS 0 0)
      ∧ (same → zoneAllowed s p p.specQueue = true → XDone (confirmSpec (slotsTaken s t 2) t p) s' t f none stOK 0 0)
      ∧ (same → zoneAllowed s p p.specQueue = false →
        XDone (setPkt (withdrawSpec (breach (slotsTaken s t 2) p.partner 3 p.src) p) t { p with spec := .withdrawn }) s' t f none stMISS 0 0)) := by
  refine xLaw_of (fun t s => rfl) fun s t p hp hw => ?_
  intro same
  have hat := atInstr_slotsTaken hp
  cases hspec : p.spec with
  | none => exact xDone_xEnd hat hw _ _ f _ _ _ _
  | withdrawn => exact xDone_xEnd hat hw _ _ f _ _ _ _
  | refused => exact xDone_xEnd hat hw _ _ f _ _ _ _
  | full => exact xDone_xEnd hat hw _ _ f _ _ _ _
  | confirmed =>
    have hstatus : (if decide same = true then stOK else stMISS) = if same then stOK else stMISS := by simp
    dsimp only
    rw [← hstatus]
    exact xDone_xEnd hat hw _ _ f _ _ _ _
  | standing =>
    refine ⟨fun hdiffers => ?_, fun hsame hallowed => ?_, fun hsame hdenied => ?_⟩
    · change XDone _ (threadEnd _ _ _ _ (if decide same = false then _ else _)) _ _ _ _ _ _
      rw [if_pos (decide_eq_false hdiffers)]
      exact xDone_xEnd ((hat.of_threads (withdrawSpec_threads ..)).setPkt _) hw _ _ f _ _ _ _
    · change XDone _ (threadEnd _ _ _ _ (if decide same = false then _ else if zoneAllowed s p p.specQueue = true then _ else _)) _ _ _ _ _ _
      rw [if_neg (by simp [hsame]), if_pos hallowed]
      exact xDone_xEnd (confirmSpec_atInstr hat p) hw _ _ f _ _ _ _
    · change XDone _ (threadEnd _ _ _ _ (if decide same = false then _ else if zoneAllowed s p p.specQueue = true then _ else _)) _ _ _ _ _ _
      rw [if_neg (by simp [hsame]), if_neg (by simp [hdenied])]
      exact xDone_xEnd (((hat.of_threads (breach_threads ..)).of_threads (withdrawSpec_threads ..)).setPkt _) hw _ _ f _ _ _ _

theorem verdictWithdraw_xLaw (f : FmtX) : XLaw (.verdictWithdraw · f) (encX 0x6A f 1) f.desc (fun s t p s' =>
    if p.spec = .standing then XDone (setPkt (withdrawSpec (slotsTaken s t 2) p) t { p with spec := .withdrawn }) s' t f none stOK 0 0
    else XDone (slotsTaken s t 2) s' t f none stMISS 0 0) := by
  refine xLaw_of (fun t s => rfl) fun s t p hp hw => ?_
  have hat := atInstr_slotsTaken hp
  refine ite_of (fun hspec => ?_) fun hspec => ?_
  · rw [if_pos hspec]
    exact xDone_xEnd ((hat.of_threads (withdrawSpec_threads ..)).setPkt _) hw _ _ f _ _ _ _
  · rw [if_neg hspec]
    exact xDone_xEnd hat hw _ _ f _ _ _ _

/-- Settles O19: METER by the order of its policer's conditions, VERDICT by the state of the speculation. -/
theorem meterAndVerdict : Obligations.MeterAndVerdict := by
  unfold Obligations.MeterAndVerdict
  intro f
  refine ⟨?_, verdictConfirm_xLaw f, verdictWithdraw_xLaw f⟩
  refine xLaw_of (fun t s => rfl) fun s t p hp hw => ?_
  intro i x color b tokens c e full g ipv valid marked red done hcu hpu
  exact meter_decides (s := slotsTaken s t 2) (n := p.len) (color := color) (x := x) rfl (g := g) rfl hcu hpu (b := b) rfl (full := full) rfl
    (refused := XDone (slotsTaken s t 2) _ t f (some 0#64) stDENIED 0 0) (fun hr => meter_refused_end f hp hw rfl hr _ _)
    (done := done) (fun hS hr => meter_end f hp hw hS hr _ _)

end Sys2Proof.Machine
end

section
/-! PROOFS. Ownership of buffer chains (R99, R100, R106, R236, Table 7.8). -/

namespace Sys2Proof.Machine

/-! ### The operations on a chain -/

section
variable {s : State} {h c : Nat} {ch : Chain} (hlive : handleState s h = .live c) (hch : getChain s c = some ch)
include hlive hch

theorem ownShare_live (n x : Nat) : ownShare s h n x =
    if 255 < ch.hold + n then .full else .ok (setChain s c (some { ch with hold := ch.hold + n, owner := x, pending := false })) := by
  unfold ownShare
  rw [hlive]
  dsimp only
  rw [hch]

theorem ownRelease_live : ownRelease s h =
    if 2 ≤ ch.hold then .ok (setChain s c (some { ch with hold := ch.hold - 1 }))
    else if ch.pending then .ok (freeChain s c) else .viol vOVERRELEASE := by
  unfold ownRelease
  rw [hlive]
  dsimp only
  rw [hch]

theorem ownFree_live (m : Nat) : ownFree s m h =
    if ch.owner ≠ m then .viol vFOREIGNFREE
    else if ch.pending then .viol vDOUBLEFREE
    else if 2 ≤ ch.hold then .ok (setChain s c (some { ch with hold := ch.hold - 1, pending := true })) else .ok (freeChain s c) := by
  unfold ownFree
  rw [hlive]
  dsimp only
  rw [hch]

end

theorem ownShare_gone {s : State} {h : Nat} (hgone : handleState s h = .stale ∨ handleState s h = .behind) (n x : Nat) :
    ownShare s h n x = .viol vSTALE := by
  unfold ownShare
  rcases hgone with hgone | hgone <;> rw [hgone]

theorem ownFree_stale {s : State} {h : Nat} (hstale : handleState s h = .stale) (m : Nat) : ownFree s m h = .viol vSTALE := by
  unfold ownFree
  rw [hstale]

theorem ownFree_behind {s : State} {h : Nat} (hbehind : handleState s h = .behind) (m : Nat) : ownFree s m h = .viol vDOUBLEFREE := by
  unfold ownFree
  rw [hbehind]

/-! ### How the instructions end -/

/-- How SHARE, RELEASE and FREE end with the answer of the operation. -/
def ownEnd (t : Nat) (f : FmtX) (s : State) (h : Nat) (after : State → State) : OwnRes → TRes
  | .ok s => xEnd t f (after s) none stOK 0 0
  | .full => xEnd t f s none stFULL 0 0
  | .viol c => .fault c h

def shareRun (f : FmtX) (t : Nat) (s : State) (th : Thread) (_ : Packet) : TRes :=
  ownEnd t f s (handleArg th f) (fun s => if bits f.desc.toNat 10 0 = t then ledgerAdd s t (handleArg th f) ((rget th.regs f.b.toNat).toNat % 256) else s)
    (ownShare s (handleArg th f) ((rget th.regs f.b.toNat).toNat % 256) (bits f.desc.toNat 10 0))

def releaseRun (f : FmtX) (t : Nat) (s : State) (th : Thread) (_ : Packet) : TRes :=
  ownEnd t f s (handleArg th f) (ledgerSub · t (handleArg th f)) (ownRelease s (handleArg th f))

def freeRun (f : FmtX) (t : Nat) (s : State) (th : Thread) (_ : Packet) : TRes :=
  ownEnd t f s (handleArg th f) (ledgerSub · t (handleArg th f)) (ownFree s t (handleArg th f))

theorem exec_share (t : Fin 512) (f : FmtX) (s : State) :
    exec (.share (.thread t) f) s = .next (packetX (.thread t) (encX 0x68 f 1) f.desc (shareRun f) s) :=
  rfl

theorem exec_release (t : Fin 512) (f : FmtX) (s : State) :
    exec (.release (.thread t) f) s = .next (packetX (.thread t) (encX 0x68 f 2) f.desc (releaseRun f) s) :=
  rfl

theorem exec_free (t : Fin 512) (f : FmtX) (s : State) :
    exec (.free (.thread t) f) s = .next (packetX (.thread t) (encX 0x68 f 3) f.desc (freeRun f) s) :=
  rfl

/-- An operation that answers OK. -/
theorem xDone_ownEnd {s : State} {t : Nat} {S : State} {after : State → State} (h : AtInstr s t (after S))
    (hw : tblWf 0#64 (getThread s t).w = true) (s1 : State) (y : BitVec 32) (f : FmtX) (n : Nat) (s2 : State) {r : OwnRes} (hr : r = .ok S) :
    XDone (after S) (threadEnd s1 t (getThread s t).pc (some y) (ownEnd t f s2 n after r)) t f none stOK 0 0 := by
  subst hr
  exact xDone_xEnd h hw s1 y f none stOK 0 0

/-- An instruction of the block of the pools that ends in a violation. -/
theorem exec_fault {s : State} {t : Fin 512} {w y : BitVec 32} {p : Packet} {i : Instr} {run : Nat → State → Thread → Packet → TRes}
    (hi : exec i s = .next (packetX (.thread t) w y run s)) (hissue : ThreadIssues s t w (some y) p) (hguard : guardHolds (getThread s t).regs w)
    (hblock : blockRefuses s (xBlock (fOp w.toNat)) = false) {c n : Nat}
    (hrun : run t (slotsTaken s t 2) { getThread s t with slots := (getThread s t).slots + 2 } p = .fault c n) :
    exec i s = .next (threadFault (slotsTaken s t 2) t c n) := by
  rw [hi, packetX_issues run hissue hguard hblock]
  exact congrArg Host.Outcome.next (congrArg (threadEnd _ _ _ _) hrun)

/-! ### ALLOC -/

/-- How ALLOC ends with the answer of the allocation. -/
def allocEnd (t : Nat) (f : FmtX) : State × AllocRes → TRes
  | (s, .empty dry) => xEnd t f s (some 0#64) stEMPTY (b2n dry) 0
  | (s, .ok cells) =>
    let c := cells.headD 0
    let s := setChain (bankCells (t / 8) cells s) c (some { cells := cells, hold := 1, owner := t, pending := false, data := [] })
    xEnd t f (setLedger s t (getLedger s t ++ [(handleOf s c, 1)])) (some (BitVec.ofNat 64 (handleOf s c))) stOK 0 0

def allocOf (f : FmtX) (t : Nat) (s : State) (n p : Nat) : TRes :=
  if n = 0 ∨ n > 64 ∨ (getLedger s t).length ≥ 8 then xEnd t f s (some 0#64) stDENIED 0 0
  else if bankFree s (t / 8) < n then xEnd t f (bump s .allocEmpty p 1) (some 0#64) stEMPTY 2 0
  else allocEnd t f (allocCells s p n)

def allocRun (f : FmtX) (t : Nat) (s : State) (th : Thread) (_ : Packet) : TRes :=
  allocOf f t s ((rget th.regs f.a.toNat).toNat % 256) (bits f.desc.toNat 4 0)

theorem exec_alloc (t : Fin 512) (f : FmtX) (s : State) :
    exec (.alloc (.thread t) f) s = .next (packetX (.thread t) (encX 0x68 f 0) f.desc (allocRun f) s) :=
  rfl

theorem alloc_xLaw (f : FmtX) : XLaw (.alloc · f) (encX 0x68 f 0) f.desc (fun s t _ s' =>
     let n := xa s t f % 256
     let p := bits f.desc.toNat 4 0
     if n = 0 ∨ 64 < n ∨ 8 ≤ (getLedger s t).length then XDone (slotsTaken s t 2) s' t f (some 0#64) stDENIED 0 0
     else if bankFree s (t.val / 8) < n then XDone (bump (slotsTaken s t 2) .allocEmpty p 1) s' t f (some 0#64) stEMPTY 2 0
     else match allocCells (slotsTaken s t 2) p n with
     | (s1, .empty dry) => XDone s1 s' t f (some 0#64) stEMPTY (if dry then 1 else 0) 0
     | (s1, .ok cells) =>
       let c0 := cells.headD 0
       let s2 := setChain (bankCells (t.val / 8) cells s1) c0 (some { cells := cells, hold := 1, owner := t, pending := false, data := [] })
       XDone (setLedger s2 t (getLedger s2 t ++ [(handleOf s2 c0, 1)])) s' t f (some (BitVec.ofNat 64 (handleOf s2 c0))) stOK 0 0) := by
  refine xLaw_of (exec_alloc · f) fun s t p hp hw => ?_
  intro n i
  have hat := atInstr_slotsTaken hp
  change (if _ then XDone _ (threadEnd _ _ _ _ (allocOf f t (slotsTaken s t 2) n i)) _ _ _ _ _ _ else _)
  have hrun : allocOf f t (slotsTaken s t 2) n i = if n = 0 ∨ 64 < n ∨ 8 ≤ (getLedger s t).length then _ else if bankFree s (t / 8) < n then _ else _ :=
    rfl
  refine ite_of (fun hbad => ?_) fun hbad => ite_of (fun hbank => ?_) fun hbank => ?_
  · rw [hrun, if_pos hbad]
    exact xDone_xEnd hat hw _ _ f _ _ _ _
  · change XDone _ (threadEnd _ _ _ _ (allocOf f t (slotsTaken s t 2) n i)) _ _ _ _ _ _
    rw [hrun, if_neg hbad, if_pos hbank]
    exact xDone_xEnd (hat.of_threads (bump_threads ..)) hw _ _ f _ _ _ _
  · rw [if_neg hbad, if_neg hbank] at hrun
    change match allocCells (slotsTaken s t 2) i n with
      | (s1, .empty dry) => XDone s1 (threadEnd _ _ _ _ (allocOf f t (slotsTaken s t 2) n i)) _ _ _ _ _ _
      | (s1, .ok cells) => XDone _ (threadEnd _ _ _ _ (allocOf f t (slotsTaken s t 2) n i)) _ _ _ _ _ _
    rw [hrun]
    have hcells := allocCells_threads (slotsTaken s t 2) i n
    generalize allocCells (slotsTaken s t 2) i n = r at hcells ⊢
    obtain ⟨s1, cells | dry⟩ := r
    all_goals dsimp only at hcells ⊢
    · exact xDone_xEnd ((((hat.of_threads hcells).of_threads (bankCells_threads (t / 8) cells s1)).of_threads (setChain_threads ..)).of_threads
        (setLedger_threads ..)) hw _ _ f (some (BitVec.ofNat 64 _)) stOK 0 0
    · exact xDone_xEnd (hat.of_threads hcells) hw _ _ f (some 0#64) stEMPTY (b2n dry) 0

/-- Settles O18: ALLOC by the allocation's answer, the others by the state of the handle. -/
theorem bufferOwnership : Obligations.BufferOwnership := by
  unfold Obligations.BufferOwnership
  refine ⟨fun f c ch => ⟨alloc_xLaw f, ?_, ?_, ?_⟩, fun s t p f => ?_⟩
  · refine xLaw_of (exec_share · f) fun s t p hp hw => ?_
    intro h n o hlive hch
    have hat := atInstr_slotsTaken hp
    have hrun := ownShare_live (s := slotsTaken s t 2) hlive hch n o
    refine ite_of (fun hfull => ?_) fun hfull => ?_
    · rw [if_pos hfull] at hrun
      change XDone _ (threadEnd _ _ _ _ (ownEnd _ _ _ _ _ (ownShare (slotsTaken s t 2) h n o))) _ _ _ _ _ _
      rw [hrun]
      exact xDone_xEnd hat hw _ _ f none stFULL 0 0
    · rw [if_neg hfull] at hrun
      refine xDone_ownEnd (after := fun s => if o = t then ledgerAdd s t h n else s) (hat.of_threads ?_) hw _ _ f h _ hrun
      split <;> simp
  · refine xLaw_of (exec_release · f) fun s t p hp hw => ?_
    intro h hlive hch
    have hat := atInstr_slotsTaken hp
    have hrun := ownRelease_live (s := slotsTaken s t 2) hlive hch
    refine ⟨fun hhold => ?_, fun hhold hpending => ?_⟩
    · rw [if_pos hhold] at hrun
      exact xDone_ownEnd (after := (ledgerSub · t h)) ((hat.of_threads (setChain_threads ..)).of_threads (ledgerSub_threads ..)) hw _ _ f h _ hrun
    · rw [if_neg (by omega), if_pos hpending] at hrun
      exact xDone_ownEnd (after := (ledgerSub · t h)) ((hat.of_threads (freeChain_threads ..)).of_threads (ledgerSub_threads ..)) hw _ _ f h _ hrun
  · refine xLaw_of (exec_free · f) fun s t p hp hw => ?_
    intro h hlive hch howner hpending
    have hat := atInstr_slotsTaken hp
    have hrun := ownFree_live (s := slotsTaken s t 2) hlive hch t
    rw [if_neg (by simp [howner]), if_neg (by simp [hpending])] at hrun
    refine ⟨fun hhold => ?_, fun hhold => ?_⟩
    · rw [if_pos hhold] at hrun
      exact xDone_ownEnd (after := (ledgerSub · t h)) ((hat.of_threads (setChain_threads ..)).of_threads (ledgerSub_threads ..)) hw _ _ f h _ hrun
    · rw [if_neg (by omega)] at hrun
      exact xDone_ownEnd (after := (ledgerSub · t h)) ((hat.of_threads (freeChain_threads ..)).of_threads (ledgerSub_threads ..)) hw _ _ f h _ hrun
  · intro h hpools
    have hblock (u : Nat) : blockRefuses s (xBlock (fOp (encX 0x68 f u).toNat)) = false := by
      rw [fOp_encX]
      exact hpools
    have hfault {r : OwnRes} {c : Nat} (after : State → State) (hr : r = .viol c) : ownEnd t f (slotsTaken s t 2) h after r = .fault c h := by
      rw [hr]
      rfl
    refine ⟨fun hissue hguard => ?_, fun hissue hguard c ch hlive hch hhold hpending => ?_, fun hissue hguard hgone => ?_⟩
    · refine ⟨fun hstale => ?_, fun hbehind => ?_, fun c ch hlive hch => ⟨fun howner => ?_, fun howner hpending => ?_⟩⟩
      all_goals refine exec_fault (exec_free t f s) hissue hguard (hblock _) (hfault _ ?_)
      · exact ownFree_stale (s := slotsTaken s t 2) hstale t
      · exact ownFree_behind (s := slotsTaken s t 2) hbehind t
      · have hfree := ownFree_live (s := slotsTaken s t 2) hlive hch t
        rw [if_pos howner] at hfree
        exact hfree
      · have hfree := ownFree_live (s := slotsTaken s t 2) hlive hch t
        rw [if_neg (by simp [howner]), if_pos hpending] at hfree
        exact hfree
    · refine exec_fault (exec_release t f s) hissue hguard (hblock _) (hfault _ ?_)
      have hrelease := ownRelease_live (s := slotsTaken s t 2) hlive hch
      rw [if_neg (by omega), if_neg (by simp [hpending])] at hrelease
      exact hrelease
    · exact exec_fault (exec_share t f s) hissue hguard (hblock _) (hfault _ (ownShare_gone (s := slotsTaken s t 2) hgone _ _))

end Sys2Proof.Machine
end

section
/-! PROOFS. TSTAMP that marks a frame: the issue moves the engine's issue order, which the law of that instruction leaves as it was
(R67, R95). -/

namespace Sys2Proof.Machine

/-- A frame of 64 bytes in flight. -/
def markedFrame : Packet :=
  { handle := 0, desc := 0, len := 64, src := 0, partner := 0, epoch := 1, bank := false, dispatched := true, dispAt := 0, seq := none,
    profile := 0, rule := 0, ruleHit := false, entry := 0, pass := 0, deep := false, lenConflict := false, noSpec := false, ext := [],
    key := 0, rxTime := 0, stamp := [], lastBit := 0, arrVc := none, viaSa := none, carry0 := 0#64, carry1 := 0#64, spec := .none,
    specQueue := 0, specTemplate := 0, specDp := 0, offered := false, fkey := 0, specWay := 0, lastCon := none, req := none }

/-- Thread 0 holds the frame under a program of ten issue slots, as a device out of reset stands; T0 runs. -/
def markState : State :=
  { State.reset with engine := { State.reset.engine with
      bankA := { ProgBank.reset with progs := [{ base := 0, len := 8, c := 10, u := 10, wc := 10 }] }
      threads := [(0, { Thread.reset with pkt := some markedFrame })] } }

/-- TSTAMP of T0 that marks the frame. -/
def markInstr : FmtX := { d := 0#6, a := 0#6, b := 0#6, g := 0#3, desc := 0#32 }

theorem mark_issues : ThreadIssues markState 0 (encX 0x64 markInstr 8) (some markInstr.desc) markedFrame :=
  ⟨by decide +kernel, by decide +kernel, by decide +kernel, by decide +kernel, by decide +kernel, fun _ => by decide +kernel,
    ⟨{ base := 0, len := 8, c := 10, u := 10, wc := 10 }, by decide +kernel, by decide +kernel⟩⟩

/-- The issue moves the thread after it to the front of its engine's order. -/
theorem mark_moves_order {s' : State} (h : exec (.tstampMark (.thread 0) 0#2 markInstr) markState = .next s') :
    s'.engine.prio = [(0, 1)] := by
  have hmoved : (match exec (.tstampMark (.thread 0) 0#2 markInstr) markState with
    | .next t => decide (t.engine.prio = [(0, 1)])
    | _ => false) = true := by decide +kernel
  rw [h] at hmoved
  exact of_decide_eq_true hmoved

/-- Refutes O15: a TSTAMP that marks the frame moves the issue order of its engine, as every issued instruction does (R67); its clause
names the state before that. -/
theorem not_frameAccess : ¬ Obligations.FrameAccess := by
  rintro ⟨-, -, htstamp⟩
  obtain ⟨-, -, hmark⟩ := htstamp 0#2 markInstr
  obtain ⟨s', hexec, hdone⟩ := hmark markState 0 markedFrame mark_issues (.inr (.inr (by decide +kernel)))
    (by decide +kernel) (by decide +kernel)
  rw [if_pos (by decide +kernel)] at hdone
  have hsame : s'.engine.prio = [] := congrArg (fun s => s.engine.prio) hdone.rest
  rw [mark_moves_order hexec] at hsame
  cases hsame

end Sys2Proof.Machine
end

section
/-! PROOFS. CON and the states of a connection (R98, R212 to R214, R399). -/

namespace Sys2Proof.Machine

/-! ### The states of a connection (Table 6.14) -/

section
variable {c : Conn} {ev : Nat}

theorem connNext_opened (hs : c.state = 1) (hh : c.hs = false) (hr : ev.testBit 0 = true) : (connNext c ev).state = 2 := by
  simp [connNext, testBit_eq_bitOf, hs, hh, hr]

theorem connNext_waits (hs : c.state = 1) (hh : c.hs = false) (hr : ev.testBit 0 = false) : (connNext c ev).state = 1 := by
  simp [connNext, testBit_eq_bitOf, hs, hh, hr]

theorem connNext_handshake (hs : c.state = 1) (hh : c.hs = true) :
    (connNext c ev).state = 2 ↔ ev.testBit 0 = false ∧ ev.testBit 2 = true ∧ c.rSeen = true := by
  simp only [connNext, testBit_eq_bitOf, hs, hh]
  cases ev.testBit 0 <;> cases ev.testBit 1 <;> cases ev.testBit 2 <;> cases c.rSeen <;> simp [hs]

theorem connNext_established (hs : c.state = 2) : (connNext c ev).state = 3 ↔ ev.testBit 3 = true := by
  simp only [connNext, testBit_eq_bitOf, hs]
  cases ev.testBit 0 <;> cases ev.testBit 3 <;> simp [hs]

theorem connNext_closing (hs : c.state = 3) : (connNext c ev).state = 3 := by
  simp only [connNext, testBit_eq_bitOf, hs]
  cases ev.testBit 0 <;> cases ev.testBit 3 <;> simp [hs]

theorem connNext_keeps (c : Conn) (ev : Nat) : (connNext c ev).key = c.key ∧ (connNext c ev).zsrc = c.zsrc ∧ (connNext c ev).zdst = c.zdst ∧
    (connNext c ev).tclass = c.tclass ∧ (connNext c ev).hs = c.hs := by
  unfold connNext
  dsimp only
  repeat' split
  all_goals exact ⟨rfl, rfl, rfl, rfl, rfl⟩

end

/-! ### How CON ends -/

/-- The state that CON leaves with its answer: the packet carries the connection that it names. -/
def conState (t : Nat) (p : Packet) (r : ConRes) : State :=
  match r.con with
  | some c => setPkt r.st t { p with lastCon := some c }
  | none => r.st

/-- What CON answers. -/
def conAnswer (f : FmtX) (run : State → Packet → Nat → Nat → ConRes) (s : State) (t : Nat) (p : Packet) : ConRes :=
  if 64 ≤ xb s t f then conFail (slotsTaken s t 2) stDENIED 0
  else run (slotsTaken s t 2) p (keyOf (getThread s t).regs f.a.toNat 4) (xb s t f)

theorem conState_atInstr {s : State} {t : Nat} {r : ConRes} (h : AtInstr s t r.st) (p : Packet) : AtInstr s t (conState t p r) := by
  unfold conState
  split
  · exact h.setPkt _
  · exact h

theorem conAnswer_threads {f : FmtX} {run : State → Packet → Nat → Nat → ConRes} (hrun : ∀ s p k ev, ThreadsKept s (run s p k ev).st)
    (s : State) (t : Nat) (p : Packet) : ThreadsKept (slotsTaken s t 2) (conAnswer f run s t p).st := by
  unfold conAnswer
  split
  · exact conFail_threads ..
  · exact hrun ..

theorem conOp_xLaw {i : Agent → Instr} {op : Nat} {f : FmtX} {run : State → Packet → Nat → Nat → ConRes}
    (hi : ∀ (t : Fin 512) s, exec (i (.thread t)) s = .next (conOp (.thread t) op f run s)) (hrun : ∀ s p k ev, ThreadsKept s (run s p k ev).st)
    {R : State → Fin 512 → Packet → State → Prop}
    (h : ∀ s (t : Fin 512) p s', (∀ r, conAnswer f run s t p = r →
      XDone (conState t p r) s' t f (some (BitVec.ofNat 64 r.word)) r.status r.detail 0) → R s t p s') :
    XLaw i (encX 0x67 f 0) (setField 30 2 op f.desc) R := by
  refine xLaw_of hi fun s t p hp hw => h s t p _ ?_
  rintro r rfl
  have hat := conState_atInstr ((atInstr_slotsTaken hp).of_threads (conAnswer_threads (f := f) hrun s t p)) p
  exact xDone_xEnd hat hw _ _ f (some (BitVec.ofNat 64 (conAnswer f run s t p).word)) _ _ 0

/-! ### A connection that is found -/

theorem unlessPassive_eq (s : State) (r : ConRes) : unlessPassive s r = { r with st := if pairPassive s then s else r.st } := by
  unfold unlessPassive
  split <;> rfl

/-- The update of a found connection by UPDATE, or by OPEN, which counts a refusal. -/
def foundAnswer (s : State) (e i : Nat) (c : Conn) (ev : Nat) (opened : Bool) : ConRes :=
  let r := conUpdateFound s e i c ev (if opened then 1 else 0)
  unlessPassive s (if opened ∧ r.status = stDENIED then { r with st := bump r.st .connDenied (pairIdx c.zsrc c.zdst) 1 } else r)

section
variable {s : State} {e i : Nat} {c : Conn} {ev : Nat} {opened : Bool}

theorem foundAnswer_denied (h : (pairPolicy s e c.zsrc c.zdst).permit = false) : foundAnswer s e i c ev opened =
    conFail (if opened then if pairPassive s then s else bump s .connDenied (pairIdx c.zsrc c.zdst) 1 else s) stDENIED (if opened then 1 else 0) := by
  unfold foundAnswer conUpdateFound
  dsimp only
  rw [if_pos h, unlessPassive_eq]
  cases opened <;> simp [conFail]

variable (h : ¬ (pairPolicy s e c.zsrc c.zdst).permit = false)
include h

theorem foundAnswer_reset (hreset : ev.testBit 4 = true) : foundAnswer s e i c ev opened =
    { st := if pairPassive s then s else connEvent (bump (removeConn s i c) .connReset (pairIdx c.zsrc c.zdst) 1) e 0x11 i c
      status := stOK, detail := (if opened then 1 else 0) + 2, word := connWord i { c with state := 0 }
      con := some { conn := i, state := 0, removed := true, zsrc := c.zsrc, zdst := c.zdst, ev := ev } } := by
  unfold foundAnswer conUpdateFound
  dsimp only
  rw [if_neg h, testBit_eq_bitOf, if_pos hreset, if_neg (fun hden => absurd (show stOK = stDENIED from hden.2) (by decide)), unlessPassive_eq]
  cases opened <;> rfl

theorem foundAnswer_moves (hstays : ¬ ev.testBit 4 = true) {c' : Conn} (hc : c' = { connNext c ev with idle := 0, visited := s.localNs }) :
    foundAnswer s e i c ev opened =
      { st := if pairPassive s then s else logChange (setConn s i (some c')) (.connSet c'.key (connWord i c'))
        status := stOK, detail := if opened then 1 else 0, word := connWord i c'
        con := some { conn := i, state := c'.state, removed := false, zsrc := c'.zsrc, zdst := c'.zdst, ev := ev } } := by
  subst hc
  unfold foundAnswer conUpdateFound
  dsimp only
  rw [if_neg h, testBit_eq_bitOf, if_neg hstays, if_neg (fun hden => absurd (show stOK = stDENIED from hden.2) (by decide)), unlessPassive_eq]
  cases opened <;> rfl

end

/-- What UPDATE and OPEN of a connection that exists leave (R213, R214). -/
def ConFound (f : FmtX) (s : State) (t : Fin 512) (p : Packet) (s' : State) (i : Nat) (c : Conn) (opened : Bool) : Prop :=
  let s0 := slotsTaken s t 2
  let ev := xb s t f
  let z := 32 * c.zsrc + c.zdst
  let det := if opened then 1 else 0
  let keep (s1 : State) : State := if pairPassive s then s0 else s1
  if (pairPolicy s p.epoch c.zsrc c.zdst).permit = false then
    XDone (if opened then keep (bump s0 .connDenied z 1) else s0) s' t f (some 0#64) stDENIED det 0
  else if ev.testBit 4 then
    XDone (setPkt (keep (connEvent (bump (removeConn s0 i c) .connReset z 1) p.epoch 0x11 i c)) t
        { p with lastCon := some { conn := i, state := 0, removed := true, zsrc := c.zsrc, zdst := c.zdst, ev := ev } })
      s' t f (some (BitVec.ofNat 64 (connWord i { c with state := 0 }))) stOK (det + 2) 0
  else
    let c' := { connNext c ev with idle := 0, visited := s.localNs }
    XDone (setPkt (keep (logChange (setConn s0 i (some c')) (.connSet c'.key (connWord i c')))) t
        { p with lastCon := some { conn := i, state := c'.state, removed := false, zsrc := c'.zsrc, zdst := c'.zdst, ev := ev } })
      s' t f (some (BitVec.ofNat 64 (connWord i c'))) stOK det 0

theorem conFound_of {f : FmtX} {s : State} {t : Fin 512} {p : Packet} {s' : State} {i : Nat} {c : Conn} {opened : Bool}
    (h : ∀ r, foundAnswer (slotsTaken s t 2) p.epoch i c (xb s t f) opened = r →
      XDone (conState t p r) s' t f (some (BitVec.ofNat 64 r.word)) r.status r.detail 0) : ConFound f s t p s' i c opened := by
  refine ite_of (fun hdenied => h _ (foundAnswer_denied (s := slotsTaken s t 2) hdenied)) fun hpermit => ?_
  refine ite_of (fun hreset => h _ (foundAnswer_reset (s := slotsTaken s t 2) hpermit hreset)) fun hstays => ?_
  exact h _ (foundAnswer_moves (s := slotsTaken s t 2) hpermit hstays rfl)

/-! ### The operations -/

section
variable {f : FmtX} {s : State} {t : Fin 512} {p : Packet}

theorem conAnswer_denied {run : State → Packet → Nat → Nat → ConRes} (h : 64 ≤ xb s t f) :
    conAnswer f run s t p = conFail (slotsTaken s t 2) stDENIED 0 := if_pos h

theorem conAnswer_runs {run : State → Packet → Nat → Nat → ConRes} (h : ¬ 64 ≤ xb s t f) :
    conAnswer f run s t p = run (slotsTaken s t 2) p (keyOf (getThread s t).regs f.a.toNat 4) (xb s t f) := if_neg h

end

theorem findConn_none {s : State} {k : Nat} (h : findConn s k = none) (e partner x y ev : Nat) :
    conLookupOp s e k ev = conFail s stMISS 0 ∧ conUpdateOp s e k ev = conFail s stMISS 0 ∧ conCloseOp s k ev = conFail s stMISS 0 ∧
      conOpenOp s e partner k x y ev = unlessPassive s (conCreate s e partner k x y ev) := by
  simp [conLookupOp, conUpdateOp, conCloseOp, conOpenOp, h]

section
variable {s : State} {k i : Nat} {c : Conn} (h : findConn s k = some (i, c))
include h

theorem conLookupOp_found (e ev : Nat) : conLookupOp s e k ev =
    if (pairPolicy s e c.zsrc c.zdst).permit = false then conFail s stDENIED 0 else conOk s i c 0 ev := by
  unfold conLookupOp
  rw [h]

theorem conUpdateOp_found (e ev : Nat) : conUpdateOp s e k ev = foundAnswer s e i c ev false := by
  unfold conUpdateOp foundAnswer
  rw [h]
  simp

theorem conCloseOp_found (ev : Nat) : conCloseOp s k ev =
    { st := if pairPassive s then s else bump (removeConn s i c) .connClosed (pairIdx c.zsrc c.zdst) 1
      status := stOK, detail := 2, word := connWord i c
      con := some { conn := i, state := c.state, removed := true, zsrc := c.zsrc, zdst := c.zdst, ev := ev } } := by
  unfold conCloseOp
  rw [h]
  exact unlessPassive_eq _ _

theorem conOpenOp_found (e partner x y ev : Nat) : conOpenOp s e partner k x y ev = foundAnswer s e i c ev true := by
  unfold conOpenOp foundAnswer
  rw [h]
  simp

end

/-- OPEN of a connection that does not exist. -/
def ConCreated (f : FmtX) (s : State) (t : Fin 512) (p : Packet) (s' : State) : Prop :=
  let s0 := slotsTaken s t 2
  let k := keyOf (getThread s t).regs f.a.toNat 4
  let ev := xb s t f
  let x := bits f.desc.toNat 4 0
  let y := bits f.desc.toNat 9 5
  let pol := pairPolicy s p.epoch x y
  let keep (s1 : State) : State := if pairPassive s then s0 else s1
  if pol.permit = false ∨ partnerZone s p.epoch p.partner ≠ x then
    XDone (keep (bump s0 .connDenied (32 * x + y) 1)) s' t f (some 0#64) stDENIED 0 0
  else if 0 < pol.maxConn ∧ pol.maxConn ≤ pairCount s x y then
    XDone (keep (bump s0 .connLimited (32 * x + y) 1)) s' t f (some 0#64) stFULL 4 0
  else match freePlace s k with
  | none => XDone (keep (bump s0 .connFull 0 1)) s' t f (some 0#64) stFULL 0 0
  | some j =>
    let n : Conn := { key := k, state := 1, hs := ev.testBit 1, rSeen := false, finI := false, finR := false, zsrc := x, zdst := y,
                      tclass := pol.tclass, cachedI := none, cachedR := none, idle := 0, addIdle := 0, visited := s.localNs, cleared := false }
    XDone (setPkt (keep (bump (logChange (setPairCount (setConn s0 j (some n)) x y (pairCount s x y + 1)) (.connSet k (connWord j n)))
        .connOpened (32 * x + y) 1)) t
        { p with lastCon := some { conn := j, state := 1, removed := false, zsrc := x, zdst := y, ev := ev } })
      s' t f (some (BitVec.ofNat 64 (connWord j n))) stOK 0 0

section
variable {s : State} {e partner k x y : Nat} (ev : Nat)

theorem conCreate_denied (h : (pairPolicy s e x y).permit = false ∨ partnerZone s e partner ≠ x) :
    conCreate s e partner k x y ev = conFail (bump s .connDenied (pairIdx x y) 1) stDENIED 0 := if_pos h

variable (hpermit : ¬ ((pairPolicy s e x y).permit = false ∨ partnerZone s e partner ≠ x))
include hpermit

theorem conCreate_limited (h : 0 < (pairPolicy s e x y).maxConn ∧ (pairPolicy s e x y).maxConn ≤ pairCount s x y) :
    conCreate s e partner k x y ev = conFail (bump s .connLimited (pairIdx x y) 1) stFULL 4 := by
  unfold conCreate
  dsimp only
  rw [if_neg hpermit]
  exact if_pos h

variable (hlimit : ¬ (0 < (pairPolicy s e x y).maxConn ∧ (pairPolicy s e x y).maxConn ≤ pairCount s x y))
include hlimit

theorem conCreate_full (h : freePlace s k = none) :
    conCreate s e partner k x y ev = conFail (bump s .connFull 0 1) stFULL 0 := by
  unfold conCreate
  dsimp only
  rw [if_neg hpermit, if_neg hlimit, h]

theorem conCreate_made {j : Nat} (h : freePlace s k = some j) {n : Conn}
    (hn : n = { key := k, state := 1, hs := ev.testBit 1, rSeen := false, finI := false, finR := false, zsrc := x, zdst := y,
                tclass := (pairPolicy s e x y).tclass, cachedI := none, cachedR := none, idle := 0, addIdle := 0, visited := s.localNs,
                cleared := false }) :
    conCreate s e partner k x y ev =
      { st := bump (logChange (setPairCount (setConn s j (some n)) x y (pairCount s x y + 1)) (.connSet k (connWord j n))) .connOpened (pairIdx x y) 1
        status := stOK, detail := 0, word := connWord j n
        con := some { conn := j, state := 1, removed := false, zsrc := x, zdst := y, ev := ev } } := by
  subst hn
  unfold conCreate
  dsimp only
  rw [if_neg hpermit, if_neg hlimit, h, testBit_eq_bitOf]
  rfl

end

theorem conCreated_of {f : FmtX} {s : State} {t : Fin 512} {p : Packet} {s' : State}
    (h : ∀ r, unlessPassive (slotsTaken s t 2) (conCreate (slotsTaken s t 2) p.epoch p.partner (keyOf (getThread s t).regs f.a.toNat 4)
        (bits f.desc.toNat 4 0) (bits f.desc.toNat 9 5) (xb s t f)) = r →
      XDone (conState t p r) s' t f (some (BitVec.ofNat 64 r.word)) r.status r.detail 0) : ConCreated f s t p s' := by
  rw [unlessPassive_eq] at h
  refine ite_of (fun hdenied => ?_) fun hpermit => ite_of (fun hlimit => ?_) fun hroom => ?_
  · rw [conCreate_denied (s := slotsTaken s t 2) _ hdenied] at h
    exact h _ rfl
  · rw [conCreate_limited (s := slotsTaken s t 2) _ hpermit hlimit] at h
    exact h _ rfl
  cases hfree : freePlace s (keyOf (getThread s t).regs f.a.toNat 4) with
  | none =>
    rw [conCreate_full (s := slotsTaken s t 2) _ hpermit hroom hfree] at h
    exact h _ rfl
  | some j =>
    rw [conCreate_made (s := slotsTaken s t 2) _ hpermit hroom hfree rfl] at h
    exact h _ rfl

/-- Settles O17: CON by what it finds, the transitions by the table. -/
theorem connections : Obligations.Connections := by
  unfold Obligations.Connections
  refine ⟨fun f => ?_, fun c ev => ?_⟩
  · intro found
    refine ⟨?_, ?_, ?_, ?_⟩
    · refine conOp_xLaw (fun t s => rfl) (fun s p k ev => conLookupOp_threads ..) fun s t p s' h => ?_
      refine ite_of (fun hev => h _ (conAnswer_denied hev)) fun hev => ?_
      rw [conAnswer_runs hev] at h
      cases hfind : findConn s (keyOf (getThread s t).regs f.a.toNat 4) with
      | none => exact h _ (findConn_none (s := slotsTaken s t 2) hfind _ 0 0 0 _).1
      | some x =>
        rw [conLookupOp_found (s := slotsTaken s t 2) hfind] at h
        refine ite_of (fun hdenied => ?_) fun hpermit => ?_
        · exact h _ (if_pos hdenied)
        · exact h _ (if_neg hpermit)
    · refine conOp_xLaw (fun t s => rfl) (fun s p k ev => conUpdateOp_threads ..) fun s t p s' h => ?_
      refine ite_of (fun hev => h _ (conAnswer_denied hev)) fun hev => ?_
      rw [conAnswer_runs hev] at h
      cases hfind : findConn s (keyOf (getThread s t).regs f.a.toNat 4) with
      | none => exact h _ (findConn_none (s := slotsTaken s t 2) hfind _ 0 0 0 _).2.1
      | some x =>
        rw [conUpdateOp_found (s := slotsTaken s t 2) hfind] at h
        exact conFound_of (opened := false) h
    · refine conOp_xLaw (fun t s => rfl) (fun s p k ev => conCloseOp_threads ..) fun s t p s' h => ?_
      refine ite_of (fun hev => h _ (conAnswer_denied hev)) fun hev => ?_
      rw [conAnswer_runs hev] at h
      cases hfind : findConn s (keyOf (getThread s t).regs f.a.toNat 4) with
      | none => exact h _ (findConn_none (s := slotsTaken s t 2) hfind 0 0 0 0 _).2.2.1
      | some x => exact h _ (conCloseOp_found (s := slotsTaken s t 2) hfind _)
    · refine conOp_xLaw (fun t s => rfl) (fun s p k ev => conOpenOp_threads ..) fun s t p s' h => ?_
      refine ite_of (fun hev => h _ (conAnswer_denied hev)) fun hev => ?_
      rw [conAnswer_runs hev] at h
      cases hfind : findConn s (keyOf (getThread s t).regs f.a.toNat 4) with
      | none =>
        rw [(findConn_none (s := slotsTaken s t 2) hfind _ _ _ _ _).2.2.2] at h
        exact conCreated_of h
      | some x =>
        rw [conOpenOp_found (s := slotsTaken s t 2) hfind] at h
        exact conFound_of (opened := true) h
  · obtain ⟨hkey, hzsrc, hzdst, hclass, hhs⟩ := connNext_keeps c ev
    exact ⟨connNext_opened, connNext_waits, connNext_handshake, connNext_established, connNext_closing, hkey, hzsrc, hzdst, hclass, hhs⟩

end Sys2Proof.Machine
end

section
/-! PROOFS. LKP, LRN and DEL on the tables (R96, R97, R172, R176, R178, R187). -/

namespace Sys2Proof.Machine

/-! ### LKP -/

/-- How LKP of a key ends with what it finds. -/
def lkpEnd (t : Nat) (f : FmtX) (r : State × Option Nat) : TRes :=
  match r.2 with
  | some v => xEnd t f r.1 (some (BitVec.ofNat 64 v)) stOK 0 0
  | none => xEnd t f r.1 (some 0#64) stMISS 0 0

theorem xDone_lkpEnd_hit {s : State} {t : Nat} {S : State} (h : AtInstr s t S) (hw : tblWf 0#64 (getThread s t).w = true) (s1 : State) (y : BitVec 32)
    (f : FmtX) {r : State × Option Nat} {v : Nat} (hr : r = (S, some v)) :
    XDone S (threadEnd s1 t (getThread s t).pc (some y) (lkpEnd t f r)) t f (some (BitVec.ofNat 64 v)) stOK 0 0 := by
  subst hr
  exact xDone_xEnd h hw s1 y f (some (BitVec.ofNat 64 v)) stOK 0 0

theorem xDone_lkpEnd_miss {s : State} {t : Nat} {S : State} (h : AtInstr s t S) (hw : tblWf 0#64 (getThread s t).w = true) (s1 : State) (y : BitVec 32)
    (f : FmtX) {r : State × Option Nat} (hr : r = (S, none)) :
    XDone S (threadEnd s1 t (getThread s t).pc (some y) (lkpEnd t f r)) t f (some 0#64) stMISS 0 0 := by
  subst hr
  exact xDone_xEnd h hw s1 y f (some 0#64) stMISS 0 0

section
variable {s : State} {t key : Nat}

theorem lkpExact_absent (h : getTable s t = none) : lkpExact s t key = (bump s .lookups t 1, none) := by
  unfold lkpExact
  dsimp only
  rw [show getTable (bump s .lookups t 1) t = none from h]

variable {x : LTable} (h : getTable s t = some x)
include h

theorem lkpExact_miss (hfind : findKey s t x.defn key = none) : lkpExact s t key = (bump s .lookups t 1, none) := by
  unfold lkpExact
  dsimp only
  rw [show getTable (bump s .lookups t 1) t = some x from h]
  dsimp only
  rw [show findKey (bump s .lookups t 1) t x.defn key = none from hfind]

theorem lkpExact_hit {l : Loc} (hfind : findKey s t x.defn key = some l) : lkpExact s t key =
    (bump (modEntry (bump s .lookups t 1) x.defn.dram l fun y => { y with hit := true }) .hits t 1, some (slotData s (getEntry s x.defn.dram l))) := by
  unfold lkpExact
  dsimp only
  rw [show getTable (bump s .lookups t 1) t = some x from h]
  dsimp only
  rw [show findKey (bump s .lookups t 1) t x.defn key = some l from hfind]
  rfl

end

theorem lkpExact_xLaw (f : FmtX) : XLaw (.lkpExact · f) (encX 0x65 f 0) f.desc (fun s t _ s' =>
     let tb := bits f.desc.toNat 7 0
     let k := tableKey s tb (getThread s t).regs f.a.toNat (2 ^ bits f.desc.toNat 27 26)
     let s1 := bump (slotsTaken s t 2) .lookups tb 1
     bits f.desc.toNat 27 26 < 3 →
     match getTable s tb with
     | none => XDone s1 s' t f (some 0#64) stMISS 0 0
     | some x => match findKey s tb x.defn k with
       | none => XDone s1 s' t f (some 0#64) stMISS 0 0
       | some l => XDone (bump (modEntry s1 x.defn.dram l fun y => { y with hit := true }) .hits tb 1) s' t f
           (some (BitVec.ofNat 64 (slotData s (getEntry s x.defn.dram l)))) stOK 0 0) := by
  refine xLaw_of (fun t s => rfl) fun s t p hp hw => ?_
  intro tb k s1 _
  have hat : AtInstr s t s1 := (atInstr_slotsTaken hp).of_threads (bump_threads ..)
  cases htable : getTable s tb with
  | none => exact xDone_lkpEnd_miss hat hw _ _ f (lkpExact_absent (s := slotsTaken s t 2) (key := k) htable)
  | some x =>
    dsimp only
    cases hfind : findKey s tb x.defn k with
    | none => exact xDone_lkpEnd_miss hat hw _ _ f (lkpExact_miss (s := slotsTaken s t 2) (key := k) htable hfind)
    | some l =>
      exact xDone_lkpEnd_hit ((hat.of_threads (modEntry_threads ..)).of_threads (bump_threads ..)) hw _ _ f
        (lkpExact_hit (s := slotsTaken s t 2) (key := k) htable hfind)

/-- How LKP of an address ends with the route it finds. -/
def lpmEnd (t : Nat) (f : FmtX) (s : State) (d : Nat) : Option Route → TRes
  | some r => xEnd t f s (some (BitVec.ofNat 64 (r.data + r.len * 2 ^ 32))) stOK 0 0
  | none => xEnd t f (bump s .lpmMisses d 1) (some 0#64) stMISS 0 0

theorem lkpLpm_xLaw (f : FmtX) : XLaw (.lkpLpm · f) (encX 0x65 f 1) f.desc (fun s t _ s' =>
     let d := bits f.desc.toNat 7 0
     let v6 := decide (bits f.desc.toNat 27 26 = 1)
     let addr := if v6 then xa s t f * 2 ^ 64 + (rget (getThread s t).regs (f.a.toNat + 1)).toNat else xa s t f % 2 ^ 32
     let s1 := bump (slotsTaken s t 2) .lpmLookups d 1
     match (getDomain s d).bind (fun x => bestRoute x.routes v6 addr) with
     | some r => XDone s1 s' t f (some (BitVec.ofNat 64 (r.data + r.len * 2 ^ 32))) stOK 0 0
     | none => XDone (bump s1 .lpmMisses d 1) s' t f (some 0#64) stMISS 0 0) := by
  refine xLaw_of (fun t s => rfl) fun s t p hp hw => ?_
  intro d v6 addr s1
  have hat : AtInstr s t s1 := (atInstr_slotsTaken hp).of_threads (bump_threads ..)
  change match (getDomain s d).bind (fun x => bestRoute x.routes v6 addr) with
    | some r => XDone _ (threadEnd _ _ _ _ (lpmEnd t f s1 d ((getDomain s d).bind (fun x => bestRoute x.routes v6 addr)))) _ _ _ _ _ _
    | none => XDone _ (threadEnd _ _ _ _ (lpmEnd t f s1 d ((getDomain s d).bind (fun x => bestRoute x.routes v6 addr)))) _ _ _ _ _ _
  cases (getDomain s d).bind (fun x => bestRoute x.routes v6 addr) with
  | some r => exact xDone_xEnd hat hw _ _ f (some (BitVec.ofNat 64 (r.data + r.len * 2 ^ 32))) stOK 0 0
  | none => exact xDone_xEnd (hat.of_threads (bump_threads ..)) hw _ _ f (some 0#64) stMISS 0 0

/-! ### The longest route that matches -/

/-- A longer route replaces the best so far. -/
def longer (best : Option Route) (r : Route) : Option Route :=
  match best with
  | none => some r
  | some b => if r.len > b.len then some r else some b

theorem longer_some (b x : Route) : ∃ r, longer (some b) x = some r ∧ (r = x ∨ r = b) ∧ x.len ≤ r.len ∧ b.len ≤ r.len := by
  unfold longer
  dsimp only
  split
  · exact ⟨x, rfl, .inl rfl, le_refl _, by omega⟩
  · exact ⟨b, rfl, .inr rfl, by omega, le_refl _⟩

/-- The longest of a list of routes and one more. -/
theorem foldl_longer : ∀ (l : List Route) (b : Route), ∃ r, l.foldl longer (some b) = some r ∧ r ∈ b :: l ∧ ∀ q ∈ b :: l, q.len ≤ r.len
  | [], b => ⟨b, rfl, List.mem_singleton_self b, by simp⟩
  | x :: l, b => by
    obtain ⟨c, hc, hof, hx, hb⟩ := longer_some b x
    obtain ⟨r, hr, hmem, hlen⟩ := foldl_longer l c
    have hcr : c.len ≤ r.len := hlen c (List.mem_cons_self ..)
    refine ⟨r, by rw [List.foldl_cons, hc, hr], ?_, fun q hq => ?_⟩
    · rcases List.mem_cons.mp hmem with rfl | hl
      · rcases hof with rfl | rfl <;> simp
      · simp [hl]
    · rcases List.mem_cons.mp hq with rfl | hq
      · omega
      · rcases List.mem_cons.mp hq with rfl | hq
        · omega
        · exact hlen q (List.mem_cons_of_mem _ hq)

/-- A route of a family that matches an address. -/
def Route.Matches (v6 : Bool) (addr : Nat) (r : Route) : Prop :=
  r.v6 = v6 ∧ r.addr / 2 ^ ((if v6 then 128 else 32) - r.len) = addr / 2 ^ ((if v6 then 128 else 32) - r.len)

def routesFor (l : List Route) (v6 : Bool) (addr : Nat) : List Route :=
  l.filter fun r => r.v6 == v6 && decide (r.addr / 2 ^ ((if v6 then 128 else 32) - r.len) = addr / 2 ^ ((if v6 then 128 else 32) - r.len))

theorem mem_routesFor {l : List Route} {v6 : Bool} {addr : Nat} {r : Route} : r ∈ routesFor l v6 addr ↔ r ∈ l ∧ r.Matches v6 addr := by
  simp [routesFor, Route.Matches]

theorem bestRoute_eq (l : List Route) (v6 : Bool) (addr : Nat) : bestRoute l v6 addr = (routesFor l v6 addr).foldl longer none := rfl

theorem bestRoute_longest {l : List Route} {v6 : Bool} {addr : Nat} {r : Route} (h : bestRoute l v6 addr = some r) :
    r ∈ l ∧ r.Matches v6 addr ∧ ∀ q ∈ l, q.Matches v6 addr → q.len ≤ r.len := by
  rw [bestRoute_eq] at h
  cases hroutes : routesFor l v6 addr with
  | nil =>
    rw [hroutes] at h
    cases h
  | cons x t =>
    rw [hroutes] at h
    obtain ⟨b, hb, hmem, hlen⟩ := foldl_longer t x
    obtain rfl : b = r := Option.some.inj (hb.symm.trans h)
    rw [← hroutes] at hmem hlen
    obtain ⟨hin, hmatches⟩ := mem_routesFor.mp hmem
    exact ⟨hin, hmatches, fun q hq hqm => hlen q (mem_routesFor.mpr ⟨hq, hqm⟩)⟩

theorem bestRoute_none {l : List Route} {v6 : Bool} {addr : Nat} (h : bestRoute l v6 addr = none) : ∀ q ∈ l, ¬ q.Matches v6 addr := by
  rw [bestRoute_eq] at h
  cases hroutes : routesFor l v6 addr with
  | nil =>
    intro q hq hmatches
    have hmem := mem_routesFor.mpr ⟨hq, hmatches⟩
    rw [hroutes] at hmem
    cases hmem
  | cons x t =>
    rw [hroutes] at h
    obtain ⟨b, hb, -⟩ := foldl_longer t x
    cases hb.symm.trans h

/-! ### LRN and DEL -/

/-- How LRN ends with what learning answers. -/
def lrnEnd (t : Nat) (f : FmtX) : LrnOut → TRes
  | .done s st de wo => xEnd t f s (some (BitVec.ofNat 64 wo)) st de 0
  | .wait s => .fall s

theorem xDone_lrnEnd {s : State} {t : Nat} {S : State} (h : AtInstr s t S) (hw : tblWf 0#64 (getThread s t).w = true) (s1 : State) (y : BitVec 32)
    (f : FmtX) {r : LrnOut} {st de : Nat} (hr : r = .done S st de 0) :
    XDone S (threadEnd s1 t (getThread s t).pc (some y) (lrnEnd t f r)) t f (some 0#64) st de 0 := by
  subst hr
  exact xDone_xEnd h hw s1 y f (some 0#64) st de 0

section
variable {s : State} {c : LrnCtx}

theorem lrnIssue_absent (h : getTable s c.table = none) : lrnIssue s c = .done s stDENIED 0 0 := by
  unfold lrnIssue
  rw [h]

variable {x : LTable} (h : getTable s c.table = some x)
include h

theorem lrnIssue_closed (hlearn : x.defn.learn = false) : lrnIssue s c = .done s stDENIED 0 0 := by
  unfold lrnIssue
  rw [h]
  exact if_pos (.inl hlearn)

theorem lrnIssue_applies (hlearn : x.defn.learn = true) (hopen : tableClosed s c.table = false) (hwrites : pairPassive s = false)
    (hidle : tierBusy s x.defn.dram = false) : lrnIssue s c = lrnApply s c := by
  unfold lrnIssue
  rw [h]
  dsimp only
  rw [if_neg (by simp [hlearn, hopen]), if_neg (by simp [hwrites]), if_neg (by simp [hidle])]

theorem lrnApply_existed {l : Loc}
    (hfind : findBy s c.table x.defn c.key (fun y => slotVisible s y || (y.used && y.tag == 1)) = some l)
    (hstatic : (getEntry s x.defn.dram l).static = false) (htag : (getEntry s x.defn.dram l).tag ≠ 1) :
    lrnApply s c = .done (logChange (modEntry (bump s .learnExisted c.table 1) x.defn.dram l fun y => { y with data := c.data, hit := true })
      (.entrySet c.table x.defn.bits c.key c.data)) stOK 2 0 := by
  unfold lrnApply
  rw [h]
  dsimp only
  rw [hfind]
  dsimp only
  rw [if_neg (by simp [hstatic, htag])]

variable (hnew : findBy s c.table x.defn c.key (fun y => slotVisible s y || (y.used && y.tag == 1)) = none)
  (hshare : x.defn.partLimit = 0 ∨ tblGet 0 x.newBy c.partner < x.defn.partLimit) (htokens : 65536000000000 ≤ (learnBucket s x).tokens)
include hnew hshare htokens

theorem lrnApply_slot {i : Nat} (hplace : insertAt s c.table x.defn c.key = .place (.slot i)) :
    lrnApply s c = .done (learnedKey (placeEntry s x.defn (.slot i) c.entry) c) stOK 0 0 := by
  unfold lrnApply
  rw [h]
  dsimp only
  rw [hnew]
  dsimp only
  rw [if_neg (by omega), hplace]

theorem lrnApply_ovf {i : Nat} (hplace : insertAt s c.table x.defn c.key = .place (.ovf i)) :
    lrnApply s c = .done (learnedKey (placeEntry s x.defn (.ovf i) c.entry) c) stOK 1 0 := by
  unfold lrnApply
  rw [h]
  dsimp only
  rw [hnew]
  dsimp only
  rw [if_neg (by omega), hplace]

end

theorem lrn_xLaw (f : FmtX) : XLaw (.lrn · f) (encX 0x66 f 0) f.desc (fun s t p s' =>
     let tb := bits f.desc.toNat 7 0
     let k := tableKey s tb (getThread s t).regs f.a.toNat (2 ^ bits f.desc.toNat 27 26)
     let s1 := slotsTaken s t 2
     let c : LrnCtx := { thread := t, d := f.d.toNat, table := tb, key := k, data := xb s t f, partner := p.partner }
     match getTable s tb with
     | none => XDone s1 s' t f (some 0#64) stDENIED 0 0
     | some x =>
       (x.defn.learn = false → XDone s1 s' t f (some 0#64) stDENIED 0 0)
       ∧ (x.defn.learn = true → tableClosed s tb = false → pairPassive s = false → tierBusy s x.defn.dram = false →
         match findBy s tb x.defn k (fun y => slotVisible s y || (y.used && y.tag == 1)) with
         | some l =>
           let y := getEntry s x.defn.dram l
           y.static = false → y.tag ≠ 1 →
           XDone (logChange (modEntry (bump s1 .learnExisted tb 1) x.defn.dram l fun y => { y with data := c.data, hit := true })
             (.entrySet tb x.defn.bits k c.data)) s' t f (some 0#64) stOK 2 0
         | none =>
           (x.defn.partLimit = 0 ∨ tblGet 0 x.newBy p.partner < x.defn.partLimit) → 65536000000000 ≤ (learnBucket s x).tokens →
           match insertAt s tb x.defn k with
           | .place (.slot i) => XDone (learnedKey (placeEntry s1 x.defn (.slot i) c.entry) c) s' t f (some 0#64) stOK 0 0
           | .place (.ovf i) => XDone (learnedKey (placeEntry s1 x.defn (.ovf i) c.entry) c) s' t f (some 0#64) stOK 1 0
           | _ => True)) := by
  refine xLaw_of (fun t s => rfl) fun s t p hp hw => ?_
  intro tb k s1 c
  have hat : AtInstr s t s1 := atInstr_slotsTaken hp
  have hdone {S : State} {st de : Nat} (hS : ThreadsKept s1 S) (hr : lrnIssue s1 c = .done S st de 0) :=
    xDone_lrnEnd (hat.of_threads hS) hw s1 f.desc f hr
  cases htable : getTable s tb with
  | none => exact hdone rfl (lrnIssue_absent (s := s1) htable)
  | some x =>
    refine ⟨fun hlearn => hdone rfl (lrnIssue_closed (s := s1) htable hlearn), fun hlearn hopen hwrites hidle => ?_⟩
    have hissue : lrnIssue s1 c = lrnApply s1 c := lrnIssue_applies htable hlearn hopen hwrites hidle
    cases hfind : findBy s tb x.defn k (fun y => slotVisible s y || (y.used && y.tag == 1)) with
    | some l =>
      intro hstatic htag
      exact hdone (((bump_threads ..).trans (modEntry_threads ..)).trans (logChange_threads ..))
        (hissue.trans (lrnApply_existed (s := s1) (c := c) htable hfind hstatic htag))
    | none =>
      intro hshare htokens
      cases hplace : insertAt s tb x.defn k with
      | place l =>
        have hkept := (placeEntry_threads s1 x.defn l c.entry).trans (learnedKey_threads (placeEntry s1 x.defn l c.entry) c)
        cases l with
        | slot i => exact hdone hkept (hissue.trans (lrnApply_slot (s := s1) (c := c) htable hfind hshare htokens hplace))
        | ovf i => exact hdone hkept (hissue.trans (lrnApply_ovf (s := s1) (c := c) htable hfind hshare htokens hplace))
      | reloc old new h => trivial
      | noRoom => trivial

section
variable {s : State} {t key : Nat}

theorem delKey_absent (h : getTable s t = none) : delKey s t key = (s, stDENIED) := by
  unfold delKey
  rw [h]

variable {x : LTable} (h : getTable s t = some x)
include h

theorem delKey_closed (hlearn : x.defn.learn = false) : delKey s t key = (s, stDENIED) := by
  unfold delKey
  rw [h]
  exact if_pos hlearn

theorem delKey_applies (hlearn : x.defn.learn = true) (hrelocs : s.lookup.relocs = []) : delKey s t key = delApply s t x.defn key := by
  unfold delKey
  rw [h]
  dsimp only
  rw [if_neg (by simp [hlearn]), hrelocs]
  rfl

end

section
variable {s : State} {t key : Nat} {d : TableDef}

theorem delApply_miss (h : findKey s t d key = none) : delApply s t d key = (s, stMISS) := by
  unfold delApply
  rw [h]

variable {l : Loc} (h : findKey s t d key = some l)
include h

theorem delApply_static (hstatic : (getEntry s d.dram l).static = true) : delApply s t d key = (s, stDENIED) := by
  unfold delApply
  rw [h]
  exact if_pos (.inl hstatic)

theorem delApply_removes (hstatic : ¬ (getEntry s d.dram l).static = true) (htagged : findBy s t d key (fun y => y.used && y.tag != 0) = none)
    (hwrites : pairPassive s = false) : delApply s t d key =
      (logChange (modParts s d.dram l fun y => { y with used := false, vis := false }) (.entryRemove t d.bits key), stOK) := by
  unfold delApply
  rw [h]
  dsimp only
  rw [if_neg (by simp [hstatic, htagged]), if_neg (by simp [hwrites])]

end

/-- How DEL ends. -/
theorem xDone_del {s : State} {t : Nat} {S : State} (h : AtInstr s t S) (hw : tblWf 0#64 (getThread s t).w = true) (s1 : State) (y : BitVec 32)
    (f : FmtX) {r : State × Nat} {st : Nat} (hr : r = (S, st)) :
    XDone S (threadEnd s1 t (getThread s t).pc (some y) (xEnd t f r.1 none r.2 0 0)) t f none st 0 0 := by
  subst hr
  exact xDone_xEnd h hw s1 y f none st 0 0

theorem del_xLaw (f : FmtX) : XLaw (.del · f) (encX 0x66 f 1) f.desc (fun s t _ s' =>
     let tb := bits f.desc.toNat 7 0
     let k := tableKey s tb (getThread s t).regs f.a.toNat (2 ^ bits f.desc.toNat 27 26)
     let s1 := slotsTaken s t 2
     match getTable s tb with
     | none => XDone s1 s' t f none stDENIED 0 0
     | some x =>
       (x.defn.learn = false → XDone s1 s' t f none stDENIED 0 0)
       ∧ (x.defn.learn = true → s.lookup.relocs = [] → pairPassive s = false →
         match findKey s tb x.defn k with
         | none => XDone s1 s' t f none stMISS 0 0
         | some l =>
           if (getEntry s x.defn.dram l).static then XDone s1 s' t f none stDENIED 0 0
           else (findBy s tb x.defn k fun y => y.used && y.tag != 0) = none →
             XDone (logChange (modParts s1 x.defn.dram l fun y => { y with used := false, vis := false }) (.entryRemove tb x.defn.bits k))
               s' t f none stOK 0 0)) := by
  refine xLaw_of (fun t s => rfl) fun s t p hp hw => ?_
  intro tb k s1
  have hat : AtInstr s t s1 := atInstr_slotsTaken hp
  have hdone {S : State} {st : Nat} (hS : ThreadsKept s1 S) (hr : delKey s1 tb k = (S, st)) := xDone_del (hat.of_threads hS) hw s1 f.desc f hr
  cases htable : getTable s tb with
  | none => exact hdone rfl (delKey_absent (s := s1) htable)
  | some x =>
    refine ⟨fun hlearn => hdone rfl (delKey_closed (s := s1) htable hlearn), fun hlearn hrelocs hwrites => ?_⟩
    have happlies : delKey s1 tb k = delApply s1 tb x.defn k := delKey_applies htable hlearn hrelocs
    cases hfind : findKey s tb x.defn k with
    | none => exact hdone rfl (happlies.trans (delApply_miss hfind))
    | some l =>
      refine ite_of (fun hstatic => hdone rfl (happlies.trans (delApply_static hfind hstatic))) fun hstatic htagged => ?_
      exact hdone ((modParts_threads ..).trans (logChange_threads ..)) (happlies.trans (delApply_removes hfind hstatic htagged hwrites))

/-- Settles O16: each instruction by what the tables hold; the longest route as the fold over the routes that match. -/
theorem lookupsAndLearning : Obligations.LookupsAndLearning := by
  unfold Obligations.LookupsAndLearning
  exact ⟨fun f => ⟨lkpExact_xLaw f, lkpLpm_xLaw f⟩, fun l v6 addr => ⟨fun r hr => bestRoute_longest hr, fun hnone => bestRoute_none hnone⟩,
    fun f _ => ⟨lrn_xLaw f, del_xLaw f⟩⟩

end Sys2Proof.Machine
end

section
/-! PROOFS. The instructions that end a pass, and ENQ of a buffer (R104 to R106, R197, R347). -/

namespace Sys2Proof.Machine

theorem xLaw_mono {i : Agent → Instr} {w y : BitVec 32} {R R' : State → Fin 512 → Packet → State → Prop} (h : XLaw i w y R)
    (hR : ∀ s t p s', R s t p s' → R' s t p s') : XLaw i w y R' := by
  intro s t p hissue hguard hblock hw
  obtain ⟨s', hexec, hr⟩ := h s t p hissue hguard hblock hw
  exact ⟨s', hexec, hR s t p s' hr⟩

/-! ### Terminal instructions -/

section
variable {i : Agent → Instr} {w y : BitVec 32} {run : Nat → State → Thread → Packet → State}
  (hi : ∀ (t : Fin 512) s, exec (i (.thread t)) s = .next (terminal (.thread t) w y run s))
include hi

theorem terminal_confirmed : XLaw i w y fun s t p s' =>
    p.spec = .confirmed → s' = passEnded (bump (slotsTaken s t 2) .disposeIgnored p.entry 1) t := by
  refine xLaw_of hi fun s t p hp hw hspec => ?_
  rw [if_pos hspec]
  rfl

/-- A frame that is not confirmed: its speculation ends, then the instruction disposes of it. -/
theorem terminal_disposes : XLaw i w y fun s t p s' => p.spec ≠ .confirmed →
    s' = passEnded (run t (endSpec (slotsTaken s t 2) p).1 { getThread s t with slots := (getThread s t).slots + 2 } (endSpec (slotsTaken s t 2) p).2) t := by
  refine xLaw_of hi fun s t p hp hw hspec => ?_
  rw [if_neg hspec]
  rfl

end

/-- The end of a speculation changes no other field of its packet. -/
theorem endSpec_packet (s : State) (p : Packet) : (endSpec s p).2.partner = p.partner ∧ (endSpec s p).2.src = p.src := by
  unfold endSpec
  split <;> exact ⟨rfl, rfl⟩

theorem drop_xLaw (f : FmtX) : XLaw (.drop · f) (encX 0x6C f 0) f.desc (fun s t p s' => p.spec ≠ .confirmed →
     let r := endSpec (slotsTaken s t 2) p
     s' = passEnded (dropPacket (bump r.1 .dropReason (xa s t f % 256) 1) r.2) t) :=
  xLaw_mono (terminal_disposes fun _ _ => rfl) fun _ _ _ _ h => h

theorem enq_xLaw (f : FmtX) : XLaw (.enq · f) (encX 0x6B f 0) (setField 15 1 0 f.desc) (fun s t p s' => p.spec ≠ .confirmed →
     let r := endSpec (slotsTaken s t 2) p
     let s1 := frameWrite r.1 r.2.handle 0 (getThread r.1 t).window
     let q := xa s t f % 2 ^ 19
     let mark := (getThread s t).mark <|> r.2.req
     let install (x : State) : State := installAtEnq x r.2 q (bits f.desc.toNat 11 0) (bits f.desc.toNat 14 13) (f.desc.getLsbD 12)
     let e := enqueue s1 { packetDesc s1 r.2 q (bits f.desc.toNat 11 0) (bits f.desc.toNat 14 13) (f.desc.getLsbD 12) false false with mark := mark }
     s' = passEnded (
       if zoneAllowed s1 r.2 q = false then
         dropPacket (notSent (bump (breach (install s1) p.partner 3 p.src) .contractDrop p.partner 1) q mark.isSome) r.2
       else if e.2 then readySeq (install e.1) r.2
       else dropPacket (notSent (install e.1) q mark.isSome) r.2) t) := by
  refine xLaw_mono (terminal_disposes fun t s => rfl) fun s t p s' h hspec => ?_
  obtain ⟨hpartner, hsrc⟩ := endSpec_packet (slotsTaken s t 2) p
  have hcut : f.desc.getLsbD 12 = bitOf f.desc.toNat 12 := (testBit_eq_bitOf ..).symm
  rw [← hpartner, ← hsrc, hcut]
  exact h hspec

theorem mcast_xLaw (f : FmtX) : XLaw (.mcast · f) (encX 0x6B f 1) f.desc (fun s t p s' => p.spec ≠ .confirmed →
     let r := endSpec (slotsTaken s t 2) p
     let s1 := frameWrite r.1 r.2.handle 0 (getThread r.1 t).window
     let c := handleCell r.2.handle
     let s2 := setChain s1 c ((getChain s1 c).map fun x => { x with owner := 0x401 })
     let s3 := (tblGet [] s2.stock.groups (xa s t f % 65536)).foldl (mcastCopy r.2 (f.desc.getLsbD 0)) s2
     s' = passEnded (readySeq (freeDesc (match ownFree s3 0x401 r.2.handle with | .ok s4 => s4 | _ => s3) r.2.desc) r.2) t) := by
  refine xLaw_mono (terminal_disposes fun t s => rfl) fun s t p s' h hspec => ?_
  have hself : f.desc.getLsbD 0 = bitOf f.desc.toNat 0 := (testBit_eq_bitOf ..).symm
  rw [hself]
  exact h hspec

theorem punt_xLaw (f : FmtX) : XLaw (.punt · f) (encX 0x6C f 1) f.desc (fun s t p s' => p.spec ≠ .confirmed →
     let r := endSpec (slotsTaken s t 2) p
     let s1 := frameWrite r.1 r.2.handle 0 (getThread r.1 t).window
     let reason := xa s t f % 65536
     let s2 := if f.desc.getLsbD 6 then puntTriad s1 reason r.2 else puntHost s1 (bits f.desc.toNat 5 0) reason r.2
     s' = passEnded (discardStored (fillSeq s2 r.2) r.2.handle r.2.desc) t) := by
  refine xLaw_mono (terminal_disposes fun t s => rfl) fun s t p s' h hspec => ?_
  have htriad : f.desc.getLsbD 6 = bitOf f.desc.toNat 6 := (testBit_eq_bitOf ..).symm
  rw [htriad]
  exact h hspec

theorem recirc_confirmed (f : FmtX) : XLaw (.recirc · f) (encX 0x6C f 2) f.desc fun s t p s' =>
    p.spec = .confirmed → s' = passEnded (bump (slotsTaken s t 2) .disposeIgnored p.entry 1) t := by
  refine xLaw_of (fun t s => rfl) fun s t p hp hw hspec => ?_
  rw [if_pos hspec]
  rfl

theorem recirc_xLaw (f : FmtX) : XLaw (.recirc · f) (encX 0x6C f 2) f.desc (fun s t p s' => p.spec ≠ .confirmed →
     let r := endSpec (slotsTaken s t 2) p
     (p.pass = 3 → s' = passEnded (dropPacket (bump r.1 .recircLimit p.entry 1) r.2) t)
     ∧ (p.pass ≠ 3 →
       let s1 := passEnded (frameWrite r.1 p.handle 0 (getThread r.1 t).window) t
       s' = setThread s1 t { getThread s1 t with reserved := some { r.2 with
         pass := p.pass + 1, entry := bits f.desc.toNat 7 0, lastCon := none,
         carry0 := rget (getThread s t).regs f.a.toNat, carry1 := rget (getThread s t).regs f.b.toNat } })) := by
  refine xLaw_of (fun t s => rfl) fun s t p hp hw hspec => ?_
  rw [if_neg hspec]
  refine ⟨fun hlast => ?_, fun hmore => ?_⟩
  · rw [if_pos hlast]
    rfl
  · rw [if_neg hmore]
    rfl

theorem done_xLaw (f : FmtX) : XLaw (.done · f) (encX 0x6C f 3) f.desc (fun s t p s' =>
     s' = passEnded (if p.spec = .confirmed then setHit (slotsTaken s t 2) p
       else let r := endSpec (slotsTaken s t 2) p
         dropPacket (bump r.1 .doneDrop p.entry 1) r.2) t) := by
  refine xLaw_of (fun t s => rfl) fun s t p hp hw => ?_
  by_cases hspec : p.spec = .confirmed
  · rw [if_pos hspec, if_pos hspec]
    rfl
  · rw [if_neg hspec, if_neg hspec]
    rfl

/-! ### ENQ of a buffer -/

/-- The descriptor i of a chain that ENQ puts on queue q. -/
def enqDesc (f : FmtX) (s : State) (p : Packet) (q x h i : Nat) (ch : Chain) : Desc :=
  { packetDesc s p q (bits f.desc.toNat 11 0) (bits f.desc.toNat 14 13) (f.desc.getLsbD 12) false false with
    idx := i, handle := h, len := bits x 45 32, cells := ch.cells.length, order := none, seq := 0, rxTime := nowShort s
    arrVc := none, lastBit := s.localNs }

/-- ENQ of a chain that its thread owns, with the descriptor that the store gives. -/
def enqChain (t : Nat) (f : FmtX) (s : State) (p : Packet) (q x h c : Nat) (ch : Chain) : Option (Nat × State) → TRes
  | none => xEnd t f (bump s .descDrop 0 1) none stFULL 0 0
  | some (i, s1) =>
    let r := enqueue s1 (enqDesc f s1 p q x h i ch)
    if r.2 then xEnd t f (ledgerSub (setChain r.1 c ((getChain r.1 c).map (fun x => { x with owner := 0x400 }))) t h) none stOK 0 0
    else xEnd t f (freeDesc r.1 i) none stFULL 0 0

/-- ENQ of the chain of a handle. -/
def enqHandle (t : Nat) (f : FmtX) (s : State) (p : Packet) (q x h : Nat) : TRes :=
  match handleState s h with
  | .live c =>
    match getChain s c with
    | none => .fault vSTALE h
    | some ch =>
      if ch.owner ≠ t then .fault vFOREIGNFREE h
      else if ch.pending then .fault vDOUBLEFREE h
      else enqChain t f s p q x h c ch (takeDesc s)
  | _ => .fault vSTALE h

theorem exec_enqBuf (f : FmtX) (t : Fin 512) (s : State) : exec (.enqBuf (.thread t) f) s =
    .next (packetX (.thread t) (encX 0x6B f 0) (setField 15 1 1 f.desc) (fun t s th p =>
      enqHandle t f s p ((rget th.regs f.a.toNat).toNat % 2 ^ 19) (rget th.regs f.b.toNat).toNat ((rget th.regs f.b.toNat).toNat % 2 ^ 32)) s) := by
  have hcut : f.desc.getLsbD 12 = bitOf f.desc.toNat 12 := (testBit_eq_bitOf ..).symm
  unfold enqHandle enqChain enqDesc
  rw [hcut]
  rfl

section
variable {t q x h : Nat} {f : FmtX} {s : State} {p : Packet}

theorem enqHandle_gone (hgone : handleState s h = .stale ∨ handleState s h = .behind) : enqHandle t f s p q x h = .fault vSTALE h := by
  unfold enqHandle
  rcases hgone with hgone | hgone <;> rw [hgone]

variable {c : Nat} {ch : Chain} (hlive : handleState s h = .live c) (hch : getChain s c = some ch)
include hlive hch

theorem enqHandle_live : enqHandle t f s p q x h =
    if ch.owner ≠ t then .fault vFOREIGNFREE h else if ch.pending then .fault vDOUBLEFREE h else enqChain t f s p q x h c ch (takeDesc s) := by
  unfold enqHandle
  rw [hlive]
  dsimp only
  rw [hch]

end

/-- What the descriptor store gives touches no thread. -/
theorem takeDesc_kept {s s1 : State} {i : Nat} (h : takeDesc s = some (i, s1)) : ThreadsKept s s1 := by
  unfold takeDesc at h
  split at h
  · cases h
  · obtain ⟨-, rfl⟩ := Prod.mk.inj (Option.some.inj h)
    rfl

/-- Settles O20: the terminal instructions by the end of the speculation, ENQ of a buffer by its handle. -/
theorem passEnds : Obligations.PassEnds := by
  unfold Obligations.PassEnds
  refine ⟨fun f => ⟨?_, drop_xLaw f, enq_xLaw f, mcast_xLaw f, punt_xLaw f, recirc_xLaw f, done_xLaw f⟩, fun f s t p => ?_⟩
  · intro i op u y hmem
    simp only [List.mem_cons, Prod.mk.injEq, List.not_mem_nil, or_false] at hmem
    rcases hmem with ⟨rfl, rfl, rfl, rfl⟩ | ⟨rfl, rfl, rfl, rfl⟩ | ⟨rfl, rfl, rfl, rfl⟩ | ⟨rfl, rfl, rfl, rfl⟩ | ⟨rfl, rfl, rfl, rfl⟩
    · exact terminal_confirmed fun t s => rfl
    · exact terminal_confirmed fun t s => rfl
    · exact terminal_confirmed fun t s => rfl
    · exact terminal_confirmed fun t s => rfl
    · exact recirc_confirmed f
  · intro y hissue hguard hcores hw h s0
    have hblock : blockRefuses s (xBlock (fOp (encX 0x6B f 0).toNat)) = false := by
      rw [fOp_encX]
      exact hcores
    have hat : AtInstr s t s0 := atInstr_slotsTaken hissue.packet
    have hfault {n : Nat} := exec_fault (c := n) (n := h) (exec_enqBuf f t s) hissue hguard hblock
    refine ⟨fun hgone => hfault (enqHandle_gone (s := s0) hgone), fun c ch hlive hch => ?_⟩
    have hrun := enqHandle_live (t := t) (f := f) (p := p) (q := xa s t f % 2 ^ 19) (x := xb s t f) (s := s0) hlive hch
    refine ⟨fun howner => hfault (hrun.trans (if_pos howner)), fun howner hpending => hfault (hrun.trans ?_), fun howner hpending => ?_⟩
    · rw [if_neg (by simp [howner]), if_pos hpending]
    rw [if_neg (by simp [howner]), if_neg (by simp [hpending])] at hrun
    refine ⟨threadEnd s0 t (getThread s t).pc (some y) (enqChain t f s0 p (xa s t f % 2 ^ 19) (xb s t f) h c ch (takeDesc s0)),
      ?_, ?_⟩
    · rw [exec_enqBuf, packetX_issues _ hissue hguard hblock]
      exact congrArg Host.Outcome.next (congrArg (threadEnd _ _ _ _) hrun)
    · cases htake : takeDesc s0 with
      | none => exact xDone_xEnd (hat.of_threads (bump_threads ..)) hw _ _ f none stFULL 0 0
      | some r =>
        obtain ⟨i, s1⟩ := r
        have hkept (d : Desc) : ThreadsKept s0 (enqueue s1 d).1 := (takeDesc_kept htake).trans (enqueue_threads ..)
        refine ite_of (c := (enqueue s1 (enqDesc f s1 p (xa s t f % 2 ^ 19) (xb s t f) h i ch)).2 = true) (fun hadmitted => ?_) fun hrefused => ?_
        · have hend : enqChain t f s0 p (xa s t f % 2 ^ 19) (xb s t f) h c ch (some (i, s1)) = xEnd .. := if_pos hadmitted
          rw [hend]
          exact xDone_xEnd (((hat.of_threads (hkept _)).of_threads (setChain_threads ..)).of_threads (ledgerSub_threads ..)) hw _ _ f none stOK 0 0
        · have hend : enqChain t f s0 p (xa s t f % 2 ^ 19) (xb s t f) h c ch (some (i, s1)) = xEnd .. := if_neg hrefused
          rw [hend]
          exact xDone_xEnd ((hat.of_threads (hkept _)).of_threads (freeDesc_threads ..)) hw _ _ f none stFULL 0 0

end Sys2Proof.Machine
end

section
/-! PROOFS. The plane X instructions of the Commit Gate and their refusals (R13, R72, R107). -/

namespace Sys2Proof.Machine

/-! ### What the units answer never freezes their master -/

@[simp] theorem stageObj_froze (s : State) (o : Obj) (v : Option Nat) : (stageObj s o v).2.froze = false := by
  unfold stageObj
  split <;> rfl

@[simp] theorem stage_froze (s : State) (y : Nat) (img : List Byte) : (stage s y img).2.froze = false := by
  unfold stage
  dsimp only
  split
  · rfl
  split
  · rfl
  split
  · rfl
  · exact stageObj_froze ..

@[simp] theorem commit_froze (s : State) (target : Nat) : (commit s target).2.froze = false := by
  unfold commit
  split
  · rfl
  · dsimp only
    split <;> rfl

@[simp] theorem abortCommit_froze (s : State) (num : Nat) : (abortCommit s num).2.froze = false := by
  unfold abortCommit
  split <;> rfl

@[simp] theorem abortGroup_froze (s : State) : (abortGroup s).2.froze = false := by
  unfold abortGroup
  split <;> rfl

@[simp] theorem thawMaster_froze (s : State) (a : Nat) : (thawMaster s a).2.froze = false := by
  unfold thawMaster
  dsimp only
  repeat' split
  all_goals rfl

@[simp] theorem thawPartner_froze (s : State) (a : Nat) : (thawPartner s a).2.froze = false := by
  unfold thawPartner
  dsimp only
  repeat' split
  all_goals rfl

@[simp] theorem stageGates_froze (s : State) (a y : Nat) (img : List Byte) : (stageGates s a y img).2.froze = false := by
  unfold stageGates
  split
  · rfl
  · exact stageObj_froze ..

@[simp] theorem stageShaper_froze (s : State) (a y : Nat) (img : List Byte) : (stageShaper s a y img).2.froze = false := by
  unfold stageShaper
  split
  · rfl
  · exact stageObj_froze ..

@[simp] theorem stageEpoch_froze (s : State) (img : List Byte) : (stageEpoch s img).2.froze = false := by
  unfold stageEpoch
  split
  · rfl
  · split
    · rfl
    · exact stageObj_froze ..

@[simp] theorem stageBank_froze (s : State) (b : Nat) : (stageBank s b).2.froze = false := by
  unfold stageBank
  split
  · rfl
  · exact stageObj_froze ..

@[simp] theorem stageLease_froze (s : State) (order a : Nat) : (stageLease s order a).2.froze = false := by
  unfold stageLease
  split
  · rfl
  · split
    · rfl
    · exact stageObj_froze ..

/-! ### An instruction of the Commit Gate completes -/

/-- Answers reach the cores that asked only. -/
theorem foldl_coreAnswer_frame (n : Nat) (d : List Nat) : ∀ (l : List (Nat × CRes)) (s : State),
    l.foldl (coreAnswer n d) s = { s with cores := (l.foldl (coreAnswer n d) s).cores } ∧
      ∀ j, j ∉ l.map (·.1) → getCore (l.foldl (coreAnswer n d) s) j = getCore s j
  | [], s => ⟨rfl, fun _ _ => rfl⟩
  | e :: l, s => by
    have hone : coreAnswer n d s e = { s with cores := (coreAnswer n d s e).cores } ∧ ∀ j, j ≠ e.1 → getCore (coreAnswer n d s e) j = getCore s j := by
      unfold coreAnswer
      split
      · exact ⟨rfl, fun j hj => getCore_setCore_ne _ _ _ _ hj⟩
      · exact ⟨rfl, fun _ _ => rfl⟩
    obtain ⟨hrest, hothers⟩ := foldl_coreAnswer_frame n d l (coreAnswer n d s e)
    refine ⟨?_, fun j hj => ?_⟩
    · rw [List.foldl_cons, hrest, hone.1]
    · simp only [List.map_cons, List.mem_cons, not_or] at hj
      rw [List.foldl_cons, hothers j hj.2, hone.2 j hj.1]

theorem gateLaw_of {i : Agent → Instr} {w y : BitVec 32} {f : FmtX} {level : Nat}
    {image : State → Nat → SCore → Nat → Nat → Except Nat (List Byte)} {run : State → Nat → Nat → Nat → List Byte → State × PlaneRes}
    (hi : ∀ who s, exec (i who) s = .next (planeX who w y f level image run s)) (hrun : ∀ s m a b img, (run s m a b img).2.froze = false) :
    GateLaw i w y f level image run := by
  intro s who a b img m h hm hm3 r
  have hmem : m ∈ agentCores s who := List.mem_of_mem_head? hm
  have hanswers : planeX who w y f level image run s =
      ((agentCores s who).map fun k => (k, CRes.ask (.plane w.toNat y.toNat [a, b] img) (planeFin f))).foldl (coreAnswer 8 r.2.toList) r.1 := by
    rw [planeX_core hmem, coreStep_asks (fin := planeFin f) h ?_ hm]
    · have hperform : planePerform run s m (.plane w.toNat y.toNat [a, b] img) = (r.1, .data r.2.toList) := by
        unfold planePerform
        dsimp only
        rw [if_neg (by omega)]
        exact if_neg (by simp [hrun])
      rw [hperform]
      rfl
    · intro k hk hask
      unfold planeAsk at hask
      split at hask
      · cases hask
      · split at hask
        · injection hask with hask
          unfold planeIssue
          dsimp only
          rw [if_neg ‹_›, if_neg (by have := agentCores_triad s who m hm hm3 k hk; omega), ‹image s k _ _ _ = _›]
          exact congrArg (CRes.ask · (planeFin f)) hask
        · cases hask
  obtain ⟨hrest, hothers⟩ := foldl_coreAnswer_frame 8 r.2.toList
    ((agentCores s who).map fun k => (k, CRes.ask (.plane w.toNat y.toNat [a, b] img) (planeFin f))) r.1
  rw [← hanswers] at hrest hothers
  refine ⟨_, hi _ _, hrest, fun j hj => hothers j (by simpa using hj), fun hrising => ?_⟩
  obtain ⟨s', hexec, hanswered⟩ := planeLaw_of hi s who a b img m h hm hm3 (hrun ..) hrising
  rw [hi] at hexec
  injection hexec with hexec
  rw [hexec]
  exact hanswered

/-! ### Refusals -/

/-- Each plane X instruction is one planeX of its words and level. -/
theorem planeForm_exec {f : FmtX} {i : Agent → Instr} {w y : BitVec 32} {level : Nat} (h : PlaneForm f i w y level) :
    ∃ image run, ∀ who s, exec (i who) s = .next (planeX who w y f level image run s) := by
  rcases h with h | ⟨vbatA, vbatB, good, cut, rfl, rfl, rfl, rfl⟩ | ⟨vbat, rfl, rfl, rfl, rfl⟩
  · have hall : ∀ e ∈ planeForms f, ∃ image run, ∀ who s, exec (e.1 who) s = .next (planeX who e.2.1 e.2.2.1 f e.2.2.2 image run s) := by
      unfold planeForms
      repeat' refine List.forall_mem_cons.mpr ⟨⟨_, _, fun _ _ => rfl⟩, ?_⟩
      exact fun e he => absurd he List.not_mem_nil
    exact hall _ h
  · exact ⟨_, _, fun _ _ => rfl⟩
  · exact ⟨_, _, fun _ _ => rfl⟩

theorem planeIssue_low {w y : BitVec 32} {f : FmtX} {level : Nat} {image : State → Nat → SCore → Nat → Nat → Except Nat (List Byte)} {s : State} {k : Nat}
    {c : SCore} (h : c.pl.toNat < level) : planeIssue w y f level image s k c = .trap cPRIV (w.zeroExtend 64) := if_pos h

theorem askOf_trapIssue {s : State} {k : Nat} {w : BitVec 32} {y : Option (BitVec 32)} {run : State → Nat → SCore → CRes} {code : Nat} {tval : Word}
    (h : run s k (getCore s k) = .trap code tval) : askOf (coreIssue s k w y run) = none := by
  unfold coreIssue
  dsimp only
  rw [h]
  repeat' split
  all_goals rfl

/-- A plane X request of a Tally core asks with its operands alone. -/
theorem planeIssue_tally {w y : BitVec 32} {f : FmtX} {level : Nat} {image : State → Nat → SCore → Nat → Nat → Except Nat (List Byte)} {s : State}
    {k : Nat} {c : SCore} (h : level ≤ c.pl.toNat) (hk : 3 ≤ k) : planeIssue w y f level image s k c =
      .ask (.plane w.toNat y.toNat [rget c.regs f.a.toNat, rget c.regs f.b.toNat] []) (fun c _ => c) := by
  unfold planeIssue
  dsimp only
  rw [if_neg (by omega), if_pos hk]

/-- Settles O21: the Commit Gate's instructions complete; below its level an instruction traps before it asks, and a Tally core's reaches the
Fence. -/
theorem planeInstructions : Obligations.PlaneInstructions := by
  unfold Obligations.PlaneInstructions
  refine ⟨fun f => ?_, fun s f i w y level hform hrising => ?_⟩
  · refine ⟨?_, ?_, ?_, ?_, ?_, ?_, ?_, ?_, ?_, ?_, ?_, ?_, ?_, ?_⟩
    all_goals exact gateLaw_of (fun _ _ => rfl) fun s m a b img => by simp
  obtain ⟨image, run, hexec⟩ := planeForm_exec hform
  refine ⟨fun who k hissue hguard hlow => ?_, fun c => ?_⟩
  · refine ⟨_, hexec _ _, ?_⟩
    rw [planeX_core hissue.mine]
    have hquiet : ∀ j ∈ agentCores s who, coreIdle s j = false → askOf (coreIssue s j w (some y) (planeIssue w y f level image)) = none :=
      fun j hj _ => askOf_trapIssue (planeIssue_low (hlow j hj))
    obtain ⟨hcore, hothers⟩ := coreStep_at (planePerform run) hquiet hissue.mine hissue.free hrising
    refine ⟨?_, hothers⟩
    rw [hcore, coreIssue_run _ hissue hguard, planeIssue_low (hlow k hissue.mine)]
    exact getCore_takeException hrising
  · intro k hissue hguard hlevel
    have hone : agentCores s (.tally c) = [k] := rfl
    rw [hexec, planeX_core hissue.mine]
    obtain ⟨q, hq⟩ : ∃ q, q = Req.plane w.toNat y.toNat [rget (getCore s k).regs f.a.toNat, rget (getCore s k).regs f.b.toNat] [] := ⟨_, rfl⟩
    have hasks : AllAsk s (.tally c) w (some y) (fun _ _ => some q) q := by
      refine ⟨by simp [hone], fun j hj => ?_, fun hv => by cases hv⟩
      obtain rfl : j = k := by simpa [hone] using hj
      exact ⟨hissue, hguard, rfl⟩
    rw [coreStep_asks (fin := fun c _ => c) (m := k) hasks ?_ (by simp [hone])]
    · have hmaster : coreMaster k = 0x210 + c.val := by
        unfold coreMaster
        rw [if_neg (by omega)]
        simp [mTALLY, k]
      rw [hq]
      unfold planePerform
      dsimp only
      rw [if_pos (by omega), hmaster]
    · intro j hj _
      obtain rfl : j = k := by simpa [hone] using hj
      rw [hq]
      exact planeIssue_tally hlevel (by omega)

end Sys2Proof.Machine
end

section
/-! PROOFS. What the Commit Gate instructions stage, commit and abort (R14 to R18, R108 to R111, R271, R276, R529, R531). -/

namespace Sys2Proof.Machine

/-! ### Staging -/

/-- The group past its limits with n more bytes (R529). -/
def GroupFull (s : State) (n : Nat) : Prop :=
  4096 ≤ (s.gate.group.getD []).length ∨ 16 * 2 ^ 20 < ((s.gate.group.getD []).map (fun o => o.img.length)).sum + n

/-- The state with one more object in the open group. -/
def stagedWith (s : State) (o : Obj) : State := { s with gate := { s.gate with group := some (s.gate.group.getD [] ++ [o]) } }

theorem groupFull_iff (s : State) (n : Nat) : groupFull s n = true ↔ GroupFull s n := by
  simp [groupFull, GroupFull]

theorem stageObj_full {s : State} {o : Obj} (h : GroupFull s o.img.length) (v : Option Nat) : stageObj s o v = (s, PlaneRes.only stFULL) :=
  if_pos ((groupFull_iff _ _).mpr h)

theorem stageObj_room {s : State} {o : Obj} (h : ¬ GroupFull s o.img.length) (v : Option Nat) :
    stageObj s o v = (stagedWith s o, { PlaneRes.only stOK with value := v }) :=
  if_neg (mt (groupFull_iff _ _).mp h)

/-- What staging an object leaves: the open group alone may change, and only with OK. -/
def OnlyGroup (s : State) (r : State × PlaneRes) : Prop :=
  r.1 = { s with gate := { s.gate with group := r.1.gate.group } } ∧ (r.2.status ≠ stOK → r.1 = s)

theorem onlyGroup_self (s : State) (r : PlaneRes) : OnlyGroup s (s, r) := ⟨rfl, fun _ => rfl⟩

theorem onlyGroup_stageObj (s : State) (o : Obj) (v : Option Nat) : OnlyGroup s (stageObj s o v) := by
  by_cases h : GroupFull s o.img.length
  · rw [stageObj_full h]
    exact onlyGroup_self _ _
  · rw [stageObj_room h]
    exact ⟨rfl, fun hst => absurd rfl hst⟩

theorem onlyGroup_stage (s : State) (y : Nat) (img : List Byte) : OnlyGroup s (stage s y img) := by
  unfold stage
  dsimp only
  split
  · exact onlyGroup_self _ _
  split
  · exact onlyGroup_self _ _
  split
  · exact onlyGroup_self _ _
  · exact onlyGroup_stageObj ..

/-- The types of the objects of a subsystem are numbered from 1 on. -/
theorem stageTypes_iff {n k : Nat}
    (h : (n, k) ∈ [(1, 7), (2, 2), (3, 2), (4, 3), (5, 4), (6, 1), (7, 3), (8, 2), (9, 8), (10, 5), (11, 5), (14, 1), (15, 3), (16, 6)]) :
    1 ≤ n ∧ n ≤ 18 ∧ stageTypes n = (List.range k).map (· + 1) ∧ 1 ≤ k := by
  simp only [List.mem_cons, Prod.mk.injEq, List.not_mem_nil, or_false] at h
  rcases h with ⟨rfl, rfl⟩ | ⟨rfl, rfl⟩ | ⟨rfl, rfl⟩ | ⟨rfl, rfl⟩ | ⟨rfl, rfl⟩ | ⟨rfl, rfl⟩ | ⟨rfl, rfl⟩ | ⟨rfl, rfl⟩ | ⟨rfl, rfl⟩ | ⟨rfl, rfl⟩ | ⟨rfl, rfl⟩ |
    ⟨rfl, rfl⟩ | ⟨rfl, rfl⟩ | ⟨rfl, rfl⟩ <;> decide

section
variable {s : State} {y : Nat} {img : List Byte}

theorem stage_refused (h : bits y 31 27 = 0 ∨ 18 < bits y 31 27 ∨ bits y 31 27 ∈ [12, 13, 17, 18] ∨ blockRefuses s (bits y 31 27) = true) :
    stage s y img = (s, PlaneRes.why stDENIED 0) := by
  unfold stage
  dsimp only
  refine if_pos ?_
  rcases h with h | h | h | h
  · exact .inl h
  · exact .inr (.inl h)
  · refine .inr (.inr (.inl ?_))
    generalize bits y 31 27 = n at h
    simp only [List.mem_cons, List.not_mem_nil, or_false] at h
    rcases h with rfl | rfl | rfl | rfl <;> rfl
  · exact .inr (.inr (.inr h))

variable {k : Nat}
  (hk : (bits y 31 27, k) ∈ [(1, 7), (2, 2), (3, 2), (4, 3), (5, 4), (6, 1), (7, 3), (8, 2), (9, 8), (10, 5), (11, 5), (14, 1), (15, 3), (16, 6)])
  (hb : blockRefuses s (bits y 31 27) = false)
include hk hb

theorem stage_takes : stage s y img =
    if bits y 26 19 = 0 ∨ k < bits y 26 19 then (s, PlaneRes.why stDENIED (if bits y 31 27 = 4 then 0x0D else 0x01))
    else match stageCheck s (bits y 31 27) (bits y 26 19) img with
      | some (c, w) => (s, { PlaneRes.why stDENIED c with high := w })
      | none => stageObj s { sub := bits y 31 27, typ := bits y 26 19, img := img, arg := 0 } (some (s.gate.group.getD []).length) := by
  obtain ⟨hn1, hn18, htypes, hk1⟩ := stageTypes_iff hk
  have hcontains : (stageTypes (bits y 31 27)).contains (bits y 26 19) = false ↔ bits y 26 19 = 0 ∨ k < bits y 26 19 := by
    rw [htypes, ← Bool.not_eq_true, List.contains_iff_mem]
    simp only [List.mem_map, List.mem_range, not_exists, not_and]
    constructor
    · intro h
      by_contra hin
      exact h (bits y 26 19 - 1) (by omega) (by omega)
    · intro h x hx hxe
      omega
  unfold stage
  dsimp only
  rw [if_neg (by
    rw [htypes]
    have hsome : ((List.range k).map (· + 1)).isEmpty = false := by simpa using (by omega : k ≠ 0)
    simp only [hsome, hb, Bool.false_eq_true, or_false]
    omega)]
  split
  · rw [if_pos (hcontains.mp ‹_›)]
  · exact (if_neg (mt hcontains.mpr ‹_›)).symm

end

/-! ### GATELIST, SHAPER, EPOCH and BANK -/

/-- What R276 refuses in a gate list of k entries for port a. -/
def BadGates (a y : Nat) (img : List Byte) : Prop :=
  55 < a ∨ 1024 < y % 2048 ∨ y / 2048 ≠ 0 ∨ im32 img 0 / 2 ^ 16 % 2 ^ 14 ≠ 0 ∨ 1000000000 ≤ im32 img 8 ∨ im32 img 12 < 64 ∨
    1000000000 < im32 img 12 ∨ ∃ j < y % 2048, im32 img (0x10 + 8 * j) / 2 ^ 10 % 2 ^ 22 ≠ 0 ∨ im32 img (0x10 + 8 * j) / 2 ^ 8 % 4 = 3 ∨
      im32 img (0x14 + 8 * j) < 64

theorem gatelistDenied_iff {a y : Nat} {img : List Byte} (ha : a < 2 ^ 64) (hy : y < 2 ^ 32) : gatelistDenied a y img = true ↔ BadGates a y img := by
  have hlist : bits y 10 0 = y % 2048 := by
    unfold bits
    omega
  have hrest : bits y 31 11 = y / 2048 := by
    unfold bits
    omega
  have hport : bits a 63 6 ≠ 0 ∨ 55 < a ↔ 55 < a := by
    unfold bits
    omega
  unfold gatelistDenied BadGates
  dsimp only
  rw [hlist, hrest]
  simp only [Bool.or_eq_true, bne_iff_ne, ne_eq, decide_eq_true_eq, beq_iff_eq, List.any_eq_true, List.mem_range, or_assoc]
  rw [← or_assoc, hport]
  rw [or_left_comm (a := ¬ y / 2048 = 0)]
  simp only [bits, Nat.add_right_comm _ _ 4]
  rfl

/-- What R271 refuses in a shaper. -/
def BadShaper (a y : Nat) (img : List Byte) : Prop :=
  a / 2 ^ 22 ≠ 0 ∨ a / 2 ^ 19 % 2 ≠ 0 ∨ (a / 2 ^ 20 % 4 = 1 ∧ 65536 ≤ a % 2 ^ 19) ∨ (a / 2 ^ 20 % 4 = 2 ∧ 8192 ≤ a % 2 ^ 19) ∨
    (a / 2 ^ 20 % 4 = 3 ∧ 64 ≤ a % 2 ^ 19) ∨ im32 img 0 / 2 ^ 26 % 64 ≠ 0 ∨ im32 img 4 / 2 ^ 26 % 64 ≠ 0 ∨ im32 img 8 / 2 ^ 24 % 256 ≠ 0 ∨
    im32 img 12 / 2 ^ 24 % 256 ≠ 0 ∨ 50000000 < im32 img 0 ∨ 50000000 < im32 img 4 ∨ y % 2 ^ 31 ≠ 0

theorem shaperDenied_iff {a y : Nat} {img : List Byte} (ha : a < 2 ^ 64) : (shaperDenied a img = true ∨ bits y 30 0 ≠ 0) ↔ BadShaper a y img := by
  have hrest : bits a 63 22 = a / 2 ^ 22 := by
    unfold bits
    omega
  have hlow : bits y 30 0 = y % 2 ^ 31 := by
    unfold bits
    omega
  have hbit : bitOf a 19 = true ↔ ¬ a / 2 ^ 19 % 2 = 0 := by simp [bitOf]
  have hlimit : (if bits a 21 20 = 0 then queueCount else if bits a 21 20 = 1 then 65536 else if bits a 21 20 = 2 then 8192 else 64) ≤ bits a 18 0 ↔
      (a / 2 ^ 20 % 4 = 1 ∧ 65536 ≤ a % 2 ^ 19) ∨ (a / 2 ^ 20 % 4 = 2 ∧ 8192 ≤ a % 2 ^ 19) ∨ (a / 2 ^ 20 % 4 = 3 ∧ 64 ≤ a % 2 ^ 19) := by
    have hlevel : bits a 21 20 = a / 2 ^ 20 % 4 := rfl
    have hindex : bits a 18 0 = a % 2 ^ 19 := by simp [bits]
    rw [hlevel, hindex, queueCount]
    have hlt : a / 2 ^ 20 % 4 < 4 := Nat.mod_lt _ (by decide)
    generalize a / 2 ^ 20 % 4 = level at *
    split_ifs <;> omega
  unfold shaperDenied BadShaper
  dsimp only
  rw [hrest, hlow]
  simp only [Bool.or_eq_true, bne_iff_ne, ne_eq, decide_eq_true_eq, or_assoc, ge_iff_le, hlimit, hbit]
  rfl

/-- An EPOCH object staged, committed or deferred, or a second epoch that lives. -/
def EpochBusy (s : State) : Prop :=
  s.screen.older.isSome = true ∨ s.screen.deferred.isSome = true ∨
    (∃ c ∈ s.gate.committed, ∃ o ∈ c.objs, o.sub = 3 ∧ o.typ = 17) ∨ ∃ o ∈ s.gate.group.getD [], o.sub = 3 ∧ o.typ = 17

theorem epochBusy_iff (s : State) : (s.screen.older.isSome = true ∨ epochPending s = true) ↔ EpochBusy s := by
  simp [epochPending, EpochBusy]

theorem stageGates_bad {s : State} {a y : Nat} {img : List Byte} (ha : a < 2 ^ 64) (hy : y < 2 ^ 32)
    (h : blockRefuses s 9 = true ∨ BadGates a y img) : stageGates s a y img = (s, PlaneRes.why stDENIED 0) :=
  if_pos (h.imp_right (gatelistDenied_iff ha hy).mpr)

theorem stageGates_good {s : State} {a y : Nat} {img : List Byte} (ha : a < 2 ^ 64) (hy : y < 2 ^ 32)
    (hb : blockRefuses s 9 = false) (h : ¬ BadGates a y img) :
    stageGates s a y img = stageObj s { sub := 9, typ := tGATELIST, img := img, arg := a + 64 * (y % 2048) } none := by
  have hport : a % 64 + 64 * bits y 10 0 = a + 64 * (y % 2048) := by
    have hle : ¬ 55 < a := fun hlt => h (.inl hlt)
    unfold bits
    omega
  unfold stageGates
  rw [if_neg (by rw [gatelistDenied_iff ha hy]; simp [hb, h]), hport]

theorem stageShaper_bad {s : State} {a y : Nat} {img : List Byte} (ha : a < 2 ^ 64)
    (h : blockRefuses s 9 = true ∨ BadShaper a y img) : stageShaper s a y img = (s, PlaneRes.why stDENIED 0) :=
  if_pos (h.imp_right (shaperDenied_iff ha).mpr)

theorem stageShaper_good {s : State} {a y : Nat} {img : List Byte} (ha : a < 2 ^ 64) (hy : y < 2 ^ 32)
    (hb : blockRefuses s 9 = false) (h : ¬ BadShaper a y img) :
    stageShaper s a y img = stageObj s { sub := 9, typ := tSHAPER, img := img, arg := a + y / 2 ^ 31 * 2 ^ 32 } none := by
  have harg : a % 2 ^ 32 + bits y 31 31 * 2 ^ 32 = a + y / 2 ^ 31 * 2 ^ 32 := by
    have hle : a / 2 ^ 22 = 0 := by
      by_contra hne
      exact h (.inl hne)
    unfold bits
    omega
  unfold stageShaper
  rw [if_neg (by rw [shaperDenied_iff ha]; simp [hb, h]), harg]

theorem stageEpoch_busy {s : State} {img : List Byte} (hb : blockRefuses s 3 = false) (h : EpochBusy s) :
    stageEpoch s img = (s, PlaneRes.only stEPOCHBUSY) := by
  unfold stageEpoch
  rw [if_neg (by simp [hb]), if_pos ((epochBusy_iff s).mpr h)]

theorem stageEpoch_free {s : State} {img : List Byte} (hb : blockRefuses s 3 = false) (h : ¬ EpochBusy s) :
    stageEpoch s img = stageObj s { sub := 3, typ := 17, img := img, arg := 0 } (some s.screen.nextEpoch) := by
  unfold stageEpoch
  rw [if_neg (by simp [hb]), if_neg (mt (epochBusy_iff s).mp h)]

theorem stageBank_runs {s : State} {b : Nat} (hb : blockRefuses s 4 = false) :
    stageBank s b = stageObj s { sub := 4, typ := 16, img := [], arg := b } none :=
  if_neg (by simp [hb])

/-! ### COMMIT -/

/-- The better of two faults comes first by offset, then by code. -/
theorem betterFault_least (x y : Nat × Nat) : (betterFault x y = x ∨ betterFault x y = y) ∧
    ∀ z, (z = x ∨ z = y) → (betterFault x y).1 < z.1 ∨ ((betterFault x y).1 = z.1 ∧ (betterFault x y).2 ≤ z.2) := by
  unfold betterFault
  split
  · refine ⟨.inr rfl, ?_⟩
    rintro z (rfl | rfl) <;> omega
  · refine ⟨.inl rfl, ?_⟩
    rintro z (rfl | rfl) <;> omega

theorem foldl_betterFault : ∀ (l : List (Nat × Nat)) (x : Nat × Nat), l.foldl betterFault x ∈ x :: l ∧
    ∀ z ∈ x :: l, (l.foldl betterFault x).1 < z.1 ∨ ((l.foldl betterFault x).1 = z.1 ∧ (l.foldl betterFault x).2 ≤ z.2)
  | [], x => ⟨List.mem_singleton_self x, by simp⟩
  | y :: l, x => by
    obtain ⟨hof, hleast⟩ := betterFault_least x y
    obtain ⟨hmem, hall⟩ := foldl_betterFault l (betterFault x y)
    rw [List.foldl_cons]
    refine ⟨?_, fun z hz => ?_⟩
    · rcases List.mem_cons.mp hmem with h | h
      · rw [h]
        rcases hof with h | h <;> simp [h]
      · simp [h]
    · have hbest := hall _ (List.mem_cons_self ..)
      rcases List.mem_cons.mp hz with rfl | hz
      · have := hleast z (.inl rfl)
        omega
      · rcases List.mem_cons.mp hz with rfl | hz
        · have := hleast z (.inr rfl)
          omega
        · exact hall z (List.mem_cons_of_mem _ hz)

theorem pickFault_none (l : List (Nat × Nat)) : pickFault l = none ↔ l = [] := by
  cases l <;> simp [pickFault]

theorem pickFault_least {l : List (Nat × Nat)} {c : Nat} (h : pickFault l = some c) :
    ∃ o, (o, c) ∈ l ∧ ∀ x ∈ l, o < x.1 ∨ (o = x.1 ∧ c ≤ x.2) := by
  cases l with
  | nil => cases h
  | cons x t =>
    obtain rfl : (t.foldl betterFault x).2 = c := Option.some.inj h
    obtain ⟨hmem, hall⟩ := foldl_betterFault t x
    exact ⟨(t.foldl betterFault x).1, hmem, hall⟩

/-- The fault of the lowest subsystem. -/
theorem foldl_lowest : ∀ (l : List (Nat × Nat)) (f : Nat × Nat), (l.foldl (fun a b => if b.1 < a.1 then b else a) f) ∈ f :: l ∧
    ∀ z ∈ f :: l, (l.foldl (fun a b => if b.1 < a.1 then b else a) f).1 ≤ z.1
  | [], f => ⟨List.mem_singleton_self f, by simp⟩
  | g :: l, f => by
    obtain ⟨hmem, hall⟩ := foldl_lowest l (if g.1 < f.1 then g else f)
    rw [List.foldl_cons]
    have hof : (if g.1 < f.1 then g else f) = g ∨ (if g.1 < f.1 then g else f) = f := by split <;> simp
    have hle : (if g.1 < f.1 then g else f).1 ≤ g.1 ∧ (if g.1 < f.1 then g else f).1 ≤ f.1 := by split <;> constructor <;> omega
    generalize (if g.1 < f.1 then g else f) = b at hmem hall hof hle ⊢
    refine ⟨?_, fun z hz => ?_⟩
    · rcases List.mem_cons.mp hmem with h | h
      · rw [h]
        rcases hof with rfl | rfl <;> simp
      · simp [h]
    · have hbest := hall b (List.mem_cons_self ..)
      rcases List.mem_cons.mp hz with rfl | hz
      · omega
      · rcases List.mem_cons.mp hz with rfl | hz
        · omega
        · exact hall z (List.mem_cons_of_mem _ hz)

theorem lowestFault_none {l : List (Nat × Nat)} (h : lowestFault l = none) : l = [] := by
  cases l with
  | nil => rfl
  | cons f t => cases h

theorem lowestFault_least {l : List (Nat × Nat)} {f : Nat × Nat} (h : lowestFault l = some f) : f ∈ l ∧ ∀ z ∈ l, f.1 ≤ z.1 := by
  cases l with
  | nil => cases h
  | cons g t =>
    obtain rfl := Option.some.inj h
    exact foldl_lowest t g

/-- The faults of the subsystems whose check reads the group alone. -/
def plainFaults (s : State) (natural : Nat) (g before : List Obj) : List (Nat × Nat) :=
  (List.range 19).filterMap fun n => (plainFault s natural g before n).map fun c => (n, c)

def lookupFaults (c : Option Nat) : List (Nat × Nat) := match c with | none => [] | some c => [(5, c)]

theorem mem_plainFaults {s : State} {natural : Nat} {g before : List Obj} {m k : Nat} :
    (m, k) ∈ plainFaults s natural g before ↔ plainFault s natural g before m = some k := by
  have hrange : ∀ m k, plainFault s natural g before m = some k → m < 19 := by
    intro m k h
    by_contra hm
    obtain ⟨j, rfl⟩ := Nat.exists_eq_add_of_le (Nat.le_of_not_lt hm)
    rw [Nat.add_comm] at h
    cases h
  unfold plainFaults
  simp only [List.mem_filterMap, List.mem_range, Option.map_eq_some_iff, Prod.mk.injEq]
  constructor
  · rintro ⟨n, hn, c, hc, rfl, rfl⟩
    exact hc
  · exact fun h => ⟨m, hrange m k h, k, h, rfl, rfl⟩

theorem mem_lookupFaults {c : Option Nat} {m k : Nat} : (m, k) ∈ lookupFaults c ↔ m = 5 ∧ c = some k := by
  cases c with
  | none => simp [lookupFaults]
  | some c =>
    simp [lookupFaults, eq_comm]

def storeFaults {α : Type} (n : Nat) : Except Nat α → List (Nat × Nat)
  | .ok _ => []
  | .error c => [(n, c)]

theorem fst_of_mem_storeFaults {α : Type} {n : Nat} {r : Except Nat α} {x : Nat × Nat} (h : x ∈ storeFaults n r) : x.1 = n := by
  cases r with
  | ok a => cases h
  | error c => rw [List.mem_singleton.mp h]

/-- How a prepare ends: with the lowest of its faults, of which those of the Stockpile and of Haul are the others' numbers 8 and 9. -/
theorem prepare_cases (s : State) (natural num : Nat) (g before : List Obj) (later : List (List Obj)) :
    ∃ rest : List (Nat × Nat), (∀ x ∈ rest, x.1 = 8 ∨ x.1 = 9) ∧
      match lowestFault (plainFaults s natural g before ++ lookupFaults (prepLookup s before g later num).2 ++ rest) with
      | none => ∃ p, prepare s natural num g before later = .ok p
      | some f => prepare s natural num g before later = .error (f.1, f.2, settleTags (prepLookup s before g later num).1 num false) := by
  unfold prepare
  dsimp only
  generalize prepLookup s before g later num = lk
  generalize prepHopper (before ++ g) [] g lk.1 [] = hp
  generalize prepHauls (before ++ g) [] g (match hp with | .ok x => x.1 | .error _ => lk.1) [] = hl
  refine ⟨storeFaults 8 hp ++ storeFaults 9 hl, fun x hx => ?_, ?_⟩
  · rcases List.mem_append.mp hx with hx | hx
    · exact .inl (fst_of_mem_storeFaults hx)
    · exact .inr (fst_of_mem_storeFaults hx)
  · rw [← List.append_assoc]
    obtain ⟨s1, fault⟩ := lk
    cases fault <;> cases hp <;> cases hl
    all_goals
      dsimp only [plainFaults, lookupFaults, storeFaults]
      generalize lowestFault _ = r
      cases r <;> simp

section
variable {s : State} {natural num : Nat} {g : List Obj}

theorem prepare_error {n c : Nat} {s1 : State} (h : prepare s natural num g [] [] = .error (n, c, s1)) :
    (∀ m k, plainFault s natural g [] m = some k → n ≤ m ∧ (m = n → c = k)) ∧
      (∀ k, (prepLookup s [] g [] num).2 = some k → n ≤ 5 ∧ (n = 5 → c = k)) ∧ s1 = settleTags (prepLookup s [] g [] num).1 num false := by
  obtain ⟨rest, hrest, hcases⟩ := prepare_cases s natural num g [] []
  cases hlow : lowestFault (plainFaults s natural g [] ++ lookupFaults (prepLookup s [] g [] num).2 ++ rest) with
  | none =>
    rw [hlow] at hcases
    obtain ⟨p, hp⟩ := hcases
    rw [hp] at h
    cases h
  | some f =>
    rw [hlow] at hcases
    dsimp only at hcases
    rw [hcases] at h
    obtain ⟨hmem, hleast⟩ := lowestFault_least hlow
    simp only [Except.error.injEq, Prod.mk.injEq] at h
    obtain ⟨rfl, rfl, rfl⟩ := h
    have hof : plainFault s natural g [] f.1 = some f.2 ∨ (f.1 = 5 ∧ (prepLookup s [] g [] num).2 = some f.2) ∨ f.1 = 8 ∨ f.1 = 9 := by
      rcases List.mem_append.mp hmem with hmem | hmem
      · rcases List.mem_append.mp hmem with hmem | hmem
        · exact .inl (mem_plainFaults.mp hmem)
        · exact .inr (.inl (mem_lookupFaults.mp hmem))
      · exact .inr (.inr (hrest f hmem))
    refine ⟨fun m k hk => ⟨hleast (m, k) (by simp [mem_plainFaults.mpr hk]), fun hm => ?_⟩,
      fun k hk => ⟨hleast (5, k) (by simp [mem_lookupFaults.mpr ⟨rfl, hk⟩]), fun hn => ?_⟩, rfl⟩
    · subst hm
      rcases hof with hof | ⟨h5, -⟩ | h8 | h9
      · exact Option.some.inj (hof.symm.trans hk)
      · rw [h5] at hk
        cases hk
      · rw [h8] at hk
        cases hk
      · rw [h9] at hk
        cases hk
    · rcases hof with hof | ⟨-, hof⟩ | h8 | h9
      · rw [hn] at hof
        cases hof
      · exact Option.some.inj (hof.symm.trans hk)
      · omega
      · omega

theorem prepare_ok {p : Prep} (h : prepare s natural num g [] [] = .ok p) :
    (∀ m, plainFault s natural g [] m = none) ∧ (prepLookup s [] g [] num).2 = none := by
  obtain ⟨rest, -, hcases⟩ := prepare_cases s natural num g [] []
  cases hlow : lowestFault (plainFaults s natural g [] ++ lookupFaults (prepLookup s [] g [] num).2 ++ rest) with
  | some f =>
    rw [hlow] at hcases
    rw [hcases] at h
    cases h
  | none =>
    have hempty := lowestFault_none hlow
    simp only [List.append_eq_nil_iff] at hempty
    obtain ⟨⟨hplain, hlookup⟩, -⟩ := hempty
    refine ⟨fun m => ?_, ?_⟩
    · by_contra hne
      obtain ⟨k, hk⟩ := Option.ne_none_iff_exists'.mp hne
      have hmem := mem_plainFaults.mpr hk
      rw [hplain] at hmem
      cases hmem
    · by_contra hne
      obtain ⟨k, hk⟩ := Option.ne_none_iff_exists'.mp hne
      have hmem := mem_lookupFaults.mpr ⟨rfl, hk⟩
      rw [hlookup] at hmem
      cases hmem

end

/-- A group without objects of the lookup complex leaves it as it is but for the tags of the group's number. -/
theorem settleTags_prepLookup {s : State} {g : List Obj} (num : Nat) (h : ∀ o ∈ g, o.sub ≠ 5) :
    settleTags (prepLookup s [] g [] num).1 num false =
        { s with lookup := { s.lookup with tags := (settleTags (prepLookup s [] g [] num).1 num false).lookup.tags } } ∧
      (s.lookup.tags = [] → settleTags (prepLookup s [] g [] num).1 num false = s) := by
  have hnone : prepLookup s [] g [] num = (s, none) := if_neg (by simpa using h)
  rw [hnone]
  refine ⟨rfl, fun htags => ?_⟩
  unfold settleTags
  rw [htags, List.map_nil, ← htags]

section
variable {s : State} (target : Nat)

theorem commit_empty (h : s.gate.group = none) : commit s target = (s, PlaneRes.only stEMPTY) := by
  unfold commit
  rw [h]

theorem commit_closes (h : s.gate.group ≠ none) : (commit s target).1.gate.group = none ∧
    ((commit s target).2.status = stOK ∨ (commit s target).2.status = stABORTED) := by
  obtain ⟨g, hg⟩ := Option.ne_none_iff_exists'.mp h
  unfold commit
  rw [hg]
  dsimp only
  split
  · exact ⟨rfl, .inr rfl⟩
  · exact ⟨rfl, .inl rfl⟩

variable {g : List Obj} (hg : s.gate.group = some g) (hfirst : s.gate.committed = [])
include hg hfirst

theorem commit_aborts {n c : Nat} {s1 : State}
    (h : prepare s (max target (s.bench.tickCount + 1)) s.gate.nextNum g [] [] = .error (n, c, s1)) :
    commit s target = ({ s1 with gate := { s1.gate with group := none } }, { PlaneRes.why stABORTED n with high := c }) := by
  unfold commit
  rw [hg]
  dsimp only
  rw [hfirst]
  simp only [inApplyOrder, List.foldl_nil, List.filter_nil, List.flatMap_nil, List.map_nil]
  rw [h]

theorem commit_queues {p : Prep} (h : prepare s (max target (s.bench.tickCount + 1)) s.gate.nextNum g [] [] = .ok p)
    (hp : p.s.gate.committed = []) :
    (commit s target).2 = { PlaneRes.give ((setsCount g).getD (max target (s.bench.tickCount + 1))) with high := s.gate.nextNum } ∧
      (commit s target).1.gate.nextNum = (s.gate.nextNum + 1) % 65536 ∧
      ∃ x, (commit s target).1.gate.committed = [x] ∧ x.num = s.gate.nextNum ∧ x.target = max target (s.bench.tickCount + 1) ∧ x.objs = g := by
  unfold commit
  rw [hg]
  dsimp only
  rw [hfirst]
  simp only [inApplyOrder, List.foldl_nil, List.filter_nil, List.flatMap_nil, List.map_nil]
  rw [h]
  dsimp only
  rw [hp]
  refine ⟨?_, rfl, _, rfl, rfl, rfl, rfl⟩
  cases setsCount g <;> rfl

end

/-! ### ABORT -/

/-- A step that leaves the Commit Gate. -/
abbrev GateKept (s s' : State) : Prop := s'.gate = s.gate

theorem foldl_gateKept {α : Type} {f : State → α → State} (h : ∀ s a, GateKept s (f s a)) : ∀ (l : List α) (s : State), GateKept s (l.foldl f s)
  | [], _ => rfl
  | a :: l, s => (foldl_gateKept h l (f s a)).trans (h s a)

theorem releaseCommit_gate (s : State) (c : Commit) :
    (releaseCommit s c).gate = { s.gate with committed := s.gate.committed.filter fun x => x.num != c.num } := by
  have hfree (s : State) (h : Nat) : GateKept s (freeChain s (handleCell h)) := by
    obtain ⟨-, -, hgate, -⟩ := freeChain_data s (handleCell h)
    exact hgate
  have hclear (s : State) (objs : List Obj) : GateKept s (loaderClears s objs) := by
    unfold loaderClears
    refine foldl_gateKept (fun s b => ?_) _ _
    unfold setBank
    split <;> rfl
  have hframes := foldl_gateKept hfree c.frames
    { s with gate := { s.gate with committed := s.gate.committed.filter (fun x => x.num != c.num) } }
  have hmoves := foldl_gateKept (f := poolMoves false) (fun _ _ => rfl) c.moves.reverse
    (c.frames.foldl (fun s h => freeChain s (handleCell h)) { s with gate := { s.gate with committed := s.gate.committed.filter (fun x => x.num != c.num) } })
  have hend := (hclear (settleTags (c.moves.reverse.foldl (poolMoves false) (c.frames.foldl (fun s h => freeChain s (handleCell h))
    { s with gate := { s.gate with committed := s.gate.committed.filter (fun x => x.num != c.num) } })) c.num false) c.objs).trans
    (hmoves.trans hframes)
  unfold releaseCommit
  dsimp only
  split
  · exact hend
  · exact hend

section
variable {s : State} {n : Nat}

theorem abortCommit_miss (h : ∀ c ∈ s.gate.committed, c.num ≠ n) : abortCommit s n = (s, PlaneRes.only stMISS) := by
  unfold abortCommit
  rw [List.find?_eq_none.mpr (by simpa using h)]

theorem abortCommit_found (h : ∃ c ∈ s.gate.committed, c.num = n) : ∃ c ∈ s.gate.committed, c.num = n ∧
    abortCommit s n = (releaseCommit s c, PlaneRes.only stOK) := by
  obtain ⟨c, hc⟩ := Option.isSome_iff_exists.mp (List.find?_isSome (p := fun c : Commit => c.num == n).mpr (by simpa using h))
  refine ⟨c, List.mem_of_find?_eq_some hc, by simpa using List.find?_some hc, ?_⟩
  unfold abortCommit
  rw [hc]

/-- A commit without objects that reserved nothing, the only one, and no tag stands: its release leaves an empty queue. -/
theorem releaseCommit_bare {c : Commit} (hframes : c.frames = []) (hmoves : c.moves = []) (hobjs : c.objs = []) (hone : s.gate.committed = [c])
    (htags : s.lookup.tags = []) : releaseCommit s c = { s with gate := { s.gate with committed := [] } } := by
  unfold releaseCommit
  rw [hframes, hmoves, hobjs, hone]
  simp only [List.foldl_nil, List.reverse_nil, List.any_nil, Bool.false_eq_true, if_false, settleTags, htags, List.map_nil, loaderClears, groupBanks,
    List.filter_nil]
  simp [← htags]

end

/-- Settles O22: staging by its checks in their order, COMMIT by the lowest fault of its prepare, ABORT by the commit that its number names. -/
theorem commitGateOutcomes : Obligations.CommitGateOutcomes := by
  unfold Obligations.CommitGateOutcomes
  refine ⟨fun s y img => ?_, fun s a y img ha hy => ?_, ⟨?_, fun s target => ?_⟩, fun s n => ?_⟩
  · intro n typ g r
    obtain ⟨hrest, hkept⟩ := onlyGroup_stage s y img
    refine ⟨hrest, hkept, fun h => stage_refused h, fun k hk hb => ?_⟩
    have htakes : stage s y img = _ := stage_takes (img := img) hk hb
    refine ⟨fun htyp => htakes.trans (if_pos htyp), fun hone hle => ?_⟩
    rw [show bits y 31 27 = n from rfl, show bits y 26 19 = typ from rfl] at htakes
    have hchecked := htakes.trans (if_neg (show ¬ (typ = 0 ∨ k < typ) by omega))
    refine ⟨fun c w hfail => ?_, fun hpass => ?_⟩
    · rw [hfail] at hchecked
      exact hchecked
    · rw [hpass] at hchecked
      refine ite_of (fun hfull => hchecked.trans (stageObj_full (o := ⟨n, typ, img, 0⟩) hfull _)) fun hroom => ?_
      exact hchecked.trans (stageObj_room (o := ⟨n, typ, img, 0⟩) hroom _)
  · intro g full staged k badGates level badShaper busy
    have hrefuses (o : Obj) (v : Option Nat) (h : full o.img.length) : stageObj s o v = (s, PlaneRes.only stFULL) := stageObj_full (s := s) h v
    have hstages (o : Obj) (v : Option Nat) (h : ¬ full o.img.length) : stageObj s o v = (staged o, { PlaneRes.only stOK with value := v }) :=
      stageObj_room (s := s) h v
    refine ⟨fun h => stageGates_bad ha hy h, fun hb h hfull => ?_, fun hb h hroom => ?_, fun h => stageShaper_bad ha h, fun hb h hfull => ?_,
      fun hb h hroom => ?_, fun h => if_pos h, fun hb h => stageEpoch_busy hb h, fun hb h hfull => ?_, fun hb h hroom => ?_, fun bank => ⟨fun h => if_pos h,
      fun hb hfull => ?_, fun hb hroom => ?_⟩⟩
    · exact (stageGates_good ha hy hb h).trans (hrefuses _ _ hfull)
    · exact (stageGates_good ha hy hb h).trans (hstages _ _ hroom)
    · exact (stageShaper_good ha hy hb h).trans (hrefuses _ _ hfull)
    · exact (stageShaper_good ha hy hb h).trans (hstages _ _ hroom)
    · exact (stageEpoch_free hb h).trans (hrefuses _ _ hfull)
    · exact (stageEpoch_free hb h).trans (hstages _ _ hroom)
    · exact (stageBank_runs hb).trans (hrefuses _ _ hfull)
    · exact (stageBank_runs hb).trans (hstages _ _ hroom)
  · exact fun l c => ⟨pickFault_none l, pickFault_least⟩
  · refine ⟨commit_empty target, commit_closes target, fun g hg hfirst => ⟨fun n c s1 h => ?_, fun p h hp => ?_⟩⟩
    · obtain ⟨hplain, hlookup, rfl⟩ := prepare_error h
      exact ⟨commit_aborts target hg hfirst h, hplain, hlookup, settleTags_prepLookup _⟩
    · obtain ⟨hplain, hlookup⟩ := prepare_ok h
      exact ⟨hplain, hlookup, commit_queues target hg hfirst h hp⟩
  · refine ⟨abortCommit_miss, fun h => ?_, fun c hc hnum hframes hmoves hobjs hone htags => ?_, fun h => ?_, fun h => ?_⟩
    · obtain ⟨c, -, rfl, habort⟩ := abortCommit_found h
      rw [habort]
      exact ⟨rfl, by rw [releaseCommit_gate]⟩
    · obtain ⟨c', hmem, -, habort⟩ := abortCommit_found ⟨c, hc, hnum⟩
      obtain rfl : c' = c := by simpa [hone] using hmem
      rw [habort, releaseCommit_bare hframes hmoves hobjs hone htags]
    · unfold abortGroup
      rw [h]
    · obtain ⟨g, hg⟩ := Option.ne_none_iff_exists'.mp h
      unfold abortGroup
      rw [hg]

end Sys2Proof.Machine
end

section
/-! PROOFS. The Vault calls, the lifecycle, derived keys and masks (R460, R462, R464 to R470). -/

namespace Sys2Proof.Machine

/-! ### The lifecycle -/

theorem stepTaken_eq {s : State} {k : Nat} (hk : k = 1 ∨ k = 2 ∨ k = 3) :
    stepTaken s k = (s.vault.fuses.testBit (2 * k - 2) || s.vault.fuses.testBit (2 * k - 1)) := by
  rw [Bool.eq_iff_iff]
  simp only [stepTaken, bits, bne_iff_ne, ne_eq, Bool.or_eq_true, Nat.testBit_eq_decide_div_mod_eq, decide_eq_true_eq]
  rcases hk with rfl | rfl | rfl <;> omega

/-- A step takes its two fuses and no other step's. -/
theorem stepTaken_move {s s' : State} {t k : Nat} (ht : t = 1 ∨ t = 2 ∨ t = 3) (hk : k = 1 ∨ k = 2 ∨ k = 3)
    (hf : s'.vault.fuses = s.vault.fuses ||| 3 * 2 ^ (2 * t - 2)) : stepTaken s' k = (decide (k = t) || stepTaken s k) := by
  rw [stepTaken_eq hk, stepTaken_eq hk, hf, Nat.testBit_or, Nat.testBit_or]
  generalize s.vault.fuses.testBit (2 * k - 2) = a
  generalize s.vault.fuses.testBit (2 * k - 1) = b
  rcases ht with rfl | rfl | rfl <;> rcases hk with rfl | rfl | rfl <;> revert a b <;> decide

theorem stepTaken_above {s : State} {k : Nat} (hk : k = 1 ∨ k = 2 ∨ k = 3) (h : lifecycle s < k) : stepTaken s k = false := by
  unfold lifecycle at h
  by_contra htaken
  rw [Bool.not_eq_false] at htaken
  rcases hk with rfl | rfl | rfl
  · simp only [htaken, if_true] at h
    split_ifs at h <;> omega
  · simp only [htaken, if_true] at h
    split_ifs at h <;> omega
  · simp only [htaken, if_true] at h
    omega

theorem lifecycle_move {s s' : State} {t : Nat} (h : lifecycle s < t) (ht : t < 4)
    (hf : s'.vault.fuses = s.vault.fuses ||| 3 * 2 ^ (2 * t - 2)) : lifecycle s' = t := by
  have ht3 : t = 1 ∨ t = 2 ∨ t = 3 := by omega
  unfold lifecycle
  rw [stepTaken_move ht3 (by simp) hf, stepTaken_move ht3 (by simp) hf, stepTaken_move ht3 (by simp) hf]
  rcases ht3 with rfl | rfl | rfl
  · rw [stepTaken_above (k := 2) (by simp) (by omega), stepTaken_above (k := 3) (by simp) (by omega)]
    rfl
  · rw [stepTaken_above (k := 3) (by simp) (by omega)]
    rfl
  · rfl

theorem clearRootKeys_fuses (s : State) : (clearRootKeys s).vault.fuses = s.vault.fuses := by
  obtain ⟨-, -, hfirst, -⟩ := invalidateKey_apart s 0
  obtain ⟨-, -, hsecond, -⟩ := invalidateKey_apart (invalidateKey s 0) 9
  exact hsecond.trans hfirst

theorem moveLifecycle_same {s : State} {t : Nat} (h : t = lifecycle s) (vbat : Bool) : moveLifecycle s t vbat = (s, PlaneRes.only stOK) := if_pos h

theorem moveLifecycle_back {s : State} {t : Nat} (h : t < lifecycle s) (vbat : Bool) :
    moveLifecycle s t vbat = (violate s 0x200 vVAULT 2 0, PlaneRes.frozen) := by
  unfold moveLifecycle
  dsimp only
  rw [if_neg (by omega), if_pos h]
  rfl

theorem moveLifecycle_denied {s : State} {t : Nat} (h : lifecycle s < t) (hdenied : moveAllowed s t = false) (vbat : Bool) :
    moveLifecycle s t vbat = (s, PlaneRes.only stDENIED) := by
  unfold moveLifecycle
  dsimp only
  rw [if_neg (by omega), if_neg (by omega), if_pos hdenied]

theorem moveLifecycle_steps {s : State} {t : Nat} (h : lifecycle s < t) (ht : t < 4) (hallowed : moveAllowed s t = true) :
    (moveLifecycle s t true).2 = PlaneRes.only stOK ∧ lifecycle (moveLifecycle s t true).1 = t := by
  unfold moveLifecycle
  dsimp only
  rw [if_neg (by omega), if_neg (by omega), if_neg (by simp [hallowed]), if_neg (by decide)]
  refine ⟨rfl, lifecycle_move h ht ?_⟩
  dsimp only
  split
  · rfl
  · split
    · rfl
    · exact clearRootKeys_fuses _

/-! ### Keys -/

theorem getKey_setKey_some (s : State) (h : Nat) (k : VKey) : getKey (setKey s h (some k)) h = some k :=
  tblGet_tblSet_self' none (by simp) _ _

theorem getKey_setKey_ne (s : State) {h i : Nat} (hi : i ≠ h) (k : Option VKey) : getKey (setKey s h k) i = getKey s i :=
  tblGet_tblSet_ne none k _ hi

/-- A stored key has the value that was given. -/
theorem getKey_storeKey (s : State) (h v : Nat) (wide exportable : Bool) (parent depth : Nat) :
    ∃ k, getKey (storeKey s h v wide exportable parent depth) h = some k ∧ k.clear = v ∧ k.wide = wide ∧ k.exportable = exportable ∧
      k.parent = parent ∧ k.depth = depth ∧ k.stale = false := by
  refine ⟨_, getKey_setKey_some _ _ _, ?_, rfl, rfl, rfl, rfl, rfl⟩
  exact Nat.xor_xor_cancel_right ..

section
variable {s : State}

theorem kloadRoot_denied (h : lifecycle s = 0 ∨ lifecycle s = 3) : kloadRoot s = (s, PlaneRes.only stDENIED) := if_pos h

variable (h : lifecycle s = 1 ∨ lifecycle s = 2)
include h

theorem kloadRoot_miss (hnone : inForce s 1 = none) : kloadRoot s = (s, PlaneRes.only stMISS) := by
  unfold kloadRoot
  rw [if_neg (by omega), hnone]

theorem kloadRoot_loads {i v : Nat} (hroot : inForce s 1 = some (i, v)) : (kloadRoot s).2 = PlaneRes.only stOK ∧
    ∃ k, getKey (kloadRoot s).1 0 = some k ∧ k.clear = v ∧ k.parent = 0x100 ∧ k.exportable = false := by
  unfold kloadRoot
  rw [if_neg (by omega), hroot]
  obtain ⟨k, hk, hclear, -, hexportable, hparent, -⟩ := getKey_storeKey (if (getKey s 0).isSome then invalidateKey s 0 else s) 0 v true false 0x100 0
  exact ⟨rfl, k, hk, hclear, hparent, hexportable⟩

end

section
variable {s : State} {h : Nat} {wide exportable : Bool} {img : List Byte}

theorem kderive_miss (hk : getKey s h = none) : kderive s h wide exportable img = (s, PlaneRes.only stMISS) := by
  unfold kderive
  dsimp only
  rw [hk]

variable {k : VKey} (hk : getKey s h = some k)
include hk

theorem kderive_stale (hstale : k.stale = true) : kderive s h wide exportable img = (s, PlaneRes.only stSTALE) := by
  unfold kderive
  dsimp only
  rw [hk]
  exact if_pos hstale

variable (hfresh : k.stale = false)
include hfresh

theorem kderive_deep (hdepth : 8 ≤ k.depth) : kderive s h wide exportable img = (s, PlaneRes.only stDENIED) := by
  unfold kderive
  dsimp only
  rw [hk]
  dsimp only
  rw [if_neg (by simp [hfresh]), if_pos (.inr (.inr (.inr (.inl hdepth))))]

theorem kderive_derives (hdepth : k.depth < 8) (hroot : h ≠ 0) (hlabel : 1 ≤ im32 img 0 % 65536 ∧ im32 img 0 % 65536 ≤ 64)
    (hcontext : im32 img 0 / 65536 ≤ 128) {d : Nat} (hd : freeDerived s = some d) : kderive s h wide exportable img =
      (storeKey s d (leNat (deriveBytes (keyBytes h k) (imgBytes img 4 (im32 img 0 % 65536))
        (imgBytes img (4 + im32 img 0 % 65536) (im32 img 0 / 65536)) wide)) wide exportable h (k.depth + 1), PlaneRes.give d) := by
  unfold kderive
  dsimp only
  rw [hk]
  dsimp only
  rw [if_neg (by simp [hfresh]), if_neg (by omega), hd]

end

/-! ### Keys that become stale -/

/-- A step that leaves the Vault. -/
abbrev VaultKept (s s' : State) : Prop := s'.vault = s.vault

theorem unstart_vault (s : State) (m : Nat) (f : TxRec → Bool) : VaultKept s (unstart s m f) := by
  obtain ⟨-, hvault, -⟩ := unstart_data s m f
  exact hvault

theorem foldl_vaultKept {α : Type} {f : State → α → State} (h : ∀ s a, VaultKept s (f s a)) : ∀ (l : List α) (s : State), VaultKept s (l.foldl f s)
  | [], _ => rfl
  | a :: l, s => (foldl_vaultKept h l (f s a)).trans (h s a)

theorem staleSas_vault (s : State) (l : List Nat) : VaultKept s (staleSas s l) := by
  unfold staleSas
  refine foldl_vaultKept (fun s e => ?_) s.face.sas s
  split
  · split
    · exact unstart_vault ..
    · rfl
  · rfl

theorem mem_of_tblGet_ne {β : Type} {d : β} {i : Nat} : ∀ {l : Tbl β}, tblGet d l i ≠ d → (i, tblGet d l i) ∈ l
  | [], h => absurd rfl h
  | (k, x) :: l, h => by
    rw [tblGet] at h ⊢
    by_cases hk : k = i
    · simp [hk]
    · rw [if_neg hk] at h ⊢
      exact List.mem_cons_of_mem _ (mem_of_tblGet_ne h)

theorem subset_keyFamily (s : State) : ∀ (n : Nat) (l : List Nat), l ⊆ keyFamily s n l
  | 0, _ => fun _ h => h
  | n + 1, _ => fun _ h => subset_keyFamily s n _ (List.mem_append_left _ h)

/-- A key derived from another is of its family. -/
theorem mem_keyFamily {s : State} {h c : Nat} {x : VKey} (hx : getKey s c = some x) (hc : c ≠ h) (hparent : x.parent = h) :
    c ∈ keyFamily s 8 [h] := by
  have hmem : (c, some x) ∈ s.vault.keys := by
    rw [← hx]
    exact mem_of_tblGet_ne (by rw [← getKey, hx]; simp)
  refine subset_keyFamily s 7 _ (List.mem_append_right _ (List.mem_map.mpr ⟨(c, some x), List.mem_filter.mpr ⟨hmem, ?_⟩, rfl⟩))
  simp [hparent, hc]

/-- A key that is marked stale. -/
def markStale (s : State) (i : Nat) : State :=
  match getKey s i with
  | some k => setKey s i (some { k with stale := true })
  | none => s

theorem getKey_markStale (s : State) (i j : Nat) :
    getKey (markStale s i) j = if j = i then (getKey s j).map fun k => { k with stale := true } else getKey s j := by
  unfold markStale
  by_cases hj : j = i
  · subst hj
    rw [if_pos rfl]
    cases hk : getKey s j with
    | none => simp [hk]
    | some k => simp [getKey_setKey_some]
  · rw [if_neg hj]
    split
    · exact getKey_setKey_ne s hj _
    · rfl

theorem getKey_foldl_markStale : ∀ (l : List Nat) (s : State) (j : Nat),
    getKey (l.foldl markStale s) j = if j ∈ l then (getKey s j).map fun k => { k with stale := true } else getKey s j
  | [], s, j => by simp
  | i :: l, s, j => by
    rw [List.foldl_cons, getKey_foldl_markStale l, getKey_markStale]
    by_cases hi : j = i
    · subst hi
      cases getKey s j <;> simp
    · simp [hi]

theorem invalidateKey_eq (s : State) (h : Nat) : invalidateKey s h =
    setKey (staleSas (((keyFamily s 8 [h]).filter (· != h)).foldl markStale s) (keyFamily s 8 [h])) h none := rfl

theorem rising_foldl_markStale : ∀ (l : List Nat) (s : State), Rising s.vault.keys → Rising (l.foldl markStale s).vault.keys
  | [], _, h => h
  | i :: l, s, h => by
    refine rising_foldl_markStale l (markStale s i) ?_
    unfold markStale
    split
    · exact tblSet_rising _ _ _ h
    · exact h

/-- Clearing a key empties its entry and leaves the keys derived from it stale. -/
theorem getKey_invalidateKey {s : State} (hrising : Rising s.vault.keys) {h c : Nat} {x : VKey} (hx : getKey s c = some x) (hc : c ≠ h)
    (hparent : x.parent = h) : getKey (invalidateKey s h) h = none ∧ getKey (invalidateKey s h) c = some { x with stale := true } := by
  have hsas (s : State) (l : List Nat) (j : Nat) : getKey (staleSas s l) j = getKey s j := by
    unfold getKey
    rw [staleSas_vault]
  rw [invalidateKey_eq]
  refine ⟨?_, ?_⟩
  · refine tblGet_tblSet_rising none none h ?_
    rw [staleSas_vault]
    exact rising_foldl_markStale _ _ hrising
  · have hmem : c ∈ (keyFamily s 8 [h]).filter (· != h) := List.mem_filter.mpr ⟨mem_keyFamily hx hc hparent, by simpa using hc⟩
    rw [getKey_setKey_ne _ hc, hsas, getKey_foldl_markStale, if_pos hmem, hx]
    rfl

/-! ### Masks -/

/-- What of a key no mask changes. -/
def VKey.value (k : VKey) : Nat × Bool × Bool × Nat × Nat × Bool := (k.clear, k.wide, k.exportable, k.parent, k.depth, k.stale)

/-- A fresh mask draws from the generator and changes no key's value. -/
structure Remasked (s s' : State) : Prop where
  rest : s' = { s with freeIdx := s'.freeIdx, vault := { s.vault with keys := s'.vault.keys } }
  value : ∀ j, (getKey s' j).map VKey.value = (getKey s j).map VKey.value

theorem Remasked.trans {a b c : State} (hab : Remasked a b) (hbc : Remasked b c) : Remasked a c := by
  refine ⟨?_, fun j => (hbc.value j).trans (hab.value j)⟩
  rw [hbc.rest, hab.rest]

theorem remaskKey_remasked (s : State) (h : Nat) : Remasked s (remaskKey s h) := by
  cases hk : getKey s h with
  | none =>
    have hsame : remaskKey s h = s := by
      unfold remaskKey
      rw [hk]
    rw [hsame]
    exact ⟨rfl, fun _ => rfl⟩
  | some k =>
    obtain ⟨m, s1, hm⟩ : ∃ m s1, remaskKey s h = setKey s1 h (some { k with masked := k.clear ^^^ m, mask := m }) ∧
        s1 = { s with freeIdx := s.freeIdx + 1 } := by
      unfold remaskKey
      rw [hk]
      exact ⟨_, _, rfl, rfl⟩
    obtain ⟨heq, rfl⟩ := hm
    rw [heq]
    refine ⟨rfl, fun j => ?_⟩
    by_cases hj : j = h
    · subst hj
      rw [getKey_setKey_some, hk]
      simp [VKey.value, VKey.clear]
    · rw [getKey_setKey_ne _ hj]
      rfl

theorem getKey_remaskKey_ne (s : State) {h j : Nat} (hj : j ≠ h) : getKey (remaskKey s h) j = getKey s j := by
  unfold remaskKey
  split
  · exact getKey_setKey_ne _ hj _
  · rfl

theorem foldl_remaskKey (l : List (Nat × Option VKey)) : ∀ s : State, Remasked s (l.foldl (fun s e => remaskKey s e.1) s) ∧
    ∀ j, j ∉ l.map (·.1) → getKey (l.foldl (fun s e => remaskKey s e.1) s) j = getKey s j := by
  induction l with
  | nil => exact fun s => ⟨⟨rfl, fun _ => rfl⟩, fun _ _ => rfl⟩
  | cons e l ih =>
    intro s
    obtain ⟨hrest, hkeeps⟩ := ih (remaskKey s e.1)
    refine ⟨(remaskKey_remasked s e.1).trans hrest, fun j hj => ?_⟩
    simp only [List.map_cons, List.mem_cons, not_or] at hj
    rw [List.foldl_cons, hkeeps j hj.2, getKey_remaskKey_ne s hj.1]

theorem Remasked.isSome {s s' : State} (h : Remasked s s') (j : Nat) : (getKey s' j).isSome = (getKey s j).isSome := by
  have hvalue := congrArg Option.isSome (h.value j)
  simpa using hvalue

/-- A pass over the masks. -/
theorem remaskAll_masks (s : State) : ∃ t, Remasked s t ∧ (s.vault.sign.isSome = true → getKey t 9 = getKey s 9) ∧
    remaskAll s = { t with vault := { t.vault with remaskAt := s.localNs, remaskLate := s.vault.sign.isSome && (getKey s 9).isSome } } := by
  obtain ⟨hmasks, hkeeps⟩ := foldl_remaskKey (s.vault.keys.filter (fun e => e.2.isSome && !(e.1 == 9 && s.vault.sign.isSome))) s
  obtain ⟨t, ht⟩ : ∃ t, (s.vault.keys.filter (fun e => e.2.isSome && !(e.1 == 9 && s.vault.sign.isSome))).foldl (fun s e => remaskKey s e.1) s = t :=
    ⟨_, rfl⟩
  rw [ht] at hmasks hkeeps
  refine ⟨t, hmasks, fun hsign => hkeeps 9 (by simp [hsign]), ?_⟩
  have hlocal : t.localNs = s.localNs := by rw [hmasks.rest]
  have hsign : t.vault.sign = s.vault.sign := by rw [hmasks.rest]
  unfold remaskAll
  dsimp only
  rw [ht, hmasks.isSome 9, hlocal, hsign]

section
variable {s : State}

theorem remaskPass_paused (h : s.vault.trngFail = true) : exec .remaskPass s = .next s := by
  change execRemaskPass s = _
  unfold execRemaskPass
  rw [if_pos (.inr h)]

theorem remaskPass_runs (hruns : deviceRuns s = true) (htrng : s.vault.trngFail = false) :
    exec .remaskPass s = .next (remaskAll (advance s (s.vault.remaskAt + s.vault.remaskMs * 1000000 - s.localNs))) := by
  change execRemaskPass s = _
  unfold execRemaskPass
  rw [if_neg (by simp [hruns, htrng])]

theorem trngHealth_sets (h : inReset s = false) :
    exec .trngHealthFail s = .next { s with vault := { s.vault with trngFail := true } } ∧
      exec .trngHealthRecover s = .next { s with vault := { s.vault with trngFail := false } } := by
  constructor
  · change execTrngHealthFail s = _
    unfold execTrngHealthFail
    rw [if_neg (by simp [h])]
  · change execTrngHealthRecover s = _
    unfold execTrngHealthRecover
    rw [if_neg (by simp [h])]

end

/-- A pass that runs changes every key's mask but the IDK's while it signs, and no key's value. -/
theorem remaskPass_masks {s : State} (hruns : deviceRuns s = true) (htrng : s.vault.trngFail = false) {a : State}
    (ha : advance s (s.vault.remaskAt + s.vault.remaskMs * 1000000 - s.localNs) = a) :
    ∃ s', exec .remaskPass s = .next s' ∧ s' = { a with
        freeIdx := s'.freeIdx
        vault := { s.vault with
          keys := s'.vault.keys, remaskAt := a.localNs
          remaskLate := s.vault.sign.isSome && (getKey s 9).isSome } } ∧
      (∀ h, (getKey s' h).map VKey.value = (getKey s h).map VKey.value) ∧ (s.vault.sign.isSome = true → getKey s' 9 = getKey s 9) := by
  have hexec := remaskPass_runs hruns htrng
  have hvault : a.vault = s.vault := by
    rw [← ha]
    simp
  have hkey (j : Nat) : getKey a j = getKey s j := by
    unfold getKey
    rw [hvault]
  rw [ha] at hexec
  obtain ⟨t, hmasks, hidk, hall⟩ := remaskAll_masks a
  refine ⟨_, hexec, ?_, fun j => ?_, fun hsign => ?_⟩
  · rw [hall, hmasks.rest, hvault, hkey]
  · rw [hall, ← hkey]
    exact hmasks.value j
  · rw [hall, ← hkey]
    exact hidk (by rw [hvault, hsign])

/-- Settles O24: the calls complete as plane X instructions do; the lifecycle by its fuses, derived keys by the family of their parent, a
pass by the key that it re-masks. -/
theorem vaultCalls : Obligations.VaultCalls := by
  unfold Obligations.VaultCalls
  refine ⟨fun f => ?_, fun s => ?_, fun s h wide exportable img => ?_, fun s h c k x hrising _ hx hc hparent =>
    getKey_invalidateKey hrising hx hc hparent, fun s _ => ⟨fun hruns htrng => ?_, remaskPass_paused, trngHealth_sets⟩⟩
  · refine ⟨planeLaw_of fun _ _ => rfl, planeLaw_of fun _ _ => rfl, fun vbatA vbatB good cut => planeLaw_of fun _ _ => rfl,
      fun vbat => planeLaw_of fun _ _ => rfl, planeLaw_of fun _ _ => rfl, planeLaw_of fun _ _ => rfl, planeLaw_of fun _ _ => rfl,
      planeLaw_of fun _ _ => rfl, planeLaw_of fun _ _ => rfl, planeLaw_of fun _ _ => rfl⟩
  · refine ⟨kloadRoot_denied, kloadRoot_miss, fun i v h => kloadRoot_loads h, fun t vbat ht => ⟨fun h => moveLifecycle_same h vbat,
      fun h => moveLifecycle_back h vbat, fun h hdenied => moveLifecycle_denied h hdenied vbat, fun h hallowed hvbat => ?_⟩⟩
    subst hvbat
    exact moveLifecycle_steps h ht hallowed
  · refine ⟨kderive_miss, fun k hk => ⟨kderive_stale hk, kderive_deep hk, fun d hfresh hdepth hroot hlow hhigh hcontext hd => ?_⟩⟩
    rw [kderive_derives hk hfresh hdepth hroot ⟨hlow, hhigh⟩ hcontext hd]
    obtain ⟨x, hx, hclear, hwide, hexportable, hparent, hxdepth, hstale⟩ := getKey_storeKey s d (leNat (deriveBytes (keyBytes h k)
      (imgBytes img 4 (im32 img 0 % 65536)) (imgBytes img (4 + im32 img 0 % 65536) (im32 img 0 / 65536)) wide)) wide exportable h (k.depth + 1)
    exact ⟨rfl, x, hx, hwide, hexportable, hparent, hxdepth, hstale, hclear⟩
  · exact remaskPass_masks hruns htrng rfl

end Sys2Proof.Machine
end

section
/-! PROOFS. KSIGN, KVERIFY and their completions (R466, R470, Table 16.12a). -/

namespace Sys2Proof.Machine

/-! ### Changes of the cores that an operation serves -/

/-- The cores of a list changed alike. -/
def onCores (f : SCore → SCore) (ks : List Nat) (s : State) : State := ks.foldl (fun s i => setCore s i (f (getCore s i))) s

theorem onCores_rest (f : SCore → SCore) : ∀ (ks : List Nat) (s : State), onCores f ks s = { s with cores := (onCores f ks s).cores }
  | [], _ => rfl
  | k :: ks, s => by
    have hrest := onCores_rest f ks (setCore s k (f (getCore s k)))
    change onCores f ks (setCore s k (f (getCore s k))) = _ at hrest ⊢
    rw [hrest]
    rfl

theorem onCores_rising (f : SCore → SCore) : ∀ (ks : List Nat) {s : State}, Rising s.cores → Rising (onCores f ks s).cores
  | [], _, h => h
  | k :: ks, _, h => onCores_rising f ks (setCore_rising k _ h)

theorem getCore_onCores_ne (f : SCore → SCore) : ∀ (ks : List Nat) (s : State) {j : Nat}, j ∉ ks → getCore (onCores f ks s) j = getCore s j
  | [], _, _, _ => rfl
  | k :: ks, s, j, h => by
    simp only [List.mem_cons, not_or] at h
    exact (getCore_onCores_ne f ks _ h.2).trans (getCore_setCore_ne _ _ _ _ h.1)

theorem getCore_onCores (f : SCore → SCore) : ∀ (ks : List Nat) {s : State}, ks.Nodup → Rising s.cores → ∀ i ∈ ks,
    getCore (onCores f ks s) i = f (getCore s i)
  | [], _, _, _, _, hi => absurd hi List.not_mem_nil
  | k :: ks, s, hnodup, hrising, i, hi => by
    obtain ⟨hk, hnodup⟩ := List.nodup_cons.mp hnodup
    change getCore (onCores f ks (setCore s k (f (getCore s k)))) i = _
    rcases List.mem_cons.mp hi with rfl | hi
    · rw [getCore_onCores_ne f ks _ hk, getCore_setCore _ _ _ hrising]
    · rw [getCore_onCores f ks hnodup (setCore_rising k _ hrising) i hi, getCore_setCore_ne _ _ _ _ (ne_of_mem_of_not_mem hi hk)]

theorem vaultCores_nodup (s : State) (k : Nat) : (vaultCores s k).Nodup := by
  unfold vaultCores
  split
  · exact List.nodup_singleton k
  · decide

/-- The bytes that a core of an operation receives. -/
def putLocal (a : Nat) (b : List Byte) (c : SCore) : SCore := { c with lmem := memPut c.lmem (a - 2 ^ 63) b }

theorem vaultWrite_eq (s : State) (k a : Nat) (b : List Byte) : vaultWrite s k a b = onCores (putLocal a b) (vaultCores s k) s := rfl

theorem vaultCores_of_triad {s s' : State} (h : s'.triad = s.triad) (k : Nat) : vaultCores s' k = vaultCores s k := by
  unfold vaultCores
  rw [h]

theorem vaultWrite_triad (s : State) (k a : Nat) (b : List Byte) : (vaultWrite s k a b).triad = s.triad := by
  rw [vaultWrite_eq, onCores_rest]

section
variable {s : State} (hrising : Rising s.cores)
include hrising

theorem getCore_vaultWrite {k i : Nat} (hi : i ∈ vaultCores s k) (a : Nat) (b : List Byte) :
    getCore (vaultWrite s k a b) i = putLocal a b (getCore s i) :=
  getCore_onCores (putLocal a b) _ (vaultCores_nodup s k) hrising i hi

theorem vaultWrite_rising (k a : Nat) (b : List Byte) : Rising (vaultWrite s k a b).cores :=
  onCores_rising (putLocal a b) _ hrising

/-- The end of an operation: STATUS and DETAIL stand in its block and VAULT_DONE is latched. -/
theorem getCore_sigDone {op : SigOp} {i : Nat} (hi : i ∈ vaultCores s op.agent) (status detail : Nat) : getCore (sigDone s op status detail) i =
    { putLocal (op.ea + 0x20) (leBytes 1 status ++ leBytes 1 detail) (getCore s i) with latched := (getCore s i).latched ||| 0x20#8 } := by
  have hcores := vaultCores_of_triad (vaultWrite_triad s op.agent (op.ea + 0x20) (leBytes 1 status ++ leBytes 1 detail)) op.agent
  have hdone := getCore_onCores (fun c => { c with latched := c.latched ||| 0x20#8 }) (vaultCores s op.agent) (vaultCores_nodup s op.agent)
    (vaultWrite_rising hrising op.agent (op.ea + 0x20) (leBytes 1 status ++ leBytes 1 detail)) i hi
  unfold sigDone
  dsimp only
  rw [hcores]
  refine hdone.trans ?_
  rw [getCore_vaultWrite hrising hi]
  rfl

end

theorem sigDone_rest (s : State) (op : SigOp) (status detail : Nat) :
    sigDone s op status detail = { s with cores := (sigDone s op status detail).cores } := by
  have hwrite := onCores_rest (putLocal (op.ea + 0x20) (leBytes 1 status ++ leBytes 1 detail)) (vaultCores s op.agent) s
  rw [← vaultWrite_eq] at hwrite
  have hlatch := onCores_rest (fun c => { c with latched := c.latched ||| 0x20#8 })
    (vaultCores (vaultWrite s op.agent (op.ea + 0x20) (leBytes 1 status ++ leBytes 1 detail)) op.agent)
    (vaultWrite s op.agent (op.ea + 0x20) (leBytes 1 status ++ leBytes 1 detail))
  change sigDone s op status detail = _ at hlatch
  rw [hlatch, hwrite]

theorem sigDone_vault (s : State) (op : SigOp) (status detail : Nat) : (sigDone s op status detail).vault = s.vault := by
  rw [sigDone_rest]

theorem vaultWrite_vault (s : State) (k a : Nat) (b : List Byte) : (vaultWrite s k a b).vault = s.vault := by
  rw [vaultWrite_eq, onCores_rest]

/-! ### What the cores stream alike -/

/-- Every core that an operation serves streams the same bytes. -/
def StreamAlike (s : State) (k ea n : Nat) (b : List Byte) : Prop := ∀ j ∈ vaultCores s k, localBytes (getCore s j) ea n = b

theorem vaultRead_alike {s : State} (hin : s.triad.excluded = 0#3) (hvoter : s.triad.voter = .sound) {k : Nat} {l : List (Nat × Nat)} {b : List Byte}
    (h : ∀ j ∈ vaultCores s k, l.flatMap (fun e => localBytes (getCore s j) e.1 e.2) = b) : vaultRead s k l = (s, some b) := by
  unfold vaultRead
  dsimp only
  by_cases hone : s.triad.split ∨ s.triad.lockstepBroken
  · have hcores : vaultCores s k = [k] := if_pos hone
    rw [hcores] at h ⊢
    simp [voteAll, h k (List.mem_singleton_self k)]
  · have hcores : vaultCores s k = [0, 1, 2] := if_neg hone
    rw [hcores] at h ⊢
    simp [voteAll, hvoter, hin, votersDiffer_sound, vote, h 0 (by simp), h 1 (by simp), h 2 (by simp)]

/-! ### The two bytes that end an operation -/

theorem memGet_status {m : Mem} (hm : memWf m = true) (a status detail : Nat) :
    memGet (memPut m a (leBytes 1 status ++ leBytes 1 detail)) a = BitVec.ofNat 8 status := by
  have hread := memGet_memPut_in (leBytes 1 status ++ leBytes 1 detail) a 0 hm (by simp [leBytes])
  simpa [leBytes] using hread

theorem memGet_past_status (m : Mem) {a b : Nat} (status detail : Nat) (h0 : b ≠ a) (h1 : b ≠ a + 1) :
    memGet (memPut m a (leBytes 1 status ++ leBytes 1 detail)) b = memGet m b :=
  memGet_memPut_out _ _ _ _ (by simp [leBytes]; omega)

theorem latch_done (x : BitVec 8) : (x ||| 0x20#8).getLsbD 5 = true := by
  simp

/-! ### KSIGN -/

theorem ksign_full {s : State} (h : s.vault.sign.isSome = true) (k a : Nat) (img : List Byte) : ksign s k a img = (s, PlaneRes.only stFULL) :=
  if_pos h

theorem ksign_miss {s : State} (h : s.vault.sign = none) (hkey : getKey s 9 = none) (k a : Nat) (img : List Byte) :
    ksign s k a img = (s, PlaneRes.only stMISS) := by
  unfold ksign
  dsimp only
  rw [if_neg (by simp [h]), hkey]

theorem kverify_full {s : State} (h : s.vault.verify.isSome = true) (k a : Nat) (img : List Byte) : kverify s k a img = (s, PlaneRes.only stFULL) :=
  if_pos h

/-- What follows a signature changes no core and no operation. -/
theorem remaskAfter_rest (s : State) : remaskAfter s =
    { s with freeIdx := (remaskAfter s).freeIdx, vault := { s.vault with keys := (remaskAfter s).vault.keys, remaskLate := (remaskAfter s).vault.remaskLate } } := by
  unfold remaskAfter
  split
  · rw [(remaskKey_remasked { s with vault := { s.vault with remaskLate := false } } 9).rest]
  · rfl

/-- The state in which a KSIGN has left its answer. -/
def signAnswered (s : State) (op : SigOp) : State :=
  if s.vault.trngFail then sigDone s op stDENIED 0
  else
    match vaultRead (drawFree s).2 op.agent [(op.msgEa, op.msgLen)] with
    | (s1, some msg) =>
      sigDone (vaultWrite s1 op.agent op.sigEa (fitTo 512 (pssSign (leBytes 1792 op.key) msg (leBytes 64 (drawFree s).1)))) op stOK 0
    | (s1, none) => s1

theorem ksignComplete_raw {s : State} {op : SigOp} (hmode : op.mode = 0) : ksignComplete s op =
    (if (remaskAfter (signAnswered { s with vault := { s.vault with sign := none } } op)).vault.clearAfter then
      clearRootKeys { remaskAfter (signAnswered { s with vault := { s.vault with sign := none } } op) with
        vault := { (remaskAfter (signAnswered { s with vault := { s.vault with sign := none } } op)).vault with clearAfter := false } }
    else remaskAfter (signAnswered { s with vault := { s.vault with sign := none } } op)) := by
  unfold ksignComplete signAnswered
  rw [hmode]
  rfl

/-- The bytes of a signature. -/
theorem fitTo_length (n : Nat) (b : List Byte) : (fitTo n b).length = n := by
  simp [fitTo]
  omega

section
variable {s : State} {op : SigOp} {i : Nat} {msg : List Byte}

theorem signAnswered_denied (h : s.vault.trngFail = true) : signAnswered s op = sigDone s op stDENIED 0 := if_pos h

theorem signAnswered_signs (h : s.vault.trngFail = false) (hin : s.triad.excluded = 0#3) (hvoter : s.triad.voter = .sound)
    (hmsg : StreamAlike s op.agent op.msgEa op.msgLen msg) : signAnswered s op =
      sigDone (vaultWrite { s with freeIdx := s.freeIdx + 1 } op.agent op.sigEa
        (fitTo 512 (pssSign (leBytes 1792 op.key) msg (leBytes 64 (Config.free s.freeIdx))))) op stOK 0 := by
  have hread : vaultRead (drawFree s).2 op.agent [(op.msgEa, op.msgLen)] = ((drawFree s).2, some msg) :=
    vaultRead_alike (s := (drawFree s).2) hin hvoter fun j hj => (List.append_nil _).trans (hmsg j hj)
  unfold signAnswered
  rw [if_neg (by simp [h]), hread]
  rfl

end

/-- What a KSIGN leaves at a core: its signature, unless the generator fails, and its status. -/
def signedCore (s : State) (op : SigOp) (msg : List Byte) (c : SCore) : SCore :=
  if s.vault.trngFail then { putLocal (op.ea + 0x20) (leBytes 1 stDENIED ++ leBytes 1 0) c with latched := c.latched ||| 0x20#8 }
  else
    { putLocal (op.ea + 0x20) (leBytes 1 stOK ++ leBytes 1 0)
        (putLocal op.sigEa (fitTo 512 (pssSign (leBytes 1792 op.key) msg (leBytes 64 (Config.free s.freeIdx)))) c) with
      latched := c.latched ||| 0x20#8 }

theorem signAnswered_frame {s : State} {op : SigOp} {msg : List Byte} (hin : s.triad.excluded = 0#3) (hvoter : s.triad.voter = .sound)
    (hmsg : StreamAlike s op.agent op.msgEa op.msgLen msg) (hrising : Rising s.cores) : (signAnswered s op).vault = s.vault ∧
      ∀ i ∈ vaultCores s op.agent, getCore (signAnswered s op) i = signedCore s op msg (getCore s i) := by
  unfold signedCore
  by_cases hfail : s.vault.trngFail = true
  · rw [signAnswered_denied hfail]
    refine ⟨sigDone_vault .., fun i hi => ?_⟩
    rw [if_pos hfail, getCore_sigDone hrising hi]
  · rw [signAnswered_signs (by simpa using hfail) hin hvoter hmsg]
    refine ⟨(sigDone_vault ..).trans (vaultWrite_vault ..), fun i hi => ?_⟩
    have hcores := vaultCores_of_triad (vaultWrite_triad { s with freeIdx := s.freeIdx + 1 } op.agent op.sigEa
      (fitTo 512 (pssSign (leBytes 1792 op.key) msg (leBytes 64 (Config.free s.freeIdx))))) op.agent
    rw [if_neg hfail, getCore_sigDone (vaultWrite_rising (s := { s with freeIdx := s.freeIdx + 1 }) hrising _ _ _) (by rw [hcores]; exact hi),
      getCore_vaultWrite (s := { s with freeIdx := s.freeIdx + 1 }) hrising hi]
    rfl

theorem exec_ksignComplete {s : State} {op : SigOp} {msg : List Byte} (hop : s.vault.sign = some op) (hruns : deviceRuns s = true)
    (hclear : s.vault.clearAfter = false) (hmode : op.mode = 0) (hin : s.triad.excluded = 0#3) (hvoter : s.triad.voter = .sound)
    (hmsg : StreamAlike s op.agent op.msgEa op.msgLen msg) (hrising : Rising s.cores) :
    ∃ s', exec .ksignComplete s = .next s' ∧ s'.vault.sign = none ∧
      ∀ i ∈ vaultCores s op.agent, getCore s' i = signedCore s op msg (getCore s i) := by
  obtain ⟨hvault, hcores⟩ := signAnswered_frame (s := { s with vault := { s.vault with sign := none } }) hin hvoter hmsg hrising
  have hrest := remaskAfter_rest (signAnswered { s with vault := { s.vault with sign := none } } op)
  have hraw := ksignComplete_raw (s := s) hmode
  generalize remaskAfter (signAnswered { s with vault := { s.vault with sign := none } } op) = t at hrest hraw
  rw [if_neg (by rw [hrest, hvault]; simp [hclear])] at hraw
  refine ⟨t, ?_, by rw [hrest, hvault], fun i hi => ?_⟩
  · change execKsignComplete s = _
    unfold execKsignComplete
    rw [hop]
    dsimp only
    rw [if_pos hruns, hraw]
  · rw [hrest]
    exact hcores i hi

/-! ### KVERIFY -/

/-- Three streams in a row, cut apart again. -/
theorem imgBytes_streams {msg key sig : List Byte} (hkey : key.length = 512) (hsig : sig.length = 512) :
    (msg ++ (key ++ sig)).take msg.length = msg ∧ imgBytes (msg ++ (key ++ sig)) msg.length 512 = key ∧
      imgBytes (msg ++ (key ++ sig)) (msg.length + 512) 512 = sig := by
  refine ⟨by simp, ?_, ?_⟩
  · simp [imgBytes, hkey]
  · simp [imgBytes, ← List.drop_drop, hkey, hsig]

theorem localBytes_length (c : SCore) (ea n : Nat) : (localBytes c ea n).length = n := by
  simp [localBytes, memBytes]

/-- KVERIFY of a signature: OK for an anchored key that verifies it. -/
theorem exec_kverifyComplete {s : State} {op : SigOp} {i : Nat} {msg key sig : List Byte} (hop : s.vault.verify = some op)
    (hruns : deviceRuns s = true) (hmode : op.mode = 0) (hin : s.triad.excluded = 0#3) (hvoter : s.triad.voter = .sound)
    (hmsg : StreamAlike s op.agent op.msgEa op.msgLen msg) (hkey : StreamAlike s op.agent op.keyEa 512 key)
    (hsig : StreamAlike s op.agent op.sigEa 512 sig) (hrising : Rising s.cores) (hi : i ∈ vaultCores s op.agent) :
    ∃ s', exec .kverifyComplete s = .next s' ∧ s'.vault.verify = none ∧ ∃ detail, getCore s' i =
      { putLocal (op.ea + 0x20) (leBytes 1 (if (op.role = 0xFF ∨ anchored s op.role key = true) ∧ pssVerify key msg sig = true then stOK else stBADSIG) ++
          leBytes 1 detail) (getCore s i) with latched := (getCore s i).latched ||| 0x20#8 } := by
  have hlens : msg.length = op.msgLen ∧ key.length = 512 ∧ sig.length = 512 := by
    rw [← hmsg i hi, ← hkey i hi, ← hsig i hi]
    exact ⟨localBytes_length .., localBytes_length .., localBytes_length ..⟩
  obtain ⟨hmsgLen, hkeyLen, hsigLen⟩ := hlens
  obtain ⟨htake, hkeyAt, hsigAt⟩ := imgBytes_streams (msg := msg) hkeyLen hsigLen
  rw [hmsgLen] at htake hkeyAt hsigAt
  have hread : vaultRead { s with vault := { s.vault with verify := none } } op.agent [(op.msgEa, op.msgLen), (op.keyEa, 512), (op.sigEa, 512)] =
      ({ s with vault := { s.vault with verify := none } }, some (msg ++ (key ++ sig))) := by
    refine vaultRead_alike (s := { s with vault := { s.vault with verify := none } }) hin hvoter fun j hj => ?_
    have hstream (e n : Nat) : localBytes (getCore { s with vault := { s.vault with verify := none } } j) e n = localBytes (getCore s j) e n := rfl
    simp only [List.flatMap_cons, List.flatMap_nil, List.append_nil, hstream, hmsg j hj, hkey j hj, hsig j hj]
  have hcomplete : ∃ detail, kverifyComplete s op = sigDone { s with vault := { s.vault with verify := none } } op
      (if (op.role = 0xFF ∨ anchored s op.role key = true) ∧ pssVerify key msg sig = true then stOK else stBADSIG) detail := by
    unfold kverifyComplete
    dsimp only
    rw [if_neg (by omega), hread]
    dsimp only
    rw [if_neg (by omega), htake, hkeyAt, hsigAt]
    have hanch : anchored { s with vault := { s.vault with verify := none } } op.role key = anchored s op.role key := rfl
    rw [hanch]
    refine ⟨_, congrArg (sigDone _ _ · _) ?_⟩
    simp
  obtain ⟨detail, hcomplete⟩ := hcomplete
  refine ⟨sigDone { s with vault := { s.vault with verify := none } } op
    (if (op.role = 0xFF ∨ anchored s op.role key = true) ∧ pssVerify key msg sig = true then stOK else stBADSIG) detail, ?_, ?_, detail, ?_⟩
  · change execKverifyComplete s = _
    unfold execKverifyComplete
    rw [hop]
    dsimp only
    rw [if_pos hruns, hcomplete]
  · rw [sigDone_vault]
  · exact getCore_sigDone (s := { s with vault := { s.vault with verify := none } }) hrising hi _ _

/-- Settles O25: a completion writes the answer to the cores that it serves; what the cores stream alike is what the Vault signs or verifies. -/
theorem signatureOperations : Obligations.SignatureOperations := by
  unfold Obligations.SignatureOperations
  intro alike
  refine ⟨fun s k a img => ⟨fun h => ksign_full h k a img, fun h hkey => ksign_miss h hkey k a img, fun h => kverify_full h k a img⟩, ?_, ?_⟩
  · intro s op i msg hop hruns hclear hmode hin hvoter hmsg hrising hi hwf hea hsig
    obtain ⟨s', hexec, hsign, hcores⟩ := exec_ksignComplete hop hruns hclear hmode hin hvoter hmsg hrising
    have hcore := hcores i hi
    unfold signedCore at hcore
    refine ⟨s', hexec, hsign, ?_, ?_, fun htrng j hj h0 h1 => ?_⟩
    · rw [hcore]
      split <;> exact latch_done _
    · rw [hcore]
      split
      · exact memGet_status hwf _ _ _
      · exact memGet_status (memPut_wf _ _ hwf) _ _ _
    · rw [hcore, if_neg (by simp [htrng])]
      have hlen := fitTo_length 512 (pssSign (leBytes 1792 op.key) msg (leBytes 64 (Config.free s.freeIdx)))
      have hpast0 : op.sigEa + j - 2 ^ 63 ≠ op.ea + 0x20 - 2 ^ 63 := by omega
      have hpast1 : op.sigEa + j - 2 ^ 63 ≠ op.ea + 0x20 - 2 ^ 63 + 1 := by omega
      refine (memGet_past_status _ _ _ hpast0 hpast1).trans ?_
      rw [show op.sigEa + j - 2 ^ 63 = op.sigEa - 2 ^ 63 + j by omega]
      exact memGet_memPut_in _ _ _ hwf (by rw [hlen]; exact hj)
  · intro s op i msg key sig hop hruns hmode hin hvoter hmsg hkey hsig hrising hi hwf hea
    have hsigned : StreamAlike s op.agent op.sigEa 512 sig := hsig
    obtain ⟨s', hexec, hverify, detail, hcores⟩ := exec_kverifyComplete hop hruns hmode hin hvoter hmsg hkey hsigned hrising hi
    refine ⟨s', hexec, hverify, ?_, ?_⟩
    · rw [hcores]
      exact latch_done _
    · rw [hcores]
      refine (memGet_status hwf _ _ _).trans ?_
      split <;> rfl

end Sys2Proof.Machine
end

section
/-! PROOFS. The TAP and the debug sessions: what each TAP instruction selects, and the words of a token in its buffer (R379, R503 to R505). -/

namespace Sys2Proof.Machine

/-! ### The TAP -/

theorem tapSelect_live {s : State} (h : tapLive s = true) (i : Nat) : tapSelect s i = { s with host := { s.host with tapIr := i } } := if_pos h

theorem tapLive_select (s : State) (i : Nat) : tapLive { s with host := { s.host with tapIr := i } } = tapLive s := rfl

/-- A code that Table 17.10 does not list selects BYPASS. -/
theorem exec_bypass {s : State} (h : tapLive s = true) {c : Byte} (hc : c.toNat ∉ [0x00, 0x01, 0x02, 0x03, 0x40, 0x41]) :
    exec (.bypass c) s = .next { s with host := { s.host with tapIr := c.toNat } } ∧
      tapActing { s with host := { s.host with tapIr := c.toNat } } = 0xFF := by
  constructor
  · change execBypass s c = _
    unfold execBypass
    rw [if_neg (by simpa using hc), tapSelect_live h]
  · simp only [List.mem_cons, List.not_mem_nil, or_false, not_or] at hc
    obtain ⟨h0, h1, h2, h3, h40, h41⟩ := hc
    unfold tapActing
    dsimp only
    rw [if_neg (by rintro (h | h) <;> contradiction), if_neg (by rintro (h | h | h | h) <;> contradiction)]

theorem exec_samplePreload {s : State} (h : tapLive s = true) (l : List Bool) : exec (.samplePreload l) s = .next { s with
    freeIdx := s.freeIdx + 1, host := { s.host with tapIr := 0x01, tapScan := l, readOut := Config.free s.freeIdx, completerAbort := false } } := by
  change execSamplePreload l s = _
  unfold execSamplePreload
  rw [if_pos h, tapSelect_live h]
  rfl

theorem exec_idcode {s : State} (h : tapLive s = true) :
    exec .idcode s = .next { s with host := { s.host with tapIr := 0x02, readOut := 0xB964056B, completerAbort := false } } := by
  change execIdcode s = _
  unfold execIdcode
  rw [tapSelect_live h]
  exact congrArg Host.Outcome.next (if_pos h)

/-! ### The token buffer -/

/-- Byte j of a little-endian word. -/
theorem leBytes_word (w : BitVec 32) {j : Nat} (h : j < 4) : (leBytes 4 w.toNat).getD j 0#8 = (w >>> (8 * j)).truncate 8 := by
  rw [leBytes_eq_map]
  apply BitVec.eq_of_toNat_eq
  simp [h, Nat.shiftRight_eq_div_pow, Nat.pow_mul]

/-- Words that fit stand in the buffer from the write pointer on, and the bytes before and behind them stay. -/
theorem foldl_tokenWord : ∀ (l : List (BitVec 32)) (s : State), s.host.tapPtr + 4 * l.length ≤ 4096 → memWf s.host.dbgWindow = true →
    (l.foldl tokenWord s).host.tapIr = s.host.tapIr ∧ (l.foldl tokenWord s).host.tapPtr = s.host.tapPtr + 4 * l.length ∧
      (∀ i < l.length, ∀ j < 4, memGet (l.foldl tokenWord s).host.dbgWindow (s.host.tapPtr + 4 * i + j) = ((l.getD i 0#32) >>> (8 * j)).truncate 8) ∧
      ∀ a, a < s.host.tapPtr ∨ s.host.tapPtr + 4 * l.length ≤ a → memGet (l.foldl tokenWord s).host.dbgWindow a = memGet s.host.dbgWindow a
  | [], s, _, _ => by simp
  | w :: l, s, hfit, hwf => by
    rw [List.length_cons] at hfit
    have hword : tokenWord s w = { s with host := { s.host with
        dbgWindow := memPut s.host.dbgWindow s.host.tapPtr (leBytes 4 w.toNat), tapPtr := s.host.tapPtr + 4 } } := if_pos (by omega)
    obtain ⟨hir, hptr, hin, hout⟩ := foldl_tokenWord l (tokenWord s w) (by rw [hword]; dsimp only; omega) (by rw [hword]; exact memPut_wf _ _ hwf)
    rw [List.foldl_cons]
    rw [hword] at hir hptr hin hout ⊢
    dsimp only at hir hptr hin hout
    refine ⟨hir, by rw [hptr, List.length_cons]; omega, fun i hi j hj => ?_, fun a ha => ?_⟩
    · cases i with
      | zero =>
        rw [hout _ (by omega)]
        have hget := memGet_memPut_in (leBytes 4 w.toNat) (m := s.host.dbgWindow) s.host.tapPtr j hwf (by rw [leBytes_length]; exact hj)
        simpa using hget.trans (leBytes_word w hj)
      | succ i =>
        have := hin i (by simpa using hi) j hj
        rw [show s.host.tapPtr + 4 * (i + 1) + j = s.host.tapPtr + 4 + 4 * i + j by omega, this]
        simp
    · rw [List.length_cons] at ha
      rw [hout a (by omega)]
      exact memGet_memPut_out _ _ _ _ (by rw [leBytes_length]; omega)

/-! ### Sessions -/

/-- A start of verification while none runs. -/
theorem dbgStart_idle {s : State} (h : s.host.dbgLive = none) (n : Nat) : dbgStart s n = { s with host :=
    if n < 1872 ∨ 4096 < n then { s.host with dbgStatus := stDENIED } else { s.host with dbgLive := some { bytes := memBytes s.host.dbgWindow 0 n } } } := by
  unfold dbgStart
  rw [h]
  by_cases hn : n < 1872 ∨ 4096 < n
  · rw [if_neg (by simp), if_pos hn, if_pos hn]
  · rw [if_neg (by simp), if_neg hn, if_neg hn]

/-- What an Update-DR of DBG_CTRL acts on. -/
def ctrlCaptured (s : State) : State := { s with host := { s.host with
  tapIr := 0x41, readOut := dbgCapture { s with host := { s.host with tapIr := 0x41 } }, completerAbort := false } }

theorem dbgCtrl_runs {s : State} (hlive : tapLive s = true) (hruns : deviceRuns s = true) (start detach : Bool) (n : Nat) :
    dbgCtrl s start detach n = (if start then dbgStart (if detach then dbgDetach (ctrlCaptured s) else ctrlCaptured s) n
      else if detach then dbgDetach (ctrlCaptured s) else ctrlCaptured s) := by
  unfold dbgCtrl
  rw [if_pos hlive, tapSelect_live hlive]
  exact if_pos hruns

/-- A token that verifies attaches a session: lockstep is broken and the device is in Maintenance. -/
theorem dbgAttach_active {s : State} (hrole : s.pair.role ≠ .lead) (hmode : s.gh.mode = .active) :
    (dbgAttach s).host = { s.host with dbgAttached := true } ∧ (dbgAttach s).triad.lockstepBroken = true ∧ (dbgAttach s).gh.mode = .maintenance ∧
      bitOf (dbgAttach s).gh.faultSrc 4 = true := by
  unfold dbgAttach
  rw [dropLease, if_neg hrole]
  simp [hmode, setFaultSrc, testBit_eq_bitOf, show Nat.testBit 16 4 = true from rfl]

/-- What a completed verification leaves before the session attaches. -/
def dbgVerified (s : State) (ok : Bool) : State := { s with freeIdx := s.freeIdx + 1, host := { s.host with
  dbgLive := none, dbgStatus := if ok then stOK else stBADSIG, nonce := Config.free s.freeIdx % 2 ^ 64 } }

theorem exec_dbgVerifyComplete {s : State} {x : HostCmd} (hruns : deviceRuns s = true) (hx : s.host.dbgLive = some x) :
    exec .dbgVerifyComplete s = .next (if ((suhildCheck s x.bytes 4 [4]).2 && tokenBound s x.bytes) = true then
      dbgAttach (dbgVerified s ((suhildCheck s x.bytes 4 [4]).2 && tokenBound s x.bytes))
    else dbgVerified s ((suhildCheck s x.bytes 4 [4]).2 && tokenBound s x.bytes)) := by
  change execDbgVerifyComplete s = _
  unfold execDbgVerifyComplete
  rw [if_pos hruns, dbgComplete, hx]
  rfl

/-- Settles O51: the TAP selects, the token buffer fills from byte 0, and a verified token attaches the session. -/
theorem debugPort : Obligations.DebugPort := by
  unfold Obligations.DebugPort
  refine ⟨fun s h => ?_, fun s l h hlen hwf => ?_, fun s n hidle => ⟨fun h => ?_, fun h hruns => ⟨(ctrlCaptured s).host.readOut, ?_⟩⟩, fun s h => ?_,
    fun s h hruns => ⟨(ctrlCaptured s).host.readOut, ?_, ?_⟩, ?_⟩
  · intro sel
    exact ⟨fun c hc => exec_bypass h hc, congrArg Host.Outcome.next (tapSelect_live h _), exec_idcode h, fun l => ⟨_, exec_samplePreload h l⟩,
      congrArg Host.Outcome.next (tapSelect_live h _), rfl, congrArg Host.Outcome.next (tapSelect_live h _), rfl⟩
  · have hexec : exec (.dbgToken l) s = .next (l.foldl tokenWord { s with host := { s.host with tapIr := 0x40, tapPtr := 0 } }) := by
      change execDbgToken l s = _
      unfold execDbgToken
      rw [tapSelect_live h]
      exact congrArg Host.Outcome.next (if_pos h)
    obtain ⟨hir, hptr, hin, hout⟩ := foldl_tokenWord l { s with host := { s.host with tapIr := 0x40, tapPtr := 0 } } (by dsimp only; omega) hwf
    dsimp only at hptr hin hout
    rw [Nat.zero_add] at hptr hout
    refine ⟨_, hexec, hir, hptr, fun i hi j hj => ?_, fun a ha => hout a (.inr ha)⟩
    simpa using hin i hi j hj
  · change execDbgGo n s = _
    unfold execDbgGo
    rw [if_pos h, dbgStart_idle (s := { s with host := { s.host with dbgLen := n.toNat } }) hidle]
  · change Host.Outcome.next (dbgCtrl s true false n.toNat) = _
    rw [dbgCtrl_runs h hruns, if_pos rfl, if_neg Bool.false_ne_true, dbgStart_idle (s := ctrlCaptured s) hidle]
    rfl
  · change execDbgDetach s = _
    unfold execDbgDetach
    rw [if_pos h]
    rfl
  · change Host.Outcome.next (dbgCtrl s false true 0) = _
    rw [dbgCtrl_runs h hruns]
    rfl
  · change Host.Outcome.next (dbgCtrl s false false 0) = _
    rw [dbgCtrl_runs h hruns]
    rfl
  · intro s x hruns hx nonce good hrole hmode
    have hexec : exec .dbgVerifyComplete s = .next (if good = true then dbgAttach (dbgVerified s good) else dbgVerified s good) :=
      exec_dbgVerifyComplete hruns hx
    obtain ⟨hhost, hbroken, hmaint, hfault⟩ := dbgAttach_active (s := dbgVerified s good) hrole hmode
    refine ⟨_, hexec, ?_⟩
    cases hgood : good with
    | true =>
      rw [hgood] at hhost hbroken hmaint hfault
      rw [if_pos rfl, hhost, hbroken, hmaint, hfault]
      simp [dbgVerified, nonce]
    | false => simp [dbgVerified, nonce, hmode]

end Sys2Proof.Machine
end

section
/-! PROOFS. What admission, enqueue and discard leave unchanged: they reach the queues, the store of frames and the counters only. -/

namespace Sys2Proof.Machine

/-- Only the queues, the store of frames and the counters change from s to s'. -/
def QueueOnly (s s' : State) : Prop := s' = { s with stock := s'.stock, hopper := s'.hopper, haul := s'.haul, counters := s'.counters }

theorem QueueOnly.refl (s : State) : QueueOnly s s := rfl

theorem QueueOnly.trans {a b c : State} (hab : QueueOnly a b) (hbc : QueueOnly b c) : QueueOnly a c := by
  unfold QueueOnly at *
  rw [hbc, hab]

theorem QueueOnly.foldl {β : Type} {f : State → β → State} (hf : ∀ s x, QueueOnly s (f s x)) : ∀ (l : List β) (s : State), QueueOnly s (l.foldl f s)
  | [], s => .refl s
  | x :: l, s => (hf s x).trans (QueueOnly.foldl hf l (f s x))

theorem StoreOnly.queueOnly {s s' : State} (h : StoreOnly s s') : QueueOnly s s' := by
  unfold StoreOnly at h
  rw [h]
  rfl

theorem QueueOnly.screen {s s' : State} (h : QueueOnly s s') : s'.screen = s.screen := by
  unfold QueueOnly at h
  rw [h]

theorem bump_queueOnly (s : State) (c : Ctr) (i n : Nat) : QueueOnly s (bump s c i n) := rfl

theorem setChain_queueOnly (s : State) (c : Nat) (x : Option Chain) : QueueOnly s (setChain s c x) := rfl

theorem setQueue_queueOnly (s : State) (q : Nat) (x : QueueRec) : QueueOnly s (setQueue s q x) := rfl

theorem freeDesc_queueOnly (s : State) (i : Nat) : QueueOnly s (freeDesc s i) := rfl

theorem freeChain_queueOnly (s : State) (first : Nat) : QueueOnly s (freeChain s first) := by
  unfold freeChain
  split
  · exact .refl s
  · exact (freeCells_storeOnly ..).queueOnly.trans (setChain_queueOnly ..)

theorem ownFree_queueOnly (s : State) (m h : Nat) : QueueOnly s ((ownFree s m h).left s) := by
  unfold ownFree
  repeat' split
  case h_1.isFalse.isFalse.isFalse => exact freeChain_queueOnly ..
  all_goals rfl

theorem ownRelease_queueOnly (s : State) (h : Nat) : QueueOnly s ((ownRelease s h).left s) := by
  unfold ownRelease
  repeat' split
  case h_1.isFalse.isTrue => exact freeChain_queueOnly ..
  all_goals rfl

theorem QueueOnly.of_ok {s s' : State} {r : OwnRes} (hr : QueueOnly s (r.left s)) (h : r = .ok s') : QueueOnly s s' := by
  subst h
  exact hr

theorem dropHold_queueOnly (s : State) (h : Nat) : QueueOnly s (dropHold s h) := by
  unfold dropHold
  split
  · exact .of_ok (ownFree_queueOnly ..) ‹_›
  · split
    · exact .of_ok (ownRelease_queueOnly ..) ‹_›
    · exact .refl s

theorem discardStored_queueOnly (s : State) (h d : Nat) : QueueOnly s (discardStored s h d) :=
  (dropHold_queueOnly ..).trans (freeDesc_queueOnly ..)

theorem discardDesc_queueOnly (s : State) (m : Nat) (d : Desc) : QueueOnly s (discardDesc s m d) := by
  have hfreed : QueueOnly s (if d.spec then s else freeDesc (dropHold s d.handle) d.idx) := by
    split
    · exact .refl s
    · exact discardStored_queueOnly s d.handle d.idx
  unfold discardDesc
  dsimp only
  split
  · exact hfreed.trans (bump_queueOnly ..)
  · exact hfreed

theorem markSpill_queueOnly (s : State) (h : Nat) : QueueOnly s (markSpill s h) := by
  unfold markSpill
  dsimp only
  repeat' split
  all_goals rfl

theorem joinList_queueOnly (s : State) (level i : Nat) : QueueOnly s (joinList s level i) := by
  unfold joinList
  dsimp only
  split
  all_goals rfl

theorem leaveList_queueOnly (s : State) (level i : Nat) : QueueOnly s (leaveList s level i) := rfl

theorem joinUp_queueOnly (s : State) (q : Nat) : QueueOnly s (joinUp s q) :=
  ((joinList_queueOnly ..).trans (joinList_queueOnly ..)).trans (joinList_queueOnly ..)

theorem leaveUp_queueOnly (s : State) (q : Nat) : QueueOnly s (leaveUp s q) := by
  unfold leaveUp
  dsimp only
  repeat' split
  all_goals rfl

theorem setFrames_queueOnly (s : State) (q : Nat) (l : List Desc) : QueueOnly s (setFrames s q l) := by
  unfold setFrames
  dsimp only
  repeat' split
  · rfl
  · exact ((setQueue_queueOnly ..).trans (setQueue_queueOnly ..)).trans (leaveUp_queueOnly ..)
  · exact (setQueue_queueOnly ..).trans (leaveUp_queueOnly ..)
  · exact (setQueue_queueOnly ..).trans (joinUp_queueOnly ..)
  · rfl

theorem displace_queueOnly (q m k lim : Nat) : ∀ (l : List Desc) (s : State), QueueOnly s (displace q m k lim l s)
  | [], s => .refl s
  | d :: l, s => by
    unfold displace
    split
    · exact .refl s
    · split
      · exact displace_queueOnly q m k lim l s
      · exact (((setFrames_queueOnly ..).trans (discardDesc_queueOnly ..)).trans (bump_queueOnly ..)).trans (displace_queueOnly q m k lim l _)

theorem admitTo_queueOnly (s : State) (q k dp : Nat) (arrVc : Option Nat) : QueueOnly s (admitTo s q k dp arrVc).1 := by
  unfold admitTo
  dsimp only
  repeat' split
  case h_2.isFalse.isFalse.isFalse.isFalse.isTrue => exact displace_queueOnly ..
  all_goals rfl

theorem appendDesc_queueOnly (s : State) (d : Desc) : QueueOnly s (appendDesc s d) := by
  unfold appendDesc
  dsimp only
  split
  · exact (setFrames_queueOnly ..).trans (markSpill_queueOnly ..)
  · exact setFrames_queueOnly ..

theorem enqueue_queueOnly (s : State) (d : Desc) : QueueOnly s (enqueue s d).1 := by
  unfold enqueue
  dsimp only
  split
  · exact (admitTo_queueOnly ..).trans (appendDesc_queueOnly ..)
  · exact admitTo_queueOnly ..

/-- The offer of a packet to the cache keeps its handle, its descriptor, its source and its number. -/
theorem offerProbe_queueOnly (s : State) (p : Packet) : QueueOnly s (offerProbe s p).1 := by
  unfold offerProbe
  dsimp only
  repeat' split
  · exact bump_queueOnly ..
  · exact (bump_queueOnly ..).trans (enqueue_queueOnly ..)
  · exact (bump_queueOnly ..).trans (enqueue_queueOnly ..)
  · exact .refl s

end Sys2Proof.Machine
end

section
/-! PROOFS. Screen behind its stages: dispatch of packets to threads, numbering, wait limits and the reorder stage (R35, R39, R153 to R160). -/

namespace Sys2Proof.Machine

/-! ### Dispatch -/

/-- A thread in a pass is not the reset thread. -/
theorem passThread_ne_reset (s : State) (p : Packet) (st : Nat) : passThread s p st ≠ Thread.reset := by
  intro h
  exact absurd (congrArg Thread.pkt h) (Option.some_ne_none p)

/-- A packet that was dispatched before starts its pass with the bank of its first dispatch. -/
theorem startPass_again {s : State} {p : Packet} {st : Nat} (t : Nat) (hp : p.dispatched = true) (hstart : entryStart s p.bank p.entry = some st) :
    startPass s t p = setThread (bump s .dispatched p.src 1) t (passThread s p st) := by
  unfold startPass
  rw [if_pos hp]
  dsimp only
  rw [hstart]

/-- A first dispatch stamps the bank in service and the instant. -/
theorem startPass_first {s : State} {p : Packet} {st : Nat} {b : Bool} (t : Nat) (hp : p.dispatched = false) (hservice : s.engine.service = some b)
    (hstart : entryStart s b p.entry = some st) : startPass s t p =
      setThread (bump s .dispatched p.src 1) t (passThread s { p with dispatched := true, bank := b, dispAt := s.localNs } st) := by
  unfold startPass
  rw [if_neg (by simp [hp]), hservice]
  dsimp only
  rw [Option.getD_some, hstart]

theorem exec_dispatch {s : State} {g : Fin 8} {p : Packet} {l : List Packet} {t st : Nat} {b : Bool} (hq : s.screen.dispatchQ = p :: l)
    (hintime : s.localNs < p.lastBit + s.bench.period * 1000 / 2) (hthread : groupThread s g = some t) (hp : p.dispatched = false)
    (hservice : s.engine.service = some b) (hstart : entryStart s b p.entry = some st) : exec (.dispatch g) s = .next
      (setThread (bump { s with screen := { s.screen with dispatchQ := l, groupLast := tblSet 0 s.screen.groupLast g (t / 8 % 8) } } .dispatched p.src 1)
        t (passThread s { p with dispatched := true, bank := b, dispAt := s.localNs } st)) := by
  change execDispatch g s = _
  unfold execDispatch
  rw [hq]
  dsimp only
  rw [if_neg (by rw [tickNs]; omega), hthread]
  dsimp only
  exact congrArg Host.Outcome.next (startPass_first (s := { s with screen := { s.screen with
    dispatchQ := l, groupLast := tblSet 0 s.screen.groupLast g (t / 8 % 8) } }) t hp hservice hstart)

/-- A pass whose profile ignores the flags, or that has none set, is not dropped for them. -/
theorem flagDrop_none {r : RuleSet} {prof : Nat} {f : Bool × Bool} (h : profileWord r prof 0 / 2 ^ 31 % 2 = 1 ∨ f = (false, false)) :
    flagDrop r prof f.1 f.2 = none := by
  unfold flagDrop
  rcases h with h | rfl
  · rw [if_pos (by rw [bitOf]; simpa using h)]
  · simp

theorem exec_recircReentry {s : State} {t : Fin 512} {p : Packet} {r : RuleSet} {st : Nat} (hres : (getThread s t).reserved = some p)
    (hp : p.dispatched = true) (hintime : s.localNs < p.lastBit + s.bench.period * 1000) (hrules : ruleSetOf s p.epoch = some r)
    (hflags : profileWord r (selectProfile r p.src (frameBytes s p.handle p.len)) 0 / 2 ^ 31 % 2 = 1 ∨
      shapeFlags r (selectProfile r p.src (frameBytes s p.handle p.len)) (frameBytes s p.handle p.len).length
        (extract r (selectProfile r p.src (frameBytes s p.handle p.len)) (frameBytes s p.handle p.len)) = (false, false))
    (hstart : entryStart s p.bank p.entry = some st) : exec (.recircReentry t) s = .next
      (setThread (bump s .dispatched p.src 1) t (passThread s { p with
        profile := (shapePass r p.src (frameBytes s p.handle p.len)).1, ext := (shapePass r p.src (frameBytes s p.handle p.len)).2.1
        lenConflict := (shapePass r p.src (frameBytes s p.handle p.len)).2.2.1, deep := (shapePass r p.src (frameBytes s p.handle p.len)).2.2.2 } st)) := by
  have hkept := flagDrop_none hflags
  change execRecircReentry t s = _
  unfold execRecircReentry
  rw [hres]
  dsimp only
  rw [if_neg (by rw [tickNs]; omega), hrules]
  dsimp only [shapePass]
  rw [hkept]
  exact congrArg Host.Outcome.next (startPass_again (s := s) t (p := { p with
    profile := (shapePass r p.src (frameBytes s p.handle p.len)).1, ext := (shapePass r p.src (frameBytes s p.handle p.len)).2.1
    lenConflict := (shapePass r p.src (frameBytes s p.handle p.len)).2.2.1, deep := (shapePass r p.src (frameBytes s p.handle p.len)).2.2.2 }) hp hstart)

/-- Settles O30: a dispatch starts the packet's pass on the group's thread, and a reserved thread the pass of its packet. -/
theorem dispatchEvents : Obligations.DispatchEvents := by
  unfold Obligations.DispatchEvents
  refine ⟨fun s g p l t st b hq hintime hthread hp hservice hstart => ?_, ?_⟩
  · exact ⟨_, exec_dispatch hq hintime hthread hp hservice hstart, getThread_setThread _ _ (passThread_ne_reset _ _ _),
      fun u hu => getThread_setThread_ne _ _ _ _ hu, rfl, rfl, rfl⟩
  · intro s t p r st hres hp hintime hrules b prof e f hflags hstart
    exact exec_recircReentry hres hp hintime hrules hflags hstart

/-! ### Numbering -/

/-- A source has numbered a packet. -/
def counted (s : State) (m : Nat) (p : Packet) : State :=
  setReorder { s with screen := { s.screen with
    waiting := s.screen.waiting.erase p, seqCtr := tblSet 0 s.screen.seqCtr m ((tblGet 0 s.screen.seqCtr m + 1) % 65536) } } m
      (getReorder s m ++ [{ num := tblGet 0 s.screen.seqCtr m, filled := false, ready := none }])

/-- The packet that a source has numbered, offered to the cache. -/
def numbered (s : State) (m : Nat) (p : Packet) : State × Packet := offerProbe (counted s m p) { p with seq := some (tblGet 0 s.screen.seqCtr m) }

theorem exec_sequenceAssign {s : State} {m : Fin 64} {p : Packet} (hp : s.screen.waiting.find? (fun p => p.src == m.val) = some p)
    (hopen : windowOpen s m = true) : exec (.sequenceAssign m) s = .next { (numbered s m p).1 with
      screen := { (numbered s m p).1.screen with dispatchQ := (numbered s m p).1.screen.dispatchQ ++ [(numbered s m p).2] } } := by
  change execSequenceAssign m s = _
  unfold execSequenceAssign assignWaiting
  rw [hp]
  dsimp only
  rw [if_pos hopen]
  rfl

theorem offerProbe_packet (s : State) (p : Packet) : (offerProbe s p).2.seq = p.seq ∧ (offerProbe s p).2.desc = p.desc ∧
    (offerProbe s p).2.handle = p.handle ∧ (offerProbe s p).2.src = p.src := by
  unfold offerProbe
  dsimp only
  repeat' split
  all_goals exact ⟨rfl, rfl, rfl, rfl⟩

theorem getReorder_setReorder (s : State) (m : Nat) {l : List SeqEnt} (h : l ≠ []) : getReorder (setReorder s m l) m = l :=
  tblGet_tblSet_self' _ h _ _

/-! ### Wait limits and the reorder stage -/

theorem find_beq_eq (l : List Packet) (m : Nat) : l.find? (fun p => p.src == m) = l.find? (fun p => decide (p.src = m)) := by
  simp only [beq_eq_decide]

theorem exec_reorderGap {s : State} {m : Fin 64} {gone l : List SeqEnt} {e : SeqEnt} {t : Nat} (hl : getReorder s m = gone ++ e :: l)
    (hgone : ∀ x ∈ gone, x.ready = none) (he : e.ready = some t) : exec (.reorderGap m) s = .next
      (releaseFront m (e :: l) (bump (advance s (t + s.bench.period * 1000 - s.localNs)) .reorderGap m (gone.filter (fun x => !x.filled)).length)) := by
  have hfind : (gone ++ e :: l).find? (fun e => e.ready.isSome) = some e := by
    rw [List.find?_append, List.find?_eq_none.2 (fun x hx => by simp [hgone x hx]), Option.none_or, List.find?_cons_of_pos (by simp [he])]
  have htake : (gone ++ e :: l).takeWhile (fun e => e.ready.isNone) = gone := by
    rw [List.takeWhile_append_of_pos (fun x hx => by simp [hgone x hx]), List.takeWhile_cons_of_neg (by simp [he]), List.append_nil]
  have hlate : t + tickNs (advance s (t + s.bench.period * 1000 - s.localNs)) ≤ (advance s (t + s.bench.period * 1000 - s.localNs)).localNs := by
    simp only [tickNs, advance]
    omega
  change execReorderGap m s = _
  unfold execReorderGap
  rw [hl, hfind]
  dsimp only
  rw [he, Option.getD_some]
  unfold seqGap
  have hsame : getReorder (advance s (t + tickNs s - s.localNs)) m = gone ++ e :: l := hl
  rw [hsame]
  dsimp only
  rw [htake, List.drop_left]
  dsimp only
  rw [he]
  exact congrArg Host.Outcome.next (if_pos hlate)

/-- Settles O31: numbering hands the oldest waiting frame on, and each limit drops, freezes or passes what outlives it. -/
theorem screenTimers : Obligations.ScreenTimers := by
  unfold Obligations.ScreenTimers
  refine ⟨?_, fun s m p hp => ?_, fun s t p hp => ?_, fun s m gone l e t hl hgone he => exec_reorderGap hl hgone he⟩
  · intro s m p hp hwindow k
    have hopen : windowOpen s m = true := by
      unfold windowOpen
      cases hl : getReorder s m with
      | nil => rfl
      | cons e l => exact decide_eq_true (hwindow e l hl)
    have hscreen : (numbered s m p).1.screen = (counted s m p).screen := (offerProbe_queueOnly _ _).screen
    obtain ⟨hseq, hdesc, hhandle, hsrc⟩ := offerProbe_packet (counted s m p) { p with seq := some (tblGet 0 s.screen.seqCtr m) }
    refine ⟨_, (numbered s m p).2, exec_sequenceAssign (by rw [find_beq_eq]; exact hp) hopen, ?_, ?_, hseq, hdesc, hhandle, hsrc, ?_, ?_⟩
    · exact congrArg Screen.waiting hscreen
    · have hq : (numbered s m p).1.screen.dispatchQ = s.screen.dispatchQ := by
        rw [hscreen]
        rfl
      exact congrArg (· ++ [(numbered s m p).2]) hq
    · exact (congrArg (fun x => tblGet [] (Screen.reorder x) m.val) hscreen).trans (getReorder_setReorder _ _ (by simp))
    · exact congrArg Screen.seqCtr hscreen
  · change execWaitDrop m s = _
    unfold execWaitDrop
    rw [find_beq_eq, hp]
    rfl
  · change execPacketTickOverrun t s = _
    unfold execPacketTickOverrun
    rw [hp]
    rfl

end Sys2Proof.Machine
end

section
/-! PROOFS. The control watchdog while WKR waits to be cleared: the restart empties the key, and the associations of its family, which ends
the frames decided on their port (R421, R462, R465, R474). -/

namespace Sys2Proof.Machine

/-- An association of node 0 whose key was derived from WKR. -/
def rootSa : Sa := { rx := false, node := 0, an := 0, xpn := false, ssci := 0, sci := 0, pn := 1, salt := 0, handle := 10, key := 0, stale := false }

/-- A frame of 64 bytes of queue 0, decided on a port before it begins. -/
def decidedFrame : TxRec :=
  { desc := { haltDesc with idx := 0, queue := 0, len := 64, cells := 1 }, bytes := List.replicate 64 0#8, start := 0, done := 0, express := true, path := [], tc := 0, reads := [], stomp := none,
    halt := false, sa := none, first := 0, cap := none, parked := false, skips := 0, released := false }

/-- A coasting device that enters Returned: WKR is cleared when the signature that runs has ended, and node 0 has decided a frame. -/
def returningState : State :=
  { State.reset with
    triad := { State.reset.triad with coasting := true }
    fence := { State.reset.fence with noTick := 1 }
    gh := { State.reset.gh with wdtEn := true, restartTicks := 0 }
    face := { State.reset.face with sas := [(0, some rootSa)] }
    vault := { State.reset.vault with
      clearAfter := true
      keys := [(0, some { masked := 0, mask := 0, wide := true, exportable := false, parent := 0x100, depth := 0, stale := false }),
        (10, some { masked := 0, mask := 0, wide := true, exportable := false, parent := 0, depth := 1, stale := false })] }
    haul := { State.reset.haul with ports := [(0, { PortRec.reset 0 with decided := some decidedFrame })] } }

/-- The restart takes the decided frame off the port. -/
theorem ctrlWdt_unstarts {s' : State} (h : exec .ctrlWdt returningState = .next s') : (getPort s' 0).decided = none := by
  have hgone : (match exec .ctrlWdt returningState with
    | .next t => decide ((getPort t 0).decided = none)
    | _ => false) = true := by decide +kernel
  rw [h] at hgone
  exact of_decide_eq_true hgone

/-- Refutes O40: the restart by the watchdog abandons the signature that holds off the clearing of WKR, and what WKR's family installed
becomes stale, so that the queues do not stay as they were. -/
theorem not_triadEvents : ¬ Obligations.TriadEvents := by
  rintro ⟨-, -, hwdt, -⟩
  obtain ⟨s', hexec, -, -, -, -, -, -, -, -, -, -, -, -, hhaul, -⟩ := hwdt returningState (by decide +kernel) (by decide +kernel) (by decide +kernel)
    (by decide +kernel) (by decide +kernel) (by decide +kernel) List.Pairwise.nil
  have hkept : (getPort s' 0).decided = some decidedFrame := congrArg (fun h : Haul => (tblGet (PortRec.reset 0) h.ports 0).decided) hhaul
  rw [ctrlWdt_unstarts hexec] at hkept
  cases hkept

end Sys2Proof.Machine
end

section
/-! PROOFS. Option loading, the boot image and the boot watchdog. -/

namespace Sys2Proof.Machine

/-! ### Option loading (R434, R439) -/

theorem optionLoading_accounts (s : State) (b : BitVec 2) (split en : Bool) (hb : b ≠ 3#2) :
    let fresh := !s.gh.bootPending || decide (s.gh.failT + 60 < seconds s)
    let fails := if fresh then 1 else min (s.gh.failStarts + 1) 8
    let s' := optionLoading s b.toNat split en
    s'.gh.relStep = 5 ∧ s'.gh.bootsel = b.toNat ∧ s'.gh.splitStrap = split ∧
      s'.triad.split = split ∧ s'.pair.en = en ∧ s'.pair.role = (if en then .active else .off) ∧ s'.gh.rstCount = min (s.gh.rstCount + 1) 65535 ∧
      s'.gh.failStarts = fails ∧ s'.gh.failT = (if fresh then seconds s else s.gh.failT) ∧ s'.gh.bootPending = true ∧
      s'.gh.mode = (if b = 2#2 ∨ fails = 8 then .recovery else .waking) := by
  have h3 : b.toNat ≠ 3 := fun h => hb (BitVec.eq_of_toNat_eq h)
  have h2 : b.toNat = 2 ↔ b = 2#2 := ⟨fun h => BitVec.eq_of_toNat_eq h, fun h => h ▸ rfl⟩
  have hallowed : (b.toNat == 3 && (lifecycle s == 1 || lifecycle s == 2)) = false := by simp [h3]
  have hfresh : (s.gh.bootPending = false ∨ seconds s > s.gh.failT + 60) ↔
      (!s.gh.bootPending || decide (s.gh.failT + 60 < seconds s)) = true := by simp
  dsimp only
  refine ⟨rfl, rfl, rfl, rfl, rfl, rfl, rfl, ?_, ?_, rfl, ?_⟩
  · exact if_congr hfresh rfl rfl
  · exact if_congr hfresh rfl rfl
  · change startMode _ (if (b.toNat == 3 && (lifecycle s == 1 || lifecycle s == 2)) = true then 0 else b.toNat) = _
    rw [hallowed, startMode]
    simp only [Bool.false_eq_true, if_false, h3, h2]
    exact if_congr (or_congr Iff.rfl (by rw [← if_congr hfresh rfl rfl]; rfl)) rfl rfl

/-! ### The Boot ROM (R477 to R479) -/

/-- What a core has from the section that it enters. -/
def sectionCore (typ : Nat) (pl : BitVec 2) (s : State) (k : Nat) : Option SCore :=
  (bootSection s typ).map fun e =>
    let o := im64 s.vault.boot.header (0x50 + 0x60 * e.1)
    { getCore s k with lmem := memPut (getCore s k).lmem o (e.2.take (localSize k - o)), pc := BitVec.ofNat 64 (2 ^ 63 + o), pl := pl }

theorem perCore_sectionCore (typ : Nat) (pl : BitVec 2) : PerCore (sectionCore typ pl) := by
  intro s j k x h
  have hsection : bootSection (setCore s j x) typ = bootSection s typ := rfl
  unfold sectionCore
  rw [hsection, getCore_setCore_ne _ _ _ _ h]
  rfl

theorem enterSection_eq (s : State) (cores : List Nat) (typ : Nat) (pl : BitVec 2) :
    enterSection s cores typ pl = cores.foldl (updateCore (sectionCore typ pl)) s := by
  unfold enterSection
  cases hsection : bootSection s typ with
  | none =>
    have hnone : ∀ s' k, s'.vault.boot = s.vault.boot → updateCore (sectionCore typ pl) s' k = s' := fun s' k h => by
      have : bootSection s' typ = none := hsection ▸ (by simp only [bootSection, h])
      simp only [updateCore, sectionCore, this, Option.map_none]
    induction cores with
    | nil => rfl
    | cons k l ih => rw [List.foldl_cons, hnone s k rfl]; exact ih
  | some e =>
    obtain ⟨i, b⟩ := e
    have hstep : ∀ s' k, s'.vault.boot = s.vault.boot → updateCore (sectionCore typ pl) s' k = setCore s' k { getCore s' k with
        lmem := memPut (getCore s' k).lmem (im64 s.vault.boot.header (0x50 + 0x60 * i))
          (b.take (localSize k - im64 s.vault.boot.header (0x50 + 0x60 * i)))
        pc := BitVec.ofNat 64 (2 ^ 63 + im64 s.vault.boot.header (0x50 + 0x60 * i)), pl := pl } := fun s' k h => by
      have : bootSection s' typ = some (i, b) := hsection ▸ (by simp only [bootSection, h])
      simp only [updateCore, sectionCore, this, Option.map_some, h]
    have hfold : ∀ (l : List Nat) (s' : State), s'.vault.boot = s.vault.boot → l.foldl (updateCore (sectionCore typ pl)) s' = l.foldl (fun s' k =>
        setCore s' k { getCore s' k with
          lmem := memPut (getCore s' k).lmem (im64 s.vault.boot.header (0x50 + 0x60 * i))
            (b.take (localSize k - im64 s.vault.boot.header (0x50 + 0x60 * i)))
          pc := BitVec.ofNat 64 (2 ^ 63 + im64 s.vault.boot.header (0x50 + 0x60 * i)), pl := pl }) s' := fun l => by
      induction l with
      | nil => exact fun _ _ => rfl
      | cons k l ih =>
        intro s' h
        rw [List.foldl_cons, List.foldl_cons, hstep s' k h]
        exact ih _ h
    exact (hfold cores s rfl).symm

theorem enterSection_cores {s : State} {l : List Nat} (typ : Nat) (pl : BitVec 2) (hl : l.Nodup) (hr : Rising s.cores) :
    let s' := enterSection s l typ pl
    (∀ k ∈ l, getCore s' k = (sectionCore typ pl s k).getD (getCore s k)) ∧ (∀ j, j ∉ l → getCore s' j = getCore s j) ∧
      s' = { s with cores := s'.cores } := by
  rw [enterSection_eq]
  exact foldl_updateCore (perCore_sectionCore typ pl) l s hl hr

/-- The cores, the Gatehouse, the Triad and the booted image stay as they are. -/
abbrev RomKept (s s' : State) : Prop := s'.cores = s.cores ∧ s'.gh = s.gh ∧ s'.triad = s.triad ∧ s'.vault.boot = s.vault.boot

theorem RomKept.refl (s : State) : RomKept s s := ⟨rfl, rfl, rfl, rfl⟩

theorem RomKept.trans {a b c : State} (hab : RomKept a b) (hbc : RomKept b c) : RomKept a c := by
  unfold RomKept at *
  simp [hab, hbc]

theorem RomKept.foldl {β : Type} {f : State → β → State} (hf : ∀ s x, RomKept s (f s x)) : ∀ (l : List β) (s : State), RomKept s (l.foldl f s)
  | [], s => .refl s
  | x :: l, s => (hf s x).trans (RomKept.foldl hf l (f s x))

theorem DataOnly.romKept {s s' : State} (h : DataOnly s s') : RomKept s s' := by
  obtain ⟨hcores, hvault, -, -, -, -, htriad, hgh, -⟩ := h
  exact ⟨hcores, hgh, htriad, congrArg Vault.boot hvault⟩

theorem setKey_romKept (s : State) (h : Nat) (k : Option VKey) : RomKept s (setKey s h k) := ⟨rfl, rfl, rfl, rfl⟩

theorem staleSa_romKept (s : State) (i : Nat) (a : Sa) : RomKept s (staleSa s i a) :=
  (unstart_data s a.node (fun _ => true)).romKept.trans ⟨rfl, rfl, rfl, rfl⟩

theorem staleSas_romKept (s : State) (l : List Nat) : RomKept s (staleSas s l) := by
  refine RomKept.trans (RomKept.foldl (fun s e => ?_) s.face.sas s) ⟨rfl, rfl, rfl, rfl⟩
  repeat' split
  · exact staleSa_romKept ..
  · exact .refl s
  · exact .refl s

theorem invalidateKey_romKept (s : State) (h : Nat) : RomKept s (invalidateKey s h) := by
  refine ((RomKept.foldl (fun s i => ?_) _ s).trans (staleSas_romKept _ _)).trans (setKey_romKept _ h none)
  split
  · exact setKey_romKept ..
  · exact .refl s

theorem storeKey_romKept (s : State) (h v : Nat) (wide exportable : Bool) (parent depth : Nat) :
    RomKept s (storeKey s h v wide exportable parent depth) := ⟨rfl, rfl, rfl, rfl⟩

theorem reload'_romKept (s : State) (h v : Nat) (wide exportable : Bool) (parent depth : Nat) :
    RomKept s (reload' s h v wide exportable parent depth) := by
  unfold reload'
  split
  · exact (invalidateKey_romKept s h).trans (storeKey_romKept ..)
  · exact storeKey_romKept ..

theorem romRoot_romKept (s : State) : RomKept s (romRoot s) := by
  unfold romRoot
  repeat' split
  · exact .refl s
  · exact reload'_romKept ..
  · exact .refl s

theorem romIdk_romKept (s : State) : RomKept s (romIdk s) := by
  unfold romIdk
  repeat' split
  · exact reload'_romKept ..
  · exact .refl s
  · exact .refl s

theorem foldl_updateCore_rising (g : State → Nat → Option SCore) : ∀ (l : List Nat) {s : State}, Rising s.cores →
    Rising (l.foldl (updateCore g) s).cores
  | [], _, h => h
  | k :: l, _, h => foldl_updateCore_rising g l (updateCore_rising g k h)

theorem enterSection_rising {s : State} (l : List Nat) (typ : Nat) (pl : BitVec 2) (h : Rising s.cores) :
    Rising (enterSection s l typ pl).cores := by
  rw [enterSection_eq]
  exact foldl_updateCore_rising _ l h

theorem romControl_enters {s : State} (hr : Rising s.cores) :
    Rising (romControl s).cores ∧ (romControl s).gh = s.gh ∧ (romControl s).triad = s.triad ∧ (romControl s).vault.boot = s.vault.boot ∧
      (∀ k, k < 3 → getCore (romControl s) k = (sectionCore 1 2#2 s k).getD (getCore s k)) ∧
      ∀ k, 3 ≤ k → getCore (romControl s) k = getCore s k := by
  obtain ⟨hcores, hgh, htriad, hboot⟩ := (romRoot_romKept s).trans (romIdk_romKept (romRoot s))
  have hrom : romControl s = enterSection (romIdk (romRoot s)) [0, 1, 2] 1 2#2 := rfl
  generalize romIdk (romRoot s) = t at hcores hgh htriad hboot hrom
  have hcore (k : Nat) : getCore t k = getCore s k := congrArg (tblGet (SCore.reset k) · k) hcores
  have hsec (k : Nat) : sectionCore 1 2#2 t k = sectionCore 1 2#2 s k := by
    simp only [sectionCore, bootSection, hboot, hcore]
  have hrt : Rising t.cores := by
    rw [hcores]
    exact hr
  obtain ⟨hmine, hothers, hrest⟩ := enterSection_cores (l := [0, 1, 2]) 1 2#2 (by decide) hrt
  have hrising := enterSection_rising [0, 1, 2] 1 2#2 hrt
  rw [hrom]
  refine ⟨hrising, ?_, ?_, ?_, fun k hk => ?_, fun k hk => ?_⟩
  · rw [hrest]
    exact hgh
  · rw [hrest]
    exact htriad
  · rw [hrest]
    exact hboot
  · rw [hmine k (by simp; omega), hsec, hcore]
  · rw [hothers k (by simp; omega), hcore]

theorem romTally_enters {s : State} (hr : Rising s.cores) :
    (romTally s).gh = s.gh ∧ (romTally s).vault.boot = s.vault.boot ∧ ((bootSection s 2).isSome = true → (romTally s).host.tallyWait = false) ∧
      (∀ k, k < 3 → getCore (romTally s) k = getCore s k) ∧
      ∀ k, 3 ≤ k → k < 7 → getCore (romTally s) k = (sectionCore 2 1#2 s k).getD (getCore s k) := by
  unfold romTally
  by_cases hsec : (bootSection s 2).isSome = true
  · obtain ⟨hmine, hothers, hrest⟩ := enterSection_cores (l := [3, 4, 5, 6]) 2 1#2 (by decide) hr
    rw [if_pos hsec]
    generalize enterSection s [3, 4, 5, 6] 2 1#2 = t at hmine hothers hrest
    have hgh : t.gh = s.gh := by rw [hrest]
    have hvault : t.vault = s.vault := by rw [hrest]
    exact ⟨hgh, congrArg Vault.boot hvault, fun _ => rfl, fun k hk => hothers k (by simp; omega), fun k h3 h7 => hmine k (by simp; omega)⟩
  · rw [if_neg hsec]
    refine ⟨rfl, rfl, fun h => absurd h hsec, fun _ _ => rfl, fun k _ _ => ?_⟩
    rw [Option.not_isSome_iff_eq_none] at hsec
    rw [sectionCore, hsec]
    rfl

theorem foldl_updateCore_rest (g : State → Nat → Option SCore) : ∀ (l : List Nat) (s : State),
    l.foldl (updateCore g) s = { s with cores := (l.foldl (updateCore g) s).cores }
  | [], _ => rfl
  | k :: l, s => by
    have hrest := foldl_updateCore_rest g l (updateCore g s k)
    have hfirst := updateCore_rest g s k
    rw [List.foldl_cons]
    generalize l.foldl (updateCore g) (updateCore g s k) = s' at hrest ⊢
    rw [hrest, hfirst]

theorem enterSection_frame (s : State) (l : List Nat) (typ : Nat) (pl : BitVec 2) :
    (enterSection s l typ pl).gh = s.gh ∧ (enterSection s l typ pl).vault = s.vault := by
  rw [enterSection_eq, foldl_updateCore_rest]
  exact ⟨rfl, rfl⟩

theorem romControl_frame (s : State) : (romControl s).gh = s.gh ∧ (romControl s).vault.boot = s.vault.boot := by
  obtain ⟨-, hgh, -, hboot⟩ := (romRoot_romKept s).trans (romIdk_romKept (romRoot s))
  have hrom : romControl s = enterSection (romIdk (romRoot s)) [0, 1, 2] 1 2#2 := rfl
  rw [hrom]
  generalize romIdk (romRoot s) = t at hgh hboot
  obtain ⟨hghIn, hvaultIn⟩ := enterSection_frame t [0, 1, 2] 1 2#2
  exact ⟨hghIn.trans hgh, by rw [hvaultIn, hboot]⟩

theorem romTally_frame (s : State) : (romTally s).gh = s.gh ∧ (romTally s).vault = s.vault := by
  unfold romTally
  split
  · exact enterSection_frame s [3, 4, 5, 6] 2 1#2
  · exact ⟨rfl, rfl⟩

/-- The Vault's record of the image says that it booted. -/
def markBooted (s : State) : State := { s with vault := { s.vault with boot := { s.vault.boot with booted := true } } }

theorem bootRomRun_eq (s : State) : bootRomRun s = markBooted (romTally (romControl s)) := rfl

theorem markBooted_frame (s : State) : (markBooted s).gh = s.gh ∧ (markBooted s).vault.boot = { s.vault.boot with booted := true } ∧
    (markBooted s).host = s.host ∧ ∀ k, getCore (markBooted s) k = getCore s k := ⟨rfl, rfl, rfl, fun _ => rfl⟩

theorem bootRomRun_frame (s : State) : (bootRomRun s).gh = s.gh ∧ (bootRomRun s).vault.boot = { s.vault.boot with booted := true } := by
  obtain ⟨hgh, hboot⟩ := romControl_frame s
  rw [bootRomRun_eq]
  generalize romControl s = u at hgh hboot
  obtain ⟨hgh2, hvault2⟩ := romTally_frame u
  generalize romTally u = v at hgh2 hvault2
  obtain ⟨hghv, hbootv, -⟩ := markBooted_frame v
  exact ⟨hghv.trans (hgh2.trans hgh), by rw [hbootv, hvault2, hboot]⟩

/-- The Boot ROM keeps the Gatehouse, and enters the sections on the cores that they are for. -/
theorem bootRomRun_enters {s : State} (hr : Rising s.cores) :
    (bootRomRun s).gh = s.gh ∧ (bootRomRun s).vault.boot = { s.vault.boot with booted := true } ∧
      ((bootSection s 2).isSome = true → (bootRomRun s).host.tallyWait = false) ∧
      (∀ k, k < 3 → getCore (bootRomRun s) k = (sectionCore 1 2#2 s k).getD (getCore s k)) ∧
      ∀ k, 3 ≤ k → k < 7 → getCore (bootRomRun s) k = (sectionCore 2 1#2 s k).getD (getCore s k) := by
  obtain ⟨hrising, hgh, -, hboot, htriad, hothers⟩ := romControl_enters hr
  rw [bootRomRun_eq]
  generalize romControl s = u at hrising hgh hboot htriad hothers
  obtain ⟨hgh2, hboot2, hwait, hlow, htally⟩ := romTally_enters hrising
  generalize romTally u = v at hgh2 hboot2 hwait hlow htally
  obtain ⟨hghv, hbootv, hhostv, hcorev⟩ := markBooted_frame v
  have hsec : bootSection u 2 = bootSection s 2 := by simp only [bootSection, hboot]
  refine ⟨hghv.trans (hgh2.trans hgh), ?_, fun h => ?_, fun k hk => ?_, fun k h3 h7 => ?_⟩
  · rw [hbootv, hboot2, hboot]
  · rw [hhostv]
    exact hwait (by rw [hsec]; exact h)
  · rw [hcorev, hlow k hk, htriad k hk]
  · rw [hcorev, htally k h3 h7]
    simp only [sectionCore, bootSection, hboot, hothers k h3]

/-! ### The Boot ROM's check -/

/-- An image whose header and sections passed boots, unless the Triad has failed or it did so before. -/
theorem romCheck_good {s : State} (hrel : s.gh.relStep = 0) (hheader : s.vault.boot.headerOk = true) (hsound : s.vault.boot.sound = true)
    (hbooted : s.vault.boot.booted = false) : romCheck s = if s.triad.fault = true then s else bootRomRun s := by
  unfold romCheck
  dsimp only
  rw [if_neg (by simp [inReset, hrel]), if_pos ⟨hheader, hsound⟩]
  simp [hbooted]

/-- An image that does not pass gives way to the next, or to source ROM. -/
theorem romCheck_bad {s : State} (hrel : s.gh.relStep = 0) (hbad : ¬ (s.vault.boot.headerOk = true ∧ s.vault.boot.sound = true)) : romCheck s =
    (if imageCount s > 0 ∧ s.vault.boot.tries ≥ imageCount s then
      raiseReset { s with vault := { s.vault with boot := { s.vault.boot with headerOk := false } } } 8
    else { s with vault := { s.vault with boot := { s.vault.boot with headerOk := false } } }) := by
  unfold romCheck
  dsimp only
  rw [if_neg (by simp [inReset, hrel]), if_neg hbad]
  rfl

/-! ### DRAM readiness (R438) -/

/-- The time unit starts from 0 and the release ends. -/
def dramOn (s : State) : State := { s with
  gh := { s.gh with relStep := 0, seen := 0, pgFails := 0, timerAt := none }
  time := { s.time with t0 := { TimeBase.stopped with running := true } }
  bench := { s.bench with running := true, startNs := 0, startLocal := s.localNs }
  vault := { s.vault with remaskAt := s.localNs } }

/-- The device as DRAM is ready, before the Boot ROM runs. -/
def dramReady (s : State) : State := postTrims ((List.range 7).foldl resetCore (dramOn s))

theorem dramReady_frame {s : State} (hr : Rising s.cores) :
    (dramReady s).gh = (dramOn s).gh ∧ (dramReady s).triad = s.triad ∧ (dramReady s).bench = (dramOn s).bench ∧ (dramReady s).time = (dramOn s).time ∧
      (dramReady s).vault = (dramOn s).vault ∧ Rising (dramReady s).cores ∧
      ∀ k < 7, getCore (dramReady s) k = { SCore.reset k with startNs := s.localNs } := by
  obtain ⟨hmine, -, hrest⟩ := foldl_resetCore (List.range 7) (s := dramOn s) (List.nodup_range) hr
  have hrising : Rising ((List.range 7).foldl resetCore (dramOn s)).cores := foldl_updateCore_rising coreReset (List.range 7) hr
  unfold dramReady
  generalize (List.range 7).foldl resetCore (dramOn s) = t at hmine hrest hrising
  obtain ⟨-, -, -, hbench, -, hcores, -, -, -, -, -, -, -, -, htime, htriad, -, -, -, -, -, hgh, hvault, -⟩ := postTrims_frame t
  rw [hgh, htriad, hbench, htime, hvault, hcores]
  refine ⟨?_, ?_, ?_, ?_, ?_, hrising, fun k hk => ?_⟩
  · rw [hrest]
  · rw [hrest]
    rfl
  · rw [hrest]
  · rw [hrest]
  · rw [hrest]
  · exact (congrArg (tblGet (SCore.reset k) · k) hcores).trans (hmine k (List.mem_range.2 hk))

theorem exec_dramInitDone {s : State} (hrel : s.gh.relStep = 5) (hasserted : s.gh.asserted = 0) (hpg : bitOf s.gh.pgood 5 = true)
    (hvoter : s.triad.voter = .sound) (hr : Rising s.cores) : exec .dramInitDone s = .next (romCheck (dramReady s)) := by
  obtain ⟨-, htriad, -⟩ := dramReady_frame hr
  have hpass : ¬ selfTestFails (dramReady s).triad.voter = true := by
    rw [htriad, hvoter]
    decide
  change execDramInitDone s = _
  unfold execDramInitDone
  rw [if_neg (by simp [hrel, hasserted, hpg])]
  exact congrArg (fun t => Host.Outcome.next (romCheck t)) (if_neg hpass)

/-! ### The boot image (R477 to R479) -/

theorem applyPreset_none {s : State} {h : List Byte} {p : List (List Byte)} (hnone : ∀ i < suhildSections h, secType h i ≠ 4) :
    applyPreset s h p = s := by
  unfold applyPreset
  rw [List.find?_eq_none.2 (fun i hi => by simpa using hnone i (List.mem_range.1 hi))]

/-- A section that a core entered is at its TARGET in the core's memory, as far as that goes. -/
theorem sectionCore_entered {s : State} {typ i : Nat} {b : List Byte} (hsec : bootSection s typ = some (i, b)) (pl : BitVec 2) {k : Nat}
    (hwf : memWf (getCore s k).lmem = true) :
    let o := im64 s.vault.boot.header (0x50 + 0x60 * i)
    let c := (sectionCore typ pl s k).getD (getCore s k)
    c.pc = BitVec.ofNat 64 (2 ^ 63 + o) ∧ c.pl = pl ∧ ∀ j < b.length, o + j < localSize k → memGet c.lmem (o + j) = b.getD j 0#8 := by
  unfold sectionCore
  rw [hsec]
  refine ⟨rfl, rfl, fun j hj hin => ?_⟩
  dsimp only [Option.map_some, Option.getD_some]
  rw [memGet_memPut_in _ _ _ hwf (by rw [List.length_take]; omega), List.getD_eq_getElem?_getD, List.getD_eq_getElem?_getD, List.getElem?_take,
    if_pos (by omega)]

/-- The header of an image to try in Waking holds: its format, its anchor, its version and its signature. -/
def headerGood (s : State) (h : List Byte) : Bool :=
  headerFormat h [1] && anchored s 2 (suhildModulus h) && svnOk s h && headerSigned h

/-- What the Vault records of an image that was tried in Waking. -/
def bootTried (s : State) (h : List Byte) (p : List (List Byte)) : BootInfo :=
  if headerGood s h then
    { measure := (sha512 (imgBytes h 0 0x540)).toNat, svn := im32 h 8, slot := match inForce s 2 with | some (i, _) => i | none => 0
      headerOk := true, sound := (List.range (suhildSections h)).all (sectionOk (2 ^ 24) h p)
      spall := (List.range (suhildSections h)).any (fun i => secType h i == 3), tries := s.vault.boot.tries + 1
      place := 0x1000000 * s.vault.boot.tries, header := imgBytes h 0 1856, secs := p, booted := false }
  else { s.vault.boot with tries := s.vault.boot.tries + 1 }

section
variable {s : State} {h : List Byte} {p : List (List Byte)}

theorem bootTried_tries : (bootTried s h p).tries = s.vault.boot.tries + 1 := by
  unfold bootTried
  split <;> rfl

theorem bootTried_good (hg : headerGood s h = true) : (bootTried s h p).svn = im32 h 8 ∧
    (bootTried s h p).measure = (sha512 (imgBytes h 0 0x540)).toNat ∧ (bootTried s h p).place = 0x1000000 * s.vault.boot.tries := by
  unfold bootTried
  rw [if_pos hg]
  exact ⟨rfl, rfl, rfl⟩

/-- The image is accepted when its header holds and every section is the one that the header names. -/
theorem bootTried_whole (hheader : s.vault.boot.headerOk = false) : ((bootTried s h p).headerOk = true ∧ (bootTried s h p).sound = true) ↔
    (headerGood s h && (List.range (suhildSections h)).all (sectionOk (2 ^ 24) h p)) = true := by
  unfold bootTried
  by_cases hg : headerGood s h = true
  · rw [if_pos hg, hg, Bool.true_and]
    exact and_iff_right rfl
  · simp [hg, hheader]

theorem bootTried_booted (hbooted : s.vault.boot.booted = false) : (bootTried s h p).booted = false := by
  unfold bootTried
  split
  · rfl
  · exact hbooted

/-- An accepted image boots unless the Triad has failed. -/
theorem bootHeader_accepted (hrel : s.gh.relStep = 0) (hheader : s.vault.boot.headerOk = false) (hbooted : s.vault.boot.booted = false)
    (hwhole : (headerGood s h && (List.range (suhildSections h)).all (sectionOk (2 ^ 24) h p)) = true) :
    let s' := romCheck { s with vault := { s.vault with boot := bootTried s h p } }
    s'.gh = s.gh ∧ s'.vault.boot = { bootTried s h p with booted := !s.triad.fault } ∧
      (s.triad.fault = true → s' = { s with vault := { s.vault with boot := bootTried s h p } }) := by
  obtain ⟨hok, hsound⟩ := (bootTried_whole hheader).2 hwhole
  have hcheck := romCheck_good (s := { s with vault := { s.vault with boot := bootTried s h p } }) hrel hok hsound (bootTried_booted hbooted)
  obtain ⟨hgh, hboot⟩ := bootRomRun_frame { s with vault := { s.vault with boot := bootTried s h p } }
  dsimp only
  rw [hcheck]
  cases hfault : s.triad.fault with
  | true => exact ⟨rfl, by simp [← bootTried_booted (h := h) (p := p) hbooted], fun _ => rfl⟩
  | false => exact ⟨hgh, hboot, fun h => absurd h Bool.false_ne_true⟩

theorem exec_bootHeaderVerified (hasserted : s.gh.asserted = 0) (hrel : s.gh.relStep = 0) (hmode : s.gh.mode = .waking)
    (hresume : s.gh.resuming = false) (hsel : s.gh.bootsel = 0) (hheader : s.vault.boot.headerOk = false) (htries : s.vault.boot.tries < 2)
    (hnone : ∀ i < suhildSections h, secType h i ≠ 4) : exec (.bootHeaderVerified h p) s = .next
      (romCheck { s with vault := { s.vault with boot := bootTried s h p } }) := by
  have hcount : imageCount s = 2 := by simp [imageCount, hmode, hsel]
  have hhost : hostImage s = false := by simp [hostImage, hsel]
  have hbound : imageBound s = 2 ^ 24 := if_neg (by simp [hhost])
  have hplace : imagePlace s = 0x1000000 * s.vault.boot.tries := by simp [imagePlace, hmode, hhost]
  have hgood : (headerFormat h [1] && decide (1856 ≤ 2 ^ 24) && anchored s 2 (suhildModulus h) && svnOk s h && headerSigned h) = headerGood s h := by
    rw [headerGood, decide_eq_true (by decide : 1856 ≤ 2 ^ 24), Bool.and_true]
  have hwaking : (s.gh.mode == Mode.recovery) = false := by simp [hmode]
  change execBootHeaderVerified h p s = _
  unfold execBootHeaderVerified
  dsimp only
  rw [if_pos ⟨⟨hasserted, .inl hrel, .inl hmode, hresume⟩, hheader, by omega, .inl hhost⟩]
  unfold bootHeader
  simp only [hwaking, Bool.false_eq_true, if_false, hgood, hbound, hplace]
  by_cases hg : headerGood s h = true
  · simp only [hg, bootTried, if_true, applyPreset_none hnone] <;> rfl
  · simp only [hg, bootTried, if_false, Bool.false_eq_true]

theorem bootHeader_refused (hrel : s.gh.relStep = 0) (hheader : s.vault.boot.headerOk = false)
    (hwhole : (headerGood s h && (List.range (suhildSections h)).all (sectionOk (2 ^ 24) h p)) = false) :
    romCheck { s with vault := { s.vault with boot := bootTried s h p } } =
      if imageCount s > 0 ∧ s.vault.boot.tries + 1 ≥ imageCount s then
        raiseReset { s with vault := { s.vault with boot := { bootTried s h p with headerOk := false } } } 8
      else { s with vault := { s.vault with boot := { bootTried s h p with headerOk := false } } } := by
  have hbad : ¬ ((bootTried s h p).headerOk = true ∧ (bootTried s h p).sound = true) := by
    rw [bootTried_whole hheader, hwhole]
    exact Bool.false_ne_true
  rw [romCheck_bad (s := { s with vault := { s.vault with boot := bootTried s h p } }) hrel hbad]
  dsimp only
  rw [bootTried_tries]
  rfl

end

theorem exec_bootWdt {s : State} (hpending : s.gh.bootPending = true) (hasserted : s.gh.asserted = 0) (hmode : s.gh.mode = .waking) :
    exec .bootWdt s = .next (raiseReset (advance s (s.gh.wakingAt + s.gh.bootLimit * 1000000000 - s.localNs)) 7) := by
  change execBootWdt s = _
  unfold execBootWdt
  rw [if_neg (by simp [hpending, hasserted, hmode])]

/-- The boot watchdog is a source of reach 3, whenever it comes. -/
theorem raiseReset_boot {s : State} (n : Nat) (hasserted : s.gh.asserted = 0) (hrel : s.gh.relStep = 0) (hmode : s.gh.mode = .waking)
    (hsleep : s.gh.sleepState ≠ .committed) : ResetHeld (advance s n) (raiseReset (advance s n) 7) 3 ∧
      (raiseReset (advance s n) 7).gh.asserted = 2 ^ 7 ∧ bitOf (raiseReset (advance s n) 7).gh.rstCause 7 = true := by
  have hgh : (advance s n).gh = s.gh := rfl
  generalize advance s n = u at hgh ⊢
  obtain ⟨hheld, hsource, hcause, -⟩ := raiseReset_held (s := u) (i := 7) rfl (by decide) (by rw [hgh]; exact hrel) (by simp [hgh, hmode])
    (by simp [hgh, hmode]) (by rw [hgh]; exact hsleep)
  refine ⟨hheld, by rw [hsource, hgh, hasserted, Nat.zero_or], ?_⟩
  rw [hcause, testBit_eq_bitOf, Nat.testBit_or, Nat.testBit_two_pow_self, Bool.or_true]

/-- Settles O54: the start accounts for itself, DRAM readiness and an accepted image start the cores, and what fails raises its source. -/
theorem startEvents : Obligations.StartEvents := by
  unfold Obligations.StartEvents
  refine ⟨?_, ?_, ?_, ?_, ?_⟩
  · intro s b split en hasserted hrel hb fresh fails
    exact ⟨_, congrArg Host.Outcome.next (if_pos ⟨hasserted, .inl hrel⟩), optionLoading_accounts s b split en hb⟩
  · intro s hrel hasserted hpg hvoter htries hheader hr
    obtain ⟨hgh, htriad, hbench, htime, hvault, hrising, hcores⟩ := dramReady_frame hr
    have hexec := exec_dramInitDone hrel hasserted hpg hvoter hr
    have hboot : (dramReady s).vault.boot = s.vault.boot := by
      rw [hvault]
      rfl
    have hrelReady : (dramReady s).gh.relStep = 0 := by
      rw [hgh]
      rfl
    generalize dramReady s = u at *
    rw [romCheck_bad hrelReady (by rw [hboot, hheader]; simp), if_neg (by rw [hboot, htries]; omega)] at hexec
    refine ⟨_, hexec, hrelReady, ?_, ?_, ?_, ?_, ?_, fun k hk => hcores k hk⟩
    · exact (congrArg Bench.running hbench).trans rfl
    · exact (congrArg Bench.startNs hbench).trans rfl
    · exact (congrArg Bench.tickCount hbench).trans rfl
    · exact (congrArg TimeUnit.t0 htime).trans rfl
    · exact (congrArg Vault.remaskAt hvault).trans rfl
  · intro s hrel hasserted hpg hvoter hfault hheader hsound hbooted hr
    obtain ⟨hgh, htriad, -, -, hvault, hrising, hcores⟩ := dramReady_frame hr
    have hexec := exec_dramInitDone hrel hasserted hpg hvoter hr
    have hboot : (dramReady s).vault.boot = s.vault.boot := by
      rw [hvault]
      rfl
    have hrelReady : (dramReady s).gh.relStep = 0 := by
      rw [hgh]
      rfl
    generalize dramReady s = u at *
    have hcheck : romCheck u = bootRomRun u := (romCheck_good hrelReady (by rw [hboot]; exact hheader) (by rw [hboot]; exact hsound)
      (by rw [hboot]; exact hbooted)).trans (if_neg (by rw [htriad, hfault]; decide))
    rw [hcheck] at hexec
    obtain ⟨hghRun, hbootRun, hwait, hlow, htally⟩ := bootRomRun_enters hrising
    have hsec (typ : Nat) : bootSection u typ = bootSection s typ := by simp only [bootSection, hboot]
    have hwf (k : Nat) (hk : k < 7) : memWf (getCore u k).lmem = true := by
      rw [hcores k hk]
      unfold SCore.reset
      split <;> rfl
    refine ⟨_, hexec, by rw [hghRun]; exact hrelReady, by rw [hbootRun, hboot], ?_, fun h => hwait (by rw [hsec]; exact h)⟩
    intro k i b typ hk hbs o
    rcases hk with ⟨rfl, hk⟩ | ⟨rfl, h3, h7⟩
    · obtain ⟨hpc, hpl, hmem⟩ := sectionCore_entered ((hsec 1).trans hbs) 2#2 (hwf k (by omega))
      rw [hboot] at hpc hmem
      rw [hlow k hk, if_pos hk]
      exact ⟨hpc, hpl, hmem⟩
    · obtain ⟨hpc, hpl, hmem⟩ := sectionCore_entered ((hsec 2).trans hbs) 1#2 (hwf k h7)
      rw [hboot] at hpc hmem
      rw [htally k h3 h7, if_neg (by omega)]
      exact ⟨hpc, hpl, hmem⟩
  · intro s hpending hasserted hrel hmode hsleep
    exact ⟨_, exec_bootWdt hpending hasserted hmode, raiseReset_boot _ hasserted hrel hmode hsleep⟩
  · intro s h p hasserted hrel hmode hresume hsel hheader htries hbooted hnone good whole
    have hexec := exec_bootHeaderVerified (p := p) hasserted hrel hmode hresume hsel hheader htries hnone
    cases hwhole : whole with
    | true =>
      obtain ⟨hgh, hboot, hstay⟩ := bootHeader_accepted (p := p) hrel hheader hbooted hwhole
      have hgood : headerGood s h = true := (Bool.and_eq_true _ _ ▸ hwhole).1
      obtain ⟨hsvn, hmeasure, hplace⟩ := bootTried_good (p := p) hgood
      obtain ⟨hok, -⟩ := (bootTried_whole (p := p) hheader).2 hwhole
      generalize romCheck { s with vault := { s.vault with boot := bootTried s h p } } = u at hexec hgh hboot hstay
      refine ⟨fun htries => ⟨u, hexec, ?_⟩, fun htries hsleep => ⟨u, hexec, ?_⟩⟩
      · refine ⟨by rw [hboot]; exact hok, by rw [hboot, bootTried_tries, htries], by rw [hboot, Bool.true_and], fun _ => ?_, fun h => ?_⟩
        · rw [hboot]
          exact ⟨hsvn, hmeasure, by rw [hplace, htries, Nat.mul_zero]⟩
        · have hsame := hstay (h.resolve_left (by decide))
          rw [hsame]
      · rw [hgh, hboot, if_pos rfl, if_pos rfl]
        exact ⟨hrel, hasserted, fun _ => ⟨hok, by rw [hplace, htries, Nat.mul_one]⟩, fun h => absurd h (by decide)⟩
    | false =>
      have hcount : imageCount s = 2 := by simp [imageCount, hmode, hsel]
      have hrefused := bootHeader_refused (p := p) hrel hheader hwhole
      rw [hcount] at hrefused
      rw [hrefused] at hexec
      refine ⟨fun htries => ⟨_, hexec, ?_⟩, fun htries hsleep => ⟨_, hexec, ?_⟩⟩
      · rw [if_neg (by omega)]
        refine ⟨rfl, ?_, ?_, fun hg => ?_, fun _ => rfl⟩
        · exact (bootTried_tries (p := p)).trans (by rw [htries])
        · exact (bootTried_booted (p := p) hbooted).trans (Bool.false_and _).symm
        · obtain ⟨hsvn, hmeasure, hplace⟩ := bootTried_good (p := p) hg
          exact ⟨hsvn, hmeasure, hplace.trans (by rw [htries])⟩
      · rw [if_pos (by omega)]
        obtain ⟨hheld, hsource, hcause, -⟩ := raiseReset_held (s := { s with vault := { s.vault with boot := { bootTried s h p with headerOk := false } } })
          (i := 8) rfl (by decide) hrel (by simp [hmode]) (by simp [hmode]) hsleep
        obtain ⟨hheldRel, -⟩ := hheld.held
        refine ⟨hheldRel, ?_, fun h => absurd h (by decide), fun _ => ?_⟩
        · rw [hsource]
          simp [hasserted]
        · rw [hcause, testBit_eq_bitOf, Nat.testBit_or, Nat.testBit_two_pow_self, Bool.or_true]

end Sys2Proof.Machine
end

section
/-! PROOFS. What the flush of a port and the end of its frames leave unchanged (R206, R241, R244). -/

namespace Sys2Proof.Machine

/-- Only the queues, the store of frames, the counters, the events, the packets' own records and the packet numbers of the associations
change from s to s'. -/
def EgressOnly (s s' : State) : Prop :=
  s' = { s with
    stock := s'.stock, hopper := s'.hopper, haul := s'.haul, counters := s'.counters, events := s'.events
    screen := { s.screen with dispatchQ := s'.screen.dispatchQ, waiting := s'.screen.waiting }
    engine := { s.engine with threads := s'.engine.threads }, face := { s.face with sas := s'.face.sas, sasOld := s'.face.sasOld } }

theorem EgressOnly.refl (s : State) : EgressOnly s s := rfl

theorem EgressOnly.trans {a b c : State} (hab : EgressOnly a b) (hbc : EgressOnly b c) : EgressOnly a c := by
  unfold EgressOnly at *
  rw [hbc, hab]

theorem EgressOnly.foldl {β : Type} {f : State → β → State} (hf : ∀ s x, EgressOnly s (f s x)) : ∀ (l : List β) (s : State), EgressOnly s (l.foldl f s)
  | [], s => .refl s
  | x :: l, s => (hf s x).trans (EgressOnly.foldl hf l (f s x))

theorem QueueOnly.egress {s s' : State} (h : QueueOnly s s') : EgressOnly s s' := by
  unfold QueueOnly at h
  rw [h]
  rfl

theorem EgressOnly.gh {s s' : State} (h : EgressOnly s s') : s'.gh = s.gh := by
  unfold EgressOnly at h
  rw [h]

theorem EgressOnly.bench {s s' : State} (h : EgressOnly s s') : s'.bench = s.bench := by
  unfold EgressOnly at h
  rw [h]

theorem EgressOnly.localNs {s s' : State} (h : EgressOnly s s') : s'.localNs = s.localNs := by
  unfold EgressOnly at h
  rw [h]

theorem EgressOnly.berm {s s' : State} (h : EgressOnly s s') : s'.berm = s.berm := by
  unfold EgressOnly at h
  rw [h]

theorem EgressOnly.ports {s s' : State} (h : EgressOnly s s') : s'.face.ports = s.face.ports := by
  unfold EgressOnly at h
  rw [h]

theorem EgressOnly.fabric {s s' : State} (h : EgressOnly s s') : s'.fabric = s.fabric := by
  unfold EgressOnly at h
  rw [h]

/-! ### Ports and buckets -/

theorem bump_egress (s : State) (c : Ctr) (i n : Nat) : EgressOnly s (bump s c i n) := rfl

theorem setPort_egress (s : State) (m : Nat) (x : PortRec) : EgressOnly s (setPort s m x) := rfl

theorem postEvent_egress (s : State) (n : Nat) (p : List Nat) : EgressOnly s (postEvent s n p) := by
  unfold postEvent
  dsimp only
  repeat' split
  all_goals rfl

theorem chargeNode_egress (s : State) (level i : Nat) (green : Bool) (n : Int) : EgressOnly s (chargeNode s level i green n) := rfl

theorem chargeRelease_egress (s : State) (q : Nat) (n : Int) : EgressOnly s (chargeRelease s q n) := rfl

theorem refundTx_egress (s : State) (x : TxRec) (n : Int) : EgressOnly s (refundTx s x n) := by
  have hpath : EgressOnly s (x.path.foldl (fun s e => chargeNode s e.1 e.2.1 e.2.2 (-n)) s) := .foldl (fun s e => chargeNode_egress ..) _ _
  unfold refundTx
  dsimp only
  split
  · exact hpath.trans (chargeRelease_egress ..)
  · exact hpath

theorem restorePn_egress (s : State) (m : Nat) (t : TxRec) : EgressOnly s (restorePn s m t) := rfl

theorem putBack_egress (s : State) (m : Nat) (t : TxRec) : EgressOnly s (putBack s m t) := by
  unfold putBack
  dsimp only
  have hback := fun n => ((refundTx_egress s t n).trans (restorePn_egress _ m t)).trans (setFrames_queueOnly _ t.desc.queue
    (t.desc :: (getQueue (restorePn (refundTx s t n) m t) t.desc.queue).frames)).egress
  split
  · exact (hback _).trans (markSpill_queueOnly ..).egress
  · exact hback _

/-- The frame that a port has decided goes back to its queue. -/
def undecide (s : State) (m : Nat) (f : TxRec → Bool) : State := match (getPort s m).decided with
  | some t => if f t then putBack (setPort s m { getPort s m with decided := none }) m t else s
  | none => s

/-- So does one that it has taken and not begun; a halt frame waits again. -/
def untake (s : State) (m : Nat) (f : TxRec → Bool) : State := match (getPort s m).tx with
  | some t =>
    if f t = false ∨ txBegun s m t then s
    else if t.halt then restorePn (setPort s m { getPort s m with tx := none, haltQ := t.bytes :: (getPort s m).haltQ }) m t
    else putBack (setPort s m { getPort s m with tx := none }) m t
  | none => s

theorem unstart_eq (s : State) (m : Nat) (f : TxRec → Bool) : unstart s m f = untake (undecide s m f) m f := rfl

theorem undecide_egress (s : State) (m : Nat) (f : TxRec → Bool) : EgressOnly s (undecide s m f) := by
  unfold undecide
  repeat' split
  · exact (setPort_egress ..).trans (putBack_egress ..)
  · exact .refl s
  · exact .refl s

theorem untake_egress (s : State) (m : Nat) (f : TxRec → Bool) : EgressOnly s (untake s m f) := by
  unfold untake
  repeat' split
  · exact .refl s
  · exact (setPort_egress ..).trans (restorePn_egress ..)
  · exact (setPort_egress ..).trans (putBack_egress ..)
  · exact .refl s

theorem unstart_egress (s : State) (m : Nat) (f : TxRec → Bool) : EgressOnly s (unstart s m f) :=
  (undecide_egress s m f).trans (untake_egress _ m f)

/-! ### Withdrawal (R206) -/

theorem stompTx_egress (s : State) (k : Nat) (t : TxRec) : EgressOnly s (stompTx s k t).1 := refundTx_egress ..

theorem stompSpec_egress (s : State) (m d : Nat) : EgressOnly s (stompSpec s m d) := by
  unfold stompSpec
  dsimp only
  split
  · exact ((stompTx_egress ..).trans (setPort_egress ..)).trans (bump_egress ..)
  · exact ((stompTx_egress ..).trans (setPort_egress ..)).trans (bump_egress ..)
  · exact .refl s

/-- What of a packet's speculation has not begun is back in its queue. -/
def specUnstarted (s : State) (p : Packet) : State := match specPort s p.desc with
  | some m => unstart s m (isSpecTx p.desc)
  | none => s

/-- A packet's speculation is taken off its queue, or stomped. -/
def specEnded (s : State) (p : Packet) : State := match specPort s p.desc with
  | none => bump (setFrames s p.specQueue ((getQueue s p.specQueue).frames.filter (fun d => !(d.idx == p.desc && d.spec)))) .specWithdrawnEarly p.src 1
  | some m =>
    bump (setPort (stompSpec s m p.desc) m { getPort (stompSpec s m p.desc) m with
      ended := (getPort (stompSpec s m p.desc) m).ended.filter (fun t => !isSpecTx p.desc t) }) .specWithdrawnLate p.src 1

theorem withdrawSpec_eq (s : State) (p : Packet) : withdrawSpec s p = specEnded (specUnstarted s p) p := rfl

theorem specUnstarted_egress (s : State) (p : Packet) : EgressOnly s (specUnstarted s p) := by
  unfold specUnstarted
  split
  · exact unstart_egress ..
  · exact .refl s

theorem specEnded_egress (s : State) (p : Packet) : EgressOnly s (specEnded s p) := by
  unfold specEnded
  split
  · exact (setFrames_queueOnly ..).egress.trans (bump_egress ..)
  · exact ((stompSpec_egress ..).trans (setPort_egress ..)).trans (bump_egress ..)

theorem withdrawSpec_egress (s : State) (p : Packet) : EgressOnly s (withdrawSpec s p) :=
  (specUnstarted_egress s p).trans (specEnded_egress _ p)

theorem markWithdrawn_egress (s : State) (d : Nat) : EgressOnly s (markWithdrawn s d) := rfl

theorem withdrawDesc_egress (s : State) (d : Nat) : EgressOnly s (withdrawDesc s d) := by
  unfold withdrawDesc
  split
  · exact (withdrawSpec_egress ..).trans (markWithdrawn_egress ..)
  · exact .refl s

/-! ### The flush of a port (R244) -/

theorem withdrawQueues_egress (s : State) (m : Nat) (qs : List Nat) : EgressOnly s (withdrawQueues s m qs) := by
  unfold withdrawQueues
  dsimp only
  refine ((unstart_egress ..).trans (.foldl (fun s q => ?_) _ _)).trans (.foldl (fun s t => withdrawDesc_egress ..) _ _)
  exact .foldl (fun s d => withdrawDesc_egress ..) _ _

theorem flushQueue_egress (s : State) (q m : Nat) : EgressOnly s (flushQueue s q m).1 := by
  unfold flushQueue
  dsimp only
  refine (((setFrames_queueOnly ..).egress.trans (.foldl (fun s d => ?_) _ _)).trans (bump_egress ..)).trans (bump_egress ..)
  exact (discardDesc_queueOnly ..).egress

theorem foldl_fst_egress {α β : Type} {f : State × β → α → State × β} (hf : ∀ a x, EgressOnly a.1 (f a x).1) :
    ∀ (l : List α) (a : State × β), EgressOnly a.1 (l.foldl f a).1
  | [], a => .refl a.1
  | x :: l, a => (hf a x).trans (foldl_fst_egress hf l (f a x))

theorem flushQueues_egress (s : State) (m : Nat) (qs : List Nat) : EgressOnly s (flushQueues s m qs).1 := by
  unfold flushQueues
  refine (withdrawQueues_egress s m qs).trans (foldl_fst_egress (fun a q => ?_) qs (withdrawQueues s m qs, 0, 0))
  split
  · exact .refl a.1
  · exact flushQueue_egress ..

theorem toHolding_egress (s : State) (q : Nat) : EgressOnly s (toHolding s q) :=
  (setQueue_queueOnly ..).egress.trans (.foldl (fun _ _ => (markSpill_queueOnly ..).egress) _ _)

theorem flushSpoil_egress (s : State) (m : Nat) (qs : List Nat) : EgressOnly s (flushSpoil s m qs) := by
  unfold flushSpoil
  dsimp only
  refine EgressOnly.trans ?_ (bump_egress ..)
  refine EgressOnly.trans ?_ (.foldl (fun _ _ => (discardDesc_queueOnly ..).egress) _ _)
  rfl

theorem portFlush_egress (s : State) (m : Nat) : EgressOnly s (portFlush s m) := by
  unfold portFlush
  dsimp only
  refine ((flushQueues_egress s m (portQueues s m)).trans ?_).trans (postEvent_egress ..)
  refine (EgressOnly.foldl (fun s q => ?_) _ _).trans (flushSpoil_egress ..)
  split
  · exact toHolding_egress ..
  · exact .refl s

/-! ### A port node goes down -/

theorem remarkSpill_egress (s : State) (h : Nat) : EgressOnly s (remarkSpill s h) := by
  unfold remarkSpill
  split
  · exact (markSpill_queueOnly ..).egress
  · exact .refl s

/-- The frame of an abandoned transmission is gone. -/
theorem txGone_egress (s : State) (m : Nat) (t : TxRec) :
    EgressOnly s (if t.halt then s else remarkSpill (discardDesc s m t.desc) t.desc.handle) := by
  split
  · exact .refl s
  · exact (discardDesc_queueOnly ..).egress.trans (remarkSpill_egress ..)

theorem abandonTx_egress (s : State) (m : Nat) (t : TxRec) : EgressOnly s (abandonTx s m t) := by
  have hskip : EgressOnly s (if t.halt = true ∨ t.desc.spec = true then s else bump s .templateSkip m t.skips) := by
    split
    · exact .refl s
    · exact bump_egress ..
  exact (hskip.trans (txGone_egress _ m t)).trans (bump_egress ..)

theorem abandonPort_egress (s : State) (m : Nat) : EgressOnly s (abandonPort s m) := by
  have hopt (s : State) (o : Option TxRec) : EgressOnly s (match o with | some t => abandonTx s m t | none => s) := by
    split
    · exact abandonTx_egress ..
    · exact .refl s
  unfold abandonPort
  dsimp only
  refine EgressOnly.trans ?_ (setPort_egress ..)
  refine EgressOnly.trans ?_ (hopt _ _)
  exact (unstart_egress ..).trans (hopt _ _)

theorem holdUpdate_egress (s : State) (q : Nat) : EgressOnly s (holdUpdate s q) := by
  unfold holdUpdate
  dsimp only
  repeat' split
  case h_2.isFalse.isFalse.isFalse => exact toHolding_egress ..
  all_goals rfl

theorem holdUpdateAll_egress (s : State) : EgressOnly s (holdUpdateAll s) := .foldl (fun s q => holdUpdate_egress s q) _ s

/-- A node that goes down changes no other port of Face. -/
theorem nodeDown_egress (s : State) (m : Nat) : EgressOnly (setFp s m { getFp s m with up := false }) (nodeDown s m) :=
  ((((portFlush_egress ..).trans (abandonPort_egress ..)).trans (bump_egress ..)).trans (setPort_egress ..)).trans (holdUpdateAll_egress _)

end Sys2Proof.Machine
end

section
/-! PROOFS. Wake sources, sleep commits, Retained and resume (R446 to R454). -/

namespace Sys2Proof.Machine

/-! ### Ports of Face one after another -/

theorem getFp_setFp {s : State} (m : Nat) (x : FacePort) (h : Rising s.face.ports) : getFp (setFp s m x) m = x := tblGet_tblSet_rising _ _ _ h

theorem getFp_setFp_ne (s : State) {m j : Nat} (x : FacePort) (h : j ≠ m) : getFp (setFp s m x) j = getFp s j :=
  (tblGet_tblSet_other _ _ _ h _)

theorem setFp_rising {s : State} (m : Nat) (x : FacePort) (h : Rising s.face.ports) : Rising (setFp s m x).face.ports := tblSet_rising _ _ _ h

/-- Each port of a list takes what the step gives it, and the others stay, where the steps keep an invariant. -/
theorem foldl_ports {f : State → Nat → State} {I : State → Prop} {Q : Nat → FacePort → FacePort → Prop} (hinv : ∀ s m, I s → I (f s m))
    (hne : ∀ s m j, I s → j ≠ m → getFp (f s m) j = getFp s j) (hset : ∀ s m, I s → Q m (getFp s m) (getFp (f s m) m)) :
    ∀ (l : List Nat) (s : State), l.Nodup → I s →
      I (l.foldl f s) ∧ (∀ j ∈ l, Q j (getFp s j) (getFp (l.foldl f s) j)) ∧ ∀ j, j ∉ l → getFp (l.foldl f s) j = getFp s j
  | [], _, _, hs => ⟨hs, fun _ h => (List.not_mem_nil h).elim, fun _ _ => rfl⟩
  | m :: l, s, hn, hs => by
    obtain ⟨hm, hn⟩ := List.nodup_cons.1 hn
    obtain ⟨hI, hin, hout⟩ := foldl_ports hinv hne hset l (f s m) hn (hinv s m hs)
    rw [List.foldl_cons]
    refine ⟨hI, fun j hj => ?_, fun j hj => ?_⟩
    · rcases List.mem_cons.1 hj with rfl | hj
      · rw [hout j hm]
        exact hset s j hs
      · have hjm : j ≠ m := fun h => hm (h ▸ hj)
        have := hin j hj
        rwa [hne s m j hs hjm] at this
    · simp only [List.mem_cons, not_or] at hj
      rw [hout j hj.2, hne s m j hs hj.1]

/-- Only Face and the events change from s to s'. -/
def FaceOnly (s s' : State) : Prop := s' = { s with face := s'.face, events := s'.events }

theorem FaceOnly.refl (s : State) : FaceOnly s s := rfl

theorem FaceOnly.trans {a b c : State} (hab : FaceOnly a b) (hbc : FaceOnly b c) : FaceOnly a c := by
  unfold FaceOnly at *
  rw [hbc, hab]

theorem FaceOnly.foldl {β : Type} {f : State → β → State} (hf : ∀ s x, FaceOnly s (f s x)) : ∀ (l : List β) (s : State), FaceOnly s (l.foldl f s)
  | [], s => .refl s
  | x :: l, s => (hf s x).trans (FaceOnly.foldl hf l (f s x))

theorem setFp_faceOnly (s : State) (m : Nat) (x : FacePort) : FaceOnly s (setFp s m x) := rfl

theorem postEvent_faceOnly (s : State) (n : Nat) (p : List Nat) : FaceOnly s (postEvent s n p) := by
  unfold postEvent
  dsimp only
  repeat' split
  all_goals rfl

theorem postEvent_face (s : State) (n : Nat) (p : List Nat) : (postEvent s n p).face = s.face := by
  unfold postEvent
  dsimp only
  repeat' split
  all_goals rfl

theorem tc10Train_faceOnly (s : State) (m : Nat) : FaceOnly s (tc10Train s m) := rfl

theorem tc10CmdWake_faceOnly (s : State) (m : Nat) : FaceOnly s (tc10CmdWake s m) := by
  unfold tc10CmdWake
  dsimp only
  repeat' split
  · exact (setFp_faceOnly ..).trans (tc10Train_faceOnly ..)
  · exact ((setFp_faceOnly ..).trans (setFp_faceOnly ..)).trans (postEvent_faceOnly ..)
  · exact setFp_faceOnly ..

/-- The transceivers return to the modes of before, which the Gatehouse forgets. -/
def physBack (s : State) : State := s.gh.prevModes.foldl (fun s e => match e.2 with
  | some m => setPhy s e.1 { getPhy s e.1 with mode := m % 4, wakeEn := decide (4 ≤ m) }
  | none => s) s

theorem restorePhys_eq (s : State) : restorePhys s = { physBack s with gh := { (physBack s).gh with prevModes := [] } } := rfl

theorem physBack_faceOnly (s : State) : FaceOnly s (physBack s) := by
  refine FaceOnly.foldl (fun s e => ?_) _ s
  split <;> rfl

theorem FaceOnly.gh {s s' : State} (h : FaceOnly s s') : s'.gh = s.gh := by
  unfold FaceOnly at h
  rw [h]

/-! ### Wake events (R449, R450) -/

/-- A command of an armed wake source is a wake with its code and detail. -/
theorem WakeCommand.exec {s : State} {c : Instr} {code d : Nat} (h : WakeCommand s c code d) : exec c s = .next (wake s code d) := by
  rcases h with ⟨pin, rising, rfl, rfl, rfl, hen, hedge⟩ | ⟨bus, ch, rfl, rfl, rfl, hown, hen⟩
  · have hbits : bits s.gh.edge (2 * pin.val + 1) (2 * pin.val) = s.gh.edge / 4 ^ pin.val % 4 := by
      rw [bits, show 2 * pin.val + 1 - 2 * pin.val + 1 = 2 by omega, Nat.pow_mul]
      rfl
    have hmatch : bits s.gh.edge (2 * pin.val + 1) (2 * pin.val) = 2 ∨ bits s.gh.edge (2 * pin.val + 1) (2 * pin.val) = b2n (!rising) := by
      rw [hbits]
      cases rising <;> exact hedge
    change execWakePinEdge pin rising s = _
    unfold execWakePinEdge
    dsimp only
    rw [if_pos ⟨hen, hmatch⟩]
  · change execGatehouseBusWake bus ch s = _
    unfold execGatehouseBusWake
    rw [if_pos ⟨hown, hen⟩]

/-- A wake that is armed is recorded, then taken. -/
theorem wake_armed {s : State} {code : Nat} (h : wakeArmed s code = true) (d : Nat) : wake s code d =
    (if wakeHandled s = true then recordWake s code d
    else if s.gh.mode = .dormant then wakeDormant (recordWake s code d)
    else if s.gh.mode = .retained then startResume (recordWake s code d)
    else match s.gh.sleepState with
      | .none => recordWake s code d
      | .agreed => sleepAbandon (recordWake s code d) true
      | .committed => { recordWake s code d with gh := { (recordWake s code d).gh with late := true, seen := s.gh.seen ||| 2 ^ 9 } }) := by
  unfold wake
  rw [if_neg (by simp [h])]
  rfl

theorem wake_unarmed {s : State} {code : Nat} (h : wakeArmed s code = false) (d : Nat) : wake s code d = s := if_pos h

/-- A wake from Dormant is a Cold reset of source DORMANT, released at once. -/
theorem wakeDormant_starts {s : State} (hasserted : s.gh.asserted = 0) (hrel : s.gh.relStep = 0) :
    let s' := wakeDormant s
    s'.gh.mode = .waking ∧ s'.gh.relStep = 2 ∧ s'.gh.pen = 1 ∧ s'.gh.inh = true ∧ s'.gh.src = s.gh.src ∧ s'.gh.first = s.gh.first ∧
      s'.gh.firstDetail = s.gh.firstDetail ∧ s'.gh.lockout = false ∧ bitOf s'.gh.rstCause 9 = true ∧ s'.gh.reach = 3 ∧ s'.gh.wakingAt = s.localNs ∧
      s'.gh.timerAt = s.gh.timerAt ∧ s'.localNs = s.localNs := by
  simp [wakeDormant, setFaultSrc, assertReset, sourceReach, hrel, hasserted, resetAll, drawFree, ghAtReset, releaseSources, beginRelease,
    testBit_eq_bitOf, show Nat.testBit 512 9 = true from rfl]

/-- A wake that ends an AGREED sleep abandons it. -/
theorem sleepAbandon_gh (s : State) : (sleepAbandon s true).gh.sleepState = .none ∧ (sleepAbandon s true).gh.abandoned = true ∧
    (sleepAbandon s true).gh.src = s.gh.src := by
  have hnodes (l : List Nat) (s : State) : (l.foldl tc10CmdWake s).gh = s.gh := (FaceOnly.foldl tc10CmdWake_faceOnly l s).gh
  have hevent (s : State) (typ : Nat) : (wakeEvent s typ).gh = s.gh := (postEvent_faceOnly ..).gh
  have hphys (s : State) : (restorePhys s).gh = { s.gh with prevModes := [] } := by
    rw [restorePhys_eq]
    dsimp only
    rw [(physBack_faceOnly s).gh]
  unfold sleepAbandon
  dsimp only
  rw [hevent, hphys, hnodes]
  simp

/-! ### The sleep commit (R447) -/

/-- What a sleep commit keeps from port to port. -/
def Committing (g : Gatehouse) (n : Nat) (s : State) : Prop := s.gh = g ∧ s.localNs = n ∧ Rising s.face.ports

theorem EgressOnly.committing {g : Gatehouse} {n : Nat} {s s' : State} (h : EgressOnly s s') (hs : Committing g n s) : Committing g n s' := by
  obtain ⟨hgh, hnow, hr⟩ := hs
  exact ⟨h.gh.trans hgh, h.localNs.trans hnow, by rw [h.ports]; exact hr⟩

theorem EgressOnly.getFp {s s' : State} (h : EgressOnly s s') (j : Nat) : getFp s' j = getFp s j := by
  unfold Machine.getFp
  rw [h.ports]

/-- A port node has gone down where it was up. -/
def nodeSlept (s : State) (m : Nat) : State := if (getFp s m).up then nodeDown s m else s

theorem nodeSlept_frame {g : Gatehouse} {n : Nat} {s : State} (m : Nat) (hs : Committing g n s) : Committing g n (nodeSlept s m) ∧
    (∀ j, j ≠ m → getFp (nodeSlept s m) j = getFp s j) ∧ getFp (nodeSlept s m) m = { getFp s m with up := false } := by
  obtain ⟨hgh, hnow, hr⟩ := hs
  unfold nodeSlept
  by_cases hup : (getFp s m).up = true
  · have hdown := nodeDown_egress s m
    have hmine : Committing g n (setFp s m { getFp s m with up := false }) := ⟨hgh, hnow, setFp_rising _ _ hr⟩
    rw [if_pos hup]
    refine ⟨hdown.committing hmine, fun j hj => ?_, ?_⟩
    · rw [hdown.getFp, getFp_setFp_ne _ _ hj]
    · rw [hdown.getFp, getFp_setFp _ _ hr]
  · rw [if_neg hup]
    refine ⟨⟨hgh, hnow, hr⟩, fun _ _ => rfl, ?_⟩
    cases hx : getFp s m
    simp only [hx, Bool.not_eq_true] at hup
    simp [hup]

theorem sleepNode_port {s : State} {m : Nat} (hm : m < 56) : sleepNode s m =
    if s.gh.target = .retained ∧ (getFp (nodeSlept s m) m).link = true then
      setFp (nodeSlept s m) m { getFp (nodeSlept s m) m with kept := true, lpi := (getFp (nodeSlept s m) m).eeeOn }
    else nodeSlept s m := by
  have hgh : (nodeSlept s m).gh = s.gh := by
    unfold nodeSlept
    split
    · exact (nodeDown_egress s m).gh
    · rfl
  have hnode : sleepNode s m = if (nodeSlept s m).gh.target = .retained ∧ (getFp (nodeSlept s m) m).link = true then
      setFp (nodeSlept s m) m { getFp (nodeSlept s m) m with kept := true, lpi := (getFp (nodeSlept s m) m).eeeOn }
    else nodeSlept s m := if_pos hm
  rw [hnode, hgh]

theorem sleepNode_egress {s : State} {m : Nat} (hm : ¬ m < 56) : EgressOnly s (sleepNode s m) := by
  unfold sleepNode
  rw [if_neg hm]
  split
  · exact .refl s
  · exact ((portFlush_egress ..).trans (abandonPort_egress ..)).trans (holdUpdateAll_egress _)

/-- What a sleep commit does to one port of Face. -/
def PortSlept (g : Gatehouse) (m : Nat) (x y : FacePort) : Prop :=
  m < 56 → y.up = false ∧ (g.target = .retained → x.link = true → y.kept = true)

theorem sleepNode_frame {g : Gatehouse} {n : Nat} {s : State} (m : Nat) (hs : Committing g n s) : Committing g n (sleepNode s m) ∧
    (∀ j, j ≠ m → getFp (sleepNode s m) j = getFp s j) ∧ PortSlept g m (getFp s m) (getFp (sleepNode s m) m) := by
  by_cases hm : m < 56
  · obtain ⟨hslept, hothers, hmine⟩ := nodeSlept_frame m hs
    have hg : s.gh = g := hs.1
    rw [sleepNode_port hm, hmine, hg]
    generalize nodeSlept s m = u at hslept hothers hmine
    obtain ⟨hgh, hnow, hr⟩ := hslept
    split
    · refine ⟨⟨hgh, hnow, setFp_rising _ _ hr⟩, fun j hj => ?_, fun _ => ?_⟩
      · rw [getFp_setFp_ne _ _ hj, hothers j hj]
      · rw [getFp_setFp _ _ hr]
        exact ⟨rfl, fun _ _ => rfl⟩
    · next hkept =>
      refine ⟨⟨hgh, hnow, hr⟩, hothers, fun _ => ?_⟩
      rw [hmine]
      exact ⟨rfl, fun htarget hlink => absurd ⟨htarget, hlink⟩ hkept⟩
  · have hkeep := sleepNode_egress (s := s) hm
    exact ⟨hkeep.committing hs, fun j _ => hkeep.getFp j, fun h => absurd h hm⟩

/-- The Gatehouse as a sleep commits. -/
def sleepStart (s : State) : State :=
  { s with gh := { s.gh with sleepState := .committed, commitAt := s.localNs, entryDone := false, timerAt := some s.localNs, seen := 0 } }

theorem sleepCommit_commits {s : State} (hagreed : s.gh.sleepState = .agreed) (hleaves : sleepLeaves s = true)
    (hnodes : ∀ m < 32, bitOf s.gh.tc10Mask m = true → (getFp s m).tc10 = 2) (hr : Rising s.face.ports) :
    Committing (sleepStart s).gh s.localNs (sleepCommit s) ∧ ∀ m < 64, PortSlept (sleepStart s).gh m (getFp s m) (getFp (sleepCommit s) m) := by
  have hall : (sleepNodes s).all (fun m => (getFp s m).tc10 == 2) = true := by
    rw [List.all_eq_true]
    intro m hm
    obtain ⟨hm, hmask⟩ := List.mem_filter.1 hm
    exact beq_iff_eq.2 (hnodes m (List.mem_range.1 hm) hmask)
  have hcommit : sleepCommit s = (List.range 64).foldl sleepNode (sleepStart s) := if_pos ⟨hagreed, hleaves, hall⟩
  obtain ⟨hI, hin, -⟩ := foldl_ports (I := Committing (sleepStart s).gh s.localNs) (Q := PortSlept (sleepStart s).gh) (f := sleepNode)
    (fun s m hs => (sleepNode_frame m hs).1) (fun s m j hs hj => (sleepNode_frame m hs).2.1 j hj) (fun s m hs => (sleepNode_frame m hs).2.2)
    (List.range 64) (sleepStart s) List.nodup_range ⟨rfl, rfl, hr⟩
  rw [hcommit]
  exact ⟨hI, fun m hm => hin m (List.mem_range.2 hm)⟩

/-! ### Retained and the resume (R452, R454) -/

theorem toStandby_kept (detect : Bool) (s : State) (c : Nat) : (toStandby detect s c).bench = s.bench ∧ (toStandby detect s c).localNs = s.localNs ∧
    (toStandby detect s c).gh = { s.gh with prevModes := (toStandby detect s c).gh.prevModes } := ⟨rfl, rfl, rfl⟩

theorem foldl_toStandby_kept (detect : Bool) : ∀ (l : List Nat) (s : State), (l.foldl (toStandby detect) s).bench = s.bench ∧
    (l.foldl (toStandby detect) s).localNs = s.localNs ∧
    (l.foldl (toStandby detect) s).gh = { s.gh with prevModes := (l.foldl (toStandby detect) s).gh.prevModes }
  | [], s => ⟨rfl, rfl, rfl⟩
  | c :: l, s => by
    obtain ⟨hbench, hnow, hgh⟩ := foldl_toStandby_kept detect l (toStandby detect s c)
    exact ⟨hbench, hnow, hgh.trans rfl⟩

theorem standbyAll_kept (s : State) : (standbyAll s).bench = s.bench ∧ (standbyAll s).localNs = s.localNs ∧
    (standbyAll s).gh = { s.gh with prevModes := (standbyAll s).gh.prevModes } := foldl_toStandby_kept false _ s

/-- Retained as it is entered, before a wake that came meanwhile. -/
def retainedState (s : State) : State := { standbyAll s with
  bench := { (standbyAll s).bench with running := false }
  gh := { (standbyAll s).gh with mode := .retained, entryDone := true, commitAt := (standbyAll s).localNs } }

/-- The Retained entry stops the boundaries; a wake that came meanwhile resumes at once. -/
theorem retained_entered {s : State} (hcommitted : s.gh.sleepState = .committed) (htarget : s.gh.target = .retained) (hdone : s.gh.entryDone = false)
    (hrole : s.pair.role = .off) : ∃ s', exec .retainedEntryDone s = .next s' ∧ s'.bench.running = false ∧ s'.gh.entryDone = true ∧
      s'.gh.commitAt = s.localNs ∧ (s.gh.seen = 0 → s'.gh.mode = .retained) ∧
      (s.gh.seen ≠ 0 → s'.gh.mode = .waking ∧ s'.gh.resuming = true ∧ s'.gh.sleepState = .none) := by
  have hpair : pairRetained s = s := by
    unfold pairRetained
    rw [hrole]
  obtain ⟨hbench, hnow, hgh⟩ := standbyAll_kept s
  have hseen : (standbyAll s).gh.seen = s.gh.seen := by rw [hgh]
  have hexec : exec .retainedEntryDone s = .next (if (retainedState s).gh.seen ≠ 0 then startResume (retainedState s) else retainedState s) := by
    change execRetainedEntryDone s = _
    unfold execRetainedEntryDone
    rw [if_neg (by simp [hcommitted, htarget, hdone]), hpair]
    rfl
  rw [show (retainedState s).gh.seen = s.gh.seen from hseen] at hexec
  refine ⟨_, hexec, ?_⟩
  unfold retainedState
  generalize standbyAll s = u at hnow
  by_cases h : s.gh.seen = 0
  · rw [if_neg (not_not.2 h)]
    exact ⟨rfl, rfl, hnow, fun _ => rfl, fun h' => absurd h h'⟩
  · rw [if_pos h]
    exact ⟨rfl, rfl, hnow, fun h' => absurd h' h, fun _ => ⟨rfl, rfl, rfl⟩⟩

/-- The units and the Gatehouse as a resume completes. -/
def resumeBase (s : State) : State :=
  enterMode { unitsReturn s with
    bench := { s.bench with running := true, startNs := (tbNs s.time.t0 : Nat), startLocal := s.localNs, disturbed := false }
    gh := { s.gh with resuming := false, timerAt := none } } s.pair.role.mode

/-- The ports that TC10 put to sleep. -/
def sleepingPorts (s : State) : List Nat := (List.range 32).filter (fun m => (getFp s m).tc10 == 2)

theorem exec_resumeComplete {s : State} (hmode : s.gh.mode = .waking) (hresume : s.gh.resuming = true) : exec .resumeComplete s = .next
    (holdUpdateAll (keptUp (wakeEvent (restorePhys ((sleepingPorts (resumeBase s)).foldl tc10Train (resumeBase s))) 0x90))) := by
  change execResumeComplete s = _
  unfold execResumeComplete
  rw [if_neg (by simp [hmode, hresume])]
  rfl

/-- A port whose link stayed comes up without waiting. -/
def keptNode (s : State) (m : Nat) : State :=
  if (getFp s m).kept then
    if (getFp s m).link && (getFp s m).enable then
      faceEvent (setFp s m { getFp s m with kept := false, lpi := false, up := (getFp s m).link && (getFp s m).enable }) 0x50 0 m
        (b2n (getFp s m).leader * 16 + (getFp s m).speed)
    else setFp s m { getFp s m with kept := false, lpi := false, up := (getFp s m).link && (getFp s m).enable }
  else s

theorem keptUp_eq (s : State) : keptUp s = (List.range 56).foldl keptNode s := rfl

theorem keptNode_faceOnly (s : State) (m : Nat) : FaceOnly s (keptNode s m) := by
  unfold keptNode
  repeat' split
  · exact (setFp_faceOnly ..).trans (postEvent_faceOnly ..)
  · exact setFp_faceOnly ..
  · exact .refl s

theorem faceEvent_face (s : State) (typ code port detail : Nat) : (faceEvent s typ code port detail).face = s.face := postEvent_face ..

theorem keptNode_tc10 {s : State} (hr : Rising s.face.ports) (m : Nat) : Rising (keptNode s m).face.ports ∧
    (∀ j, j ≠ m → getFp (keptNode s m) j = getFp s j) ∧ (getFp (keptNode s m) m).tc10 = (getFp s m).tc10 := by
  have hset (x : FacePort) (hx : x.tc10 = (getFp s m).tc10) : Rising (setFp s m x).face.ports ∧
      (∀ j, j ≠ m → getFp (setFp s m x) j = getFp s j) ∧ (getFp (setFp s m x) m).tc10 = (getFp s m).tc10 :=
    ⟨setFp_rising _ _ hr, fun j hj => getFp_setFp_ne _ _ hj, by rw [getFp_setFp _ _ hr, hx]⟩
  unfold keptNode
  split
  · split
    · simp only [getFp, faceEvent_face]
      exact hset _ rfl
    · exact hset _ rfl
  · exact ⟨hr, fun _ _ => rfl, rfl⟩

/-- Each waking port trains its link: TC10 leaves SLEEP. -/
theorem resumed_trains {s : State} (hr : Rising s.face.ports) {m : Nat} (hm : m < 32) (hsleep : (getFp s m).tc10 = 2) :
    (getFp (holdUpdateAll (keptUp (wakeEvent (restorePhys ((sleepingPorts s).foldl tc10Train s)) 0x90))) m).tc10 = 3 := by
  obtain ⟨hrising, htrained, -⟩ := foldl_ports (I := fun s => Rising s.face.ports) (Q := fun _ _ y => y.tc10 = 3) (f := tc10Train)
    (fun s m hs => setFp_rising _ _ hs) (fun s m j _ hj => getFp_setFp_ne _ _ hj)
    (fun s m hs => by unfold tc10Train; rw [getFp_setFp _ _ hs]) (sleepingPorts s) s (List.nodup_range.filter _) hr
  have hmine := htrained m (List.mem_filter.2 ⟨List.mem_range.2 hm, beq_iff_eq.2 hsleep⟩)
  generalize (sleepingPorts s).foldl tc10Train s = u at hrising hmine
  have hphys (s : State) : ∀ l : List (Nat × Option Nat), (l.foldl (fun s e => match e.2 with
      | some m => setPhy s e.1 { getPhy s e.1 with mode := m % 4, wakeEn := decide (4 ≤ m) }
      | none => s) s).face.ports = s.face.ports := by
    intro l
    induction l generalizing s with
    | nil => rfl
    | cons e l ih =>
      rw [List.foldl_cons, ih]
      split <;> rfl
  have hback : (wakeEvent (restorePhys u) 0x90).face.ports = u.face.ports := by
    rw [wakeEvent, ghEvent, postEvent_face, restorePhys_eq]
    exact hphys u _
  have hsame : getFp (wakeEvent (restorePhys u) 0x90) m = getFp u m := congrArg (tblGet (FacePort.reset m) · m) hback
  have hrising2 : Rising (wakeEvent (restorePhys u) 0x90).face.ports := by rw [hback]; exact hrising
  generalize wakeEvent (restorePhys u) 0x90 = v at hsame hrising2
  obtain ⟨-, hkept, -⟩ := foldl_ports (I := fun s => Rising s.face.ports) (Q := fun _ x y => y.tc10 = x.tc10) (f := keptNode)
    (fun s m hs => (keptNode_tc10 hs m).1) (fun s m j hs hj => (keptNode_tc10 hs m).2.1 j hj) (fun s m hs => (keptNode_tc10 hs m).2.2)
    (List.range 56) v List.nodup_range hrising2
  rw [(holdUpdateAll_egress _).getFp, keptUp_eq, hkept m (List.mem_range.2 (by omega)), hsame, hmine]

/-- What the end of a resume leaves of the clock, the Gatehouse and the verdict cache. -/
theorem resumed_frame (s : State) (l : List Nat) :
    let s' := holdUpdateAll (keptUp (wakeEvent (restorePhys (l.foldl tc10Train s)) 0x90))
    s'.bench = s.bench ∧ s'.localNs = s.localNs ∧ s'.berm = s.berm ∧ s'.gh = { s.gh with prevModes := [] } := by
  have htrain : FaceOnly s (l.foldl tc10Train s) := .foldl tc10Train_faceOnly _ _
  generalize l.foldl tc10Train s = u at htrain
  have hphys := physBack_faceOnly u
  have hevent : FaceOnly (restorePhys u) (wakeEvent (restorePhys u) 0x90) := postEvent_faceOnly ..
  have hback : (restorePhys u).bench = u.bench ∧ (restorePhys u).localNs = u.localNs ∧ (restorePhys u).berm = u.berm ∧
      (restorePhys u).gh = { u.gh with prevModes := [] } := by
    rw [restorePhys_eq]
    generalize physBack u = v at hphys
    unfold FaceOnly at hphys
    rw [hphys]
    exact ⟨rfl, rfl, rfl, rfl⟩
  generalize restorePhys u = w at hback hevent
  have hkept : FaceOnly w (keptUp (wakeEvent w 0x90)) := hevent.trans (.foldl keptNode_faceOnly _ _)
  generalize keptUp (wakeEvent w 0x90) = x at hkept
  have hhold := holdUpdateAll_egress x
  obtain ⟨hbench, hnow, hberm, hgh⟩ := hback
  dsimp only
  unfold FaceOnly at hkept htrain
  refine ⟨?_, ?_, ?_, ?_⟩
  · rw [hhold.bench, hkept, hbench, htrain]
  · rw [hhold.localNs, hkept, hnow, htrain]
  · rw [hhold.berm, hkept, hberm, htrain]
  · rw [hhold.gh, hkept, hgh, htrain]

/-- What an armed wake leaves, in every case. -/
theorem wake_cases {s : State} {code : Nat} (harmed : wakeArmed s code = true) (d : Nat) :
    (wakeHandled s = true → wake s code d = recordWake s code d)
    ∧ (wakeHandled s = false → (s.gh.mode = .retained → wake s code d = startResume (recordWake s code d))
      ∧ (s.gh.mode ≠ .retained → s.gh.mode ≠ .dormant → s.gh.sleepState = .committed →
        wake s code d = { recordWake s code d with gh := { (recordWake s code d).gh with late := true, seen := s.gh.seen ||| 2 ^ 9 } })
      ∧ (s.gh.mode = .dormant → wake s code d = wakeDormant (recordWake s code d))
      ∧ (s.gh.mode ≠ .retained → s.gh.mode ≠ .dormant → s.gh.sleepState = .agreed → wake s code d = sleepAbandon (recordWake s code d) true)) := by
  rw [wake_armed harmed]
  refine ⟨fun h => if_pos h, fun h => ?_⟩
  rw [if_neg (by simp [h])]
  refine ⟨fun hm => ?_, fun hm hd hs => ?_, fun hm => if_pos hm, fun hm hd hs => ?_⟩
  · rw [if_neg (by simp [hm]), if_pos hm]
  · rw [if_neg hd, if_neg hm, hs]
  · rw [if_neg hd, if_neg hm, hs]

/-- A clock that runs to an instant reaches it. -/
theorem advance_reaches (s : State) (t : Nat) : t ≤ (advance s (t - s.localNs)).localNs := by
  simp only [advance]
  omega

/-- The wake timer has run out after n nanoseconds. -/
def timerOut (s : State) (n : Nat) : State := { advance s n with gh := { (advance s n).gh with timerAt := none } }

theorem exec_wakeTimer {s : State} {t : Nat} (ht : s.gh.timerAt = some t) (hlen : s.gh.timerS ≠ 0) (harmed : wakeArmed s 5 = true) :
    exec .wakeTimer s = .next (wake (timerOut s (t + s.gh.timerS * 970000000 - s.localNs)) 5 0) := by
  change execWakeTimer s = _
  unfold execWakeTimer
  rw [ht]
  dsimp only
  rw [if_neg (by simp [hlen, harmed]), timerOut]

/-- A wake of the timer, from Retained and from Dormant. -/
theorem timer_wakes {s : State} (n : Nat) (harmed : wakeArmed s 5 = true) (hhandled : wakeHandled s = false)
    (hexec : exec .wakeTimer s = .next (wake (timerOut s n) 5 0)) :
    (s.gh.mode = .retained → exec .wakeTimer s = .next { advance s n with gh := { s.gh with
      timerAt := none, src := s.gh.src ||| 16, first := if s.gh.first = 0 then 5 else s.gh.first
      firstDetail := if s.gh.first = 0 then 0 else s.gh.firstDetail, mode := .waking, resuming := true, sleepState := .none, seen := 0 } })
    ∧ (s.gh.mode = .dormant → s.gh.asserted = 0 → s.gh.relStep = 0 → ∃ s', exec .wakeTimer s = .next s' ∧ s'.gh.mode = .waking ∧ s'.gh.relStep = 2 ∧
      s'.gh.src = s.gh.src ||| 16 ∧ s'.gh.first = (if s.gh.first = 0 then 5 else s.gh.first) ∧ s'.gh.timerAt = none ∧
      s'.localNs = (advance s n).localNs) := by
  obtain ⟨-, hwake⟩ := wake_cases (s := timerOut s n) (code := 5) harmed 0
  obtain ⟨hretained, -, hdormant, -⟩ := hwake hhandled
  refine ⟨fun hm => hexec.trans (congrArg _ (hretained hm)), fun hm hasserted hrel => ⟨_, hexec.trans (congrArg _ (hdormant hm)), ?_⟩⟩
  obtain ⟨hmode, hstep, -, -, hsrc, hfirst, -, -, -, -, -, htimer, hnow⟩ := wakeDormant_starts (s := recordWake (timerOut s n) 5 0) hasserted hrel
  exact ⟨hmode, hstep, hsrc, hfirst, htimer, hnow⟩

theorem exec_dormantWakeStart {s : State} (hm : s.gh.mode = .dormant) (hlock : s.gh.lockout = false) (hseen : s.gh.seen ≠ 0) :
    exec .dormantWakeStart s = .next (wakeDormant (advance s (s.gh.commitAt + 100000 - s.localNs))) := by
  change execDormantWakeStart s = _
  unfold execDormantWakeStart
  rw [if_neg (by simp [hm, hlock, hseen])]

/-- Settles O55: a wake is recorded and taken by the mode, a sleep commits as its nodes sleep, and a resume restarts the boundaries. -/
theorem sleepAndWake : Obligations.SleepAndWake := by
  unfold Obligations.SleepAndWake
  refine ⟨⟨?_, fun s c code d hc hunarmed => ?_, fun s h => ?_, ?_, ?_⟩, ?_, ?_, ?_⟩
  · intro s c code d hc harmed src first detail
    have hexec := WakeCommand.exec hc
    obtain ⟨hhandled, hwake⟩ := wake_cases harmed d
    refine ⟨fun h => hexec.trans (congrArg _ (hhandled h)), fun h => ?_⟩
    obtain ⟨hretained, hlate, hdormant, hagreed⟩ := hwake h
    refine ⟨fun hm => hexec.trans (congrArg _ (hretained hm)), fun hm hd hs => hexec.trans (congrArg _ (hlate hm hd hs)), fun hm hasserted hrel => ?_,
      fun hm hd hs => ?_⟩
    · obtain ⟨hmode, hstep, hpen, hinh, hsrc, hfirst, hdetail, hlock, hcause, hreach, hat, -⟩ :=
        wakeDormant_starts (s := recordWake s code d) hasserted hrel
      rw [hdormant hm] at hexec
      exact ⟨_, hexec, hmode, hstep, hpen, hinh, hsrc, hfirst, hdetail, hlock, hcause, hreach, hat⟩
    · obtain ⟨hstate, habandoned, hsrc⟩ := sleepAbandon_gh (recordWake s code d)
      rw [hagreed hm hd hs] at hexec
      exact ⟨_, hexec, hstate, habandoned, hsrc⟩
  · rw [WakeCommand.exec hc, wake_unarmed hunarmed]
  · change execWakeTimer s = _
    unfold execWakeTimer
    split
    · next t ht => rw [if_pos (h.resolve_left (by simp [ht]))]
    · rfl
  · intro s t ht hlen harmed hhandled
    obtain ⟨hretained, hdormant⟩ := timer_wakes (t + s.gh.timerS * 970000000 - s.localNs) harmed hhandled (exec_wakeTimer ht hlen harmed)
    exact ⟨advance_reaches s (t + s.gh.timerS * 970000000), hretained, hdormant⟩
  · intro s hm hlock hseen hasserted hrel
    have hexec := exec_dormantWakeStart hm hlock hseen
    have hnow : s.localNs + (s.gh.commitAt + 100000 - s.localNs) = max s.localNs (s.gh.commitAt + 100000) := by omega
    generalize s.gh.commitAt + 100000 - s.localNs = n at hexec hnow
    obtain ⟨hmode, hstep, hpen, -, -, -, -, -, hcause, -, -, -, hsame⟩ := wakeDormant_starts (s := advance s n) hasserted hrel
    exact ⟨_, hexec, hsame.trans hnow, hmode, hstep, hpen, hcause⟩
  · intro s hagreed hleaves hnodes hr
    obtain ⟨⟨hgh, hnow, -⟩, hports⟩ := sleepCommit_commits hagreed hleaves hnodes hr
    refine ⟨_, rfl, by rw [hgh]; rfl, by rw [hgh]; rfl, by rw [hgh]; rfl, by rw [hgh]; rfl, hnow, fun m hm => (hports m (by omega) hm).1,
      fun htarget m hm hlink => (hports m (by omega) hm).2 htarget hlink⟩
  · intro s hcommitted htarget hdone hrole
    exact retained_entered hcommitted htarget hdone hrole
  · intro s hmode hresume
    obtain ⟨hbench, hnow, hberm, hgh⟩ := resumed_frame (resumeBase s) (sleepingPorts (resumeBase s))
    have hexec := exec_resumeComplete hmode hresume
    have htrain := @resumed_trains (resumeBase s)
    generalize holdUpdateAll (keptUp (wakeEvent (restorePhys ((sleepingPorts (resumeBase s)).foldl tc10Train (resumeBase s))) 0x90)) = u at *
    refine ⟨u, hexec, by rw [hbench]; rfl, by rw [hbench]; rfl, by rw [hbench]; rfl, by rw [hgh]; rfl, by rw [hgh]; rfl, by rw [hberm]; rfl,
      hnow, by rw [hgh]; rfl, fun hr m hm hsleep => htrain hr hm hsleep⟩

end Sys2Proof.Machine
end

section
/-! PROOFS. Links, port nodes, preemption and PLCA (R252, R281, R320 to R325). -/

namespace Sys2Proof.Machine

/-! ### The link comes up (R320, R321) -/

/-- The port as its link comes up, settled with its partner. -/
def linkedPort (s : State) (m speed : Nat) (leader eee : Bool) (fec : Nat) : FacePort :=
  { calibrate s m (getFp s m) with
    link := true, linkAt := s.localNs
    speed := if (getFp s m).autoneg ∧ speedFits m speed ∧ speed ≤ (getFp s m).speedCfg then speed else (getFp s m).speedCfg
    leader := if m < 32 then (if (getFp s m).roleCfg = 0 then leader else (getFp s m).roleCfg == 1) else false
    eeeOn := (getFp s m).eee && eee && decide (m < 32)
    fec := if m < 48 then 0 else if (getFp s m).fecCfg = 0 then fec else (getFp s m).fecCfg
    tc10 := 0 }

theorem linkOk_links {s : State} {m speed : Nat} {leader eee : Bool} {fec : Nat} (hen : (getFp s m).enable = true) (hlink : (getFp s m).link = false)
    (hawake : (getFp s m).tc10 ≠ 2) (hodd : pairOdd s m = false) : linkOk s m speed leader eee fec =
      bump (loadLatency (setFp s m (linkedPort s m speed leader eee fec)) m
        (if (getFp s m).autoneg ∧ speedFits m speed ∧ speed ≤ (getFp s m).speedCfg then speed else (getFp s m).speedCfg)) .linkUps m 1 := by
  unfold linkOk
  dsimp only
  rw [if_neg (by simp [hen, hlink, hawake, hodd])]
  rfl

/-- The latencies of a speed go to the stamp registers of the port only. -/
theorem loadLatency_frame (s : State) (m sp : Nat) :
    loadLatency s m sp = { s with time := { s.time with tsPorts := (loadLatency s m sp).time.tsPorts, log := (loadLatency s m sp).time.log } } := by
  unfold loadLatency
  dsimp only
  split <;> rfl

theorem linkedPort_ne_reset (s : State) (m speed : Nat) (leader eee : Bool) (fec : Nat) :
    linkedPort s m speed leader eee fec ≠ FacePort.reset m := fun h => Bool.noConfusion (congrArg FacePort.link h : true = false)

/-! ### A fabric lane starts anew (R252) -/

/-- The cells of a frame in reassembly on a channel are free again. -/
def laneFreed (k : Nat) (s : State) (v : Nat) : State := match (getLane s k v).rxFrame with
  | some f => freeCells s f.cells
  | none => s

/-- A channel of a lane as its link comes up. -/
def laneFresh (k : Nat) (s : State) (v : Nat) : State :=
  setLane (laneFreed k s v) k v { LaneVc.reset with kOwn := tblGet 0 (laneFreed k s v).fabric.rxCells v }

theorem laneLinkUp_eq (s : State) (k : Nat) : laneLinkUp s k = (List.range 8).foldl (laneFresh k) s := rfl

theorem laneFreed_fabric (k : Nat) (s : State) (v : Nat) : (laneFreed k s v).fabric = s.fabric := by
  unfold laneFreed
  split
  · next f _ => rw [freeCells_storeOnly s f.cells]
  · rfl

theorem laneFresh_fabric (k : Nat) (s : State) (v : Nat) : (laneFresh k s v).fabric = { s.fabric with
    lanes := tblSet LaneVc.reset s.fabric.lanes (8 * k + v) { LaneVc.reset with kOwn := tblGet 0 s.fabric.rxCells v } } := by
  rw [laneFresh, setLane, laneFreed_fabric]

theorem foldl_laneFresh {k : Nat} : ∀ (l : List Nat) (s : State), tblWf LaneVc.reset s.fabric.lanes = true →
    (∀ v ∈ l, getLane (l.foldl (laneFresh k) s) k v = { LaneVc.reset with kOwn := tblGet 0 s.fabric.rxCells v }) ∧
      ∀ v, v ∉ l → getLane (l.foldl (laneFresh k) s) k v = getLane s k v
  | [], _, _ => ⟨fun _ h => (List.not_mem_nil h).elim, fun _ _ => rfl⟩
  | u :: l, s, hwf => by
    have hfabric := laneFresh_fabric k s u
    have hlane (v : Nat) : getLane (laneFresh k s u) k v =
        if v = u then { LaneVc.reset with kOwn := tblGet 0 s.fabric.rxCells u } else getLane s k v := by
      unfold getLane
      rw [hfabric, tblGet_tblSet hwf]
      exact if_congr (by omega) rfl rfl
    have hcells : (laneFresh k s u).fabric.rxCells = s.fabric.rxCells := by rw [hfabric]
    obtain ⟨hin, hout⟩ := foldl_laneFresh l (laneFresh k s u) (by rw [hfabric]; exact tblSet_wf _ _ hwf)
    rw [List.foldl_cons]
    refine ⟨fun v hv => ?_, fun v hv => ?_⟩
    · by_cases hl : v ∈ l
      · rw [hin v hl, hcells]
      · obtain rfl : v = u := (List.mem_cons.1 hv).resolve_right hl
        rw [hout v hl, hlane, if_pos rfl]
    · simp only [List.mem_cons, not_or] at hv
      rw [hout v hv.2, hlane, if_neg hv.1]

theorem laneLinkUp_fresh {s : State} {k : Nat} (hwf : tblWf LaneVc.reset s.fabric.lanes = true) {v : Nat} (hv : v < 8) :
    getLane (laneLinkUp s k) k v = { LaneVc.reset with kOwn := tblGet 0 s.fabric.rxCells v } := by
  rw [laneLinkUp_eq]
  exact (foldl_laneFresh (List.range 8) s hwf).1 v (List.mem_range.2 hv)

/-! ### The port node (R321 to R323) -/

theorem portNodeUp_comes {s : State} {m : Fin 56} (hen : (getFp s m).enable = true) (hlink : (getFp s m).link = true) (hdown : (getFp s m).up = false)
    (hslept : portsSlept s = false) (hkept : (getFp s m).kept = false) : exec (.portNodeUp m) s = .next (holdUpdateAll (faceEvent
      (setFp (advance s ((getFp s m).linkAt + (getFp s m).upHold * 1000000 - s.localNs)) m { getFp s m with up := true }) 0x50 0 m
        (b2n (getFp s m).leader * 16 + (getFp s m).speed))) := by
  change execPortNodeUp m s = _
  unfold execPortNodeUp nodeUp
  dsimp only
  rw [if_neg (by simp [hen, hlink, hdown, hslept, hkept])]

/-- What the loss of the link leaves of the port before its node goes down. -/
def linkLost (s : State) (m : Nat) : State :=
  let x := getFp s m
  let s0 := setFp (bump s .linkDowns m 1) m { x with
    link := false, lpi := false, kept := false, recal := if x.recal = 2 then 0 else x.recal, calibrated := x.calibrated && x.recal != 2 }
  if x.recal = 2 then { bump s0 .recalAbort m 1 with face := { s0.face with engines := s0.face.engines.filter (· != m) } } else s0

theorem linkDown_lost {s : State} {m : Nat} (h : (getFp s m).link = true) (code : Nat) : linkDown s m code =
    (if (getFp s m).up = true ∨ (getFp s m).kept = true then
      faceEvent (if (getFp s m).up then nodeDown (linkLost s m) m else linkLost s m) 0x51 code m 0
    else if (getFp s m).up then nodeDown (linkLost s m) m else linkLost s m) := by
  unfold linkDown
  dsimp only
  rw [if_neg (by simp [h])]
  rfl

theorem exec_phyLinkLoss_clean (s : State) (m : Fin 56) : exec (.phyLinkLoss m []) s = .next (linkDown s m 1) :=
  congrArg (fun t => Host.Outcome.next (linkDown t m 1)) (if_neg (by simp))

theorem lineUp_face {s : State} {m : Fin 56} (h : (getFp s m).up = true) : lineUp s m = true := (if_pos m.isLt).trans h

theorem linkLost_bench (s : State) (m : Nat) : (linkLost s m).bench = s.bench := by
  unfold linkLost
  dsimp only
  split <;> rfl

/-- The leader bit of a LINK_UP event. -/
theorem b2n_mul_16 (b : Bool) : b2n b * 16 = if b then 16 else 0 := by cases b <;> rfl

theorem faceEvent_eq (s : State) (typ code port detail : Nat) :
    faceEvent s typ code port detail = postEvent s 1 [typ * 2 ^ 24 + code * 2 ^ 16 + port, s.bench.tickCount % 2 ^ 32, detail, 0] := rfl

theorem linkUp_posted (s : State) (m n : Nat) (x : FacePort) :
    holdUpdateAll (faceEvent (setFp (advance s n) m { x with up := true }) 0x50 0 m (b2n x.leader * 16 + x.speed)) =
      holdUpdateAll (postEvent (setFp (advance s n) m { x with up := true }) 1
        [0x50 * 2 ^ 24 + 0 * 2 ^ 16 + m, s.bench.tickCount % 2 ^ 32, (if x.leader then 16 else 0) + x.speed, 0]) := by
  have hbench : (setFp (advance s n) m { x with up := true }).bench = s.bench := rfl
  rw [faceEvent_eq, hbench, b2n_mul_16]

theorem linkDown_posted (s : State) (m : Nat) :
    (if (getFp s m).up = true ∨ (getFp s m).kept = true then
      faceEvent (if (getFp s m).up then nodeDown (linkLost s m) m else linkLost s m) 0x51 1 m 0
    else if (getFp s m).up then nodeDown (linkLost s m) m else linkLost s m) =
    if (getFp s m).up then postEvent (nodeDown (linkLost s m) m) 1
      [0x51 * 2 ^ 24 + 2 ^ 16 + m, (nodeDown (linkLost s m) m).bench.tickCount % 2 ^ 32, 0, 0]
    else if (getFp s m).kept then postEvent (linkLost s m) 1 [0x51 * 2 ^ 24 + 2 ^ 16 + m, s.bench.tickCount % 2 ^ 32, 0, 0]
    else linkLost s m := by
  have hbench := linkLost_bench s m
  by_cases hup : (getFp s m).up = true
  · rw [if_pos (.inl hup), if_pos hup, if_pos hup, faceEvent_eq, Nat.one_mul]
  · rw [if_neg hup, if_neg hup, faceEvent_eq, hbench, Nat.one_mul]
    exact if_congr (or_iff_right hup) rfl rfl

/-- Settles O26: links come up settled and go down with their nodes; preemption and PLCA follow their frames. -/
theorem linkEvents : Obligations.LinkEvents := by
  unfold Obligations.LinkEvents
  refine ⟨?_, ?_, ?_, ?_, ?_, ?_, ?_, ?_⟩
  · intro s m sp leader eee fec x hlane hen hlink hawake hodd
    have hexec : exec (.phyLinkOk m sp leader eee fec) s = .next (linkOk s m sp leader eee fec) :=
      congrArg Host.Outcome.next (if_neg fun h => absurd (hlane h.1) (by simp [h.2]))
    rw [linkOk_links hen hlink hawake hodd] at hexec
    have hframe := loadLatency_frame (setFp s m (linkedPort s m sp leader eee fec)) m
      (if (getFp s m).autoneg ∧ speedFits m sp ∧ sp.val ≤ (getFp s m).speedCfg then sp.val else (getFp s m).speedCfg)
    generalize loadLatency (setFp s m (linkedPort s m sp leader eee fec)) m
      (if (getFp s m).autoneg ∧ speedFits m sp ∧ sp.val ≤ (getFp s m).speedCfg then sp.val else (getFp s m).speedCfg) = u at hframe hexec
    have hmine : getFp (bump u .linkUps m 1) m = linkedPort s m sp leader eee fec := by
      rw [hframe]
      exact tblGet_tblSet_self' _ (linkedPort_ne_reset _ _ _ _ _ _) _ _
    refine ⟨_, hexec, by rw [hmine]; rfl, by rw [hmine]; rfl, by rw [hmine]; rfl, ?_, by rw [hmine]; rfl, fun j hj => ?_, ?_, ?_⟩
    · rw [hmine]
      simp only [linkedPort, beq_eq_decide]
      rfl
    · rw [hframe]
      exact getFp_setFp_ne s _ hj
    · rw [hframe]
      rfl
    · rw [hframe]
      rfl
  · intro s m sp leader eee fec hm hlane hwf
    exact ⟨_, congrArg Host.Outcome.next (if_pos ⟨hm, hlane⟩), fun v hv => laneLinkUp_fresh hwf hv⟩
  · intro s m x hen hlink hdown hslept hkept s1
    exact (portNodeUp_comes hen hlink hdown hslept hkept).trans (congrArg Host.Outcome.next (linkUp_posted s m _ _))
  · intro s m x hlink s0 s1
    have hlost : linkLost s m = s1 := rfl
    have hexec := (exec_phyLinkLoss_clean s m).trans (congrArg _ ((linkDown_lost hlink 1).trans (linkDown_posted s m)))
    rw [hlost] at hexec
    exact hexec
  · intro s m cut hup hcut
    have hline := lineUp_face hup
    refine ⟨_, congrArg Host.Outcome.next (if_neg (by simp [hline])), ?_⟩
    rw [exec_phyLinkLoss_clean]
    exact congrArg (fun t => Host.Outcome.next (linkDown t m 1)) (if_pos ⟨hline, hcut⟩)
  · intro s m hverify hpreempt hup
    exact congrArg Host.Outcome.next (if_pos ⟨hverify, hpreempt, (if_pos (by omega)).trans hup⟩)
  · intro s g hactive hid
    exact congrArg Host.Outcome.next (if_pos ⟨hactive, hid⟩)
  · intro s g c hen
    exact congrArg Host.Outcome.next (if_pos hen)

end Sys2Proof.Machine
end

section
/-! PROOFS. Temperature samples, calibration engines, cable tests and TC10 (R333 to R338, Table 10.6). -/

namespace Sys2Proof.Machine

/-! ### Temperature samples (R333, R334) -/

theorem tempGap_lt (n a b : Nat) : n < tempGap a b ↔ (n : Int) < |sgn 8 a - sgn 8 b| := by
  unfold tempGap
  rw [Int.abs_eq_natAbs]
  exact Int.ofNat_lt.symm

theorem tempGap_le (n a b : Nat) : tempGap a b ≤ n ↔ |sgn 8 a - sgn 8 b| ≤ (n : Int) := by
  unfold tempGap
  rw [Int.abs_eq_natAbs]
  exact Int.ofNat_le.symm

/-- What a sample asks of a front end. -/
def sampledPort (s : State) (m : Nat) (x : FacePort) : FacePort :=
  if x.enable ∧ tempGap (nodeTemp s m) x.calTemp > s.face.recalDelta then
    if x.tc10 = 2 then { x with calibrated := false }
    else if x.link ∧ x.recal = 0 then { x with recal := 1 }
    else x
  else x

theorem recalRequest_frame (s : State) (m : Nat) : (∀ j, j ≠ m → getFp (recalRequest s m) j = getFp s j) ∧
    getFp (recalRequest s m) m = sampledPort s m (getFp s m) ∧
    recalRequest s m = { s with face := { s.face with ports := (recalRequest s m).face.ports } } := by
  have hset (x : FacePort) (hx : x ≠ FacePort.reset m) : (∀ j, j ≠ m → getFp (setFp s m x) j = getFp s j) ∧
      getFp (setFp s m x) m = x ∧ setFp s m x = { s with face := { s.face with ports := (setFp s m x).face.ports } } :=
    ⟨fun j hj => getFp_setFp_ne s x hj, tblGet_tblSet_self' _ hx _ _, rfl⟩
  unfold recalRequest sampledPort
  dsimp only
  split
  · next h =>
    have hen (y : FacePort) (hy : y.enable = (getFp s m).enable) : y ≠ FacePort.reset m := fun he =>
      Bool.noConfusion ((hy.trans h.1).symm.trans (congrArg FacePort.enable he) : true = false)
    split
    · exact hset _ (hen _ rfl)
    · split
      · exact hset _ (hen _ rfl)
      · exact ⟨fun _ _ => rfl, rfl, rfl⟩
  · exact ⟨fun _ _ => rfl, rfl, rfl⟩

/-- The samples of a state that stands as s does but for its ports. -/
def SamplesOf (s u : State) : Prop := u = { s with face := { s.face with ports := u.face.ports } }

theorem recalRequest_samples {s u : State} (h : SamplesOf s u) (m : Nat) : SamplesOf s (recalRequest u m) := by
  obtain ⟨-, -, hrest⟩ := recalRequest_frame u m
  unfold SamplesOf at *
  rw [hrest, h]

theorem sampledPort_samples {s u : State} (h : SamplesOf s u) (m : Nat) (x : FacePort) : sampledPort u m x = sampledPort s m x := by
  unfold SamplesOf at h
  rw [h]
  rfl

theorem foldl_recalRequest (s : State) : SamplesOf s ((List.range 56).foldl recalRequest s) ∧
    ∀ m < 56, getFp ((List.range 56).foldl recalRequest s) m = sampledPort s m (getFp s m) := by
  obtain ⟨hI, hin, -⟩ := foldl_ports (I := SamplesOf s) (Q := fun m x y => y = sampledPort s m x) (f := recalRequest)
    (fun u m hu => recalRequest_samples hu m) (fun u m j _ hj => (recalRequest_frame u m).1 j hj)
    (fun u m hu => (recalRequest_frame u m).2.1.trans (sampledPort_samples hu m _)) (List.range 56) s List.nodup_range rfl
  exact ⟨hI, fun m hm => hin m (List.mem_range.2 hm)⟩

/-- The four quadrants as they are sampled. -/
def sampledTemps (t0 t1 t2 t3 : Byte) : Tbl Nat := [t0, t1, t2, t3].zipIdx.foldl (fun (t : Tbl Nat) e => tblSet 0 t e.2 e.1.toNat) []

theorem tblGet_sampledTemps (t0 t1 t2 t3 : Byte) (q : Fin 4) : tblGet 0 (sampledTemps t0 t1 t2 t3) q = ([t0, t1, t2, t3].getD q 0#8).toNat := by
  have h0 : tblWf 0 ([] : Tbl Nat) = true := rfl
  have h1 := tblSet_wf t0.toNat 0 h0
  have h2 := tblSet_wf t1.toNat 1 h1
  have h3 := tblSet_wf t2.toNat 2 h2
  change tblGet 0 (tblSet 0 (tblSet 0 (tblSet 0 (tblSet 0 [] 0 t0.toNat) 1 t1.toNat) 2 t2.toNat) 3 t3.toNat) q = _
  rw [tblGet_tblSet h3, tblGet_tblSet h2, tblGet_tblSet h1, tblGet_tblSet h0]
  fin_cases q <;> rfl

/-! ### The calibration engines (R333, R412) -/

/-- The port that an idle engine serves is the first in the rotation that waits. -/
theorem engineNext_served {s : State} {waits : FacePort → Bool} {m : Nat} (h : NextServed s waits m) : engineNext s waits = some m := by
  obtain ⟨hidle, hm, hwaits, hfirst⟩ := h
  unfold engineNext rotated
  rw [if_pos hidle, List.find?_map, Option.map_eq_some_iff]
  refine ⟨(m + 56 - s.bench.arbTick % 56) % 56, ?_, by omega⟩
  rw [List.find?_range_eq_some]
  have hplace : (s.bench.arbTick + (m + 56 - s.bench.arbTick % 56) % 56) % 56 = m := by omega
  refine ⟨by simpa [hplace] using hwaits, List.mem_range.2 (by omega), fun j hj => ?_⟩
  rw [Bool.not_eq_true']
  by_contra hne
  have hle := hfirst ((s.bench.arbTick + j) % 56) (Nat.mod_lt _ (by decide)) (by simpa using hne)
  omega

theorem engineNext_none {s : State} {waits : FacePort → Bool} (h : ∀ j < 56, waits (getFp s j) = false) : engineNext s waits = none := by
  unfold engineNext rotated
  split
  · rw [List.find?_eq_none]
    intro j hj
    obtain ⟨i, -, rfl⟩ := List.mem_map.1 hj
    simp [h ((s.bench.arbTick + i) % 56) (Nat.mod_lt _ (by decide))]
  · rfl

theorem exec_recalStart {s : State} {m : Nat} (h : NextServed s (fun x => decide (x.recal = 1) && x.link) m) : exec .recalStart s = .next
    { setFp s m { getFp s m with recal := 2 } with face := { (setFp s m { getFp s m with recal := 2 }).face with engines := s.face.engines ++ [m] } } := by
  have hnext : engineNext s (fun x => x.recal == 1 && x.link) = some m := by
    simp only [beq_eq_decide]
    exact engineNext_served h
  change execRecalStart s = _
  unfold execRecalStart
  rw [hnext]
  rfl

theorem exec_cableTestStart {s : State} {m : Nat} (hnone : ∀ j, j < 56 → (getFp s j).recal = 1 → (getFp s j).link = false)
    (h : NextServed s (fun x => decide (x.test = 1)) m) : exec .cableTestStart s = .next
      { setFp s m { getFp s m with test := 2 } with face := { (setFp s m { getFp s m with test := 2 }).face with engines := s.face.engines ++ [m] } } := by
  have hrecal : engineNext s (fun x => x.recal == 1 && x.link) = none := by
    refine engineNext_none fun j hj => ?_
    by_cases h1 : (getFp s j).recal = 1
    · simp [hnone j hj h1]
    · simp [h1]
  have hnext : engineNext s (fun x => x.test == 1) = some m := by
    simp only [beq_eq_decide]
    exact engineNext_served h
  change execCableTestStart s = _
  unfold execCableTestStart
  rw [hrecal, hnext]
  rfl

/-! ### TC10 (R337, R338) -/

/-- The Face event of a TC10 state (Table 10.12). -/
def tc10Event (s : State) (code m : Nat) : State :=
  postEvent s 1 [0x53 * 2 ^ 24 + code * 2 ^ 16 + m, s.bench.tickCount % 2 ^ 32, 0, 0]

theorem faceEvent_tc10 (s : State) (code m : Nat) : faceEvent s 0x53 code m 0 = tc10Event s code m := faceEvent_eq ..

section
variable {s : State} {m : Fin 32}

theorem exec_tc10PartnerAck (h : (getFp s m).tc10 = 1) (hin : s.localNs ≤ (getFp s m).tc10At + 16000000) :
    exec (.tc10PartnerAck m) s = .next (tc10Sleep s m 1) := by
  change execTc10PartnerAck m s = _
  unfold execTc10PartnerAck
  dsimp only
  rw [if_pos ⟨h, hin⟩]

theorem exec_tc10SleepTimeout (h : (getFp s m).tc10 = 1) : exec (.tc10SleepTimeout m) s = .next (sleepHeld (faceEvent
    (setFp (advance s ((getFp s m).tc10At + 16000000 - s.localNs)) m { getFp s m with tc10 := 0 }) 0x53 3 m 0) m) := by
  change execTc10SleepTimeout m s = _
  unfold execTc10SleepTimeout
  dsimp only
  rw [if_pos h]

theorem exec_tc10PartnerRefuse (h : (getFp s m).tc10 = 1) : exec (.tc10PartnerRefuse m) s = .next (sleepHeld (faceEvent
    (setFp s m { getFp s m with tc10 := 0 }) 0x53 4 m 0) m) := by
  change execTc10PartnerRefuse m s = _
  unfold execTc10PartnerRefuse
  dsimp only
  rw [if_pos h]

theorem exec_tc10PartnerSleepReq_asleep (hen : (getFp s m).tc10En = true) (h : (getFp s m).tc10 = 1) :
    exec (.tc10PartnerSleepReq m) s = .next (tc10Sleep s m 1) := by
  change execTc10PartnerSleepReq m s = _
  unfold execTc10PartnerSleepReq
  dsimp only
  rw [if_neg (by simp [hen]), if_pos h]

theorem exec_tc10PartnerSleepReq_active (hen : (getFp s m).tc10En = true) (h : (getFp s m).tc10 = 0) (hlink : (getFp s m).link = true)
    (hsleep : s.gh.sleepState = .none) : exec (.tc10PartnerSleepReq m) s = .next
      (if (getFp s m).acceptSleep = true ∧ (getFp s m).wakeAt ≠ some s.localNs then tc10Sleep s m 2 else faceEvent s 0x53 8 m 0) := by
  have hmasked : sleepMasked s m = false := by simp [sleepMasked, hsleep]
  change execTc10PartnerSleepReq m s = _
  unfold execTc10PartnerSleepReq
  dsimp only
  rw [if_neg (by simp [hen]), if_neg (by omega), if_pos ⟨h, hlink⟩, hmasked]
  simp only [Bool.false_eq_true, or_false]

/-- A wake that returns from a port to which it was forwarded is ignored. -/
theorem exec_tc10Wake_returns (h : wakeReturns s (getFp s m) = true) :
    exec (.tc10WakePulseRx m) s = .next s ∧ exec (.tc10WakeRequestRx m) s = .next s :=
  ⟨congrArg Host.Outcome.next (if_pos h), congrArg Host.Outcome.next (if_pos (.inr h))⟩

theorem exec_tc10WakePulseRx (h : wakeReturns s (getFp s m) = false) : exec (.tc10WakePulseRx m) s = .next
    (if (getFp s m).tc10 = 2 then wake (tc10Forward (faceEvent (bump (tc10Train s m) .tc10Wakes m 1) 0x53 6 m 0) m) 8 m
    else if (getFp s m).tc10 = 1 then
      wake (tc10Forward (faceEvent (bump (setFp s m { getFp s m with tc10 := 0 }) .tc10Wakes m 1) 0x53 5 m 0) m) 8 m
    else s) :=
  congrArg Host.Outcome.next (if_neg (by simp [h]))

theorem exec_tc10WakeRequestRx (h : wakeReturns s (getFp s m) = false) (hen : (getFp s m).tc10En = true) : exec (.tc10WakeRequestRx m) s = .next
    (if (getFp s m).tc10 = 0 then tc10Forward (faceEvent (bump s .tc10Wakes m 1) 0x53 7 m 0) m
    else if (getFp s m).tc10 = 1 then
      wake (tc10Forward (faceEvent (bump (setFp s m { getFp s m with tc10 := 0 }) .tc10Wakes m 1) 0x53 5 m 0) m) 8 m
    else if (getFp s m).tc10 = 2 then wake s 8 m
    else s) :=
  congrArg Host.Outcome.next (if_neg (by simp [h, hen]))

end

/-- Training a link checks the calibration against the temperature of the quadrant. -/
theorem tc10Train_near (s : State) (m : Nat) : tc10Train s m = setFp s m { getFp s m with
    tc10 := 3, calibrated := (getFp s m).calibrated &&
      decide (|sgn 8 (tblGet 0 s.face.temp (Config.quadrantOf m)) - sgn 8 (getFp s m).calTemp| ≤ (s.face.recalDelta : Int)) } := by
  unfold tc10Train
  simp only [tempGap_le, nodeTemp]

/-- TC10 of a port, state by state. -/
theorem tc10_cases (s : State) (m : Fin 32) :
    ((getFp s m).tc10 = 1 → s.localNs ≤ (getFp s m).tc10At + 16000000 → exec (.tc10PartnerAck m) s = .next (tc10Sleep s m 1))
    ∧ ((getFp s m).tc10 = 1 → exec (.tc10SleepTimeout m) s = .next (sleepHeld (tc10Event
        (setFp (advance s ((getFp s m).tc10At + 16000000 - s.localNs)) m { getFp s m with tc10 := 0 }) 3 m) m))
    ∧ ((getFp s m).tc10 = 1 → exec (.tc10PartnerRefuse m) s = .next (sleepHeld (tc10Event (setFp s m { getFp s m with tc10 := 0 }) 4 m) m))
    ∧ ((getFp s m).tc10En = true → (getFp s m).tc10 = 1 → exec (.tc10PartnerSleepReq m) s = .next (tc10Sleep s m 1))
    ∧ ((getFp s m).tc10En = true → (getFp s m).tc10 = 0 → (getFp s m).link = true → s.gh.sleepState = .none →
        exec (.tc10PartnerSleepReq m) s = .next
          (if (getFp s m).acceptSleep = true ∧ (getFp s m).wakeAt ≠ some s.localNs then tc10Sleep s m 2 else tc10Event s 8 m))
    ∧ (wakeReturns s (getFp s m) = true → exec (.tc10WakePulseRx m) s = .next s ∧ exec (.tc10WakeRequestRx m) s = .next s)
    ∧ (wakeReturns s (getFp s m) = false → (getFp s m).tc10 = 2 → exec (.tc10WakePulseRx m) s = .next
        (wake (tc10Forward (tc10Event (bump (tc10Train s m) .tc10Wakes m 1) 6 m) m) 8 m))
    ∧ (wakeReturns s (getFp s m) = false → (getFp s m).tc10 = 1 → exec (.tc10WakePulseRx m) s = .next
        (wake (tc10Forward (tc10Event (bump (setFp s m { getFp s m with tc10 := 0 }) .tc10Wakes m 1) 5 m) m) 8 m))
    ∧ (wakeReturns s (getFp s m) = false → (getFp s m).tc10En = true → (getFp s m).tc10 = 2 → exec (.tc10WakeRequestRx m) s = .next (wake s 8 m))
    ∧ (wakeReturns s (getFp s m) = false → (getFp s m).tc10En = true → (getFp s m).tc10 = 0 → exec (.tc10WakeRequestRx m) s = .next
        (tc10Forward (tc10Event (bump s .tc10Wakes m 1) 7 m) m))
    ∧ (wakeReturns s (getFp s m) = false → (getFp s m).tc10En = true → (getFp s m).tc10 = 1 → exec (.tc10WakeRequestRx m) s = .next
        (wake (tc10Forward (tc10Event (bump (setFp s m { getFp s m with tc10 := 0 }) .tc10Wakes m 1) 5 m) m) 8 m)) := by
  simp only [← faceEvent_tc10]
  refine ⟨exec_tc10PartnerAck, exec_tc10SleepTimeout, exec_tc10PartnerRefuse, exec_tc10PartnerSleepReq_asleep, exec_tc10PartnerSleepReq_active,
    exec_tc10Wake_returns, fun h h2 => ?_, fun h h1 => ?_, fun h hen h2 => ?_, fun h hen h0 => ?_, fun h hen h1 => ?_⟩
  · rw [exec_tc10WakePulseRx h, if_pos h2]
  · rw [exec_tc10WakePulseRx h, if_neg (by omega), if_pos h1]
  · rw [exec_tc10WakeRequestRx h hen, if_neg (by omega), if_neg (by omega), if_pos h2]
  · rw [exec_tc10WakeRequestRx h hen, if_pos h0]
  · rw [exec_tc10WakeRequestRx h hen, if_neg (by omega), if_pos h1]

theorem tc10Sleep_eq (s : State) (m code : Nat) : tc10Sleep s m code =
    tc10Event (bump (setFp (linkDown s m 3) m { getFp (linkDown s m 3) m with tc10 := 2 }) .tc10Sleeps m 1) code m := faceEvent_tc10 ..

theorem exec_tempSample (s : State) (t0 t1 t2 t3 : Byte) : exec (.tempSample t0 t1 t2 t3) s = .next
    ((List.range 56).foldl recalRequest { s with face := { s.face with temp := sampledTemps t0 t1 t2 t3 } }) := rfl

/-- A sampled port asks for a recalibration, or is uncalibrated while it sleeps. -/
theorem sampledPort_asks (s : State) (m : Nat) (x : FacePort) :
    (sampledPort s m x).recal = (if x.enable = true ∧ x.link = true ∧ x.tc10 ≠ 2 ∧ x.recal = 0 ∧
      (s.face.recalDelta : Int) < |sgn 8 (nodeTemp s m) - sgn 8 x.calTemp| then 1 else x.recal) ∧
    (sampledPort s m x).calibrated = if x.enable = true ∧ x.tc10 = 2 ∧
      (s.face.recalDelta : Int) < |sgn 8 (nodeTemp s m) - sgn 8 x.calTemp| then false else x.calibrated := by
  unfold sampledPort
  simp only [gt_iff_lt, tempGap_lt]
  by_cases hask : x.enable = true ∧ (s.face.recalDelta : Int) < |sgn 8 (nodeTemp s m) - sgn 8 x.calTemp|
  · obtain ⟨hen, hgap⟩ := hask
    rw [if_pos ⟨hen, hgap⟩]
    by_cases hsleep : x.tc10 = 2
    · simp [hen, hgap, hsleep]
    · by_cases hlink : x.link = true ∧ x.recal = 0
      · simp [hen, hgap, hsleep, hlink]
      · rw [if_neg hsleep, if_neg hlink, if_neg (fun h => hlink ⟨h.2.1, h.2.2.2.1⟩), if_neg (fun h => hsleep h.2.1)]
        exact ⟨rfl, rfl⟩
  · rw [if_neg hask, if_neg (fun h => hask ⟨h.1, h.2.2.2.2⟩), if_neg (fun h => hask ⟨h.1, h.2.2⟩)]
    exact ⟨rfl, rfl⟩

/-- Settles O27: samples, engines, tests and margins write their registers, and TC10 follows Table 10.6. -/
theorem faceMaintenance : Obligations.FaceMaintenance := by
  unfold Obligations.FaceMaintenance
  refine ⟨⟨?_, fun s m h => exec_recalStart h, ?_, fun s m hnone h => exec_cableTestStart hnone h, ?_, ?_⟩, ?_⟩
  · intro s t0 t1 t2 t3
    obtain ⟨hrest, hports⟩ := foldl_recalRequest { s with face := { s.face with temp := sampledTemps t0 t1 t2 t3 } }
    have hexec := exec_tempSample s t0 t1 t2 t3
    generalize (List.range 56).foldl recalRequest { s with face := { s.face with temp := sampledTemps t0 t1 t2 t3 } } = u at hrest hports hexec
    have htemp : u.face.temp = sampledTemps t0 t1 t2 t3 := by rw [hrest]
    refine ⟨u, hexec, fun q => by rw [htemp, tblGet_sampledTemps], fun m hm => ?_, ?_⟩
    · rw [hports m hm]
      have hnode : nodeTemp { s with face := { s.face with temp := sampledTemps t0 t1 t2 t3 } } m =
          ([t0, t1, t2, t3].getD (Config.quadrantOf m) 0#8).toNat := tblGet_sampledTemps t0 t1 t2 t3 (Config.quadrantOf m)
      have hasks := sampledPort_asks { s with face := { s.face with temp := sampledTemps t0 t1 t2 t3 } } m (getFp s m)
      rw [hnode] at hasks
      exact hasks
    · rw [htemp]
      exact hrest
  · intro s m h
    change execRecalDone m s = _
    unfold execRecalDone
    dsimp only
    rw [if_pos h, faceEvent_eq]
    rfl
  · intro s m r d h hr
    change execCableResult m r d s = _
    unfold execCableResult
    dsimp only
    rw [if_pos ⟨h, hr⟩, faceEvent_eq]
    rfl
  · intro s m g hlink hm
    exact congrArg Host.Outcome.next (if_pos ⟨hlink, hm⟩)
  · intro s m x ev asleep active
    have hcases := tc10_cases s m
    simp only [tc10Sleep_eq, tc10Train_near] at hcases
    exact hcases

end Sys2Proof.Machine
end

section
/-! PROOFS. Transceiver faults and halt frames (R286, R287, R327 to R329). -/

namespace Sys2Proof.Machine

/-! ### Bytes, most significant first -/

theorem imgBytes_eq (b : List Byte) (i n : Nat) : imgBytes b i n = (List.range n).map (fun j => b.getD (i + j) 0#8) := by
  unfold imgBytes
  dsimp only
  apply List.ext_getElem
  · simp only [List.length_append, List.length_replicate, List.length_map, List.length_range, List.length_take, List.length_drop]
    omega
  · intro j h1 h2
    simp only [List.length_map, List.length_range] at h2
    rw [List.getElem_map, List.getElem_range, List.getD_eq_getElem?_getD]
    by_cases hj : i + j < b.length
    · rw [List.getElem_append_left (by simp only [List.length_take, List.length_drop]; omega), List.getElem_take, List.getElem_drop,
        List.getElem?_eq_getElem hj]
      rfl
    · rw [List.getElem_append_right (by simp only [List.length_take, List.length_drop]; omega), List.getElem_replicate,
        List.getElem?_eq_none (by omega)]
      rfl

theorem beNat_append_singleton (l : List Byte) (x : Byte) : beNat (l ++ [x]) = beNat l * 256 + x.toNat := by
  unfold beNat
  rw [List.foldl_append]
  rfl

theorem beNat_imgBytes (b : List Byte) (i n : Nat) : beNat (imgBytes b i n) = beAt b i n := by
  rw [imgBytes_eq]
  unfold beAt
  induction n with
  | zero => rfl
  | succ n ih =>
    have hshift : (List.range n).map (fun j => (b.getD (i + j) 0#8).toNat * 256 ^ (n + 1 - 1 - j)) =
        (List.range n).map (fun j => (b.getD (i + j) 0#8).toNat * 256 ^ (n - 1 - j) * 256) := by
      refine List.map_congr_left fun j hj => ?_
      rw [show n + 1 - 1 - j = (n - 1 - j) + 1 by have := List.mem_range.1 hj; omega, Nat.pow_succ, Nat.mul_assoc]
    rw [List.range_succ, List.map_append, List.map_append, List.sum_append, hshift, List.sum_map_mul_right, ← ih, List.map_singleton,
      beNat_append_singleton]
    simp

/-! ### Halt frames (R286, R287) -/

/-- A halt frame b joins the halt queue of a node of OUT_MASK but its own, m. -/
def haltJoin (m : Nat) (b : List Byte) (s : State) (n : Nat) : State :=
  if bitOf s.haul.haltOut n ∧ n ≠ m then
    if lineUp s n then setPort s n { getPort s n with haltQ := (getPort s n).haltQ ++ [b] }
    else bump s .haltPortDown n 1
  else s

/-- Only the ports of Haul and the counters change from s to s'. -/
def HaltOnly (s s' : State) : Prop := s' = { s with haul := { s.haul with ports := s'.haul.ports }, counters := s'.counters }

theorem HaltOnly.trans {a b c : State} (hab : HaltOnly a b) (hbc : HaltOnly b c) : HaltOnly a c := by
  unfold HaltOnly at *
  rw [hbc, hab]

theorem haltJoin_only (m : Nat) (b : List Byte) (s : State) (n : Nat) : HaltOnly s (haltJoin m b s n) := by
  unfold haltJoin
  repeat' split
  all_goals rfl

/-- The queue that a halt frame b of node m leaves at node n. -/
def haltQueue (s : State) (m : Nat) (b : List Byte) (n : Nat) : List (List Byte) :=
  if bitOf s.haul.haltOut n ∧ n ≠ m ∧ lineUp s n then (getPort s n).haltQ ++ [b] else (getPort s n).haltQ

theorem haltJoin_queue (m : Nat) (b : List Byte) (s : State) (n : Nat) : (getPort (haltJoin m b s n) n).haltQ = haltQueue s m b n := by
  unfold haltJoin haltQueue
  split
  · next h =>
    split
    · next hup =>
      have hne : { getPort s n with haltQ := (getPort s n).haltQ ++ [b] } ≠ PortRec.reset n := fun he =>
        List.append_ne_nil_of_right_ne_nil _ (List.cons_ne_nil b []) (congrArg PortRec.haltQ he)
      rw [if_pos ⟨h.1, h.2, hup⟩]
      exact congrArg PortRec.haltQ (tblGet_tblSet_self' _ hne _ _)
    · next hup => rw [if_neg fun h => hup h.2.2]; rfl
  · next h => rw [if_neg fun h' => h ⟨h'.1, h'.2.1⟩]

theorem haltJoin_others (m : Nat) (b : List Byte) (s : State) {n j : Nat} (hj : j ≠ n) : getPort (haltJoin m b s n) j = getPort s j := by
  unfold haltJoin
  repeat' split
  · exact tblGet_tblSet_other _ _ _ hj _
  all_goals rfl

theorem haltQueue_congr {s s' : State} (h : HaltOnly s s') (m : Nat) (b : List Byte) {n : Nat} (hn : getPort s' n = getPort s n) :
    haltQueue s' m b n = haltQueue s m b n := by
  unfold haltQueue
  rw [hn, h]
  rfl

theorem foldl_haltJoin (m : Nat) (b : List Byte) : ∀ (l : List Nat) (s : State), l.Nodup →
    HaltOnly s (l.foldl (haltJoin m b) s) ∧ (∀ n ∈ l, (getPort (l.foldl (haltJoin m b) s) n).haltQ = haltQueue s m b n) ∧
    ∀ n, n ∉ l → getPort (l.foldl (haltJoin m b) s) n = getPort s n
  | [], _, _ => ⟨rfl, fun _ h => (List.not_mem_nil h).elim, fun _ _ => rfl⟩
  | k :: l, s, hnodup => by
    obtain ⟨hk, hnodup⟩ := List.nodup_cons.1 hnodup
    obtain ⟨honly, hin, hout⟩ := foldl_haltJoin m b l (haltJoin m b s k) hnodup
    rw [List.foldl_cons]
    refine ⟨(haltJoin_only m b s k).trans honly, fun n hn => ?_, fun n hn => ?_⟩
    · rcases List.mem_cons.1 hn with rfl | hn
      · rw [hout _ hk, haltJoin_queue]
      · have hnk : n ≠ k := fun h => hk (h ▸ hn)
        rw [hin n hn]
        exact haltQueue_congr (haltJoin_only m b s k) m b (haltJoin_others m b s hnk)
    · simp only [List.mem_cons, not_or] at hn
      rw [hout n hn.2, haltJoin_others m b s hn.1]

/-- The state with the frame's node and count, before it goes on. -/
def haltNoted (s : State) (m : Nat) : State :=
  let s := bump s .haltRx 0 1
  { s with haul := { s.haul with stop := true, lastNode := m, haltCount := min (s.haul.haltCount + 1) 65535 } }

/-- Whether a halt frame comes within the minimum gap. -/
def inHaltGap (s : State) : Bool := match s.haul.haltAt with
  | some t => decide (s.localNs < t + s.haul.haltGap * 1000)
  | none => false

theorem inHaltGap_iff (s : State) : inHaltGap s = true ↔ ∃ t, s.haul.haltAt = some t ∧ s.localNs < t + s.haul.haltGap * 1000 := by
  unfold inHaltGap
  split
  · next t h => simp [h]
  · next h => simp [h]

theorem haltRecognised_eq (s : State) (m : Nat) (b : List Byte) : haltRecognised s m b = postEvent
    (if inHaltGap s then bump (haltNoted s m) .haltSuppressed 0 1
      else (List.range 56).foldl (haltJoin m b) { haltNoted s m with haul := { (haltNoted s m).haul with haltAt := some s.localNs } })
    9 (haltPayload s m) := rfl

theorem postEvent_counted (s : State) (n : Nat) (p : List Nat) : postEvent s n p = { s with events := (postEvent s n p).events } := by
  unfold postEvent
  dsimp only
  repeat' split
  all_goals rfl

/-- The queue of events that a post leaves depends on the tick, the clock and the events only. -/
theorem postEvent_events_congr {s s' : State} (n : Nat) (p : List Nat) (hbench : s'.bench = s.bench) (hgh : s'.gh = s.gh)
    (htime : s'.time = s.time) (hnow : s'.localNs = s.localNs) (hev : s'.events = s.events) :
    (postEvent s' n p).events = (postEvent s n p).events := by
  unfold postEvent
  simp only [hbench, hgh, hev, nowShort, htime, hnow]
  repeat' split
  all_goals simp_all

/-- What recognition of a halt frame leaves (R286, R287). -/
theorem haltRecognised_effect (s : State) (m : Nat) (b : List Byte) : let s' := haltRecognised s m b
    s'.haul.stop = true ∧ s'.haul.lastNode = m ∧ s'.haul.haltCount = min (s.haul.haltCount + 1) 65535 ∧
    s' = { s with haul := s'.haul, counters := s'.counters, events := s'.events } ∧ s'.haul.haltConsume = s.haul.haltConsume ∧
    s'.events = (postEvent s 9 (haltPayload s m)).events ∧
    (if inHaltGap s then s'.haul.ports = s.haul.ports ∧ s'.haul.haltAt = s.haul.haltAt
    else s'.haul.haltAt = some s.localNs ∧ ∀ n, n < 56 → (getPort s' n).haltQ = haltQueue s m b n) := by
  intro s'
  have hs' : s' = _ := haltRecognised_eq s m b
  generalize s' = r at hs'
  clear s'
  subst hs'
  rw [postEvent_counted]
  by_cases hgap : inHaltGap s = true
  · rw [if_pos hgap, if_pos hgap]
    exact ⟨rfl, rfl, rfl, rfl, rfl, postEvent_events_congr _ _ rfl rfl rfl rfl rfl, rfl, rfl⟩
  · rw [if_neg hgap, if_neg hgap]
    obtain ⟨honly, hin, -⟩ := foldl_haltJoin m b (List.range 56)
      { haltNoted s m with haul := { (haltNoted s m).haul with haltAt := some s.localNs } } List.nodup_range
    generalize (List.range 56).foldl (haltJoin m b) _ = u at honly hin
    have hhaul : u.haul = { s.haul with
        stop := true, lastNode := m, haltCount := min (s.haul.haltCount + 1) 65535, haltAt := some s.localNs, ports := u.haul.ports } :=
      congrArg State.haul honly
    unfold HaltOnly at honly
    refine ⟨congrArg Haul.stop hhaul, congrArg Haul.lastNode hhaul, congrArg Haul.haltCount hhaul, ?_, by rw [hhaul], ?_,
      congrArg Haul.haltAt hhaul, fun n hn => ?_⟩
    · rw [honly]
      rfl
    · exact postEvent_events_congr _ _ (by rw [honly]; rfl) (by rw [honly]; rfl) (by rw [honly]; rfl) (by rw [honly]; rfl) (by rw [honly]; rfl)
    · exact hin n (List.mem_range.2 hn)

/-- A state with other counters, of which HALT_SUPPRESSED is the same. -/
def CountedOnly (s u : State) : Prop := u = { s with counters := u.counters } ∧ getCtr u .haltSuppressed 0 = getCtr s .haltSuppressed 0

theorem CountedOnly.refl (s : State) : CountedOnly s s := ⟨rfl, rfl⟩

theorem CountedOnly.bump {s u : State} (h : CountedOnly s u) {c : Ctr} {i : Nat} (n : Nat) (hc : ctrKey .haltSuppressed 0 ≠ ctrKey c i) :
    CountedOnly s (bump u c i n) := by
  have hset (cs : Tbl Nat) : { u with counters := cs } = { s with counters := cs } := by rw [h.1]
  exact ⟨hset _, (tblGet_tblSet_other _ _ _ hc _).trans h.2⟩

/-- A frame after the counters of its line. -/
def lineCounted (s : State) (m : Nat) (raw : List Byte) (line : RxLine) : State :=
  if 32 ≤ m ∧ m < 48 ∧ raw.length > (getPlca (countFec s m line) (m - 32)).segMax then Machine.bump (countFec s m line) .segOversize (m - 32) 1
  else countFec s m line

theorem lineCounted_only (s : State) (m : Fin 56) (raw : List Byte) (line : RxLine) : CountedOnly s (lineCounted s m raw line) := by
  have hm := m.isLt
  have hfec : CountedOnly s (countFec s m line) := by
    unfold countFec
    split
    · exact ((CountedOnly.refl s).bump _ (by simp only [ctrKey, Ctr.place]; omega)).bump _ (by simp only [ctrKey, Ctr.place]; omega)
    · exact .refl s
  unfold lineCounted
  split
  · exact hfec.bump _ (by simp only [ctrKey, Ctr.place]; omega)
  · exact hfec

/-- MACsec leaves alone a frame without it, and any frame of a node that has no MACsec. -/
theorem macsecCheck_plain {s : State} {m : Nat} {sec : SecMark} (h : sec = .clear ∨ (8 ≤ m ∧ m < 48)) (t : Nat) (b : List Byte) :
    macsecCheck s m t sec b = { st := s, failed := false, sa := none, drop := false, bytes := b } := by
  unfold macsecCheck
  dsimp only
  rcases h with rfl | h
  · split <;> rfl
  · exact if_neg (by omega)

theorem haltPayload_counted {s u : State} (h : CountedOnly s u) (m : Nat) : haltPayload u m = haltPayload s m := by
  unfold haltPayload tick32
  rw [h.2, congrArg State.bench h.1]

/-- What an arriving frame does once its line is counted and MACsec has answered x, ps picoseconds after its first bit; err is what the
line says of it. -/
def checkedFrame (m ps : Nat) (plca : Byte) (err : Bool) (x : MacsecRes) : State :=
  let bytes := x.bytes
  let s := x.st
  let err := err || x.failed
  let s := if err then bump s .rxErr m 1 else s
  let halt := !err && !x.drop && isHalt s m bytes
  let s := if halt then haltRecognised s m bytes else s
  if halt && s.haul.haltConsume then s
  else
    let cap := ingressCapture s ps
    match storeFrame s m (ingressClass s m bytes) bytes with
    | (s, .ok h d) =>
      if x.drop then discardStored s h d
      else
        screenFrame s { src := m, bytes := bytes, ident := portIdent s m bytes plca, handle := h, desc := d,
                        rxTime := rxTimeOf m cap, stamp := stampRecord m cap,
                        arrVc := none, sa := x.sa, bad := err }
    | (s, _) => s

theorem frameArrives_eq (s : State) (m : Nat) (raw : List Byte) (line : RxLine) (sec : SecMark) (plca : Byte) :
    frameArrives s m raw line sec plca = checkedFrame m (sinceFirst (lineCounted s m raw line) m raw.length line) plca (lineBad s m line || !fcsOk raw)
      (macsecCheck (lineCounted s m raw line) m
        ((lineCounted s m raw line).localNs - sinceFirst (lineCounted s m raw line) m raw.length line / 1000) sec raw) := rfl

theorem checkedFrame_halt {s : State} {m : Nat} {b : List Byte} (hhalt : isHalt s m b = true)
    (hconsume : (haltRecognised s m b).haul.haltConsume = true) (ps : Nat) (plca : Byte) :
    checkedFrame m ps plca false { st := s, failed := false, sa := none, drop := false, bytes := b } = haltRecognised s m b := by
  unfold checkedFrame
  simp [hhalt, hconsume]

/-- A halt frame that is consumed ends at its recognition. -/
theorem frameArrives_halt {s : State} {m : Fin 56} {b : List Byte} {sec : SecMark} (hsec : sec = .clear ∨ (8 ≤ m.val ∧ m.val < 48))
    (hfcs : fcsOk b = true) (hhalt : isHalt s m b = true) (hconsume : s.haul.haltConsume = true) (plca : Byte) :
    frameArrives s m b cleanLine sec plca = haltRecognised (lineCounted s m b cleanLine) m b := by
  have hcount := lineCounted_only s m b cleanLine
  have hhalt' : isHalt (lineCounted s m b cleanLine) m b = true := by
    rw [hcount.1]
    exact hhalt
  have herr : (lineBad s m cleanLine || !fcsOk b) = false := by simp [lineBad, cleanLine, hfcs]
  obtain ⟨-, -, -, -, hkeep, -⟩ := haltRecognised_effect (lineCounted s m b cleanLine) m b
  have hgo : (haltRecognised (lineCounted s m b cleanLine) m b).haul.haltConsume = true := by
    rw [hkeep, hcount.1]
    exact hconsume
  rw [frameArrives_eq, herr, macsecCheck_plain hsec]
  exact checkedFrame_halt hhalt' hgo _ _

/-- Settles O28: transceiver faults hold the bus until they end, and halt frames stop the line. -/
theorem busFaultsAndHalt : Obligations.BusFaultsAndHalt := by
  unfold Obligations.BusFaultsAndHalt
  refine ⟨?_, ?_⟩
  · intro s c x ev
    refine ⟨fun hmode => ?_, rfl, rfl, rfl, fun ground hground => ⟨?_, ?_⟩, fun on hc => ?_, fun hc hmode hen => ?_, fun hc hmode => ?_⟩
    · exact congrArg Host.Outcome.next ((if_neg (by decide)).trans (if_pos hmode))
    · exact congrArg Host.Outcome.next ((if_neg (by rcases hground with h | h <;> simp [h])).trans (if_neg (by decide)))
    · exact congrArg Host.Outcome.next ((if_neg (by rcases hground with h | h <;> simp [h])).trans (if_pos rfl))
    · exact congrArg Host.Outcome.next (if_pos ⟨hc, rfl⟩)
    · exact congrArg Host.Outcome.next ((if_pos (.inl ⟨hc, hmode, hen⟩)).trans (if_pos hc))
    · exact congrArg Host.Outcome.next ((if_pos (.inr ⟨hc, hmode⟩)).trans (if_neg (by omega)))
  · intro s m b sec plca hsec hup hen hin hfcs hmin hmax hda hetype hmagic
    have hlineUp : lineUp s m = true := (if_pos m.isLt).trans hup
    have hhalt : isHalt s m b = true := by
      unfold isHalt
      rw [hen, hin, hfcs, beNat_imgBytes, beNat_imgBytes, beNat_imgBytes, hda, hetype, hmagic]
      simp [hmin, hmax]
    have hexec : exec (.haltFrameReceive m b sec plca) s = .next (frameArrives s m b cleanLine sec plca) := by
      refine congrArg Host.Outcome.next ?_
      rw [macsecCheck_plain hsec]
      exact if_pos ⟨hlineUp, hfcs, rfl, rfl, hhalt⟩
    refine ⟨?_, _, hexec, fun hconsume => ?_⟩
    · rw [hexec]
      exact congrArg Host.Outcome.next (if_neg (by simp [hlineUp])).symm
    rw [frameArrives_halt hsec hfcs hhalt hconsume]
    have hcount := lineCounted_only s m b cleanLine
    obtain ⟨hstop, hlast, hnum, hrest, -, hevents, hgap⟩ := haltRecognised_effect (lineCounted s m b cleanLine) m b
    rw [haltPayload_counted hcount] at hevents
    generalize haltRecognised _ _ _ = r at *
    generalize lineCounted s m b cleanLine = u at *
    obtain ⟨hu, -⟩ := hcount
    refine ⟨hstop, hlast, hnum.trans (by rw [hu]), ?_, ?_, ?_⟩
    · rw [hrest, hu]
    · rw [hevents, hu]
      exact postEvent_events_congr _ _ rfl rfl rfl rfl rfl
    · have hgapEq : inHaltGap u = inHaltGap s := by rw [hu]; rfl
      rw [hgapEq] at hgap
      have hqueue (n : Nat) (hn : n < 56) : haltQueue u m b n =
          if bitOf s.haul.haltOut n ∧ n ≠ m.val ∧ (getFp s n).up = true then (getPort s n).haltQ ++ [b] else (getPort s n).haltQ := by
        rw [hu]
        unfold haltQueue lineUp
        rw [if_pos hn]
        rfl
      by_cases h : inHaltGap s = true
      · rw [if_pos h, hu] at hgap
        rw [if_pos ((inHaltGap_iff s).1 h)]
        exact hgap
      · rw [if_neg h] at hgap
        rw [if_neg fun h' => h ((inHaltGap_iff s).2 h')]
        exact ⟨hgap.1.trans (by rw [hu]), fun n hn => (hgap.2 n hn).trans (hqueue n hn)⟩

end Sys2Proof.Machine
end

section
/-! PROOFS. The schedules and answers of LIN and the Spall set (R354 to R356). -/

namespace Sys2Proof.Machine

theorem linRuns_of {s : State} {l : Nat} (hen : (getLin s l).en = true) (hcommander : (getPhy s (16 + l)).commander = true)
    (hmode : (getPhy s (16 + l)).mode = 1) (hheld : (getPhy s (16 + l)).held = false) (hslots : (getLin s l).slots ≠ [])
    (hsafe : s.triad.safe = false) (hfree : s.pair.busHeld = false) : linRuns s l = true := by
  unfold linRuns isSafe
  simp [hen, hcommander, hmode, hheld, hslots, hsafe, hfree]

/-- The slot that a commander's schedule comes to. -/
def linNext (x : LinChan) : Nat := if x.running then (x.slot + 1) % x.slots.length else 0

/-- A commander's state in slot k, whose length is e's, from an instant on. -/
def inSlot (x : LinChan) (now : Nat) : LinChan :=
  { x with running := true, slot := linNext x, next := now + (x.slots.getD (linNext x) (0, 1)).2 * 1000000 }

/-- The slot starts on s, which the clock has reached. -/
def slotStart (s : State) (l : Nat) (x : LinChan) : State :=
  match (tblGet LinId.reset x.ids (x.slots.getD (linNext x) (0, 1)).1).dir, (tblGet LinId.reset x.ids (x.slots.getD (linNext x) (0, 1)).1).buf with
  | 1, some b => linAnswer (setLin s l (inSlot x s.localNs)) l b
  | _, _ => setLin s l (inSlot x s.localNs)

/-- The state at the instant of a commander's next slot. -/
def slotDue (s : State) (x : LinChan) : State := if x.running then advance s (x.next - s.localNs) else s

theorem slotDue_eq (s : State) (x : LinChan) : (slotDue s x).localNs = (if x.running then max s.localNs x.next else s.localNs) ∧
    (slotDue s x).relay = s.relay ∧ (slotDue s x).counters = s.counters := by
  unfold slotDue
  split
  · refine ⟨?_, rfl, rfl⟩
    simp only [advance]
    omega
  · exact ⟨rfl, rfl, rfl⟩

theorem bump_counters {s s' : State} (h : s'.counters = s.counters) (c : Ctr) (i n : Nat) : (bump s' c i n).counters = (bump s c i n).counters := by
  simp only [bump, getCtr, h]

theorem linSlot_runs {s : State} {l : Nat} (h : linRuns s l = true) : linSlot s l = slotStart (slotDue s (getLin s l)) l (getLin s l) := by
  unfold linSlot
  dsimp only
  rw [if_neg (by simp [h])]
  rfl

theorem getLin_setLin_running (s : State) (l : Nat) {x : LinChan} (h : x.running = true) : getLin (setLin s l x) l = x :=
  tblGet_tblSet_self' _ (fun he => Bool.noConfusion (h.symm.trans (congrArg LinChan.running he))) _ _

theorem slotStart_effect (s : State) (l : Nat) (x : LinChan) : (slotStart s l x).localNs = s.localNs ∧
    getLin (slotStart s l x) l = inSlot x s.localNs ∧
    (match (tblGet LinId.reset x.ids (x.slots.getD (linNext x) (0, 1)).1).dir, (tblGet LinId.reset x.ids (x.slots.getD (linNext x) (0, 1)).1).buf with
      | 1, some b => (slotStart s l x).relay.linOut = tblSet [] s.relay.linOut l b ∧
          (slotStart s l x).counters = (bump s .relayTxFrames (16 + l) 1).counters
      | _, _ => (slotStart s l x).relay.linOut = s.relay.linOut ∧ (slotStart s l x).counters = s.counters) := by
  have hlin : getLin (setLin s l (inSlot x s.localNs)) l = inSlot x s.localNs := getLin_setLin_running _ _ rfl
  unfold slotStart
  generalize (tblGet LinId.reset x.ids (x.slots.getD (linNext x) (0, 1)).1).dir = dir
  generalize (tblGet LinId.reset x.ids (x.slots.getD (linNext x) (0, 1)).1).buf = buf
  split
  · exact ⟨rfl, hlin, rfl, rfl⟩
  · next hnone =>
    refine ⟨rfl, hlin, ?_⟩
    split
    · next hsome => exact (hnone _ rfl rfl).elim
    · exact ⟨rfl, rfl⟩

theorem execLinHeaderReceive_answers {s : State} {l : Fin 8} {i : Fin 64} (hen : (getLin s l).en = true)
    (hresponder : (getPhy s (16 + l)).commander = false) (hmode : (getPhy s (16 + l)).mode = 1) (hheld : (getPhy s (16 + l)).held = false)
    (hdir : (tblGet LinId.reset (getLin s l).ids i).dir = 1) (hsafe : s.triad.safe = false) (hfree : s.pair.busHeld = false) :
    exec (.linHeaderReceive l i) s = .next (match (tblGet LinId.reset (getLin s l).ids i).buf with
      | some b => linAnswer s l b
      | none => bump s .noResponse l 1) :=
  congrArg Host.Outcome.next (if_neg (by simp [hen, hresponder, hmode, hheld, hdir, isSafe, hsafe, hfree]))

/-! ### The Spall set (R356) -/

/-- Only the Relay and Face change from s to s'. -/
def RelayFace (s s' : State) : Prop := s' = { s with relay := s'.relay, face := s'.face }

theorem RelayFace.trans {a b c : State} (hab : RelayFace a b) (hbc : RelayFace b c) : RelayFace a c := by
  unfold RelayFace at *
  rw [hbc, hab]

theorem RelayFace.foldl {β : Type} {f : State → β → State} (hf : ∀ s x, RelayFace s (f s x)) : ∀ (l : List β) (s : State), RelayFace s (l.foldl f s)
  | [], _ => rfl
  | x :: l, s => (hf s x).trans (RelayFace.foldl hf l (f s x))

theorem spallApply_good {s : State} {img : List Byte} {good : Bool} (h : (good && spallOk img) = true) :
    RelayFace s (spallApply s img good) ∧ (spallApply s img good).relay.spallLoaded = true := by
  unfold spallApply
  rw [if_pos h]
  dsimp only
  refine ⟨?_, rfl⟩
  have hcanPhy := RelayFace.foldl (fun s i => (rfl : RelayFace s (applyCanPhy s (imgBytes img (28 + 4 * i) 4)))) (List.range (spallParse img).canPhy) s
  refine hcanPhy.trans ?_
  generalize (List.range (spallParse img).canPhy).foldl _ s = s
  refine (RelayFace.foldl (fun s i => (rfl : RelayFace s (applyLinPhy s (imgBytes img (28 + 4 * (spallParse img).canPhy + 4 * i) 4)))) (List.range (spallParse img).linPhy) s).trans ?_
  generalize (List.range (spallParse img).linPhy).foldl _ s = s
  refine (RelayFace.foldl (fun s i => (rfl : RelayFace s (applyCanCtl s (imgBytes img ((spallParse img).oCanCtl + 12 * i) 12)))) (List.range (spallParse img).canCtl) s).trans ?_
  generalize (List.range (spallParse img).canCtl).foldl _ s = s
  refine (RelayFace.foldl (fun s r => (rfl : RelayFace s (applyLinCtl s r))) (spallParse img).lins s).trans ?_
  generalize (spallParse img).lins.foldl _ s = s
  exact (RelayFace.foldl (fun s i => (rfl : RelayFace s (applyRelayParams s img ((spallParse img).oParams + 24 * i)))) (List.range (spallParse img).params) s).trans rfl

theorem spallApply_bad {s : State} {img : List Byte} {good : Bool} (h : (good && spallOk img) = false) :
    spallApply s img good = { s with relay := { s.relay with spallBad := true }, face := { s.face with phys := [] } } :=
  if_neg (by simp [h])

/-- The Spall set of a start that waits for it. -/
theorem execSpallLoad_waking {s : State} (img : List Byte) (good : Bool) (hmode : s.gh.mode = .waking) (hstep : s.gh.relStep = 0 ∨ s.gh.relStep = 5)
    (hrelease : s.gh.asserted = 0) (hspall : s.vault.boot.spall = true) (hheader : s.vault.boot.headerOk = true)
    (hfresh : s.relay.spallLoaded = false) (hsound : s.relay.spallBad = false) :
    exec (.spallLoad img good) s = .next (
      if (spallApply s img (good && spallRead s img)).relay.spallLoaded = true ∧ (spallApply s img (good && spallRead s img)).relay.spallOff = false
      then enterMode (spallApply s img (good && spallRead s img)) .limp else spallApply s img (good && spallRead s img)) := by
  refine congrArg Host.Outcome.next ((if_pos ⟨hmode, hstep, hrelease, hspall, hfresh, hsound⟩).trans ?_)
  rw [hheader, Bool.and_true]

/-- Settles O39: schedules walk their slots, responders answer from their buffers, and a start takes its Spall set or reports it bad. -/
theorem linAndSpall : Obligations.LinAndSpall := by
  unfold Obligations.LinAndSpall
  refine ⟨?_, ?_, ?_⟩
  · intro s l x hen hcommander hmode hheld hslots hsafe hfree k e now
    refine ⟨_, congrArg Host.Outcome.next (linSlot_runs (linRuns_of hen hcommander hmode hheld hslots hsafe hfree)), ?_⟩
    obtain ⟨hnow, hrelay, hcounters⟩ := slotDue_eq s x
    obtain ⟨htime, hslot, hout⟩ := slotStart_effect (slotDue s x) l x
    rw [hnow] at htime hslot
    rw [hrelay, bump_counters hcounters, hcounters] at hout
    exact ⟨htime, hslot, hout⟩
  · intro s l i x hen hresponder hmode hheld hdir hsafe hfree
    exact execLinHeaderReceive_answers hen hresponder hmode hheld hdir hsafe hfree
  · intro s img hmode hstep hrelease hspall hheader hfresh hsound _
    refine ⟨fun good hbad => ?_, fun hread hok => ?_⟩
    · have hbad' : (good && spallRead s img && spallOk img) = false := by
        rcases hbad with h | h | h <;> simp [h]
      rw [execSpallLoad_waking img good hmode hstep hrelease hspall hheader hfresh hsound, spallApply_bad hbad']
      exact congrArg Host.Outcome.next (if_neg fun h => Bool.noConfusion (hfresh.symm.trans h.1))
    · have hexec := execSpallLoad_waking img true hmode hstep hrelease hspall hheader hfresh hsound
      obtain ⟨honly, hloaded⟩ := spallApply_good (s := s) (img := img) (good := true && spallRead s img) (by simp [hread, hok])
      generalize spallApply s img (true && spallRead s img) = u at *
      unfold RelayFace at honly
      have hgh : u.gh = s.gh := by rw [honly]
      refine ⟨_, hexec, ?_⟩
      by_cases hoff : u.relay.spallOff = true
      · rw [if_neg (by simp [hoff])]
        exact ⟨hloaded, by rw [if_pos hoff, hgh], by rw [honly]⟩
      · have hon : u.relay.spallOff = false := Bool.eq_false_iff.2 hoff
        rw [if_pos ⟨hloaded, hon⟩]
        refine ⟨hloaded, ?_, ?_⟩
        · rw [← hgh]
          exact (if_neg hoff).symm
        · unfold enterMode
          rw [honly]

end Sys2Proof.Machine
end

section
/-! PROOFS. Frames sent on CAN and the faults of its controllers (R349, R350, R352, R353). -/

namespace Sys2Proof.Machine

theorem getCan_setCan {s : State} {c : Nat} {x : CanChan} (h : x ≠ CanChan.reset) : getCan (setCan s c x) c = x := tblGet_tblSet_self' _ h _ _

theorem getCan_setCan_ne (s : State) {c j : Nat} (x : CanChan) (h : j ≠ c) : getCan (setCan s c x) j = getCan s j := tblGet_tblSet_ne _ _ _ h

theorem ne_canReset {x : CanChan} (h : x.en = true) : x ≠ CanChan.reset := fun he => Bool.noConfusion (h.symm.trans (congrArg CanChan.en he))

/-! ### Transmit buffers (R353) -/

theorem canAged_fresh {s : State} {c : Nat} (h : ∀ y ∈ (getCan s c).bufs, s.localNs < y.2 + s.relay.txLife * 1000000) : canAged s c = s := by
  refine if_neg fun hany => ?_
  obtain ⟨y, hy, hold⟩ := List.any_eq_true.1 hany
  have := h y hy
  have := of_decide_eq_true hold
  omega

theorem canAged_old {s : State} {c : Nat} (h : ∃ y ∈ (getCan s c).bufs, y.2 + s.relay.txLife * 1000000 ≤ s.localNs) :
    canAged s c = bump (setCan s c { getCan s c with
        bufs := (getCan s c).bufs.filter (fun e => !decide (e.2 + s.relay.txLife * 1000000 ≤ s.localNs)) }) .txExpired c
      ((getCan s c).bufs.filter (fun e => decide (e.2 + s.relay.txLife * 1000000 ≤ s.localNs))).length := by
  obtain ⟨y, hy, hold⟩ := h
  exact if_pos (List.any_eq_true.2 ⟨y, hy, decide_eq_true hold⟩)

/-! ### Arbitration (R353) -/

theorem canOffer_some {l : List (CanMsg × Nat)} (h : l ≠ []) : ∃ e, canOffer l = some e ∧ e ∈ l ∧ ∀ y ∈ l, arbitration e.1 ≤ arbitration y.1 := by
  induction l with
  | nil => exact absurd rfl h
  | cons x t ih =>
    unfold canOffer
    by_cases ht : t = []
    · subst ht
      exact ⟨x, rfl, List.mem_singleton_self x, fun y hy => (List.mem_singleton.1 hy) ▸ le_refl _⟩
    · obtain ⟨e, he, hmem, hmin⟩ := ih ht
      rw [he]
      dsimp only
      by_cases hlt : arbitration e.1 < arbitration x.1
      · refine ⟨e, if_pos hlt, List.mem_cons_of_mem _ hmem, fun y hy => ?_⟩
        rcases List.mem_cons.1 hy with rfl | hy
        · exact hlt.le
        · exact hmin y hy
      · refine ⟨x, if_neg hlt, List.mem_cons_self, fun y hy => ?_⟩
        rcases List.mem_cons.1 hy with rfl | hy
        · exact le_refl _
        · exact (not_lt.1 hlt).trans (hmin y hy)

theorem errorLess_bufs (x : CanChan) : (errorLess x).bufs = x.bufs ∧ (errorLess x).en = x.en := by
  unfold errorLess errorSettle
  dsimp only
  split <;> exact ⟨rfl, rfl⟩

/-- A channel's state with the frame e on its bus. -/
def canSent (s : State) (c : Nat) (e : CanMsg × Nat) : State :=
  let x := getCan s c
  let s1 := setCan s c (errorLess { x with bufs := x.bufs.erase e })
  let s2 := if e.1.fmt = .xl ∧ (getPhy s c).fastEn = false then bump s1 .fastRefused c 1 else s1
  bump { s2 with relay := { s2.relay with busOut := tblSet (classicalFrame false 0 []) s2.relay.busOut c e.1 } } .relayTxFrames c 1

theorem canSend_offers {s : State} {c : Nat} {e : CanMsg × Nat} (hen : (getCan s c).en = true) (hon : (getCan s c).state ≠ 2)
    (hmode : (getPhy s c).mode = 1) (hheld : (getPhy s c).held = false) (hsafe : s.triad.safe = false) (hfree : s.pair.busHeld = false)
    (hfresh : ∀ y ∈ (getCan s c).bufs, s.localNs < y.2 + s.relay.txLife * 1000000)
    (hoffer : canOffer ((getCan s c).bufs.filter (fun e => canFormat (getCan s c) e.1.fmt)) = some e) : canSend s c = canSent s c e := by
  unfold canSend
  rw [canAged_fresh hfresh]
  dsimp only
  rw [if_neg (by simp [hen, hon, hmode, hheld, isSafe, hsafe, hfree]), hoffer]
  rfl

theorem canSent_effect (s : State) (c : Nat) (e : CanMsg × Nat) : ∃ (can : Tbl CanChan) (counters : Tbl Nat),
    canSent s c e = { s with
      relay := { s.relay with can := can, busOut := tblSet (classicalFrame false 0 []) s.relay.busOut c e.1 }, counters := counters } ∧
    can = tblSet CanChan.reset s.relay.can c (errorLess { getCan s c with bufs := (getCan s c).bufs.erase e }) ∧
    counters = (bump (if e.1.fmt = .xl ∧ (getPhy s c).fastEn = false then bump s .fastRefused c 1 else s) .relayTxFrames c 1).counters := by
  unfold canSent
  dsimp only
  split
  all_goals exact ⟨_, _, rfl, rfl, rfl⟩

/-- The clock runs to the end of the oldest frame's life. -/
theorem canAged_advance {s : State} {c t life : Nat} {m : CanMsg} {l : List (CanMsg × Nat)} (hlife : s.relay.txLife * 1000000 = life)
    (hbufs : (getCan s c).bufs = (m, t) :: l) (n : Nat) (hn : n = t + life - s.localNs) :
    canAged (advance s n) c = bump (setCan (advance s n) c { getCan s c with
        bufs := l.filter (fun e => !decide (e.2 + life ≤ max s.localNs (t + life))) }) .txExpired c
      (1 + (l.filter (fun e => decide (e.2 + life ≤ max s.localNs (t + life)))).length) := by
  have hnow : (advance s n).localNs = max s.localNs (t + life) := by
    simp only [advance]
    omega
  have hlife' : (advance s n).relay.txLife * 1000000 = life := hlife
  have hbufs' : (getCan (advance s n) c).bufs = (m, t) :: l := hbufs
  have hsame : getCan (advance s n) c = getCan s c := rfl
  generalize advance s n = u at *
  have hold : decide (t + life ≤ max s.localNs (t + life)) = true := decide_eq_true (le_max_right _ _)
  have hone : t + u.relay.txLife * 1000000 ≤ u.localNs := by
    rw [hlife', hnow]
    exact le_max_right _ _
  rw [canAged_old ⟨(m, t), by rw [hbufs']; exact List.mem_cons_self, hone⟩, hbufs', hnow, hlife', hsame,
    List.filter_cons_of_neg (by rw [hold]; decide), List.filter_cons_of_pos (a := (m, t)) (p := fun e => decide (e.2 + life ≤ max s.localNs (t + life))) hold,
    List.length_cons, Nat.add_comm (List.length _) 1]

theorem canTxExpire_exec {s : State} {c : Fin 16} {t : Nat} {m : CanMsg} {l : List (CanMsg × Nat)} (hbufs : (getCan s c).bufs = (m, t) :: l) :
    exec (.canTxExpire c) s = .next (canAged (advance s (t + s.relay.txLife * 1000000 - s.localNs)) c) := by
  change execCanTxExpire c s = _
  unfold execCanTxExpire canExpire
  rw [hbufs]

/-- Settles O38: node 57 parses its frames; CAN channels send what would win, drop what is too old and keep their fault states. -/
theorem busTransmit : Obligations.BusTransmit := by
  unfold Obligations.BusTransmit
  refine ⟨?_, ?_, ?_, ?_, ?_, ?_⟩
  · intro s t ht
    refine congrArg Host.Outcome.next ?_
    unfold relayEgress
    rw [ht]
  · intro s c hen hon hmode hheld hsafe hfree hfresh hsome hwf
    obtain ⟨y, hy, hfmt⟩ := hsome
    obtain ⟨e, hoffer, hmem, hmin⟩ := canOffer_some (l := (getCan s c).bufs.filter (fun e => canFormat (getCan s c) e.1.fmt))
      (List.ne_nil_of_mem (List.mem_filter.2 ⟨hy, hfmt⟩))
    obtain ⟨hbuf, hform⟩ := List.mem_filter.1 hmem
    have hsend := canSend_offers hen hon hmode hheld hsafe hfree hfresh hoffer
    obtain ⟨can, counters, heq, hcan, hcounters⟩ := canSent_effect s c e
    rw [heq] at hsend
    obtain ⟨hbufs, hen'⟩ := errorLess_bufs { getCan s c with bufs := (getCan s c).bufs.erase e }
    subst hcan
    refine ⟨_, e, congrArg Host.Outcome.next hsend, hbuf, hform, fun y hy hf => hmin y (List.mem_filter.2 ⟨hy, hf⟩), ?_, ?_, hcounters,
      fun j hj => tblGet_tblSet_ne _ _ _ hj, rfl⟩
    · exact (congrArg CanChan.bufs (tblGet_tblSet_self' _ (ne_canReset (hen'.trans hen)) _ _)).trans hbufs
    · exact tblGet_tblSet_self _ _ _ _ hwf
  · intro s c m t l hbufs life old
    exact (canTxExpire_exec hbufs).trans (congrArg Host.Outcome.next (canAged_advance rfl hbufs _ rfl))
  · intro s c a b hen hactive
    refine congrArg Host.Outcome.next ((if_pos ⟨hen, hactive⟩).trans ?_)
    unfold canState
    rw [Nat.one_mul]
    rfl
  · intro s c hen hon
    exact ⟨(drawFree s).1 % 256, Nat.mod_lt _ (by decide), congrArg Host.Outcome.next (if_pos ⟨hen, hon⟩)⟩
  · intro s c hoff hrecovering
    exact congrArg Host.Outcome.next (if_pos ⟨hoff, hrecovering⟩)

end Sys2Proof.Machine
end

section
/-! PROOFS. Frames received on CAN and LIN: counts, identity words and direct forwarding (R343, R351, R357). -/

namespace Sys2Proof.Machine

theorem getCtr_bump_ne (s : State) {c c' : Ctr} {i i' : Nat} (n : Nat) (h : ctrKey c i ≠ ctrKey c' i') : getCtr (bump s c' i' n) c i = getCtr s c i :=
  tblGet_tblSet_other _ _ _ h _

theorem getCtr_bump_self {s : State} (h : tblWf 0 s.counters = true) (c : Ctr) (i n : Nat) :
    getCtr (bump s c i n) c i = (getCtr s c i + n) % 2 ^ 64 := tblGet_tblSet_self _ _ _ _ h

/-! ### Transmit buffers and response buffers (R353, R355) -/

/-- Only the CAN channels, without channel k, and counters other than SPALL_FWD change from s to s'. -/
structure CanBuffered (k : Nat) (s s' : State) : Prop where
  rest : s' = { s with relay := { s.relay with can := s'.relay.can }, counters := s'.counters }
  chan : getCan s' k = getCan s k
  fwd : ∀ c, c < 24 → getCtr s' .spallFwd c = getCtr s .spallFwd c

theorem CanBuffered.refl (k : Nat) (s : State) : CanBuffered k s s := ⟨rfl, rfl, fun _ _ => rfl⟩

theorem CanBuffered.trans {k : Nat} {a b c : State} (hab : CanBuffered k a b) (hbc : CanBuffered k b c) : CanBuffered k a c :=
  ⟨by rw [hbc.rest, hab.rest], hbc.chan.trans hab.chan, fun i hi => (hbc.fwd i hi).trans (hab.fwd i hi)⟩

theorem setCan_buffered {k j : Nat} (h : k ≠ j) (s : State) (x : CanChan) : CanBuffered k s (setCan s j x) :=
  ⟨rfl, getCan_setCan_ne s x h, fun _ _ => rfl⟩

theorem bump_buffered (k : Nat) (s : State) {c : Ctr} {i : Nat} (n : Nat) (h : ∀ j, j < 24 → ctrKey .spallFwd j ≠ ctrKey c i) :
    CanBuffered k s (bump s c i n) := ⟨rfl, rfl, fun j hj => getCtr_bump_ne s n (h j hj)⟩

theorem spallFwd_key {c : Ctr} {i : Nat} (hc : c.place.2.1 < 11) (hp : c.place.1 = 11) (hi : i < 24) {j : Nat} (hj : j < 24) : ctrKey .spallFwd j ≠ ctrKey c i := by
  have h : ctrKey .spallFwd j = 11 * 2 ^ 26 + 11 * 2 ^ 20 + j := rfl
  rw [h]
  unfold ctrKey
  omega

theorem canAged_buffered {k j : Nat} (h : k ≠ j) (hj : j < 16) (s : State) : CanBuffered k s (canAged s j) := by
  unfold canAged
  dsimp only
  split
  · exact (setCan_buffered h s _).trans (bump_buffered k _ _ fun _ hi => spallFwd_key (by decide) rfl (by omega) hi)
  · exact .refl k s

theorem canBuffer_buffered {k j : Nat} (h : k ≠ j) (hj : j < 16) (s : State) (m : CanMsg) : CanBuffered k s (canBuffer s j m) := by
  unfold canBuffer
  dsimp only
  refine (canAged_buffered h hj s).trans ?_
  split
  · exact bump_buffered k _ _ fun _ hi => spallFwd_key (by decide) rfl (by omega) hi
  · exact setCan_buffered h _ _

theorem foldl_canBuffer_others {k : Nat} (m : CanMsg) : ∀ (l : List Nat) (s : State), k ∉ l → (∀ j ∈ l, j < 16) →
    CanBuffered k s (l.foldl (fun s j => canBuffer s j m) s)
  | [], s, _, _ => .refl k s
  | j :: l, s, hk, hlt => by
    simp only [List.mem_cons, not_or] at hk
    exact (canBuffer_buffered hk.1 (hlt j List.mem_cons_self) s m).trans
      (foldl_canBuffer_others m l _ hk.2 fun i hi => hlt i (List.mem_cons_of_mem j hi))

/-- Whether channel k has room for another frame and none that its life has passed. -/
def CanRoom (s : State) (k : Nat) : Prop :=
  (getCan s k).bufs.length < 32 ∧ ∀ y ∈ (getCan s k).bufs, s.localNs < y.2 + s.relay.txLife * 1000000

theorem canBuffer_room {s : State} {k : Nat} (h : CanRoom s k) (m : CanMsg) :
    canBuffer s k m = setCan s k { getCan s k with bufs := (getCan s k).bufs ++ [(m, s.localNs)] } := by
  unfold canBuffer
  rw [canAged_fresh h.2]
  exact if_neg (not_le.2 h.1)

theorem canBuffer_bufs {s : State} {k : Nat} (h : CanRoom s k) (m : CanMsg) :
    (getCan (canBuffer s k m) k).bufs = (getCan s k).bufs ++ [(m, s.localNs)] := by
  rw [canBuffer_room h, getCan_setCan]
  exact fun he => List.append_ne_nil_of_right_ne_nil _ (List.cons_ne_nil (m, s.localNs) []) (congrArg CanChan.bufs he)

theorem CanRoom.of_buffered {k : Nat} {s s' : State} (h : CanRoom s k) (hb : CanBuffered k s s') : CanRoom s' k := by
  have hnow : s'.localNs = s.localNs := by rw [hb.rest]
  have hlife : s'.relay.txLife = s.relay.txLife := by rw [hb.rest]
  unfold CanRoom
  rw [hb.chan, hnow, hlife]
  exact h

/-- A frame for several channels joins the buffers of each that has room. -/
theorem foldl_canBuffer {k : Nat} (m : CanMsg) : ∀ (l : List Nat) (s : State), l.Nodup → k ∈ l → (∀ j ∈ l, j < 16) → CanRoom s k →
    (getCan (l.foldl (fun s j => canBuffer s j m) s) k).bufs = (getCan s k).bufs ++ [(m, s.localNs)] ∧
    ∀ c, c < 24 → getCtr (l.foldl (fun s j => canBuffer s j m) s) .spallFwd c = getCtr s .spallFwd c
  | [], _, _, hk, _, _ => (List.not_mem_nil hk).elim
  | j :: l, s, hnodup, hk, hlt, hroom => by
    obtain ⟨hj, hnodup⟩ := List.nodup_cons.1 hnodup
    have hlt' : ∀ i ∈ l, i < 16 := fun i hi => hlt i (List.mem_cons_of_mem j hi)
    rw [List.foldl_cons]
    by_cases hkj : k = j
    · subst hkj
      have hrest := foldl_canBuffer_others m l (canBuffer s k m) hj hlt'
      refine ⟨(congrArg CanChan.bufs hrest.chan).trans (canBuffer_bufs hroom m), fun c hc => (hrest.fwd c hc).trans ?_⟩
      rw [canBuffer_room hroom]
      rfl
    · have hfirst := canBuffer_buffered hkj (hlt j List.mem_cons_self) s m
      obtain ⟨hbufs, hfwd⟩ := foldl_canBuffer m l (canBuffer s j m) hnodup ((List.mem_cons.1 hk).resolve_left hkj) hlt' (hroom.of_buffered hfirst)
      have hnow : (canBuffer s j m).localNs = s.localNs := by rw [hfirst.rest]
      rw [hfirst.chan, hnow] at hbufs
      exact ⟨hbufs, fun c hc => (hfwd c hc).trans (hfirst.fwd c hc)⟩

/-- A LIN channel with a response buffer written. -/
def linWritten (x : LinChan) (i : Nat) (payload : List Byte) : LinChan :=
  { x with ids := tblSet LinId.reset x.ids i { tblGet LinId.reset x.ids i with buf := some (fitBytes payload (tblGet LinId.reset x.ids i).len) } }

theorem linWritten_buf (x : LinChan) (i : Nat) (payload : List Byte) :
    tblGet LinId.reset (linWritten x i payload).ids i = { tblGet LinId.reset x.ids i with buf := some (fitBytes payload (tblGet LinId.reset x.ids i).len) } :=
  tblGet_tblSet_self' _ (fun he => Option.some_ne_none _ (congrArg LinId.buf he)) _ _

theorem getLin_linWrite (s : State) (l i : Nat) (payload : List Byte) : getLin (linWrite s l i payload) l = linWritten (getLin s l) i payload := by
  refine tblGet_tblSet_self' _ (fun he => ?_) _ _
  have hbuf := congrArg LinId.buf (linWritten_buf (getLin s l) i payload)
  have hids : (linWritten (getLin s l) i payload).ids = [] := congrArg LinChan.ids he
  rw [hids] at hbuf
  exact Option.some_ne_none _ hbuf.symm

theorem foldl_linWrite {i : Nat} (payload : List Byte) : ∀ (l : List Nat) (s : State), l.Nodup →
    (l.foldl (fun s l => linWrite s l i payload) s).counters = s.counters ∧
    (∀ k ∈ l, getLin (l.foldl (fun s l => linWrite s l i payload) s) k = linWritten (getLin s k) i payload) ∧
    ∀ k, k ∉ l → getLin (l.foldl (fun s l => linWrite s l i payload) s) k = getLin s k
  | [], _, _ => ⟨rfl, fun _ h => (List.not_mem_nil h).elim, fun _ _ => rfl⟩
  | j :: l, s, hnodup => by
    obtain ⟨hj, hnodup⟩ := List.nodup_cons.1 hnodup
    obtain ⟨hcounters, hin, hout⟩ := foldl_linWrite payload l (linWrite s j i payload) hnodup
    have hother (k : Nat) (hk : k ≠ j) : getLin (linWrite s j i payload) k = getLin s k := tblGet_tblSet_ne _ _ _ hk
    rw [List.foldl_cons]
    refine ⟨hcounters, fun k hk => ?_, fun k hk => ?_⟩
    · rcases List.mem_cons.1 hk with rfl | hk
      · rw [hout _ hj, getLin_linWrite]
      · rw [hin k hk, hother k fun h => hj (h ▸ hk)]
    · simp only [List.mem_cons, not_or] at hk
      rw [hout k hk.2, hother k hk.1]

/-! ### Frames accepted (R350, R351) -/

/-- What a frame accepted on a CAN channel leaves before the Relay forwards it. -/
structure CanTaken (c : Nat) (s s1 : State) : Prop where
  rest : s1 = { s with relay := { s.relay with can := s1.relay.can }, freeIdx := s1.freeIdx, counters := (bump s .relayRxFrames c 1).counters }
  recCount : (getCan s1 c).recCount ≤ (getCan s c).recCount
  tecCount : (getCan s1 c).tecCount = (getCan s c).tecCount
  others : ∀ k, k ≠ c → getCan s1 k = getCan s k

theorem errorSettle_counts (y : CanChan) : (errorSettle y).recCount = y.recCount ∧ (errorSettle y).tecCount = y.tecCount ∧
    (errorSettle y).en = y.en := by
  unfold errorSettle
  split <;> exact ⟨rfl, rfl, rfl⟩

theorem recLess_taken {s : State} {c : Nat} (h : (getCan s c).en = true) : CanTaken c s (bump (recLess s c) .relayRxFrames c 1) := by
  have hset (u : State) (n : Nat) (hn : n ≤ (getCan s c).recCount) :
      (getCan (setCan u c (errorSettle { getCan s c with recCount := n })) c).recCount ≤ (getCan s c).recCount ∧
      (getCan (setCan u c (errorSettle { getCan s c with recCount := n })) c).tecCount = (getCan s c).tecCount := by
    obtain ⟨hrec, htec, hen⟩ := errorSettle_counts { getCan s c with recCount := n }
    rw [getCan_setCan (ne_canReset (hen.trans h)), hrec, htec]
    exact ⟨hn, rfl⟩
  unfold recLess
  dsimp only
  split
  · next hhigh =>
    obtain ⟨hrec, htec⟩ := hset (drawFree s).2 (119 + (drawFree s).1 % 9) (by omega)
    exact ⟨rfl, hrec, htec, fun k hk => getCan_setCan_ne _ _ hk⟩
  · obtain ⟨hrec, htec⟩ := hset s ((getCan s c).recCount - 1) (Nat.sub_le _ _)
    exact ⟨rfl, hrec, htec, fun k hk => getCan_setCan_ne _ _ hk⟩

/-- The Relay hands a CAN frame to Screen. -/
def canUp (s : State) (c : Nat) (m : CanMsg) (stamp : Nat) : State :=
  if m.fmt = .xl then relayIngress s c ((0x80 + c) * 2 ^ 56 + m.id % 2048) true (acfXl m c stamp)
  else relayIngress s c ((0x80 + c) * 2 ^ 56 + ((if m.ide then 2 ^ 29 else 0) + m.id % 2 ^ 29)) false (acfCan m c stamp)

/-- What the Relay does with an accepted CAN frame. -/
def canTakenOn (s : State) (c : Nat) (m : CanMsg) (stamp : Nat) : State :=
  if s.relay.spallOff then canUp s c m stamp
  else match canRoute s c m with
    | some r => forwardCan s c m r
    | none => if s.screen.current.isSome then canUp s c m stamp else bump s .spallMiss c 1

theorem canUp_eq (s : State) (c : Nat) (m : CanMsg) (back : Nat) :
    (if m.fmt = .xl then relayIngress s c (canIdent c m) true (acfXl m c (relayStamp s back))
      else relayIngress s c (canIdent c m) false (acfCan m c (relayStamp s back))) = canUp s c m (relayStamp s back) := by
  have hbit : b2n m.ide * 2 ^ 29 = if m.ide then 2 ^ 29 else 0 := by cases m.ide <;> rfl
  unfold canUp canIdent
  rw [hbit]
  split <;> rfl

theorem canReceive_taken {s : State} {c : Nat} {m : CanMsg} (haccept : canAccepts s c m.fmt = true)
    (hmode : (getPhy s c).mode = 1 ∨ (getPhy s c).mode = 2) (back : Nat) :
    canReceive s c m back = canTakenOn (bump (recLess s c) .relayRxFrames c 1) c m (relayStamp (bump (recLess s c) .relayRxFrames c 1) back) := by
  unfold canReceive canTakenOn
  dsimp only
  rw [if_neg (by simp [haccept, hmode])]
  generalize bump (recLess s c) .relayRxFrames c 1 = u
  refine ite_congr rfl (fun _ => canUp_eq u c m back) fun _ => ?_
  generalize canRoute u c m = route
  cases route with
  | some r => rfl
  | none => exact ite_congr rfl (fun _ => canUp_eq u c m back) fun _ => rfl

/-- What the Relay does with an accepted LIN response. -/
def linTakenOn (s : State) (l i : Nat) (payload : List Byte) (stamp : Nat) : State :=
  if s.relay.spallOff then relayIngress s (16 + l) ((0xC0 + l) * 2 ^ 56 + i) false (acfLin l i stamp payload)
  else match linRoute s l i with
    | some r => forwardLin s l payload r
    | none => if s.screen.current.isSome then relayIngress s (16 + l) ((0xC0 + l) * 2 ^ 56 + i) false (acfLin l i stamp payload)
      else bump s .spallMiss (16 + l) 1

theorem linReceive_taken {s : State} {l i : Nat} {payload : List Byte} (hen : (getLin s l).en = true) (hmode : (getPhy s (16 + l)).mode = 1)
    (hdir : (tblGet LinId.reset (getLin s l).ids i).dir = 2) (good : Bool) (back : Nat) :
    linReceive s l i payload good back = if good = false ∨ payload.length ≠ (tblGet LinId.reset (getLin s l).ids i).len then bump s .linErr l 1
      else linTakenOn (bump s .relayRxFrames (16 + l) 1) l i payload (relayStamp s back) := by
  unfold linReceive linTakenOn
  dsimp only
  rw [if_neg (by simp [hen, hmode, hdir])]
  split
  · rfl
  · refine ite_congr rfl (fun _ => rfl) fun _ => ?_
    generalize linRoute (bump s .relayRxFrames (16 + l) 1) l i = route
    cases route <;> rfl

/-- What SPALL_FWD counts of a frame once it counts as received. -/
theorem spallFwd_counted {s u : State} {i n : Nat} (hwf : tblWf 0 s.counters = true) (hi : i < 24) (hn : n < 24)
    (hu : u.counters = (bump s .relayRxFrames i 1).counters) : getCtr (bump u .spallFwd n 1) .spallFwd n = (getCtr s .spallFwd n + 1) % 2 ^ 64 := by
  have hwf' : tblWf 0 u.counters = true := by
    rw [hu]
    exact tblSet_wf _ _ hwf
  have hsame : getCtr u .spallFwd n = getCtr s .spallFwd n := by
    unfold getCtr
    rw [hu]
    exact getCtr_bump_ne s 1 (spallFwd_key (by decide) rfl hi hn)
  rw [getCtr_bump_self hwf', hsame]

theorem CanRoom.congr {s u : State} {k : Nat} (h : CanRoom s k) (hchan : getCan u k = getCan s k) (hnow : u.localNs = s.localNs)
    (hlife : u.relay.txLife = s.relay.txLife) : CanRoom u k := by
  unfold CanRoom
  rw [hchan, hnow, hlife]
  exact h

/-- A frame forwarded to CAN channels joins each that has room. -/
theorem forwarded_can {s u : State} {i k : Nat} (m : CanMsg) {l : List Nat} (hwf : tblWf 0 s.counters = true) (hi : i < 24)
    (hu : u.counters = (bump s .relayRxFrames i 1).counters) (hchan : getCan u k = getCan s k) (hnow : u.localNs = s.localNs)
    (hlife : u.relay.txLife = s.relay.txLife) (hnodup : l.Nodup) (hk : k ∈ l) (hlt : ∀ j ∈ l, j < 16) (hroom : CanRoom s k) :
    (getCan (l.foldl (fun s j => canBuffer s j m) (bump u .spallFwd i 1)) k).bufs = (getCan s k).bufs ++ [(m, s.localNs)] ∧
    getCtr (l.foldl (fun s j => canBuffer s j m) (bump u .spallFwd i 1)) .spallFwd i = (getCtr s .spallFwd i + 1) % 2 ^ 64 := by
  have hroom' : CanRoom (bump u .spallFwd i 1) k := hroom.congr hchan hnow hlife
  obtain ⟨hbufs, hfwd⟩ := foldl_canBuffer m l (bump u .spallFwd i 1) hnodup hk hlt hroom'
  have hchan' : getCan (bump u .spallFwd i 1) k = getCan s k := hchan
  have hnow' : (bump u .spallFwd i 1).localNs = s.localNs := hnow
  rw [hchan', hnow'] at hbufs
  exact ⟨hbufs, (hfwd i hi).trans (spallFwd_counted hwf hi hi hu)⟩

theorem mem_channels {n k : Nat} {p : Nat → Bool} (hk : k < n) (hp : p k = true) : k ∈ (List.range n).filter p :=
  List.mem_filter.2 ⟨List.mem_range.2 hk, hp⟩

theorem channels_lt {n j : Nat} {p : Nat → Bool} (h : j ∈ (List.range n).filter p) : j < n := List.mem_range.1 (List.mem_filter.1 h).1

/-- Settles O37: accepted frames count, the first route forwards them, and the others reach Screen or count as misses. -/
theorem busReceive : Obligations.BusReceive := by
  unfold Obligations.BusReceive
  refine ⟨?_, ?_⟩
  · intro s c m back hen hon hmode hfd hxl hwf
    have haccept : canAccepts s c m.fmt = true := by
      unfold canAccepts canFormat
      cases hfmt : m.fmt
      · simp [hen, hon]
      · simp [hen, hon, hfd hfmt]
      · simp [hen, hon, hxl hfmt]
    have htaken := recLess_taken (s := s) (c := c) hen
    have hexec : exec (.canFrameReceive c m back) s = .next (canTakenOn (bump (recLess s c) .relayRxFrames c 1) c m
        (relayStamp (bump (recLess s c) .relayRxFrames c 1) back.toNat)) := congrArg Host.Outcome.next (canReceive_taken haccept hmode back.toNat)
    generalize bump (recLess s c) .relayRxFrames c 1 = u at htaken hexec
    have hstamp : relayStamp u back.toNat = relayStamp s back.toNat := by rw [htaken.rest]; rfl
    have hoff : u.relay.spallOff = s.relay.spallOff := by rw [htaken.rest]
    have hroute : canRoute u c m = canRoute s c m := by rw [htaken.rest]; rfl
    have hcurrent : u.screen.current = s.screen.current := by rw [htaken.rest]
    have hnow : u.localNs = s.localNs := by rw [htaken.rest]
    have hlife : u.relay.txLife = s.relay.txLife := by rw [htaken.rest]
    have hcounters : u.counters = (bump s .relayRxFrames c 1).counters := by rw [htaken.rest]
    have hlin (l : Nat) : getLin u l = getLin s l := by rw [htaken.rest]; rfl
    unfold canTakenOn at hexec
    rw [hstamp, hoff, hroute, hcurrent] at hexec
    refine ⟨u, htaken.rest, htaken.recCount, htaken.tecCount, fun hup => ?_, fun hdirect hnone hno => ?_, ?_, ?_⟩
    · rw [hexec]
      rcases hup with hoff' | ⟨hnone, hsome⟩
      · rw [if_pos hoff']
        rfl
      · rw [hnone, hsome]
        exact congrArg Host.Outcome.next (ite_self _)
    · rw [hexec, hdirect, hnone, hno]
      rfl
    · intro r k hdirect hsome hkind hk hbit hne hlen hfresh
      rw [hdirect, hsome] at hexec
      refine ⟨_, hexec, ?_⟩
      have hforward : forwardCan u c m r =
          ((List.range 16).filter (fun k => bitOf r.canMask k && k != c.val)).foldl (fun s k => canBuffer s k m) (bump u .spallFwd c 1) := if_pos hkind
      change (getCan (forwardCan u c m r) k).bufs = _ ∧ getCtr (forwardCan u c m r) .spallFwd c = _
      rw [hforward]
      exact forwarded_can m hwf (by omega) hcounters (htaken.others k hne) hnow hlife (List.nodup_range.filter _)
        (mem_channels hk (by simp [hbit, hne])) (fun j hj => channels_lt hj) ⟨hlen, hfresh⟩
    · intro r l hdirect hsome hkind hl hbit
      rw [hdirect, hsome] at hexec
      refine ⟨_, hexec, ?_⟩
      have hforward : forwardCan u c m r =
          ((List.range 8).filter (bitOf r.linMask)).foldl (fun s l => linWrite s l (r.outId % 64) m.payload) (bump u .spallFwd c 1) := if_neg hkind
      change getCtr (forwardCan u c m r) .spallFwd c = _ ∧ (tblGet LinId.reset (getLin (forwardCan u c m r) l).ids (r.outId % 64)).buf = _
      rw [hforward]
      obtain ⟨hcount, hin, -⟩ := foldl_linWrite (i := r.outId % 64) m.payload ((List.range 8).filter (bitOf r.linMask)) (bump u .spallFwd c 1)
        (List.nodup_range.filter _)
      have hlin' : getLin (bump u .spallFwd c 1) l = getLin s l := hlin l
      refine ⟨?_, ?_⟩
      · unfold getCtr at *
        rw [hcount]
        exact spallFwd_counted hwf (by omega) (by omega) hcounters
      · rw [hin l (mem_channels hl hbit), hlin', linWritten_buf]
  · intro s l i b back hen hmode hdir hwf n s1
    have hexec (good : Bool) : exec (.linResponseReceive l i b good back) s = .next (
        if good = false ∨ b.length ≠ n then bump s .linErr l 1 else linTakenOn s1 l i b (relayStamp s back.toNat)) :=
      congrArg Host.Outcome.next (linReceive_taken hen hmode hdir good back.toNat)
    refine ⟨fun good hbad => by rw [hexec, if_pos hbad], fun hlen => ?_⟩
    have hgood : exec (.linResponseReceive l i b true back) s = .next (linTakenOn s1 l i b (relayStamp s back.toNat)) := by
      rw [hexec, if_neg (by simp [hlen])]
    have hoff : s1.relay.spallOff = s.relay.spallOff := rfl
    have hroute : linRoute s1 l i = linRoute s l i := rfl
    have hcurrent : s1.screen.current = s.screen.current := rfl
    unfold linTakenOn at hgood
    rw [hoff, hroute, hcurrent] at hgood
    refine ⟨fun hup => ?_, fun hdirect hnone hno => ?_, ?_⟩
    · rw [hgood]
      rcases hup with hoff' | ⟨hnone, hsome⟩
      · rw [if_pos hoff']
      · rw [hnone, hsome]
        exact congrArg Host.Outcome.next (ite_self _)
    · rw [hgood, hdirect, hnone, hno]
      rfl
    · intro r k hdirect hsome hk hbit hroom hfresh
      rw [hdirect, hsome] at hgood
      refine ⟨_, hgood, ?_⟩
      exact forwarded_can _ hwf (by omega) rfl rfl rfl rfl (List.nodup_range.filter _) (mem_channels hk hbit) (fun j hj => channels_lt hj)
        ⟨hroom, hfresh⟩

end Sys2Proof.Machine
end

section
/-! PROOFS. Frames that arrive: the store takes them, and Screen keeps or drops them (R128, R139, R145, R147, R153, R322, R348). -/

namespace Sys2Proof.Machine

/-! ### The store (R223 to R228) -/

theorem QueueOnly.of_fst {α : Type} {s : State} {x : State × α} {u : State} {y : α} (hx : QueueOnly s x.1) (h : x = (u, y)) : QueueOnly s u := by
  subst h
  exact hx

theorem pfcLevel_queueOnly (s : State) (p : Nat) : QueueOnly s (pfcLevel s p) := (pfcLevel_storeOnly s p).queueOnly

theorem takeCell_queueOnly (p : Nat) (b : Option Nat) (s : State) (c : Nat) : QueueOnly s (takeCell p b s c) := rfl

theorem allocCells_queueOnly (s : State) (p n : Nat) : QueueOnly s (allocCells s p n).1 := by
  have hset (s : State) (p : Nat) (x : Pool) : QueueOnly s (setPool s p x) := rfl
  have htake (p : Nat) (b : Option Nat) (l : List Nat) (s : State) : QueueOnly s (l.foldl (takeCell p b) s) :=
    .foldl (takeCell_queueOnly p b) l s
  have hdone (s : State) (p : Nat) : QueueOnly s (bump (pfcLevel s p) .allocOk p 1) := (pfcLevel_queueOnly s p).trans rfl
  unfold allocCells
  dsimp only
  split
  · exact (hset ..).trans ((htake ..).trans (hdone ..))
  · split
    · exact (hset ..).trans ((hset ..).trans ((htake ..).trans ((htake ..).trans (hdone ..))))
    · split <;> rfl

theorem matchedAccess_queueOnly (s : State) (b : Nat) (x : PendCell) : QueueOnly s (matchedAccess s b x) := by
  unfold matchedAccess
  repeat' split
  all_goals rfl

theorem feedMatcher_queueOnly (s : State) : QueueOnly s (feedMatcher s) := by
  unfold feedMatcher
  refine QueueOnly.trans (.foldl (fun s x => ?_) _ _) (.foldl (fun s x => ?_) _ _)
  · dsimp only
    split <;> rfl
  · rfl

theorem bypassPending_queueOnly (s : State) : QueueOnly s (bypassPending s) := by
  unfold bypassPending
  dsimp only
  split
  · rfl
  · refine QueueOnly.trans ?_ (.foldl (fun s x => ?_) _ _) <;> rfl

theorem matchCellTime_queueOnly (s : State) : QueueOnly s (matchCellTime s) := by
  unfold matchCellTime
  dsimp only
  have hgp (u : State) (gp : Tbl Nat) : QueueOnly u { u with stock := { u.stock with gp := gp } } := rfl
  have hfed := (feedMatcher_queueOnly s).trans (bypassPending_queueOnly (feedMatcher s))
  generalize bypassPending (feedMatcher s) = u at hfed
  exact (hfed.trans (hgp u _)).trans (.foldl (fun s (e : Nat × PendCell) => matchedAccess_queueOnly s e.1 e.2) _ _)

theorem makeRoom_queueOnly (k : Nat) : ∀ (n : Nat) (s : State), QueueOnly s (makeRoom k n s)
  | 0, s => .refl s
  | n + 1, s => by
    unfold makeRoom
    split
    · exact .refl s
    · exact (matchCellTime_queueOnly s).trans (makeRoom_queueOnly k n _)

theorem writeCell_queueOnly (m : Nat) (s : State) (c : Nat) : QueueOnly s (writeCell m s c) := by
  unfold writeCell
  dsimp only
  refine (makeRoom_queueOnly (m % 8) 40 s).trans ?_
  split <;> rfl

theorem takeCells_queueOnly (p : Nat) : ∀ (n : Nat) (s : State), QueueOnly s (takeCells p n s).1
  | 0, s => .refl s
  | n + 1, s => by
    unfold takeCells
    split
    · next hgot =>
      have hcells := QueueOnly.of_fst (allocCells_queueOnly s p 1) hgot
      split
      · next hrest => exact hcells.trans (.of_fst (takeCells_queueOnly p n _) hrest)
      · next hrest => exact (hcells.trans (.of_fst (takeCells_queueOnly p n _) hrest)).trans (freeCells_storeOnly ..).queueOnly
    · next hgot => exact .of_fst (allocCells_queueOnly s p 1) hgot

theorem takeDesc_queueOnly {s s' : State} {i : Nat} (h : takeDesc s = some (i, s')) : QueueOnly s s' := by
  unfold takeDesc at h
  split at h
  · cases h
  · obtain ⟨-, rfl⟩ := Prod.mk.inj (Option.some.inj h)
    rfl

theorem storeFrame_queueOnly (s : State) (m c : Nat) (bytes : List Byte) : QueueOnly s (storeFrame s m c bytes).1 := by
  unfold storeFrame
  dsimp only
  split
  · next hgot => exact (QueueOnly.of_fst (takeCells_queueOnly ..) hgot).trans (by split <;> rfl)
  · next hgot =>
    have hcells := QueueOnly.of_fst (takeCells_queueOnly (poolOf s m c) (cellsFor bytes.length) s) hgot
    split
    · exact hcells.trans ((freeCells_storeOnly ..).queueOnly.trans rfl)
    · next hdesc =>
      exact hcells.trans ((takeDesc_queueOnly hdesc).trans ((setChain_queueOnly ..).trans (.foldl (fun s c => writeCell_queueOnly m s c) _ _)))

/-! ### Numbering of the waiting frames (R153) -/

/-- A packet stands in Screen, waiting or numbered. -/
def Stands (P : Packet → Prop) (s : State) : Prop := ∃ p ∈ s.screen.waiting ++ s.screen.dispatchQ, P p

/-- What a packet's number and its offer to the cache leave as they were. -/
def SameArrival (p q : Packet) : Prop :=
  q.handle = p.handle ∧ q.desc = p.desc ∧ q.src = p.src ∧ q.len = p.len ∧ q.epoch = p.epoch ∧ q.partner = p.partner ∧ q.profile = p.profile ∧
  q.ruleHit = p.ruleHit ∧ q.rule = p.rule ∧ q.entry = p.entry ∧ q.pass = p.pass ∧ q.dispatched = p.dispatched

theorem SameArrival.refl (p : Packet) : SameArrival p p := ⟨rfl, rfl, rfl, rfl, rfl, rfl, rfl, rfl, rfl, rfl, rfl, rfl⟩

theorem offerProbe_arrival (s : State) (p : Packet) (k : Option Nat) : SameArrival p (offerProbe s { p with seq := k }).2 := by
  unfold offerProbe
  dsimp only
  repeat' split
  all_goals exact SameArrival.refl p

theorem SameArrival.trans {p q r : Packet} (hpq : SameArrival p q) (hqr : SameArrival q r) : SameArrival p r := by
  unfold SameArrival at *
  simp only [hpq, hqr, and_self]

theorem assignWaiting_stands (m : Nat) (p : Packet) : ∀ (n : Nat) (s : State), Stands (SameArrival p) s → Stands (SameArrival p) (assignWaiting m n s)
  | 0, _, h => h
  | n + 1, s, h => by
    unfold assignWaiting
    split
    · exact h
    · next q hq =>
      split
      · refine assignWaiting_stands m p n _ ?_
        change Stands (SameArrival p) { (numbered s m q).1 with
          screen := { (numbered s m q).1.screen with dispatchQ := (numbered s m q).1.screen.dispatchQ ++ [(numbered s m q).2] } }
        have hscreen : (numbered s m q).1.screen = (counted s m q).screen := (offerProbe_queueOnly _ _).screen
        obtain ⟨x, hx, hsame⟩ := h
        unfold Stands
        rw [hscreen]
        rcases List.mem_append.1 hx with hwait | hready
        · by_cases hxq : x = q
          · subst hxq
            exact ⟨_, List.mem_append_right _ (List.mem_append_right _ (List.mem_singleton_self _)), hsame.trans (offerProbe_arrival _ _ _)⟩
          · exact ⟨x, List.mem_append_left _ ((List.mem_erase_of_ne hxq).2 hwait), hsame⟩
        · exact ⟨x, List.mem_append_right _ (List.mem_append_left _ hready), hsame⟩
      · exact h

/-! ### The stages of Screen -/

theorem screenFrame_errored {s : State} {a : Arrival} (hsafe : s.triad.safe = false) (h : a.bad = true ∨ a.bytes.length < 64 ∨ a.bytes.length > 16383) :
    screenFrame s a = discardStored (bump s .discardErr a.src 1) a.handle a.desc :=
  (if_neg (by simp [isSafe, hsafe])).trans (if_pos h)

/-- A frame without error and of a legal length. -/
structure Sound (a : Arrival) : Prop where
  good : a.bad = false
  min : 64 ≤ a.bytes.length
  max : a.bytes.length ≤ 16383

theorem Sound.passes {a : Arrival} (h : Sound a) : ¬(a.bad = true ∨ a.bytes.length < 64 ∨ a.bytes.length > 16383) := by
  have := h.min
  have := h.max
  rw [h.good]
  rintro (h | h | h)
  · cases h
  all_goals omega

theorem screenFrame_noRuleset {s : State} {a : Arrival} (hsafe : s.triad.safe = false) (ha : Sound a) (hnone : s.screen.current = none) :
    screenFrame s a = discardStored (bump s .noRulesetDrop a.src 1) a.handle a.desc := by
  refine (if_neg (by simp [isSafe, hsafe])).trans ((if_neg ha.passes).trans ?_)
  rw [hnone]

theorem recoverFrame_none {s : State} (h : s.pair.recovery = []) (m : Nat) (b : List Byte) : recoverFrame s m b = (s, some b) := by
  unfold recoverFrame
  rw [h]
  exact ite_self _

/-- The state in which a frame's partner is looked up. -/
def profiled (s : State) (r : RuleSet) (a : Arrival) : State := bump (bump s .rxFrames a.src 1) .profileHits (selectProfile r a.src a.bytes) 1

theorem screenFrame_partnerFrozen {s : State} {a : Arrival} {r : RuleSet} (hsafe : s.triad.safe = false) (ha : Sound a)
    (hrecovery : s.pair.recovery = []) (hrules : s.screen.current = some r) (hfrozen : partnerFrozen s (mapPartner s r a.src a.ident) = true) :
    screenFrame s a = discardStored (bump (profiled s r a) .partnerDrop (mapPartner s r a.src a.ident) 1) a.handle a.desc := by
  refine (if_neg (by simp [isSafe, hsafe])).trans ((if_neg ha.passes).trans ?_)
  rw [hrules]
  dsimp only
  rw [recoverFrame_none hrecovery]
  dsimp only
  rw [if_pos rfl]
  exact if_pos hfrozen

theorem meterEntry_admits {s : State} {e : Nat} {x : EntryRec} (hentry : serviceEntry s e = some x) (hrate : 0 < x.rate)
    (htokens : 1000000000 ≤ (refillEntry s e x.rate).tokens) : (meterEntry s e).2 = true := by
  unfold meterEntry
  rw [hentry]
  dsimp only
  rw [if_neg hrate.ne', if_neg (not_lt.2 htokens)]

/-- The words that the rule set's profile extracts from a frame. -/
def arrWords (r : RuleSet) (a : Arrival) : List Nat := extract r (selectProfile r a.src a.bytes) a.bytes

/-- The rule that wins for a frame. -/
def arrRule (s : State) (r : RuleSet) (a : Arrival) : Option Nat :=
  winningRule r (arrWords r a) (ruleKey r (selectProfile r a.src a.bytes) a.src (mapPartner s r a.src a.ident) (arrWords r a))

/-- The service entry of a rule, or of a profile without one. -/
def entryBy (r : RuleSet) (prof : Nat) : Option Nat → Nat
  | some i => rsField r (0x4100 + 32 * i + 0x1C) 1
  | none => profileWord r prof 0 / 2 ^ 16 % 256

/-- The service entry of a frame. -/
def arrEntry (s : State) (r : RuleSet) (a : Arrival) : Nat := entryBy r (selectProfile r a.src a.bytes) (arrRule s r a)

/-- The packet that stands for a frame. -/
def PacketOf (s : State) (r : RuleSet) (a : Arrival) (p : Packet) : Prop :=
  p.handle = a.handle ∧ p.desc = a.desc ∧ p.src = a.src ∧ p.len = a.bytes.length ∧ p.epoch = r.num ∧ p.partner = mapPartner s r a.src a.ident ∧
  p.profile = selectProfile r a.src a.bytes ∧ p.ruleHit = (arrRule s r a).isSome ∧ p.rule = (arrRule s r a).getD 0 ∧ p.entry = arrEntry s r a ∧
  p.pass = 0 ∧ p.dispatched = false

theorem arrEntry_eq (s : State) (r : RuleSet) (a : Arrival) : (if (arrRule s r a).isSome then rsField r (0x4100 + 32 * (arrRule s r a).getD 0 + 0x1C) 1
    else bits (profileWord r (selectProfile r a.src a.bytes) 0) 23 16) = arrEntry s r a := by
  unfold arrEntry
  cases arrRule s r a <;> rfl

/-- A frame that no stage drops waits in Screen. -/
theorem screenFrame_waits {s : State} {a : Arrival} {r : RuleSet} {x : EntryRec} (hsafe : s.triad.safe = false) (ha : Sound a)
    (hrecovery : s.pair.recovery = []) (hrules : s.screen.current = some r)
    (hfree : partnerFrozen s (mapPartner s r a.src a.ident) = false) (hcontract : getContract s (mapPartner s r a.src a.ident) = none)
    (hflags : profileWord r (selectProfile r a.src a.bytes) 0 / 2 ^ 31 % 2 = 1 ∨
      shapeFlags r (selectProfile r a.src a.bytes) a.bytes.length (arrWords r a) = (false, false))
    (hentry : serviceEntry s (arrEntry s r a) = some x) (hrate : 0 < x.rate)
    (htokens : 1000000000 ≤ (refillEntry s (arrEntry s r a) x.rate).tokens) :
    ∃ (u : State) (p : Packet) (n : Nat), screenFrame s a = assignWaiting a.src n { u with screen := { u.screen with waiting := u.screen.waiting ++ [p] } } ∧
      PacketOf s r a p := by
  have hfree' : partnerFrozen (profiled s r a) (mapPartner (profiled s r a) r a.src a.ident) = false := hfree
  have hcontract' : contractCheck (profiled s r a) (mapPartner (profiled s r a) r a.src a.ident) a.src a.bytes.length = (profiled s r a, true) := by
    unfold contractCheck
    have hnone : getContract (profiled s r a) (mapPartner (profiled s r a) r a.src a.ident) = none := hcontract
    rw [hnone]
  have hflags' := flagDrop_none hflags
  have hmeter (u : State) (hengine : u.engine = s.engine) (hnow : u.localNs = s.localNs) : (meterEntry u (arrEntry s r a)).2 = true := by
    refine meterEntry_admits ?_ hrate ?_ (x := x)
    · unfold serviceEntry getBank at *
      rw [hengine]
      exact hentry
    · unfold refillEntry at *
      rw [hengine, hnow]
      exact htokens
  unfold screenFrame
  dsimp only
  rw [if_neg (by simp [isSafe, hsafe]), if_neg ha.passes, hrules]
  dsimp only
  rw [recoverFrame_none hrecovery]
  dsimp only [shapePass]
  rw [if_pos rfl]
  change ∃ u p n, (if partnerFrozen (profiled s r a) (mapPartner (profiled s r a) r a.src a.ident) = true then _ else _) = _ ∧ _
  rw [if_neg (by simp [hfree'])]
  unfold profiled at hcontract'
  unfold arrWords at hflags'
  rw [hcontract']
  dsimp only
  rw [hflags']
  dsimp only
  have hadmits : (meterEntry (match arrRule s r a with
      | some i => bump (bump (bump s .rxFrames a.src 1) .profileHits (selectProfile r a.src a.bytes) 1) .ruleHits i 1
      | none => bump (bump s .rxFrames a.src 1) .profileHits (selectProfile r a.src a.bytes) 1) (arrEntry s r a)).2 = true :=
    hmeter _ (by cases arrRule s r a <;> rfl) (by cases arrRule s r a <;> rfl)
  rw [← arrEntry_eq] at hadmits
  split
  · next h => exact Bool.noConfusion (hadmits.symm.trans (congrArg Prod.snd h))
  · next u h =>
    refine ⟨u, _, _, rfl, ?_⟩
    refine ⟨rfl, rfl, rfl, rfl, rfl, ?_⟩
    dsimp only
    exact ⟨rfl, rfl, rfl, rfl, arrEntry_eq s r a, rfl, rfl⟩

/-! ### Arrival on a port (R322, R330) -/

/-- The frame that the store took as handle h and descriptor d, as Screen receives it. -/
def arrivalOf (s : State) (m : Nat) (b : List Byte) (ps : Nat) (plca : Byte) (err : Bool) (h d : Nat) : Arrival :=
  { src := m, bytes := b, ident := portIdent s m b plca, handle := h, desc := d, rxTime := rxTimeOf m (ingressCapture s ps)
    stamp := stampRecord m (ingressCapture s ps), arrVc := none, sa := none, bad := err }

/-- A frame of a halt-free device that the store takes goes on to Screen. -/
theorem checkedFrame_stored {s s1 : State} {m ps : Nat} {b : List Byte} {err : Bool} {h d : Nat} (hhalt : s.haul.haltEn = false)
    (hstore : storeFrame (if err then bump s .rxErr m 1 else s) m (ingressClass (if err then bump s .rxErr m 1 else s) m b) b = (s1, .ok h d))
    (plca : Byte) : ∃ a, checkedFrame m ps plca err { st := s, failed := false, sa := none, drop := false, bytes := b } = screenFrame s1 a ∧
      a.src = m ∧ a.bytes = b ∧ a.ident = portIdent s1 m b plca ∧ a.handle = h ∧ a.desc = d ∧ a.bad = err := by
  have hno (u : State) (hu : u.haul = s.haul) : isHalt u m b = false := by
    unfold isHalt
    rw [hu, hhalt]
    rfl
  unfold checkedFrame
  dsimp only
  rw [Bool.or_false, hno (if err then bump s .rxErr m 1 else s) (by split <;> rfl)]
  simp only [Bool.and_false, Bool.false_and, Bool.false_eq_true, if_false]
  rw [hstore]
  exact ⟨_, rfl, rfl, rfl, rfl, rfl, rfl, rfl⟩

theorem portIdent_congr {s s' : State} (h : s'.face = s.face) (m : Nat) (b : List Byte) (plca : Byte) : portIdent s' m b plca = portIdent s m b plca := by
  unfold portIdent getPlca
  rw [h]

theorem countFec_face (s : State) (m : Nat) (line : RxLine) : (countFec s m line).face = s.face ∧ (countFec s m line).haul = s.haul := by
  unfold countFec
  split <;> exact ⟨rfl, rfl⟩

/-- An arriving frame of a halt-free device that the store takes is what Screen receives. -/
theorem exec_frameReceive_stored {s s1 : State} {m : Fin 56} {b : List Byte} {line : RxLine} {plca : Byte} {h d : Nat} {err : Bool}
    (hup : (getFp s m).up = true) (hhalt : s.haul.haltEn = false) (hseg : 32 ≤ m.val → m.val < 48 → b.length ≤ (getPlca s (m - 32 : Nat)).segMax)
    (herr : (lineBad s m line || !fcsOk b) = err)
    (hstore : storeFrame (if err then bump (countFec s m line) .rxErr m 1 else countFec s m line) m
      (ingressClass (if err then bump (countFec s m line) .rxErr m 1 else countFec s m line) m b) b = (s1, .ok h d)) :
    ∃ a, exec (.frameReceive m b line .clear plca) s = .next (screenFrame s1 a) ∧ a.src = m ∧ a.bytes = b ∧ a.ident = portIdent s m b plca ∧
      a.handle = h ∧ a.desc = d ∧ a.bad = err := by
  obtain ⟨hface, hhaul⟩ := countFec_face s m line
  have hfits : lineCounted s m b line = countFec s m line := by
    refine if_neg fun hlong => ?_
    have hmax := hseg hlong.1 hlong.2.1
    have hover := hlong.2.2
    unfold getPlca at *
    rw [hface] at hover
    omega
  have hidface : s1.face = s.face := by
    have hq := QueueOnly.of_fst (storeFrame_queueOnly ..) hstore
    unfold QueueOnly at hq
    rw [hq]
    cases err <;> exact hface
  have hlineUp : lineUp s m = true := (if_pos m.isLt).trans hup
  obtain ⟨a, ha, hsrc, hbytes, hident, hrest⟩ :=
    checkedFrame_stored (ps := sinceFirst (countFec s m line) m b.length line) (hhaul ▸ hhalt) hstore plca
  refine ⟨a, ?_, hsrc, hbytes, hident.trans (portIdent_congr hidface ..), hrest⟩
  refine congrArg Host.Outcome.next ((if_neg (by simp [hlineUp])).trans ?_)
  rw [frameArrives_eq, macsecCheck_plain (.inl rfl), hfits, herr, ha]

/-- Settles O29: Screen keeps a sound frame as a packet with the fields that the rules give, and drops the others at their stage. -/
theorem screenFrames : Obligations.ScreenFrames := by
  unfold Obligations.ScreenFrames
  refine ⟨?_, ?_⟩
  · intro s s1 m b line plca h d r x s0 hup hline hfcs hhalt hsafe hmin hmax hseg hstore hrecovery hrules prof e partner w entry hfree
      hcontract hflags hentry hrate htokens
    obtain ⟨a, hexec, hsrc, hbytes, hident, hhandle, hdesc, hbad⟩ :=
      exec_frameReceive_stored (err := false) (plca := plca) hup hhalt hseg (by rw [hline, hfcs]; rfl) hstore
    have ha : Sound a := ⟨hbad, hbytes ▸ hmin, hbytes ▸ hmax⟩
    have hpartner : mapPartner s1 r a.src a.ident = partner := by rw [hsrc, hident]
    have hrule : arrRule s1 r a = w := by
      unfold arrRule arrWords
      rw [hpartner, hsrc, hbytes]
    have hby : arrEntry s1 r a = entryBy r prof w := by
      unfold arrEntry
      rw [hrule, hsrc, hbytes]
    have harr : arrEntry s1 r a = entry := hby
    obtain ⟨u, p, n, hwaits, hpacket⟩ := screenFrame_waits (x := x) hsafe ha hrecovery hrules (by rw [hpartner]; exact hfree)
      (by rw [hpartner]; exact hcontract) (by unfold arrWords; rw [hsrc, hbytes]; exact hflags) (by rw [harr]; exact hentry) hrate
      (by rw [harr]; exact htokens)
    refine ⟨_, hexec.trans (congrArg Host.Outcome.next hwaits), ?_⟩
    obtain ⟨q, hq, hsame⟩ := assignWaiting_stands a.src p n { u with screen := { u.screen with waiting := u.screen.waiting ++ [p] } }
      ⟨p, List.mem_append_left _ (List.mem_append_right _ (List.mem_singleton_self p)), .refl p⟩
    unfold PacketOf at hpacket
    rw [hrule, harr, hpartner, hsrc, hbytes, hhandle, hdesc] at hpacket
    unfold SameArrival at hsame
    refine ⟨q, hq, ?_⟩
    simp only [hsame, hpacket, prof, and_self]
  · intro s s1 m b line plca h d hup hhalt hsafe hseg s0
    refine ⟨fun herr hstore => ?_, fun hline hfcs hmin hmax hstore hnone => ?_, ?_⟩
    · have hbad : (lineBad s m line || !fcsOk b) = true := by
        rcases herr with h | h <;> simp [h]
      obtain ⟨a, hexec, hsrc, hbytes, hident, hhandle, hdesc, hbad⟩ := exec_frameReceive_stored (plca := plca) hup hhalt hseg hbad hstore
      rw [hexec, screenFrame_errored hsafe (.inl hbad), hsrc, hhandle, hdesc]
    · obtain ⟨a, hexec, hsrc, hbytes, hident, hhandle, hdesc, hbad⟩ :=
        exec_frameReceive_stored (err := false) (plca := plca) hup hhalt hseg (by rw [hline, hfcs]; rfl) hstore
      rw [hexec, screenFrame_noRuleset hsafe ⟨hbad, hbytes ▸ hmin, hbytes ▸ hmax⟩ hnone, hsrc, hhandle, hdesc]
    · intro r hline hfcs hmin hmax hstore hrecovery hrules partner hfrozen
      obtain ⟨a, hexec, hsrc, hbytes, hident, hhandle, hdesc, hbad⟩ :=
        exec_frameReceive_stored (err := false) (plca := plca) hup hhalt hseg (by rw [hline, hfcs]; rfl) hstore
      have hpartner : mapPartner s1 r a.src a.ident = partner := by rw [hsrc, hident]
      rw [hexec, screenFrame_partnerFrozen hsafe ⟨hbad, hbytes ▸ hmin, hbytes ▸ hmax⟩ hrecovery hrules (by rw [hpartner]; exact hfrozen), hpartner]
      unfold profiled
      rw [hsrc, hbytes, hhandle, hdesc]

end Sys2Proof.Machine
end

section
/-! PROOFS. Lanes and frames of the pair link, and the state delta (R384 to R401, R420). -/

namespace Sys2Proof.Machine

theorem pairUp_of_lane0 {s : State} (h : s.pair.lane0 = true) : pairUp s = true := by simp [pairUp, h]

theorem pairPassive_of {s : State} (h : s.pair.role = .follow ∨ s.pair.role = .rejoin) : pairPassive s = true := by
  unfold pairPassive
  rcases h with h | h <;> rw [h] <;> rfl

/-! ### Lanes (R384, R401) -/

theorem laneDown_one {s : State} (n : Nat) (h0 : s.pair.lane0 = true) (h1 : s.pair.lane1 = true) (hrole : pairPassive s = false) :
    laneDown s n = { s with pair := if n = 0 then { s.pair with lane0 := false } else { s.pair with lane1 := false } } := by
  unfold laneDown
  by_cases hn : n = 0
  · simp only [if_pos hn]
    rw [if_neg (by simp [pairUp, h1])]
    exact if_neg fun h => Bool.noConfusion (hrole.symm.trans h)
  · simp only [if_neg hn]
    rw [if_neg (by simp [pairUp, h0])]
    exact if_neg fun h => Bool.noConfusion (hrole.symm.trans h)

theorem nak_up {s : State} (h : pairUp s = true) (i : Nat) : nak s i = { s with pair := { s.pair with
    rxMiss := insertNat i s.pair.rxMiss, sent := s.pair.sent ++ [{ typ := 0x8, tick := s.bench.tickCount % 2 ^ 32, chunk := i }] } } := if_pos h

/-- A run of NAKs, once for each chunk of a list. -/
theorem foldl_nak : ∀ (l : List Nat) {s : State}, pairUp s = true → l.foldl nak s = { s with pair := { s.pair with
    rxMiss := l.foldl (fun l i => insertNat i l) s.pair.rxMiss
    sent := s.pair.sent ++ l.map (fun i => { typ := 0x8, tick := s.bench.tickCount % 2 ^ 32, chunk := i }) } }
  | [], s, _ => by rw [List.map_nil, List.append_nil]; rfl
  | i :: l, s, h => by
    have hup : pairUp (nak s i) = true := by
      rw [nak_up h]
      exact h
    rw [List.foldl_cons, foldl_nak l hup, nak_up h]
    dsimp only
    rw [List.append_assoc]
    rfl

theorem nakGaps_whole {s : State} (h0 : s.pair.lane0 = true) (h1 : s.pair.lane1 = true) (n : Nat) : nakGaps s n = s := if_pos (h0.trans h1.symm)

theorem laneDown_passive {s : State} (h0 : s.pair.lane0 = true) (hrole : pairPassive s = true) :
    laneDown s 1 = nakGaps { s with pair := { s.pair with lane1 := false, laneLost := true } }
      (chunksDue { s with pair := { s.pair with lane1 := false, laneLost := true } }) := by
  unfold laneDown
  simp only [Nat.one_ne_zero, if_false]
  rw [if_neg (by simp [pairUp, h0])]
  exact if_pos hrole

theorem laneDown_last {s : State} (h0 : s.pair.lane0 = true) (h1 : s.pair.lane1 = false) (hrx : s.pair.rx = none) :
    laneDown s 0 = { s with pair := { s.pair with
      lane0 := false, peerRole := 4, lostTick := some s.bench.tickCount, bulkTx := none, peerGone := s.pair.role == .rejoin } } := by
  unfold laneDown
  dsimp only
  rw [if_pos rfl, if_pos (by simp [pairUp, h0, h1]), hrx]

/-! ### Beats (R385) -/

theorem beatReceive_unpaired {s : State} {b : Beat} (h0 : s.pair.lane0 = true) (hrole : s.pair.role = .active ∨ s.pair.role = .off)
    (hsync : s.pair.sync = false) : beatReceive s b = { s with pair := { s.pair with
      side := !b.side, peerRole := b.role, skew := b.skew.toNat, bulkTx := none, heir := if b.role.val = 0 then none else s.pair.heir
      sync := b.tick.toNat == s.bench.tickCount && decide (b.skew.toInt.natAbs ≤ 1000) && b.leaseLen.val == s.pair.leaseLen
        && b.yieldOnLoss == s.pair.yieldOnLoss && b.takeOnExpiry == s.pair.takeOnExpiry } } := by
  have hlead : s.pair.role ≠ .lead := by rcases hrole with h | h <;> rw [h] <;> decide
  have hcode : roleInPair s.pair.role.code = false := by rcases hrole with h | h <;> rw [h] <;> rfl
  unfold beatReceive
  simp only [pairUp_of_lane0 h0, hsync, hlead, Bool.false_and, Bool.true_eq_false, Bool.false_eq_true, false_and, if_false]
  exact if_neg fun h => Bool.noConfusion (hcode.symm.trans h.2.1)

/-! ### Chunks (R397, R398, R400) -/

theorem seeChunk_whole {s : State} (h0 : s.pair.lane0 = true) (h1 : s.pair.lane1 = true) (i : Nat) :
    seeChunk s i = { s with pair := { s.pair with rxSeen := insertNat i s.pair.rxSeen, rxMiss := s.pair.rxMiss.filter (· != i) } } :=
  nakGaps_whole (s := { s with pair := { s.pair with rxSeen := insertNat i s.pair.rxSeen, rxMiss := s.pair.rxMiss.filter (· != i) } }) h0 h1 i

/-- The state with a delta's first chunk. -/
def firstChunk (s : State) (tick : Nat) (c : Chunk) : State :=
  { s with pair := { s.pair with
      rxSeen := insertNat c.index s.pair.rxSeen, rxMiss := s.pair.rxMiss.filter (· != c.index)
      rx := some { tick := tick, chunks := [c], ready := false } } }

theorem deltaReceive_first {s : State} {c : Chunk} (h0 : s.pair.lane0 = true) (h1 : s.pair.lane1 = true) (hrole : pairPassive s = true)
    (hlag : s.pair.lagDue = false) (hrx : s.pair.rx = none) (lane tick : Nat) :
    deltaReceive s lane tick c true = if deltaWhole [c] then deltaComplete (firstChunk s tick c) tick [c] else firstChunk s tick c := by
  unfold deltaReceive
  rw [if_neg (by simp [pairUp_of_lane0 h0, hrole, hlag]), if_neg (by decide), seeChunk_whole h0 h1]
  dsimp only
  rw [hrx]
  rfl

theorem deltaWhole_single (c : Chunk) : deltaWhole [c] = (c.last && decide (c.index = 0)) := by
  unfold deltaWhole
  cases hlast : c.last
  · simp [hlast]
  · rw [List.find?_cons_of_pos hlast]
    dsimp only
    cases hi : c.index with
    | zero => simp [hi]
    | succ i =>
      simp only [Bool.true_and, Nat.succ_ne_zero, decide_false, List.all_eq_false]
      exact ⟨0, by simp, by simp [hi]⟩

theorem deltaRecords_single {c : Chunk} (hlast : c.last = true) (hi : c.index = 0) : deltaRecords [c] = c.recs := by
  unfold deltaRecords
  rw [List.find?_cons_of_pos hlast]
  simp [hi]

theorem deltaSeal_single {c : Chunk} (hlast : c.last = true) : deltaSeal [c] = c.sealed := by
  unfold deltaSeal
  rw [List.find?_cons_of_pos hlast]
  rfl

/-- A delta of one chunk that renews the lease, before its prepare. -/
def deltaRenewed (s : State) (tick : Nat) (c : Chunk) (x : Seal) : State :=
  { s with pair := { s.pair with
      rxSeen := insertNat c.index s.pair.rxSeen, rxMiss := s.pair.rxMiss.filter (· != c.index)
      rx := some { tick := tick, chunks := [c], ready := false }, deltaBytes := x.bytes % 2 ^ 20, lastRenew := x.tick % 2 ^ 32
      sent := s.pair.sent ++ [{ typ := 0x3, tick := s.bench.tickCount % 2 ^ 32, chunk := 0 }] } }

theorem deltaComplete_single {s : State} {c : Chunk} {x : Seal} (h0 : s.pair.lane0 = true) (hlast : c.last = true) (hi : c.index = 0)
    (hseal : c.sealed = some x) (hrenew : x.renew = true) (tick : Nat) : deltaComplete (firstChunk s tick c) tick [c] =
      if x.lag then lag (deltaRenewed s tick c x) 1 else match prepDelta (deltaRenewed s tick c x) c.recs with
        | some s => { s with pair := { s.pair with rx := some { tick := tick, chunks := [c], ready := true } } }
        | none => lag (deltaRenewed s tick c x) 4 := by
  unfold deltaComplete
  rw [deltaSeal_single hlast, hseal]
  dsimp only
  rw [if_pos hrenew, deltaRecords_single hlast hi]
  generalize hu : pairSend _ 0x3 = u
  have hrenewed : u = deltaRenewed s tick c x := hu.symm.trans (if_pos (pairUp_of_lane0 h0))
  subst hrenewed
  rfl

/-- Settles O41: lanes, beats, lease messages and chunks act on the Pair unit as their rules say. -/
theorem pairLink : Obligations.PairLink := by
  unfold Obligations.PairLink
  refine ⟨⟨?_, ?_, ?_, ?_, ?_, ?_, ?_, ?_, ?_, ?_, ?_, ?_, ?_, ?_⟩, ?_, ?_, ?_⟩
  · intro s n hen hruns hmode hsafe hpower
    refine congrArg Host.Outcome.next ((if_pos ⟨hen, hruns, hmode, hsafe, hpower⟩).trans ?_)
    fin_cases n <;> rfl
  · intro s h0 h1 hfollow hrejoin
    have hrole : pairPassive s = false := by simp [pairPassive, hfollow, hrejoin]
    exact ⟨congrArg Host.Outcome.next (laneDown_one 0 h0 h1 hrole), congrArg Host.Outcome.next (laneDown_one 1 h0 h1 hrole)⟩
  · intro s h0 h1 hrole seen whole lost
    refine congrArg Host.Outcome.next ((laneDown_passive h0 (pairPassive_of hrole)).trans ?_)
    unfold nakGaps
    rw [if_neg (by simp [h0])]
    exact foldl_nak lost (pairUp_of_lane0 h0)
  · intro s h0 h1 hrx
    exact congrArg Host.Outcome.next (laneDown_last h0 h1 hrx)
  · intro s b h0 hrole hsync
    exact congrArg Host.Outcome.next (beatReceive_unpaired h0 hrole hsync)
  · intro s t h0 hrole
    exact congrArg Host.Outcome.next (if_pos ⟨pairUp_of_lane0 h0, hrole⟩)
  · intro s t h0 hrole hsync hreq
    refine congrArg Host.Outcome.next ((if_neg (by simp [pairUp_of_lane0 h0, hrole, hsync])).trans ((if_neg hreq).trans ?_))
    exact if_pos (pairUp_of_lane0 h0)
  · intro s t h0 hrole
    exact congrArg Host.Outcome.next (if_pos (.inr (.inl hrole)))
  · intro s t h0 hreq
    exact congrArg Host.Outcome.next (if_pos ⟨pairUp_of_lane0 h0, hreq⟩)
  · intro s t h0 hrole
    exact congrArg Host.Outcome.next (if_pos ⟨pairUp_of_lane0 h0, hrole⟩)
  · intro s n i c h0 hfind
    have hfind' : s.pair.txSent.find? (fun c => c.index == i.toNat) = some c := by simpa only [beq_eq_decide] using hfind
    refine congrArg Host.Outcome.next ((if_neg (by simp [pairUp_of_lane0 h0])).trans ?_)
    have hsame : (bump s .naks n 1).pair.txSent = s.pair.txSent := rfl
    dsimp only
    rw [hsame, hfind']
    rfl
  · intro s h0 hidle
    exact congrArg Host.Outcome.next ((if_neg (by simp [pairUp_of_lane0 h0])).trans (if_neg (by simp [hidle])))
  · intro s h0 hcoast
    exact congrArg Host.Outcome.next ((if_neg (by simp [pairUp_of_lane0 h0])).trans (if_pos hcoast))
  · intro s f x hx hidle
    refine congrArg Host.Outcome.next ?_
    rw [hx]
    exact if_neg (not_lt.2 hidle)
  · intro s c l h0 hchunks hopen
    have htype : chunkType s c = 0x2 := if_neg (by
      rw [List.any_eq_true]
      rintro ⟨x, hx, h⟩
      simp [hopen x hx] at h)
    refine congrArg Host.Outcome.next ((if_neg (by simp [pairUp_of_lane0 h0])).trans ?_)
    rw [hchunks]
    dsimp only
    rw [htype]
    exact if_pos (pairUp_of_lane0 h0)
  · intro s n t c h0 h1 hrole hlag seen miss
    have hpassive := pairPassive_of hrole
    have hfirst (hrx : s.pair.rx = none) := deltaReceive_first (c := c) h0 h1 hpassive hlag hrx n t.toNat
    refine ⟨?_, fun hlast hrx => ?_, fun x hlast hi hseal hrx hrenew => ?_⟩
    · exact congrArg Host.Outcome.next ((if_neg (by simp [pairUp_of_lane0 h0, hpassive, hlag])).trans ((if_pos rfl).trans
        (nak_up (s := bump s .frameCrcErr n 1) (pairUp_of_lane0 h0) c.index)))
    · exact congrArg Host.Outcome.next ((hfirst hrx).trans (if_neg (by simp [deltaWhole_single, hlast])))
    · refine congrArg Host.Outcome.next ((hfirst hrx).trans ((if_pos (by simp [deltaWhole_single, hlast, hi])).trans ?_))
      exact (deltaComplete_single h0 hlast hi hseal hrenew t.toNat).trans rfl
  · intro s n t c h0 h1 hrole
    refine congrArg Host.Outcome.next ((if_neg (by simp [pairUp_of_lane0 h0, hrole])).trans ((if_neg (by decide)).trans ?_))
    exact if_congr List.contains_iff_mem rfl (seeChunk_whole (s := { s with pair := { s.pair with
      bulkRx := s.pair.bulkRx ++ c.recs, bulkLast := s.pair.bulkLast || c.last } }) h0 h1 c.index)

end Sys2Proof.Machine
end

section
/-! PROOFS. Queue pairs of the host port and their entries (R487 to R489). -/

namespace Sys2Proof.Machine

/-! ### Rings in host memory (R487) -/

theorem imgRecs_single {l : List Byte} {n : Nat} (hn : 0 < n) (h : l.length = n) : imgRecs l 0 n (ceilDiv l.length n) = [l] := by
  have hone : ceilDiv l.length n = 1 := by
    unfold ceilDiv
    rw [h, show n + n - 1 = n - 1 + n by omega, Nat.add_div_right _ hn, Nat.div_eq_of_lt (by omega)]
  have hwhole : imgBytes l 0 n = l := by
    unfold imgBytes
    dsimp only
    rw [List.drop_zero, List.take_of_length_le h.le, h, Nat.sub_self, List.replicate_zero, List.append_nil]
  rw [hone]
  exact congrArg (fun x => [x]) hwhole

/-- The bytes of an entry that the host writes stand in its ring. -/
theorem ringPut_single {m : Mem} (hm : memWf m = true) {l : List Byte} (base z size i j : Nat) (hj : j < l.length) :
    memGet (ringPut base z size i [l] m) (base + z * (i % 2 ^ size) + j) = l.getD j 0#8 := memGet_memPut_in l _ j hm hj

/-! ### Entries (R489) -/

/-- A pair that runs, with an entry of an OP at the head of its ring. -/
structure EntryDue (s : State) (q op : Nat) : Prop where
  runs : deviceRuns s = true
  linkUp : s.host.linkUp = true
  flows : s.fence.hostStall = false
  en : (getPair s q).en = true
  going : (getPair s q).stopped = false
  free : isFrozen s (pairMaster (getPair s q)) = false
  waits : (getPair s q).txHead ≠ (getPair s q).txTail
  opcode : bits (im32 (txEntry s (getPair s q)) 8) 31 30 = op

theorem serveTx_due {s : State} {q op : Nat} (h : EntryDue s q op) (run : List Byte → QPair → State → State) :
    serveTx s q op run = run (txEntry s (getPair s q)) (getPair s q) s := by
  unfold serveTx
  dsimp only
  rw [if_neg (by simp [h.runs, h.linkUp, h.en, h.going, h.free, h.waits, h.opcode]), if_neg (by simp [h.flows])]

theorem mem_insertNat (n : Nat) : ∀ l : List Nat, n ∈ insertNat n l
  | [] => List.mem_singleton_self n
  | x :: l => by
    unfold insertNat
    split
    · exact List.mem_cons_self
    · split
      · next h => exact h ▸ List.mem_cons_self
      · exact List.mem_cons_of_mem _ (mem_insertNat n l)

/-- The group of a queue pair that violates is frozen; the host port stays as it was. -/
theorem violate_group (s : State) (g code info : Nat) :
    isFrozen (violate s (0x221 + g) code info 0) (0x221 + g) = true ∧ (violate s (0x221 + g) code info 0).host = s.host := by
  have hrange : masterRange (0x221 + g) = 4 ∨ masterRange (0x221 + g) = 5 := by
    unfold masterRange
    rw [if_neg (by omega), if_neg (by omega), if_neg (by omega), if_neg (by omega)]
    split
    · exact .inl rfl
    · exact .inr rfl
  have hkept (u : State) (n : Nat) (l : List Nat) : (postEvent u n l).host = u.host := by rw [postEvent_counted]
  have hfrozen (l : List Nat) : (insertNat (0x221 + g) l).contains (0x221 + g) = true := List.contains_iff_mem.2 (mem_insertNat _ l)
  unfold violate
  rcases hrange with h | h <;> rw [h] <;> exact ⟨hfrozen _, hkept _ _ _⟩

theorem completeTx_counted (s : State) (q st : Nat) : completeTx s q st = { s with host := (completeTx s q st).host } := by
  unfold completeTx
  dsimp only
  split <;> rfl

theorem wbCopy_copies {s : State} {q : Nat} {e : List Byte} {x : QPair} {n o : Nat} (hn : n = bits (im32 e 8) 22 0) (ho : o = im32 e 0x10)
    (hmin : 8 ≤ n) (hmax : n ≤ 4194304) (hn8 : n % 8 = 0) (ho8 : o % 8 = 0) (hend : o + n ≤ 2 ^ 28) :
    wbCopy q false e x s = completeTx (hostWrite s (im64 e 0) (wbBytes s o n)) q stOK := by
  subst hn ho
  unfold wbCopy
  dsimp only
  rw [if_neg (by omega), if_neg (by omega)]
  exact if_neg fun h => Bool.noConfusion h.1

theorem wbCopy_overtaken {s : State} {q : Nat} {e : List Byte} {x : QPair} {n o : Nat} (hn : n = bits (im32 e 8) 22 0) (ho : o = im32 e 0x10)
    (hmin : 8 ≤ n) (hmax : n ≤ 4194304) (hn8 : n % 8 = 0) (ho8 : o % 8 = 0) (hend : o + n ≤ 2 ^ 28) (hhalf : o / 2 ^ 27 = (o + n - 1) / 2 ^ 27) :
    wbCopy q true e x s = completeTx (hostWrite (drawFree s).2 (im64 e 0) (leBytes n (drawFree s).1)) q stSTALE := by
  subst hn ho
  unfold wbCopy
  dsimp only
  rw [if_neg (by omega), if_neg (by omega)]
  exact if_pos ⟨rfl, hhalf⟩

theorem wbCopy_outside {s : State} {q : Nat} {e : List Byte} {x : QPair} (h : 2 ^ 28 < im32 e 0x10 + bits (im32 e 8) 22 0) (late : Bool) :
    wbCopy q late e x s = violate (completeTx s q stDENIED) (pairMaster x) vADDR (0x2800000000 + im32 e 0x10) 0 := if_pos h

/-- A copy that leaves the store is refused and freezes the pair's group. -/
theorem exec_wbCopy_outside {s : State} {q : Fin 64} (hdue : EntryDue s q 1)
    (h : 2 ^ 28 < im32 (txEntry s (getPair s q)) 0x10 + bits (im32 (txEntry s (getPair s q)) 8) 22 0) :
    ∃ s', exec (.wbCopyEntry q false) s = .next s' ∧ isFrozen s' (0x221 + (getPair s q).group) = true ∧ s'.host = (completeTx s q stDENIED).host := by
  have hexec := congrArg (Host.Outcome.next (φ := Fault) (ρ := Refusal)) ((serveTx_due hdue (wbCopy q false)).trans (wbCopy_outside h false))
  generalize (0x2800000000 + im32 (txEntry s (getPair s q)) 0x10) = info at hexec
  obtain ⟨hfrozen, hhost⟩ := violate_group (completeTx s q stDENIED) (getPair s q).group vADDR info
  exact ⟨_, hexec, hfrozen, hhost⟩

/-- The arrival that a FRAME entry makes of the bytes f, once its cells hold them in u. -/
def hostArrival (u : State) (e f : List Byte) (first d : Nat) : Arrival :=
  { src := 56, bytes := f, ident := beNat (imgBytes f 6 6), handle := handleOf u first, desc := d, rxTime := nowShort u
    stamp := stampRecord 56 (timeSnap u), arrVc := none, sa := none, bad := false
    req := if bitOf (im32 e 8) 29 then some (bits (im32 e 8) 28 27, im16 e 0x0E) else none }

theorem txFrame_stored {s s2 s3 : State} {q n d : Nat} {b e f : List Byte} {x : QPair} {cells : List Nat} (hn : n = bits (im32 e 8) 22 0)
    (hmin : 64 ≤ n) (hmax : n ≤ 16383) (hf : f = withFcs (memBytes (hostWrite s (im64 e 0) (b.take n)).host.hostMem (im64 e 0) n))
    (hcells : takeCells (poolOf (hostWrite s (im64 e 0) (b.take n)) 56 (ingressClass (hostWrite s (im64 e 0) (b.take n)) 56 f)) (cellsFor f.length)
      (hostWrite s (im64 e 0) (b.take n)) = (s2, some cells)) (hdesc : takeDesc s2 = some (d, s3)) :
    ∃ u, txFrame q b e x s = screenFrame (completeTx (cells.foldl (writeCell 56) (setChain s3 (cells.headD 0) (some {
      cells := cells, hold := 1, owner := 0x400, pending := false, data := memPut [] 0 f }))) q 0) (hostArrival u e f (cells.headD 0) d) := by
  subst hn hf
  unfold txFrame
  dsimp only
  rw [if_neg (by omega), hcells]
  dsimp only
  rw [hdesc]
  exact ⟨_, rfl⟩

/-- Settles O46: pairs start, stop and take their tails, and entries copy, refuse or enter Screen as their OP says. -/
theorem hostQueues : Obligations.HostQueues := by
  unfold Obligations.HostQueues
  refine ⟨?_, ?_, ?_, ?_, ?_⟩
  · intro s q g r t hruns hoff hg hr hr' ht ht'
    refine congrArg Host.Outcome.next ((if_pos hruns).trans ?_)
    unfold pairControl ringSize
    dsimp only
    rw [hoff]
    simp only [Bool.false_eq_true, if_false, if_true, if_pos hg, if_pos (And.intro hr hr'), if_pos (And.intro ht ht')]
  · intro s q g r t hruns hon
    refine ⟨?_, ?_⟩
    · exact congrArg Host.Outcome.next ((if_pos hruns).trans ((if_pos hon).trans (if_pos rfl)))
    · exact congrArg Host.Outcome.next ((if_pos ⟨hruns, hon⟩).trans ((if_pos hon).trans (if_neg (by decide))))
  · intro s q v hruns
    exact ⟨congrArg Host.Outcome.next (if_neg (by simp [hruns])), congrArg Host.Outcome.next (if_neg (by simp [hruns]))⟩
  · intro s q v l hruns hm
    refine ⟨fun hl => ?_, fun hl => ?_⟩
    · refine ⟨_, congrArg Host.Outcome.next (if_neg (by simp [hruns])), rfl, fun i hi => ?_⟩
      have hone := imgRecs_single (l := l) (by decide) hl
      exact (congrArg (fun x => memGet (ringPut _ 64 _ _ x _) _) hone).trans (ringPut_single hm _ 64 _ _ i (hl ▸ hi))
    · refine ⟨_, congrArg Host.Outcome.next (if_neg (by simp [hruns])), rfl, fun i hi => ?_⟩
      have hone := imgRecs_single (l := l) (by decide) hl
      exact (congrArg (fun x => memGet (ringPut _ 32 _ _ x _) _) hone).trans (ringPut_single hm _ 32 _ _ i (hl ▸ hi))
  · intro s q x n o e hx hruns hlink hflow hen hgoing hfree hwaits hn ho
    have hdue (op : Nat) (hop : im32 e 8 / 2 ^ 30 = op) (hsmall : op < 4) : EntryDue s q op := by
      have hopcode : bits (im32 e 8) 31 30 = op := by
        unfold bits
        omega
      subst hx
      exact ⟨hruns, hlink, hflow, hen, hgoing, hfree, hwaits, hopcode⟩
    subst hx
    have hn' : n = bits (im32 e 8) 22 0 := by
      rw [hn, bits, Nat.pow_zero, Nat.div_one]
    have hserve (op : Nat) (hop : im32 e 8 / 2 ^ 30 = op) (hsmall : op < 4) (run : List Byte → QPair → State → State) :
        serveTx s q op run = run e (getPair s q) s := serveTx_due (hdue op hop hsmall) run
    have hdenied (hop : im32 e 8 / 2 ^ 30 = 1) (hout : 2 ^ 28 < im32 e 0x10 + bits (im32 e 8) 22 0) :=
      exec_wbCopy_outside (hdue 1 hop (by decide)) hout
    clear_value e
    have hcopy (late : Bool) (hop : im32 e 8 / 2 ^ 30 = 1) : exec (.wbCopyEntry q late) s = .next (wbCopy q late e (getPair s q) s) :=
      congrArg Host.Outcome.next (hserve 1 hop (by decide) _)
    have hframe (b : List Byte) (hop : im32 e 8 / 2 ^ 30 = 0) : exec (.txFrameEntry q b) s = .next (txFrame q b e (getPair s q) s) :=
      congrArg Host.Outcome.next (hserve 0 hop (by decide) _)
    refine ⟨fun hop hmin hmax hn8 ho8 hend => ⟨?_, fun hhalf => ?_⟩, fun hop hend => ?_, ?_⟩
    · rw [hcopy false hop, wbCopy_copies hn' ho hmin hmax hn8 ho8 hend]
      rfl
    · refine ⟨(drawFree s).1, ?_⟩
      rw [hcopy true hop, wbCopy_overtaken hn' ho hmin hmax hn8 ho8 hend hhalf]
      rfl
    · refine hdenied hop ?_
      rw [← ho, ← hn']
      exact hend
    · intro b s2 s3 cells d s1 f first hop hmin hmax hcells hdesc
      obtain ⟨u, hu⟩ := txFrame_stored (x := getPair s q) (q := q) hn' hmin hmax rfl hcells hdesc
      exact ⟨_, (hframe b hop).trans (congrArg Host.Outcome.next hu), rfl, rfl, rfl, rfl, rfl, rfl⟩

end Sys2Proof.Machine
end

section
/-! PROOFS. The register map: rights, words, and what a write and a read change (R8, R9, R24 to R28, R381, R442, R456, R475, R482). -/

namespace Sys2Proof.Machine

/-! ### Words of four bytes -/

theorem leNat_leBytes : ∀ n v : Nat, leNat (leBytes n v) = v % 256 ^ n
  | 0, v => by rw [Nat.pow_zero, Nat.mod_one]; rfl
  | n + 1, v => by
    have hbyte : (BitVec.ofNat 8 v).toNat = v % 256 := BitVec.toNat_ofNat v 8
    rw [leBytes, leNat, leNat_leBytes n, hbyte, Nat.pow_succ', Nat.mod_mul]

theorem memBytes_memPut {m : Mem} (h : memWf m = true) (a : Nat) (l : List Byte) : memBytes (memPut m a l) a l.length = l := by
  refine List.ext_getElem (by simp [memBytes]) fun i hi hl => ?_
  have hi' : i < l.length := hl
  simp [memBytes, memGet_memPut_in l a i h hi', hi']

theorem word_readBack {m : Mem} (h : memWf m = true) (a v : Nat) : leNat (memBytes (memPut m a (leBytes 4 v)) a 4) = v % 2 ^ 32 := by
  have hlen := leBytes_length 4 v
  have hread := memBytes_memPut h a (leBytes 4 v)
  rw [hlen] at hread
  rw [hread, leNat_leBytes, show 256 ^ 4 = 2 ^ 32 by decide]

theorem memGet_word_out (m : Mem) (a v j : Nat) (hj : j < a ∨ a + 4 ≤ j) : memGet (memPut m a (leBytes 4 v)) j = memGet m j :=
  memGet_memPut_out _ _ _ _ (by rw [leBytes_length]; exact hj)

/-- The word that a write of a whole register makes: what stood above 32 bits stays. -/
def wordOver (old v : Nat) : Nat := v % 2 ^ 32 + old / 2 ^ 32 * 2 ^ 32

theorem mergeWord_whole (old v : Nat) : mergeWord old 0 4 v = wordOver old v := by
  unfold mergeWord wordOver
  norm_num [Nat.mod_one]

theorem wordOver_mod (old v : Nat) : wordOver old v % 2 ^ 32 = v % 2 ^ 32 := by
  unfold wordOver
  rw [Nat.add_mul_mod_self_right, Nat.mod_mod]

theorem wordOver_small {old : Nat} (h : old < 2 ^ 32) (v : Nat) : wordOver old v = v % 2 ^ 32 := by
  unfold wordOver
  rw [Nat.div_eq_of_lt h, Nat.zero_mul, Nat.add_zero]

theorem wordOver_field (old v : Nat) {w : Nat} (h : w ≤ 32) : wordOver old v % 2 ^ w = v % 2 ^ w := by
  have hdvd : 2 ^ w ∣ 2 ^ 32 := Nat.pow_dvd_pow 2 h
  rw [← Nat.mod_mod_of_dvd (wordOver old v) hdvd, wordOver_mod, Nat.mod_mod_of_dvd _ hdvd]

theorem wordOver_bit (old v : Nat) {i : Nat} (h : i < 32) : bitOf (wordOver old v) i = v.testBit i := by
  have hmod := congrArg (Nat.testBit · i) (wordOver_mod old v)
  simp only [Nat.testBit_mod_two_pow, h, decide_true, Bool.true_and] at hmod
  rw [testBit_eq_bitOf]
  exact hmod

/-! ### Windows (Tables 1.4 and 1.5) -/

theorem windowAt_of {a w o : Nat} (hw : w < 19) (ho : o < 0x100000) (ha : a = 0x3000000000 + 0x100000 * w + o) : windowAt a = some (w, o) := by
  subst ha
  unfold windowAt windowBase
  rw [if_pos (by omega)]
  have hoff : 0x3000000000 + 0x100000 * w + o - 0x3000000000 = 0x100000 * w + o := by omega
  rw [hoff, Nat.mul_add_div (by decide), Nat.mul_add_mod, Nat.div_eq_of_lt ho, Nat.mod_eq_of_lt ho, Nat.add_zero]

theorem windowAt_none {a : Nat} (h : a < 0x3000000000 ∨ 0x3001300000 ≤ a) : windowAt a = none := by
  unfold windowAt windowBase
  exact if_neg (by omega)

/-- A write of a whole register that Table 1.5 opens to the master. -/
theorem fenceWrite_word {s : State} {who : Reader} {a w o : Nat} (hat : windowAt a = some (w, o)) (ho : o % 4 = 0)
    (hmay : mayWrite who a = true) (v : Nat) : fenceWrite s who a 4 v =
      windowStore s who w o (wordOver (if clearsOnOne w o then 0 else windowWord s (readerIndex who) w o) v) := by
  have hwhole : o / 4 * 4 = o := by omega
  unfold fenceWrite mapWrite
  rw [if_pos hmay, hat]
  dsimp only
  rw [if_neg (by decide), hwhole, ho, mergeWord_whole]

/-- A read of a whole register that latches and draws nothing. -/
theorem mapRead_word {s : State} {who : Reader} {a w o : Nat} (hat : windowAt a = some (w, o)) (ho : o % 4 = 0) (h0 : w ≠ 0) (h10 : w ≠ 10)
    (h14 : w = 14 → o ≠ 0x10) : (mapRead s who a 4).2 = windowWord s (readerIndex who) w o % 2 ^ 32 := by
  have hwhole : o / 4 * 4 = o := by omega
  have hplain : windowRead s (readerIndex who) w o = (s, windowWord s (readerIndex who) w o) := by
    unfold windowRead
    rw [if_neg fun h => h0 h.1, if_neg fun h => h10 h.1, if_neg fun h => h14 h.1 h.2]
  unfold mapRead
  rw [hat]
  dsimp only
  rw [if_neg (by decide), hwhole, ho, hplain]
  norm_num

theorem mayWrite_triad {who : Reader} (hwho : readerMaster who = 0x200) {a w o : Nat} (hat : windowAt a = some (w, o)) (hw : w = 12 ∨ w = 14) :
    mayWrite who a = true := by
  unfold mayWrite
  rw [hat]
  cases who with
  | triad => rcases hw with rfl | rfl <;> rfl
  | triadCore i => rcases hw with rfl | rfl <;> rfl
  | tally c => exact absurd hwho (by simp only [readerMaster, mTALLY]; omega)
  | host => exact absurd hwho (by decide)

theorem mayWrite_tally (c : Fin 4) {a o : Nat} (hat : windowAt a = some (16, o)) : mayWrite (.tally c) a = true := by
  unfold mayWrite
  rw [hat]
  rfl

theorem mayWrite_shared {who : Reader} (hwho : readerMaster who ≠ 0x200) {a o : Nat} (hat : windowAt a = some (17, o)) : mayWrite who a = true := by
  unfold mayWrite
  rw [hat]
  cases who with
  | triad => exact absurd rfl hwho
  | triadCore i => exact absurd rfl hwho
  | tally c => rfl
  | host => rfl

/-! ### Refused writes (R24, R27) -/

theorem beginCoast_fence (s : State) (cause : Nat) : (beginCoast s cause).fence = s.fence := by
  have hevent (s : State) (a b c : Nat) : (pairEvent s a b c).fence = s.fence := by
    unfold pairEvent
    rw [postEvent_counted]
  have hsend (s : State) (n : Nat) : (pairSend s n).fence = s.fence := by
    unfold pairSend
    split <;> rfl
  unfold beginCoast
  split
  · rfl
  · unfold dropLease
    dsimp only
    split
    · rw [hevent]
      exact hsend _ _
    · rfl

theorem readerMaster_range (who : Reader) : masterRange (readerMaster who) = 1 ∨ masterRange (readerMaster who) = 2 ∨
    masterRange (readerMaster who) = 3 := by
  cases who with
  | triad => exact .inl rfl
  | triadCore i => exact .inl rfl
  | tally c => exact .inr (.inl (by revert c; decide))
  | host => exact .inr (.inr rfl)

theorem readerFault_frozen (s : State) (who : Reader) (code info : Nat) : isFrozen (readerFault s who code info) (readerMaster who) = true := by
  have hfrozen (l : List Nat) : (insertNat (readerMaster who) l).contains (readerMaster who) = true := List.contains_iff_mem.2 (mem_insertNat _ l)
  have hcoast (u : State) (cause : Nat) (l : List Nat) (hu : u.fence.frozen = insertNat (readerMaster who) l) :
      (beginCoast u cause).fence.frozen.contains (readerMaster who) = true := by
    rw [beginCoast_fence, hu]
    exact hfrozen l
  unfold readerFault violate isFrozen
  rcases readerMaster_range who with h | h | h <;> rw [h]
  · exact hcoast _ _ _ rfl
  · exact hfrozen _
  · exact hfrozen _

theorem mayWrite_closed {who : Reader} {a w o : Nat} (hat : windowAt a = some (w, o)) (h : match who with
      | .host => w ≠ 13 ∧ w ≠ 17
      | .tally _ => w ≠ 13 ∧ w ≠ 16 ∧ w ≠ 17
      | _ => w = 0 ∨ w = 13 ∨ 16 ≤ w ∨ (w ≠ 12 ∧ w ≠ 14 ∧ o / 4 ≠ 0x3FFC0)) : mayWrite who a = false := by
  have htriad (h : w = 0 ∨ w = 13 ∨ 16 ≤ w ∨ (w ≠ 12 ∧ w ≠ 14 ∧ o / 4 ≠ 0x3FFC0)) :
      (w == 12 || w == 14 || (hasBlock w && o / 4 * 4 == blkOffset)) = false := by
    have hblock : (hasBlock w && o / 4 * 4 == blkOffset) = false := by
      simp only [hasBlock, blkOffset, Bool.and_eq_false_iff, Bool.or_eq_false_iff, beq_eq_false_iff_ne, decide_eq_false_iff_not]
      omega
    rw [hblock, Bool.or_false, Bool.or_eq_false_iff]
    exact ⟨by simpa using by omega, by simpa using by omega⟩
  unfold mayWrite
  rw [hat]
  cases who with
  | triad => exact htriad h
  | triadCore i => exact htriad h
  | tally c =>
    obtain ⟨h13, h16, h17⟩ := h
    simp [h13, h16, h17]
  | host =>
    obtain ⟨h13, h17⟩ := h
    simp [h13, h17]

theorem fenceWrite_refused {s : State} {who : Reader} {a : Nat} (h : mayWrite who a = false) (n v : Nat) :
    fenceWrite s who a n v = readerFault s who vADDR a := if_neg (by simp [h])

theorem mayWrite_outside {who : Reader} {a : Nat} (h : windowAt a = none) : mayWrite who a = false := by
  unfold mayWrite
  rw [h]

end Sys2Proof.Machine
end

section
/-! PROOFS. The registers that may be written: they read back what was written within their fields (Tables 12.8, 15.14, 16.12, 17.8). -/

namespace Sys2Proof.Machine

/-! ### Windows 12 and 14, the Triad's -/

theorem coastField (v : Nat) : flagAt (v.testBit 6) 6 + v % 64 = v % 128 := by
  have hbit : v.testBit 6 = decide (v / 64 % 2 = 1) := Nat.testBit_eq_decide_div_mod_eq
  unfold flagAt b2n
  rw [hbit]
  by_cases h : v / 64 % 2 = 1
  · simp only [h, decide_true, if_true]
    omega
  · simp only [h, decide_false, Bool.false_eq_true, if_false]
    omega

theorem bits_low (n h : Nat) : bits n h 0 = n % 2 ^ (h + 1) := by rw [bits, Nat.pow_zero, Nat.div_one, Nat.sub_zero]

theorem triadCfg_write {s : State} {who : Reader} (hwho : readerMaster who = 0x200) (v : Nat) :
    fenceWrite s who 0x3000C00004 4 v = { s with
      triad := { s.triad with safeStop := v.testBit 6, coastLimit := v % 64 }
      haul := { s.haul with stop := s.haul.stop || (s.triad.safe && v.testBit 6) } } := by
  have hat : windowAt 0x3000C00004 = some (12, 4) := windowAt_of (by decide) (by decide) (by decide)
  rw [fenceWrite_word hat (by decide) (mayWrite_triad hwho hat (.inl rfl))]
  generalize (if clearsOnOne 12 4 then 0 else windowWord s (readerIndex who) 12 4) = old
  have hbit := wordOver_bit old v (i := 6) (by decide)
  have hlimit : bits (wordOver old v) 5 0 = v % 64 := (bits_low _ 5).trans (wordOver_field old v (w := 6) (by decide))
  rw [← hbit, ← hlimit]
  rfl

theorem triadCfg_read (t : State) (who : Reader) : (mapRead t who 0x3000C00004 4).2 = (flagAt t.triad.safeStop 6 + t.triad.coastLimit) % 2 ^ 32 :=
  mapRead_word (w := 12) (o := 4) (windowAt_of (by decide) (by decide) (by decide)) (by decide) (by decide) (by decide) (by decide)

theorem remask_write {s : State} {who : Reader} (hwho : readerMaster who = 0x200) (v : Nat) : fenceWrite s who 0x3000E00004 4 v =
    { s with vault := { s.vault with remaskMs := if 1 ≤ v % 128 ∧ v % 128 ≤ 100 then v % 128 else 10 } } := by
  have hat : windowAt 0x3000E00004 = some (14, 4) := windowAt_of (by decide) (by decide) (by decide)
  rw [fenceWrite_word hat (by decide) (mayWrite_triad hwho hat (.inr rfl))]
  generalize (if clearsOnOne 14 4 then 0 else windowWord s (readerIndex who) 14 4) = old
  have hms : bits (wordOver old v) 6 0 = v % 128 := (bits_low _ 6).trans (wordOver_field old v (w := 7) (by decide))
  rw [← hms]
  rfl

theorem remask_read (t : State) (who : Reader) : (mapRead t who 0x3000E00004 4).2 = t.vault.remaskMs % 2 ^ 32 :=
  mapRead_word (w := 14) (o := 4) (windowAt_of (by decide) (by decide) (by decide)) (by decide) (by decide) (by decide) (by decide)

theorem mailStore_outside {o : Nat} (h : o < 0x200 ∨ 0x300 ≤ o) (h' : o < 0x1000 ∨ 0x2000 ≤ o) (s : State) (who : Reader) (v : Nat) :
    mailStore s who o v = s := by
  unfold mailStore
  dsimp only
  rw [if_neg (by omega), if_neg (by omega)]

theorem controlStore_outside {o : Nat} (h4 : o ≠ 4) (h20 : o ≠ 0x20) (h34 : o ≠ 0x34) (h : o < 0x200 ∨ 0x300 ≤ o)
    (h' : o < 0x1000 ∨ 0x2000 ≤ o) (s : State) (who : Reader) (v : Nat) : controlStore s who o v = s := by
  unfold controlStore
  split
  · exact absurd rfl h4
  · exact absurd rfl h20
  · exact absurd rfl h34
  · exact mailStore_outside h h' s who v

/-! ### Window 16, the Gatehouse -/

theorem gateStore_outside {o : Nat} (h4 : o ≠ 4) (h10 : o ≠ 0x10) (h : o < 0x40 ∨ 0x80 ≤ o) (h' : o < 0x400 ∨ 0x800 ≤ o) (s : State) (v : Nat) :
    gateStore s o v = s := by
  unfold gateStore
  rw [if_neg h4, if_neg h10, if_neg (by omega), if_neg (by omega)]

theorem gateStore_bkp {i : Nat} (hi : i < 16) (s : State) (v : Nat) :
    gateStore s (0x40 + 4 * i) v = { s with gh := { s.gh with bkp := tblSet 0 s.gh.bkp i v } } := by
  have hidx : (0x40 + 4 * i - 0x40) / 4 = i := by omega
  unfold gateStore
  rw [if_neg (by omega), if_neg (by omega), if_pos (by omega), hidx]

theorem gateStore_retmem {i : Nat} (hi : i < 256) (s : State) (v : Nat) :
    gateStore s (0x400 + 4 * i) v = { s with gh := { s.gh with retmem := memPut s.gh.retmem (4 * i) (leBytes 4 v) } } := by
  have hoff : 0x400 + 4 * i - 0x400 = 4 * i := by omega
  unfold gateStore
  rw [if_neg (by omega), if_neg (by omega), if_neg (by omega), if_pos (by omega), hoff]

theorem gateWord_bkp {i : Nat} (hi : i < 16) (s : State) : gateWord s (0x40 + 4 * i) = tblGet 0 s.gh.bkp i := by
  have hidx : (0x40 + 4 * i - 0x40) / 4 = i := by omega
  unfold gateWord
  dsimp only
  split
  any_goals omega
  rw [if_pos (by omega), hidx]

theorem gateWord_retmem {i : Nat} (hi : i < 256) (s : State) : gateWord s (0x400 + 4 * i) = leNat (memBytes s.gh.retmem (4 * i) 4) := by
  have hoff : 0x400 + 4 * i - 0x400 = 4 * i := by omega
  unfold gateWord
  dsimp only
  split
  any_goals omega
  rw [if_neg (by omega), if_pos (by omega), hoff]

/-! ### Window 17, the host port -/

theorem hostWord_area {o : Nat} (h : 0x400 ≤ o) (s : State) : hostWord s o =
    if 0x400 ≤ o ∧ o < 0x840 then leNat (memBytes s.host.cmdBlock (o - 0x400) 4)
    else if 0x1000 ≤ o ∧ o < 0x2000 then qpairWord s ((o - 0x1000) / 64) (o % 64)
    else if 0x4000 ≤ o ∧ o < 0x5000 then leNat (memBytes s.host.dbgWindow (o - 0x4000) 4)
    else 0 := by
  unfold hostWord
  dsimp only
  split
  all_goals omega

theorem hostStore_area {o : Nat} (h : 0x400 ≤ o) (s : State) (who : Reader) (v : Nat) : hostStore s who o v =
    if 0x400 ≤ o ∧ o < 0x840 then { s with host := { s.host with cmdBlock := memPut s.host.cmdBlock (o - 0x400) (leBytes 4 v) } }
    else if 0x1000 ≤ o ∧ o < 0x2000 then qpairStore s ((o - 0x1000) / 64) (o % 64) v
    else if 0x4000 ≤ o ∧ o < 0x5000 then { s with host := { s.host with dbgWindow := memPut s.host.dbgWindow (o - 0x4000) (leBytes 4 v) } }
    else s := by
  unfold hostStore
  dsimp only
  split
  any_goals omega
  rfl

theorem hostWord_cmdBlock {i : Nat} (hi : i < 272) (s : State) : hostWord s (0x400 + 4 * i) = leNat (memBytes s.host.cmdBlock (4 * i) 4) := by
  rw [hostWord_area (by omega), if_pos (by omega), Nat.add_sub_cancel_left]

theorem hostStore_cmdBlock {i : Nat} (hi : i < 272) (s : State) (who : Reader) (v : Nat) : hostStore s who (0x400 + 4 * i) v =
    { s with host := { s.host with cmdBlock := memPut s.host.cmdBlock (4 * i) (leBytes 4 v) } } := by
  rw [hostStore_area (by omega), if_pos (by omega), Nat.add_sub_cancel_left]

theorem hostWord_dbgWindow {i : Nat} (hi : i < 1024) (s : State) : hostWord s (0x4000 + 4 * i) = leNat (memBytes s.host.dbgWindow (4 * i) 4) := by
  rw [hostWord_area (by omega), if_neg (by omega), if_neg (by omega), if_pos (by omega), Nat.add_sub_cancel_left]

theorem hostStore_dbgWindow {i : Nat} (hi : i < 1024) (s : State) (who : Reader) (v : Nat) : hostStore s who (0x4000 + 4 * i) v =
    { s with host := { s.host with dbgWindow := memPut s.host.dbgWindow (4 * i) (leBytes 4 v) } } := by
  rw [hostStore_area (by omega), if_neg (by omega), if_neg (by omega), if_pos (by omega), Nat.add_sub_cancel_left]

/-- A register of window 17 is written as hostStore says. -/
theorem fenceWrite_host {s : State} {who : Reader} (hwho : readerMaster who ≠ 0x200) {a o : Nat} (hat : windowAt a = some (17, o)) (ho : o % 4 = 0)
    (v : Nat) : fenceWrite s who a 4 v = hostStore s who o (wordOver (hostWord s o) v) := fenceWrite_word hat ho (mayWrite_shared hwho hat) v

theorem mapRead_host {t : State} {who : Reader} {a o : Nat} (hat : windowAt a = some (17, o)) (ho : o % 4 = 0) :
    (mapRead t who a 4).2 = hostWord t o % 2 ^ 32 := mapRead_word hat ho (by decide) (by decide) fun h => absurd h (by decide)

theorem hostWord_bootAddr (s : State) : hostWord s 8 = s.host.bootAddr % 2 ^ 32 := rfl

theorem hostStore_bootAddr (s : State) (who : Reader) (v : Nat) :
    hostStore s who 8 v = { s with host := { s.host with bootAddr := lowHalf s.host.bootAddr v } } := rfl

theorem lowHalf_wordOver (old v : Nat) : lowHalf old (wordOver (old % 2 ^ 32) v) % 2 ^ 32 = v % 2 ^ 32 := by
  rw [wordOver_small (Nat.mod_lt _ (by decide))]
  unfold lowHalf
  rw [Nat.mul_add_mod_self_right, Nat.mod_mod]

theorem bootAddr_effect {s : State} {who : Reader} (hwho : readerMaster who ≠ 0x200) (v : Nat) :
    fenceWrite s who 0x3001100008 4 v = { s with host := { s.host with bootAddr := (fenceWrite s who 0x3001100008 4 v).host.bootAddr } } ∧
    (mapRead (fenceWrite s who 0x3001100008 4 v) who 0x3001100008 4).2 = v % 2 ^ 32 := by
  have hat : windowAt 0x3001100008 = some (17, 8) := windowAt_of (by decide) (by decide) (by decide)
  have hwrite : fenceWrite s who 0x3001100008 4 v = _ := (fenceWrite_host hwho hat (by decide) v).trans (hostStore_bootAddr s who _)
  generalize fenceWrite s who 0x3001100008 4 v = t at hwrite
  rw [mapRead_host hat (by decide), hostWord_bootAddr, Nat.mod_mod, hwrite, hostWord_bootAddr]
  exact ⟨rfl, lowHalf_wordOver s.host.bootAddr v⟩

theorem hostWord_bootLen (s : State) : hostWord s 0x10 = s.host.bootLen := rfl

theorem hostStore_bootLen (s : State) (who : Reader) (v : Nat) : hostStore s who 0x10 v = { s with host := { s.host with bootLen := v } } := rfl

theorem bootLen_effect {s : State} {who : Reader} (hwho : readerMaster who ≠ 0x200) (v : Nat) :
    fenceWrite s who 0x3001100010 4 v = { s with host := { s.host with bootLen := (fenceWrite s who 0x3001100010 4 v).host.bootLen } } ∧
    (mapRead (fenceWrite s who 0x3001100010 4 v) who 0x3001100010 4).2 = v % 2 ^ 32 := by
  have hat : windowAt 0x3001100010 = some (17, 0x10) := windowAt_of (by decide) (by decide) (by decide)
  have hwrite : fenceWrite s who 0x3001100010 4 v = _ := (fenceWrite_host hwho hat (by decide) v).trans (hostStore_bootLen s who _)
  generalize fenceWrite s who 0x3001100010 4 v = t at hwrite
  rw [mapRead_host hat (by decide), hostWord_bootLen, hwrite]
  exact ⟨rfl, wordOver_mod _ v⟩

theorem cmdBlock_effect {s : State} {who : Reader} (hwho : readerMaster who ≠ 0x200) (v : Nat) {i : Nat} (hi : i < 272)
    (hwf : memWf s.host.cmdBlock = true) : let t := fenceWrite s who (0x3001100400 + 4 * i) 4 v
    (mapRead t who (0x3001100400 + 4 * i) 4).2 = v % 2 ^ 32 ∧
    (∀ j, j < 4 * i ∨ 4 * i + 4 ≤ j → memGet t.host.cmdBlock j = memGet s.host.cmdBlock j) ∧
    t = { s with host := { s.host with cmdBlock := t.host.cmdBlock } } := by
  have hat : windowAt (0x3001100400 + 4 * i) = some (17, 0x400 + 4 * i) := windowAt_of (by decide) (by omega) (by omega)
  intro t
  have ht : t = _ := (fenceWrite_host hwho hat (by omega) v).trans (hostStore_cmdBlock hi s who _)
  rw [mapRead_host hat (by omega), hostWord_cmdBlock hi, ht]
  refine ⟨?_, fun j hj => memGet_word_out _ _ _ _ hj, rfl⟩
  exact (congrArg (· % 2 ^ 32) (word_readBack hwf _ _)).trans ((Nat.mod_mod _ _).trans (wordOver_mod _ v))

theorem dbgWindow_effect {s : State} {who : Reader} (hwho : readerMaster who ≠ 0x200) (v : Nat) {i : Nat} (hi : i < 1024)
    (hwf : memWf s.host.dbgWindow = true) : let t := fenceWrite s who (0x3001104000 + 4 * i) 4 v
    (mapRead t who (0x3001104000 + 4 * i) 4).2 = v % 2 ^ 32 ∧
    (∀ j, j < 4 * i ∨ 4 * i + 4 ≤ j → memGet t.host.dbgWindow j = memGet s.host.dbgWindow j) ∧
    t = { s with host := { s.host with dbgWindow := t.host.dbgWindow } } := by
  have hat : windowAt (0x3001104000 + 4 * i) = some (17, 0x4000 + 4 * i) := windowAt_of (by decide) (by omega) (by omega)
  intro t
  have ht : t = _ := (fenceWrite_host hwho hat (by omega) v).trans (hostStore_dbgWindow hi s who _)
  rw [mapRead_host hat (by omega), hostWord_dbgWindow hi, ht]
  refine ⟨?_, fun j hj => memGet_word_out _ _ _ _ hj, rfl⟩
  exact (congrArg (· % 2 ^ 32) (word_readBack hwf _ _)).trans ((Nat.mod_mod _ _).trans (wordOver_mod _ v))

theorem bkp_effect {s : State} (c : Fin 4) (v : Nat) {i : Nat} (hi : i < 16) (hwf : tblWf 0 s.gh.bkp = true) :
    let t := fenceWrite s (.tally c) (0x3001000040 + 4 * i) 4 v
    (mapRead t (.tally c) (0x3001000040 + 4 * i) 4).2 = v % 2 ^ 32 ∧ (∀ j, j ≠ i → tblGet 0 t.gh.bkp j = tblGet 0 s.gh.bkp j) ∧
    t = { s with gh := { s.gh with bkp := t.gh.bkp } } := by
  have hat : windowAt (0x3001000040 + 4 * i) = some (16, 0x40 + 4 * i) := windowAt_of (by decide) (by omega) (by omega)
  intro t
  have ht : t = _ := (fenceWrite_word hat (by omega) (mayWrite_tally c hat) v).trans (gateStore_bkp hi s _)
  rw [mapRead_word hat (by omega) (by decide) (by decide) fun h => absurd h (by decide)]
  have hword : windowWord t (readerIndex (.tally c)) 16 (0x40 + 4 * i) = tblGet 0 t.gh.bkp i := gateWord_bkp hi t
  rw [hword, ht]
  refine ⟨?_, fun j hj => tblGet_tblSet_ne _ _ _ hj, rfl⟩
  exact (congrArg (· % 2 ^ 32) (tblGet_tblSet_self _ _ _ _ hwf)).trans (wordOver_mod _ v)

theorem retmem_effect {s : State} (c : Fin 4) (v : Nat) {i : Nat} (hi : i < 256) (hwf : memWf s.gh.retmem = true) :
    let t := fenceWrite s (.tally c) (0x3001000400 + 4 * i) 4 v
    (mapRead t (.tally c) (0x3001000400 + 4 * i) 4).2 = v % 2 ^ 32 ∧
    (∀ j, j < 4 * i ∨ 4 * i + 4 ≤ j → memGet t.gh.retmem j = memGet s.gh.retmem j) ∧ t = { s with gh := { s.gh with retmem := t.gh.retmem } } := by
  have hat : windowAt (0x3001000400 + 4 * i) = some (16, 0x400 + 4 * i) := windowAt_of (by decide) (by omega) (by omega)
  intro t
  have ht : t = _ := (fenceWrite_word hat (by omega) (mayWrite_tally c hat) v).trans (gateStore_retmem hi s _)
  rw [mapRead_word hat (by omega) (by decide) (by decide) fun h => absurd h (by decide)]
  have hword : windowWord t (readerIndex (.tally c)) 16 (0x400 + 4 * i) = leNat (memBytes t.gh.retmem (4 * i) 4) := gateWord_retmem hi t
  rw [hword, ht]
  refine ⟨?_, fun j hj => memGet_word_out _ _ _ _ hj, rfl⟩
  exact (congrArg (· % 2 ^ 32) (word_readBack hwf _ _)).trans ((Nat.mod_mod _ _).trans (wordOver_mod _ v))

/-! ### Reads change latches and drawn values only (R28, R296, R475) -/

/-- Only the latches and the values drawn change from s to s'. -/
def LatchOnly (s s' : State) : Prop :=
  s' = { s with freeIdx := s'.freeIdx, bench := { s.bench with hiLatch := s'.bench.hiLatch }, time := { s.time with latches := s'.time.latches } }

theorem LatchOnly.refl (s : State) : LatchOnly s s := rfl

theorem LatchOnly.trans {a b c : State} (hab : LatchOnly a b) (hbc : LatchOnly b c) : LatchOnly a c := by
  unfold LatchOnly at *
  rw [hbc, hab]

theorem readTrng_latchOnly (s : State) : LatchOnly s (readTrng s).1 := by
  unfold readTrng
  split <;> rfl

theorem windowRead_latchOnly (s : State) (r n o : Nat) : LatchOnly s (windowRead s r n o).1 := by
  unfold windowRead
  repeat' split
  case isFalse.isFalse.isTrue => exact readTrng_latchOnly s
  all_goals rfl

theorem mapRead_latchOnly (s : State) (who : Reader) (a n : Nat) : LatchOnly s (mapRead s who a n).1 := by
  unfold mapRead
  dsimp only
  repeat' split
  · exact (windowRead_latchOnly ..).trans (windowRead_latchOnly ..)
  · exact windowRead_latchOnly ..
  all_goals rfl

end Sys2Proof.Machine
end

section
/-! PROOFS. Latched reads and register writes outside an instruction (R28, R58, R296, R366, R378, R379, R450, R456, R475, R484, R496). -/

namespace Sys2Proof.Machine

/-! ### Accesses that the cores of a reader judge (R58, R366, R378) -/

theorem vote_unit (s : State) : ∀ l : List Nat, l ≠ [] → l.length ≤ 3 → vote s (l.map (fun k => (k, some ()))) = (s, some ())
  | [], h, _ => absurd rfl h
  | [_], _, _ => rfl
  | [_, _], _, _ => by simp [vote]
  | [_, _, _], _, _ => by simp [vote]
  | _ :: _ :: _ :: _ :: _, _, h => by simp at h; omega

theorem voteAll_unit (s : State) (voted : Bool) {l : List Nat} (h : l ≠ []) (h3 : l.length ≤ 3) (hv : voted = true → s.triad.voter = .sound) :
    voteAll s voted (l.map (fun k => (k, some ()))) = (s, some ()) := by
  unfold voteAll
  cases voted with
  | true => simp [hv rfl, votersDiffer_sound, vote_unit s l h h3]
  | false =>
    cases l with
    | nil => exact absurd rfl h
    | cons k l => rfl

theorem readerCores_runs {s : State} {who : Reader} (hruns : readerRuns s who = true) (hwho : who ≠ .host) : readerCores s who ≠ [] := by
  unfold readerRuns at hruns
  cases who with
  | triad =>
    simp only [Bool.and_eq_true, Bool.not_eq_true'] at hruns
    simp only [readerCores, agentCores, hruns.2.2]
    split
    · contradiction
    · split <;> exact List.cons_ne_nil _ _
  | triadCore i =>
    simp only [Bool.and_eq_true, Bool.or_eq_true, Bool.not_eq_true', beq_iff_eq] at hruns
    obtain ⟨-, ⟨-, hsplit⟩, hlive⟩ := hruns
    simp only [readerCores, agentCores]
    rw [if_neg (by simp [hsplit]), if_neg (by rcases hlive with h | h <;> simp [h])]
    exact List.cons_ne_nil _ _
  | tally c => exact List.cons_ne_nil _ _
  | host => exact absurd rfl hwho

theorem readerCores_length (s : State) (who : Reader) : (readerCores s who).length ≤ 3 := by
  unfold readerCores
  cases who with
  | triad => exact agentCores_length s .triad
  | triadCore i => exact agentCores_length s (.triadCore i)
  | tally c => exact Nat.le_of_ble_eq_true rfl
  | host => exact Nat.zero_le 3

theorem foldl_noTrap {trap : Nat → SCore → Option Nat} (tval : Word) : ∀ (l : List Nat) (s : State), (∀ k ∈ l, trap k (getCore s k) = none) →
    l.foldl (fun s k => match trap k (getCore s k) with
      | some code => takeException s k code tval (getCore s k).pc
      | none => s) s = s
  | [], _, _ => rfl
  | k :: l, s, h => by
    rw [List.foldl_cons, h k List.mem_cons_self]
    exact foldl_noTrap tval l s fun j hj => h j (List.mem_cons_of_mem k hj)

/-- An access that no core's level traps and that the cores present alike is performed. -/
theorem coresAccess_open {s : State} {who : Reader} {trap : Nat → SCore → Option Nat} (hruns : readerRuns s who = true) (hwho : who ≠ .host)
    (hvote : readerVoted s who = true → s.triad.voter = .sound ∧ s.triad.excluded = 0#3)
    (hopen : ∀ k ∈ readerCores s who, trap k (getCore s k) = none) (tval : Word) (f : State → State) : coresAccess s who trap tval f = f s := by
  have hall : (if readerVoted s who then (readerCores s who).filter (fun k => !s.triad.excluded.getLsbD k) else readerCores s who) =
      readerCores s who := by
    split
    · next hv =>
      rw [(hvote hv).2]
      exact List.filter_eq_self.2 fun k _ => by simp
    · rfl
  have hcopies : (readerCores s who).map (fun k => (k, if (trap k (getCore s k)).isSome then none else some ())) =
      (readerCores s who).map (fun k => (k, some ())) := List.map_congr_left fun k hk => by rw [hopen k hk]; rfl
  have hfold := foldl_noTrap tval (readerCores s who) s hopen
  unfold coresAccess
  dsimp only
  rw [hall, hcopies]
  generalize hu : (readerCores s who).foldl _ s = u
  obtain rfl : u = s := hu.symm.trans hfold
  rw [voteAll_unit u _ (readerCores_runs hruns hwho) (readerCores_length u who) fun hv => (hvote hv).1]

/-- An access that the level of a reader's one core traps ends there. -/
theorem coresAccess_trapped {s : State} {who : Reader} {trap : Nat → SCore → Option Nat} {k code : Nat} (hk : readerCores s who = [k])
    (htrap : trap k (getCore s k) = some code) (tval : Word) (f : State → State) :
    coresAccess s who trap tval f = takeException s k code tval (getCore s k).pc := by
  have hnone : ∀ e ∈ (if readerVoted s who then [k].filter (fun k => !s.triad.excluded.getLsbD k) else [k]).map
      (fun k => (k, if (trap k (getCore s k)).isSome then none else some ())), e.2 = none := by
    intro e he
    obtain ⟨j, hj, rfl⟩ := List.mem_map.1 he
    have hjk : j = k := by
      split at hj
      · exact List.mem_singleton.1 (List.mem_of_mem_filter hj)
      · exact List.mem_singleton.1 hj
    subst hjk
    rw [htrap]
    rfl
  unfold coresAccess
  dsimp only
  rw [hk, List.foldl_cons, List.foldl_nil, htrap]
  dsimp only
  rw [voteAll_none _ _ hnone]

/-! ### Bits that clear where ones are written (R450, R456) -/

theorem bitOf_clearBits (n mask : Nat) {w i : Nat} (h : i < w) : bitOf (clearBits n mask w) i = (bitOf n i && !mask.testBit i) := by
  unfold clearBits
  rw [testBit_eq_bitOf, testBit_eq_bitOf, Nat.testBit_and, Nat.testBit_xor, Nat.testBit_two_pow_sub_one, Nat.testBit_mod_two_pow]
  simp [h]

theorem evqAck_read (s : State) (i v : Nat) (hwf : tblWf 0 s.host.evqAck = true) : tblGet 0 (evqAck s i v).host.evqAck i = v % 2 ^ 32 :=
  tblGet_tblSet_self _ _ _ _ hwf

theorem evqAck_others (s : State) {i j : Nat} (v : Nat) (h : j ≠ i) : tblGet 0 (evqAck s i v).host.evqAck j = tblGet 0 s.host.evqAck j :=
  tblGet_tblSet_ne _ _ _ h

/-! ### Rows -/

/-- A read that a reader issues, its copies alike. -/
theorem issued_read {s : State} {who : Reader} (hruns : readerRuns s who = true) (hvote : readerVoted s who = true → s.triad.voter = .sound)
    (f : State → State) (g : State) : (if readerRuns s who then voterIssue s who f else g) = f s := (if_pos hruns).trans (voterIssue_sound hvote f)

theorem trngRead_open {s : State} {who : Reader} (hruns : readerRuns s who = true) (hwho : readerMaster who = 0x200)
    (hvote : readerVoted s who = true → s.triad.voter = .sound ∧ s.triad.excluded = 0#3) (hlevel : ∀ k ∈ readerCores s who, (getCore s k).pl = 2#2) :
    exec (.trngRead who) s = .next (readBack (readTrng s)) := by
  have hhost : who ≠ .host := fun h => absurd (h ▸ hwho) (by decide)
  have hopen := coresAccess_open (trap := fun _ c => if c.pl = 2#2 then none else some cACCESS) hruns hhost hvote
    (fun k hk => if_pos (hlevel k hk)) (BitVec.ofNat 64 trngAddr) (fun s => readBack (readTrng s))
  exact congrArg Host.Outcome.next ((if_neg (by simp [hruns])).trans ((if_pos hwho).trans hopen))

theorem trngRead_trapped {s : State} {who : Reader} {k : Nat} (hruns : readerRuns s who = true) (hwho : readerMaster who = 0x200)
    (hk : readerCores s who = [k]) (hlevel : (getCore s k).pl ≠ 2#2) :
    exec (.trngRead who) s = .next (takeException s k cACCESS (BitVec.ofNat 64 trngAddr) (getCore s k).pc) := by
  have htrap := coresAccess_trapped (trap := fun _ c => if c.pl = 2#2 then none else some cACCESS) hk (if_neg hlevel)
    (BitVec.ofNat 64 trngAddr) (fun s => readBack (readTrng s))
  exact congrArg Host.Outcome.next ((if_neg (by simp [hruns])).trans ((if_pos hwho).trans htrap))

theorem readTrng_value (s : State) : ∃ v : Nat, v < 2 ^ 32 ∧ readBack (readTrng s) =
    if s.vault.trngFail then { s with host := { s.host with readOut := 0, completerAbort := false } }
    else { s with host := { s.host with readOut := v, completerAbort := false }, freeIdx := s.freeIdx + 1 } := by
  refine ⟨(drawFree s).1 % 2 ^ 32, Nat.mod_lt _ (by decide), ?_⟩
  unfold readTrng
  split <;> rfl

/-- A register write of the host. -/
theorem exec_registerWrite_host {s : State} (hruns : readerRuns s .host = true) (a : BitVec 40) (wide : Bool) (v : BitVec 64) :
    exec (.registerWrite .host a wide v) s = .next (
      if a.toNat % (if wide then 8 else 4) ≠ 0 ∨ a.toNat < 0x3000000000 ∨ 0x3002000000 ≤ a.toNat then { s with host := { s.host with unsupported := true } }
      else fenceWrite { s with host := { s.host with unsupported := false } } .host a.toNat (if wide then 8 else 4) v.toNat) := by
  have hedge : windowBase + 0x2000000 = 0x3002000000 := rfl
  change execRegisterWrite .host a wide v s = _
  unfold execRegisterWrite
  dsimp only
  rw [if_neg (by simp [hruns]), if_pos rfl, hedge]
  unfold windowBase
  by_cases hbad : a.toNat % (if wide then 8 else 4) ≠ 0 ∨ a.toNat < 0x3000000000 ∨ 0x3002000000 ≤ a.toNat
  · rw [if_pos hbad, decide_eq_true hbad, if_pos rfl]
  · rw [if_neg hbad, decide_eq_false hbad, if_neg (by decide)]

theorem exec_registerWrite_cores {s : State} {who : Reader} (hruns : readerRuns s who = true) (hwho : who ≠ .host) (a : BitVec 40) (wide : Bool)
    (v : BitVec 64) : exec (.registerWrite who a wide v) s = .next (coresAccess s who
      (fun k c => accessTrap k c (a.zeroExtend 64) (if wide then 8 else 4) 1 false) (a.zeroExtend 64)
      (fun s => fenceWrite s who a.toNat (if wide then 8 else 4) v.toNat)) :=
  congrArg Host.Outcome.next ((if_neg (by simp [hruns])).trans (if_neg hwho))

/-- Settles O48: reads fill their reader's latches, and writes reach the registers that Table 1.5 opens, within their fields. -/
theorem registerAccess : Obligations.RegisterAccess := by
  unfold Obligations.RegisterAccess
  refine ⟨?_, ?_, ?_⟩
  · intro s who hruns hvote
    have hsound : readerVoted s who = true → s.triad.voter = .sound := fun h => (hvote h).1
    refine ⟨?_, fun n => ?_, fun hwho hlevel => ?_, fun k hk hwho hlevel => ?_, fun hwho => ?_, fun v htriad hv => ?_, fun v => ?_, fun c v hc => ?_⟩
    · refine ⟨_, congrArg Host.Outcome.next (issued_read hruns hsound _ _), rfl, fun hwf => ?_, fun i hi => ?_, rfl⟩
      · exact tblGet_tblSet_self _ _ _ _ hwf
      · exact tblGet_tblSet_ne _ _ _ hi
    · refine ⟨_, congrArg Host.Outcome.next (issued_read hruns hsound _ _), rfl, fun hwf => ?_, fun i hi => ?_, rfl⟩
      · exact tblGet_tblSet_self _ _ _ _ hwf
      · exact tblGet_tblSet_ne _ _ _ hi
    · obtain ⟨v, hv, hread⟩ := readTrng_value s
      exact ⟨v, hv, (trngRead_open hruns hwho hvote hlevel).trans (congrArg Host.Outcome.next hread)⟩
    · exact trngRead_trapped hruns hwho hk hlevel
    · exact congrArg Host.Outcome.next ((if_neg (by simp [hruns])).trans (if_neg hwho))
    · exact congrArg Host.Outcome.next (triadIssued_sound htriad hv _)
    · refine ⟨_, congrArg Host.Outcome.next (issued_read hruns hsound _ _), ⟨fun hwf => ?_, fun j hj => evqAck_others s _ hj⟩, rfl⟩
      exact (evqAck_read s _ _ hwf).trans (Nat.mod_eq_of_lt v.isLt)
    · subst hc
      refine ⟨⟨_, congrArg Host.Outcome.next (if_pos hruns), rfl, fun i hi => bitOf_clearBits _ _ hi⟩,
        ⟨_, congrArg Host.Outcome.next (if_pos hruns), fun i hi => bitOf_clearBits _ _ hi, ?_, ?_, rfl, rfl, rfl⟩⟩
      · exact congrArg (fun b => s.gh.late && !b) (testBit_eq_bitOf _ _)
      · exact congrArg (fun b => s.gh.abandoned && !b) (testBit_eq_bitOf _ _)
  · intro s a wide v n
    refine ⟨fun hruns halign hlow hhigh => ?_, fun hruns hbad => ?_, fun who hruns hwho hvote hopen => ?_, fun who k code hruns hk htrap => ?_⟩
    · exact (exec_registerWrite_host hruns a wide v).trans (congrArg Host.Outcome.next (if_neg (by
        rintro (h | h | h)
        · exact h halign
        · omega
        · omega)))
    · exact (exec_registerWrite_host hruns a wide v).trans (congrArg Host.Outcome.next (if_pos hbad))
    · exact (exec_registerWrite_cores hruns hwho a wide v).trans (congrArg Host.Outcome.next (coresAccess_open hruns hwho hvote hopen _ _))
    · have hwho : who ≠ .host := fun h => by
        rw [h] at hk
        exact List.cons_ne_nil k [] hk.symm
      exact (exec_registerWrite_cores hruns hwho a wide v).trans (congrArg Host.Outcome.next (coresAccess_trapped hk htrap _ _))
  · intro s who n v
    refine ⟨fun a ha => ?_, fun hwho => ⟨?_, ?_, ?_, ?_⟩, fun c hc => ⟨?_, ?_, ?_⟩, fun hwho => ⟨?_, ?_, ?_, ?_⟩, fun a => mapRead_latchOnly s who a n⟩
    · have hmay : mayWrite who a = false := by
        rcases ha with h | h | ⟨w, o, hw, ho, rfl, h⟩
        · exact mayWrite_outside (windowAt_none (.inl h))
        · exact mayWrite_outside (windowAt_none (.inr h))
        · exact mayWrite_closed (windowAt_of hw ho rfl) (by cases who <;> exact h)
      rw [fenceWrite_refused hmay]
      exact ⟨rfl, readerFault_frozen s who _ _⟩
    · refine ⟨?_, triadCfg_write hwho v⟩
      have hbound : v % 128 < 2 ^ 32 := (Nat.mod_lt v (by decide)).trans (by decide)
      rw [triadCfg_read, triadCfg_write hwho, coastField, Nat.mod_eq_of_lt hbound]
    · refine ⟨?_, ?_⟩
      · have hbound : (if 1 ≤ v % 128 ∧ v % 128 ≤ 100 then v % 128 else 10) < 2 ^ 32 := by split <;> omega
        rw [remask_read, remask_write hwho, Nat.mod_eq_of_lt hbound]
      · rw [remask_write hwho]
    · intro o ho halign h4 h20 h34 h h'
      have hat : windowAt (0x3000C00000 + o) = some (12, o) := windowAt_of (by decide) ho rfl
      exact (fenceWrite_word hat halign (mayWrite_triad hwho hat (.inl rfl)) v).trans (controlStore_outside h4 h20 h34 h h' s who _)
    · intro o ho halign h4
      have hat : windowAt (0x3000E00000 + o) = some (14, o) := windowAt_of (by decide) ho rfl
      exact (fenceWrite_word hat halign (mayWrite_triad hwho hat (.inr rfl)) v).trans (if_neg h4)
    · subst hc
      exact fun i hi hwf => bkp_effect c v hi hwf
    · subst hc
      exact fun i hi hwf => retmem_effect c v hi hwf
    · intro o ho halign h4 h10 h h'
      subst hc
      have hat : windowAt (0x3001000000 + o) = some (16, o) := windowAt_of (by decide) ho rfl
      exact (fenceWrite_word hat halign (mayWrite_tally c hat) v).trans (gateStore_outside h4 h10 h h' s _)
    · exact (bootAddr_effect hwho v).symm
    · exact (bootLen_effect hwho v).symm
    · exact fun i hi hwf => cmdBlock_effect hwho v hi hwf
    · exact fun i hi hwf => dbgWindow_effect hwho v hi hwf

end Sys2Proof.Machine
end

section
/-! PROOFS. The sweeps of the tables and of the Berm: ageing, the end of a relocation, normalisation of tags, the connection sweeper
and the scrub of an epoch (R180, R184, R188, R199, R215, R217). -/

namespace Sys2Proof.Machine

/-! ### Slots and overflow entries -/

/-- Only the slots and overflow entries of the tiers change. -/
def SlotsOnly (s s' : State) : Prop :=
  s' = { s with lookup := { s.lookup with
    onDie := { s.lookup.onDie with
      slots := s'.lookup.onDie.slots, ovf := s'.lookup.onDie.ovf, keptSlots := s'.lookup.onDie.keptSlots, keptOvf := s'.lookup.onDie.keptOvf }
    dram := { s.lookup.dram with
      slots := s'.lookup.dram.slots, ovf := s'.lookup.dram.ovf, keptSlots := s'.lookup.dram.keptSlots, keptOvf := s'.lookup.dram.keptOvf } } }

theorem SlotsOnly.refl (s : State) : SlotsOnly s s := rfl

theorem SlotsOnly.trans {s s' s'' : State} (h : SlotsOnly s s') (h' : SlotsOnly s' s'') : SlotsOnly s s'' := by
  unfold SlotsOnly at *
  rw [h', h]

theorem SlotsOnly.foldl {α : Type} {f : State → α → State} (h : ∀ s a, SlotsOnly s (f s a)) : ∀ (l : List α) (s : State), SlotsOnly s (l.foldl f s)
  | [], s => SlotsOnly.refl s
  | a :: l, s => (h s a).trans (SlotsOnly.foldl h l (f s a))

theorem setSlot_slotsOnly (s : State) (dram : Bool) (i : Nat) (x : LSlot) : SlotsOnly s (setSlot s dram i x) := by
  cases dram <;> rfl

theorem setOvf_slotsOnly (s : State) (dram : Bool) (i : Nat) (x : LSlot) : SlotsOnly s (setOvf s dram i x) := by
  cases dram <;> rfl

theorem modEntry_slotsOnly (s : State) (dram : Bool) (l : Loc) (f : LSlot → LSlot) : SlotsOnly s (modEntry s dram l f) := by
  cases l
  · exact setSlot_slotsOnly ..
  · exact setOvf_slotsOnly ..

theorem modParts_slotsOnly (s : State) (dram : Bool) (l : Loc) (f : LSlot → LSlot) : SlotsOnly s (modParts s dram l f) := by
  cases l
  · exact SlotsOnly.foldl (fun s p => setSlot_slotsOnly ..) _ _
  · exact setOvf_slotsOnly ..

theorem placeEntry_slotsOnly (s : State) (d : TableDef) (l : Loc) (e : NewEntry) : SlotsOnly s (placeEntry s d l e) := by
  cases l
  · exact SlotsOnly.foldl (fun s p => setSlot_slotsOnly ..) _ _
  · exact setOvf_slotsOnly ..

theorem mergeEntry_slotsOnly (s : State) (dram : Bool) (i g : Nat) : SlotsOnly s (mergeEntry s dram i g) := by
  unfold mergeEntry
  exact (modEntry_slotsOnly ..).trans (modParts_slotsOnly ..)

theorem SlotsOnly.waiting {s s' : State} (h : SlotsOnly s s') (dram : Bool) : (getTier s' dram).waiting = (getTier s dram).waiting := by
  unfold SlotsOnly at h
  rw [h]
  cases dram <;> rfl

theorem SlotsOnly.getTable {s s' : State} (h : SlotsOnly s s') (t : Nat) : getTable s' t = getTable s t := by
  unfold SlotsOnly at h
  rw [h]; rfl

theorem SlotsOnly.pairPassive {s s' : State} (h : SlotsOnly s s') : pairPassive s' = pairPassive s := by
  unfold SlotsOnly at h
  rw [h]; rfl

theorem getSlot_setSlot_ne (s : State) (dram : Bool) {i k : Nat} (x : LSlot) (h : k ≠ i) : getSlot (setSlot s dram i x) dram k = getSlot s dram k := by
  cases dram <;> exact tblGet_tblSet_ne _ _ _ h

/-- An entry of one slot, or an overflow entry, is its part 0 alone. -/
theorem modParts_narrow {s : State} {dram : Bool} {l : Loc} (h : ∀ i, l = .slot i → (getSlot s dram i).width = 0) (f : LSlot → LSlot) :
    modParts s dram l f = modEntry s dram l f := by
  cases l with
  | slot i => simp only [modParts, modEntry, h i rfl]; rfl
  | ovf i => rfl

/-! ### Ageing (R188) -/

/-- What the visit of an entry that its pass has not swept does. -/
def agedEntry (s : State) (t : Nat) (x : LTable) (l : Loc) : State :=
  let d := x.defn
  let y := getEntry s d.dram l
  if y.hit then modEntry s d.dram l (fun y => { y with hit := false, strike := false, swept := x.ph })
  else if y.strike = false then modEntry s d.dram l (fun y => { y with strike := true, swept := x.ph })
  else lookupEvent (logChange (bump (modEntry s d.dram l (fun y => { y with used := false, vis := false })) .aged t 1)
    (.entryRemove t d.bits (entryKey s d.dram l))) d 0x02 0 t (entryKey s d.dram l)

/-- The entry at a place is due for the visit of a pass. -/
structure AgeDue (s : State) (t : Nat) (x : LTable) (l : Loc) : Prop where
  table : (getEntry s x.defn.dram l).table = t
  part : (getEntry s x.defn.dram l).part = 0
  visible : slotVisible s (getEntry s x.defn.dram l) = true
  learned : (getEntry s x.defn.dram l).static = false
  untagged : (getEntry s x.defn.dram l).tag = 0
  unswept : (getEntry s x.defn.dram l).swept = !x.ph
  still : ∀ i, l = .slot i → underReloc s x.defn.dram i = false
  narrow : ∀ i, l = .slot i → (getSlot s x.defn.dram i).width = 0

theorem not_relocating {s : State} {dram : Bool} : ∀ {l : Loc}, (∀ i, l = .slot i → underReloc s dram i = false) →
    (match l with | .slot i => underReloc s dram i | .ovf _ => false) = false
  | .slot i, h => h i rfl
  | .ovf _, _ => rfl

theorem ageEntry_due {s : State} {t : Nat} {x : LTable} {l : Loc} (h : AgeDue s t x l) (hwrites : pairPassive s = false) :
    ageEntry t x s l = agedEntry s t x l := by
  have hswept : (getEntry s x.defn.dram l).swept ≠ x.ph := by rw [h.unswept]; exact Bool.not_ne_self x.ph
  unfold ageEntry
  refine (if_pos ⟨h.table, h.part, h.visible, h.learned, h.untagged, not_relocating h.still, hswept⟩).trans ?_
  simp only [agedEntry, hwrites, modParts_narrow h.narrow, Bool.false_eq_true, if_false]

theorem ageEntry_unused {s : State} {t : Nat} {x : LTable} {l : Loc} (h : (getEntry s x.defn.dram l).used = false) : ageEntry t x s l = s := by
  have hvis : ¬ slotVisible s (getEntry s x.defn.dram l) = true := by simp [slotVisible, h]
  exact if_neg (fun hall => hvis hall.2.2.1)

theorem logChange_lookup (s : State) (r : DeltaRec) : (logChange s r).lookup = s.lookup := by
  unfold logChange; split <;> rfl

theorem lookupEvent_lookup (s : State) (d : TableDef) (typ partner t key : Nat) : (lookupEvent s d typ partner t key).lookup = s.lookup := by
  unfold lookupEvent postEvent
  dsimp only
  repeat' split
  all_goals rfl

theorem getSlot_congr {s s' : State} (h : s'.lookup = s.lookup) (dram : Bool) (i : Nat) : getSlot s' dram i = getSlot s dram i := by
  unfold getSlot getTier; rw [h]

/-- The visit of an entry leaves the other slots as they were. -/
theorem getSlot_agedEntry_ne (s : State) (t : Nat) (x : LTable) {i k : Nat} (h : k ≠ i) :
    getSlot (agedEntry s t x (.slot i)) x.defn.dram k = getSlot s x.defn.dram k := by
  have hmod : ∀ f, getSlot (modEntry s x.defn.dram (.slot i) f) x.defn.dram k = getSlot s x.defn.dram k := fun f => getSlot_setSlot_ne s _ _ h
  simp only [agedEntry]
  split
  · exact hmod _
  · split
    · exact hmod _
    · exact (getSlot_congr (by rw [lookupEvent_lookup, logChange_lookup]; rfl) _ _).trans (hmod fun y => { y with used := false, vis := false })

/-- A fold of which one element acts, and every other leaves the state before and the state after alone. -/
theorem foldl_acts_once {σ : Type} {f : σ → Nat → σ} {u v : σ} {p : Nat} (hacts : f u p = v) : ∀ (l : List Nat), l.Nodup → p ∈ l →
    (∀ k ∈ l, k ≠ p → f u k = u) → (∀ k ∈ l, k ≠ p → f v k = v) → l.foldl f u = v
  | k :: l, hdup, hmem, hu, hv => by
    have hrest : ∀ (m : List Nat), (∀ k ∈ m, f v k = v) → m.foldl f v = v := by
      intro m
      induction m with
      | nil => intro _; rfl
      | cons j m ih => intro h; rw [List.foldl_cons, h j List.mem_cons_self]; exact ih fun k hk => h k (List.mem_cons_of_mem _ hk)
    obtain ⟨hk, hdup⟩ := List.nodup_cons.1 hdup
    by_cases hkp : k = p
    · subst hkp
      rw [List.foldl_cons, hacts]
      exact hrest l fun j hj => hv j (List.mem_cons_of_mem _ hj) (fun e => hk (e ▸ hj))
    · rw [List.foldl_cons, hu k List.mem_cons_self hkp]
      exact foldl_acts_once hacts l hdup ((List.mem_cons.1 hmem).resolve_left fun e => hkp e.symm)
        (fun j hj => hu j (List.mem_cons_of_mem _ hj)) (fun j hj => hv j (List.mem_cons_of_mem _ hj))

/-- A bucket of which one slot holds an entry, which the pass has not swept. -/
theorem ageBucket_due {s : State} {t : Nat} {x : LTable} {j p : Nat} (hp : p < 4) (h : AgeDue s t x (.slot (4 * j + p))) (hwrites : pairPassive s = false)
    (halone : ∀ k, k < 4 → k ≠ p → (getSlot s x.defn.dram (4 * j + k)).used = false) :
    (List.range 4).foldl (fun s p => ageEntry t x s (.slot (4 * j + p))) s = agedEntry s t x (.slot (4 * j + p)) := by
  refine foldl_acts_once (p := p) (ageEntry_due h hwrites) _ List.nodup_range (List.mem_range.2 hp) (fun k hk hkp => ?_) (fun k hk hkp => ?_)
  · exact ageEntry_unused (halone k (List.mem_range.1 hk) hkp)
  · refine ageEntry_unused (l := .slot (4 * j + k)) (Eq.trans (congrArg LSlot.used ?_) (halone k (List.mem_range.1 hk) hkp))
    exact getSlot_agedEntry_ne s t x (by omega)

theorem drainTier_idle {s : State} {dram : Bool} (h : tierBusy s dram = false) : ∀ n, drainTier dram n s = s
  | 0 => rfl
  | _ + 1 => if_neg (by rw [h]; exact Bool.false_ne_true)

theorem drainTier_advance {s : State} {dram : Bool} (h : tierBusy s dram = false) (n m : Nat) : drainTier dram n (advance s m) = advance s m :=
  drainTier_idle (s := advance s m) h n

theorem ageVisit_eq {s : State} {t : Nat} {x : LTable} {o : Bool} {j n : Nat} (hx : getTable s t = some x) (hage : x.defn.age = true)
    (hn : n = if o then tierOvf x.defn.dram else tierBuckets x.defn.dram) (hj : j < n) (hidle : tierBusy s x.defn.dram = false) :
    ageVisit s t o j =
      if o then ageEntry t x (advance s (x.passStart + j * x.passLen * 1000000000 / n - s.localNs)) (.ovf j)
      else (List.range 4).foldl (fun s p => ageEntry t x s (.slot (4 * j + p))) (advance s (x.passStart + j * x.passLen * 1000000000 / n - s.localNs)) := by
  have hpass : ¬ (x.defn.age = false ∨ j ≥ n) := by
    rw [hage]
    exact fun h => h.elim (fun h => absurd h (by decide)) (Nat.not_le.2 hj)
  unfold ageVisit
  rw [hx]
  dsimp only
  rw [← hn, if_neg hpass, drainTier_advance hidle]

theorem AgeDue.advance {s : State} {t : Nat} {x : LTable} {l : Loc} (h : AgeDue s t x l) (n : Nat) : AgeDue (advance s n) t x l := by
  cases l <;> exact ⟨h.table, h.part, h.visible, h.learned, h.untagged, h.unswept, h.still, h.narrow⟩

theorem exec_ageSweepPass {s : State} {t : Fin 256} {x : LTable} (hx : getTable s t = some x) (hage : x.defn.age = true) :
    exec (.ageSweepPass t) s = .next (setTable (advance s (x.passStart + x.passLen * 1000000000 - s.localNs)) t
      (some { x with ph := !x.ph, passStart := (advance s (x.passStart + x.passLen * 1000000000 - s.localNs)).localNs, passLen := x.defn.sweep })) := by
  change execAgeSweepPass t s = _
  unfold execAgeSweepPass agePass
  rw [hx]
  dsimp only
  rw [if_neg (by rw [hage]; decide)]

theorem exec_ageVisit (t : Fin 256) (o : Bool) (j : Fin 4194304) (s : State) : exec (.ageSweepVisit t o j) s = .next (ageVisit s t o j) := rfl

/-- The visit of a bucket or of an overflow entry, once the clock has run to its instant. -/
theorem agedEntry_ofClock {s : State} {t : Nat} {x : LTable} {o : Bool} {j : Nat} {l : Loc}
    (hl : if o then l = .ovf j else ∃ p, p < 4 ∧ l = .slot (4 * j + p) ∧ (getSlot s x.defn.dram (4 * j + p)).width = 0 ∧
       ∀ k, k < 4 → k ≠ p → (getSlot s x.defn.dram (4 * j + k)).used = false)
    (h : AgeDue s t x l) (hwrites : pairPassive s = false) (m : Nat) :
    (if o then ageEntry t x (advance s m) (.ovf j) else (List.range 4).foldl (fun s p => ageEntry t x s (.slot (4 * j + p))) (advance s m))
      = agedEntry (advance s m) t x l := by
  cases o with
  | true =>
    obtain rfl : l = .ovf j := hl
    exact ageEntry_due (h.advance m) hwrites
  | false =>
    obtain ⟨p, hp, rfl, -, halone⟩ := hl
    exact ageBucket_due (s := advance s m) (j := j) (p := p) hp (h.advance m) hwrites halone

theorem exec_ageSweepVisit {s : State} {t : Fin 256} {x : LTable} {o : Bool} {j : Fin 4194304} {n : Nat} {l : Loc} (hx : getTable s t = some x)
    (hage : x.defn.age = true) (hn : n = if o then tierOvf x.defn.dram else tierBuckets x.defn.dram) (hj : j.val < n)
    (hl : if o then l = .ovf j else ∃ p, p < 4 ∧ l = .slot (4 * j.val + p) ∧ (getSlot s x.defn.dram (4 * j.val + p)).width = 0 ∧
       ∀ k, k < 4 → k ≠ p → (getSlot s x.defn.dram (4 * j.val + k)).used = false)
    (h : AgeDue s t x l) (hidle : tierBusy s x.defn.dram = false) (hwrites : pairPassive s = false) :
    exec (.ageSweepVisit t o j) s = .next (agedEntry (advance s (x.passStart + j.val * x.passLen * 1000000000 / n - s.localNs)) t x l) := by
  rw [exec_ageVisit, ageVisit_eq hx hage hn hj hidle, agedEntry_ofClock hl h hwrites]

theorem getEntry_advance (s : State) (m : Nat) (dram : Bool) (l : Loc) : getEntry (advance s m) dram l = getEntry s dram l := by
  cases l <;> rfl

theorem entryKey_advance (s : State) (m : Nat) (dram : Bool) (l : Loc) : entryKey (advance s m) dram l = entryKey s dram l := by
  cases l <;> rfl

/-! ### The end of a relocation (R180) -/

theorem learnedKey_waiting (s : State) (c : LrnCtx) (dram : Bool) : (getTier (learnedKey s c) dram).waiting = (getTier s dram).waiting := by
  unfold learnedKey
  cases getTable s c.table with
  | none => rfl
  | some x => dsimp only; unfold getTier; rw [logChange_lookup]; rfl

theorem lrnReturn_waiting (s : State) (c : LrnCtx) (st de wo : Nat) (dram : Bool) : (getTier (lrnReturn s c st de wo) dram).waiting = (getTier s dram).waiting := by
  unfold lrnReturn; dsimp only; split <;> rfl

theorem serveWaiting_none {s : State} {dram : Bool} (h : (getTier s dram).waiting = []) (n : Nat) : serveWaiting dram (n + 1) s = s := by
  unfold serveWaiting; dsimp only; rw [h]

theorem exec_relocationDrain {s : State} {dram : Bool} {r : Reloc} {x : LTable} (hr : s.lookup.relocs.find? (fun r => decide (r.dram = dram)) = some r)
    (hx : getTable s r.ctx.table = some x) (hwait : (getTier s dram).waiting = []) (hwrites : pairPassive s = false) :
    exec (.relocationDrain dram) s = .next (lrnReturn (learnedKey (placeEntry
      (mergeEntry { s with lookup := { s.lookup with relocs := s.lookup.relocs.erase r } } r.dram r.old r.new) x.defn
      (.slot (r.old / x.defn.width * x.defn.width)) r.ctx.entry) r.ctx) r.ctx stOK 0 0) := by
  have hmerge := mergeEntry_slotsOnly { s with lookup := { s.lookup with relocs := s.lookup.relocs.erase r } } r.dram r.old r.new
  have hbusy : tierBusy s dram = true := List.any_eq_true.2 ⟨r, List.mem_of_find?_eq_some hr, by simpa using List.find?_some hr⟩
  have hr' : s.lookup.relocs.find? (fun r => r.dram == dram) = some r := hr
  have hdone : relocDone s dram = lrnReturn (learnedKey (placeEntry
      (mergeEntry { s with lookup := { s.lookup with relocs := s.lookup.relocs.erase r } } r.dram r.old r.new) x.defn
      (.slot (r.old / x.defn.width * x.defn.width)) r.ctx.entry) r.ctx) r.ctx stOK 0 0 := by
    have hx' := (hmerge.getTable r.ctx.table).trans hx
    have hp' := hmerge.pairPassive.trans hwrites
    unfold relocDone
    rw [hr']
    dsimp only
    unfold relocFinish
    dsimp only
    rw [hx']
    dsimp only
    rw [if_neg (by rw [hp']; decide)]
  change Host.Outcome.next (relocDrain s dram) = _
  unfold relocDrain
  rw [if_pos hbusy, hdone, serveWaiting_none]
  rw [lrnReturn_waiting, learnedKey_waiting, (placeEntry_slotsOnly ..).waiting, hmerge.waiting]
  exact hwait

/-! ### Normalisation (R184) -/

/-- An entry that carries an applied tag, once it is normalised. -/
def normSlot (y : LSlot) : LSlot := match y.tag with
  | 1 => { y with tag := 0 }
  | 2 => { y with used := false, vis := false, tag := 0 }
  | 3 => { y with data := y.pdata, static := y.pstatic, tag := 0, pdata := 0, pstatic := false }
  | _ => y

theorem normSlot_untagged {y : LSlot} (h : y.tag = 0) : normSlot y = y := by
  unfold normSlot; rw [h]; rfl

theorem normSlot_tag (y : LSlot) : (normSlot y).tag = 0 ∨ normSlot y = y := by
  unfold normSlot
  split
  · exact .inl rfl
  · exact .inl rfl
  · exact .inl rfl
  · exact .inr rfl

theorem normSlot_normSlot (y : LSlot) : normSlot (normSlot y) = normSlot y := by
  rcases normSlot_tag y with h | h
  · exact normSlot_untagged h
  · rw [h, h]

/-- The overflow entries of a tier stand in canonical form. -/
abbrev OvfWf (s : State) (dram : Bool) : Prop := tblWf LSlot.empty (getTier s dram).ovf = true

theorem getOvf_setOvf {s : State} {dram : Bool} (h : OvfWf s dram) (i j : Nat) (x : LSlot) :
    getOvf (setOvf s dram i x) dram j = if j = i then x else getOvf s dram j := by
  cases dram <;> exact tblGet_tblSet h i j

theorem setOvf_ovfWf {s : State} {dram : Bool} (h : OvfWf s dram) (i : Nat) (x : LSlot) : OvfWf (setOvf s dram i x) dram := by
  cases dram <;> exact tblSet_wf _ _ h

theorem getTier_setOvf_ne (s : State) {dram other : Bool} (h : other ≠ dram) (i : Nat) (x : LSlot) : getTier (setOvf s dram i x) other = getTier s other := by
  cases dram
  · obtain rfl : other = true := by simpa using h
    rfl
  · obtain rfl : other = false := by simpa using h
    rfl

theorem getTier_setSlot_ovf (s : State) (dram other : Bool) (i : Nat) (x : LSlot) : (getTier (setSlot s dram i x) other).ovf = (getTier s other).ovf := by
  cases dram <;> cases other <;> rfl

theorem normEntry_slotsOnly (applied dram : Bool) (s : State) (l : Loc) : SlotsOnly s (normEntry applied dram s l) := by
  unfold normEntry
  dsimp only
  split
  · split <;> exact modParts_slotsOnly ..
  · split <;> exact modParts_slotsOnly ..
  · split
    · exact ((modEntry_slotsOnly ..).trans (modParts_slotsOnly ..)).trans (modEntry_slotsOnly ..)
    · exact (modParts_slotsOnly ..).trans (modEntry_slotsOnly ..)
  · exact SlotsOnly.refl s

/-- What changes slots alone leaves the overflow entries. -/
def OvfKept (s s' : State) : Prop := ∀ dram, (getTier s' dram).ovf = (getTier s dram).ovf

theorem OvfKept.refl (s : State) : OvfKept s s := fun _ => rfl

theorem OvfKept.trans {s s' s'' : State} (h : OvfKept s s') (h' : OvfKept s' s'') : OvfKept s s'' := fun dram => (h' dram).trans (h dram)

theorem OvfKept.foldl {α : Type} {f : State → α → State} : ∀ (l : List α) (s : State), (∀ a ∈ l, ∀ s, OvfKept s (f s a)) → OvfKept s (l.foldl f s)
  | [], s, _ => OvfKept.refl s
  | a :: l, s, h => (h a List.mem_cons_self s).trans (OvfKept.foldl l (f s a) fun b hb => h b (List.mem_cons_of_mem _ hb))

theorem setSlot_ovfKept (s : State) (dram : Bool) (i : Nat) (x : LSlot) : OvfKept s (setSlot s dram i x) :=
  fun other => getTier_setSlot_ovf s dram other i x

theorem modParts_ovfKept (s : State) (dram : Bool) (i : Nat) (f : LSlot → LSlot) : OvfKept s (modParts s dram (.slot i) f) :=
  OvfKept.foldl _ _ fun _ _ _ => setSlot_ovfKept _ dram _ _

theorem modEntry_ovfKept (s : State) (dram : Bool) (i : Nat) (f : LSlot → LSlot) : OvfKept s (modEntry s dram (.slot i) f) :=
  setSlot_ovfKept s dram i _

/-- Normalising a group of slots leaves the overflow entries. -/
theorem normEntry_ovfKept (applied dram : Bool) (s : State) (i : Nat) : OvfKept s (normEntry applied dram s (.slot i)) := by
  unfold normEntry
  dsimp only
  split
  · split <;> exact modParts_ovfKept s dram i _
  · split <;> exact modParts_ovfKept s dram i _
  · split
    · exact ((modEntry_ovfKept _ dram i _).trans (modParts_ovfKept _ dram i _)).trans (modEntry_ovfKept _ dram i _)
    · exact (modParts_ovfKept _ dram i _).trans (modEntry_ovfKept _ dram i _)
  · exact OvfKept.refl s

/-- What a write to an overflow entry leaves: the entry, the other entries of its tier, and the other tier. -/
structure OvfPut (s s' : State) (dram : Bool) (i : Nat) (y : LSlot) : Prop where
  same : ∀ j, getOvf s' dram j = if j = i then y else getOvf s dram j
  other : ∀ d, d ≠ dram → getTier s' d = getTier s d
  wf : OvfWf s' dram

theorem setOvf_put {s : State} {dram : Bool} (h : OvfWf s dram) (i : Nat) (y : LSlot) : OvfPut s (setOvf s dram i y) dram i y :=
  ⟨fun j => getOvf_setOvf h i j y, fun _ hd => getTier_setOvf_ne s hd i y, setOvf_ovfWf h i y⟩

theorem OvfPut.again {s s' : State} {dram : Bool} {i : Nat} {y : LSlot} (h : OvfPut s s' dram i y) (f : LSlot → LSlot) :
    OvfPut s (setOvf s' dram i (f (getOvf s' dram i))) dram i (f y) := by
  have hi : getOvf s' dram i = y := (h.same i).trans (if_pos rfl)
  have hput := setOvf_put h.wf i (f (getOvf s' dram i))
  rw [hi] at hput ⊢
  refine ⟨fun j => ?_, fun d hd => (hput.other d hd).trans (h.other d hd), hput.wf⟩
  rw [hput.same j, h.same j]
  split <;> rfl

theorem OvfPut.none {s : State} {dram : Bool} (h : OvfWf s dram) (i : Nat) : OvfPut s s dram i (getOvf s dram i) := by
  refine ⟨fun j => ?_, fun _ _ => rfl, h⟩
  split
  · next e => rw [e]
  · rfl

/-- Normalising an overflow entry of an applied tag. -/
theorem normEntry_put {s : State} {dram : Bool} (h : OvfWf s dram) (i : Nat) :
    OvfPut s (normEntry true dram s (.ovf i)) dram i (normSlot (getOvf s dram i)) := by
  have hnorm : normEntry true dram s (.ovf i) = match (getOvf s dram i).tag with
      | 1 => setOvf s dram i { getOvf s dram i with tag := 0 }
      | 2 => setOvf s dram i { getOvf s dram i with used := false, vis := false, tag := 0 }
      | 3 =>
        let s1 := setOvf s dram i { getOvf s dram i with data := (getOvf s dram i).pdata, static := (getOvf s dram i).pstatic }
        let s2 := setOvf s1 dram i { getOvf s1 dram i with tag := 0 }
        setOvf s2 dram i { getOvf s2 dram i with pdata := 0, pstatic := false }
      | _ => s := rfl
  rw [hnorm]
  unfold normSlot
  split
  · exact setOvf_put h i _
  · exact setOvf_put h i _
  · exact ((setOvf_put h i _).again (fun y => { y with tag := 0 })).again (fun y => { y with pdata := 0, pstatic := false })
  · exact OvfPut.none h i

/-- What normalising a list of overflow entries of an applied tag leaves. -/
theorem normOvf_list (dram : Bool) : ∀ (l : List (Loc × LSlot)) (s : State), (∀ e ∈ l, ∃ i, e.1 = .ovf i) → OvfWf s dram →
    let s' := l.foldl (fun (s : State) (e : Loc × LSlot) => normEntry true dram s e.1) s
    (∀ j, getOvf s' dram j = if Loc.ovf j ∈ l.map Prod.fst then normSlot (getOvf s dram j) else getOvf s dram j) ∧
      (∀ d, d ≠ dram → getTier s' d = getTier s d)
  | [], s, _, _ => ⟨fun _ => rfl, fun _ _ => rfl⟩
  | e :: l, s, hl, h => by
    obtain ⟨i, hi⟩ := hl e List.mem_cons_self
    have hput := normEntry_put h i
    obtain ⟨hsame, hother⟩ := normOvf_list dram l _ (fun e he => hl e (List.mem_cons_of_mem _ he)) hput.wf
    rw [List.foldl_cons, hi]
    refine ⟨fun j => ?_, fun d hd => (hother d hd).trans (hput.other d hd)⟩
    rw [hsame j, hput.same j, List.map_cons, hi]
    by_cases hj : j = i
    · subst hj
      simp only [if_true, List.mem_cons, true_or, normSlot_normSlot, ite_self]
    · simp only [hj, if_false, List.mem_cons, Loc.ovf.injEq, false_or]

/-- The entries of a tier that carry a tag. -/
def taggedOf (s : State) (dram : Bool) (c : Nat) : List (Loc × LSlot) := (tierEntries s dram).filter (fun e => e.2.tag != 0 && e.2.ctag == c)

/-- Normalisation of one tier. -/
def normTier (c : Nat) (s : State) (dram : Bool) : State := (taggedOf s dram c).foldl (fun (s : State) (e : Loc × LSlot) => normEntry true dram s e.1) s

theorem normTier_slotsOnly (c : Nat) (s : State) (dram : Bool) : SlotsOnly s (normTier c s dram) :=
  SlotsOnly.foldl (fun s (e : Loc × LSlot) => normEntry_slotsOnly true dram s e.1) _ _

theorem mem_of_tblGet {β : Type} {d : β} {i : Nat} : ∀ {t : Tbl β}, tblGet d t i ≠ d → (i, tblGet d t i) ∈ t
  | [], h => absurd rfl h
  | (k, v) :: t, h => by
    by_cases hk : k = i
    · subst hk; simp [tblGet]
    · have hget : tblGet d ((k, v) :: t) i = tblGet d t i := if_neg hk
      rw [hget] at h ⊢
      exact List.mem_cons_of_mem _ (mem_of_tblGet h)

theorem tblGet_of_mem {β : Type} [DecidableEq β] {d : β} : ∀ {t : Tbl β} {e : Nat × β}, tblWf d t = true → e ∈ t → tblGet d t e.1 = e.2
  | (k, v) :: t, e, hwf, he => by
    rcases List.mem_cons.1 he with rfl | he
    · exact if_pos rfl
    · have hk : k ≠ e.1 := Nat.ne_of_lt (tblWf_lt hwf e he)
      exact (if_neg hk).trans (tblGet_of_mem (tblWf_tail hwf) he)

/-- The overflow entries in use that carry a tag. -/
def taggedOvf (s : State) (dram : Bool) (c : Nat) : List (Loc × LSlot) :=
  (((getTier s dram).ovf.filter (fun e => e.2.used)).map (fun e => (Loc.ovf e.1, e.2))).filter (fun e => e.2.tag != 0 && e.2.ctag == c)

theorem mem_taggedOvf {s : State} {dram : Bool} (h : OvfWf s dram) (c j : Nat) :
    Loc.ovf j ∈ (taggedOvf s dram c).map Prod.fst ↔ (getOvf s dram j).used = true ∧ (getOvf s dram j).ctag = c ∧ (getOvf s dram j).tag ≠ 0 := by
  simp only [taggedOvf, List.mem_map, List.mem_filter, Prod.exists, Prod.mk.injEq, Bool.and_eq_true, bne_iff_ne, beq_iff_eq]
  constructor
  · rintro ⟨l, y, ⟨⟨i, z, ⟨hmem, hused⟩, rfl, rfl⟩, htag, hc⟩, hl⟩
    obtain rfl : i = j := Loc.ovf.inj hl
    have hget : getOvf s dram i = z := tblGet_of_mem h hmem
    exact hget.symm ▸ ⟨hused, hc, htag⟩
  · rintro ⟨hused, hc, htag⟩
    have hne : getOvf s dram j ≠ LSlot.empty := fun e => by rw [e] at hused; exact absurd hused (by decide)
    exact ⟨_, _, ⟨⟨j, _, ⟨mem_of_tblGet hne, hused⟩, rfl, rfl⟩, htag, hc⟩, rfl⟩

/-- Normalisation of the slots of one tier. -/
def normSlots (c : Nat) (s : State) (dram : Bool) : State :=
  ((((getTier s dram).slots.filter (fun e => e.2.used && e.2.part == 0)).map (fun e => (Loc.slot e.1, e.2))).filter
    (fun e => e.2.tag != 0 && e.2.ctag == c)).foldl (fun (s : State) (e : Loc × LSlot) => normEntry true dram s e.1) s

theorem normTier_eq (c : Nat) (s : State) (dram : Bool) :
    normTier c s dram = (taggedOvf s dram c).foldl (fun (s : State) (e : Loc × LSlot) => normEntry true dram s e.1) (normSlots c s dram) := by
  unfold normTier taggedOf tierEntries
  rw [List.filter_append, List.foldl_append]
  rfl

theorem normSlots_ovfKept (c : Nat) (s : State) (dram : Bool) : OvfKept s (normSlots c s dram) := by
  refine OvfKept.foldl _ _ fun e he v => ?_
  obtain ⟨i, -, hi⟩ := List.mem_map.1 (List.mem_filter.1 he).1
  subst hi
  exact normEntry_ovfKept true dram v i.1

theorem OvfKept.ovfWf {s s' : State} (h : OvfKept s s') {dram : Bool} (hwf : OvfWf s dram) : OvfWf s' dram := by
  unfold OvfWf; rw [h dram]; exact hwf

theorem OvfKept.getOvf {s s' : State} (h : OvfKept s s') (dram : Bool) (j : Nat) : getOvf s' dram j = getOvf s dram j := by
  unfold Machine.getOvf; rw [h dram]

theorem taggedOvf_isOvf (s : State) (dram : Bool) (c : Nat) : ∀ e ∈ taggedOvf s dram c, ∃ i, e.1 = .ovf i := by
  intro e he
  obtain ⟨i, -, hi⟩ := List.mem_map.1 (List.mem_filter.1 he).1
  exact ⟨i.1, hi ▸ rfl⟩

/-- What normalising a tier makes of an overflow entry. -/
def normedOvf (c : Nat) (y : LSlot) : LSlot := if y.used = true ∧ y.ctag = c ∧ y.tag ≠ 0 then normSlot y else y

theorem normTier_ovf {s : State} {dram : Bool} (h : OvfWf s dram) (c j : Nat) : getOvf (normTier c s dram) dram j = normedOvf c (getOvf s dram j) := by
  have hkept := normSlots_ovfKept c s dram
  rw [normTier_eq, (normOvf_list dram _ _ (taggedOvf_isOvf s dram c) (hkept.ovfWf h)).1 j, hkept.getOvf]
  exact if_congr (mem_taggedOvf h c j) rfl rfl

theorem normTier_other (c : Nat) {s : State} {dram d : Bool} (h : OvfWf s dram) (hd : d ≠ dram) : (getTier (normTier c s dram) d).ovf = (getTier s d).ovf := by
  have hkept := normSlots_ovfKept c s dram
  rw [normTier_eq, (normOvf_list dram _ _ (taggedOvf_isOvf s dram c) (hkept.ovfWf h)).2 d hd]
  exact hkept d

theorem normedOvf_cases (c : Nat) (y : LSlot) : normedOvf c y =
    if y.used = true ∧ y.ctag = c ∧ y.tag = 1 then { y with tag := 0 }
    else if y.used = true ∧ y.ctag = c ∧ y.tag = 2 then { y with used := false, vis := false, tag := 0 }
    else if y.used = true ∧ y.ctag = c ∧ y.tag = 3 then { y with data := y.pdata, static := y.pstatic, tag := 0, pdata := 0, pstatic := false }
    else y := by
  by_cases h : y.used = true ∧ y.ctag = c
  · simp only [normedOvf, normSlot, h, true_and]
    split
    · split <;> simp_all
    · simp_all
  · simp only [normedOvf, ← and_assoc, h, false_and, if_false]

theorem drainAll_idle {s : State} (h : s.lookup.relocs = []) : drainAll s = s := by
  have hidle : ∀ dram, tierBusy s dram = false := fun dram => by unfold tierBusy; rw [h]; rfl
  unfold drainAll
  rw [drainTier_idle (hidle false), drainTier_idle (hidle true)]

/-- Normalisation of both tiers. -/
def normTiers (c : Nat) (s : State) : State := normTier c (normTier c s false) true

theorem normTiers_slotsOnly (c : Nat) (s : State) : SlotsOnly s (normTiers c s) := (normTier_slotsOnly ..).trans (normTier_slotsOnly ..)

theorem normTiers_ovf {s : State} (h : ∀ dram, OvfWf s dram) (c : Nat) (dram : Bool) (i : Nat) :
    getOvf (normTiers c s) dram i = normedOvf c (getOvf s dram i) := by
  have hother : (getTier (normTier c s false) true).ovf = (getTier s true).ovf := normTier_other c (h false) (by decide)
  have hwf : OvfWf (normTier c s false) true := by unfold OvfWf; rw [hother]; exact h true
  cases dram with
  | true =>
    refine (normTier_ovf hwf c i).trans (congrArg (normedOvf c) ?_)
    unfold getOvf; rw [hother]
  | false =>
    refine Eq.trans ?_ (normTier_ovf (h false) c i)
    unfold getOvf normTiers; rw [normTier_other c hwf (by decide)]

theorem exec_normalise {s : State} {c : Fin 16} (hc : tblGet TagState.free s.lookup.tags c = .applied) (hrelocs : s.lookup.relocs = []) :
    exec (.normalise c) s = .next { normTiers c s with lookup := { (normTiers c s).lookup with
      tags := tblSet TagState.free (normTiers c s).lookup.tags c .free } } := by
  change Host.Outcome.next (normalise s c) = _
  unfold normalise
  rw [hc]
  dsimp only
  rw [drainAll_idle hrelocs]
  rfl

theorem normalise_settles {s : State} {c : Fin 16} (hc : tblGet TagState.free s.lookup.tags c = .applied) (hrelocs : s.lookup.relocs = [])
    (htags : tblWf TagState.free s.lookup.tags = true) (hovf : ∀ dram, OvfWf s dram) :
    ∃ s', exec (.normalise c) s = .next s' ∧ tblGet TagState.free s'.lookup.tags c = .free ∧
      (∀ dram i, getOvf s' dram i = normedOvf c (getOvf s dram i)) ∧ s' = { s with lookup := s'.lookup } := by
  have hslots := normTiers_slotsOnly c s
  have hget := normTiers_ovf hovf c
  refine ⟨_, exec_normalise hc hrelocs, ?_, fun dram i => Eq.trans ?_ (hget dram i), ?_⟩
  · have htags' : (normTiers c s).lookup.tags = s.lookup.tags := by unfold SlotsOnly at hslots; rw [hslots]
    dsimp only
    rw [htags']
    exact tblGet_tblSet_self _ _ _ _ htags
  · cases dram <;> rfl
  · unfold SlotsOnly at hslots
    generalize normTiers c s = u at hslots ⊢
    rw [hslots]

/-! ### The Berm's sweeps (R199, R215, R217) -/

/-- A visit of the connection sweeper, once the clock stands at `s`. -/
def sweptConn (passive : Bool) (s : State) (i : Nat) (c : Conn) (before lim e : Nat) : State :=
  let c' := { c with idle := min (before + 1) 65535, addIdle := 0, visited := s.localNs }
  let s1 := setConn s i (some c')
  if lim ≠ 0 ∧ lim ≤ before ∧ passive = false then
    connEvent (bump (removeConn s1 i c') .connExpired (32 * c.zsrc + c.zdst) 1) e 0x10 i c'
  else s1

theorem logChange_screen (s : State) (r : DeltaRec) : (logChange s r).screen = s.screen := by
  unfold logChange; split <;> rfl

theorem clearCached_screen (s : State) (i : Nat) (c : Conn) : (clearCached s i c).screen = s.screen := by
  unfold clearCached
  cases c.cachedI <;> cases c.cachedR <;> rfl

theorem removeConn_screen (s : State) (i : Nat) (c : Conn) : (removeConn s i c).screen = s.screen := by
  unfold removeConn
  dsimp only
  rw [logChange_screen]
  exact clearCached_screen s i c

theorem curEpoch_congr {s s' : State} (h : s'.screen = s.screen) : curEpoch s' = curEpoch s := by
  unfold curEpoch; rw [h]

/-- What the sweeper does once the clock has run to the visit. -/
theorem sweptConn_eq {s s0 : State} (hscreen : s0.screen = s.screen) (hpair : s0.pair = s.pair) (i : Nat) (c : Conn) (before : Nat) :
    (let c' : Conn := { c with idle := sat 16 (before + 1), addIdle := 0, visited := s0.localNs }
     let s1 := setConn s0 i (some c')
     let lim := idleLimit s1 (curEpoch s1) c'.tclass c'.state
     if lim ≠ 0 ∧ before ≥ lim ∧ pairPassive s1 = false then
       let s2 := bump (removeConn s1 i c') .connExpired (pairIdx c'.zsrc c'.zdst) 1
       connEvent s2 (curEpoch s2) 0x10 i c'
     else s1) = sweptConn (pairPassive s) s0 i c before (idleLimit s (curEpoch s) c.tclass c.state) (curEpoch s) := by
  have hepoch : ∀ s1 : State, s1.screen = s.screen → curEpoch s1 = curEpoch s := fun s1 h => curEpoch_congr h
  have hlim : ∀ s1 : State, s1.screen = s.screen → idleLimit s1 (curEpoch s1) c.tclass c.state = idleLimit s (curEpoch s) c.tclass c.state := by
    intro s1 h
    unfold idleLimit ruleSetOf
    rw [hepoch s1 h, h]
  have hafter : ∀ (c' : Conn) (k : Nat), curEpoch (bump (removeConn (setConn s0 i (some c')) i c') .connExpired k 1) = curEpoch s :=
    fun c' k => hepoch _ ((removeConn_screen _ _ _).trans hscreen)
  dsimp only
  have hpassive : ∀ x, pairPassive (setConn s0 i x) = pairPassive s := fun x => by unfold pairPassive; rw [← hpair]; rfl
  rw [hlim (setConn s0 i _) hscreen, hafter, hpassive]
  rfl

theorem connVisit_eq {s : State} {i m before : Nat} {c : Conn} (hc : getConn s i = some c) (hkept : c.cleared = false)
    (hm : m = nextVisit i c.visited - s.localNs)
    (hbefore : before = c.idle + ((advance s m).localNs - nextVisit i c.visited) / 1000000000 + c.addIdle) :
    connVisit s i = sweptConn (pairPassive s) (advance s m) i c before (idleLimit s (curEpoch s) c.tclass c.state) (curEpoch s) := by
  unfold connVisit
  rw [hc]
  dsimp only
  rw [if_neg (by rw [hkept]; decide), ← hm, ← hbefore]
  exact sweptConn_eq (s := s) (s0 := advance s m) rfl rfl i c before

theorem exec_connSweepVisit (i : Fin 4194304) (s : State) : exec (.connSweepVisit i) s = .next (connVisit s i) := rfl

/-- Whether a list of entries holds one of a place that is selected. -/
def picked {α : Type} (sel : α → Bool) (l : List (Nat × Option α)) (j : Nat) : Bool := l.any (fun e => decide (e.1 = j) && e.2.any sel)

/-- A step of a fold that empties the places of a table whose entries are selected. -/
def emptyStep {α : Type} (sel : α → Bool) (act : State → Nat → State) (s : State) (e : Nat × Option α) : State := match e.2 with
  | some x => if sel x then act s e.1 else s
  | none => s

theorem emptyStep_some {α : Type} (sel : α → Bool) (act : State → Nat → State) (s : State) (i : Nat) (x : α) :
    emptyStep sel act s (i, some x) = if sel x then act s i else s := rfl

/-- A fold that empties places of a table: those of the entries that it meets and selects. -/
theorem foldl_empties {α : Type} (sel : α → Bool) (act : State → Nat → State) (get : State → Nat → Option α) (inv : State → Prop)
    (hact : ∀ s i, inv s → inv (act s i) ∧ ∀ j, get (act s i) j = if j = i then none else get s j) :
    ∀ (l : List (Nat × Option α)) (s : State), inv s → ∀ j,
      get (l.foldl (emptyStep sel act) s) j =
        if picked sel l j then none else get s j
  | [], s, _, j => rfl
  | (i, none) :: l, s, hs, j => by
    refine (foldl_empties sel act get inv hact l s hs j).trans (if_congr (iff_of_eq (congrArg (· = true) ?_)) rfl rfl)
    simp [picked]
  | (i, some x) :: l, s, hs, j => by
    have hpick : picked sel ((i, some x) :: l) j = (decide (i = j) && sel x || picked sel l j) := rfl
    rw [List.foldl_cons, hpick, emptyStep_some]
    cases hx : sel x with
    | false => simpa using foldl_empties sel act get inv hact l s hs j
    | true =>
      obtain ⟨hinv, hget⟩ := hact s i hs
      rw [if_pos rfl, foldl_empties sel act get inv hact l _ hinv j, hget j]
      by_cases hj : j = i
      · simp [hj]
      · simp [hj, Ne.symm hj]

/-- What emptying the selected entries of a whole table leaves of a place. -/
def emptied {α : Type} (sel : α → Bool) : Option α → Option α
  | some x => if sel x then none else some x
  | none => none

theorem emptied_of_wf {α : Type} [DecidableEq α] {sel : α → Bool} {t : Tbl (Option α)} (h : tblWf none t = true) (j : Nat) :
    (if picked sel t j then none else tblGet none t j) = emptied sel (tblGet none t j) := by
  have hpick : picked sel t j = (tblGet none t j).any sel := by
    rw [Bool.eq_iff_iff]
    constructor
    · intro hp
      obtain ⟨e, he, hsel⟩ := List.any_eq_true.1 hp
      obtain ⟨hej, hsel⟩ := Bool.and_eq_true_iff.1 hsel
      rw [← of_decide_eq_true hej, tblGet_of_mem h he]
      exact hsel
    · intro hsel
      refine List.any_eq_true.2 ⟨(j, tblGet none t j), mem_of_tblGet ?_, by simp [hsel]⟩
      intro e
      rw [e] at hsel
      exact Bool.false_ne_true hsel
  rw [hpick]
  cases tblGet none t j with
  | none => rfl
  | some x => rfl

theorem connClearFree_eq (s : State) : connClearFree s = s.berm.conns.foldl (emptyStep Conn.cleared (fun s i => setConn s i none)) s := by
  refine congrArg (fun f => s.berm.conns.foldl f s) (funext₂ fun s e => ?_)
  obtain ⟨i, _ | c⟩ := e <;> rfl

/-- Only the connections change. -/
def ConnsOnly (s s' : State) : Prop := s' = { s with berm := { s.berm with conns := s'.berm.conns } }

theorem connClearFree_connsOnly : ∀ (l : List (Nat × Option Conn)) (s : State),
    ConnsOnly s (l.foldl (emptyStep Conn.cleared (fun s i => setConn s i none)) s)
  | [], s => rfl
  | (i, none) :: l, s => connClearFree_connsOnly l s
  | (i, some c) :: l, s => by
    rw [List.foldl_cons, emptyStep_some]
    split
    · have h := connClearFree_connsOnly l (setConn s i none)
      unfold ConnsOnly at *
      rw [h]; rfl
    · exact connClearFree_connsOnly l s

theorem connClearFree_get {s : State} (h : tblWf none s.berm.conns = true) (i : Nat) : getConn (connClearFree s) i = emptied Conn.cleared (getConn s i) := by
  have hfold := foldl_empties Conn.cleared (fun s i => setConn s i none) getConn (fun s => tblWf none s.berm.conns = true)
    (fun s i hs => ⟨tblSet_wf _ _ hs, fun j => tblGet_tblSet hs i j⟩) s.berm.conns s h i
  rw [connClearFree_eq]
  exact hfold.trans (emptied_of_wf h i)

/-- Only the verdict cache and the connections' pointers to it change. -/
def CacheOnly (s s' : State) : Prop :=
  s' = { s with berm := { s.berm with cache := s'.berm.cache, conns := s'.berm.conns } }

theorem CacheOnly.refl (s : State) : CacheOnly s s := rfl

theorem CacheOnly.trans {s s' s'' : State} (h : CacheOnly s s') (h' : CacheOnly s' s'') : CacheOnly s s'' := by
  unfold CacheOnly at *
  rw [h', h]

theorem setBackPtr_cacheOnly (s : State) (i : Nat) (dir : Bool) (v : Option Nat) : CacheOnly s (setBackPtr s i dir v) := by
  unfold setBackPtr; split <;> rfl

theorem clearWay_cacheOnly (s : State) (v : Nat) : CacheOnly s (clearWay s v) := by
  unfold clearWay
  split
  · split
    · split
      · exact (setBackPtr_cacheOnly ..).trans rfl
      · rfl
    · rfl
  · rfl

theorem setBackPtr_cache (s : State) (i : Nat) (dir : Bool) (v : Option Nat) : (setBackPtr s i dir v).berm.cache = s.berm.cache := by
  unfold setBackPtr; split <;> rfl

theorem clearWay_cache {s : State} {v : Nat} : (clearWay s v).berm.cache = s.berm.cache ∧ getWay s v = none ∨ (clearWay s v).berm.cache = tblSet none s.berm.cache v none := by
  unfold clearWay
  cases h : getWay s v with
  | none => exact .inl ⟨rfl, rfl⟩
  | some x =>
    refine .inr (congrArg (fun t => tblSet none t v none) ?_)
    split
    · split
      · exact setBackPtr_cache ..
      · rfl
    · rfl

theorem clearWay_get {s : State} (h : tblWf none s.berm.cache = true) (v : Nat) :
    tblWf none (clearWay s v).berm.cache = true ∧ ∀ w, getWay (clearWay s v) w = if w = v then none else getWay s w := by
  rcases clearWay_cache (s := s) (v := v) with ⟨hcache, hnone⟩ | hcache
  · refine ⟨hcache ▸ h, fun w => ?_⟩
    have hw : getWay (clearWay s v) w = getWay s w := by unfold getWay; rw [hcache]
    rw [hw]
    split
    · next e => rw [e, hnone]
    · rfl
  · refine ⟨hcache ▸ tblSet_wf _ _ h, fun w => ?_⟩
    unfold getWay
    rw [hcache]
    exact tblGet_tblSet h v w

theorem clearEpoch_eq (s : State) (e : Nat) : clearEpoch s e = s.berm.cache.foldl (emptyStep (fun x : VEntry => decide (x.epoch = e)) clearWay) s := by
  refine congrArg (fun f => s.berm.cache.foldl f s) (funext₂ fun s v => ?_)
  obtain ⟨i, _ | x⟩ := v
  · rfl
  · unfold emptyStep
    simp only [decide_eq_true_eq]

theorem clearEpoch_cacheOnly (e : Nat) : ∀ (l : List (Nat × Option VEntry)) (s : State),
    CacheOnly s (l.foldl (emptyStep (fun x => decide (x.epoch = e)) clearWay) s)
  | [], s => rfl
  | (i, none) :: l, s => clearEpoch_cacheOnly e l s
  | (i, some x) :: l, s => by
    rw [List.foldl_cons, emptyStep_some]
    split
    · exact (clearWay_cacheOnly s i).trans (clearEpoch_cacheOnly e l _)
    · exact clearEpoch_cacheOnly e l s

theorem clearEpoch_get {s : State} (h : tblWf none s.berm.cache = true) (e v : Nat) :
    getWay (clearEpoch s e) v = emptied (fun x => decide (x.epoch = e)) (getWay s v) := by
  have hfold := foldl_empties (fun x : VEntry => decide (x.epoch = e)) clearWay getWay (fun s => tblWf none s.berm.cache = true)
    (fun s i hs => clearWay_get hs i) s.berm.cache s h v
  rw [clearEpoch_eq]
  exact hfold.trans (emptied_of_wf h v)

theorem exec_epochScrub {s : State} {e : Nat} {l : List Nat} (h : s.berm.scrub = e :: l) :
    exec .epochScrub s = .next { clearEpoch s e with berm := { (clearEpoch s e).berm with scrub := l } } := by
  change Host.Outcome.next (epochScrub s) = _
  unfold epochScrub
  rw [h]

/-- Settles O36: each visit is run to the instant at which it falls due, and of a sweep over a table only the entries that it selects
change (`foldl_empties`, `normOvf_list`). -/
theorem tableSweeps : Obligations.TableSweeps := by
  unfold Obligations.TableSweeps
  refine ⟨⟨fun s t x hx hage => exec_ageSweepPass hx hage, ?_⟩, ⟨?_, ?_⟩, ?_, ?_, ?_⟩
  · intro s t x o j l hx hage dram n hj hl y htable hpart hvis hstatic htag hswept hidle hreloc hwrites s1
    have hdue : AgeDue s t x l := by
      refine ⟨htable, hpart, hvis, hstatic, htag, hswept, hreloc, fun i hi => ?_⟩
      cases o with
      | true => exact absurd ((show l = .ovf j from hl).symm.trans hi) (fun e => by cases e)
      | false =>
        obtain ⟨p, -, hlp, hwidth, -⟩ := hl
        obtain rfl : 4 * j.val + p = i := Loc.slot.inj (hlp.symm.trans hi)
        exact hwidth
    have hexec : exec (.ageSweepVisit t o j) s = .next (agedEntry s1 t x l) := exec_ageSweepVisit hx hage rfl hj hl hdue hidle hwrites
    have hentry : getEntry s1 x.defn.dram l = y := getEntry_advance ..
    have hkey : entryKey s1 x.defn.dram l = entryKey s x.defn.dram l := entryKey_advance ..
    clear_value s1 y
    rw [hexec]
    unfold agedEntry
    dsimp only
    rw [hentry, hkey]
  · intro s dram r x hr hx hwait hwrites s1
    exact exec_relocationDrain hr hx hwait hwrites
  · intro s c hc hrelocs htags hdie hdram
    obtain ⟨s', hexec, hfree, hovf, hs'⟩ := normalise_settles hc hrelocs htags (fun dram => by cases dram <;> assumption)
    exact ⟨s', hexec, hfree, fun dram i => (hovf dram i).trans (normedOvf_cases c _), hs'⟩
  · intro s i c hc hkept due s0 before c' s1 lim
    have hvisit : connVisit s i = sweptConn (pairPassive s) s0 i c before lim (curEpoch s) := connVisit_eq hc hkept rfl rfl
    rw [exec_connSweepVisit, hvisit]
    clear_value before lim s0
    rfl
  · intro s h
    have honly : ConnsOnly s (connClearFree s) := by
      rw [connClearFree_eq]
      exact connClearFree_connsOnly s.berm.conns s
    refine ⟨connClearFree s, rfl, fun i => (connClearFree_get h i).trans ?_, honly⟩
    cases getConn s i <;> rfl
  · intro s e l hscrub h
    refine ⟨_, exec_epochScrub hscrub, rfl, fun v => (clearEpoch_get h e v).trans ?_, ?_⟩
    · cases getWay s v with
      | none => rfl
      | some x => simp only [emptied, decide_eq_true_eq]
    · have hcache : CacheOnly s (clearEpoch s e) := by
        rw [clearEpoch_eq]
        exact clearEpoch_cacheOnly e s.berm.cache s
      generalize clearEpoch s e = u at hcache ⊢
      unfold CacheOnly at hcache
      rw [hcache]

end Sys2Proof.Machine
end

section
/-! PROOFS. A CREDIT cell of one lane while a cell waits in the receive buffer of another: every receive buffer takes what has found a place
before the cell leaves, and not those of its own lane alone (R252, R253). -/

namespace Sys2Proof.Machine

/-- Channel 0 of a lane, with a cell in its receive buffer. -/
def waitingVc : LaneVc := { LaneVc.reset with waits := [{ cell := [], rxTime := 0, stamp := [] }] }

/-- A device with fabric lane 1, and a cell that waits on lane 0. -/
def otherLaneWaits : State := { State.reset with
  triad := { State.reset.triad with safe := false }
  fabric := { State.reset.fabric with laneMask := 2, lanes := [(0, waitingVc)] } }

theorem lane1_waits (v : Nat) : (getLane otherLaneWaits 1 v).waits = [] := by
  have hne : (0 : Nat) ≠ 8 * 1 + v := by omega
  have hlane : getLane otherLaneWaits 1 v = LaneVc.reset := if_neg hne
  rw [hlane]
  rfl

/-- The CREDIT cell of lane 1 lets the cell of lane 0 leave its receive buffer. -/
theorem creditCellSend_drains {s' : State} (h : exec (.creditCellSend 1) otherLaneWaits = .next s') : (getLane s' 0 0).waits = [] := by
  have hgone : (match exec (.creditCellSend 1) otherLaneWaits with
    | .next t => decide ((getLane t 0 0).waits = [])
    | _ => false) = true := by decide +kernel
  rw [h] at hgone
  exact of_decide_eq_true hgone

/-- Refutes O35: the clause of the CREDIT cell asks that no cell waits on its own lane, and a cell that waits on another lane leaves its
receive buffer at the same time, so that the channels do not stay as they were. -/
theorem not_pauseAndFabric : ¬ Obligations.PauseAndFabric := by
  rintro ⟨-, hcredit, -⟩
  obtain ⟨s', hexec, -, -, honly⟩ := hcredit otherLaneWaits 1 (by decide +kernel) rfl lane1_waits (by decide +kernel)
  have hkept : (getLane s' 0 0).waits = waitingVc.waits := congrArg (fun s : State => (getLane s 0 0).waits) honly
  rw [creditCellSend_drains hexec] at hkept
  cases hkept

end Sys2Proof.Machine
end

section
/-! PROOFS. The life of frames on a hold queue of which none has expired: no counter is written, and one that stands past 64 bits keeps
its value (R241). -/

namespace Sys2Proof.Machine

/-- An empty queue that holds back, with its path to node 0, and a counter of expired frames that stands at 2^64. -/
def holdingState : State := { State.reset with
  counters := [(ctrKey .holdExpired 0, 2 ^ 64)]
  stock := { State.reset.stock with qadmit := [(0, { QAdmit.reset with hold := true, holdLife := 1 })] }
  haul := { State.reset.haul with
    queues := [(0, { QueueRec.reset with attached := true, hold := .holding })]
    subs := [(0, { NodeRec.reset with attached := true })]
    svcs := [(0, { NodeRec.reset with attached := true })] } }

theorem holdExpired_idle {s' : State} (h : exec (.holdExpired 0) holdingState = .next s') : getCtr s' .holdExpired 0 = 2 ^ 64 := by
  have hkept : (match exec (.holdExpired 0) holdingState with
    | .next t => decide (getCtr t .holdExpired 0 = 2 ^ 64)
    | _ => false) = true := by decide +kernel
  rw [h] at hkept
  exact of_decide_eq_true hkept

/-- Refutes O34: the clause of the expiry asks for the sum modulo 2^64, also where no frame goes and the counter stays as it was. -/
theorem not_cellsAndHolds : ¬ Obligations.CellsAndHolds := by
  rintro ⟨-, -, -, -, hexpired⟩
  have hempty : (getQueue holdingState 0).frames = [] := by decide +kernel
  obtain ⟨s', hexec, -, hcount⟩ := hexpired holdingState 0 0 (by decide +kernel) (by decide +kernel) (by decide +kernel)
    (fun d hd => absurd (hempty ▸ hd) List.not_mem_nil) (by decide +kernel)
  have hframes : (getQueue holdingState (0 : Fin 524288).val).frames.length = 0 := congrArg List.length hempty
  have hbefore : getCtr holdingState .holdExpired (0 : Fin 524288).val = 2 ^ 64 := by decide +kernel
  rw [hframes, hbefore, Nat.zero_sub] at hcount
  have hafter := holdExpired_idle hexec
  change getCtr s' .holdExpired 0 = _ at hcount
  omega

end Sys2Proof.Machine
end

section
/-! PROOFS. Ends of transmissions, the stomp of an uncorrectable read, and changes of gates (R204, R206, R207, R237, R275, R277, R278,
R284). -/

namespace Sys2Proof.Machine

/-! ### Gates (R275, R277, R278) -/

theorem tblSet_tblGet {β : Type} [DecidableEq β] {d : β} : ∀ {t : Tbl β} {i : Nat}, tblWf d t = true → tblSet d t i (tblGet d t i) = t
  | [], i, _ => if_pos rfl
  | (k, x) :: t, i, h => by
    have hx : x ≠ d := tblWf_head h
    by_cases hki : k = i
    · subst hki
      simp [tblGet, tblSet, hx]
    · have hget : tblGet d ((k, x) :: t) i = tblGet d t i := if_neg hki
      rw [hget]
      by_cases hlt : i < k
      · have hd : tblGet d t i = d := tblGet_of_lt d fun e he => Nat.lt_trans hlt (tblWf_lt h e he)
        simp [tblSet, hlt, hd]
      · simp only [tblSet, if_neg hlt, if_neg (Ne.symm hki), tblSet_tblGet (tblWf_tail h)]

/-- A node's lists once they are settled, where no transmission is in progress. -/
theorem settleNode_idle {s : State} {m : Nat} (h : (getPort s m).tx = none) :
    settleNode s m = setGates s m { settleGates s (getGates s m) with hold := holdAfter s (settleGates s (getGates s m)) } := by
  have htx : ∀ g, (getPort (setGates s m g) m).tx = none := fun _ => h
  unfold settleNode
  dsimp only
  rw [htx]

theorem exec_gateChange {s : State} {m : Fin 56} {n : Nat} (hn : (gateAt s (getGates s m) 0).2 = some n) (htx : (getPort s m).tx = none) :
    ∃ s', exec (.gateChange m) s = .next s' ∧ s'.localNs = s.localNs + n ∧
      s' = { advance s n with haul := { s.haul with gates := s'.haul.gates } } ∧ ∀ j, j ≠ m.val → getGates s' j = getGates s j := by
  have hexec : exec (.gateChange m) s = .next (settleNode (advance s n) m) := by
    change execGateChange m s = _
    unfold execGateChange
    rw [hn]
  have hsettled := settleNode_idle (s := advance s n) (m := m) htx
  refine ⟨_, hexec, ?_, ?_, fun j hj => ?_⟩
  · rw [hsettled]; rfl
  · rw [hsettled]; rfl
  · rw [hsettled]
    exact tblGet_tblSet_ne _ _ _ hj

/-- A running base without a slew has reached the value that it was given the cycles for. -/
theorem value_of_cyclesTo {b : TimeBase} {v : Int} {n : Nat} (hrun : b.running = true) (hslew : b.slew = none) (hrate : -2147483 ≤ b.rate)
    (hn : cyclesTo b v = some n) : v ≤ b.value + n * (2 ^ 32 + b.rate) := by
  have hpos : (0 : Int) < 2 ^ 32 + b.rate := by omega
  unfold cyclesTo at hn
  rw [hrun, hslew] at hn
  by_cases hv : v ≤ b.value
  · rw [if_pos hv] at hn
    obtain rfl := Option.some.inj hn
    simpa using hv
  · rw [if_neg hv, if_neg (by decide)] at hn
    obtain rfl := Option.some.inj hn
    obtain ⟨r, hr⟩ : ∃ r : Nat, 2 ^ 32 + b.rate = r := Int.eq_ofNat_of_zero_le hpos.le
    obtain ⟨w, hw⟩ : ∃ w : Nat, v - b.value = w := Int.eq_ofNat_of_zero_le (by omega)
    have hr0 : 0 < r := by omega
    have hceil : w ≤ ceilDiv w r * r := by
      unfold ceilDiv
      have hdiv := Nat.div_add_mod (w + r - 1) r
      have hmod := Nat.mod_lt (w + r - 1) hr0
      rw [Nat.mul_comm] at hdiv
      omega
    rw [hr, hw]
    simp only [Int.toNat_natCast]
    have : ((w : Int)) ≤ (ceilDiv w r : Int) * r := by exact_mod_cast hceil
    omega

theorem tbGet_advance_nat (s : State) (n k : Nat) : tbGet (advance s k).time n = tbAdvance (tbGet s.time n) k := by
  match n with
  | 0 | 1 | 2 => rfl
  | _ + 3 => rfl

theorem tbAdvance_running (b : TimeBase) (n : Nat) : (tbAdvance b n).running = b.running := by
  unfold tbAdvance
  dsimp only
  repeat' split
  all_goals rfl

theorem tbAdvance_value {b : TimeBase} {n : Nat} (hrun : b.running = true) (hslew : b.slew = none) (h0 : 0 ≤ b.value) (hrate : -2147483 ≤ b.rate)
    (hbound : b.value + n * (2 ^ 32 + b.rate) < 2 ^ 80 * 1000000000) : (tbAdvance b n).value = b.value + n * (2 ^ 32 + b.rate) := by
  have hnonneg : 0 ≤ b.value + n * (2 ^ 32 + b.rate) := add_nonneg h0 (mul_nonneg (Int.natCast_nonneg n) (by omega))
  unfold tbAdvance
  rw [hrun, hslew]
  exact Int.emod_eq_of_lt hnonneg hbound

theorem settleGates_takes {s : State} {g : GateState} {l : GateList} {st : Nat} (hp : g.pending = some (l, st))
    (hrun : (tbGet s.time l.tb).running = true) (hdue : (st * 2 ^ 32 : Int) ≤ (tbGet s.time l.tb).value) :
    settleGates s g = { g with active := if l.ents = [] then none else some (l, st), pending := none, coast := none } := by
  unfold settleGates
  rw [hp]
  dsimp only
  rw [if_pos ⟨hrun, hdue⟩]
  cases l.ents <;> rfl

theorem exec_gateListTakeover {s : State} {m : Fin 56} {l : GateList} {st n : Nat} (hp : (getGates s m).pending = some (l, st))
    (hrun : (tbGet s.time l.tb).running = true) (hslew : (tbGet s.time l.tb).slew = none) (hrate : -2147483 ≤ (tbGet s.time l.tb).rate)
    (hn : cyclesTo (tbGet s.time l.tb) (st * 2 ^ 32) = some n) (h0 : 0 ≤ (tbGet s.time l.tb).value)
    (hbound : (tbGet s.time l.tb).value + n * (2 ^ 32 + (tbGet s.time l.tb).rate) < 2 ^ 80 * 1000000000) (htx : (getPort s m).tx = none)
    (hwf : tblWf GateState.none s.haul.gates = true) :
    ∃ s', exec (.gateListTakeover m) s = .next s' ∧ s'.localNs = s.localNs + n ∧ (getGates s' m).pending = none ∧
      (getGates s' m).coast = none ∧ (getGates s' m).active = (if l.ents = [] then none else some (l, st)) ∧
      s' = { advance s n with haul := { s.haul with gates := s'.haul.gates } } := by
  have hexec : exec (.gateListTakeover m) s = .next (settleNode (advance s n) m) := by
    change execGateListTakeover m s = _
    unfold execGateListTakeover
    rw [hp]
    dsimp only
    rw [hn]
  have hreach := value_of_cyclesTo hrun hslew hrate hn
  rw [← tbAdvance_value hrun hslew h0 hrate hbound, ← tbGet_advance_nat] at hreach
  have hrun' : (tbGet (advance s n).time l.tb).running = true := by rw [tbGet_advance_nat, tbAdvance_running, hrun]
  have hset := settleGates_takes (s := advance s n) (g := getGates (advance s n) m) hp hrun' hreach
  have hsettled := settleNode_idle (s := advance s n) (m := m) htx
  rw [hset] at hsettled
  have hget : ∀ g, getGates (setGates (advance s n) m g) m = g := fun g => tblGet_tblSet_self _ _ _ _ hwf
  refine ⟨_, hexec, ?_, ?_, ?_, ?_, ?_⟩
  · rw [hsettled]; rfl
  · rw [hsettled, hget]
  · rw [hsettled, hget]
  · rw [hsettled, hget]
  · rw [hsettled]; rfl

theorem exec_streamGateChange {s : State} {g : Fin 256} {n : Nat} (hp : (getSgate s g).pending = none) (hn : (gateAt s (getSgate s g) 0).2 = some n)
    (hwf : tblWf GateState.none s.haul.sgates = true) : exec (.streamGateChange g) s = .next (advance s n) := by
  have hexec : exec (.streamGateChange g) s = .next (setSgate (advance s n) g (settleGates (advance s n) (getSgate (advance s n) g))) := by
    change execStreamGateChange g s = _
    unfold execStreamGateChange
    rw [hn]
  have hidle : settleGates (advance s n) (getSgate (advance s n) g) = getSgate s g := by
    have hp' : (getSgate (advance s n) g).pending = none := hp
    unfold settleGates
    rw [hp']; rfl
  have hsame : tblSet GateState.none s.haul.sgates g (getSgate s g) = s.haul.sgates := tblSet_tblGet hwf
  rw [hexec, hidle]
  unfold setSgate
  change Host.Outcome.next { advance s n with haul := { s.haul with sgates := tblSet GateState.none s.haul.sgates g (getSgate s g) } } = _
  rw [hsame]
  rfl

/-! ### The tail point of a speculation (R204, R206) -/

theorem exec_specTailPoint {s : State} {m : Fin 64} {x : TxRec} {p : Packet} (hx : (getPort s m).tx = some x) (hm : m.val < 59) (hspec : x.desc.spec = true)
    (hstomp : x.stomp = none) (hp : (packets s).find? (fun p => decide (p.desc = x.desc.idx) && decide (p.spec = .standing)) = some p) :
    exec (.specTailPoint m) s = .next (
      bump (withdrawDesc (advance s (x.start + lineNs s m (8 + x.bytes.length - x.done - 4) - s.localNs)) p.desc) .specLate p.src 1) := by
  have hbytes : txLineBytes x = 8 + x.bytes.length - x.done := by unfold txLineBytes; rw [hstomp]
  have hp' : ∀ k, (packets (advance s k)).find? (fun p => p.desc == x.desc.idx && p.spec == .standing) = some p := fun _ => hp
  change Host.Outcome.next (specTailPoint s m) = _
  unfold specTailPoint
  rw [hx]
  dsimp only
  rw [if_neg (by simp [hspec, hstomp]), if_neg (by omega), hbytes]
  unfold specTail
  rw [hp']

/-! ### The stomp of an uncorrectable read (R207) -/

/-- Only the Haul scheduler changes. -/
def HaulOnly (s s' : State) : Prop := s' = { s with haul := s'.haul }

/-- What refunds a transmission: the ports stay, and so do the frames and the hold of every queue. -/
structure RefundOnly (s s' : State) : Prop where
  haul : HaulOnly s s'
  ports : s'.haul.ports = s.haul.ports
  wf : tblWf QueueRec.reset s.haul.queues = true → tblWf QueueRec.reset s'.haul.queues = true
  frames : tblWf QueueRec.reset s.haul.queues = true → ∀ q, (getQueue s' q).frames = (getQueue s q).frames

theorem HaulOnly.trans {s s' s'' : State} (h : HaulOnly s s') (h' : HaulOnly s' s'') : HaulOnly s s'' := by
  unfold HaulOnly at *
  rw [h', h]

theorem RefundOnly.refl (s : State) : RefundOnly s s := ⟨rfl, rfl, id, fun _ _ => rfl⟩

theorem RefundOnly.trans {s s' s'' : State} (h : RefundOnly s s') (h' : RefundOnly s' s'') : RefundOnly s s'' :=
  ⟨h.haul.trans h'.haul, h'.ports.trans h.ports, h'.wf ∘ h.wf, fun hwf q => (h'.frames (h.wf hwf) q).trans (h.frames hwf q)⟩

theorem RefundOnly.foldl {α : Type} {f : State → α → State} (h : ∀ s a, RefundOnly s (f s a)) : ∀ (l : List α) (s : State), RefundOnly s (l.foldl f s)
  | [], s => RefundOnly.refl s
  | a :: l, s => (h s a).trans (RefundOnly.foldl h l (f s a))

theorem chargeNode_refund (s : State) (level i : Nat) (green : Bool) (n : Int) : RefundOnly s (chargeNode s level i green n) :=
  ⟨rfl, rfl, id, fun _ _ => rfl⟩

theorem chargeRelease_refund (s : State) (q : Nat) (n : Int) : RefundOnly s (chargeRelease s q n) := by
  refine ⟨rfl, rfl, fun hwf => tblSet_wf _ _ hwf, fun hwf j => ?_⟩
  have hget : getQueue (chargeRelease s q n) j = if j = q then { refillRelease s q with relT := (refillRelease s q).relT - n } else getQueue s j :=
    tblGet_tblSet hwf q j
  rw [hget]
  split
  · next e => rw [e]; rfl
  · rfl

theorem refundTx_refund (s : State) (t : TxRec) (n : Int) : RefundOnly s (refundTx s t n) := by
  have hpath : RefundOnly s (t.path.foldl (fun s e => chargeNode s e.1 e.2.1 e.2.2 (-n)) s) := RefundOnly.foldl (fun s e => chargeNode_refund ..) _ _
  unfold refundTx
  dsimp only
  split
  · exact hpath.trans (chargeRelease_refund ..)
  · exact hpath

/-- Whether a descriptor is a copy of a chain's frame, and no speculation. -/
def isCopy (h : Nat) (d : Desc) : Bool := d.handle == h && !d.spec

theorem unstart_none {s : State} {m : Nat} {f : TxRec → Bool} (hdec : ∀ u, (getPort s m).decided = some u → f u = false)
    (htx : ∀ u, (getPort s m).tx = some u → f u = false ∨ txBegun s m u = true) : unstart s m f = s := by
  have hfirst : undecide s m f = s := by
    unfold undecide
    cases h : (getPort s m).decided with
    | none => rfl
    | some u => exact if_neg (by rw [hdec u h]; decide)
  rw [unstart_eq, hfirst]
  unfold untake
  cases h : (getPort s m).tx with
  | none => rfl
  | some u => exact if_pos (htx u h)

theorem foldl_stays {α β : Type} {f : β → α → β} {s : β} : ∀ (l : List α), (∀ a ∈ l, f s a = s) → l.foldl f s = s
  | [], _ => rfl
  | a :: l, h => by
    rw [List.foldl_cons, h a List.mem_cons_self]
    exact foldl_stays l fun b hb => h b (List.mem_cons_of_mem _ hb)

theorem filter_none {α : Type} {p : α → Bool} {l : List α} (h : ∀ a ∈ l, p a = false) : l.filter p = [] :=
  List.filter_eq_nil_iff.2 fun a ha => by rw [h a ha]; decide

/-- A chain of which no copy waits on a queue, is decided or stands on a spoil list. -/
structure NoCopies (s : State) (h : Nat) : Prop where
  decided : ∀ m u, (getPort s m).decided = some u → isCopy h u.desc = false
  tx : ∀ m u, (getPort s m).tx = some u → txBegun s m u = true ∨ u.halt = true ∨ isCopy h u.desc = false
  queues : ∀ q, ∀ d ∈ (getQueue s q).frames, isCopy h d = false
  spoil : ∀ m, ∀ e ∈ getSpoil s m, isCopy h e.desc = false
  wf : tblWf [] s.stock.spoil = true

theorem NoCopies.unstart {s : State} {h : Nat} (hn : NoCopies s h) (m : Nat) : unstart s m (fun u => !u.halt && isCopy h u.desc) = s := by
  refine unstart_none (fun u hu => by rw [hn.decided m u hu, Bool.and_false]) (fun u hu => ?_)
  rcases hn.tx m u hu with hb | hh | hc
  · exact .inr hb
  · exact .inl (by rw [hh]; rfl)
  · exact .inl (by rw [hc, Bool.and_false])

theorem dropCopies_none {s : State} {h : Nat} (hn : NoCopies s h) : dropCopies s h = s := by
  have hports : (List.range 64).foldl (fun s m => Machine.unstart s m (fun u => !u.halt && isCopy h u.desc)) s = s :=
    foldl_stays _ fun m _ => hn.unstart m
  have hqueues : (s.haul.queues.map (·.1)).foldl (fun s q =>
      match queuePort s q with
      | some n => ((getQueue s q).frames.filter (isCopy h)).foldl (fun s d =>
          bump (discardDesc (setFrames s q ((getQueue s q).frames.filter (· != d))) n d) .stompEcc n 1) s
      | none => s) s = s := by
    refine foldl_stays _ fun q _ => ?_
    cases queuePort s q with
    | none => rfl
    | some n => dsimp only; rw [filter_none (hn.queues q)]; rfl
  have hspoil : (List.range 64).foldl (fun s m =>
      ((tblGet [] s.stock.spoil m).filter (fun e => isCopy h e.desc)).foldl (fun s e => bump (discardDesc s m e.desc) .stompEcc m 1)
        { s with stock := { s.stock with spoil := tblSet [] s.stock.spoil m ((tblGet [] s.stock.spoil m).filter (fun e => !isCopy h e.desc)) } }) s = s := by
    refine foldl_stays _ fun m _ => ?_
    have hkeep : (tblGet [] s.stock.spoil m).filter (fun e => !isCopy h e.desc) = tblGet [] s.stock.spoil m :=
      List.filter_eq_self.2 fun e he => by rw [hn.spoil m e he]; rfl
    have hgone : (tblGet [] s.stock.spoil m).filter (fun e => isCopy h e.desc) = [] := filter_none (hn.spoil m)
    rw [hkeep, hgone, tblSet_tblGet hn.wf]
    rfl
  unfold dropCopies
  change List.foldl _ (List.foldl _ (List.foldl _ s _) _) _ = s
  rw [show (List.range 64).foldl (fun s m => Machine.unstart s m (fun u => !u.halt && (u.desc.handle == h && !u.desc.spec))) s = s from hports]
  exact (congrArg (List.foldl _ · _) hqueues).trans hspoil

/-- The bytes after which an uncorrectable read stomps a transmission. -/
def stompBytes (s : State) (m : Nat) (x : TxRec) : Nat := min (max (txSent s m x) (min 64 (x.bytes.length - 4))) (x.bytes.length - 4)

theorem exec_stompEcc {s : State} {m : Fin 64} {x : TxRec} (hx : (getPort s m).tx = some x) (hbegun : txBegun s m x = true) (hhalt : x.halt = false)
    (hstomp : x.stomp = none) : exec (.stompEcc m) s = .next (
      let r := refundTx s x (((x.bytes.length : Int) - stompBytes s m x) * 65536)
      dropCopies (bump (setPort r m { getPort r m with tx := some { x with stomp := some (stompBytes s m x) } }) .stompEcc m 1) x.desc.handle) := by
  change Host.Outcome.next (stompEccAt s m) = _
  unfold stompEccAt
  rw [hx]
  dsimp only
  rw [if_neg (by simp [hhalt, hstomp, hbegun])]
  rfl

theorem txBegun_congr {s s' : State} (h : s'.localNs = s.localNs) (m : Nat) (t : TxRec) : txBegun s' m t = txBegun s m t := by
  unfold txBegun
  rw [h]

theorem stompEcc_only {s : State} {m : Fin 64} {x : TxRec} (hx : (getPort s m).tx = some x) (hbegun : txBegun s m x = true) (hhalt : x.halt = false)
    (hstomp : x.stomp = none) (hq : ∀ q, ∀ d ∈ (getQueue s q).frames, isCopy x.desc.handle d = false)
    (hdec : ∀ n u, (getPort s n).decided = some u → isCopy x.desc.handle u.desc = false)
    (htx : ∀ n u, (getPort s n).tx = some u → txBegun s n u = true ∨ u.halt = true ∨ isCopy x.desc.handle u.desc = false)
    (hspoil : ∀ n, ∀ e ∈ getSpoil s n, isCopy x.desc.handle e.desc = false) (hwf : tblWf QueueRec.reset s.haul.queues = true)
    (hswf : tblWf [] s.stock.spoil = true) :
    ∃ s', exec (.stompEcc m) s = .next s' ∧ (getPort s' m).tx = some { x with stomp := some (stompBytes s m x) } ∧
      s'.counters = (bump s .stompEcc m 1).counters ∧ (∀ n, getSpoil s' n = getSpoil s n) ∧
      s' = { s with haul := s'.haul, counters := s'.counters, stock := { s.stock with spoil := s'.stock.spoil } } := by
  have hrefund := refundTx_refund s x (((x.bytes.length : Int) - stompBytes s m x) * 65536)
  have hexec := exec_stompEcc hx hbegun hhalt hstomp
  generalize refundTx s x (((x.bytes.length : Int) - stompBytes s m x) * 65536) = r at hrefund hexec
  obtain ⟨hhaul, hports, -, hframes⟩ := hrefund
  unfold HaulOnly at hhaul
  have hport : ∀ n, getPort r n = getPort s n := fun n => by unfold getPort; rw [hports]
  have hne : { getPort r m with tx := some { x with stomp := some (stompBytes s m x) } } ≠ PortRec.reset m := fun e => by
    have := congrArg PortRec.tx e
    cases this
  have hself : getPort (setPort r m { getPort r m with tx := some { x with stomp := some (stompBytes s m x) } }) m =
      { getPort r m with tx := some { x with stomp := some (stompBytes s m x) } } := tblGet_tblSet_self' _ hne _ _
  have hother : ∀ n, n ≠ m.val → getPort (setPort r m { getPort r m with tx := some { x with stomp := some (stompBytes s m x) } }) n = getPort s n :=
    fun n hn => (tblGet_tblSet_other _ _ _ hn _).trans (hport n)
  have htime : r.localNs = s.localNs := by rw [hhaul]
  have hstock : r.stock = s.stock := by rw [hhaul]
  have hcounters : r.counters = s.counters := by rw [hhaul]
  have hnone : NoCopies (bump (setPort r m { getPort r m with tx := some { x with stomp := some (stompBytes s m x) } }) .stompEcc m 1) x.desc.handle := by
    refine ⟨fun n u hu => ?_, fun n u hu => ?_, fun q d hd => ?_, fun n e he => ?_, ?_⟩
    · by_cases hn : n = m.val
      · subst hn
        exact hdec m u ((congrArg PortRec.decided (hport m)).symm.trans ((congrArg PortRec.decided hself).symm.trans hu))
      · exact hdec n u ((congrArg PortRec.decided (hother n hn)).symm.trans hu)
    · by_cases hn : n = m.val
      · subst hn
        obtain rfl := Option.some.inj ((congrArg PortRec.tx hself).symm.trans hu)
        exact .inl ((txBegun_congr (s := s) htime m _).trans hbegun)
      · refine (htx n u ((congrArg PortRec.tx (hother n hn)).symm.trans hu)).imp_left fun hb => ?_
        exact (txBegun_congr (s := s) htime n u).trans hb
    · exact hq q d ((hframes hwf q) ▸ hd)
    · exact hspoil n e (by rw [← show getSpoil r n = getSpoil s n by unfold getSpoil; rw [hstock]]; exact he)
    · exact (congrArg (fun st : Stock => tblWf [] st.spoil) hstock).trans hswf
  rw [dropCopies_none hnone] at hexec
  refine ⟨_, hexec, congrArg PortRec.tx hself, bump_counters hcounters _ _ _, fun n => ?_, ?_⟩
  · exact congrArg (fun st : Stock => tblGet [] st.spoil n) hstock
  · rw [hhaul]; rfl

/-! ### The end of a transmission (R237, R284) -/

/-- Only the store of frames changes, and no pause that a neighbour asked for. -/
structure StoreKept (s s' : State) : Prop where
  store : StoreOnly s s'
  paused : s'.stock.pfcRx = s.stock.pfcRx

theorem StoreKept.refl (s : State) : StoreKept s s := ⟨rfl, rfl⟩

theorem StoreKept.trans {s s' s'' : State} (h : StoreKept s s') (h' : StoreKept s' s'') : StoreKept s s'' :=
  ⟨h.store.trans h'.store, h'.paused.trans h.paused⟩

theorem StoreKept.foldl {α : Type} {f : State → α → State} (h : ∀ s a, StoreKept s (f s a)) : ∀ (l : List α) (s : State), StoreKept s (l.foldl f s)
  | [], s => StoreKept.refl s
  | a :: l, s => (h s a).trans (StoreKept.foldl h l (f s a))

theorem pfcLevel_storeKept (s : State) (p : Nat) : StoreKept s (pfcLevel s p) := by
  unfold pfcLevel
  dsimp only
  split
  · exact ⟨rfl, rfl⟩
  · refine StoreKept.foldl (fun s k => ?_) _ _
    repeat' split
    all_goals exact ⟨rfl, rfl⟩

theorem freeCell_storeKept (s : State) (c : Nat) : StoreKept s (freeCell s c) := by
  unfold freeCell
  dsimp only
  repeat' split
  all_goals exact ⟨rfl, rfl⟩

theorem freeChain_storeKept (s : State) (first : Nat) : StoreKept s (freeChain s first) := by
  unfold freeChain
  split
  · exact .refl s
  · exact ((StoreKept.foldl freeCell_storeKept _ _).trans (StoreKept.foldl pfcLevel_storeKept _ _)).trans ⟨rfl, rfl⟩

theorem ownFree_storeKept (s : State) (m h : Nat) : StoreKept s ((ownFree s m h).left s) := by
  unfold ownFree
  repeat' split
  case h_1.isFalse.isFalse.isFalse => exact freeChain_storeKept ..
  all_goals exact ⟨rfl, rfl⟩

theorem ownRelease_storeKept (s : State) (h : Nat) : StoreKept s ((ownRelease s h).left s) := by
  unfold ownRelease
  repeat' split
  case h_1.isFalse.isTrue => exact freeChain_storeKept ..
  all_goals exact ⟨rfl, rfl⟩

theorem StoreKept.of_ok {s s' : State} {r : OwnRes} (hr : StoreKept s (r.left s)) (h : r = .ok s') : StoreKept s s' := by
  subst h
  exact hr

theorem dropHold_storeKept (s : State) (h : Nat) : StoreKept s (dropHold s h) := by
  unfold dropHold
  split
  · exact .of_ok (ownFree_storeKept ..) ‹_›
  · split
    · exact .of_ok (ownRelease_storeKept ..) ‹_›
    · exact .refl s

theorem markSpill_storeKept (s : State) (h : Nat) : StoreKept s (markSpill s h) := by
  unfold markSpill
  dsimp only
  repeat' split
  all_goals exact ⟨rfl, rfl⟩

theorem remarkSpill_storeKept (s : State) (h : Nat) : StoreKept s (remarkSpill s h) := by
  unfold remarkSpill
  split
  · exact markSpill_storeKept ..
  · exact .refl s

/-- The counters of an ordinary transmission that ended whole. -/
def countSent (s : State) (m : Nat) (t : TxRec) : State :=
  bump (bump (bump (bump (bump s .templateSkip m t.skips) .txFramesQ t.desc.queue 1) .txBytesQ t.desc.queue t.bytes.length) .txFramesP m 1)
    .txBytesP m t.bytes.length

/-- What the settlement of a whole transmission leaves: the ports and queues, and the counters of the frame. -/
structure Settled (s s' : State) (m : Nat) (t : TxRec) : Prop where
  only : s' = { s with stock := s'.stock, hopper := s'.hopper, counters := s'.counters, events := s'.events,
                       haul := { s.haul with hist := s'.haul.hist } }
  paused : s'.stock.pfcRx = s.stock.pfcRx
  counters : s'.counters = (countSent s m t).counters ∨ s'.counters = (bump (countSent s m t) .tsEgress m 1).counters

theorem Settled.storeKept {s s' s'' : State} {m : Nat} {t : TxRec} (h : Settled s s' m t) (h' : StoreKept s' s'') : Settled s s'' m t := by
  have hstore := h'.store
  have honly := h.only
  unfold StoreOnly at hstore
  have hc : s''.counters = s'.counters := by rw [hstore]
  refine ⟨?_, h'.paused.trans h.paused, ?_⟩
  · rw [hstore, honly]
  · rw [hc]; exact h.counters

/-- The report of a frame's time stamp, where it is asked for. -/
def stampReport (s : State) (m : Nat) (t : TxRec) (payload : Nat × Nat → List Nat) : State := match t.desc.mark with
  | some k => postEvent (bump s .tsEgress m 1) 10 (payload k)
  | none => s

theorem settleTx_eq {s : State} {m : Nat} {t : TxRec} (h : t.stomp = none) : ∃ delay payload, settleTx s m t =
    freeDesc (dropHold (stampReport (addDelay (countSent s m t) m t.tc delay) m t payload) t.desc.handle) t.desc.idx := by
  refine ⟨(shortDiff (txCapture s m t).2 t.desc.rxTime).toNat, fun k => stampPayload m k.2 false (egressStamp m k.1 (txCapture s m t).1), ?_⟩
  unfold settleTx stampReport
  rw [h]
  simp only [Option.isSome_none, Bool.false_eq_true, if_false]
  cases t.desc.mark <;> rfl

/-- Only the counters change. -/
def CountersOnly (s s' : State) : Prop := s' = { s with counters := s'.counters }

theorem CountersOnly.trans {s s' s'' : State} (h : CountersOnly s s') (h' : CountersOnly s' s'') : CountersOnly s s'' := by
  unfold CountersOnly at *
  rw [h', h]

theorem bump_countersOnly (s : State) (c : Ctr) (i n : Nat) : CountersOnly s (bump s c i n) := rfl

theorem countSent_only (s : State) (m : Nat) (t : TxRec) : CountersOnly s (countSent s m t) :=
  ((((bump_countersOnly ..).trans (bump_countersOnly ..)).trans (bump_countersOnly ..)).trans (bump_countersOnly ..)).trans (bump_countersOnly ..)

theorem addDelay_hist (s : State) (m tc d : Nat) : addDelay s m tc d = { s with haul := { s.haul with hist := (addDelay s m tc d).haul.hist } } := rfl

theorem stampReport_settled {s : State} (m : Nat) (t : TxRec) (delay : Nat) (payload : Nat × Nat → List Nat) :
    Settled s (stampReport (addDelay (countSent s m t) m t.tc delay) m t payload) m t := by
  have hcount := countSent_only s m t
  have hdelay := addDelay_hist (countSent s m t) m t.tc delay
  generalize hc : countSent s m t = c at hcount hdelay ⊢
  generalize addDelay c m t.tc delay = u at hdelay ⊢
  have hu : u = { s with counters := c.counters, haul := { s.haul with hist := u.haul.hist } } := by
    unfold CountersOnly at hcount
    rw [hdelay, hcount]
  unfold stampReport
  cases t.desc.mark with
  | none =>
    refine ⟨?_, ?_, .inl ?_⟩
    · rw [hu]
    · rw [hu]
    · rw [hu, hc]
  | some k =>
    dsimp only
    rw [postEvent_counted]
    refine ⟨?_, ?_, .inr ?_⟩
    · rw [hu]; rfl
    · rw [hu]; rfl
    · exact bump_counters (by rw [hu, hc]) _ _ _

theorem settleTx_whole {s : State} {m : Nat} {t : TxRec} (h : t.stomp = none) : Settled s (settleTx s m t) m t := by
  obtain ⟨delay, payload, heq⟩ := settleTx_eq (s := s) (m := m) h
  rw [heq]
  exact ((stampReport_settled m t delay payload).storeKept (dropHold_storeKept _ t.desc.handle)).storeKept ⟨rfl, rfl⟩

/-! ### Counters of a frame sent -/

theorem ctrKey_ne {c c' : Ctr} (h : c.place.1 ≠ c'.place.1 ∨ c.place.2.1 ≠ c'.place.2.1) {i i' : Nat} (hi : i < 2 ^ 20) (hi' : i' < 2 ^ 20) :
    ctrKey c i ≠ ctrKey c' i' := by
  have hc := c.place_lt
  have hc' := c'.place_lt
  unfold ctrKey
  omega

theorem bump_wf {s : State} (h : tblWf 0 s.counters = true) (c : Ctr) (i n : Nat) : tblWf 0 (bump s c i n).counters = true := tblSet_wf _ _ h

/-- What the counters of a frame read once it is counted. -/
structure Sent (s s' : State) (m : Nat) (t : TxRec) : Prop where
  framesQ : getCtr s' .txFramesQ t.desc.queue = (getCtr s .txFramesQ t.desc.queue + 1) % 2 ^ 64
  bytesQ : getCtr s' .txBytesQ t.desc.queue = (getCtr s .txBytesQ t.desc.queue + t.bytes.length) % 2 ^ 64
  framesP : getCtr s' .txFramesP m = (getCtr s .txFramesP m + 1) % 2 ^ 64
  bytesP : getCtr s' .txBytesP m = (getCtr s .txBytesP m + t.bytes.length) % 2 ^ 64

theorem countSent_sent {s : State} {m : Nat} {t : TxRec} (hwf : tblWf 0 s.counters = true) (hm : m < 2 ^ 20) (hq : t.desc.queue < 2 ^ 20) :
    Sent s (countSent s m t) m t := by
  have h1 := bump_wf hwf .templateSkip m t.skips
  have h2 := bump_wf h1 .txFramesQ t.desc.queue 1
  have h3 := bump_wf h2 .txBytesQ t.desc.queue t.bytes.length
  have h4 := bump_wf h3 .txFramesP m 1
  unfold countSent
  refine ⟨?_, ?_, ?_, ?_⟩
  · rw [getCtr_bump_ne _ _ (ctrKey_ne (by decide) hq hm), getCtr_bump_ne _ _ (ctrKey_ne (by decide) hq hm),
      getCtr_bump_ne _ _ (ctrKey_ne (by decide) hq hq), getCtr_bump_self h1, getCtr_bump_ne _ _ (ctrKey_ne (by decide) hq hm)]
  · rw [getCtr_bump_ne _ _ (ctrKey_ne (by decide) hq hm), getCtr_bump_ne _ _ (ctrKey_ne (by decide) hq hm), getCtr_bump_self h2,
      getCtr_bump_ne _ _ (ctrKey_ne (by decide) hq hq), getCtr_bump_ne _ _ (ctrKey_ne (by decide) hq hm)]
  · rw [getCtr_bump_ne _ _ (ctrKey_ne (by decide) hm hm), getCtr_bump_self h3, getCtr_bump_ne _ _ (ctrKey_ne (by decide) hm hq),
      getCtr_bump_ne _ _ (ctrKey_ne (by decide) hm hq), getCtr_bump_ne _ _ (ctrKey_ne (by decide) hm hm)]
  · rw [getCtr_bump_self h4, getCtr_bump_ne _ _ (ctrKey_ne (by decide) hm hm), getCtr_bump_ne _ _ (ctrKey_ne (by decide) hm hq),
      getCtr_bump_ne _ _ (ctrKey_ne (by decide) hm hq), getCtr_bump_ne _ _ (ctrKey_ne (by decide) hm hm)]

theorem Sent.bump {s s' : State} {m : Nat} {t : TxRec} (h : Sent s s' m t) (hm : m < 2 ^ 20) (hq : t.desc.queue < 2 ^ 20) :
    Sent s (bump s' .tsEgress m 1) m t := by
  refine ⟨?_, ?_, ?_, ?_⟩
  · rw [getCtr_bump_ne _ _ (ctrKey_ne (by decide) hq hm)]; exact h.framesQ
  · rw [getCtr_bump_ne _ _ (ctrKey_ne (by decide) hq hm)]; exact h.bytesQ
  · rw [getCtr_bump_ne _ _ (ctrKey_ne (by decide) hm hm)]; exact h.framesP
  · rw [getCtr_bump_ne _ _ (ctrKey_ne (by decide) hm hm)]; exact h.bytesP

theorem getCtr_congr {s s' : State} (h : s'.counters = s.counters) (c : Ctr) (i : Nat) : getCtr s' c i = getCtr s c i := by
  unfold getCtr; rw [h]

theorem Sent.congr {s r s' u : State} {m : Nat} {t : TxRec} (h : Sent s s' m t) (hr : r.counters = s.counters) (hu : u.counters = s'.counters) : Sent r u m t := by
  refine ⟨?_, ?_, ?_, ?_⟩ <;> rw [getCtr_congr hu, getCtr_congr hr]
  · exact h.framesQ
  · exact h.bytesQ
  · exact h.framesP
  · exact h.bytesP

theorem Settled.sent {s s' : State} {m : Nat} {t : TxRec} (h : Settled s s' m t) (hwf : tblWf 0 s.counters = true) (hm : m < 2 ^ 20)
    (hq : t.desc.queue < 2 ^ 20) : Sent s s' m t := by
  rcases h.counters with hc | hc
  · exact (countSent_sent hwf hm hq).congr rfl hc
  · exact ((countSent_sent hwf hm hq).bump hm hq).congr rfl hc

/-! ### The frame that follows -/

/-- What puts a frame back leaves: the ports and the counters. -/
def PutOnly (s s' : State) : Prop := s' = { s with stock := s'.stock, face := s'.face, haul := { s'.haul with ports := s.haul.ports } }

theorem PutOnly.trans {s s' s'' : State} (h : PutOnly s s') (h' : PutOnly s' s'') : PutOnly s s'' := by
  unfold PutOnly at *
  rw [h', h]

theorem PutOnly.ports {s s' : State} (h : PutOnly s s') : s'.haul.ports = s.haul.ports := by
  unfold PutOnly at h
  have hports := congrArg (fun s : State => s.haul.ports) h
  exact hports

theorem PutOnly.counters {s s' : State} (h : PutOnly s s') : s'.counters = s.counters := by
  unfold PutOnly at h
  have hcounters := congrArg State.counters h
  exact hcounters

theorem PutOnly.localNs {s s' : State} (h : PutOnly s s') : s'.localNs = s.localNs := by
  unfold PutOnly at h
  have hclock := congrArg State.localNs h
  exact hclock

theorem RefundOnly.putOnly {s s' : State} (h : RefundOnly s s') : PutOnly s s' := by
  have hports := h.ports
  have hhaul := h.haul
  unfold HaulOnly at hhaul
  unfold PutOnly
  generalize s'.haul = g at hports hhaul ⊢
  rw [hhaul, ← hports]

theorem joinList_putOnly (s : State) (level i : Nat) : PutOnly s (joinList s level i) := by
  unfold joinList
  dsimp only
  split <;> rfl

theorem setFrames_putOnly (s : State) (q : Nat) (d : Desc) (l : List Desc) : PutOnly s (setFrames s q (d :: l)) := by
  unfold setFrames
  dsimp only
  have hset : ∀ x, PutOnly s (setQueue s q x) := fun _ => rfl
  rw [if_neg (by simp)]
  split
  · unfold joinUp
    exact (hset _).trans (((joinList_putOnly ..).trans (joinList_putOnly ..)).trans (joinList_putOnly ..))
  · exact hset _

theorem putBack_putOnly (s : State) (m : Nat) (t : TxRec) : PutOnly s (putBack s m t) := by
  have hmark : ∀ u h, PutOnly u (markSpill u h) := fun u h => by
    unfold markSpill
    dsimp only
    repeat' split
    all_goals rfl
  have hpn : ∀ u, PutOnly u (restorePn u m t) := fun _ => rfl
  unfold putBack
  dsimp only
  split
  · exact (((refundTx_refund ..).putOnly.trans (hpn _)).trans (setFrames_putOnly ..)).trans (hmark _ _)
  · exact ((refundTx_refund ..).putOnly.trans (hpn _)).trans (setFrames_putOnly ..)

/-- The state of a transmitter whose frame has left: free after the gap. -/
def freePort (p : PortRec) (m : Nat) (t : TxRec) (free : Nat) : PortRec :=
  { p with tx := none, freeAt := free, lastSent := some (sentBytes m t, tailMark m t) }

theorem finishTx_whole {s : State} {m : Nat} {t : TxRec} (hspec : t.desc.spec = false) (hhalt : t.halt = false) (hstomp : t.stomp = none) :
    ∃ u, Settled (setPort s m (freePort (getPort s m) m t (s.localNs + lineNs s m 12))) u m t ∧
      finishTx s m t = if (getPort s m).haltQ.isEmpty then beginDecided u m (s.localNs + lineNs s m 12) else u := by
  refine ⟨_, (settleTx_whole hstomp).storeKept (remarkSpill_storeKept _ t.desc.handle), ?_⟩
  unfold finishTx freePort
  dsimp only
  rw [hspec, hhalt]
  rfl

theorem gateAt_none (s : State) (dt : Nat) : gateAt s GateState.none dt = (none, none) := rfl

theorem gateSpan_none (s : State) (tc fuel dt left : Nat) : gateSpan s GateState.none tc (fuel + 1) dt left = true := by
  unfold gateSpan
  rw [gateAt_none]
  exact ite_self _

theorem gateOpen_none (s : State) (tc dt : Nat) : gateOpen s GateState.none tc dt = true := rfl

theorem pfcPaused_later {s u : State} {m tc : Nat} (hrx : u.stock.pfcRx = s.stock.pfcRx) (hle : s.localNs ≤ u.localNs) (h : pfcPaused s m tc = false) :
    pfcPaused u m tc = false := by
  unfold pfcPaused at *
  rw [hrx]
  cases hx : tblGet none s.stock.pfcRx (8 * (m - 48) + tc) with
  | none => exact Bool.and_false _
  | some x =>
    rw [hx] at h
    dsimp only at h ⊢
    by_cases hends : u.localNs < x.ends
    · rw [decide_eq_true (show s.localNs < x.ends by omega)] at h
      rw [decide_eq_true hends]
      exact h
    · rw [decide_eq_false hends, Bool.and_false]

/-- What a decided frame that nothing keeps from its start asks of its port, at the instant of the decision and later. -/
structure MayFollow (s : State) (m : Nat) (d : TxRec) : Prop where
  up : portUp s m = true
  real : d.desc.spec = false
  running : pfcPaused s m d.tc = false
  released : (getQueue s d.desc.queue).hold ≠ .holding
  single : d.express = true ∨ (getPort s m).preempted = none
  ungated : 56 ≤ m ∨ getGates s m = GateState.none

theorem MayFollow.mayBegin {s : State} {m : Nat} {d : TxRec} (h : MayFollow s m d) (start : Nat) : mayBegin s m d start = true := by
  unfold Machine.mayBegin
  generalize start - s.localNs = k
  have hrun : pfcPaused (advance s k) m d.tc = false := pfcPaused_later (s := s) rfl (Nat.le_add_right _ _) h.running
  have hup : portUp (advance s k) m = true := h.up
  have hhold : ((getQueue (advance s k) d.desc.queue).hold != .holding) = true := bne_iff_ne.2 h.released
  have hsingle : (d.express || (getPort (advance s k) m).preempted.isNone) = true := by
    rcases h.single with he | hp
    · rw [he]; rfl
    · rw [show (getPort (advance s k) m).preempted = none from hp]; exact Bool.or_true _
  have hgate : (decide (56 ≤ m) || (if d.express then gateSpan (advance s k) (getGates (advance s k) m) d.tc (16383 * 1000) 0
      (lineNs (advance s k) m (8 + d.bytes.length)) else gateOpen (advance s k) (getGates (advance s k) m) d.tc 0)) = true := by
    rcases h.ungated with hm | hg
    · rw [decide_eq_true hm]; rfl
    · rw [show getGates (advance s k) m = GateState.none from hg, gateOpen_none, gateSpan_none _ _ (16383 * 1000 - 1)]
      simp
  dsimp only
  rw [hup, h.real, hrun, hhold, hsingle, hgate]
  rfl

/-- What the start of a decided frame, or its return to its queue, leaves of the port. -/
theorem beginDecided_some {u : State} {m free : Nat} {d : TxRec} (hd : (getPort u m).decided = some d) (hsent : (getPort u m).lastSent ≠ none) :
    getPort (beginDecided u m free) m =
      { getPort u m with tx := if mayBegin u m d free then some { d with start := free, first := free } else (getPort u m).tx, decided := none } ∧
    (beginDecided u m free).counters = u.counters ∧ (beginDecided u m free).localNs = u.localNs := by
  have hne : ∀ x y, { getPort u m with tx := x, decided := y } ≠ PortRec.reset m := fun x y e => hsent (congrArg PortRec.lastSent e)
  unfold beginDecided
  dsimp only
  rw [hd]
  dsimp only
  split
  · exact ⟨tblGet_tblSet_self' _ (hne _ _) _ _, rfl, rfl⟩
  · have hput := putBack_putOnly (setPort u m { getPort u m with decided := none }) m d
    have hself : getPort (setPort u m { getPort u m with decided := none }) m = { getPort u m with decided := none } :=
      tblGet_tblSet_self' _ (hne (getPort u m).tx none) _ _
    exact ⟨(congrArg (tblGet (PortRec.reset m) · m) hput.ports).trans hself, hput.counters, hput.localNs⟩

theorem exec_frameTxEnd {s : State} {m : Fin 64} {x : TxRec} (hx : (getPort s m).tx = some x) (h57 : m.val ≠ 57) (hm : m.val < 59)
    (hspec : x.desc.spec = false) (hstomp : x.stomp = none) :
    exec (.frameTxEnd m) s = .next (finishTx (advance s (x.start + lineNs s m (8 + x.bytes.length - x.done) - s.localNs)) m x) := by
  have hbytes : txLineBytes x = 8 + x.bytes.length - x.done := by unfold txLineBytes; rw [hstomp]
  change Host.Outcome.next (frameTxEnd s m) = _
  unfold frameTxEnd
  rw [hx]
  dsimp only
  rw [if_neg (by omega), if_neg (by simp [hspec]), hx]
  dsimp only
  rw [hbytes]

/-- What the end of a whole transmission leaves, at the instant at which it ends. -/
theorem finishTx_leaves {s : State} {m : Nat} {x : TxRec} (hm : m < 2 ^ 20) (hspec : x.desc.spec = false) (hstomp : x.stomp = none) (hhalt : x.halt = false)
    (hq : x.desc.queue < 2 ^ 20) (hwf : tblWf 0 s.counters = true) :
    let free := s.localNs + lineNs s m 12
    let s' := finishTx s m x
    s'.localNs = s.localNs ∧ (getPort s' m).freeAt = free ∧
      ((getPort s m).haltQ ≠ [] ∨ (getPort s m).decided = none → (getPort s' m).tx = none) ∧
      (∀ d, (getPort s m).decided = some d → (getPort s' m).tx = none ∨ (getPort s' m).tx = some { d with start := free, first := free }) ∧
      (∀ d, (getPort s m).decided = some d → (getPort s m).haltQ = [] → MayFollow s m d → (getPort s' m).tx = some { d with start := free, first := free }) ∧
      (getPort s' m).lastSent = some (protectedBytes x.sa x.bytes, .whole) ∧ Sent s s' m x := by
  intro free s'
  obtain ⟨u, hsettled, hfinish⟩ := finishTx_whole (s := s) (m := m) hspec hhalt hstomp
  have hsent := hsettled.sent hwf hm hq
  have honly := hsettled.only
  have hpaused := hsettled.paused
  have hport : getPort u m = freePort (getPort s m) m x free := by
    have hne : freePort (getPort s m) m x free ≠ PortRec.reset m := fun e => by cases congrArg PortRec.lastSent e
    refine Eq.trans ?_ (tblGet_tblSet_self' _ hne s.haul.ports m)
    unfold getPort
    rw [honly]; rfl
  have hlast : (some (sentBytes m x, tailMark m x)) = some (protectedBytes x.sa x.bytes, TailMark.whole) := by
    unfold sentBytes tailMark
    rw [hstomp]
  have htime : u.localNs = s.localNs := by rw [honly]; rfl
  have hfollow : ∀ d, MayFollow s m d → MayFollow u m d := by
    intro d hd
    refine ⟨?_, hd.real, ?_, ?_, ?_, ?_⟩
    · rw [honly]; exact hd.up
    · exact pfcPaused_later (s := s) hpaused htime.ge hd.running
    · rw [honly]; exact hd.released
    · rw [hport]; exact hd.single
    · rw [honly]; exact hd.ungated
  have hs' : s' = if (getPort s m).haltQ.isEmpty then beginDecided u m free else u := hfinish
  clear_value s'
  cases hh : (getPort s m).haltQ with
  | cons h l =>
    rw [hh] at hs'
    obtain rfl : s' = u := hs'
    rw [hport]
    exact ⟨htime, rfl, fun _ => rfl, fun _ _ => .inl rfl, fun _ _ he => absurd he (List.cons_ne_nil _ _), hlast, hsent.congr rfl rfl⟩
  | nil =>
    rw [hh] at hs'
    obtain rfl : s' = beginDecided u m free := hs'
    cases hd : (getPort s m).decided with
    | none =>
      have hidle : beginDecided u m free = u := by
        unfold beginDecided
        dsimp only
        rw [hport]
        unfold freePort
        dsimp only
        rw [hd]
      rw [hidle, hport]
      exact ⟨htime, rfl, fun _ => rfl, fun _ e => absurd e.symm (Option.some_ne_none _), fun _ e => absurd e.symm (Option.some_ne_none _), hlast,
        hsent.congr rfl rfl⟩
    | some d =>
      have hdec : (getPort u m).decided = some d := by rw [hport]; exact hd
      have hsome : (getPort u m).lastSent ≠ none := by rw [hport]; exact Option.some_ne_none _
      obtain ⟨hbegun, hcounters, hclock⟩ := beginDecided_some (free := free) hdec hsome
      rw [hport] at hbegun
      refine ⟨hclock.trans htime, by rw [hbegun]; rfl, fun h => ?_, fun e he => ?_, fun e he _ hmay => ?_, by rw [hbegun]; exact hlast, hsent.congr rfl hcounters⟩
      · exact absurd h (by simp)
      · cases he
        rw [hbegun]
        dsimp only
        split
        · exact .inr rfl
        · exact .inl rfl
      · cases he
        rw [hbegun]
        dsimp only
        rw [if_pos ((hfollow d hmay).mayBegin free)]

/-- Settles O33: a transmission that ends is settled before the frame that follows (`finishTx_leaves`), a read that stomps one finds no
copy to drop (`dropCopies_none`), and the lists of a gate are settled at the instant to which the clock runs. -/
theorem transmissionAndGates : Obligations.TransmissionAndGates := by
  unfold Obligations.TransmissionAndGates
  refine ⟨⟨?_, ?_, ?_⟩, ?_, ?_, ?_⟩
  · intro s m x hx h57 hm hspec hstomp hhalt hq hwf t free
    have hclock : t = (advance s (x.start + lineNs s m (8 + x.bytes.length - x.done) - s.localNs)).localNs := by
      change max s.localNs _ = s.localNs + _
      omega
    have hexec := exec_frameTxEnd hx h57 hm hspec hstomp
    obtain ⟨htime, hfree, hidle, hnext, hmay, hlast, hsent⟩ := finishTx_leaves (s := advance s (x.start + lineNs s m (8 + x.bytes.length - x.done) - s.localNs))
      (m := m) (by omega) hspec hstomp hhalt (by omega) hwf
    have hstart : (advance s (x.start + lineNs s m (8 + x.bytes.length - x.done) - s.localNs)).localNs +
        lineNs (advance s (x.start + lineNs s m (8 + x.bytes.length - x.done) - s.localNs)) m 12 = free := by rw [← hclock]; rfl
    rw [hstart] at hfree hnext hmay
    refine ⟨_, hexec, htime.trans hclock.symm, hfree, hidle, hnext, ?_, hlast, hsent.framesQ, hsent.bytesQ, hsent.framesP, hsent.bytesP⟩
    intro d hd hempty hup hreal hpause hhold hsingle hgate
    exact hmay d hd hempty ⟨hup, hreal, pfcPaused_later (s := s) rfl (Nat.le_add_right _ _) hpause, hhold, hsingle, hgate⟩
  · intro s m x p hx hm hspec hstomp hp
    exact exec_specTailPoint hx hm hspec hstomp hp
  · intro s m x hx hbegun hhalt hstomp other hqueues hdec htx hspoil hwf hswf k
    have hcopy : ∀ d, other d → isCopy x.desc.handle d = false := by
      rintro d (hne | hspec)
      · unfold isCopy; rw [beq_eq_false_iff_ne.2 hne]; rfl
      · unfold isCopy; rw [hspec]; exact Bool.and_false _
    refine stompEcc_only hx hbegun hhalt hstomp (fun q d hd => hcopy d ?_) (fun n u hu => hcopy _ (hdec n u hu))
      (fun n u hu => (htx n u hu).imp_right (Or.imp_right (hcopy _))) (fun n e he => hcopy _ ?_) hwf hswf
    · by_cases hq : ∃ e ∈ s.haul.queues, e.1 = q
      · obtain ⟨e, he, rfl⟩ := hq
        exact hqueues e he d hd
      · have hreset : getQueue s q = QueueRec.reset := tblGet_none _ _ fun e he h => hq ⟨e, he, h⟩
        rw [hreset] at hd
        exact absurd hd List.not_mem_nil
    · exact hspoil n e he
  · exact fun s m n hn htx => exec_gateChange hn htx
  · intro s m l st n hp b hrun hslew hrate hn h0 hbound htx hwf
    exact exec_gateListTakeover hp hrun hslew hrate hn h0 hbound htx hwf
  · exact fun s g l st n _ hp hn hwf => exec_streamGateChange hp hn hwf

end Sys2Proof.Machine
end

section
/-! PROOFS. What a free transmitter starts (R263, R266, R281, R282, R287). -/

namespace Sys2Proof.Machine

theorem takePn_plain {s : State} {m : Nat} (h : txSa s m = none) : takePn s m = (s, none) := by
  unfold takePn; rw [h]

theorem txSa_congr {s s' : State} (h : s'.face = s.face) (m : Nat) : txSa s' m = txSa s m := by
  unfold txSa; rw [h]

theorem getPort_setPort_tx {s : State} {m : Nat} {p : PortRec} (h : p.tx ≠ none) : getPort (setPort s m p) m = p :=
  tblGet_tblSet_self' _ (fun e => h (congrArg PortRec.tx e)) _ _

/-- What PLCA's account of an opportunity leaves: only the cycles of PLCA change. -/
theorem plcaSpend_only (s : State) (m : Nat) : plcaSpend s m = { s with face := { s.face with plca := (plcaSpend s m).face.plca } } := by
  unfold plcaSpend
  dsimp only
  repeat' split
  all_goals rfl

theorem plcaSpend_port (s : State) (m j : Nat) : getPort (plcaSpend s m) j = getPort s j := by
  rw [plcaSpend_only]; rfl

theorem plcaSpend_queue (s : State) (m q : Nat) : getQueue (plcaSpend s m) q = getQueue s q := by
  rw [plcaSpend_only]; rfl

theorem plcaSpend_localNs (s : State) (m : Nat) : (plcaSpend s m).localNs = s.localNs := by
  rw [plcaSpend_only]

/-- A halt frame in transmission from an instant. -/
def haltTx (b : List Byte) (start : Nat) : TxRec :=
  { desc := haltDesc, bytes := b, start := start, done := 0, express := true, path := [], tc := 7, reads := [], stomp := none,
    halt := true, sa := none, first := start, cap := none, parked := false, skips := 0, released := false }

theorem startHalt_plain {s : State} {m : Nat} (h : txSa s m = none) (start : Nat) (b : List Byte) (rest : List (List Byte)) :
    startHalt s m start b rest = setPort s m { getPort s m with tx := some (haltTx b start), haltQ := rest } := by
  unfold startHalt
  rw [h, takePn_plain h]
  rfl

/-- The state at which a request is decided. -/
def decisionClock (s : State) (m : Nat) : State := advance s ((getPort s m).freeAt - 128 - s.localNs)

/-- The decision of a transmitter without a frame. -/
theorem haulDecision_free {s : State} {m : Nat} (hsafe : s.triad.safe = false) (htx : (getPort s m).tx = none) (hplca : plcaWaits s m = false) :
    haulDecision s m = plcaSpend (match (getPort s m).haltQ with
      | b :: rest => startHalt (decisionClock s m) m (max (decisionClock s m).localNs (getPort s m).freeAt) b rest
      | [] =>
        let r := beginDecided (decisionClock s m) m (max (decisionClock s m).localNs (getPort s m).freeAt)
        if (getPort r m).tx.isSome then r
        else if (getPort s m).preempted.isSome then
          let d := decideAt r m true (max (decisionClock s m).localNs (getPort s m).freeAt)
          if d.2 then d.1
          else if (getGates r m).hold then d.1 else resumeFrame d.1 m (max (decisionClock s m).localNs (getPort s m).freeAt)
        else (decideAt r m false (max (decisionClock s m).localNs (getPort s m).freeAt)).1) m := by
  unfold haulDecision isSafe
  dsimp only
  rw [if_neg (by rw [hsafe]; decide), htx]
  dsimp only
  rw [if_neg (by rw [hplca]; decide)]
  cases (getPort s m).haltQ <;> rfl

theorem haulDecision_halt {s : State} {m : Nat} {h : List Byte} {l : List (List Byte)} (hsafe : s.triad.safe = false) (hsa : txSa s m = none)
    (htx : (getPort s m).tx = none) (hplca : plcaWaits s m = false) (hq : (getPort s m).haltQ = h :: l) :
    let a := decisionClock s m
    let p := { getPort s m with tx := some (haltTx h (max a.localNs (getPort s m).freeAt)), haltQ := l }
    getPort (haulDecision s m) m = p ∧ (∀ j, j ≠ m → getPort (haulDecision s m) j = getPort s j) ∧
      haulDecision s m = { a with haul := { s.haul with ports := (haulDecision s m).haul.ports }
                                  face := { s.face with plca := (haulDecision s m).face.plca } } := by
  intro a p
  have hexec : haulDecision s m = plcaSpend (setPort a m p) m := by
    rw [haulDecision_free hsafe htx hplca, hq]
    exact congrArg (plcaSpend · m) (startHalt_plain (s := a) hsa _ _ _)
  have honly := plcaSpend_only (setPort a m p) m
  rw [hexec]
  refine ⟨?_, fun j hj => ?_, ?_⟩
  · rw [plcaSpend_port]
    exact getPort_setPort_tx (Option.some_ne_none _)
  · rw [plcaSpend_port]
    exact tblGet_tblSet_other _ _ _ hj _
  · rw [honly]; rfl

theorem haulDecision_decided {s : State} {m : Nat} {x : TxRec} (hsafe : s.triad.safe = false) (htx : (getPort s m).tx = none)
    (hplca : plcaWaits s m = false) (hq : (getPort s m).haltQ = []) (hx : (getPort s m).decided = some x)
    (hmay : mayBegin (decisionClock s m) m x (max (decisionClock s m).localNs (getPort s m).freeAt) = true) :
    getPort (haulDecision s m) m = { getPort s m with
      tx := some (beginAt x (max (decisionClock s m).localNs (getPort s m).freeAt)), decided := none } := by
  have hdec : (getPort (decisionClock s m) m).decided = some x := hx
  have hbegin : beginDecided (decisionClock s m) m (max (decisionClock s m).localNs (getPort s m).freeAt) =
      setPort (decisionClock s m) m { getPort s m with
        tx := some (beginAt x (max (decisionClock s m).localNs (getPort s m).freeAt)), decided := none } := by
    unfold beginDecided
    dsimp only
    rw [hdec]
    exact if_pos hmay
  have hport := getPort_setPort_tx (s := decisionClock s m) (m := m)
    (p := { getPort s m with tx := some (beginAt x (max (decisionClock s m).localNs (getPort s m).freeAt)), decided := none }) (Option.some_ne_none _)
  rw [haulDecision_free hsafe htx hplca, hq, plcaSpend_port]
  dsimp only
  rw [hbegin, hport]
  exact hport

/-- The state whose queues a decision walks: at the instant of the start, without the heads that can never leave. -/
def purgedAt (s : State) (m start : Nat) : State :=
  (portQueues (advance s (start - s.localNs)) m).foldl (fun s q => purgeQueue m q (getQueue s q).frames.length s) (advance s (start - s.localNs))

/-- A decision, as the state of its start, from what the walk gives. -/
def walked (a : State) (m : Nat) (r : State × Option ((Nat × Bool) × (Nat × Bool) × (Nat × Bool))) : State := match r with
  | (s2, some (v, u, q)) => { startFrame s2 m v u q with localNs := a.localNs, time := a.time }
  | (s2, none) => { s2 with localNs := a.localNs, time := a.time }

theorem decideAt_walked (a : State) (m start : Nat) : (decideAt a m false start).1 = walked a m (walk (purgedAt a m start) m) := by
  unfold decideAt decideFree
  dsimp only
  rw [← purgedAt]
  rcases walk (purgedAt a m start) m with ⟨s2, _ | ⟨v, u, q⟩⟩ <;> rfl

theorem haulDecision_walks {s : State} {m : Nat} (hsafe : s.triad.safe = false) (htx : (getPort s m).tx = none) (hplca : plcaWaits s m = false)
    (hq : (getPort s m).haltQ = []) (hdec : (getPort s m).decided = none) (hpre : (getPort s m).preempted = none) :
    let a := decisionClock s m
    haulDecision s m = plcaSpend (walked a m (walk (purgedAt a m (max a.localNs (getPort s m).freeAt)) m)) m := by
  intro a
  have hidle : beginDecided a m (max a.localNs (getPort s m).freeAt) = a := by
    have hnone : (getPort a m).decided = none := hdec
    unfold beginDecided
    dsimp only
    rw [hnone]
  have htx' : (getPort a m).tx = none := htx
  rw [haulDecision_free hsafe htx hplca, hq, hpre]
  dsimp only
  rw [hidle, htx', decideAt_walked]
  rfl

/-! ### The frame that a decision starts -/

/-- What the charges of a decision leave: the clock, the ports, the associations, and a queue's frames and attachment. -/
structure Charged (s s' : State) (q : Nat) : Prop where
  clock : s'.localNs = s.localNs
  face : s'.face = s.face
  frames : (getQueue s q).attached = true → (getQueue s' q).frames = (getQueue s q).frames
  attached : (getQueue s q).attached = true → (getQueue s' q).attached = true

theorem Charged.refl (s : State) (q : Nat) : Charged s s q := ⟨rfl, rfl, fun _ => rfl, id⟩

theorem Charged.trans {s s' s'' : State} {q : Nat} (h : Charged s s' q) (h' : Charged s' s'' q) : Charged s s'' q :=
  ⟨h'.clock.trans h.clock, h'.face.trans h.face, fun ha => (h'.frames (h.attached ha)).trans (h.frames ha), fun ha => h'.attached (h.attached ha)⟩

theorem Charged.foldl {α : Type} {q : Nat} {f : State → α → State} (h : ∀ s a, Charged s (f s a) q) : ∀ (l : List α) (s : State), Charged s (l.foldl f s) q
  | [], s => Charged.refl s q
  | a :: l, s => (h s a).trans (Charged.foldl h l (f s a))

theorem chargeDef_charged (s : State) (level i : Nat) (n : Int) (q : Nat) : Charged s (chargeDef s level i n) q := by
  unfold chargeDef
  dsimp only
  repeat' split
  all_goals exact ⟨rfl, rfl, fun _ => rfl, id⟩

theorem chargeNode_charged (s : State) (level i : Nat) (green : Bool) (n : Int) (q : Nat) : Charged s (chargeNode s level i green n) q :=
  ⟨rfl, rfl, fun _ => rfl, id⟩

theorem getQueue_setQueue_attached {s : State} {q : Nat} {x : QueueRec} (h : x.attached = true) : getQueue (setQueue s q x) q = x :=
  tblGet_tblSet_self' _ (fun e => by rw [e] at h; exact absurd h (by decide)) _ _

theorem chargeRelease_charged (s : State) (q : Nat) (n : Int) : Charged s (chargeRelease s q n) q := by
  have hget : (getQueue s q).attached = true → getQueue (chargeRelease s q n) q = { refillRelease s q with relT := (refillRelease s q).relT - n } :=
    fun ha => getQueue_setQueue_attached (x := { refillRelease s q with relT := (refillRelease s q).relT - n }) ha
  refine ⟨rfl, rfl, fun ha => ?_, fun ha => ?_⟩
  · rw [hget ha]; rfl
  · rw [hget ha]; exact ha

theorem leaveUp_queue (s : State) (q j : Nat) : getQueue (leaveUp s q) j = getQueue s j := by
  unfold leaveUp
  dsimp only
  repeat' split
  all_goals rfl

theorem joinUp_queue (s : State) (q j : Nat) : getQueue (joinUp s q) j = getQueue s j := by
  have hjoin : ∀ (u : State) (level i : Nat), (joinList u level i).haul.queues = u.haul.queues := by
    intro u level i
    unfold joinList
    dsimp only
    split <;> rfl
  unfold joinUp getQueue
  dsimp only
  rw [hjoin, hjoin, hjoin]

theorem setFrames_frames {s : State} {q : Nat} (h : (getQueue s q).attached = true) (l : List Desc) : (getQueue (setFrames s q l) q).frames = l := by
  have hset : getQueue (setQueue s q { getQueue s q with frames := l }) q = { getQueue s q with frames := l } :=
    getQueue_setQueue_attached (x := { getQueue s q with frames := l }) h
  have hnormal : ∀ u : State, (getQueue u q).frames = l → (getQueue u q).attached = true →
      (getQueue (setQueue u q { getQueue u q with hold := .normal }) q).frames = l := by
    intro u hu ha
    rw [getQueue_setQueue_attached (x := { getQueue u q with hold := .normal }) ha]
    exact hu
  unfold setFrames
  dsimp only
  split
  · split
    · rw [hset]
    · rw [leaveUp_queue]
      split
      · exact hnormal _ (by rw [hset]) (by rw [hset]; exact h)
      · rw [hset]
  · split
    · rw [joinUp_queue, hset]
    · rw [hset]

theorem unmarkSpill_queue (s : State) (h q : Nat) : getQueue (unmarkSpill s h) q = getQueue s q := by
  unfold unmarkSpill
  split <;> rfl

/-- The state of a decision once the frame is charged to its path. -/
def chargedPath (s : State) (m : Nat) (v u q : Nat × Bool) (n : Int) : State :=
  let s1 := chargeDef (chargeDef (chargeDef s 0 q.1 n) 1 u.1 n) 2 v.1 n
  let s2 := [(0, q.1, q.2), (1, u.1, u.2), (2, v.1, v.2), (3, m, nodeColour s 3 m == .green)].foldl
    (fun s (y : Nat × Nat × Bool) => chargeNode s y.1 y.2.1 y.2.2 (n * 65536)) s1
  if (getQueue s q.1).hold == .releasing then chargeRelease s2 q.1 (n * 65536) else s2

theorem chargedPath_charged (s : State) (m : Nat) (v u q : Nat × Bool) (n : Int) : Charged s (chargedPath s m v u q n) q.1 := by
  have hdef := ((chargeDef_charged s 0 q.1 n q.1).trans (chargeDef_charged _ 1 u.1 n q.1)).trans (chargeDef_charged _ 2 v.1 n q.1)
  have hpath := hdef.trans (Charged.foldl (fun s (y : Nat × Nat × Bool) => chargeNode_charged s y.1 y.2.1 y.2.2 (n * 65536) q.1)
    [(0, q.1, q.2), (1, u.1, u.2), (2, v.1, v.2), (3, m, nodeColour s 3 m == .green)] _)
  unfold chargedPath
  dsimp only
  split
  · exact hpath.trans (chargeRelease_charged ..)
  · exact hpath

/-- The transmission that a decision starts, once its charges are made. -/
def startedTx (s c : State) (m : Nat) (v u q : Nat × Bool) (d : Desc) : TxRec :=
  { desc := d, bytes := (egressBytes s d).1, start := c.localNs, done := 0, express := isExpress c m (getQueue s q.1).tc
    path := [(0, q.1, q.2), (1, u.1, u.2), (2, v.1, v.2), (3, m, nodeColour s 3 m == .green)]
    tc := (getQueue s q.1).tc, reads := txReads c d.handle, stomp := none, halt := false, sa := none, first := c.localNs,
    cap := none, parked := false, skips := (egressBytes s d).2, released := (getQueue s q.1).hold == .releasing }

/-- The frame leaves its queue. -/
def leftQueue (c : State) (q : Nat) (d : Desc) (l : List Desc) : State := unmarkSpill (setFrames c q l) d.handle

theorem startFrame_eq {s c : State} {m : Nat} {v u q : Nat × Bool} {d : Desc} {l : List Desc} (hf : (getQueue s q.1).frames = d :: l)
    (hc : c = chargedPath s m v u q ((((egressBytes s d).1.length : Int)) + (getPort s m).overhead)) (hsa : txSa c m = none) :
    startFrame s m v u q = setPort (leftQueue c q.1 d l) m { getPort (leftQueue c q.1 d l) m with tx := some (startedTx s c m v u q d) } := by
  have htake := takePn_plain hsa
  subst hc
  unfold startFrame
  rw [hf]
  dsimp only
  unfold chargedPath at htake
  dsimp only at htake
  rw [htake]
  rfl

theorem startFrame_starts {s : State} {m : Nat} {v u q : Nat × Bool} {d : Desc} {l : List Desc} (ha : (getQueue s q.1).attached = true)
    (hf : (getQueue s q.1).frames = d :: l) (hsa : txSa s m = none) :
    ∃ x, (getPort (startFrame s m v u q) m).tx = some x ∧ x.desc = d ∧ x.bytes = (egressBytes s d).1 ∧ x.start = s.localNs ∧ x.done = 0 ∧
      x.stomp = none ∧ x.halt = false ∧ (getQueue (startFrame s m v u q) q.1).frames = l := by
  have hcharged := chargedPath_charged s m v u q ((((egressBytes s d).1.length : Int)) + (getPort s m).overhead)
  have heq := startFrame_eq (m := m) (v := v) (u := u) hf rfl ((txSa_congr hcharged.face m).trans hsa)
  generalize chargedPath s m v u q ((((egressBytes s d).1.length : Int)) + (getPort s m).overhead) = c at hcharged heq
  refine ⟨startedTx s c m v u q d, ?_, rfl, rfl, hcharged.clock, rfl, rfl, rfl, ?_⟩
  · rw [heq, getPort_setPort_tx (Option.some_ne_none _)]
  · rw [heq]
    exact (congrArg QueueRec.frames (unmarkSpill_queue ..)).trans (setFrames_frames (hcharged.attached ha) l)

/-! ### A halt frame before a preemptible frame in progress (R282, R287) -/

/-- The state in which a preemptible frame has yielded after k of its bytes, before it is parked. -/
def yieldClock (s : State) (m k : Nat) (x : TxRec) : State := advance s (x.start + lineNs s m (8 + (k - x.done)) - s.localNs)

/-- The parked frame. -/
def parkedTx (s : State) (m k : Nat) (x : TxRec) : TxRec := { x with done := k, parked := true, cap := some (txCapture s m x) }

theorem preemptFrame_parks {s : State} {m k : Nat} {x : TxRec} (hx : (getPort s m).tx = some x) : ∃ u y,
    preemptFrame s m k = setPort u m { getPort s m with tx := none, preempted := some y } ∧ u.face = s.face ∧ getPort u m = getPort s m ∧
      y.done = k ∧ y.desc = x.desc ∧ y.bytes = x.bytes ∧ y.parked = true := by
  unfold preemptFrame
  rw [hx]
  dsimp only
  split
  · exact ⟨yieldClock s m k x, parkedTx (yieldClock s m k x) m k x, rfl, rfl, rfl, rfl, rfl, rfl, rfl⟩
  · exact ⟨bump (yieldClock s m k x) .preempted m 1, parkedTx (bump (yieldClock s m k x) .preempted m 1) m k x, rfl, rfl, rfl, rfl, rfl, rfl, rfl⟩

theorem haulDecision_preempts {s : State} {m k : Nat} {h : List Byte} {l : List (List Byte)} {x : TxRec} (hsafe : s.triad.safe = false)
    (hx : (getPort s m).tx = some x) (hbegun : x.start ≤ s.localNs) (hyield : mayYield s m x = true) (hk : yieldPoint s m x = some k)
    (hq : (getPort s m).haltQ = h :: l) : haulDecision s m = startHalt (preemptFrame s m k) m (preemptFrame s m k).localNs h l := by
  unfold haulDecision isSafe
  dsimp only
  rw [if_neg (by rw [hsafe]; decide), hx]
  dsimp only
  rw [if_neg (by omega), if_pos hyield, hk, hq]

/-- Settles O32: each request is decided at the clock of its decision, and the frame that the walk picks starts once its path is charged
(`startFrame_starts`). -/
theorem haulDecisions : Obligations.HaulDecisions := by
  unfold Obligations.HaulDecisions
  intro s m hsafe hsa a start b s1
  have hexec : exec (.haulDecision m) s = .next (haulDecision s m) := rfl
  rw [hexec]
  refine ⟨fun htx hplca => ⟨?_, ?_, fun hq hdec hpre => ⟨?_, ?_⟩⟩, ?_⟩
  · intro h l hq
    obtain ⟨hport, hother, honly⟩ := haulDecision_halt hsafe hsa htx hplca hq
    exact ⟨_, haltTx h start, rfl, congrArg PortRec.tx hport, congrArg PortRec.haltQ hport, rfl, rfl, rfl, rfl, rfl, rfl, hother, honly⟩
  · intro x hq hx hmay
    have hport := haulDecision_decided hsafe htx hplca hq hx hmay
    exact ⟨_, rfl, congrArg PortRec.tx hport, congrArg PortRec.decided hport⟩
  · intro s2 v u q d l hwalk ha hf hsa2
    obtain ⟨x, hx, hdesc, hbytes, hstart, hdone, hstomp, hhalt, hframes⟩ := startFrame_starts (m := m) (v := v) (u := u) ha hf hsa2
    have hwalks := haulDecision_walks hsafe htx hplca hq hdec hpre
    dsimp only at hwalks
    have hwalk' : walk (purgedAt (decisionClock s m) m (max (decisionClock s m).localNs (getPort s m).freeAt)) m = (s2, some (v, u, q)) := hwalk
    rw [hwalk'] at hwalks
    refine ⟨_, x, rfl, ?_, hdesc, hbytes, hstart, hdone, hstomp, hhalt, ?_, ?_⟩
    · rw [hwalks, plcaSpend_port]; exact hx
    · rw [hwalks, plcaSpend_queue]; exact hframes
    · rw [hwalks, plcaSpend_localNs]; rfl
  · intro s2 hwalk
    have hwalks := haulDecision_walks hsafe htx hplca hq hdec hpre
    dsimp only at hwalks
    have hwalk' : walk (purgedAt (decisionClock s m) m (max (decisionClock s m).localNs (getPort s m).freeAt)) m = (s2, none) := hwalk
    rw [hwalk'] at hwalks
    rw [hwalks]
    rfl
  · intro h l x hx hbegun hexpress hstomp hpre hm hpreempt hverify hq k hlong
    have hyield : mayYield s m x = true := by
      unfold mayYield preemptActive
      simp only [hexpress, hpre, hstomp, hm, bne_iff_ne.2 hpreempt, decide_true, Bool.true_and, Bool.not_false, Option.isNone_none, Bool.and_true]
      cases hv : (getPort s m).verify with
      | false => rfl
      | true => rw [hverify hv]; rfl
    have hk : yieldPoint s m x = some k := if_neg (by omega)
    obtain ⟨u, y, hparks, hface, hport, hdone, hdesc, hbytes, hparked⟩ := preemptFrame_parks (k := k) hx
    have hself : getPort (setPort u m { getPort s m with tx := none, preempted := some y }) m = { getPort s m with tx := none, preempted := some y } :=
      tblGet_tblSet_self' _ (fun e => by cases congrArg PortRec.preempted e) _ _
    have hsa' : txSa (preemptFrame s m k) m = none := by
      rw [hparks]
      exact (txSa_congr (s := s) hface m).trans hsa
    have hdecide := haulDecision_preempts hsafe hx hbegun hyield hk hq
    rw [startHalt_plain hsa', hparks, hself] at hdecide
    have hafter := getPort_setPort_tx (s := setPort u m { getPort s m with tx := none, preempted := some y }) (m := m)
      (p := { getPort s m with tx := some (haltTx h u.localNs), preempted := some y, haltQ := l }) (Option.some_ne_none _)
    rw [hdecide]
    exact ⟨_, haltTx h u.localNs, y, rfl, congrArg PortRec.tx hafter, rfl, rfl, rfl, congrArg PortRec.preempted hafter, hdone, hdesc, hbytes, hparked,
      congrArg PortRec.haltQ hafter⟩

end Sys2Proof.Machine
end

section
/-! PROOFS. A QUEUE_MAP commit at a boundary whose queue holds a speculation of a frame that names another queue: the withdrawal writes that
other queue, and of a table with two records of one index the first gives way to the second (R206, R262). -/

namespace Sys2Proof.Machine

/-- A speculative enqueue of the frame with descriptor 5. -/
def specDesc : Desc := { haltDesc with idx := 5, spec := true, queue := 3 }

/-- The frame that stands as that speculation, and names queue 7. -/
def specFrame : Packet := { markedFrame with desc := 5, spec := .standing, specQueue := 7 }

/-- A QUEUE_MAP object that takes queue 3 off its parent. -/
def detachQueue3 : Obj := { sub := 9, typ := 1, img := leBytes 4 3 ++ leBytes 4 1 ++ leBytes 8 0, arg := 0 }

def detachCommit : Commit := { num := 0, target := 0, objs := [detachQueue3], moves := [], frames := [], sas := [] }

/-- A device at whose next boundary queue 3 is taken off; its queue table has two records of queue 7. -/
def detachState : State := { State.reset with
  bench := { State.reset.bench with running := true }
  gate := { State.reset.gate with committed := [detachCommit] }
  screen := { State.reset.screen with waiting := [specFrame] }
  haul := { State.reset.haul with
    queues := [(3, { QueueRec.reset with attached := true, frames := [specDesc] }), (7, { QueueRec.reset with frames := [specDesc] }),
      (7, { QueueRec.reset with attached := true })]
    subs := [(0, { NodeRec.reset with attached := true })]
    svcs := [(0, { NodeRec.reset with attached := true })] } }

theorem detach_applies : Applies detachState 125000 detachCommit [detachQueue3] where
  boundary :=
    { due := ⟨125000, by decide +kernel⟩
      plain :=
        { commits := rfl
          running := by decide +kernel
          epoch := rfl
          bank := by decide +kernel
          delta := ⟨rfl, by decide +kernel⟩
          quiet := fun h => absurd h (by decide +kernel)
          writes := by decide +kernel
          role := by decide +kernel
          pair := fun _ => by decide +kernel }
      alone := by decide +kernel
      triad := by decide +kernel }
  one := rfl
  target := Nat.zero_le _
  objs := rfl
  plain := ⟨rfl, rfl⟩

/-- The boundary takes the first record of queue 7 away. -/
theorem boundary_uncovers {s' : State} (h : exec .benchTickBoundary detachState = .next s') : (getQueue s' 7).attached = true := by
  have hgone : (match exec .benchTickBoundary detachState with
    | .next t => decide ((getQueue t 7).attached = true)
    | _ => false) = true := by decide +kernel
  rw [h] at hgone
  exact of_decide_eq_true hgone

/-- Refutes O43: the clause of the queues that a QUEUE_MAP does not name asks nothing of the queue table, and where it holds two records
of one index, the withdrawal of a speculation that names it lets the second one stand for the first. -/
theorem not_tickBoundary : ¬ Obligations.TickBoundary := by
  rintro ⟨-, -, -, happlies⟩
  obtain ⟨s', hexec, -, -, -, -, -, -, -, hother, -⟩ := happlies detachState 125000 detachCommit detachQueue3 detach_applies rfl (by decide +kernel)
    (by decide +kernel)
  have hcount : im32 detachQueue3.img 4 = 1 := by decide +kernel
  have hfirst : im32 detachQueue3.img 0 % 2 ^ 19 = 3 := by decide +kernel
  obtain ⟨hattached, -⟩ := hother rfl rfl 7 (fun i hi => by rw [hcount] at hi; rw [hfirst]; omega)
  have hbefore : (getQueue detachState 7).attached = false := by decide +kernel
  rw [boundary_uncovers hexec, hbefore] at hattached
  cases hattached

end Sys2Proof.Machine
end

section
/-! PROOFS. A Follow that becomes lagging and leaves to Rejoin, whose ports flush a queue of an index past those of its counters: the count of
its frames goes where LAG_EVENTS stands (R244, R387, R398). -/

namespace Sys2Proof.Machine

/-- The index whose place among the FLUSHED counters is that of LAG_EVENTS. -/
def strayQueue : Nat := ctrKey .lagEvents 0 - ctrKey .flushed 0

/-- A Follow whose Lead's delta has not come whole, with a frame on that queue, below port node 59. -/
def laggingState : State := { State.reset with
  pair := { State.reset.pair with en := true, role := .follow, lane0 := true, rx := some { tick := 0, chunks := [], ready := false } }
  haul := { State.reset.haul with
    queues := [(strayQueue, { QueueRec.reset with attached := true, frames := [haltDesc] })]
    subs := [(0, { NodeRec.reset with attached := true })]
    svcs := [(0, { NodeRec.reset with attached := true, parent := 59 })] } }

theorem lagging_plain : PlainBoundary { calmed laggingState with
    pair := { laggingState.pair with rx := none, rxMiss := [], lane0 := false, lane1 := false } } where
  commits := rfl
  running := by decide +kernel
  epoch := rfl
  bank := rfl
  delta := ⟨rfl, rfl⟩
  quiet := fun _ _ => ⟨rfl, rfl⟩
  writes := by decide +kernel
  role := by decide +kernel
  pair := fun h => absurd h (by decide +kernel)

/-- The boundary counts the lag, and the frame that it flushes in the same place. -/
theorem boundary_countsTwice {s' : State} (h : exec .benchTickBoundary laggingState = .next s') : getCtr s' .lagEvents 0 = 2 := by
  have htwo : (match exec .benchTickBoundary laggingState with
    | .next t => decide (getCtr t .lagEvents 0 = 2)
    | _ => false) = true := by decide +kernel
  rw [h] at htwo
  exact of_decide_eq_true htwo

/-- Refutes O44: the clause of a lag asks for one more in LAG_EVENTS of every state, and where a queue has an index past those of its
counters the flush of the ports on the way to Rejoin counts there too. -/
theorem not_boundaryEvents : ¬ Obligations.BoundaryEvents := by
  rintro ⟨-, -, -, hpair⟩
  obtain ⟨-, -, hlag⟩ := hpair laggingState 125000 125000 (by decide +kernel) lagging_plain rfl rfl rfl rfl rfl rfl (by decide +kernel) (by decide +kernel) rfl
  obtain ⟨s', hexec, -, -, hcount⟩ := hlag rfl rfl rfl rfl (.inr ⟨_, rfl, rfl⟩)
  rw [boundary_countsTwice hexec] at hcount
  cases hcount

end Sys2Proof.Machine
end
